-- ==== Sys2Proof/Word.lean ====
section
/-!
DEFINITION. The word types of the DZ7416 model and their plainest arithmetic (R4 to R6).
Registers and wire fields are bit vectors; counts, sizes, times and identifiers are natural numbers.
-/

namespace Sys2Proof

/-- A 32-bit register (R10). -/
abbrev Word := BitVec 32

/-- One octet of a frame, a record or a buffer. -/
abbrev Byte := BitVec 8

/-- A string of octets, first octet first. -/
abbrev Bytes := List Byte

/-- A sparse table: entries sorted by key, at most one entry for a key. -/
abbrev Tbl (α : Type) := List (Nat × α)

end Sys2Proof
end

