-- ==== Sys2Proof/Syntax.lean ====
section
/-!
DEFINITION. The commands of the module: one constructor of Instr for each row of the table of operations and events,
with the data that the command carries from outside the module. The table gives its rows no operand fields; the
operands are those that the rule of the row names (log entry 1).
-/
namespace Sys2Proof

/-- The blocks of the register map (R543). -/
inductive Block where
  | hif | tim | bkd | fco | evr | pmc | dup | chu | sep | ctr | lpe | tly | rnd | cyc | fio | kst | upd | glb
deriving DecidableEq, Repr

/-- The two 24 V feeds (R33). -/
inductive Feed where
  | a | b
deriving DecidableEq, Repr

/-- What a power-on reset follows (R63). -/
inductive PorCause where
  | supplyUp | afterHoldup | afterOverTemp | afterPowerdown
deriving DecidableEq, Repr

/-- Who makes a register access (R550). -/
inductive Requester where
  | host | supervisor | corePairA | corePairB
deriving DecidableEq, Repr

/-- An access of the host to BAR0 or BAR2 under the rules of R10 and R83: its byte offset, its size of 1, 2, 4 or 8 bytes and, for a write,
the value. -/
structure Access where
  bar2  : Bool
  addr  : Nat
  size  : Nat
  write : Bool
  value : Nat
deriving DecidableEq, Repr

/-- The ring pair and the submission slot of the descriptor whose operation runs. -/
structure Req where
  pair : Nat
  slot : Nat
deriving DecidableEq, Repr

/-- The fields of a descriptor (R95). -/
structure Desc where
  opcode   : Nat
  flags    : Nat
  version  : Nat
  length   : Nat
  bufAddr  : Nat
  userTag  : Nat
  deadline : Nat
  param    : Bytes
deriving DecidableEq, Repr

/-- The causes of link loss (R117) but for PERST_N, which has a command of its own. -/
inductive LinkCause where
  | linkDown | busMaster
deriving DecidableEq, Repr

/-- Why the read of a descriptor failed (R104). -/
inductive DmaFail where
  | completerAbort | unsupported | poisoned | timeout
deriving DecidableEq, Repr

/-- What the host writes in the configuration space (R81, R113, R117): MSI-X Enable and the Function Mask, Bus Master Enable, or the sizes and
the ASPM state that it sets. -/
inductive CfgWrite where
  | msix (enable mask : Bool)
  | busMaster (on : Bool)
  | device (maxPayload maxRead : Nat) (l1 : Bool)
deriving DecidableEq, Repr

/-- What host software unmasks (R114): the Mask bit of a vector, or with a write of the configuration space the Function Mask. -/
inductive Unmask where
  | vector (v : Nat)
  | config (w : CfgWrite)
deriving DecidableEq, Repr

/-- A received Plynu datagram (R326, R327, R329): whether it is a fragment, over IPv4 and without a checksum, its UDP payload as it stood on the
wire, its source and its receive timestamp. -/
structure Frame where
  fragment : Bool
  ipv4     : Bool
  csumZero : Bool
  data     : Bytes
  srcAddr  : Nat
  srcPort  : Nat
  rxMon    : Nat
deriving DecidableEq, Repr

/-- Kinds of hydraulic branch (R140). -/
inductive BranchKind where
  | pipe | pump | valve | checkValve | resistance | station | plant | store
deriving DecidableEq, Repr

/-- Kinds of node (R120). -/
inductive NodeKind where
  | junction | boundary | plantPort | storePort | stationPort
deriving DecidableEq, Repr

/-- A node of the network model (R120, R121): its declared pressures in Pa and temperatures in mK, and its initial pressure. -/
structure Node where
  mid       : Nat
  net       : Nat
  elevMm    : Int
  kind      : NodeKind
  reference : Bool
  pLo       : Int
  pHi       : Int
  tLo       : Int
  tHi       : Int
  p0        : Int
deriving DecidableEq, Repr

/-- A branch of the network model (R120, R121): `sLo` and `sHi` are the speed range of a pump or the position range of a valve in 0.1 %,
`travelMs` the full-stroke time of a valve, `coef` the head curve, Kvs with the rangeability (0 for linear), or the resistance. -/
structure Branch where
  mid      : Nat
  kind     : BranchKind
  net      : Nat
  fromN    : Nat
  toN      : Nat
  lengthMm : Nat
  diam     : Nat
  rough    : Nat
  lossMw   : Nat
  groundMp : Nat
  groundMk : Int
  coef     : List Int
  sLo      : Int
  sHi      : Int
  travelMs : Nat
  blockPos : Bool
  qLo      : Int
  qHi      : Int
  q0       : Int
  owner    : Nat
deriving DecidableEq, Repr

/-- A station of the network model (R120). -/
structure StationDecl where
  ident       : Nat
  full        : Bool
  bidir       : Bool
  coolSide    : Bool
  contractedW : Nat
  exportW     : Nat
  net         : Nat
  sigFlow     : Nat
  sigPress    : Nat
  sigTemp     : Nat
  kFlow       : Nat
  kWarm       : Nat
  kCool       : Nat
  priorW      : List Int
deriving DecidableEq, Repr

/-- A measurement point of the network model (R120, R147). -/
structure MeasDecl where
  mid       : Nat
  quantity  : Nat
  elem      : Nat
  lo        : Int
  hi        : Int
  sigma     : Nat
  kRed      : Nat
deriving DecidableEq, Repr

/-- Types of plant (R120, R237). -/
inductive PlantType where
  | boiler | chp | heatPump | chiller | solar | electric
deriving DecidableEq, Repr

/-- A plant, store or pump group that dispatch drives (R235, R245): the loop that drives it, if any; the
bounds of its set-point values (Q and TS of a plant; charge, discharge and energy of a store; DP and PE of a pump group). `lossMw` is a store's loss
coefficient in mW/K, `rampW` a plant's ramp rate in W/min, `elecLo` and `elecHi` its electrical output range in W, `fuel` the price kind of its fuel (3 gas,
4 other), `etaHeat` and `etaElec` efficiencies in 2^-16 (η or η_h and η_e of a plant, η of a store), `bandLo` and `bandHi` a store's usable band in mK. -/
structure UnitDecl where
  mid       : Nat
  loopIdx   : Option Nat
  lo        : List Int
  hi        : List Int
  owned     : List Nat
  lossMw    : Nat
  layers    : Nat
  volume    : Nat
  plant     : PlantType
  rampW     : Nat
  elecLo    : Int
  elecHi    : Int
  fuel      : Nat
  etaHeat   : Nat
  etaElec   : Nat
  bandLo    : Int
  bandHi    : Int
deriving DecidableEq, Repr

/-- The network description of one hydraulic network (R120, R139). -/
structure NetDecl where
  cold     : Bool
  tLo      : Int
  tHi      : Int
  designDt : Int
  designReturn : Int
deriving DecidableEq, Repr

/-- What an exponent block of a model holds (R125): a quantity (R154) of a network; a block of the pattern of a churn slot, by the role of R202
and its number among those of the role, the exponents of a factor's panels having role 0; or a transport block of a network, 0 volumes,
1 temperatures and 2 arrival times. -/
inductive ExpUse where
  | state (net qty : Nat)
  | pattern (slot role num : Nat)
  | transport (net what : Nat)
deriving DecidableEq, Repr

/-- An exponent block (R125). -/
structure ExpBlock where
  use : ExpUse
  exp : Int
deriving DecidableEq, Repr

/-- A compiled model image (R127): the bytes of its header and section table, the CRC-32 that each section of the table has, in the table's
order, and the contents of the sections, whose layout the spec does not give. -/
structure ModelImage where
  header     : Bytes
  crcs       : List Nat
  networks   : List NetDecl
  nodes      : List Node
  branches   : List Branch
  stations   : List StationDecl
  units      : List UnitDecl
  meas       : List MeasDecl
  pumpGroups : List (Nat × List Nat)
  groups     : List (Nat × List Nat)
  exps       : List ExpBlock
  size       : Nat
deriving DecidableEq, Repr

/-- What the structure signature of a model covers (R124). -/
structure StructItems where
  lineage : Nat
  mids    : List Nat
  kinds   : List (Nat × BranchKind)
  ends    : List (Nat × Nat × Nat)
  owners  : List (Nat × Nat)
  groups  : List (Nat × List Nat)
  points  : List (Nat × Nat)
deriving DecidableEq, Repr

/-- The classes of a program variable (R376). -/
inductive VarClass where
  | nonRetained | retain | persistent
deriving DecidableEq, Repr

/-- What a program identity names (R383). -/
inductive VarKind where
  | variable | timer | edge | constant
deriving DecidableEq, Repr

/-- One identity of a program image (R378, R382): `size` is its size in bytes, `sgn` whether its value is signed, `task` the task that uses it. -/
structure VarDecl where
  ident  : BitVec 64
  type   : Nat
  elementary : Bool
  size   : Nat
  sgn    : Bool
  kind   : VarKind
  cls    : VarClass
  online : Bool
  lo     : Int
  hi     : Int
  init   : Nat
  bound  : Bool
  task   : Nat
deriving DecidableEq, Repr

/-- One task of a program image (R364). -/
structure TaskDecl where
  round    : Bool
  cycleMs  : Nat
  offsetMs : Nat
  wdog     : Nat
  safeStop : Bool
  owns     : List (Nat × Word)
deriving DecidableEq, Repr

/-- A cyclic program image (R364, R372). -/
structure ProgImage where
  sig   : BitVec 64
  tasks : Tbl TaskDecl
  vars  : List VarDecl
  mids  : List Nat
deriving DecidableEq, Repr

/-- A firmware image header (R526). -/
structure FwHeader where
  version   : Nat
  pairLevel : Nat
  pairMin   : Nat
  pverMin   : Nat
  pverMax   : Nat
  secVer    : Nat
  sigOk     : Bool
  setFmt    : Nat := 0
deriving DecidableEq, Repr

/-- The component types of a manifest (R525). -/
inductive CompType where
  | firmware | config | model | program
deriving DecidableEq, Repr

/-- One entry of a manifest's component table (R524). -/
structure Component where
  type      : CompType
  length    : Nat
  blocks    : Nat
  version   : Nat
  minFw     : Nat
  digestOk  : Bool
  blockSums : List (BitVec 128)
deriving DecidableEq, Repr

/-- A manifest (R524): its fields, its check lists and whether its form and its signature hold. -/
structure Manifest where
  formOk     : Bool
  site       : Bool
  cold       : Bool
  components : List Component
  sigOk      : Bool
  size       : Nat
deriving DecidableEq, Repr

/-- The churn contexts (R194). -/
inductive Ctx where
  | f | r0 | rh
deriving DecidableEq, Repr

/-- A section of a job's input buffer (R202), with its mantissas or its keys. -/
structure JobSection where
  role    : Nat
  blockId : Nat
  exp     : Int
  count   : Nat
  vals    : List Int
  keys    : List Nat
deriving DecidableEq, Repr

/-- The PARAM of a job as its descriptor gives it (R201), with its DEADLINE and LENGTH. -/
structure JobParam where
  structSig   : BitVec 64
  pattern     : Nat
  jflags      : Nat
  maxIter     : Nat
  epsExp      : Nat
  outLen      : Nat
  outAddr     : Nat
  warmLineage : Nat
  deadline    : Nat
  length      : Nat
deriving DecidableEq, Repr

/-- An entry of a pattern's exponent table (R199, R202): the role of its block, the exponent and the elements. -/
structure PatBlock where
  role  : Nat
  exp   : Int
  count : Nat
deriving DecidableEq, Repr

/-- The sections of a pattern (R199): the elimination order, the expected sign of each row, the non-zero positions of each matrix block by
its index, the columns of each panel with the exponent of its part of L, the exponent table, and the keys of the variables and constraints. -/
structure PatBody where
  order   : List Nat
  signs   : List Bool
  nonzero : Tbl (List (Nat × Nat))
  panels  : List (Nat × Int)
  blocks  : List PatBlock
  keys    : List Nat
  conKeys : List Nat
deriving DecidableEq, Repr

/-- A pattern image for PATTERN_LOAD (R199): the bytes of its header and section table, the CRC-32 that each section of the table has, the
contents of the sections, whose layout the spec does not give, and the lineage under which its keys were made (R214). -/
structure PatternImage where
  header  : Bytes
  crcs    : List Nat
  body    : PatBody
  lineage : Nat
deriving DecidableEq, Repr

/-- A variable of a dispatch programme at a point (R202, R235): MID, quantity, step and value in the record unit. -/
structure PlanVar where
  mid  : Nat
  qty  : Nat
  step : Nat
  val  : Int
deriving DecidableEq, Repr

/-- The values of a point of a programme (R208, R209), as mantissas of their blocks: x, y, and the duals of the lower and upper bounds. -/
structure Iterate where
  x  : List Int
  y  : List Int
  zl : List Int
  zu : List Int
deriving DecidableEq, Repr

/-- A completed iterate of the interior-point driver (R209, R210): residuals and complementarity in 2^-24, the cost in 2^-16, whether a dual
passes the bound of R213, and its values. -/
structure IterPoint where
  rp        : Nat
  rd        : Nat
  gap       : Nat
  objective : Int
  dualLarge : Bool
  it        : Iterate
deriving DecidableEq, Repr

/-- A binding of a loop (R274). -/
structure Binding where
  kind     : Nat
  ref      : Nat
  quantity : Nat
deriving DecidableEq, Repr

/-- A structure record of a loop (R274). -/
structure LoopRec where
  loop     : Nat
  level    : Nat
  action   : Bool
  awMode   : Bool
  startMode : Nat
  spTrack  : Bool
  div      : Nat
  phase    : Nat
  pv       : Binding
  sp       : Binding
  ff1      : Binding
  ff2      : Binding
  out      : Binding
  pvLo     : Int
  pvHi     : Int
  outEngLo : Int
  outEngHi : Int
  spRate   : Int
  spLocal  : Int
  ff1Ref   : Int
  ff1Span  : Int
  ff2Ref   : Int
  ff2Span  : Int
deriving DecidableEq, Repr

/-- A coefficient record of a loop (R275). -/
structure CoefRec where
  loop    : Nat
  swap    : Bool
  kp      : Nat
  ti      : Nat
  td      : Nat
  n       : Nat
  tt      : Nat
  kff1    : Int
  kff2    : Int
  outLo   : Int
  outHi   : Int
  outRate : Int
  bias    : Int
deriving DecidableEq, Repr

/-- What the configuration assigns to a station (R250, R253, R328, R336, R356): its export allowance and its fallback budget are those
of its contract where `allowW` and `fallbackW` are none. -/
structure StnCfg where
  group     : Nat := 0
  sps       : Nat := 1
  appIn     : Nat := 0
  appOut    : Nat := 0
  allowW    : Option Nat := none
  fallbackW : Option Int := none
deriving DecidableEq, Repr

/-- A receive frame of a CAN node (R432, R433): its identifier, where its alive byte stands, and which bytes fill which words of the
node's area (byte offset, bytes, word). -/
structure CanRx where
  ident : Nat
  alive : Option Nat
  map   : List (Nat × Nat × Nat)
deriving DecidableEq, Repr

/-- A transmit object of a CAN node (R432): the words of the node's output area with their bytes, or the plant channel whose command it
carries, and its worst-case transmission time. -/
structure CanObj where
  ident  : Nat
  fd     : Bool
  plant  : Option Nat
  map    : List (Nat × Nat)
  wcttUs : Nat
deriving DecidableEq, Repr

/-- A node bound on a CAN channel (R432): `plant` is the plant channel whose acknowledgements its first receive frame carries. -/
structure CanNode where
  ch    : Nat
  node  : Nat
  rx    : List CanRx
  tx    : List CanObj
  plant : Option Nat
deriving DecidableEq, Repr

/-- The addresses of an interface (R422): the static IPv4 address, its prefix length and its router, the static IPv6 addresses and their router. -/
structure IfAddr where
  v4      : Option Nat := none
  prefix4 : Nat := 0
  router4 : Option Nat := none
  v6      : List Nat := []
  router6 : Option Nat := none
deriving DecidableEq, Repr

/-- Where a plant channel is bound (R371): a CAN node area, or the address and the port of a plant controller on ETH2 (R430). -/
inductive PlantBind where
  | eth2 (ip port : Nat)
  | can (ch node : Nat)
deriving DecidableEq, Repr

/-- A watch port of dispatch (R235): its node and its minimum supply temperature in mK. -/
structure Watch where
  mid  : Nat
  tMin : Int
deriving DecidableEq, Repr

/-- What the active configuration component, manufacture and the straps fix. `mac` is the first of the module's four MAC addresses (R422). `measWord` binds a measurement point to its image word, `cmdWord` an actuator to its
output word, `staleMs` is STALE_MS and
`nodePeriod` the node period in ms of an area, `unitChan` the plant channel of a unit, `outdoor` the outdoor temperature point (R232), `unitFall` the fallback set-points (R253), `tallyMids` the identifiers of the tally's channels (R131), `params` the
dispatch parameters (R258), `tariff` the prices of each kind by quarter-hour of the day (R233), `terminal` the terminal energies of stores in Wh (R236), `wRamp`,
`wBudget` and `wTerm` the weights w_r, w_u and w_s in 2^-40 (R238), `loops` and `coefs` the records of R274 and R275 (R2, R137, R374, R43, R76, R389, R457, R482, R546). -/
structure CfgSt where
  regs      : Tbl Word := []
  variantT  : Bool := false
  hwrev     : Nat := 1
  mfgDate   : Word := 0
  serial    : List Word := [0, 0, 0, 0]
  duplex    : Bool := false
  prefMor   : Bool := false
  peerSlot  : Nat := 0xF
  sig       : BitVec 64 := 0
  warmLimit : Nat := 3600
  leapOfs   : Int := 0
  localOfs  : Int := 0
  stations  : Tbl StnCfg := []
  fallbackS : Nat := 60
  addr      : Nat := 0
  peerAddr  : Nat := 0
  measWord  : Tbl Nat := []
  cmdWord   : Tbl Nat := []
  staleMs   : Tbl Nat := []
  nodePeriod : Tbl Nat := []
  unitChan  : Tbl Nat := []
  outdoor   : Nat := 0
  unitFall  : Tbl (List Int) := []
  tallyMids : List Nat := []
  watch     : List Watch := []
  params    : Tbl Nat := []
  tariff    : Tbl (List Int) := []
  terminal  : Tbl Int := []
  wRamp     : Nat := 0
  wBudget   : Nat := 0
  wTerm     : Nat := 0
  loops     : List LoopRec := []
  coefs     : List CoefRec := []
  mac       : Nat := 0
  ifs       : Tbl IfAddr := []
  canNodes  : List CanNode := []
  plantBind : Tbl PlantBind := []
deriving DecidableEq, Repr

/-- A configuration component (R525): the signature of its content, the model identifiers that it refers to, and what it configures. -/
structure ConfigImage where
  sig  : BitVec 64
  mids : List Nat
  body : CfgSt
deriving DecidableEq, Repr

/-- A block of a component (R529): its check value, and what the component holds once whole. -/
inductive BlockData where
  | firmware (hdr : Bytes) (sigOk : Bool)
  | config (c : ConfigImage)
  | model (m : ModelImage)
  | program (p : ProgImage)
  | part
deriving DecidableEq, Repr

/-- A trace set-up (R279). -/
structure TraceRec where
  unit    : Nat
  trigger : Nat
  loop    : Nat
  nodes   : Nat
  depth   : Nat
  pre     : Nat
  thresh  : Int
  decim   : Nat
deriving DecidableEq, Repr

/-- One sample of a feeder's seven channels (R285 to R287), in sample LSB: the three voltages, the same voltages delayed by a quarter period of the
measured fundamental, and the four currents as ranges H and L read them. -/
structure FeederSample where
  v  : List Int
  vq : List Int
  iH : List Int
  iL : List Int
deriving DecidableEq, Repr

/-- The fundamental phasors of a feeder (R292): the three phase voltages in 0.1 V primary and the four currents in µA secondary, each as its
two components, and for how many ms they have met, or not met, the condition in question. -/
structure SupplyIn where
  v  : List (Int × Int)
  i  : List (Int × Int)
  ms : Nat
deriving DecidableEq, Repr

/-- The supply conditions of a feeder (R292). -/
inductive SupplyCond where
  | phMissing (phase : Nat) | revSeq | neutralMissing | neutralMismatch | overload
deriving DecidableEq, Repr

/-- What a local heat meter's inputs gave over 100 ms (R299): pulses, the current in µA, and the two temperatures in mK, none where the RTD is
open or shorted. -/
structure LocalSample where
  pulses   : Nat
  currentUa : Nat
  tWarm    : Option Int
  tCool    : Option Int
deriving DecidableEq, Repr

/-- Causes and messages of the peer link (R393): the state a HEARTBEAT or another header shows (R392). -/
structure PeerHdr where
  pver   : Nat
  slot   : Nat
  state  : Nat
  claim  : Nat
  round  : Nat
  mseq   : Nat
  ready  : Bool
  mor    : Bool
  isolated : Bool
  degraded : Bool
  macsecOk : Bool
  keyed    : Bool
  pref     : Bool
  duplexOk : Bool
  expects  : Nat
  fw       : FwHeader
deriving DecidableEq, Repr

/-- The outputs that OUTPUT_SUMMARY carries (R404). -/
structure OutSummary where
  round     : Nat
  phases    : Word
  structSig : BitVec 64
  paramSig  : BitVec 64
  progSig   : BitVec 64
  fallback  : Bool
  stations  : List (Nat × List (Nat × Nat × Int))
  dio       : Word
  plants    : List (Nat × Nat × Nat × Nat × Int × Int)
  loops     : List (Nat × Int)
deriving DecidableEq, Repr

/-- A plan (R244): its τ0 in MON, the instant in ns of its step 0 and how far τ0 lies in that step, whether the instant is counted on MON, its round, and
its variables. -/
structure Plan where
  tau0  : Int
  step0 : Nat
  into  : Nat
  onMon : Bool
  round : Nat
  vars  : List PlanVar
deriving DecidableEq, Repr

/-- A quarter-hour of a station's history (R231): the counted day, the day type, the quarter-hour of the day, the mean demand and the outdoor
temperature. -/
structure HistPt where
  day     : Nat
  dayType : Nat
  quarter : Nat
  w       : Int
  temp    : Int
deriving DecidableEq, Repr

/-- What dispatch holds of a station: its counted days, its history, the accepted readings of the day and of the quarter-hour (R78,
R231); its budget in force, the ramp and the envelope start (R250, R251); and the OVER state with the readings that end it or flag it. -/
structure StnDisp where
  days    : Nat := 0
  hist    : List HistPt := []
  today   : List HistPt := []
  dayN    : Nat := 0
  qSum    : Int := 0
  qN      : Nat := 0
  budget  : Option (List Int) := none
  lastUse : Option Int := none
  isOver  : Bool := false
  envAt   : Nat := 0
  envFrom : Int := 0
  ramp    : Int := 0
  under   : Nat := 0
  exceed  : Nat := 0
deriving DecidableEq, Repr

/-- The enrolment parameters and the state of a station's session, as SYNC carries them (R340, R355, R406): the state is coded as in RND_STN. -/
structure SessRec where
  station : Nat
  state   : Nat
  ever    : Bool
  epoch   : Nat
  ns      : Option Nat
  nm      : Option Nat
  sps     : Nat
  appIn   : Nat
  appOut  : Nat
  kind    : Nat
deriving DecidableEq, Repr

/-- What SYNC carries of a loop (R406). -/
structure LoopSync where
  loop    : Nat
  mode    : Nat
  spLocal : Int
  bankA   : Option CoefRec
  bankB   : Option CoefRec
  useB    : Bool
  i       : Int
  y       : Int
deriving DecidableEq, Repr

/-- The state that SYNC transfers (R406). -/
structure SyncData where
  round     : Nat
  phases    : Word
  anchor    : Option Nat
  claim     : Nat
  sigs      : BitVec 64 × BitVec 64 × BitVec 64
  cfgSig    : BitVec 64
  sessions  : List SessRec
  sigmas    : List ((Nat × Nat) × Nat)
  excluded  : List (Nat × Nat)
  params    : Tbl Nat
  prices    : Tbl (List (Nat × List Int))
  weather   : List (Nat × List (Int × Nat))
  modes     : Tbl Nat
  history   : Tbl StnDisp
  district  : Nat
  plan      : Option Plan
  loops     : List LoopSync
  vars      : List (BitVec 64 × Nat)
  timersAt  : Nat
  overlay   : List (BitVec 64 × Nat)
deriving DecidableEq, Repr

/-- The state of a program that an exchange captured, as the peer sends it (R381): the NET time of the capture, the values of the variables,
timers and edge detectors by identity, and the overlay. -/
structure ExchState where
  net     : Nat
  vals    : List (BitVec 64 × Nat)
  overlay : List (BitVec 64 × Nat)
deriving DecidableEq, Repr

/-- A message of TYPE 09h (R393): a signed record, or the notice that a record has been signed. -/
inductive Mirror where
  | record (b : Bytes)
  | signed (rtype source recSeq : Nat)
deriving DecidableEq, Repr

/-- Operations that the module in control forwards to its peer (R132, R156, R277, R337, R380). -/
inductive FwdOp where
  | setSigma (mid q sigma : Nat)
  | exclude (mid q : Nat)
  | incl (mid q : Nat)
  | setParam (ident value : Nat)
  | pricePush (start kind : Nat) (prices : List Int)
  | weatherPush (start : Nat) (rows : List (Int × Nat))
  | forceCycle
  | unitMode (mid mode : Nat)
  | loopConfig (r : LoopRec)
  | loopCoef (r : CoefRec)
  | loopSwap (loop : Nat)
  | loopMode (loop mode : Nat) (manout : Option Int)
  | loopSetsp (loop : Nat) (sp : Int)
  | modelArm (structSig paramSig : BitVec 64) (target : Nat) (revert : Bool)
  | modelDisarm
  | stationRetire (station : Nat)
  | stationReinstate (station : Nat)
  | progCtrl (cmd : Nat)
  | varWrite (ident : BitVec 64) (type value : Nat)
  | constWrite (ident : BitVec 64) (type value : Nat)
  | progExchange (sig : BitVec 64) (target : Nat)
  | stepAccept
  | stepReject
  | timeSet (sec ns : Nat) (force : Bool)
  | enrol (station epoch ns nm sps appIn appOut : Nat)
  | updManifest (m : Manifest)
  | updBlock (comp block : Nat) (sum : BitVec 128) (data : BlockData)
  | updActivateConfig (sig : BitVec 64) (target : Nat)
deriving DecidableEq, Repr

/-- The protection of a frame under MACsec (R427): the SCI, the association number, the packet number and the ICV. -/
structure MacTag where
  sci : Nat
  an  : Nat
  pn  : Nat
  icv : BitVec 128
deriving DecidableEq, Repr

/-- An Ethernet frame at a port (R424, R425, R427): whether its FCS is bad, the sequence number of its HSR tag, its protection, and its bytes
from the destination address, without these and as they read in clear. -/
structure EthFrame where
  badFcs : Bool
  hsr    : Option Nat
  macsec : Option MacTag
  data   : Bytes
deriving DecidableEq, Repr

/-- A CAN frame (R431, R436). -/
structure CanFrame where
  ident  : Nat
  fd     : Bool
  brs    : Bool
  esi    : Bool
  remote : Bool
  data   : Bytes
deriving DecidableEq, Repr

/-- A schedule matrix (R434). -/
structure Matrix where
  baseUs : Nat
  rows   : Nat
  cols   : Nat
  start  : List Nat
  cells  : List (Option Nat)
deriving DecidableEq, Repr

/-- A gate control list (R423, R429). -/
structure GateList where
  baseSec : Nat
  baseNs  : Nat
  entries : List (Nat × Nat)
deriving DecidableEq, Repr

/-- An Announce message of a grandmaster (R456, R457). -/
structure AnnounceMsg where
  gmId       : BitVec 64
  gmClass    : Nat
  accuracy   : Nat
  port       : Nat
  utcOffset  : Int
  utcValid   : Bool
  best       : Bool
deriving DecidableEq, Repr

/-- The backup sources (R470). -/
inductive BackupSource where
  | main | ext | cell | cap
deriving DecidableEq, Repr

/-- The tamper sources (R488). -/
inductive TamperSource where
  | loop | cover | environment
deriving DecidableEq, Repr

/-- Sealed key slots as PROVISION KEYS or a bundle carries them (R491, R492): slot number, attributes and material of each;
whether the sender's certificate and the signature verify; the sender's SLOT_ID; the fingerprint of the site manifest key. -/
structure KeyBundle where
  slots        : List (Nat × Word × Nat)
  certOk       : Bool
  sigOk        : Bool
  senderSlot   : Nat
  fingerprint  : Nat
deriving DecidableEq, Repr

/-- A frame that a CAN controller transmits: a host's CAN_TX by its tag, or a cell's object. -/
inductive CanItem where
  | host (tag : Nat)
  | cell (obj : Nat)
deriving DecidableEq, Repr

/-- How a transmission of a CAN frame ended (R437). -/
inductive CanDone where
  | sent | lostArbitration
deriving DecidableEq, Repr

/-- What an integrity scan of the collector found (R505): the failed check, if any. -/
inductive ScanResult where
  | ok | copies | lanes (union : List Nat) | path (block : Nat)
deriving DecidableEq, Repr

/-- What a power-on reset finds (R32, R43, R63, R472): the strap on SLOT_ID, PRESENT_N, the base plate in mK, the two feeds, whether VBD dipped
below 1.60 V for less than 10 µs, and whether the module area of the backup SRAM passes its CRC. -/
structure PorIn where
  slot   : Nat
  present : Bool
  baseMk : Int
  feedA  : Bool
  feedB  : Bool
  retDip : Bool
  areaOk : Bool
deriving DecidableEq, Repr

/-- What the checks of start-up find (R73, R291, R307, R376, R399): the firmware image, the two commit banks, the tasks whose retained data fail,
the channels that fail the self-test of the metering front end, and the module's self-test. -/
structure StageIn where
  imageOk        : Bool
  bank0Ok        : Bool
  bank1Ok        : Bool
  badTasks       : List Nat
  failedChannels : List Nat
  selfTestOk     : Bool
deriving DecidableEq, Repr

/-- The commands of the module, one constructor for each row of the table. -/
inductive Instr where
  /-- POWER_ON_RESET (R63): The supply comes up, returns after hold-up, or returns after a power-down or over-temperature stop, and the module performs a power-on reset, sampling SLOT_ID. -/
  | powerOnReset (cause : PorCause) (p : PorIn)
  /-- FEED_LOST (R34): A feed falls below its feed-good threshold; FEED_x_OK clears, the sticky bit sets, the feed-loss source is raised and an event is written. -/
  | feedLost (f : Feed)
  /-- FEED_RETURNED (R34): A lost feed returns above its threshold; the OK bit sets again and a second event is written. -/
  | feedReturned (f : Feed)
  /-- POWER_FAIL (R37): The bus crosses the power-fail threshold for 200 µs and the module starts the hold-up sequence. -/
  | powerFail
  /-- PRESENT_LOST (R41): PRESENT_N is lost for 50 µs (withdrawal), PRESENT clears and the hold-up sequence starts. -/
  | presentLost
  /-- FINAL_COMMIT_DONE (R306): The tally's final commit with FINAL set completes and clears the marker as its last write. -/
  | finalCommitDone
  /-- EVR_HOLDUP_FLUSH_DONE (R512): EVR completes flushing its staged records to MRAM during the hold-up sequence. -/
  | evrHoldupFlushDone
  /-- RAILS_OFF (R37): All rails except the backup domain are switched off at the end of the hold-up sequence. -/
  | railsOff
  /-- TEMP_REFRESH (R32): Every 100 ms the base-plate temperature is refreshed into GLB_TEMP, with TEMP_WARN and the over-temperature source set above 108 °C. -/
  | tempRefresh (mk : Int)
  /-- OVER_TEMP_STOP (R32): The base plate stays above 112 °C for 1 s and the module runs the hold-up sequence and stays off. -/
  | overTempStop
  /-- OVER_TEMP_COOLED (R32): After an over-temperature stop the base plate falls below 100 °C and, with supply and PRESENT_N present, a power-on reset follows. -/
  | overTempCooled (p : PorIn)
  /-- HOLDUP_READY_SET (R35): The hold-up store finishes charging and HOLDUP_READY sets. -/
  | holdupReadySet
  /-- HOLDUP_READY_LOST (R45): HOLDUP_READY falls to 0; the hold-up-capacity source is raised and a module in control with a READY standby resigns with cause 9. -/
  | holdupReadyLost
  /-- HOLDUP_CAPACITY_MEASURE (R36): Every 24 h of MON the store is discharged by 5 % and recharged, HOLDUP_PCT is updated and HOLDUP_LOW set if short. -/
  | holdupCapacityMeasure (pct : Nat)
  /-- SFP_OVERPOWER (R54): An SFP+ module draws more than 1.5 W for 100 ms; the cage is switched off and the port-power source raised. -/
  | sfpOverpower (port : Nat)
  /-- SFP_INSERTED (R54): An SFP+ module is inserted into a cage, shown by its module-present contact, and a switched-off cage is powered again. -/
  | sfpInserted (port : Nat) (page : Bytes)
  /-- CLOCK_FAULT (R62): An island clock deviates more than 2 % for 10 µs or loses lock, or the 25 MHz reference fails, and the clock fault source is raised. -/
  | clockFault (source : Nat)
  /-- LOCKSTEP_MISMATCH (R498): The lockstep check of a core pair or the supervisor fails, raising its fixed URG, PIN and MOD source. -/
  | lockstepMismatch (source : Nat)
  /-- MEMORY_ECC_ERROR (R498): An SDRAM, MRAM or flash ECC error, or an internal memory parity error, occurs and raises its source. -/
  | memoryEccError (source : Nat)
  /-- SUPERVISOR_WATCHDOG_EXPIRY (R64): The supervisor watchdog is not serviced within 100 ms and a module reset follows. -/
  | supervisorWatchdogExpiry
  /-- MODRESET (R69): GLB_CTRL CMD 1h with KEY 5A3Ch requests a module reset with the RESTART kind given. -/
  | modreset (restart : Nat)
  /-- POWERDOWN (R69): GLB_CTRL CMD 2h with KEY 5A3Ch runs the hold-up sequence after which the module stays off. -/
  | powerdown
  /-- MODULE_RESET (R67): After the preparation steps the module reset is applied, clearing the items of R67 and restarting start-up without the PCIe step. -/
  | moduleReset
  /-- BLKRST (R70): A write to GLB_BLKRST with KEY 5A3Ch requests a block reset of the named block, refused if BUSY or the block is invalid. -/
  | blkrst (value : Word)
  /-- BLOCK_RESET_DONE (R68): A block reset ends after at most 1 ms (5 ms for KST) and the block accepts work again. -/
  | blockResetDone (b : Block)
  /-- PERST_N (R66): PERST_N resets the PCIe endpoint, link and configuration space and applies a block reset to HIF only. -/
  | perstN
  /-- FUNCTION_LEVEL_RESET (R81): A Function Level Reset from the host has the effect of PERST_N. -/
  | functionLevelReset
  /-- STARTUP_STAGE_COMPLETE (R72): A start-up stage completes and GLB_STARTSTAT.STAGE advances, up to self-test and release of FAULT_N. -/
  | startupStageComplete (r : StageIn)
  /-- STANDBY_ENTRY (R72): The duplex conditions are met and the resynchronised module shows the standby pattern and drives its own outputs. -/
  | standbyEntry
  /-- STARTUP_TAKE_CONTROL (R72): With HOLDUP_READY 1 and no peer in control the module takes control, its first write phase being that of the next round. -/
  | startupTakeControl
  /-- ACCESS_MISALIGNED (R10): A misaligned or spanning BAR0 access, or a narrow write, is not carried out and is recorded as WRITE_IGNORED. -/
  | accessMisaligned (access : Access)
  /-- REGISTER_WRITE (R7): A write to a register without a row of its own acts by its fields' access types, with RWL lock and range checks. -/
  | registerWrite (who : Requester) (addr : Nat) (value : Word)
  /-- LOCK_SET (R9): Writing 1 to a block's LOCK bit sets it until a module or power-on reset. -/
  | lockSet (block : Block)
  /-- GLB_LOCKSET (R552): A write with KEY 5A3Ch sets the LOCK bits of the blocks named in MASK. -/
  | glbLockset (value : Word)
  /-- RC_READ (R12): A completed read of an RC field returns its value and clears it. -/
  | rcRead (who : Requester) (addr : Nat)
  /-- LOWER_WORD_READ (R11): A read of the lower word of a 64-bit pair latches the upper word for the requester. -/
  | lowerWordRead (who : Requester) (addr : Nat)
  /-- TIM_NETSEC_LO_READ (R452): A read of TIM_NETSEC_LO latches all other NET, LEG and BUS registers at one tick. -/
  | timNetsecLoRead (who : Requester)
  /-- BKD_RTCSUB_READ (R465): A read of BKD_RTCSUB freezes a shadow of the whole RTC taken at one crystal edge. -/
  | bkdRtcsubRead (who : Requester)
  /-- CAPSTAT_READ (R462): A read of CAPSTAT clears NEW and OVR so a new capture can be loaded. -/
  | capstatRead (who : Requester) (unit : Nat)
  /-- LAST_TX_READ (R522): A read of LAST_TX latches LAST_RX of the same bandwidth window. -/
  | lastTxRead (who : Requester) (p : Nat)
  /-- EVR_CURSOR_SET (R515): A write of EVR_CURSOR_HI sets the cursor for the event log window. -/
  | evrCursorSet (hi : Word)
  /-- EVR_WIN_COPY (R515): A read of EVR_WIN[0] copies the record at the cursor into the window and updates EVR_WINSTAT. -/
  | evrWinCopy (who : Requester)
  /-- EVR_WIN_ADVANCE (R515): A read of EVR_WIN[7] advances the cursor by 1 while AUTOINC is 1. -/
  | evrWinAdvance (who : Requester)
  /-- RING_ENABLE (R91): ENABLE of HIF_RINGCFG goes from 0 to 1; indices reset, the vector arms and the first completion pass starts, refused on bad size or base. -/
  | ringEnable (pair : Nat) (value : Word)
  /-- RING_DISABLE (R115): Clearing ENABLE stops fetching and completes unstarted descriptors and unfilled buffers with CANCELLED. -/
  | ringDisable (pair : Nat)
  /-- STARTED_DESCRIPTOR_CANCEL (R115): A started command descriptor of a disabled pair reaches its next safe point and completes with CANCELLED, then IDLE may set. -/
  | startedDescriptorCancel (r : Req)
  /-- OWNER_CLEAR (R86): Clearing OWNER of ring pair 0 hands it to host software; dispatch submits no new solve and the firmware disables the pair. -/
  | ownerClear
  /-- OWNER_SET (R86): Setting OWNER of ring pair 0 while disabled and idle returns it to the firmware, which sets it up and enables it. -/
  | ownerSet
  /-- SUB_TAIL (R98): A doorbell write of SUB_TAIL announces new descriptors, refused with DB_RANGE or DB_OFF where invalid. -/
  | subTail (pair : Nat) (value : Word)
  /-- CMP_HEAD (R98): A doorbell write of CMP_HEAD frees completion slots and re-arms the vector, sending a message at once if entries remain. -/
  | cmpHead (pair : Nat) (value : Word)
  /-- CMP_ARM (R112): A doorbell write of CMP_ARM re-arms the pair's vector without freeing entries. -/
  | cmpArm (pair : Nat)
  /-- DESCRIPTOR_FETCH (R101): The module fetches an announced descriptor within its limits, freeing the submission slot and advancing SUB_HEAD. -/
  | descriptorFetch (pair : Nat) (b : Bytes)
  /-- DESCRIPTOR_FETCH_FAIL (R104): A descriptor read fails; an entry with DMA_ERR is written, fetching stops and FETCH_ERR sets. -/
  | descriptorFetchFail (pair : Nat) (why : DmaFail)
  /-- DESCRIPTOR_START (R97): A command descriptor passes its fence and completion-slot reservation and is checked in the order of R97 before its function runs. -/
  | descriptorStart (pair : Nat) (fail : Option Nat)
  /-- COALESCE_TIME_EXPIRY (R112): The oldest unsignalled entry has waited TIME µs and the armed vector sends its message. -/
  | coalesceTimeExpiry (pair : Nat)
  /-- VECTOR_SPACING_EXPIRY (R113): 100 µs after a message on vectors 0 to 3 the next message carrying the conditions that arose meanwhile is sent. -/
  | vectorSpacingExpiry (vector : Nat)
  /-- MSIX_UNMASK (R114): Host software unmasks a vector or clears the Function Mask and a pending message is sent. -/
  | msixUnmask (what : Unmask)
  /-- RXBUF (R97): A buffer post is checked and held for stream items on a pair that accepts buffer posts. -/
  | rxbuf (pair : Nat) (fail : Option Nat)
  /-- LINK_LOSS (R117): The data link goes down or Bus Master Enable clears; memory requests stop, host-owned pairs become DETACHED and the host-link source is raised. -/
  | linkLoss (cause : LinkCause)
  /-- LINK_RETURN (R117): The PCIe link returns without a HIF block reset and detached pairs stay detached. -/
  | linkReturn (speed width : Nat)
  /-- MODEL_ARM (R131): Host software arms the staged model for a target round after the checks of R131, forwarding to the peer. -/
  | modelArm (r : Req)
  /-- MODEL_DISARM (R129): Host software disarms the armed model before its target round, returning the slot to STAGED. -/
  | modelDisarm (r : Req)
  /-- MODEL_REVERT (R129): Host software stages a copy of the previous model and arms it in one step. -/
  | modelRevert (r : Req)
  /-- MODEL_RECORD_ACTIVE (R133): Before the target round the module records the new model as active in MRAM and flash. -/
  | modelRecordActive
  /-- ROUND_START (R17): A round starts on a whole NET second or MON interval, its number is committed and advanced, and read requests go out. -/
  | roundStart
  /-- ROUND_START_TIMEOUT (R394): A standby receives no ROUND_START within 2 ms of the expected round start and starts the round on its own timing. -/
  | roundStartTimeout
  /-- READ_RETRY (R344): RETRY_MS after a READ_REQ without an accepted reply the request is repeated with RETRY set and a new FSEQ. -/
  | readRetry (station : Nat)
  /-- HELLO (R336): A HELLO frame is received, checked under R338 and accepted or rejected under R336. -/
  | hello (f : Frame)
  /-- READY (R340): A READY frame authenticated under the new K_s completes enrolment and the session becomes ACTIVE. -/
  | ready (f : Frame)
  /-- READ_REP (R344): A READ_REP is received, checked under R338, and the first passing one of the round is accepted. -/
  | readRep (f : Frame)
  /-- READ_CLOSE (R344): The read phase closes, the accepted replies are frozen into the round's snapshot and its handle passes to SEP, TLY and DUP. -/
  | readClose
  /-- FASTPORT_JOB_COMPLETE (R142): A fast-port job returns to the separator, which takes the Newton or WLS step and submits the next job or ends. -/
  | fastportJobComplete
  /-- SEP_WINDOW_END (R24): The separator window ends with a job outstanding and the round's estimate is abandoned. -/
  | sepWindowEnd
  /-- CTR_STEP (R167): The curd tracker's step opens at SEP_END or at late publication, moves the curds, projects arrivals and builds the delay table. -/
  | ctrStep (late : Bool) (us : Nat)
  /-- WRITE_OPEN (R345): The write phase opens, commands are latched and one WRITE goes to each station on the write list. -/
  | writeOpen
  /-- WRITE_RETRY (R345): A WRITE without an accepted WRITE_ACK is repeated RETRY_MS later until CLOSE. -/
  | writeRetry (station : Nat)
  /-- WRITE_ACK (R351): A WRITE_ACK is received and accepted, marking the station written and recording its codes. -/
  | writeAck (f : Frame)
  /-- ROUND_CLOSE (R340): The round closes, reached outcomes and session transitions are applied and group records written. -/
  | roundClose (theirs : Option OutSummary)
  /-- STATION_RETIRE (R357): Host software retires a station; MODE RETIRE is sent and it becomes RETIRED at the next round close. -/
  | stationRetire (r : Req)
  /-- STATION_REINSTATE (R357): Host software returns a RETIRED station in the model to DORMANT. -/
  | stationReinstate (r : Req)
  /-- STATION_QUERY (R357): Host software sets DIAG in the next READ_REQ and receives the station's diagnostic block. -/
  | stationQuery (r : Req)
  /-- DISPATCH_SOLVE_COMPLETE (R243): The churn returns the dispatch solve and dispatch accepts or rejects it and splits it into set-points. -/
  | dispatchSolveComplete
  /-- QUARTER_HOUR_STEP (R244): At each quarter-hour boundary dispatch moves to the plan's next step and sends its set-points. -/
  | quarterHourStep
  /-- PLAN_AGE_EXPIRY (R253): The plan age passes 60 min and fallback set-points are sent. -/
  | planAgeExpiry
  /-- PLANT_ACK (R245): A unit's acknowledgement arrives, publishing the plant channel area and resolving the command. -/
  | plantAck (u : Nat) (ws : List Word)
  /-- PLANT_ACK_TIMEOUT (R246): PLANT_ACK_MS passes without acknowledgement; the unit counts as refused or the atomic group is decided. -/
  | plantAckTimeout (mid : Nat)
  /-- LEG_MIDNIGHT (R234): At each LEG midnight confidences are recomputed and a confidence record is written. -/
  | legMidnight
  /-- SET_PARAM (R258): Host software sets a dispatch parameter, held in MRAM. -/
  | setParam (r : Req)
  /-- PRICE_PUSH (R233): Host software pushes a price series replacing earlier series of its kind. -/
  | pricePush (r : Req) (buf : Bytes)
  /-- WEATHER_PUSH (R232): Host software pushes a weather series. -/
  | weatherPush (r : Req) (buf : Bytes)
  /-- FORCE_CYCLE (R258): A dispatch cycle falls due at the next round close without moving the anchor. -/
  | forceCycle (r : Req)
  /-- UNIT_MODE (R241): Host software sets AUTO, MANUAL or OUT for a plant, store or pump group. -/
  | unitMode (r : Req)
  /-- KKT_SOLVE (R203): A KKT_SOLVE job is checked and queued for its churn context. -/
  | kktSolve (r : Req) (buf : Bytes)
  /-- QP_SOLVE (R203): A QP_SOLVE job is checked and queued for its churn context. -/
  | qpSolve (r : Req) (buf : Bytes)
  /-- PATTERN_LOAD (R200): Host software loads a pattern image into slot 12 to 15. -/
  | patternLoad (r : Req) (p : PatternImage)
  /-- PATTERN_FREE (R200): Host software frees pattern slot 12 to 15. -/
  | patternFree (r : Req)
  /-- PANEL_BOUNDARY (R194): At a panel boundary the churn checks deadline and saturation and chooses the context that computes next, parking or resuming jobs. -/
  | panelBoundary
  /-- QP_ITERATION_COMPLETE (R212): A QP iteration completes, merit is computed and the job may end converged, unconverged or infeasible. -/
  | qpIterationComplete
  /-- KKT_SOLVE_COMPLETE (R207): A KKT factorisation, solve and refinement complete and the job ends with its result. -/
  | kktSolveComplete
  /-- CHU_DEADLINE (R217): A churn job's DEADLINE passes and is acted on at the next comparison with the case of R217. -/
  | chuDeadline (who : Option Req)
  /-- CHU_PATTERNS_REBUILT (R220): After a block reset of CHU, slots 0 to 11 are rebuilt from the active model. -/
  | chuPatternsRebuilt
  /-- SET_SIGMA (R156): Host software overrides the σ of a measurement point. -/
  | setSigma (r : Req)
  /-- EXCLUDE (R156): Host software excludes a measurement point from the estimate. -/
  | excl (r : Req)
  /-- INCLUDE (R156): Host software returns an excluded measurement point to the estimate. -/
  | incl (r : Req)
  /-- FLAT_START (R158): Writing FLAT_START makes the next round start Newton from the model's initial values. -/
  | flatStart
  /-- CURD_DUMP (R183): Host software requests the curds of a pipe, delivered at the end of the next step. -/
  | curdDump (r : Req)
  /-- REBUILD (R183): Host software requests a rebuild of the named networks at the next step. -/
  | rebuild (r : Req)
  /-- CTR_CTRL_REBUILD (R185): Writing REBUILD in CTR_CTRL rebuilds every network at the next step. -/
  | ctrCtrlRebuild
  /-- BASE_TICK (R261): At each base tick the loop engine reads inputs and computes the due loops by level. -/
  | baseTick
  /-- LOOP_CONFIG (R276): Host software writes a loop's structure record. -/
  | loopConfig (r : Req) (buf : Bytes)
  /-- LOOP_COEF (R276): Host software writes the inactive coefficient bank, optionally requesting a swap. -/
  | loopCoef (r : Req) (buf : Bytes)
  /-- LOOP_SWAP (R272): Host software requests a swap of coefficient banks at the loop's next sample. -/
  | loopSwap (r : Req)
  /-- LOOP_MODE (R276): Host software sets a loop's mode, checking cascade conditions. -/
  | loopMode (r : Req)
  /-- LOOP_SETSP (R271): Host software sets a loop's local set-point. -/
  | loopSetsp (r : Req)
  /-- LOOP_STATE (R278): Host software reads a loop's state record. -/
  | loopState (r : Req)
  /-- TRACE_CFG (R279): Host software sets up a trace unit. -/
  | traceCfg (r : Req)
  /-- TRACE_ARM (R279): Host software arms trace units within the shared store. -/
  | traceArm (r : Req)
  /-- TLY_COMMIT (R305): Every 250 ms of MON the tally commits totals to the other MRAM bank and snapshots loop state. -/
  | tlyCommit
  /-- HOLD_MIN_EXPIRY (R303): HOLD_MIN passes with samples missing and the station interval closes with gap spans. -/
  | holdMinExpiry (station : Nat)
  /-- FEEDER_BLOCK (R287): Each 100 ms block of 1,600 samples adds active and reactive energy to the feeder totals. -/
  | feederBlock (feeder : Nat) (samples : List FeederSample)
  /-- SUPPLY_CONDITION_CHANGE (R292): A supply condition of a feeder sets, or clears after 1 s absence, with an event. -/
  | supplyConditionChange (feeder : Nat) (cond : SupplyCond) (x : SupplyIn)
  /-- LOCAL_HEAT_SAMPLE (R299): Every 100 ms a local heat meter forms one sample and integrates it. -/
  | localHeatSample (meter : Nat) (x : LocalSample)
  /-- CAL_EN_SET (R294): A write with KEY sets CAL_EN while unlocked and not meter of record. -/
  | calEnSet (value : Word)
  /-- CAL_EN_CLEAR (R294): Clearing CAL_EN stores calibration to flash and increments TLY_CALCOUNT. -/
  | calEnClear (value : Word)
  /-- BILL_ACK (R317): Host software releases records of a stream up to a STORE_SEQ. -/
  | billAck (r : Req)
  /-- BILL_REPLAY (R317): Host software requests redelivery of unreleased records from a STORE_SEQ. -/
  | billReplay (r : Req)
  /-- TASK_ACTIVATION (R364): A task falls due, starting an instance or counting an overrun. -/
  | taskActivation (task : Nat)
  /-- TASK_INSTANCE_END (R365): A task instance finishes, publishes its outputs and writes retained data. -/
  | taskInstanceEnd (task : Nat) (outs : List (Nat × Word)) (vals : List (BitVec 64 × Nat)) (us : Nat)
  /-- TASK_WATCHDOG_EXPIRY (R367): A task instance exceeds its watchdog; all tasks stop and the program enters FAULTED. -/
  | taskWatchdogExpiry (task : Nat)
  /-- PROG_RUN (R368): PROG_CTRL RUN starts a stopped or faulted program. -/
  | progRun (r : Req)
  /-- PROG_STOP (R368): PROG_CTRL STOP stops the program after its instances finish. -/
  | progStop (r : Req)
  /-- PROG_COLD_START (R368): PROG_CTRL COLD_START makes a program cold start and runs it. -/
  | progColdStart (r : Req)
  /-- VAR_READ (R384): Host software reads a program variable by identity. -/
  | varRead (r : Req)
  /-- VAR_WRITE (R378): Host software gives a program variable a new value once. -/
  | varWrite (r : Req)
  /-- CONST_WRITE (R379): Host software writes an ONLINE constant into the overlay. -/
  | constWrite (r : Req)
  /-- PROG_EXCHANGE (R380): Host software schedules a program exchange for a target round. -/
  | progExchange (r : Req)
  /-- EXCHANGE_CAPTURE (R381): When the last frozen instance ends the program state is captured and sent to the standby. -/
  | exchangeCapture
  /-- EXCHANGE_MAPPED (R382): The receiving side completes mapping the captured state into the new program. -/
  | exchangeMapped (got : Option ExchState)
  /-- EXCHANGE_ABANDON (R381): Mapping is not complete by 950 ms and the exchange is abandoned. -/
  | exchangeAbandon
  /-- HEARTBEAT_TX (R393): Every 1 ms each module sends HEARTBEAT on the peer link. -/
  | heartbeatTx
  /-- HEARTBEAT (R393): A valid HEARTBEAT is received from the peer. -/
  | heartbeat (h : PeerHdr)
  /-- PEER_LINK_LOSS (R401): No valid HEARTBEAT for PEER_TMO; ISOLATED sets and the peer-link source is raised. -/
  | peerLinkLoss
  /-- PEER_LINK_RETURN (R401): Heartbeats return and the modules resolve control and resynchronise. -/
  | peerLinkReturn (h : PeerHdr)
  /-- ROUND_START_MSG (R394): The standby receives ROUND_START and starts the round with the given boundaries and anchor. -/
  | roundStartMsg (h : PeerHdr) (phases : Word) (anchor : Option Nat)
  /-- RESIGN (R400): A RESIGN message arrives and a READY standby takes control. -/
  | resign (h : PeerHdr) (cause : Nat)
  /-- TAKE (R396): A TAKE message from the peer arrives and the higher claim goes on. -/
  | take (h : PeerHdr)
  /-- TAKE_WAIT_EXPIRY (R396): 2 ms after sending TAKE the module goes on to take control if not outranked. -/
  | takeWaitExpiry
  /-- PEER_MSG_RESEND (R393): An acknowledged peer-link message without acknowledgement is sent again every 1 ms. -/
  | peerMsgResend (mseq : Nat)
  /-- FORWARD (R393): A FORWARD message carrying an operation arrives at the peer, which applies it and sends CONFIRM. -/
  | forward (h : PeerHdr) (op : FwdOp) (withdraw : Bool)
  /-- CONFIRM (R156): The peer's CONFIRM arrives and the forwarded operation completes with OK. -/
  | confirm (h : PeerHdr) (op : FwdOp) (status detail : Nat)
  /-- FORWARD_TIMEOUT (R156): The peer does not confirm within 2 s; the change is withdrawn and the operation completes with PEER_ABSENT. -/
  | forwardTimeout
  /-- SELFTEST (R405): A SELFTEST request or result arrives over the peer link. -/
  | selftest (h : PeerHdr) (result : Option Bool)
  /-- SELFTEST_DONE (R405): The self-test completes and the results decide roles and resignations. -/
  | selftestDone (pass : Bool)
  /-- SYNC_COMPLETE (R406): The state transfer of resynchronisation completes and the module becomes STANDBY. -/
  | syncComplete (h : PeerHdr) (d : SyncData)
  /-- RECORD (R409): A RECORD message with a signed billing record arrives and the peer notes its RECORD_SEQ. -/
  | record (h : PeerHdr) (m : Mirror)
  /-- MOR_HANDOVER (R411): MOR_HANDOVER is acknowledged and the preferred module holds the meter-of-record role. -/
  | morHandover (h : PeerHdr) (ask : Bool)
  /-- DUP_HANDOVER (R413): Host software hands control to the peer at the next round start. -/
  | dupHandover (r : Req)
  /-- DUP_MOR_HAND (R413): DUP_MOR ACTION 1 hands the meter-of-record role to the peer. -/
  | dupMorHand (r : Req)
  /-- DUP_MOR_RELEASE (R413): DUP_MOR ACTION 2 releases the meter-of-record role. -/
  | dupMorRelease (r : Req)
  /-- DUP_MOR_TAKE (R413): DUP_MOR ACTION 3 takes the meter-of-record role. -/
  | dupMorTake (r : Req)
  /-- DUP_TAKEOVER (R413): An ISOLATED READY standby takes control with the role on command. -/
  | dupTakeover (r : Req)
  /-- DUP_PROVISION (R412): Host software starts the wrapped-key transfer to an unkeyed peer. -/
  | dupProvision (r : Req) (certOk : Bool)
  /-- DUP_RESYNC (R413): Host software makes a module leave a held RESIGNED state and resynchronise. -/
  | dupResync (r : Req)
  /-- AUTO_PROVISION (R412): With AUTO_PROV 1 the unkeyed peer has been present for 10 s and the transfer starts. -/
  | autoProvision (certOk : Bool)
  /-- PROVISION_HELLO (R491): An unkeyed module sends PROVISION HELLO every 1 s with its certificate and NU. -/
  | provisionHello
  /-- PROVISION_KEYS (R491): The unkeyed module receives PROVISION KEYS, checks it, stores the slots and answers PROVISION DONE. -/
  | provisionKeys (b : KeyBundle)
  /-- PROVISION_DONE (R491): The keyed module receives PROVISION DONE and the transfer completes. -/
  | provisionDone (ok : Bool)
  /-- FRAME_TX (R423): Host software transmits an Ethernet frame on a port with optional launch time. -/
  | frameTx (r : Req) (buf : Bytes)
  /-- FRAME_LAUNCH (R423): A queued frame reaches the head of its queue and is sent or completes with TX_LATE. -/
  | frameLaunch (port queue : Nat)
  /-- GCL_LOAD (R429): Host software loads a gate control list for a port. -/
  | gclLoad (r : Req) (buf : Bytes)
  /-- GCL_OPERATIONAL (R429): A loaded gate list becomes operational at its first eligible cycle start. -/
  | gclOperational (port : Nat)
  /-- ETH_FRAME_RX (R424): A frame is received on a port and consumed, forwarded, delivered to the host or discarded. -/
  | ethFrameRx (port : Nat) (f : EthFrame)
  /-- RING_PORT_LINK_CHANGE (R426): A ring port link goes down or up; the ring source is raised and an event written. -/
  | ringPortLinkChange (port : Nat) (up : Bool)
  /-- HSR_SUPERVISION_TX (R425): Every 2 s the module sends an HSR supervision frame. -/
  | hsrSupervisionTx
  /-- HSR_ENTRY_EXPIRY (R425): A duplicate-table entry is forgotten after 400 ms or a node-table entry after 60 s. -/
  | hsrEntryExpiry
  /-- NO_PEERS (R426): A ring port receives no supervision frame for 6 s and NO_PEERS sets. -/
  | noPeers (port : Nat)
  /-- MACSEC_REKEY (R427): The transmit packet number reaches C000_0000h and the port moves to the next association. -/
  | macsecRekey (port : Nat)
  /-- MACSEC_OLD_SA_EXPIRY (R427): 2 s after installing association n + 1 the receiver drops association n. -/
  | macsecOldSaExpiry (port sci : Nat)
  /-- KEY_NUMBER_ANNOUNCEMENT (R486): A Key Number Announcement is received and a valid higher KN installs the SAK. -/
  | keyNumberAnnouncement (port an sci kn tag : Nat)
  /-- KNA_TX (R486): A port sends a Key Number Announcement at association start and every 1 s. -/
  | knaTx (port : Nat)
  /-- PTP_OFFSET_MEASUREMENT (R454): A PTP offset measurement is made and NET is slewed, stepped or the step refused, updating quality. -/
  | ptpOffsetMeasurement (ofs : Int)
  /-- ANNOUNCE (R456): An Announce is received, the best master is selected and a grandmaster change updates TIM_GMID. -/
  | announce (m : AnnounceMsg)
  /-- ANNOUNCE_TIMEOUT (R453): The announce receipt timeout passes, no port is SLAVE and NET goes to HOLDOVER. -/
  | announceTimeout
  /-- HOLD_H_EXPIRY (R458): HOLD_H hours pass in HOLDOVER or LOCAL and LEG_VALID goes to 0. -/
  | holdHExpiry
  /-- LEAP_SECOND (R457): A positive or negative leap second is applied to LEG. -/
  | leapSecond (positive : Bool)
  /-- INCR_COMMIT (R451): A write of TIM_INCR_NS commits the increment with FRAC at the next tick, or is refused. -/
  | incrCommit (d : Nat) (ns : Word)
  /-- STEP_ACCEPT (R455): Host software accepts the pending step, applied at the next measurement. -/
  | stepAccept (r : Req)
  /-- STEP_REJECT (R455): Host software rejects the pending step and the grandmaster enters the reject list. -/
  | stepReject (r : Req)
  /-- TIME_SET (R474): Host software sets NET, LEG and the RTC, making NET LOCAL. -/
  | timeSet (r : Req)
  /-- RTC_SET (R474): Host software sets the RTC from a value or from NET. -/
  | rtcSet (r : Req)
  /-- ALARM_SET (R474): Host software sets or disarms the RTC alarm and the periodic wake. -/
  | alarmSet (r : Req)
  /-- RTC_COMPARE (R467): In SYNC every 60 s BKD compares the RTC with UTC and sets it or updates trim and correction stamp. -/
  | rtcCompare
  /-- RTC_ALARM (R468): The RTC alarm fires, raises its cause and disarms. -/
  | rtcAlarm
  /-- PERIODIC_WAKE (R468): A periodic wake instant is reached and raises its cause. -/
  | periodicWake
  /-- CAPTURE_EDGE (R462): A capture unit latches MON and NET on its selected edge or sets OVR. -/
  | captureEdge (unit : Nat) (rising : Bool)
  /-- LAUNCH_PULSE (R463): A launch unit emits a pulse at START + n × PERIOD. -/
  | launchPulse (unit : Nat)
  /-- OSC_STOP (R464): The RTC crystal has no edge for 125 µs and OSC_STOP sets, invalidating the RTC. -/
  | oscStop
  /-- BACKUP_SOURCE_SWITCH (R470): The backup domain changes to the first usable supply source. -/
  | backupSourceSwitch (mainUp : Bool) (extMv cellMv : Nat)
  /-- BACKUP_SOURCE_MEASURE (R471): At power-on and every 24 h the backup sources are measured under load and low flags set. -/
  | backupSourceMeasure (extMv cellMv capMv : Nat)
  /-- VBD_RET_TRIP (R472): VBD falls below 1.60 V for 10 µs and the VALID latch clears. -/
  | vbdRetTrip
  /-- VBD_FLOOR_TRIP (R472): VBD falls below 1.45 V and the VALID latch clears without filter. -/
  | vbdFloorTrip
  /-- SLOT_PATROL (R483): Every 10 s KST checks every slot and marks failing slots UNUSABLE. -/
  | slotPatrol (bad : List Nat)
  /-- TAMPER_TRIP (R489): An enabled tamper source trips and BKD zeroises within 10 µs and logs the source. -/
  | tamperTrip (t : TamperSource)
  /-- KEY_ZEROISE (R490): Host software zeroises the module as a commanded tamper. -/
  | keyZeroise (r : Req)
  /-- KEY_DEVCERT (R493): Host software reads the device certificate. -/
  | keyDevcert (r : Req)
  /-- KEY_PUBLIC (R493): Host software reads the public key of a slot. -/
  | keyPublic (r : Req)
  /-- KEY_PROVISION (R492): An operator provisions keys with a site-signed bundle. -/
  | keyProvision (r : Req) (b : KeyBundle)
  /-- KEY_GCM (R493): Host software encrypts or decrypts with a user slot under AES-GCM. -/
  | keyGcm (r : Req) (buf : Bytes)
  /-- KEY_HMAC (R493): Host software computes an HMAC with a user slot. -/
  | keyHmac (r : Req) (buf : Bytes)
  /-- KST_TAMPCFG_WRITE (R496): A write sets tamper enables, clearing allowed only while unkeyed. -/
  | kstTampcfgWrite (value : Word)
  /-- FCO_FORCE (R504): A write with KEY makes one forced occurrence of a source. -/
  | fcoForce (value : Word)
  /-- FORCED_LEVEL_EXPIRY (R504): 1 ms after a forced level source becomes active it becomes inactive unless its condition holds. -/
  | forcedLevelExpiry (source : Nat)
  /-- FCO_ACTIVE_CLEAR (R500): A write of 1 to FCO_ACTIVE deactivates an event source. -/
  | fcoActiveClear (w : Nat) (value : Word)
  /-- FCO_WINDOW_END (R499): A source's counting window ends below THRESH and its count returns to 0. -/
  | fcoWindowEnd (source : Nat)
  /-- FCO_INTEGRITY_SCAN (R505): Every 1 ms FCO compares its configuration copies and every 100 ms tests raise paths, raising source 192 on failure. -/
  | fcoIntegrityScan (r : ScanResult)
  /-- EVR_TOKEN_REFILL (R511): At each PERIOD multiple a code's bucket below BURST gains one token. -/
  | evrTokenRefill (code : Nat)
  /-- EVR_FLUSH (R512): EVR flushes staged records to the MRAM log every 10 ms or at 256 staged. -/
  | evrFlush
  /-- EVT_REPLAY (R514): Host software restarts event delivery from an EVT_SEQ. -/
  | evtReplay (r : Req)
  /-- PMC_SAMPLE (R514): Host software requests one counter sample at the next PMC cycle. -/
  | pmcSample (r : Req)
  /-- SNAP (R520): Writing SNAP copies all counters into their SNAP registers in one cycle. -/
  | snap
  /-- CLEAR (R523): Writing CLEAR sets all counters, snapshots and peaks to 0. -/
  | clear
  /-- PMC_SEL_WRITE (R519): A write that changes a counter's EVENT clears the counter. -/
  | pmcSelWrite (k : Nat) (value : Word)
  /-- PMC_PERIODIC_SNAPSHOT (R521): At each PERIOD multiple PMC takes a snapshot and delivers it on ring pair 51. -/
  | pmcPeriodicSnapshot
  /-- BW_WINDOW_END (R522): A bandwidth window ends and LAST_TX and LAST_RX take its counts. -/
  | bwWindowEnd (p : Nat)
  /-- BWCFG_WRITE (R522): A change of WIN_MS or EN discards the window in progress. -/
  | bwcfgWrite (p : Nat) (value : Word)
  /-- CAN_FRAME_RX (R433): A CAN frame is received, sets NEW for its node binding and publishes the area when complete. -/
  | canFrameRx (ch : Nat) (f : CanFrame)
  /-- CAN_NODE_TIMEOUT (R374): A CAN node has no publication for 3 × its period and its area becomes INVALID. -/
  | canNodeTimeout (ch node : Nat)
  /-- CAN_TX (R436): Host software queues a CAN frame, waking a sleeping channel. -/
  | canTx (r : Req) (buf : Bytes)
  /-- CAN_TX_DONE (R436): A CAN frame finishes transmission and its descriptor completes. -/
  | canTxDone (ch : Nat) (item : CanItem) (how : CanDone)
  /-- CAN_CANCEL (R437): Host software cancels a pending CAN_TX. -/
  | canCancel (r : Req)
  /-- SCHED_LOAD (R435): Host software loads a schedule matrix, replacing the old one at its cycle boundary. -/
  | schedLoad (r : Req) (buf : Bytes)
  /-- SCHED_CELL_OPEN (R434): A matrix cell opens and its object's data is taken and transmission requested. -/
  | schedCellOpen (ch row col : Nat)
  /-- SCHED_WINDOW_DROP (R434): A matrix frame has not started by its window's end less its transmission time and is dropped. -/
  | schedWindowDrop (ch obj : Nat)
  /-- CAN_SLEEP (R439): Host software puts a CAN channel to sleep. -/
  | canSleep (r : Req)
  /-- CAN_WAKE (R439): Host software wakes a sleeping CAN channel. -/
  | canWake (r : Req)
  /-- CANN_WAKE_N (R439): CANn_WAKE_N is low for 50 µs and the channel wakes. -/
  | cannWakeN (ch : Nat)
  /-- BUS_OFF (R438): A CAN controller enters bus-off; pending frames complete and nodes become INVALID. -/
  | busOff (ch : Nat)
  /-- BUS_OFF_RECOVERY (R438): With AUTO_RECOV the controller rejoins after 128 recessive sequences. -/
  | busOffRecovery (ch : Nat)
  /-- DIO_INPUT_EDGE (R440): A filtered DIO input changes, counting edges and yielding an edge item. -/
  | dioInputEdge (ch : Nat) (level : Bool)
  /-- DIO_OUTPUT_LATCH (R441): Every 1 ms CYC latches output word 0 to the digital outputs. -/
  | dioOutputLatch
  /-- DIO_OUTPUT_SHUTDOWN (R441): An output overcurrent or thermal shutdown switches it off and sets FIO_DIOFAULT. -/
  | dioOutputShutdown (ch : Nat)
  /-- DIO_READBACK_FAULT (R441): An output commanded on stays below L+ – 3 V for 10 ms. -/
  | dioReadbackFault (ch : Nat) (holds : Bool)
  /-- LOGIC_SILENCE (R442): CYC does not refresh the output latch for SILENCE_MS; outputs go SAFE and SILENT sets. -/
  | logicSilence
  /-- SILENCE_END (R442): 100 ms after refreshes resume without gap outputs return to the image and SILENT clears. -/
  | silenceEnd
  /-- GROUP_SUPPLY_MISSING (R49): A DIO group supply is lost; its channels read OFF and the group-supply source is raised. -/
  | groupSupplyMissing (group : Nat) (missing : Bool)
  /-- UPD_MANIFEST (R528): Host software delivers a manifest, checked and put into RECEIVING. -/
  | updManifest (r : Req) (buf : Bytes) (sigOk : Bool) (digestsOk : List Bool)
  /-- UPD_BLOCK (R529): Host software delivers a component block, checked and held; the last block triggers all-or-nothing placement. -/
  | updBlock (r : Req) (sum : BitVec 128) (data : BlockData)
  /-- UPD_ACTIVATE_FIRMWARE (R533): UPD_ACTIVATE SCOPE 1 activates firmware and configuration by a module reset at the next round close. -/
  | updActivateFirmware (r : Req)
  /-- UPD_ACTIVATE_CONFIG (R539): UPD_ACTIVATE SCOPE 2 applies a configuration at a target round without reset. -/
  | updActivateConfig (r : Req)
  /-- UPD_CONFIRM (R536): Host software confirms the pending image, releasing the journal. -/
  | updConfirm (r : Req)
  /-- UPD_FALLBACK (R536): Host software falls back to the old image by a module reset. -/
  | updFallback (r : Req)
  /-- UPD_ABORT (R530): Host software abandons RECEIVING and discards received blocks. -/
  | updAbort (r : Req)
  /-- LOADER_BLOCK_WRITE (R531): The loader journals and writes one changed flash block at most every 50 ms. -/
  | loaderBlockWrite (readOk : Bool)
  /-- RECEIVE_TIMEOUT (R530): 600 s without an accepted block ends RECEIVING. -/
  | receiveTimeout
  /-- AUTO_CONFIRM (R536): AUTO_CONFIRM_H hours after PENDING began the image is confirmed. -/
  | autoConfirm
  /-- STAGE5_TIMEOUT (R536): Stage 5 is not reached within 10 s of reset release after activation, and fallback follows. -/
  | stage5Timeout
  /-- SYNC_TMO_EXPIRY (R536): In a pair the module is neither READY standby nor in control within SYNC_TMO of stage 5, and fallback follows. -/
  | syncTmoExpiry
  /-- NO_ROUND_CLOSED_3S (R399): The round engine has closed no round for 3 s; a module in control resigns with cause 7 and a standby stops being READY. -/
  | noRoundClosed3s
  /-- PEER_ACKNOWLEDGEMENT (R393): The acknowledgement of an acknowledged peer-link message (RECORD, RESIGN, SELFTEST, SYNC) arrives; resending stops and, for RECORD, the holder may deliver the signed record to the host. -/
  | peerAcknowledgement (mseq : Nat)
  /-- CAN_TX_DEADLINE (R436): The DEADLINE of a queued CAN_TX passes before the frame starts and the descriptor completes with TX_LATE. -/
  | canTxDeadline (ch tag : Nat)
  /-- LEVEL_CONDITION_END (R500): The condition of a level fault source ends (for example a clock returns or a DIO group supply comes back), the source becomes inactive, PIN releases and a deactivation event record is written. -/
  | levelConditionEnd (source : Nat)
  /-- HOLDUP_STORE_EXHAUSTED (R39): The hold-up store runs out of energy before the sequence completes, the rails collapse and any commit or flush in progress stops unfinished. -/
  | holdupStoreExhausted
deriving DecidableEq, Repr

end Sys2Proof
end

