-- ==== Sys2Proof/Decode.lean ====
section
/-!
DEFINITION. The command that a word spells by the bits of the table. The table gives no row any bits, so no word spells a
command (log entry 1).
-/
namespace Sys2Proof

/-- The command that nbits bits of the word w spell: none, since no row of the table gives bits. -/
def decodeTableWord (_nbits _w : Nat) : Option Instr := none

end Sys2Proof
end

