-- ==== Sys2Proof/Config.lean ====
section
/-!
DEFINITION. What the spec leaves open: free values and functions whose result the spec does not state, each an opaque constant, so
that nothing can be proved of its value (log entry 5).
-/
namespace Sys2Proof.Config

/-- The increment of NET that the servo chooses while it slews (R454), before its bound of ±500 ppm. -/
opaque slewIncrement : Nat → Nat

/-- HMAC-SHA-256 under a key (R330, R493). -/
opaque hmac : Nat → Bytes → Nat

/-- The AES-GCM tag under a key and a nonce over the additional data and the clear text (R330). -/
opaque gcmTag : Nat → Nat → Bytes → Bytes → BitVec 128

/-- The AES-GCM keystream under a key and a nonce: its byte at a position (R493). -/
opaque gcmStream : Nat → Nat → Nat → BitVec 8

/-- The numbers that a random generator gives (R334, R491). -/
opaque random : Nat → Nat

/-- The public point of a P-256 key: X and Y (R493). -/
opaque pubX : Nat → Nat
/-- The Y coordinate of the public point. -/
opaque pubY : Nat → Nat

/-- The 64-byte ECDSA signature of a key over a record (R313). -/
opaque ecdsaSign : Nat → Bytes → Nat

/-- For how long a setting halts the RTC, in ns, before its bound of 61 µs (R466). -/
opaque rtcHalt : Nat → Nat

/-- The trim that a comparison gives the RTC, in 0.01 ppm (R467). -/
opaque rtcTrim : Nat → Int

/-- The structure signature over the items that it covers (R124): the first 8 bytes of SHA-256 over their canonical listing. -/
opaque structDigest : StructItems → BitVec 64

/-- The parameter signature over the items that it covers (R124). -/
opaque paramDigest : ModelImage → BitVec 64

/-- The signature of a pattern (R199): the first 8 bytes of SHA-256 over its sections. -/
opaque patDigest : PatBody → BitVec 64

/-- The order in which the rows of a built pattern are eliminated (R197, R205), by slot and structure signature; a row that it leaves out comes
last. -/
opaque patOrder : Nat → Nat → List Nat

/-- The columns of each panel of a built pattern (R195), before their limit of 64. -/
opaque patPanels : Nat → Nat → List Nat

/-- The time in ns that a panel takes (R195), by the signature of its pattern and its number. -/
opaque panelNs : BitVec 64 → Nat → Nat

/-- The length that takes the place of a bound range where a variable has one bound (R215), by the exponent of its block. -/
opaque boundRange : Int → Nat

/-- The common logarithm of a fraction, as the separator forms it (R139), in 2^-32. -/
opaque log10 : Nat → Nat → Int

/-- The power 0.9 of a number in 2^-8, as the separator forms it (R139), in 2^-8. -/
opaque pow09 : Nat → Nat

/-- The density of the medium at a temperature in mK, in g/m³ (R139). -/
opaque density : Int → Nat

/-- The kinematic viscosity of the medium at a temperature in mK (R139), in 2^-10 mm²/s. -/
opaque viscosity : Int → Nat

/-- The equal-percentage characteristic of a rangeability at a position in 0.1 % (R140), in 2^-16. -/
opaque eqPercent : Nat → Nat → Nat

/-- exp(–n / d) of a fraction (R169), as the curd tracker forms it, in 2^-32, before its limit of 1. -/
opaque expNeg : Nat → Nat → Nat

/-- The linearised conversion of a heat pump or chiller (R237) at a supply and a source temperature in mK: c0 in W, c1 in 2^-16 and c2 in
2^-16 W/mK, by the unit. -/
opaque heatPump : Nat → Int → Int → Int × Int × Int

/-- The yield of a solar-thermal plant at an irradiance in W/m² (R237), in W, by the unit. -/
opaque solarYield : Nat → Nat → Nat

/-- The linearised power of a pump group (R236), by the group and the number of the cycle's free values: a in 2^-16 W/Pa and c in W. -/
opaque pumpPower : Nat → Nat → Int × Int

/-- The type of a LEG day (R231), by its number since 1 January 1970. -/
opaque dayType : Nat → Nat

/-- The demand in W that a prior profile gives for a day type, a quarter-hour of the day and an outdoor temperature in mK (R80). -/
opaque priorDemand : List Int → Nat → Nat → Int → Int

/-- The configured climatology (R232): the outdoor temperature in mK and the irradiance in W/m² at a LEG second. -/
opaque climate : Nat → Int × Nat

/-- DP_req of a pump group (R235), which dispatch computes anew at every cycle for each step. -/
opaque dpReq : Nat → Nat → Nat → Int

/-- The density of water at a temperature in mK (R295), in g/m³. -/
opaque waterDensity : Int → Nat

/-- The enthalpy of water at a temperature in mK (R295), in J/kg. -/
opaque enthalpy : Int → Int

/-- The samples of a channel after its fractional-delay filter (R293), by a phase correction in 0.001°. -/
opaque phaseDelay : Int → List Int → List Int

/-- LENGTH of a peer-link message (R392), by its type and MSEQ: the spec does not state the bytes of the bodies. -/
opaque peerLength : Nat → Nat → Nat

/-- How many occurrences of a performance event that no command shows have come since its counter was last looked at (R518). -/
opaque unseenCount : Nat → Nat

/-- What ARG of a WRITE_IGNORED record holds in place of a BAR0 offset where the access is one to BAR2 (R83, R510; log entry 70). -/
opaque bar2Offset : Nat → Nat

end Sys2Proof.Config
end

