-- ==== Sys2Proof/Machine/State.lean ====
section
/-!
DEFINITION. The state of one module as plain data: every register, store, queue, mode and pin that the spec gives it, the value
of each right after a power-on reset, and the reasons for which a command may stop.
A field's default value is its value at reset; a field that the spec gives no reset value is named in the log (entry 3).
-/
namespace Sys2Proof.Machine

/-- The module never stops on a command: every rule of the spec states an outcome. Nothing raises this reason;
it is the closed type that the interface asks for, and it is safe. -/
inductive Fault where
  /-- Raised by no command. -/
  | none
deriving DecidableEq, Repr

/-- Why a command has no meaning. -/
inductive Refusal where
  /-- The command has no meaning yet: raised by its arm of the dispatch alone. Safe. -/
  | notModelled (mnemonic : String)
deriving DecidableEq, Repr

/-! ## Host interface -/

/-- How a command descriptor ended (R102, R119). -/
structure Done where
  status : Nat
  detail : Nat
  len    : Nat
  mon    : Nat
  data   : Bytes
deriving DecidableEq, Repr

/-- A fetched command descriptor (R101): its submission slot, whether its function has started it, how it ended while it
waits for earlier ones (R105), and the byte offset at which the host's memory fails accesses to its buffer (R104). -/
structure Cmd where
  slot    : Nat
  desc    : Desc
  started : Bool
  done    : Option Done
  fail    : Option Nat := none
deriving DecidableEq, Repr

/-- A posted buffer (R87, R97): no address where INLINE is 1 (R95), and the byte offset at which the host's memory fails writes into it (R104). -/
structure Buf where
  slot : Nat
  tag  : Nat
  addr : Option Nat
  len  : Nat
  irq  : Bool
  fail : Option Nat := none
deriving DecidableEq, Repr

/-- An item of a deferred stream that waits in its source store (R87): the item, its status, whether its entry signals at once (R501), and when it
was finished (R102). -/
structure Item where
  key  : Nat
  irq  : Bool
  data : Bytes
  stat : Nat := 0
  mon  : Nat := 0
deriving DecidableEq, Repr

/-- A ring pair beyond its set-up registers (R88 to R93, R101 to R112). `ended` holds the posted buffers that have ended with a status and wait for
a completion slot (R108, R115, R116). -/
structure Ring where
  subTail   : Nat := 0
  subHead   : Nat := 0
  cmpHead   : Nat := 0
  cmpTail   : Nat := 0
  phase     : Bool := true
  detached  : Bool := false
  fetchErr  : Bool := false
  disabling : Bool := false
  cmds      : List Cmd := []
  posts     : List Cmd := []
  bufs      : List Buf := []
  ended     : List (Buf × Nat) := []
  items     : List Item := []
  lost      : Nat := 0
  armed     : Bool := false
  unsig     : Nat := 0
  oldest    : Nat := 0
deriving DecidableEq, Repr

/-- A write-back entry (R102). -/
structure Entry where
  mon     : Nat
  tag     : Nat
  len     : Nat
  detail  : Nat
  slot    : Nat
  seqtag  : Nat
  status  : Nat
  phase   : Bool
  rxdata  : Bool
  subHead : Nat
deriving DecidableEq, Repr

/-- The host interface beyond its registers: rings, MSI-X and the link (R81 to R117), with the maximum payload and read request sizes and the ASPM
state that the host sets (R81); the last record that each stream of the tally has delivered (R317). -/
structure HifSt where
  rings      : Tbl Ring := []
  msixOn     : Bool := false
  fnMask     : Bool := false
  pba        : List Nat := []
  lastMsg    : Tbl Nat := []
  spaced     : List Nat := []
  linkUp     : Bool := false
  busMaster  : Bool := false
  maxPayload : Nat := 128
  maxRead    : Nat := 512
  aspmL1     : Bool := false
  ownerLeft  : Bool := false
  latch      : List (Requester × Nat × Word) := []
  lastOut    : Tbl Nat := []
deriving DecidableEq, Repr

/-! ## Power, resets and start-up -/

/-- Why the hold-up sequence runs (R37). -/
inductive HoldupWhy where
  | powerFail | presentLost | overTemp | powerdown
deriving DecidableEq, Repr

/-- Why a module reset falls due (R64, R71). -/
inductive ModWhy where
  | software | fault (src : Nat) | watchdog | update | duplex
deriving DecidableEq, Repr

/-- The sequence that runs before the rails go off (R37) or before a module reset (R65). -/
inductive SeqWhy where
  | holdup (why : HoldupWhy)
  | modReset (why : ModWhy)
deriving DecidableEq, Repr

/-- A running sequence: why, and which of its last steps have ended. -/
structure Seq where
  why        : SeqWhy
  commitDone : Bool := false
  flushDone  : Bool := false
deriving DecidableEq, Repr

/-- What CLM3 to CLM0 show (R44). -/
inductive Clm where
  | static0 | standby | control | hiZ
deriving DecidableEq, Repr

/-- The restart kinds that a reset requests (R76). -/
inductive RestartKind where
  | automatic | warm | cold
deriving DecidableEq, Repr

/-- Power, presence and the sequence under way (R30 to R58): whether the rails are on, why they went off and the RTC then, the sequence that runs,
what the CLM lines show and since when, whether FAULT_N has been released, the cages switched off, what each SFP+ module's identification and
diagnostics pages hold, and whether GLB_TEMPMAX has tracked since its last read. -/
structure PwrSt where
  on         : Bool := true
  offWhy     : Option HoldupWhy := none
  seq        : Option Seq := none
  clm        : Clm := .static0
  clmAt      : Nat := 0
  presentAt  : Nat := 0
  faultHigh  : Bool := false
  sfpOff     : List Nat := []
  sfpPage    : Tbl Bytes := []
  tempMaxOk  : Bool := false
  offRtc     : Nat := 0
deriving DecidableEq, Repr

/-- Resets and start-up (R62 to R80). -/
structure StartSt where
  blkRst      : List Block := []
  request     : RestartKind := .automatic
  commitProg  : BitVec 64 := 0
  commitModel : BitVec 64 := 0
  outputsLive : Bool := false
  recovery    : Bool := false
  releasedAt  : Nat := 0
  stage5At    : Nat := 0
deriving DecidableEq, Repr

/-! ## Faults, events and counters -/

/-- The collector beyond its registers (R498 to R507); `stopped` while the clock of its island has failed (R505). -/
structure FcoSt where
  cond      : List Nat := []
  active    : List Nat := []
  window    : Tbl Nat := []
  opened    : Tbl Nat := []
  forced    : Tbl Nat := []
  waitBlk   : List Nat := []
  first     : Option Nat := none
  integrity : Bool := false
  stopped   : Bool := false
deriving DecidableEq, Repr

/-- An event record (R508). -/
structure Evt where
  seq   : Nat
  mon   : Nat
  code  : Nat
  group : Nat
  flags : Nat
  suppr : Nat
  boot  : Nat
  arg   : Nat
deriving DecidableEq, Repr

/-- The event recorder beyond its registers (R511 to R517). The log is oldest first. -/
structure EvrSt where
  newest    : Nat := 0
  nextSeq   : Nat := 1
  staged    : List Evt := []
  log       : List Evt := []
  spent     : Tbl Nat := []
  refillAt  : Tbl Nat := []
  flushAt   : Nat := 0
  pend      : Tbl Nat := []
  cursor    : Nat := 0
  window    : Bytes := []
  delivered : Nat := 0
  noRoom    : Nat := 0
  header    : Nat := 0
  filled    : Bool := false
deriving DecidableEq, Repr

/-- One bandwidth window (R522). -/
structure BwSt where
  tx : Nat := 0
  rx : Nat := 0
  rxLatch : Option Word := none
  running : Bool := false
  at_ : Nat := 0
deriving DecidableEq, Repr

/-- The performance counters (R518 to R523). -/
structure PmcSt where
  count   : Tbl Nat := []
  snap    : Tbl Nat := []
  snapMon : Nat := 0
  sample  : Nat := 0
  lastAt  : Nat := 0
  bw      : Tbl BwSt := []
deriving DecidableEq, Repr


/-! ## Configuration and time -/

/-- The quality of NET (R453). -/
inductive NetQ where
  | free | localQ | sync | holdover
deriving DecidableEq, Repr

/-- The time domains, the real-time clock and the backup domain beyond their registers (R450 to R480). Counts of ns carry a fraction
in units of 2^-32 ns. -/
structure TimSt where
  mon        : Nat := 0
  monF       : Nat := 0
  net        : Nat := 0
  netF       : Nat := 0
  bus        : Nat := 0
  busF       : Nat := 0
  incrMon    : Nat := 8589934592
  incrNet    : Nat := 8589934592
  incrBus    : Nat := 8589934592
  quality    : NetQ := .free
  slave      : Nat := 0
  inWin      : Nat := 0
  outWin     : Nat := 0
  inLimit    : Nat := 0
  stepPend   : Bool := false
  acceptNext : Bool := false
  gm         : Option Nat := none
  gmClass    : Nat := 0xF8
  gmAcc      : Nat := 0xFE
  gmUtc      : Option Int := none
  rejects    : List Nat := []
  leapUntil  : Nat := 0
  legValid   : Bool := false
  legEver    : Bool := false
  lastSync   : Nat := 0
  launched   : Tbl Nat := []
  rtc        : Nat := 0
  stamp      : Nat := 0
  shadow     : Nat := 0
  alarm      : Nat := 0
  period     : Nat := 0
  lastWake   : Nat := 0
  latchOk    : Bool := true
  haltUntil  : Nat := 0
  cmpAt      : Option Nat := none
  measAt     : Option Nat := none
  source     : Option BackupSource := some .main
deriving DecidableEq, Repr
/-- An entry of the tamper log (R489): the RTC time and the source of KST_STAT.LAST_TAMPER. -/
structure TamperEntry where
  rtc    : Nat
  source : Nat
deriving DecidableEq, Repr

/-- The key store beyond its registers (R481 to R493). Material never leaves it in clear; the slot attributes are registers. -/
structure KstSt where
  material   : Tbl Nat := []
  root       : Option Nat := none
  rederived  : List Nat := []
  sessions   : List Nat := []
  saks       : Tbl Nat := []
  kn         : Tbl Nat := []
  hiKn       : List (Nat × Nat) := []
  tamperLog  : List TamperEntry := []
  tamperPend : Bool := false
  fpr        : Option Nat := none
  prov       : Option Nat := none
  nu         : Option Nat := none
  helloAt    : Option Nat := none
  wraps      : Tbl Nat := []
  cert       : Bytes := []
deriving DecidableEq, Repr

/-! ## The network model -/

/-- The model slots (R129 to R134): the active, the previous and the staged image, the target round while ARMED, whether the record
of R133 is made, and whether the last swap was structural (R136). -/
structure ModelSt where
  active     : Option ModelImage := none
  prev       : Option ModelImage := none
  staged     : Option ModelImage := none
  armed      : Option Nat := none
  recorded   : Bool := false
  lastStruct : Bool := false
  swaps      : Nat := 0
deriving DecidableEq, Repr

/-! ## Rounds and stations -/

/-- Session states (R340, R363). -/
inductive Sess where
  | dormant | enrolling | active | suspect | lost | retired
deriving DecidableEq, Repr

/-- A sample of a station (R349). -/
structure Sample where
  vol     : Int
  tw      : Int
  tc      : Int
  invalid : Bool
deriving DecidableEq, Repr

/-- An accepted READ_REP (R348), with the epoch of its session and the fetch of the request that it answers (R347). -/
structure Reply where
  epoch       : Nat
  rstat       : Nat
  firstCur    : Nat
  firstFetch  : Nat
  fetchEpoch  : Nat
  heldClaim   : Nat
  lastApplied : Nat
  cgen        : Nat
  vFwd        : Nat
  vRev        : Nat
  eImp        : Nat
  eExp        : Nat
  draw        : Int
  tWarm       : Int
  tCool       : Int
  pWarm       : Option Int
  pCool       : Option Int
  time        : Nat
  appIn       : List Nat
  cur         : List Sample
  fetched     : List Sample
  diag        : Bytes
  rxMon       : Nat
deriving DecidableEq, Repr

/-- A command entry of a WRITE (R350). -/
structure CmdEntry where
  seq  : Nat
  kind : Nat
  vals : List Int
deriving DecidableEq, Repr

/-- What a round holds of one station (R342 to R346, R356). -/
structure StnRound where
  listed      : Bool := false
  reads       : Nat := 0
  fetch       : Option (Nat × Nat) := none
  ackTo       : Nat := 0
  queries     : List Req := []
  reply       : Option Reply := none
  onList      : Bool := false
  wrOpen      : Bool := false
  writes      : Nat := 0
  cmds        : List CmdEntry := []
  answered    : List Nat := []
  written     : Bool := false
  budgetAck   : Option Nat := none
  acks        : List (Nat × Nat) := []
  drops       : Nat := 0
  sentAt      : Nat := 0
  unreached   : Bool := false
  epochChanged : Bool := false
  stateChanged : Bool := false
  tagFailed   : Bool := false
  seqFailed   : Bool := false
deriving DecidableEq, Repr

/-- One station (R340, R354, R363). `vals` holds the values of the kinds other
than BUDGET by index, and `want` those that no WRITE_ACK has answered (R350). -/
structure StnSt where
  state       : Sess := .dormant
  epoch       : Nat := 0
  ns          : Option Nat := none
  nm          : Option Nat := none
  sps         : Nat := 0
  appIn       : Nat := 0
  appOut      : Nat := 0
  kind        : Nat := 0
  cgen        : Nat := 0
  addr        : Nat := 0
  port        : Nat := 0
  everActive  : Bool := false
  enrolCloses : Nat := 0
  misses      : Nat := 0
  hiSeq       : Nat := 0
  window      : List Nat := []
  tx          : Nat := 0
  lastReject  : Option Nat := none
  noFetch     : Tbl Nat := []
  vals        : Tbl (List Int) := []
  want        : Tbl (List Int) := []
  retire      : Option (Option Req) := none
  query       : List Req := []
  lastListed  : Bool := false
  lastReadOk  : Bool := false
  lastWritten : Bool := false
  isLocal     : Bool := false
  fallback    : Bool := false
  prevEpoch   : Option Nat := none
  lastDt      : Option Int := none
  lastTemps   : Option (Int × Int) := none
  round       : StnRound := {}
deriving DecidableEq, Repr

/-- The phase of the round in progress (R19). -/
inductive Phase where
  | idle | read | compute | write
deriving DecidableEq, Repr

/-- The round engine (R342 to R356): the stations, the round number, the phase, the instant of the round start and its NET second, whether the module's first
write phase is that of the next round (R72), the boundaries in force, and what the round's records show. -/
structure RndSt where
  stns       : Tbl StnSt := []
  number     : Nat := 0
  phase      : Phase := .idle
  frozen     : Bool := false
  started    : Bool := false
  anchor     : Nat := 0
  holdWrite  : Bool := false
  bounds     : Word := 0x5F463C23
  peerBounds : Option Word := none
  switched   : Bool := false
  rndReset   : Bool := false
  fseqGen    : Nat := 0
  port       : Nat := 4757
  closes     : Nat := 0
deriving DecidableEq, Repr


/-! ## The tally -/

/-- Exact sums of a source (R295 to R297, R302, R304): import, export and over-budget energy, the four reactive quadrants, the volumes and
the volume of invalid samples, the duration of invalid samples in ms, reversals and samples. The units are those of log entry 7. -/
structure Sums where
  imp   : Nat := 0
  exp   : Nat := 0
  excess : Nat := 0
  q     : List Nat := [0, 0, 0, 0]
  vFwd  : Nat := 0
  vRev  : Nat := 0
  vErr  : Nat := 0
  tErr  : Nat := 0
  revs  : Nat := 0
  samples : Nat := 0
deriving DecidableEq, Repr

/-- What a report's counters and registers show at the end of a sample (R302, R303, R349). -/
structure Mark where
  epoch : Nat
  num   : Nat
  t     : Nat
  onMon : Bool
  sps   : Nat
  cgen  : Nat
  vFwd  : Nat
  vRev  : Nat
  eImp  : Nat
  eExp  : Nat
  dt    : Int
deriving DecidableEq, Repr

/-- Missing samples of one epoch, `lo` to `hi`; sample `refN` ended at `refT` (R300). -/
structure Piece where
  epoch : Nat
  lo    : Nat
  hi    : Nat
  refN  : Nat
  refT  : Nat
  sps   : Nat
deriving DecidableEq, Repr

/-- A stretch between two reports (R303): what still lacks, the volumes recovered in it, and whether an interval's END divides it. -/
structure Gap where
  before : Option Mark
  after  : Mark
  pieces : List Piece
  fwd    : Nat := 0
  rev    : Nat := 0
  split  : Bool := false
deriving DecidableEq, Repr

/-- An interval of a source that has no record yet (R303, R309 to R312): its START and END in ns of LEG or MON, its sums, the register
energies of a full station, and what its record carries. -/
structure Ival where
  start    : Nat
  onMon    : Bool := false
  stop     : Option Nat := none
  sums     : Sums := {}
  full     : Bool := false
  regImp   : Nat := 0
  regExp   : Nat := 0
  short    : Bool := false
  merged   : Bool := false
  legBad   : Bool := false
  final    : Bool := false
  gap      : Bool := false
  isOver     : Bool := false
  missing  : Nat := 0
  unsavedNs : Nat := 0
  outageNs : Nat := 0
  pq       : Nat := 0
  umin     : Option Nat := none
  umax     : Option Nat := none
  calAt    : Nat := 0
  expired  : Bool := false
deriving DecidableEq, Repr

/-- A span that has no record yet (R303, R307, R308, R311, R316): times in ns. -/
structure Span where
  kind    : Nat
  srcType : Nat
  source  : Nat
  sflags  : Nat
  start   : Nat
  stop    : Nat
  timeMon : Bool
  vFwd    : Nat
  vRev    : Nat
  eImp    : Nat
  eExp    : Nat
  dt0     : Option Int
  dt1     : Option Int
  merged  : Bool
deriving DecidableEq, Repr

/-- A source of the tally (R285, R299 to R305): whether it is metered, its totals at its last closed interval with their residues, the
RECORD_SEQ of its last record and of its last span record, its open intervals with the oldest first, the sign of its last volume, its
last report, the stretches that lack samples, the temperature difference of its last sample, the samples discarded as repeated or late,
the latched budgets with the OVER state (R304), and the END of its last record. -/
structure TlySrc where
  on      : Bool := true
  totals  : Sums := {}
  recSeq  : Nat := 0
  spanSeq : Nat := 0
  ivals   : List Ival := []
  fwdLast : Option Bool := none
  last    : Option Mark := none
  gaps    : List Gap := []
  dt      : Option Int := none
  dupes   : Nat := 0
  bud     : List (Nat × Int × Bool) := []
  endAt   : Nat := 0
deriving DecidableEq, Repr

/-- A commit bank (R305). -/
structure Bank where
  seq   : Nat
  leg   : Nat
  onMon : Bool
  rtc   : Nat
  final : Bool
  srcs  : Tbl TlySrc
deriving DecidableEq, Repr

/-- A record of the store (R309, R315): `held` is unsigned under R314, `waiting` for the peer's acknowledgement (R409), `queued` once it is
in its stream, `acked` once BILL_ACK covers it. -/
structure Rec where
  store   : Nat
  rtype   : Nat
  source  : Nat
  recSeq  : Nat
  status  : Nat
  stream  : Nat
  bytes   : Bytes
  check   : Bool
  held    : Bool
  waiting : Bool
  queued  : Bool
  acked   : Bool
deriving DecidableEq, Repr

/-- The tally (R285 to R325): its sources by kind × 2^32 + number (kinds 1 station, 2 feeder, 3 local heat meter), the two banks and the bank of the
latest complete commit, the marker (RTC time and COMMIT_SEQ), the record store, spans that wait for
the store, the calibration in flash, the channels that failed their test, the samples since an L sample passed the limit, the test pulses, the
BILL_INT in force, the instant of the last roll of intervals and whether LEG was valid at it, the MON of each feeder's last clipped block, and
that of the last commit. -/
structure TlySt where
  srcs     : Tbl TlySrc := []
  bank0    : Option Bank := none
  bank1    : Option Bank := none
  latest   : Nat := 1
  seq      : Nat := 0
  marker   : Option (Nat × Nat) := none
  markUsed : Bool := false
  store    : List Rec := []
  nextStore : Nat := 1
  spans    : List Span := []
  owed     : List Span := []
  spanStart : Bool := false
  calCount : Nat := 0
  calFlash : Tbl Word := []
  failed   : List Nat := []
  quiet    : Tbl Nat := []
  pulseAcc : Nat := 0
  pulses   : List Nat := []
  billInt  : Bool := false
  lastRoll : Nat := 0
  wasValid : Bool := false
  metering : Bool := false
  clipAt   : Tbl Nat := []
  commitAt : Nat := 0
deriving DecidableEq, Repr
/-! ## The churn -/

/-- A pattern slot that is not EMPTY (R197, R199). -/
structure PatSlot where
  kindQp    : Bool
  freeStand : Bool
  nVars     : Nat
  nCons     : Nat
  structSig : BitVec 64
  patSig    : BitVec 64
  factorNnz : Nat
  lineage   : Nat
  longestNs : Nat
  body      : PatBody
deriving DecidableEq, Repr

/-- Where a churn job stands (R217). -/
inductive JobStage where
  | forming | between | factor | solve
deriving DecidableEq, Repr

/-- A column of a partial factor (R193, R205, R206): its row, its pivot normalised, whether the pivot was replaced, the exponent of its part of L,
and for each later row that it reaches the mantissa of L with the mantissa and the exponent of L·D. -/
structure FactorCol where
  row      : Nat
  pivM     : Int
  pivE     : Int
  replaced : Bool
  lExp     : Int
  below    : List (Nat × Int × Int × Int)
deriving DecidableEq, Repr

/-- A job of the churn (R200 to R220). A fast-port job has no descriptor. It holds its pattern once it has begun, its input, the columns
factorised so far and the panels done, and the current iterate (R196). -/
structure Job where
  req       : Option Req
  qp        : Bool
  slot      : Nat
  patSig    : BitVec 64 := 0
  outLen    : Nat := 0
  outAddr   : Nat := 0
  deadline  : Nat := 0
  refine    : Nat := 2
  maxIter   : Nat := 40
  epsExp    : Nat := 16
  start     : Nat := 0
  begun     : Bool := false
  parked    : Bool := false
  stage     : JobStage := .forming
  iters     : Nat := 0
  best      : Option (Nat × IterPoint) := none
  bestRps   : List Nat := []
  factors   : Nat := 0
  preempts  : Nat := 0
  regPivots : Nat := 0
  sat       : Option Nat := none
  mapped    : Nat := 0
  cold      : Nat := 0
  dropped   : Nat := 0
  lineDiff  : Bool := false
  param     : Option JobParam := none
  pat       : Option PatSlot := none
  input     : List JobSection := []
  cols      : List FactorCol := []
  panel     : Nat := 0
  cur       : Option Iterate := none
  piv       : Word := 0
deriving DecidableEq, Repr

/-- A value of a warm start (R202, R214): its identifier, quantity index and step, its exponent and its mantissa. -/
structure WarmVal where
  mid  : Nat
  qty  : Nat
  step : Nat
  exp  : Int
  m    : Int
deriving DecidableEq, Repr

/-- The values that the last solution leaves for the next warm start (R242): x, the bound duals and y. -/
structure WarmVals where
  x  : List WarmVal
  zl : List WarmVal
  zu : List WarmVal
  y  : List WarmVal
deriving DecidableEq, Repr

/-- How a solve of the firmware's pair 0 ended (R204, R219): the status, the point where one was written with the plan and
the values that it gives, and what the result header showed. -/
structure SolveEnd where
  slot      : Nat
  status    : Nat
  case      : Nat
  point     : Option IterPoint
  plan      : List PlanVar
  merit     : Nat
  objective : Int
  iters     : Nat
  cold      : Nat
  warm      : Option WarmVals
deriving DecidableEq, Repr

/-- The churn: the patterns of the current and of the idle bank, the three contexts, the waiting jobs of pairs 0 to 3, the context that
computes, the pair that RH served last, and the ends of the firmware's jobs (R194, R197, R198). -/
structure ChuSt where
  pats      : Tbl PatSlot := []
  idle      : Tbl PatSlot := []
  building  : Bool := false
  f         : Option Job := none
  r0        : Option Job := none
  rh        : Option Job := none
  queue     : List Job := []
  comp      : Option Ctx := none
  lastPair  : Nat := 3
  ends      : List SolveEnd := []
deriving DecidableEq, Repr

/-! ## The separator -/

/-- A node of an estimate (R154): the pressure in 1/256 Pa and the temperature in mK. -/
structure NodeEst where
  p    : Int
  temp : Option Int
deriving DecidableEq, Repr

/-- A branch of an estimate (R154): the flow in 1/256 L/h, the setting in 0.1 % and the source. -/
structure BranchEst where
  q       : Int
  setting : Nat
  source  : Nat
deriving DecidableEq, Repr

/-- A published estimate (R151): its nodes and branches by model identifier, in dense order. -/
structure Estimate where
  round    : Nat
  mon      : Nat
  nodes    : List (Nat × NodeEst)
  branches : List (Nat × BranchEst)
deriving DecidableEq, Repr

/-- A term of the sum of R144: `what` is the quantity, `idx` the dense index of its node or branch, z and sigma are in the record unit,
k is the redundancy number in 1/256, `tested` is 0 for a term that R147 never tests, `reason` is 0 while the term is in the sum. -/
structure MeasIn where
  mid    : Nat
  what   : Nat
  idx    : Nat
  z      : Int
  sigma  : Nat
  k      : Nat
  tested : Bool
  point  : Bool
  reason : Nat
  nres   : Nat
deriving DecidableEq, Repr

/-- What is fixed for a branch through a round (R139, R140): the coefficient, the transition flow, the gravity term and the head at zero
flow. -/
structure BranchFix where
  r     : Nat
  qt    : Nat
  grav  : Int
deriving DecidableEq, Repr

/-- The step of a round's work. -/
inductive SepStage where
  | newton | wls
deriving DecidableEq, Repr

/-- The separator's work on a round (R139 to R149): the settings of actuators are held in 1/256 of 0.1 %, `held` marks the branches whose equation gives
way to a boundary flow, `net` is the network whose job is under way and `stepQ`, `stepP`, `stepS` the steps that the jobs of the iteration have given;
`temps` and `preds` are the temperature measurements and the predictions of the snapshot, and the four registers act as they stood when the phase
opened. -/
structure SepWork where
  stage     : SepStage := .newton
  opened    : Nat
  fixed     : List BranchFix
  q         : List Int
  p         : List Int
  set       : List Int
  qN        : List Int := []
  pN        : List Int := []
  shut      : List (Bool × Nat)
  source    : List Nat
  meas      : List MeasIn
  iters     : Nat := 0
  noDescent : Nat := 0
  passes    : Nat := 0
  passAt    : Nat := 0
  passDur   : Nat := 0
  qtol      : Nat
  ptol      : Nat
  resQ      : Nat := 0
  resP      : Nat := 0
  loose     : Bool := false
  unresolved : Bool := false
  pivotReg  : Bool := false
  flat      : Bool := false
  missing   : Bool := false
  unreached : Nat := 0
  held      : List Bool := []
  setN      : List Int := []
  net       : Nat := 0
  stepQ     : Tbl Int := []
  stepP     : Tbl Int := []
  stepS     : Tbl Int := []
  temps     : List (Nat × MeasIn) := []
  preds     : Tbl (Int × Nat) := []
  objective : Nat := 0
  used      : Nat := 0
  ctl       : Word := 0
  newton    : Word := 0
  bd        : Word := 0
  prior     : Word := 0
deriving DecidableEq, Repr

/-- The separator (R137 to R163): the last published estimate, whether one was published since the restart, the round's work, the
overrides and exclusions, what the next round starts from, and the temperature points of the round's snapshot with whether each is of no use. -/
structure SepSt where
  est      : Option Estimate := none
  fresh    : Bool := false
  work     : Option SepWork := none
  sigmas   : List ((Nat × Nat) × Nat) := []
  excl     : List (Nat × Nat) := []
  flatNext : Bool := false
  diverged : Bool := false
  settled  : Bool := false
  snap     : Tbl (Int × Bool) := []
deriving DecidableEq, Repr

/-! ## The curd tracker -/

/-- A curd (R164): its volume in 1/1024 mL, its temperature in 1/1024 mK and the seeded fraction in 2^-16. -/
structure Curd where
  vol  : Nat
  temp : Int
  seed : Nat
deriving DecidableEq, Repr

/-- The projection and the delay table of a receiving port (R174 to R176, R182). -/
structure PortFcst where
  mid     : Nat
  net     : Nat
  sources : List (Nat × Nat × Nat)
  other   : Nat
  cycle   : Bool
  bins    : List (Option Int)
  sigma   : Nat
deriving DecidableEq, Repr

/-- The curd tracker (R164 to R188): the curds of each pipe by model identifier, from the from-node end; the hold-up volumes of the
nodes and what nodes owe; the layers of the stores; the last flows that were not stalled; the last fresh ground temperatures; the pipes not yet
rebuilt and the networks of a requested rebuild; the state of each network, those that are settling, the forecast of the ports and the predictions by
node. -/
structure CtrSt where
  curds     : Tbl (List Curd) := []
  hold      : Tbl Curd := []
  owed      : Tbl Nat := []
  layers    : Tbl (List Curd) := []
  lastSign  : Tbl Bool := []
  ground    : Tbl Int := []
  unrebuilt : List Nat := []
  rebuildReq : List Nat := []
  netState  : List Nat := []
  settling  : List Nat := []
  ports     : List PortFcst := []
  preds     : Tbl (Int × Nat) := []
  dumps     : List (Req × Nat) := []
  stepped   : Bool := false
deriving DecidableEq, Repr


/-! ## Field interfaces -/

/-- What a CAN node's binding holds of one receive frame (R433): NEW, the held copy and the alive byte last accepted. -/
structure CanRxSt where
  isNew : Bool := false
  data  : Bytes := []
  alive : Option (BitVec 8) := none
deriving DecidableEq, Repr

/-- A pending CAN_TX (R436, R437) and the CAN_CANCEL that waits for how its arbitration ends. -/
structure CanTx where
  req      : Req
  tag      : Nat
  frame    : CanFrame
  deadline : Nat
  cancel   : Option Req
deriving DecidableEq, Repr

/-- A CAN channel beyond its registers (R431 to R439): pending frames, the receive frames of its nodes by node × 4 + frame, the matrix in
force and the one that replaces it, the matrix frames that wait for arbitration with the data taken and the BUS time at which each is dropped, when the channel
last woke, when a missed frame was last recorded, the BUS time from which its matrix runs after an adjustment, the set-up in force since the channel was enabled. -/
structure CanSt where
  pend    : List CanTx := []
  rx      : Tbl CanRxSt := []
  matrix  : Option Matrix := none
  next    : Option Matrix := none
  cells   : List (Nat × CanFrame × Nat) := []
  wokeAt  : Option Nat := none
  missAt  : Option Nat := none
  busFrom : Nat := 0
  inForce : Word := 0x20321485
deriving DecidableEq, Repr

/-- A frame in a transmit queue of a port (R423, R429). -/
structure EthTx where
  req    : Req
  queue  : Nat
  launch : Nat
  data   : Bytes
deriving DecidableEq, Repr

/-- A receive channel of MACsec (R427): its SCI, the association in use with its highest packet number, and the one before it with its, and since when. -/
structure MacRx where
  sci : Nat
  an  : Nat
  pn  : Nat
  old : Option (Nat × Nat × Nat)
deriving DecidableEq, Repr

/-- An Ethernet port beyond its registers (R421 to R430): its queues, its gate list and the list that replaces it with the NET time of its load, the
association number and the packet number of its transmit channel, its receive channels, when a supervision frame last came, the echo replies of the last second, and when a key number was last announced. -/
structure EthSt where
  queues  : List EthTx := []
  gates   : Option GateList := none
  nextGates : Option (GateList × Nat) := none
  txAn    : Option Nat := none
  txPn    : Nat := 0
  rx      : List MacRx := []
  lastSup : Nat := 0
  echoes  : List Nat := []
  knaAt   : Option Nat := none
deriving DecidableEq, Repr

/-- The ring (R425): the next HSR sequence number, the duplicate table (source, sequence number, MON), the node table (source, MON), and when the
module last sent a supervision frame. -/
structure HsrSt where
  seq   : Nat := 0
  seen  : List (Nat × Nat × Nat) := []
  nodes : List (Nat × Nat) := []
  supAt : Option Nat := none
deriving DecidableEq, Repr

/-- The digital channels beyond their registers (R440 to R443): the filtered inputs, the counters, when an edge item last went out, the output latch
and its last refresh, since when refreshes come without a gap after a silence, the channels in shutdown, those with a readback fault, and since when a channel has been commanded 0. -/
structure DioSt where
  inputs : Word := 0
  counts : Tbl Word := []
  items  : Tbl Nat := []
  latch  : Word := 0
  latchAt : Nat := 0
  resumeAt : Option Nat := none
  shut   : List Nat := []
  readback : List Nat := []
  zeroAt : Tbl Nat := []
deriving DecidableEq, Repr

/-! ## The loop engine -/

/-- A requested mode of a loop (R276): MANOUT where it gives one, and the operations that end when it takes effect. -/
structure ModeReq where
  mode   : Nat
  manout : Option Int
  reqs   : List Req
deriving DecidableEq, Repr

/-- A pending swap (R272) and the operation that ends with it. -/
structure SwapReq where
  req : Option Req
  len : Nat
deriving DecidableEq, Repr

/-- A loop (R260 to R278). i is Q2.62; d, pv, sp, e, p, ff, v and y are Q2.30; spU is the ramped set-point and spDisp the dispatch set-point in
PV units, spU in millionths. `bump` marks a transfer under R270, `fresh` a restart under R268. -/
structure LoopSt where
  struct   : Option LoopRec := none
  bankA    : Option CoefRec := none
  bankB    : Option CoefRec := none
  useB     : Bool := false
  mode     : Nat := 0
  modeReq  : Option ModeReq := none
  swap     : Option SwapReq := none
  manout   : Int := 0
  hold     : Nat := 0
  track    : Bool := false
  fresh    : Bool := false
  bump     : Bool := false
  satHi    : Bool := false
  satLo    : Bool := false
  rateLim  : Bool := false
  swapSat  : Bool := false
  pvSat    : Bool := false
  i        : Int := 0
  d        : Int := 0
  pv       : Int := 0
  sp       : Int := 0
  e        : Int := 0
  p        : Int := 0
  ff       : Int := 0
  v        : Int := 0
  y        : Int := 0
  spU      : Int := 0
  spLocal  : Int := 0
  spDisp   : Option Int := none
  swaps    : Nat := 0
  lastSwap : Nat := 0
  last     : Nat := 0
deriving DecidableEq, Repr

/-- What the MRAM snapshot holds of a loop (R270). -/
structure LoopSnap where
  mode    : Nat
  i       : Int
  y       : Int
  spU     : Int
  spLocal : Int
  manout  : Int
deriving DecidableEq, Repr

/-- A trace unit (R279, R280): its set-up, whether it is armed and triggered, its samples with the newest first, the samples recorded since
the trigger, the time of the trigger sample, and how many samples were skipped. -/
structure TraceSt where
  cfg    : Option TraceRec := none
  armed  : Bool := false
  hit    : Bool := false
  rows   : List (List Int) := []
  pre    : Nat := 0
  mon    : Nat := 0
  skip   : Nat := 0
  reconf : Bool := false
deriving DecidableEq, Repr

/-- The loop engine: its loops, its trace units, the MRAM snapshot (R270) and the MON of the last base tick (R260). -/
structure LpeSt where
  loops  : Tbl LoopSt := []
  traces : Tbl TraceSt := []
  snap   : Tbl LoopSnap := []
  tickAt : Nat := 0
deriving DecidableEq, Repr

/-! ## Dispatch -/

/-- A command of a unit (R245): its sequence number, its kind, values and TXN, the serial of its atomic group, when it was first sent, the
CODE of its acknowledgement, and whether its outcome is known. -/
structure UnitCmd where
  mid   : Nat
  seq   : Nat
  kind  : Nat
  vals  : List Int
  txn   : Nat
  group : Nat
  first : Nat
  code  : Option Nat
  ended  : Bool
deriving DecidableEq, Repr

/-- A two-phase transaction of an atomic group (R247): its TXN, its phase (1 prepared, 2 committed, 3 aborted), the values that it sets and
those that stood before, whether a loop-driven member could not accept at the PREPARE, whether it is to be aborted (R249). -/
structure Txn where
  group : Nat
  txn   : Nat
  phase : Nat
  first : Nat
  vals  : Tbl (List Int)
  prev  : Tbl (List Int)
  bad   : Bool
  abort : Bool
deriving DecidableEq, Repr

/-- What dispatch has frozen for a cycle (R228) and what its record reports (R255): how far τ0 lies in step 0, the bounds of the step-0 set-points, for each
network the signed terms of its heat balance with the pipe loss and the forecast demand, and how many models had been swapped in. -/
structure Cycle where
  round     : Nat
  estRound  : Nat := 0
  tau0      : Nat := 0
  step0     : Nat := 0
  onMon     : Bool := false
  submitted : Nat := 0
  slot      : Nat := 0
  legBad    : Bool := false
  shift     : Bool := false
  bounds    : List (Nat × Nat × Int × Int) := []
  nets      : List (List (Nat × Nat × Int) × Int × Int) := []
  swaps     : Nat := 0
  lineage   : Nat := 0
  into      : Nat := 0
  status    : Nat := 0
  reason    : Nat := 0
  chu       : Nat := 0
  iters     : Nat := 0
  merit     : Nat := 0
  objective : Int := 0
  solveMs   : Nat := 0
  cold      : Nat := 0
  accepted  : Option Nat := none
  plan      : List PlanVar := []
deriving DecidableEq, Repr

/-- The last solution of the churn (R242): where its step 0 stood, its lineage and its variables. -/
structure WarmSol where
  step0   : Nat
  onMon   : Bool
  tau0    : Nat
  lineage : Nat
  vals    : WarmVals
deriving DecidableEq, Repr

/-- Dispatch (R227 to R259): the anchor round, the interval in force, the parameters as set and as they act; the cycle whose solve is
outstanding, the accepted plan that waits for the write phase, the cycle whose commands are under way, the plan in force; what the next
record counts (commands, units, refusals, aborts); the stations; the district confidence in millionths of a per cent. -/
structure DispSt where
  anchor     : Option Nat := none
  interval   : Nat := 60
  params     : Tbl Nat := []
  act        : Tbl Nat := []
  force      : Bool := false
  solving    : Option Cycle := none
  waiting    : Option (Plan × Cycle) := none
  acting     : Option Cycle := none
  plan       : Option Plan := none
  warm       : Option WarmSol := none
  step       : Nat := 0
  fallback   : Bool := true
  conserve   : Bool := true
  prices     : Tbl (List (Nat × List Int)) := []
  weather    : List (Nat × List (Int × Nat)) := []
  hostMode   : Tbl Nat := []
  freeze     : List Nat := []
  toSend     : List Nat := []
  cmds       : List UnitCmd := []
  txns       : List Txn := []
  accCmds    : List UnitCmd := []
  accSent    : List Nat := []
  accRefused : List Nat := []
  accAborted : Nat := 0
  accComp    : Bool := false
  demand     : Tbl Int := []
  setW       : Tbl (List Int) := []
  outlets    : Tbl (List (Nat × Int)) := []
  stns       : Tbl StnDisp := []
  district   : Nat := 0
  legMon     : Nat := 0
  legAt      : Nat := 0
  dayLegOk   : Bool := false
  day        : Nat := 0
  quarter    : Nat := 0
deriving DecidableEq, Repr

/-! ## The cyclic program -/

/-- A task of the active program (R364 to R367): the activation of the running instance, whether it waits for the next round start, when its
last overrun was recorded. -/
structure TaskSt where
  running  : Option Nat := none
  held     : Bool := false
  lastOvr  : Option Nat := none
  actAt    : Option Nat := none
  actRound : Option Nat := none
  copy     : Tbl Word := []
deriving DecidableEq, Repr

/-- The two retained banks of a task (R376): each holds the values of a complete write, `second` tells which is the latest. -/
structure RetainBanks where
  first  : Option (List (BitVec 64 × Nat)) := none
  other  : Option (List (BitVec 64 × Nat)) := none
  second : Bool := false
deriving DecidableEq, Repr

/-- A scheduled exchange (R380 to R383): its target round, the requester, whether the program is frozen, what was captured and when, what has
been mapped, and the counts and entries of the exchange record. -/
structure Exchange where
  target : Nat
  sig    : BitVec 64
  req    : Option Req
  frozen : Bool := false
  captured : Option (Nat × List (BitVec 64 × Nat) × List (BitVec 64 × Nat)) := none
  mapped : Option (List (BitVec 64 × Nat) × List (BitVec 64 × Nat)) := none
deriving DecidableEq, Repr

/-- Cyclic program execution (R364 to R388): the active and the staged program, the values of variables, timers and edge detectors, the instant at which
timers carried over an exchange were captured, the retained banks, the overlay, the writes that wait for the next instance, the tasks, the exchange,
whether the program ran at the last commit, and the I/O images with the MON stamps of the input areas. -/
structure CycSt where
  prog     : Option ProgImage := none
  staged   : Option ProgImage := none
  vals     : List (BitVec 64 × Nat) := []
  carried  : Tbl Nat := []
  retained : Tbl RetainBanks := []
  overlay  : List (BitVec 64 × Nat) := []
  writes   : List (BitVec 64 × Nat) := []
  tasks    : Tbl TaskSt := []
  exch     : Option Exchange := none
  wasRun   : Bool := false
  inp      : Tbl Word := []
  outw     : Tbl Word := []
  stamps   : Tbl Nat := []
deriving DecidableEq, Repr

/-- The field interfaces beyond their registers (R421 to R449). -/
structure FioSt where
  cans  : Tbl CanSt := []
  eths  : Tbl EthSt := []
  hsr   : HsrSt := {}
  dio   : DioSt := {}
deriving DecidableEq, Repr

/-! ## Update -/

/-- STATE of UPD_STAT (R542). -/
inductive UpdState where
  | idle | receiving | writing | written | activating | pending | fallingBack
deriving DecidableEq, Repr

/-- An entry of the whey journal (R531): the region (1 firmware, 2 configuration), the block and the check value of the block displaced. -/
structure Displaced where
  region : Nat
  block  : Nat
  sum    : Option (BitVec 128)
deriving DecidableEq, Repr

/-- Firmware and configuration update (R524 to R542): the manifest being received, the blocks accepted (component and number), what the components
hold, the blocks in flash by region × 2^16 + number, the blocks yet to write, the journal, the running image and those that wait or that a fallback
restores, the round at which a configuration is applied, the instants of PENDING, of the last block accepted and of the last one written, and whether what is PENDING was applied in service (R539). -/
structure UpdSt where
  state    : UpdState := .idle
  manifest : Option Manifest := none
  share    : Bool := false
  got      : List (Nat × Nat) := []
  parts    : List BlockData := []
  flash    : Tbl (BitVec 128) := []
  todo     : List (Nat × Nat × BitVec 128) := []
  wrote    : Nat := 0
  journal  : List Displaced := []
  fwRun    : FwHeader := { version := 0, pairLevel := 0, pairMin := 0, pverMin := 1, pverMax := 1, secVer := 0, sigOk := true }
  fwNew    : Option FwHeader := none
  fwOld    : Option FwHeader := none
  cfgNew   : Option (ConfigImage × Nat) := none
  cfgOld   : Option ConfigImage := none
  cold     : Bool := false
  target   : Option Nat := none
  resets   : Nat := 0
  lastWhy  : Nat := 0
  lastStatus : Nat := 0
  fellBack : Bool := false
  secFloor : Nat := 0
  pendAt   : Int := 0
  blockAt  : Nat := 0
  loaderAt : Nat := 0
  inService : Bool := false
deriving DecidableEq, Repr
/-! ## The duplex pair -/

/-- The states of a module of a pair (R397). -/
inductive DupState where
  | init | syncing | standby | control | resigned | single
deriving DecidableEq, Repr

/-- The body of a peer-link message (R393). -/
inductive PeerBody where
  | heartbeat
  | roundStart (phases : Word) (anchor : Option Nat)
  | resign (cause : Nat)
  | take
  | forward (op : FwdOp)
  | confirm (op : FwdOp) (status detail : Nat)
  | withdraw (op : FwdOp)
  | summary (o : OutSummary)
  | selftestAsk
  | selftestResult (pass : Bool)
  | syncAsk
  | sync (d : SyncData)
  | exchange (sig : BitVec 64) (net : Nat) (vals overlay : List (BitVec 64 × Nat))
  | record (b : Bytes)
  | signed (rtype source recSeq : Nat)
  | morHandover
  | morTake
  | provHello
  | provKeys (b : KeyBundle)
  | provDone (ok : Bool)
  | ack (mseq : Nat)
deriving DecidableEq, Repr

/-- An acknowledged message that has no acknowledgement yet (R393). -/
structure Unacked where
  mseq  : Nat
  type  : Nat
  body  : PeerBody
  first : Nat
  last  : Nat
deriving DecidableEq, Repr

/-- The duplex operations that may be pending (R413). -/
inductive DupOp where
  | handover (withMor : Bool) | morHand | provision | resync
deriving DecidableEq, Repr

/-- A forwarded operation that waits for CONFIRM (R156). -/
structure Fwd where
  op  : FwdOp
  req : Option Req
  len : Nat
  mon : Nat
deriving DecidableEq, Repr

/-- The reconciliation of one billing source (R411): adopted, whether a pair did not agree since, the pairs that agreed in a row, the holder's records that wait for the own ones. -/
structure ReconSt where
  adopted : Bool := false
  again   : Bool := false
  agreed  : Nat := 0
  theirs  : List Bytes := []
deriving DecidableEq, Repr

/-- How a forwarded operation that this module applied is withdrawn (R132, R156): what the operation replaced. -/
inductive Undo where
  | nothing
  | sigma (mid q : Nat) (old : Nat)
  | excl (mid q : Nat) (was : Bool)
  | param (ident : Nat) (old : Option Nat)
  | prices (old : Tbl (List (Nat × List Int)))
  | weather (old : List (Nat × List (Int × Nat)))
  | force (old : Bool)
  | mode (mid : Nat) (old : Option Nat)
  | loop (n : Nat) (old : LoopSt)
  | model (old : ModelSt) (idle : Tbl PatSlot)
  | station (ident : Nat) (state : Sess) (retire : Option (Option Req))
  | program (old : CycSt) (state : Nat)
  | step (pend next : Bool)
  | time (net rtc : Int) (quality : NetQ)
  | update (old : UpdSt)
deriving DecidableEq, Repr

/-- The duplex state (R389 to R420). -/
structure DupSt where
  state      : DupState := .init
  claim      : Nat := 0
  peerClaim  : Option Nat := none
  peer       : Option PeerHdr := none
  peerSince  : Nat := 0
  heardAt    : Nat := 0
  hbAt       : Option Nat := none
  peerSigs   : Option (BitVec 64 × BitVec 64 × BitVec 64) := none
  linkUp     : Bool := false
  lost       : Bool := false
  isolated   : Bool := false
  noEvidence : Bool := false
  noEvidAt   : Option Nat := none
  degraded   : Bool := false
  testing    : Bool := false
  ownResult  : Option Bool := none
  peerResult : Option Bool := none
  testFailed : Bool := false
  resignWhy  : Nat := 0
  syncWhy    : Nat := 0
  mseq       : Nat := 0
  accepted   : List Nat := []
  unacked    : List Unacked := []
  takeSent   : Option Nat := none
  resignedAt : Option Nat := none
  held       : Bool := false
  resets     : List Int := []
  synced     : Bool := false
  closedAt   : Option Nat := none
  mor        : Bool := false
  peerMor    : Bool := false
  morReleased : Bool := false
  recon      : Tbl ReconSt := []
  b0         : Option Nat := none
  morAsked   : Bool := false
  testRound  : Nat := 0
  noted      : Tbl Nat := []
  diverge    : List ((Nat × Nat) × Nat) := []
  ownSum     : Option OutSummary := none
  cmpSkip    : Bool := false
  fwds       : List Fwd := []
  deferred   : List FwdOp := []
  undo       : List (FwdOp × Undo) := []
  ops        : List (DupOp × Req) := []
  newClaim   : Bool := false
  heldPrev   : Nat := 0
  heldNow    : Nat := 0
  heldBy     : List Nat := []
deriving DecidableEq, Repr

/-! ## What leaves the module -/

/-- What the module sends, writes and shows, in the order in which it does so (log entry 4). -/
inductive Out where
  /-- A register read that returns its value to a requester: the addressed bytes, the first in the low ones (R10). -/
  | regRead (who : Requester) (addr : Nat) (v : Word)
  /-- A read of BAR2 that returns its value to the host: the addressed bytes, the first in the low ones (R10, R98). -/
  | bar2Read (addr : Nat) (v : Word)
  /-- A write-back entry written to slot `at` of a pair's completion ring (R102): its address and its 32 bytes. -/
  | entry (pair at_ addr : Nat) (b : Bytes)
  /-- Data written to a host buffer (R104). -/
  | hostData (pair addr : Nat) (b : Bytes)
  /-- An MSI-X message (R112, R113). -/
  | msix (vector : Nat)
  /-- An operation that ended, whatever its ring pair holds (R105). -/
  | opDone (r : Req) (status detail len : Nat) (b : Bytes)
  /-- An NMI to the supervisor (R501). -/
  | nmi (src : Nat)
  /-- A message on the peer link (R392). -/
  | peer (mseq type : Nat) (hdr : Bytes) (body : PeerBody)
  /-- A Plynu frame to a station (R329). -/
  | plynu (station : Nat) (f : Bytes) (tag : BitVec 128)
  /-- A frame handed to an Ethernet port (R421): the sequence number of its HSR tag, its protection and its bytes in clear (R425, R427). -/
  | eth (port : Nat) (hsr : Option Nat) (sec : Option MacTag) (b : Bytes)
  /-- A frame of a protocol that the spec takes from its standard (R422, R425): 1 address resolution, 2 echo reply, 3 HSR supervision; its HSR
  sequence number. -/
  | reply (port kind seq : Nat)
  /-- A CAN frame on a channel (R436). -/
  | can (ch : Nat) (f : CanFrame)
  /-- A command frame of a plant channel (R430): the unit, its kind and its words. -/
  | plant (unit : Nat) (b : Bytes)
  /-- A test pulse of the tally (R290). -/
  | testPulse (feeder : Nat)
  /-- A launch pulse (R463): the unit, its channel, its width in µs and whether it is LATE. -/
  | launch (unit ch width : Nat) (late : Bool)
  /-- A record written to MRAM or to the record store of a block. -/
  | stored (what : Nat) (b : Bytes)
deriving DecidableEq, Repr

/-- One module: everything the spec gives it, the commands that wait, and what it has sent. -/
structure State where
  /-- The BAR0 registers whose value differs from the value of `regReset`, sorted by address. -/
  regs    : Tbl Word := []
  cfg     : CfgSt := {}
  hif     : HifSt := {}
  pwr     : PwrSt := {}
  start   : StartSt := {}
  fco     : FcoSt := {}
  evr     : EvrSt := {}
  pmc     : PmcSt := {}
  dup     : DupSt := {}
  tim     : TimSt := {}
  kst     : KstSt := {}
  model   : ModelSt := {}
  rnd     : RndSt := {}
  chu     : ChuSt := {}
  sep     : SepSt := {}
  ctr     : CtrSt := {}
  disp    : DispSt := {}
  lpe     : LpeSt := {}
  tly     : TlySt := {}
  cyc     : CycSt := {}
  fio     : FioSt := {}
  upd     : UpdSt := {}
  /-- What the module has sent, written and shown, newest first (the model's own field, log entry 4). -/
  out     : List Out := []
  /-- How many free values have been drawn (the model's own field, log entry 5). -/
  free    : Nat := 0
  /-- The commands that wait, first in first out. -/
  pending : List Instr := []
deriving DecidableEq, Repr

/-- The machine right after a power-on reset. -/
def State.reset : State := {}

end Sys2Proof.Machine
end

