-- ==== Sys2Proof/Machine/Flags.lean ====
section
/-!
DEFINITION. Bit fields of 32-bit registers (R4, R8) and the sparse tables that the state uses.
-/
namespace Sys2Proof.Machine

/-- Bits hi:lo of a word, as a number (R4). -/
def fld (w : Word) (hi lo : Nat) : Nat := (w.toNat >>> lo) % 2 ^ (hi - lo + 1)

/-- Bit i of a word. -/
def bitAt (w : Word) (i : Nat) : Bool := w.getLsbD i

/-- The word with bits hi:lo replaced by v, cut to the width of the field. -/
def putFld (w : Word) (hi lo v : Nat) : Word :=
  let m := (2 ^ (hi - lo + 1) - 1) <<< lo
  (w &&& ~~~(BitVec.ofNat 32 m)) ||| BitVec.ofNat 32 ((v % 2 ^ (hi - lo + 1)) <<< lo)

/-- The word with bit i set to b. -/
def putBit (w : Word) (i : Nat) (b : Bool) : Word := putFld w i i (if b then 1 else 0)

/-- One bit as a number. -/
def b2n (b : Bool) : Nat := if b then 1 else 0

/-- Addition that stops at the largest value of a 32-bit register (R550). -/
def satAdd32 (w : Word) (n : Nat) : Word := BitVec.ofNat 32 (min (w.toNat + n) 0xFFFFFFFF)

/-- The value of a key in a sparse table. -/
def tget {α : Type} : Tbl α → Nat → Option α
  | [], _ => none
  | (k, v) :: r, key => if k = key then some v else tget r key

/-- The value of a key, or a default where the table has none. -/
def tgetD {α : Type} (t : Tbl α) (key : Nat) (d : α) : α := (tget t key).getD d

/-- The table with the key's value replaced; the entries stay sorted by key. -/
def tput {α : Type} : Tbl α → Nat → α → Tbl α
  | [], key, x => [(key, x)]
  | (k, v) :: r, key, x =>
    if key < k then (key, x) :: (k, v) :: r
    else if key = k then (key, x) :: r
    else (k, v) :: tput r key x

/-- The table without the key. -/
def tdel {α : Type} (t : Tbl α) (key : Nat) : Tbl α := t.filter (fun e => e.1 != key)

/-- The table with the key's value changed by f; an absent key starts from the default. -/
def tmod {α : Type} (t : Tbl α) (key : Nat) (d : α) (f : α → α) : Tbl α := tput t key (f (tgetD t key d))

/-- A list of numbers with n added once. -/
def addOnce (l : List Nat) (n : Nat) : List Nat := if l.contains n then l else l ++ [n]

/-- A list of numbers without n. -/
def without (l : List Nat) (n : Nat) : List Nat := l.filter (fun x => x != n)

/-- A number put into a rising list. -/
def insertUp (n : Nat) : List Nat → List Nat
  | [] => [n]
  | x :: r => if n ≤ x then n :: x :: r else x :: insertUp n r

/-- A list of numbers in rising order. -/
def sortUp (l : List Nat) : List Nat := l.foldr insertUp []

/-- The largest of a list of numbers, 0 for none. -/
def maxOf (l : List Nat) : Nat := l.foldl max 0

end Sys2Proof.Machine
end

