-- ==== Sys2Proof/Machine/Operands.lean ====
section
/-!
DEFINITION. The byte forms of operands, records and frames: little-endian in host memory (R4), big-endian in Plynu frames (R5),
signed fields in two's complement (R6), and the roundings that the chapters name.
-/
namespace Sys2Proof.Machine

/-- The n bytes of a number, least significant first (R4). -/
def le : Nat → Nat → Bytes
  | 0, _ => []
  | n + 1, v => BitVec.ofNat 8 (v % 256) :: le n (v / 256)

/-- The n bytes of a number, most significant first (R5). -/
def be (n v : Nat) : Bytes := (le n v).reverse

/-- A signed number as the unsigned number of an n-byte two's complement field. -/
def twos (n : Nat) (v : Int) : Nat := (v % (2 ^ (8 * n) : Nat)).toNat

/-- The n bytes of a signed number, least significant first. -/
def leS (n : Nat) (v : Int) : Bytes := le n (twos n v)

/-- The n bytes of a signed number, most significant first. -/
def beS (n : Nat) (v : Int) : Bytes := be n (twos n v)

/-- The number that a little-endian string of bytes holds. -/
def unle : Bytes → Nat
  | [] => 0
  | b :: r => b.toNat + 256 * unle r

/-- n bytes at an offset. -/
def slice (b : Bytes) (off n : Nat) : Bytes := (b.drop off).take n

/-- The little-endian number of n bytes at an offset. -/
def leAt (b : Bytes) (off n : Nat) : Nat := unle (slice b off n)

/-- The big-endian number of n bytes at an offset. -/
def beAt (b : Bytes) (off n : Nat) : Nat := unle (slice b off n).reverse

/-- The signed number of an n-byte field that holds v. -/
def signed (n v : Nat) : Int := if v < 2 ^ (8 * n - 1) then (v : Int) else (v : Int) - (2 ^ (8 * n) : Nat)

/-- The signed big-endian number of n bytes at an offset. -/
def beSAt (b : Bytes) (off n : Nat) : Int := signed n (beAt b off n)

/-- The signed little-endian number of n bytes at an offset. -/
def leSAt (b : Bytes) (off n : Nat) : Int := signed n (leAt b off n)

/-- n zero bytes. -/
def zeros (n : Nat) : Bytes := List.replicate n 0

/-- A number held to a range. -/
def clampI (lo hi x : Int) : Int := if x < lo then lo else if hi < x then hi else x

/-- A number held to a range. -/
def clampN (lo hi x : Nat) : Nat := if x < lo then lo else if hi < x then hi else x

/-- Quotient rounded to nearest, halves away from zero. -/
def divNear (a : Int) (b : Nat) : Int :=
  if 0 ≤ a then (a + (b : Int) / 2) / (b : Int) else -((-a + (b : Int) / 2) / (b : Int))

/-- Quotient rounded to nearest, halves to even. -/
def divEven (a : Int) (b : Nat) : Int :=
  let q := Int.fdiv a b
  let r := a - q * b
  if 2 * r < b then q else if (b : Int) < 2 * r then q + 1 else if q % 2 = 0 then q else q + 1

/-- Quotient cut toward zero. -/
def divTrunc (a : Int) (b : Nat) : Int := Int.tdiv a b

/-- The larger part of an absolute value. -/
def absN (a : Int) : Nat := a.natAbs

/-- The first n bits as a 32-bit word. -/
def lo32 (v : Nat) : Word := BitVec.ofNat 32 v

/-- Bits 63:32 of a 64-bit value. -/
def hi32 (v : Nat) : Word := BitVec.ofNat 32 (v >>> 32)

end Sys2Proof.Machine

/-! ## The fields of a Plynu frame (R329) -/

namespace Sys2Proof

open Sys2Proof.Machine

/-- MAGIC. -/
def Frame.magic (f : Frame) : Nat := beAt f.data 0 2
/-- VERSION. -/
def Frame.version (f : Frame) : Nat := beAt f.data 2 1
/-- TYPE. -/
def Frame.type (f : Frame) : Nat := beAt f.data 3 1
/-- STATION. -/
def Frame.station (f : Frame) : Nat := beAt f.data 4 2
/-- SENDER. -/
def Frame.sender (f : Frame) : Nat := beAt f.data 6 1
/-- FLAGS. -/
def Frame.flags (f : Frame) : Nat := beAt f.data 7 1
/-- EPOCH. -/
def Frame.epoch (f : Frame) : Nat := beAt f.data 8 4
/-- FSEQ. -/
def Frame.fseq (f : Frame) : Nat := beAt f.data 12 8
/-- ROUND. -/
def Frame.round (f : Frame) : Nat := beAt f.data 20 8
/-- LENGTH. -/
def Frame.length (f : Frame) : Nat := beAt f.data 28 2
/-- The body as it stood on the wire: in clear in the enrolment types, encrypted in the session types (R330). -/
def Frame.body (f : Frame) : Bytes := slice f.data 32 f.length
/-- The 16-byte tag. -/
def Frame.tag (f : Frame) : BitVec 128 := BitVec.ofNat 128 (beAt f.data (32 + f.length) 16)

/-! ## The header and the section table of a model image (R127) -/

/-- FORMAT. -/
def ModelImage.format (m : ModelImage) : Nat := leAt m.header 0x04 2
/-- SECTIONS. -/
def ModelImage.sections (m : ModelImage) : Nat := leAt m.header 0x06 2
/-- LINEAGE. -/
def ModelImage.lineage (m : ModelImage) : Nat := leAt m.header 0x08 8
/-- GENERATION. -/
def ModelImage.generation (m : ModelImage) : Nat := leAt m.header 0x10 4
/-- STRUCT_SIG. -/
def ModelImage.structSig (m : ModelImage) : BitVec 64 := BitVec.ofNat 64 (leAt m.header 0x18 8)
/-- PARAM_SIG. -/
def ModelImage.paramSig (m : ModelImage) : BitVec 64 := BitVec.ofNat 64 (leAt m.header 0x20 8)
/-- BUILT. -/
def ModelImage.built (m : ModelImage) : Nat := leAt m.header 0x40 8

/-- An entry of a section table (R127): SECTION_ID, OFFSET, LENGTH and the CRC-32. -/
def tableEntry (b : Bytes) (at_ : Nat) : Nat × Nat × Nat × Nat := (leAt b at_ 4, leAt b (at_ + 4) 4, leAt b (at_ + 8) 4, leAt b (at_ + 12) 4)

/-- A section table of n entries at an offset. -/
def secTable (b : Bytes) (off n : Nat) : List (Nat × Nat × Nat × Nat) := (List.range n).map (fun i => tableEntry b (off + 16 * i))

/-! ## Model identifiers (R122) -/

/-- KIND. -/
def midKind (mid : Nat) : Nat := mid / 2 ^ 28
/-- NET. -/
def midNet (mid : Nat) : Nat := mid / 2 ^ 26 % 4
/-- SERIAL. -/
def midSerial (mid : Nat) : Nat := mid % 2 ^ 26

/-- Whether a node is a port of a unit or a station (R120). -/
def Node.port (n : Node) : Bool := match n.kind with | .junction => false | .boundary => false | .plantPort => true | .storePort => true | .stationPort => true

/-- The exponent of a block of a model's exponent table (R125). -/
def ModelImage.expOf (m : ModelImage) (u : ExpUse) : Option Int := (m.exps.find? (fun e => e.use == u)).map (·.exp)

end Sys2Proof
end

