-- ==== Sys2Proof/Machine/Num.lean ====
section
/-!
DEFINITION. Block-scaled numbers and the arithmetic of the churn's lanes (R189 to R193). A value stands as the pair of its mantissa and its
exponent; exact values between roundings are rational numbers.
-/
namespace Sys2Proof.Machine

/-- 2 to an integer power. -/
def pow2 (e : Int) : Rat := if 0 ≤ e then ((2 ^ e.toNat : Nat) : Rat) else 1 / ((2 ^ (-e).toNat : Nat) : Rat)

/-- The value of a mantissa under an exponent (R189): m × 2^(E – 31). -/
def bsVal (e m : Int) : Rat := (m : Rat) * pow2 (e - 31)

/-- The largest mantissa of a result (R190). -/
def bsMax : Int := 2147483647

/-- The marker 8000_0000h of an input block (R190). -/
def bsMarker : Int := -2147483648

/-- A rational number rounded to nearest, halves to even (R191). -/
def rne (v : Rat) : Int :=
  let f := v.floor
  let r := v - (f : Rat)
  if r < 1 / 2 then f else if 1 / 2 < r then f + 1 else if f % 2 = 0 then f else f + 1

/-- A mantissa held to its range (R190), and whether it saturated (R192). -/
def bsClamp (m : Int) : Int × Bool := (clampI (-bsMax) bsMax m, decide (m < -bsMax) || decide (bsMax < m))

/-- A value converted to an exponent (R190 to R192). -/
def bsPut (e : Int) (v : Rat) : Int × Bool := bsClamp (rne (v * pow2 (31 - e)))

/-- A list of values, each converted to the exponent of its element: the mantissas, and the block of the first that saturated. -/
def bsPuts : List (Int × Nat) → List Rat → List Int × Option Nat
  | (e, k) :: es, v :: vs =>
    let h := bsPut e v
    let t := bsPuts es vs
    (h.1 :: t.1, if h.2 then some k else t.2)
  | _, _ => ([], none)

/-- The values of mantissas under the exponents of their elements. -/
def bsVals (es : List (Int × Nat)) (ms : List Int) : List Rat := List.zipWith (fun e m => bsVal e.1 m) es ms

/-! ## The accumulator -/

/-- The limit of the 72-bit accumulator (R192). -/
def accMax : Int := 2 ^ 71 - 1

/-- A term of an accumulation (R191): an exact product of two mantissas and the sum of their exponents; its value is p × 2^(s – 62). -/
abbrev Term := Int × Int

/-- A mantissa that enters an accumulation alone. -/
def loneTerm (e m : Int) : Term := (m * 2 ^ 31, e)

/-- The product of two block-scaled numbers. -/
def mulTerm (e m f n : Int) : Term := (m * n, e + f)

/-- The largest product scale of an operation (R191). -/
def topScale : List Term → Int
  | [] => 0
  | [t] => t.2
  | t :: ts => max t.2 (topScale ts)

/-- One addition to the accumulator, held to its limit (R191, R192): the bits below its least significant bit are discarded. -/
def accAdd (top : Int) (a : Int × Bool) (t : Term) : Int × Bool :=
  let v := a.1 + t.1 / 2 ^ (top - t.2).toNat
  (clampI (-accMax) accMax v, a.2 || decide (v < -accMax) || decide (accMax < v))

/-- The sum of an operation's products as an exact value, and whether the accumulator saturated (R191, R192). -/
def accSum (ts : List Term) : Rat × Bool :=
  let top := topScale ts
  let a := ts.foldl (accAdd top) (0, false)
  ((a.1 : Rat) * pow2 (top - 62), a.2)

/-- An accumulation converted to the exponent of its destination. -/
def accPut (e : Int) (ts : List Term) : Int × Bool :=
  let a := accSum ts
  let r := bsPut e a.1
  (r.1, a.2 || r.2)

/-! ## Pivots -/

/-- The absolute value of a rational number. -/
def absR (v : Rat) : Rat := if v < 0 then -v else v

/-- The exponent under which a value has a mantissa of full width. -/
def normExp (v : Rat) : Int :=
  let k : Int := (Nat.log2 v.num.natAbs : Int) - Nat.log2 v.den
  if pow2 k ≤ absR v then k + 1 else k

/-- A value normalised (R193): its mantissa of 32 bits and its own exponent, held to –128 to +127, and whether it had to be held. -/
def normalise (v : Rat) : (Int × Int) × Bool :=
  if v = 0 then ((0, -128), false)
  else
    let e := normExp v
    let m := rne (v * pow2 (31 - e))
    let x := if bsMax < m.natAbs then (m / 2, e + 1) else (m, e)
    ((x.1, clampI (-128) 127 x.2), decide (x.2 < -128) || decide (127 < x.2))

/-- The reciprocal of a normalised pivot (R193), in the same form. -/
def reciprocal (m e : Int) : Int × Int := (normalise (1 / bsVal e m)).1

end Sys2Proof.Machine
end

