-- ==== Sys2Proof/Machine/Ldl.lean ====
section
/-!
DEFINITION. The churn's factoriser: a pattern's blocks, the factorisation K = L·D·Lᵀ in the pattern's order panel by panel, the solve and its
refinement (R189 to R193, R195, R205 to R207). Where an intermediate vector takes an exponent that the spec does not name, log entry 88 says which.
-/
namespace Sys2Proof.Machine

/-! ## Blocks -/

/-- The rows of a pattern (R199). -/
def PatSlot.rows (p : PatSlot) : Nat := p.nVars + p.nCons

/-- The elements of the blocks of a role in pattern block order (R202, R204): the exponent and the block of each. -/
def roleElems (p : PatSlot) (role : Nat) : List (Int × Nat) :=
  (p.body.blocks.mapIdx (fun i b => if b.role = role then List.replicate b.count (b.exp, i) else [])).flatten

/-- The mantissas of a block in a job's input. -/
def blockVals (secs : List JobSection) (role i : Nat) : List Int :=
  match secs.find? (fun x => x.role == role && x.blockId == i) with | some x => x.vals | none => []

/-- The mantissas of the blocks of a role in pattern block order. -/
def roleVals (p : PatSlot) (secs : List JobSection) (role : Nat) : List Int :=
  (p.body.blocks.mapIdx (fun i b => if b.role = role then blockVals secs role i else [])).flatten

/-- An entry of a symmetric matrix, each pair of rows once: row, column, exponent and mantissa. -/
abbrev MatEntry := Nat × Nat × Int × Int

/-- The entries of the matrix blocks of a role (R199, R202), the rows moved down by `down`. -/
def roleEntries (p : PatSlot) (secs : List JobSection) (role down : Nat) : List MatEntry :=
  (p.body.blocks.mapIdx (fun i b =>
    if b.role = role then List.zipWith (fun (rc : Nat × Nat) m => (rc.1 + down, rc.2, b.exp, m)) (tgetD p.body.nonzero i []) (blockVals secs role i)
    else [])).flatten

/-- The matrix of a job as supplied (R202, R208): the blocks of a KKT system, or H on the variable rows and A on the constraint rows. -/
def suppliedEntries (p : PatSlot) (secs : List JobSection) : List MatEntry :=
  if p.kindQp then roleEntries p secs 0x03 0 ++ roleEntries p secs 0x04 p.nVars else roleEntries p secs 0x01 0

/-- The blocks that have a position in a row, with their exponents. -/
def rowBlocks (p : PatSlot) (k : Nat) (diag : Bool) : List (Int × Nat) :=
  (p.body.blocks.mapIdx (fun i b =>
    let down := if b.role = 0x04 then p.nVars else 0
    let hit := (tgetD p.body.nonzero i []).any (fun rc => (rc.1 + down == k && (!diag || rc.2 == k)) || (!diag && rc.2 == k))
    if (b.role == 0x01 || b.role == 0x03 || b.role == 0x04) && hit then [(b.exp, i)] else [])).flatten

/-- The diagonal block of a row with its exponent Eₖ (R205); a row without one takes the block of the largest exponent among its own. -/
def diagBlock (p : PatSlot) (k : Nat) : Int × Nat :=
  match rowBlocks p k true with
  | b :: _ => b
  | [] => (rowBlocks p k false).foldl (fun a b => if a.1 < b.1 then b else a) ((rowBlocks p k false).headD (0, 0))

/-- The entries that stand at a row and a column, as terms of an accumulation. -/
def termsAt (es : List MatEntry) (r c : Nat) : List Term :=
  (es.filter (fun e => (e.1 == r && e.2.1 == c) || (e.1 == c && e.2.1 == r))).map (fun e => loneTerm e.2.2.1 e.2.2.2)

/-- The largest magnitude in a row of the matrix as supplied, at least 2^(Eₖ – 31) (R206). -/
def rowMag (p : PatSlot) (es : List MatEntry) (k : Nat) : Rat :=
  (es.filter (fun e => e.1 == k || e.2.1 == k)).foldl (fun a e => max a (absR (bsVal e.2.2.1 e.2.2.2))) (pow2 ((diagBlock p k).1 - 31))

/-- The static regularisation of a QP job (R205): +ρₖ on every variable row and –ρₖ on every constraint row, ρₖ = 2^–RHO_EXP × 2^Eₖ. -/
def staticReg (p : PatSlot) (rho : Nat) : List MatEntry :=
  if p.kindQp then (List.range p.rows).map (fun k => (k, k, (diagBlock p k).1 - rho + 1, if k < p.nVars then 2 ^ 30 else -(2 ^ 30))) else []

/-! ## Factorisation -/

/-- What the pivot rules of R206 replace a computed pivot by: sₖ·δ·nₖ where sₖ·dₖ < τ·nₖ. -/
def pivotRule (tau delta : Nat) (pos : Bool) (n d : Rat) : Rat × Bool :=
  let s : Rat := if pos then 1 else -1
  if s * d < pow2 (-(tau : Int)) * n then (s * pow2 (-(delta : Int)) * n, true) else (d, false)

/-- One column of the factor (R191 to R193, R205, R206): the pivot, and L and L·D in the rows still to be eliminated. `es` is the matrix as
supplied, `reg` the static regularisation; the second part is the block of the first saturation. -/
def factorCol (p : PatSlot) (tau delta : Nat) (es reg : List MatEntry) (cols : List FactorCol) (rest : List Nat) (r : Nat) (lExp : Int) :
    FactorCol × Option Nat :=
  let prev := cols.filterMap (fun c => (c.below.find? (fun x => x.1 == r)).map (fun x => (c, x)))
  let d := accSum (termsAt (es ++ reg) r r ++ prev.map (fun v => mulTerm v.1.lExp (-v.2.2.1) v.2.2.2.2 v.2.2.2.1))
  let v := pivotRule tau delta (p.body.signs.getD r true) (rowMag p es r) d.1
  let pv := normalise v.1
  let rc := reciprocal pv.1.1 pv.1.2
  let row := fun (k : Nat) =>
    let ts := termsAt (es ++ reg) k r ++ prev.filterMap (fun v =>
      (v.1.below.find? (fun x => x.1 == k)).map (fun x => mulTerm v.1.lExp (-x.2.1) v.2.2.2.2 v.2.2.2.1))
    if ts.isEmpty then none
    else
      let ue := max (diagBlock p k).1 (diagBlock p r).1
      let u := accPut ue ts
      let l := accPut lExp [mulTerm ue u.1 rc.2 rc.1]
      some ((k, l.1, u.1, ue), u.2 || l.2)
  let rows := rest.filterMap row
  let sat := if d.2 || pv.2 then some (diagBlock p r).2 else (rows.find? (·.2)).map (fun x => (diagBlock p x.1.1).2)
  ({ row := r, pivM := pv.1.1, pivE := pv.1.2, replaced := v.2, lExp := lExp, below := rows.map (·.1) }, sat)

/-- The columns of a panel, after those before it (R195). -/
def factorCols (p : PatSlot) (tau delta : Nat) (es reg : List MatEntry) (lExp : Int) : List Nat → List Nat → List FactorCol → List FactorCol × Option Nat
  | [], _, cols => (cols, none)
  | r :: rs, rest, cols =>
    let c := factorCol p tau delta es reg cols (rs ++ rest) r lExp
    let t := factorCols p tau delta es reg lExp rs rest (cols ++ [c.1])
    (t.1, match c.2 with | some k => some k | none => t.2)

/-- A panel of a pattern (R195): at most 64 columns in the elimination order. -/
def factorPanel (p : PatSlot) (tau delta : Nat) (es reg : List MatEntry) (i : Nat) (cols : List FactorCol) : List FactorCol × Option Nat :=
  let pan := p.body.panels.getD i (0, 0)
  let left := p.body.order.drop cols.length
  factorCols p tau delta es reg pan.2 (left.take (min pan.1 64)) (left.drop (min pan.1 64)) cols

/-! ## Solves -/

/-- The mantissa of a vector at a row. -/
def vecAt (x : List Int) (r : Nat) : Int := x.getD r 0

/-- The exponent and the block of a vector's element. -/
def elemAt (es : List (Int × Nat)) (r : Nat) : Int × Nat := es.getD r (0, 0)

/-- The first of two saturations. -/
def firstSat (a b : Option Nat) : Option Nat := match a with | some k => some k | none => b

/-- The solution of L·D·Lᵀ·x = rhs (R191, R193): forward in the right-hand side's exponents, the pivots and backward in the solution's. -/
def ldlSolve (cols : List FactorCol) (rhsE solE : List (Int × Nat)) (rhs : List Int) : List Int × Option Nat :=
  let fwd := cols.foldl (fun (a : List Int × Option Nat) c =>
    c.below.foldl (fun (a : List Int × Option Nat) x =>
      let v := accPut (elemAt rhsE x.1).1
        [loneTerm (elemAt rhsE x.1).1 (vecAt a.1 x.1), mulTerm c.lExp (-x.2.1) (elemAt rhsE c.row).1 (vecAt a.1 c.row)]
      (a.1.set x.1 v.1, firstSat a.2 (if v.2 then some (elemAt rhsE x.1).2 else none))) a) (rhs, none)
  cols.foldr (fun c (a : List Int × Option Nat) =>
    let rc := reciprocal c.pivM c.pivE
    let e := elemAt solE c.row
    let v := accPut e.1 (mulTerm (elemAt rhsE c.row).1 (vecAt fwd.1 c.row) rc.2 rc.1 ::
      c.below.map (fun x => mulTerm c.lExp (-x.2.1) (elemAt solE x.1).1 (vecAt a.1 x.1)))
    (a.1.set c.row v.1, firstSat a.2 (if v.2 then some e.2 else none))) (rhs.map (fun _ => 0), fwd.2)

/-- The terms of a row of a symmetric matrix times a vector. -/
def rowTerms (es : List MatEntry) (xE : List (Int × Nat)) (x : List Int) (r : Nat) : List Term :=
  es.filterMap (fun e =>
    if e.1 = r then some (mulTerm e.2.2.1 e.2.2.2 (elemAt xE e.2.1).1 (vecAt x e.2.1))
    else if e.2.1 = r then some (mulTerm e.2.2.1 e.2.2.2 (elemAt xE e.1).1 (vecAt x e.1)) else none)

/-- rhs – K·x in the exponents of the right-hand side, accumulated under R191 (R207). -/
def residual (es : List MatEntry) (rhsE solE : List (Int × Nat)) (rhs x : List Int) : List Int × Option Nat :=
  let l := rhsE.mapIdx (fun r e => let v := accPut e.1 (loneTerm e.1 (vecAt rhs r) :: (rowTerms es solE x r).map (fun t => (-t.1, t.2))); (v, e.2))
  (l.map (·.1.1), (l.find? (·.1.2)).map (·.2))

/-- The largest magnitude of a vector. -/
def normInf (es : List (Int × Nat)) (x : List Int) : Rat := (bsVals es x).foldl (fun a v => max a (absR v)) 0

/-- The sum of two vectors in the same exponents (R190). -/
def addVec (es : List (Int × Nat)) (x d : List Int) : List Int × Option Nat :=
  let l := es.mapIdx (fun r e => (bsClamp (vecAt x r + vecAt d r), e.2))
  (l.map (·.1.1), (l.find? (·.1.2)).map (·.2))

/-- A solution with its residual and the block of the first saturation. -/
structure Solved where
  x   : List Int
  r   : List Int
  sat : Option Nat

/-- The refinement steps of R207: each solves for the residual and updates x; one that does not halve the residual is the last. -/
def refine (es : List MatEntry) (cols : List FactorCol) (rhsE solE : List (Int × Nat)) (rhs : List Int) : Nat → Solved → Solved
  | 0, v => v
  | n + 1, v =>
    let d := ldlSolve cols rhsE solE v.r
    let x := addVec solE v.x d.1
    let r := residual es rhsE solE rhs x.1
    let w : Solved := { x := x.1, r := r.1, sat := firstSat v.sat (firstSat d.2 (firstSat x.2 r.2)) }
    if normInf rhsE w.r * 2 ≤ normInf rhsE v.r then refine es cols rhsE solE rhs n w else w

/-- A solve with the factor and its refinement against the matrix as supplied (R207). -/
def solveRefined (es : List MatEntry) (cols : List FactorCol) (rhsE solE : List (Int × Nat)) (steps : Nat) (rhs : List Int) : Solved :=
  let x := ldlSolve cols rhsE solE rhs
  let r := residual es rhsE solE rhs x.1
  refine es cols rhsE solE rhs steps { x := x.1, r := r.1, sat := firstSat x.2 r.2 }

/-- A magnitude as UQ8.24, rounded to nearest and held to its field (R204). -/
def uq824 (v : Rat) : Nat := min (rne (v * pow2 24)).toNat 0xFFFFFFFF

end Sys2Proof.Machine
end

