-- ==== Sys2Proof/Machine/Qp.lean ====
section
/-!
DEFINITION. The interior-point driver of QP_SOLVE: the programme, the merit of a point, the starting point and one iteration (R208 to R216).
Element-wise quantities are formed exactly and rounded once, into the exponents of their blocks (log entry 88).
-/
namespace Sys2Proof.Machine

/-! ## The programme -/

/-- A programme (R208): its pattern, H and A as entries, q and b, and the bounds, none where the marker of R190 says that there is none. -/
structure Prog where
  pat : PatSlot
  h   : List MatEntry
  a   : List MatEntry
  q   : List Rat
  b   : List Rat
  l   : List (Option Rat)
  u   : List (Option Rat)

/-- The bounds of a role's blocks (R190). -/
def boundVals (p : PatSlot) (secs : List JobSection) (role : Nat) : List (Option Rat) :=
  List.zipWith (fun e m => if m = bsMarker then none else some (bsVal e.1 m)) (roleElems p role) (roleVals p secs role)

/-- The programme of a job's input. -/
def progOf (p : PatSlot) (secs : List JobSection) : Prog :=
  { pat := p, h := roleEntries p secs 0x03 0, a := roleEntries p secs 0x04 p.nVars,
    q := bsVals (roleElems p 0x05) (roleVals p secs 0x05), b := bsVals (roleElems p 0x06) (roleVals p secs 0x06),
    l := boundVals p secs 0x07, u := boundVals p secs 0x08 }

/-- The exponents of x and y, the rows of a solution. -/
def Prog.solE (g : Prog) : List (Int × Nat) := roleElems g.pat 0x10 ++ roleElems g.pat 0x11
/-- The exponents of q and b, the rows of a right-hand side. -/
def Prog.rhsE (g : Prog) : List (Int × Nat) := roleElems g.pat 0x05 ++ roleElems g.pat 0x06

/-- An element of a list of values. -/
def ratAt (l : List Rat) (i : Nat) : Rat := l.getD i 0

/-- A bound of a variable. -/
def boundAt (l : List (Option Rat)) (i : Nat) : Option Rat := (l.getD i none)

/-- Whether a variable's two bounds are equal: it then keeps its value (log entry 88). -/
def Prog.fixed (g : Prog) (i : Nat) : Bool := match boundAt g.l i, boundAt g.u i with | some a, some b => b ≤ a | _, _ => false

/-- The variables. -/
def Prog.vars (g : Prog) : List Nat := List.range g.pat.nVars

/-- The variables that have a lower bound, and those that have an upper one, with the bound. -/
def Prog.lows (g : Prog) : List (Nat × Rat) := g.vars.filterMap (fun i => if g.fixed i then none else (boundAt g.l i).map (fun v => (i, v)))
/-- The variables that have an upper bound, with the bound. -/
def Prog.highs (g : Prog) : List (Nat × Rat) := g.vars.filterMap (fun i => if g.fixed i then none else (boundAt g.u i).map (fun v => (i, v)))

/-! ## The merit of a point -/

/-- The values of a point. -/
structure Point where
  x  : List Rat
  y  : List Rat
  zl : List Rat
  zu : List Rat

/-- The values of an iterate's mantissas. -/
def pointOf (g : Prog) (t : Iterate) : Point :=
  { x := bsVals (roleElems g.pat 0x10) t.x, y := bsVals (roleElems g.pat 0x11) t.y,
    zl := bsVals (roleElems g.pat 0x12) t.zl, zu := bsVals (roleElems g.pat 0x13) t.zu }

/-- A matrix times x and y, row by row in the exponents of the right-hand sides (R191). -/
def matVec (g : Prog) (es : List MatEntry) (t : Iterate) : List Rat × Option Nat :=
  let l := g.rhsE.mapIdx (fun r e => (accPut e.1 (rowTerms es g.solE (t.x ++ t.y) r), e))
  (l.map (fun v => bsVal v.2.1 v.1.1), (l.find? (·.1.2)).map (·.2.2))

/-- The mean of the products of bound distance and bound dual over the bounds that exist (R209), 0 where there is none. -/
def meanComp (g : Prog) (x zl zu : List Rat) : Rat :=
  let n := g.lows.length + g.highs.length
  let s := (g.lows.map (fun v => (ratAt x v.1 - v.2) * ratAt zl v.1) ++ g.highs.map (fun v => (v.2 - ratAt x v.1) * ratAt zu v.1)).foldl (· + ·) 0
  if n = 0 then 0 else s / (n : Rat)

/-- The largest magnitude of a list of values. -/
def ratInf (l : List Rat) : Rat := l.foldl (fun a v => max a (absR v)) 0

/-- What the merit and an iteration take from a point: A·x – b, the dual residual, H·x and the first saturation. -/
structure Parts where
  rp  : List Rat
  rd  : List Rat
  hx  : List Rat
  sat : Option Nat

/-- The residuals of a point (R210). -/
def partsOf (g : Prog) (t : Iterate) : Parts :=
  let h := matVec g g.h t
  let a := matVec g g.a t
  let v := pointOf g t
  { rp := (List.range g.pat.nCons).map (fun i => ratAt a.1 (g.pat.nVars + i) - ratAt g.b i),
    rd := g.vars.map (fun i => ratAt h.1 i + ratAt g.q i - ratAt a.1 i - ratAt v.zl i + ratAt v.zu i),
    hx := h.1, sat := firstSat h.2 a.2 }

/-- Whether an element of a list of mantissas exceeds 2^(E – 4) (R213). -/
def dualsLarge (l : List Int) : Bool := l.any (fun m => decide (2 ^ 27 < m.natAbs))

/-- The merit of a point with its cost (R204, R210). -/
def evalPoint (g : Prog) (t : Iterate) : IterPoint × Option Nat :=
  let v := pointOf g t
  let w := partsOf g t
  let over_ := (g.lows.map (fun b => b.2 - ratAt v.x b.1) ++ g.highs.map (fun b => ratAt v.x b.1 - b.2)).foldl max 0
  let cost := (g.vars.map (fun i => ratAt v.x i * (ratAt w.hx i / 2 + ratAt g.q i))).foldl (· + ·) 0
  ({ rp := uq824 (max (ratInf w.rp) over_ / (1 + ratInf g.b)), rd := uq824 (ratInf w.rd / (1 + ratInf g.q)),
     gap := uq824 (meanComp g v.x v.zl v.zu / (1 + absR cost)), objective := clampI (-(2 ^ 63)) (2 ^ 63 - 1) (rne (cost * pow2 16)),
     dualLarge := dualsLarge t.y || dualsLarge t.zl || dualsLarge t.zu, it := t }, w.sat)

/-! ## The starting point -/

/-- The range of a variable's bounds (R215): their distance, or a free value where one is missing. -/
def boundRange (g : Prog) (i : Nat) : Rat :=
  match boundAt g.l i, boundAt g.u i with
  | some a, some b => b - a
  | _, _ => let e := (elemAt (roleElems g.pat 0x10) i).1; bsVal e (Config.boundRange e)

/-- 0 clipped into [l + w, u – w] (R215). -/
def coldX (g : Prog) (i : Nat) : Rat :=
  let w := boundRange g i / 16
  let v := match boundAt g.l i with | some a => max 0 (a + w) | none => 0
  match boundAt g.u i with | some b => min v (b - w) | none => v

/-- A value pushed to at least 2^-12 of the bound range from each of its bounds (R215). -/
def pushX (g : Prog) (i : Nat) (v : Rat) : Rat :=
  let d := boundRange g i / 4096
  let v := match boundAt g.l i with | some a => max v (a + d) | none => v
  match boundAt g.u i with | some b => min v (b - d) | none => v

/-- A bound dual: absent without its bound, 1 when cold-filled, at least 2^-12 (R215). -/
def startDual (e : Int × Nat) (b : Option Rat) (warm : Option Int) : Rat :=
  match b with
  | none => 0
  | some _ => max (match warm with | some m => bsVal e.1 m | none => 1) (1 / 4096)

/-- Iterate 0 (R214, R215): `x`, `zl`, `zu` and `y` are the mapped mantissas of each variable or constraint, none where nothing maps. -/
def startIter (g : Prog) (x zl zu y : Nat → Option Int) : Iterate × Option Nat :=
  let xE := roleElems g.pat 0x10
  let lE := roleElems g.pat 0x12
  let uE := roleElems g.pat 0x13
  let xs := bsPuts xE (g.vars.map (fun i => pushX g i (match x i with | some m => bsVal (elemAt xE i).1 m | none => coldX g i)))
  let ls := bsPuts lE (g.vars.map (fun i => startDual (elemAt lE i) (boundAt g.l i) (zl i)))
  let us := bsPuts uE (g.vars.map (fun i => startDual (elemAt uE i) (boundAt g.u i) (zu i)))
  ({ x := xs.1, y := (List.range g.pat.nCons).map (fun i => (y i).getD 0), zl := ls.1, zu := us.1 }, firstSat xs.2 (firstSat ls.2 us.2))

/-! ## One iteration -/

/-- Σ from the bound duals and distances (R209), on the diagonal of each variable row in the exponent of its block; a variable whose bounds are
equal has the largest mantissa there (log entry 88). -/
def sigmaEntries (g : Prog) (t : Iterate) : List MatEntry × Option Nat :=
  let v := pointOf g t
  let l := g.vars.map (fun i =>
    let d := diagBlock g.pat i
    if g.fixed i then ((i, i, d.1, bsMax), none)
    else
      let a : Rat := match boundAt g.l i with | some b => ratAt v.zl i / (ratAt v.x i - b) | none => 0
      let c : Rat := match boundAt g.u i with | some b => ratAt v.zu i / (b - ratAt v.x i) | none => 0
      let m := bsPut d.1 (a + c)
      (((i, i, d.1, m.1) : MatEntry), if m.2 then some d.2 else none))
  (l.map (·.1), (l.findSome? (·.2)))

/-- The system of an iteration without static regularisation: [H + Σ, Aᵀ; A, 0] (R209). -/
def iterMatrix (g : Prog) (t : Iterate) : List MatEntry × Option Nat :=
  let s := sigmaEntries g t
  (g.h ++ g.a ++ s.1, s.2)

/-- A direction: of x, y and the bound duals. -/
structure Dir where
  x   : List Rat
  y   : List Rat
  zl  : List Rat
  zu  : List Rat
  sat : Option Nat

/-- A solve of an iteration (R209): towards the centring σμ = `c`, with the second-order terms of an affine direction. -/
def directionOf (g : Prog) (es : List MatEntry) (cols : List FactorCol) (steps : Nat) (t : Iterate) (w : Parts) (c : Rat) (aff : Option Dir) : Dir :=
  let v := pointOf g t
  let second := fun (f : Dir → List Rat) (i : Nat) => match aff with | some d => ratAt d.x i * ratAt (f d) i | none => 0
  let pl := fun i => match boundAt g.l i with
    | some b => if g.fixed i then 0 else (c - second (·.zl) i) / (ratAt v.x i - b) - ratAt v.zl i
    | none => 0
  let pu := fun i => match boundAt g.u i with
    | some b => if g.fixed i then 0 else (c + second (·.zu) i) / (b - ratAt v.x i) - ratAt v.zu i
    | none => 0
  let rhs := bsPuts g.rhsE (g.vars.map (fun i => -(ratAt w.rd i) + pl i - pu i) ++ w.rp.map (fun r => -r))
  let sol := solveRefined es cols g.rhsE g.solE steps rhs.1
  let d := bsVals g.solE sol.x
  let dx := d.take g.pat.nVars
  let lE := roleElems g.pat 0x12
  let uE := roleElems g.pat 0x13
  let zl := bsPuts lE (g.vars.map (fun i => match boundAt g.l i with
    | some b => if g.fixed i then 0 else pl i - ratAt v.zl i / (ratAt v.x i - b) * ratAt dx i
    | none => 0))
  let zu := bsPuts uE (g.vars.map (fun i => match boundAt g.u i with
    | some b => if g.fixed i then 0 else pu i + ratAt v.zu i / (b - ratAt v.x i) * ratAt dx i
    | none => 0))
  { x := dx, y := (d.drop g.pat.nVars).map (fun r => -r), zl := bsVals lE zl.1, zu := bsVals uE zu.1,
    sat := firstSat rhs.2 (firstSat sol.sat (firstSat zl.2 zu.2)) }

/-- 0.995 of the largest step that keeps positive values positive, at most 1 (R209): each pair is a value and its change. -/
def stepLength (l : List (Rat × Rat)) : Rat :=
  l.foldl (fun a v => if v.2 < 0 then min a (995 / 1000 * (v.1 / -v.2)) else a) 1

/-- The primal and the dual step length of a direction (R209). -/
def stepLengths (g : Prog) (v : Point) (d : Dir) : Rat × Rat :=
  (stepLength (g.lows.map (fun b => (ratAt v.x b.1 - b.2, ratAt d.x b.1)) ++ g.highs.map (fun b => (b.2 - ratAt v.x b.1, -(ratAt d.x b.1)))),
   stepLength (g.lows.map (fun b => (ratAt v.zl b.1, ratAt d.zl b.1)) ++ g.highs.map (fun b => (ratAt v.zu b.1, ratAt d.zu b.1))))

/-- A vector moved along a direction. -/
def moved (a : Rat) (x d : List Rat) : List Rat := x.mapIdx (fun i v => v + a * ratAt d i)

/-- One iteration of the primal-dual predictor-corrector (R209) from a point with its factor; without bounds one solve with steps of 1. -/
def iterate (g : Prog) (cols : List FactorCol) (steps : Nat) (t : Iterate) : Iterate × Option Nat :=
  let v := pointOf g t
  let w := partsOf g t
  let es := iterMatrix g t
  let aff := directionOf g es.1 cols steps t w 0 none
  let mu := meanComp g v.x v.zl v.zu
  let free := g.lows.isEmpty && g.highs.isEmpty
  let a := stepLengths g v aff
  let mua := meanComp g (moved a.1 v.x aff.x) (moved a.2 v.zl aff.zl) (moved a.2 v.zu aff.zu)
  let sg := if mu = 0 then 0 else (mua / mu) * (mua / mu) * (mua / mu)
  let d := if free then aff else directionOf g es.1 cols steps t w (sg * mu) (some aff)
  let k := if free then (1, 1) else stepLengths g v d
  let x := bsPuts (roleElems g.pat 0x10) (moved k.1 v.x d.x)
  let y := bsPuts (roleElems g.pat 0x11) (moved k.2 v.y d.y)
  let zl := bsPuts (roleElems g.pat 0x12) (moved k.2 v.zl d.zl)
  let zu := bsPuts (roleElems g.pat 0x13) (moved k.2 v.zu d.zu)
  ({ x := x.1, y := y.1, zl := zl.1, zu := zu.1 },
   firstSat w.sat (firstSat es.2 (firstSat aff.sat (firstSat d.sat (firstSat x.2 (firstSat y.2 (firstSat zl.2 zu.2)))))))

end Sys2Proof.Machine
end

