-- ==== Sys2Proof/Machine/Systems.lean ====
section
/-!
DEFINITION. The systems that the separator gives to the churn (R141, R144, R197): which rows, blocks and positions the patterns of a network have.
The blocks into which a system is cut are a DESIGN CHOICE (log entry 90).
-/
namespace Sys2Proof.Machine

/-- The dense index of a node of the model. -/
def nodeIdx (m : ModelImage) (mid : Nat) : Nat := m.nodes.findIdx (fun n => n.mid == mid)
/-- The dense index of a branch of the model. -/
def branchIdx (m : ModelImage) (mid : Nat) : Nat := m.branches.findIdx (fun b => b.mid == mid)

/-- The MID of a station (R122). -/
def stnMid (id : Nat) : Nat := 0x80000000 + id

/-- Whether a branch follows the pump law (R138, R140): a pump, or a plant with its own pump. -/
def pumped (b : Branch) : Bool := b.kind == .pump || (b.kind == .plant && !b.coef.isEmpty)

/-- Whether a branch has an equation in R140 (check valves apart), or is a plant with its own pump (R138). -/
def hasEq (b : Branch) : Bool :=
  match b.kind with | .station | .store => false | .plant => pumped b | _ => true

/-- The dense indices of the branches of a network. -/
def netBranches (m : ModelImage) (n : Nat) : List Nat :=
  (List.range m.branches.length).filter (fun i => match m.branches[i]? with | some b => b.net == n | none => false)

/-- The dense indices of the branches of a network that have an equation. -/
def eqBranches (m : ModelImage) (n : Nat) : List Nat :=
  (netBranches m n).filter (fun i => match m.branches[i]? with | some b => hasEq b | none => false)

/-- The dense indices of the nodes of a network. -/
def netNodes (m : ModelImage) (n : Nat) : List Nat :=
  (List.range m.nodes.length).filter (fun i => match m.nodes[i]? with | some x => x.net == n | none => false)

/-- The dense indices of the nodes of a network but for its pressure reference. -/
def freeNodes (m : ModelImage) (n : Nat) : List Nat :=
  (netNodes m n).filter (fun i => match m.nodes[i]? with | some x => !x.reference | none => false)

/-- The dense indices of the pumps and valves of a network, whose settings are states (R144); a plant's own pump is one. -/
def setBranches (m : ModelImage) (n : Nat) : List Nat :=
  (netBranches m n).filter (fun i => match m.branches[i]? with | some b => pumped b || b.kind == .valve | none => false)

/-- The incidence of a branch on a node: 1 into it, -1 out of it. -/
def incid (m : ModelImage) (i j : Nat) : Int :=
  match m.branches[i]?, m.nodes[j]? with
  | some b, some x => (if b.toN = x.mid then 1 else 0) - (if b.fromN = x.mid then 1 else 0)
  | _, _ => 0

/-- A block of a system: its role, the positions of a matrix block, and its elements. -/
structure SysBlock where
  role  : Nat
  pos   : List (Nat × Nat)
  count : Nat

/-- A matrix block at positions. -/
def matBlock (pos : List (Nat × Nat)) : SysBlock := { role := 0x01, pos := pos, count := pos.length }
/-- A block of a vector. -/
def vecBlock (role n : Nat) : SysBlock := { role := role, pos := [], count := n }

/-- Positions of a row list against a column list where a relation holds. -/
def relPos (rows cols : List Nat) (r0 c0 : Nat) (rel : Nat → Nat → Bool) : List (Nat × Nat) :=
  (rows.mapIdx (fun a i => (cols.mapIdx (fun b j => if rel i j then [(r0 + a, c0 + b)] else [])).flatten)).flatten

/-- Positions on the diagonal of n rows from r0. -/
def diagPos (r0 n : Nat) : List (Nat × Nat) := (List.range n).map (fun i => (r0 + i, r0 + i))

/-! ## Newton (R141) -/

/-- The blocks of the Newton system of a network: D, A; r_b, r_n; Δq, Δp. -/
def newtonBlocks (m : ModelImage) (n : Nat) : List SysBlock :=
  let b := eqBranches m n
  let v := freeNodes m n
  [matBlock (diagPos 0 b.length), matBlock (relPos v b b.length 0 (fun j i => incid m i j != 0)),
   vecBlock 0x02 b.length, vecBlock 0x02 v.length, vecBlock 0x10 b.length, vecBlock 0x10 v.length]

/-- The expected signs of the rows of the Newton system: branches +1, nodes -1. -/
def newtonSigns (m : ModelImage) (n : Nat) : List Bool := (eqBranches m n).map (fun _ => true) ++ (freeNodes m n).map (fun _ => false)

/-! ## Weighted least squares (R144) -/

/-- A term of the sum that a network's pattern has a row for: the quantity, the dense index of its element, and the identifier of a measurement point
or of the station of a report, 0 for a boundary value in place of one. A prior stands with `prior`. -/
structure TermSlot where
  what  : Nat
  idx   : Nat
  mid   : Nat
  prior : Bool
deriving DecidableEq

/-- The station, plant or store branches of a network and its actuators, with the terms that a report or a boundary value gives them. -/
def branchSlots (m : ModelImage) (i : Nat) : List TermSlot :=
  match m.branches[i]? with
  | none => []
  | some b =>
    match b.kind with
    | .station => [⟨2, i, b.owner, false⟩, ⟨1, nodeIdx m b.fromN, b.owner, false⟩, ⟨1, nodeIdx m b.toN, b.owner, false⟩]
    | .plant | .store => [⟨2, i, 0, false⟩]
    | .pump => [⟨4, i, 0, false⟩]
    | .valve => [⟨5, i, 0, false⟩]
    | _ => []

/-- The terms of a network of a quantity class: 1 pressures, 2 flows, 3 settings; measurement points, reports, boundary values, then priors. -/
def netSlots (m : ModelImage) (n cls : Nat) : List TermSlot :=
  let class_ := fun (q : Nat) => if q = 1 then 1 else if q = 2 then 2 else if q = 4 ∨ q = 5 then 3 else 0
  let pts := m.meas.filterMap (fun d =>
    if d.quantity = 1 then (if (netNodes m n).contains (nodeIdx m d.elem) then some (⟨1, nodeIdx m d.elem, d.mid, false⟩ : TermSlot) else none)
    else if d.quantity = 3 then none
    else if (netBranches m n).contains (branchIdx m d.elem) then some ⟨d.quantity, branchIdx m d.elem, d.mid, false⟩ else none)
  let ref := (netNodes m n).filterMap (fun i => match m.nodes[i]? with | some x => if x.reference then some (⟨1, i, 0, false⟩ : TermSlot) else none | none => none)
  let prior := (netNodes m n).map (fun i => (⟨1, i, 0, true⟩ : TermSlot)) ++ (netBranches m n).map (fun i => ⟨2, i, 0, true⟩) ++
    (setBranches m n).map (fun i => ⟨4, i, 0, true⟩)
  (pts ++ (netBranches m n).flatMap (branchSlots m) ++ ref ++ prior).filter (fun t => class_ t.what == cls)

/-- The element of a class that a term reads, as its number among the states of the class. -/
def termState (m : ModelImage) (n cls : Nat) (t : TermSlot) : Nat :=
  (if cls = 1 then netNodes m n else if cls = 2 then netBranches m n else setBranches m n).findIdx (· == t.idx)

/-- The rows of the WLS system of a network, in this order: the terms of the three classes, the pressures, flows and settings, the mass balances and
the branch equations. -/
structure WlsRows where
  t1 : Nat
  t2 : Nat
  t3 : Nat
  p  : Nat
  q  : Nat
  s  : Nat
  c  : Nat
  e  : Nat

/-- The number of rows of each part of the WLS system. -/
def wlsRows (m : ModelImage) (n : Nat) : WlsRows :=
  { t1 := (netSlots m n 1).length, t2 := (netSlots m n 2).length, t3 := (netSlots m n 3).length, p := (netNodes m n).length,
    q := (netBranches m n).length, s := (setBranches m n).length, c := (freeNodes m n).length, e := (eqBranches m n).length }

/-- The blocks of the WLS system of a network: W⁻¹ and H by class; C of the mass balances, and of the equations by pressure, flow and setting; the
right-hand sides and the solutions by part. -/
def wlsBlocks (m : ModelImage) (n : Nat) : List SysBlock :=
  let r := wlsRows m n
  let o1 := r.t1
  let o2 := o1 + r.t2
  let op := o2 + r.t3
  let oq := op + r.p
  let os := oq + r.q
  let oc := os + r.s
  let oe := oc + r.c
  let h := fun cls (r0 c0 : Nat) => (netSlots m n cls).mapIdx (fun k t => (c0 + termState m n cls t, r0 + k))
  let ends := fun (i j : Nat) => incid m i j != 0
  [matBlock (diagPos 0 r.t1), matBlock (diagPos o1 r.t2), matBlock (diagPos o2 r.t3), matBlock (h 1 0 op), matBlock (h 2 o1 oq), matBlock (h 3 o2 os),
   matBlock (relPos (freeNodes m n) (netBranches m n) oc oq (fun j i => ends i j)),
   matBlock (relPos (eqBranches m n) (netNodes m n) oe op ends),
   matBlock (relPos (eqBranches m n) (netBranches m n) oe oq (· == ·)), matBlock (relPos (eqBranches m n) (setBranches m n) oe os (· == ·))] ++
  [0x02, 0x10].flatMap (fun role => [r.t1, r.t2, r.t3, r.p, r.q, r.s, r.c, r.e].map (vecBlock role))

/-- The expected signs of the rows of the WLS system: terms and constraints +1, states -1. -/
def wlsSigns (m : ModelImage) (n : Nat) : List Bool :=
  let r := wlsRows m n
  List.replicate (r.t1 + r.t2 + r.t3) true ++ List.replicate (r.p + r.q + r.s) false ++ List.replicate (r.c + r.e) true

/-! ## Patterns from systems -/

/-- The exponent table of a built pattern: each block takes the exponent that the model image gives it (R125), 0 where it gives none. -/
def expTable (m : ModelImage) (slot : Nat) (bs : List SysBlock) : List PatBlock :=
  bs.mapIdx (fun i b =>
    let num := ((bs.take i).filter (fun x => x.role == b.role)).length
    { role := b.role, exp := (m.expOf (.pattern slot b.role num)).getD 0, count := b.count })

/-- The rows in a free order, each once (R197, R205). -/
def freeOrder (slot : Nat) (sig : BitVec 64) (n : Nat) : List Nat :=
  let l := ((Config.patOrder slot sig.toNat).filter (fun r => decide (r < n))).eraseDups
  l ++ (List.range n).filter (fun r => !l.contains r)

/-- Panels of 1 to 64 columns that cover n columns (R195): free widths, then panels of 64. -/
def cutPanels : Nat → List Nat → Nat → List Nat
  | 0, _, _ => []
  | k + 1, ws, n => if n = 0 then [] else let w := min n (clampN 1 64 (ws.headD 64)); w :: cutPanels k ws.tail (n - w)

/-- A pattern body that the module or the firmware builds (R197). -/
def builtBody (m : ModelImage) (slot : Nat) (bs : List SysBlock) (signs : List Bool) (keys conKeys : List Nat) : PatBody :=
  let n := signs.length
  let ws := cutPanels n (Config.patPanels slot m.structSig.toNat) n
  { order := freeOrder slot m.structSig n, signs := signs,
    nonzero := (bs.mapIdx (fun i b => if b.pos.isEmpty then [] else [(i, b.pos)])).flatten,
    panels := ws.mapIdx (fun i w => (w, (m.expOf (.pattern slot 0 i)).getD 1)), blocks := expTable m slot bs, keys := keys, conKeys := conKeys }

/-- The longest panel of a pattern in ns (R195, R226). -/
def longestPanel (sig : BitVec 64) (b : PatBody) : Nat := maxOf ((List.range b.panels.length).map (Config.panelNs sig))

/-- The non-zeros of L after fill (R199): the rows that each column of the factor reaches, in the elimination order. -/
def factorFill : List Nat → List (Nat × Nat) → Nat
  | [], _ => 0
  | r :: rs, es =>
    let near := (rs.filter (fun k => es.any (fun e => (e.1 == r && e.2 == k) || (e.1 == k && e.2 == r))))
    let more := near.flatMap (fun a => (near.filter (fun b => decide (a < b))).map (fun b => (a, b)))
    near.length + factorFill rs (es ++ more)

/-- A built pattern as a slot holds it (R197, R198). -/
def builtSlot (m : ModelImage) (qp : Bool) (nVars : Nat) (b : PatBody) : PatSlot :=
  let sig := Config.patDigest b
  let pos := (b.blocks.mapIdx (fun i x => (tgetD b.nonzero i []).map (fun e => if x.role = 0x04 then (e.1 + nVars, e.2) else e))).flatten
  { kindQp := qp, freeStand := false, nVars := nVars, nCons := b.signs.length - nVars, structSig := m.structSig, patSig := sig,
    factorNnz := factorFill b.order pos, lineage := m.lineage, longestNs := longestPanel sig b, body := b }

/-- The sections that give a system's matrix and right-hand side their values (R202): values by block, in the pattern's order. -/
def systemInput (p : PatSlot) (vals : List (List Rat)) : List JobSection :=
  (p.body.blocks.mapIdx (fun i b =>
    if b.role = 0x10 then [] else [{ role := b.role, blockId := i, exp := b.exp, count := b.count,
                                     vals := (vals.getD i []).map (fun v => (bsPut b.exp v).1), keys := [] }])).flatten

end Sys2Proof.Machine
end

