-- ==== Sys2Proof/Machine/Programme.lean ====
section
/-!
DEFINITION. The structure of dispatch's programme in churn slot 8: its variables, its constraints and its blocks (R197, R235, R236). The keys of the
constraints and the blocks are a DESIGN CHOICE (log entry 91).
-/
namespace Sys2Proof.Machine

/-- A variable or a constraint of the programme: its quantity index (R235), or for a constraint its kind; its identifier; its step. -/
structure PKey where
  qty  : Nat
  mid  : Nat
  step : Nat
deriving DecidableEq

/-- The 8-byte key as a number (R202): MID, quantity index, step number. -/
def PKey.num (k : PKey) : Nat := k.mid + k.qty * 2 ^ 32 + k.step * 2 ^ 48

/-- The network of a unit. -/
def unitNet (m : ModelImage) (mid : Nat) : Nat := match m.branches.find? (fun b => b.owner == mid) with | some b => b.net | none => 0

/-- The identifiers that a quantity stands for (R235): plants, stores, pump groups, watch ports, stations. -/
def qtyMids (m : ModelImage) (watch : List Watch) (qty : Nat) : List Nat :=
  let of_ := fun k => (m.units.filter (fun u => midKind u.mid == k)).map (·.mid)
  if qty ≤ 4 then of_ 6 else if qty ≤ 8 then of_ 7 else if qty ≤ 10 then of_ 9 else if qty = 11 then watch.map (·.mid)
  else m.stations.map (fun d => stnMid d.ident)

/-- The 96 steps of the horizon (R229). -/
def horizon : List Nat := List.range 96

/-- The variables of a quantity. -/
def qtyVars (m : ModelImage) (watch : List Watch) (qty : Nat) : List PKey :=
  (qtyMids m watch qty).flatMap (fun mid => horizon.map (fun t => ⟨qty, mid, t⟩))

/-- The twelve quantities of R235. -/
def qtys : List Nat := (List.range 12).map (· + 1)

/-- The variables of the programme, block by block. -/
def progKeys (m : ModelImage) (watch : List Watch) : List PKey := qtys.flatMap (qtyVars m watch)

/-- The constraints of a kind (R236): 20h the heat balance of a network, 21h ramp, 22h plant conversion, 23h store energy, 24h store terminal, 25h
pump power, 26h watch port. -/
def kindCons (m : ModelImage) (watch : List Watch) (kind : Nat) : List PKey :=
  let each := fun (mids : List Nat) (ts : List Nat) => mids.flatMap (fun mid => ts.map (fun t => (⟨kind, mid, t⟩ : PKey)))
  if kind = 0x20 then each (List.range m.networks.length) horizon
  else if kind = 0x21 ∨ kind = 0x22 then each (qtyMids m watch 1) horizon
  else if kind = 0x23 then each (qtyMids m watch 5) (List.range 95)
  else if kind = 0x24 then each (qtyMids m watch 5) [95]
  else if kind = 0x25 then each (qtyMids m watch 9) horizon
  else each (watch.map (·.mid)) horizon

/-- The kinds of constraint. -/
def conKinds : List Nat := (List.range 7).map (· + 0x20)

/-- The constraints of the programme, block by block. -/
def conKeysOf (m : ModelImage) (watch : List Watch) : List PKey := conKinds.flatMap (kindCons m watch)

/-- Whether a variable stands in a constraint (R236, R239). -/
def relates (m : ModelImage) (c v : PKey) : Bool :=
  if c.qty = 0x20 then
    c.step == v.step && ((v.qty == 1 || v.qty == 5 || v.qty == 6) && unitNet m v.mid == c.mid ||
      v.qty == 12 && m.stations.any (fun d => stnMid d.ident == v.mid && d.net == c.mid))
  else if c.qty = 0x21 then c.mid == v.mid && (v.qty == 1 && (v.step == c.step || v.step + 1 == c.step) || v.qty == 4 && v.step == c.step)
  else if c.qty = 0x22 then c.mid == v.mid && c.step == v.step && decide (v.qty ≤ 3)
  else if c.qty = 0x23 then
    c.mid == v.mid && (v.qty == 7 && (v.step == c.step || v.step == c.step + 1) || (v.qty == 5 || v.qty == 6) && v.step == c.step)
  else if c.qty = 0x24 then c.mid == v.mid && (v.qty == 7 || v.qty == 8) && v.step == 95
  else if c.qty = 0x25 then c.mid == v.mid && c.step == v.step && (v.qty == 9 || v.qty == 10)
  else v.qty == 11 && v.mid == c.mid && v.step == c.step || v.qty == 2 && decide (v.step ≤ c.step)

/-- The positions of the constraints of a kind: rows counted over all constraints, columns over all variables. -/
def kindPos (m : ModelImage) (watch : List Watch) (kind : Nat) : List (Nat × Nat) :=
  let vs := progKeys m watch
  ((conKeysOf m watch).mapIdx (fun r c => if c.qty = kind then (vs.mapIdx (fun k v => if relates m c v then [(r, k)] else [])).flatten else [])).flatten

/-- Where the variables of a quantity begin. -/
def qtyStart (m : ModelImage) (watch : List Watch) (qty : Nat) : Nat := ((qtys.filter (· < qty)).flatMap (qtyVars m watch)).length

/-- The blocks of the programme: the diagonal of H by quantity, A by kind; q, l, u, x and the bound duals by quantity; b and y by kind. -/
def progBlocks (m : ModelImage) (watch : List Watch) : List SysBlock :=
  let n := fun q => (qtyVars m watch q).length
  let c := fun k => (kindCons m watch k).length
  qtys.map (fun q => { role := 0x03, pos := diagPos (qtyStart m watch q) (n q), count := n q }) ++
    conKinds.map (fun k => { role := 0x04, pos := kindPos m watch k, count := (kindPos m watch k).length }) ++
    [0x05, 0x07, 0x08, 0x10, 0x12, 0x13].flatMap (fun role => qtys.map (fun q => vecBlock role (n q))) ++
    [0x06, 0x11].flatMap (fun role => conKinds.map (fun k => vecBlock role (c k)))

/-- The pattern body of the programme: variables of sign +1, constraints of sign -1 (R197, R205). -/
def progBody (m : ModelImage) (watch : List Watch) : PatBody :=
  let vs := progKeys m watch
  let cs := conKeysOf m watch
  builtBody m 8 (progBlocks m watch) (vs.map (fun _ => true) ++ cs.map (fun _ => false)) (vs.map (·.num)) (cs.map (·.num))

/-! ## The slots that a model fills (R197) -/

/-- The Newton pattern of a network. -/
def newtonSlot (m : ModelImage) (n : Nat) : PatSlot :=
  builtSlot m false (eqBranches m n).length (builtBody m n (newtonBlocks m n) (newtonSigns m n) [] [])

/-- The WLS pattern of a network. -/
def wlsSlot (m : ModelImage) (n : Nat) : PatSlot :=
  let g := wlsSigns m n
  builtSlot m false (g.filter (fun x => x)).length (builtBody m (n + 4) (wlsBlocks m n) g [] [])

/-- The pattern of dispatch's programme. -/
def progSlot (watch : List Watch) (m : ModelImage) : PatSlot := builtSlot m true (progKeys m watch).length (progBody m watch)

/-- The patterns of slots 0 to 11 for a model (R197): a Newton and a WLS system for each network, and dispatch's programme in slot 8. -/
def builtPats (watch : List Watch) (m : ModelImage) : Tbl PatSlot :=
  let n := min m.networks.length 4
  (List.range n).map (fun i => (i, newtonSlot m i)) ++ (List.range n).map (fun i => (i + 4, wlsSlot m i)) ++
    [(8, progSlot watch m)]

end Sys2Proof.Machine
end

