-- ==== Sys2Proof/Machine/RegMap.lean ====
section
/-!
DEFINITION. The register map of BAR0 (R543, R544): for each register its address, its stride and count in an array, its reset
value and which of its bits are RW, RWL, W1C and RC (R7). Bits in no mask are RO, WO or reserved. The rows follow the field maps
of the chapters; the values in force at reset that a field map leaves to the configuration, to manufacture or to MRAM are those
of log entry 3.
-/
namespace Sys2Proof.Machine

/-- The access masks and the reset value of one register. -/
structure RegSpec where
  reset : Nat
  rw    : Nat
  rwl   : Nat
  w1c   : Nat
  rc    : Nat
deriving DecidableEq, Repr

/-- A register, or an array of registers with one field map (R544). -/
structure RegRow where
  base   : Nat
  stride : Nat
  count  : Nat
  spec   : RegSpec
deriving DecidableEq, Repr

/-- A register that software only reads. -/
def ro (a reset : Nat) : RegRow := ⟨a, 4, 1, ⟨reset, 0, 0, 0, 0⟩⟩
/-- An array of registers that software only reads. -/
def roArr (a stride n reset : Nat) : RegRow := ⟨a, stride, n, ⟨reset, 0, 0, 0, 0⟩⟩
/-- A register with RW bits. -/
def rw (a reset m : Nat) : RegRow := ⟨a, 4, 1, ⟨reset, m, 0, 0, 0⟩⟩
/-- A register with RWL bits. -/
def rwl (a reset m : Nat) : RegRow := ⟨a, 4, 1, ⟨reset, 0, m, 0, 0⟩⟩
/-- An RC register of 32 bits. -/
def rc (a : Nat) : RegRow := ⟨a, 4, 1, ⟨0, 0, 0, 0, 0xFFFFFFFF⟩⟩
/-- A W1C register. -/
def w1c (a m : Nat) : RegRow := ⟨a, 4, 1, ⟨0, 0, 0, m, 0⟩⟩

/-- HIF (R88 to R94, R545). -/
def regsHif : List RegRow := [
  ro 0x00000 0, ro 0x00004 0,
  ⟨0x01000, 0x40, 60, ⟨0, 0xFFFFFFFF, 0, 0, 0⟩⟩, ⟨0x01004, 0x40, 60, ⟨0, 0xFFFFFFFF, 0, 0, 0⟩⟩,
  ⟨0x01008, 0x40, 60, ⟨0, 0xFFFFFFFF, 0, 0, 0⟩⟩, ⟨0x0100C, 0x40, 60, ⟨0, 0xFFFFFFFF, 0, 0, 0⟩⟩,
  ⟨0x01010, 0x40, 1, ⟨0x00004404, 0xFFFFFF01, 0x4, 0, 0⟩⟩,
  ⟨0x01050, 0x40, 59, ⟨0x00004400, 0xFFFFFF01, 0, 0, 0⟩⟩,
  ⟨0x01014, 0x40, 60, ⟨0x00000001, 0xFFFF00FF, 0, 0, 0⟩⟩,
  ⟨0x01018, 0x40, 60, ⟨2, 0, 0, 0x60, 0⟩⟩,
  ⟨0x0101C, 0x40, 60, ⟨0, 0, 0, 0, 0xFFFFFFFF⟩⟩, roArr 0x01020 0x40 60 0,
  ⟨0x03000, 0x10, 64, ⟨0, 0xFFFFFFFC, 0, 0, 0⟩⟩, ⟨0x03004, 0x10, 64, ⟨0, 0xFFFFFFFF, 0, 0, 0⟩⟩,
  ⟨0x03008, 0x10, 64, ⟨0, 0xFFFFFFFF, 0, 0, 0⟩⟩, ⟨0x0300C, 0x10, 64, ⟨1, 0x1, 0, 0, 0⟩⟩,
  ro 0x03800 0, ro 0x03804 0]

/-- TIM (R475 to R478). -/
def regsTim : List RegRow := [
  ro 0x04000 0, rwl 0x04004 0x000203E8 0x01FFFFFF, rwl 0x04008 0x00A803E8 0xFFFFFFFF, ro 0x04010 0x000000F8,
  w1c 0x04014 0x1FF, rw 0x04018 0 0x1FF,
  ro 0x04020 0, ro 0x04024 0, ro 0x04028 0, ro 0x0402C 0, ro 0x04030 0, ro 0x04034 0,
  ro 0x04040 0, ro 0x04044 0, ro 0x04048 0, ro 0x0404C 0, ro 0x04050 0, ro 0x04054 0, ro 0x04058 0, ro 0x04060 0, ro 0x04064 0,
  ⟨0x04100, 8, 4, ⟨2, 0xFFFFFFFF, 0, 0, 0⟩⟩, ⟨0x04104, 8, 4, ⟨0, 0xFFFFFFFF, 0, 0, 0⟩⟩,
  ⟨0x04200, 0x20, 4, ⟨0, 0, 0xE000001F, 0, 0⟩⟩, roArr 0x04204 0x20 4 0, roArr 0x04208 0x20 4 0, roArr 0x0420C 0x20 4 0,
  roArr 0x04210 0x20 4 0, roArr 0x04214 0x20 4 0, ⟨0x04218, 0x20, 4, ⟨0, 0, 0, 0, 0x3⟩⟩,
  ⟨0x04300, 0x10, 4, ⟨0, 0, 0xC000001F, 0, 0⟩⟩, ⟨0x04304, 0x10, 4, ⟨0, 0, 0xFFFFFFFF, 0, 0⟩⟩,
  ⟨0x04308, 0x10, 4, ⟨0, 0, 0xFFFFFFFF, 0, 0⟩⟩, ⟨0x0430C, 0x10, 4, ⟨0, 0, 0xFFFFFFFF, 0, 0⟩⟩]

/-- BKD (R479, R480). -/
def regsBkd : List RegRow := [
  ro 0x06000 0, ⟨0x06004, 4, 1, ⟨0, 0, 0, 0x18300000, 0x0000FFFF⟩⟩, ro 0x06008 0, ro 0x0600C 0, ro 0x06010 0, ro 0x06014 0,
  ro 0x06018 0, ro 0x0601C 0, ro 0x06020 0, rwl 0x06024 0x5 0x7, ⟨0x06800, 4, 64, ⟨0, 0xFFFFFFFF, 0, 0, 0⟩⟩]

/-- EVR and PMC (R516, R517, R523); FCO's own arrays have index-dependent values (`fcoSpec`). -/
def regsEvr : List RegRow := [
  rw 0x0A000 1 0x1, ro 0x0A004 0, w1c 0x0A010 0x7, rw 0x0A014 0 0x7, ro 0x0A020 0, ro 0x0A024 0, ro 0x0A028 0, ro 0x0A02C 0,
  rc 0x0A030, rc 0x0A034, rw 0x0A040 0 0xFFFFFFFF, rw 0x0A044 0 0xFFFFFFFF, ro 0x0A048 0, roArr 0x0A060 4 8 0,
  ⟨0x0B000, 4, 0xE0, ⟨0x80006440, 0, 0x8000FFF0, 0, 0⟩⟩, ⟨0x0B380, 4, 800, ⟨0x00006440, 0, 0x8000FFF1, 0, 0⟩⟩,
  rw 0x0C000 0 0x1, rw 0x0C004 0 0xFFFF, ro 0x0C008 0, ro 0x0C00C 0, ⟨0x0C100, 4, 32, ⟨0, 0x800000FF, 0, 0, 0⟩⟩,
  roArr 0x0C200 0x10 32 0, roArr 0x0C204 0x10 32 0, roArr 0x0C208 0x10 32 0, roArr 0x0C20C 0x10 32 0,
  ⟨0x0C600, 0x20, 5, ⟨0, 0x8000FFFF, 0, 0, 0⟩⟩, roArr 0x0C604 0x20 5 0, roArr 0x0C608 0x20 5 0,
  ⟨0x0C60C, 0x20, 5, ⟨0, 0, 0, 0, 0xFFFFFFFF⟩⟩, ⟨0x0C610, 0x20, 5, ⟨0, 0, 0, 0, 0xFFFFFFFF⟩⟩, roArr 0x0C614 0x20 5 0]

/-- DUP (R414 to R420). -/
def regsDup : List RegRow := [
  ro 0x0E000 0, rwl 0x0E004 0xF0 0x4, rwl 0x0E008 0x00083205 0x00FFFFFF, rwl 0x0E00C 0x83143232 0x8FFFFFFF,
  rwl 0x0E010 0x01000A14 0x0FFFFFFF, ro 0x0E020 0x1C000000, ro 0x0E024 0, ro 0x0E028 0, ro 0x0E02C 0,
  w1c 0x0E030 0xFF, rw 0x0E034 0 0xFF, rc 0x0E040, rc 0x0E044, rc 0x0E048, rc 0x0E04C, ro 0x0E050 0, ro 0x0E054 0, ro 0x0E058 0]

/-- CHU, SEP and CTR (R221 to R226, R135, R157 to R163, R184 to R188). -/
def regsSolve : List RegRow := [
  rwl 0x10000 0x2 0x2, rwl 0x10004 0x00102802 0x00FF3F03, rwl 0x10008 0x0018141E 0x003F3F3F, ro 0x10020 0,
  rc 0x10024, rc 0x10028, rc 0x1002C, rc 0x10030, rc 0x10034,
  roArr 0x10100 0x20 16 0, roArr 0x10104 0x20 16 0, roArr 0x10108 0x20 16 0, roArr 0x1010C 0x20 16 0, roArr 0x10110 0x20 16 0,
  roArr 0x10114 0x20 16 0, roArr 0x10118 0x20 16 0, roArr 0x1011C 0x20 16 0,
  rwl 0x14000 0xC 0xC, rwl 0x14004 0x00780008 0x00FF001F, rwl 0x14008 0x0032000A 0xFFFFFFFF, rwl 0x1400C 0x000D0340 0x00FF0FFF,
  rwl 0x14010 0x001E0505 0x00FFFFFF, ro 0x14020 0, ro 0x14024 0, ro 0x14028 0, ro 0x14030 0, ro 0x14034 0, rc 0x14038, rc 0x1403C,
  ro 0x14800 0, ro 0x14808 0, ro 0x1480C 0, ro 0x14810 0, ro 0x14814 0, ro 0x14818 0, ro 0x1481C 0, ro 0x14820 0, ro 0x14824 0,
  ro 0x14828 0,
  ro 0x18000 0, rwl 0x18004 0x0032F002 0xFFFFFFFF, rwl 0x18008 0x001E1419 0x00FFFFFF, ro 0x18020 0x00FF0000, ro 0x18024 0,
  rc 0x18028, rc 0x1802C, ro 0x18030 0, ro 0x18034 0]

/-- LPE and TLY (R281 to R284, R318 to R325). -/
def regsLpeTly : List RegRow := [
  ro 0x1C000 0, rwl 0x1C004 0x3E8 0x1FFFF, ro 0x1C008 0, rc 0x1C00C, rc 0x1C010, rc 0x1C014, ro 0x1C020 0,
  roArr 0x20000 0x10 512 0, roArr 0x20004 0x10 512 0, roArr 0x20008 0x10 512 0, roArr 0x2000C 0x10 512 0,
  rw 0x24000 0 0x1, rwl 0x24004 0x00140F00 0x00FF0F02, rwl 0x24008 0x0032000A 0xFFFF00FF, rwl 0x24010 0 0xFFFFFFFF,
  w1c 0x24020 0x00800000, ro 0x24024 0, ro 0x24028 0, ro 0x2402C 0, ro 0x24030 0, ro 0x24034 0, rc 0x24038, rc 0x2403C,
  rw 0x24040 0 0x001FFFFF,
  ⟨0x24100, 0x40, 4, ⟨0, 0, 0x11F, 0, 0⟩⟩, ⟨0x24104, 0x40, 4, ⟨0x100, 0, 0xFFFFFFFF, 0, 0⟩⟩,
  ⟨0x24108, 0x40, 4, ⟨0x100, 0, 0xFFFFFFFF, 0, 0⟩⟩, ⟨0x2410C, 0x40, 4, ⟨0x8FC, 0, 0xFFFFFFFF, 0, 0⟩⟩, roArr 0x24110 0x40 4 0,
  ⟨0x24400, 0x20, 8, ⟨0x00FF0000, 0, 0xF8FF00FF, 0, 0⟩⟩, ⟨0x24404, 0x20, 8, ⟨0x10000, 0, 0xFFFFFFFF, 0, 0⟩⟩,
  ⟨0x24408, 0x20, 8, ⟨0, 0, 0xFFFFFFFF, 0, 0⟩⟩, roArr 0x2440C 0x20 8 0,
  ⟨0x25000, 0x20, 28, ⟨0x40000000, 0xFFFFFFFF, 0, 0, 0⟩⟩, ⟨0x25004, 0x20, 28, ⟨0x40000000, 0xFFFFFFFF, 0, 0, 0⟩⟩,
  ⟨0x25008, 0x20, 28, ⟨0, 0xFFFFFFFF, 0, 0, 0⟩⟩, ⟨0x2500C, 0x20, 28, ⟨0, 0xFFFFFFFF, 0, 0, 0⟩⟩,
  ⟨0x25010, 0x20, 28, ⟨0, 0xFFFFFFFF, 0, 0, 0⟩⟩, ⟨0x25014, 0x20, 28, ⟨0, 0xFFFFFFFF, 0, 0, 0⟩⟩]

/-- RND and CYC (R358 to R363, R385 to R388). -/
def regsRndCyc : List RegRow := [
  rwl 0x2C000 0x2 0x2, rwl 0x2C004 0x5F463C23 0xFFFFFFFF, rwl 0x2C008 0x00300A02 0x00FFFF0F, rwl 0x2C00C 0x001E0501 0xFFFFFFFF,
  rwl 0x2C010 0x1295 0xFFFF, ro 0x2C020 0, ro 0x2C024 0, ro 0x2C028 0, ro 0x2C030 0, ro 0x2C034 0, ro 0x2C038 0,
  ⟨0x2C100, 4, 14, ⟨0, 0, 0, 0, 0xFFFFFFFF⟩⟩, roArr 0x30000 4 4096 0,
  rwl 0x34000 0x1 0x1, ro 0x34020 0, ro 0x34028 0, ro 0x3402C 0, ro 0x34030 0, ro 0x34034 0, rc 0x34038,
  roArr 0x34100 0x20 8 0, roArr 0x34104 0x20 8 0, ⟨0x34108, 0x20, 8, ⟨0, 0, 0, 0, 0xFFFFFFFF⟩⟩,
  ⟨0x3410C, 0x20, 8, ⟨0, 0, 0, 0, 0xFFFFFFFF⟩⟩, roArr 0x34110 0x20 8 0, roArr 0x34114 0x20 8 0]

/-- FIO, KST, UPD and GLB (R444 to R449, R494 to R497, R541, R542, R551 to R553). -/
def regsRest : List RegRow := [
  ro 0x38000 0, rwl 0x38004 0x5 0xFF, ro 0x38008 0, ro 0x3800C 0, rc 0x38010, ⟨0x38100, 4, 32, ⟨0, 0, 0xFCFF, 0, 0⟩⟩,
  ⟨0x38400, 0x40, 4, ⟨0, 0, 0xFF80FFFF, 0, 0⟩⟩, roArr 0x38404 0x40 4 0, ⟨0x38408, 0x40, 4, ⟨0, 0, 0, 0, 0xFFFFFFFF⟩⟩,
  ⟨0x3840C, 0x40, 4, ⟨0, 0, 0, 0, 0xFFFFFFFF⟩⟩, ⟨0x38410, 0x40, 4, ⟨0, 0, 0, 0, 0xFFFFFFFF⟩⟩,
  ro 0x38600 0, rc 0x38604, rc 0x38608,
  ⟨0x38800, 0x40, 4, ⟨0x20321485, 0, 0xF0FFFFFF, 0, 0⟩⟩, roArr 0x38804 0x40 4 0, ⟨0x38808, 0x40, 4, ⟨0, 0, 0, 0, 0xFFFFFFFF⟩⟩,
  ⟨0x3880C, 0x40, 4, ⟨0, 0, 0, 0, 0xFFFFFFFF⟩⟩, ⟨0x38810, 0x40, 4, ⟨0, 0, 0, 0, 0xFFFFFFFF⟩⟩,
  ro 0x48000 0, ro 0x48004 0x80000000, rw 0x48008 0 0x7, ro 0x48010 0, ro 0x48014 0, ro 0x48100 0x44001000, ro 0x48104 0x43002800, roArr 0x48108 4 62 0,
  ro 0x4C000 0, rwl 0x4C004 0xC 0xFFFF, w1c 0x4C010 0x10000000, ro 0x4C014 0, ro 0x4C018 0, ro 0x4C01C 0, ro 0x4C020 0,
  ro 0x4C024 0, ro 0x4C028 0,
  ro 0x7F000 0x445A7416, ro 0x7F004 0x00010041, ro 0x7F008 0, ro 0x7F00C 0, ro 0x7F010 0, ro 0x7F014 0x0000FF01, ro 0x7F018 0,
  ro 0x7F01C 0, ro 0x7F020 0, ro 0x7F024 0, roArr 0x7F030 4 4 0, ⟨0x7F040, 4, 1, ⟨0x0F000000, 0, 0, 0x3000, 0⟩⟩, ro 0x7F044 0,
  ⟨0x7F048, 4, 1, ⟨0x80000000, 0, 0, 0, 0xFFFFFFFF⟩⟩, rw 0x7F050 0 0xFFFFFFFF]

/-- The reactions, the threshold, the window and the kind of a fault source at reset, and its owning block (R498). -/
structure SrcRow where
  pin     : Bool := false
  mod     : Bool := false
  blk     : Bool := false
  urg     : Bool := false
  int     : Bool := false
  level   : Bool := false
  thresh  : Nat := 1
  window  : Nat := 0
  block   : Nat := 0xFF
  known   : Bool := true
deriving DecidableEq, Repr

/-- The owning blocks of the island clock sources 17 to 35, in the order of R498. -/
def clockBlocks : List Nat :=
  [0xFF, 0xFF, 0xFF, 0x08, 0x0A, 0x0C, 0x0E, 0x00, 0x24, 0xFF, 0x12, 0x12, 0x16, 0x1A, 0xFE, 0x1C, 0x02, 0x04, 0xFF]

/-- The blocks of the parity sources 80 to 94, in the order of R498. -/
def parityBlocks : List Nat :=
  [0x00, 0x03, 0x05, 0x06, 0x07, 0x08, 0x0A, 0x0C, 0x0E, 0x12, 0x16, 0x1A, 0x1C, 0x24, 0x26]

/-- The fault sources (R498). -/
def srcRow (n : Nat) : SrcRow :=
  if n = 0 then { urg := true, level := true }
  else if n = 1 ∨ n = 2 then { int := true, level := true }
  else if n = 3 then { int := true, pin := true, level := true }
  else if n = 16 then { urg := true, pin := true, level := true }
  else if n = 28 then { int := true, pin := true, level := true, block := 0x12 }
  else if 17 ≤ n ∧ n ≤ 35 then { urg := true, mod := true, level := true, block := clockBlocks.getD (n - 17) 0xFF }
  else if 48 ≤ n ∧ n ≤ 50 then { urg := true, pin := true, mod := true }
  else if n = 51 ∨ n = 53 then { int := true, thresh := 16, window := 0xF }
  else if n = 52 then { urg := true, mod := true, pin := true }
  else if n = 54 then { urg := true, pin := true }
  else if n = 55 ∨ n = 56 then { int := true, pin := true }
  else if n = 64 then { int := true, level := true, block := 0x00 }
  else if n = 65 then { int := true, pin := true, level := true, block := 0x12 }
  else if 66 ≤ n ∧ n ≤ 71 then { int := true, level := true }
  else if n = 72 ∨ n = 75 ∨ n = 76 then { int := true, pin := true, level := true }
  else if n = 73 ∨ n = 74 ∨ n = 78 then { int := true, level := true }
  else if n = 77 then { urg := true, pin := true }
  else if n = 79 then { int := true, pin := true }
  else if 80 ≤ n ∧ n ≤ 94 then { int := true, blk := true, block := parityBlocks.getD (n - 80) 0xFF }
  else if n = 192 then { urg := true, pin := true }
  else { known := false, thresh := 1 }

/-- FCO_SRCCFG[n] at reset (R507). -/
def srcReset (n : Nat) : Nat :=
  let r := srcRow n
  b2n r.pin <<< 31 ||| b2n r.mod <<< 30 ||| b2n r.blk <<< 29 ||| b2n r.urg <<< 28 ||| b2n r.int <<< 27 ||| 1 <<< 26 |||
    b2n r.level <<< 25 ||| r.thresh <<< 16 ||| r.window <<< 12 ||| r.block

/-- The bits of FCO_SRCCFG[n] that read 1 and cannot be removed (R498). -/
def srcFixed (n : Nat) : Nat :=
  if n = 0 then 0x10000000
  else if 48 ≤ n ∧ n ≤ 50 then 0xD0000000
  else if n = 192 then 0x90000000
  else 0

/-- The RWL bits of FCO_SRCCFG[n]: BLK is RO 0 without an owning block, and a fixed reaction stays (R498, R501, R507). -/
def srcRwl (n : Nat) : Nat :=
  (0xDCFFF000 ||| (if (srcRow n).block = 0xFF then 0 else 0x20000000)) - srcFixed n

/-- FCO's registers (R506). -/
def fcoSpec (a : Nat) : Option RegSpec :=
  if a = 0x08000 then some ⟨0, 0, 0, 0, 0⟩
  else if a = 0x08004 then some ⟨0x00FF0000, 0, 0, 0, 0⟩
  else if a = 0x08010 then some ⟨0, 0, 0, 0, 0⟩
  else if 0x08020 ≤ a ∧ a < 0x0803C ∧ a % 4 = 0 then some ⟨0, 0, 0, 0xFFFFFFFF, 0⟩
  else if 0x08400 ≤ a ∧ a < 0x08780 ∧ a % 4 = 0 then some ⟨srcReset ((a - 0x08400) / 4), 0, srcRwl ((a - 0x08400) / 4), 0, 0⟩
  else if 0x08800 ≤ a ∧ a < 0x08B80 ∧ a % 4 = 0 then some ⟨0, 0, 0, 0, 0xFFFFFFFF⟩
  else none

/-- The row that holds an address. -/
def rowAt (a : Nat) (l : List RegRow) : Option RegSpec :=
  (l.find? (fun r => r.base ≤ a && (a - r.base) % r.stride == 0 && decide ((a - r.base) / r.stride < r.count))).map (·.spec)

/-- The block whose region holds an address (R543). -/
def blockAt (a : Nat) : Option Block :=
  if a < 0x4000 then some .hif else if a < 0x6000 then some .tim else if a < 0x8000 then some .bkd
  else if a < 0xA000 then some .fco else if a < 0xC000 then some .evr else if a < 0xE000 then some .pmc
  else if a < 0x10000 then some .dup else if a < 0x14000 then some .chu else if a < 0x18000 then some .sep
  else if a < 0x1C000 then some .ctr else if a < 0x24000 then some .lpe else if a < 0x2C000 then some .tly
  else if a < 0x34000 then some .rnd else if a < 0x38000 then some .cyc else if a < 0x48000 then some .fio
  else if a < 0x4C000 then some .kst else if a < 0x50000 then some .upd
  else if 0x7F000 ≤ a ∧ a < 0x80000 then some .glb else none

/-- The register at an address, if a field map names one (R10, R543). -/
def regSpec (a : Nat) : Option RegSpec :=
  match blockAt a with
  | none => none
  | some .hif => rowAt a regsHif
  | some .tim => rowAt a regsTim
  | some .bkd => rowAt a regsBkd
  | some .fco => fcoSpec a
  | some .evr | some .pmc => rowAt a regsEvr
  | some .dup => rowAt a regsDup
  | some .chu | some .sep | some .ctr => rowAt a regsSolve
  | some .lpe | some .tly => rowAt a regsLpeTly
  | some .rnd | some .cyc => rowAt a regsRndCyc
  | some .fio | some .kst | some .upd | some .glb => rowAt a regsRest

/-- The value of an address right after reset, 0 where no register is. -/
def regReset (a : Nat) : Word := match regSpec a with | some r => BitVec.ofNat 32 r.reset | none => 0

/-- The register that holds the LOCK bit of a block (R547). -/
def lockAddr : Block → Option Nat
  | .hif => some 0x00000 | .tim => some 0x04000 | .bkd => some 0x06000 | .fco => some 0x08000 | .evr => some 0x0A000
  | .dup => some 0x0E000 | .chu => some 0x10000 | .sep => some 0x14000 | .ctr => some 0x18000 | .lpe => some 0x1C000
  | .tly => some 0x24000 | .rnd => some 0x2C000 | .cyc => some 0x34000 | .fio => some 0x38000 | .kst => some 0x48000
  | .upd => some 0x4C000 | .pmc | .glb => none

/-- The blocks of GLB_LOCKSTAT, bit 0 first (R553). -/
def lockOrder : List Block :=
  [.hif, .tim, .bkd, .fco, .evr, .dup, .chu, .sep, .ctr, .lpe, .tly, .rnd, .cyc, .fio, .kst, .upd]

/-- The code of a block in GLB_BLKRST (R70): its base divided by 2000h. -/
def blkCode : Block → Nat
  | .hif => 0x00 | .tim => 0x02 | .bkd => 0x03 | .fco => 0x04 | .evr => 0x05 | .pmc => 0x06 | .dup => 0x07 | .chu => 0x08
  | .sep => 0x0A | .ctr => 0x0C | .lpe => 0x0E | .tly => 0x12 | .rnd => 0x16 | .cyc => 0x1A | .fio => 0x1C | .kst => 0x24
  | .upd => 0x26 | .glb => 0x3F

/-- The blocks of the map, in address order. -/
def blocks : List Block :=
  [.hif, .tim, .bkd, .fco, .evr, .pmc, .dup, .chu, .sep, .ctr, .lpe, .tly, .rnd, .cyc, .fio, .kst, .upd, .glb]

/-- The blocks that a code of R70 or of FCO_SRCCFG names; FEh is DUP and FIO together (R507). -/
def codeBlocks (c : Nat) : List Block :=
  if c = 0xFE then [.dup, .fio] else blocks.filter (fun b => blkCode b == c && b != .glb)

/-- The event group of a block (R509). -/
def blockGroup : Block → Nat
  | .glb => 0 | .hif => 1 | .tim => 2 | .bkd => 3 | .fco => 4 | .evr => 5 | .pmc => 6 | .dup => 7 | .chu => 8 | .sep => 9
  | .ctr => 10 | .lpe => 11 | .tly => 12 | .rnd => 13 | .cyc => 14 | .fio => 15 | .kst => 16 | .upd => 17

/-- The groups of dispatch and of the supervisor (R509). -/
def groupDispatch : Nat := 18
/-- The group of the supervisor (R509). -/
def groupSupervisor : Nat := 19

/-- A number held to a closed range. -/
def within (v lo hi : Nat) : Bool := lo ≤ v && v ≤ hi

/-- Whether a value keeps every field of its register inside the range that the field map states. -/
def rangeOk (a : Nat) (v : Word) : Bool :=
  let f := fun hi lo => fld v hi lo
  if a = 0x14004 then within (f 23 16) 0x14 0xF0 && within (f 4 0) 1 0x10
  else if a = 0x14008 then within (f 31 16) 1 65535 && within (f 15 0) 1 65535
  else if a = 0x1400C then within (f 11 8) 0 8 && within (f 7 0) 0x20 0xA0
  else if a = 0x14010 then within (f 23 16) 1 0x64 && within (f 15 8) 1 0x64 && within (f 7 0) 1 0x64
  else if a = 0x18004 then within (f 31 16) 0 1000 && within (f 15 8) 0x20 0xF8 && within (f 7 0) 1 0xFF
  else if a = 0x18008 then within (f 23 16) 1 0xFF && within (f 7 0) 1 0xFF
  else if a = 0x10004 then within (f 23 16) 0x0A 0x18 && within (f 13 8) 1 0x3F
  else if a = 0x10008 then within (f 21 16) 0x10 0x28 && within (f 13 8) 0x0C 0x20 && decide (f 13 8 < f 21 16) && within (f 5 0) 0x10 0x28
  else if a = 0x1C004 then within (f 16 0) 1000 100000
  else if a = 0x24004 then within (f 23 16) 0 0x64
  else if a = 0x24008 then within (f 31 16) 1 65535 && within (f 7 0) 1 0xFF
  else if 0x24400 ≤ a ∧ a < 0x24500 ∧ a % 0x20 = 0 then within (f 23 16) 0 0x1F || f 23 16 == 0xFF
  else if 0x25000 ≤ a ∧ a < 0x25380 ∧ (a % 0x20 = 0x10 ∨ a % 0x20 = 0x14) then -5000 ≤ v.toInt && v.toInt ≤ 5000
  else if a = 0x2C004 then
    within (f 7 0) 0x0F 0x32 && decide (f 7 0 + 0x0A ≤ f 15 8) && decide (f 15 8 + 5 ≤ f 23 16) &&
      decide (f 23 16 + 0x0A ≤ f 31 24) && decide (f 31 24 ≤ 0x62)
  else if a = 0x2C008 then within (f 23 16) 0 0x30 && within (f 15 8) 5 0x14 && within (f 3 0) 0 3
  else if a = 0x2C00C then within (f 31 16) 2 0xE10 && decide (f 7 0 < f 31 16) && within (f 15 8) 2 0x3C && within (f 7 0) 1 0x10
  else if a = 0x2C010 then within (f 15 0) 1024 65535
  else if a = 0x0E008 then within (f 23 16) 1 0xFF && within (f 15 8) 0x0A 0x5A && within (f 7 0) 3 0x32
  else if a = 0x0E00C then within (f 27 24) 1 0xF && within (f 23 16) 1 0xFF && within (f 15 8) 1 0xFF && within (f 7 0) 1 0xFF
  else if a = 0x0E010 then within (f 27 24) 1 4 && within (f 23 8) 1 65535 && within (f 7 0) 1 0xFF
  else if a = 0x38004 then within (f 7 0) 2 0xFF
  else if 0x38800 ≤ a ∧ a < 0x38900 ∧ a % 0x40 = 0 then
    within (f 23 16) 5 0x64 && within (f 15 8) 1 0x32 && decide (f 23 16 ≤ 10 * f 15 8)
  else if a = 0x04004 then within (f 23 16) 1 0xFF && within (f 15 0) 1 65535
  else if a = 0x04008 then within (f 31 16) 1 65535 && within (f 15 0) 10 65535
  else if 0x04308 ≤ a ∧ a < 0x04340 ∧ a % 0x10 = 8 then within v.toNat 1 3600000
  else if 0x0430C ≤ a ∧ a < 0x04340 ∧ a % 0x10 = 0xC then within v.toNat 1 500000
  else if a = 0x0C004 then f 15 0 == 0 || within (f 15 0) 10 60000
  else if 0x0C100 ≤ a ∧ a < 0x0C180 then within (f 7 0) 0 0x9F
  else if 0x0C600 ≤ a ∧ a < 0x0C6A0 ∧ a % 0x20 = 0 then within (f 15 0) 1 60000
  else if a = 0x4C004 then within (f 7 0) 3 0x3C
  else true

/-- The lower words of the 64-bit pairs (R11). -/
def pairLows : List Nat :=
  [0x04020, 0x04028, 0x04030, 0x04060, 0x06010, 0x0A020, 0x0A028, 0x0A040, 0x0C008, 0x0E050, 0x14024, 0x14030, 0x14808, 0x14810,
   0x14818, 0x14820, 0x18030, 0x24030, 0x2C030, 0x34028, 0x34030, 0x48010]

/-- Whether an address is the lower word of a 64-bit pair (R11): the single pairs, the ring bases (R88), the MON stamps of TIM_CAP (R476), the LIVE
and SNAP pairs of PMC_CNT (R520) and PAT_SIG of CHU_PAT (R221). -/
def isPairLow (a : Nat) : Bool :=
  pairLows.contains a || (0x01000 ≤ a && decide (a < 0x01F00) && (a % 0x40 == 0 || a % 0x40 == 8)) ||
    (0x04200 ≤ a && decide (a < 0x04280) && a % 0x20 == 4) || (0x0C200 ≤ a && decide (a < 0x0C400) && a % 8 == 0) ||
    (0x10100 ≤ a && decide (a < 0x10300) && a % 0x20 == 0)

end Sys2Proof.Machine
end

