-- ==== Sys2Proof/Machine/Ops.lean ====
section
/-!
DEFINITION. The named operations that every block shares: registers, MSI-X messages, write-back entries and stream items, event
records. No operation stops: each answers a state.
-/
namespace Sys2Proof.Machine

/-! ## Registers -/

/-- The stored value of a register; an address that the file does not list holds its reset value. -/
def getReg (a : Nat) (s : State) : Word := (tget s.regs a).getD (regReset a)

/-- The state with a register set; a value equal to the reset value is not listed. -/
def setReg (a : Nat) (w : Word) (s : State) : State :=
  { s with regs := if w = regReset a then tdel s.regs a else tput s.regs a w }

/-- Bits hi:lo of a register. -/
def getF (a hi lo : Nat) (s : State) : Nat := fld (getReg a s) hi lo

/-- Bit i of a register. -/
def getB (a i : Nat) (s : State) : Bool := bitAt (getReg a s) i

/-- The state with bits hi:lo of a register set. -/
def setF (a hi lo v : Nat) (s : State) : State := setReg a (putFld (getReg a s) hi lo v) s

/-- The state with one bit of a register set or cleared. -/
def setB (a i : Nat) (b : Bool) (s : State) : State := setReg a (putBit (getReg a s) i b) s

/-- A saturating counter register raised by n (R550). -/
def incReg (a n : Nat) (s : State) : State := setReg a (satAdd32 (getReg a s) n) s

/-- A 64-bit value in two registers, lower word first (R11). -/
def setPair (a v : Nat) (s : State) : State := setReg (a + 4) (hi32 v) (setReg a (lo32 v) s)

/-- Whether a block's LOCK bit is 1 (R9). -/
def lockOf (b : Block) (s : State) : Bool :=
  match lockAddr b with | some a => getB a 31 s | none => false

/-- Something leaves the module. -/
def emit (o : Out) (s : State) : State := { s with out := o :: s.out }

/-- The index of the next free value (log entry 5). -/
def draw (s : State) : Nat × State := (s.free, { s with free := s.free + 1 })

/-- Runs f if the rails are on: an unpowered module does nothing (R37). -/
def run (f : State → State) (s : State) : Host.Outcome State Fault Refusal :=
  .next (if s.pwr.on then f s else s)

/-- Whether start-up has decided the restart and no sequence of R37 or R65 runs: the loops and the program run only then (R37, R65, R72, R76). -/
def started (s : State) : Bool := let v := getF 0x7F01C 3 0 s; decide (4 ≤ v) && v != 15 && s.pwr.seq.isNone

/-! ## Performance counters -/

/-- The block whose island counts a performance event (R518). -/
def pmcBlock (e : Nat) : Option Block :=
  if e < 0x0C then none else if e < 0x1C then some .chu else if e < 0x24 then some .sep else if e < 0x2C then some .ctr else if e < 0x34 then some .lpe
  else if e < 0x3C then some .cyc else if e < 0x4C then some .tly else if e < 0x5C then some .rnd else if e < 0x8B then some .fio
  else if e < 0x8C then some .tim else if e < 0x98 then some .hif else if e < 0x9C then none else if e < 0x9E then some .kst else some .evr

/-- n occurrences of a performance event (R518, R519): every counter that selects it and counts takes them. An island in block reset counts nothing, and
PMC in its own counts none. -/
def pmcAdd (event n : Nat) (s : State) : State :=
  if getB 0x0C000 0 s || s.start.blkRst.contains .pmc || s.start.blkRst.any (fun b => pmcBlock event == some b) then s
  else
    let hit : Nat → Bool := fun k => getB (0x0C100 + 4 * k) 31 s && getF (0x0C100 + 4 * k) 7 0 s == event
    let t := ((List.range 32).filter hit).foldl (fun t k => tmod t k 0 (fun c => (c + n) % 2 ^ 64)) s.pmc.count
    { s with pmc := { s.pmc with count := t } }

/-- Whether MON stands at a whole multiple of p ns, within one tick of 2 ns, that is later than the last one dealt with (R511, R521, R522). -/
def onMultiple (p last mon : Nat) : Bool := decide (p ≠ 0) && decide (mon % p < 4) && decide (last / p < mon / p)

/-- Octets on a bandwidth port (R522): p is the port, n the octets. -/
def bwAdd (p tx rx : Nat) (s : State) : State :=
  let w := tgetD s.pmc.bw p {}
  if getB (0x0C600 + 0x20 * p) 31 s && w.running then
    { s with pmc := { s.pmc with bw := tput s.pmc.bw p { w with tx := w.tx + tx, rx := w.rx + rx } } }
  else s

/-! ## MSI-X -/

/-- Whether the module may make memory requests to the host (R117). -/
def linkOk (s : State) : Bool := s.hif.linkUp && s.hif.busMaster

/-- The Mask bit of a vector's Vector Control (R113, R545); that of vector 0 is ignored. -/
def vecMasked (v : Nat) (s : State) : Bool := s.hif.fnMask || (v != 0 && getB (0x0300C + 16 * v) 0 s)

/-- A message goes out now. -/
def putMsg (v : Nat) (s : State) : State :=
  pmcAdd 0x8E 1 (emit (.msix v) { s with hif := { s.hif with lastMsg := if v ≤ 3 then tput s.hif.lastMsg v s.tim.mon else s.hif.lastMsg } })

/-- A vector signals (R112 to R114): a masked one sets its pending bit, and vectors 0 to 3 keep 100 µs between messages. -/
def sendMsg (v : Nat) (s : State) : State :=
  if !s.hif.msixOn || !linkOk s then s
  else if vecMasked v s then { s with hif := { s.hif with pba := addOnce s.hif.pba v } }
  else if v ≤ 3 then
    match tget s.hif.lastMsg v with
    | some t => if s.tim.mon < t + 100000 then { s with hif := { s.hif with spaced := addOnce s.hif.spaced v } } else putMsg v s
    | none => putMsg v s
  else putMsg v s

/-- A cause bit of an interrupt status register sets; an enabled bit that newly sets signals the vector (R113). -/
def setCause (stat en bit vec : Nat) (s : State) : State :=
  if getB stat bit s then s
  else
    let s := setB stat bit true s
    if getB en bit s then sendMsg vec s else s

/-! ## Ring pairs -/

/-- The set-up register of a pair at an offset in its group (R88). -/
def ringReg (pair off : Nat) : Nat := 0x01000 + pair * 0x40 + off

/-- A ring pair's state. -/
def ring (pair : Nat) (s : State) : Ring := tgetD s.hif.rings pair {}

/-- The state with a ring pair's state replaced. -/
def putRing (pair : Nat) (r : Ring) (s : State) : State := { s with hif := { s.hif with rings := tput s.hif.rings pair r } }

/-- Whether a pair is internally owned (R84, R86). -/
def ownedInside (pair : Nat) (s : State) : Bool := pair == 0 && getB (ringReg 0 0x10) 2 s

/-- Whether a pair's ENABLE is 1. -/
def ringOn (pair : Nat) (s : State) : Bool := getB (ringReg pair 0x10) 0 s

/-- Entries of the submission ring (R89). -/
def subSize (pair : Nat) (s : State) : Nat := 2 ^ getF (ringReg pair 0x10) 11 8 s

/-- Entries of the completion ring (R89). -/
def cmpSize (pair : Nat) (s : State) : Nat := 2 ^ getF (ringReg pair 0x10) 15 12 s

/-- Completion slots that hold no unread entry (R108). -/
def openSlots (pair : Nat) (s : State) : Nat :=
  let r := ring pair s
  let n := cmpSize pair s
  n - 1 - (r.cmpTail + n - r.cmpHead) % n

/-- Completion slots reserved for descriptors that have started (R108). -/
def reserved (r : Ring) : Nat := (r.cmds.filter (fun c => c.started)).length

/-- Completion slots that a new command or a stream item may take (R108, R109). -/
def freeSlots (pair : Nat) (s : State) : Nat := openSlots pair s - reserved (ring pair s)

/-- A pair holds no descriptor and no buffer (R93). -/
def ringIdle (pair : Nat) (s : State) : Bool :=
  (ring pair s).cmds.isEmpty && (ring pair s).bufs.isEmpty && (ring pair s).posts.isEmpty && (ring pair s).ended.isEmpty

/-- Whether a pair's entries and data reach memory: they are discarded while it is detached (R117). -/
def attached (pair : Nat) (s : State) : Bool := ownedInside pair s || (linkOk s && !(ring pair s).detached)

/-- The vector of a pair signals if it is armed, and the message disarms it (R112). DESIGN CHOICE (log entry 65): where MSI-X is disabled or the link
is down, the message is lost and the vector is disarmed all the same. -/
def signalPair (pair : Nat) (s : State) : State :=
  let r := ring pair s
  if r.armed then
    let s := putRing pair { r with armed := false, unsig := 0 } s
    if ownedInside pair s then s else sendMsg (4 + pair) s
  else s

/-- The 32 bytes of a write-back entry (R4, R102). -/
def Entry.bytes (e : Entry) : Bytes :=
  le 8 e.mon ++ le 8 e.tag ++ le 4 e.len ++ le 4 e.detail ++ le 2 e.slot ++ le 2 e.seqtag ++ le 1 e.status ++
    le 1 (b2n e.phase + 2 * b2n e.rxdata) ++ le 2 e.subHead

/-- The address of a slot of a pair's completion ring (R88). -/
def entryAddr (pair slot : Nat) (s : State) : Nat :=
  (getReg (ringReg pair 0x8) s).toNat + (getReg (ringReg pair 0xC) s).toNat * 2 ^ 32 + 32 * slot

/-- A write-back entry (R102, R103, R112): slot, tag, length, status and detail, whether it reports a filled buffer, the time and
the IRQ flag. -/
def writeEntry (pair slot tag len status detail : Nat) (rx : Bool) (mon : Nat) (irq : Bool) (s : State) : State :=
  if !attached pair s then s
  else
    let r := ring pair s
    let n := cmpSize pair s
    let e : Entry := { mon := mon, tag := tag, len := len, detail := detail, slot := slot,
                       seqtag := getF (ringReg pair 0x10) 31 16 s, status := status, phase := r.phase, rxdata := rx, subHead := r.subHead }
    let t := (r.cmpTail + 1) % n
    let first := if r.unsig = 0 then s.tim.mon else r.oldest
    let ph := if t = 0 then !r.phase else r.phase
    let r' := { r with cmpTail := t, phase := ph, unsig := r.unsig + 1, oldest := first }
    let s := pmcAdd 0x8D 1 (putRing pair r' (emit (.entry pair r.cmpTail (entryAddr pair r.cmpTail s) e.bytes) s))
    let s := if ownedInside pair s then s else bwAdd 4 32 0 (pmcAdd 0x91 32 s)
    let time := getF (ringReg pair 0x14) 31 16 s
    let count := max 1 (getF (ringReg pair 0x14) 7 0 s)
    if irq || status == 0x05 || status == 0x14 || time == 0 || decide (count ≤ r'.unsig) then signalPair pair s else s

/-- Data written to a host buffer (R104). -/
def hostWrite (pair addr : Nat) (b : Bytes) (s : State) : State :=
  if b.isEmpty || !attached pair s then s
  else bwAdd 4 b.length 0 (pmcAdd 0x91 b.length (emit (.hostData pair addr b) s))

/-- Whether INLINE is 1 (R95). -/
def descInl (d : Desc) : Bool := d.flags / 4 % 2 == 1

/-- Whether IRQ is 1 (R95). -/
def descIrq (d : Desc) : Bool := d.flags % 2 == 1

/-- A write of n bytes into a buffer whose accesses fail at an offset fails (R104). -/
def writeFails (fail : Option Nat) (n : Nat) : Bool := match fail with | some off => decide (off < n) | none => false

/-- An ended descriptor's output goes to its buffer, which an INLINE descriptor does not have (R95), and its entry follows (R104): a write that
fails ends it with DMA_ERR and the offset. -/
def cmdEntry (pair : Nat) (c : Cmd) (d : Done) (s : State) : State :=
  if !descInl c.desc && writeFails c.fail d.data.length then
    let off := c.fail.getD 0
    writeEntry pair c.slot c.desc.userTag off 0x14 off false d.mon (descIrq c.desc) (hostWrite pair c.desc.bufAddr (d.data.take off) s)
  else
    let s := if descInl c.desc then s else hostWrite pair c.desc.bufAddr d.data s
    writeEntry pair c.slot c.desc.userTag d.len d.status d.detail false d.mon (descIrq c.desc) s

/-- The entries of ended descriptors, in fetch order, while a completion slot is open (R105, R108). -/
def flushCmds (pair : Nat) : List Cmd → State → State
  | [], s => putRing pair { ring pair s with cmds := [] } s
  | c :: cs, s =>
    match c.done with
    | none => putRing pair { ring pair s with cmds := c :: cs } s
    | some d =>
      if openSlots pair s = 0 && attached pair s then putRing pair { ring pair s with cmds := c :: cs } s
      else flushCmds pair cs (cmdEntry pair c d s)

/-- The entries of posted buffers that have ended, while an unreserved completion slot is open (R108, R115, R116). -/
def flushBufs (pair : Nat) : List (Buf × Nat) → State → State
  | [], s => putRing pair { ring pair s with ended := [] } s
  | (b, st) :: bs, s =>
    if freeSlots pair s = 0 && attached pair s then putRing pair { ring pair s with ended := (b, st) :: bs } s
    else flushBufs pair bs (writeEntry pair b.slot b.tag 0 st 0 false s.tim.mon b.irq s)

/-- Every posted buffer of a pair ends with a status (R115, R116). -/
def endBufs (pair st : Nat) (s : State) : State :=
  let r := ring pair s
  putRing pair { r with bufs := [], ended := r.ended ++ r.bufs.map (fun b => (b, st)) } s

/-- Every entry that may be written now. The disable sequence ends the unfilled buffers once no descriptor is left, and with them the pair is idle
(R115). -/
def flushRing (pair : Nat) (s : State) : State :=
  let s := flushCmds pair (ring pair s).cmds s
  let s := if (ring pair s).disabling && (ring pair s).cmds.isEmpty then endBufs pair 0x03 s else s
  let s := flushBufs pair (ring pair s).ended s
  if (ring pair s).disabling && ringIdle pair s then putRing pair { ring pair s with disabling := false } s else s

/-- A command descriptor ends (R104, R105): its status, its detail, the bytes written or consumed, and its output. -/
def complete (r : Req) (status detail len : Nat) (b : Bytes) (s : State) : State :=
  let s := emit (.opDone r status detail len b) s
  let q := ring r.pair s
  let d : Done := { status := status, detail := detail, len := len, mon := s.tim.mon, data := b }
  let cmds := q.cmds.map (fun c => if c.slot = r.slot && c.started && c.done.isNone then { c with done := some d } else c)
  flushRing r.pair (putRing r.pair { q with cmds := cmds } s)

/-- A command descriptor ends with no output (R97, R119). -/
def finish (r : Req) (status detail : Nat) (s : State) : State := complete r status detail 0 [] s

/-- The output of an operation goes to its buffer of LENGTH bytes; one that is too long ends with BUF_SHORT (R119). -/
def output (r : Req) (len : Nat) (b : Bytes) (s : State) : State :=
  if len < b.length then complete r 0x15 b.length len (b.take len) s else complete r 0x00 0 b.length b s

/-! ## Operations -/

/-- The descriptor of an operation under way: the one at its slot whose function has started it and that has not ended. -/
def heldCmd (r : Req) (s : State) : Option Cmd :=
  (ring r.pair s).cmds.find? (fun c => c.slot == r.slot && c.started && c.done.isNone)

/-- The data of a descriptor (R95): LENGTH bytes of PARAM where INLINE is 1, or of the host buffer where the operation reads it. -/
def descInput (d : Desc) (buf : Option Bytes) : Bytes :=
  if descInl d then (d.param ++ zeros d.length).take d.length
  else match buf with | some b => (b ++ zeros d.length).take d.length | none => []

/-- An operation runs on the PARAM and the data of its descriptor, which the module has started with one of the operation's opcodes; a buffer that
cannot be read ends it with DMA_ERR and the offset (R95, R97, R104). Without such a descriptor no operation is under way. -/
def withOp (r : Req) (ops : List Nat) (buf : Option Bytes) (f : Desc → Bytes → State → State) (s : State) : State :=
  match heldCmd r s with
  | none => s
  | some c =>
    if !ops.contains c.desc.opcode then s
    else if !descInl c.desc && buf.isSome && writeFails c.fail c.desc.length then finish r 0x14 (c.fail.getD 0) s
    else f c.desc (descInput c.desc buf) (if descInl c.desc || buf.isNone then s else bwAdd 4 0 c.desc.length (pmcAdd 0x90 c.desc.length s))

/-- An operation whose table gives it INLINE and its LENGTH runs on PARAM; a descriptor of another form ends with BAD_LENGTH (DESIGN CHOICE, log
entry 79). -/
def inlineOp (r : Req) (op len : Nat) (f : Bytes → State → State) (s : State) : State :=
  withOp r [op] none (fun d b => if !descInl d || d.length != len then finish r 0x12 0 else f b) s

/-! ## Stream items -/

/-- RING_OVF once a buffer and a slot are both available after losses (R109). -/
def ovfCheck (pair : Nat) (s : State) : State :=
  let r := ring pair s
  if r.lost = 0 || r.bufs.isEmpty || freeSlots pair s = 0 || !attached pair s then s
  else
    let s := putRing pair { r with lost := 0 } s
    pmcAdd 0x92 1 (writeEntry pair 0xFFFF 0 0 0x05 (min r.lost 0xFFFFFFFF) false s.tim.mon false s)

/-- A stream item finished at `mon` goes into the first posted buffer of a pair with its record's status and DETAIL (R102, R105, R107); an INLINE
post has no buffer to write (R95). -/
def fillBuf (pair : Nat) (irq : Bool) (st dt mon : Nat) (b : Bytes) (s : State) : State :=
  match (ring pair s).bufs with
  | [] => s
  | u :: us =>
    let s := putRing pair { ring pair s with bufs := us } s
    let s := match u.addr with | some a => hostWrite pair a (b.take u.len) s | none => s
    let short := u.len < b.length
    writeEntry pair u.slot u.tag (min u.len b.length) (if short then 0x15 else st) (if short then b.length else dt) true mon
      (irq || u.irq) s

/-- Whether the write of an item into the first posted buffer of a pair fails (R104). -/
def bufFails (pair : Nat) (b : Bytes) (s : State) : Bool :=
  match (ring pair s).bufs with
  | u :: _ => u.addr.isSome && writeFails u.fail (min u.len b.length)
  | [] => false

/-- The buffer whose write failed ends with DMA_ERR and the offset (R104). -/
def failBuf (pair : Nat) (s : State) : State :=
  match (ring pair s).bufs with
  | [] => s
  | u :: us => writeEntry pair u.slot u.tag 0 0x14 (u.fail.getD 0) false s.tim.mon u.irq (putRing pair { ring pair s with bufs := us } s)

/-- Whether a stream item finds both a buffer and a slot (R109). -/
def hasRoom (pair : Nat) (s : State) : Bool :=
  ringOn pair s && !(ring pair s).disabling && attached pair s && !(ring pair s).bufs.isEmpty && decide (0 < freeSlots pair s)

/-- A stream item is lost and counted (R109). -/
def loseItem (pair : Nat) (s : State) : State :=
  pmcAdd 0x93 1 (incReg (ringReg pair 0x1C) 1 (putRing pair { ring pair s with lost := (ring pair s).lost + 1 } s))

/-- A stream item of a lost-and-counted pair (R87, R104, R109) with the status and DETAIL of its record. -/
def deliverWith (pair st dt : Nat) (b : Bytes) (s : State) : State :=
  let s := ovfCheck pair s
  if !hasRoom pair s then loseItem pair s
  else if bufFails pair b s then loseItem pair (failBuf pair s)
  else fillBuf pair false st dt s.tim.mon b s

/-- A stream item of a lost-and-counted pair whose record carries no status. -/
def deliver (pair : Nat) (b : Bytes) (s : State) : State := deliverWith pair 0 0 b s

/-- A source store learns that its item has been delivered: the recorder and the tally count their delivered records (R317,
R513, R514). -/
def itemGone (pair key : Nat) (s : State) : State :=
  if pair = 50 then { s with evr := { s.evr with delivered := max s.evr.delivered key } }
  else if 10 ≤ pair ∧ pair ≤ 13 then { s with hif := { s.hif with lastOut := tput s.hif.lastOut pair (max (tgetD s.hif.lastOut pair 0) key) } }
  else s

/-- The buffers at the front of a pair whose write of an item fails end; the item waits for the next one (R104, R109). -/
def failBufs (pair : Nat) (b : Bytes) : List Buf → State → State
  | [], s => s
  | _ :: us, s => if hasRoom pair s && bufFails pair b s then failBufs pair b us (failBuf pair s) else s

/-- The items of a deferred stream go out in order while there is room (R87, R109). -/
def drainItems (pair : Nat) : List Item → State → State
  | [], s => putRing pair { ring pair s with items := [] } s
  | i :: is, s =>
    let s := failBufs pair i.data (ring pair s).bufs s
    if hasRoom pair s then drainItems pair is (itemGone pair i.key (fillBuf pair i.irq i.stat 0 i.mon i.data s))
    else putRing pair { ring pair s with items := i :: is } s

/-- A deferred stream takes a new item with its status (R87). -/
def deferWith (pair key : Nat) (irq : Bool) (st : Nat) (b : Bytes) (s : State) : State :=
  drainItems pair ((ring pair s).items ++ [{ key := key, irq := irq, data := b, stat := st, mon := s.tim.mon }]) s

/-- A deferred stream takes a new item (R87). -/
def defer (pair key : Nat) (irq : Bool) (b : Bytes) (s : State) : State := deferWith pair key irq 0 b s

/-- Everything that waited for a buffer or a slot of a pair (R108, R109, R115). -/
def pumpRing (pair : Nat) (s : State) : State :=
  let s := ovfCheck pair (flushRing pair s)
  drainItems pair (ring pair s).items s

/-! ## Event records -/

/-- The capacity of the staging buffer and of the log (R512). -/
def stageSize : Nat := 1024
/-- The capacity of the event log (R512). -/
def logSize : Nat := 262144

/-- The 32 bytes of an event record (R508). -/
def Evt.bytes (e : Evt) : Bytes :=
  le 8 e.seq ++ le 8 e.mon ++ le 2 e.code ++ le 1 e.group ++ le 1 e.flags ++ le 2 e.suppr ++ le 2 e.boot ++ le 8 e.arg

/-- Records of the log that have not been delivered. -/
def undelivered (s : State) : Nat := (s.evr.log.filter (fun e => decide (s.evr.delivered < e.seq))).length

/-- The cause FILL when the undelivered share passes 75 % (R516). -/
def fillCheck (s : State) : State :=
  let fullNow := decide (75 * logSize < 100 * undelivered s)
  let was := s.evr.filled
  let s := { s with evr := { s.evr with filled := fullNow } }
  if fullNow && !was then setCause 0x0A010 0x0A014 2 1 s else s

/-- One staged record goes to the log and into its stream (R512, R514); an overwrite of an undelivered record is a loss (R513). -/
def logRec (s : State) (e : Evt) : State :=
  let full := logSize ≤ s.evr.log.length
  let lost := full && match s.evr.log with | o :: _ => decide (s.evr.delivered < o.seq) | [] => false
  let old := match s.evr.log with | o :: _ => o.seq | [] => 0
  let s := { s with evr := { s.evr with log := (if full then s.evr.log.drop 1 else s.evr.log) ++ [e] } }
  let s := if lost then
      let r := ring 50 s
      setCause 0x0A010 0x0A014 1 1 (incReg 0x0A030 1 (putRing 50 { r with items := r.items.filter (fun i => i.key != old) } s))
    else s
  defer 50 e.seq (e.flags / 8 % 2 == 1) e.bytes s

/-- A record that has a token enters the staging buffer with its sequence number, or is lost when it is full (R508, R512, R513). -/
def keepRec (code flags arg suppr : Nat) (s : State) : State :=
  let q := s.evr.nextSeq
  if stageSize ≤ s.evr.staged.length then
    setCause 0x0A010 0x0A014 1 1
      (incReg 0x0A030 1 { s with evr := { s.evr with nextSeq := q + 1, noRoom := s.evr.noRoom + 1 } })
  else
    let grp := if code < 0xE0 then 0xFF else (code - 0x100) / 0x20
    let e : Evt := { seq := q, mon := s.tim.mon, code := code, group := grp, flags := flags, suppr := suppr,
                     boot := getF 0x7F00C 15 0 s, arg := arg }
    let s := { s with evr := { s.evr with nextSeq := q + 1, newest := q, staged := s.evr.staged ++ [e] } }
    let s := pmcAdd 0x9E 1 s
    if getB (0x0B000 + 4 * code) 31 s then setCause 0x0A010 0x0A014 0 1 s else s

/-- The staged records go to the log in order; then staging has room for the LIMIT record of those that found none (R512, R513). -/
def evrFlush (s : State) : State :=
  let st := s.evr.staged
  let s := { s with evr := { s.evr with staged := [], header := st.length } }
  let s := fillCheck (st.foldl logRec s)
  let s := { s with evr := { s.evr with header := 0 } }
  if s.evr.noRoom = 0 then s
  else
    let n := s.evr.noRoom
    keepRec 0x1A8 0 (n <<< 32) 0 { s with evr := { s.evr with noRoom := 0 } }

/-- An event record (R511): kept with a token of its code, or suppressed and counted. 256 staged records are flushed (R512). -/
def record (code flags arg : Nat) (s : State) : State :=
  let w := getReg (0x0B000 + 4 * code) s
  let burst := max 1 (fld w 7 4)
  let spent := tgetD s.evr.spent code 0
  if (bitAt w 0 && decide (0xE0 ≤ code)) || (fld w 15 8 != 0 && decide (burst ≤ spent)) then
    pmcAdd 0x9F 1 (incReg 0x0A034 1
      { s with evr := { s.evr with pend := tmod s.evr.pend code 0 (fun n => min (n + 1) 0xFFFF) } })
  else
    let sup := tgetD s.evr.pend code 0
    let took := if fld w 15 8 = 0 then s.evr.spent else tput s.evr.spent code (spent + 1)
    let from_ := if spent = 0 && fld w 15 8 != 0 then tput s.evr.refillAt code s.tim.mon else s.evr.refillAt
    let s := { s with evr := { s.evr with pend := tdel s.evr.pend code, spent := took, refillAt := from_ } }
    let s := keepRec code flags arg sup s
    if 256 ≤ s.evr.staged.length then evrFlush s else s

/-- A block's event: its group, the kind of R510 and ARG (R509). -/
def evt (g kind arg : Nat) (s : State) : State := record (0x100 + 0x20 * g + kind) 0 arg s

/-- ARG of STATE_CHANGE (R510). -/
def argState (elem old new cause : Nat) : Nat :=
  elem % 2 ^ 32 ||| (old % 256) <<< 32 ||| (new % 256) <<< 40 ||| (cause % 256) <<< 48

/-- ARG of CONDITION_SET and CONDITION_CLEARED (R510). -/
def argCond (addr bit elem : Nat) : Nat := addr ||| bit <<< 32 ||| (elem % 2 ^ 24) <<< 40

/-- ARG of kinds whose low byte is a code and whose upper half is an element or a value (R510). -/
def argPair (low high : Nat) : Nat := low % 256 ||| (high % 2 ^ 32) <<< 32

/-- ARG of REFUSED (R510). -/
def argRefused (status detail elem : Nat) : Nat := status % 256 ||| (detail % 2 ^ 32) <<< 8 ||| (elem % 2 ^ 24) <<< 40

/-- ARG of TIME (R510): the case and a signed value of 56 bits. -/
def argTime (kase : Nat) (v : Int) : Nat := kase ||| twos 7 v <<< 8

/-- A register write ignored or refused (R510, kind 00h), recorded by the block whose region holds the address. -/
def writeIgnored (a : Nat) (v : Word) (s : State) : State :=
  evt (match blockAt a with | some b => blockGroup b | none => 0) 0 (a ||| v.toNat <<< 32) s

end Sys2Proof.Machine
end

