-- ==== Sys2Proof/Machine/Store.lean ====
section
/-!
DEFINITION. The record store and the delivery of records (R313 to R317, R409, R410).
-/
namespace Sys2Proof.Machine

/-- STATE of KST_SLOTATTR[n] (R497): 0 EMPTY, 1 READY, 2 UNUSABLE. -/
def slotState (n : Nat) (s : State) : Nat := getF (0x48100 + 4 * n) 31 30 s

/-- Whether KST is keyed (R484): the root secret is there, and slots 2, 3, 4, 5, 8 and 9 are READY. -/
def keyed (s : State) : Bool := s.kst.root.isSome && [2, 3, 4, 5, 8, 9].all (fun n => slotState n s == 1)

/-! ## Records -/

/-- The record store's slots (R315). -/
def storeSize : Nat := 335544

/-- A record's signed form (R313, R487): CHECK clear, KEY_SLOT 04h, and r and s over bytes 00h to 7Fh. -/
def signBytes (b : Bytes) (s : State) : Bytes :=
  let h := ((b.take 128).set 2 ((b.getD 2 0) &&& 0xFE)).set 0x24 4
  h ++ be 64 (Config.ecdsaSign (tgetD s.kst.material 4 0) h)

/-- A record's CHECK form (R313): CHECK set, KEY_SLOT FFh and a signature of 0. -/
def checkBytes (b : Bytes) : Bytes := ((b.take 128).set 2 ((b.getD 2 0) ||| 1)).set 0x24 0xFF ++ zeros 64

/-- The highest RECORD_SEQ of a source that the peer sent signed (R409). -/
def notedSeq (rtype source : Nat) (s : State) : Nat := tgetD s.dup.noted (rtype * 2 ^ 32 + source) 0

/-- Whether a record stays in the store (R315). -/
def recStays (r : Rec) (s : State) : Bool :=
  !r.acked || (r.check && r.rtype != 4 && decide (notedSeq r.rtype r.source s < r.recSeq))

/-- Records that may leave the store leave it. -/
def purgeStore (s : State) : State := { s with tly := { s.tly with store := s.tly.store.filter (fun r => recStays r s) } }

/-- The 200 bytes of a store slot (R315). -/
def Rec.slot (r : Rec) : Bytes := le 8 r.store ++ r.bytes

/-- The records of a stream that go out next: up to the first that is held or waits for the peer (R314, R409). -/
def outNext : List Rec → List Rec
  | [] => []
  | r :: rs => if r.queued then outNext rs else if r.held || r.waiting then [] else r :: outNext rs

/-- A stream delivers what it may (R315). -/
def pumpStream (pair : Nat) (s : State) : State :=
  let l := outNext (s.tly.store.filter (fun r => r.stream == pair))
  let mark := fun (r : Rec) => if l.any (fun x => x.store == r.store) then { r with queued := true } else r
  let s := { s with tly := { s.tly with store := s.tly.store.map mark } }
  l.foldl (fun s r => deferWith pair r.store false r.status r.slot s) s

/-- All four streams deliver what they may. -/
def pumpStreams (s : State) : State := [10, 11, 12, 13].foldl (fun s p => pumpStream p s) s

/-- Records held unsigned (R314). -/
def heldCount (s : State) : Nat := (s.tly.store.filter (fun r => r.held)).length

/-- A module that gives up the role turns its held records into CHECK copies (R314). -/
def dropHeld (s : State) : State :=
  let f := fun (r : Rec) => if r.held then { r with held := false, check := true, bytes := checkBytes r.bytes } else r
  pumpStreams { s with tly := { s.tly with store := s.tly.store.map f } }

/-- The records that wait for the peer go out while it is absent (R409). -/
def freeWaiting (s : State) : State :=
  pumpStreams { s with tly := { s.tly with store := s.tly.store.map (fun r => { r with waiting := false }) } }

end Sys2Proof.Machine
end

