-- ==== Sys2Proof/Machine/Raise.lean ====
section
/-!
DEFINITION. The shared operations that a fault may reach: messages to the peer (R392, R393), resignation (R399), the start of a
block reset (R68), the steps before a module reset (R65), the hold-up sequence (R37), and the fault collector (R499 to R505).
-/
namespace Sys2Proof.Machine

/-! ## The peer link -/

/-- STATE of DUP_STAT (R419). -/
def DupState.code : DupState → Nat
  | .init => 0 | .syncing => 1 | .standby => 2 | .control => 3 | .resigned => 4 | .single => 5

/-- Whether the module is in control: CONTROL, or SINGLE in the single configuration (R397). -/
def inControl (s : State) : Bool := s.dup.state == .control || s.dup.state == .single

/-- The module's slot as GLB_HWSTAT shows it (R43, R57). -/
def slotId (s : State) : Nat := getF 0x7F040 27 24 s

/-- HOLDUP_READY (R35, R57). -/
def holdupReady (s : State) : Bool := getB 0x7F040 3 s

/-- The signatures of the active model, 0 where there is none. -/
def modelSigs (s : State) : BitVec 64 × BitVec 64 :=
  match s.model.active with | some m => (m.structSig, m.paramSig) | none => (0, 0)

/-- The signature of the active program, 0 where there is none. -/
def progSig (s : State) : BitVec 64 := match s.cyc.prog with | some p => p.sig | none => 0

/-- The version at which the peer link runs: the highest that both firmware versions support (R537). -/
def ownPver (s : State) : Nat :=
  match s.dup.peer with | some p => min s.upd.fwRun.pverMax p.fw.pverMax | none => s.upd.fwRun.pverMax

/-- The signatures of the active model and of the program, as OUTPUT_SUMMARY carries them (R404). -/
def ownSigs (s : State) : BitVec 64 × BitVec 64 × BitVec 64 := ((modelSigs s).1, (modelSigs s).2, progSig s)

/-- The conditions of R398 for READY. -/
def ready (s : State) : Bool :=
  s.dup.state == .standby && s.dup.synced && holdupReady s && keyed s && !s.dup.testFailed &&
    (match s.dup.closedAt with | some t => decide (s.tim.mon ≤ t + 3000000000) | none => false) &&
    getF 0x34020 31 30 s != 2 &&
    (match s.dup.peerSigs with | some g => g == ownSigs s | none => false)

/-- The 32-byte header of a peer-link message (R392). -/
def peerHeader (type mseq : Nat) (s : State) : Bytes :=
  le 1 (ownPver s) ++ le 1 type ++ le 1 (slotId s) ++ le 1 s.dup.state.code ++ le 4 s.dup.claim ++
    le 8 s.rnd.number ++ le 8 mseq ++ le 4 (Config.peerLength type mseq) ++
    le 4 (b2n (ready s) + 2 * b2n s.dup.mor + 4 * b2n s.dup.isolated + 8 * b2n s.dup.degraded)

/-- TYPE of a message (R393). -/
def PeerBody.type : PeerBody → Nat
  | .heartbeat => 1 | .roundStart .. => 2 | .resign .. => 3 | .take => 4 | .forward .. => 5 | .confirm .. => 5 | .withdraw .. => 5
  | .summary .. => 6 | .selftestAsk => 7 | .selftestResult .. => 7 | .syncAsk => 8 | .sync .. => 8 | .exchange .. => 8 | .record .. => 9
  | .signed .. => 9 | .morHandover => 10 | .morTake => 10 | .provHello => 11 | .provKeys .. => 11 | .provDone .. => 11
  | .ack .. => 0

/-- The messages that R393 acknowledges: RESIGN, SELFTEST, SYNC, RECORD, SIGNED and MOR_HANDOVER. -/
def PeerBody.acked : PeerBody → Bool
  | .resign .. => true | .selftestAsk => true | .selftestResult .. => true | .syncAsk => true | .sync .. => true | .exchange .. => true
  | .record .. => true | .signed .. => true | .morHandover => true | .morTake => true
  | _ => false

/-- Whether a port's cage is powered: an SFP+ module in a cage that is off carries no frame (R54). -/
def cageOn (p : Nat) (s : State) : Bool := !s.pwr.sfpOff.contains p

/-- A message goes to the peer if the link carries it: an unkeyed module's link carries only PROVISION (R412), a cage that is off carries none, and
DUP sends none in its block reset (R68). -/
def sendPeer (b : PeerBody) (s : State) : State :=
  if (!s.dup.linkUp && b.type != 11) || s.start.blkRst.contains .dup then s
  else
    let q := s.dup.mseq + 1
    let s := { s with dup := { s.dup with mseq := q } }
    let u : Unacked := { mseq := q, type := b.type, body := b, first := s.tim.mon, last := s.tim.mon }
    let s := if b.acked then { s with dup := { s.dup with unacked := s.dup.unacked ++ [u] } } else s
    if cageOn 3 s then pmcAdd 0x7B 1 (emit (.peer q b.type (peerHeader b.type q s) b) s) else s

/-- A change of role from another cause withdraws a scheduled exchange (R381): the old program goes on. -/
def withdrawExchange (s : State) : State :=
  match s.cyc.exch with
  | none => s
  | some e =>
    let s := { s with cyc := { s.cyc with exch := none } }
    let s := if getF 0x34020 31 30 s = 3 then setF 0x34020 31 30 1 s else s
    match e.req with | some r => finish r 0x82 0 s | none => s

/-- The CLM lines take a pattern now (R44, R45). -/
def showClm (c : Clm) (s : State) : State :=
  if s.pwr.clm == c then s else { s with pwr := { s.pwr with clm := c, clmAt := s.tim.mon } }

/-- What CLM3 to CLM0 show (R44): a pattern in order, a step each 1 ms of MON (DESIGN CHOICE within the ±2 % of R44, log entry 72); lines at high impedance
read 0000b through the carrier's pull-downs. -/
def clmLines (s : State) : BitVec 4 :=
  let step := (s.tim.mon - s.pwr.clmAt) / 1000000
  match s.pwr.clm with
  | .control => match step % 4 with | 0 => 0b0011 | 1 => 0b0110 | 2 => 0b1100 | _ => 0b1001
  | .standby => if step % 2 = 0 then 0b0101 else 0b1010
  | .static0 | .hiZ => 0b0000

/-- Whether the field outputs may leave their safe state now: since the module's pattern was shown, and outside a block reset of FIO (R67). -/
def liveOut (s : State) : Bool := s.start.outputsLive && !s.start.blkRst.contains .fio

/-- STATE changes (R397, R420): the cause ROLE, the CLM pattern of R44 and a record. The module's outputs leave their safe state when it first
shows the standby or the control pattern (R67, R72); while a sequence of R37 or R65 runs the lines stay at 0000b (R44). -/
def setRole (d : DupState) (s : State) : State :=
  let old := s.dup.state
  if old = d then s
  else
    let s := withdrawExchange s
    let clm : Clm := if s.pwr.seq.isSome then .static0 else if d == .control || d == .single then .control else if d == .standby then .standby else .static0
    let s := { s with dup := { s.dup with state := d, cmpSkip := true } }
    let s := showClm clm s
    let s := setB 0x7F040 8 (clm == .control) s
    let s := if clm == .static0 then s
      else setF 0x7F01C 3 0 (max (getF 0x7F01C 3 0 s) (if clm == .control then 7 else 6)) { s with start := { s.start with outputsLive := s.start.outputsLive || holdupReady s } }
    evt 7 2 (argState 0 old.code d.code 0) (setCause 0x0E030 0x0E034 0 3 s)

/-- The meter-of-record role is taken or given up (R408, R420). -/
def setMor (m : Bool) (s : State) : State :=
  if s.dup.mor = m then s
  else
    let s := setCause 0x0E030 0x0E034 5 3 { s with dup := { s.dup with mor := m } }
    if m then s else dropHeld s

/-- The operations of R413 that wait end with SWITCHOVER when the role changes for another cause, except those that `keep` names. -/
def switchOps (keep : DupOp → Bool) (s : State) : State :=
  let go := s.dup.ops.filter (fun o => !keep o.1)
  let s := { s with dup := { s.dup with ops := s.dup.ops.filter (fun o => keep o.1) } }
  go.foldl (fun s o => finish o.2 0x82 0 s) s

/-- Whether the module runs in the duplex configuration (R389): an unstrapped one runs only in the single configuration (R43). -/
def duplex (s : State) : Bool := getB 0x0E004 0 s && slotId s != 0xF

/-- A module resigns (R399): it gives up control, shows 0000b, sends RESIGN with its cause, and gives up the meter-of-record role
except for cause 1. In the single configuration it never resigns. -/
def resign (cause : Nat) (s : State) : State :=
  if !duplex s || s.dup.state == .single then s
  else if s.dup.state == .init || s.dup.state == .resigned then s
  else
    let s := switchOps (fun o => match o with | .handover _ => cause == 1 | .resync => true | .provision => true | .morHand => false) s
    let s := sendPeer (.resign cause) s
    let s := incReg 0x0E04C 1 { s with dup := { s.dup with resignWhy := cause, resignedAt := some s.tim.mon } }
    let s := if cause = 1 then s else setMor false s
    let s := setRole (if cause = 1 || cause = 8 then .standby else .resigned) s
    if cause = 8 then { s with dup := { s.dup with isolated := true } } else s

/-- The peer is told that this module resigns, from INIT and SYNCING too, where there is no control to give up (R37, R65). -/
def resignTell (cause : Nat) (s : State) : State :=
  if duplex s && s.dup.state == .init then sendPeer (.resign cause) s else resign cause s

/-- An accepted operation of the module in control (R156, R401): alone it is applied at once; in a pair it is forwarded and waits for
the peer's confirmation; without a peer it ends with PEER_ABSENT. -/
def viaPeer (r : Req) (op : FwdOp) (len : Nat) (apply : State → State) (s : State) : State :=
  if !duplex s || s.dup.state == .single then complete r 0x00 0 len [] (apply s)
  else if s.dup.isolated || s.dup.peer.isNone then finish r 0x80 0 s
  else
    let f : Fwd := { op := op, req := some r, len := len, mon := s.tim.mon }
    sendPeer (.forward op) { s with dup := { s.dup with fwds := s.dup.fwds ++ [f] } }

/-- Whether the module works as one of a pair (R156, R392). -/
def paired (s : State) : Bool := duplex s && s.dup.state != .single

/-- Whether the module is a standby, or otherwise not in control, of a pair: it refuses the operations of R156 (NOT_IN_CONTROL). -/
def refusesPairOp (s : State) : Bool := duplex s && !inControl s

/-! ## Outputs and the sequences -/

/-- The field outputs go to their safe state and the CAN transmitters go recessive (R37, R65). -/
def outputsSafe (s : State) : State := { s with start := { s.start with outputsLive := false } }

/-- The steps of R37 that begin at once, shared with R65: CLM to 0000b, outputs safe, and the tally's marker (R306). -/
def seqStart (why : SeqWhy) (s : State) : State :=
  let s := showClm .static0 (outputsSafe { s with pwr := { s.pwr with seq := some { why := why } } })
  let s := { s with tly := { s.tly with marker := some (s.tim.rtc, s.tly.seq), markUsed := false } }
  setB 0x7F040 8 false s

/-- Whether the steps of R37 or R65 have started: BLK and MOD reactions are then recorded but not acted on (R503). -/
def seqRuns (s : State) : Bool := s.pwr.seq.isSome

/-- The steps before a module reset (R65): resign (cause 3, or 4 after a failed self-test), CLM to 0000b, outputs safe; the final
commit and the event flush follow. -/
def beginModReset (why : ModWhy) (cause : Nat) (kind : RestartKind) (s : State) : State :=
  if seqRuns s then s
  else
    let s := resignTell cause s
    let recent := s.dup.resets.filter (fun t => decide ((s.tim.mon : Int) < t + 86400000000000))
    let s := { s with dup := { s.dup with resets := recent ++ [(s.tim.mon : Int)] }, start := { s.start with request := kind } }
    seqStart (.modReset why) s

/-- The pairs whose descriptors a block holds (R87, R116). -/
def blockPairs : Block → List Nat
  | .chu => [0, 1, 2, 3] | .sep => [4, 5] | .ctr => [6, 7] | .lpe => [8, 9] | .tly => [10, 11, 12, 13]
  | .rnd => (List.range 16).map (· + 14) | .cyc => [30, 31, 32, 33] | .fio => (List.range 13).map (· + 34)
  | .upd => [47] | .kst => [48, 49] | .evr => [50] | .pmc => [51] | _ => []

/-- A buffer post as a buffer that has ended (R87, R95). -/
def postEnd (c : Cmd) : Buf := { slot := c.slot, tag := c.desc.userTag, addr := none, len := c.desc.length, irq := descIrq c.desc }

/-- The descriptors of a pair end with BLK_RESET, and posted buffers too as slots are free for them (R68, R108, R116). -/
def resetPair (s : State) (pair : Nat) : State :=
  let r := ring pair s
  let d : Done := { status := 0xF0, detail := 0, len := 0, mon := s.tim.mon, data := [] }
  let cmds := r.cmds.map (fun c => if c.done.isSome then c else { c with started := true, done := some d })
  let ended := r.ended ++ (r.bufs ++ r.posts.map postEnd).map (fun b => (b, 0xF0))
  flushRing pair (putRing pair { r with cmds := cmds, posts := [], bufs := [], ended := ended } s)

/-- A block reset of HIF disables every host-owned pair without writing an entry (R116). -/
def dropPair (s : State) (pair : Nat) : State :=
  if ownedInside pair s then s
  else
    let r := ring pair s
    putRing pair { items := r.items, lost := r.lost } s

/-- The value that a reset gives a register: the configured value of its RW and RWL fields, or the Reset column (R546). -/
def loadValue (a : Nat) (s : State) : Word :=
  match regSpec a, tget s.cfg.regs a with
  | some r, some v => let m := BitVec.ofNat 32 (r.rw ||| r.rwl); (regReset a &&& ~~~m) ||| (v &&& m)
  | _, _ => regReset a

/-- The value that a block reset gives a register: the configured value, or the value of the Reset column (R546), which is the calibration
in flash for TLY_CAL (R318). -/
def cfgReset (a : Nat) (s : State) : Word :=
  if 0x25000 ≤ a ∧ a < 0x25400 then (tget s.tly.calFlash a).getD (regReset a) else loadValue a s

/-- The registers whose reset value is Stored, Retained, Measured or Live keep their value through a block reset (R546), and so do
the registers that the block reset of BKD never touches (R68). -/
def keptByBlock (a : Nat) : Bool :=
  (0x06004 ≤ a && decide (a < 0x08000)) || a == 0x48008 || (0x48100 ≤ a && decide (a < 0x48200)) ||
    a == 0x00004 || (0x03000 ≤ a && decide (a < 0x04000)) || (0x30000 ≤ a && decide (a < 0x34000)) || a == 0x4C010 || a == 0x0E004 || a == 0x48004

/-- A register after a block reset: the lock bit and every RWL field stay, every other field takes its configured value (R9, R546). -/
def blockRegValue (a : Nat) (old : Word) (s : State) : Word :=
  let keep := (match regSpec a with | some r => BitVec.ofNat 32 r.rwl | none => 0) |||
    (if blocks.any (fun b => lockAddr b == some a) then 0x80000000 else 0)
  (old &&& keep) ||| (cfgReset a s &&& ~~~keep)

/-- The registers of a block after its block reset (R67). -/
def resetRegs (b : Block) (s : State) : State :=
  let mine := (s.regs.map (·.1) ++ s.cfg.regs.map (·.1) ++ s.tly.calFlash.map (·.1)).filter (fun a =>
    blockAt a == some b && !keptByBlock a && !(ownedInside 0 s && decide (0x01000 ≤ a) && decide (a < 0x01040)))
  mine.foldl (fun s a => setReg a (blockRegValue a (getReg a s) s) s) s

/-- RND in its block reset (R68, R353): a station not yet written in the round in progress is unreached, and the restart generation rises. -/
def rndBlockReset (s : State) : State :=
  let live := s.rnd.phase != .idle
  let stns := s.rnd.stns.map (fun e =>
    (e.1, if !live || e.2.round.written then e.2 else { e.2 with round := { e.2.round with unreached := true, wrOpen := false } }))
  { s with rnd := { s.rnd with stns := stns, rndReset := s.rnd.rndReset || live, fseqGen := s.rnd.fseqGen + 1 } }

/-- A block reset begins (R68): the block accepts no work, its descriptors end with BLK_RESET, its registers take their reset values,
and its level sources are held (R502). -/
def beginBlockReset (s : State) (b : Block) : State :=
  if s.start.blkRst.contains b then s
  else
    let s := { s with start := { s.start with blkRst := s.start.blkRst ++ [b] } }
    let s := setB 0x7F018 8 true s
    let s := resetRegs b s
    let s := if b = .rnd then rndBlockReset s else s
    let s := if b = .hif then (List.range 60).foldl dropPair s else (blockPairs b).foldl resetPair s
    evt (blockGroup b) 0xA 1 s

/-! ## The fault collector -/

/-- FCO_SRCCFG[n] (R507). -/
def srcCfg (n : Nat) (s : State) : Word := getReg (0x08400 + 4 * n) s

/-- A source whose owning block is in block reset is held at its state (R502). -/
def srcHeld (n : Nat) (s : State) : Bool := (codeBlocks (fld (srcCfg n s) 7 0)).any (fun b => s.start.blkRst.contains b)

/-- Whether any active source has PIN (R42, R501). -/
def pinActive (s : State) : Bool := s.fco.active.any (fun n => bitAt (srcCfg n s) 31)

/-- FAULT_N is high unless the module is unpowered, in start-up before its release, a source with PIN is active (R42), or the
monitor of the FCO island's clock has tripped (R505). -/
def faultN (s : State) : Bool := s.pwr.on && s.pwr.faultHigh && !s.fco.stopped && !pinActive s

/-- The BLK reaction of a source (R501 to R503): the block resets of its owning block; it waits while a block reset is in progress,
and acts as MOD for TIM, FCO and GLB. -/
def reactBlk (n : Nat) (s : State) : State :=
  let c := fld (srcCfg n s) 7 0
  if seqRuns s then s
  else if c = 0x02 ∨ c = 0x04 ∨ c = 0x3F then beginModReset (.fault n) 3 .automatic s
  else
    let bs := codeBlocks c
    if bs.all (fun b => s.start.blkRst.contains b) then s
    else if s.start.blkRst.isEmpty then bs.foldl beginBlockReset s
    else { s with fco := { s.fco with waitBlk := addOnce s.fco.waitBlk n } }

/-- A source becomes active (R499 to R502): the record, then INT and URG, PIN, BLK and MOD. -/
def activate (n count : Nat) (forced : Bool) (why : Option Nat) (s : State) : State :=
  let w := srcCfg n s
  let irq := bitAt w 27 && bitAt w 26
  let s := { s with fco := { s.fco with active := addOnce s.fco.active n, first := some (s.fco.first.getD n),
                                        integrity := s.fco.integrity || n == 192 } }
  let arg := why.getD (count ||| (getReg (0x08800 + 4 * n) s).toNat <<< 32)
  let s := record n (1 + 4 * b2n forced + 8 * b2n irq) arg s
  let s := if bitAt w 27 && !bitAt w 26 then sendMsg 0 s else s
  let s := if bitAt w 28 then emit (.nmi n) (sendMsg 0 s) else s
  let s := if bitAt w 29 then reactBlk n s else s
  if bitAt w 30 then beginModReset (.fault n) 3 .automatic s else s

/-- Whether the window of a source is still open (R499): 2^WINDOW × 10 ms of MON from its first occurrence. -/
def windowOpen (n : Nat) (s : State) : Bool :=
  match tget s.fco.opened n with
  | some t => decide (s.tim.mon < t + 2 ^ fld (srcCfg n s) 15 12 * 10000000)
  | none => false

/-- An occurrence of a source (R499, R500): the counters, the window, and activation at THRESH. The activation's record carries
`why` in ARG where it is given (R505). -/
def occur (n : Nat) (forced : Bool) (why : Option Nat) (s : State) : State :=
  if !(srcRow n).known || decide (224 ≤ n) then s
  else
    let s := incReg (0x08800 + 4 * n) 1 s
    if s.fco.active.contains n then s
    else
      let th := max 1 (fld (srcCfg n s) 23 16)
      let c := (if windowOpen n s then tgetD s.fco.window n 0 else 0) + 1
      let opened := if c = 1 then tput s.fco.opened n s.tim.mon else s.fco.opened
      if th ≤ c then
        let s := { s with fco := { s.fco with window := tdel s.fco.window n, opened := tdel s.fco.opened n } }
        if (srcRow n).level && !forced && !s.fco.cond.contains n then s else activate n c forced why s
      else { s with fco := { s.fco with window := tput s.fco.window n c, opened := opened } }

/-- An event source is raised by its block (R498, R499). -/
def raise (n : Nat) (s : State) : State := occur n false none s

/-- The condition of a level source asserts (R499); a source of a block in block reset is held at its state (R502). -/
def assertSrc (n : Nat) (s : State) : State :=
  if s.fco.cond.contains n then s
  else
    let s := { s with fco := { s.fco with cond := addOnce s.fco.cond n } }
    if srcHeld n s then s else occur n false none s

/-- A source becomes inactive (R500): PIN releases, and a level source writes a deactivation record. -/
def deactivate (n : Nat) (s : State) : State :=
  if !s.fco.active.contains n then s
  else
    let left := without s.fco.active n
    let s := { s with fco := { s.fco with active := left, forced := tdel s.fco.forced n,
                                          first := if left.isEmpty then none else s.fco.first } }
    if (srcRow n).level then record n 3 (tgetD s.fco.window n 0 ||| (getReg (0x08800 + 4 * n) s).toNat <<< 32) s else s

/-- The condition of a level source ends (R500). -/
def endCond (n : Nat) (s : State) : State :=
  let s := { s with fco := { s.fco with cond := without s.fco.cond n } }
  if srcHeld n s || (tget s.fco.forced n).isSome then s else deactivate n s

/-- The condition of a level source holds or not (R498). -/
def setCond (n : Nat) (holds : Bool) (s : State) : State := if holds then assertSrc n s else endCond n s

/-- The hold-up sequence starts (R37, R38, R65): source 0, resignation with cause 2 whatever its reactions (R503), CLM to 0000b and
outputs safe; a sequence before a module reset is taken over from the step it has reached. -/
def beginHoldup (why : HoldupWhy) (s : State) : State :=
  match s.pwr.seq with
  | some { why := .holdup _, .. } => s
  | some q => assertSrc 0 { s with pwr := { s.pwr with seq := some { q with why := .holdup why } } }
  | none =>
    let s := seqStart (.holdup why) s
    resignTell 2 (assertSrc 0 s)

end Sys2Proof.Machine
end

