-- ==== Sys2Proof/Machine/Keys.lean ====
section
/-!
DEFINITION. The key store: slots, derived keys, tamper, zeroisation, provisioning and the operations of ring pairs 48 and 49 (R481 to
R497).
-/
namespace Sys2Proof.Machine

/-! ## Slots -/

/-- KST_SLOTATTR[n] (R497). -/
def slotAttr (n : Nat) (s : State) : Word := getReg (0x48100 + 4 * n) s

/-- STATE of a slot changes. -/
def setSlotState (n v : Nat) (s : State) : State := setF (0x48100 + 4 * n) 31 30 v s

/-- Attributes of READY slot n without GEN: ORIGIN, TYPE and ENGINE of R481; a user slot takes TYPE and ENGINE from its bundle. -/
def readyAttr (n : Nat) (given : Word) : Word :=
  let mk := fun origin type engine => BitVec.ofNat 32 (1 <<< 30 ||| origin <<< 28 ||| type <<< 24 ||| engine <<< 8)
  if n = 2 then mk 2 4 0x10 else if n = 3 then mk 2 2 0x04 else if n = 4 then mk 2 3 0x08
  else if n = 5 ∨ n = 6 ∨ n = 7 then mk 2 2 0x04 else if n = 8 then mk 1 1 0x40 else if n = 9 then mk 1 2 0x02
  else mk 2 (fld given 27 24) (fld given 14 8)

/-- Slots that a bundle may fill: 2 to 7, and the user slots where `user` allows them (R491, R492). -/
def fillable (user : Bool) (n : Nat) : Bool := (2 ≤ n && n ≤ 7) || (user && (16 ≤ n && n ≤ 63))

/-- The key material of a slot. -/
def slotKey (n : Nat) (s : State) : Nat := tgetD s.kst.material n 0

/-- A label in ASCII, without terminator (R331). -/
def ascii (t : String) : Bytes := t.toList.map (fun c => BitVec.ofNat 8 c.toNat)

/-- PLYNU-STATION (R331). -/
def labelStation : Bytes := ascii "PLYNU-STATION"
/-- PLYNU-ENROL (R331). -/
def labelEnrol : Bytes := ascii "PLYNU-ENROL"
/-- PLYNU-SESSION (R331). -/
def labelSession : Bytes := ascii "PLYNU-SESSION"
/-- DZ-WRAP (R482). -/
def labelWrap : Bytes := ascii "DZ-WRAP"
/-- DZ-INTEGRITY (R482). -/
def labelIntegrity : Bytes := ascii "DZ-INTEGRITY"
/-- MACSEC-SAK (R485). -/
def labelSak : Bytes := ascii "MACSEC-SAK"
/-- MACSEC-KNA (R485). -/
def labelKna : Bytes := ascii "MACSEC-KNA"

/-- The KDF of R331, in counter mode over HMAC-SHA-256, for a key of at most 256 bits: the counter 1, the label, 00h, the context and the length.
PRESUMED (NIST SP 800-108, log entry 74): the length is encoded in 32 bits, and the key is the leading bits of the output. -/
def kdf (key : Nat) (label ctx : Bytes) (bits : Nat) : Nat :=
  Config.hmac key (be 4 1 ++ label ++ zeros 1 ++ ctx ++ be 4 bits) / 2 ^ (256 - bits)

/-- Bytes combined with the keystream: encryption and decryption alike. -/
def gcmText (key nonce : Nat) (b : Bytes) : Bytes := b.mapIdx (fun i x => x ^^^ Config.gcmStream key nonce i)

/-- A wrapped slot as flash holds it (R482): under K_wrap, with the slot number and the write count as the nonce and KST_SLOTATTR as additional
authenticated data. DESIGN CHOICE (log entry 84): the slot number is the 4 leading bytes of the nonce, and the material 32 bytes. -/
def wrapSlot (n count : Nat) (s : State) : Bytes :=
  let k := slotKey 8 s
  let nonce := n * 2 ^ 64 + count
  let attr := le 4 (slotAttr n s).toNat
  let m := be 32 (slotKey n s)
  gcmText k nonce m ++ be 16 (Config.gcmTag k nonce attr m).toNat

/-- The check value of a slot (R483): the first 16 bytes of HMAC-SHA-256 under K_int over its attributes and material. -/
def slotCheck (n : Nat) (s : State) : Nat := Config.hmac (slotKey 9 s) (le 4 (slotAttr n s).toNat ++ be 32 (slotKey n s)) / 2 ^ 128

/-- The 16-byte serial number of the device (R482). -/
def serialBytes (s : State) : Bytes := s.cfg.serial.flatMap (fun w => le 4 w.toNat)

/-- K_wrap and K_int are derived from the root secret (R482). -/
def deriveWorking (s : State) : State :=
  match s.kst.root with
  | none => s
  | some r =>
    let m := tput (tput s.kst.material 8 (kdf r labelWrap (serialBytes s) 256)) 9 (kdf r labelIntegrity (serialBytes s) 256)
    let s := { s with kst := { s.kst with material := m, rederived := [] } }
    setReg 0x48124 (readyAttr 9 0) (setReg 0x48120 (readyAttr 8 0) s)

/-- The working slots and the session table are cleared (R67, R481). -/
def clearWorking (s : State) : State :=
  let m := tdel (tdel s.kst.material 8) 9
  let s := { s with kst := { s.kst with material := m, rederived := [], sessions := [], saks := [] } }
  setSlotState 9 0 (setSlotState 8 0 s)

/-- Whether any slot is UNUSABLE (R483). -/
def anyUnusable (s : State) : Bool := (List.range 64).any (fun n => slotState n s == 2)

/-- What follows a change of the slots (R24, R483): the key-slot source, and resignation with cause 6 where the module has just become
unkeyed in a pair. -/
def afterSlots (was : Bool) (s : State) : State :=
  let s := setCond 76 (anyUnusable s) s
  if was && !keyed s then resign 6 s else s

/-- K_st of a station (R331). -/
def keyStation (st : Nat) (s : State) : Nat := kdf (slotKey 3 s) labelStation (be 2 st) 256

/-- K_h of a station (R331). -/
def keyEnrol (st : Nat) (s : State) : Nat := kdf (keyStation st s) labelEnrol (be 2 st) 256

/-- K_s of a session (R331). -/
def keySession (st epoch ns nm : Nat) (s : State) : Nat :=
  kdf (keyStation st s) labelSession (be 2 st ++ be 4 epoch ++ be 16 ns ++ be 16 nm) 256

/-- KST_STAT (R495). -/
def kstStat (s : State) : Word :=
  let last := match s.kst.tamperLog.getLast? with | some e => e.source | none => 0
  BitVec.ofNat 32 (b2n (!keyed s) <<< 31 ||| b2n s.kst.root.isSome <<< 30 ||| b2n s.kst.prov.isSome <<< 29 |||
    b2n s.kst.fpr.isSome <<< 28 ||| last <<< 16 ||| s.kst.tamperLog.length)

/-- KST_UNUSABLE_LO and KST_UNUSABLE_HI (R494). -/
def kstUnusable (s : State) : Nat :=
  (List.range 64).foldl (fun m n => if slotState n s = 2 then m ||| 1 <<< n else m) 0

/-- SLOT_PATROL (R483): each slot of the list fails its check. Slot 8 or 9 is derived again once; a second failure, or any other slot,
is UNUSABLE. -/
def patrolFail (s : State) (n : Nat) : State :=
  if 64 ≤ n ∨ slotState n s = 0 ∨ slotState n s = 2 then s
  else
    let s := evt 16 0xB (argPair 0 n) s
    if (n = 8 ∨ n = 9) ∧ !s.kst.rederived.contains n then { s with kst := { s.kst with rederived := addOnce s.kst.rederived n } }
    else setSlotState n 2 s

def slotPatrol (bad : List Nat) (s : State) : State := afterSlots (keyed s) (bad.foldl patrolFail s)

def execSlotPatrol (bad : List Nat) (s : State) := run (slotPatrol bad) s

/-! ## Tamper and zeroisation -/

/-- The started descriptors of pairs 48 and 49, other than `but`, end with KEY_UNKEYED (R489). -/
def cancelKeyJobs (but : Option Req) (s : State) : State :=
  let reqs : List Req := [48, 49].flatMap (fun p =>
    ((ring p s).cmds.filter (fun c => c.started && c.done.isNone)).map (fun c => { pair := p, slot := c.slot }))
  (reqs.filter (fun r => some r != but)).foldl (fun s r => finish r 0x98 0 s) s

/-- Zeroisation (R489): the root secret and the working slots, the session table, the tamper log; jobs and a transfer in progress end.
The source is as KST_STAT.LAST_TAMPER codes it. -/
def zeroise (source : Nat) (but : Option Req) (s : State) : State :=
  let was := keyed s
  let log := s.kst.tamperLog ++ [{ rtc := s.tim.rtc, source := source }]
  let log := if 16 < log.length then log.drop 1 else log
  let s := clearWorking { s with kst := { s.kst with root := none, tamperLog := log, tamperPend := true, prov := none, nu := none } }
  if s.pwr.on then afterSlots was (cancelKeyJobs but s) else s

/-- LAST_TAMPER of a source (R495). -/
def tamperCode : TamperSource → Nat
  | .loop => 1 | .cover => 2 | .environment => 3

/-- Whether a tamper source is enabled and watched (R488, R496): the loop with main power, once PRESENT has been 1 for 100 ms. -/
def tamperArmed (t : TamperSource) (s : State) : Bool :=
  match t with
  | .loop => getB 0x48008 0 s && s.pwr.on && getB 0x7F040 2 s && decide (s.pwr.presentAt + 100000000 ≤ s.tim.mon)
  | .cover => getB 0x48008 1 s && s.cfg.variantT
  | .environment => getB 0x48008 2 s

/-- TAMPER_TRIP (R488, R489). -/
def tamperTrip (t : TamperSource) (s : State) : State := if tamperArmed t s then zeroise (tamperCode t) none s else s

/-- The backup domain watches with the rails off too (R488), so this command acts then. -/
def execTamperTrip (t : TamperSource) (s : State) : Host.Outcome State Fault Refusal := .next (tamperTrip t s)

/-- KEY_ZEROISE (R490, R493). -/
def keyZeroise (r : Req) (param : Nat) (s : State) : State :=
  if param % 65536 ≠ 0x5A3C then finish r 0x16 0 s
  else if param / 65536 ≠ 0 then finish r 0x16 2 s
  else complete r 0x00 0 4 [] (zeroise 4 (some r) s)

def execKeyZeroise (r : Req) (s : State) := run (inlineOp r 0x0C13 4 (fun b => keyZeroise r (leAt b 0 4))) s

/-- KST_TAMPCFG_WRITE (R496): bits set by writing 1, cleared only while UNKEYED; COVER is fixed at 0 on DZ7416-A. -/
def tampcfgWrite (v : Word) (s : State) : State :=
  let old := getReg 0x48008 s
  let can := if s.cfg.variantT then (7 : Word) else 5
  let new := if keyed s then old ||| v else v
  setReg 0x48008 (new &&& can) s

/-! ## Operations -/

/-- A job of the key store ends with OK and its output. -/
def keyDone (r : Req) (len : Nat) (b : Bytes) (s : State) : State := complete r 0x00 0 len b (pmcAdd 0x9C 1 s)

/-- KEY_DEVCERT (R493). -/
def keyDevcert (r : Req) (len : Nat) (s : State) : State :=
  if len < 512 then finish r 0x12 0 s
  else output r len s.kst.cert (pmcAdd 0x9C 1 s)

def execKeyDevcert (r : Req) (s : State) := run (withOp r [0x0C10] none (fun d _ => keyDevcert r d.length)) s

/-- KEY_PUBLIC (R487, R493): X and Y of a slot that holds a P-256 key. -/
def keyPublic (r : Req) (slot len : Nat) (s : State) : State :=
  if len < 64 then finish r 0x12 0 s
  else if 64 ≤ slot ∨ (getF (0x48100 + 4 * slot) 27 24 s ≠ 3 ∧ getF (0x48100 + 4 * slot) 27 24 s ≠ 4) then finish r 0x16 0 s
  else if 2 ≤ slot ∧ !keyed s then finish r 0x98 0 s
  else if slotState slot s = 2 then finish r 0x99 slot s
  else keyDone r 64 (be 32 (Config.pubX (slotKey slot s)) ++ be 32 (Config.pubY (slotKey slot s))) s

def execKeyPublic (r : Req) (s : State) := run (withOp r [0x0C11] none (fun d _ => keyPublic r (leAt d.param 0 1) d.length)) s

/-- The checks of KEY_GCM and KEY_HMAC on a user slot (R484, R483, R493): the status that decides and its DETAIL. -/
def userSlotCheck (slot engineBit : Nat) (s : State) : Option (Nat × Nat) :=
  if slot < 16 ∨ 64 ≤ slot then some (0x16, 0)
  else if !keyed s then some (0x98, 0)
  else if slotState slot s = 2 then some (0x99, slot)
  else if slotState slot s ≠ 1 ∨ !bitAt (slotAttr slot s) (8 + engineBit) then some (0x16, 0)
  else none

/-- KEY_GCM (R493): the buffer holds the additional data and the text, and on decryption the 16-byte tag; encryption writes the
ciphertext and its tag, and a wrong tag writes nothing. -/
def keyGcm (r : Req) (slot mode nonce aadLen out : Nat) (b : Bytes) (s : State) : State :=
  match userSlotCheck slot 0 s with
  | some (st, d) => finish r st d s
  | none =>
    let key := slotKey slot s
    let aad := b.take aadLen
    let body := b.drop aadLen
    if 1 < mode then finish r 0x16 1 s
    else if b.length < aadLen + (if mode = 1 then 16 else 0) then finish r 0x16 0x10 s
    else if mode = 0 then
      let c := gcmText key nonce body ++ be 16 (Config.gcmTag key nonce aad body).toNat
      keyDone r c.length [] (hostWrite r.pair out c s)
    else
      let text := gcmText key nonce (body.take (body.length - 16))
      if beAt body (body.length - 16) 16 ≠ (Config.gcmTag key nonce aad text).toNat then finish r 0x9A 0 s
      else keyDone r text.length [] (hostWrite r.pair out text s)

/-- KEY_GCM (R493): the slot, the direction, the nonce, the length of the additional data and the output address stand in PARAM. -/
def execKeyGcm (r : Req) (buf : Bytes) (s : State) :=
  run (withOp r [0x0C14] (some buf) (fun d =>
    keyGcm r (leAt d.param 0 1) (leAt d.param 1 1) (beAt d.param 4 12) (leAt d.param 0x10 4) (leAt d.param 0x18 8))) s

/-- KEY_HMAC (R493). -/
def keyHmac (r : Req) (slot out : Nat) (b : Bytes) (s : State) : State :=
  match userSlotCheck slot 1 s with
  | some (st, d) => finish r st d s
  | none => keyDone r 32 [] (hostWrite r.pair out (be 32 (Config.hmac (slotKey slot s) b)) s)

def execKeyHmac (r : Req) (buf : Bytes) (s : State) := run (withOp r [0x0C15] (some buf) (fun d => keyHmac r (leAt d.param 0 1) (leAt d.param 0x18 8))) s

/-! ## Provisioning -/

/-- A slot of a bundle is stored: READY, with the next GEN (R491, R497), and it goes to flash wrapped, under the next write count (R482). -/
def storeSlot (s : State) (e : Nat × Word × Nat) : State :=
  let gen := (getF (0x48100 + 4 * e.1) 7 0 s + 1) % 256
  let count := tgetD s.kst.wraps e.1 0 + 1
  let s := { s with kst := { s.kst with material := tput s.kst.material e.1 e.2.2, wraps := tput s.kst.wraps e.1 count } }
  let s := setReg (0x48100 + 4 * e.1) (putFld (readyAttr e.1 e.2.1) 7 0 gen) s
  emit (.stored (0x100 + e.1) (wrapSlot e.1 count s ++ be 16 (slotCheck e.1 s))) s

/-- Steps 5 and 6 of R491: a root secret from the DRBG if there is none, under which a stored slot that the bundle does not carry cannot
be unwrapped and is UNUSABLE; slots 8 and 9; the received slots. -/
def installKeys (user : Bool) (l : List (Nat × Word × Nat)) (s : State) : State :=
  let was := keyed s
  let s := if s.kst.root.isSome then s
    else
      let d := draw s
      let s := { d.2 with kst := { d.2.kst with root := some (Config.random d.1 % 2 ^ 256) } }
      ((List.range 64).filter (fun n => fillable true n && slotState n s == 1)).foldl (fun s n => setSlotState n 2 s) s
  let s := deriveWorking s
  afterSlots was ((l.filter (fun e => fillable user e.1)).foldl storeSlot s)

/-- A transfer that fails ends, with a record, and leaves the module as it was (R491). -/
def provFail (check : Nat) (s : State) : State := evt 16 0xB (argPair check 0) { s with kst := { s.kst with prov := none, nu := none } }

/-- PROVISION_HELLO (R491): every 1 s an unkeyed module that has a peer on ETH3 sends HELLO with a fresh nonce NU. -/
def provisionHello (s : State) : State :=
  let due := match s.kst.helloAt with | some t => decide (t + 1000000000 ≤ s.tim.mon) | none => true
  if keyed s || !duplex s || !getB 0x384C4 0 s || !due then s
  else
    let d := draw s
    sendPeer .provHello { d.2 with kst := { d.2.kst with nu := some (Config.random d.1 % 2 ^ 128), helloAt := some s.tim.mon } }

def execProvisionHello (s : State) := run provisionHello s

/-- Slots 2 to 7 as PROVISION KEYS carries them (R491). -/
def ownBundle (s : State) : KeyBundle :=
  { slots := ((List.range 6).map (fun i => i + 2)).filterMap (fun n =>
      if slotState n s = 1 then some (n, slotAttr n s, slotKey n s) else none)
    certOk := true, sigOk := true, senderSlot := slotId s, fingerprint := s.kst.fpr.getD 0 }

end Sys2Proof.Machine
end

