-- ==== Sys2Proof/Machine/Time.lean ====
section
/-!
DEFINITION. The time domains, the PTP servo, capture and launch, the real-time clock and the backup domain (R450 to R480).
-/
namespace Sys2Proof.Machine

/-! ## The domains -/

/-- One second in ns. -/
def sec : Nat := 1000000000

/-- The UTC offset in s (R457): the grandmaster's while NET is SYNC and it is valid, otherwise that of the leap-second table. -/
def utcOfs (s : State) : Int :=
  match s.tim.quality, s.tim.gmUtc with
  | .sync, some o => o
  | _, _ => s.cfg.leapOfs

/-- LEG in ns: NET minus the UTC offset (R450). -/
def legNs (s : State) : Nat := ((s.tim.net : Int) - utcOfs s * (sec : Int)).toNat

/-- LEG in whole seconds. -/
def legSec (s : State) : Nat := legNs s / sec

/-- BUS in ns (R450): its own count, or NET where BUS_SRC is 1. -/
def busNs (s : State) : Nat := (if getB 0x04004 24 s then s.tim.net else s.tim.bus) % 2 ^ 64

/-- A count of ns with a fraction, after one tick (R451). -/
def advance (ns f incr : Nat) : Nat × Nat := (ns + (f + incr) / 2 ^ 32, (f + incr) % 2 ^ 32)

/-- One 2 ns tick (R451): MON, NET, BUS and the RTC advance; the RTC stands while a setting halts it (R466). -/
def tick (s : State) : State :=
  let r := if getB 0x06004 30 s && (!s.pwr.on || decide (s.tim.haltUntil ≤ s.tim.mon)) then s.tim.rtc + 2 else s.tim.rtc
  if !s.pwr.on then { s with tim := { s.tim with rtc := r } }
  else
    let m := advance s.tim.mon s.tim.monF s.tim.incrMon
    let n := advance s.tim.net s.tim.netF s.tim.incrNet
    let b := advance s.tim.bus s.tim.busF s.tim.incrBus
    { s with tim := { s.tim with mon := m.1 % 2 ^ 64, monF := m.2, net := n.1, netF := n.2, bus := b.1 % 2 ^ 64, busF := b.2, rtc := r } }

/-- The clockClass that the master ports announce (R452, R478). -/
def annClass (s : State) : Nat :=
  if s.tim.slave ≠ 0 then s.tim.gmClass
  else
    match s.tim.quality with
    | .free | .localQ => 248
    | .sync => s.tim.gmClass
    | .holdover => if s.tim.legValid then 7 else 187

/-- The clockAccuracy that the master ports announce: that of the grandmaster while a port is SLAVE, and otherwise FEh. -/
def annAccuracy (s : State) : Nat := if s.tim.slave ≠ 0 then s.tim.gmAcc else 0xFE

/-- NET_Q of TIM_STAT (R478). -/
def NetQ.code : NetQ → Nat
  | .free => 0 | .localQ => 1 | .sync => 2 | .holdover => 3

/-- TIM_STAT (R478). -/
def timStat (s : State) : Word :=
  BitVec.ofNat 32 (s.tim.quality.code <<< 30 ||| b2n s.tim.legValid <<< 29 ||| b2n s.tim.stepPend <<< 28 |||
    b2n (s.tim.mon < s.tim.leapUntil) <<< 27 ||| b2n (s.tim.quality == .sync && s.tim.gmUtc.isSome) <<< 26 |||
    (utcOfs s % 256).toNat <<< 16 ||| s.tim.slave <<< 8 ||| annClass s)

/-! ## Quality and LEG_VALID -/

/-- A cause of vector 2 (R475). -/
def timCause (bit : Nat) (s : State) : State := setCause 0x04014 0x04018 bit 2 s

/-- LEG_VALID as R458 states it at this moment. -/
def legNow (s : State) : Bool :=
  let h := getF 0x04008 31 16 s * 3600 * sec
  match s.tim.quality with
  | .sync => true
  | .holdover => decide (s.tim.mon < s.tim.lastSync + h)
  | .localQ => decide (s.tim.rtc < s.tim.stamp + h)
  | .free => false

/-- LEG_VALID takes a value; a change raises the LEG cause (R458) and ends the intervals under way at the next commit (R312). Dispatch keeps
the last instant at which LEG was valid (R229), and the day no longer counts (R78). -/
def setLeg (v : Bool) (s : State) : State :=
  if s.tim.legValid = v then s
  else
    let s := if v then s else { s with disp := { s.disp with legMon := s.tim.mon, legAt := legNs s, dayLegOk := false } }
    timCause 7 { s with tim := { s.tim with legValid := v, legEver := s.tim.legEver || v } }

/-- NET takes a quality (R453): the cause QUALITY, a record, and LEG_VALID anew; in SYNC a comparison of the RTC falls due (R467). -/
def setQuality (q : NetQ) (s : State) : State :=
  let old := s.tim.quality
  if old = q then setLeg (legNow s) s
  else
    let s := { s with tim := { s.tim with quality := q, lastSync := if old == .sync then s.tim.mon else s.tim.lastSync,
                                          cmpAt := if q == .sync then none else s.tim.cmpAt } }
    let s := evt 2 2 (argState 0 old.code q.code 0) (timCause 0 s)
    setLeg (legNow s) s

/-- The events of the HOLDOVER row act only in SYNC (R453). -/
def toHoldover (s : State) : State :=
  let s := { s with tim := { s.tim with inWin := 0, outWin := 0 } }
  if s.tim.quality = .sync then setQuality .holdover s else s

/-! ## Adjustments -/

/-- START of a launch unit in ns of its domain, and its period (R463). -/
def launchStart (k : Nat) (s : State) : Nat := (getReg (0x04304 + 0x10 * k) s).toNat * sec
/-- The period of a launch unit in ns. -/
def launchPeriod (k : Nat) (s : State) : Nat := (getReg (0x04308 + 0x10 * k) s).toNat * 1000000

/-- The instants of START + n × PERIOD that lie after `a` and before `b` (R461, R463). -/
def instantsBetween (start period a b : Nat) : Nat :=
  if period = 0 ∨ b ≤ start then 0
  else
    let below := fun x => if x < start then 0 else (x - start) / period + 1
    below (b - 1) - below a

/-- Whether a launch unit may drive its output (R463): enabled, an output channel, not bound to test pulses, outputs live. -/
def launchLive (k : Nat) (s : State) : Bool :=
  let ch := getF (0x04300 + 0x10 * k) 4 0 s
  getB (0x04300 + 0x10 * k) 31 s && getB (0x38100 + 4 * ch) 15 s && !getB (0x38100 + 4 * ch) 10 s && decide (launchPeriod k s ≠ 0) &&
    liveOut s

/-- A launch pulse leaves (R463). -/
def pulse (k : Nat) (late : Bool) (s : State) : State :=
  emit (.launch k (getF (0x04300 + 0x10 * k) 4 0 s) (getReg (0x0430C + 0x10 * k) s).toNat late) s

/-- The launch units of NET after a step from old to new (R461): passed instants give one LATE pulse, and the others are skipped. -/
def launchAdjust (old new : Nat) (s : State) (k : Nat) : State :=
  if !launchLive k s || !getB (0x04300 + 0x10 * k) 30 s then s
  else
    let last := max old (tgetD s.tim.launched k 0)
    let n := instantsBetween (launchStart k s) (launchPeriod k s) last new
    if n = 0 then s
    else
      let s := { s with tim := { s.tim with launched := tput s.tim.launched k (new - 1) } }
      let s := evt 2 7 (argTime 1 ((new : Int) - last)) (pulse k true s)
      if n = 1 then s else evt 2 7 (argTime 2 ((n - 1 : Nat) : Int)) s

/-- The running cycle of a channel's matrix ends, and cycle 0 starts at an instant of BUS (R461). -/
def restartMatrix (c t : Nat) (s : State) : State :=
  { s with fio := { s.fio with cans := tput s.fio.cans c { tgetD s.fio.cans c {} with cells := [], busFrom := t } } }

/-- The cells of a channel's matrix after an adjustment of BUS (R461): where it passes cells forward, the running cycle ends, cycle 0 starts at the next
multiple and MISSED counts the cells; after a backward one, at the first multiple after both the new time and the last cycle start. -/
def matrixAdjust (old new : Nat) (s : State) (c : Nat) : State :=
  match (tgetD s.fio.cans c {}).matrix with
  | none => s
  | some m =>
    let cyc := max 1 (m.rows * m.baseUs * 1000)
    let passed := ((m.cells.zipIdx).map (fun e => if e.1.isNone then 0
      else instantsBetween ((e.2 / m.cols * m.baseUs + m.start.getD (e.2 % m.cols) 0) * 1000) cyc old new)).sum
    if new < old then restartMatrix c ((max new (old / cyc * cyc) / cyc + 1) * cyc) s
    else if passed = 0 then s
    else incReg (0x38808 + 0x40 * c) passed (restartMatrix c ((new + cyc - 1) / cyc * cyc) s)

/-- A step of NET by some ns (R454, R459, R460): LEG follows, and BUS where BUS_SRC is 1; MON never moves. -/
def stepNet (ofs : Int) (s : State) : State :=
  let old := s.tim.net
  let new := ((old : Int) + ofs).toNat
  let s := { s with tim := { s.tim with net := new, inWin := 0 } }
  let s := evt 2 7 (argTime 3 ofs) (timCause 3 s)
  let s := if getB 0x04004 24 s then (List.range 4).foldl (matrixAdjust (old % 2 ^ 64) (new % 2 ^ 64)) s else s
  if old < new then (List.range 4).foldl (launchAdjust old new) s else s

/-- The record of an alarm or a wake (R468, R510): the lateness in ns of one that is LATE, otherwise the cause bit that it sets (DESIGN CHOICE, log
entry 83). -/
def instantEvt (bit : Nat) (late : Option Nat) (s : State) : State :=
  match late with
  | some d => evt 3 7 (argTime 1 d) s
  | none => evt 3 3 (argCond 0x04014 bit 0) s

/-- The alarm fires (R468), late by some ns or on time: it disarms, raises its cause and records an event. -/
def fireAlarm (late : Option Nat) (s : State) : State :=
  instantEvt 4 late (timCause 4 (setB 0x06004 21 late.isSome { s with tim := { s.tim with alarm := 0 } }))

/-- A wake occurs (R468). -/
def fireWake (late : Option Nat) (instant : Nat) (s : State) : State :=
  instantEvt 5 late (timCause 5 (setB 0x06004 20 late.isSome { s with tim := { s.tim with lastWake := instant } }))

/-- The RTC jumps from one time to another (R460, R461): an alarm or wakes that it passes occur once, LATE. -/
def rtcJump (old new : Nat) (s : State) : State :=
  let s := if s.tim.alarm ≠ 0 ∧ old < s.tim.alarm * sec ∧ s.tim.alarm * sec < new then fireAlarm (some (new - s.tim.alarm * sec)) s else s
  let p := s.tim.period
  if p = 0 then s
  else
    let n := instantsBetween 0 (p * sec) (max old (s.tim.lastWake * sec)) new
    if n = 0 then s
    else
      let at_ := (new - 1) / (p * sec) * p
      let s := fireWake (some (new - at_ * sec)) at_ s
      if n = 1 then s
      else
        let s := setF 0x06004 15 0 (min (getF 0x06004 15 0 s + (n - 1)) 0xFFFF) s
        evt 3 7 (argTime 2 ((n - 1 : Nat) : Int)) s

/-- A setting of the RTC (R466): the counter halts for at most 61 µs, a free value, and holds the time of its restart, taken exactly from NET or applied
as given; valid from now, with the correction stamp, and an adjustment. -/
def setRtc (fromNet : Bool) (t : Nat) (s : State) : State :=
  let d := draw s
  let h := min 61000 (Config.rtcHalt d.1)
  let s := d.2
  let old := s.tim.rtc
  let ns := if fromNet then t + h else t
  let s := { s with tim := { s.tim with rtc := ns, stamp := ns, haltUntil := s.tim.mon + h } }
  let s := setB 0x06004 30 true s
  let s := evt 3 7 (argTime 7 ((ns : Int) - old)) s
  setLeg (legNow s) (rtcJump old ns s)

/-! ## PTP -/

/-- The step limit of R454 for the present quality in ns; none in FREE. -/
def stepLimit (s : State) : Option Nat :=
  match s.tim.quality with
  | .free => none
  | .localQ => some (getF 0x04004 23 16 s * sec)
  | .sync | .holdover => some (getF 0x04004 15 0 s * 1000)

/-- Whether an offset lies above the limit (R454). -/
def overLimit (ofs : Int) (s : State) : Bool := match stepLimit s with | none => false | some l => decide (l < ofs.natAbs)

/-- Slewing (R454): the increment of NET moves within ±500 ppm; the spec gives no value, so the increment is a free value within
that bound; TIM_INCR shows it (R451). -/
def slew (s : State) : State :=
  let d := draw s
  let inc := clampN (8589934592 - 4294967) (8589934592 + 4294967) (Config.slewIncrement d.1)
  setReg 0x0410C (lo32 inc) (setReg 0x04108 (hi32 inc) { d.2 with tim := { d.2.tim with incrNet := inc } })

/-- The count of measurements inside ±SYNC_NS, or outside ±16 × SYNC_NS (R453). -/
def countOffset (ofs : Int) (s : State) : State :=
  let w := getF 0x04008 15 0 s
  let i := if ofs.natAbs ≤ w then s.tim.inWin + 1 else 0
  let o := if 16 * w < ofs.natAbs then s.tim.outWin + 1 else 0
  let s := { s with tim := { s.tim with inWin := i, outWin := o } }
  if 8 ≤ i ∧ s.tim.quality ≠ .sync then setQuality .sync s else if 8 ≤ o then toHoldover s else s

/-- A refused step (R455). -/
def refuseStep (ofs : Int) (s : State) : State :=
  let s := toHoldover s
  let s := setPair 0x04020 (twos 8 ofs) { s with tim := { s.tim with stepPend := true, inLimit := 0 } }
  evt 2 7 (argTime 4 ofs) (timCause 1 s)

/-- PTP_OFFSET_MEASUREMENT (R453 to R455). TIM_PENDOFS keeps the offset last shown once the pending step has ended (DESIGN CHOICE, log entry 82). -/
def ptpOffset (ofs : Int) (s : State) : State :=
  if s.tim.slave = 0 then s
  else if s.tim.acceptNext then
    let s := { s with tim := { s.tim with acceptNext := false, stepPend := false, inLimit := 0 } }
    stepNet ofs (setPair 0x04020 (twos 8 ofs) s)
  else if s.tim.stepPend then
    let s := setPair 0x04020 (twos 8 ofs) s
    let n := if overLimit ofs s then 0 else s.tim.inLimit + 1
    countOffset ofs (if 8 ≤ n then { s with tim := { s.tim with stepPend := false, inLimit := 0 } } else { s with tim := { s.tim with inLimit := n } })
  else if overLimit ofs s then refuseStep ofs s
  else if ofs.natAbs ≤ 100000 then countOffset ofs (slew s)
  else countOffset ofs (stepNet ofs s)

def execPtpOffsetMeasurement (ofs : Int) (s : State) := run (ptpOffset ofs) s

/-- Whether a port is a PTP port (R428, R447): ETH0, ETH1 or ETH2, enabled and with PTP_EN. -/
def ptpPort (p : Nat) (s : State) : Bool := decide (p < 3) && getB (0x38400 + 0x40 * p) 31 s && getB (0x38400 + 0x40 * p) 25 s

/-- Whether the port in state SLAVE is still a PTP port; the ring's may be either of its two. -/
def slaveHeld (s : State) : Bool :=
  match s.tim.slave with
  | 0 => true
  | 1 => ptpPort 0 s || ptpPort 1 s
  | _ => ptpPort 2 s

/-- ANNOUNCE (R453, R455 to R457): the Announce of a grandmaster that the best-master algorithm selects on a PTP port. A rejected
clockIdentity is disregarded. -/
def announce (m : AnnounceMsg) (s : State) : State :=
  if s.tim.rejects.contains m.gmId.toNat || !m.best || !ptpPort m.port s then s
  else
    let port := if m.port ≤ 1 then 1 else 3
    let changed := s.tim.gm != some m.gmId.toNat
    let old := s.tim.gm.getD 0
    let s := { s with tim := { s.tim with slave := port, gm := some m.gmId.toNat, gmClass := m.gmClass, gmAcc := m.accuracy,
                                          gmUtc := if m.utcValid then some m.utcOffset else none } }
    if !changed then s
    else
      let s := { s with tim := { s.tim with stepPend := false, acceptNext := false, inLimit := 0 } }
      let s := toHoldover (setPair 0x04028 m.gmId.toNat s)
      evt 2 0xC (argPair 0 0 ||| old % 2 ^ 32 ||| (m.gmId.toNat % 2 ^ 32) <<< 32) (timCause 2 s)

def execAnnounce (m : AnnounceMsg) (s : State) := run (announce m) s

/-- ANNOUNCE_TIMEOUT (R453, R456): no port is SLAVE any longer. A pending step waits for the next grandmaster. -/
def announceTimeout (s : State) : State := toHoldover { s with tim := { s.tim with slave := 0, gmUtc := none } }

def execAnnounceTimeout (s : State) := run announceTimeout s

/-- HOLD_H_EXPIRY (R458): LEG_VALID goes to 0 in HOLDOVER and in LOCAL. -/
def holdHExpiry (s : State) : State := setLeg (legNow s) s

def execHoldHExpiry (s : State) := run holdHExpiry s

/-- LEAP_SECOND (R457): a positive one makes LEG hold 23:59:59 a second time, a negative one skips it; neither is an adjustment. -/
def leapSecond (positive : Bool) (s : State) : State :=
  let d : Int := if positive then 1 else -1
  let until_ := if positive then s.tim.mon + sec else s.tim.leapUntil
  let s := { s with cfg := { s.cfg with leapOfs := s.cfg.leapOfs + d }, tim := { s.tim with gmUtc := s.tim.gmUtc.map (· + d), leapUntil := until_ } }
  evt 2 7 (argTime 5 d) s

def execLeapSecond (positive : Bool) (s : State) := run (leapSecond positive) s

/-- INCR_COMMIT (R451): the write of TIM_INCR_NS[d] commits both words, or is ignored and recorded; LEG's increment is NET's. -/
def incrCommit (d : Nat) (ns : Word) (s : State) : State :=
  let e := if d = 2 then 1 else d
  let a := 0x04100 + 8 * e
  let inc := ns.toNat * 2 ^ 32 + (getReg (a + 4) s).toNat
  let dev := if inc < 8589934592 then 8589934592 - inc else inc - 8589934592
  if 4 ≤ d then s
  else if (if d = 0 then 200 else 500) * 8589934592 < dev * 1000000 ∨ (e = 1 ∧ s.tim.slave ≠ 0) ∨ (d = 3 ∧ getB 0x04004 24 s) then
    writeIgnored (0x04100 + 8 * d) ns s
  else
    let s := setReg a ns s
    match e with
    | 0 => { s with tim := { s.tim with incrMon := inc } }
    | 1 => { s with tim := { s.tim with incrNet := inc } }
    | _ => { s with tim := { s.tim with incrBus := inc } }

/-! ## Operations -/

/-- STEP_ACCEPT applied (R455): the next measurement's offset is stepped. -/
def applyStepAccept (s : State) : State := if s.tim.stepPend then { s with tim := { s.tim with acceptNext := true } } else s

/-- STEP_REJECT applied (R455): the grandmaster enters the reject list of 4, the oldest giving way; without it no port is SLAVE. -/
def applyStepReject (s : State) : State :=
  match s.tim.gm with
  | none => { s with tim := { s.tim with stepPend := false } }
  | some g =>
    let l := (without s.tim.rejects g) ++ [g]
    let l := if 4 < l.length then l.drop 1 else l
    announceTimeout { s with tim := { s.tim with rejects := l, stepPend := false, acceptNext := false, gm := none } }

/-- TIME_SET applied (R453, R460, R474): NET, LEG and the RTC, and the quality becomes LOCAL. -/
def applyTimeSet (utcSec ns : Nat) (s : State) : State :=
  let leg := utcSec * sec + ns
  let new := ((leg : Int) + s.cfg.leapOfs * (sec : Int)).toNat
  let s := stepNet ((new : Int) - s.tim.net) s
  setQuality .localQ (setRtc false leg s)

/-- STEP_ACCEPT (R455, R474). -/
def stepAccept (r : Req) (param : Nat) (s : State) : State :=
  if refusesPairOp s then finish r 0x81 0 s
  else if param ≠ 0 then finish r 0x16 0 s
  else if !s.tim.stepPend then finish r 0x19 2 s
  else viaPeer r .stepAccept 4 applyStepAccept s

def execStepAccept (r : Req) (s : State) := run (inlineOp r 0x0F30 4 (fun b => stepAccept r (leAt b 0 4))) s

/-- STEP_REJECT (R455, R474). -/
def stepReject (r : Req) (param : Nat) (s : State) : State :=
  if refusesPairOp s then finish r 0x81 0 s
  else if param ≠ 0 then finish r 0x16 0 s
  else if !s.tim.stepPend then finish r 0x19 2 s
  else viaPeer r .stepReject 4 applyStepReject s

def execStepReject (r : Req) (s : State) := run (inlineOp r 0x0F31 4 (fun b => stepReject r (leAt b 0 4))) s

/-- TIME_SET (R474): the checks in order, then NET, LEG and the RTC. -/
def timeSet (r : Req) (utcSec ns flags : Nat) (s : State) : State :=
  let leg := utcSec * sec + ns
  let jump := (leg : Int) - (((s.tim.net : Int) - s.cfg.leapOfs * (sec : Int)))
  if refusesPairOp s then finish r 0x81 0 s
  else if sec ≤ ns then finish r 0x16 8 s
  else if 2 ≤ flags then finish r 0x16 0xC s
  else if s.tim.quality = .sync then finish r 0x19 1 s
  else if overLimit jump s ∧ flags = 0 then finish r 0x90 (min (jump.natAbs / 1000000) 0xFFFFFFFF) s
  else viaPeer r (.timeSet utcSec ns (flags == 1)) 16 (applyTimeSet utcSec ns) s

def execTimeSet (r : Req) (s : State) := run (inlineOp r 0x0F32 16 (fun b => timeSet r (leAt b 0 8) (leAt b 8 4) (leAt b 0xC 4))) s

/-- RTC_SET (R466, R474): a value in ms, or the time of NET. -/
def rtcSet (r : Req) (source ms : Nat) (s : State) : State :=
  if 1 < source then finish r 0x16 0 s
  else if source = 1 then
    if s.tim.quality = .sync then complete r 0x00 0 16 [] (setRtc true (legNs s) s) else finish r 0x91 0 s
  else complete r 0x00 0 16 [] (setRtc false (ms * 1000000) s)

def execRtcSet (r : Req) (s : State) := run (inlineOp r 0x0F33 16 (fun b => rtcSet r (leAt b 0 1) (leAt b 8 8))) s

/-- ALARM_SET (R468, R474): one alarm second and one wake period, 0 to disarm. -/
def alarmSet (r : Req) (alarm period : Nat) (s : State) : State :=
  if 86400 < period then finish r 0x16 8 s
  else complete r 0x00 0 16 [] { s with tim := { s.tim with alarm := alarm, period := period, lastWake := s.tim.rtc / sec } }

def execAlarmSet (r : Req) (s : State) := run (inlineOp r 0x0F34 16 (fun b => alarmSet r (leAt b 0 8) (leAt b 8 4))) s

/-! ## The real-time clock and the backup domain -/

/-- RTC_COMPARE (R467): in SYNC, every 60 s of MON and once SYNC is entered, the RTC is set from NET where it differs by more than 500 ms or is invalid; otherwise the trim, whose
value the spec leaves to the crystal, and the correction stamp are updated. -/
def rtcCompare (s : State) : State :=
  let due := match s.tim.cmpAt with | some t => decide (t + 60 * sec ≤ s.tim.mon) | none => true
  if s.tim.quality ≠ .sync ∨ !due then s
  else
    let s := { s with tim := { s.tim with cmpAt := some s.tim.mon } }
    let d := (legNs s : Int) - s.tim.rtc
    if !getB 0x06004 30 s || decide (500000000 < d.natAbs) then setRtc true (legNs s) s
    else
      let f := draw s
      let s := { f.2 with tim := { f.2.tim with stamp := f.2.tim.rtc } }
      setReg 0x06008 (BitVec.ofNat 32 (twos 2 (clampI (-20000) 20000 (Config.rtcTrim f.1)))) s

def execRtcCompare (s : State) := run rtcCompare s

/-- RTC_ALARM (R468): the alarm second is reached. -/
def rtcAlarm (s : State) : State :=
  if s.tim.alarm = 0 ∨ s.tim.rtc / sec < s.tim.alarm then s else fireAlarm none s

def execRtcAlarm (s : State) := run rtcAlarm s

/-- PERIODIC_WAKE (R461, R468): the latest multiple of PERIOD, if it has not occurred. -/
def periodicWake (s : State) : State :=
  let p := s.tim.period
  if p = 0 then s
  else
    let at_ := s.tim.rtc / sec / p * p
    if at_ ≤ s.tim.lastWake then s else fireWake none at_ s

def execPeriodicWake (s : State) := run periodicWake s

/-- CAPTURE_EDGE (R462): MON and NET of the edge less the input delay of 1.0 µs, while NEW is 0; otherwise OVR. -/
def captureEdge (k : Nat) (rising : Bool) (s : State) : State :=
  let a := 0x04200 + 0x20 * k
  let sel := getF a 30 29 s
  if 4 ≤ k || !getB a 31 s || (if rising then sel % 2 == 0 else sel / 2 == 0) then s
  else if getB (a + 0x18) 0 s then setB (a + 0x18) 1 true s
  else
    let m := s.tim.mon - 1000
    let n := s.tim.net - 1000
    let s := setReg (a + 8) (hi32 m) (setReg (a + 4) (lo32 m) s)
    let s := setReg (a + 0x10) (BitVec.ofNat 32 (n / sec / 2 ^ 32 % 65536)) (setReg (a + 0xC) (lo32 (n / sec)) s)
    let s := setB (a + 0x18) 0 true (setReg (a + 0x14) (lo32 (n % sec)) s)
    timCause 6 (pmcAdd 0x8B 1 s)

def execCaptureEdge (k : Nat) (rising : Bool) (s : State) := run (captureEdge k rising) s

/-- LAUNCH_PULSE (R461, R463): an instant of the unit is reached, and the edge lies within 4 ns of it; none occurs twice. -/
def launchPulse (k : Nat) (s : State) : State :=
  let now := if getB (0x04300 + 0x10 * k) 30 s then s.tim.net else s.tim.mon
  let st := launchStart k s
  let p := launchPeriod k s
  if 4 ≤ k || !launchLive k s || decide (now < st) then s
  else
    let at_ := st + (now - st) / p * p
    if at_ + 4 < now then s else
    match tget s.tim.launched k with
    | some l => if at_ ≤ l then s else pulse k false { s with tim := { s.tim with launched := tput s.tim.launched k at_ } }
    | none => pulse k false { s with tim := { s.tim with launched := tput s.tim.launched k at_ } }

def execLaunchPulse (k : Nat) (s : State) := run (launchPulse k) s

/-- OSC_STOP (R464): the RTC is invalid until its next setting. -/
def oscStop (s : State) : State :=
  let s := setB 0x06004 30 false (setB 0x06004 27 true s)
  if s.pwr.on then evt 3 3 (argCond 0x06004 27 0) (timCause 8 s) else s

/-- The backup domain runs with the rails off, so this command acts then too (R470). -/
def execOscStop (s : State) : Host.Outcome State Fault Refusal := .next (oscStop s)

/-- LAST_SRC of BKD_STAT (R480). -/
def srcCode : Option BackupSource → Nat
  | some .ext => 1 | some .cell => 2 | some .cap => 3 | _ => 0

/-- The first usable source (R470): main, VBAT_EXT and the cell with their thresholds, the supercapacitor. -/
def firstSource (mainUp : Bool) (extMv cellMv : Nat) (s : State) : Option BackupSource :=
  let use := fun (src : BackupSource) (mv : Nat) => decide ((if s.tim.source == some src then 2400 else 2500) ≤ mv)
  if mainUp then some .main
  else if getB 0x06024 0 s && use .ext extMv then some .ext
  else if getB 0x06024 1 s && use .cell cellMv then some .cell
  else if getB 0x06024 2 s then some .cap
  else none

/-- BACKUP_SOURCE_SWITCH (R470, R480). -/
def backupSwitch (mainUp : Bool) (extMv cellMv : Nat) (s : State) : State :=
  let n := firstSource mainUp extMv cellMv s
  let s := if s.tim.source == some .main && n != some .main then setF 0x06004 26 25 (srcCode n) s else s
  { s with tim := { s.tim with source := n } }

/-- The backup domain runs with the rails off, so this command acts then too (R470). -/
def execBackupSourceSwitch (mainUp : Bool) (extMv cellMv : Nat) (s : State) : Host.Outcome State Fault Refusal :=
  .next (backupSwitch mainUp extMv cellMv s)

/-- One low flag of R471: it takes its value, and an event is recorded when it sets. -/
def lowFlag (bit : Nat) (v : Bool) (s : State) : State :=
  let was := getB 0x06004 bit s
  let s := setB 0x06004 bit v s
  if v && !was then evt 3 3 (argCond 0x06004 bit 0) s else s

/-- Whether a measurement is due (R471): at a power-on reset, every 24 h of MON, and for the supercapacitor 10 min after power-on, where MON is 0. -/
def measureDue (s : State) : Bool :=
  match s.tim.measAt with
  | none => true
  | some t => decide (t + 86400 * sec ≤ s.tim.mon) || (decide (t < 600 * sec) && decide (600 * sec ≤ s.tim.mon))

/-- BACKUP_SOURCE_MEASURE (R471): BKD_SRCMV, the three low flags, and the backup-source source while any is set. -/
def backupMeasure (extMv cellMv capMv : Nat) (s : State) : State :=
  if !measureDue s then s else
  let tenMin := decide (600 * sec ≤ s.tim.mon)
  let s := { s with tim := { s.tim with measAt := some s.tim.mon } }
  let s := setReg 0x06020 (BitVec.ofNat 32 ((extMv % 65536) <<< 16 ||| cellMv % 65536)) s
  let s := lowFlag 24 (getB 0x06024 1 s && decide (cellMv < 2600)) s
  let s := lowFlag 23 (getB 0x06024 0 s && decide (extMv < 2600)) s
  let s := if tenMin then lowFlag 22 (decide (capMv < 3000)) s else s
  let low := getB 0x06004 24 s || getB 0x06004 23 s || getB 0x06004 22 s
  setCond 78 low (if low then timCause 8 s else s)

def execBackupSourceMeasure (extMv cellMv capMv : Nat) (s : State) := run (backupMeasure extMv cellMv capMv) s

/-- VBD_RET_TRIP and VBD_FLOOR_TRIP (R472): the latch VALID clears. -/
def vbdTrip (s : State) : State := { s with tim := { s.tim with latchOk := false } }

/-- The comparators run with the rails off (R472). -/
def execVbdRetTrip (s : State) : Host.Outcome State Fault Refusal := .next (vbdTrip s)

/-- The comparators run with the rails off (R472). -/
def execVbdFloorTrip (s : State) : Host.Outcome State Fault Refusal := .next (vbdTrip s)

/-! ## Calendar -/

/-- Days since 1970-01-01 to year, month and day (R464). -/
def civil (days : Nat) : Nat × Nat × Nat :=
  let z := days + 719468
  let era := z / 146097
  let doe := z % 146097
  let yoe := (doe - doe / 1460 + doe / 36524 - doe / 146096) / 365
  let doy := doe - (365 * yoe + yoe / 4 - yoe / 100)
  let mp := (5 * doy + 2) / 153
  let d := doy - (153 * mp + 2) / 5 + 1
  let m := if mp < 10 then mp + 3 else mp - 9
  (yoe + era * 400 + (if m ≤ 2 then 1 else 0), m, d)

/-- BKD_DATE of a shadow (R479). -/
def rtcDate (ns : Nat) : Word :=
  let c := civil (ns / sec / 86400)
  BitVec.ofNat 32 (c.1 <<< 16 ||| c.2.1 <<< 8 ||| c.2.2)

/-- BKD_TOD of a shadow (R479). -/
def rtcTod (ns : Nat) : Word :=
  let t := ns / sec % 86400
  BitVec.ofNat 32 ((t / 3600) <<< 16 ||| (t / 60 % 60) <<< 8 ||| t % 60)

/-- Subseconds of 1/32,768 s (R464). -/
def rtcSub (ns : Nat) : Nat := ns % sec * 32768 / sec

/-- The LEG day that contains an instant, counted in local days (R457). -/
def legDay (s : State) : Nat := ((legSec s : Int) + s.cfg.localOfs).toNat / 86400

end Sys2Proof.Machine
end

