-- ==== Sys2Proof/Machine/Rnd.lean ====
section
/-!
DEFINITION. The round engine's sessions and frames (R326 to R357): enrolment, the checks on received frames, reading and writing, the
group records and the station operations. The round's instants are put together in Round.lean.
-/
namespace Sys2Proof.Machine

/-! ## Stations -/

/-- A station's state. -/
def stn (id : Nat) (s : State) : StnSt := tgetD s.rnd.stns id {}

/-- The state with a station's state replaced. -/
def putStn (id : Nat) (x : StnSt) (s : State) : State := { s with rnd := { s.rnd with stns := tput s.rnd.stns id x } }

/-- The stations of the active model. -/
def modelStns (s : State) : List StationDecl := match s.model.active with | some m => m.stations | none => []

/-- The declaration of a station in the active model (R120). -/
def stnDecl (id : Nat) (s : State) : Option StationDecl := (modelStns s).find? (fun d => d.ident == id)

/-- Station identifiers of the active model, rising. -/
def stnIds (s : State) : List Nat := sortUp ((modelStns s).map (·.ident))

/-- What the configuration assigns to a station. -/
def stnCfg (id : Nat) (s : State) : StnCfg := tgetD s.cfg.stations id {}

/-- The stations of a group in the active model, rising (R328). -/
def groupStns (g : Nat) (s : State) : List Nat := (stnIds s).filter (fun i => (stnCfg i s).group == g)

/-- STATE of RND_STN (R363). -/
def Sess.code : Sess → Nat
  | .dormant => 0 | .enrolling => 1 | .active => 2 | .suspect => 3 | .lost => 4 | .retired => 5

/-- STATE of a station as RND_STN and the group records show it (R363). -/
def stnCode (id : Nat) (s : State) : Nat := if (stnDecl id s).isNone then 6 else (stn id s).state.code

/-- A station takes a session state. -/
def setSess (id : Nat) (v : Sess) (s : State) : State :=
  let x := stn id s
  if x.state = v then s
  else putStn id { x with state := v, everActive := x.everActive || v == .active, enrolCloses := 0,
                          round := { x.round with stateChanged := true } } s

/-- RND_STN[s] (R363). -/
def rndStn (id : Nat) (s : State) : Word :=
  let x := stn id s
  if id = 0 then 0xC0000000
  else BitVec.ofNat 32 (stnCode id s <<< 29 ||| b2n x.lastListed <<< 28 ||| b2n x.lastReadOk <<< 27 ||| b2n x.lastWritten <<< 26 |||
    b2n x.isLocal <<< 25 ||| b2n x.fallback <<< 24 ||| (stnCfg id s).group <<< 20 ||| x.sps <<< 16 ||| min x.misses 0xFFFF)

/-- How many stations of the model are in a state (R358). -/
def countSess (v : Sess) (s : State) : Nat := ((modelStns s).filter (fun d => (stn d.ident s).state == v)).length

/-- Whether the module sends commands to stations and plants (R397). -/
def sendsCommands (s : State) : Bool :=
  s.dup.state == .standby || s.dup.state == .control || s.dup.state == .single

/-! ## Frames -/

/-- SENDER of the module (R329). -/
def sender (s : State) : Nat := 0x80 + slotId s

/-- The 32-byte header (R329). -/
def plynuHdr (type id snd flags epoch fseq round len : Nat) : Bytes :=
  be 2 0x5059 ++ be 1 1 ++ be 1 type ++ be 2 id ++ be 1 snd ++ be 1 flags ++ be 4 epoch ++ be 8 fseq ++ be 8 round ++ be 2 len ++
    zeros 2

/-- The header of a received frame as it stood on the wire. -/
def frameHdr (f : Frame) : Bytes := f.data.take 32

/-- Whether the round engine may send and take frames: not in its block reset (R68). -/
def rndRuns (s : State) : Bool := !s.start.blkRst.contains .rnd

/-- The GCM nonce (R330): SENDER, three bytes of 0 and FSEQ. -/
def plynuNonce (snd fseq : Nat) : Nat := snd * 2 ^ 88 + fseq

/-- LEG in ms (R334, R347). -/
def legMs (s : State) : Nat := legNs s / 1000000

/-- The session key of a station, where the module holds NS and NM (R331). -/
def sessKey (id : Nat) (s : State) : Option Nat :=
  let x := stn id s
  match x.ns, x.nm with
  | some a, some b => if keyed s then some (keySession id x.epoch a b s) else none
  | _, _ => none

/-- An enrolment frame leaves (R330, R332). -/
def sendEnrol (type id epoch : Nat) (body : Bytes) (s : State) : State :=
  let h := plynuHdr type id (sender s) 0 epoch 0 s.rnd.number body.length
  if !rndRuns s then s
  else emit (.plynu id (h ++ body) (BitVec.ofNat 128 (Config.hmac (keyEnrol id s) (h ++ body) / 2 ^ 128))) s

/-- A session frame leaves under the session key with a new FSEQ, its body encrypted (R330, R353). -/
def sendSession (type id flags : Nat) (body : Bytes) (s : State) : State :=
  match (if rndRuns s then sessKey id s else none) with
  | none => s
  | some k =>
    let x := stn id s
    let q := s.rnd.fseqGen * 2 ^ 40 + (x.tx + 1)
    let h := plynuHdr type id (sender s) flags x.epoch q s.rnd.number body.length
    emit (.plynu id (h ++ gcmText k (plynuNonce (sender s) q) body) (Config.gcmTag k (plynuNonce (sender s) q) h body)) (putStn id { x with tx := x.tx + 1 } s)

/-- REJECT (R335): from the module in control alone, at most one for a station in 10 s. -/
def reject (code id epoch epochRef fseqRef nsRef : Nat) (s : State) : State :=
  let x := stn id s
  let soon := match x.lastReject with | some t => decide (s.tim.mon < t + 10000000000) | none => false
  if !inControl s || soon || !keyed s || !rndRuns s then s
  else
    let body := be 1 code ++ zeros 3 ++ be 4 epochRef ++ be 8 fseqRef ++ be 16 nsRef
    pmcAdd 0x53 1 (sendEnrol 3 id epoch body (putStn id { x with lastReject := some s.tim.mon } s))

/-- A received frame is discarded for reason k (R338). -/
def discard (k : Nat) (id : Nat) (s : State) : State :=
  let s := evt 13 5 (argPair k id) (pmcAdd 0x54 1 (incReg (0x2C100 + 4 * k) 1 s))
  let s := if k = 3 then pmcAdd 0x55 1 s else if k = 8 then pmcAdd 0x56 1 s else s
  if (stnDecl id s).isNone then s
  else
    let x := stn id s
    let r := { x.round with drops := x.round.drops + 1, tagFailed := x.round.tagFailed || k == 3,
                            seqFailed := x.round.seqFailed || k == 6 || k == 7 }
    putStn id { x with round := r } s

/-- Check 1 of R338. -/
def malformed (f : Frame) : Bool :=
  decide (f.data.length < 48) || decide (1200 < f.data.length) || f.magic != 0x5059 || f.version != 1 || f.data.length != 48 + f.length || !([0x01, 0x04, 0x11, 0x21].contains f.type) || f.sender != 0 || (f.type != 1 && f.fseq == 0)

/-- An accepted frame's source becomes the station's address, with a record where it differs (R327). -/
def noteAddr (f : Frame) (s : State) : State :=
  let x := stn f.station s
  if x.addr = f.srcAddr ∧ x.port = f.srcPort then s
  else
    let s' := putStn f.station { x with addr := f.srcAddr, port := f.srcPort } s
    if x.addr = 0 then s' else evt 13 0xC (x.addr % 2 ^ 32 ||| (f.srcAddr % 2 ^ 32) <<< 32) s'

/-! ## Enrolment -/

/-- The sample rate granted (R336): the highest of 1, 2 and 4 at or below the offer and the configured rate. -/
def grantSps (offer configured : Nat) : Nat :=
  let m := min offer configured
  if 4 ≤ m then 4 else if 2 ≤ m then 2 else 1

/-- A new session of a station begins in ENROLLING (R336, R340): EPOCH, NS and the grants; NM where the module holds it. -/
def newSession (id epoch ns : Nat) (nm : Option Nat) (sps appIn appOut : Nat) (s : State) : State :=
  let x := stn id s
  let live := x.state == .active || x.state == .suspect
  let rd := { x.round with wrOpen := false, epochChanged := x.round.epochChanged || live,
                           stateChanged := x.round.stateChanged || x.state != .enrolling }
  let y := { x with state := .enrolling, epoch := epoch, ns := some ns, nm := nm, sps := sps, appIn := appIn, appOut := appOut,
                    enrolCloses := 0, hiSeq := 0, window := [], tx := 0, round := rd }
  let s := putStn id y s
  let s := if live then pmcAdd 0x5A 1 s else s
  if nm.isSome then pmcAdd 0x9D 1 { s with kst := { s.kst with sessions := addOnce s.kst.sessions id } } else s

/-- WELCOME (R334). -/
def welcome (id : Nat) (s : State) : State :=
  let x := stn id s
  let body := be 16 (x.ns.getD 0) ++ be 16 (x.nm.getD 0) ++ be 1 x.sps ++ be 1 (stnCfg id s).group ++ be 1 x.appIn ++ be 1 x.appOut ++
    be 2 s.cfg.fallbackS ++ be 1 (b2n s.tim.legValid) ++ zeros 1 ++ be 8 (legMs s) ++ be 16 s.cfg.addr ++
    be 16 (if duplex s then s.cfg.peerAddr else 0) ++ be 4 s.dup.claim ++ zeros 12
  sendEnrol 2 id x.epoch body s

/-- KIND and the generation that a HELLO gives are kept (R333). -/
def keepKind (id : Nat) (f : Frame) (s : State) : State := putStn id { stn id s with kind := beAt f.body 0x11 1, cgen := beAt f.body 0x18 2 } s

/-- An accepted HELLO (R336, R337): the module in control draws NM, answers WELCOME and passes the parameters to the standby. -/
def helloAccept (f : Frame) (s : State) : State :=
  let id := f.station
  let c := stnCfg id s
  let ns := beAt f.body 0 16
  let sps := grantSps (beAt f.body 0x12 1) c.sps
  let ai := min (beAt f.body 0x13 1) c.appIn
  let ao := min (beAt f.body 0x14 1) c.appOut
  let s := noteAddr f (pmcAdd 0x52 1 s)
  if inControl s then
    let d := draw s
    let nm := Config.random d.1 % 2 ^ 128
    let s := welcome id (keepKind id f (newSession id f.epoch ns (some nm) sps ai ao d.2))
    if duplex s then sendPeer (.forward (.enrol id f.epoch ns nm sps ai ao)) s else s
  else keepKind id f (newSession id f.epoch ns none sps ai ao s)

/-- The enrolment parameters from the module in control (R337). -/
def applyEnrol (id epoch ns nm sps appIn appOut : Nat) (s : State) : State :=
  let x := stn id s
  if x.state = .enrolling ∧ x.epoch = epoch ∧ x.ns = some ns then
    putStn id { x with nm := some nm, sps := sps, appIn := appIn, appOut := appOut } s
  else if x.state = .retired ∨ (stnDecl id s).isNone then s
  else newSession id epoch ns (some nm) sps appIn appOut s

/-- HELLO's body outside R333 (check 12 of R338). -/
def helloBad (b : Bytes) : Bool :=
  b.length != 0x40 || beAt b 0x10 1 != 1 || decide (8 ≤ beAt b 0x11 1) || decide (16 < beAt b 0x13 1) || decide (13 < beAt b 0x14 1) ||
    beAt b 0x15 1 != 0 || beAt b 0x1A 2 != 0 || beAt b 0x24 28 != 0

/-- A bit of the header that R329 states as 0 (check 12 of R338). -/
def hdrBad (f : Frame) : Bool := decide (4 ≤ f.flags) || beAt f.data 0x1E 2 != 0

/-- The outcome of R336 for a HELLO with a valid tag: none where it is accepted, otherwise the reason of R338 and the REJECT code. -/
def helloRefused (f : Frame) (d : StationDecl) (s : State) : Option (Nat × Option Nat) :=
  let x := stn f.station s
  let kind := beAt f.body 0x11 1
  let sps := beAt f.body 0x12 1
  let full := kind % 2 == 1
  let caps := full == d.full && (kind / 2 % 2 == 1) == d.bidir && (sps == 1 || sps == 2 || sps == 4) &&
    (full || decide (900 ≤ beAt f.body 0x16 2))
  let open_ := x.state == .dormant || x.state == .lost || x.state == .enrolling
  let fresh := x.ns != some (beAt f.body 0 16)
  if !getB 0x2C000 1 s then some (13, some 5)
  else if !caps then some (12, some 2)
  else if f.epoch < x.epoch then some (11, some 1)
  else if fresh && (decide (x.epoch < f.epoch) || open_) then none
  else some (10, none)

/-- A HELLO after checks 1 to 3 of R338. -/
def hello (f : Frame) (d : StationDecl) (s : State) : State :=
  let id := f.station
  let ok := keyed s && f.tag == BitVec.ofNat 128 (Config.hmac (keyEnrol id s) (frameHdr f ++ f.body) / 2 ^ 128)
  if !ok then discard 3 id s
  else if f.body.length < 0x40 then discard 9 id s
  else
    match helloRefused f d s with
    | some (k, code) =>
      let s := discard k id s
      (match code with
       | some c => reject c id f.epoch (if c = 1 then (stn id s).epoch else 0) 0 (beAt f.body 0 16) s
       | none => s)
    | none => if helloBad f.body || hdrBad f || f.epoch == 0 then discard 9 id s else helloAccept f s

/-! ## Session frames -/

/-- The first frame authenticated under the new key completes the enrolment (R340). -/
def enrolled (id : Nat) (s : State) : State :=
  if (stn id s).state = .enrolling then pmcAdd 0x59 1 (setSess id .active s) else s

/-- A frame with a valid tag advances the window of its station (R338). -/
def advanceWin (id q : Nat) (s : State) : State :=
  let x := stn id s
  let hi := max x.hiSeq q
  putStn id { x with hiSeq := hi, window := (q :: x.window).filter (fun n => decide (hi ≤ n + 64)) } s

/-- HELD_CLAIM of an accepted frame (R395, R403): a module in control that sees it above its own claim from two stations in one round
resigns with cause 8. -/
def noteClaim (id held : Nat) (s : State) : State :=
  let s := { s with dup := { s.dup with heldNow := max s.dup.heldNow held } }
  if held ≤ s.dup.claim then s
  else
    let s := { s with dup := { s.dup with heldBy := addOnce s.dup.heldBy id } }
    if s.dup.state == .control && decide (2 ≤ s.dup.heldBy.length) then resign 8 s else s

/-- A phase boundary of the round in progress in MON (R343). -/
def boundary (hi lo : Nat) (s : State) : Nat := s.rnd.anchor + fld s.rnd.bounds hi lo * 10000000

/-- The samples of a body (R349). -/
def samplesAt (b : Bytes) (off : Nat) : Nat → List Sample
  | 0 => []
  | n + 1 =>
    { vol := beSAt b off 4, tw := beSAt b (off + 4) 4, tc := beSAt b (off + 8) 4, invalid := beAt b (off + 12) 1 % 2 == 1 } ::
      samplesAt b (off + 16) n

/-- A pressure, or none where the station does not measure it (R348). -/
def pressAt (b : Bytes) (off : Nat) : Option Int := if beAt b off 4 = 0x80000000 then none else some (beSAt b off 4)

/-- READ_REP's body outside R348 and R349 (check 12 of R338). -/
def readRepBad (x : StnSt) (b : Bytes) (s : State) : Bool :=
  let nc := beAt b 2 1
  let nf := beAt b 3 1
  let diag := beAt b 0 2 / 32 % 2
  let so := 0x54 + 4 * x.appIn
  decide (b.length < 0x54) || b.length != so + 16 * (nc + nf) + 32 * diag || decide (x.sps < nc) || decide (getF 0x2C008 23 16 s < nf) ||
    decide (64 ≤ beAt b 0 2) || beAt b 4 4 == 0 || (nf == 0 && beAt b 8 4 != 0) || (nf != 0 && beAt b 8 4 == 0) ||
    (List.range (nc + nf)).any (fun i => decide (2 ≤ beAt b (so + 16 * i + 12) 1))

/-- The reply that a body holds (R348). -/
def parseReply (x : StnSt) (b : Bytes) (rx : Nat) : Reply :=
  let nc := beAt b 2 1
  let nf := beAt b 3 1
  let so := 0x54 + 4 * x.appIn
  { epoch := x.epoch, rstat := beAt b 0 2, firstCur := beAt b 4 4, firstFetch := beAt b 8 4,
    fetchEpoch := (match x.round.fetch with | some e => e.1 | none => 0), heldClaim := beAt b 0xC 4, lastApplied := beAt b 0x10 6,
    cgen := beAt b 0x16 2, vFwd := beAt b 0x18 8, vRev := beAt b 0x20 8, eImp := beAt b 0x28 8, eExp := beAt b 0x30 8,
    draw := beSAt b 0x38 4, tWarm := beSAt b 0x3C 4, tCool := beSAt b 0x40 4, pWarm := pressAt b 0x44, pCool := pressAt b 0x48,
    time := beAt b 0x4C 8, appIn := (List.range x.appIn).map (fun i => beAt b (0x54 + 4 * i) 4), cur := samplesAt b so nc,
    fetched := samplesAt b (so + 16 * nc) nf, diag := if beAt b 0 2 / 32 % 2 = 1 then slice b (so + 16 * (nc + nf)) 32 else [],
    rxMon := rx }

/-- After BACKLOG_LOST the module limits its fetching (R347): within the session epoch to FIRST_CUR and above, and in an older epoch it
fetches nothing more. -/
def limitFetch (x : StnSt) (p : Reply) : Tbl Nat :=
  match x.round.fetch with
  | some e => if p.rstat / 8 % 2 = 1 then tput x.noFetch e.1 (if e.1 = x.epoch then p.firstCur else 2 ^ 32) else x.noFetch
  | none => x.noFetch

/-- A READ_REP after checks 1 to 9, with its body in clear (R344, R348). -/
def readRep (f : Frame) (b : Bytes) (s : State) : State :=
  let id := f.station
  let x := stn id s
  if s.rnd.number < f.round then discard 0 id (enrolled id s)
  else if f.round < s.rnd.number ∨ s.rnd.phase ≠ .read ∨ boundary 7 0 s ≤ f.rxMon then discard 8 id (enrolled id s)
  else if x.round.reply.isSome then discard 7 id (enrolled id s)
  else if readRepBad x b s || hdrBad f then discard 9 id s
  else
    let p := parseReply x b f.rxMon
    let y := { x with isLocal := p.rstat % 2 == 1, fallback := p.rstat / 2 % 2 == 1, cgen := p.cgen, noFetch := limitFetch x p, lastDt := some (((p.tWarm - p.tCool).natAbs : Nat) : Int),
                      lastTemps := some (p.tWarm, p.tCool),
                      round := { x.round with reply := some p } }
    noteClaim id p.heldClaim (enrolled id (noteAddr f (pmcAdd 0x4E 1 (putStn id y s))))

/-- The entries of a WRITE_ACK (R351): CMD_SEQ and CODE. -/
def ackEntries (b : Bytes) : List (Nat × Nat) :=
  (List.range (beAt b 4 1)).map (fun i => (beAt b (8 + 8 * i) 6, beAt b (14 + 8 * i) 1))

/-- WRITE_ACK's body outside R351 (check 12 of R338). -/
def writeAckBad (b : Bytes) : Bool :=
  decide (b.length < 8) || !within (beAt b 4 1) 1 16 || b.length != 8 + 8 * beAt b 4 1 || (ackEntries b).any (fun e => decide (5 < e.2))

/-- The values of the answered commands no longer wait, unless they have changed since the latch (R350). -/
def answerWant (want : Tbl (List Int)) (cmds : List CmdEntry) (seqs : List Nat) : Tbl (List Int) :=
  want.filter (fun w => !cmds.any (fun c => c.seq % 16 == w.1 && seqs.contains c.seq && c.vals == w.2))

/-- A WRITE_ACK after checks 1 to 9, with its body in clear (R345, R351). -/
def writeAck (f : Frame) (b : Bytes) (s : State) : State :=
  let id := f.station
  let x := stn id s
  let mine := (ackEntries b).filter (fun e => x.round.cmds.any (fun c => c.seq == e.1))
  let fresh := mine.filter (fun e => !x.round.answered.contains e.1)
  if s.rnd.number < f.round then discard 0 id s
  else if f.round < s.rnd.number ∨ s.rnd.phase ≠ .write ∨ boundary 31 24 s ≤ f.rxMon then discard 8 id s
  else if (x.round.written || !x.round.wrOpen) && fresh.isEmpty then discard 7 id s
  else if writeAckBad b || hdrBad f then discard 9 id s
  else
    let bud := match fresh.find? (fun e => e.1 % 16 == 0) with | some e => some e.2 | none => x.round.budgetAck
    let rd := { x.round with written := true, answered := x.round.answered ++ fresh.map (·.1), acks := x.round.acks ++ fresh,
                             budgetAck := bud }
    let y := { x with round := rd, want := answerWant x.want x.round.cmds (fresh.map (·.1)) }
    noteClaim id (beAt b 0 4) (noteAddr f (pmcAdd 0x50 1 (putStn id y s)))

/-- A session frame after checks 1 to 3: checks 6, 7, 4, 8 and 9 of R338, then its type. DEDUCED (log entry 78): an epoch above that of the session is one
whose NM the module lacks. -/
def sessionFrame (f : Frame) (s : State) : State :=
  let id := f.station
  let x := stn id s
  if x.state = .dormant ∨ x.state = .lost then reject 3 id f.epoch f.epoch f.fseq 0 (discard 4 id s)
  else if x.epoch < f.epoch ∨ (f.epoch = x.epoch ∧ x.nm.isNone) then discard 4 id s
  else if f.epoch ≠ x.epoch then discard 5 id s
  else
    match sessKey id s with
    | none => discard 3 id s
    | some k =>
      let b := gcmText k (plynuNonce f.sender f.fseq) f.body
      if f.tag ≠ Config.gcmTag k (plynuNonce f.sender f.fseq) (frameHdr f) b then discard 3 id s
      else if f.fseq + 64 < x.hiSeq then discard 6 id s
      else if x.window.contains f.fseq then discard 7 id s
      else
        let s := advanceWin id f.fseq s
        if f.type = 0x04 then
          if b ≠ zeros 8 ∨ hdrBad f then discard 9 id s else enrolled id (noteAddr f s)
        else if f.type = 0x11 then readRep f b s
        else writeAck f b s

/-- A received Plynu frame (R326, R338). -/
def receive (f : Frame) (s : State) : State :=
  if f.fragment || (f.csumZero && !f.ipv4) || !rndRuns s then s
  else if malformed f then discard 0 f.station s
  else
    match stnDecl f.station s with
    | none => discard 1 f.station s
    | some d =>
      if (stn f.station s).state = .retired then
        let s := discard 2 f.station s
        if f.type = 1 then reject 4 f.station f.epoch 0 0 (beAt f.body 0 16) s else s
      else if f.type = 1 then hello f d s
      else sessionFrame f s

/-- HELLO (R333, R336): the received frame, whatever it proves to be. -/
def execHello (f : Frame) (s : State) := run (receive f) s

/-- READY (R340). -/
def execReady (f : Frame) (s : State) := run (receive f) s

/-- READ_REP (R344, R348). -/
def execReadRep (f : Frame) (s : State) := run (receive f) s

/-- WRITE_ACK (R351). -/
def execWriteAck (f : Frame) (s : State) := run (receive f) s

/-! ## Requests -/

/-- READ_REQ to a station (R347). -/
def sendReadReq (retry : Bool) (id : Nat) (s : State) : State :=
  if (sessKey id s).isNone then s
  else
    let x := stn id s
    let fe := match x.round.fetch with | some e => e | none => (x.epoch, 0)
    let body := be 8 (legMs s) ++ be 4 fe.1 ++ be 4 fe.2 ++ be 1 (getF 0x2C008 23 16 s) ++
      be 1 (b2n s.tim.legValid + 2 * b2n (s.tim.quality == .sync)) ++ zeros 2 ++ be 4 x.round.ackTo
    let fl := b2n retry + 2 * b2n (!x.round.queries.isEmpty)
    let s := putStn id { x with round := { x.round with reads := x.round.reads + 1, sentAt := s.tim.mon } } s
    let s := pmcAdd 0x4D 1 (if x.round.fetch.isSome then pmcAdd 0x57 1 s else s)
    sendSession 0x10 id fl body (if retry then pmcAdd 0x51 1 s else s)

/-- Whether RETRY_MS has passed since the last sending to a station (R344). -/
def retryDue (x : StnSt) (s : State) : Bool := decide (x.round.sentAt + getF 0x2C008 15 8 s * 10000000 ≤ s.tim.mon)

/-- READ_RETRY (R344): RETRY_MS after the previous sending, at most RETRIES repetitions, and none after READ_CLOSE. -/
def readRetry (id : Nat) (s : State) : State :=
  let x := stn id s
  if s.rnd.phase = .read ∧ x.round.listed ∧ x.round.reply.isNone ∧ 1 ≤ x.round.reads ∧ x.round.reads ≤ getF 0x2C008 3 0 s ∧ retryDue x s ∧ s.tim.mon < boundary 7 0 s then
    sendReadReq true id s
  else s

def execReadRetry (id : Nat) (s : State) := run (readRetry id) s

/-- The bytes of a command entry (R350). -/
def CmdEntry.bytes (c : CmdEntry) : Bytes :=
  be 6 c.seq ++ be 1 c.kind ++ zeros 1 ++ ((List.range 4).flatMap (fun i => beS 4 (c.vals.getD i 0)))

/-- WRITE to a station under the module's present claim (R346, R350). -/
def sendWrite (retry : Bool) (id : Nat) (s : State) : State :=
  if (sessKey id s).isNone || !sendsCommands s then s
  else
    let x := stn id s
    let left := x.round.cmds.filter (fun c => !x.round.answered.contains c.seq)
    let body := be 4 s.dup.claim ++ be 1 left.length ++ zeros 3 ++ left.flatMap CmdEntry.bytes
    let s := putStn id { x with round := { x.round with writes := x.round.writes + 1, sentAt := s.tim.mon } } s
    let s := if retry then pmcAdd 0x51 1 s else s
    sendSession 0x20 id (b2n retry) body (pmcAdd 0x4F 1 s)

/-- WRITE_RETRY (R345, R346): until a WRITE_ACK is accepted, an accepted HELLO ends the WRITE, or CLOSE is reached. -/
def writeRetry (id : Nat) (s : State) : State :=
  let x := stn id s
  if s.rnd.phase = .write ∧ x.round.wrOpen ∧ !x.round.written ∧ 1 ≤ x.round.writes ∧ x.round.writes ≤ getF 0x2C008 3 0 s ∧ retryDue x s ∧ s.tim.mon < boundary 31 24 s then
    sendWrite true id s
  else s

def execWriteRetry (id : Nat) (s : State) := run (writeRetry id) s

/-- A value of a kind other than BUDGET, at its index (R350): a change waits until a WRITE_ACK answers it. -/
def publishStn (id idx : Nat) (v : List Int) (s : State) : State :=
  let x := stn id s
  if tget x.vals idx = some v then s else putStn id { x with vals := tput x.vals idx v, want := tput x.want idx v } s

/-- KIND of an index (R350). -/
def kindOf (idx : Nat) : Nat := if idx = 0 then 1 else if idx = 1 then 2 else if idx = 15 then 4 else 3

/-! ## The phases of a round -/

/-- The read list (R342). -/
def readList (s : State) : List Nat :=
  (List.range 16).flatMap (fun g => (groupStns g s).filter (fun i =>
    let x := stn i s
    x.state == .enrolling || x.state == .active || x.state == .suspect))

/-- The start of a round for one station (R342, R357): `fetch` and `ackTo` are those of R347. -/
def beginStn (fetch : Option (Nat × Nat)) (ackTo : Nat) (listed : Bool) (id : Nat) (s : State) : State :=
  let x := stn id s
  let prev := match x.round.reply with | some p => some p.epoch | none => none
  putStn id { x with prevEpoch := prev, query := [],
                     round := { listed := listed, fetch := fetch, ackTo := ackTo, queries := x.query } } s

/-- The 64 bytes of a STATION_QUERY (R357). -/
def queryBytes (id : Nat) (p : Reply) (s : State) : Bytes :=
  let x := stn id s
  le 2 id ++ le 1 (stnCode id s) ++ le 1 x.sps ++ le 4 x.epoch ++ be 16 x.addr ++ le 8 s.rnd.number ++ p.diag

/-- The queries of a station end at READ_CLOSE (R357). -/
def endQueries (s : State) (id : Nat) : State :=
  let x := stn id s
  let s := putStn id { x with round := { x.round with queries := [] } } s
  x.round.queries.foldl (fun s r =>
    match x.round.reply with
    | some p =>
      if p.diag.length = 32 then complete r 0x00 0 64 (queryBytes id p s) s
      else if x.round.tagFailed then finish r 0x72 0 s else if x.round.seqFailed then finish r 0x73 0 s else finish r 0x70 id s
    | none => if x.round.tagFailed then finish r 0x72 0 s else if x.round.seqFailed then finish r 0x73 0 s else finish r 0x70 id s) s

/-- READ_CLOSE of the round engine (R344): the accepted replies are frozen and the queries end. -/
def rndReadClose (s : State) : State :=
  let s := { s with rnd := { s.rnd with phase := .compute, frozen := true } }
  (stnIds s).foldl endQueries s

/-- The commands latched for a station at WRITE_OPEN (R345, R350), with its budget and, for a station that retires, MODE RETIRE. -/
def latchStn (budget : List Int) (s : State) (id : Nat) : State :=
  let x := stn id s
  let ok := match x.round.reply with | some p => p.epoch == x.epoch && x.state != .retired && !x.round.unreached | none => false
  if !ok then s
  else
    let want := if x.retire.isSome then tput x.want 15 [2] else x.want
    let mk := fun (e : Nat × List Int) => ({ seq := s.rnd.number * 16 + e.1, kind := kindOf e.1, vals := e.2 } : CmdEntry)
    let rd := { x.round with onList := true, wrOpen := true, cmds := mk (0, budget) :: want.map mk }
    putStn id { x with want := want, round := rd } s

/-- Whether a station was reached in the round (R339, R345). -/
def reached (x : StnSt) : Bool := x.round.listed && x.round.reply.isSome && x.round.written && !x.round.unreached

/-- The session state after a round close (R339, R340). -/
def closeSess (x : StnSt) (enrolN suspectN lostN : Nat) : Sess × Nat × Nat :=
  let limit := x.state == .enrolling && decide (enrolN ≤ x.enrolCloses + 1)
  let m := if !x.round.listed || limit then x.misses else if reached x then 0 else min (x.misses + 1) 0xFFFF
  let missed := x.round.listed && !reached x
  let n := if x.state = .enrolling then x.enrolCloses + 1 else 0
  if x.retire.isSome then (.retired, m, 0)
  else if limit then (if x.everActive then .lost else .dormant, m, 0)
  else if x.state = .active ∧ missed ∧ suspectN ≤ m then (.suspect, m, n)
  else if x.state = .suspect ∧ reached x then (.active, m, n)
  else if x.state = .suspect ∧ missed ∧ lostN ≤ m then (.lost, m, n)
  else (x.state, m, n)

/-- One station at the round close (R339, R340, R357, R363). -/
def closeStn (s : State) (id : Nat) : State :=
  let x := stn id s
  let c := closeSess x (getF 0x2C00C 15 8 s) (getF 0x2C00C 7 0 s) (getF 0x2C00C 31 16 s)
  let y := { x with state := c.1, misses := c.2.1, enrolCloses := c.2.2, retire := none, everActive := x.everActive || c.1 == .active,
                    lastListed := x.round.listed, lastReadOk := x.round.reply.isSome, lastWritten := x.round.written,
                    round := { x.round with stateChanged := x.round.stateChanged || c.1 != x.state } }
  let s := putStn id y s
  let s := if x.round.listed && !reached x then pmcAdd 0x58 1 s else s
  match x.retire with
  | some (some r) => complete r 0x00 0 4 [] s
  | _ => s

/-- The entry of a station in its group record (R356). -/
def stnEntry (s : State) (id : Nat) : Bytes :=
  let x := stn id s
  let unw := x.round.reply.isSome && !(x.round.written && !x.round.unreached)
  let fl := b2n x.round.listed + 2 * b2n x.round.reply.isSome + 4 * b2n x.round.written + 8 * b2n x.round.stateChanged +
    16 * b2n x.round.epochChanged + 32 * b2n unw + 64 * b2n x.isLocal + 128 * b2n x.fallback
  le 2 id ++ le 1 (stnCode id s) ++ le 1 fl ++ le 1 (x.round.budgetAck.getD 0xFF) ++ le 1 (min x.round.drops 0xFF) ++
    le 1 (match x.round.reply with | some p => p.fetched.length | none => 0) ++ zeros 1

/-- The group record of a round (R356). -/
def groupRecord (empty : Bool) (s : State) (g : Nat) : State :=
  let l := groupStns g s
  if l.isEmpty then s
  else
    let cnt := fun (p : StnSt → Bool) => (l.filter (fun i => p (stn i s))).length
    let out := l.filter (fun i => (stn i s).round.listed && !reached (stn i s))
    let gf := b2n empty + 2 * b2n (!keyed s) + 4 * b2n s.rnd.switched + 8 * b2n s.rnd.rndReset + 16 * b2n (s.dup.state == .standby)
    let rec_ := le 8 s.rnd.number ++ le 1 g ++ le 1 gf ++ le 2 l.length ++ le 2 (cnt (·.round.listed)) ++
      le 2 (cnt (·.round.reply.isSome)) ++ le 2 (cnt (·.round.written)) ++ le 2 out.length ++ le 4 s.dup.claim ++
      le 4 ((l.map (fun i => (stn i s).round.drops)).foldl (· + ·) 0) ++ zeros 4 ++ l.flatMap (stnEntry s)
    deliverWith (14 + g) (if out.isEmpty then 0x00 else 0x70) (out.headD 0) rec_ s

/-- The round close of the round engine (R340, R356). -/
def rndClose (s : State) : State :=
  let empty := !(stnIds s).any (fun i => (stn i s).round.listed)
  let s := if empty then pmcAdd 0x5B 1 s else s
  let s := (stnIds s).foldl closeStn s
  let s := (List.range 16).foldl (groupRecord empty) s
  { s with rnd := { s.rnd with phase := .idle, switched := false, rndReset := false, closes := s.rnd.closes + 1 } }

/-! ## Station operations -/

/-- Whether a station belongs to the group of a pair (R328, R357). -/
def inGroup (r : Req) (id : Nat) (s : State) : Bool :=
  within r.pair 14 29 && (tget s.cfg.stations id).isSome && (stnCfg id s).group == r.pair - 14

/-- A retirement waits for the next round close (R357). -/
def setRetire (id : Nat) (r : Option Req) (s : State) : State := putStn id { stn id s with retire := some r } s

/-- STATION_RETIRE (R357). -/
def stationRetire (r : Req) (id : Nat) (s : State) : State :=
  if refusesPairOp s then finish r 0x81 0 s
  else if !inGroup r id s then finish r 0x16 0 s
  else if (stn id s).state = .retired then complete r 0x00 0 4 [] s
  else if !duplex s || s.dup.state == .single then setRetire id (some r) s
  else viaPeer r (.stationRetire id) 4 (fun s => s) s

def execStationRetire (r : Req) (s : State) := run (inlineOp r 0x0610 4 (fun b => stationRetire r (leAt b 0 2))) s

/-- STATION_REINSTATE applied (R340). -/
def applyReinstate (id : Nat) (s : State) : State :=
  if (stn id s).state = .retired ∧ (stnDecl id s).isSome then setSess id .dormant s else s

/-- STATION_REINSTATE (R357). -/
def stationReinstate (r : Req) (id : Nat) (s : State) : State :=
  if refusesPairOp s then finish r 0x81 0 s
  else if !inGroup r id s then finish r 0x16 0 s
  else if (stn id s).state ≠ .retired ∨ (stnDecl id s).isNone then finish r 0x19 1 s
  else viaPeer r (.stationReinstate id) 4 (applyReinstate id) s

def execStationReinstate (r : Req) (s : State) := run (inlineOp r 0x0611 4 (fun b => stationReinstate r (leAt b 0 2))) s

/-- STATION_QUERY (R357): on the receiving module only, with DIAG in the next round's READ_REQ. -/
def stationQuery (r : Req) (id : Nat) (s : State) : State :=
  let x := stn id s
  if !inGroup r id s then finish r 0x16 0 s
  else if x.state ≠ .active ∧ x.state ≠ .suspect then finish r 0x71 0 s
  else putStn id { x with query := x.query ++ [r] } s

/-- STATION_QUERY (R357): PARAM 00h STATION, and a buffer of at least 64 bytes. -/
def execStationQuery (r : Req) (s : State) :=
  run (withOp r [0x0612] none (fun d _ => if descInl d || decide (d.length < 64) then finish r 0x12 0 else stationQuery r (leAt d.param 0 2))) s

end Sys2Proof.Machine
end

