-- ==== Sys2Proof/Machine/ChuBase.lean ====
section
/-!
DEFINITION. The churn's patterns, its contexts and the end of a job (R189 to R220).
-/
namespace Sys2Proof.Machine

/-! ## Patterns -/

/-- The patterns of slots 12 to 15. -/
def hostPats (t : Tbl PatSlot) : Tbl PatSlot := t.filter (fun e => decide (12 ≤ e.1))

/-- A model becomes current: its bank, with the slots that host software loaded (R198). -/
def usePats (m : ModelImage) (s : State) : State :=
  { s with chu := { s.chu with pats := builtPats s.cfg.watch m ++ hostPats s.chu.pats, idle := [], building := false } }

/-- A pattern slot that a job may name (R203, R220). -/
def patAt (slot : Nat) (s : State) : Option PatSlot :=
  if s.chu.building && decide (slot < 12) then none else tget s.chu.pats slot

/-- The jobs that the churn holds. -/
def chuJobs (s : State) : List Job := s.chu.f.toList ++ s.chu.r0.toList ++ s.chu.rh.toList ++ s.chu.queue

/-- Whether a job is using a slot. -/
def patBusy (slot : Nat) (s : State) : Bool := (chuJobs s).any (fun j => j.slot == slot)

/-- PAT_INFO of CHU_PAT[n] (R226). -/
def patInfo (slot : Nat) (s : State) : Word :=
  match tget s.chu.pats slot with
  | none => 0
  | some p =>
    let st := if s.chu.building && decide (slot < 12) then 3 else if patBusy slot s then 2 else 1
    BitVec.ofNat 32 (st <<< 30 ||| (if p.kindQp then 2 else 1) <<< 28 ||| b2n p.freeStand <<< 27 ||| p.rows % 2 ^ 17)

/-- PAT_PANEL of CHU_PAT[n] (R226). -/
def patPanel (slot : Nat) (s : State) : Word :=
  match tget s.chu.pats slot with
  | none => 0
  | some p => BitVec.ofNat 32 ((p.body.panels.length % 65536) <<< 16 ||| min (p.longestNs / 10) 0xFFFF)

/-! ## Contexts -/

/-- The job of a context. -/
def ctxJob (c : Ctx) (s : State) : Option Job :=
  match c with | .f => s.chu.f | .r0 => s.chu.r0 | .rh => s.chu.rh

/-- A context's job replaced. -/
def putCtx (c : Ctx) (j : Option Job) (s : State) : State :=
  match c with
  | .f => { s with chu := { s.chu with f := j } }
  | .r0 => { s with chu := { s.chu with r0 := j } }
  | .rh => { s with chu := { s.chu with rh := j } }

/-- The pair of a job. -/
def jobPair (j : Job) : Nat := match j.req with | some r => r.pair | none => 0xF

/-- The job of pairs 1, 2 and 3 that RH takes next, in round-robin order (R194). -/
def nextRh (s : State) : Option Job :=
  let at_ := fun p => s.chu.queue.find? (fun j => jobPair j == p)
  let l := s.chu.lastPair % 3
  let order := [l % 3 + 1, (l + 1) % 3 + 1, (l + 2) % 3 + 1]
  order.findSome? at_

/-- The queue without the first job that equals j. -/
def dropJob (j : Job) (q : List Job) : List Job := q.erase j

/-- R0 takes the first job of pair 0 when it holds none (R194). -/
def fillR0 (s : State) : State :=
  if s.chu.r0.isSome then s
  else
    match s.chu.queue.find? (fun j => jobPair j == 0) with
    | none => s
    | some j => { s with chu := { s.chu with r0 := some j, queue := dropJob j s.chu.queue } }

/-- Whether a context's job has begun. -/
def begun (c : Ctx) (s : State) : Bool := match ctxJob c s with | some j => j.begun | none => false

/-- The context that computes next (R194): F, then R0 unless a begun RH job holds it off, then RH. -/
def chooseCtx (s : State) : Option Ctx :=
  if s.chu.f.isSome then some .f
  else if s.chu.r0.isSome && (getB 0x10000 1 s || !begun .rh s) then some .r0
  else if s.chu.rh.isSome then some .rh
  else none

/-- A context computes: its job resumes and counts a resumption (R196). -/
def resumeCtx (c : Ctx) (s : State) : State :=
  match ctxJob c s with
  | some j =>
    if j.begun && j.parked then pmcAdd 0x14 1 (incReg 0x10028 1 (putCtx c (some { j with parked := false, preempts := j.preempts + 1 }) s)) else s
  | none => s

/-- A begun job that does not compute is parked (R196). -/
def parkCtx (keep : Option Ctx) (s : State) (c : Ctx) : State :=
  match ctxJob c s with
  | some j => if some c != keep && j.begun && !j.parked then putCtx c (some { j with parked := true }) s else s
  | none => s

/-! ## Checks of a job -/

/-- A length padded to a multiple of 8 bytes (R202). -/
def pad8 (n : Nat) : Nat := (n + 7) / 8 * 8

/-- Whether a role is that of a key section (R202). -/
def keyRole (r : Nat) : Bool := r == 0x09 || r == 0x0D

/-- Whether a role is that of a warm value section (R202). -/
def warmRole (r : Nat) : Bool := r == 0x0A || r == 0x0B || r == 0x0C || r == 0x0E

/-- Bytes of a section with its header (R202). -/
def sectionSize (x : JobSection) : Nat := 16 + (if keyRole x.role then 8 * x.count else pad8 (4 * x.count))

/-- The bytes of a section (R202). -/
def sectionBytes (x : JobSection) : Bytes :=
  let data := if keyRole x.role then x.keys.flatMap (le 8) else x.vals.flatMap (leS 4)
  le 1 x.role ++ zeros 1 ++ le 2 x.blockId ++ leS 1 x.exp ++ zeros 3 ++ le 4 x.count ++ zeros 4 ++ data ++ zeros (pad8 data.length - data.length)

/-- The section at an offset of an input buffer (R202). -/
def sectionAt (b : Bytes) (off : Nat) : JobSection :=
  let role := leAt b off 1
  let n := leAt b (off + 8) 4
  { role := role, blockId := leAt b (off + 2) 2, exp := leSAt b (off + 4) 1, count := n,
    vals := if keyRole role then [] else (List.range n).map (fun i => leSAt b (off + 16 + 4 * i) 4),
    keys := if keyRole role then (List.range n).map (fun i => leAt b (off + 16 + 8 * i) 8) else [] }

/-- The sections of an input buffer that lie within it, and where the rest begins (R202); an unknown ROLE ends the walk. -/
def readSections : Nat → Bytes → Nat → List JobSection × Nat
  | 0, _, off => ([], off)
  | k + 1, b, off =>
    if b.length < off + 16 then ([], off)
    else
      let size := 16 + (if keyRole (leAt b off 1) then 8 * leAt b (off + 8) 4 else pad8 (4 * leAt b (off + 8) 4))
      if b.length < off + size then ([], off)
      else
        let r := readSections k b (off + size)
        (sectionAt b off :: r.1, r.2)

/-- The roles of a kind's value sections (R202). -/
def valueRoles (qp : Bool) : List Nat := if qp then [0x03, 0x04, 0x05, 0x06, 0x07, 0x08] else [0x01, 0x02]

/-- Whether a list of mantissas holds the marker of R190. -/
def hasMarker (l : List Int) : Bool := l.any (fun m => m == bsMarker)

/-- Whether a value section is malformed against the exponent table (R203 check 4). -/
def valueBad (p : PatSlot) (seen : List Nat) (x : JobSection) : Bool :=
  match p.body.blocks[x.blockId]? with
  | none => true
  | some b => b.role != x.role || b.exp != x.exp || b.count != x.count || seen.contains x.blockId ||
      (hasMarker x.vals && x.role != 0x07 && x.role != 0x08)

/-- Where a key stands among a pattern's keys. -/
def keyIndex (l : List Nat) (k : Nat) : Option Nat := l.findIdx? (· == k)

/-- Whether EXP of a warm value section is that of the block to which each of its keys maps (R202): role 0Ah goes to the blocks of x, 0Bh and 0Ch to
those of the bound duals, 0Eh to those of y. Keys of another lineage map nowhere (R214). -/
def warmExpOk (p : PatSlot) (maps : Bool) (keys : List Nat) (x : JobSection) : Bool :=
  let role := if x.role = 0x0A then 0x10 else if x.role = 0x0B then 0x12 else if x.role = 0x0C then 0x13 else 0x11
  let own := if x.role = 0x0E then p.body.conKeys else p.body.keys
  !maps || keys.all (fun k => match keyIndex own k with | some i => (elemAt (roleElems p role) i).1 == x.exp | none => true)

/-- The key section that warm value sections follow: its role, its keys, and the roles seen since. -/
structure KeyRun where
  role  : Nat
  keys  : List Nat
  roles : List Nat

/-- Whether a warm value section is malformed (R202, R203). -/
def warmBad (p : PatSlot) (maps : Bool) (last : Option KeyRun) (x : JobSection) : Bool :=
  !p.kindQp || x.blockId != 0xFFFF || hasMarker x.vals ||
    (match last with
     | none => true
     | some k => k.keys.length != x.count || (k.role == 0x0D) != (x.role == 0x0E) || k.roles.contains x.role || !warmExpOk p maps k.keys x)

/-- Whether a key section lacks the value section that it requires (R202). -/
def keysOwe (last : Option KeyRun) : Bool :=
  match last with | none => false | some k => !k.roles.contains (if k.role = 0x09 then 0x0A else 0x0E)

/-- The walk of check 4 (R203) over the sections of a buffer of `len` bytes, of which those before `rest` could be read: the offset of the first
malformed section, if any. A required section that is missing is reported at the end of the data. -/
def walkSections (p : PatSlot) (maps : Bool) (len rest : Nat) : Nat → List Nat → Option KeyRun → List JobSection → Option Nat
  | off, seen, last, [] =>
    let need := (List.range p.body.blocks.length).filter (fun i => match p.body.blocks[i]? with
      | some b => (valueRoles p.kindQp).contains b.role
      | none => false)
    if rest < len then some rest else if keysOwe last || need.any (fun i => !seen.contains i) then some off else none
  | off, seen, last, x :: xs =>
    let next := off + sectionSize x
    if (valueRoles p.kindQp).contains x.role then
      if valueBad p seen x || keysOwe last then some off else walkSections p maps len rest next (x.blockId :: seen) none xs
    else if keyRole x.role then
      if !p.kindQp || x.blockId != 0xFFFF || x.exp != 0 || keysOwe last then some off
      else walkSections p maps len rest next seen (some ⟨x.role, x.keys, []⟩) xs
    else if warmRole x.role then
      if warmBad p maps last x then some off
      else walkSections p maps len rest next seen (last.map (fun k => { k with roles := x.role :: k.roles })) xs
    else some off

/-- The PARAM of a job (R201) with the DEADLINE and the LENGTH of its descriptor. -/
def jobParam (d : Desc) : JobParam :=
  { structSig := BitVec.ofNat 64 (leAt d.param 0 8), pattern := leAt d.param 8 1, jflags := leAt d.param 9 1, maxIter := leAt d.param 0xA 1,
    epsExp := leAt d.param 0xB 1, outLen := leAt d.param 0xC 4, outAddr := leAt d.param 0x10 8, warmLineage := leAt d.param 0x18 8,
    deadline := d.deadline, length := d.length }

/-- Whether a job takes its limits from CHU_JOBCFG (R201): reserved bits of JFLAGS are ignored (R96). -/
def useCfg (j : JobParam) : Bool := j.jflags % 2 == 1

/-- Check 3 of R203: the offset of the first PARAM field outside its range (R201). REFINE of a KKT_SOLVE is bits 1:0 of byte 0Ah, and no value of it
is outside its range. -/
def paramBad (qp : Bool) (j : JobParam) : Option Nat :=
  if !useCfg j && qp && !within j.maxIter 1 63 then some 0x0A
  else if !useCfg j && (if qp then !within j.epsExp 10 24 else j.epsExp != 0) then some 0x0B
  else if j.outLen < 64 then some 0x0C
  else if j.outAddr % 8 ≠ 0 then some 0x10
  else if !qp && j.warmLineage != 0 then some 0x18
  else none

/-- Checks 1 and 2 of R203, which a job passes again when it starts (R134): the status and the DETAIL that decide, if any. -/
def slotRefused (qp : Bool) (slot : Nat) (sig : BitVec 64) (s : State) : Option (Nat × Nat) :=
  match (if slot < 16 then patAt slot s else none) with
  | none => some (0x16, 0x08)
  | some p =>
    if p.kindQp != qp then some (0x16, 0x08)
    else if sig ≠ p.structSig ∨ (12 ≤ slot ∧ !p.freeStand ∧ sig ≠ (modelSigs s).1) then some (0x25, 0)
    else none

/-- The checks of R203 over a job and its input: the status and the DETAIL that decide, if any. -/
def jobCheck (qp : Bool) (j : JobParam) (secs : List JobSection) (rest : Nat) (s : State) : Option (Nat × Nat) :=
  match slotRefused qp j.pattern j.structSig s with
  | some x => some x
  | none =>
    match paramBad qp j with
    | some o => some (0x16, o)
    | none =>
      match patAt j.pattern s with
      | none => some (0x16, 0x08)
      | some p =>
        match walkSections p (j.warmLineage == p.lineage) j.length rest 0 [] none secs with
        | some o => some (0x16, 0x80000000 + o)
        | none => none

/-! ## Warm start -/

/-- A warm value that maps: the first occurrence of its key (R214). -/
structure WarmMap where
  seen    : List Nat
  found   : List (Nat × Nat × Int)
  dropped : Nat

/-- The keys of one key section with the value sections that follow it (R214): `own` are the pattern's keys; `found` gives the role, the index and the
mantissa of each value that maps. -/
def mapRun (own : List Nat) (maps : Bool) (keys : List Nat) (vals : List (Nat × List Int)) (w : WarmMap) : WarmMap :=
  (List.range keys.length).foldl (fun w i =>
    let k := keys.getD i 0
    match (if maps && !w.seen.contains k then keyIndex own k else none) with
    | none => { w with dropped := w.dropped + 1 }
    | some n => { w with seen := k :: w.seen, found := vals.map (fun v => (v.1, n, v.2.getD i 0)) ++ w.found }) w

/-- The warm value sections that follow a key section. -/
def runVals : List JobSection → List (Nat × List Int)
  | [] => []
  | x :: xs => if warmRole x.role then (x.role, x.vals) :: runVals xs else []

/-- What the warm sections of a job map (R214). -/
def mapWarm (p : PatSlot) (maps : Bool) : List JobSection → WarmMap → WarmMap
  | [], w => w
  | x :: xs, w =>
    if keyRole x.role then mapWarm p maps xs (mapRun (if x.role = 0x09 then p.body.keys else p.body.conKeys) maps x.keys (runVals xs) w)
    else mapWarm p maps xs w

/-- The value of a role that the warm start maps to an index, if any. -/
def WarmMap.at_ (w : WarmMap) (role i : Nat) : Option Int := (w.found.find? (fun f => f.1 == role && f.2.1 == i)).map (·.2.2)

/-! ## Starting a job -/

/-- A job that starts (R196 to R198, R214, R221): it holds its pattern, and CHU_JOBCFG and CHU_PIVCFG act as they stand. A KKT_SOLVE begins with its
first panel, a QP_SOLVE by forming iterate 0. -/
def startJob (j : Job) (s : State) : Job :=
  match j.param, patAt j.slot s with
  | some a, some p =>
    let maps := a.warmLineage == p.lineage
    let has := j.input.any (fun x => x.role == 0x09)
    let w := mapWarm p maps j.input ⟨[], [], 0⟩
    let n := ((w.found.filter (fun f => f.1 == 0x0A)).length)
    let cfg := useCfg a
    { j with begun := true, start := s.tim.mon, pat := some p, patSig := p.patSig, piv := getReg 0x10008 s,
             refine := if j.qp || cfg then getF 0x10004 1 0 s else a.maxIter % 4, maxIter := if cfg then getF 0x10004 13 8 s else a.maxIter,
             epsExp := if cfg then getF 0x10004 23 16 s else a.epsExp, stage := if j.qp then .forming else .factor,
             mapped := n, cold := if j.qp then p.nVars - n else 0, dropped := w.dropped, lineDiff := has && !maps }
  | _, _ => { j with begun := true, start := s.tim.mon }

/-- The job that a context is to begin with, taken from its place. -/
def takeJob (s : State) : State :=
  let s := fillR0 s
  if s.chu.f.isNone && s.chu.r0.isNone && s.chu.rh.isNone then
    match nextRh s with
    | some j => { s with chu := { s.chu with rh := some j, queue := dropJob j s.chu.queue, lastPair := jobPair j } }
    | none => s
  else s

/-- The end of the firmware's job before it has begun, which dispatch takes (R86, R243). -/
def noteUnbegun (j : Job) (status : Nat) (s : State) : State :=
  if jobPair j = 0 ∧ ownedInside 0 s then
    let e : SolveEnd := { slot := (match j.req with | some r => r.slot | none => 0), status := status, case := 0, point := none, plan := [],
                          merit := 0xFFFFFFFF, objective := 0, iters := 0, cold := 0, warm := none }
    { s with chu := { s.chu with ends := s.chu.ends ++ [e] } }
  else s

/-- The choice of R194, made at every panel boundary and whenever no context computes. A job that does not match its pattern when it is to start ends
with its status, and the choice is made again (R134). -/
def arbitrateFor : Nat → State → State
  | 0, s => s
  | n + 1, s =>
    let s := takeJob s
    let c := chooseCtx s
    let s := [Ctx.f, Ctx.r0, Ctx.rh].foldl (parkCtx c) { s with chu := { s.chu with comp := c } }
    match c with
    | none => s
    | some c =>
      match ctxJob c s with
      | none => s
      | some j =>
        if j.begun then resumeCtx c s
        else
          match (match j.param with | some a => slotRefused j.qp a.pattern a.structSig s | none => none) with
          | none => putCtx c (some (startJob j s)) s
          | some x =>
            let s := noteUnbegun j x.1 (putCtx c none { s with chu := { s.chu with comp := none } })
            arbitrateFor n (match j.req with | some r => finish r x.1 x.2 s | none => s)

/-- The choice of R194. -/
def arbitrate (s : State) : State := arbitrateFor (s.chu.queue.length + 4) s

/-- The context that computes; none does during a block reset of CHU (R68). -/
def computing (s : State) : Option Ctx := if s.start.blkRst.contains .chu then none else s.chu.comp

/-- The choice made when a job arrives and no context computes. -/
def arbitrateIdle (s : State) : State := if s.chu.comp.isNone then arbitrate s else s

/-! ## Fast-port jobs -/

/-- A fast-port submission (R218): none where the churn takes it, otherwise the status with which it refuses. -/
def fastSubmit (slot deadline : Nat) (input : PatSlot → List JobSection) (s : State) : State × Option Nat :=
  if s.start.blkRst.contains .chu then (s, some 0xF0)
  else if s.chu.f.isSome then (s, some 0x17)
  else
    match patAt slot s with
    | none => (s, some 0x16)
    | some p =>
      if p.structSig ≠ (modelSigs s).1 then (s, some 0x25)
      else
        let j : Job := { req := none, qp := false, slot := slot, patSig := p.patSig, deadline := deadline, refine := getF 0x10004 1 0 s, stage := .factor,
                         pat := some p, piv := getReg 0x10008 s, input := input p }
        (arbitrateIdle { s with chu := { s.chu with f := some j } }, none)

/-- The counters of a job that ends (R221). -/
def countJob (status : Nat) (s : State) : State :=
  let s := pmcAdd 0x15 1 (incReg 0x10024 1 s)
  let s := if status = 0x23 then pmcAdd 0x17 1 (incReg 0x1002C 1 s) else s
  if status = 0x20 ∨ status = 0x21 then pmcAdd 0x18 1 (incReg 0x10034 1 s) else s

/-- The status of a fast-port job that ran to its end (R219). -/
def fastStatus (j : Job) : Nat := if j.regPivots ≠ 0 then 0x22 else 0x00

/-- The fast-port job leaves its context. -/
def fastEnd (status : Nat) (s : State) : State :=
  arbitrate { countJob status s with chu := { (countJob status s).chu with f := none, comp := none } }

/-! ## The end of a ring job -/

/-- φ of a point (R210). -/
def merit (p : IterPoint) : Nat := max p.rp (max p.rd p.gap)

end Sys2Proof.Machine
end

