-- ==== Sys2Proof/Machine/Image.lean ====
section
/-!
DEFINITION. The I/O image: its layout, the publication of its areas and their quality (R369 to R375).
-/
namespace Sys2Proof.Machine

/-- The first word of the input area that holds an index (R369); an internal word is its own area. -/
def areaOf (i : Nat) : Nat :=
  if i < 0x400 then 0
  else if i < 0x1400 then i / 16 * 16
  else if 0x2000 ≤ i ∧ i < 0x2400 then i / 4 * 4
  else if 0x10000 ≤ i ∧ i < 0x30000 then i / 32 * 32
  else i

/-- The input area of a CAN node (R369). -/
def canArea (ch node : Nat) : Nat := 0x400 + ch * 0x400 + node * 0x10
/-- The input area of a plant channel (R369). -/
def plantIn (u : Nat) : Nat := 0x2000 + u * 4
/-- The output area of a plant channel (R369). -/
def plantOut (u : Nat) : Nat := 0x2000 + u * 0x10
/-- The input area of a station (R369). -/
def stnIn (id : Nat) : Nat := 0x10000 + id * 0x20
/-- The output area of a station (R369). -/
def stnOut (id : Nat) : Nat := 0x10000 + id * 0x10

/-- Whether an input index is one of the layout's (R369). -/
def inIndexOk (i : Nat) : Bool :=
  i == 0 || within i 0x10 0x2F || within i 0x400 0x13FF || within i 0x2000 0x23FF || within i 0x8000 0xBFFF || within i 0x10000 0x2FFFF

/-- Whether an output index is one of the layout's (R369). -/
def outIndexOk (i : Nat) : Bool :=
  i == 0 || within i 0x400 0x13FF || within i 0x2000 0x2FFF || within i 0x8000 0xBFFF || within i 0x10000 0x1FFFF

/-- A word of the input image; indices not listed read 0. -/
def inWord (i : Nat) (s : State) : Word := tgetD s.cyc.inp i 0
/-- A word of the output image. -/
def outWord (i : Nat) (s : State) : Word := tgetD s.cyc.outw i 0

/-- A table of words with one word set; a word of 0 is not listed. -/
def putWord (t : Tbl Word) (i : Nat) (w : Word) : Tbl Word := if w = 0 then tdel t i else tput t i w

/-- An input word takes a value. -/
def setIn (i : Nat) (w : Word) (s : State) : State := { s with cyc := { s.cyc with inp := putWord s.cyc.inp i w } }
/-- An output word takes a value. -/
def setOut (i : Nat) (w : Word) (s : State) : State := { s with cyc := { s.cyc with outw := putWord s.cyc.outw i w } }

/-- An input area is published as one unit with the MON time of its source values (R373, R374). -/
def publishArea (base stamp : Nat) (ws : List Word) (s : State) : State :=
  let s := (List.range ws.length).foldl (fun s i => setIn (base + i) (ws.getD i 0) s) s
  { s with cyc := { s.cyc with stamps := tput s.cyc.stamps base stamp } }

/-- The MON time of an area's values, none before its first publication. -/
def areaStamp (i : Nat) (s : State) : Option Nat := tget s.cyc.stamps (areaOf i)

/-- STALE_MS of an area (R374). -/
def staleMs (i : Nat) (s : State) : Nat := tgetD s.cfg.staleMs (areaOf i) 2000

/-- Quality of an input word (R374). -/
inductive Quality where
  | good | stale | invalid
deriving DecidableEq, Repr

/-- Whether the source of an area counts as INVALID (R374): a station without an ACTIVE or SUSPECT session, a CAN node that is silent or
whose channel is in bus-off, or a missing DIO group supply. -/
def areaInvalid (i : Nat) (s : State) : Bool :=
  if 0x10000 ≤ i ∧ i < 0x30000 then
    let x := stn ((i - 0x10000) / 0x20) s
    !(x.state == .active || x.state == .suspect)
  else if 0x400 ≤ i ∧ i < 0x1400 then
    let ch := (i - 0x400) / 0x400
    let per := tgetD s.cfg.nodePeriod (areaOf i) 0
    getF (0x38804 + 0x40 * ch) 31 30 s == 2 ||
      (match areaStamp i s with | some t => decide (per ≠ 0 ∧ t + 3 * per * 1000000 < s.tim.mon) | none => true)
  else if i < 0x100 then getB 0x38008 28 s || getB 0x38008 29 s
  else false

/-- Quality of an input word at this moment (R374). -/
def quality (i : Nat) (s : State) : Quality :=
  if areaInvalid i s then .invalid
  else
    match areaStamp i s with
    | none => if within i 0x8000 0xBFFF then .good else .stale
    | some t => if t + staleMs i s * 1000000 < s.tim.mon then .stale else .good

end Sys2Proof.Machine
end

