-- ==== Sys2Proof/Machine/Sep.lean ====
section
/-!
DEFINITION. The separator: the Newton solution, the weighted-least-squares estimate, bad data, port temperatures and the round's outcome
(R137 to R163). Pressures and flows are held in 1/256 Pa and 1/256 L/h; the churn brings the steps (log entry 7).
-/
namespace Sys2Proof.Machine

/-! ## Elements -/

/-- The estimate age (R21, R151); none counts as above 10. -/
def estAge (s : State) : Option Nat :=
  if s.sep.fresh then s.sep.est.map (fun e => s.rnd.number - e.round) else none

/-- The state of a network of the curd tracker (R177): 0 VALID, 1 AGED, 2 INVALID. -/
def ctrNet (n : Nat) (s : State) : Nat := s.ctr.netState.getD n 2

/-- The mean temperature of the curds of a pipe in mK. -/
def meanTemp (l : List Curd) : Option Int :=
  let v : Nat := (l.map (·.vol)).foldl (· + ·) 0
  if v = 0 then none else some ((l.map (fun c => c.temp * (c.vol : Int))).foldl (· + ·) 0 / (v : Int) / 1024)

/-- The midpoint of a network's declared temperature range (R139). -/
def netMid (m : ModelImage) (n : Nat) : Int :=
  match m.networks[n]? with | some d => (d.tLo + d.tHi) / 2 | none => 0

/-- The branch temperature of R139. -/
def branchTemp (m : ModelImage) (b : Branch) (s : State) : Int :=
  if ctrNet b.net s = 0 then (meanTemp (tgetD s.ctr.curds b.mid [])).getD (netMid m b.net) else netMid m b.net

/-- Whether a branch acts as a check valve (R140). -/
def isCheck (b : Branch) : Bool := b.kind == .checkValve || pumped b

/-- π² and π as the separator holds them. -/
def piR : Rat := 3141592653589793 / 1000000000000000

/-- The flow in L/h at a Reynolds number, for an inner diameter in 0.1 mm and a kinematic viscosity in 2^-10 mm²/s: q = Re·π·D·ν/4. -/
def flowAtRe (re : Rat) (diam visc : Nat) : Rat := re * piR * ((diam : Rat) / 10000) * ((visc : Rat) / 1024 / 1000000) / 4 * 3600000

/-- The friction factor of the Swamee–Jain relation (R139) from the roughness in µm, the diameter in 0.1 mm and the Reynolds number in 2^-8. -/
def swameeJain (rough diam re : Nat) : Rat :=
  let v : Rat := (rough : Rat) / (370 * (diam : Rat)) + (574 : Rat) * 256 / (100 * (max 1 (Config.pow09 re) : Nat))
  let l : Rat := (Config.log10 v.num.natAbs v.den : Rat) / pow2 32
  1 / (4 * (l * l))

/-- r = f·8·ρ·L / (π²·D⁵) of a pipe (R140) in Pa/(L/h)², from the density in g/m³, the length in mm and the diameter in 0.1 mm. -/
def pipeCoef (f : Rat) (rho len diam : Nat) : Rat :=
  let d : Rat := (diam : Rat) / 10000
  f * 8 * ((rho : Rat) / 1000) * ((len : Rat) / 1000) / (piR * piR * (d * d * d * d * d)) / (3600000 * 3600000)

/-- What the round fixes for a branch (R139, R140): the coefficient in 2^-40, the transition flow and the gravity term ρ·g·Δz. The Reynolds number of
the friction factor is that of the flow `q0` from which Newton starts, and at least 2,300 (DESIGN CHOICE, log entry 92). -/
def fixBranch (m : ModelImage) (s : State) (b : Branch) (q0 : Int) : BranchFix :=
  let t := branchTemp m b s
  let z := fun mid => match m.nodes[nodeIdx m mid]? with | some n => n.elevMm | none => 0
  let rho := Config.density t
  let visc := Config.viscosity t
  let grav := (rho : Int) * 980665 * (z b.fromN - z b.toN) * 256 / 100000000000
  let one := flowAtRe 1 b.diam visc
  let re := max (2300 * 256) (((q0.natAbs : Rat) / one).floor.toNat)
  let r := match b.kind with
    | .pipe => (pipeCoef (swameeJain b.rough b.diam re) rho b.lengthMm b.diam * pow2 40).floor.toNat
    | _ => (b.coef.getD 0 0).toNat
  { r := r, qt := (flowAtRe 2300 b.diam visc * 256).floor.toNat, grav := grav }

/-- The flow coefficient Kv of a valve at a position in 1/256 of 0.1 % (R140), in 1/256 L/h and at least 1. -/
def valveKv (b : Branch) (pos : Int) : Nat :=
  let kvs := (b.coef.getD 0 0).toNat
  let k := if b.coef.getD 1 0 = 0 then kvs * pos.toNat / 1000
    else kvs * 256 * Config.eqPercent (b.coef.getD 2 0).toNat pos.toNat / 65536
  max 1 k

/-- A square law that is linear below a transition (R140): the magnitude of the flow that multiplies the flow. -/
def lawFlow (q : Int) (qt : Nat) : Int := max q.natAbs qt

/-- q_v of a valve (R140): 2 % of Kvs, in 1/256 L/h. -/
def valveQv (b : Branch) : Nat := (b.coef.getD 0 0).toNat * 256 / 50

/-- Δp(q) in 1/256 Pa (R140), at a flow in 1/256 L/h and a setting in 1/256 of 0.1 %. -/
def deltaP (b : Branch) (f : BranchFix) (q set : Int) : Int :=
  match b.kind with
  | .pipe | .resistance | .checkValve => (f.r : Int) * q * lawFlow q f.qt / 2 ^ 48
  | .valve =>
    let kv := valveKv b set
    25600000 * q * lawFlow q (valveQv b) / ((kv : Int) * kv)
  | .pump | .plant =>
    -(b.coef.getD 0 0 * set * set / (256 * 1000000) + b.coef.getD 1 0 * set * q / (256000 * 2 ^ 20) + b.coef.getD 2 0 * q * q / 2 ^ 48)
  | .station | .store => 0

/-- The slope of a square law that is linear below a transition. -/
def lawSlope (q : Int) (qt : Nat) : Int := if q.natAbs < qt then (qt : Int) else 2 * q.natAbs

/-- dΔp/dq in Pa per L/h (R141). -/
def slopeQ (b : Branch) (f : BranchFix) (q set : Int) : Rat :=
  match b.kind with
  | .pipe | .resistance | .checkValve => (f.r : Rat) * (lawSlope q f.qt : Rat) / (256 * pow2 40)
  | .valve => let kv := valveKv b set; 25600000 * (lawSlope q (valveQv b) : Rat) / ((kv : Rat) * (kv : Rat))
  | .pump | .plant => -(((b.coef.getD 1 0 * set : Int) : Rat) / (256000 * pow2 20) + ((2 * b.coef.getD 2 0 * q : Int) : Rat) / (256 * pow2 40))
  | .station | .store => 0

/-- dΔp/ds or dΔp/dx in Pa per 0.1 % (R144): of a valve as the difference over the next 0.1 %. -/
def slopeS (b : Branch) (f : BranchFix) (q set : Int) : Rat :=
  match b.kind with
  | .valve => ((deltaP b f q (set + 256) - deltaP b f q set : Int) : Rat) / 256
  | .pump | .plant => -(((2 * b.coef.getD 0 0 * set : Int) : Rat) / (256 * 1000000) + ((b.coef.getD 1 0 * q : Int) : Rat) / (256000 * pow2 20))
  | _ => 0

/-! ## Residuals -/

/-- The pressure at a node of a point. -/
def pAt (m : ModelImage) (p : List Int) (mid : Nat) : Int := p.getD (nodeIdx m mid) 0

/-- Whether a branch is shut, or gives way to a boundary flow: its equation does not stand in this iteration (R138, R140). -/
def fixedFlow (w : SepWork) (i : Nat) : Bool := (w.shut.getD i (false, 0)).1 || w.held.getD i false

/-- The branch residuals of a point (R141), for the branches that have an equation and are not shut. -/
def branchRes (m : ModelImage) (w : SepWork) (q p : List Int) : List Int :=
  m.branches.mapIdx (fun i b =>
    if !hasEq b || fixedFlow w i then 0
    else
      let f := w.fixed.getD i ⟨0, 0, 0⟩
      pAt m p b.fromN - pAt m p b.toN + f.grav - deltaP b f (q.getD i 0) (w.set.getD i 0))

/-- The mass imbalance of every node but the pressure references (R141). -/
def nodeRes (m : ModelImage) (q : List Int) : List Int :=
  m.nodes.map (fun n =>
    if n.reference then 0
    else
      let fl := m.branches.mapIdx (fun i b =>
        (if b.toN = n.mid then q.getD i 0 else 0) - (if b.fromN = n.mid then q.getD i 0 else 0))
      fl.foldl (· + ·) 0)

/-- The largest magnitude of a list. -/
def maxAbs (l : List Int) : Nat := (l.map (·.natAbs)).foldl max 0

/-- The scaled residual (R141) as a number to compare: the larger of imbalance × PTOL and residual × QTOL. -/
def scaled (m : ModelImage) (w : SepWork) (q p : List Int) : Nat :=
  max (maxAbs (nodeRes m q) * w.ptol) (maxAbs (branchRes m w q p) * w.qtol)

/-- The flows of shut branches are 0 (R140). -/
def shutFlows (shut : List (Bool × Nat)) (q : List Int) : List Int := q.mapIdx (fun i x => if (shut.getD i (false, 0)).1 then 0 else x)

/-- A trial step of 2^-h (R141): branches without an equation keep their boundary flow and references their pressure. -/
def trial (w : SepWork) (h : Nat) : List Int × List Int :=
  (w.q.mapIdx (fun i x => x + tgetD w.stepQ i 0 / 2 ^ h), w.p.mapIdx (fun i x => x + tgetD w.stepP i 0 / 2 ^ h))

/-- The step taken (R141): the full step if it lowers the scaled residual, otherwise the best of it and three halvings; and whether any
lowered it. -/
def newtonStep (m : ModelImage) (w : SepWork) : SepWork :=
  let now := scaled m w w.q w.p
  let at_ := fun h => let t := trial w h; (t, scaled m w t.1 t.2)
  let full := at_ 0
  let pick := if full.2 < now then full
    else [at_ 1, at_ 2, at_ 3].foldl (fun a b => if b.2 < a.2 then b else a) full
  { w with q := pick.1.1, p := pick.1.2, iters := w.iters + 1, noDescent := if pick.2 < now then 0 else w.noDescent + 1,
           resQ := maxAbs (nodeRes m pick.1.1), resP := maxAbs (branchRes m w pick.1.1 pick.1.2), stepQ := [], stepP := [] }

/-- The check valves and pumps at the start of an iteration (R140): shut when the pressures drive flow in the blocking direction, open when
they drive it forward, at most two changes in a round and shut from then on. A pump at speed 0 is shut. -/
def checkValves (m : ModelImage) (w : SepWork) : SepWork × Nat :=
  let next := m.branches.mapIdx (fun i b =>
    let st := w.shut.getD i (false, 0)
    if !isCheck b then (false, 0)
    else if pumped b && decide (w.set.getD i 0 ≤ 0) then (true, st.2)
    else if 2 ≤ st.2 then (true, st.2)
    else
      let f := w.fixed.getD i ⟨0, 0, 0⟩
      let d := pAt m w.p b.fromN - pAt m w.p b.toN + f.grav - (if pumped b then deltaP b f 0 (w.set.getD i 0) else 0)
      let drive := if b.blockPos && !pumped b then -d else d
      if drive < 0 && !st.1 then (true, st.2 + 1) else if 0 < drive && st.1 then (false, st.2 + 1) else st)
  let n := ((List.range next.length).filter (fun i => (next.getD i (false, 0)).1 != (w.shut.getD i (false, 0)).1)).length
  ({ w with shut := next, q := shutFlows next w.q }, n)

/-! ## The sum of R144 -/

/-- σ of a point (R145): the override in force, otherwise the model's. -/
def sigmaOf (mid q model : Nat) (s : State) : Nat :=
  match s.sep.sigmas.find? (fun e => e.1 == (mid, q)) with | some e => e.2 | none => model

/-- The reason with which R146 removes a point, 0 for none. A value that is both stale and out of range is removed as stale (DESIGN CHOICE, log
entry 93). -/
def reasonOf (mid q : Nat) (z lo hi : Int) (stale : Bool) (s : State) : Nat :=
  if s.sep.excl.contains (mid, q) then 4 else if stale then 2 else if z < lo ∨ hi < z then 1 else 0

/-- The value of a measurement point in the CYC image and whether it is stale or missing (R137). -/
def pointValue (mid : Nat) (s : State) : Int × Bool :=
  match tget s.cfg.measWord mid with
  | none => (0, true)
  | some i =>
    let old := match areaStamp i s with | some t => decide (t + 2000000000 < s.tim.mon) | none => true
    ((inWord i s).toInt, old)

/-- The term of a measurement point (R145, R146); temperatures are judged in R149. -/
def pointTerm (m : ModelImage) (s : State) (d : MeasDecl) : MeasIn :=
  let v := pointValue d.mid s
  let idx := if d.quantity = 1 ∨ d.quantity = 3 then nodeIdx m d.elem else branchIdx m d.elem
  { mid := d.mid, what := d.quantity, idx := idx, z := v.1, sigma := sigmaOf d.mid d.quantity d.sigma s, k := d.kRed, tested := true,
    point := true, reason := reasonOf d.mid d.quantity v.1 d.lo d.hi v.2 s, nres := 0 }

/-- The flow of a station's current samples in L/h (R138, R348), if it has a usable one: INVALID samples are left out and the rest scaled up (DESIGN
CHOICE, log entry 93). -/
def replyFlow (p : Reply) (sps : Nat) : Option Int :=
  let ok := p.cur.filter (fun c => !c.invalid)
  if ok.isEmpty then none
  else some ((ok.map (·.vol)).foldl (· + ·) 0 * (sps : Int) * 3600 / ((ok.length : Int) * 1000000))

/-- The branch that a station owns in its network (R120). -/
def stnBranch (m : ModelImage) (d : StationDecl) : Option Branch :=
  m.branches.find? (fun b => b.owner == stnMid d.ident && b.net == d.net)

/-- The temperature difference of R145 in mK: the last accepted supply-to-return difference, or the design difference. -/
def stnDt (m : ModelImage) (d : StationDecl) (s : State) : Int :=
  let dsg := match m.networks[d.net]? with | some n => n.designDt | none => 1
  match (stn d.ident s).lastDt with | some t => if t = 0 then dsg else t | none => dsg

/-- A power in W as a flow in L/h across a temperature difference in mK, with 1.163 kWh/(m³·K) (R145). -/
def heatFlow (w dt : Int) : Int := if dt = 0 then 0 else 1000000 * w / (1163 * dt)

/-- The forecast demand of a station for the current step in W (R145, R231). -/
def demandW (id : Nat) (s : State) : Int := tgetD s.disp.demand id 0

/-- The forecast flow of a station in L/h (R145). -/
def fcstFlow (m : ModelImage) (d : StationDecl) (s : State) : Int := heatFlow (demandW d.ident s) (stnDt m d s)

/-- The design flow of a station in L/h (R145). -/
def designFlow (m : ModelImage) (d : StationDecl) : Int :=
  heatFlow d.contractedW (match m.networks[d.net]? with | some n => n.designDt | none => 1)

/-- The declared pressures and temperatures of a node (R121). -/
def nodeRange (m : ModelImage) (mid : Nat) (temp : Bool) : Int × Int :=
  match m.nodes[nodeIdx m mid]? with | some n => if temp then (n.tLo, n.tHi) else (n.pLo, n.pHi) | none => (0, 0)

/-- The terms of a station (R138, R145): its report, or its forecast flow. A RETIRED station's flow of 0 takes the station's default σ, and a report
without a usable sample gives the forecast flow (DESIGN CHOICE, log entry 93). -/
def stnTerms (m : ModelImage) (s : State) (d : StationDecl) : List MeasIn :=
  match stnBranch m d with
  | none => []
  | some b =>
    let x := stn d.ident s
    let bi := branchIdx m b.mid
    let mid := stnMid d.ident
    let mk := fun (what idx : Nat) (z : Int) (sg k : Nat) (tested : Bool) (reason : Nat) => (⟨mid, what, idx, z, sg, k, tested, false, reason, 0⟩ : MeasIn)
    let fq := fcstFlow m d s
    let sg := max (fq.natAbs * getF 0x14010 23 16 s / 100) ((designFlow m d).natAbs * getF 0x14010 15 8 s / 100)
    let fc := mk 2 bi fq (max 1 sg) 256 false 0
    if x.state = .retired then [mk 2 bi 0 (max 1 d.sigFlow) 256 false 0]
    else
      match x.round.reply with
      | none => [fc]
      | some p =>
        let fl := match replyFlow p x.sps with
          | none => fc
          | some q => mk 2 bi q (sigmaOf mid 2 d.sigFlow s) d.kFlow true (reasonOf mid 2 q b.qLo b.qHi false s)
        let pr := fun (node k : Nat) (v : Option Int) => match v with
          | none => []
          | some z =>
            let r := nodeRange m node false
            [mk 1 (nodeIdx m node) z (sigmaOf mid 1 d.sigPress s) k true (reasonOf mid 1 z r.1 r.2 false s)]
        fl :: (pr b.fromN d.kWarm p.pWarm ++ pr b.toN d.kCool p.pCool)

/-- Whether a point of a quantity on an element stays in the sum. -/
def hasPoint (ms : List MeasIn) (what idx : Nat) : Bool := ms.any (fun t => t.point && t.what == what && t.idx == idx && t.reason == 0)

/-- Whether a unit's controller reports loss of communication (R138, R374): its area is INVALID, or its data are stale. -/
def commLoss (mid : Nat) (s : State) : Bool :=
  match tget s.cfg.unitChan mid with
  | none => false
  | some u => areaInvalid (plantIn u) s || (match areaStamp (plantIn u) s with | some t => decide (t + 2000000000 < s.tim.mon) | none => true)

/-- Whether a plant or store port is missing (R138): it has no fresh flow data, or its controller has lost communication. -/
def portMissing (pts : List MeasIn) (i : Nat) (b : Branch) (s : State) : Bool := !hasPoint pts 2 i || commLoss b.owner s

/-- Whether the last data of a unit reported it as running (R138, R371). -/
def unitRunning (mid : Nat) (s : State) : Bool :=
  match tget s.cfg.unitChan mid with | none => true | some u => bitAt (inWord (plantIn u + 2) s) 0

/-- The last dispatched set-point flow of a unit in L/h (R138): a plant's output, or a store's net power, as a flow across the design difference. -/
def setFlow (m : ModelImage) (b : Branch) (s : State) : Int :=
  if !unitRunning b.owner s then 0
  else heatFlow ((tgetD s.disp.setW b.owner []).getD 0 0) (match m.networks[b.net]? with | some n => n.designDt | none => 1)

/-- The terms of a missing plant or store branch, and of an actuator without fresh feedback (R138, R145). 2 % of the full range is 2 % of 100 %, and
a command in place of feedback is never tested (DESIGN CHOICE, log entry 93). -/
def fillTerm (m : ModelImage) (s : State) (pts : List MeasIn) (i : Nat) (b : Branch) : List MeasIn :=
  let mk := fun (what : Nat) (z : Int) (sg : Nat) => [(⟨0, what, i, z, max 1 sg, 256, false, false, 0, 0⟩ : MeasIn)]
  let cmd := (outWord (tgetD s.cfg.cmdWord b.mid 0) s).toInt
  match b.kind with
  | .plant | .store => if portMissing pts i b s then mk 2 (setFlow m b s) ((max b.qLo.natAbs b.qHi.natAbs) / 10) else []
  | .pump => if hasPoint pts 4 i then [] else mk 4 cmd 20
  | .valve => if hasPoint pts 5 i then [] else mk 5 cmd 20
  | _ => []

/-- The pressure of the last published estimate at a node (R138), or the model's initial value where there is none. -/
def lastP (n : Node) (s : State) : Int :=
  match s.sep.est with
  | some e => (match e.nodes.find? (fun x => x.1 == n.mid) with | some x => x.2.p | none => n.p0 * 256)
  | none => n.p0 * 256

/-- The term of a pressure reference whose measurement is missing or out of range (R138, R144): its σ is the prior's (DESIGN CHOICE, log entry 93). -/
def refTerm (s : State) (pts : List MeasIn) (i : Nat) (n : Node) : List MeasIn :=
  if !n.reference || hasPoint pts 1 i then []
  else [⟨0, 1, i, divNear (lastP n s) 256, max 1 (max n.pLo.natAbs n.pHi.natAbs * getF 0x14010 7 0 s / 100), 256, false, false, 0, 0⟩]

/-- All the terms of the sum (R144 to R146). -/
def allTerms (m : ModelImage) (s : State) : List MeasIn :=
  let pts := (m.meas.filter (fun d => d.quantity != 3)).map (pointTerm m s)
  pts ++ m.stations.flatMap (stnTerms m s) ++ (m.branches.mapIdx (fillTerm m s pts)).flatten ++ (m.nodes.mapIdx (refTerm s pts)).flatten

/-! ## Temperatures of the snapshot -/

/-- The measured temperatures of the snapshot by node (R137, R149): the temperature points, and the station's port temperatures. -/
def snapTemps (m : ModelImage) (s : State) : List (Nat × MeasIn) :=
  let pts := (m.meas.filter (fun d => d.quantity == 3)).map (fun d => let t := pointTerm m s d; (t.idx, t))
  let report := fun (d : StationDecl) => match stnBranch m d, (stn d.ident s).round.reply with
    | some b, some p =>
      let mid := stnMid d.ident
      let sg := sigmaOf mid 3 d.sigTemp s
      let mk := fun (node : Nat) (z : Int) =>
        let r := nodeRange m node true
        (nodeIdx m node, (⟨mid, 3, nodeIdx m node, z, sg, 256, true, false, reasonOf mid 3 z r.1 r.2 false s, 0⟩ : MeasIn))
      [mk b.fromN p.tWarm, mk b.toN p.tCool]
    | _, _ => []
  pts ++ m.stations.flatMap report

/-- The predictions of the curd tracker's previous step by node (R137, R149, R175), where its forecast is valid. -/
def snapPreds (m : ModelImage) (s : State) : Tbl (Int × Nat) :=
  (m.nodes.mapIdx (fun i n => if ctrNet n.net s ≠ 0 then [] else match tget s.ctr.preds n.mid with | some p => [(i, p)] | none => [])).flatten

/-! ## The round's work begins -/

/-- The term in the sum that gives a quantity of an element, points first. -/
def termOf (ms : List MeasIn) (what idx : Nat) : Option MeasIn := ms.find? (fun t => t.what == what && t.idx == idx && t.reason == 0)

/-- The boundary term of a quantity of an element that is no measurement (R138). -/
def boundOf (ms : List MeasIn) (what idx : Nat) : Option MeasIn := ms.find? (fun t => !t.point && t.what == what && t.idx == idx && t.reason == 0)

/-- The point from which Newton starts (R143): the last published estimate mapped by MID, or the model's initial values. -/
def startPoint (m : ModelImage) (flat : Bool) (s : State) : List Int × List Int :=
  let e := if flat then none else s.sep.est
  let q := m.branches.map (fun b => match e with
    | some e => (match e.branches.find? (fun x => x.1 == b.mid) with | some x => x.2.q | none => b.q0 * 256)
    | none => b.q0 * 256)
  let p := m.nodes.map (fun n => if e.isNone then n.p0 * 256 else lastP n s)
  (q, p)

/-- Whether the round starts flat (R143). -/
def startsFlat (s : State) : Bool := s.sep.flatNext || s.sep.diverged || !s.sep.fresh

/-- The boundary flow of a branch (R138) in 1/256 L/h: a station's report within its declared range (R126), otherwise its forecast; a unit's measured
or set-point flow. -/
def boundaryFlow (m : ModelImage) (ms : List MeasIn) (i : Nat) (b : Branch) (s : State) : Int :=
  match b.kind with
  | .station => (match boundOf ms 2 i with
    | some t => t.z * 256
    | none => (match m.stations.find? (fun d => stnMid d.ident == b.owner) with | some d => fcstFlow m d s * 256 | none => 0))
  | _ => (match boundOf ms 2 i with | some t => t.z * 256 | none => (match termOf ms 2 i with | some t => t.z * 256 | none => 0))

/-- SOURCE of a branch (R154): 1 a station's report, and for a RETIRED station or a report without a usable sample too (DESIGN CHOICE, log entry 93),
2 a forecast, 3 the set-point of a missing unit. -/
def flowSource (m : ModelImage) (ms : List MeasIn) (i : Nat) (b : Branch) (s : State) : Nat :=
  match b.kind with
  | .station => (match m.stations.find? (fun d => stnMid d.ident == b.owner) with
    | some d => if (stn d.ident s).state == .retired || (stn d.ident s).round.reply.isSome && (boundOf ms 2 i).isSome then 1 else 2
    | none => 0)
  | .plant | .store => if (boundOf ms 2 i).isSome then 3 else 0
  | _ => 0

/-- The work of a round as the compute phase opens (R137 to R139, R143, R146, R156, R157): the snapshot, and the registers as they stand. -/
def openWork (m : ModelImage) (s : State) : SepWork :=
  let flat := startsFlat s
  let ms := allTerms m s
  let st := startPoint m flat s
  let set := m.branches.mapIdx (fun i b =>
    if pumped b then (match termOf ms 4 i with | some t => t.z * 256 | none => 0)
    else if b.kind = .valve then (match termOf ms 5 i with | some t => t.z * 256 | none => 0) else 0)
  let held := m.branches.mapIdx (fun i b => b.kind == .plant && pumped b && ((boundOf ms 2 i).isSome || (termOf ms 4 i).isNone))
  let q := m.branches.mapIdx (fun i b => if hasEq b && !held.getD i false then st.1.getD i 0 else boundaryFlow m ms i b s)
  let p := m.nodes.mapIdx (fun i n => if n.reference then (match termOf ms 1 i with | some t => t.z * 256 | none => lastP n s) else st.2.getD i 0)
  let unr := (m.stations.filter (fun d => (stn d.ident s).state != .retired && (stn d.ident s).round.reply.isNone)).length
  { opened := s.tim.mon, fixed := m.branches.mapIdx (fun i b => fixBranch m s b (q.getD i 0)), q := q, p := p, set := set,
    shut := m.branches.map (fun _ => (false, 0)), source := m.branches.mapIdx (fun i b => flowSource m ms i b s), meas := ms,
    qtol := getF 0x14008 15 0 s * 256, ptol := getF 0x14008 31 16 s * 256, flat := flat,
    missing := (m.branches.mapIdx (fun i b => b.kind == .plant && (boundOf ms 2 i).isSome)).any (fun x => x), unreached := unr, held := held,
    temps := snapTemps m s, preds := snapPreds m s, ctl := getReg 0x14000 s, newton := getReg 0x14004 s, bd := getReg 0x1400C s,
    prior := getReg 0x14010 s }

/-! ## Records -/

/-- Values rounded to the record unit (R154). -/
def unit256 (x : Int) : Int := divNear x 256

/-- The removed measurements of a round. -/
def rejectedOf (ms : List MeasIn) : List MeasIn := ms.filter (fun t => t.reason == 1 || t.reason == 2 || t.reason == 3)

/-- FLAGS of the summary record (R153). -/
def sepFlags (w : SepWork) (ctrPrior : Bool) : Nat :=
  b2n w.loose + 2 * b2n w.unresolved + 4 * b2n w.pivotReg + 8 * b2n ctrPrior + 16 * b2n w.flat + 32 * b2n w.missing

/-- The measurements in the sum, priors not counted (R153). -/
def usedOf (ms : List MeasIn) : Nat := (ms.filter (fun t => t.reason == 0)).length

/-- The points that EXCLUDE removed. -/
def excludedOf (ms : List MeasIn) : List MeasIn := ms.filter (fun t => t.reason == 4)

/-- The summary record (R153). -/
def sepSummary (w : SepWork) (status reason published : Nat) (ms : List MeasIn) (ctrPrior : Bool) (s : State) : Bytes :=
  let m := s.model.active
  le 8 s.rnd.number ++ le 8 published ++ le 8 (modelSigs s).1.toNat ++ le 1 status ++ le 1 (sepFlags w ctrPrior) ++ le 1 w.iters ++
    le 1 w.passes ++ le 2 (rejectedOf ms).length ++ le 2 (excludedOf ms).length ++ le 2 w.unreached ++ le 2 w.used ++ le 4 w.objective ++
    le 4 (unit256 w.resQ).toNat ++ le 4 (unit256 w.resP).toNat ++ le 4 ((s.tim.mon - w.opened) / 1000) ++
    le 2 (match m with | some m => m.nodes.length | none => 0) ++ le 2 (match m with | some m => m.branches.length | none => 0) ++
    le 1 reason ++ zeros 7

/-- The list entries of a full record in dense-index order (R154): the measurement points of the model, then the reports of its stations. -/
def listEntries (m : ModelImage) (ms : List MeasIn) : List MeasIn :=
  let out := ms.filter (fun t => t.reason != 0)
  m.meas.flatMap (fun d => out.filter (fun t => t.point && t.mid == d.mid)) ++
    m.stations.flatMap (fun d => out.filter (fun t => !t.point && t.mid == stnMid d.ident))

/-- The entries of a full record (R154). -/
def sepEntries (m : ModelImage) (e : Estimate) (ms : List MeasIn) : Bytes :=
  e.nodes.flatMap (fun n => leS 4 (unit256 n.2.p) ++ (match n.2.temp with | some t => leS 4 t | none => le 4 0x80000000)) ++
    e.branches.flatMap (fun b => leS 4 (unit256 b.2.q) ++ le 2 b.2.setting ++ le 1 b.2.source ++ zeros 1) ++
    (listEntries m ms).flatMap (fun t => le 4 t.mid ++ le 1 t.what ++ le 1 t.reason ++ le 2 (min t.nres 0xFFFF))

/-- SEP_STAT and its counters after a round (R157, R163), and the round's PMC events. -/
def sepStat (w : SepWork) (status reason rej : Nat) (s : State) : State :=
  let v := status <<< 24 ||| (min rej 0xFF) <<< 16 ||| (min w.passes 15) <<< 12 ||| (min w.iters 31) <<< 7 ||| reason <<< 4 |||
    b2n w.unresolved <<< 3 ||| b2n w.loose <<< 2 ||| b2n w.pivotReg <<< 1 ||| b2n s.sep.fresh
  let s := setPair 0x14024 s.rnd.number (setReg 0x14020 (BitVec.ofNat 32 v) s)
  pmcAdd 0x1C 1 (pmcAdd 0x1F rej (incReg 0x1403C rej s))

/-- The round's work has no estimate to publish (R142, R148, R150): the record, the counters, and the event of an abandoned one. -/
def sepAbandon (w : SepWork) (status reason : Nat) (s : State) : State :=
  let s := { s with sep := { s.sep with work := none, diverged := status == 0x32, settled := true } }
  let s := incReg 0x14038 1 (sepStat w status reason (rejectedOf w.meas).length s)
  let s := if status = 0x30 then pmcAdd 0x20 1 (evt 9 5 (argPair reason (s.rnd.number % 2 ^ 32)) s) else s
  deliverWith 4 status 0 (sepSummary w status reason 0 w.meas false s) s

/-- The work under way ends without an estimate. -/
def sepFail (status reason : Nat) (s : State) : State := match s.sep.work with | none => s | some w => sepAbandon w status reason s

/-! ## Port temperatures -/

/-- The largest number whose square is at most n, found bit by bit. -/
def isqrt (n : Nat) : Nat :=
  (List.range 48).foldl (fun r i => let c := r + 2 ^ (47 - i); if c * c ≤ n then c else r) 0

/-- A square root rounded to nearest (R154). -/
def rootNear (n : Nat) : Nat := (isqrt (4 * n) + 1) / 2

/-- Whether the bad-data test runs (R148, R149). -/
def bdOn (w : SepWork) : Bool := bitAt w.ctl 2

/-- THRESH (R161). -/
def thresh (w : SepWork) : Nat := fld w.bd 7 0

/-- The prediction for a node in the snapshot, where TEMP_PRIOR allows it (R149, R175). -/
def nodePred (w : SepWork) (i : Nat) : Option (Int × Nat) := if bitAt w.ctl 3 then tget w.preds i else none

/-- A temperature measurement against the prediction (R149): reason 3 where they differ by more than THRESH; NRES is the quotient that was tested. -/
def judgeTemp (w : SepWork) (pred : Option (Int × Nat)) (t : MeasIn) : MeasIn :=
  match pred with
  | none => t
  | some (tp, sp) =>
    let v := t.sigma * t.sigma + sp * sp
    let d := (t.z - tp).natAbs
    if t.reason = 0 ∧ bdOn w ∧ thresh w * thresh w * v < d * d * 256 then { t with reason := 3, nres := rootNear (d * d * 65536 / max 1 v) } else t

/-- The mean of values weighted by 1/σ² (R149). -/
def precMean (l : List (Int × Nat)) : Option Int :=
  if l.isEmpty then none
  else
    let wt := fun (x : Int × Nat) => (1 : Rat) / ((max 1 (x.2 * x.2) : Nat) : Rat)
    some (rne ((l.map (fun x => (x.1 : Rat) * wt x)).foldl (· + ·) 0 / (l.map wt).foldl (· + ·) 0))

/-- The measurements at a node after their tests. -/
def nodeTemps (w : SepWork) (i : Nat) : List MeasIn := (w.temps.filter (fun t => t.1 == i)).map (fun t => judgeTemp w (nodePred w i) t.2)

/-- Whether a node's temperature is estimated (R149): a port, or a node with a measurement point. -/
def tempNode (w : SepWork) (i : Nat) (n : Node) : Bool := n.port || w.temps.any (fun t => t.1 == i)

/-- The temperature of a node (R149): every measurement that stays and the prediction, by precision (DESIGN CHOICE for several measurements, log entry
94). -/
def nodeTemp (w : SepWork) (i : Nat) (n : Node) : Option Int :=
  if !tempNode w i n then none
  else precMean (((nodeTemps w i).filter (fun t => t.reason == 0)).map (fun t => (t.z, t.sigma)) ++ (nodePred w i).toList)

/-! ## Publication -/

/-- The estimate of a round's work (R144, R149, R154). -/
def estimateOf (m : ModelImage) (w : SepWork) (s : State) : Estimate :=
  { round := s.rnd.number, mon := s.tim.mon,
    nodes := m.nodes.mapIdx (fun i n => (n.mid, { p := w.p.getD i 0, temp := nodeTemp w i n })),
    branches := m.branches.mapIdx (fun i b =>
      (b.mid, { q := w.q.getD i 0, setting := if b.kind == .pump || b.kind == .valve then (unit256 (w.set.getD i 0)).toNat else 0xFFFF,
                source := if (w.shut.getD i (false, 0)).1 then 4 else w.source.getD i 0 })) }

/-- The measurements of a round that ends with an estimate: those of the sum, and the temperatures (R146, R149). -/
def finalMeas (m : ModelImage) (w : SepWork) : List MeasIn := w.meas ++ (m.nodes.mapIdx (fun i _ => nodeTemps w i)).flatten

/-- The estimate ends and is published in one step (R149 to R151). -/
def sepPublish (m : ModelImage) (w : SepWork) (s : State) : State :=
  let prior := (m.nodes.mapIdx (fun i n => tempNode w i n && (nodePred w i).isSome)).any (fun x => x)
  let ms := finalMeas m w
  let rej := (rejectedOf ms).length
  let e := estimateOf m w s
  let ok := rej == 0 && w.unreached == 0 && !w.missing && !w.unresolved
  let status := if ok then 0x00 else 0x31
  let dt := if ok then 0 else rej
  let s := { s with sep := { s.sep with est := some e, fresh := true, work := none, diverged := false, settled := true } }
  let s := setPair 0x14030 s.rnd.number (sepStat w status 0 rej s)
  let sum := sepSummary w status 0 s.tim.mon ms prior s
  deliverWith 5 status dt (sum ++ sepEntries m e ms) (deliverWith 4 status dt sum s)

/-! ## The systems (R141, R144) -/

/-- The end of the separator window in MON (R343). -/
def sepEnd (s : State) : Nat := boundary 15 8 s

/-- A number of 1/256 as a value. -/
def of256 (x : Int) : Rat := (x : Rat) / 256

/-- A value as a number of 1/256. -/
def to256 (v : Rat) : Int := rne (v * 256)

/-- dΔp/dq of a branch at the current point; 1 where the flow stands fixed. -/
def slopeAt (m : ModelImage) (w : SepWork) (i : Nat) : Rat :=
  match m.branches[i]? with
  | some b => if fixedFlow w i then 1 else slopeQ b (w.fixed.getD i ⟨0, 0, 0⟩) (w.q.getD i 0) (w.set.getD i 0)
  | none => 1

/-- The incidences of a block of rows on columns in the pattern's order, 0 where the branch's flow stands fixed. -/
def incidVals (rows cols : List Nat) (inc : Nat → Nat → Int) (gone : Nat → Nat → Bool) : List Rat :=
  (rows.map (fun r => (cols.map (fun c => if inc r c = 0 then [] else [if gone r c then 0 else (inc r c : Rat)])).flatten)).flatten

/-- The values of the Newton system of a network, block by block (R141). -/
def newtonVals (m : ModelImage) (w : SepWork) (n : Nat) : List (List Rat) :=
  let b := eqBranches m n
  let v := freeNodes m n
  let rb := branchRes m w w.q w.p
  let rn := nodeRes m w.q
  [b.map (slopeAt m w), incidVals v b (fun j i => incid m i j) (fun _ i => fixedFlow w i), b.map (fun i => of256 (rb.getD i 0)),
   v.map (fun j => -of256 (rn.getD j 0))]

/-- h(x) of a term at a point, in 1/256 of the record unit (R144). -/
def hOf (w : SepWork) (what idx : Nat) : Int :=
  if what = 1 then w.p.getD idx 0 else if what = 2 then w.q.getD idx 0 else w.set.getD idx 0

/-- The largest magnitude of the declared range of a state quantity (R145). -/
def rangeMag (m : ModelImage) (what idx : Nat) : Nat :=
  if what = 1 then match m.nodes[idx]? with | some n => max n.pLo.natAbs n.pHi.natAbs | none => 0
  else match m.branches[idx]? with
    | some b => if what = 2 then max b.qLo.natAbs b.qHi.natAbs else max b.sLo.natAbs b.sHi.natAbs
    | none => 0

/-- σ of the prior on a state quantity in the record unit (R145, R162); no σ of a term is taken below 2^-8 of its unit (DESIGN CHOICE, log entry 93). -/
def priorSigma (m : ModelImage) (w : SepWork) (what idx : Nat) : Rat := max (1 / 256) ((rangeMag m what idx * fld w.prior 7 0 : Nat) : Rat) / 100

/-- The state quantity of a prior at the Newton solution. -/
def priorAt (w : SepWork) (what idx : Nat) : Int :=
  if what = 1 then w.pN.getD idx 0 else if what = 2 then w.qN.getD idx 0 else w.setN.getD idx 0

/-- The term of the sum that a row stands for: z – h(x) and σ; none where the sum lacks it. -/
def slotTerm (m : ModelImage) (w : SepWork) (t : TermSlot) : Option (Rat × Rat) :=
  if t.prior then some (of256 (priorAt w t.what t.idx - hOf w t.what t.idx), priorSigma m w t.what t.idx)
  else (w.meas.find? (fun x => x.what == t.what && x.idx == t.idx && x.mid == t.mid && x.reason == 0)).map (fun x =>
    (of256 (x.z * 256 - hOf w x.what x.idx), (max 1 x.sigma : Nat)))

/-- The rows of a class as terms. -/
def classTerms (m : ModelImage) (w : SepWork) (n cls : Nat) : List (Option (Rat × Rat)) := (netSlots m n cls).map (slotTerm m w)

/-- Whether a branch's equation has given way to a fixed flow of 0 (R140). -/
def shutAt (w : SepWork) (i : Nat) : Bool := (w.shut.getD i (false, 0)).1

/-- The values of the WLS system of a network, block by block (R144, R145). A term that the sum lacks has weight 1 and stands apart; a shut branch keeps
its flow, and a branch held to a boundary flow its setting. -/
def wlsVals (m : ModelImage) (w : SepWork) (n : Nat) : List (List Rat) :=
  let cs := [1, 2, 3].map (classTerms m w n)
  let e := eqBranches m n
  let rb := branchRes m w w.q w.p
  let rn := nodeRes m w.q
  let slopeS_ := fun i => match m.branches[i]? with
    | some b => if shutAt w i then 0 else if w.held.getD i false then 1 else slopeS b (w.fixed.getD i ⟨0, 0, 0⟩) (w.q.getD i 0) (w.set.getD i 0)
    | none => 0
  cs.map (fun l => l.map (fun t => match t with | some x => x.2 * x.2 | none => 1)) ++
    cs.map (fun l => l.map (fun t => if t.isSome then 1 else 0)) ++
    [incidVals (freeNodes m n) (netBranches m n) (fun j i => incid m i j) (fun _ _ => false),
     incidVals e (netNodes m n) (fun i j => -(incid m i j)) (fun i _ => fixedFlow w i),
     e.map (fun i => if shutAt w i then 1 else if w.held.getD i false then 0 else -(slopeAt m w i)),
     (e.filter (setBranches m n).contains).map slopeS_] ++
    cs.map (fun l => l.map (fun t => match t with | some x => x.1 | none => 0)) ++
    [(netNodes m n).map (fun _ => 0), (netBranches m n).map (fun _ => 0), (setBranches m n).map (fun _ => 0),
     (freeNodes m n).map (fun j => -of256 (rn.getD j 0)), e.map (fun i => if fixedFlow w i then 0 else -of256 (rb.getD i 0))]

/-- The steps of some quantities, from the values of a solution. -/
def stepsOf (idx : List Nat) (vals : List Rat) : Tbl Int := List.zipWith (fun i v => (i, to256 v)) idx vals

/-- The steps of the Newton system of a network join those of the iteration. -/
def newtonSteps (m : ModelImage) (w : SepWork) (sol : List Rat) : SepWork :=
  let b := eqBranches m w.net
  { w with stepQ := w.stepQ ++ stepsOf b sol, stepP := w.stepP ++ stepsOf (freeNodes m w.net) (sol.drop b.length) }

/-- The steps of the WLS system of a network join those of the pass. -/
def wlsSteps (m : ModelImage) (w : SepWork) (sol : List Rat) : SepWork :=
  let r := wlsRows m w.net
  let sol := sol.drop (r.t1 + r.t2 + r.t3)
  { w with stepP := w.stepP ++ stepsOf (netNodes m w.net) sol, stepQ := w.stepQ ++ stepsOf (netBranches m w.net) (sol.drop r.p),
           stepS := w.stepS ++ stepsOf (setBranches m w.net) (sol.drop (r.p + r.q)) }

/-! ## Iterations -/

/-- The work as it goes on. -/
def putWork (w : SepWork) (s : State) : State := { s with sep := { s.sep with work := some w } }

/-- The fast-port job of a network (R141, R144, R197, R218): slots 0 to 3 hold the Newton systems and 4 to 7 those of WLS; a refused job ends the round
with reason 4. -/
def sepSubmit (m : ModelImage) (w : SepWork) (s : State) : State :=
  let newton := w.stage == .newton
  let vals := if newton then newtonVals m w w.net else wlsVals m w w.net
  match fastSubmit (if newton then w.net else w.net + 4) (sepEnd s) (fun p => systemInput p vals) (pmcAdd 0x21 1 (putWork w s)) with
  | (s, none) => s
  | (s, some _) => sepFail 0x30 4 s

/-- The next Newton iteration: the check valves, then the job of the first network (R140, R141). -/
def newtonNext (m : ModelImage) (w : SepWork) (s : State) : State :=
  let c := checkValves m w
  sepSubmit m { c.1 with net := 0 } (pmcAdd 0x23 c.2 s)

/-- The next WLS pass (R144). -/
def wlsNext (m : ModelImage) (w : SepWork) (s : State) : State := sepSubmit m { w with stage := .wls, passAt := s.tim.mon, net := 0 } s

/-- Whether a network is left that has no step in this iteration; each network has its system (R197). -/
def moreNets (m : ModelImage) (w : SepWork) : Bool := decide (w.net + 1 < m.networks.length)

/-- Whether BUDGET ms have passed since the window opened (R142). -/
def budgetPassed (w : SepWork) (s : State) : Bool := decide (w.opened + fld w.newton 23 16 * 1000000 ≤ s.tim.mon)

/-- The Newton phase ends at its point, and the WLS phase begins (R142). -/
def toWls (m : ModelImage) (w : SepWork) (s : State) : State := wlsNext m { w with qN := w.q, pN := w.p, setN := w.set } s

/-- A Newton iteration ends (R142). -/
def newtonEnd (m : ModelImage) (w : SepWork) (s : State) : State :=
  let w := newtonStep m w
  let s := pmcAdd 0x1D 1 (putWork w s)
  let stop := decide (fld w.newton 4 0 ≤ w.iters) || budgetPassed w s
  if 2 ≤ w.noDescent then sepFail 0x32 5 s
  else if w.resQ ≤ w.qtol ∧ w.resP ≤ w.ptol then toWls m w s
  else if stop then
    if scaled m w w.q w.p ≤ 10 * w.qtol * w.ptol then toWls m { w with loose := true } s else sepFail 0x32 7 s
  else newtonNext m w s

/-- The step of a network has come (R141). -/
def newtonDone (m : ModelImage) (w : SepWork) (sol : List Rat) (s : State) : State :=
  let w := newtonSteps m w sol
  if moreNets m w then sepSubmit m { w with net := w.net + 1 } s else newtonEnd m w s

/-- The square of the normalised residual of a term (R147) in (1/256)². -/
def nresSq (w : SepWork) (t : MeasIn) : Nat :=
  let d := (t.z * 256 - hOf w t.what t.idx).natAbs
  d * d * 256 / max 1 (t.sigma * t.sigma * t.k)

/-- The weighted sum of squares in 1/256 (R144, R153), priors included. -/
def objectiveOf (m : ModelImage) (w : SepWork) : Nat :=
  let ts := (List.range m.networks.length).flatMap (fun n => [1, 2, 3].flatMap (classTerms m w n))
  let sum : Rat := ts.foldl (fun (a : Rat) t => match t with | some x => a + x.1 * x.1 / (x.2 * x.2) | none => a) 0
  min (to256 sum).toNat 0xFFFFFFFF

/-- Whether the bad-data test looks at a term (R147). -/
def testable (critK : Nat) (t : MeasIn) : Bool := t.tested && t.reason == 0 && decide (critK ≤ t.k)

/-- The measurement with the largest normalised residual (R148), the first of equals: its place and the square of the residual. -/
def worstOf (w : SepWork) : Option (Nat × Nat) :=
  (List.range w.meas.length).foldl (fun (a : Option (Nat × Nat)) i =>
    match w.meas[i]? with
    | some t => if testable (fld w.bd 23 16) t then
        (let n := nresSq w t; match a with | some b => if b.2 < n then some (i, n) else a | none => some (i, n)) else a
    | none => a) none

/-- The step of a WLS pass (R144): a shut branch keeps its flow at 0. -/
def wlsStep (m : ModelImage) (w : SepWork) (s : State) : SepWork :=
  let add := fun (x : List Int) (d : Tbl Int) => x.mapIdx (fun i v => v + tgetD d i 0)
  let w := { w with q := shutFlows w.shut (add w.q w.stepQ), p := add w.p w.stepP, set := add w.set w.stepS, passes := w.passes + 1,
                    passDur := s.tim.mon - w.passAt, stepQ := [], stepP := [], stepS := [], used := usedOf w.meas }
  { w with objective := objectiveOf m w }

/-- A WLS pass ends (R147, R148): the largest normalised residual decides. -/
def wlsEnd (m : ModelImage) (w : SepWork) (s : State) : State :=
  let w := wlsStep m w s
  let s := pmcAdd 0x1E 1 (putWork w s)
  let th := thresh w * 16
  match worstOf w with
  | none => sepPublish m w s
  | some (i, n) =>
    if !bdOn w || decide (n ≤ th * th) then sepPublish m w s
    else if decide (fld w.bd 11 8 + 1 ≤ w.passes) || decide (2 * (sepEnd s - 2000000 - s.tim.mon) < 3 * w.passDur) then
      sepPublish m { w with unresolved := true } s
    else wlsNext m { w with meas := w.meas.mapIdx (fun k t => if k = i then { t with reason := 3, nres := rootNear n } else t) } s

/-- The step of a network has come (R144). -/
def wlsDone (m : ModelImage) (w : SepWork) (sol : List Rat) (s : State) : State :=
  let w := wlsSteps m w sol
  if moreNets m w then sepSubmit m { w with net := w.net + 1 } s else wlsEnd m w s

/-- A fast-port job reaches the separator with its status and its solution (R142, R148); during a block reset of SEP the round's work waits for its end. -/
def sepJobEnd (status : Nat) (sol : List Rat) (s : State) : State :=
  match (if s.start.blkRst.contains .sep then none else s.sep.work), s.model.active with
  | some w, some m =>
    let newton := w.stage == .newton
    if status = 0x21 then sepFail 0x30 1 s
    else if status = 0xF0 then sepFail 0x30 3 s
    else if status = 0x23 then if newton then sepFail 0x32 6 s else sepFail 0x30 2 s
    else if status ≠ 0x00 ∧ status ≠ 0x22 then sepFail 0x30 4 s
    else
      let w := { w with pivotReg := w.pivotReg || status == 0x22 }
      if newton then newtonDone m w sol s else wlsDone m w sol s
  | _, _ => s

/-- The work of a round whose estimate cannot begin. -/
def noWork (s : State) : SepWork :=
  { opened := s.tim.mon, fixed := [], q := [], p := [], set := [], shut := [], source := [], meas := [], qtol := 0, ptol := 0 }

/-- The temperature points of the snapshot by measurement point, with whether each is of no use (R137, R166). -/
def snapPoints (m : ModelImage) (s : State) : Tbl (Int × Bool) :=
  (m.meas.filter (fun d => d.quantity == 3)).map (fun d => let t := pointTerm m s d; (d.mid, t.z, t.reason != 0))

/-- The compute phase opens (R19, R137, R139, R143, R150). A round during a block reset of SEP is abandoned with reason 3, and one without an active
model with reason 4 (DESIGN CHOICE, log entry 95). -/
def sepOpen (s : State) : State :=
  match s.model.active with
  | none => sepAbandon (noWork s) 0x30 4 s
  | some m =>
    let s := { s with sep := { s.sep with snap := snapPoints m s } }
    if s.start.blkRst.contains .sep then sepAbandon (noWork s) 0x30 3 s
    else newtonNext m (openWork m s) { s with sep := { s.sep with flatNext := false } }

/-! ## Operations -/

/-- Whether the active model has a point with a quantity (R156): a measurement point, or a report quantity of a station. -/
def pointCheck (mid q : Nat) (s : State) : Option Nat :=
  match s.model.active with
  | none => some 0
  | some m =>
    if m.stations.any (fun d => stnMid d.ident == mid) then if 1 ≤ q ∧ q ≤ 3 then none else some 4
    else
      match m.meas.find? (fun d => d.mid == mid) with
      | none => some 0
      | some d => if d.quantity = q then none else some 4

/-- SET_SIGMA applied (R155); 0 returns the point to its default. -/
def applySigma (mid q sg : Nat) (s : State) : State :=
  let l := s.sep.sigmas.filter (fun e => e.1 != (mid, q))
  { s with sep := { s.sep with sigmas := if sg = 0 then l else l ++ [((mid, q), sg)] } }

/-- EXCLUDE applied (R155). -/
def applyExclude (mid q : Nat) (s : State) : State :=
  { s with sep := { s.sep with excl := if s.sep.excl.contains (mid, q) then s.sep.excl else s.sep.excl ++ [(mid, q)] } }

/-- INCLUDE applied (R155). -/
def applyInclude (mid q : Nat) (s : State) : State :=
  { s with sep := { s.sep with excl := s.sep.excl.filter (fun e => e != (mid, q)) } }

/-- The checks that the three operations share (R156): the role first, then the point. -/
def pointOp (r : Req) (mid q : Nat) (go : State → State) (s : State) : State :=
  if refusesPairOp s then finish r 0x81 0 s else match pointCheck mid q s with | some d => finish r 0x16 d s | none => go s

/-- SET_SIGMA (R155, R156). -/
def setSigma (r : Req) (mid q sg : Nat) : State → State := pointOp r mid q (viaPeer r (.setSigma mid q sg) 12 (applySigma mid q sg))

def execSetSigma (r : Req) (s : State) := run (inlineOp r 0x0210 12 (fun b => setSigma r (leAt b 0 4) (leAt b 4 1) (leAt b 8 4))) s

/-- EXCLUDE (R155, R156): at most 256 excluded points. -/
def excludePoint (r : Req) (mid q : Nat) : State → State :=
  pointOp r mid q (fun s =>
    if !s.sep.excl.contains (mid, q) && decide (256 ≤ s.sep.excl.length) then finish r 0x19 1 s
    else viaPeer r (.exclude mid q) 8 (applyExclude mid q) s)

def execExclude (r : Req) (s : State) := run (inlineOp r 0x0211 8 (fun b => excludePoint r (leAt b 0 4) (leAt b 4 1))) s

/-- INCLUDE (R155, R156). -/
def includePoint (r : Req) (mid q : Nat) : State → State := pointOp r mid q (viaPeer r (.incl mid q) 8 (applyInclude mid q))

def execInclude (r : Req) (s : State) := run (inlineOp r 0x0212 8 (fun b => includePoint r (leAt b 0 4) (leAt b 4 1))) s

/-- FLAT_START of SEP_CTRL (R158). -/
def flatStart (s : State) : State := { s with sep := { s.sep with flatNext := true } }

end Sys2Proof.Machine
end

