-- ==== Sys2Proof/Machine/Chu.lean ====
section
/-!
DEFINITION. The churn's jobs: checks, panels, iterations, deadlines, results and pattern slots (R189 to R226).
-/
namespace Sys2Proof.Machine

/-! ## Jobs -/

/-- A job that passes its checks waits for its context (R194, R203). -/
def queueJob (qp : Bool) (r : Req) (j : JobParam) (secs : List JobSection) (rest : Nat) (s : State) : State :=
  match jobCheck qp j secs rest s with
  | some (st, d) => finish r st d s
  | none =>
    let job : Job := { req := some r, qp := qp, slot := j.pattern, outLen := j.outLen, outAddr := j.outAddr, deadline := j.deadline, param := some j,
                       input := secs }
    arbitrateIdle { s with chu := { s.chu with queue := s.chu.queue ++ [job] } }

/-- KKT_SOLVE and QP_SOLVE (R200 to R203): the PARAM of the descriptor and the sections of its input buffer. -/
def solveOp (qp : Bool) (r : Req) (d : Desc) (b : Bytes) (s : State) : State :=
  let x := readSections b.length b 0
  queueJob qp r (jobParam d) x.1 x.2 s

/-- KKT_SOLVE and QP_SOLVE take their input from a buffer (R200). -/
def solveRow (qp : Bool) (op : Nat) (r : Req) (buf : Bytes) (s : State) : State :=
  withOp r [op] (some buf) (fun d b s => if descInl d then finish r 0x12 0 s else solveOp qp r d b s) s

def execKktSolve (r : Req) (buf : Bytes) (s : State) := run (solveRow false 0x0110 r buf) s

def execQpSolve (r : Req) (buf : Bytes) (s : State) := run (solveRow true 0x0111 r buf) s

/-! ## The end of a ring job -/

/-- φ of a job's point against the ε of the job is met (R212). -/
def converged (j : Job) (pt : IterPoint) : Bool := decide (merit pt ≤ 2 ^ (24 - j.epsExp))

/-- The status of a job that ran to its end (R216, R219): PARTIAL_WARM, PIVOT_REG or OK, with its DETAIL. -/
def warnStatus (j : Job) : Nat × Nat :=
  if j.qp && j.mapped != 0 && j.cold != 0 then (0x24, j.cold)
  else if j.regPivots ≠ 0 then (0x22, j.regPivots)
  else (0x00, 0)

/-- The result header (R204). `kktMerit` is the relative residual of a KKT_SOLVE. -/
def resultHeader (j : Job) (status kase : Nat) (valid : Bool) (kktMerit : Nat) (s : State) : Bytes :=
  let pt := j.best.map (·.2)
  let flags := b2n valid + 2 * b2n (j.mapped != 0) + 4 * b2n (j.regPivots != 0) + 8 * b2n j.sat.isSome +
    16 * b2n (j.preempts != 0) + 32 * b2n j.lineDiff
  let v := fun (f : IterPoint → Nat) => match pt with | some p => min (f p) 0xFFFFFFFF | none => 0
  le 1 status ++ le 1 kase ++ le 2 flags ++ le 1 j.iters ++ le 1 (match j.best with | some b => b.1 | none => 0) ++
    le 2 (j.sat.getD 0xFFFF) ++ le 4 j.regPivots ++ le 4 j.cold ++ le 4 j.mapped ++ le 4 j.dropped ++
    le 4 (if j.qp then v merit else kktMerit) ++ le 4 (v (·.rp)) ++ le 4 (v (·.rd)) ++ le 4 (v (·.gap)) ++
    leS 8 (match pt with | some p => p.objective | none => 0) ++ le 8 j.patSig.toNat ++ le 4 ((s.tim.mon - j.start) / 1000) ++
    le 2 j.factors ++ le 2 j.preempts

/-- The solution sections of a role (R202, R204), in pattern block order. -/
def solSections (p : PatSlot) (role : Nat) (ms : List Int) : Bytes :=
  let start := fun i => ((p.body.blocks.take i).filter (fun b => b.role == role)).foldl (fun n b => n + b.count) 0
  (p.body.blocks.mapIdx (fun i b =>
    if b.role = role then
      sectionBytes { role := role, blockId := i, exp := b.exp, count := b.count, vals := (ms.drop (start i)).take b.count, keys := [] }
    else [])).flatten

/-- The solution sections of a point of a programme: x, y, z_l and z_u (R204). -/
def pointSections (p : PatSlot) (t : Iterate) : Bytes :=
  solSections p 0x10 t.x ++ solSections p 0x11 t.y ++ solSections p 0x12 t.zl ++ solSections p 0x13 t.zu

/-- The solution sections of the best point. -/
def bestSol (j : Job) : Bytes := match j.best, j.pat with | some b, some p => pointSections p b.2.it | _, _ => []

/-- The variable of a key (R202). -/
def keyVar (k : Nat) (v : Int) : PlanVar := { mid := k % 2 ^ 32, qty := k / 2 ^ 32 % 256, step := k / 2 ^ 48 % 65536, val := v }

/-- The variables of a point in their record units (R235). -/
def planOf (p : PatSlot) (t : Iterate) : List PlanVar :=
  List.zipWith (fun k v => keyVar k (rne v)) p.body.keys (bsVals (roleElems p 0x10) t.x)

/-- The values that a point leaves for a warm start (R242). -/
def warmOf (p : PatSlot) (t : Iterate) : WarmVals :=
  let f := fun (keys : List Nat) (role : Nat) (ms : List Int) =>
    List.zipWith (fun k (e : (Int × Nat) × Int) => (⟨(keyVar k 0).mid, (keyVar k 0).qty, (keyVar k 0).step, e.1.1, e.2⟩ : WarmVal)) keys
      (List.zip (roleElems p role) ms)
  { x := f p.body.keys 0x10 t.x, zl := f p.body.keys 0x12 t.zl, zu := f p.body.keys 0x13 t.zu, y := f p.body.conKeys 0x11 t.y }

/-- The end of the firmware's job, which dispatch takes (R86, R243). -/
def noteSolve (j : Job) (status kase : Nat) (valid : Bool) (s : State) : State :=
  if jobPair j = 0 ∧ ownedInside 0 s then
    let it := j.best.map (·.2)
    let e : SolveEnd := { slot := (match j.req with | some r => r.slot | none => 0), status := status, case := kase,
                          point := if valid then it else none,
                          plan := (match it, j.pat with | some x, some p => planOf p x.it | _, _ => []),
                          warm := (match it, j.pat with | some x, some p => some (warmOf p x.it) | _, _ => none),
                          merit := (match it with | some x => merit x | none => 0xFFFFFFFF),
                          objective := (match it with | some x => x.objective | none => 0), iters := j.iters, cold := j.cold }
    { s with chu := { s.chu with ends := s.chu.ends ++ [e] } }
  else s

/-- Output to the job's buffer and its completion (R204): the first OUT_LEN bytes, with BUF_SHORT where it does not fit. -/
def writeJob (j : Job) (status detail : Nat) (b : Bytes) (s : State) : State :=
  match j.req with
  | none => s
  | some r =>
    let cut := b.take j.outLen
    let s := hostWrite r.pair j.outAddr cut s
    if j.outLen < b.length then complete r 0x15 b.length cut.length [] s else complete r status detail cut.length [] s

/-- A job leaves its context (R204, R212, R217, R219): its registers, its output and the next choice of R194. `sol` are the solution
sections, written where a point exists. -/
def endJob (c : Ctx) (j : Job) (status detail kase : Nat) (valid : Bool) (sol : Bytes) (kktMerit : Nat) (s : State) : State :=
  let s := putCtx c none { s with chu := { s.chu with comp := if s.chu.comp = some c then none else s.chu.comp } }
  let s := setF 0x10020 19 16 (jobPair j) (setF 0x10020 31 24 status (countJob status s))
  let s := noteSolve j status kase valid s
  let s := if status = 0x03 ∨ status = 0xF0 then (match j.req with | some r => finish r status detail s | none => s)
    else writeJob j status detail (resultHeader j status kase valid kktMerit s ++ sol) s
  arbitrateIdle s

/-- The case of a passed deadline (R217) for a job that has begun. -/
def deadlineCase (j : Job) : Nat :=
  if !j.qp then (if j.stage = .solve then 3 else 2)
  else if j.best.isNone then 5
  else if j.iters = 0 then 4
  else match j.stage with | .between => 1 | .factor => 2 | .solve => 3 | .forming => 5

/-- Whether MON has passed a job's deadline. -/
def overdue (j : Job) (s : State) : Bool := j.deadline != 0 && decide (j.deadline < s.tim.mon)

/-- A passed deadline is acted on (R217): the fast-port job returns DEADLINE_NONE to the separator (R218). -/
def actDeadline (c : Ctx) (j : Job) (s : State) : State :=
  let k := deadlineCase j
  if c = .f then sepJobEnd 0x21 [] (fastEnd 0x21 s)
  else if k = 5 ∨ !j.qp then endJob c j 0x21 0 k false [] 0 s
  else if k = 4 then endJob c j 0x21 0 4 true (bestSol j) 0 s
  else endJob c j 0x20 0 k true (bestSol j) 0 s

/-- Whether the ring of a job has been disabled (R220). -/
def jobCancelled (j : Job) (s : State) : Bool :=
  match j.req with | some r => (ring r.pair s).disabling || !ringOn r.pair s | none => false

/-! ## Panels -/

/-- TAU_EXP, DELTA_EXP and RHO_EXP of CHU_PIVCFG as a job started with them (R224). -/
def pivExps (j : Job) : Nat × Nat × Nat := (fld j.piv 21 16, fld j.piv 13 8, fld j.piv 5 0)

/-- The matrix that a job factorises (R205, R209): as supplied, or of the iteration in progress. -/
def jobMatrix (p : PatSlot) (j : Job) : List MatEntry × Option Nat :=
  if j.qp then (match j.cur with | some t => iterMatrix (progOf p j.input) t | none => ([], none)) else (suppliedEntries p j.input, none)

/-- Whether a job's next step is a panel: its factorisation runs, or its next iteration begins. -/
def factoring (j : Job) : Bool := j.stage == .factor || j.stage == .between

/-- A computing job after its next panel (R191 to R193, R195, R205, R206), with the pivots that the panel replaced. A job that forms iterate 0 or
solves has come to the end of a step of at most the same length. -/
def panelJob (j : Job) : Job × Nat :=
  match j.pat with
  | none => (j, 0)
  | some p =>
    if !factoring j then (j, 0)
    else
      let old := if j.stage = .between then [] else j.cols
      let i := if j.stage = .between then 0 else j.panel
      let x := pivExps j
      let k := jobMatrix p j
      let f := factorPanel p x.1 x.2.1 k.1 (staticReg p x.2.2) i old
      let n := ((f.1.drop old.length).filter (·.replaced)).length
      let last := decide (p.body.panels.length ≤ i + 1)
      ({ j with cols := f.1, panel := i + 1, regPivots := j.regPivots + n, sat := firstSat j.sat (firstSat k.2 f.2),
                factors := if last then j.factors + 1 else j.factors, stage := if last then .solve else .factor }, n)

/-- What a saturation, a disabled ring or a passed deadline does to the computing job at a panel boundary (R192, R217, R220); otherwise the churn
chooses the context that computes next, and a resumed job that is overdue ends too. -/
def boundaryWith (c : Ctx) (j : Job) (s : State) : State :=
  if j.sat.isSome then
    if c = .f then sepJobEnd 0x23 [] (fastEnd 0x23 s) else endJob c j 0x23 0 0 false (bestSol j) 0 s
  else if jobCancelled j s then endJob c j 0x03 0 0 false [] 0 s
  else if overdue j s then actDeadline c j s
  else
    let s := arbitrate s
    match s.chu.comp with
    | some d => (match ctxJob d s with
      | some k => if d != c && overdue k s then actDeadline d k s else s
      | none => s)
    | none => s

/-- PANEL_BOUNDARY (R192, R194 to R196, R206, R217, R220): the panel's columns are factorised, its pivots and saturations count, and the boundary's
decisions follow. -/
def panelBoundary (s : State) : State :=
  match computing s with
  | none => if s.start.blkRst.contains .chu then s else arbitrate s
  | some c =>
    match ctxJob c s with
    | none => arbitrate s
    | some j =>
      let x := panelJob j
      let s := pmcAdd 0x16 x.2 (incReg 0x10030 x.2 (putCtx c (some x.1) s))
      let s := if factoring j then pmcAdd 0x0F 1 s else s
      let s := if j.factors ≠ x.1.factors then pmcAdd 0x11 1 s else s
      boundaryWith c x.1 s

def execPanelBoundary (s : State) := run panelBoundary s

/-! ## Iterations -/

/-- The best iterate (R211): the lowest φ, the later of two that have the same. -/
def betterIter (j : Job) (n : Nat) (pt : IterPoint) : Option (Nat × IterPoint) :=
  match j.best with
  | some b => if merit pt ≤ merit b.2 then some (n, pt) else some b
  | none => some (n, pt)

/-- The infeasibility test of R213 after iteration n: `eps` is ε in 2^-24, `rps` the RP of the best iterate after each iteration,
latest first. -/
def infeasible (n eps : Nat) (rps : List Nat) (dualLarge : Bool) : Bool :=
  let now := rps.headD 0
  decide (8 ≤ n) && decide (10 * eps < now) && decide (rps.getD 8 0 < 2 * now) && dualLarge

/-- A QP job after a completed iterate. The first one is iterate 0 (R211). -/
def iterJob (pt : IterPoint) (j : Job) : Job :=
  let n := if j.best.isNone then 0 else j.iters + 1
  let b := betterIter j n pt
  { j with iters := n, best := b, cur := some pt.it, stage := .between, cols := [], panel := 0,
           bestRps := (match b with | some x => x.2.rp | none => 0) :: j.bestRps }

/-- The point that a QP job's step completes (R209, R215): iterate 0, or the iterate after its solves; with the block of the first saturation. -/
def nextPoint (p : PatSlot) (j : Job) : Option (IterPoint × Option Nat) :=
  let g := progOf p j.input
  let w := match j.param with
    | some a => mapWarm p (a.warmLineage == p.lineage) j.input ⟨[], [], 0⟩
    | none => ⟨[], [], 0⟩
  let t := match j.stage, j.cur with
    | .forming, _ => some (startIter g (w.at_ 0x0A) (w.at_ 0x0B) (w.at_ 0x0C) (w.at_ 0x0E))
    | .solve, some c => some (iterate g j.cols j.refine c)
    | _, _ => none
  t.map (fun t => let e := evalPoint g t.1; (e.1, firstSat t.2 e.2))

/-- What follows a completed iterate (R212, R213): the convergence test comes before the deadline. -/
def afterIter (c : Ctx) (k : Job) (pt : IterPoint) (p : PatSlot) (s : State) : State :=
  if converged k pt then
    let w := warnStatus k
    let k := { k with best := some (k.iters, pt) }
    endJob c k w.1 w.2 0 true (pointSections p pt.it) 0 s
  else if infeasible k.iters (2 ^ (24 - k.epsExp)) k.bestRps pt.dualLarge then endJob c k 0x27 0 0 false (bestSol k) 0 s
  else if k.maxIter ≤ k.iters then endJob c k 0x26 0 0 true (bestSol k) 0 s
  else if jobCancelled k s then endJob c k 0x03 0 0 false [] 0 s
  else s

/-- QP_ITERATION_COMPLETE (R192, R209 to R213, R217): an iteration that completes at or before DEADLINE counts. A saturation in its vector operations
ends the job. -/
def qpIteration (s : State) : State :=
  match computing s with
  | none => s
  | some c =>
    match ctxJob c s with
    | none => s
    | some j =>
      match (if j.qp then j.pat else none) with
      | none => s
      | some p =>
        if overdue j s then actDeadline c j s
        else
          match nextPoint p j with
          | none => s
          | some (pt, sat) =>
            let s := if j.stage = .solve then pmcAdd 0x12 2 s else s
            if sat.isSome then
              let k := { j with sat := firstSat j.sat sat }
              endJob c k 0x23 0 0 false (bestSol k) 0 (putCtx c (some k) s)
            else
              let k := iterJob pt j
              afterIter c k pt p (putCtx c (some k) s)

def execQpIterationComplete (s : State) := run qpIteration s

/-- The solve and the refinement of a job whose factor is complete (R207). -/
def kktSolved (p : PatSlot) (j : Job) : Solved :=
  solveRefined (suppliedEntries p j.input) j.cols (roleElems p 0x02) (roleElems p 0x10) j.refine (roleVals p j.input 0x02)

/-- The relative residual of a KKT_SOLVE (R207): ‖r‖∞ / (1 + ‖rhs‖∞). -/
def kktMerit (p : PatSlot) (j : Job) (v : Solved) : Nat :=
  let e := roleElems p 0x02
  uq824 (normInf e v.r / (1 + normInf e (roleVals p j.input 0x02)))

/-- The pattern of a KKT job whose factorisation is complete. -/
def solvingPat (j : Job) : Option PatSlot := if j.qp || j.stage != .solve then none else j.pat

/-- KKT_SOLVE_COMPLETE (R192, R207, R217, R219): the solve and its refinement end the job; a deadline that has passed gives DEADLINE_NONE. -/
def kktComplete (s : State) : State :=
  match computing s with
  | none => s
  | some c =>
    match ctxJob c s with
    | none => s
    | some j =>
      match (if c = .f then none else solvingPat j) with
      | none => s
      | some p =>
        if overdue j s then actDeadline c j s
        else
          let v := kktSolved p j
          let s := pmcAdd 0x12 1 (pmcAdd 0x13 j.refine s)
          let sol := solSections p 0x10 v.x
          if v.sat.isSome then endJob c { j with sat := v.sat } 0x23 0 0 false sol (kktMerit p j v) s
          else let w := warnStatus j; endJob c j w.1 w.2 0 true sol (kktMerit p j v) s

def execKktSolveComplete (s : State) := run kktComplete s

/-- FASTPORT_JOB_COMPLETE (R142, R192, R218): the job that the churn computed on context F has run to its end; its status and its solution go to the
separator. -/
def fastportComplete (s : State) : State :=
  match (if computing s = some .f then s.chu.f else none) with
  | none => s
  | some j =>
    match solvingPat j with
    | none => s
    | some p =>
      if overdue j s then actDeadline .f j s
      else
        let v := kktSolved p j
        let s := pmcAdd 0x12 1 (pmcAdd 0x13 j.refine s)
        if v.sat.isSome then sepJobEnd 0x23 [] (fastEnd 0x23 s)
        else sepJobEnd (fastStatus j) (bsVals (roleElems p 0x10) v.x) (fastEnd (fastStatus j) s)

def execFastportJobComplete (s : State) := run fastportComplete s

/-- A waiting job whose deadline has passed never starts and writes nothing (R217). -/
def expireWaiting (j : Job) (s : State) : State :=
  let s := countJob 0x21 { s with chu := { s.chu with queue := dropJob j s.chu.queue } }
  let s := setF 0x10020 19 16 (jobPair j) (setF 0x10020 31 24 0x21 s)
  let s := noteSolve j 0x21 0 false s
  match j.req with | some r => finish r 0x21 0 s | none => s

/-- CHU_DEADLINE (R217): a waiting job at once; the computing job at this comparison; a parked job when it resumes. -/
def chuDeadline (who : Option Req) (s : State) : State :=
  let waiting := s.chu.queue.find? (fun j => j.req == who && overdue j s)
  match waiting with
  | some j => expireWaiting j s
  | none =>
    match [Ctx.f, Ctx.r0, Ctx.rh].find? (fun c => match ctxJob c s with | some j => j.req == who | none => false) with
    | none => s
    | some c =>
      match ctxJob c s with
      | none => s
      | some j =>
        if !overdue j s then s
        else if !j.begun then expireWaiting j (putCtx c none s)
        else if s.chu.comp = some c then actDeadline c j s
        else s

def execChuDeadline (who : Option Req) (s : State) := run (chuDeadline who) s

/-! ## Pattern slots -/

/-- The section table of a pattern image (R199), which follows the header at 40h. -/
def patTable (p : PatternImage) : List (Nat × Nat × Nat × Nat) := secTable p.header 0x40 ((p.header.length - 0x40) / 16)

/-- Whether an image's header and section CRCs hold (R199): MAGIC, FORMAT, KIND, the sections of the KIND, each once, and their CRC-32. -/
def patHeadOk (p : PatternImage) (len : Nat) : Bool :=
  let ids := (patTable p).map (·.1)
  let need := (List.range (if leAt p.header 6 1 = 2 then 7 else 5)).map (· + 1)
  leAt p.header 0 4 == 0x54505A44 && leAt p.header 4 2 == 1 && within (leAt p.header 6 1) 1 2 && decide (0x40 ≤ p.header.length) &&
    need.all (fun i => ids.contains i) && ids.eraseDups.length == ids.length &&
    (patTable p).all (fun e => decide (e.2.1 + e.2.2.1 ≤ len)) && p.crcs == (patTable p).map (fun e => e.2.2.2)

/-- Whether the counts of a pattern's header and its sections stay within the limits of R195 and R199. -/
def patLimitsOk (p : PatternImage) : Bool :=
  let h := fun at_ n => leAt p.header at_ n
  let qp := h 6 1 == 2
  let rows := h 8 4
  rows == h 0xC 4 + h 0x10 4 && (!qp || (within (h 0xC 4) 1 32768 && decide (h 0x10 4 ≤ 65536))) && within (h 0x14 2) 1 4096 &&
    h 0x14 2 == p.body.blocks.length && h 0x16 2 == p.body.panels.length && p.body.order.length == rows && p.body.signs.length == rows &&
    (qp || ((p.body.signs.filter (fun x => x)).length == h 0xC 4)) && p.body.panels.all (fun x => within x.1 1 64) &&
    p.body.panels.foldl (fun n x => n + x.1) 0 == rows && p.body.order.all (fun r => decide (r < rows)) && p.body.order.eraseDups.length == rows &&
    (!qp || (p.body.keys.length == h 0xC 4 && p.body.conKeys.length == h 0x10 4))

/-- PATTERN_LOAD's checks of the image (R195, R199, R200): the DETAIL of CFG_REFUSED, if any. -/
def imageBad (p : PatternImage) (len : Nat) : Option Nat :=
  let sig := BitVec.ofNat 64 (leAt p.header 0x20 8)
  if !patHeadOk p len then some 1
  else if sig ≠ Config.patDigest p.body then some 2
  else if !patLimitsOk p then some 3
  else if 100000 < longestPanel sig p.body then some 4
  else none

/-- The slot that a loaded image fills (R199). -/
def loadedSlot (p : PatternImage) : PatSlot :=
  let sig := BitVec.ofNat 64 (leAt p.header 0x20 8)
  { kindQp := leAt p.header 6 1 == 2, freeStand := leAt p.header 7 1 % 2 == 1, nVars := leAt p.header 0xC 4, nCons := leAt p.header 0x10 4,
    structSig := BitVec.ofNat 64 (leAt p.header 0x18 8), patSig := sig, factorNnz := leAt p.header 0x28 4, lineage := p.lineage,
    longestNs := longestPanel sig p.body, body := p.body }

/-- PATTERN_LOAD (R200): the slot number first. -/
def patternLoad (r : Req) (slot : Nat) (p : PatternImage) (len : Nat) (s : State) : State :=
  if !within slot 12 15 then finish r 0x16 8 s
  else if patBusy slot s then finish r 0x17 0 s
  else
    match imageBad p len with
    | some d => finish r 0x19 d s
    | none => complete r 0x00 0 len [] { s with chu := { s.chu with pats := tput s.chu.pats slot (loadedSlot p) } }

/-- PATTERN_LOAD takes the slot in PARAM byte 08h and the image from its buffer (R200). -/
def execPatternLoad (r : Req) (p : PatternImage) (s : State) :=
  run (withOp r [0x0112] (some []) (fun d _ s => if descInl d then finish r 0x12 0 s else patternLoad r (leAt d.param 8 1) p d.length s)) s

/-- PATTERN_FREE (R200). -/
def patternFree (r : Req) (slot : Nat) (s : State) : State :=
  if !within slot 12 15 then finish r 0x16 0 s
  else if patBusy slot s then finish r 0x17 0 s
  else complete r 0x00 0 1 [] { s with chu := { s.chu with pats := tdel s.chu.pats slot } }

def execPatternFree (r : Req) (s : State) := run (inlineOp r 0x0113 1 (fun b => patternFree r (leAt b 0 1))) s

/-- CHU_PATTERNS_REBUILT (R197, R220): slots 0 to 11 are built again from the active model. -/
def chuRebuilt (s : State) : State :=
  if !s.chu.building then s
  else
    let s := { s with chu := { s.chu with building := false } }
    match s.model.active with
    | some m => pmcAdd 0x19 (builtPats s.cfg.watch m).length { s with chu := { s.chu with pats := builtPats s.cfg.watch m ++ hostPats s.chu.pats } }
    | none => s

def execChuPatternsRebuilt (s : State) := run chuRebuilt s

end Sys2Proof.Machine
end

