-- ==== Sys2Proof/Machine/Ctr.lean ====
section
/-!
DEFINITION. The curd tracker: the step, stores, merging, the forecast, the delay table, rebuilds, records and operations (R164 to R188).
Volumes are held in 1/1024 mL and temperatures in 1/1024 mK (log entry 7).
-/
namespace Sys2Proof.Machine

/-! ## Mixing -/

/-- No water. -/
def noWater : Curd := { vol := 0, temp := 0, seed := 0 }

/-- Water mixed perfectly (R168): volumes and seeded fractions add, and the temperature is the volume-weighted mean. -/
def mixCurds (l : List Curd) : Curd :=
  let v : Nat := (l.map (·.vol)).foldl (· + ·) 0
  if v = 0 then noWater
  else { vol := v, temp := (l.map (fun c => c.temp * (c.vol : Int))).foldl (· + ·) 0 / (v : Int),
         seed := (l.map (fun c => c.seed * c.vol)).foldl (· + ·) 0 / v }

/-- Water cooled toward a temperature by a factor in 2^-32 (R169). -/
def coolBy (k : Nat) (tg : Int) (c : Curd) : Curd := { c with temp := tg + (c.temp - tg) * (k : Int) / 2 ^ 32 }

/-- exp(–n / d) in 2^-32 (R169), at most 1, and 1 at 0. -/
def expFactor (n d : Nat) : Nat := if n = 0 ∨ d = 0 then 2 ^ 32 else min (2 ^ 32) (Config.expNeg n d)

/-- The cooling factor of a pipe over a time in ns (R169): U·Δt / (C·A), from U in mW/(m·K) and the diameter in 0.1 mm, with C = 1.163 kWh/(m³·K) =
4,186,800 J/(m³·K) and A = π·D²/4. -/
def pipeFactor (lossMw diam ns : Nat) : Nat :=
  expFactor (lossMw * ns * 400000000 * 1000000000) (1000000000000 * 4186800 * (3141592653 * diam * diam))

/-- The cooling factor of a store's layers over a time in ns (R171): the store's loss coefficient in mW/K and its volume in L take the place of U and
A, in equal parts for equal layers. -/
def storeFactor (lossMw volume ns : Nat) : Nat := expFactor (lossMw * ns * 10) (1000000000000 * 41868 * volume)

/-- The first v of a queue's water from its front: what is taken, and the rest (R168: a curd that is partly passed is split). -/
def takeVol : Nat → List Curd → List Curd × List Curd
  | _, [] => ([], [])
  | v, c :: cs =>
    if v = 0 then ([], c :: cs)
    else if c.vol ≤ v then let r := takeVol (v - c.vol) cs; (c :: r.1, r.2)
    else ([{ c with vol := v }], { c with vol := c.vol - v } :: cs)

/-- The volume of a pipe in 1/1024 mL, from its diameter in 0.1 mm and its length in mm. -/
def pipeVol (b : Branch) : Nat := 3141592653 * b.diam * b.diam * b.lengthMm * 1024 / 400000000000000

/-- The volume that a flow in 1/256 L/h passes in 1/n s, in 1/1024 mL. -/
def flowVol (q : Int) (n : Nat) : Nat := q.natAbs * 10 / (9 * n)

/-! ## Flows of a step -/

/-- What a step knows of the network: the model, the branch flows of the estimate and the set-up of R186; in a projection, the source temperatures by
branch at which it holds them (R174). -/
structure StepEnv where
  m       : ModelImage
  q       : List Int
  stall   : Nat
  mergeDt : Nat
  high    : Nat
  ground  : Tbl Int
  subs    : Nat
  frozen  : Option (Tbl Int)

/-- The flow of a branch. -/
def envQ (e : StepEnv) (i : Nat) : Int := e.q.getD i 0

/-- Whether a pipe is stalled (R170). -/
def stalled (e : StepEnv) (i : Nat) : Bool := decide ((envQ e i).natAbs < e.stall * 256)

/-- Whether a pipe holds curds: its volume is at least its flow over 62.5 ms (R165). -/
def holds (e : StepEnv) (i : Nat) (b : Branch) : Bool := b.kind == .pipe && decide (flowVol (envQ e i) 16 ≤ pipeVol b)

/-- Whether a branch moves water: a stalled pipe does not (R170). -/
def moves (e : StepEnv) (i : Nat) (b : Branch) : Bool := envQ e i != 0 && !(b.kind == .pipe && stalled e i)

/-- Whether a branch belongs to a unit (R165). -/
def isUnit (b : Branch) : Bool := b.kind == .station || b.kind == .plant || b.kind == .store

/-- The node that a branch draws from, and the node that it feeds. -/
def upNode (e : StepEnv) (i : Nat) (b : Branch) : Nat := if 0 ≤ envQ e i then b.fromN else b.toN
/-- The node that a branch feeds. -/
def downNode (e : StepEnv) (i : Nat) (b : Branch) : Nat := if 0 ≤ envQ e i then b.toN else b.fromN

/-- The branches of the model with their dense indices. -/
def branchList (m : ModelImage) : List (Nat × Branch) := m.branches.mapIdx (fun i b => (i, b))

/-- The sub-steps of a second (R168): the smallest number from 1 to 16 for which no curd-holding pipe passes more than its volume. -/
def subSteps (e : StepEnv) : Nat :=
  let ok := fun n => (branchList e.m).all (fun x => !holds e x.1 x.2 || stalled e x.1 || decide (flowVol (envQ e x.1) n ≤ pipeVol x.2))
  (((List.range 16).map (· + 1)).find? ok).getD 16

/-- The ground temperature of a pipe in 1/1024 mK (R169). -/
def groundOf (e : StepEnv) (b : Branch) : Int :=
  (if b.groundMp = 0 then b.groundMk else tgetD e.ground b.groundMp (netMid e.m b.net)) * 1024

/-- Water cooled for a time in ns in a pipe. -/
def coolIn (e : StepEnv) (b : Branch) (ns : Nat) (c : Curd) : Curd := coolBy (pipeFactor b.lossMw b.diam ns) (groundOf e b) c

/-! ## Sources -/

/-- A plant's source temperature in mK (R166): the measured outlet temperature in the snapshot, otherwise the last dispatched supply set-point. Where no
set-point was ever dispatched the rule gives no value: 0 °C (DESIGN CHOICE, log entry 96). -/
def plantTemp (m : ModelImage) (out : Nat) (b : Branch) (s : State) : Int :=
  let pts := m.meas.filterMap (fun d => if d.quantity = 3 ∧ d.elem = out then tget s.sep.snap d.mid else none)
  match pts.find? (fun p => !p.2) with | some p => p.1 | none => (tgetD s.disp.setW b.owner []).getD 1 0

/-- The source temperature of the water that a unit emits through a branch (R166), in 1/1024 mK. -/
def sourceNow (e : StepEnv) (layers : Tbl (List Curd)) (s : State) (i : Nat) (b : Branch) : Int :=
  match b.kind with
  | .plant => plantTemp e.m (downNode e i b) b s * 1024
  | .station =>
    let dsg := match e.m.networks[b.net]? with | some n => n.designReturn | none => 0
    (match (stn (b.owner % 2 ^ 26) s).lastTemps with | some t => if 0 ≤ envQ e i then t.2 else t.1 | none => dsg) * 1024
  | .store =>
    let l := (if 0 ≤ envQ e i then b.coef.getD 1 0 else b.coef.getD 0 0).toNat
    ((tgetD layers b.owner []).getD l noWater).temp
  | _ => 0

/-- The source temperature of a branch, held at its value in the step where a projection runs (R174). -/
def sourceTemp (e : StepEnv) (layers : Tbl (List Curd)) (s : State) (i : Nat) (b : Branch) : Int :=
  match e.frozen with | some t => tgetD t i 0 | none => sourceNow e layers s i b

/-- The source temperatures of all branches of units. -/
def sourcesAt (e : StepEnv) (layers : Tbl (List Curd)) (s : State) : Tbl Int :=
  (branchList e.m).filterMap (fun x => if isUnit x.2 then some (x.1, sourceNow e layers s x.1 x.2) else none)

/-! ## One sub-step -/

/-- What moves in a step: curds, hold-up volumes with the volumes that nodes owe, and layers, with the counts of R181; the mixes of the last sub-step, the
water that has reached each node in this second, and the networks whose values saturated a transport block. -/
structure Motion where
  curds   : Tbl (List Curd)
  hold    : Tbl Curd
  owed    : Tbl Nat
  layers  : Tbl (List Curd)
  mixes   : Tbl Curd := []
  came    : Tbl Curd := []
  created : Nat := 0
  merged  : Nat := 0
  forced  : Nat := 0
  sat     : List Nat := []

/-- The queue of a pipe with its leading (downstream) end first, or turned back. -/
def leadFirst (q : Int) (l : List Curd) : List Curd := if 0 ≤ q then l.reverse else l

/-- The curds in use. -/
def curdCount (t : Tbl (List Curd)) : Nat := (t.map (fun e => e.2.length)).foldl (· + ·) 0

/-- The water that every flowing pipe expels, and the queues without it (R168 step 2), after cooling. -/
def expel (e : StepEnv) (v : Motion) : Motion × Tbl Curd :=
  (branchList e.m).foldl (fun (a : Motion × Tbl Curd) x =>
    let (i, b) := x
    if !holds e i b then a
    else
      let l := (tgetD a.1.curds b.mid []).map (coolIn e b (1000000000 / e.subs))
      if stalled e i then ({ a.1 with curds := tput a.1.curds b.mid l }, a.2)
      else
        let t := takeVol (flowVol (envQ e i) e.subs) (leadFirst (envQ e i) l)
        ({ a.1 with curds := tput a.1.curds b.mid (leadFirst (envQ e i) t.2) }, tput a.2 i (mixCurds t.1)))
    (v, [])

/-- The branches through which water passes in the same sub-step (R165). -/
def passes (e : StepEnv) (x : Nat × Branch) : Bool := moves e x.1 x.2 && !isUnit x.2 && !holds e x.1 x.2

/-- The water that branches bring to a node in a sub-step (R168 step 3): that of pipes, and that which other branches pass through from the nodes
before. -/
def nodeWater (e : StepEnv) (out : Tbl Curd) (done : Tbl Curd) (n : Nat) : List Curd :=
  (branchList e.m).filterMap (fun x =>
    let (i, b) := x
    if downNode e i b != n || !moves e i b || isUnit b then none
    else if holds e i b then tget out i
    else
      let w : Curd := { tgetD done (upNode e i b) noWater with vol := flowVol (envQ e i) e.subs }
      some (if b.kind = .pipe then coolIn e b (pipeVol b * 1000000000 / max 1 (flowVol (envQ e i) 1)) w else w))

/-- The water that units emit at a node (R166, R168 step 3). -/
def unitWater (e : StepEnv) (s : State) (v : Motion) (n : Nat) : List Curd :=
  (branchList e.m).filterMap (fun x =>
    if isUnit x.2 && downNode e x.1 x.2 == n && moves e x.1 x.2 then
      some { vol := flowVol (envQ e x.1) e.subs, temp := sourceTemp e v.layers s x.1 x.2, seed := 0 } else none)

/-- The mix at a node with its hold-up volume (R168 steps 3 and 5); where no water is, the hold-up's last temperature stands. -/
def nodeMix (e : StepEnv) (s : State) (v : Motion) (out : Tbl Curd) (done : Tbl Curd) (n : Nat) : Curd :=
  let h := tgetD v.hold n noWater
  let m := mixCurds (h :: nodeWater e out done n ++ unitWater e s v n)
  if m.vol = 0 then h else m

/-- The mixes of all nodes: a node follows those that feed it through branches that hold no water; in a cycle the first one goes on. -/
def allMixes (e : StepEnv) (s : State) (v : Motion) (out : Tbl Curd) : Nat → List Nat → Tbl Curd → Tbl Curd
  | 0, _, done => done
  | k + 1, left, done =>
    let free := fun n => (branchList e.m).all (fun x => !(passes e x && downNode e x.1 x.2 == n) || !left.contains (upNode e x.1 x.2))
    match (left.find? free).orElse (fun _ => left.head?) with
    | none => done
    | some n => allMixes e s v out k (without left n) (tput done n (nodeMix e s v out done n))

/-- The queue of a pipe after a new inlet curd (R168 step 4, R172, R173): joined to the curd behind it where R172 allows it, or because no
curd is free. The inlet is the last of a leading-first queue. -/
def intake (e : StepEnv) (b : Branch) (c : Curd) (full : Bool) (lead : List Curd) : List Curd × Nat × Nat × Nat :=
  match lead.getLast? with
  | none => ([c], 1, 0, 0)
  | some o =>
    let near := decide ((o.temp - c.temp).natAbs ≤ e.mergeDt * 1024) && decide (16 * (o.vol + c.vol) ≤ pipeVol b)
    if near then (lead.dropLast ++ [mixCurds [o, c]], 1, 1, 0)
    else if full then (lead.dropLast ++ [mixCurds [o, c]], 0, 0, 1)
    else (lead ++ [c], 1, 0, 0)

/-- The largest magnitude of a transport block of a network (R125, R164), in 1/1024 of mL or mK (log entry 96). -/
def blockMax (m : ModelImage) (net what : Nat) : Option Nat := (m.expOf (.transport net what)).map (fun e => (bsVal e bsMax * 1024).floor.toNat)

/-- A curd held to the transport volume and temperature blocks of its network, and whether it saturated one (R164, R177). -/
def heldCurd (m : ModelImage) (net : Nat) (c : Curd) : Curd × Bool :=
  let vol := match blockMax m net 0 with | some x => min c.vol x | none => c.vol
  let temp := match blockMax m net 1 with | some x => clampI (-(x : Int)) x c.temp | none => c.temp
  ({ c with vol := vol, temp := temp }, vol != c.vol || temp != c.temp)

/-- Every curd held to the transport blocks of its network; SAT marks the networks where a value had to be held (R177). -/
def holdBlocks (e : StepEnv) (v : Motion) : Motion :=
  e.m.branches.foldl (fun v b =>
    match tget v.curds b.mid with
    | none => v
    | some l =>
      let h := l.map (heldCurd e.m b.net)
      { v with curds := tput v.curds b.mid (h.map (·.1)), sat := if h.any (·.2) then addOnce v.sat b.net else v.sat }) v

/-- Water enters the pipes at their upstream ends (R168 step 4). -/
def fillPipes (e : StepEnv) (mixes : Tbl Curd) (v : Motion) : Motion :=
  (branchList e.m).foldl (fun v x =>
    let (i, b) := x
    if !holds e i b || stalled e i then v
    else
      let c : Curd := { tgetD mixes (upNode e i b) noWater with vol := flowVol (envQ e i) e.subs }
      let r := intake e b c (decide (262144 ≤ curdCount v.curds)) (leadFirst (envQ e i) (tgetD v.curds b.mid []))
      { v with curds := tput v.curds b.mid (leadFirst (envQ e i) r.1), created := v.created + r.2.1, merged := v.merged + r.2.2.1,
               forced := v.forced + r.2.2.2 }) v

/-- The hold-up volumes after the outflows (R168 step 5): what is left at a node, or what it owes, joins the next sub-step's mix. -/
def keepHold (e : StepEnv) (mixes : Tbl Curd) (v : Motion) : Motion :=
  (e.m.nodes.map (·.mid)).foldl (fun v n =>
    let mx := tgetD mixes n noWater
    let gone := (((branchList e.m).filter (fun x => moves e x.1 x.2 && upNode e x.1 x.2 == n)).map
      (fun x => flowVol (envQ e x.1) e.subs)).foldl (· + ·) 0 + tgetD v.owed n 0
    { v with hold := tput v.hold n { mx with vol := mx.vol - gone }, owed := tput v.owed n (gone - mx.vol) }) v

/-- The store branches that move water, as (store, layer that water enters, layer that it leaves, entering water). -/
def storeFlows (e : StepEnv) (mixes : Tbl Curd) : List (Nat × Nat × Nat × Curd) :=
  (branchList e.m).filterMap (fun x =>
    let (i, b) := x
    if b.kind != .store || !moves e i b then none
    else
      let a := (if 0 ≤ envQ e i then b.coef.getD 0 0 else b.coef.getD 1 0).toNat
      let z := (if 0 ≤ envQ e i then b.coef.getD 1 0 else b.coef.getD 0 0).toNat
      some (b.owner, a, z, { tgetD mixes (upNode e i b) noWater with vol := flowVol (envQ e i) e.subs }))

/-- The layers of a store after the water of its ports (R171): entering water mixes into its layer, water leaves at the outflowing layers, and the
layers between move by the net volume, each giving its mixed water to its neighbour. -/
def moveLayers (fl : List (Nat × Nat × Curd)) (l : List Curd) : List Curd :=
  let sum := fun (c : List (Nat × Nat × Curd)) => ((c.map (·.2.2.vol)).foldl (· + ·) 0 : Nat)
  let ins := fun j => fl.filter (fun f => f.1 == j)
  let mixed := l.mapIdx (fun j c => mixCurds (c :: (ins j).map (·.2.2)))
  let net := fun (k : Nat) => ((sum (fl.filter (fun f => decide (f.1 ≤ k))) : Nat) : Int) - (sum (fl.filter (fun f => decide (f.2.1 ≤ k))) : Nat)
  let down := fun (k : Nat) => if k + 1 < l.length then (net k).toNat else 0
  let up := fun (k : Nat) => if k + 1 < l.length then (-(net k)).toNat else 0
  l.mapIdx (fun j c =>
    let own := mixed.getD j noWater
    let outs := sum (fl.filter (fun f => f.2.1 == j)) + down j + (if j = 0 then 0 else up (j - 1))
    let above := if j = 0 then noWater else { mixed.getD (j - 1) noWater with vol := down (j - 1) }
    let below := { mixed.getD (j + 1) noWater with vol := up j }
    { mixCurds [{ own with vol := own.vol - outs }, above, below] with vol := c.vol })

/-- A layer joins the stack above it: while the block above is colder, the two mix (R171). -/
def settle : List (Nat × Curd) → Nat × Curd → List (Nat × Curd)
  | [], b => [b]
  | a :: r, b => if a.2.temp < b.2.temp then settle r (a.1 + b.1, mixCurds [a.2, b.2]) else b :: a :: r

/-- The layers of a store once every layer warmer than the one above it has mixed with it (R171): the stack is stable. -/
def stableLayers (l : List Curd) : List Curd :=
  let blocks := ((l.map (fun c => (1, c))).foldl settle []).reverse
  List.zipWith (fun (c x : Curd) => { x with vol := c.vol }) l (blocks.flatMap (fun b => List.replicate b.1 b.2))

/-- The stores in a sub-step (R171): the water of the ports, the cooling of the layers, and a stable stack; in a projection they stand (R174). -/
def moveStores (e : StepEnv) (mixes : Tbl Curd) (v : Motion) : Motion :=
  if e.frozen.isSome then v
  else
    let fl := storeFlows e mixes
    { v with layers := v.layers.map (fun x =>
        let l := moveLayers ((fl.filter (fun f => f.1 == x.1)).map (·.2)) x.2
        let k := match e.m.units.find? (fun u => u.mid == x.1) with | some u => storeFactor u.lossMw u.volume (1000000000 / e.subs) | none => 2 ^ 32
        let tg := match e.m.branches.find? (fun b => b.owner == x.1) with | some b => groundOf e b | none => 0
        (x.1, stableLayers (l.map (coolBy k tg)))) }

/-- One sub-step (R168): the water that reached each node joins that of the second. -/
def subStep (e : StepEnv) (s : State) (v : Motion) : Motion :=
  let x := expel e v
  let nodes := e.m.nodes.map (·.mid)
  let mixes := allMixes e s x.1 x.2 nodes.length nodes []
  let came := nodes.map (fun n => (n, mixCurds (tgetD v.came n noWater :: nodeWater e x.2 mixes n)))
  { holdBlocks e (moveStores e mixes (keepHold e mixes (fillPipes e mixes x.1))) with mixes := mixes, came := came }

/-- One second of motion (R168), n sub-steps, with the water that reached each node in it. -/
def oneSecond (e : StepEnv) (s : State) (v : Motion) : Motion := (List.range e.subs).foldl (fun v _ => subStep e s v) { v with came := [] }

/-! ## Forced merges -/

/-- The adjacent pairs of a pipe in rising downstream order: the product of temperature difference and merged volume, and the place. -/
def pairCosts (l : List Curd) : List (Nat × Nat) :=
  (List.range (l.length - 1)).map (fun i =>
    let a := l.getD i noWater
    let b := l.getD (i + 1) noWater
    ((a.temp - b.temp).natAbs * (a.vol + b.vol), i))

/-- The pair to merge next (R173): the smallest product; on equal products the lower dense pipe index, and there the pair further
downstream. -/
def cheapest (e : StepEnv) (t : Tbl (List Curd)) : Option (Branch × Int × Nat) :=
  let all := (branchList e.m).flatMap (fun x =>
    (pairCosts (leadFirst (envQ e x.1) (tgetD t x.2.mid []))).map (fun c => (c.1, x.2, envQ e x.1, c.2)))
  (all.foldl (fun (a : Option (Nat × Branch × Int × Nat)) c => match a with
    | none => some c
    | some b => if c.1 < b.1 then some c else some b) none).map (fun c => c.2)

/-- Forced merges until the count is at most the limit (R173). -/
def forceMerges (e : StepEnv) (limit : Nat) : Nat → Motion → Motion
  | 0, v => v
  | k + 1, v =>
    if curdCount v.curds ≤ limit then v
    else
      match cheapest e v.curds with
      | none => v
      | some (b, q, i) =>
        let l := leadFirst q (tgetD v.curds b.mid [])
        let m := mixCurds [l.getD i noWater, l.getD (i + 1) noWater]
        let l := (l.set i m).eraseIdx (i + 1)
        forceMerges e limit k { v with curds := tput v.curds b.mid (leadFirst q l), forced := v.forced + 1 }

/-! ## The forecast -/

/-- The receiving ports (R174): the nodes through which water enters a unit, in dense order. -/
def recvPorts (e : StepEnv) : List Node :=
  e.m.nodes.filter (fun n => (branchList e.m).any (fun x => isUnit x.2 && moves e x.1 x.2 && upNode e x.1 x.2 == n.mid))

/-- One minute of projection: the water that arrives at each port, second by second (R174). -/
def projMinute (e : StepEnv) (s : State) (ports : List Nat) (v : Motion) : Motion × List (List Curd) :=
  (List.range 60).foldl (fun a _ =>
    let w := oneSecond e s a.1
    (w, a.2.mapIdx (fun i l => tgetD w.came (ports.getD i 0) noWater :: l))) (v, ports.map (fun _ => []))

/-- The 60 bins of every port (R174). -/
def project (e : StepEnv) (s : State) (ports : List Nat) (v : Motion) : List (List Curd) :=
  ((List.range 60).foldl (fun (a : Motion × List (List Curd)) _ =>
    let r := projMinute e s ports a.1
    (r.1, a.2.mapIdx (fun i l => l ++ [mixCurds (r.2.getD i [])]))) (v, ports.map (fun _ => []))).2

/-- The sources of the water at a node: the source MID, its share in 2^-32 and share × delay in ms (R176). -/
abbrev Feeds := List (Nat × Nat × Nat)

/-- Feeds of one source put together. -/
def addFeed (l : Feeds) (x : Nat × Nat × Nat) : Feeds :=
  if l.any (fun y => y.1 == x.1) then l.map (fun y => if y.1 = x.1 then (y.1, y.2.1 + x.2.1, y.2.2 + x.2.2) else y) else l ++ [x]

/-- Transit time of a branch in ms (R176). -/
def transitMs (e : StepEnv) (i : Nat) (b : Branch) : Nat :=
  if b.kind = .pipe then pipeVol b * 1000 / max 1 (flowVol (envQ e i) 1) else 0

/-- The feeds of a node whose feeding nodes are known (R176): shares in proportion to the inflows. -/
def nodeFeeds (e : StepEnv) (done : Tbl Feeds) (n : Nat) : Feeds :=
  let ins := (branchList e.m).filter (fun x => moves e x.1 x.2 && downNode e x.1 x.2 == n)
  let total := (ins.map (fun x => (envQ e x.1).natAbs)).foldl (· + ·) 0
  ins.foldl (fun l x =>
    let w := (envQ e x.1).natAbs * 2 ^ 32 / max 1 total
    if isUnit x.2 then addFeed l (x.2.owner, w, 0)
    else
      (tgetD done (upNode e x.1 x.2) []).foldl (fun l y =>
        let sh := y.2.1 * w / 2 ^ 32
        addFeed l (y.1, sh, y.2.2 * w / 2 ^ 32 + sh * transitMs e x.1 x.2)) l) []

/-- The feeds of every node, upstream nodes first; a node in or behind a cycle without a unit has none (R176). -/
def allFeeds (e : StepEnv) : Nat → List Nat → Tbl Feeds → Tbl Feeds
  | 0, _, done => done
  | k + 1, left, done =>
    let free := fun n => (branchList e.m).all (fun x =>
      isUnit x.2 || !moves e x.1 x.2 || downNode e x.1 x.2 != n || !left.contains (upNode e x.1 x.2))
    match left.find? free with
    | none => done
    | some n => allFeeds e k (without left n) (tput done n (nodeFeeds e done n))

/-- The largest shares first. -/
def insertFeed (x : Nat × Nat × Nat) : Feeds → Feeds
  | [] => [x]
  | y :: r => if y.2.1 < x.2.1 then x :: y :: r else y :: insertFeed x r

/-- A share in UQ0.16. -/
def share16 (w : Nat) : Nat := min (w / 65536) 0xFFFF

/-- The sources that a port lists (R176): at most four, of at least 5 %, as (MID, share, delay in s), and the rest. -/
def portSources (f : Feeds) : List (Nat × Nat × Nat) × Nat :=
  let l := ((f.foldr insertFeed []).take 4).filter (fun x => decide (2 ^ 32 ≤ 20 * x.2.1))
  let used := (l.map (·.2.1)).foldl (· + ·) 0
  (l.map (fun x => (x.1, share16 x.2.1, x.2.2 / max 1 x.2.1 / 1000)), share16 (2 ^ 32 - min used (2 ^ 32)))

/-- σp of R175 in mK, for a seeded fraction in 2^-16 and an estimate age. -/
def sigmaP (seed age : Nat) (s : State) : Nat :=
  getF 0x18008 7 0 s * 10 + seed * getF 0x18008 23 16 s * 100 / 65536 + age * getF 0x18008 15 8 s * 10

/-- The predictions for R149 by node (R175): the mean temperature of the water that arrives in the first second, and σp. -/
def firstPreds (age : Nat) (came : Tbl Curd) (s : State) : Tbl (Int × Nat) :=
  came.filterMap (fun x => if x.2.vol = 0 then none else some (x.1, x.2.temp / 1024, sigmaP x.2.seed age s))

/-- A delay in s held to the block of arrival times of its network (R164, R176), and whether it saturated it. -/
def heldDelay (m : ModelImage) (net d : Nat) : Nat × Bool :=
  match m.expOf (.transport net 2) with | some e => let x := (bsVal e bsMax).floor.toNat; (min d x, decide (x < d)) | none => (d, false)

/-- What a projection gives: the ports, the predictions, and the networks whose delays saturated their block. -/
structure Forecast where
  ports : List PortFcst
  preds : Tbl (Int × Nat)
  sat   : List Nat

/-- The forecast after the motion (R174 to R176): flows and source temperatures stand at their values in the step. -/
def forecastOf (e : StepEnv) (age : Nat) (v : Motion) (s : State) : Forecast :=
  let e := { e with frozen := some (sourcesAt e v.layers s) }
  let ns := recvPorts e
  let bins := project e s (ns.map (·.mid)) v
  let first := (oneSecond e s v).came
  let nodes := e.m.nodes.map (·.mid)
  let feeds := allFeeds e nodes.length nodes []
  let ps := ns.mapIdx (fun i n =>
    let f := tget feeds n.mid
    let src := match f with | some f => portSources f | none => ([], 0)
    let held := src.1.map (fun x => (x.1, x.2.1, heldDelay e.m n.net x.2.2))
    (({ mid := n.mid, net := n.net, sources := held.map (fun x => (x.1, x.2.1, min x.2.2.1 0xFFFF)), other := src.2, cycle := f.isNone,
        bins := (bins.getD i []).map (fun c => if c.vol = 0 then none else some (c.temp / 1024)),
        sigma := sigmaP (tgetD first n.mid noWater).seed age s } : PortFcst), held.any (·.2.2.2)))
  { ports := ps.map (·.1), preds := firstPreds age first s, sat := (ps.filter (·.2)).map (·.1.net) }

/-! ## Rebuild -/

/-- The steady-state temperature that a branch carries to a node, with the time that it takes (R178). -/
def carried (e : StepEnv) (t : Tbl Int) (n : Nat) (x : Nat × Branch) : Option (Nat × Int) :=
  let (i, b) := x
  if !moves e i b || isUnit b || downNode e i b != n then none
  else (tget t (upNode e i b)).map (fun v =>
    let ms := transitMs e i b
    (ms, if b.kind = .pipe then (coolIn e b (ms * 1000000) { vol := 1, temp := v * 1024, seed := 0 }).temp / 1024 else v))

/-- The temperatures of the nodes for a rebuild, one branch further downstream each time (R178): the nearest upstream node is the one over the fewest
branches, and among those the one from which water takes the least time (DESIGN CHOICE, log entry 96). -/
def carryTemps (e : StepEnv) : Nat → Tbl Int → Tbl Int
  | 0, t => t
  | k + 1, t =>
    let found := (e.m.nodes.map (·.mid)).filterMap (fun n =>
      if (tget t n).isSome then none
      else ((branchList e.m).filterMap (carried e t n)).foldl (fun (a : Option (Nat × Nat × Int)) c => match a with
        | some b => if c.1 < b.2.1 then some (n, c) else a
        | none => some (n, c)) none)
    if found.isEmpty then t else carryTemps e k (found.foldl (fun t f => tput t f.1 f.2.2) t)

/-- The curds of a rebuilt pipe (R178): four of equal volume, interpolated between the end nodes, seeded. -/
def rebuilt (b : Branch) (tf tt : Int) : List Curd :=
  (List.range 4).map (fun (k : Nat) =>
    let t : Int := (tf * 1024 * (7 - 2 * (k : Int)) + tt * 1024 * (2 * (k : Int) + 1)) / 8
    ⟨pipeVol b / 4 + (if k = 0 then pipeVol b % 4 else 0), t, 65536⟩)

/-- The pipes to rebuild take their curds (R178); a pipe through which water passes holds none (R165). -/
def rebuildPipes (e : StepEnv) (est : Estimate) (pipes : List Nat) (t : Tbl (List Curd)) : Tbl (List Curd) :=
  let known := est.nodes.foldl (fun (t : Tbl Int) n => match n.2.temp with | some v => tput t n.1 v | none => t) []
  let temps := carryTemps e e.m.nodes.length known
  (branchList e.m).foldl (fun t x =>
    let (i, b) := x
    if b.kind = .pipe ∧ pipes.contains b.mid then
      let at_ := fun n => tgetD temps n (netMid e.m b.net)
      tput t b.mid (if holds e i b then rebuilt b (at_ b.fromN) (at_ b.toN) else [])
    else t) t

/-- The pipes as the step finds them (R165): one through which water passes holds no curds, and one that holds them again is filled with the water of its
upstream node (DESIGN CHOICE, log entry 96). -/
def fitPipes (e : StepEnv) (hold : Tbl Curd) (t : Tbl (List Curd)) : Tbl (List Curd) :=
  (branchList e.m).foldl (fun t x =>
    let (i, b) := x
    match (if b.kind = .pipe then tget t b.mid else none) with
    | none => t
    | some l =>
      if !holds e i b then tput t b.mid []
      else if l.isEmpty then
        tput t b.mid [{ vol := pipeVol b, temp := (match tget hold (upNode e i b) with | some c => c.temp | none => netMid e.m b.net * 1024), seed := 0 }]
      else t) t

/-- The layers of a store before the first step that moves it: its volume in equal layers at the midpoint of the network's range. -/
def freshLayers (m : ModelImage) (t : Tbl (List Curd)) : Tbl (List Curd) :=
  m.units.foldl (fun t u =>
    if u.layers = 0 ∨ (tget t u.mid).isSome then t
    else
      let n := match m.branches.find? (fun b => b.owner == u.mid) with | some b => b.net | none => 0
      tput t u.mid (List.replicate u.layers { vol := u.volume * 1024 * 1000 / u.layers, temp := netMid m n * 1024, seed := 0 })) t

/-! ## Records -/

/-- What a step did, for its record (R181). -/
structure StepOut where
  status   : Nat
  flags    : Nat
  estRound : Nat
  subs     : Nat
  created  : Nat
  merged   : Nat
  forced   : Nat
  reversed : Nat
  stalls   : Nat
  seeded   : Nat
  us       : Nat

/-- NET_STATE (R181). -/
def netStateByte (s : State) : Nat := (List.range 4).foldl (fun v n => v ||| (s.ctr.netState.getD n 3) <<< (2 * n)) 0

/-- The step record's first 3Ch bytes (R181). -/
def stepRecord (o : StepOut) (s : State) : Bytes :=
  le 8 s.rnd.number ++ le 8 o.estRound ++ le 8 (modelSigs s).1.toNat ++ le 1 o.status ++ le 1 o.flags ++ le 1 (netStateByte s) ++
    le 1 o.subs ++ le 4 (curdCount s.ctr.curds) ++ le 4 o.created ++ le 4 o.merged ++ le 4 o.forced ++ le 4 o.reversed ++
    le 4 o.stalls ++ le 4 o.seeded ++ le 4 o.us

/-- A port entry of the forecast record (R182): a bin that no water reaches holds 7FFFh. -/
def portEntry (settling : List Nat) (p : PortFcst) : Bytes :=
  let src := (List.range 4).flatMap (fun i => match p.sources[i]? with
    | some x => le 4 x.1 ++ le 2 x.2.1 ++ le 2 x.2.2
    | none => zeros 8)
  let dead := match p.bins with | none :: _ => true | _ => false
  le 4 p.mid ++ le 1 p.sources.length ++ le 1 (b2n p.cycle + 2 * b2n dead + 4 * b2n (settling.contains p.net)) ++
    le 2 (min p.sigma 0xFFFF) ++ src ++ le 2 p.other ++ zeros 2 ++
    ((List.range 60).flatMap (fun i => match p.bins.getD i none with
      | some t => leS 2 (divNear t 10)
      | none => le 2 0x7FFF)) ++ zeros 4

/-- The entries of a CURD_DUMP (R183), from the from-node end. -/
def dumpEntries : Nat → List Curd → Bytes
  | _, [] => []
  | off, c :: cs =>
    le 4 (off / 1024) ++ le 4 (c.vol / 1024) ++ leS 4 (c.temp / 1024) ++ le 1 (min (c.seed / 256) 255) ++ zeros 3 ++
      dumpEntries (off + c.vol) cs

/-- The dumps asked for are delivered at the end of the step (R183). -/
def giveDumps (s : State) : State :=
  let l := s.ctr.dumps
  l.foldl (fun s d =>
    let c := tgetD s.ctr.curds d.2 []
    deliver d.1.pair (le 8 s.rnd.number ++ le 4 d.2 ++ le 4 c.length ++ dumpEntries 0 c) s)
    { s with ctr := { s.ctr with dumps := [] } }

/-! ## The step -/

/-- The last fresh ground temperatures (R169). -/
def freshGround (m : ModelImage) (s : State) : Tbl Int :=
  m.branches.foldl (fun t b =>
    if b.groundMp = 0 then t
    else let v := pointValue b.groundMp s; if v.2 then t else tput t b.groundMp v.1) s.ctr.ground

/-- Every pipe of the networks of a list. -/
def pipesOf (m : ModelImage) (nets : List Nat) : List Nat :=
  (m.branches.filter (fun b => b.kind == .pipe && nets.contains b.net)).map (·.mid)

/-- The status of a step (R177): CURD_INVALID, CURD_AGED, CURD_MERGED, OK. -/
def stepStatus (nets : List Nat) (forced : Nat) : Nat :=
  if nets.contains 2 then 0x39 else if nets.contains 1 then 0x38 else if forced ≠ 0 then 0x3A else 0x00

/-- The pipes of a model that are still to be rebuilt (R178): those marked, and those that have never held curds. -/
def toRebuild (m : ModelImage) (s : State) : List Nat :=
  (m.branches.filter (fun b => b.kind == .pipe && (s.ctr.unrebuilt.contains b.mid || s.ctr.rebuildReq.contains b.net ||
    (tget s.ctr.curds b.mid).isNone))).map (·.mid)

/-- The state of every network after a step (R177): `left` are the pipes still to be rebuilt and `sat` the networks with a saturated block. -/
def netStates (m : ModelImage) (moved fresh late : Bool) (left sat : List Nat) : List Nat :=
  (List.range 4).map (fun n =>
    if m.networks.length ≤ n then 3
    else if !moved || sat.contains n || m.branches.any (fun b => b.net == n && left.contains b.mid) then 2
    else if !fresh || late then 1 else 0)

/-- The end of a step: the registers, the records and the dumps (R181 to R188). -/
def endStep (o : StepOut) (s : State) : State :=
  let v := o.status <<< 24 ||| netStateByte s <<< 16 ||| (o.flags % 16) <<< 8 ||| o.subs
  let s := setPair 0x18030 s.rnd.number (setReg 0x18024 (BitVec.ofNat 32 (curdCount s.ctr.curds)) (setReg 0x18020 (BitVec.ofNat 32 v) s))
  let s := incReg 0x1802C o.reversed (incReg 0x18028 o.forced s)
  let s := pmcAdd 0x29 o.reversed (pmcAdd 0x28 o.forced (pmcAdd 0x27 o.merged (pmcAdd 0x26 o.created (pmcAdd 0x25 o.subs (pmcAdd 0x24 1 s)))))
  let s := if o.status = 0x38 then pmcAdd 0x2B 1 s else s
  let dt := if o.status = 0x3A then o.forced else 0
  let rec_ := stepRecord o s
  let s := deliverWith 6 o.status dt (rec_ ++ zeros 4) s
  let s := if o.status = 0x39 then s
    else deliverWith 7 o.status dt (rec_ ++ le 4 s.ctr.ports.length ++ s.ctr.ports.flatMap (portEntry s.ctr.settling)) s
  giveDumps s

/-- What a step knows of the network on an estimate (R168, R186). -/
def stepEnv (m : ModelImage) (est : Estimate) (s : State) : StepEnv :=
  let flows := m.branches.map (fun b => match est.branches.find? (fun x => x.1 == b.mid) with | some x => x.2.q | none => 0)
  let e : StepEnv := { m := m, q := flows, stall := getF 0x18004 7 0 s, mergeDt := getF 0x18004 31 16 s, high := getF 0x18004 15 8 s,
                       ground := freshGround m s, subs := 1, frozen := none }
  { e with subs := subSteps e }

/-- The motion of a step (R168 to R173, R178). -/
def moveCurds (e : StepEnv) (est : Estimate) (fresh : Bool) (want : List Nat) (s : State) : Motion :=
  let curds := if fresh then rebuildPipes e est want s.ctr.curds else s.ctr.curds
  let v := oneSecond e s { curds := fitPipes e s.ctr.hold curds, hold := s.ctr.hold, owed := s.ctr.owed, layers := freshLayers e.m s.ctr.layers }
  if e.high * 1024 < curdCount v.curds then holdBlocks e (forceMerges e ((e.high - 16) * 1024) (curdCount v.curds) v) else v

/-- The pipes of a step that are stalled (R170). -/
def stalledPipes (e : StepEnv) : Nat := ((branchList e.m).filter (fun x => x.2.kind == .pipe && stalled e x.1)).length

/-- The pipes of a step that reverse (R170). -/
def reversals (e : StepEnv) (s : State) : Nat :=
  ((branchList e.m).filter (fun x => x.2.kind == .pipe && !stalled e x.1 &&
    (match tget s.ctr.lastSign x.2.mid with | some p => p != decide (0 ≤ envQ e x.1) | none => false))).length

/-- The signs of the flows that were last not stalled (R170). -/
def flowSigns (e : StepEnv) (s : State) : Tbl Bool :=
  (branchList e.m).foldl (fun (t : Tbl Bool) x =>
    if x.2.kind == .pipe && !stalled e x.1 then tput t x.2.mid (decide (0 ≤ envQ e x.1)) else t) s.ctr.lastSign

/-- Whether a curd is seeded for SETTLING and SEEDED (R179): a fraction above 1/16. -/
def isSeeded (c : Curd) : Bool := decide (4096 < c.seed)

/-- The curds that SEEDED counts, of stalled pipes too (R179). -/
def seededCount (t : Tbl (List Curd)) : Nat := ((t.flatMap (·.2)).filter isSeeded).length

/-- The networks that carry SETTLING (R179): a flowing pipe holds a seeded curd. -/
def settlingNets (e : StepEnv) (t : Tbl (List Curd)) : List Nat :=
  (List.range 4).filter (fun n => (branchList e.m).any (fun x => x.2.kind == .pipe && x.2.net == n && !stalled e x.1 && (tgetD t x.2.mid []).any isSeeded))

/-- A step in which the curds do not move (R24, R177, R181): `stalls` counts the pipes that the last estimate leaves stalled. -/
def stillStep (all : List Nat) (nets : List Nat) (stalls us : Nat) (s : State) : State :=
  let s := { s with ctr := { s.ctr with unrebuilt := all, netState := nets } }
  let fl := 4 * b2n (!s.ctr.settling.isEmpty)
  endStep ⟨0x39, fl, 0, 0, 0, 0, 0, 0, stalls, seededCount s.ctr.curds, us⟩ s

/-- A step in which the curds move on an estimate (R168 to R179). -/
def movedStep (m : ModelImage) (est : Estimate) (age : Nat) (late : Bool) (us : Nat) (s : State) : State :=
  let fresh := age == 0
  let e := stepEnv m est s
  let want := toRebuild m s
  let v := moveCurds e est fresh want s
  let f := if late then ⟨s.ctr.ports, s.ctr.preds, []⟩ else forecastOf e age v s
  let sat := v.sat ++ f.sat
  let left := if fresh then [] else want
  let settling := settlingNets e v.curds
  let rev := reversals e s
  let nets := netStates m true fresh late left sat
  let s := { s with ctr := { s.ctr with curds := v.curds, hold := v.hold, owed := v.owed, layers := v.layers, lastSign := flowSigns e s,
                                        ground := e.ground, unrebuilt := left, rebuildReq := [], ports := f.ports, preds := f.preds,
                                        settling := settling, netState := nets } }
  let fl := b2n late + 2 * b2n (fresh && !want.isEmpty) + 4 * b2n (!settling.isEmpty) + 8 * b2n (!sat.isEmpty)
  endStep ⟨stepStatus nets v.forced, fl, est.round, e.subs, v.created, v.merged, v.forced, rev, stalledPipes e, seededCount v.curds, us⟩ s

/-- Whether the step may open (R167): the separator window has ended and the separator has published or abandoned. -/
def stepDue (s : State) : Bool := s.rnd.phase == .compute && !s.ctr.stepped && s.sep.settled && decide (sepEnd s ≤ s.tim.mon)

/-- CTR_STEP (R24, R167 to R179, R181): the one step of a round, on a fresh estimate, on the last one up to an age of 10, or standing still; a round
without an active model, or with CTR in its block reset, has its record too (log entry 95). `late` says that the projection did not finish before the
write phase opens, and `us` is the time that the step takes. -/
def ctrStep (late : Bool) (us : Nat) (s : State) : State :=
  if !stepDue s then s
  else
    let s := { s with ctr := { s.ctr with stepped := true } }
    match s.model.active with
    | none => stillStep [] [3, 3, 3, 3] 0 us s
    | some m =>
      let all := pipesOf m (List.range 4)
      let states := netStates m false false late all []
      match s.sep.est with
      | none => stillStep all states 0 us s
      | some est =>
        let age := (estAge s).getD 11
        if 10 < age ∨ s.start.blkRst.contains .ctr then stillStep all states (stalledPipes (stepEnv m est s)) us s else movedStep m est age late us s

def execCtrStep (late : Bool) (us : Nat) (s : State) := run (ctrStep late us) s

/-! ## Operations -/

/-- CURD_DUMP (R183): the item follows at the end of the next step. -/
def curdDump (r : Req) (mid : Nat) (s : State) : State :=
  match s.model.active with
  | none => finish r 0x16 0 s
  | some m =>
    if !m.branches.any (fun b => b.kind == .pipe && b.mid == mid) then finish r 0x16 0 s
    else complete r 0x00 0 4 [] { s with ctr := { s.ctr with dumps := s.ctr.dumps ++ [(r, mid)] } }

def execCurdDump (r : Req) (s : State) := run (inlineOp r 0x0310 4 (fun b => curdDump r (leAt b 0 4))) s

/-- The networks of a mask. -/
def maskNets (mask : Nat) : List Nat := (List.range 4).filter (fun n => mask / 2 ^ n % 2 == 1)

/-- REBUILD (R183): on this module only, at the next step. -/
def ctrRebuild (r : Req) (mask : Nat) (s : State) : State :=
  let nets := match s.model.active with | some m => m.networks.length | none => 0
  if mask = 0 ∨ 16 ≤ mask ∨ (maskNets mask).any (fun n => decide (nets ≤ n)) then finish r 0x16 0 s
  else complete r 0x00 0 4 [] { s with ctr := { s.ctr with rebuildReq := (maskNets mask).foldl addOnce s.ctr.rebuildReq } }

def execRebuild (r : Req) (s : State) := run (inlineOp r 0x0311 4 (fun b => ctrRebuild r (leAt b 0 4))) s

/-- REBUILD of CTR_CTRL (R185): every network, as a mask of Fh. -/
def ctrCtrlRebuild (s : State) : State := { s with ctr := { s.ctr with rebuildReq := [0, 1, 2, 3] } }

end Sys2Proof.Machine
end

