-- ==== Sys2Proof/Machine/Host.lean ====
section
/-!
DEFINITION. The host interface: ring set-up, doorbells, descriptors, buffer posts, vectors and the link (R81 to R119).
-/
namespace Sys2Proof.Machine

/-! ## What a pair accepts -/

/-- The function code of a pair (R87, R95). -/
def pairFunc (n : Nat) : Nat :=
  if n ≤ 3 then 1 else if n ≤ 5 then 2 else if n ≤ 7 then 3 else if n ≤ 9 then 4 else if n ≤ 13 then 5 else if n ≤ 29 then 6
  else if n ≤ 33 then 7 else if n ≤ 41 then 8 else if n ≤ 45 then 9 else if n = 46 then 0x0A else if n = 47 then 0x0B
  else if n ≤ 49 then 0x0C else if n ≤ 51 then 0x0D else if n ≤ 55 then 0x0E else 0x0F

/-- Whether a pair accepts buffer posts (R87). -/
def acceptsBuf (n : Nat) : Bool :=
  !(decide (n ≤ 3) || n == 34 || n == 36 || n == 38 || n == 40 || n == 47 || n == 48 || n == 49)

/-- The operations of the functions and the largest LENGTH of each (R97, and the operation tables of the chapters). -/
def opTable : List (Nat × Nat) :=
  [(0x0110, 536870912), (0x0111, 536870912), (0x0112, 67108864), (0x0113, 1),
   (0x0210, 12), (0x0211, 8), (0x0212, 8), (0x0310, 4), (0x0311, 4),
   (0x0410, 96), (0x0411, 48), (0x0412, 4), (0x0413, 8), (0x0414, 8), (0x0415, 0xFFFFFFFF), (0x0416, 32), (0x0417, 4)] ++
  [(0x0510, 8), (0x0511, 8), (0x0610, 4), (0x0611, 4), (0x0612, 0xFFFFFFFF),
   (0x0710, 4), (0x0711, 0xFFFFFFFF), (0x0712, 24), (0x0713, 24), (0x0714, 16),
   (0x0810, 9000), (0x0811, 2064), (0x0910, 72), (0x0911, 8), (0x0912, 0xFFFFFFFF), (0x0913, 4), (0x0914, 4)] ++
  [(0x0B10, 0xFFFFFFFF), (0x0B11, 0xFFFFFFFF), (0x0B12, 16), (0x0B13, 4), (0x0B14, 4), (0x0B15, 4), (0x0B20, 24), (0x0B21, 24),
   (0x0B22, 24), (0x0C10, 0xFFFFFFFF), (0x0C11, 0xFFFFFFFF), (0x0C12, 65536), (0x0C13, 4), (0x0C14, 0xFFFFFFFF),
   (0x0C15, 0xFFFFFFFF), (0x0D10, 8), (0x0D20, 4)] ++
  [(0x0E10, 8), (0x0E11, 784), (0x0E12, 1552), (0x0E13, 4), (0x0E14, 8), (0x0F20, 4), (0x0F21, 4), (0x0F22, 4), (0x0F23, 4),
   (0x0F24, 4), (0x0F30, 4), (0x0F31, 4), (0x0F32, 16), (0x0F33, 16), (0x0F34, 16)]

/-- The largest LENGTH of an opcode on a pair, or none where the pair does not accept it (R87, R97 check 3). -/
def opMax (pair opcode : Nat) : Option Nat :=
  if opcode / 256 ≠ pairFunc pair then none
  else if (34 ≤ pair ∧ pair ≤ 41 ∧ pair % 2 = 1) ∨ (opcode = 0x0D10 ∧ pair ≠ 50) ∨ (opcode = 0x0D20 ∧ pair ≠ 51) then none
  else (opTable.find? (fun e => e.1 == opcode)).map (·.2)

/-- Checks 1 to 6 of R97 on a command descriptor; the recovery ROM accepts only UPD_MANIFEST and UPD_BLOCK (R540): the status that decides, or none where the function goes on. -/
def descCheck (pair : Nat) (rom : Bool) (d : Desc) (mon : Nat) : Option Nat :=
  if d.version ≠ 1 then some 0x10
  else if d.length = 0 then some 0x01
  else
    match (if rom && (pair != 47 || !(d.opcode == 0x0B10 || d.opcode == 0x0B11)) then none else opMax pair d.opcode) with
    | none => some 0x11
    | some m =>
      if (descInl d && decide (32 < d.length)) || decide (m < d.length) then some 0x12
      else if !descInl d && d.bufAddr % 8 != 0 then some 0x13
      else if d.deadline ≠ 0 ∧ d.deadline < mon then some (if pair ≤ 3 then 0x21 else 0x04)
      else none

/-- The smallest buffer of a pair's stream, where its chapter gives one. -/
def minBuf (pair : Nat) : Nat :=
  if pair = 50 then 32 else if pair = 51 then 272 else if 10 ≤ pair ∧ pair ≤ 13 then 200
  else if 14 ≤ pair ∧ pair ≤ 29 then 32 else if 30 ≤ pair ∧ pair ≤ 33 then 64 else if 42 ≤ pair ∧ pair ≤ 45 then 80 else 1

/-- The checks of an RXBUF (R97): 1, 2, 4 and 5, then the stream's smallest buffer. -/
def postCheck (pair : Nat) (d : Desc) : Option Nat :=
  if d.version ≠ 1 then some 0x10
  else if d.length = 0 then some 0x01
  else if descInl d && decide (32 < d.length) then some 0x12
  else if !descInl d && d.bufAddr % 8 != 0 then some 0x13
  else if d.length < minBuf pair then some 0x12
  else none

/-! ## Enabling, disabling and ownership -/

/-- ENABLE goes from 0 to 1 (R91): the indices return to 0, the vector arms and the first pass begins. -/
def ringStart (pair : Nat) (s : State) : State :=
  let r := ring pair s
  let fresh : Ring := { armed := true, items := r.items, lost := r.lost }
  putRing pair fresh (setB (ringReg pair 0x10) 0 true s)

/-- A buffer post as the buffer that it is (R87, R95). -/
def postBuf (fail : Option Nat) (c : Cmd) : Buf :=
  { slot := c.slot, tag := c.desc.userTag, addr := if descInl c.desc then none else some c.desc.bufAddr, len := c.desc.length, irq := descIrq c.desc, fail := fail }

/-- The disable sequence (R115): fetching stops, unstarted descriptors and unfilled buffers end with CANCELLED. -/
def ringStop (pair : Nat) (s : State) : State :=
  let r := ring pair s
  let d : Done := { status := 0x03, detail := 0, len := 0, mon := s.tim.mon, data := [] }
  let cmds := r.cmds.map (fun c => if c.started || c.done.isSome then c else { c with done := some d })
  let s := setB (ringReg pair 0x10) 0 false s
  let s := putRing pair { r with cmds := cmds, posts := [], bufs := r.bufs ++ r.posts.map (postBuf none), disabling := true, fetchErr := false } s
  let s := flushRing pair s
  putRing pair { ring pair s with detached := false } s

/-- The firmware leaves ring pair 0 once its outstanding solve has ended (R86). -/
def ownerSettle (s : State) : State :=
  if s.hif.ownerLeft && (ring 0 s).cmds.isEmpty then
    let s := putRing 0 {} { s with hif := { s.hif with ownerLeft := false } }
    setB (ringReg 0 0x10) 0 false (setB (ringReg 0 0x10) 2 false s)
  else s

/-- The firmware sets ring pair 0 up in SDRAM and enables it (R84, R86). DESIGN CHOICE (log entry 66): the spec gives no base, size or SEQTAG that it
sets; the registers keep their reset values or what the host last wrote. -/
def ownerTake (s : State) : State := ringStart 0 (setB (ringReg 0 0x10) 2 true s)

/-- The OWNER bit of a write to HIF_RINGCFG[n] (R86): what the write does with it, and the events of an ignored bit. -/
def ownerWrite (pair : Nat) (v : Word) (s : State) : State :=
  let a := ringReg pair 0x10
  let now := getB a 2 s
  let want := bitAt v 2
  if pair ≠ 0 then if want then writeIgnored a v s else s
  else if want = now then s
  else if lockOf .hif s then writeIgnored a v s
  else if now then ownerSettle { s with hif := { s.hif with ownerLeft := true } }
  else if ringOn 0 s || !ringIdle 0 s then writeIgnored a v s
  else ownerTake s

/-- A write to HIF_RINGCFG[n] (R85, R86, R89, R90, R91, R115). -/
def ringcfgWrite (pair : Nat) (v : Word) (s : State) : State :=
  let a := ringReg pair 0x10
  let was := ownedInside pair s
  let s := ownerWrite pair v s
  if was || ownedInside pair s then s
  else
    let cur := getReg a s
    let free := !ringOn pair s && ringIdle pair s
    let fields := fld v 31 8 != fld cur 31 8
    if fields && !free then writeIgnored a v s
    else
      let s := setReg a (putFld cur 31 8 (fld v 31 8)) s
      let on := ringOn pair s
      if on && !bitAt v 0 then ringStop pair s
      else if !on && bitAt v 0 then
        let bad := !within (fld v 15 12) 4 0xC || !within (fld v 11 8) 4 0xC || getF (ringReg pair 0) 11 0 s != 0 ||
          getF (ringReg pair 8) 11 0 s != 0 || !free
        if bad then writeIgnored a v s else ringStart pair s
      else s

/-- A write to one of the four base registers of a pair (R85, R90). -/
def baseWrite (a pair : Nat) (v : Word) (s : State) : State :=
  if ownedInside pair s then s
  else if (ringOn pair s || !ringIdle pair s) && v != getReg a s then writeIgnored a v s
  else setReg a v s

/-- A write to HIF_RINGCFG[n] as the row of its own: HIF takes none while it is in block reset (R68, R550). -/
def ringRow (pair : Nat) (v : Word) (s : State) : State :=
  if 60 ≤ pair then s
  else if s.start.blkRst.contains .hif then writeIgnored (ringReg pair 0x10) v s
  else ringcfgWrite pair v s

/-- RING_ENABLE (R91): a write of HIF_RINGCFG[n] with ENABLE set. -/
def ringEnable (pair : Nat) (v : Word) (s : State) : State := ringRow pair (v ||| 1) s

def execRingEnable (pair : Nat) (v : Word) (s : State) := run (ringEnable pair v) s

/-- RING_DISABLE (R115): a write of HIF_RINGCFG[n] that clears ENABLE alone. -/
def ringDisable (pair : Nat) (s : State) : State := ringRow pair (putBit (getReg (ringReg pair 0x10) s) 0 false) s

def execRingDisable (pair : Nat) (s : State) := run (ringDisable pair) s

/-- The work of an operation that has not yet been done leaves its queue: frames, dumps, samples, queries, requested modes and swaps (R115). -/
def dropWork (r : Req) (s : State) : State :=
  let eths := s.fio.eths.map (fun e => (e.1, { e.2 with queues := e.2.queues.filter (fun x => x.req != r) }))
  let cans := s.fio.cans.map (fun e => (e.1, { e.2 with pend := e.2.pend.filter (fun x => x.req != r) }))
  let stns := s.rnd.stns.map (fun e =>
    (e.1, { e.2 with query := e.2.query.filter (fun x => x != r), retire := if e.2.retire == some (some r) then none else e.2.retire,
                     round := { e.2.round with queries := e.2.round.queries.filter (fun x => x != r) } }))
  let loops := s.lpe.loops.map (fun e =>
    (e.1, { e.2 with modeReq := e.2.modeReq.filter (fun m => m.reqs != [r]), swap := e.2.swap.filter (fun x => x.req != some r) }))
  { s with fio := { s.fio with eths := eths, cans := cans }, rnd := { s.rnd with stns := stns }, lpe := { s.lpe with loops := loops },
           ctr := { s.ctr with dumps := s.ctr.dumps.filter (fun x => x.1 != r) } }

/-- STARTED_DESCRIPTOR_CANCEL (R115): a started descriptor of a pair that is being disabled stops at its function's safe point and ends with
CANCELLED. The safe point of a churn job is the next panel boundary (R220). -/
def startedCancel (r : Req) (s : State) : State :=
  if !(ring r.pair s).disabling || (s.chu.queue ++ s.chu.r0.toList ++ s.chu.rh.toList).any (fun j => j.req == some r) then s
  else finish r 0x03 0 (dropWork r s)

def execStartedDescriptorCancel (r : Req) (s : State) := run (startedCancel r) s

/-- OWNER_CLEAR (R86). -/
def ownerClear (s : State) : State := ringRow 0 (putBit (getReg (ringReg 0 0x10) s) 2 false) s

def execOwnerClear (s : State) := run ownerClear s

/-- OWNER_SET (R86). -/
def ownerSet (s : State) : State := ringRow 0 (putBit (getReg (ringReg 0 0x10) s) 2 true) s

def execOwnerSet (s : State) := run ownerSet s

/-! ## Doorbells -/

/-- A doorbell write that the module does not act on: to an internally owned pair it is recorded (R85), to a disabled one it only
sets DB_OFF (R98). -/
def doorbellOff (pair off : Nat) (v : Word) (s : State) : State :=
  let s := setB (ringReg pair 0x18) 5 true s
  if ownedInside pair s then evt 1 1 (pair ||| off <<< 8 ||| v.toNat <<< 32) s else s

/-- A refused doorbell value sets DB_RANGE and is recorded (R98). -/
def doorbellBad (pair off : Nat) (v : Word) (s : State) : State :=
  evt 1 1 (pair ||| off <<< 8 ||| v.toNat <<< 32) (setB (ringReg pair 0x18) 6 true s)

/-- Whether a pair takes doorbells now: it exists, is enabled and is not owned inside (R85, R98). -/
def doorbellOk (pair : Nat) (s : State) : Bool := ringOn pair s && !ownedInside pair s

/-- SUB_TAIL (R98, R99): only the last value counts. -/
def subTail (pair : Nat) (v : Word) (s : State) : State :=
  if 60 ≤ pair then s
  else
    let s := pmcAdd 0x8F 1 s
    if !doorbellOk pair s then doorbellOff pair 0 v s
    else if subSize pair s ≤ v.toNat then doorbellBad pair 0 v s
    else putRing pair { ring pair s with subTail := v.toNat } s

def execSubTail (pair : Nat) (v : Word) (s : State) := run (subTail pair v) s

/-- The vector re-arms; entries beyond CMP_HEAD send a message at once (R112). -/
def rearm (pair : Nat) (s : State) : State :=
  let r := ring pair s
  let s := putRing pair { r with armed := true } s
  if r.cmpTail = r.cmpHead then putRing pair { r with armed := true, unsig := 0 } s else signalPair pair s

/-- CMP_HEAD (R98, R112): slots before it are free; then everything that waited for a slot goes on. -/
def cmpHead (pair : Nat) (v : Word) (s : State) : State :=
  if 60 ≤ pair then s
  else
    let s := pmcAdd 0x8F 1 s
    let r := ring pair s
    let n := cmpSize pair s
    if !doorbellOk pair s then doorbellOff pair 4 v s
    else if n ≤ v.toNat ∨ (r.cmpTail + n - r.cmpHead) % n < (v.toNat + n - r.cmpHead) % n then doorbellBad pair 4 v s
    else pumpRing pair (rearm pair (putRing pair { r with cmpHead := v.toNat } s))

def execCmpHead (pair : Nat) (v : Word) (s : State) := run (cmpHead pair v) s

/-- CMP_ARM (R98, R112). -/
def cmpArm (pair : Nat) (s : State) : State :=
  if 60 ≤ pair then s
  else
    let s := pmcAdd 0x8F 1 s
    if !doorbellOk pair s then doorbellOff pair 8 0 s else rearm pair s

def execCmpArm (pair : Nat) (s : State) := run (cmpArm pair) s

/-! ## Descriptors -/

/-- Whether the module may fetch on a pair (R100, R101, R104, R115, R117): at most 256 fetched descriptors, of which at most 32 are commands. -/
def mayFetch (pair : Nat) (s : State) : Bool :=
  let r := ring pair s
  decide (pair < 60) && ringOn pair s && !r.disabling && !r.detached && !r.fetchErr && r.subHead != r.subTail && attached pair s &&
    !ownedInside pair s && decide (r.cmds.length < 32) && decide (r.cmds.length + r.posts.length + r.bufs.length + r.ended.length < 256)

/-- A fetched descriptor is a buffer post where the pair accepts posts, and a command descriptor otherwise (R87, R97). -/
def isPost (pair : Nat) (d : Desc) : Bool := d.opcode == 0x0001 && acceptsBuf pair

/-- The fields of the 64 bytes of a descriptor (R4, R95). -/
def descRead (b : Bytes) : Desc :=
  { opcode := leAt b 0 2, flags := leAt b 2 1, version := leAt b 3 1, length := leAt b 4 4, bufAddr := leAt b 8 8, userTag := leAt b 0x10 8,
    deadline := leAt b 0x18 8, param := slice (b ++ zeros 64) 0x20 32 }

/-- DESCRIPTOR_FETCH (R101): the module copies the descriptor from the slot at SUB_HEAD and advances SUB_HEAD. -/
def descriptorFetch (pair : Nat) (b : Bytes) (s : State) : State :=
  let d := descRead b
  let r := ring pair s
  if !mayFetch pair s then s
  else
    let c : Cmd := { slot := r.subHead, desc := d, started := false, done := none }
    let r := { r with subHead := (r.subHead + 1) % subSize pair s }
    let s := bwAdd 4 0 64 (pmcAdd 0x90 64 (pmcAdd 0x8C 1 s))
    if isPost pair d then putRing pair { r with posts := r.posts ++ [c] } s else putRing pair { r with cmds := r.cmds ++ [c] } s

def execDescriptorFetch (pair : Nat) (b : Bytes) (s : State) := run (descriptorFetch pair b) s

/-- An empty descriptor, standing for one that could not be read. -/
def noDesc : Desc :=
  { opcode := 0, flags := 0, version := 0, length := 0, bufAddr := 0, userTag := 0, deadline := 0, param := [] }

/-- DESCRIPTOR_FETCH_FAIL (R104): an entry with DMA_ERR, USER_TAG 0 and the slot's index; fetching stops with SUB_HEAD at the slot. -/
def descriptorFetchFail (pair : Nat) (_why : DmaFail) (s : State) : State :=
  if !mayFetch pair s then s
  else
    let r := ring pair s
    let d : Done := { status := 0x14, detail := 0, len := 0, mon := s.tim.mon, data := [] }
    let c : Cmd := { slot := r.subHead, desc := noDesc, started := true, done := some d }
    flushRing pair (putRing pair { r with fetchErr := true, cmds := r.cmds ++ [c] } s)

def execDescriptorFetchFail (pair : Nat) (why : DmaFail) (s : State) := run (descriptorFetchFail pair why) s

/-- The index of the first descriptor that may start: a fenced one waits for every earlier entry and holds back no later one (R105,
R106). -/
def startable : Nat → List Cmd → Option Nat
  | _, [] => none
  | i, c :: cs =>
    if c.started || c.done.isSome then startable (i + 1) cs
    else if c.desc.flags / 2 % 2 = 1 ∧ 0 < i then startable (i + 1) cs
    else some i

/-- Whether a block that serves a pair is in block reset and accepts no work (R68); an internally owned pair goes on through a reset of HIF
(R116). -/
def pairBlocked (pair : Nat) (s : State) : Bool :=
  s.start.blkRst.any (fun b => (blockPairs b).contains pair || (b == .hif && !ownedInside pair s))

/-- DESCRIPTOR_START (R97, R105 to R108): the next descriptor reserves a slot and passes checks 1 to 6, or ends with the status that
decides. A descriptor that passes is handed to its function, whose own command follows. `fail` is the byte offset at which the host's memory will
fail accesses to its buffer, if any (R104, log entry 67). -/
def descriptorStart (pair : Nat) (fail : Option Nat) (s : State) : State :=
  let r := ring pair s
  if pairBlocked pair s then s
  else
    match startable 0 r.cmds with
    | none => s
    | some i =>
      if freeSlots pair s = 0 && attached pair s then pmcAdd 0x97 1 s
      else
        match r.cmds[i]? with
        | none => s
        | some c =>
          match descCheck pair s.start.recovery c.desc s.tim.mon with
          | some st =>
            let d : Done := { status := st, detail := 0, len := 0, mon := s.tim.mon, data := [] }
            flushRing pair (putRing pair { r with cmds := r.cmds.set i { c with started := true, done := some d } } s)
          | none => putRing pair { r with cmds := r.cmds.set i { c with started := true, fail := fail } } s

def execDescriptorStart (pair : Nat) (fail : Option Nat) (s : State) := run (descriptorStart pair fail) s

/-- RXBUF (R97, R101, R109): the oldest fetched buffer post is checked and held for stream items; a buffer that becomes available
lets a loss report and deferred items go out. `fail` is the byte offset at which the host's memory will fail writes into it, if any (R104, log
entry 67). -/
def rxbuf (pair : Nat) (fail : Option Nat) (s : State) : State :=
  let r := ring pair s
  match r.posts with
  | [] => s
  | c :: cs =>
    match postCheck pair c.desc with
    | some st =>
      if freeSlots pair s = 0 && attached pair s then s
      else writeEntry pair c.slot c.desc.userTag 0 st 0 false s.tim.mon (descIrq c.desc) (putRing pair { r with posts := cs } s)
    | none => pumpRing pair (putRing pair { r with posts := cs, bufs := r.bufs ++ [postBuf fail c] } s)

def execRxbuf (pair : Nat) (fail : Option Nat) (s : State) := run (rxbuf pair fail) s

/-! ## Vectors -/

/-- COALESCE_TIME_EXPIRY (R92, R112): the oldest unsignalled entry has waited TIME µs; sooner, nothing happens (log entry 11). -/
def coalesceExpiry (pair : Nat) (s : State) : State :=
  let r := ring pair s
  if r.unsig = 0 || decide (s.tim.mon < r.oldest + getF (ringReg pair 0x14) 31 16 s * 1000) then s else signalPair pair s

def execCoalesceTimeExpiry (pair : Nat) (s : State) := run (coalesceExpiry pair) s

/-- VECTOR_SPACING_EXPIRY (R113): 100 µs after the previous message of vectors 0 to 3, the next one carries the conditions that arose meanwhile;
sooner, nothing happens (log entry 11). -/
def spacingExpiry (v : Nat) (s : State) : State :=
  let soon := match tget s.hif.lastMsg v with | some t => decide (s.tim.mon < t + 100000) | none => false
  if !s.hif.spaced.contains v || soon then s
  else sendMsg v { s with hif := { s.hif with spaced := without s.hif.spaced v } }

def execVectorSpacingExpiry (v : Nat) (s : State) := run (spacingExpiry v) s

/-- The pending vectors that are no longer masked send their messages (R113, R114). -/
def sendPended (s : State) : State :=
  let go := s.hif.pba.filter (fun v => !vecMasked v s)
  let s := { s with hif := { s.hif with pba := s.hif.pba.filter (fun v => !go.contains v) } }
  go.foldl (fun s v => sendMsg v s) s

/-- A write of the configuration space (R81, R113, R117): MSI-X Enable and the Function Mask, Bus Master Enable, or the sizes that the host sets,
of which the endpoint takes those that it has. -/
def cfgWrite (w : CfgWrite) (s : State) : State :=
  match w with
  | .msix e m => sendPended { s with hif := { s.hif with msixOn := e, fnMask := m } }
  | .busMaster on => { s with hif := { s.hif with busMaster := on } }
  | .device p r l1 =>
    { s with hif := { s.hif with maxPayload := if [128, 256, 512].contains p then p else s.hif.maxPayload,
                                 maxRead := if [128, 256, 512, 1024, 2048, 4096].contains r then r else s.hif.maxRead, aspmL1 := l1 } }

/-! ## The link -/

/-- What link loss does (R117): host-owned enabled pairs become DETACHED, an event, and the host-link source. -/
def linkDrop (cause : Nat) (s : State) : State :=
  let hit := (List.range 60).filter (fun p => ringOn p s && !ownedInside p s)
  let s := hit.foldl (fun s p => putRing p { ring p s with detached := true } s) s
  assertSrc 64 (evt 1 2 (argState 0 1 0 cause) s)

/-- The link leaves its up state: LINK_UP clears and DOWN_COUNT counts (R94). DESIGN CHOICE (log entry 69): SPEED and WIDTH keep what was negotiated
last. -/
def linkDown (s : State) : State :=
  let s := if s.hif.linkUp then setF 0x00004 31 16 (min (getF 0x00004 31 16 s + 1) 0xFFFF) s else s
  setB 0x00004 0 false { s with hif := { s.hif with linkUp := false } }

/-- LINK_LOSS (R117). -/
def linkLoss (c : LinkCause) (s : State) : State :=
  match c with
  | .linkDown => linkDrop 1 (pmcAdd 0x94 1 (linkDown s))
  | .busMaster => linkDrop 2 { s with hif := { s.hif with busMaster := false } }

def execLinkLoss (c : LinkCause) (s : State) := run (linkLoss c) s

/-- MSIX_UNMASK (R113, R114): a vector's Mask bit is cleared, or the host writes its configuration space; a Bus Master Enable that clears is a link
loss (R117). -/
def msixUnmask (w : Unmask) (s : State) : State :=
  match w with
  | .vector v => if 64 ≤ v then s else sendPended (setB (0x0300C + 16 * v) 0 false s)
  | .config (.busMaster false) => if s.hif.busMaster then linkLoss .busMaster s else s
  | .config w => cfgWrite w s

def execMsixUnmask (w : Unmask) (s : State) := run (msixUnmask w) s

/-- LINK_RETURN (R81, R94, R117): the link trains at 2.5, 5 or 8 GT/s (SPEED 1 to 3) and at a width of 1, 2 or 4, and detached pairs stay detached.
DESIGN CHOICE (log entry 68): Bus Master Enable is set again with the return. -/
def linkReturn (speed width : Nat) (s : State) : State :=
  if !within speed 1 3 || !(([1, 2, 4] : List Nat).contains width) then s
  else
    let s := { s with hif := { s.hif with linkUp := true, busMaster := true } }
    let s := setF 0x00004 7 4 width (setF 0x00004 3 2 speed (setB 0x00004 0 true s))
    endCond 64 (evt 1 2 (argState 0 0 1 0) s)

def execLinkReturn (speed width : Nat) (s : State) := run (linkReturn speed width) s

/-- The configuration space and the MSI-X structures that PERST_N and Function Level Reset clear (R66, R81, R545). -/
def clearMsix (s : State) : State :=
  let s := { s with hif := { s.hif with msixOn := false, fnMask := false, pba := [], spaced := [], lastMsg := [], maxPayload := 128,
                                        maxRead := 512, aspmL1 := false } }
  { s with regs := s.regs.filter (fun e => !(decide (0x03000 ≤ e.1) && decide (e.1 < 0x04000))) }

/-- PERST_N (R66, R117): the endpoint, the link and the configuration space are reset, which is a link loss, and HIF takes a block
reset; nothing else changes. -/
def perstN (s : State) : State :=
  let s := linkDown { s with hif := { s.hif with busMaster := false } }
  clearMsix (beginBlockReset (linkDrop 3 s) .hif)

def execPerstN (s : State) := run perstN s

def execFunctionLevelReset (s : State) := run perstN s

end Sys2Proof.Machine
end

