-- ==== Sys2Proof/Machine/Field.lean ====
section
/-!
DEFINITION. What leaves for the field when output words are published: CAN transmit objects (R432, R434, R435) and plant channels (R371,
R430); internal words are mirrored (R372).
-/
namespace Sys2Proof.Machine

/-! ## CAN -/

/-- A CAN channel's state. -/
def can (c : Nat) (s : State) : CanSt := tgetD s.fio.cans c {}

/-- The state with a CAN channel's state replaced. -/
def putCan (c : Nat) (x : CanSt) (s : State) : State := { s with fio := { s.fio with cans := tput s.fio.cans c x } }

/-- FIO_CANCFG of a channel (R448). -/
def canCfgReg (c : Nat) : Nat := 0x38800 + 0x40 * c
/-- FIO_CANSTAT of a channel (R449). -/
def canStatReg (c : Nat) : Nat := 0x38804 + 0x40 * c

/-- The nodes bound on a channel (R432). -/
def canNodes (c : Nat) (s : State) : List CanNode := s.cfg.canNodes.filter (fun n => n.ch == c)

/-- The transmit objects of a channel, in the order in which matrix cells number them. -/
def canObjs (c : Nat) (s : State) : List (Nat × CanObj) := (canNodes c s).flatMap (fun n => n.tx.map (fun o => (n.node, o)))

/-- Whether a channel that woke has integrated to the bus: 100 µs after its wake (R439). -/
def canAwake (c : Nat) (s : State) : Bool := match (can c s).wokeAt with | some t => decide (t + 100000 ≤ s.tim.mon) | none => true

/-- Whether a channel may drive the bus (R438, R439, R47): enabled, neither bus-off nor asleep, outputs live, in control or standby. -/
def canLive (c : Nat) (s : State) : Bool :=
  getB (canCfgReg c) 31 s && decide (getF (canStatReg c) 31 30 s ≤ 1) && canAwake c s && liveOut s && sendsCommands s

/-- A frame leaves on a channel. -/
def canSend (c : Nat) (f : CanFrame) (s : State) : State := pmcAdd (0x7C + 3 * c) 1 (emit (.can c f) s)

/-- A node's transmit object as a frame (R432): words of the node's output area, or the 48-byte command of a plant channel. -/
def objFrame (c node : Nat) (o : CanObj) (s : State) : CanFrame :=
  let word := fun i => (outWord i s).toNat
  let data := match o.plant with
    | some u => ((List.range 9).flatMap (fun i => le 4 (word (plantOut u + i)))) ++ le 4 s.dup.claim ++ zeros 8
    | none => o.map.flatMap (fun m => le m.2 (word (canArea c node + m.1)))
  { ident := o.ident, fd := o.fd, brs := o.fd, esi := false, remote := false, data := data }

/-- Whether a cell of the active matrix names an object. -/
def inMatrix (c k : Nat) (s : State) : Bool :=
  match (can c s).matrix with | some m => m.cells.contains (some k) | none => false

/-- An object leaves if its channel may drive the bus. -/
def sendObj (c k : Nat) (s : State) : State :=
  match (canObjs c s)[k]? with
  | some (node, o) => if canLive c s then canSend c (objFrame c node o s) s else s
  | none => s

/-- A node's output area is published: the objects that no cell of a matrix names are sent (R435). -/
def publishNode (c node : Nat) (s : State) : State :=
  (List.range (canObjs c s).length).foldl (fun s k =>
    match (canObjs c s)[k]? with
    | some (n, _) => if n = node ∧ !inMatrix c k s then sendObj c k s else s
    | none => s) s

/-! ## Plant channels -/

/-- The command frame of a plant channel on ETH2 (R430). -/
def plantFrame (u : Nat) (s : State) : Bytes :=
  le 2 0x4350 ++ le 1 1 ++ le 1 1 ++ le 2 u ++ zeros 2 ++ le 4 s.dup.claim ++
    (List.range 9).flatMap (fun i => le 4 (outWord (plantOut u + i) s).toNat)

/-- Dispatch publishes a plant channel's output area (R371, R430). -/
def plantSend (u : Nat) (s : State) : State :=
  match tget s.cfg.plantBind u with
  | some (.eth2 _ _) => if sendsCommands s && getB 0x38480 31 s && cageOn 2 s then emit (.plant u (plantFrame u s)) s else s
  | some (.can c n) => publishNode c n s
  | none => s

/-! ## Output words -/

/-- The channel and node of a CAN node area. -/
def nodeOf (i : Nat) : Option (Nat × Nat) :=
  if 0x400 ≤ i ∧ i < 0x1400 then some ((i - 0x400) / 0x400, (i - 0x400) % 0x400 / 0x10) else none

/-- An internal word is mirrored in the input image (R369, R372). -/
def mirror (i : Nat) (w : Word) (s : State) : State :=
  if within i 0x8000 0xBFFF then publishArea i s.tim.mon [w] s else s

/-- Output words are published (R372, R375): internal words are mirrored, and the nodes whose areas changed send their objects. -/
def publishOut (l : List (Nat × Word)) (s : State) : State :=
  let s := l.foldl (fun s x => mirror x.1 x.2 (setOut x.1 x.2 s)) s
  let nodes := (l.filterMap (fun x => nodeOf x.1)).eraseDups
  nodes.foldl (fun s n => publishNode n.1 n.2 s) s

end Sys2Proof.Machine
end

