-- ==== Sys2Proof/Machine/Lpe.lean ====
section
/-!
DEFINITION. The loop engine: samples, hold and tracking, bumpless transfers and swaps, the loop operations and the traces (R260 to R284).
Values are Q2.30 and the integrator is Q2.62; a quotient or product is rounded to nearest once (log entry 7).
-/
namespace Sys2Proof.Machine

/-! ## Loops -/

/-- A loop's state. -/
def loop (n : Nat) (s : State) : LoopSt := tgetD s.lpe.loops n {}

/-- The state with a loop's state replaced. -/
def putLoop (n : Nat) (l : LoopSt) (s : State) : State := { s with lpe := { s.lpe with loops := tput s.lpe.loops n l } }

/-- BASE_US (R282). -/
def baseUs (s : State) : Nat := getF 0x1C004 16 0 s

/-- A coefficient bank that nothing has written. -/
def noCoef (n : Nat) : CoefRec :=
  { loop := n, swap := false, kp := 0, ti := 0, td := 0, n := 1, tt := 0, kff1 := 0, kff2 := 0, outLo := 0, outHi := 0, outRate := 0,
    bias := 0 }

/-- The active bank of a loop (R272). -/
def activeBank (n : Nat) (l : LoopSt) : CoefRec := ((if l.useB then l.bankB else l.bankA)).getD (noCoef n)

/-- The other bank, if it is written. -/
def otherBank (l : LoopSt) : Option CoefRec := if l.useB then l.bankA else l.bankB

/-- The value held to the Q2.30 range (R263). -/
def sat30 (x : Int) : Int := clampI (-2147483648) 2147483647 x

/-- The value held to the Q2.62 range. -/
def sat62 (x : Int) : Int := clampI (-9223372036854775808) 9223372036854775807 x

/-- The integrator read out as Q2.30 (R263). -/
def iOut (i : Int) : Int := sat30 (divNear i (2 ^ 32))

/-- 1.0 in Q2.30. -/
def one30 : Int := 1073741824

/-- A quotient of a numerator in millionths of an engineering unit by a span, as Q2.30, before saturation (R263). -/
def normRaw (xU lo span : Int) : Int :=
  let num := (xU - lo * 1000000) * one30
  if 0 ≤ span then divNear num (span.natAbs * 1000000) else -(divNear num (span.natAbs * 1000000))

/-! ## Inputs -/

/-- A value of the last published estimate by MID and quantity (R154, R274). -/
def estValue (mid q : Nat) (s : State) : Int :=
  match s.sep.est with
  | none => 0
  | some e =>
    match q with
    | 1 => (match e.nodes.find? (fun n => n.1 == mid) with | some n => unit256 n.2.p | none => 0)
    | 3 => (match e.nodes.find? (fun n => n.1 == mid) with | some n => n.2.temp.getD (-2147483648) | none => 0)
    | 2 => (match e.branches.find? (fun b => b.1 == mid) with | some b => unit256 b.2.q | none => 0)
    | _ => (match e.branches.find? (fun b => b.1 == mid) with | some b => (b.2.setting : Int) | none => 0)

/-- The value of a binding at a tick (R261). -/
def bindValue (b : Binding) (s : State) : Int :=
  match b.kind with
  | 1 => (inWord b.ref s).toInt
  | 2 => estValue b.ref b.quantity s
  | _ => 0

/-- The reason of R268 for which a binding holds its loop, 0 for none. -/
def bindBad (b : Binding) (s : State) : Nat :=
  match b.kind with
  | 1 => if quality b.ref s = .good then 0 else 2
  | 2 => (match estAge s with | some a => if 3 < a then 1 else 0 | none => 1)
  | _ => 0

/-- Whether a binding lets its loop leave HOLD (R268): valid, and of age 0 where it is bound to the estimate. -/
def bindFresh (b : Binding) (s : State) : Bool :=
  match b.kind with
  | 1 => quality b.ref s == .good
  | 2 => estAge s == some 0
  | _ => true

/-- What a loop reads at a tick (R261). -/
structure LoopIn where
  pv    : Int
  ff1   : Int
  ff2   : Int
  spImg : Int
  cause : Nat
  clear : Bool
deriving DecidableEq, Repr

/-- The inputs of a loop at a tick, with the first cause of R268 among them. -/
def readLoop (n : Nat) (s : State) : LoopIn :=
  match (loop n s).struct with
  | none => ⟨0, 0, 0, 0, 0, true⟩
  | some c =>
    let bs := [c.pv, c.ff1, c.ff2] ++ (if c.sp.kind = 1 then [c.sp] else [])
    let bad := bs.map (fun b => bindBad b s)
    { pv := bindValue c.pv s, ff1 := bindValue c.ff1 s, ff2 := bindValue c.ff2 s, spImg := bindValue c.sp s,
      cause := if bad.contains 1 then 1 else if bad.contains 2 then 2 else 0, clear := bs.all (fun b => bindFresh b s) }

/-! ## The control law -/

/-- The sample period of a loop in µs (R260). -/
def periodUs (c : LoopRec) (s : State) : Nat := c.div * baseUs s

/-- A feed-forward input normalised, before saturation (R263): 0 where it is not bound. -/
def ffRaw (b : Binding) (v ref span : Int) : Int := if b.kind = 0 ∨ span = 0 then 0 else normRaw (v * 1000000) ref span

/-- Kff × ff summed over the two inputs (R264). -/
def feedFwd (c : LoopRec) (k : CoefRec) (x : LoopIn) : Int :=
  divNear (k.kff1 * sat30 (ffRaw c.ff1 x.ff1 c.ff1Ref c.ff1Span)) (2 ^ 24) + divNear (k.kff2 * sat30 (ffRaw c.ff2 x.ff2 c.ff2Ref c.ff2Span)) (2 ^ 24)

/-- Whether a feed-forward input saturates its normalised range (R263). -/
def ffSat (c : LoopRec) (x : LoopIn) : Bool :=
  let r := fun v => decide (sat30 v ≠ v)
  r (ffRaw c.ff1 x.ff1 c.ff1Ref c.ff1Span) || r (ffRaw c.ff2 x.ff2 c.ff2Ref c.ff2Span)

/-- kp × e (R264). -/
def propTerm (k : CoefRec) (e : Int) : Int := divNear ((k.kp : Int) * e) (2 ^ 24)

/-- The derivative term (R264): none with TD = 0. -/
def derivTerm (c : LoopRec) (k : CoefRec) (t : Nat) (dPrev pv pvPrev : Int) : Int :=
  if k.td = 0 then 0
  else
    let sg : Int := if c.action then -1 else 1
    sat30 (divNear ((k.td : Int) * dPrev * 2 ^ 24 - sg * (k.kp : Int) * k.n * k.td * (pv - pvPrev)) ((k.td + k.n * t) * 2 ^ 24))

/-- The error for the loop's ACTION (R264). -/
def errTerm (c : LoopRec) (sp pv : Int) : Int := if c.action then pv - sp else sp - pv

/-- Whether R266 blocks an integrator step of an outer loop: `inner` is its inner loop. -/
def cascadeBlocks (inner : Option LoopSt) (step : Int) : Bool :=
  match inner with
  | none => false
  | some l =>
    let direct := match l.struct with | some c => c.action | none => false
    let up := if direct then l.satLo else l.satHi
    let down := if direct then l.satHi else l.satLo
    (up && decide (0 < step)) || (down && decide (step < 0))

/-- The integrator after a sample (R265, R266): `y0` the output before the rate limit, `y` after it. -/
def integrate (c : LoopRec) (k : CoefRec) (t : Nat) (inner : Option LoopSt) (l : LoopSt) (y0 : Int) : Int :=
  if k.ti = 0 then l.i
  else
    let step := divNear ((k.kp : Int) * l.e * t * 256) k.ti
    let block := cascadeBlocks inner step
    if c.awMode then
      let tt := if k.tt = 0 then k.ti else k.tt
      let s1 := if block then 0 else step
      sat62 (l.i + s1 + divNear ((t : Int) * (l.y - l.v) * 2 ^ 32) tt)
    else
      let limited := y0 - l.y
      let skip := (l.satHi && decide (0 < l.e)) || (l.satLo && decide (l.e < 0)) ||
        (l.rateLim && ((decide (0 < limited) && decide (0 < l.e)) || (decide (limited < 0) && decide (l.e < 0))))
      if skip || block then l.i else sat62 (l.i + step)

/-- How a sample starts (R264, R270, R272): as any other, after a transfer, or with a swap. -/
inductive Start where
  | normal
  | bump
  | swap
deriving DecidableEq, Repr

/-- A sample in AUTO or CASCADE (R264 to R266, R270, R272): `l` holds pv, sp and the active bank, and `pvPrev` is the measurement before. -/
def pidSample (c : LoopRec) (k : CoefRec) (t : Nat) (ff pvPrev : Int) (inner : Option LoopSt) (how : Start) (l : LoopSt) : LoopSt :=
  let e := errTerm c l.sp l.pv
  let p := propTerm k e
  let yPrev := l.y
  let d := if how = .normal then derivTerm c k t l.d l.pv pvPrev else 0
  let target := if how = .swap then clampI k.outLo k.outHi yPrev else yPrev
  let i := if how = .normal then l.i else sat62 ((target - (p + ff + k.bias)) * 2 ^ 32)
  let v := sat30 (p + iOut i + d + ff + k.bias)
  let y0 := clampI k.outLo k.outHi v
  let r := divNear (k.outRate * t) 1000000
  let y := if 0 < k.outRate ∧ how ≠ .swap then clampI (yPrev - r) (yPrev + r) y0 else y0
  let l := { l with e := e, p := p, d := d, ff := ff, v := v, y := y, i := i, satHi := decide (k.outHi ≤ v), satLo := decide (v ≤ k.outLo),
                    rateLim := y != y0, bump := false }
  { l with i := integrate c k t inner l y0 }

/-- A sample of an outer loop in TRACK (R269): its output follows the inner loop's measurement. -/
def trackSample (c : LoopRec) (k : CoefRec) (ff : Int) (inner : LoopSt) (l : LoopSt) : LoopSt :=
  let e := errTerm c l.sp l.pv
  let p := propTerm k e
  let y := clampI k.outLo k.outHi inner.pv
  { l with e := e, p := p, d := 0, ff := ff, y := y, i := sat62 ((y - (p + ff + k.bias)) * 2 ^ 32), track := true, rateLim := false }

/-! ## Set-points -/

/-- The set-point moves toward a target at no more than SP_RATE per second (R271). -/
def rampSp (rate : Int) (t : Nat) (now target : Int) : Int :=
  if rate ≤ 0 then target else clampI (now - rate * t) (now + rate * t) target

/-- The value in millionths of a PV unit of a fraction of the PV span (R262). -/
def fracU (c : LoopRec) (y : Int) : Int := c.pvLo * 1000000 + divNear (y * (c.pvHi - c.pvLo) * 1000000) (2 ^ 30)

/-- The set-point of a loop for a sample (R267, R271). -/
def nextSp (c : LoopRec) (t : Nat) (x : LoopIn) (l : LoopSt) (s : State) : Int :=
  if l.mode = 3 ∧ c.sp.kind = 3 then fracU c (loop c.sp.ref s).y
  else
    let target := match c.sp.kind with
      | 1 => x.spImg
      | 4 => l.spDisp.getD l.spLocal
      | _ => l.spLocal
    rampSp c.spRate t l.spU (target * 1000000)

/-! ## A sample -/

/-- The inner loop that a loop feeds (R262): the loop whose SP_BIND names it. -/
def innerOf (n : Nat) (s : State) : Option (Nat × LoopSt) :=
  s.lpe.loops.find? (fun e => match e.2.struct with | some c => c.sp.kind == 3 && c.sp.ref == n | none => false)

/-- The requested mode takes effect at a sample (R270, R276). -/
def takeMode (n : Nat) (s : State) : State :=
  let l := loop n s
  match l.modeReq with
  | none => s
  | some q =>
    let l' := { l with modeReq := none, mode := q.mode, manout := q.manout.getD l.y, bump := l.bump || decide (2 ≤ q.mode ∧ q.mode ≠ l.mode),
                       hold := if 2 ≤ q.mode then l.hold else 0, track := l.track && decide (2 ≤ q.mode) }
    q.reqs.foldl (fun s r => complete r 0x00 0 8 [] s) (putLoop n l' s)

/-- HOLD is entered or left at a sample (R268). -/
def takeHold (n : Nat) (x : LoopIn) (s : State) : State :=
  let l := loop n s
  if l.mode < 2 then putLoop n { l with fresh := false } s
  else if l.hold ≠ 0 then
    if x.clear then putLoop n { l with hold := 0, bump := true } s else s
  else
    let cause := if x.cause ≠ 0 then x.cause else if l.fresh then 3 else 0
    if cause = 0 then s
    else
      let s := putLoop n { l with hold := cause, fresh := false, track := false } s
      pmcAdd 0x2E 1 (incReg 0x1C014 1 (evt 11 2 (argState n 0 1 cause) s))

/-- A pending swap makes the other bank active (R272, R273): the request ends, with SWAP_SAT where it was taken during saturation. -/
def takeSwap (n : Nat) (saturated : Bool) (s : State) : State :=
  let l := loop n s
  match l.swap with
  | none => s
  | some q =>
    let l' := { l with swap := none, useB := !l.useB, swapSat := saturated, swaps := l.swaps + 1, lastSwap := s.tim.mon }
    let s := pmcAdd 0x2F 1 (incReg 0x1C00C 1 (putLoop n l' s))
    let s := if saturated then incReg 0x1C010 1 s else s
    match q.req with
    | some r => complete r (if saturated then 0x51 else 0x00) 0 q.len [] s
    | none => s

/-- The output goes to the image word (R264); an outer loop's stays with it. -/
def writeLoop (n : Nat) (s : State) : State :=
  let l := loop n s
  match l.struct with
  | none => s
  | some c =>
    if c.out.kind ≠ 1 then s
    else publishOut [(c.out.ref, BitVec.ofInt 32 (c.outEngLo + divNear (l.y * (c.outEngHi - c.outEngLo)) (2 ^ 30)))] s

/-- LPE_LOOPSTAT[n] (R284). -/
def loopStat (n : Nat) (s : State) : Word :=
  let l := loop n s
  let lv := match l.struct with | some c => c.level - 1 | none => 0
  let dv := match l.struct with | some c => c.div | none => 0
  BitVec.ofNat 32 (l.mode <<< 30 ||| b2n (l.hold != 0) <<< 29 ||| b2n l.track <<< 28 ||| b2n l.satHi <<< 27 ||| b2n l.satLo <<< 26 |||
    b2n l.rateLim <<< 25 ||| b2n l.useB <<< 24 ||| b2n l.swap.isSome <<< 23 ||| b2n l.swapSat <<< 22 ||| b2n l.pvSat <<< 21 |||
    l.hold <<< 16 ||| lv <<< 12 ||| dv)

/-! ## Traces -/

/-- A trace unit's state. -/
def trace (u : Nat) (s : State) : TraceSt := tgetD s.lpe.traces u {}

/-- The state with a trace unit's state replaced. -/
def putTrace (u : Nat) (t : TraceSt) (s : State) : State := { s with lpe := { s.lpe with traces := tput s.lpe.traces u t } }

/-- The nodes of a loop that a trace selects (R279). -/
def traceRow (nodes n : Nat) (s : State) : List Int :=
  let l := loop n s
  let all := [l.pv, l.sp, l.e, l.p, iOut l.i, l.d, l.ff, l.v, l.y, ((loopStat n s).toNat : Int)]
  (List.range 10).filterMap (fun i => if nodes / 2 ^ i % 2 = 1 then all[i]? else none)

/-- Whether a sample meets a trace's trigger (R279): the loop before and after it. -/
def traceHit (c : TraceRec) (a b : LoopSt) : Bool :=
  match c.trigger with
  | 0 => true
  | 1 => a.mode != b.mode || (a.hold != 0) != (b.hold != 0) || a.track != b.track
  | 2 => a.satHi != b.satHi || a.satLo != b.satLo
  | 3 => a.swaps != b.swaps
  | 4 => decide (c.thresh ≤ (b.e.natAbs : Int))
  | _ => a.hold == 0 && b.hold != 0

/-- A trace item (R280): its header and its samples, oldest first. -/
def traceItem (u : Nat) (c : TraceRec) (s : State) : Bytes :=
  let t := trace u s
  let us := match (loop c.loop s).struct with | some r => periodUs r s | none => 0
  le 8 t.mon ++ le 2 c.loop ++ le 2 c.nodes ++ le 4 c.depth ++ le 4 t.pre ++ le 1 c.trigger ++ le 1 (b2n t.reconf) ++ le 2 c.decim ++
    le 4 us ++ zeros 4 ++ t.rows.reverse.flatMap (fun r => r.flatMap (leS 4))

/-- A sample of a traced loop (R279): recorded at every DECIM-th; DEPTH samples end the trace, which delivers one item and disarms. -/
def traceStep (n : Nat) (before : LoopSt) (s : State) (u : Nat) : State :=
  let t := trace u s
  match t.cfg with
  | none => s
  | some c =>
    if !t.armed || c.loop != n then s
    else
      let hit := t.hit || traceHit c before (loop n s)
      let t := if hit && !t.hit then { t with hit := true, pre := t.rows.length, mon := s.tim.mon, skip := 0 } else t
      if t.skip ≠ 0 then putTrace u { t with skip := t.skip - 1 } s
      else
        let rows := traceRow c.nodes n s :: (if t.hit then t.rows else t.rows.take (c.pre - 1))
        let rows := if !t.hit && c.pre == 0 then [] else rows
        let t := { t with rows := rows, skip := c.decim - 1 }
        let s := pmcAdd 0x32 1 (putTrace u t s)
        if t.hit && decide (c.depth ≤ rows.length) then
          putTrace u { cfg := some c } (deliver (if u ≤ 3 then 8 else 9) (traceItem u c s) s)
        else s

/-! ## The tick -/

/-- The compute step of a due loop (R264 to R273). -/
def computeLoop (n : Nat) (x : LoopIn) (s : State) : State :=
  let l := loop n s
  match l.struct with
  | none => s
  | some c =>
    let t := periodUs c s
    let pvPrev := l.pv
    let raw := normRaw (x.pv * 1000000) c.pvLo (c.pvHi - c.pvLo)
    let spU := nextSp c t x l s
    let spRaw := normRaw spU c.pvLo (c.pvHi - c.pvLo)
    let inSat := decide (sat30 raw ≠ raw) || ffSat c x
    let pvSat := inSat || decide (sat30 spRaw ≠ spRaw)
    let inner := (innerOf n s).map (·.2)
    let tracks := match inner with | some i => decide (2 ≤ l.mode) && (decide (i.mode ≤ 1) || i.hold != 0) | none => false
    if l.mode = 0 then takeSwap n false s
    else if l.mode = 1 then
      let s := takeSwap n false s
      let l := loop n s
      let k := activeBank n l
      let loc := if c.spTrack then x.pv else l.spLocal
      let u := if c.spTrack then x.pv * 1000000 else l.spU
      writeLoop n (putLoop n { l with pv := sat30 raw, pvSat := inSat, spLocal := loc, spU := u,
                                      sp := sat30 (normRaw u c.pvLo (c.pvHi - c.pvLo)), y := clampI k.outLo k.outHi l.manout,
                                      rateLim := false } s)
    else if l.hold ≠ 0 then
      let s := takeSwap n false s
      putLoop n { loop n s with pv := sat30 raw, pvSat := inSat } s
    else if tracks then
      let s := takeSwap n false s
      let l := loop n s
      let k := activeBank n l
      match inner with
      | some i =>
        writeLoop n (putLoop n { trackSample c k (feedFwd c k x) i { l with pv := sat30 raw } with pvSat := inSat } s)
      | none => s
    else
      let l := { l with pv := sat30 raw, sp := sat30 spRaw, spU := spU, pvSat := pvSat, bump := l.bump || l.track, track := false }
      match l.swap with
      | some _ =>
        let k := (otherBank l).getD (noCoef n)
        let y0 := l.y
        let saturated := l.satHi || l.satLo || clampI k.outLo k.outHi y0 != y0
        let s := takeSwap n saturated (putLoop n l s)
        writeLoop n (putLoop n (pidSample c k t (feedFwd c k x) pvPrev inner .swap (loop n s)) s)
      | none =>
        let k := activeBank n l
        writeLoop n (putLoop n (pidSample c k t (feedFwd c k x) pvPrev inner (if l.bump then .bump else .normal) l) s)

/-- A due loop at a tick (R261, R267): its mode, hold, swap and law, then its traces. -/
def sampleLoop (s : State) (x : Nat × LoopIn) : State :=
  let n := x.1
  let before := loop n s
  let s := computeLoop n x.2 (takeHold n x.2 (takeMode n s))
  let s := putLoop n { loop n s with last := s.tim.mon } s
  let l := loop n s
  let s := pmcAdd 0x2D 1 s
  let s := if l.satHi || l.satLo then pmcAdd 0x30 1 s else s
  let s := if l.rateLim then pmcAdd 0x31 1 s else s
  (List.range 8).foldl (traceStep n before) s

/-- The loops that are due at a tick, in descending LEVEL and ascending number (R260, R261). -/
def dueLoops (k : Nat) (s : State) : List Nat :=
  let at_ := fun lv => s.lpe.loops.filterMap (fun e => match e.2.struct with
    | some c => if c.level == lv && c.div != 0 && k % c.div == c.phase then some e.1 else none
    | none => none)
  at_ 4 ++ at_ 3 ++ at_ 2 ++ at_ 1

/-- BASE_TICK (R260, R261): every input of every due loop is read first, then the due loops are computed. The engine has stopped in the
steps of R37 and R65 and in its block reset, and a tick comes only at a whole multiple of BASE_US of MON. -/
def baseTick (s : State) : State :=
  if !started s || s.start.blkRst.contains .lpe || !onMultiple (baseUs s * 1000) s.lpe.tickAt s.tim.mon then s
  else
    let s := { s with lpe := { s.lpe with tickAt := s.tim.mon } }
    let due := dueLoops (s.tim.mon / (baseUs s * 1000)) s
    let ins := due.map (fun n => (n, readLoop n s))
    ins.foldl sampleLoop (pmcAdd 0x2C 1 s)

def execBaseTick (s : State) := run baseTick s

/-! ## Operations -/

/-- An operation of R277 whose end comes later than its confirmation: alone it is applied at once; in a pair it is forwarded first. -/
def viaPeerLate (r : Req) (op : FwdOp) (len : Nat) (apply : State → State) (s : State) : State :=
  if !duplex s || s.dup.state == .single then apply s else viaPeer r op len (fun s => s) s

/-- A MID of the active model with the element kind that a quantity needs (R154, R274). -/
def estMid (mid q : Nat) (s : State) : Bool :=
  match s.model.active with
  | none => false
  | some m =>
    match q with
    | 1 => m.nodes.any (fun n => n.mid == mid)
    | 3 => m.nodes.any (fun n => n.mid == mid)
    | 2 => m.branches.any (fun b => b.mid == mid)
    | 4 => m.branches.any (fun b => b.mid == mid && b.kind == .pump)
    | _ => m.branches.any (fun b => b.mid == mid && b.kind == .valve)

/-- Whether a binding names a MID that the model has with that kind (R276). -/
def midOk (b : Binding) (s : State) : Bool :=
  match b.kind with
  | 2 => estMid b.ref b.quantity s
  | 4 => (match s.model.active with | some m => m.units.any (fun u => u.mid == b.ref) | none => false)
  | _ => true

/-- Whether a binding's kind is allowed and its reference lies in its range (R274). -/
def bindOk (kinds : List Nat) (outArea : Bool) (b : Binding) : Bool :=
  kinds.contains b.kind &&
    (match b.kind with
     | 1 => if outArea then outIndexOk b.ref else inIndexOk b.ref
     | 2 => within b.quantity 1 5
     | 3 => decide (b.ref < 512)
     | _ => true)

/-- The offset of the first field of a structure record outside its range (R274, R276). -/
def loopRecBad (c : LoopRec) : Option Nat :=
  if 512 ≤ c.loop then some 0x00
  else if !within c.level 1 4 then some 0x02
  else if 4 ≤ c.startMode then some 0x03
  else if !within c.div 1 1000 then some 0x04
  else if c.div ≤ c.phase then some 0x06
  else if !bindOk [1, 2] false c.pv then some 0x08
  else if !bindOk [0, 1, 3, 4] false c.sp then some 0x10
  else if !bindOk [0, 1, 2] false c.ff1 then some 0x18
  else if !bindOk [0, 1, 2] false c.ff2 then some 0x20
  else if !bindOk [0, 1] true c.out then some 0x28
  else if c.pvHi ≤ c.pvLo then some 0x30
  else if c.ff1.kind ≠ 0 ∧ c.ff1Span = 0 then some 0x4C
  else if c.ff2.kind ≠ 0 ∧ c.ff2Span = 0 then some 0x54
  else none

/-- A structure record takes effect (R274): the loop keeps its banks; its set-points start at SP_LOCAL. -/
def applyLoopConfig (c : LoopRec) (s : State) : State :=
  let l := loop c.loop s
  let s := (List.range 8).foldl (fun s u =>
    let t := trace u s
    match t.cfg with
    | some k => if t.armed && k.loop == c.loop then putTrace u { t with reconf := true } s else s
    | none => s) s
  putLoop c.loop { l with struct := some c, spLocal := c.spLocal, spU := c.spLocal * 1000000, spDisp := none } s

/-- LOOP_CONFIG (R274, R276). -/
def loopConfig (r : Req) (c : LoopRec) (s : State) : State :=
  if refusesPairOp s then finish r 0x81 0 s
  else match loopRecBad c with
  | some d => finish r 0x16 d s
  | none =>
    if (loop c.loop s).mode ≠ 0 then finish r 0x17 0 s
    else if !([c.pv, c.sp, c.ff1, c.ff2].all (fun b => midOk b s)) then finish r 0x19 3 s
    else if c.out.kind == 1 && s.lpe.loops.any (fun e => e.1 != c.loop && (match e.2.struct with
        | some k => k.out.kind == 1 && k.out.ref == c.out.ref | none => false)) then finish r 0x19 5 s
    else viaPeer r (.loopConfig c) 96 (applyLoopConfig c) s

/-- A binding's 8 bytes (R274). -/
def bindingAt (b : Bytes) (off : Nat) : Binding := { kind := leAt b (off + 4) 1, ref := leAt b off 4, quantity := leAt b (off + 5) 1 }

/-- A structure record's 96 bytes (R274). -/
def loopRecOf (b : Bytes) : LoopRec :=
  let f := leAt b 0x03 1
  let w := fun o => leSAt b o 4
  { loop := leAt b 0x00 2, level := leAt b 0x02 1, action := f.testBit 0, awMode := f.testBit 1, startMode := f / 4 % 4, spTrack := f.testBit 4,
    div := leAt b 0x04 2, phase := leAt b 0x06 2, pv := bindingAt b 0x08, sp := bindingAt b 0x10, ff1 := bindingAt b 0x18,
    ff2 := bindingAt b 0x20, out := bindingAt b 0x28, pvLo := w 0x30, pvHi := w 0x34, outEngLo := w 0x38, outEngHi := w 0x3C,
    spRate := w 0x40, spLocal := w 0x44, ff1Ref := w 0x48, ff1Span := w 0x4C, ff2Ref := w 0x50, ff2Span := w 0x54 }

/-- An operation whose record lies in its buffer, of a LENGTH that its table gives. -/
def recordOp (r : Req) (op len : Nat) (buf : Bytes) (f : Bytes → State → State) (s : State) : State :=
  withOp r [op] (some buf) (fun d b => if descInl d || d.length != len then finish r 0x12 0 else f b) s

def execLoopConfig (r : Req) (buf : Bytes) (s : State) := run (recordOp r 0x0410 96 buf (fun b => loopConfig r (loopRecOf b))) s

/-- The offset of the first field of a coefficient record outside its range (R275). -/
def coefBad (k : CoefRec) (s : State) : Option Nat :=
  let t := match (loop k.loop s).struct with | some c => periodUs c s | none => 0
  if 512 ≤ k.loop then some 0x00
  else if k.ti ≠ 0 ∧ k.ti < t then some 0x08
  else if !within k.n 1 100 then some 0x10
  else if k.outLo < 0 then some 0x20
  else if k.outHi ≤ k.outLo ∨ one30 < k.outHi then some 0x24
  else none

/-- The other bank is written, and a swap is requested where the record asks for it (R272). -/
def applyLoopCoef (k : CoefRec) (req : Option Req) (s : State) : State :=
  let l := loop k.loop s
  let l := if l.useB then { l with bankA := some k } else { l with bankB := some k }
  putLoop k.loop (if k.swap then { l with swap := some { req := req, len := 48 } } else l) s

/-- LOOP_COEF (R272, R273, R276). -/
def loopCoef (r : Req) (k : CoefRec) (s : State) : State :=
  if refusesPairOp s then finish r 0x81 0 s
  else match coefBad k s with
  | some d => finish r 0x16 d s
  | none =>
    if (loop k.loop s).swap.isSome then finish r 0x17 0 s
    else if k.swap then viaPeerLate r (.loopCoef k) 48 (applyLoopCoef k (some r)) s
    else viaPeer r (.loopCoef k) 48 (applyLoopCoef k none) s

/-- A coefficient record's 48 bytes (R275). -/
def coefRecOf (b : Bytes) : CoefRec :=
  let u := fun o => leAt b o 4
  let w := fun o => leSAt b o 4
  { loop := leAt b 0x00 2, swap := (leAt b 0x02 1).testBit 0, kp := u 0x04, ti := u 0x08, td := u 0x0C, n := leAt b 0x10 2, tt := u 0x14,
    kff1 := w 0x18, kff2 := w 0x1C, outLo := w 0x20, outHi := w 0x24, outRate := w 0x28, bias := w 0x2C }

def execLoopCoef (r : Req) (buf : Bytes) (s : State) := run (recordOp r 0x0411 48 buf (fun b => loopCoef r (coefRecOf b))) s

/-- A swap is requested (R272). -/
def applyLoopSwap (n : Nat) (req : Option Req) (s : State) : State :=
  putLoop n { loop n s with swap := some { req := req, len := 4 } } s

/-- LOOP_SWAP (R272, R273): a swap to an empty bank is refused. -/
def loopSwap (r : Req) (n : Nat) (s : State) : State :=
  if refusesPairOp s then finish r 0x81 0 s
  else if 512 ≤ n then finish r 0x16 0 s
  else if (loop n s).swap.isSome then finish r 0x17 0 s
  else if (otherBank (loop n s)).isNone ∨ (loop n s).struct.isNone then finish r 0x19 7 s
  else viaPeerLate r (.loopSwap n) 4 (applyLoopSwap n (some r)) s

def execLoopSwap (r : Req) (s : State) := run (inlineOp r 0x0412 4 (fun b => loopSwap r (leAt b 0 2))) s

/-- Whether a chain of outer loops from `o` reaches loop n (R262). -/
def chainHits (n : Nat) (s : State) : Nat → Nat → Bool
  | 0, _ => true
  | fuel + 1, o =>
    o == n || (match (loop o s).struct with
      | some c => if c.sp.kind = 3 then chainHits n s fuel c.sp.ref else false
      | none => false)

/-- The conditions of R262 under which a loop may enter CASCADE. -/
def cascadeOk (n : Nat) (s : State) : Bool :=
  match (loop n s).struct with
  | none => false
  | some c =>
    c.sp.kind == 3 &&
      (match (loop c.sp.ref s).struct with
       | none => false
       | some o =>
         o.level == c.level + 1 && decide (o.level ≤ 4) && o.div % c.div == 0 && o.phase % c.div == c.phase && o.out.kind == 0 &&
           (s.lpe.loops.filter (fun e => match e.2.struct with
             | some k => k.sp.kind == 3 && k.sp.ref == c.sp.ref | none => false)).length == 1 &&
           !chainHits n s 8 c.sp.ref)

/-- A mode is requested; it takes effect at the loop's next sample (R276). -/
def applyLoopMode (n mode : Nat) (manout : Option Int) (req : Option Req) (s : State) : State :=
  let l := loop n s
  let old := match l.modeReq with | some q => q.reqs | none => []
  putLoop n { l with modeReq := some { mode := mode, manout := manout, reqs := old ++ req.toList } } s

/-- LOOP_MODE (R262, R276). -/
def loopMode (r : Req) (n mode : Nat) (manout : Option Int) (s : State) : State :=
  if refusesPairOp s then finish r 0x81 0 s
  else if 512 ≤ n ∨ (loop n s).struct.isNone then finish r 0x16 0 s
  else if 4 ≤ mode then finish r 0x16 2 s
  else if mode = 3 ∧ !cascadeOk n s then finish r 0x19 4 s
  else viaPeerLate r (.loopMode n mode manout) 8 (applyLoopMode n mode manout (some r)) s

/-- MANOUT of LOOP_MODE: 8000_0000h keeps the present output. -/
def manoutOf (b : Bytes) : Option Int := if leAt b 4 4 = 0x80000000 then none else some (leSAt b 4 4)

def execLoopMode (r : Req) (s : State) := run (inlineOp r 0x0413 8 (fun b => loopMode r (leAt b 0 2) (leAt b 2 1) (manoutOf b))) s

/-- The local set-point takes a value (R271). -/
def applySetsp (n : Nat) (sp : Int) (s : State) : State := putLoop n { loop n s with spLocal := sp } s

/-- LOOP_SETSP (R271, R276). -/
def loopSetsp (r : Req) (n : Nat) (sp : Int) (s : State) : State :=
  if refusesPairOp s then finish r 0x81 0 s
  else if 512 ≤ n then finish r 0x16 0 s
  else
    match (loop n s).struct with
    | none => finish r 0x19 6 s
    | some c => if c.sp.kind ≠ 0 then finish r 0x19 6 s else viaPeer r (.loopSetsp n sp) 8 (applySetsp n sp) s

def execLoopSetsp (r : Req) (s : State) := run (inlineOp r 0x0414 8 (fun b => loopSetsp r (leAt b 0 2) (leSAt b 4 4))) s

/-- The loop state record (R278). -/
def loopStateRec (n : Nat) (s : State) : Bytes :=
  let l := loop n s
  le 8 l.last ++ le 2 n ++ zeros 2 ++ le 4 (loopStat n s).toNat ++
    [l.pv, l.sp, l.e, l.p, iOut l.i, l.d, l.ff, l.v, l.y].flatMap (leS 4) ++ le 4 l.swaps ++ le 8 l.lastSwap

/-- LOOP_STATE (R276, R278): on the receiving module only. -/
def loopState (r : Req) (n len : Nat) (s : State) : State :=
  if len < 64 then finish r 0x12 0 s
  else if 512 ≤ n then finish r 0x16 0 s
  else complete r (if (loop n s).hold ≠ 0 then 0x50 else 0x00) 0 64 (loopStateRec n s) s

def execLoopState (r : Req) (s : State) :=
  run (withOp r [0x0415] none (fun d _ => if descInl d then finish r 0x12 0 else loopState r (leAt d.param 0 2) d.length)) s

/-- The nodes that a trace selects. -/
def nodeCount (nodes : Nat) : Nat := ((List.range 10).filter (fun i => nodes / 2 ^ i % 2 == 1)).length

/-- TRACE_CFG (R279). -/
def traceCfg (r : Req) (c : TraceRec) (s : State) : State :=
  if 8 ≤ c.unit then finish r 0x16 0x00 s
  else if 6 ≤ c.trigger then finish r 0x16 0x01 s
  else if 512 ≤ c.loop then finish r 0x16 0x02 s
  else if 65536 < c.depth then finish r 0x16 0x08 s
  else if c.depth ≠ 0 ∧ c.depth ≤ c.pre then finish r 0x16 0x0C s
  else if !within c.decim 1 1000 then finish r 0x16 0x14 s
  else if (trace c.unit s).armed then finish r 0x17 0 s
  else if c.depth = 0 then finish r 0x19 1 s
  else if c.nodes = 0 then finish r 0x19 2 s
  else complete r 0x00 0 32 [] (putTrace c.unit { cfg := some c } s)

/-- The parameters of TRACE_CFG (R279); reserved bits of NODES are ignored (R96). -/
def traceRecOf (b : Bytes) : TraceRec :=
  { unit := leAt b 0x00 1, trigger := leAt b 0x01 1, loop := leAt b 0x02 2, nodes := leAt b 0x04 2 % 1024, depth := leAt b 0x08 4,
    pre := leAt b 0x0C 4, thresh := leSAt b 0x10 4, decim := leAt b 0x14 2 }

def execTraceCfg (r : Req) (s : State) := run (inlineOp r 0x0416 32 (fun b => traceCfg r (traceRecOf b))) s

/-- Words of the shared store that a unit uses (R279). -/
def traceWords (u : Nat) (s : State) : Nat :=
  match (trace u s).cfg with | some c => nodeCount c.nodes * c.depth | none => 0

/-- TRACE_ARM (R279): units that have no set-up stay as they are. -/
def traceArm (r : Req) (mask : Nat) (s : State) : State :=
  if 256 ≤ mask then finish r 0x16 0 s
  else
    let want := (List.range 8).filter (fun u => mask / 2 ^ u % 2 == 1 && (trace u s).cfg.isSome)
    let used := (List.range 8).filter (fun u => (trace u s).armed || want.contains u)
    if 262144 < (used.map (fun u => traceWords u s)).foldl (· + ·) 0 then finish r 0x19 8 s
    else
      let s := want.foldl (fun s u => putTrace u { cfg := (trace u s).cfg, armed := true } s) s
      complete r 0x00 0 4 [] s

def execTraceArm (r : Req) (s : State) := run (inlineOp r 0x0417 4 (fun b => traceArm r (leAt b 0 4))) s

/-! ## Commits, restarts and status -/

/-- The loops' state goes to MRAM at a commit instant (R270). -/
def snapLoops (s : State) : State :=
  { s with lpe := { s.lpe with snap := s.lpe.loops.map (fun e =>
      (e.1, { mode := e.2.mode, i := e.2.i, y := e.2.y, spU := e.2.spU, spLocal := e.2.spLocal, manout := e.2.manout })) } }

/-- The loops after a restart (R77, R268, R270, R273, R275): bank A from the configuration; bank B empty, unless it was the active bank,
which MRAM holds; a warm restart takes modes, integrators and outputs from the snapshot; every loop in AUTO or CASCADE starts in hold. -/
def restartLoops (warm : Bool) (s : State) : State :=
  let mk := fun (c : LoopRec) =>
    let k := (s.cfg.coefs.find? (fun k => k.loop == c.loop)).getD (noCoef c.loop)
    let old := loop c.loop s
    let l : LoopSt := { struct := some c, bankA := some k, bankB := if old.useB then old.bankB else none, useB := old.useB, mode := c.startMode, y := clampI k.outLo k.outHi k.bias,
                        spLocal := c.spLocal, spU := c.spLocal * 1000000, fresh := true, bump := true }
    match tget s.lpe.snap c.loop with
    | some p => if warm then { l with mode := p.mode, i := p.i, y := p.y, spU := p.spU, spLocal := p.spLocal, manout := p.manout } else l
    | none => l
  { s with lpe := { loops := s.cfg.loops.foldl (fun t c => tput t c.loop (mk c)) [], traces := [], snap := s.lpe.snap } }

/-- A block reset of LPE (R68, R273): pending swaps and modes are dropped, and the loops start again in hold. -/
def lpeBlockReset (s : State) : State :=
  { s with lpe := { s.lpe with traces := [], loops := s.lpe.loops.map (fun e =>
      (e.1, { e.2 with swap := none, modeReq := none, fresh := true, bump := true, hold := 0, track := false })) } }

/-- LPE_STAT (R283). -/
def lpeStat (s : State) : Word :=
  let h := (s.lpe.loops.filter (fun e => e.2.hold != 0)).length
  let a := (s.lpe.loops.filter (fun e => e.2.mode != 0)).length
  BitVec.ofNat 32 ((h % 1024) <<< 16 ||| a % 1024)

/-- LPE_TRACESTAT (R281). -/
def traceStat (s : State) : Word :=
  let m := fun (p : TraceSt → Bool) => ((List.range 8).filter (fun u => p (trace u s))).foldl (fun a u => a + 2 ^ u) 0
  BitVec.ofNat 32 (m (fun t => t.armed && t.hit) <<< 8 ||| m (·.armed))

/-- A loop-driven unit's set-point at the write-phase opening (R246, R271): accepted in AUTO and not in HOLD. -/
def loopAccepts (n : Nat) (s : State) : Bool := (loop n s).mode == 2 && (loop n s).hold == 0

/-- The dispatch set-point of a loop is latched (R271). -/
def setLoopSp (n : Nat) (v : Int) (s : State) : State := putLoop n { loop n s with spDisp := some v } s

end Sys2Proof.Machine
end

