-- ==== Sys2Proof/Machine/Problem.lean ====
section
/-!
DEFINITION. What dispatch plans: its parameters, forecasts and units, and the values of its programme in churn slot 8 (R78 to R80, R228 to R241,
R259). Quantities stand in their record units, heat and power in W, prices and costs in 0.001 currency units (log entry 97).
-/
namespace Sys2Proof.Machine

/-! ## Parameters -/

/-- The parameters of R259: identifier, range and default. -/
def dispParams : List (Nat × Nat × Nat × Nat) :=
  [(1, 15, 300, 60), (2, 2, 299, 20), (3, 8, 16, 10), (4, 1, 20, 2), (5, 0, 100, 80), (6, 0, 100, 10), (7, 0, 200, 30), (8, 1, 100, 10),
   (9, 200, 10000, 2000)]

/-- The default of a parameter: that of the configuration component, else that of R259. -/
def paramDefault (id : Nat) (s : State) : Nat :=
  match tget s.cfg.params id with
  | some v => v
  | none => match dispParams.find? (fun p => p.1 == id) with | some p => p.2.2.2 | none => 0

/-- A parameter as set (R258). -/
def paramSet (id : Nat) (s : State) : Nat := tgetD s.disp.params id (paramDefault id s)

/-- A parameter as it acts since the last cycle that fell due (R259). -/
def param (id : Nat) (s : State) : Nat := tgetD s.disp.act id (paramDefault id s)

/-- PLANT_ACK_MS in ns. -/
def ackNs (s : State) : Nat := param 9 s * 1000000

/-! ## Quarter-hours -/

/-- One quarter-hour in ns. -/
def quarterNs : Nat := 900000000000

/-- The instant that dispatch counts quarter-hours on (R229): LEG, or MON from the last instant at which LEG was valid, or MON. -/
def qTime (s : State) : Nat :=
  if s.tim.legValid then legNs s
  else if s.tim.legEver then s.disp.legAt + (s.tim.mon - s.disp.legMon)
  else s.tim.mon

/-- Whether LEG has not been valid since the restart (R229). -/
def onMon (s : State) : Bool := !s.tim.legValid && !s.tim.legEver

/-- The instant of step 0 of a cycle that falls due now (R229). -/
def stepZero (s : State) : Nat := if onMon s then s.tim.mon else qTime s / quarterNs * quarterNs

/-- The step of a plan that contains the present quarter-hour (R229, R244): by LEG, or by the MON since τ0 where LEG cannot tell. -/
def stepNow (p : Plan) (s : State) : Nat :=
  min 95 (if p.onMon || onMon s then (((s.tim.mon : Int) - p.tau0).toNat + p.into) / quarterNs else (qTime s - p.step0) / quarterNs)

/-- The plan age in ns (R244). -/
def planAge (s : State) : Nat := match s.disp.plan with | some p => ((s.tim.mon : Int) - p.tau0).toNat | none => 0

/-! ## Forecasts -/

/-- A pushed series that covers an instant, newest first (R232, R233). -/
def inSeries {α : Type} (l : List (Nat × List α)) (t : Nat) : Option α :=
  l.findSome? (fun x => if x.1 ≤ t then x.2[(t - x.1) / 900]? else none)

/-- The weather forecast at a LEG second, `ahead` seconds after τ0 (R232). -/
def weatherAt (t ahead : Nat) (s : State) : Int × Nat :=
  match inSeries s.disp.weather t with
  | some w => w
  | none =>
    let c := Config.climate t
    let v := pointValue s.cfg.outdoor s
    if v.2 then c
    else
      let k := 21600 - ahead
      ((v.1 * (k : Int) + c.1 * ((21600 - k : Nat) : Int)) / 21600, c.2)

/-- The least-squares line of demand against temperature at a temperature (R231). -/
def lineAt (l : List HistPt) (temp : Int) : Int :=
  let n : Int := (l.length : Nat)
  let sx := (l.map (·.temp)).foldl (· + ·) 0
  let sy := (l.map (·.w)).foldl (· + ·) 0
  let sxx := (l.map (fun p => p.temp * p.temp)).foldl (· + ·) 0
  let sxy := (l.map (fun p => p.temp * p.w)).foldl (· + ·) 0
  let den := n * sxx - sx * sx
  if n = 0 then 0
  else if den = 0 then sy / n
  else (sy * den + (n * sxy - sx * sy) * (n * temp - sx)) / (n * den)

/-- What dispatch holds of a station. -/
def stnDisp (id : Nat) (s : State) : StnDisp := tgetD s.disp.stns id {}

/-- The state with what dispatch holds of a station replaced. -/
def putStnDisp (id : Nat) (x : StnDisp) (s : State) : State := { s with disp := { s.disp with stns := tput s.disp.stns id x } }

/-- The demand forecast of a station at a LEG second, `ahead` seconds after τ0 (R80, R231). -/
def fcstDemand (d : StationDecl) (t ahead : Nat) (s : State) : Int :=
  let x := stnDisp d.ident s
  let w := (weatherAt t ahead s).1
  let dt := Config.dayType (t / 86400)
  let q := t % 86400 / 900
  let prior := Config.priorDemand d.priorW dt q w
  let k := min 28 x.days
  let hist := lineAt (x.hist.filter (fun p => p.dayType == dt && p.quarter == q)) w
  (prior * ((28 - k : Nat) : Int) + hist * (k : Int)) / 28

/-- The demand forecasts of the present step, which the separator uses for unreached stations (R20, R231). -/
def refreshDemand (s : State) : State :=
  let t := qTime s / sec
  { s with disp := { s.disp with demand := (modelStns s).foldl (fun m d => tput m d.ident (fcstDemand d t 0 s)) [] } }

/-! ## Units -/

/-- The plants, stores and pump groups of the active model. -/
def modelUnits (s : State) : List UnitDecl := match s.model.active with | some m => m.units | none => []

/-- The mode of a unit (R241): its own report first, then UNIT_MODE. 0 AUTO, 1 MANUAL, 2 OUT. -/
def unitMode (mid : Nat) (s : State) : Nat :=
  let host := tgetD s.disp.hostMode mid 0
  match tget s.cfg.unitChan mid with
  | none => host
  | some u =>
    if (areaStamp (plantIn u) s).isNone then host
    else
      let w := inWord (plantIn u + 2) s
      if bitAt w 1 then 1 else if !bitAt w 0 then 2 else host

/-- The output of a unit as measured now (R236, R241): its channel's input word, or the measurement of the loop that drives it. -/
def measuredOut (u : UnitDecl) (s : State) : Int :=
  match u.loopIdx with
  | some n => (match (loop n s).struct with | some c => bindValue c.pv s | none => 0)
  | none => match tget s.cfg.unitChan u.mid with | some c => (inWord (plantIn c + 3) s).toInt | none => 0

/-- The supply temperature of a plant as measured now: its outlet's measurement point, or its last set-point. -/
def measuredTs (m : ModelImage) (u : UnitDecl) (s : State) : Int :=
  let out := match m.branches.find? (fun b => b.owner == u.mid) with | some b => b.toN | none => 0
  match m.meas.find? (fun d => d.quantity == 3 && d.elem == out && (pointTerm m s d).reason == 0) with
  | some d => (pointValue d.mid s).1
  | none => (tgetD s.disp.setW u.mid []).getD 1 0

/-- A variable of a plan, if it has it. -/
def planVar (vars : List PlanVar) (mid qty step : Nat) : Option Int :=
  (vars.find? (fun v => v.mid == mid && v.qty == qty && v.step == step)).map (·.val)

/-- The set-point values of a unit at a step of a solution (R235, R245). -/
def planTarget (vars : List PlanVar) (mid step : Nat) : Option (List Int) :=
  match midKind mid with
  | 6 => (match planVar vars mid 1 step, planVar vars mid 2 step with | some q, some t => some [q, t] | _, _ => none)
  | 7 => (match planVar vars mid 5 step, planVar vars mid 6 step with | some c, some d => some [d - c] | _, _ => none)
  | _ => (planVar vars mid 9 step).map (fun p => [p])

/-- The fallback set-point of a unit (R253): that of the configuration, and zero net power for a store. -/
def fallbackTarget (mid : Nat) (s : State) : Option (List Int) :=
  if midKind mid = 7 then some [0] else tget s.cfg.unitFall mid

/-- The set-point that a unit is to have now (R244, R253). -/
def unitTarget (mid : Nat) (s : State) : Option (List Int) :=
  if s.disp.fallback then fallbackTarget mid s
  else match s.disp.plan with | some p => planTarget p.vars mid s.disp.step | none => none

/-- The atomic group of a unit, 0 for none. -/
def groupOf (mid : Nat) (s : State) : Nat :=
  match s.model.active with
  | none => 0
  | some m => match m.groups.find? (fun g => g.2.contains mid) with | some g => g.1 | none => 0

/-- The declaration of a unit. -/
def unitDecl (mid : Nat) (s : State) : Option UnitDecl := (modelUnits s).find? (fun u => u.mid == mid)

/-- Whether a unit is driven by a loop of this module. -/
def loopUnit (mid : Nat) (s : State) : Option Nat := (unitDecl mid s).bind (·.loopIdx)

/-! ## Time and prices of a step -/

/-- The LEG second at which a step of the horizon begins (R229). -/
def stepSec (t : Nat) (s : State) : Nat := stepZero s / sec + 900 * t

/-- How many seconds after τ0 a step begins. -/
def stepAhead (t : Nat) (s : State) : Nat := stepSec t s - qTime s / sec

/-- The demand forecast of a station for a step of the horizon (R231). -/
def stepDemand (d : StationDecl) (t : Nat) (s : State) : Int := fcstDemand d (stepSec t s) (stepAhead t s) s

/-- The price of a kind in a step (R233): a pushed series, otherwise the configured tariff profile over the quarter-hours of a day. 1 import, 2 export, 3
gas, 4 other fuel; in 0.001 currency units per MWh. -/
def priceAt (kind t : Nat) (s : State) : Int :=
  (inSeries (tgetD s.disp.prices kind []) (stepSec t s)).getD ((tgetD s.cfg.tariff kind []).getD (stepSec t s % 86400 / 900) 0)

/-- The cost of 1 W over a step at a price per MWh: 0.25 h. -/
def perWatt (price : Rat) : Rat := price / 4000000

/-! ## Stores, networks and plants at τ0 -/

/-- The layers of a store (R171). -/
def storeLayers (u : UnitDecl) (s : State) : List Curd := tgetD s.ctr.layers u.mid []

/-- Whether a unit works in a cold network. -/
def coldUnit (m : ModelImage) (mid : Nat) : Bool := match m.networks[unitNet m mid]? with | some n => n.cold | none => false

/-- The energy of the current layers above the band floor in Wh (R235, R236), at 1.163 Wh/(L·K); in a cold network below the band's upper end. -/
def storeEnergy (m : ModelImage) (u : UnitDecl) (s : State) : Rat :=
  (storeLayers u s).foldl (fun (a : Rat) c =>
    let dt : Int := if coldUnit m u.mid then u.bandHi * 1024 - c.temp else c.temp - u.bandLo * 1024
    a + ((dt * (c.vol : Int) : Int) : Rat) * 1163 / 1000 / (1024000 * 1048576000)) 0

/-- The ground temperature at a unit in mK. -/
def unitGround (m : ModelImage) (mid : Nat) (s : State) : Int :=
  match m.branches.find? (fun b => b.owner == mid) with
  | some b => if b.groundMp = 0 then b.groundMk else tgetD s.ctr.ground b.groundMp (netMid m b.net)
  | none => 0

/-- λ of a store (R236): the loss over 15 min at the current layer temperatures, as a share of its energy, from 0 to 1. -/
def storeLoss (m : ModelImage) (u : UnitDecl) (s : State) : Rat :=
  let l := storeLayers u s
  let e := storeEnergy m u s
  let tg := unitGround m u.mid s
  let dt := l.foldl (fun (a : Int) c => a + (if coldUnit m u.mid then tg * 1024 - c.temp else c.temp - tg * 1024)) 0
  let wh : Rat := (u.lossMw : Rat) * (dt : Rat) / ((max 1 l.length : Nat) : Rat) / (4 * 1000 * 1024000)
  if e ≤ 0 then 0 else max 0 (min 1 (wh / e))

/-- The pipe loss of a network at the current estimate in W (R236). -/
def netLoss (m : ModelImage) (n : Nat) (s : State) : Int :=
  (m.branches.filter (fun b => b.kind == .pipe && b.net == n)).foldl (fun a b =>
    let tg := if b.groundMp = 0 then b.groundMk else tgetD s.ctr.ground b.groundMp (netMid m n)
    a + (b.lossMw : Int) * (b.lengthMm : Int) * (branchTemp m b s - tg) / 1000000000) 0

/-- The forecast demand of a network for a step. -/
def netDemand (m : ModelImage) (n t : Nat) (s : State) : Int :=
  (m.stations.filter (fun d => d.net == n)).foldl (fun a d => a + stepDemand d t s) 0

/-- The mode of a unit in a step (R241, R248): a unit that refused is fixed in step 0. -/
def stepMode (mid t : Nat) (s : State) : Nat := if t = 0 ∧ s.disp.freeze.contains mid then 1 else unitMode mid s

/-- By how much the minimum outputs of the running plants of a network exceed its demand side in a step (R240). -/
def surplusOf (m : ModelImage) (n t : Nat) (s : State) : Int :=
  let mins := (m.units.filter (fun u => midKind u.mid == 6 && unitNet m u.mid == n && unitMode u.mid s != 2)).foldl (fun a u => a + u.lo.getD 0 0) 0
  mins - netDemand m n t s - netLoss m n s

/-- The forecast yield of a solar-thermal plant in a step (R237). -/
def solarLimit (mid t : Nat) (s : State) : Int := Config.solarYield mid (weatherAt (stepSec t s) (stepAhead t s) s).2

/-- An efficiency of a plant or a store, held in 2^-16. -/
def eta16 (n : Nat) : Rat := (n : Rat) / 65536

/-- c0, c1 and c2 of a heat pump or chiller (R237), linearised at the present supply temperature and at the outdoor temperature in place of a source
temperature, which the spec does not name (log entry 97). -/
def pumpHeat (m : ModelImage) (u : UnitDecl) (s : State) : Rat × Rat × Rat :=
  let c := Config.heatPump u.mid (measuredTs m u s) (weatherAt (qTime s / sec) 0 s).1
  ((c.1 : Rat), (c.2.1 : Rat) / 65536, (c.2.2 : Rat) / 65536)

/-! ## Bounds (R235, R237, R240, R241, R248) -/

/-- Bounds that fix a variable. -/
def fixedAt (v : Rat) : Option Rat × Option Rat := (some v, some v)

/-- Bounds on both sides. -/
def between (lo hi : Int) : Option Rat × Option Rat := (some (lo : Rat), some (hi : Rat))

/-- The bounds of a plant's variables. IN is bounded below by 0, and by the electrical output range of a running CHP (log entry 97). -/
def plantBounds (m : ModelImage) (u : UnitDecl) (qty t : Nat) (s : State) : Option Rat × Option Rat :=
  let mode := stepMode u.mid t s
  let hi := if u.plant = .solar then min (u.hi.getD 0 0) (solarLimit u.mid t s) else u.hi.getD 0 0
  if qty = 1 then
    if mode = 1 then fixedAt (measuredOut u s) else if mode = 2 then fixedAt 0 else between (min (u.lo.getD 0 0) hi) hi
  else if qty = 2 then if mode = 1 then fixedAt (measuredTs m u s) else between (u.lo.getD 1 0) (u.hi.getD 1 0)
  else if qty = 3 then
    match u.plant with
    | .solar => fixedAt 0
    | .chp => if mode = 0 ∧ u.etaElec ≠ 0 then (some (max 0 ((u.elecLo : Rat) / eta16 u.etaElec)), some ((u.elecHi : Rat) / eta16 u.etaElec))
      else (some 0, none)
    | .boiler | .heatPump | .chiller | .electric => (some 0, none)
  else between (-(15 * (u.rampW : Int))) (15 * (u.rampW : Int))

/-- The bounds of a store's variables: E begins at the energy of the current layers (R236). -/
def storeBounds (m : ModelImage) (u : UnitDecl) (qty t : Nat) (s : State) : Option Rat × Option Rat :=
  let mode := stepMode u.mid t s
  let out := measuredOut u s
  if qty = 5 then
    let top := if s.disp.conserve then min (max 0 (surplusOf m (unitNet m u.mid) t s)) (u.hi.getD 0 0) else u.hi.getD 0 0
    if mode = 1 then fixedAt (max 0 (-out) : Int) else if mode = 2 then fixedAt 0 else between 0 top
  else if qty = 6 then if mode = 1 then fixedAt (max 0 out : Int) else if mode = 2 then fixedAt 0 else between 0 (u.hi.getD 1 0)
  else if qty = 7 then if t = 0 then fixedAt (storeEnergy m u s) else between 0 (u.hi.getD 2 0)
  else (none, none)

/-- The bounds of a pump group's variables. -/
def groupBounds (u : UnitDecl) (qty t n : Nat) (s : State) : Option Rat × Option Rat :=
  let mode := stepMode u.mid t s
  if qty = 9 then
    if mode = 1 then fixedAt (measuredOut u s) else if mode = 2 then fixedAt 0 else between (Config.dpReq u.mid n t) (u.hi.getD 0 0)
  else between 0 (u.hi.getD 1 0)

/-- The bounds of a station's budget. -/
def budgetBounds (d : StationDecl) : Option Rat × Option Rat := between (if d.bidir then -(d.exportW : Int) else 0) d.contractedW

/-- The bounds of a variable of the programme; none where there is no bound. `n` numbers the free values of the cycle. -/
def varBounds (m : ModelImage) (n : Nat) (s : State) (k : PKey) : Option Rat × Option Rat :=
  if k.qty = 11 then (some 0, none)
  else if k.qty = 12 then
    match m.stations.find? (fun d => stnMid d.ident == k.mid) with | some d => budgetBounds d | none => (none, none)
  else
    match m.units.find? (fun u => u.mid == k.mid) with
    | none => (none, none)
    | some u => if k.qty ≤ 4 then plantBounds m u k.qty k.step s else if k.qty ≤ 8 then storeBounds m u k.qty k.step s else groupBounds u k.qty k.step n s

/-! ## Cost (R237, R238) -/

/-- A weight of the configuration, held in 2^-40. -/
def weight (w : Nat) : Rat := (w : Rat) / pow2 40

/-- What a plant's input is priced as (R237). -/
def inputPrice (u : UnitDecl) (t : Nat) (s : State) : Rat :=
  match u.plant with
  | .boiler => priceAt u.fuel t s
  | .chp => (priceAt u.fuel t s : Rat) - eta16 u.etaElec * (priceAt 2 t s : Rat)
  | .heatPump | .chiller | .electric => priceAt 1 t s
  | .solar => 0

/-- The quadratic and the linear cost of a variable (R238), as the diagonal of H and as q of ½xᵀHx + qᵀx (R208). -/
def varCost (m : ModelImage) (s : State) (k : PKey) : Rat × Rat :=
  if k.qty = 3 then
    match m.units.find? (fun u => u.mid == k.mid) with | some u => (0, perWatt (inputPrice u k.step s)) | none => (0, 0)
  else if k.qty = 4 then (2 * weight s.cfg.wRamp, 0)
  else if k.qty = 8 then (if k.step = 95 then 2 * weight s.cfg.wTerm else 0, 0)
  else if k.qty = 10 then (0, perWatt (priceAt 1 k.step s))
  else if k.qty = 12 then
    match m.stations.find? (fun d => stnMid d.ident == k.mid) with
    | some d => (2 * weight s.cfg.wBudget, -(2 * weight s.cfg.wBudget * (stepDemand d k.step s : Rat)))
    | none => (0, 0)
  else (0, 0)

/-! ## Watch ports (R239) -/

/-- The source temperatures of the units and stations of the model in mK, by owner (R166, R239). -/
def outletTemps (m : ModelImage) (s : State) : Tbl Int :=
  match s.sep.est with
  | none => []
  | some est =>
    let e := stepEnv m est s
    (branchList m).foldl (fun t x => if isUnit x.2 then tput t x.2.owner (sourceNow e s.ctr.layers s x.1 x.2 / 1024) else t) []

/-- A source's recorded outlet temperature at an instant of MON (R239). -/
def outletAt (mid t : Nat) (s : State) : Option Int :=
  ((tgetD s.disp.outlets mid []).find? (fun e => decide (e.1 ≤ t))).map (·.2)

/-- The midpoint of a step in ns after τ0 (R239). -/
def midAhead (t : Nat) (s : State) : Int :=
  (if onMon s then 0 else (stepZero s : Int) - (qTime s : Int)) + ((t * 900 + 450) * sec : Nat)

/-- The departure time of a source with a delay, in ns after τ0. -/
def departs (t d : Nat) (s : State) : Int := midAhead t s - (d * sec : Nat)

/-- The mean of a value over a port's sources by their shares, rescaled to sum to 1 (R239). -/
def shareMean (p : PortFcst) (f : Nat × Nat × Nat → Rat) : Rat :=
  let all : Nat := (p.sources.map (fun x => x.2.1)).foldl (· + ·) 0
  (p.sources.map (fun x => f x * (x.2.1 : Rat))).foldl (· + ·) 0 / ((max 1 all : Nat) : Rat)

/-- drop_w (R239): the share-weighted outlet temperature less the arrival in the projection's last bin, never below 0. -/
def dropOf (p : PortFcst) (now : Tbl Int) : Rat :=
  let src := shareMean p (fun x => ((tgetD now x.1 0 : Int) : Rat))
  match (p.bins.getLast?).bind id with | some t => max 0 (src - (t : Rat)) | none => 0

/-- Whether the arrival at a port in a step still depends on the plan (R239): every source departs at or after τ0. -/
def planned (p : PortFcst) (t : Nat) (s : State) : Bool := !p.sources.isEmpty && p.sources.all (fun x => decide (0 ≤ departs t x.2.2 s))

/-- The fixed arrival at a watch port in a step (R239), none where nothing is fixed or no water arrives. -/
def fixedArrival (p : PortFcst) (now : Tbl Int) (t : Nat) (s : State) : Option Rat :=
  if planned p t s then none
  else
    let at_ := (s.tim.mon : Int) + midAhead t s - (boundary 7 0 s : Int)
    if 0 ≤ at_ ∧ at_ < 3600000000000 then (p.bins.getD (at_.toNat / 60000000000) none).map (fun (x : Int) => (x : Rat))
    else
      some (shareMean p (fun x => (((outletAt x.1 ((s.tim.mon : Int) + departs t x.2.2 s).toNat s).getD (tgetD now x.1 0) : Int) : Rat)) - dropOf p now)

/-- The forecast of a watch port, if it receives water. -/
def watchPort (mid : Nat) (s : State) : Option PortFcst := s.ctr.ports.find? (fun p => p.mid == mid)

/-- BASE_MARGIN, and CONS_MARGIN in conservative mode (R240), in mK. -/
def marginMk (s : State) : Int := ((param 6 s + (if s.disp.conserve then param 7 s else 0)) * 100 : Nat)

/-- The step that contains a departure time. -/
def departStep (t d : Nat) (s : State) : Nat := ((departs t d s - (midAhead 0 s - (450 * sec : Nat))) / (quarterNs : Int)).toNat

/-- Whether a source is a plant, whose supply temperature is a variable of the programme. -/
def plantSource (m : ModelImage) (mid : Nat) : Bool := midKind mid == 6 && m.units.any (fun u => u.mid == mid)

/-- The coefficient of a plant's supply temperature in a watch port's constraint (R239). -/
def arrivalCoef (p : PortFcst) (t : Nat) (v : PKey) (s : State) : Rat :=
  shareMean p (fun x => if x.1 = v.mid ∧ departStep t x.2.2 s = v.step then 1 else 0)

/-- The right-hand side of a watch port's constraint (R236, R239): a source that is no plant counts with its present outlet temperature (log entry 97). -/
def arrivalRhs (m : ModelImage) (p : PortFcst) (now : Tbl Int) (tMin : Int) (s : State) : Rat :=
  ((tMin + marginMk s : Int) : Rat) + dropOf p now - shareMean p (fun x => if plantSource m x.1 then 0 else ((tgetD now x.1 0 : Int) : Rat))

/-! ## Constraints (R236, R237) -/

/-- The coefficients of a plant's conversion (R237): Q, IN and TS. That of a solar-thermal plant fixes IN. -/
def conversion (m : ModelImage) (u : UnitDecl) (qty : Nat) (s : State) : Rat :=
  match u.plant with
  | .boiler | .chp => if qty = 1 then 1 else if qty = 3 then -(eta16 u.etaHeat) else 0
  | .electric => if qty = 1 then 1 else if qty = 3 then -(99 / 100) else 0
  | .heatPump | .chiller => if qty = 1 then 1 else if qty = 3 then -(pumpHeat m u s).2.1 else -(pumpHeat m u s).2.2
  | .solar => if qty = 3 then 1 else 0

/-- The coefficient of a variable in a constraint in which it stands. -/
def conCoef (m : ModelImage) (n : Nat) (s : State) (c v : PKey) : Rat :=
  let u := m.units.find? (fun u => u.mid == c.mid)
  if c.qty = 0x20 then if v.qty = 1 ∨ v.qty = 6 then 1 else -1
  else if c.qty = 0x21 then if v.qty = 1 ∧ v.step = c.step then 1 else -1
  else if c.qty = 0x22 then (match u with | some u => conversion m u v.qty s | none => 0)
  else if c.qty = 0x23 then
    (match u with
     | some u => if v.qty = 7 then (if v.step = c.step then -(1 - storeLoss m u s) else 1) else if v.qty = 5 then -(eta16 u.etaHeat / 4) else 1 / 4
     | none => 0)
  else if c.qty = 0x24 then 1
  else if c.qty = 0x25 then if v.qty = 10 then 1 else -((Config.pumpPower c.mid n).1 : Rat) / 65536
  else
    match watchPort c.mid s with
    | some p => if planned p c.step s then (if v.qty = 11 then -1 else arrivalCoef p c.step v s) else if v.qty = 11 then 1 else 0
    | none => if v.qty = 11 then 1 else 0

/-- The right-hand side of a constraint. A watch port without a constraint in a step has the row W = 0 in its place. -/
def conRhs (m : ModelImage) (n : Nat) (now : Tbl Int) (s : State) (c : PKey) : Rat :=
  let u := m.units.find? (fun u => u.mid == c.mid)
  if c.qty = 0x20 then netLoss m c.mid s
  else if c.qty = 0x21 then (match u with | some u => if c.step = 0 then (measuredOut u s : Rat) else 0 | none => 0)
  else if c.qty = 0x22 then
    (match u with | some u => if u.plant = .heatPump ∨ u.plant = .chiller then (pumpHeat m u s).1 else 0 | none => 0)
  else if c.qty = 0x24 then
    (match u with
     | some u => (match (if s.disp.conserve then none else tget s.cfg.terminal c.mid) with | some e => (e : Rat) | none => storeEnergy m u s)
     | none => 0)
  else if c.qty = 0x25 then (Config.pumpPower c.mid n).2
  else if c.qty = 0x26 then
    match watchPort c.mid s, s.cfg.watch.find? (fun w => w.mid == c.mid) with
    | some p, some w => if planned p c.step s then arrivalRhs m p now w.tMin s else 0
    | _, _ => 0
  else 0

/-! ## The job's input (R202, R242) -/

/-- The number of a block among those of its role. -/
def blockNum (p : PatSlot) (i : Nat) (role : Nat) : Nat := ((p.body.blocks.take i).filter (fun b => b.role == role)).length

/-- A bound as a mantissa: the marker where there is none (R190). -/
def boundMant (e : Int) (v : Option Rat) : Int := match v with | some x => (bsPut e x).1 | none => bsMarker

/-- The mantissas of a block of the programme. -/
def progVals (m : ModelImage) (n : Nat) (now : Tbl Int) (s : State) (role num : Nat) (e : Int) : List Int :=
  let vars := qtyVars m s.cfg.watch (num + 1)
  let cons := kindCons m s.cfg.watch (num + 0x20)
  let put := fun (v : Rat) => (bsPut e v).1
  if role = 0x03 then vars.map (fun k => put (varCost m s k).1)
  else if role = 0x05 then vars.map (fun k => put (varCost m s k).2)
  else if role = 0x07 then vars.map (fun k => boundMant e (varBounds m n s k).1)
  else if role = 0x08 then vars.map (fun k => boundMant e (varBounds m n s k).2)
  else if role = 0x04 then
    let vs := progKeys m s.cfg.watch
    cons.flatMap (fun c => vs.filterMap (fun v => if relates m c v then some (put (conCoef m n s c v)) else none))
  else if role = 0x06 then cons.map (fun c => put (conRhs m n now s c))
  else []

/-- The value sections of dispatch's job (R202, R236 to R238): every input block of the pattern. -/
def progSections (m : ModelImage) (n : Nat) (p : PatSlot) (s : State) : List JobSection :=
  let now := outletTemps m s
  (p.body.blocks.mapIdx (fun i b =>
    if (valueRoles true).contains b.role then
      [{ role := b.role, blockId := i, exp := b.exp, count := b.count, vals := progVals m n now s b.role (blockNum p i b.role) b.exp, keys := [] }]
    else [])).flatten

/-- The exponent of a numbered block of a role. -/
def numExp (p : PatSlot) (role num : Nat) : Int := ((p.body.blocks.filter (fun b => b.role == role)).map (·.exp)).getD num 0

/-- Warm values of one block with their step numbers lowered by k; those whose step would be negative are dropped (R242). -/
def shifted (k num : Nat) (l : List WarmVal) : List WarmVal :=
  (l.filter (fun v => v.qty == num && decide (k ≤ v.step))).map (fun v => { v with step := v.step - k })

/-- The key of a warm value (R202). -/
def warmKey (v : WarmVal) : Nat := (⟨v.qty, v.mid, v.step⟩ : PKey).num

/-- A warm value section in the exponent of the block that its keys map to (R202). -/
def warmSection (p : PatSlot) (role out num : Nat) (l : List WarmVal) : JobSection :=
  let e := numExp p out num
  { role := role, blockId := 0xFFFF, exp := e, count := l.length, vals := l.map (fun v => (bsPut e (bsVal v.exp v.m)).1), keys := [] }

/-- A warm key section. -/
def warmKeys (role : Nat) (l : List WarmVal) : JobSection :=
  { role := role, blockId := 0xFFFF, exp := 0, count := l.length, vals := [], keys := l.map warmKey }

/-- The warm sections of dispatch's job (R202, R242): the variables quantity by quantity, the constraints kind by kind. -/
def warmSections (p : PatSlot) (k : Nat) (w : WarmVals) : List JobSection :=
  (qtys.mapIdx (fun i q =>
    let x := shifted k q w.x
    if x.isEmpty then []
    else [warmKeys 0x09 x, warmSection p 0x0A 0x10 i x, warmSection p 0x0B 0x12 i (shifted k q w.zl), warmSection p 0x0C 0x13 i (shifted k q w.zu)])).flatten ++
  (conKinds.mapIdx (fun i q =>
    let y := shifted k q w.y
    if y.isEmpty then [] else [warmKeys 0x0D y, warmSection p 0x0E 0x11 i y])).flatten

end Sys2Proof.Machine
end

