-- ==== Sys2Proof/Machine/Disp.lean ====
section
/-!
DEFINITION. Dispatch: cycles and their frozen inputs, acceptance of plans, unit commands, station budgets, fallback, records, operations
(R78, R79, R227 to R258).
-/
namespace Sys2Proof.Machine

/-! ## Records -/

/-- The key of a variable (R202). -/
def planKey (v : PlanVar) : Nat := v.mid + v.qty * 2 ^ 32 + v.step * 2 ^ 48

/-- Whether a variable comes before another in key order: MID, quantity, step. -/
def keyBefore (a b : PlanVar) : Bool :=
  decide (a.mid < b.mid) || (a.mid == b.mid && (decide (a.qty < b.qty) || (a.qty == b.qty && decide (a.step ≤ b.step))))

/-- A variable put into its place in key order. -/
def insertVar (v : PlanVar) : List PlanVar → List PlanVar
  | [] => [v]
  | x :: r => if keyBefore v x then v :: x :: r else x :: insertVar v r

/-- Variables in key order. -/
def sortVars (l : List PlanVar) : List PlanVar := l.foldr insertVar []

/-- The district confidence in % (R78). -/
def districtPct (s : State) : Nat := s.disp.district / 1000000

/-- STATUS and DETAIL of a cycle record (R256): `acc` says whether the record reports the commands. -/
def cycleStatus (c : Cycle) (acc : Bool) (s : State) : Nat × Nat :=
  let refused := if acc then s.disp.accRefused.length else 0
  if s.disp.fallback then (0x44, 0)
  else if c.status ≠ 0 then (c.status, 0)
  else if acc ∧ s.disp.accAborted ≠ 0 then (0x41, 0)
  else if refused ≠ 0 then (0x40, refused)
  else (0x00, 0)

/-- The cycle record (R255). -/
def cycleRecord (c : Cycle) (acc : Bool) (s : State) : Bytes :=
  let n := fun (x : Nat) => if acc then x else 0
  let st := cycleStatus c acc s
  let flags := b2n s.disp.conserve + 2 * b2n s.disp.fallback + 4 * b2n (s.dup.state == .standby) + 8 * b2n c.shift +
    16 * b2n (acc && s.disp.accComp) + 32 * b2n c.legBad
  le 8 c.round ++ le 8 c.estRound ++ le 8 c.submitted ++ le 1 st.1 ++ le 1 c.reason ++ le 1 c.chu ++ le 1 flags ++
    le 2 (n s.disp.accSent.length) ++ le 2 (n s.disp.accRefused.length) ++ le 2 (n s.disp.accAborted) ++ le 1 (districtPct s) ++
    le 1 c.iters ++ le 4 (min c.merit 0xFFFFFFFF) ++ leS 8 c.objective ++ le 4 (planAge s / sec) ++ le 4 c.solveMs ++ le 4 c.cold ++ zeros 4

/-- An entry of a plan record (R257). -/
def planEntry (v : PlanVar) : Bytes := le 8 (planKey v) ++ leS 4 (clampI (-2147483648) 2147483647 v.val)

/-- An entry of a commit record (R257). -/
def commitEntry (c : UnitCmd) : Bytes :=
  le 4 c.mid ++ le 1 c.kind ++ le 1 (c.code.getD 0xFF) ++ le 2 c.group ++ le 6 c.seq ++ zeros 2

/-- The records of a cycle go out (R254): the cycle record, the plan record after an accepted plan, the commit record where commands were
sent. `acc` says that the record takes what has been counted since the last one. -/
def emitCycle (c : Cycle) (acc : Bool) (s : State) : State :=
  let st := cycleStatus c acc s
  let rec_ := cycleRecord c acc s
  let cmds := s.disp.accCmds
  let s := deliverWith 52 st.1 st.2 rec_ s
  let s := if c.accepted.isSome then deliverWith 53 st.1 st.2 (rec_ ++ (sortVars c.plan).flatMap planEntry) s else s
  if !acc then s
  else
    let s := if cmds.isEmpty then s else deliverWith 54 st.1 st.2 (rec_ ++ cmds.flatMap commitEntry) s
    { s with disp := { s.disp with accCmds := [], accSent := [], accRefused := [], accAborted := 0, accComp := false } }

/-- The record of the cycle whose commands are under way goes out once every outcome is known, at the latest PLANT_ACK_MS + 2 s after
acceptance (R254). -/
def settleCycle (s : State) : State :=
  match s.disp.acting with
  | none => s
  | some c =>
    let late := match c.accepted with | some t => decide (t + ackNs s + 2 * sec ≤ s.tim.mon) | none => false
    if (s.disp.cmds.isEmpty && s.disp.txns.isEmpty && s.disp.toSend.isEmpty) || late then
      emitCycle c true { s with disp := { s.disp with acting := none } }
    else s

/-! ## A cycle -/

/-- Conservative mode at a cycle (R79). -/
def updateConserve (s : State) : State :=
  let th := param 5 s * 1000000
  let d := s.disp.district
  let v := if s.disp.conserve then decide (d < th) else decide (d + 10000000 < th)
  { s with disp := { s.disp with conserve := v } }

/-- The outlet temperatures of the sources are recorded at each cycle, newest first (R239); as many are kept as 65,535 s of delay need. -/
def noteOutlets (s : State) : State :=
  match s.model.active with
  | none => s
  | some m =>
    let t := (outletTemps m s).foldl (fun t x => tput t x.1 (((s.tim.mon, x.2) :: tgetD t x.1 []).take 4400)) s.disp.outlets
    { s with disp := { s.disp with outlets := t } }

/-- An event of dispatch about an element: group 18, CONDITION_SET, with the element in bits 63:40 (R510). -/
def dispEvent (elem : Nat) (s : State) : State := evt 18 3 (argCond 0 0 elem) s

/-- The watch ports of a cycle (R239): an event for a port without sources and for a fixed arrival below Tmin plus the margin. -/
def watchPorts (m : ModelImage) (s : State) : State :=
  let now := outletTemps m s
  s.cfg.watch.foldl (fun s w =>
    match watchPort w.mid s with
    | none => s
    | some p =>
      if p.sources.isEmpty then dispEvent (w.mid % 2 ^ 24) s
      else
        (List.range 96).foldl (fun s t =>
          match fixedArrival p now t s with
          | some a => if a < ((w.tMin + marginMk s : Int) : Rat) then dispEvent (w.mid % 2 ^ 24) s else s
          | none => s) s) s

/-- The reason for which a cycle submits no solve (R86, R230), 0 for none: while ring pair 0 is host-owned, every cycle ends with REASON 7. -/
def skipReason (s : State) : Nat :=
  let nets := match s.model.active with | some m => m.networks.length | none => 0
  if !ownedInside 0 s then 7
  else if s.disp.solving.isSome then 1
  else if (match estAge s with | some a => decide (10 < a) | none => true) then 2
  else if (List.range nets).any (fun n => ctrNet n s == 2) then 3
  else if (match s.model.armed with
    | some x => decide (s.rnd.anchor + (x - s.rnd.number) * sec < s.tim.mon + param 2 s * sec)
    | none => false) then 6
  else 0

/-- How many quarter-hours step 0 has moved since a solution (R242). -/
def stepShift (w : WarmSol) (s : State) : Nat :=
  if w.onMon || onMon s then (s.tim.mon - w.tau0) / quarterNs else (stepZero s - w.step0) / quarterNs

/-- The PARAM of dispatch's job (R201, R242): slot 8 with USE_CFG, and the lineage of the warm start. Its output buffer lies in the module's own memory
(log entry 66). -/
def solveParam (lineage : Nat) (s : State) : Bytes :=
  le 8 (modelSigs s).1.toNat ++ [8, 1, 0, 0] ++ le 4 0xFFFFFFFF ++ le 8 0 ++ le 8 lineage

/-- The job of the firmware ends before the churn takes it. -/
def endUnsolved (q : Req) (status detail : Nat) (s : State) : State :=
  let e : SolveEnd := { slot := q.slot, status := status, case := 0, point := none, plan := [], merit := 0xFFFFFFFF, objective := 0, iters := 0, cold := 0,
                        warm := none }
  finish q status detail { s with chu := { s.chu with ends := s.chu.ends ++ [e] } }

/-- QP_SOLVE is submitted on ring pair 0 (R84, R97, R100, R242) as a descriptor of the host's form: announced at SUB_TAIL, fetched and started at once.
A descriptor that a check refuses ends with that status; during a block reset of CHU it ends with BLK_RESET (R68). -/
def submitSolve (deadline : Nat) (lineage : Nat) (secs : List JobSection) (s : State) : State :=
  let r := ring 0 s
  let q : Req := ⟨0, r.subTail⟩
  let d : Desc := { opcode := 0x0111, flags := 0, version := 1, length := (secs.map sectionSize).foldl (· + ·) 0, bufAddr := 0, userTag := 0,
                    deadline := deadline, param := solveParam lineage s }
  let next := (r.subTail + 1) % subSize 0 s
  let c : Cmd := { slot := r.subTail, desc := d, started := true, done := none }
  let s := pmcAdd 0x8C 1 (putRing 0 { r with subTail := next, subHead := next, cmds := r.cmds ++ [c] } s)
  let early := if s.start.blkRst.contains .chu then some (0xF0, 0)
    else match descCheck 0 false d s.tim.mon with | some st => some (st, 0) | none => jobCheck true (jobParam d) secs d.length s
  match early with
  | some x => endUnsolved q x.1 x.2 s
  | none => queueJob true q (jobParam d) secs d.length s

/-- The step-0 set-points of a cycle with their bounds in record units (R235, R243): outputs, supply temperatures, store powers, differential pressures
and budgets. -/
def setBounds (m : ModelImage) (n : Nat) (s : State) : List (Nat × Nat × Int × Int) :=
  (progKeys m s.cfg.watch).filterMap (fun k =>
    if k.step = 0 ∧ [1, 2, 5, 6, 9, 12].contains k.qty then
      match varBounds m n s k with
      | (some lo, some hi) => some (k.mid, k.qty, lo.floor, -((-hi).floor))
      | _ => none
    else none)

/-- The terms of each network's step-0 heat balance with their signs, its loss and its forecast demand (R236, R243). -/
def balanceTerms (m : ModelImage) (s : State) : List (List (Nat × Nat × Int) × Int × Int) :=
  let ks := (progKeys m s.cfg.watch).filter (fun k => k.step == 0)
  (List.range m.networks.length).map (fun n =>
    let c : PKey := ⟨0x20, n, 0⟩
    (ks.filterMap (fun k => if relates m c k then some (k.mid, k.qty, if k.qty = 1 ∨ k.qty = 6 then 1 else -1) else none), netLoss m n s,
      netDemand m n 0 s))

/-- What a cycle freezes (R228). -/
def beginCycle (s : State) : Cycle :=
  { round := s.rnd.number, tau0 := s.tim.mon, step0 := stepZero s, into := if onMon s then 0 else qTime s - stepZero s, onMon := onMon s,
    legBad := !s.tim.legValid }

/-- A cycle that submits its solve (R228, R242): the frozen inputs, the programme with its values, and the warm start. -/
def solveCycle (m : ModelImage) (c : Cycle) (s : State) : State :=
  let d := draw s
  let s := d.2
  let p := progSlot s.cfg.watch m
  let k := match s.disp.warm with | some w => stepShift w s | none => 0
  let secs := progSections m d.1 p s ++ (match s.disp.warm with | some w => warmSections p k w.vals | none => [])
  let c := { c with estRound := (match s.sep.est with | some e => e.round | none => 0), submitted := s.tim.mon, slot := (ring 0 s).subTail,
                    shift := decide (k ≠ 0), bounds := setBounds m d.1 s, nets := balanceTerms m s, swaps := s.model.swaps, lineage := m.lineage }
  let s := watchPorts m s
  submitSolve (s.tim.mon + param 2 s * sec) (match s.disp.warm with | some w => w.lineage | none => 0) secs
    { s with disp := { s.disp with freeze := [], solving := some c } }

/-- A cycle falls due (R228, R230, R242): it freezes its inputs and submits its solve, or is skipped. Without an active model there is no estimate, and
the cycle is skipped with REASON 2 (log entry 97). -/
def runCycle (s : State) : State :=
  let s := { s with disp := { s.disp with act := s.disp.params, force := false } }
  let s := refreshDemand (noteOutlets (updateConserve s))
  let c := beginCycle s
  match skipReason s, s.model.active with
  | 0, some m => solveCycle m c s
  | why, _ => emitCycle { c with status := 0x43, reason := if why = 0 then 2 else why } s.disp.acting.isNone s

/-- DISPATCH_CYCLE at a round close (R227, R258): the anchor, the interval and the forced cycle. -/
def dispClose (s : State) : State :=
  let s := settleCycle s
  let n := s.rnd.number
  let a := s.disp.anchor.getD n
  let s := { s with disp := { s.disp with anchor := some a } }
  let regular := decide (a ≤ n) && (n - a) % s.disp.interval == 0
  let s := if regular && paramSet 1 s != s.disp.interval then
      { s with disp := { s.disp with interval := paramSet 1 s, anchor := some n } } else s
  if regular || s.disp.force then runCycle s else s

/-! ## Acceptance -/

/-- Whether every step-0 set-point lies within its bounds, with one unit of rounding (R243). -/
def boundsHold (c : Cycle) (vars : List PlanVar) : Bool :=
  c.bounds.all (fun b => match planVar vars b.1 b.2.1 0 with
    | some v => decide (b.2.2.1 - 1 ≤ v) && decide (v ≤ b.2.2.2 + 1)
    | none => true)

/-- Whether the step-0 heat balance of each network closes within the tolerance (R236, R243). -/
def balanceHolds (c : Cycle) (vars : List PlanVar) (tol : Nat) : Bool :=
  c.nets.all (fun n =>
    let heat := n.1.foldl (fun a x => a + x.2.2 * (planVar vars x.1 x.2.1 0).getD 0) 0
    decide ((heat - n.2.1).natAbs * 100 ≤ tol * n.2.2.natAbs))

/-- The reason of R243 for which a solution is rejected, 0 for none. -/
def rejectReason (c : Cycle) (e : SolveEnd) (s : State) : Nat :=
  let meritOk := decide (e.merit * 2 ^ param 3 s ≤ 2 ^ 24)
  let clean := e.status == 0x00 || e.status == 0x22 || e.status == 0x24
  let best := e.status == 0x26 || e.status == 0x20
  if !clean && !best then 1
  else if !clean && !meritOk then 2
  else if e.point.isNone then 1
  else if !boundsHold c e.plan then 3
  else if !balanceHolds c e.plan (param 4 s) then 4
  else if c.swaps ≠ s.model.swaps then 5
  else 0

/-- The cycle with what the result header showed (R255). -/
def cycleEnd (c : Cycle) (e : SolveEnd) (s : State) : Cycle :=
  { c with chu := e.status, iters := e.iters, merit := e.merit, cold := e.cold, objective := e.objective, solveMs := (s.tim.mon - c.submitted) / 1000000 }

/-- The firmware takes the entry of its job: the slots of pair 0 before CMP_TAIL are free again (R84, R108). -/
def takeEntry (s : State) : State := ownerSettle (if ownedInside 0 s then putRing 0 { ring 0 s with cmpHead := (ring 0 s).cmpTail } s else s)

/-- A solution that was written with SOL_VALID 1 is the next warm start, accepted or not, under its own lineage (R242). -/
def keepWarm (c : Cycle) (e : SolveEnd) (s : State) : State :=
  match (if e.point.isSome then e.warm else none) with
  | some v => { s with disp := { s.disp with warm := some { step0 := c.step0, onMon := c.onMon, tau0 := c.tau0, lineage := c.lineage, vals := v } } }
  | none => s

/-- DISPATCH_SOLVE_COMPLETE (R242, R243): the solution is kept for the next warm start, and accepted or rejected. -/
def solveComplete (s : State) : State :=
  match s.disp.solving with
  | none => s
  | some c =>
    match s.chu.ends.find? (fun e => e.slot == c.slot) with
    | none => s
    | some e =>
      let s := takeEntry { s with chu := { s.chu with ends := s.chu.ends.erase e }, disp := { s.disp with solving := none } }
      let s := keepWarm c e s
      let c := cycleEnd c e s
      match rejectReason c e s with
      | 0 =>
        let pl : Plan := { tau0 := (c.tau0 : Int), step0 := c.step0, into := c.into, onMon := c.onMon, round := c.round, vars := e.plan }
        { s with disp := { s.disp with waiting := some (pl, { c with accepted := some s.tim.mon, plan := e.plan }) } }
      | k => emitCycle { c with status := 0x42, reason := k } s.disp.acting.isNone s

def execDispatchSolveComplete (s : State) := run solveComplete s

/-! ## Unit commands -/

/-- The serial of an atomic group's MID in a commit record (R122, R257). -/
def groupSerial (g : Nat) : Nat := g % 2 ^ 16

/-- A word of a plant channel's output area. -/
def putChan (u i v : Nat) (s : State) : State := setOut (plantOut u + i) (BitVec.ofNat 32 v) s

/-- A command goes into its plant channel (R245, R371). -/
def publishCmd (c : UnitCmd) (s : State) : State :=
  match tget s.cfg.unitChan c.mid with
  | none => s
  | some u =>
    let s := putChan u 0 c.mid (putChan u 1 c.seq (putChan u 2 (c.seq / 2 ^ 32 % 2 ^ 16 + c.kind * 2 ^ 16) s))
    let s := (List.range 4).foldl (fun s i => putChan u (3 + i) (twos 4 (c.vals.getD i 0)) s) s
    plantSend u (putChan u 7 c.txn (putChan u 8 (c.txn / 2 ^ 32) s))

/-- A command is counted for the records (R255, R257). -/
def countCmd (c : UnitCmd) (s : State) : State :=
  { s with disp := { s.disp with accCmds := s.disp.accCmds ++ [c], accSent := addOnce s.disp.accSent c.mid } }

/-- A unit refuses (R246, R248): it keeps its set-point and is fixed in the next cycle. -/
def noteRefused (mid : Nat) (s : State) : State :=
  { s with disp := { s.disp with accRefused := addOnce s.disp.accRefused mid, freeze := addOnce s.disp.freeze mid } }

/-- A unit has taken a set-point. -/
def noteSet (mid : Nat) (v : List Int) (s : State) : State := { s with disp := { s.disp with setW := tput s.disp.setW mid v } }

/-- A command is first sent (R245). -/
def newCmd (mid kind : Nat) (vals : List Int) (txn group : Nat) (s : State) : State :=
  let c : UnitCmd := { mid := mid, seq := s.rnd.number * 16 + (kind - 1), kind := kind, vals := vals, txn := txn, group := group,
                       first := s.tim.mon, code := none, ended := false }
  let s := countCmd c s
  publishCmd c { s with disp := { s.disp with cmds := s.disp.cmds ++ [c] } }

/-- A loop-driven unit is offered its set-point (R246, R271). -/
def offerLoop (mid n : Nat) (v : List Int) (s : State) : State :=
  let ok := loopAccepts n s
  let c : UnitCmd := { mid := mid, seq := s.rnd.number * 16, kind := 1, vals := v, txn := 0, group := 0, first := s.tim.mon,
                       code := some (if ok then 0 else 2), ended := true }
  let s := countCmd c s
  if ok then noteSet mid v (setLoopSp n (v.getD 0 0) s) else noteRefused mid s

/-- Whether a unit has a command under way or belongs to a transaction. -/
def unitBusy (mid : Nat) (s : State) : Bool :=
  s.disp.cmds.any (fun c => c.mid == mid) || s.disp.txns.any (fun t => (tget t.vals mid).isSome)

/-- A unit leaves the list of those whose set-point has to be sent. -/
def unqueue (mid : Nat) (s : State) : State := { s with disp := { s.disp with toSend := without s.disp.toSend mid } }

/-- PREPARE to the members of an atomic group (R247): loop-driven members are checked at the same instant. -/
def beginTxn (g : Nat) (vals prev : Tbl (List Int)) (s : State) : State :=
  let bad := vals.any (fun v => match loopUnit v.1 s with | some n => !loopAccepts n s | none => false)
  let t : Txn := { group := g, txn := s.rnd.number * 16 + 1, phase := 1, first := s.tim.mon, vals := vals, prev := prev, bad := bad, abort := false }
  let s := { s with disp := { s.disp with txns := s.disp.txns ++ [t] } }
  vals.foldl (fun s v => match loopUnit v.1 s with
    | some _ => { s with disp := { s.disp with accSent := addOnce s.disp.accSent v.1 } }
    | none => newCmd v.1 2 v.2 t.txn (groupSerial g) s) s

/-- The set-point of a unit is sent where it has changed (R246, R247). -/
def sendUnit (s : State) (mid : Nat) : State :=
  if unitBusy mid s then s
  else
    match unitTarget mid s with
    | none => unqueue mid s
    | some v =>
      if tget s.disp.setW mid = some v then unqueue mid s
      else
        let g := groupOf mid s
        if g ≠ 0 ∧ !s.disp.fallback then
          let ms := (modelUnits s).filter (fun u => groupOf u.mid s == g)
          if ms.any (fun u => unitBusy u.mid s) then s
          else
            let old := fun (m : Nat) => tgetD s.disp.setW m []
            let vals := ms.foldl (fun t u => tput t u.mid ((unitTarget u.mid s).getD (old u.mid))) []
            let prev := ms.foldl (fun t u => tput t u.mid (old u.mid)) []
            beginTxn g vals prev (ms.foldl (fun s u => unqueue u.mid s) s)
        else
          match loopUnit mid s with
          | some n => offerLoop mid n v (unqueue mid s)
          | none => newCmd mid 1 v 0 0 (unqueue mid s)

/-- The command of a transaction's member in a phase. -/
def memberCmd (t : Txn) (mid : Nat) (s : State) : Option UnitCmd :=
  s.disp.cmds.find? (fun c => c.mid == mid && c.txn == t.txn && c.kind == t.phase + 1)

/-- Whether every controller-driven member has answered, or PLANT_ACK_MS has passed (R247). -/
def txnReady (t : Txn) (s : State) : Bool :=
  decide (t.first + ackNs s ≤ s.tim.mon) || t.vals.all (fun v => match loopUnit v.1 s with
    | some _ => true
    | none => match memberCmd t v.1 s with | some c => c.ended | none => true)

/-- The commands of a transaction leave the outstanding ones. -/
def dropCmds (t : Txn) (s : State) : State :=
  { s with disp := { s.disp with cmds := s.disp.cmds.filter (fun c => !(c.txn == t.txn && (tget t.vals c.mid).isSome && c.kind != 1)) } }

/-- A transaction is replaced by its next phase, or dropped. -/
def putTxn (t : Txn) (n : Option Txn) (s : State) : State :=
  { s with disp := { s.disp with txns := s.disp.txns.filter (fun x => x != t) ++ n.toList } }

/-- COMMIT or ABORT goes to all members (R247). -/
def secondPhase (t : Txn) (commit : Bool) (s : State) : State :=
  let n := { t with phase := if commit then 2 else 3, first := s.tim.mon }
  let s := putTxn t (some n) (dropCmds t s)
  t.vals.foldl (fun s v => match loopUnit v.1 s with
    | some k => if commit then noteSet v.1 v.2 (setLoopSp k (v.2.getD 0 0) s) else s
    | none => newCmd v.1 (if commit then 3 else 4) [] t.txn (groupSerial t.group) s) s

/-- The decision after the PREPARE (R247, R249). -/
def decideTxn (t : Txn) (s : State) : State :=
  let ctrl := t.vals.filter (fun v => (loopUnit v.1 s).isNone)
  let ready : Nat → Bool := fun mid => match memberCmd t mid s with | some c => c.code == some 4 | none => false
  let loopsOk := t.vals.all (fun v => match loopUnit v.1 s with | some n => loopAccepts n s | none => true)
  if t.abort then secondPhase t false s
  else if ctrl.all (fun v => ready v.1) && loopsOk && !t.bad then secondPhase t true s
  else
    let s := ctrl.foldl (fun s v => if ready v.1 then s else noteRefused v.1 s) s
    let s := { s with disp := { s.disp with accAborted := s.disp.accAborted + 1,
                                            freeze := t.vals.foldl (fun l v => addOnce l v.1) s.disp.freeze } }
    secondPhase t false s

/-- The end of a COMMIT (R247): members that committed keep their values; where one had dropped them, those that committed are restored. -/
def endCommit (t : Txn) (s : State) : State :=
  let code := fun (mid : Nat) => match memberCmd t mid s with | some c => c.code | none => some 5
  let did := t.vals.filter (fun v => code v.1 == some 5)
  let lost := t.vals.any (fun v => code v.1 == some 7)
  let s := did.foldl (fun s v => noteSet v.1 v.2 s) s
  let s := t.vals.foldl (fun s v => if code v.1 == some 5 || code v.1 == some 7 then s else noteRefused v.1 s) s
  let s := putTxn t none (dropCmds t s)
  if lost && !did.isEmpty then
    let back := did.foldl (fun m v => tput m v.1 (tgetD t.prev v.1 [])) []
    let cur := did.foldl (fun m v => tput m v.1 v.2) []
    beginTxn t.group back cur { s with disp := { s.disp with accComp := true } }
  else s

/-- The end of an ABORT (R249): a member that answers COMMITTED shows that the group had committed. -/
def endAbort (t : Txn) (s : State) : State :=
  let code := fun (mid : Nat) => match memberCmd t mid s with | some c => c.code | none => none
  let was := t.vals.any (fun v => code v.1 == some 5)
  let s := putTxn t none (dropCmds t s)
  if was then
    let s := t.vals.foldl (fun s v => noteSet v.1 v.2 s) s
    { s with disp := { s.disp with accAborted := s.disp.accAborted - 1 } }
  else s

/-- A transaction at a write-phase opening (R247). -/
def stepTxn (s : State) (t : Txn) : State :=
  if t.first = s.tim.mon then s
  else if !txnReady t s && !t.abort then s
  else if t.phase = 1 then decideTxn t s
  else if !txnReady t s then s
  else if t.phase = 2 then endCommit t s else endAbort t s

/-- A command without an answer is repeated in later write phases until PLANT_ACK_MS has passed (R246). -/
def repeatCmd (s : State) (c : UnitCmd) : State :=
  if c.ended || decide (c.first = s.tim.mon) || decide (c.first + ackNs s ≤ s.tim.mon) then s else publishCmd c s

/-- The latch of a write-phase opening (R244, R253): an accepted plan comes into force, and every unit is examined. -/
def dispLatch (s : State) : State :=
  match s.disp.waiting with
  | none => s
  | some (p, c) =>
    let s := match s.disp.acting with | some a => emitCycle a true s | none => s
    { s with disp := { s.disp with waiting := none, acting := some c, plan := some p, step := stepNow p s, fallback := false,
                                   toSend := (modelUnits s).map (·.mid) } }

/-- The commands of a write phase (R245 to R247, R397). -/
def dispCommands (s : State) : State :=
  if !sendsCommands s then s
  else
    let s := s.disp.txns.foldl stepTxn s
    let s := s.disp.cmds.foldl repeatCmd s
    settleCycle (s.disp.toSend.foldl sendUnit s)

/-! ## Acknowledgements -/

/-- A command's answer is entered (R245). -/
def answerCmd (mid seq : Nat) (code : Option Nat) (s : State) : State :=
  let f := fun (c : UnitCmd) => if c.mid == mid && c.seq == seq && !c.ended then { c with code := code, ended := true } else c
  { s with disp := { s.disp with cmds := s.disp.cmds.map f, accCmds := s.disp.accCmds.map f } }

/-- A SET whose outcome is known leaves the outstanding commands (R246). -/
def endSet (c : UnitCmd) (code : Option Nat) (s : State) : State :=
  let s := { s with disp := { s.disp with cmds := s.disp.cmds.filter (fun x => !(x.mid == c.mid && x.seq == c.seq)) } }
  if code = some 0 then noteSet c.mid c.vals s else noteRefused c.mid s

/-- The outcome of a unit's command (R245, R246): its CODE, or none where PLANT_ACK_MS has passed. -/
def resolveCmd (mid : Nat) (seq : Option Nat) (code : Option Nat) (s : State) : State :=
  match s.disp.cmds.find? (fun c => c.mid == mid && !c.ended && (seq == none || seq == some c.seq)) with
  | none => s
  | some c =>
    let s := answerCmd mid c.seq code s
    settleCycle (if c.kind = 1 then endSet c code s else s)

/-- PLANT_ACK (R245, R373): the acknowledgement publishes the channel's input area and resolves the unit's command. -/
def plantAck (u : Nat) (ws : List Word) (s : State) : State :=
  let s := publishArea (plantIn u) s.tim.mon ((List.range 4).map (fun i => ws.getD i 0)) s
  let w1 := ws.getD 1 0
  let seq := (ws.getD 0 0).toNat + fld w1 15 0 * 2 ^ 32
  match s.cfg.unitChan.find? (fun e => e.2 == u) with
  | some e => resolveCmd e.1 (some seq) (some (fld w1 23 16)) s
  | none => s

def execPlantAck (u : Nat) (ws : List Word) (s : State) := run (plantAck u ws) s

/-- PLANT_ACK_TIMEOUT (R246, R247): PLANT_ACK_MS has passed since a command of the unit was first sent. -/
def plantAckTimeout (mid : Nat) (s : State) : State :=
  match s.disp.cmds.find? (fun c => c.mid == mid && !c.ended && decide (c.first + ackNs s ≤ s.tim.mon)) with
  | none => s
  | some c => settleCycle (resolveCmd mid (some c.seq) none s)

def execPlantAckTimeout (mid : Nat) (s : State) := run (plantAckTimeout mid) s

/-- The readings of the quarter-hour that ended join a station's history (R231). -/
def endQuarter (t : Nat) (s : State) (d : StationDecl) : State :=
  let x := stnDisp d.ident s
  let p : HistPt := { day := x.days, dayType := Config.dayType ((t - 900) / 86400), quarter := (t - 900) % 86400 / 900,
                      w := x.qSum / (x.qN : Int), temp := (pointValue s.cfg.outdoor s).1 }
  putStnDisp d.ident { x with qSum := 0, qN := 0, today := if x.qN = 0 then x.today else x.today ++ [p] } s

/-- The plan moves to the step of the present quarter-hour and its set-points are sent (R244). -/
def stepPlan (s : State) : State :=
  match s.disp.plan with
  | some p => if s.disp.fallback || s.disp.step == stepNow p s then s
    else { s with disp := { s.disp with step := stepNow p s, toSend := (modelUnits s).map (·.mid) } }
  | none => s

/-- QUARTER_HOUR_STEP (R231, R244): at a quarter-hour boundary the readings close, the forecasts move on, and the plan moves to its next step. -/
def quarterStep (s : State) : State :=
  let q := qTime s / quarterNs
  let s := if q = s.disp.quarter then s
    else refreshDemand ((modelStns s).foldl (endQuarter (qTime s / sec)) { s with disp := { s.disp with quarter := q } })
  stepPlan s

def execQuarterHourStep (s : State) := run quarterStep s

/-- PLAN_AGE_EXPIRY (R24, R244, R253): fallback begins once the plan in force is 60 min old. -/
def planExpiry (s : State) : State :=
  if s.disp.plan.isNone || s.disp.fallback || decide (planAge s < 3600 * sec) then s
  else { s with disp := { s.disp with fallback := true, toSend := (modelUnits s).map (·.mid) } }

def execPlanAgeExpiry (s : State) := run planExpiry s

/-- A module takes control (R249): each transaction that it has seen prepared and not committed is aborted in the next write phase. -/
def dispTakeControl (s : State) : State :=
  { s with disp := { s.disp with txns := s.disp.txns.map (fun t => if t.phase = 1 then { t with abort := true } else t) } }

/-! ## Station budgets -/

/-- The budget that a station is to have now (R250, R253). -/
def wantBudget (d : StationDecl) (s : State) : Int :=
  let fb := ((stnCfg d.ident s).fallbackW).getD (d.contractedW : Int)
  if s.disp.fallback then fb
  else match s.disp.plan with | some p => (planVar p.vars (stnMid d.ident) 0xC s.disp.step).getD fb | none => fb

/-- A station's BUDGET values at a write-phase opening (R250, R251, R350): a cut below use starts the envelope and makes the station OVER;
a budget at or above the last accepted draw ends OVER. -/
def latchBudget (s : State) (d : StationDecl) : State :=
  let x := stnDisp d.ident s
  let b := wantBudget d s
  let allow : Int := (((stnCfg d.ident s).allowW).getD d.exportW : Nat)
  match x.budget with
  | some v =>
    if v.getD 0 0 = b then s
    else
      match x.lastUse with
      | some u =>
        if b < u then
          let r := max (b * (param 8 s : Int) / 100) ((d.contractedW / 100 : Nat) : Int)
          putStnDisp d.ident { x with budget := some [b, allow, r, u], isOver := true, envAt := s.tim.mon, envFrom := u, ramp := r, under := 0,
                                      exceed := 0 } s
        else putStnDisp d.ident { x with budget := some [b, allow, 0, 0], isOver := false } s
      | none => putStnDisp d.ident { x with budget := some [b, allow, 0, 0] } s
  | none =>
    match x.lastUse with
    | some u =>
      if b < u then
        let r := max (b * (param 8 s : Int) / 100) ((d.contractedW / 100 : Nat) : Int)
        putStnDisp d.ident { x with budget := some [b, allow, r, u], isOver := true, envAt := s.tim.mon, envFrom := u, ramp := r, under := 0,
                                    exceed := 0 } s
      else putStnDisp d.ident { x with budget := some [b, allow, 0, 0], isOver := false } s
    | none => putStnDisp d.ident { x with budget := some [b, allow, 0, 0] } s

/-- The budgets of a write phase. -/
def latchBudgets (s : State) : State := (modelStns s).foldl latchBudget s

/-- The BUDGET values V0 to V3 of a station in force (R350). -/
def budgetOf (id : Nat) (s : State) : List Int := (stnDisp id s).budget.getD [0, 0, 0, 0]

/-- The envelope of a station at this moment in W (R251). -/
def envelope (x : StnDisp) (mon : Nat) : Int :=
  let b := (x.budget.getD [0]).getD 0 0
  max b (x.envFrom - x.ramp * ((mon - x.envAt : Nat) : Int) / 60000000000)

/-- An accepted reading of a station (R78, R231, R251, R252): two at or below the budget end OVER; three above the envelope by more than 1 %
of the contracted maximum flag it NONCOMPLIANT. -/
def stnReading (s : State) (d : StationDecl) : State :=
  match (stn d.ident s).round.reply with
  | none => s
  | some p =>
    let x := stnDisp d.ident s
    let x := { x with lastUse := some p.draw, qSum := x.qSum + p.draw, qN := x.qN + 1, dayN := x.dayN + 1 }
    if !x.isOver then putStnDisp d.ident x s
    else
      let b := (x.budget.getD [0]).getD 0 0
      let u := if p.draw ≤ b then x.under + 1 else 0
      let e := if (d.contractedW : Int) < (p.draw - envelope x s.tim.mon) * 100 then x.exceed + 1 else 0
      let s := putStnDisp d.ident { x with under := u, exceed := e, isOver := decide (u < 2) } s
      if e = 3 then dispEvent d.ident s else s

/-- The readings of a round, after the tally has integrated them (R252). -/
def dispReadings (s : State) : State := (modelStns s).foldl stnReading s

/-! ## Confidence -/

/-- A station's LEG day ends (R78): it counts with 20 h of accepted readings, one each second, and LEG valid throughout. -/
def endDay (ok : Bool) (s : State) (d : StationDecl) : State :=
  let x := stnDisp d.ident s
  if ok && decide (72000 ≤ x.dayN) then
    let n := x.days + 1
    let hist := x.hist.filter (fun p => decide (n < p.day + 28)) ++ x.today.map (fun p => { p with day := n })
    putStnDisp d.ident { x with days := n, hist := hist, today := [], dayN := 0 } s
  else putStnDisp d.ident { x with today := [], dayN := 0 } s

/-- The peak demand of a prior profile (R78). -/
def priorPeak (d : StationDecl) : Nat := (d.priorW.map Int.toNat).foldl max 0

/-- The district confidence in millionths of a per cent (R78). -/
def districtOf (s : State) : Nat :=
  let peaks := ((modelStns s).map priorPeak).foldl (· + ·) 0
  let sum := ((modelStns s).map (fun d => priorPeak d * min 28 (stnDisp d.ident s).days)).foldl (· + ·) 0
  if peaks = 0 then 0 else sum * 100000000 / (28 * peaks)

/-- The confidence record (R234). -/
def confRecord (s : State) : Bytes :=
  le 4 (legSec s / 86400) ++ le 1 (districtPct s) ++ le 1 (b2n s.disp.conserve) ++ le 2 (modelStns s).length ++ zeros 8 ++
    (stnIds s).flatMap (fun id =>
      let d := (stnDisp id s).days
      le 2 id ++ le 1 (100 * min 28 d / 28) ++ le 1 (min d 0xFF))

/-- LEG_MIDNIGHT (R78, R234): a LEG day has ended. -/
def legMidnight (s : State) : State :=
  let day := legSec s / 86400
  if !s.tim.legValid || day == s.disp.day then s
  else
    let s := (modelStns s).foldl (endDay s.disp.dayLegOk) { s with disp := { s.disp with day := day } }
    let s := { s with disp := { s.disp with district := districtOf s, dayLegOk := s.tim.legValid } }
    deliver 55 (confRecord s) s

def execLegMidnight (s : State) := run legMidnight s

/-! ## Operations -/

/-- SET_PARAM applied (R258). -/
def applyParam (id v : Nat) (s : State) : State := { s with disp := { s.disp with params := tput s.disp.params id v } }

/-- SET_PARAM (R258, R259). -/
def setParam (r : Req) (id v : Nat) (s : State) : State :=
  if refusesPairOp s then finish r 0x81 0 s
  else
    match dispParams.find? (fun p => p.1 == id) with
    | none => finish r 0x16 0 s
    | some p =>
      if !within v p.2.1 p.2.2.1 then finish r 0x16 4 s
      else if (id = 1 ∧ v ≤ paramSet 2 s) ∨ (id = 2 ∧ paramSet 1 s ≤ v) then finish r 0x19 1 s
      else viaPeer r (.setParam id v) 8 (applyParam id v) s

def execSetParam (r : Req) (s : State) := run (inlineOp r 0x0E10 8 (fun b => setParam r (leAt b 0 2) (leAt b 4 4))) s

/-- PRICE_PUSH applied (R233): earlier series of the kind end at START. -/
def applyPrice (start kind : Nat) (prices : List Int) (s : State) : State :=
  let cut := (tgetD s.disp.prices kind []).map (fun (x : Nat × List Int) => (x.1, x.2.take ((start - x.1) / 900)))
  { s with disp := { s.disp with prices := tput s.disp.prices kind ((start, prices) :: cut.filter (fun x => !x.2.isEmpty)) } }

/-- A series of COUNT rows in a buffer (R258): START is a multiple of 900, and LENGTH is that of its rows (log entry 79). -/
def pushOp (r : Req) (op row : Nat) (buf : Bytes) (go : Bytes → Nat → Nat → State → State) (s : State) : State :=
  withOp r [op] (some buf) (fun d b s =>
    let n := leAt b 12 4
    if refusesPairOp s then finish r 0x81 0 s
    else if descInl d || decide (d.length < 16) then finish r 0x12 0 s
    else if leAt b 0 8 % 900 ≠ 0 then finish r 0x16 0x00 s
    else if !within n 1 192 then finish r 0x16 0x0C s
    else if d.length ≠ 16 + row * n then finish r 0x12 0 s
    else go b (leAt b 0 8) n s) s

/-- PRICE_PUSH (R233, R258). -/
def pricePush (r : Req) (b : Bytes) (start n : Nat) (s : State) : State :=
  let kind := leAt b 8 1
  let prices := (List.range n).map (fun i => leSAt b (16 + 4 * i) 4)
  if !within kind 1 4 then finish r 0x16 0x08 s else viaPeer r (.pricePush start kind prices) (16 + 4 * n) (applyPrice start kind prices) s

def execPricePush (r : Req) (buf : Bytes) (s : State) := run (pushOp r 0x0E11 4 buf (pricePush r)) s

/-- WEATHER_PUSH applied (R232). -/
def applyWeather (start : Nat) (rows : List (Int × Nat)) (s : State) : State :=
  { s with disp := { s.disp with weather := ((start, rows) :: s.disp.weather).take 16 } }

/-- WEATHER_PUSH (R232, R258). -/
def weatherPush (r : Req) (b : Bytes) (start n : Nat) (s : State) : State :=
  let rows := (List.range n).map (fun i => (leSAt b (16 + 8 * i) 4, leAt b (20 + 8 * i) 4))
  viaPeer r (.weatherPush start rows) (16 + 8 * n) (applyWeather start rows) s

def execWeatherPush (r : Req) (buf : Bytes) (s : State) := run (pushOp r 0x0E12 8 buf (weatherPush r)) s

/-- FORCE_CYCLE applied (R258). -/
def applyForce (s : State) : State := { s with disp := { s.disp with force := true } }

/-- FORCE_CYCLE (R258). -/
def forceCycle (r : Req) (p : Nat) (s : State) : State :=
  if refusesPairOp s then finish r 0x81 0 s else if p ≠ 0 then finish r 0x16 0 s else viaPeer r .forceCycle 4 applyForce s

def execForceCycle (r : Req) (s : State) := run (inlineOp r 0x0E13 4 (fun b => forceCycle r (leAt b 0 4))) s

/-- UNIT_MODE applied (R241). -/
def applyUnitMode (mid mode : Nat) (s : State) : State := { s with disp := { s.disp with hostMode := tput s.disp.hostMode mid mode } }

/-- UNIT_MODE (R241, R258). -/
def unitModeOp (r : Req) (mid mode : Nat) (s : State) : State :=
  if refusesPairOp s then finish r 0x81 0 s
  else if (unitDecl mid s).isNone then finish r 0x16 0 s
  else if 2 < mode then finish r 0x16 4 s
  else viaPeer r (.unitMode mid mode) 8 (applyUnitMode mid mode) s

def execUnitMode (r : Req) (s : State) := run (inlineOp r 0x0E14 8 (fun b => unitModeOp r (leAt b 0 4) (leAt b 4 1))) s

/-! ## Restarts -/

/-- Dispatch after a restart (R77, R227, R253, R258): parameters stay; a warm restart keeps the plan while it is younger than 60 min, the
history and the confidence; a cold one begins in conservative mode with nothing but its fallback set-points. A power-on reset has
moved τ0 of the plan onto its own MON. -/
def restartDisp (warm : Bool) (s : State) : State :=
  let d := s.disp
  let base : DispSt := { params := d.params, act := d.params, interval := tgetD d.params 1 (paramDefault 1 s) }
  let plan := match (if warm then d.plan else none) with | some p => if planAge s < 3600 * sec then some p else none | none => none
  let s := if warm then
      { s with disp := { base with prices := d.prices, weather := d.weather, hostMode := d.hostMode, stns := d.stns, district := d.district,
                                   conserve := d.conserve, plan := plan, fallback := plan.isNone } }
    else { s with disp := { base with hostMode := d.hostMode } }
  refreshDemand { s with disp := { s.disp with step := match plan with | some p => stepNow p s | none => 0, quarter := qTime s / quarterNs } }

end Sys2Proof.Machine
end

