-- ==== Sys2Proof/Machine/TlyBase.lean ====
section
/-!
DEFINITION. The tally's sources, intervals, records and spans (R297, R303, R305, R308 to R316).
-/
namespace Sys2Proof.Machine

/-! ## Units (log entry 7) -/

/-- Volume units in 1 mL: 9 × 2^16 to the µL, so that pulses and currents leave no remainder (R299). -/
def vuMl : Nat := 589824000

/-- Heat energy units in 1 J. -/
def euJoule : Nat := 589824 * 10 ^ 12

/-- Heat energy units in 1/1024 Wh. -/
def euBill : Nat := 589824 * 3515625000000

/-- Primary electrical energy units in 1/1024 Wh: products of calibrated samples, unscaled (R287, R293). -/
def fuBill : Nat := 56250000 * 2 ^ 122

/-- Energy units in 1/1024 Wh for a kind of source. -/
def unitOf (kind : Nat) : Nat := if kind = 2 then fuBill else euBill

/-! ## Sources -/

/-- The key of a source: kind 1 station, 2 feeder, 3 local heat meter. -/
def skey (kind id : Nat) : Nat := kind * 2 ^ 32 + id
/-- The kind of a source. -/
def skind (k : Nat) : Nat := k / 2 ^ 32
/-- The number of a source. -/
def sid (k : Nat) : Nat := k % 2 ^ 32

/-- A source of the tally. -/
def tsrc (k : Nat) (s : State) : Option TlySrc := tget s.tly.srcs k

/-- The state with a source replaced. -/
def putSrc (k : Nat) (x : TlySrc) (s : State) : State := { s with tly := { s.tly with srcs := tput s.tly.srcs k x } }

/-- The state with every source changed. -/
def mapSrcs (f : Nat → TlySrc → TlySrc) (s : State) : State :=
  { s with tly := { s.tly with srcs := s.tly.srcs.map (fun e => (e.1, f e.1 e.2)) } }

/-- TLY_FDRCFG of a feeder (R322). -/
def fdrCfg (f : Nat) : Nat := 0x24100 + 0x40 * f
/-- TLY_FDRSTAT of a feeder (R323). -/
def fdrStat (f : Nat) : Nat := 0x24110 + 0x40 * f
/-- TLY_LHCFG of a local heat meter (R324). -/
def lhCfg (m : Nat) : Nat := 0x24400 + 0x20 * m

/-- Whether a source is to be metered (R322, R324): EN of a feeder or meter; a station of the model. -/
def srcEnabled (k : Nat) (s : State) : Bool :=
  if skind k = 2 then getB (fdrCfg (sid k)) 8 s else if skind k = 3 then getB (lhCfg (sid k)) 31 s else (stnDecl (sid k) s).isSome

/-- Whether a source is a full station (R302). -/
def srcFull (k : Nat) (s : State) : Bool :=
  skind k == 1 && (match stnDecl (sid k) s with | some d => d.full | none => false)

/-! ## Intervals -/

/-- The length of an interval in ns (R312). -/
def billNs (s : State) : Nat := if s.tly.billInt then 3600000000000 else 900000000000

/-- The END of an interval that nothing cuts short (R312). -/
def ivalEnd (v : Ival) (s : State) : Nat := if v.onMon then v.start + billNs s else (v.start / billNs s + 1) * billNs s

/-- A new interval of a source. -/
def newIval (k start : Nat) (s : State) : Ival :=
  { start := start, onMon := onMon s, full := srcFull k s, calAt := s.tly.calCount, legBad := !s.tim.legValid && !onMon s,
    short := !onMon s && start % billNs s != 0 }

/-- The running interval of a source. -/
def running (x : TlySrc) : Option Ival := match x.ivals.getLast? with | some v => if v.stop.isNone then some v else none | none => none

/-- The running interval changed. -/
def onRunning (f : Ival → Ival) (x : TlySrc) : TlySrc :=
  { x with ivals := x.ivals.map (fun v => if v.stop.isNone then f v else v) }

/-- The interval ends at each boundary that has passed, and the next begins there if the source is to be metered. -/
def rollSrc (k : Nat) (s : State) : Nat → TlySrc → TlySrc
  | 0, x => x
  | n + 1, x =>
    match running x with
    | none => x
    | some v =>
      let e := ivalEnd v s
      if v.onMon != onMon s || decide (qTime s < e) then x
      else
        let y := onRunning (fun v => { v with stop := some e }) x
        if srcEnabled k s then rollSrc k s n { y with on := true, ivals := y.ivals ++ [newIval k e s] } else { y with on := false }

/-- How many boundaries may have passed since an interval began. -/
def rollFuel (x : TlySrc) (s : State) : Nat :=
  match running x with | some v => (qTime s - v.start) / billNs s + 1 | none => 0

/-- The running interval ends now and is SHORT; the next begins now (R312). -/
def cutIval (k stop start : Nat) (s : State) (x : TlySrc) : TlySrc :=
  match running x with
  | none => x
  | some _ =>
    let y := onRunning (fun v => { v with stop := some stop, short := true }) x
    if srcEnabled k s then { y with on := true, ivals := y.ivals ++ [newIval k start s] } else { y with on := false }

/-- LEG becomes valid (R312): an interval timed on MON, or marked LEG_INVALID, ends at that instant. -/
def legGained (k : Nat) (s : State) (x : TlySrc) : TlySrc :=
  match running x with
  | some v => if v.onMon then cutIval k s.tim.mon (legNs s) s x else if v.legBad then cutIval k (legNs s) (legNs s) s x else x
  | none => x

/-- A source that begins to be metered at a boundary (R322, R324). -/
def startSrc (k t : Nat) (s : State) : State :=
  match tsrc k s with
  | some x => if (running x).isSome || !srcEnabled k s then s else putSrc k { x with on := true, ivals := x.ivals ++ [newIval k t s] } s
  | none => if srcEnabled k s then putSrc k { ivals := [newIval k t s] } s else s

/-- The keys of the feeders and the local heat meters. -/
def localKeys : List Nat := (List.range 4).map (skey 2) ++ (List.range 8).map (skey 3)

/-- The intervals of every source up to this instant (R312). -/
def tlyRoll (s : State) : State :=
  let s := if s.tim.legValid && !s.tly.wasValid then mapSrcs (fun k x => legGained k s x) s else s
  let s := if !s.tim.legValid && s.tly.wasValid then mapSrcs (fun _ x => onRunning (fun v => { v with legBad := !v.onMon }) x) s else s
  let s := mapSrcs (fun k x => rollSrc k s (rollFuel x s) x) s
  let now := qTime s
  let edge := now / billNs s != s.tly.lastRoll / billNs s
  let s := if edge then localKeys.foldl (fun s k => startSrc k (now / billNs s * billNs s) s) s else s
  let hour := now / 3600000000000 != s.tly.lastRoll / 3600000000000 && !onMon s
  { s with tly := { s.tly with lastRoll := now, wasValid := s.tim.legValid,
                               billInt := if hour then getB 0x24004 1 s else s.tly.billInt } }

/-- Sums added to a source's running interval. -/
def addRunning (k : Nat) (f : Ival → Ival) (s : State) : State :=
  match tsrc k s with | some x => putSrc k (onRunning f x) s | none => s

/-! ## Sums -/

/-- Sums added term by term. -/
def addSums (a b : Sums) : Sums :=
  { imp := a.imp + b.imp, exp := a.exp + b.exp, excess := a.excess + b.excess, q := List.zipWith (· + ·) a.q b.q, vFwd := a.vFwd + b.vFwd,
    vRev := a.vRev + b.vRev, vErr := a.vErr + b.vErr, tErr := a.tErr + b.tErr, revs := a.revs + b.revs, samples := a.samples + b.samples }

/-- What an interval adds to the totals (R302, R304): a full station's import is that of its registers less E_OVER. -/
def billed (v : Ival) : Sums :=
  if v.full then { v.sums with imp := v.regImp * euBill - v.sums.excess, exp := v.regExp * euBill } else v.sums

/-- An interval that the store cannot take joins the next one (R316). -/
def joinIval (v w : Ival) : Ival :=
  { w with start := v.start, sums := addSums v.sums w.sums, regImp := v.regImp + w.regImp, regExp := v.regExp + w.regExp, merged := true,
           short := v.short || w.short, legBad := v.legBad || w.legBad, gap := v.gap || w.gap, isOver := v.isOver || w.isOver,
           missing := v.missing + w.missing, unsavedNs := v.unsavedNs + w.unsavedNs, outageNs := v.outageNs + w.outageNs,
           pq := v.pq ||| w.pq, calAt := v.calAt,
           umin := (match v.umin, w.umin with | some a, some b => some (min a b) | some a, none => some a | none, b => b),
           umax := (match v.umax, w.umax with | some a, some b => some (max a b) | some a, none => some a | none, b => b) }

/-! ## Records -/

/-- No free slot (R316). -/
def storeFull (s : State) : Bool := decide (storeSize ≤ s.tly.store.length)

/-- A time in a record (R309): LEG seconds, or MON ns with TIME_MON. -/
def recTime (onMon : Bool) (ns : Nat) : Nat := if onMon then ns else ns / 1000000000

/-- The 40-byte header of a record (R309), as an unsigned record carries it. -/
def recHeader (rtype flags source seq start stop cal status : Nat) : Bytes :=
  le 1 rtype ++ le 1 1 ++ le 2 flags ++ le 4 source ++ le 8 seq ++ le 8 start ++ le 8 stop ++ le 4 cal ++ le 1 0xFF ++ le 1 status ++ zeros 2

/-- Whether the peer is there to acknowledge records (R409). -/
def peerHere (s : State) : Bool := duplex s && s.dup.linkUp && s.dup.peer.isSome

/-- A record goes into the store (R313 to R315): signed by the holder of the role, held by an unkeyed one, a CHECK copy otherwise; a signed
record is sent to the peer and waits for it (R409). -/
def addRec (stream rtype source seq status : Nat) (b : Bytes) (s : State) : State :=
  let signs := s.dup.mor && keyed s
  let held := s.dup.mor && !keyed s
  let bytes := if signs then signBytes b s else if held then b ++ zeros 64 else checkBytes b
  let r : Rec := { store := s.tly.nextStore, rtype := rtype, source := source, recSeq := seq, status := status, stream := stream, bytes := bytes,
                   check := !s.dup.mor, held := held, waiting := signs && peerHere s, queued := false, acked := false }
  let s := pmcAdd 0x45 1 { s with tly := { s.tly with store := s.tly.store ++ [r], nextStore := s.tly.nextStore + 1 } }
  let s := emit (.stored rtype bytes) s
  let s := if signs then pmcAdd 0x46 1 (if r.waiting then sendPeer (.record bytes) s else s) else s
  pumpStream stream s

/-- The records held are signed in store order (R314). -/
def signHeld (s : State) : State :=
  if !keyed s || !s.dup.mor then s
  else
    let held := s.tly.store.filter (fun r => r.held)
    let f := fun (r : Rec) => if r.held then { r with held := false, waiting := peerHere s, bytes := signBytes r.bytes s } else r
    let s1 := { s with tly := { s.tly with store := s.tly.store.map f } }
    let s2 := held.foldl (fun t r => pmcAdd 0x46 1 (if peerHere s then sendPeer (.record (signBytes r.bytes s)) t else t)) s1
    pumpStreams s2

/-- A CHECK copy that this module now signs (R410): the signed record takes a new slot, and the copy's slot is freed. -/
def signCopy (s : State) (r : Rec) : State :=
  let s := { s with tly := { s.tly with store := s.tly.store.filter (fun x => x.store != r.store) } }
  addRec r.stream r.rtype r.source r.recSeq r.status (((r.bytes.take 128).set 2 ((r.bytes.getD 2 0) &&& 0xFE))) s

/-- The records that a module signs when it takes the role from a holder that has resigned or failed (R410). -/
def signNoted (s : State) : State :=
  (s.tly.store.filter (fun r => r.check && r.rtype != 4 && decide (notedSeq r.rtype r.source s < r.recSeq))).foldl signCopy s

/-- The module takes the meter-of-record role (R408, R410). -/
def takeMor (s : State) : State := if s.dup.mor then s else signNoted (setMor true s)

/-! ## Spans -/

/-- SOURCE of a record (R309): a station's model identifier, a feeder or a local meter by number. -/
def recSource (kind id : Nat) : Nat := if kind = 1 then stnMid id else id

/-- A span's record (R311): 128 bytes. -/
def spanBytes (p : Span) (seq cal : Nat) : Bytes :=
  let fl := 16 * b2n p.merged + 256 * b2n p.timeMon
  recHeader 4 fl (recSource p.srcType p.source) seq (recTime p.timeMon p.start) (recTime p.timeMon p.stop) cal 0 ++
    le 1 p.kind ++ le 1 p.srcType ++ le 2 p.sflags ++ zeros 4 ++ le 8 p.vFwd ++ le 8 p.vRev ++ le 8 p.eImp ++ le 8 p.eExp ++
    (match p.dt0 with | some d => leS 4 d | none => le 4 0x80000000) ++ (match p.dt1 with | some d => leS 4 d | none => le 4 0x80000000) ++
    zeros 40

/-- Two spans of a source and kind that the store cannot take (R316). -/
def joinSpan (p q : Span) : Span :=
  { p with start := min p.start q.start, stop := max p.stop q.stop, vFwd := p.vFwd + q.vFwd, vRev := p.vRev + q.vRev,
           eImp := min (p.eImp + q.eImp) 0xFFFFFFFFFFFFFFFF, eExp := min (p.eExp + q.eExp) 0xFFFFFFFFFFFFFFFF,
           sflags := p.sflags ||| q.sflags, dt1 := q.dt1, merged := true }

/-- A span takes its record (R307, R311). -/
def recordSpan (p : Span) (s : State) : State :=
  let k := skey p.srcType p.source
  let x := (tsrc k s).getD { on := false }
  let cal := if p.srcType = 1 then (match x.last with | some m => m.epoch | none => 0) else s.tly.calCount
  let s := putSrc k { x with spanSeq := x.spanSeq + 1 } s
  addRec 13 4 p.source (x.spanSeq + 1) 0 (spanBytes p (x.spanSeq + 1) cal) (incReg 0x24038 1 s)

/-- A span is recorded, or waits merged while the store is full (R316). -/
def addSpan (p : Span) (s : State) : State :=
  if storeFull s then
    let same := fun (q : Span) => q.srcType == p.srcType && q.source == p.source && q.kind == p.kind && q.timeMon == p.timeMon
    let l := if s.tly.spans.any same then s.tly.spans.map (fun q => if same q then joinSpan q p else q) else s.tly.spans ++ [p]
    { s with tly := { s.tly with spans := l } }
  else recordSpan p s

/-- The bound of a volume in mL over a temperature span in mK (R308), in 1/1024 Wh rounded up. -/
def volBound (ml spanMk : Nat) : Nat := (ml * 1170 * 1024 * spanMk + 999999999) / 1000000000

/-- The bound of a flow maximum in L/h over a time in ns (R308). -/
def flowBound (qmax ns spanMk : Nat) : Nat := (qmax * ns * 1170 * 1024 * spanMk + 3599999999999999999) / 3600000000000000000

/-- In of a feeder's current input in A (R286, R322). -/
def inAmp (f j : Nat) (s : State) : Nat := if getB (fdrCfg f) j s then 5 else 1

/-- The bound of a feeder over a time in ns (R308). -/
def feederBound (f ns : Nat) (s : State) : Nat :=
  let amps := inAmp f 0 s + inAmp f 1 s + inAmp f 2 s
  let num := (getReg (fdrCfg f + 0xC) s).toNat * 2 * amps * (getReg (fdrCfg f + 4) s).toNat * ns * 1024
  (num + 9215999999999999) / 9216000000000000

/-- The bound of a feeder or a local heat meter over a time in ns (R308). -/
def localBound (k ns : Nat) (s : State) : Nat :=
  if skind k = 2 then feederBound (sid k) ns s else flowBound (getReg (lhCfg (sid k) + 8) s).toNat ns 250000

/-! ## A station's bounds -/

/-- The declared flow maximum of a station's branch in L/h (R121, R298). -/
def stnQmax (id : Nat) (s : State) : Nat :=
  match s.model.active with
  | some m =>
    match m.branches.find? (fun b => b.kind == .station && b.owner == stnMid id) with
    | some b => max b.qLo.natAbs b.qHi.natAbs
    | none => 0
  | none => 0

/-- The network of a station. -/
def stnNet (id : Nat) (s : State) : Option NetDecl :=
  match s.model.active, stnDecl id s with | some m, some d => m.networks[d.net]? | _, _ => none

/-- The span of the declared temperature range of a station's network in mK (R308). -/
def stnSpanMk (id : Nat) (s : State) : Nat := match stnNet id s with | some n => (n.tHi - n.tLo).toNat | none => 0

/-! ## Missing samples -/

/-- The period of a sample in ns. -/
def periodNs (sps : Nat) : Nat := 1000000000 / max 1 sps

/-- The instant at which a sample of a piece ends (R300). -/
def Piece.pos (p : Piece) (n : Nat) : Nat := p.refT + n * periodNs p.sps - p.refN * periodNs p.sps

/-- The last sample number of a piece that ends at or before an instant. -/
def Piece.upTo (p : Piece) (t : Nat) : Nat := (t + p.refN * periodNs p.sps - p.refT) / periodNs p.sps

/-- The part of a piece whose samples end after a and at or before b. -/
def Piece.clip (p : Piece) (a b : Nat) : Piece := { p with lo := max p.lo (p.upTo a + 1), hi := min p.hi (p.upTo b) }

/-- How many samples of a piece lack. -/
def Piece.count (p : Piece) : Nat := p.hi + 1 - p.lo

/-- A piece without one sample. -/
def Piece.take (n : Nat) (p : Piece) : List Piece :=
  if n < p.lo ∨ p.hi < n then [p] else [{ p with hi := n - 1 }, { p with lo := n + 1 }].filter (fun q => decide (q.lo ≤ q.hi))

/-- The pieces of a gap that lie in an interval. -/
def Gap.within (g : Gap) (v : Ival) : List Piece :=
  if g.after.onMon != v.onMon then []
  else (g.pieces.map (fun p => p.clip v.start (v.stop.getD p.refT))).filter (fun q => decide (q.lo ≤ q.hi))

/-- Counters and registers continuous across a gap (R303). -/
def Gap.continuous (g : Gap) (full : Bool) : Bool :=
  match g.before with
  | none => false
  | some b => b.cgen == g.after.cgen &&
      (if full then decide (b.eImp ≤ g.after.eImp ∧ b.eExp ≤ g.after.eExp) else decide (b.vFwd ≤ g.after.vFwd ∧ b.vRev ≤ g.after.vRev))

/-- Whether an interval of a station may close (R303): its END is known and covered, and nothing lacks; or HOLD_MIN has passed. -/
def stnDone (x : TlySrc) (v : Ival) : Bool :=
  match v.stop with
  | none => false
  | some e =>
    v.final || v.expired ||
      (match x.last with
       | none => false
       | some m => (m.onMon != v.onMon || decide (e ≤ m.t)) && x.gaps.all (fun g => (g.within v).isEmpty))

/-- The first of a list of instants and the last. -/
def spread (l : List Nat) : Nat × Nat := (l.foldl min (l.headD 0), l.foldl max 0)

/-- What a gap leaves in an interval that closes without it (R303): the interval marked, the span, and the rest of the gap. -/
def closeGap (id : Nat) (s : State) (v : Ival) (g : Gap) : Ival × Option Span × Option Gap :=
  let mine := g.within v
  if mine.isEmpty then (v, none, some g)
  else
    let rest := (g.pieces.map (fun p => { p with lo := max p.lo (p.upTo (v.stop.getD 0) + 1) })).filter (fun q => decide (q.lo ≤ q.hi))
    let v := { v with gap := true, missing := v.missing + (mine.map (·.count)).foldl (· + ·) 0 }
    let a := (spread (mine.map (fun p => p.pos p.lo - periodNs p.sps))).1
    let b := (spread (mine.map (fun p => p.pos p.hi))).2
    let known := !v.full && g.continuous false && !g.split && rest.isEmpty
    let vol := fun (x y rec_ : Nat) => x - y - rec_ / vuMl
    let fw := match g.before with | some m => vol g.after.vFwd m.vFwd g.fwd | none => 0
    let rv := match g.before with | some m => vol g.after.vRev m.vRev g.rev | none => 0
    let bnd := fun ml => if known then volBound ml (stnSpanMk id s) else flowBound (stnQmax id s) (b - a) (stnSpanMk id s)
    let sp : Span := { kind := 2, srcType := 1, source := id, sflags := b2n (!known), start := a, stop := b, timeMon := v.onMon,
                       vFwd := if known then fw else 0, vRev := if known then rv else 0, eImp := bnd fw, eExp := bnd rv,
                       dt0 := (match g.before with | some m => some m.dt | none => none), dt1 := some g.after.dt, merged := false }
    (v, if v.full && g.continuous true then none else some sp,
     if rest.isEmpty then none else some { g with pieces := rest, split := true })

/-- The samples a second of a station: those of its last report, or those that the configuration gives it. -/
def stnSps (id : Nat) (x : TlySrc) (s : State) : Nat :=
  match x.last with | some m => m.sps | none => (match tget s.cfg.stations id with | some c => c.sps | none => 1)

/-- The stretch of an interval up to its END that no report has covered (R303): its counters are not continuous. -/
def closeTail (id : Nat) (s : State) (x : TlySrc) (v : Ival) : Ival × Option Span :=
  let from_ := match x.last with | some m => if m.onMon = v.onMon then max m.t v.start else v.start | none => v.start
  match v.stop with
  | some e =>
    if v.final || decide (e ≤ from_) || (match x.last with | some m => m.onMon != v.onMon | none => false) then (v, none)
    else
      let bnd := flowBound (stnQmax id s) (e - from_) (stnSpanMk id s)
      ({ v with gap := true, missing := v.missing + (e - from_) / periodNs (stnSps id x s) },
       some { kind := 2, srcType := 1, source := id, sflags := 1, start := from_, stop := e, timeMon := v.onMon, vFwd := 0, vRev := 0,
              eImp := bnd, eExp := bnd, dt0 := x.last.map (·.dt), dt1 := none, merged := false })
  | none => (v, none)

/-- What still lacks in a station's interval that closes (R303). -/
def closeGaps (k : Nat) (v : Ival) (x : TlySrc) (s : State) : Ival × TlySrc × State :=
  if skind k ≠ 1 then (v, x, s)
  else
    let r := x.gaps.foldl (fun (acc : Ival × List Gap × List Span) g =>
      let c := closeGap (sid k) s acc.1 g
      (c.1, acc.2.1 ++ c.2.2.toList, acc.2.2 ++ c.2.1.toList)) (v, [], [])
    let t := closeTail (sid k) s x r.1
    let s := pmcAdd 0x47 (t.1.missing - v.missing) s
    let x := { x with gaps := r.2.1 }
    (t.1, x, (r.2.2 ++ t.2.toList).foldl (fun s p => addSpan p s) (putSrc k x s))

/-! ## Closing an interval -/

/-- XCHK_DIFF in Wh (R302). -/
def xchkDiff (v : Ival) : Int := divNear (((v.sums.imp + v.sums.excess : Nat) : Int) - (v.regImp * euBill : Nat)) (euBill * 1024)

/-- Whether a full station's interval fails its cross-check (R302). -/
def xchkFails (v : Ival) (s : State) : Bool :=
  let d := (((v.sums.imp + v.sums.excess : Nat) : Int) - (v.regImp * euBill : Nat)).natAbs
  v.full && v.missing == 0 && decide (v.regImp * euBill * getF 0x24008 7 0 s < d * 1000) && decide (getF 0x24008 31 16 s * 1024 * euBill < d)

/-- The flags of an interval's record without CHECK (R309). -/
def ivalFlags (k : Nat) (v : Ival) (s : State) : Nat :=
  2 * b2n (v.unsavedNs != 0) + 4 * b2n v.gap + 8 * b2n (v.outageNs != 0) + 16 * b2n v.merged + 32 * b2n v.short + 64 * b2n v.final +
    128 * b2n v.legBad + 256 * b2n v.onMon + 512 * b2n (xchkFails v s) + 1024 * b2n (v.full && v.missing != 0) + 2048 * b2n (v.sums.tErr != 0) +
    4096 * b2n v.isOver + 8192 * b2n (skind k != 1 && v.calAt != s.tly.calCount)

/-- Milliseconds of unsaved span, and seconds of outage rounded up (R309). -/
def lossBytes (v : Ival) : Bytes := le 4 (v.unsavedNs / 1000000) ++ le 4 ((v.outageNs + 999999999) / 1000000000)

/-- The body of a station's or a local heat meter's record (R309): `t0` and `t1` are the totals before and after. -/
def heatBody (v : Ival) (t0 t1 : Sums) : Bytes :=
  let d := fun (f : Sums → Nat) (u : Nat) => f t1 / u - f t0 / u
  le 8 (d (·.imp) euBill) ++ le 8 (d (·.exp) euBill) ++ le 8 (d (·.excess) euBill) ++ le 8 (d (·.vFwd) vuMl) ++ le 8 (d (·.vRev) vuMl) ++
    le 8 (t1.imp / euBill) ++ le 8 (t1.exp / euBill) ++ le 8 (t1.excess / euBill) ++ le 4 (d (·.vErr) vuMl) ++
    le 2 ((v.sums.tErr + 999) / 1000) ++ le 2 v.sums.revs ++ le 2 v.sums.samples ++ le 2 v.missing ++
    leS 4 (if v.full && v.missing == 0 then clampI (-2147483648) 2147483647 (xchkDiff v) else 0) ++ lossBytes v

/-- The body of a feeder's record (R310). -/
def feederBody (v : Ival) (t0 t1 : Sums) : Bytes :=
  le 8 (t1.imp / fuBill - t0.imp / fuBill) ++ le 8 (t1.exp / fuBill - t0.exp / fuBill) ++
    (List.range 4).flatMap (fun i => le 8 (t1.q.getD i 0 / fuBill - t0.q.getD i 0 / fuBill)) ++
    le 8 (t1.imp / fuBill) ++ le 8 (t1.exp / fuBill) ++ le 2 v.pq ++ le 2 (min (v.umin.getD 0xFFFF) 0xFFFF) ++
    le 2 (min (v.umax.getD 0xFFFF) 0xFFFF) ++ zeros 2 ++ lossBytes v ++ zeros 8

/-- An interval takes its record inside the commit that closes it (R305, R309). -/
def recordIval (k : Nat) (v : Ival) (x : TlySrc) (s : State) : State :=
  let t1 := addSums x.totals (billed v)
  let fl := ivalFlags k v s
  let status := if v.unsavedNs ≠ 0 then 0x60 else if xchkFails v s then 0x61 else 0
  let cal := if skind k = 1 then (match x.last with | some m => m.epoch | none => 0) else s.tly.calCount
  let stop := v.stop.getD v.start
  let h := recHeader (skind k) fl (recSource (skind k) (sid k)) (x.recSeq + 1) (recTime v.onMon v.start) (recTime v.onMon stop) cal status
  let body := if skind k = 2 then feederBody v x.totals t1 else heatBody v x.totals t1
  let y := { x with totals := t1, recSeq := x.recSeq + 1, ivals := x.ivals.drop 1, endAt := stop }
  let s := putSrc k y s
  let s := if xchkFails v s then evt 12 0xB (argPair 0 (sid k)) (incReg 0x2403C 1 s) else s
  addRec (9 + skind k) (skind k) (sid k) (x.recSeq + 1) status (h ++ body) s

/-- The oldest interval of a source closes if it may (R303, R312); with the store full it joins the next one (R316). -/
def closeOldest (k : Nat) (s : State) : State :=
  match tsrc k s with
  | none => s
  | some x =>
    match x.ivals with
    | [] => s
    | v :: rest =>
      let ok := v.stop.isSome && (skind k != 1 || stnDone x v)
      if !ok then s
      else
        let c := closeGaps k v x s
        let x := (tsrc k c.2.2).getD c.2.1
        if storeFull c.2.2 then
          match rest with
          | w :: ws => if w.onMon = v.onMon then putSrc k { x with ivals := joinIval c.1 w :: ws } c.2.2 else c.2.2
          | [] => c.2.2
        else recordIval k c.1 x c.2.2

/-- Every interval of a source that may close does so, the oldest first. -/
def closeSrc (s : State) (k : Nat) : State :=
  let n := match tsrc k s with | some x => x.ivals.length | none => 0
  (List.range n).foldl (fun s _ => closeOldest k s) s

/-! ## The commit -/

/-- The spans that waited for the store (R316). -/
def flushSpans (s : State) : State :=
  if storeFull s then s
  else
    let l := s.tly.spans
    l.foldl (fun s p => addSpan p s) { s with tly := { s.tly with spans := [] } }

/-- The budgets that no open interval needs any more. -/
def pruneBud (x : TlySrc) : TlySrc :=
  match x.ivals with
  | v :: _ => { x with bud := x.bud.filter (fun b => decide (v.start ≤ b.1)) ++ (x.bud.filter (fun b => decide (b.1 < v.start))).take 1 }
  | [] => { x with bud := x.bud.take 1 }

/-- A commit writes the bank that does not hold the latest complete commit (R305, R306). -/
def writeBank (final : Bool) (s : State) : State :=
  let b : Bank := { seq := s.tly.seq + 1, leg := qTime s, onMon := onMon s, rtc := s.tim.rtc, final := final, srcs := s.tly.srcs }
  let t := s.tly
  let t := if t.latest = 0 then { t with bank1 := some b, latest := 1, seq := t.seq + 1 } else { t with bank0 := some b, latest := 0, seq := t.seq + 1 }
  let t := if final || t.markUsed then { t with marker := none, markUsed := false } else t
  let ran := getF 0x34020 31 30 s == 1 || getF 0x34020 31 30 s == 3
  pmcAdd 0x44 1 { s with tly := t, cyc := { s.cyc with wasRun := ran },
                         start := { s.start with commitProg := progSig s, commitModel := (modelSigs s).1 } }

/-- The intervals that may close, their records, and the commit (R305). -/
def commitNow (final : Bool) (s : State) : State :=
  let s := tlyRoll s
  let s := (s.tly.srcs.map (·.1)).foldl closeSrc s
  writeBank final (mapSrcs (fun _ x => pruneBud x) (purgeStore (flushSpans s)))

end Sys2Proof.Machine
end

