-- ==== Sys2Proof/Machine/Tly.lean ====
section
/-!
DEFINITION. The tally: feeders, local heat meters, stations, the commit, start-up and the operations of ring pairs 10 to 13 (R285 to
R325).
-/
namespace Sys2Proof.Machine

/-! ## Feeders -/

/-- The sample that a current channel takes, whether it is of range L, whether range L follows, and the L samples since one passed 1/4 of
the H full scale (R286). -/
def rangeStep (h l : Int) (isL : Bool) (quiet : Nat) : (Int × Bool) × Bool × Nat :=
  if isL then
    let q := if 4 * 4000 * l.natAbs > 175 * 2 ^ 23 then 0 else quiet + 1
    ((l, true), decide (q < 3200), q)
  else if 16 * h.natAbs > 15 * 2 ^ 23 then ((l, true), true, 0)
  else ((h, false), false, 0)

/-- A current channel's samples over a block, the range and the count that follow (R286). -/
def rangeRun : List (Int × Int) → Bool → Nat → List (Int × Bool) × Bool × Nat
  | [], isL, q => ([], isL, q)
  | (h, l) :: r, isL, q =>
    let x := rangeStep h l isL q
    let y := rangeRun r x.2.1 x.2.2
    (x.1 :: y.1, y.2.1, y.2.2)

/-- A TLY_CAL register of a channel (R293, R318), as a signed or an unsigned value. -/
def calReg (c off : Nat) : Nat := 0x25000 + 0x20 * c + off

/-- A calibrated voltage sample (R293), in 2^-53 of full scale. -/
def calV (c : Nat) (raw : Int) (s : State) : Int := ((getReg (calReg c 0) s).toNat : Int) * (raw - (getReg (calReg c 8) s).toInt)

/-- A calibrated current sample (R286, R293), in 2^-53 of In/1000. -/
def calI (c : Nat) (x : Int × Bool) (s : State) : Int :=
  let o := if x.2 then 4 else 0
  ((getReg (calReg c o) s).toNat : Int) * (x.1 - (getReg (calReg c (8 + o)) s).toInt) * (if x.2 then 4000 else 175)

/-- Samples delayed by a phase correction (R293); a correction of 0 leaves them. -/
def delayed (phase : Int) (l : List Int) : List Int := if phase = 0 then l else Config.phaseDelay phase l

/-- A current channel's calibrated samples: each is delayed by the correction of its range (R293). -/
def currentRun (c : Nat) (l : List (Int × Bool)) (s : State) : List Int :=
  let xs := l.map (fun x => calI c x s)
  let dh := delayed (getReg (calReg c 0x10) s).toInt xs
  let dl := delayed (getReg (calReg c 0x14) s).toInt xs
  l.mapIdx (fun i x => if x.2 then dl.getD i 0 else dh.getD i 0)

/-- The sum of products of two channels. -/
def dot (a b : List Int) : Int := (List.zipWith (· * ·) a b).foldl (· + ·) 0

/-- Whether a phase's current RMS reaches 0.0005 In (R289). -/
def starts (i : List Int) : Bool := decide ((i.length : Int) * 2 ^ 104 ≤ dot i i)

/-- One feeder block worked out (R286, R287, R289, R291): the currents after range selection, the ranges that follow, and for the feeder the
net active and reactive energy at the inputs. -/
structure BlockSum where
  ranges : List (List (Int × Bool) × Bool × Nat)
  p      : Int
  q      : Int
  u      : List Nat
deriving DecidableEq, Repr

/-- The voltage of a phase in 0.1 % of UNOM (R310). -/
def phaseU (f : Nat) (v : List Int) (s : State) : Nat :=
  let unom := max 1 (getReg (fdrCfg f + 0xC) s).toNat
  Nat.sqrt ((dot v v).toNat / max 1 v.length) * (getReg (fdrCfg f + 8) s).toNat * 10000 / (2 ^ 61 * unom)

/-- The sums of a block over its phases. -/
def blockSum (f : Nat) (b : List FeederSample) (s : State) : BlockSum :=
  let ranges := (List.range 4).map (fun k =>
    rangeRun (b.map (fun x => (x.iH.getD k 0, x.iL.getD k 0))) (getB (fdrStat f) k s) (tgetD s.tly.quiet (7 * f + 3 + k) 0))
  let volt := fun (j : Nat) (g : FeederSample → List Int) => b.map (fun x => calV (7 * f + j) ((g x).getD j 0) s)
  let phase := fun j =>
    let i := currentRun (7 * f + 3 + j) (ranges.getD j ([], false, 0)).1 s
    let ok := starts i && !s.tly.failed.contains (7 * f + j) && !s.tly.failed.contains (7 * f + 3 + j)
    let a : Int := inAmp f j s
    if ok then (dot (volt j (·.v)) i * a, dot (volt j (·.vq)) i * a) else (0, 0)
  { ranges := ranges, p := (phase 0).1 + (phase 1).1 + (phase 2).1, q := (phase 0).2 + (phase 1).2 + (phase 2).2,
    u := (List.range 3).map (fun j => phaseU f (volt j (·.v)) s) }

/-- PQ_FLAGS of what holds now (R310, R323). -/
def pqNow (f : Nat) (s : State) : Nat :=
  b2n (getB (fdrStat f) 8 s) + 2 * b2n (getB (fdrStat f) 9 s) + 4 * b2n (getB (fdrStat f) 10 s) + 8 * getF (fdrStat f) 6 4 s +
    64 * b2n (getB (fdrStat f) 11 s) + 128 * b2n (getB (fdrStat f) 12 s)

/-- A supply condition's bit of TLY_FDRSTAT (R323). -/
def condBit : SupplyCond → Nat
  | .phMissing p => 4 + p % 3 | .revSeq => 8 | .neutralMissing => 9 | .neutralMismatch => 10 | .overload => 11

/-- A supply condition sets or clears (R292), with an event. -/
def setSupply (f bit : Nat) (holds : Bool) (s : State) : State :=
  if getB (fdrStat f) bit s = holds then s
  else
    let s := evt 12 (if holds then 3 else 4) (argCond (fdrStat f) bit f) (setB (fdrStat f) bit holds s)
    addRunning (skey 2 f) (fun v => { v with pq := v.pq ||| pqNow f s }) s

/-- The squared magnitude of a phasor. -/
def phSq (a : Int × Int) : Int := a.1 * a.1 + a.2 * a.2
/-- The difference of two phasors. -/
def phSub (a b : Int × Int) : Int × Int := (a.1 - b.1, a.2 - b.2)
/-- The sum of two phasors. -/
def phAdd (a b : Int × Int) : Int × Int := (a.1 + b.1, a.2 + b.2)

/-- Whether a phase voltage lies below 20 % of UNOM (R292). -/
def phaseMissing (unom : Int) (v : Int × Int) : Bool := decide (25 * phSq v < unom * unom)

/-- Whether Vb lags Va by 240° ± 30° (R292): it then leads Va by 90° to 150°. -/
def lags240 (a b : Int × Int) : Bool :=
  let x := b.1 * a.1 + b.2 * a.2
  let y := b.2 * a.1 - b.1 * a.2
  decide (x ≤ 0 ∧ 0 ≤ y ∧ x * x ≤ 3 * (y * y))

/-- Whether the phasors meet a supply condition, but for how long (R292); an OVERLOAD is found in the samples (R286). -/
def supplyMet (f : Nat) (c : SupplyCond) (x : SupplyIn) (s : State) : Bool :=
  let u : Int := (getReg (fdrCfg f + 0xC) s).toNat
  let v := fun k => x.v.getD k (0, 0)
  let i := fun k => x.i.getD k (0, 0)
  match c with
  | .phMissing p => phaseMissing u (v (p % 3))
  | .revSeq => !((List.range 3).any (fun k => phaseMissing u (v k))) && lags240 (v 0) (v 1)
  | .neutralMissing =>
    let lineOk := fun (a b : Int × Int) => decide (21675 * (u * u) ≤ 10000 * phSq (phSub a b) ∧ 10000 * phSq (phSub a b) ≤ 39675 * (u * u))
    decide (9 * (u * u) < 25 * phSq (phAdd (v 0) (phAdd (v 1) (v 2)))) && lineOk (v 0) (v 1) && lineOk (v 1) (v 2) && lineOk (v 2) (v 0)
  | .neutralMismatch =>
    let lim : Int := inAmp f 3 s * 50000
    getB (fdrCfg f) 4 s && decide (lim * lim < phSq (phSub (phAdd (i 0) (phAdd (i 1) (i 2))) (i 3)))
  | .overload => false

/-- For how many ms a condition has to hold before its bit sets (R292). -/
def supplyTime : SupplyCond → Nat
  | .phMissing _ => 100
  | _ => 1000

/-- SUPPLY_CONDITION_CHANGE (R292): the bit sets once its condition has held for its time, and clears once it has been absent for 1 s; an
OVERLOAD is absent while no block is clipped. -/
def supplyChange (f : Nat) (c : SupplyCond) (x : SupplyIn) (s : State) : State :=
  let met := supplyMet f c x s
  let long := match c with
    | .overload => decide (tgetD s.tly.clipAt f 0 + 1000000000 ≤ s.tim.mon)
    | _ => decide ((if met then supplyTime c else 1000) ≤ x.ms)
  if 4 ≤ f || !s.tly.metering || s.start.blkRst.contains .tly || !long then s else setSupply f (condBit c) met (tlyRoll s)

def execSupplyConditionChange (feeder : Nat) (cond : SupplyCond) (x : SupplyIn) (s : State) := run (supplyChange feeder cond x) s

/-- A block's energy added to an interval (R287). -/
def addBlock (p q : Int) (v : Ival) : Ival :=
  let quad := if 0 ≤ p then (if 0 ≤ q then 0 else 3) else if 0 ≤ q then 1 else 2
  let x := v.sums
  { v with sums := { x with imp := x.imp + p.toNat, exp := x.exp + (-p).toNat, q := x.q.set quad (x.q.getD quad 0 + q.natAbs) } }

/-- The quantity of the test output (R290, R325), at the inputs. -/
def testQty (p q : Int) (s : State) : Nat :=
  match getF 0x24040 18 17 s with
  | 0 => p.toNat
  | 1 => (-p).toNat
  | 2 => q.toNat
  | _ => (-q).toNat

/-- Test pulses (R290): at most 25 in a second; those beyond are dropped and set TEST_OVR. -/
def emitPulses (f : Nat) : Nat → State → State
  | 0, s => s
  | n + 1, s =>
    let recent := s.tly.pulses.filter (fun t => decide (s.tim.mon < t + 1000000000))
    if recent.length < 25 then
      emitPulses f n (emit (.testPulse f) { s with tly := { s.tly with pulses := recent ++ [s.tim.mon] } })
    else emitPulses f n (pmcAdd 0x4A 1 (setB 0x24020 23 true { s with tly := { s.tly with pulses := recent } }))

/-- The test output after a block (R290): 1 kWh at the inputs is 3600000 × 16000000 × 2^106 of the products summed. -/
def testOut (f : Nat) (p q : Int) (s : State) : State :=
  let const := getF 0x24040 15 0 s
  if !getB 0x24040 16 s || const == 0 || getF 0x24040 20 19 s != f then s
  else
    let kwh := 3600000 * 16000000 * 2 ^ 106
    let acc := s.tly.pulseAcc + testQty p q s * const
    emitPulses f (acc / kwh) { s with tly := { s.tly with pulseAcc := acc % kwh } }

/-- The ranges that follow a block (R286). -/
def putRanges (f : Nat) (r : List (List (Int × Bool) × Bool × Nat)) (s : State) : State :=
  (List.range 4).foldl (fun s k =>
    let x := r.getD k ([], false, 0)
    let n := ((x.1.map (·.2)).zip ((x.1.map (·.2)).drop 1 ++ [x.2.1])).countP (fun e => e.1 != e.2)
    let first := match x.1 with | y :: _ => b2n (y.2 != getB (fdrStat f) k s) | [] => 0
    let s := if n + first = 0 then s else pmcAdd 0x49 (n + first) s
    { setB (fdrStat f) k x.2.1 s with tly := { s.tly with quiet := tput s.tly.quiet (7 * f + 3 + k) x.2.2 } }) s

/-- FEEDER_BLOCK (R286, R287, R289). -/
def feederBlock (f : Nat) (b : List FeederSample) (s : State) : State :=
  if 4 ≤ f ∨ !s.tly.metering ∨ s.start.blkRst.contains .tly then s
  else
    let r := blockSum f b s
    let clipped := r.ranges.any (fun x => x.1.any (fun y => y.2 && decide (2 ^ 23 - 1 ≤ y.1.natAbs)))
    let s := putRanges f r.ranges (tlyRoll s)
    let s := if clipped then setSupply f 11 true { s with tly := { s.tly with clipAt := tput s.tly.clipAt f s.tim.mon } } else s
    let on := match tsrc (skey 2 f) s with | some x => (running x).isSome | none => false
    if !on then s
    else
      let k : Int := ((getReg (fdrCfg f + 4) s).toNat * (getReg (fdrCfg f + 8) s).toNat : Nat)
      let pq := pqNow f s
      let s := addRunning (skey 2 f) (fun v =>
        let v := addBlock (r.p * k) (r.q * k) v
        { v with pq := v.pq ||| pq, umin := some (r.u.foldl min (v.umin.getD 0xFFFE)), umax := some (r.u.foldl max (v.umax.getD 0)) }) s
      testOut f r.p r.q (pmcAdd (0x3C + f) 1 s)

def execFeederBlock (feeder : Nat) (samples : List FeederSample) (s : State) := run (feederBlock feeder samples) s

/-! ## Heat -/

/-- The energy of a heat sample (R295): its volume, its two temperatures, the side of its flow sensor, and whether the network is cold. -/
def heatEnergy (v tw tc : Int) (cool cold : Bool) (s : State) : Int :=
  if (tw - tc).natAbs < 10 * getF 0x24004 23 16 s then 0
  else
    let e := v * (Config.waterDensity (if cool then tc else tw) : Int) * (Config.enthalpy tw - Config.enthalpy tc)
    if cold then -e else e

/-- A valid sample's sums (R295, R304): its volume, its energy, and the allowance of a station that is OVER. -/
def addHeat (v e : Int) (allow : Option Nat) (rev : Bool) (x : Sums) : Sums :=
  let i := match allow with | some a => min e.toNat a | none => e.toNat
  { x with imp := x.imp + i, excess := x.excess + (e.toNat - i), exp := x.exp + (-e).toNat, vFwd := x.vFwd + v.toNat, vRev := x.vRev + (-v).toNat,
           revs := x.revs + b2n rev, samples := x.samples + 1 }

/-- An invalid sample's sums (R298): |v| and the duration in ms. -/
def addErr (v : Int) (ms : Nat) (x : Sums) : Sums := { x with vErr := x.vErr + v.natAbs, tErr := x.tErr + ms }

/-- Whether a volume reverses the last one that was not 0 (R296). -/
def reverses (v : Int) (x : TlySrc) : Bool := v != 0 && (match x.fwdLast with | some b => b != decide (0 < v) | none => false)

/-- The sign that a volume leaves. -/
def signAfter (v : Int) (x : TlySrc) : Option Bool := if v = 0 then x.fwdLast else some (decide (0 < v))

/-- The type of an RTD input (R318): off is 0. -/
def rtdType (i : Nat) (s : State) : Nat := fld (getReg 0x24010 s) (2 * i + 1) (2 * i)

/-- An RTD reading that is outside -50 °C to +200 °C, open, shorted or off (R298). -/
def rtdBad (i : Nat) (t : Option Int) (s : State) : Bool :=
  rtdType i s == 0 || (match t with | some x => decide (x < -50000 ∨ 200000 < x) | none => true)

/-- The volume of a local sample (R299), in volume units. -/
def localVol (m : Nat) (x : LocalSample) (s : State) : Int :=
  let c := getReg (lhCfg m) s
  let q : Int := (getReg (lhCfg m + 8) s).toNat
  if bitAt c 29 then
    if bitAt c 30 then q * ((x.currentUa : Int) - 12000) * 2048 else q * ((x.currentUa : Int) - 4000) * 1024
  else
    let v : Int := (x.pulses * (getReg (lhCfg m + 4) s).toNat * 9000 : Nat)
    let d := fld c 23 16
    if d < 32 ∧ bitAt (inWord 0 s) d then -v else v

/-- LOCAL_HEAT_SAMPLE (R298, R299). -/
def localHeat (m : Nat) (x : LocalSample) (s : State) : State :=
  if 8 ≤ m ∨ !s.tly.metering ∨ s.start.blkRst.contains .tly then s
  else
    let s := tlyRoll s
    match tsrc (skey 3 m) s with
    | none => s
    | some y =>
      if (running y).isNone then s
      else
        let c := getReg (lhCfg m) s
        let badW := rtdBad (fld c 7 4) x.tWarm s
        let badC := rtdBad (fld c 3 0) x.tCool s
        let badF := bitAt c 29 && (decide (x.currentUa < 3600) || decide (21000 < x.currentUa))
        let v := localVol m x s
        let st := b2n badF + 2 * b2n badW + 4 * b2n badC + 8 * b2n (decide (v < 0))
        let s := pmcAdd 0x40 1 (setF (lhCfg m + 0xC) 3 0 st s)
        if badW || badC || badF then pmcAdd 0x43 1 (addRunning (skey 3 m) (fun i => { i with sums := addErr v 100 i.sums }) s)
        else
          let tw := x.tWarm.getD 0
          let tc := x.tCool.getD 0
          let rev := reverses v y
          let e := heatEnergy v tw tc (bitAt c 28) (bitAt c 27) s
          let s := putSrc (skey 3 m) { onRunning (fun i => { i with sums := addHeat v e none rev i.sums }) y with
                                        fwdLast := signAfter v y, dt := some (tw - tc) } s
          if rev then pmcAdd 0x42 1 s else s

def execLocalHeatSample (meter : Nat) (x : LocalSample) (s : State) := run (localHeat meter x) s

/-! ## Stations -/

/-- Whether a station's sample is invalid (R298). -/
def sampleBad (id sps : Nat) (z : Sample) (s : State) : Bool :=
  z.invalid || decide (z.tw < -20000 ∨ 190000 < z.tw ∨ z.tc < -20000 ∨ 190000 < z.tc) ||
    decide (2 * stnQmax id s * 1000000 < z.vol.natAbs * 3600 * max 1 sps)

/-- The budget latched before an instant, where the station was OVER (R304), as the allowance of a sample in energy units. -/
def allowance (x : TlySrc) (t sps : Nat) : Option Nat :=
  match x.bud.find? (fun b => decide (b.1 < t)) with
  | some (_, b, true) => some (b.toNat * euJoule / max 1 sps)
  | _ => none

/-- The interval that holds a sample which ends at an instant. -/
def holdsAt (t : Nat) (mon : Bool) (v : Ival) : Bool :=
  v.onMon == mon && decide (v.start < t) && (match v.stop with | some e => decide (t ≤ e) | none => true)

/-- A sample of a station that ends at t is integrated, or discarded where its interval has closed (R295 to R300, R304). -/
def addSample (d : StationDecl) (sps t : Nat) (mon : Bool) (z : Sample) (s : State) : State :=
  let k := skey 1 d.ident
  match tsrc k s with
  | none => s
  | some x =>
    if !x.ivals.any (holdsAt t mon) then putSrc k { x with dupes := x.dupes + 1 } s
    else
      let v := z.vol * 589824
      let put := fun (f : Ival → Ival) (y : TlySrc) => { y with ivals := y.ivals.map (fun i => if holdsAt t mon i then f i else i) }
      let s := pmcAdd 0x41 1 s
      if sampleBad d.ident sps z s then
        pmcAdd 0x43 1 (putSrc k (put (fun i => { i with sums := addErr v (1000 / max 1 sps) i.sums }) x) s)
      else
        let cold := match stnNet d.ident s with | some n => n.cold | none => false
        let e := heatEnergy v z.tw z.tc d.coolSide cold s
        let rev := reverses v x
        let al := allowance x t sps
        let y := put (fun i => { i with sums := addHeat v e al rev i.sums, isOver := i.isOver || al.isSome }) x
        let s := putSrc k { y with fwdLast := signAfter v x, dt := some (z.tw - z.tc) } s
        if rev then pmcAdd 0x42 1 s else s

/-- A fetched sample fills its place (R300): one that no stretch lacks is discarded. -/
def addFetched (d : StationDecl) (epoch n : Nat) (z : Sample) (s : State) : State :=
  let k := skey 1 d.ident
  match tsrc k s with
  | none => s
  | some x =>
    match x.gaps.findSome? (fun g => (g.pieces.find? (fun p => p.epoch == epoch && decide (p.lo ≤ n) && decide (n ≤ p.hi))).map (fun p => (g, p))) with
    | none => putSrc k { x with dupes := x.dupes + 1 } s
    | some (g, p) =>
      let t := p.pos n
      let vol := if sampleBad d.ident p.sps z s then 0 else z.vol * 589824
      let gaps := x.gaps.map (fun h => if h = g then
          { h with pieces := h.pieces.flatMap (fun q => if q = p then q.take n else [q]), fwd := h.fwd + vol.toNat, rev := h.rev + (-vol).toNat }
        else h)
      pmcAdd 0x48 1 (addSample d p.sps t g.after.onMon z (putSrc k { x with gaps := gaps.filter (fun h => !h.pieces.isEmpty) } s))

/-- The pieces between the last report and a new one (R303), and the samples of the new epoch before the first report. -/
def newPieces (last : Option Mark) (m : Mark) (first : Nat) : List Piece :=
  let fresh : Piece := { epoch := m.epoch, lo := 1, hi := first - 1, refN := m.num, refT := m.t, sps := m.sps }
  match last with
  | none => [fresh]
  | some l =>
    if l.epoch = m.epoch then [{ fresh with lo := l.num + 1 }]
    else
      let begins := m.t - m.num * periodNs m.sps
      let old : Piece := { epoch := l.epoch, lo := l.num + 1, hi := l.num + (begins - l.t) / periodNs l.sps, refN := l.num, refT := l.t, sps := l.sps }
      [old, fresh]

/-- A report's samples and counters (R300 to R302). -/
def integrateStn (s : State) (d : StationDecl) : State :=
  let k := skey 1 d.ident
  match (stn d.ident s).round.reply, tsrc k s with
  | some p, some x =>
    let sps := max 1 (stn d.ident s).sps
    let n := p.cur.length
    let t := qTime s - (s.tim.mon - s.rnd.anchor)
    let num := p.firstCur + n - 1
    let m : Mark := { epoch := p.epoch, num := num, t := t, onMon := onMon s, sps := sps, cgen := p.cgen, vFwd := p.vFwd, vRev := p.vRev,
                      eImp := p.eImp, eExp := p.eExp, dt := (match p.cur.getLast? with | some z => z.tw - z.tc | none => x.dt.getD 0) }
    let stale := match x.last with | some l => l.epoch == p.epoch && decide (num ≤ l.num) | none => false
    let from_ := match x.ivals with | v :: _ => v.start | [] => t
    let pieces := if stale then [] else (newPieces x.last m p.firstCur).map (fun q => { q with lo := max q.lo (q.upTo from_ + 1) })
    let pieces := pieces.filter (fun q => decide (q.lo ≤ q.hi))
    let good := p.cur.filter (fun z => !sampleBad d.ident sps z s)
    let cur : Nat × Nat := (good.foldl (fun a z => a + (z.vol * 589824).toNat) 0, good.foldl (fun a z => a + (-z.vol * 589824).toNat) 0)
    let gap : List Gap := if pieces.isEmpty then [] else [{ before := x.last, after := m, pieces := pieces, fwd := cur.1, rev := cur.2 }]
    let reg := match x.last with
      | some l => if l.cgen = m.cgen ∧ l.eImp ≤ m.eImp ∧ l.eExp ≤ m.eExp then (m.eImp - l.eImp, m.eExp - l.eExp) else (0, 0)
      | none => (0, 0)
    let put := fun (y : TlySrc) => { y with ivals := y.ivals.map (fun i =>
      if holdsAt t m.onMon i && i.full then { i with regImp := i.regImp + reg.1, regExp := i.regExp + reg.2 } else i) }
    let s := if stale then putSrc k { x with dupes := x.dupes + n } s
      else
        let s := putSrc k { put x with last := some m, gaps := x.gaps ++ gap } s
        (p.cur.zipIdx).foldl (fun s e => addSample d sps (t - (n - 1 - e.2) * periodNs sps) m.onMon e.1 s) s
    (p.fetched.zipIdx).foldl (fun s e => addFetched d p.fetchEpoch (p.firstFetch + e.2) e.1 s) s
  | _, _ => s

/-- The tally integrates the round's accepted reports (R300). -/
def tlyIntegrate (s : State) : State :=
  if s.start.blkRst.contains .tly || !s.tly.metering then s else (modelStns s).foldl integrateStn (tlyRoll s)

/-- The budgets and the OVER states that a write phase latches (R304). -/
def tlyLatch (s : State) : State :=
  (modelStns s).foldl (fun s d =>
    let k := skey 1 d.ident
    match tsrc k s with
    | none => s
    | some x =>
      let v : Int × Bool := ((budgetOf d.ident s).getD 0 0, (stnDisp d.ident s).isOver)
      let same := match x.bud with | b :: _ => b.2 == v | [] => false
      if same then s else putSrc k { x with bud := (qTime s, v) :: x.bud } s) s

/-- FETCH_EPOCH and FETCH_FROM of a station's next request (R347): the oldest sample that an open interval lacks and that the module may
still fetch. -/
def fetchOf (id : Nat) (s : State) : Option (Nat × Nat) :=
  match tsrc (skey 1 id) s with
  | none => none
  | some x =>
    let lim := (stn id s).noFetch
    let l := (x.gaps.flatMap (·.pieces)).map (fun p => match tget lim p.epoch with | some f => { p with lo := max p.lo f } | none => p)
    let l := l.filter (fun p => decide (p.lo ≤ p.hi))
    let best := l.foldl (fun (b : Option Piece) p => match b with
      | none => some p
      | some q => if p.pos p.lo < q.pos q.lo then some p else some q) none
    best.map (fun p => (p.epoch, p.lo))

/-- BACKLOG_ACK of a station's next request (R347). -/
def backlogAck (id : Nat) (s : State) : Nat :=
  match tsrc (skey 1 id) s with
  | none => 0
  | some x =>
    match x.last with
    | none => 0
    | some m =>
      if m.epoch ≠ (stn id s).epoch then 0
      else
        let f := match tget (stn id s).noFetch m.epoch with | some f => f | none => 0
        let l := (x.gaps.flatMap (·.pieces)).filter (fun p => p.epoch == m.epoch && decide (max p.lo f ≤ p.hi))
        l.foldl (fun a p => min a (max p.lo f - 1)) m.num

/-- The sources follow the stations of the active model, at a swap and at a start-up that has swapped (R133, R134, R312): removed stations close
with a final record, a change between thin and full cuts the interval short, and new stations start at zero. -/
def tlySwap (s : State) : State :=
  let now := qTime s
  let stop := fun (v : Ival) => if v.onMon then s.tim.mon else now
  let s := mapSrcs (fun k x =>
    if skind k ≠ 1 then x
    else
      match stnDecl (sid k) s, running x with
      | none, _ => { onRunning (fun v => { v with stop := some (stop v), final := true, short := true }) x with on := false }
      | some d, some v =>
        if v.full = d.full then x
        else
          let y := onRunning (fun v => { v with stop := some (stop v), short := true }) x
          { y with ivals := y.ivals ++ [newIval k now s] }
      | some _, none => { x with on := true, ivals := x.ivals ++ [newIval k now s], last := none, gaps := [] }) s
  (modelStns s).foldl (fun s d => if (tsrc (skey 1 d.ident) s).isSome then s else putSrc (skey 1 d.ident) { ivals := [newIval (skey 1 d.ident) now s] } s) s

/-! ## Commits -/

/-- What overlaps of an interval with a span (R308). -/
def overlap (v : Ival) (a b now : Nat) : Nat := min b (v.stop.getD now) - max a v.start

/-- The open intervals of a feeder or meter that a span overlaps. -/
def markSpan (k a b : Nat) (outage : Bool) (s : State) : State :=
  match tsrc k s with
  | none => s
  | some x =>
    let f := fun (v : Ival) => if v.onMon then v
      else if outage then { v with outageNs := v.outageNs + overlap v a b b } else { v with unsavedNs := v.unsavedNs + overlap v a b b }
    putSrc k { x with ivals := x.ivals.map f } s

/-- The spans whose END is the first instant at which LEG is valid (R307). -/
def endOwed (s : State) : State :=
  if !s.tim.legValid then s
  else
    let l := s.tly.owed
    l.foldl (fun s p =>
      let e := localBound (skey p.srcType p.source) (legNs s - p.start) s
      addSpan { p with stop := legNs s, eImp := e, eExp := e } (markSpan (skey p.srcType p.source) p.start (legNs s) false s)) { s with tly := { s.tly with owed := [] } }

/-- TLY_COMMIT (R305): at each whole multiple of 250 ms of MON, unless the hold-up sequence or a module reset is under way (R306); the loops'
snapshot (R270). -/
def tlyCommit (s : State) : State :=
  if seqRuns s || s.start.blkRst.contains .tly || !s.tly.metering || !onMultiple 250000000 s.tly.commitAt s.tim.mon then s
  else snapLoops (commitNow false (endOwed { s with tly := { s.tly with commitAt := s.tim.mon } }))

def execTlyCommit (s : State) := run tlyCommit s

/-- Whether HOLD_MIN minutes have passed since the close of the round that starts at an interval's END (R303). -/
def holdOver (v : Ival) (s : State) : Bool :=
  match v.stop with
  | none => false
  | some e => v.onMon != onMon s || decide (e + (boundary 31 24 s - s.rnd.anchor) + getF 0x24004 11 8 s * 60000000000 ≤ qTime s)

/-- HOLD_MIN_EXPIRY (R303): the station's oldest interval that is held open closes at the next commit. -/
def holdExpiry (id : Nat) (s : State) : State :=
  match tsrc (skey 1 id) s with
  | none => s
  | some x =>
    match x.ivals with
    | v :: rest => if holdOver v s then putSrc (skey 1 id) { x with ivals := { v with expired := true } :: rest } s else s
    | [] => s

def execHoldMinExpiry (station : Nat) (s : State) := run (holdExpiry station) s

/-- The final commit completes (R306): FINAL set, and the marker cleared as its last write. -/
def finalCommit (s : State) : State := snapLoops (commitNow true s)

/-! ## Start-up -/

/-- The bank that start-up takes (R307): the higher COMMIT_SEQ among those whose CRC passes. -/
def pickBank (ok0 ok1 : Bool) (s : State) : Option Bank :=
  match (if ok0 then s.tly.bank0 else none), (if ok1 then s.tly.bank1 else none) with
  | some a, some b => some (if a.seq < b.seq then b else a)
  | some a, none => some a
  | none, b => b

/-- An instant before the restart that the RTC gives, on the time that records now carry (R14, R312): LEG, or MON where LEG has not been valid
since the restart. One before MON began reads as 0 (DESIGN CHOICE, log entry 98). -/
def sinceRtc (rtc : Nat) (s : State) : Nat := qTime s - (s.tim.rtc - rtc)

/-- The commit instant of a bank, on the time that records now carry (R307, R312). -/
def bankAt (b : Bank) (s : State) : Nat := if onMon s || b.onMon then sinceRtc b.rtc s else b.leg

/-- A span of a feeder or a local heat meter at start-up (R14, R307, R308), of a duration in ns where it is known. -/
def startSpan (k kind sflags a b : Nat) (ns : Option Nat) (s : State) : Span :=
  let e := match ns with | some n => localBound k n s | none => 0xFFFFFFFFFFFFFFFF
  { kind := kind, srcType := skind k, source := sid k, sflags := sflags, start := a, stop := b, timeMon := onMon s, vFwd := 0, vRev := 0,
    eImp := e, eExp := e, dt0 := (match tsrc k s with | some x => x.dt | none => none), dt1 := none, merged := false }

/-- The newest record of a source in the store (R307). -/
def newestRec (rtype source : Nat) (s : State) : Option Rec :=
  (s.tly.store.filter (fun r => r.rtype == rtype && r.source == source)).getLast?

/-- The END of a record in ns of LEG. -/
def Rec.endNs (r : Rec) : Nat := leAt r.bytes 0x18 8 * 1000000000

/-- A source as its newest record leaves it (R307): its totals and RECORD_SEQ. -/
def srcOfRec (k : Nat) (r : Rec) : TlySrc :=
  let o := if skind k = 2 then 0x58 else 0x50
  let u := unitOf (skind k)
  { totals := { imp := leAt r.bytes o 8 * u, exp := leAt r.bytes (o + 8) 8 * u, excess := if skind k = 2 then 0 else leAt r.bytes 0x60 8 * u },
    recSeq := r.recSeq, endAt := r.endNs }

/-- A span recorded with its marks in the intervals. -/
def putSpan (k kind sflags a b : Nat) (ns : Option Nat) (s : State) : State :=
  let s := markSpan k a b (kind == 3) (addSpan (startSpan k kind sflags a b ns s) s)
  if kind = 1 then { s with tly := { s.tly with spanStart := true } } else s

/-- The spans of one source from a bank (R307), up to the resumption now. A span whose END LEG still has to give starts at the bank's commit
instant in LEG, 0 where the bank had none. -/
def bankSpans (b : Bank) (mk : Option Nat) (s : State) (k : Nat) : State :=
  let a := bankAt b s
  let now := qTime s
  let r := s.tim.rtc
  if !getB 0x06004 30 s then
    let a := if b.onMon then 0 else b.leg
    { s with tly := { s.tly with spanStart := true, owed := s.tly.owed ++ [{ startSpan k 1 4 a a none s with timeMon := false }] } }
  else if b.final then putSpan k 3 0 a now (some (if onMon s || b.onMon then r - b.rtc else now - a)) s
  else
    match mk with
    | some t => putSpan k 3 0 (sinceRtc t s) now (some (r - t)) (putSpan k 1 0 a (sinceRtc t s) (some (t - b.rtc)) s)
    | none => putSpan k 1 2 a now (some (if onMon s || b.onMon then r - b.rtc else now - a)) s

/-- TIME_MON of a record (R309). -/
def Rec.onMon (r : Rec) : Bool := (leAt r.bytes 2 2).testBit 8

/-- The END of a record that a span starts from (R307), on the time that records now carry, and the span's duration: unknown where the two times
do not compare and the RTC cannot tell. -/
def lostFrom (e : Nat) (recMon : Bool) (s : State) : Nat × Option Nat :=
  if recMon then (0, none)
  else if !onMon s then (e, some (qTime s - e))
  else if getB 0x06004 30 s then (sinceRtc e s, some (s.tim.rtc - e))
  else (0, none)

/-- The sources at a start-up whose banks both fail (R307). -/
def lostSpan (last : Option Rec) (s : State) (k : Nat) : State :=
  let now := qTime s
  match newestRec (skind k) (sid k) s with
  | some r =>
    let f := lostFrom r.endNs r.onMon s
    let at_ := if onMon s || r.onMon then now else r.endNs
    putSpan k 1 2 f.1 now f.2 (putSrc k { srcOfRec k r with ivals := [{ newIval k at_ s with short := false }] } s)
  | none =>
    let s := putSrc k { ivals := [newIval k now s] } s
    match last with
    | some r => let f := lostFrom r.endNs r.onMon s; putSpan k 1 2 f.1 now f.2 s
    | none => putSpan k 1 6 0 now none s

/-- After a restart with LEG not valid, or from a bank timed on MON, the open intervals of the bank end at its commit, and new ones begin now
(R312). -/
def restartAxis (b : Bank) (s : State) : State :=
  if onMon s || b.onMon then mapSrcs (fun k x => cutIval k b.leg (qTime s) s x) s else s

/-- The sources that start-up finds (R291, R307). -/
def tlyRestore (ok0 ok1 : Bool) (s : State) : State :=
  let s := { s with tly := { s.tly with spanStart := false } }
  let locals := localKeys.filter (fun k => srcEnabled k s)
  let stations := (modelStns s).map (fun d => skey 1 d.ident)
  match pickBank ok0 ok1 s with
  | some b =>
    let mk := if s.tly.markUsed then none else s.tly.marker.map (·.1)
    let s := { s with tly := { s.tly with srcs := b.srcs, seq := b.seq, lastRoll := b.leg, wasValid := s.tim.legValid, markUsed := true } }
    let s := tlySwap (restartAxis b s)
    let s := mapSrcs (fun k x => rollSrc k s (rollFuel x s) x) s
    let on := (b.srcs.filter (fun e => skind e.1 != 1 && e.2.on)).map (·.1)
    let s := on.foldl (bankSpans b mk) s
    localKeys.foldl (fun s k => startSrc k (qTime s) s) s
  | none =>
    let s := { s with tly := { s.tly with srcs := [], seq := 0, lastRoll := qTime s, wasValid := s.tim.legValid, markUsed := true,
                                          billInt := getB 0x24004 1 s } }
    let leg := s.tly.store.filter (fun r => !r.onMon)
    let newest := (leg.find? (fun r => r.endNs == maxOf (leg.map (·.endNs)))).orElse (fun _ => s.tly.store.getLast?)
    let s := locals.foldl (lostSpan newest) s
    let s := stations.foldl (fun s k => match newestRec 1 (sid k) s with
      | some r => putSrc k { srcOfRec k r with ivals := [newIval k (qTime s) s] } s
      | none => putSrc k { ivals := [newIval k (qTime s) s] } s) s
    mapSrcs (fun k x => rollSrc k s (rollFuel x s) x) s

/-- The front-end self-test (R291): the channels that failed. -/
def selfTest (bad : List Nat) (s : State) : State :=
  let s := { s with tly := { s.tly with failed := bad, quiet := [], metering := true } }
  let s := (List.range 4).foldl (fun s f => setB (fdrStat f) 12 (bad.any (fun c => c / 7 == f)) s) s
  setCond 65 (!bad.isEmpty) s

/-- The calibration in flash is loaded (R293). -/
def loadCal (s : State) : State :=
  (s.tly.calFlash.filter (fun e => decide (0x25000 ≤ e.1 ∧ e.1 < 0x25380))).foldl (fun s e => setReg e.1 e.2 s) s

/-- The tally at start-up (R291, R293, R307). -/
def tlyStart (ok0 ok1 : Bool) (bad : List Nat) (s : State) : State := tlyRestore ok0 ok1 (selfTest bad (loadCal s))

/-! ## Calibration -/

/-- CAL_EN set (R294): a write with the key, with LOCK at 0, and without the meter-of-record role. -/
def calEnSet (v : Word) (s : State) : State :=
  if getB 0x24000 0 s then s
  else if fld v 23 8 = 0x5A3C ∧ bitAt v 0 ∧ !lockOf .tly s ∧ !s.dup.mor then setB 0x24000 0 true s
  else writeIgnored 0x24000 v s

/-- The registers of TLY_CAL (R318). -/
def calRegs : List Nat := (List.range 28).flatMap (fun c => (List.range 6).map (fun i => 0x25000 + 0x20 * c + 4 * i))

/-- CAL_EN cleared (R294): the calibration goes to flash and TLY_CALCOUNT rises by 1. -/
def calEnClear (v : Word) (s : State) : State :=
  if !getB 0x24000 0 s then s
  else if fld v 23 8 = 0x5A3C ∧ !bitAt v 0 then
    let s := setB 0x24000 0 false s
    { s with tly := { s.tly with calFlash := calRegs.map (fun a => (a, getReg a s)), calCount := s.tly.calCount + 1 } }
  else writeIgnored 0x24000 v s

/-! ## Operations -/

/-- The end of BILL_ACK and BILL_REPLAY (R317): UNSIGNED_HELD with the number of records held. -/
def billEnd (r : Req) (s : State) : State :=
  if heldCount s = 0 then complete r 0x00 0 8 [] s else complete r 0x62 (heldCount s) 8 [] s

/-- BILL_ACK (R317). -/
def billAck (r : Req) (n : Nat) (s : State) : State :=
  if tgetD s.hif.lastOut r.pair 0 < n then finish r 0x16 0 s
  else
    let f := fun (x : Rec) => if x.stream = r.pair ∧ x.store ≤ n ∧ x.queued then { x with acked := true } else x
    billEnd r (purgeStore { s with tly := { s.tly with store := s.tly.store.map f } })

def execBillAck (r : Req) (s : State) := run (inlineOp r 0x0510 8 (fun b => billAck r (leAt b 0 8))) s

/-- BILL_REPLAY (R317): the unreleased records delivered before go out again, ahead of those that wait. -/
def billReplay (r : Req) (n : Nat) (s : State) : State :=
  let last := tgetD s.hif.lastOut r.pair 0
  if last < n then finish r 0x16 0 s
  else
    let l := s.tly.store.filter (fun x => x.stream == r.pair && !x.acked && decide (n ≤ x.store) && decide (x.store ≤ last))
    let again : List Item := l.map (fun x => { key := x.store, irq := false, data := x.slot, stat := x.status })
    billEnd r (drainItems r.pair (again ++ (ring r.pair s).items) s)

def execBillReplay (r : Req) (s : State) := run (inlineOp r 0x0511 8 (fun b => billReplay r (leAt b 0 8))) s

/-! ## Registers -/

/-- TLY_STAT (R321): TEST_OVR is the register's own bit. -/
def tlyStat (s : State) : Word :=
  let held := (s.tly.srcs.filter (fun e => skind e.1 == 1 && e.2.ivals.any (fun v => v.stop.isSome))).length
  BitVec.ofNat 32 (b2n (getB 0x24020 23 s) <<< 23 ||| b2n (storeFull s) <<< 22 ||| b2n (heldCount s != 0) <<< 21 ||| b2n s.dup.mor <<< 20 |||
    s.tly.latest <<< 19 ||| b2n s.tly.spanStart <<< 18 ||| min held 0xFFFF)

end Sys2Proof.Machine
end

