-- ==== Sys2Proof/Machine/Cyc.lean ====
section
/-!
DEFINITION. Cyclic program execution: tasks, retained data, online change and program exchange (R364 to R388).
-/
namespace Sys2Proof.Machine

/-! ## The program -/

/-- STATE of CYC_STAT (R387): 0 STOPPED, 1 RUNNING, 2 FAULTED, 3 EXCHANGING. -/
def progState (s : State) : Nat := getF 0x34020 31 30 s

/-- The program takes a state, with a record. -/
def setProgState (v : Nat) (s : State) : State :=
  let old := progState s
  if old = v then s else evt 14 2 (argState 0 old v 0) (setF 0x34020 31 30 v s)

/-- A task of the active program. -/
def taskDecl (t : Nat) (s : State) : Option TaskDecl := match s.cyc.prog with | some p => tget p.tasks t | none => none

/-- The tasks of the active program. -/
def taskIds (s : State) : List Nat := match s.cyc.prog with | some p => p.tasks.map (·.1) | none => []

/-- A task's state. -/
def task (t : Nat) (s : State) : TaskSt := tgetD s.cyc.tasks t {}

/-- The state with a task's state replaced. -/
def putTask (t : Nat) (x : TaskSt) (s : State) : State := { s with cyc := { s.cyc with tasks := tput s.cyc.tasks t x } }

/-- The identities of the active program. -/
def progVars (s : State) : List VarDecl := match s.cyc.prog with | some p => p.vars | none => []

/-- The declaration of an identity (R378). -/
def varDecl (i : BitVec 64) (s : State) : Option VarDecl := (progVars s).find? (fun d => d.ident == i)

/-- A value in a list of values. -/
def valIn (l : List (BitVec 64 × Nat)) (i : BitVec 64) : Option Nat := (l.find? (fun e => e.1 == i)).map (·.2)

/-- A list of values with one value set. -/
def setVal (l : List (BitVec 64 × Nat)) (i : BitVec 64) (v : Nat) : List (BitVec 64 × Nat) :=
  if l.any (fun e => e.1 == i) then l.map (fun e => if e.1 = i then (i, v) else e) else l ++ [(i, v)]

/-- The reset state of an identity (R377, R382): a timer is idle and an edge memory FALSE. -/
def resetVal (d : VarDecl) : Nat := match d.kind with | .timer | .edge => 0 | _ => d.init

/-- The present value of an identity (R379). -/
def varValue (d : VarDecl) (s : State) : Nat :=
  if d.kind = .constant then (valIn s.cyc.overlay d.ident).getD d.init else (valIn s.cyc.vals d.ident).getD (resetVal d)

/-- The values of a program whose identities all stand in their reset state, but for those that `keep` gives. -/
def freshVals (p : ProgImage) (keep : VarDecl → Option Nat) : List (BitVec 64 × Nat) :=
  (p.vars.filter (fun d => d.kind != .constant)).map (fun d => (d.ident, (keep d).getD (resetVal d)))

/-- The values that a task's latest complete write holds (R376). -/
def retainedOf (t : Nat) (s : State) : List (BitVec 64 × Nat) :=
  let b := tgetD s.cyc.retained t {}
  ((if b.second then b.other else b.first)).getD []

/-- A task's retained values go to the bank that does not hold its latest complete write (R376). -/
def writeRetained (t : Nat) (s : State) : State :=
  let mine := (progVars s).filter (fun d => d.task == t && d.kind != .constant && d.cls != .nonRetained)
  if mine.isEmpty then s
  else
    let l := mine.map (fun d => (d.ident, varValue d s))
    let b := tgetD s.cyc.retained t {}
    let b := if b.second then { b with first := some l, second := false } else { b with other := some l, second := true }
    pmcAdd 0x39 1 { s with cyc := { s.cyc with retained := tput s.cyc.retained t b } }

/-- A program cold start (R368, R377): PERSISTENT variables and the overlay stay. -/
def coldStart (s : State) : State :=
  match s.cyc.prog with
  | none => s
  | some p => { s with cyc := { s.cyc with vals := freshVals p (fun d => if d.cls = .persistent then valIn s.cyc.vals d.ident else none),
                                           writes := [], carried := [] } }

/-- A program record on pair 30 (R366, R367): it has no bytes of its own. -/
def progRecord (st dt : Nat) (s : State) : State := deliverWith 30 st dt [] s

/-- The words of a task take their STOP_MODE (R368). -/
def stopTask (s : State) (t : Nat) : State :=
  match taskDecl t s with
  | some d => if d.safeStop then publishOut d.owns s else s
  | none => s

/-! ## Tasks -/

/-- The registers of a task (R385). -/
def taskReg (t off : Nat) : Nat := 0x34100 + 0x20 * t + off

/-- The writes that wait for a task's next instance are applied (R379), and carried timers count from their capture (R382). -/
def beginInstance (t : Nat) (s : State) : State :=
  let mine := fun (i : BitVec 64) => (progVars s).any (fun d => d.ident == i && d.task == t)
  let now := s.cyc.writes.filter (fun w => mine w.1)
  let vals := now.foldl (fun l w => setVal l w.1 w.2) s.cyc.vals
  let vals := match tget s.cyc.carried t with
    | some c => vals.map (fun v => if (progVars s).any (fun d => d.ident == v.1 && d.task == t && d.kind == .timer) && v.2 != 0
        then (v.1, v.2 + (s.tim.mon - c)) else v)
    | none => vals
  { s with cyc := { s.cyc with vals := vals, writes := s.cyc.writes.filter (fun w => !mine w.1), carried := tdel s.cyc.carried t } }

/-- Whether an activation of a task falls due now (R364): MON stands at OFFSET + k × CYCLE, or READ_CLOSE has opened the compute phase; each
instant and each round activates a task once. -/
def taskDue (d : TaskDecl) (x : TaskSt) (s : State) : Bool :=
  if d.round then s.rnd.phase == .compute && x.actRound != some s.rnd.number
  else
    let c := d.cycleMs * 1000000
    let o := d.offsetMs * 1000000
    decide (o ≤ s.tim.mon) && decide ((s.tim.mon - o) % c < 4) && (match x.actAt with | some a => decide (a + 4 ≤ s.tim.mon) | none => true)

/-- TASK_ACTIVATION (R364, R365 step 1, R366, R368, R381): an instance starts on its copy of the input image, or the activation is skipped as an
overrun. -/
def activateTask (t : Nat) (s : State) : State :=
  let x := task t s
  let frozen : Bool := match s.cyc.exch with | some e => e.frozen | none => false
  match taskDecl t s with
  | none => s
  | some d =>
    if !started s || !taskDue d x s || (progState s != 1 && progState s != 3) || frozen || x.held || s.start.blkRst.contains .cyc then s
    else
      let x := { x with actAt := some s.tim.mon, actRound := some s.rnd.number }
      match x.running with
      | none => putTask t { x with running := some s.tim.mon, copy := s.cyc.inp } (beginInstance t s)
      | some _ =>
        let s := pmcAdd 0x35 1 (incReg (taskReg t 0xC) 1 (putTask t x s))
        let soon := match x.lastOvr with | some m => decide (s.tim.mon < m + 10000000000) | none => false
        if soon then s
        else progRecord 0x59 t (evt 14 8 (argPair 0 t) (putTask t { x with lastOvr := some s.tim.mon } s))

def execTaskActivation (task : Nat) (s : State) := run (activateTask task) s

/-- TASK_INSTANCE_END (R365): the words that the task owns are published, its values taken and its retained variables written. -/
def endInstance (t : Nat) (outs : List (Nat × Word)) (vals : List (BitVec 64 × Nat)) (us : Nat) (s : State) : State :=
  match taskDecl t s, (if started s then (task t s).running else none) with
  | some d, some _ =>
    let s := publishOut (outs.filter (fun o => d.owns.any (fun w => w.1 == o.1))) s
    let mine := vals.filter (fun v => (progVars s).any (fun e => e.ident == v.1 && e.task == t && e.kind != .constant && !e.bound))
    let s := { s with cyc := { s.cyc with vals := mine.foldl (fun l v => setVal l v.1 v.2) s.cyc.vals } }
    let s := writeRetained t (putTask t { task t s with running := none } s)
    let s := setReg (taskReg t 4) (lo32 us) (setReg (taskReg t 0x10) (getReg (taskReg t 0x10) s + 1) s)
    let s := if (getReg (taskReg t 8) s).toNat < us then setReg (taskReg t 8) (lo32 us) s else s
    let s := pmcAdd 0x36 1 (pmcAdd 0x34 1 s)
    if progState s = 0 then stopTask s t else s
  | _, _ => s

def execTaskInstanceEnd (task : Nat) (outs : List (Nat × Word)) (vals : List (BitVec 64 × Nat)) (us : Nat) (s : State) :=
  run (endInstance task outs vals us) s

/-- Whether the watchdog of a task's running instance has expired (R367): WDOG × CYCLE after its activation, or at the CLOSE of its round. -/
def watchdogDue (t : Nat) (s : State) : Bool :=
  match taskDecl t s, (task t s).running with
  | some d, some m =>
    if d.round then s.rnd.phase == .idle || (match (task t s).actRound with | some n => decide (n < s.rnd.number) | none => false)
    else decide (m + d.wdog * d.cycleMs * 1000000 ≤ s.tim.mon)
  | _, _ => false

/-- TASK_WATCHDOG_EXPIRY (R367): every task stops, the program is FAULTED, and the module resigns in a pair (R399). -/
def watchdog (t : Nat) (s : State) : State :=
  if !started s || !watchdogDue t s then s
  else
    let s := { s with cyc := { s.cyc with tasks := s.cyc.tasks.map (fun e => (e.1, { e.2 with running := none })) } }
    let s := setProgState 2 (setF 0x34020 26 24 t s)
    let s := (taskIds s).foldl stopTask s
    let s := progRecord 0x00 t (incReg 0x34038 1 s)
    resign 5 (raise 56 s)

def execTaskWatchdogExpiry (task : Nat) (s : State) := run (watchdog task) s

/-! ## PROG_CTRL -/

/-- A module RESIGNED for a cause that has ended resynchronises (R399), unless it is held. -/
def unresign (cause : Nat) (s : State) : State :=
  if s.dup.state == .resigned && s.dup.resignWhy == cause && !s.dup.held then setRole .syncing s else s

/-- The program runs: each task starts at its first activation after the next round start (R368). -/
def startProg (s : State) : State :=
  let s := { s with cyc := { s.cyc with tasks := (taskIds s).map (fun t => (t, { task t s with held := true, running := none })) } }
  unresign 5 (setProgState 1 s)

/-- PROG_CTRL applied (R368, R384). -/
def applyProgCtrl (cmd : Nat) (s : State) : State :=
  if cmd = 1 then
    if progState s = 0 then startProg s else if progState s = 2 then startProg (coldStart s) else s
  else if cmd = 2 then
    if progState s = 1 then ((taskIds s).filter (fun t => (task t s).running.isNone)).foldl stopTask (setProgState 0 s) else s
  else startProg (coldStart s)

/-- PROG_CTRL (R384): CMD 1 RUN, 2 STOP, 3 COLD_START. -/
def progCtrl (r : Req) (cmd : Nat) (s : State) : State :=
  if refusesPairOp s then finish r 0x81 0 s
  else if cmd = 0 ∨ 3 < cmd then finish r 0x16 0 s
  else if progState s = 3 ∧ cmd ≠ 1 then finish r 0x17 0 s
  else viaPeer r (.progCtrl cmd) 4 (applyProgCtrl cmd) s

/-- The PROG_CTRL descriptor under way at a request, where its CMD is one that a command of this block stands for (R384). -/
def progOp (r : Req) (mine : Nat → Bool) (s : State) : State :=
  inlineOp r 0x0710 4 (fun b s => if mine (leAt b 0 1) then progCtrl r (leAt b 0 1) s else s) s

/-- PROG_RUN (R368): PROG_CTRL with RUN, or with a CMD outside 1 to 3. -/
def execProgRun (r : Req) (s : State) := run (progOp r (fun c => c != 2 && c != 3)) s

/-- PROG_STOP (R368). -/
def execProgStop (r : Req) (s : State) := run (progOp r (fun c => c == 2)) s

/-- PROG_COLD_START (R368). -/
def execProgColdStart (r : Req) (s : State) := run (progOp r (fun c => c == 3)) s

/-! ## Online change -/

/-- VAR_READ (R384). The spec gives no status for an identity that the active program lacks: BAD_PARAM (DESIGN CHOICE, log entry 31). -/
def varRead (r : Req) (i : BitVec 64) (len : Nat) (s : State) : State :=
  match varDecl i s with
  | none => finish r 0x16 0 s
  | some d => output r len (le 8 i.toNat ++ le 1 d.type ++ zeros 7 ++ le 8 (varValue d s)) s

/-- VAR_READ (R384): PARAM holds the identity, the buffer takes at least 16 bytes. -/
def execVarRead (r : Req) (s : State) :=
  run (withOp r [0x0711] none (fun d _ s =>
    if descInl d || decide (d.length < 16) then finish r 0x12 0 s else varRead r (BitVec.ofNat 64 (leAt d.param 0 8)) d.length s)) s

/-- A value as its declaration reads it (R378). -/
def declared (d : VarDecl) (v : Nat) : Int := if d.sgn then signed d.size v else v

/-- The first reason of R378 that refuses a VAR_WRITE or a CONST_WRITE. -/
def changeRefused (const : Bool) (i : BitVec 64) (type v : Nat) (s : State) : Option Nat :=
  match varDecl i s with
  | none => some 1
  | some d =>
    if d.type ≠ type then some 1
    else if !d.elementary || decide (8 < d.size) then some 2
    else if const && (d.kind != .constant || !d.online) then some 3
    else if !const && d.kind == .constant then some 3
    else if declared d v < d.lo ∨ d.hi < declared d v then some 4
    else if d.bound || d.kind == .timer || d.kind == .edge then some 5
    else if const && decide (1024 ≤ s.cyc.overlay.length) && (valIn s.cyc.overlay i).isNone then some 6
    else if progState s = 3 then some 7
    else none

/-- VAR_WRITE applied (R379): at the start of the next instance of the task that uses it. -/
def applyVarWrite (i : BitVec 64) (v : Nat) (s : State) : State :=
  pmcAdd 0x3A 1 { s with cyc := { s.cyc with writes := setVal s.cyc.writes i v } }

/-- CONST_WRITE applied (R379): the value enters the overlay. -/
def applyConstWrite (i : BitVec 64) (v : Nat) (s : State) : State :=
  pmcAdd 0x3A 1 { s with cyc := { s.cyc with overlay := setVal s.cyc.overlay i v } }

/-- VAR_WRITE (R378, R379). -/
def varWrite (r : Req) (i : BitVec 64) (type v : Nat) (s : State) : State :=
  if refusesPairOp s then finish r 0x81 0 s
  else
    match changeRefused false i type v s with
    | some k => finish r 0x58 k s
    | none => viaPeer r (.varWrite i type v) 24 (applyVarWrite i v) s

/-- The identity, TYPE and value of a VAR_WRITE or CONST_WRITE (R384). -/
def changeOf (f : BitVec 64 → Nat → Nat → State → State) (b : Bytes) : State → State :=
  f (BitVec.ofNat 64 (leAt b 0 8)) (leAt b 8 1) (leAt b 0x10 8)

def execVarWrite (r : Req) (s : State) := run (inlineOp r 0x0712 24 (changeOf (varWrite r))) s

/-- CONST_WRITE (R378, R379). -/
def constWrite (r : Req) (i : BitVec 64) (type v : Nat) (s : State) : State :=
  if refusesPairOp s then finish r 0x81 0 s
  else
    match changeRefused true i type v s with
    | some k => finish r 0x58 k s
    | none => viaPeer r (.constWrite i type v) 24 (applyConstWrite i v) s

def execConstWrite (r : Req) (s : State) := run (inlineOp r 0x0713 24 (changeOf (constWrite r))) s

/-! ## Program exchange -/

/-- Whether a model has an identifier (R122). -/
def hasMid (m : ModelImage) (mid : Nat) : Bool :=
  m.nodes.any (fun n => n.mid == mid) || m.branches.any (fun b => b.mid == mid) || m.units.any (fun u => u.mid == mid) ||
    m.meas.any (fun p => p.mid == mid) || m.stations.any (fun d => stnMid d.ident == mid) || m.groups.any (fun g => g.1 == mid) ||
    m.pumpGroups.any (fun g => g.1 == mid)

/-- The first of a list of identifiers that a model lacks. -/
def lacking (m : Option ModelImage) (l : List Nat) : Option Nat :=
  l.find? (fun mid => match m with | some x => !hasMid x mid | none => true)

/-- The earliest round of R131. -/
def earliestRound (s : State) : Nat := s.rnd.number + (if duplex s && s.dup.state != .single then 5 else 2)

/-- Whether a firmware activation is pending (R533). -/
def activationPending (s : State) : Bool := s.upd.state == .activating || s.upd.state == .pending || s.upd.state == .fallingBack

/-- An exchange is scheduled (R380). -/
def applyExchange (sig : BitVec 64) (x : Nat) (r : Option Req) (s : State) : State :=
  { s with cyc := { s.cyc with exch := some { target := x, sig := sig, req := r } } }

/-- PROG_EXCHANGE (R380). In a pair check 7 is the peer's answer, and the peer answers check 8 after it: a TARGET_ROUND below the earliest round
goes there as 0. -/
def progExchange (r : Req) (sig : BitVec 64) (target : Nat) (s : State) : State :=
  if refusesPairOp s then finish r 0x81 0 s
  else if duplex s && (s.dup.isolated || s.dup.peer.isNone) then finish r 0x80 0 s
  else if s.cyc.exch.isSome then finish r 0x17 0 s
  else
    match s.cyc.staged with
    | none => finish r 0x19 1 s
    | some p =>
      if p.sig ≠ sig then finish r 0x19 1 s
      else if (lacking s.model.active p.mids).isSome then finish r 0x19 3 s
      else if s.model.armed.isSome || activationPending s then finish r 0x19 4 s
      else
        let low := target ≠ 0 ∧ target < earliestRound s
        if low ∧ !paired s then finish r 0x19 6 s
        else
          let x := if low then 0 else if target = 0 then earliestRound s else target
          viaPeerLate r (.progExchange sig x) 16 (applyExchange sig x (some r)) s

def execProgExchange (r : Req) (s : State) :=
  run (inlineOp r 0x0714 16 (fun b => progExchange r (BitVec.ofNat 64 (leAt b 0 8)) (leAt b 8 8))) s

/-- The freeze at the write-phase opening of round X - 1 (R381), on the module in control: a running program enters EXCHANGING, and one that does
not run has nothing in progress and stays as it is (DESIGN CHOICE, log entry 98). -/
def exchangeFreeze (s : State) : State :=
  match s.cyc.exch with
  | some e =>
    if e.target = s.rnd.number + 1 ∧ inControl s then
      let s := { s with cyc := { s.cyc with exch := some { e with frozen := true } } }
      if progState s = 1 then setProgState 3 s else s
    else s
  | none => s

/-- An exchange that is over lets the program run on (R368). -/
def endExchanging (s : State) : State := if progState s = 3 then setProgState 1 s else s

/-- How an identity of the new program is filled (R382): carried, retyped or new. -/
inductive Fill where
  | carried (v : Nat) | retyped | fresh
deriving DecidableEq, Repr

/-- R382 for one identity of the new program. -/
def fillOf (old : List VarDecl) (vals : List (BitVec 64 × Nat)) (d : VarDecl) : Fill :=
  match old.find? (fun o => o.ident == d.ident && o.kind != .constant) with
  | some o => if o.type = d.type ∧ o.kind = d.kind then .carried ((valIn vals d.ident).getD (resetVal o)) else .retyped
  | none => .fresh

/-- Whether an overlay constant is carried (R382). -/
def keepsConst (new : List VarDecl) (e : BitVec 64 × Nat) : Bool :=
  new.any (fun d => d.ident == e.1 && d.kind == .constant && d.online && decide (d.lo ≤ declared d e.2) && decide (declared d e.2 ≤ d.hi))

/-- The state of the old program mapped into the new one (R382). -/
def mapProg (new : ProgImage) (old : List VarDecl) (vals overlay : List (BitVec 64 × Nat)) : List (BitVec 64 × Nat) × List (BitVec 64 × Nat) :=
  (freshVals new (fun d => match fillOf old vals d with | .carried v => some v | _ => none), overlay.filter (keepsConst new.vars))

/-- The class of an identity in the exchange record (R383). -/
def classOf (d : VarDecl) : Nat := match d.kind with | .variable => 0 | .timer => 1 | .edge => 2 | .constant => 3

/-- The exchange record (R383). -/
def exchangeRecord (target : Nat) (oldSig : BitVec 64) (new : ProgImage) (old : List VarDecl) (vals overlay : List (BitVec 64 × Nat)) : Bytes :=
  let nv := new.vars.filter (fun d => d.kind != .constant)
  let ov := old.filter (fun d => d.kind != .constant)
  let retyped := nv.filter (fun d => fillOf old vals d == .retyped)
  let fresh := nv.filter (fun d => fillOf old vals d == .fresh)
  let gone := ov.filter (fun o => !nv.any (fun d => d.ident == o.ident))
  let lost := overlay.filter (fun e => !keepsConst new.vars e)
  let carried := nv.length - retyped.length - fresh.length + (overlay.length - lost.length)
  let row := fun (i : BitVec 64) (o c : Nat) => le 8 i.toNat ++ le 1 o ++ le 1 c ++ zeros 2
  le 8 target ++ le 8 oldSig.toNat ++ le 8 new.sig.toNat ++ le 2 carried ++ le 2 retyped.length ++ le 2 fresh.length ++
    le 2 (gone.length + lost.length) ++ retyped.flatMap (fun d => row d.ident 2 (classOf d)) ++ gone.flatMap (fun d => row d.ident 4 (classOf d)) ++
    lost.flatMap (fun e => row e.1 4 3)

/-- EXCHANGE_CAPTURE (R381): the last instance has ended; in a pair the state goes to the standby. -/
def exchangeCapture (s : State) : State :=
  match s.cyc.exch with
  | some e =>
    if !e.frozen || e.captured.isSome || s.cyc.tasks.any (fun t => t.2.running.isSome) then s
    else
      let e := { e with captured := some (s.tim.mon, s.cyc.vals, s.cyc.overlay) }
      let s := pmcAdd 0x3B 1 { s with cyc := { s.cyc with exch := some e } }
      if duplex s && s.dup.state != .single then sendPeer (.exchange e.sig s.tim.net s.cyc.vals s.cyc.overlay) s else s
  | none => s

def execExchangeCapture (s : State) := run exchangeCapture s

/-- EXCHANGE_MAPPED (R381, R382): the module that captured alone maps its own state; the standby maps what the peer sent. -/
def exchangeMapped (got : Option ExchState) (s : State) : State :=
  match s.cyc.exch, s.cyc.staged with
  | some e, some p =>
    let alone := !duplex s || s.dup.state == .single
    let cap := match got with
      | some g => if alone || inControl s then e.captured else some (s.tim.mon + g.net - s.tim.net, g.vals, g.overlay)
      | none => if alone then e.captured else none
    match cap with
    | some (t, v, o) =>
      if e.mapped.isNone then
        { s with cyc := { s.cyc with exch := some { e with captured := some (t, v, o), mapped := some (mapProg p (progVars s) v o) } } }
      else s
    | none => s
  | _, _ => s

def execExchangeMapped (got : Option ExchState) (s : State) := run (exchangeMapped got) s

/-- EXCHANGE_ABANDON (R381): the old program resumes at each task's next activation. -/
def exchangeAbandon (s : State) : State :=
  match s.cyc.exch with
  | some e =>
    if e.mapped.isSome then s
    else
      let s := { s with cyc := { s.cyc with exch := none } }
      let s := endExchanging s
      match e.req with | some r => finish r 0x19 0xA s | none => s
  | none => s

/-- 950 ms after the start of round X - 1 a frozen exchange that is not mapped is abandoned (R381). -/
def abandonDue (s : State) : State :=
  match s.cyc.exch with
  | some e => if e.frozen && decide (s.rnd.anchor + 950000000 ≤ s.tim.mon) then exchangeAbandon s else s
  | none => s

/-- EXCHANGE_ABANDON (R381). -/
def execExchangeAbandon (s : State) := run abandonDue s

/-- The staged program becomes active with given values (R381): each task starts at its first activation. -/
def installProg (p : ProgImage) (vals overlay : List (BitVec 64 × Nat)) (captured : Option Nat) (s : State) : State :=
  let ids := p.tasks.map (·.1)
  { s with cyc := { s.cyc with prog := some p, staged := none, exch := none, vals := vals, overlay := overlay, writes := [], retained := [],
                               tasks := ids.map (fun t => (t, {})),
                               carried := match captured with | some c => ids.map (fun t => (t, c)) | none => [] } }

/-! ## Rounds and restarts -/

/-- A station's input area is published at READ_CLOSE (R370, R373). -/
def publishStation (s : State) (id : Nat) : State :=
  match (stn id s).round.reply with
  | none => s
  | some p =>
    let i32 := fun (v : Int) => BitVec.ofInt 32 v
    let ws : List Word := (List.range 16).map (fun i => lo32 (p.appIn.getD i 0)) ++
      [i32 p.draw, i32 p.tWarm, i32 p.tCool, (match p.pWarm with | some v => i32 v | none => 0x80000000),
       (match p.pCool with | some v => i32 v | none => 0x80000000), lo32 (p.rstat % 65536), lo32 (stnCode id s), lo32 s.rnd.number]
    pmcAdd 0x38 1 (publishArea (stnIn id) s.tim.mon ws s)

/-- The areas of the stations that the round reached (R373). -/
def publishStations (s : State) : State := (stnIds s).foldl publishStation s

/-- Whether an output word has a writer of the program or of a loop (R372). -/
def hasWriter (i : Nat) (s : State) : Bool :=
  (match s.cyc.prog with | some p => p.tasks.any (fun t => t.2.owns.any (fun w => w.1 == i)) | none => false) ||
    s.lpe.loops.any (fun l => match l.2.struct with | some k => k.out.kind == 1 && k.out.ref == i | none => false)

/-- The round engine latches a station's output area at WRITE_OPEN (R370, R375): TEMP_SP and each APP word up to the granted count. -/
def latchOut (s : State) (id : Nat) : State :=
  (List.range 14).foldl (fun s k =>
    let i := stnOut id + k
    let w := outWord i s
    let x := stn id s
    let known := (tget x.vals (k + 1)).isSome
    if !hasWriter i s || (w == 0 && !known) || decide (x.appOut < k) then s
    else publishStn id (k + 1) (if k = 0 then [w.toInt, 0, 0, 0] else [w.toInt, (k - 1 : Nat), 0, 0]) s) s

/-- Tasks that wait for the next round start may run (R368). -/
def releaseTasks (s : State) : State :=
  { s with cyc := { s.cyc with tasks := s.cyc.tasks.map (fun e => (e.1, { e.2 with held := false })) } }

/-- The program at a restart (R368, R376, R377): `bad` lists the tasks whose banks both fail. -/
def restartCyc (warm : Bool) (bad : List Nat) (s : State) : State :=
  let s := bad.foldl (fun s t => evt 14 0xB (argPair 0 t) { s with cyc := { s.cyc with retained := tdel s.cyc.retained t } }) s
  let keep := fun (d : VarDecl) =>
    if d.cls = .persistent ∨ (warm ∧ d.cls = .retain) then valIn (retainedOf d.task s) d.ident else none
  let vals := match s.cyc.prog with | some p => freshVals p keep | none => []
  let s := { s with cyc := { s.cyc with vals := vals, writes := [], carried := [], exch := none, outw := [], inp := [], stamps := [],
                                        tasks := (taskIds s).map (fun t => (t, {})) } }
  let s := setB 0x34020 29 bad.isEmpty s
  if getB 0x34000 0 s && s.cyc.wasRun then startProg s else s

/-- CYC_STAT (R387): STATE, RETAIN_OK and FAULT_TASK are the register's own bits. -/
def cycStat (s : State) : Word :=
  (getReg 0x34020 s &&& 0xE7000000) |||
    BitVec.ofNat 32 (b2n s.cyc.exch.isSome <<< 28 ||| b2n s.cyc.staged.isSome <<< 27 ||| s.cyc.overlay.length)

/-- TASKCFG of a task (R388). -/
def taskCfg (t : Nat) (s : State) : Word :=
  match taskDecl t s with
  | none => 0
  | some d => BitVec.ofNat 32 (1 <<< 31 ||| b2n d.round <<< 30 ||| (if d.round then 0 else d.wdog % 16) <<< 24 ||| (if d.round then 0 else d.cycleMs))

end Sys2Proof.Machine
end

