-- ==== Sys2Proof/Machine/Eth.lean ====
section
/-!
DEFINITION. The Ethernet ports: transmit queues and gates, the HSR ring, MACsec and its key numbers, and received frames (R421 to R430,
R486).
-/
namespace Sys2Proof.Machine

/-! ## Ports -/

/-- A port's state. -/
def eth (p : Nat) (s : State) : EthSt := tgetD s.fio.eths p {}

/-- The state with a port's state replaced. -/
def putEth (p : Nat) (x : EthSt) (s : State) : State := { s with fio := { s.fio with eths := tput s.fio.eths p x } }

/-- FIO_ETHCFG of a port (R447). -/
def ethCfg (p : Nat) : Nat := 0x38400 + 0x40 * p
/-- ETHSTAT of a port (R444). -/
def ethStat (p : Nat) : Nat := 0x38404 + 0x40 * p

/-- FIO_ETHCFG as it reads (R447): ETH1 shows RATE, MACSEC_EN and CIPHER of ETH0; ETH3 shows them and EN as 1. -/
def ethCfgView (p : Nat) (s : State) : Word :=
  let w := getReg (ethCfg p) s
  if p = 1 then (w &&& 0x8FFFFFFF) ||| (getReg (ethCfg 0) s &&& 0x70000000)
  else if p = 3 then w ||| 0xF0000000 else w

/-- Whether a port carries frames: it is enabled and its cage is powered (R54, R447); in the single configuration ETH3 carries none (R15). -/
def ethOn (p : Nat) (s : State) : Bool := bitAt (ethCfgView p s) 31 && cageOn p s && (p != 3 || duplex s)

/-- The event block of the port's performance counters (R518). -/
def ethEvent (p k : Nat) : Nat := 0x5C + 8 * p + k

/-- Frames that a port drops. -/
def ethDrop (p : Nat) (s : State) : State := pmcAdd (ethEvent p 4) 1 (incReg (0x38408 + 0x40 * p) 1 s)

/-- The key slot of a port's MACsec (R481). -/
def portSlot (p : Nat) : Nat := if p = 3 then 5 else if p = 2 then 7 else 6

/-- The MAC address of a port: the ring interface has the first of the block, ETH2 the second, ETH3 the third (R422). -/
def ifMac (p : Nat) (s : State) : Nat := s.cfg.mac + (if p = 2 then 1 else if p = 3 then 2 else 0)

/-- The SCI of a port: its MAC address and port identifier 1 (R427). -/
def ownSci (p : Nat) (s : State) : Nat := ifMac p s * 65536 + 1

/-! ## MACsec -/

/-- Whether MACsec protects a port's traffic (R427, R483): with MACSEC_EN and its key slot READY. -/
def macsecOn (p : Nat) (s : State) : Bool := bitAt (ethCfgView p s) 29

/-- A port that must run MACsec but cannot sends nothing and discards every frame (R484). -/
def macsecDead (p : Nat) (s : State) : Bool := macsecOn p s && (slotState (portSlot p) s != 1 || (eth p s).txAn.isNone)

/-- The place of an SAK in the session table (R481). -/
def sakKey (p sci an : Nat) : Nat := (p * 2 ^ 64 + sci) * 4 + an % 4

/-- An SAK is derived (R485). -/
def deriveSak (p sci an kn : Nat) (s : State) : State :=
  let k := kdf (slotKey (portSlot p) s) labelSak (le 8 sci ++ le 4 kn) (if bitAt (ethCfgView p s) 28 then 256 else 128)
  { s with kst := { s.kst with saks := tput s.kst.saks (sakKey p sci an) k } }

/-- The body of a Key Number Announcement (R486). -/
def knaBody (an sci kn : Nat) : Bytes := le 1 1 ++ le 1 an ++ zeros 2 ++ le 8 sci ++ le 4 kn

/-- Its tag (R486): the first 16 bytes of the HMAC under the KNA key. -/
def knaTag (p sci : Nat) (b : Bytes) (s : State) : Nat :=
  Config.hmac (kdf (slotKey (portSlot p) s) labelKna (le 8 sci) 256) b / 2 ^ 128

/-- A Key Number Announcement of a port (R486), sent without MACsec. -/
def knaTx (p : Nat) (s : State) : State :=
  match (eth p s).txAn with
  | none => s
  | some an =>
    let b := knaBody an (ownSci p s) (tgetD s.kst.kn p 0)
    let f := be 6 0x0180C200000E ++ be 6 (ownSci p s / 65536) ++ be 2 0x88B6 ++ b ++ be 16 (knaTag p (ownSci p s) b s)
    if !ethOn p s then s
    else pmcAdd (ethEvent p 0) 1 (emit (.eth p none none f) (putEth p { eth p s with knaAt := some s.tim.mon } s))

/-- KNA_TX (R486): every 1 s while an association runs. -/
def knaDue (p : Nat) (s : State) : State :=
  match (eth p s).knaAt with
  | some t => if s.tim.mon < t + 1000000000 then s else knaTx p s
  | none => knaTx p s

def execKnaTx (port : Nat) (s : State) := run (knaDue port) s

/-- A new association of a port's transmit channel (R427, R486): KN rises, the next association number and its SAK, and an announcement. -/
def startAssoc (p : Nat) (s : State) : State :=
  if slotState (portSlot p) s ≠ 1 ∨ !keyed s ∧ p = 3 then s
  else
    let an := match (eth p s).txAn with | some a => (a + 1) % 4 | none => 0
    let kn := tgetD s.kst.kn p 0 + 1
    let s := deriveSak p (ownSci p s) an kn { s with kst := { s.kst with kn := tput s.kst.kn p kn } }
    let s := setB (ethStat p) 2 true (putEth p { eth p s with txAn := some an, txPn := 0 } s)
    knaTx p s

/-- MACSEC_REKEY (R427): the transmit packet number reaches C000_0000h. -/
def macsecRekey (p : Nat) (s : State) : State :=
  if (eth p s).txAn.isNone ∨ (eth p s).txPn < 0xC0000000 then s else startAssoc p s

def execMacsecRekey (port : Nat) (s : State) := run (macsecRekey port) s

/-- The highest KN accepted for an SCI; the list holds the one used last first (R486). -/
def hiKn (sci : Nat) (s : State) : Nat := match s.kst.hiKn.find? (fun e => e.1 == sci) with | some e => e.2 | none => 0

/-- KEY_NUMBER_ANNOUNCEMENT (R486): a valid tag and a KN above the highest install the SAK. -/
def knaRx (p an sci kn tag : Nat) (s : State) : State :=
  if slotState (portSlot p) s ≠ 1 ∨ tag ≠ knaTag p sci (knaBody an sci kn) s ∨ kn ≤ hiKn sci s then s
  else
    let l := ((sci, kn) :: s.kst.hiKn.filter (fun e => e.1 != sci)).take 64
    deriveSak p sci an kn { s with kst := { s.kst with hiKn := l } }

def execKeyNumberAnnouncement (port an sci kn tag : Nat) (s : State) := run (knaRx port an sci kn tag) s

/-- Receive channels of a port (R427): 2 on each ring port, 4 elsewhere. -/
def rxLimit (p : Nat) : Nat := if p ≤ 1 then 2 else 4

/-- A protected frame's check (R427): its channel, association and packet number. None where it fails. -/
def macCheck (p sci an pn : Nat) (s : State) : Option (List MacRx) :=
  let x := eth p s
  if (tget s.kst.saks (sakKey p sci an)).isNone then none
  else
    match x.rx.find? (fun c => c.sci == sci) with
    | none => if x.rx.length < rxLimit p then some (x.rx ++ [{ sci := sci, an := an, pn := pn, old := none }]) else none
    | some c =>
      let put := fun (d : MacRx) => x.rx.map (fun e => if e.sci = sci then d else e)
      if c.an = an then if c.pn < pn then some (put { c with pn := pn }) else none
      else
        match c.old with
        | some (a, n, t) => if a = an then (if n < pn then some (put { c with old := some (a, pn, t) }) else none)
                         else if an = (c.an + 1) % 4 then some (put { c with an := an, pn := pn, old := some (c.an, c.pn, s.tim.mon) }) else none
        | none => if an = (c.an + 1) % 4 then some (put { c with an := an, pn := pn, old := some (c.an, c.pn, s.tim.mon) }) else none

/-- MACSEC_OLD_SA_EXPIRY (R427): 2 s after association n + 1 was installed. -/
def oldSaExpiry (p sci : Nat) (s : State) : State :=
  let x := eth p s
  match x.rx.find? (fun c => c.sci == sci) with
  | some { old := some (a, _, t), .. } =>
    if s.tim.mon < t + 2000000000 then s else
    let s := putEth p { x with rx := x.rx.map (fun e => if e.sci = sci then { e with old := none } else e) } s
    { s with kst := { s.kst with saks := tdel s.kst.saks (sakKey p sci a) } }
  | _ => s

def execMacsecOldSaExpiry (port sci : Nat) (s : State) := run (oldSaExpiry port sci) s

/-! ## Sending -/

/-- EtherType of a frame, behind a VLAN tag if it has one, and the offset of what follows. -/
def etherType (b : Bytes) : Nat × Nat := if beAt b 12 2 = 0x8100 then (beAt b 16 2, 18) else (beAt b 12 2, 14)

/-- The UDP source port of a frame, if it is one. -/
def udpSource (b : Bytes) : Option Nat :=
  let t := etherType b
  if t.1 = 0x0800 ∧ beAt b (t.2 + 9) 1 = 17 then some (beAt b (t.2 + 4 * (beAt b t.2 1 % 16)) 2)
  else if t.1 = 0x86DD ∧ beAt b (t.2 + 6) 1 = 17 then some (beAt b (t.2 + 40) 2)
  else none

/-- Whether a frame of the host is refused (R423, R486). -/
def frameRefused (b : Bytes) (s : State) : Bool :=
  [0x88F7, 0x88B5, 0x88B6].contains (etherType b).1 || udpSource b == some s.rnd.port

/-- The largest frame without FCS (R421), with its VLAN tag; the module adds the HSR tag. -/
def largestFrame (b : Bytes) : Nat := if beAt b 12 2 = 0x8100 then 1522 else 1518

/-- FRAME_TX (R423) on a frame: it queues by its TCLASS. -/
def frameTx (r : Req) (launch tclass : Nat) (b : Bytes) (s : State) : State :=
  let p := (r.pair - 34) / 2
  if p = 3 then finish r 0x19 1 s
  else if b.length < 14 ∨ largestFrame b < b.length then finish r 0x12 0 s
  else if s.tim.mon + 1000000000 < launch then finish r 0x16 0 s
  else if 7 < tclass then finish r 0x16 8 s
  else if frameRefused b s then finish r 0x19 3 s
  else
    let x := eth p s
    putEth p { x with queues := x.queues ++ [{ req := r, queue := tclass, launch := launch, data := b }] } s

/-- FRAME_TX (R423): PARAM 00h LAUNCH, 08h TCLASS. -/
def execFrameTx (r : Req) (buf : Bytes) (s : State) :=
  run (withOp r [0x0810] (some buf) (fun d b => frameTx r (leAt d.param 0 8) (leAt d.param 8 1) b)) s

/-- How long queue q stays open from the start of a list of entries. -/
def openFor (q : Nat) : List (Nat × Nat) → Nat
  | [] => 0
  | e :: es => if e.1.testBit q then e.2 + openFor q es else 0

/-- The entries from an offset in the cycle on. -/
def fromOffset : Nat → List (Nat × Nat) → List (Nat × Nat)
  | _, [] => []
  | o, e :: es => if o < e.2 then (e.1, e.2 - o) :: es else fromOffset (o - e.2) es

/-- The cycle of a gate list (R429). -/
def gateCycle (g : GateList) : Nat := (g.entries.map (·.2)).foldl (· + ·) 0

/-- How long a queue's gate stays open from now (R429): none where it never closes. -/
def gateLeft (p q : Nat) (s : State) : Option Nat :=
  match (eth p s).gates with
  | none => none
  | some g =>
    if g.entries.all (fun e => e.1.testBit q) then none
    else
      let base : Int := (g.baseSec * 1000000000 + g.baseNs : Nat)
      let off := (((s.tim.net : Int) - base) % (max 1 (gateCycle g) : Nat)).toNat
      some (openFor q (fromOffset off g.entries ++ g.entries))

/-- The time of a frame on the wire in ns, with FCS and preamble. -/
def wireNs (p len : Nat) (s : State) : Nat :=
  let bits := (max 60 len + 12) * 8
  if bitAt (ethCfgView p s) 30 then bits / 10 else bits

/-- The head of a queue. -/
def queueHead (p q : Nat) (s : State) : Option EthTx := (eth p s).queues.find? (fun t => t.queue == q)

/-- Whether the head of a queue may start now (R423, R429). -/
def mayStart (p q : Nat) (s : State) : Bool :=
  match queueHead p q s with
  | none => false
  | some t => decide (t.launch ≤ s.tim.mon) &&
      (match gateLeft p q s with | some n => decide (wireNs p t.data.length s ≤ n) | none => true)

/-- The head leaves its queue. -/
def dropHead (p : Nat) (t : EthTx) (s : State) : State :=
  let x := eth p s
  putEth p { x with queues := x.queues.erase t } s

/-- The protection that a port's transmit channel gives a frame (R427): the next packet number and the ICV over the SecTAG and the rest. PRESUMED
(IEEE 802.1AE, log entry 75): the SecTAG with the SCI, the nonce of SCI and packet number. -/
def macTag (an : Nat) (sci pn key : Nat) (b : Bytes) : MacTag :=
  let sl := if b.length - 12 < 48 then b.length - 12 else 0
  let aad := b.take 12 ++ be 2 0x88E5 ++ be 1 (0x2C + an % 4) ++ be 1 sl ++ be 4 pn ++ be 8 sci
  { sci := sci, an := an, pn := pn, icv := Config.gcmTag key (sci * 2 ^ 32 + pn) aad (b.drop 12) }

/-- A frame leaves a port that carries frames: protected where the port runs MACsec, with the next packet number (R427). -/
def sendOn (q : Nat) (hsr : Option Nat) (b : Bytes) (s : State) : State :=
  if !ethOn q s || macsecDead q s then s
  else
    let pn := (eth q s).txPn + 1
    let an := (eth q s).txAn.getD 0
    let tag := if macsecOn q s then some (macTag an (ownSci q s) pn (tgetD s.kst.saks (sakKey q (ownSci q s) an) 0) b) else none
    let s := if macsecOn q s then putEth q { eth q s with txPn := pn } s else s
    bwAdd q b.length 0 (pmcAdd (ethEvent q 1) b.length (pmcAdd (ethEvent q 0) 1 (emit (.eth q hsr tag b) s)))

/-- A frame of the module's own goes out, padded to 60 bytes: on the ring, on both ports with one HSR sequence number (R423, R425). -/
def sendOwn (p : Nat) (b : Bytes) (s : State) : State :=
  let b := b ++ zeros (60 - b.length)
  if p ≤ 1 then
    let q := s.fio.hsr.seq
    let s := { s with fio := { s.fio with hsr := { s.fio.hsr with seq := (q + 1) % 65536 } } }
    sendOn 1 (some q) b (sendOn 0 (some q) b s)
  else sendOn p none b s

/-- FRAME_LAUNCH (R423, R429): the head of a queue is sent, or completes with TX_LATE when its LAUNCH lies more than 1 µs in the past; it waits
behind a gate and behind a higher queue that may start. -/
def frameLaunch (p q : Nat) (s : State) : State :=
  match queueHead p q s with
  | none => s
  | some t =>
    if t.launch ≠ 0 ∧ t.launch + 1000 < s.tim.mon then
      finish t.req 0x88 0 (incReg (0x38410 + 0x40 * p) 1 (dropHead p t s))
    else if !mayStart p q s then
      if t.launch ≠ 0 ∧ t.launch ≤ s.tim.mon then pmcAdd (ethEvent p 6) 1 s else s
    else if ((List.range 8).filter (fun k => decide (q < k))).any (fun k => mayStart p k s) || !ethOn p s || macsecDead p s then s
    else complete t.req 0x00 0 t.data.length [] (sendOwn p t.data (dropHead p t s))

def execFrameLaunch (port queue : Nat) (s : State) := run (frameLaunch port queue) s

/-- GCL_LOAD (R423, R429) of a list. -/
def gclLoad (r : Req) (g : GateList) (s : State) : State :=
  let p := (r.pair - 34) / 2
  let n := g.entries.length
  let c := gateCycle g
  if p = 3 then finish r 0x19 1 s
  else if n = 0 then complete r 0x00 0 16 [] (putEth p { eth p s with gates := none, nextGates := none } s)
  else if 256 < n ∨ c < 1000 ∨ 1000000000 < c then finish r 0x16 0 s
  else complete r 0x00 0 (16 + 8 * n) [] (putEth p { eth p s with nextGates := some (g, s.tim.net) } s)

/-- A gate list as its buffer holds it (R423). -/
def readGates (b : Bytes) : GateList :=
  { baseSec := leAt b 0 6, baseNs := leAt b 6 4,
    entries := (List.range (min (leAt b 12 4) 257)).map (fun k => (leAt b (16 + 8 * k) 1, leAt b (20 + 8 * k) 4)) }

/-- GCL_LOAD (R423): LENGTH is 16 + 8 × ENTRIES. -/
def execGclLoad (r : Req) (buf : Bytes) (s : State) :=
  run (withOp r [0x0811] (some buf) (fun d b => if d.length ≠ 16 + 8 * leAt b 12 4 then finish r 0x12 0 else gclLoad r (readGates b))) s

/-- The first instant BASE_TIME + k × cycle of a list at or after a NET time (R429). -/
def gateStart (g : GateList) (t : Nat) : Nat :=
  let base := g.baseSec * 1000000000 + g.baseNs
  let c := max 1 (gateCycle g)
  if t ≤ base then base - (base - t) / c * c else base + (t - base + c - 1) / c * c

/-- GCL_OPERATIONAL (R429): at the first cycle start that lies at least one old cycle after the load. -/
def gclOperational (p : Nat) (s : State) : State :=
  let x := eth p s
  match x.nextGates with
  | none => s
  | some (g, t) =>
    let old := match x.gates with | some o => gateCycle o | none => 0
    if s.tim.net < gateStart g (t + old) then s else putEth p { x with gates := some g, nextGates := none } s

def execGclOperational (port : Nat) (s : State) := run (gclOperational port) s

/-! ## The ring -/

/-- Whether an SFP+ module is one for 1000BASE-X only. PRESUMED (SFF-8472, log entry 76): byte 3 names no 10G Ethernet and byte 6 a Gigabit one. -/
def sfpGigabit (p : Nat) (s : State) : Bool :=
  let b := tgetD s.pwr.sfpPage p []
  leAt b 3 1 / 16 == 0 && leAt b 6 1 % 16 != 0

/-- RING_PORT_LINK_CHANGE (R426): ETHSTAT, FIO_HSRSTAT, the ring source and a record. No link comes up on a port that carries no frames (R54), nor with a
1000BASE-X module on ETH3, which is recorded (R391). -/
def ringLink (p : Nat) (up : Bool) (s : State) : State :=
  if 4 ≤ p ∨ getB (ethStat p) 0 s = up ∨ (up && !ethOn p s) = true then s
  else if up && p == 3 && sfpGigabit p s then evt 15 6 (p <<< 40) s
  else
    let s := setB (ethStat p) 1 (bitAt (ethCfgView p s) 30) (setB (ethStat p) 0 up s)
    if 2 ≤ p then s
    else
      let s := setB 0x38600 p up s
      let s := setCond 66 (!(getB 0x38600 0 s && getB 0x38600 1 s)) s
      evt 15 2 (argState p (b2n (!up)) (b2n up) 0) s

def execRingPortLinkChange (port : Nat) (up : Bool) (s : State) := run (ringLink port up) s

/-- HSR_SUPERVISION_TX (R425): a supervision frame every 2 s, on both ring ports with one sequence number. -/
def supervisionTx (s : State) : State :=
  let h := s.fio.hsr
  let soon := match h.supAt with | some t => decide (s.tim.mon < t + 2000000000) | none => false
  if soon || s.start.blkRst.contains .fio then s
  else
    let s := { s with fio := { s.fio with hsr := { h with seq := (h.seq + 1) % 65536, supAt := some s.tim.mon } } }
    [0, 1].foldl (fun s p =>
      if ethOn p s && !macsecDead p s then
        let s := if macsecOn p s then putEth p { eth p s with txPn := (eth p s).txPn + 1 } s else s
        pmcAdd (ethEvent p 0) 1 (emit (.reply p 3 h.seq) s)
      else s) s

def execHsrSupervisionTx (s : State) := run supervisionTx s

/-- FIO_HSRSTAT's count of the node table (R444). -/
def countNodes (s : State) : State := setF 0x38600 31 16 s.fio.hsr.nodes.length s

/-- HSR_ENTRY_EXPIRY (R425): duplicate-table entries of 400 ms and node-table entries of 60 s are forgotten. -/
def hsrExpiry (s : State) : State :=
  let h := s.fio.hsr
  let seen := h.seen.filter (fun e => decide (s.tim.mon < e.2.2 + 400000000))
  let nodes := h.nodes.filter (fun e => decide (s.tim.mon < e.2 + 60000000000))
  countNodes { s with fio := { s.fio with hsr := { h with seen := seen, nodes := nodes } } }

def execHsrEntryExpiry (s : State) := run hsrExpiry s

/-- NO_PEERS (R426): no supervision frame from another node for 6 s. -/
def noPeers (p : Nat) (s : State) : State :=
  if 2 ≤ p ∨ s.tim.mon < (eth p s).lastSup + 6000000000 then s else setB 0x38600 (2 + p) true s

def execNoPeers (port : Nat) (s : State) := run (noPeers port) s

/-! ## What a frame is -/

/-- The source address of a frame. -/
def frameSrc (f : EthFrame) : Nat := beAt f.data 6 6

/-- Whether a frame goes to the module's own address on a port. -/
def toOwn (p : Nat) (f : EthFrame) (s : State) : Bool := beAt f.data 0 6 == ifMac p s

/-- Whether a frame goes to a group address. -/
def toGroup (f : EthFrame) : Bool := beAt f.data 0 1 % 2 == 1

/-- Whether a frame is addressed to the module. -/
def toModule (p : Nat) (f : EthFrame) (s : State) : Bool := toOwn p f s || toGroup f

/-- The EtherType of a frame. -/
def frameType (f : EthFrame) : Nat := (etherType f.data).1

/-- The addresses of the interface that a port belongs to (R422). -/
def ifAddr (p : Nat) (s : State) : IfAddr := tgetD s.cfg.ifs (if p ≤ 1 then 0 else p) {}

/-- The IPv6 link-local address of an interface, formed from its MAC address as a modified EUI-64 (R422). -/
def linkLocal (mac : Nat) : Nat :=
  0xFE80 * 2 ^ 112 + ((mac / 2 ^ 24) ^^^ 0x020000) * 2 ^ 40 + 0xFFFE * 2 ^ 24 + mac % 2 ^ 24

/-- Whether an IPv4 address is the interface's. -/
def ownV4 (p a : Nat) (s : State) : Bool := (ifAddr p s).v4 == some a

/-- Whether an IPv6 address is the interface's. -/
def ownV6 (p a : Nat) (s : State) : Bool := a == linkLocal (ifMac p s) || (ifAddr p s).v6.contains a

/-- The protocol of an IP frame, where its header follows, its source address, and whether its destination is the interface's. -/
def ipPart (p : Nat) (b : Bytes) (s : State) : Option (Nat × Nat × Nat × Bool) :=
  let t := etherType b
  if t.1 = 0x0800 then some (beAt b (t.2 + 9) 1, t.2 + 4 * (beAt b t.2 1 % 16), beAt b (t.2 + 12) 4, ownV4 p (beAt b (t.2 + 16) 4) s)
  else if t.1 = 0x86DD then some (beAt b (t.2 + 6) 1, t.2 + 40, beAt b (t.2 + 8) 16, ownV6 p (beAt b (t.2 + 24) 16) s)
  else none

/-- Whether a frame is an echo request to the interface (R422): ICMP type 8, ICMPv6 type 128. -/
def isEcho (p : Nat) (b : Bytes) (s : State) : Bool :=
  match ipPart p b s with
  | some (proto, off, _, own) => own && ((proto == 1 && beAt b off 1 == 8) || (proto == 58 && beAt b off 1 == 128))
  | none => false

/-- Whether a frame asks for the interface's MAC address (R422): an ARP request, or an IPv6 neighbour solicitation. -/
def isResolve (p : Nat) (b : Bytes) (s : State) : Bool :=
  let t := etherType b
  (t.1 == 0x0806 && beAt b (t.2 + 6) 2 == 1 && ownV4 p (beAt b (t.2 + 24) 4) s) ||
    (t.1 == 0x86DD && beAt b (t.2 + 6) 1 == 58 && beAt b (t.2 + 40) 1 == 135 && ownV6 p (beAt b (t.2 + 48) 16) s)

/-- The ports and the payload of a UDP datagram to the interface. -/
def udpPart (p : Nat) (b : Bytes) (s : State) : Option (Nat × Nat × Nat × Bytes) :=
  match ipPart p b s with
  | some (17, off, ip, true) => some (ip, beAt b off 2, beAt b (off + 2) 2, b.drop (off + 8))
  | _ => none

/-- Whether a frame is a PTP message (R428): EtherType 88F7h, or UDP port 319 or 320. -/
def isPtp (b : Bytes) : Bool :=
  let t := etherType b
  let port := if t.1 = 0x0800 ∧ beAt b (t.2 + 9) 1 = 17 then beAt b (t.2 + 4 * (beAt b t.2 1 % 16) + 2) 2
    else if t.1 = 0x86DD ∧ beAt b (t.2 + 6) 1 = 17 then beAt b (t.2 + 42) 2 else 0
  t.1 == 0x88F7 || port == 319 || port == 320

/-- Whether a frame is a Plynu datagram to the interface (R326). -/
def isPlynu (p : Nat) (b : Bytes) (s : State) : Bool :=
  match udpPart p b s with | some (_, _, dst, _) => dst == s.rnd.port | none => false

/-- The acknowledgement of a plant channel bound to ETH2 (R430): the channel and input words 0 to 3. -/
def ackFrame (b : Bytes) (s : State) : Option (Nat × List Word) :=
  match udpPart 2 b s with
  | some (ip, src, _, d) =>
    let u := leAt d 4 2
    if leAt d 0 2 = 0x4350 ∧ leAt d 2 1 = 1 ∧ leAt d 3 1 = 2 ∧ 28 ≤ d.length ∧ tget s.cfg.plantBind u = some (.eth2 ip src) then
      some (u, (List.range 4).map (fun i => lo32 (leAt d (12 + 4 * i) 4)))
    else none
  | none => none

/-! ## The ring's frames -/

/-- A tagged frame on the ring (R425): none where it is a duplicate. -/
def ringSeen (f : EthFrame) (q : Nat) (s : State) : Option State :=
  let h := s.fio.hsr
  if h.seen.any (fun e => e.1 == frameSrc f && e.2.1 == q && decide (s.tim.mon < e.2.2 + 400000000)) then none
  else
    let l := h.seen ++ [(frameSrc f, q, s.tim.mon)]
    some { s with fio := { s.fio with hsr := { h with seen := l.drop (l.length - 4096) } } }

/-- A supervision frame of another node (R425, R426). -/
def supervisionRx (p src : Nat) (s : State) : State :=
  let h := s.fio.hsr
  let l := h.nodes.filter (fun e => e.1 != src) ++ [(src, s.tim.mon)]
  let s := { s with fio := { s.fio with hsr := { h with nodes := l.drop (l.length - 4096) } } }
  countNodes (setB 0x38600 (2 + p) false (putEth p { eth p s with lastSup := s.tim.mon } s))

/-- Whether a frame is an HSR supervision frame. PRESUMED (IEC 62439-3, log entry 77): EtherType 88FBh. -/
def isSupervision (f : EthFrame) : Bool := frameType f == 0x88FB

/-- A frame passes to the other ring port with its HSR tag (R425). -/
def forwardFrame (p : Nat) (f : EthFrame) (s : State) : State := sendOn (1 - p) f.hsr f.data s

/-! ## Receiving -/

/-- A frame that the host takes (R424): the 16-byte header and the frame. -/
def frameItem (p : Nat) (f : EthFrame) (s : State) : Bytes :=
  le 6 (s.tim.net / 1000000000) ++ le 4 (s.tim.net % 1000000000) ++ le 2 (s.tim.netF / 2 ^ 16) ++ le 1 p ++
    le 1 (b2n f.macsec.isSome + 2 * b2n (!toModule p f s)) ++ zeros 2 ++ f.data

/-- An echo request (R422): at most 10 replies in a second on an interface. -/
def echoRx (p : Nat) (s : State) : State :=
  let q := if p ≤ 1 then 0 else p
  let recent := (eth q s).echoes.filter (fun t => decide (s.tim.mon < t + 1000000000))
  if 10 ≤ recent.length then putEth q { eth q s with echoes := recent } s
  else emit (.reply p 2 0) (putEth q { eth q s with echoes := recent ++ [s.tim.mon] } s)

/-- Whether the module consumes a frame itself (R422, R421). -/
def consumed (p : Nat) (f : EthFrame) (s : State) : Bool :=
  (decide (p ≤ 1) && isPlynu p f.data s) || (decide (p ≤ 2) && isPtp f.data) || (p == 2 && (ackFrame f.data s).isSome) || p == 3 ||
    (decide (p ≤ 1) && isSupervision f) || frameType f == 0x88B6

/-- A frame that has passed the checks of its port. -/
def frameIn (p : Nat) (f : EthFrame) (s : State) : State :=
  let s := if p ≤ 1 && isSupervision f then supervisionRx p (frameSrc f) s else s
  let s := if p ≤ 1 && !toOwn p f s then forwardFrame p f s else s
  let s := if p = 2 && isPtp f.data then pmcAdd (ethEvent 2 7) 1 s else s
  let mode := fld (ethCfgView p s) 27 26
  if toModule p f s && p != 3 && isEcho p f.data s then echoRx p s
  else if toModule p f s && p != 3 && isResolve p f.data s then emit (.reply p 1 0) s
  else if toModule p f s && consumed p f s then
    match (if p = 2 then ackFrame f.data s else none) with | some (u, ws) => plantAck u ws s | none => s
  else if p != 3 && ((toModule p f s && mode != 0) || (!toModule p f s && decide (2 ≤ mode))) then deliver (35 + 2 * p) (frameItem p f s) s
  else s

/-- A frame on a ring port (R425): the module's own returns and goes no further; one without an HSR tag and a duplicate are counted. -/
def ringFrame (p : Nat) (f : EthFrame) (s : State) : State :=
  if frameSrc f = ifMac p s then s
  else
    match f.hsr with
    | none => incReg 0x38608 1 s
    | some q =>
      match ringSeen f q s with
      | none => pmcAdd (ethEvent p 7) 1 (incReg 0x38604 1 s)
      | some s => frameIn p f s

/-- A frame that its port's checks leave. -/
def portFrame (p : Nat) (f : EthFrame) (s : State) : State := if p ≤ 1 then ringFrame p f s else frameIn p f s

/-- A frame that fails MACsec (R427). -/
def macFail (p : Nat) (s : State) : State := pmcAdd (ethEvent p 5) 1 (incReg (0x3840C + 0x40 * p) 1 s)

/-- A frame on a port that runs MACsec (R427): one that is unprotected, or whose check fails, is discarded and counted. -/
def protectedFrame (p : Nat) (f : EthFrame) (s : State) : State :=
  match f.macsec with
  | none => macFail p s
  | some t =>
    match tget s.kst.saks (sakKey p t.sci t.an) with
    | none => macFail p s
    | some key =>
      if macsecDead p s || (macTag t.an t.sci t.pn key f.data).icv != t.icv then macFail p s
      else
        match macCheck p t.sci t.an t.pn s with
        | none => macFail p s
        | some l => portFrame p f (putEth p { eth p s with rx := l } s)

/-- ETH_FRAME_RX (R421 to R427, R430). -/
def ethRx (p : Nat) (f : EthFrame) (s : State) : State :=
  if 4 ≤ p ∨ !ethOn p s ∨ s.start.blkRst.contains .fio then s
  else if f.badFcs then ethDrop p s
  else
    let n := f.data.length
    let s := bwAdd p 0 n (pmcAdd (ethEvent p 3) n (pmcAdd (ethEvent p 2) 1 s))
    if frameType f = 0x8808 then ethDrop p s
    else if macsecOn p s && frameType f != 0x88B6 then protectedFrame p f s
    else portFrame p f s

def execEthFrameRx (port : Nat) (f : EthFrame) (s : State) := run (ethRx port f) s

/-- A port starts, or is reset (R486): its transmit channel opens a new association. -/
def ethEnable (p : Nat) (s : State) : State :=
  let s := setB (ethStat p) 2 false (putEth p { eth p s with txAn := none, txPn := 0, rx := [] } s)
  if ethOn p s && macsecOn p s then startAssoc p s else s

end Sys2Proof.Machine
end

