-- ==== Sys2Proof/Machine/Can.lean ====
section
/-!
DEFINITION. The CAN FD controllers, their node bindings and the schedule matrix (R431 to R439), and the digital channels (R440 to R443).
-/
namespace Sys2Proof.Machine

/-! ## Receiving -/

/-- STATE of FIO_CANSTAT (R449): 0 error active, 1 error passive, 2 bus-off, 3 sleep. -/
def canMode (c : Nat) (s : State) : Nat := getF (canStatReg c) 31 30 s

/-- Whether a controller is on the bus (R438, R439, R448). -/
def canOnBus (c : Nat) (s : State) : Bool :=
  getB (canCfgReg c) 31 s && decide (canMode c s ≤ 1) && canAwake c s && !s.start.blkRst.contains .fio

/-- CANn_STB (R47, R439): high puts the transceiver into standby. -/
def canStb (c : Nat) (s : State) : Bool := canMode c s == 3

/-- A received frame of a node (R433): NEW with the data, or an unchanged alive byte. None where the copy is discarded. -/
def takeRx (x : CanRxSt) (b : CanRx) (f : CanFrame) : Option CanRxSt :=
  match b.alive with
  | some i => if x.alive = some (f.data.getD i 0) then none else some { isNew := true, data := f.data, alive := some (f.data.getD i 0) }
  | none => some { x with isNew := true, data := f.data }

/-- The words of a node's area, from the held copies of its frames (R432). -/
def nodeWords (n : CanNode) (s : State) : List Word :=
  let x := can n.ch s
  (List.range 16).map (fun w =>
    match ((n.rx.zipIdx).flatMap (fun e => e.1.map.map (fun m => (e.2, m)))).find? (fun e => e.2.2.2 == w) with
    | some (k, off, len, _) => lo32 (leAt (tgetD x.rx (n.node * 4 + k) {}).data off len)
    | none => 0)

/-- A node whose frames have all come with new data publishes its area (R433); a plant channel's acknowledgement is its first frame (R430, R432). -/
def publishCan (n : CanNode) (s : State) : State :=
  let x := can n.ch s
  let keys := (List.range n.rx.length).map (fun k => n.node * 4 + k)
  if n.rx.isEmpty || !keys.all (fun k => (tgetD x.rx k {}).isNew) then s
  else
    let ws := nodeWords n s
    let ack := (tgetD x.rx (n.node * 4) {}).data
    let rx := keys.foldl (fun t k => tput t k { tgetD t k {} with isNew := false }) x.rx
    let s := pmcAdd 0x37 1 (publishArea (canArea n.ch n.node) s.tim.mon ws (putCan n.ch { x with rx := rx } s))
    match n.plant with
    | some u => plantAck u ((List.range 4).map (fun i => lo32 (leAt ack (4 * i) 4))) s
    | none => s

/-- A received frame for one binding. -/
def bindRx (f : CanFrame) (n : CanNode) (s : State) (k : Nat) : State :=
  match n.rx[k]? with
  | none => s
  | some b =>
    if b.ident ≠ f.ident then s
    else
      let x := can n.ch s
      match takeRx (tgetD x.rx (n.node * 4 + k) {}) b f with
      | none => incReg (0x3880C + 0x40 * n.ch) 1 s
      | some y => publishCan n (putCan n.ch { x with rx := tput x.rx (n.node * 4 + k) y } s)

/-- The item of a frame that no binding consumes (R431). -/
def canItem (f : CanFrame) (s : State) : Bytes :=
  le 8 (busNs s) ++ le 4 f.ident ++ le 1 (b2n f.fd + 2 * b2n f.brs + 4 * b2n f.esi) ++ le 1 f.data.length ++ zeros 2 ++ f.data ++
    zeros (64 - f.data.length)

/-- CAN_FRAME_RX (R431, R433). -/
def canRx (c : Nat) (f : CanFrame) (s : State) : State :=
  if 4 ≤ c ∨ !canOnBus c s then s
  else
    let s := pmcAdd (0x7D + 3 * c) 1 s
    if f.remote then incReg (0x38810 + 0x40 * c) 1 s
    else
      let s := setF (canStatReg c) 15 8 (getF (canStatReg c) 15 8 s - 1) s
      let mine := (canNodes c s).filter (fun n => n.rx.any (fun b => b.ident == f.ident))
      if mine.isEmpty then
        if bitAt (can c s).inForce 28 then deliver (42 + c) (canItem f s) s else s
      else mine.foldl (fun s n => (List.range n.rx.length).foldl (bindRx f n) s) s

def execCanFrameRx (ch : Nat) (f : CanFrame) (s : State) := run (canRx ch f) s

/-- CAN_NODE_TIMEOUT (R374): without a publication for 3 node periods the area is INVALID until its next one. -/
def canNodeTimeout (c node : Nat) (s : State) : State :=
  let late := match tget s.cyc.stamps (canArea c node) with
    | some t => decide (t + 3 * tgetD s.cfg.nodePeriod (canArea c node) 0 * 1000000 ≤ s.tim.mon)
    | none => false
  if !late then s else { s with cyc := { s.cyc with stamps := tdel s.cyc.stamps (canArea c node) } }

def execCanNodeTimeout (ch node : Nat) (s : State) := run (canNodeTimeout ch node) s

/-! ## Sending -/

/-- Pending frames of a channel end with a status. -/
def endPending (c st : Nat) (s : State) : State :=
  let x := can c s
  x.pend.foldl (fun s t =>
    let s := finish t.req st 0 s
    match t.cancel with | some k => complete k 0x00 0 8 [] s | none => s) (putCan c { x with pend := [] } s)

/-- A sleeping channel wakes (R439), with a record that names the cause: 1 CANn_WAKE_N, 2 CAN_WAKE, 3 a CAN_TX. -/
def wakeCan (c cause : Nat) (s : State) : State :=
  if canMode c s ≠ 3 then s
  else evt 15 2 (argState c 3 0 cause) (putCan c { can c s with wokeAt := some s.tim.mon } (setF (canStatReg c) 31 30 0 s))

/-- The pending frame in arbitration: that of the lowest identifier on a channel that may drive the bus (R436). -/
def inArbitration (c : Nat) (s : State) : Option CanTx :=
  if !canLive c s then none
  else (can c s).pend.foldl (fun b t => match b with
    | none => some t
    | some u => if t.frame.ident % 2 ^ 31 < u.frame.ident % 2 ^ 31 then some t else some u) none

/-- The lengths of a CAN FD frame. -/
def canLenOk (fd : Bool) (n : Nat) : Bool := decide (n ≤ 8) || (fd && [12, 16, 20, 24, 32, 48, 64].contains n)

/-- CAN_TX (R436) of a frame: it queues, and wakes a sleeping channel (R439). -/
def canTx (r : Req) (tag deadline : Nat) (f : CanFrame) (s : State) : State :=
  let c := r.pair - 42
  if !canLenOk f.fd f.data.length || (f.fd && !bitAt (can c s).inForce 30) || f.remote then finish r 0x16 4 s
  else
    let s := wakeCan c 3 s
    let x := can c s
    putCan c { x with pend := x.pend ++ [{ req := r, tag := tag, frame := f, deadline := deadline, cancel := none }] } s

/-- A CAN frame as the buffer of CAN_TX holds it (R436). -/
def readCan (b : Bytes) : CanFrame :=
  let fl := leAt b 4 1
  { ident := leAt b 0 4, fd := fl % 2 == 1, brs := fl / 2 % 2 == 1, esi := fl / 4 % 2 == 1, remote := false, data := slice b 8 (leAt b 5 1) }

/-- CAN_TX (R436): LENGTH is 8 + LEN. -/
def execCanTx (r : Req) (buf : Bytes) (s : State) :=
  run (withOp r [0x0910] (some buf) (fun d b =>
    if d.length ≠ 8 + leAt b 5 1 then finish r 0x12 0 else canTx r d.userTag d.deadline (readCan b))) s

/-- A pending frame leaves its channel. -/
def dropTx (c : Nat) (t : CanTx) (s : State) : State := putCan c { can c s with pend := (can c s).pend.erase t } s

/-- A frame sent well takes one from the transmit error count. -/
def txGood (c : Nat) (s : State) : State := setF (canStatReg c) 23 16 (getF (canStatReg c) 23 16 s - 1) s

/-- CAN_TX_DONE (R434, R436, R437): a frame is sent, or loses arbitration. -/
def canTxDone (c : Nat) (i : CanItem) (how : CanDone) (s : State) : State :=
  if !canLive c s then s
  else
    match i with
    | .cell k =>
      match (can c s).cells.find? (fun e => e.1 == k), how with
      | some e, .sent => txGood c (canSend c e.2.1 (putCan c { can c s with cells := (can c s).cells.filter (fun x => x.1 != k) } s))
      | _, _ => s
    | .host tag =>
      match (can c s).pend.find? (fun t => t.tag == tag) with
      | none => s
      | some t =>
        match how with
        | .sent =>
          let s := txGood c (canSend c t.frame (dropTx c t s))
          let s := complete t.req 0x00 0 (8 + t.frame.data.length) [] s
          (match t.cancel with | some k => finish k 0x17 0 s | none => s)
        | .lostArbitration =>
          match t.cancel with
          | some k => complete k 0x00 0 8 [] (finish t.req 0x89 0 (dropTx c t s))
          | none => s

def execCanTxDone (ch : Nat) (i : CanItem) (how : CanDone) (s : State) := run (canTxDone ch i how) s

/-- CAN_TX_DEADLINE (R436). -/
def canTxDeadline (c tag : Nat) (s : State) : State :=
  match (can c s).pend.find? (fun t => t.tag == tag && t.deadline != 0 && decide (t.deadline ≤ s.tim.mon)) with
  | some t =>
    let s := finish t.req 0x88 0 (dropTx c t s)
    match t.cancel with | some k => complete k 0x00 0 8 [] s | none => s
  | none => s

def execCanTxDeadline (ch tag : Nat) (s : State) := run (canTxDeadline ch tag) s

/-- CAN_CANCEL (R437). -/
def canCancel (r : Req) (tag : Nat) (s : State) : State :=
  let c := r.pair - 42
  match (can c s).pend.find? (fun t => t.tag == tag) with
  | none => finish r 0x16 0 s
  | some t =>
    if inArbitration c s = some t then
      putCan c { can c s with pend := (can c s).pend.map (fun u => if u = t then { u with cancel := some r } else u) } s
    else complete r 0x00 0 8 [] (finish t.req 0x89 0 (dropTx c t s))

def execCanCancel (r : Req) (s : State) := run (inlineOp r 0x0911 8 (fun b => canCancel r (leAt b 0 8))) s

/-! ## The schedule matrix -/

/-- FIO_CANSTAT's view of the active matrix (R449). -/
def showMatrix (c : Nat) (s : State) : State :=
  let n := match (can c s).matrix with | some m => m.cols | none => 0
  setF (canStatReg c) 5 0 n (setB (canStatReg c) 28 (n != 0) s)

/-- A matrix whose fields are in range (R434, R435). -/
def matrixOk (m : Matrix) (objs : Nat) : Bool :=
  within m.baseUs 500 100000 && [1, 2, 4, 8].contains m.rows && decide (m.cols ≤ 32) && m.start.length == m.cols &&
    m.cells.length == m.rows * m.cols && (m.start.zip (m.start.drop 1)).all (fun e => decide (e.1 < e.2)) && m.start.all (fun t => decide (t < m.baseUs)) &&
    m.cells.all (fun k => match k with | some i => decide (i < objs) | none => true)

/-- The width of column j in µs (R434). -/
def windowUs (m : Matrix) (j : Nat) : Nat := m.start.getD (j + 1) m.baseUs - m.start.getD j 0

/-- A cell whose window is narrower than its object (R435). -/
def tooNarrow (c : Nat) (m : Matrix) (s : State) : Bool :=
  (m.cells.zipIdx).any (fun e => match e.1 with
    | some k => (match (canObjs c s)[k]? with | some (_, o) => decide (windowUs m (e.2 % m.cols) < o.wcttUs) | none => false)
    | none => false)

/-- The active matrix changes. -/
def putMatrix (c : Nat) (m : Matrix) (s : State) : State :=
  showMatrix c (putCan c { can c s with matrix := some m, next := none, cells := [] } s)

/-- SCHED_LOAD (R435, R436) of a matrix: at the old matrix's next cycle boundary, at once where none is active. -/
def schedLoad (r : Req) (m : Matrix) (s : State) : State :=
  let c := r.pair - 42
  if !matrixOk m (canObjs c s).length then finish r 0x16 0 s
  else if tooNarrow c m s then finish r 0x19 2 s
  else
    let active := match (can c s).matrix with | some o => o.cols != 0 | none => false
    let s := if active then putCan c { can c s with next := some m } s else putMatrix c m s
    complete r 0x00 0 (16 + 4 * m.cols + m.rows * m.cols) [] s

/-- A matrix as the buffer of SCHED_LOAD holds it (R436). -/
def readMatrix (b : Bytes) : Matrix :=
  let rows := leAt b 4 1
  let cols := leAt b 5 1
  { baseUs := leAt b 0 4, rows := rows, cols := cols, start := (List.range cols).map (fun j => leAt b (16 + 4 * j) 4),
    cells := (List.range (rows * cols)).map (fun k => let v := leAt b (16 + 4 * cols + k) 1; if v = 0xFF then none else some v) }

/-- SCHED_LOAD (R436): LENGTH is 16 + 4 × COLS + ROWS × COLS. -/
def execSchedLoad (r : Req) (buf : Bytes) (s : State) :=
  run (withOp r [0x0912] (some buf) (fun d b =>
    if d.length ≠ 16 + 4 * leAt b 5 1 + leAt b 4 1 * leAt b 5 1 then finish r 0x12 0 else schedLoad r (readMatrix b))) s

/-- Where a matrix stands in its cycle, in ns of BUS (R434). -/
def matrixPos (m : Matrix) (s : State) : Nat := busNs s % max 1 (m.rows * m.baseUs * 1000)

/-- When the window of a cell opens, in ns of the matrix cycle. -/
def cellStart (m : Matrix) (row col : Nat) : Nat := (row * m.baseUs + m.start.getD col 0) * 1000

/-- Whether BUS stands in the window of a cell, once the matrix runs again after an adjustment (R461). -/
def inWindow (m : Matrix) (from_ row col : Nat) (s : State) : Bool :=
  decide (row < m.rows) && decide (col < m.cols) && decide (from_ ≤ busNs s) && decide (cellStart m row col ≤ matrixPos m s) &&
    decide (matrixPos m s < cellStart m row col + windowUs m col * 1000)

/-- SCHED_CELL_OPEN (R434) in the cell's window: the object's data is taken and its transmission requested, to be dropped at the window's end less its
transmission time; row 0 begins a matrix cycle, where a loaded matrix takes over. -/
def cellOpen (c row col : Nat) (s : State) : State :=
  let s := match (can c s).next with | some m => if row = 0 then putMatrix c m s else s | none => s
  match (can c s).matrix with
  | none => s
  | some m =>
    match (if inWindow m (can c s).busFrom row col s then m.cells[row * m.cols + col]? else none) with
    | some (some k) =>
      (match (canObjs c s)[k]? with
       | some (n, o) =>
         let drop := busNs s - matrixPos m s + cellStart m row col + (windowUs m col - o.wcttUs) * 1000
         if canLive c s then putCan c { can c s with cells := (can c s).cells.filter (fun e => e.1 != k) ++ [(k, objFrame c n o s, drop)] } s else s
       | none => s)
    | _ => s

def execSchedCellOpen (ch row col : Nat) (s : State) := run (cellOpen ch row col) s

/-- SCHED_WINDOW_DROP (R434): MISSED, and a record at most once in 10 s. -/
def windowDrop (c k : Nat) (s : State) : State :=
  let x := can c s
  if !x.cells.any (fun e => e.1 == k && decide (e.2.2 ≤ busNs s)) then s
  else
    let s := pmcAdd (0x7E + 3 * c) 1 (incReg (0x38808 + 0x40 * c) 1 (putCan c { x with cells := x.cells.filter (fun e => e.1 != k) } s))
    let soon := match x.missAt with | some t => decide (s.tim.mon < t + 10000000000) | none => false
    if soon then s else evt 15 5 (argPair 0 c) (putCan c { can c s with missAt := some s.tim.mon } s)

def execSchedWindowDrop (ch obj : Nat) (s : State) := run (windowDrop ch obj) s

/-! ## Sleep and bus-off -/

/-- CAN_SLEEP (R439). -/
def canSleep (r : Req) (s : State) : State :=
  let c := r.pair - 42
  let sched := match (can c s).matrix with | some m => m.cols != 0 | none => false
  if !(canNodes c s).isEmpty || sched then finish r 0x19 4 s
  else
    let old := canMode c s
    let s := endPending c 0x89 s
    let s := if old = 3 then s else evt 15 2 (argState c old 3 0) (setF (canStatReg c) 31 30 3 s)
    complete r 0x00 0 4 [] s

/-- CAN_SLEEP (R436): PARAM must be 0. -/
def execCanSleep (r : Req) (s : State) := run (inlineOp r 0x0913 4 (fun b => if leAt b 0 4 ≠ 0 then finish r 0x16 0 else canSleep r)) s

/-- CAN_WAKE (R439). -/
def execCanWake (r : Req) (s : State) :=
  run (inlineOp r 0x0914 4 (fun b s => if leAt b 0 4 ≠ 0 then finish r 0x16 0 s else complete r 0x00 0 4 [] (wakeCan (r.pair - 42) 2 s))) s

/-- CANN_WAKE_N (R439): low for at least 50 µs. -/
def execCannWakeN (ch : Nat) (s : State) := run (wakeCan ch 1) s

/-- BUS_OFF (R438). -/
def busOff (c : Nat) (s : State) : State :=
  if 4 ≤ c ∨ canMode c s = 2 then s
  else
    let old := canMode c s
    let s := setF (canStatReg c) 23 16 0xFF (setB (canStatReg c) 29 (bitAt (can c s).inForce 29) (setF (canStatReg c) 31 30 2 s))
    let s := putCan c { can c s with cells := [] } s
    endPending c 0x8A (assertSrc (68 + c) (evt 15 2 (argState c old 2 0) s))

def execBusOff (ch : Nat) (s : State) := run (busOff ch) s

/-- A controller rejoins the bus, error active with its counters at 0. -/
def rejoin (c : Nat) (s : State) : State :=
  if canMode c s ≠ 2 then s
  else endCond (68 + c) (evt 15 2 (argState c 2 0 0) (setReg (canStatReg c) (getReg (canStatReg c) s &&& 0x1000003F) s))

/-- BUS_OFF_RECOVERY (R438): with AUTO_RECOV, after 128 occurrences of 11 recessive bits. -/
def busOffRecovery (c : Nat) (s : State) : State := if bitAt (can c s).inForce 29 then rejoin c s else s

def execBusOffRecovery (ch : Nat) (s : State) := run (busOffRecovery ch) s

/-! ## Digital channels -/

/-- FIO_DIOCH of a channel (R446). -/
def dioCh (n : Nat) (s : State) : Word := getReg (0x38100 + 4 * n) s

/-- The digital channels' state replaced. -/
def putDio (d : DioSt) (s : State) : State := { s with fio := { s.fio with dio := d } }

/-- FIO_DIOFAULT, COMMON_FAULT and its source (R441, R443). -/
def dioFaults (s : State) : State :=
  let d := s.fio.dio
  let w := (d.shut ++ d.readback).foldl (fun w n => w ||| BitVec.ofNat 32 (1 <<< (n % 32))) (0 : Word)
  let s := setReg 0x3800C w s
  let common := w != 0 || getB 0x38008 28 s || getB 0x38008 29 s || getB 0x38008 30 s
  setCond 72 common (setB 0x38008 31 common s)

/-- Whether the supply of a channel's group is there (R48, R49): DIO00 to DIO15 form group 1, DIO16 to DIO31 group 2. -/
def groupOk (n : Nat) (s : State) : Bool := !getB 0x38008 (28 + n / 16) s

/-- The outputs as they stand at the terminals (R441, R442): off in the hold-up sequence; SAFE before the outputs are live, in a block reset
of FIO and in logic silence; off in shutdown; the latch otherwise. A channel that follows the tally's pulses shows them as they come. -/
def dioOut (s : State) : Word :=
  let holdup := match s.pwr.seq with | some q => (match q.why with | .holdup _ => true | _ => false) | none => false
  let safe := !liveOut s || getB 0x38008 30 s
  (List.range 32).foldl (fun w n =>
    let c := dioCh n s
    let on := bitAt c 15 && !holdup && s.pwr.on && groupOk n s &&
      (if safe then bitAt c 11 else !s.fio.dio.shut.contains n && !bitAt c 10 && bitAt s.fio.dio.latch n)
    if on then w ||| BitVec.ofNat 32 (1 <<< n) else w) 0

/-- DIO_INPUT_EDGE (R440): a filtered input changes; a rising edge counts, and the edge yields an item unless the last lies within 1 ms. -/
def dioEdge (n : Nat) (level : Bool) (s : State) : State :=
  let d := s.fio.dio
  let c := dioCh n s
  if 32 ≤ n ∨ bitAt c 15 ∨ bitAt d.inputs n = level ∨ (level && !groupOk n s) = true then s
  else
    let counts := if level && bitAt c 13 then tput d.counts n (tgetD d.counts n 0 + 1) else d.counts
    let soon := match tget d.items n with | some t => decide (s.tim.mon < t + 1000000) | none => false
    let d := { d with inputs := putBit d.inputs n level, counts := counts }
    let s := pmcAdd 0x88 1 (putDio d s)
    if bitAt c 12 && !soon then
      deliver 46 (le 8 s.tim.mon ++ le 1 n ++ le 1 (b2n level) ++ zeros 6) (putDio { d with items := tput d.items n s.tim.mon } s)
    else s

def execDioInputEdge (ch : Nat) (level : Bool) (s : State) := run (dioEdge ch level) s

/-- The latch is refreshed: channels whose commanded value has been 0 for at least 1 ms and is now 1 are re-armed (R441), and in a silence the module
notes since when refreshes come without a gap (R442). -/
def dioRearm (old new : Word) (s : State) : State :=
  let d := s.fio.dio
  let zero := (List.range 32).foldl (fun t n =>
    if bitAt new n then tdel t n else if bitAt old n || (tget t n).isNone then tput t n s.tim.mon else t) d.zeroAt
  let back := fun n => bitAt new n && (match tget d.zeroAt n with | some t => decide (t + 1000000 ≤ s.tim.mon) | none => false)
  let gap := decide (d.latchAt + getF 0x38004 7 0 s * 1000000 ≤ s.tim.mon)
  let resume := if getB 0x38008 30 s then (if gap || d.resumeAt.isNone then some s.tim.mon else d.resumeAt) else none
  putDio { d with shut := d.shut.filter (fun n => !back n), zeroAt := zero, latch := new, latchAt := s.tim.mon, resumeAt := resume } s

/-- DIO_OUTPUT_LATCH (R373, R441): every 1 ms CYC latches output word 0 and publishes the DIO area. -/
def dioLatch (s : State) : State :=
  if s.start.blkRst.contains .cyc || decide (s.tim.mon < s.fio.dio.latchAt + 1000000) then s
  else
    let s := dioFaults (dioRearm s.fio.dio.latch (outWord 0 s) s)
    let d := s.fio.dio
    let ws : List Word := d.inputs :: List.replicate 15 0 ++ (List.range 32).map (fun n => tgetD d.counts n 0)
    publishArea 0 s.tim.mon ws s

def execDioOutputLatch (s : State) := run dioLatch s

/-- DIO_OUTPUT_SHUTDOWN (R441). -/
def dioShutdown (n : Nat) (s : State) : State :=
  if 32 ≤ n ∨ s.fio.dio.shut.contains n then s
  else dioFaults (pmcAdd 0x8A 1 (putDio { s.fio.dio with shut := addOnce s.fio.dio.shut n } s))

def execDioOutputShutdown (ch : Nat) (s : State) := run (dioShutdown ch) s

/-- DIO_READBACK_FAULT (R441): it begins, or its condition ends. -/
def dioReadback (n : Nat) (holds : Bool) (s : State) : State :=
  let d := s.fio.dio
  if 32 ≤ n ∨ d.readback.contains n = holds ∨ (holds && !bitAt (dioOut s) n) = true then s
  else
    let s := if holds then pmcAdd 0x8A 1 s else s
    dioFaults (putDio { d with readback := if holds then addOnce d.readback n else without d.readback n } s)

def execDioReadbackFault (ch : Nat) (holds : Bool) (s : State) := run (dioReadback ch holds) s

/-- LOGIC_SILENCE (R442): CYC has not refreshed the latch for SILENCE_MS. -/
def logicSilence (s : State) : State :=
  if getB 0x38008 30 s || decide (s.tim.mon < s.fio.dio.latchAt + getF 0x38004 7 0 s * 1000000) then s
  else dioFaults (pmcAdd 0x89 1 (incReg 0x38010 1 (setB 0x38008 30 true (putDio { s.fio.dio with resumeAt := none } s))))

def execLogicSilence (s : State) := run logicSilence s

/-- SILENCE_END (R442): 100 ms after refreshes have resumed without a gap. -/
def silenceEnd (s : State) : State :=
  let due := match s.fio.dio.resumeAt with
    | some t => decide (t + 100000000 ≤ s.tim.mon) && decide (s.tim.mon < s.fio.dio.latchAt + getF 0x38004 7 0 s * 1000000)
    | none => false
  if getB 0x38008 30 s && due then dioFaults (setB 0x38008 30 false s) else s

def execSilenceEnd (s : State) := run silenceEnd s

/-- GROUP_SUPPLY_MISSING (R48, R49, R445): the supply of group 1 or 2 goes or returns; while it is missing every channel of the group reads OFF. -/
def groupSupply (g : Nat) (missing : Bool) (s : State) : State :=
  let mine := (List.range 16).map (fun k => k + (if g = 2 then 16 else 0))
  let s := if missing then mine.foldl (fun s n => dioEdge n false s) s else s
  let s := setB 0x38008 (if g = 2 then 29 else 28) missing s
  dioFaults (setCond 73 (getB 0x38008 28 s || getB 0x38008 29 s) s)

def execGroupSupplyMissing (group : Nat) (missing : Bool) (s : State) := run (groupSupply group missing) s

end Sys2Proof.Machine
end

