-- ==== Sys2Proof/Machine/Model.lean ====
section
/-!
DEFINITION. Model images: their check (R120, R127, R128), staging, arming, disarming and reverting (R129 to R132), the record of R133,
and the swap at the start of the target round (R134).
-/
namespace Sys2Proof.Machine

/-! ## The check of an image -/

/-- The section identifiers of the table (R127). -/
def modelIds (m : ModelImage) : List Nat := (secTable m.header 0x80 m.sections).map (·.1)

/-- The header of R127: MAGIC, FORMAT, 1 to 32 sections with their table, and reserved bytes of 0. -/
def modelHeadOk (m : ModelImage) : Bool :=
  leAt m.header 0 4 == 0x444D5A44 && m.format == 1 && within m.sections 1 32 && m.header.length == 0x80 + 16 * m.sections &&
    leAt m.header 0x14 4 == 0 && leAt m.header 0x2F 1 == 0 && leAt m.header 0x3A 6 == 0 && (slice m.header 0x48 56).all (· == 0)

/-- The section table of R127: 01h to 0Ch are there, each identifier once, and each section lies within the image behind the table. -/
def modelTableOk (m : ModelImage) : Bool :=
  let ids := modelIds m
  (List.range 12).all (fun i => ids.contains (i + 1)) && ids.all (fun x => within x 1 14) && ids.eraseDups.length == ids.length &&
    (secTable m.header 0x80 m.sections).all (fun e => decide (m.header.length ≤ e.2.1) && decide (e.2.1 + e.2.2.1 ≤ m.size))

/-- The units of a model whose identifier has a kind (R122). -/
def unitsOf (k : Nat) (m : ModelImage) : List UnitDecl := m.units.filter (fun u => midKind u.mid == k)

/-- The branches of a model of a kind. -/
def branchesOf (k : BranchKind) (m : ModelImage) : List Branch := m.branches.filter (fun b => b.kind == k)

/-- Whether the counts of the header are those of the contents (R127). -/
def modelCountsOk (m : ModelImage) : Bool :=
  let h := fun at_ n => leAt m.header at_ n
  h 0x28 2 == m.nodes.length && h 0x2A 2 == m.branches.length && h 0x2C 1 == m.networks.length && h 0x2D 1 == (unitsOf 6 m).length &&
    h 0x2E 1 == (unitsOf 7 m).length && h 0x30 2 == m.stations.length && h 0x32 2 == (branchesOf .pump m).length &&
    h 0x34 2 == (branchesOf .valve m).length && h 0x36 2 == m.meas.length && h 0x38 2 == m.exps.length

/-- The limits of R120. -/
def modelLimitsOk (m : ModelImage) : Bool :=
  within m.networks.length 1 4 && decide (m.nodes.length ≤ 8192) && decide (m.branches.length ≤ 12288) &&
    decide ((unitsOf 6 m).length ≤ 64) && (unitsOf 6 m).all (fun u => within (midSerial u.mid) 1 64) &&
    decide ((unitsOf 7 m).length ≤ 32) && (unitsOf 7 m).all (fun u => within (midSerial u.mid) 1 32 && within u.layers 1 32) &&
    decide ((branchesOf .pump m).length ≤ 256) && decide ((branchesOf .valve m).length ≤ 1024) &&
    decide (m.stations.length ≤ 4095) && m.stations.all (fun d => within d.ident 1 4095) && decide (m.meas.length ≤ 16384) &&
    decide (m.pumpGroups.length ≤ 64) && m.pumpGroups.all (fun g => within g.2.length 1 8) &&
    decide (m.groups.length ≤ 128) && m.groups.all (fun g => within g.2.length 2 8) &&
    decide (m.exps.length ≤ 4096) && decide (m.size ≤ 67108864) &&
    (List.range m.networks.length).all (fun n => (m.nodes.filter (fun x => x.net == n && x.reference)).length == 1)

/-- What the structure signature of a model covers (R124). -/
def structItems (m : ModelImage) : StructItems :=
  { lineage := m.lineage,
    mids := m.nodes.map (·.mid) ++ m.branches.map (·.mid) ++ m.units.map (·.mid) ++ m.stations.map (fun d => stnMid d.ident) ++ m.meas.map (·.mid) ++
      m.pumpGroups.map (·.1) ++ m.groups.map (·.1),
    kinds := m.branches.map (fun b => (b.mid, b.kind)), ends := m.branches.map (fun b => (b.mid, b.fromN, b.toN)),
    owners := m.branches.map (fun b => (b.mid, b.owner)), groups := m.pumpGroups ++ m.groups, points := m.meas.map (fun p => (p.mid, p.elem)) }

/-- What the parameter signature of a model covers (R124): every other value of the image. -/
def paramItems (m : ModelImage) : ModelImage :=
  { m with header := slice m.header 0x28 0x58, crcs := [], nodes := m.nodes.map (fun n => { n with mid := 0 }),
           branches := m.branches.map (fun b => { b with mid := 0, kind := .pipe, fromN := 0, toN := 0, owner := 0 }),
           units := m.units.map (fun u => { u with mid := 0, owned := [] }), stations := m.stations.map (fun d => { d with ident := 0 }),
           meas := m.meas.map (fun p => { p with mid := 0, elem := 0 }), pumpGroups := [], groups := [] }

/-- Whether the signatures of the header are those recomputed over the image (R124, R128). -/
def modelSigsOk (m : ModelImage) : Bool :=
  m.structSig == Config.structDigest (structItems m) && m.paramSig == Config.paramDigest (paramItems m)

/-- The checks of R128 in order: 1 the header and its counts, 2 the section table, 3 the section CRCs, 4 the limits of R120, 5 the signatures. -/
def modelBad (m : ModelImage) : Option Nat :=
  if !modelHeadOk m || !modelCountsOk m then some 1
  else if !modelTableOk m then some 2
  else if m.crcs != (secTable m.header 0x80 m.sections).map (fun e => e.2.2.2) then some 3
  else if !modelLimitsOk m then some 4
  else if !modelSigsOk m then some 5
  else none

/-- A model component that passed R128 is staged (R129). -/
def stageModel (m : ModelImage) (s : State) : State := { s with model := { s.model with staged := some m } }

/-! ## Arming -/

/-- What refers to model identifiers (R131, check 7): the program, the loops, the tally's channels and dispatch's fallbacks (R253). -/
def referredMids (s : State) : List Nat :=
  let ofLoop := fun (c : LoopRec) => ([c.pv, c.ff1, c.ff2].filter (fun b => b.kind == 2) ++ [c.sp].filter (fun b => b.kind == 4)).map (·.ref)
  (match s.cyc.prog with | some p => p.mids | none => []) ++
    s.lpe.loops.flatMap (fun l => match l.2.struct with | some c => ofLoop c | none => []) ++ s.cfg.tallyMids ++ s.cfg.unitFall.map (·.1) ++
    (s.cfg.stations.filter (fun e => e.2.fallbackW.isSome)).map (fun e => stnMid e.1)

/-- Checks 3 to 8 of R131 for an image: the status, DETAIL and the identifier to record. -/
def armRefused (m : Option ModelImage) (structSig paramSig : BitVec 64) (s : State) : Option (Nat × Nat × Nat) :=
  if s.model.armed.isSome then some (0x17, 0, 0)
  else
    match m with
    | none => some (0x19, 1, 0)
    | some x =>
      if x.structSig ≠ structSig ∨ x.paramSig ≠ paramSig then some (0x25, 0, 0)
      else if x.format ≠ 1 then some (0x19, 2, 0)
      else
        match lacking m (referredMids s) with
        | some mid => some (0x19, 3, mid)
        | none => if activationPending s then some (0x19, 4, 0) else none

/-- The image that an arming names: the staged one, or for MODEL_REVERT the previous one (R129). -/
def armImage (revert : Bool) (s : State) : Option ModelImage := if revert then s.model.prev else s.model.staged

/-- An accepted arming (R129, R132, R198): the slot is ARMED for its round, and the churn builds the new patterns in the idle bank. DESIGN CHOICE
(log entry 87): the spec does not say what becomes of another staged image; MODEL_REVERT takes its place, and stays STAGED after MODEL_DISARM. -/
def applyArm (target : Nat) (revert : Bool) (s : State) : State :=
  match armImage revert s with
  | none => s
  | some m =>
    { s with model := { s.model with staged := some m, armed := some target, recorded := false },
             chu := { s.chu with idle := builtPats s.cfg.watch m } }

/-- A disarming (R129): the slot is STAGED again, and a record of R133 is taken back. -/
def applyDisarm (s : State) : State :=
  if s.model.armed.isNone then s
  else { s with model := { s.model with armed := none, recorded := false }, chu := { s.chu with idle := [] },
                start := { s.start with commitModel := if s.model.recorded then (modelSigs s).1 else s.start.commitModel } }

/-- MODEL_ARM and MODEL_REVERT (R131, R132): the operation ends as soon as the slot has changed. In a pair check 9 is the peer's answer, and the peer
answers check 10 after it: a TARGET_ROUND below the earliest round goes there as 0. -/
def modelArm (revert : Bool) (r : Req) (structSig paramSig : BitVec 64) (target : Nat) (s : State) : State :=
  if refusesPairOp s then finish r 0x81 0 s
  else if duplex s && (s.dup.isolated || s.dup.peer.isNone) then finish r 0x80 0 s
  else
    match armRefused (armImage revert s) structSig paramSig s with
    | some (st, dt, mid) => finish r st dt (if mid = 0 then s else evt 17 6 (argRefused st dt mid) s)
    | none =>
      let low := target ≠ 0 ∧ target < earliestRound s
      if low ∧ !paired s then finish r 0x19 6 s
      else
        let x := if low then 0 else if target = 0 then earliestRound s else target
        viaPeer r (.modelArm structSig paramSig x revert) 24 (applyArm x revert) s

/-- The two signatures and the round of an arming's PARAM (R130). -/
def armOp (revert : Bool) (op : Nat) (r : Req) (s : State) : State :=
  inlineOp r op 24 (fun b => modelArm revert r (BitVec.ofNat 64 (leAt b 0 8)) (BitVec.ofNat 64 (leAt b 8 8)) (leAt b 0x10 8)) s

def execModelArm (r : Req) (s : State) := run (armOp false 0x0B20 r) s

def execModelRevert (r : Req) (s : State) := run (armOp true 0x0B22 r) s

/-- MODEL_DISARM (R130, R132). With nothing armed it ends with CFG_REFUSED, DETAIL 01h, and with another signature with STRUCT_MISMATCH
(log entry 40). -/
def modelDisarm (r : Req) (structSig : BitVec 64) (rest : Nat) (s : State) : State :=
  if refusesPairOp s then finish r 0x81 0 s
  else if rest ≠ 0 then finish r 0x16 8 s
  else
    match s.model.armed, s.model.staged with
    | some _, some m => if m.structSig ≠ structSig then finish r 0x25 0 s else viaPeer r .modelDisarm 24 applyDisarm s
    | _, _ => finish r 0x19 1 s

def execModelDisarm (r : Req) (s : State) :=
  run (inlineOp r 0x0B21 24 (fun b => modelDisarm r (BitVec.ofNat 64 (leAt b 0 8)) (leAt b 8 16))) s

/-- MODEL_RECORD_ACTIVE (R133): before the target round the new image is recorded as active in MRAM and in flash; R76 compares the structure
signature of this record. -/
def modelRecord (s : State) : State :=
  match s.model.armed, s.model.staged with
  | some t, some m =>
    if s.model.recorded || decide (t ≤ s.rnd.number) then s
    else emit (.stored 0x11 (le 8 m.structSig.toNat ++ le 8 m.paramSig.toNat))
      { s with model := { s.model with recorded := true }, start := { s.start with commitModel := m.structSig } }
  | _, _ => s

def execModelRecordActive (s : State) := run modelRecord s

/-! ## The swap -/

/-- The slots after a swap (R129): the staged image becomes active and the active one previous. -/
def swapSlots (m : ModelImage) (s : State) : State :=
  let struct := match s.model.active with | some a => a.structSig != m.structSig | none => true
  { s with model := { active := some m, prev := s.model.active, staged := none, armed := none, recorded := false, lastStruct := struct,
                      swaps := s.model.swaps + 1 },
           start := { s.start with commitModel := m.structSig } }

/-- Whether two models are of one lineage: only then do equal identifiers mean one element (R123). -/
def sameLineage (old new : ModelImage) : Bool := old.lineage == new.lineage

/-- The curds of a kept pipe whose length changed keep their fraction of the pipe (R134). -/
def scaleCurds (old new : Nat) (l : List Curd) : List Curd :=
  if old = new ∨ old = 0 then l
  else match l.map (fun c => ({ c with vol := c.vol * new / old } : Curd)) with
    | [] => []
    | c :: cs => { c with vol := new - ((cs.map (·.vol)).foldl (· + ·) 0) } :: cs

/-- The curd tracker at a swap (R134, R178): a pipe whose identifier and end nodes are unchanged keeps its curds, the rest are rebuilt. -/
def swapCurds (old : ModelImage) (new : ModelImage) (s : State) : State :=
  let was := fun (b : Branch) => old.branches.find? (fun o => sameLineage old new && o.mid == b.mid && o.kind == .pipe && o.fromN == b.fromN && o.toN == b.toN)
  let pipes := new.branches.filter (fun b => b.kind == .pipe)
  let curds := pipes.foldl (fun (t : Tbl (List Curd)) b => match was b, tget s.ctr.curds b.mid with
    | some o, some l => tput t b.mid (scaleCurds (pipeVol o) (pipeVol b) l)
    | _, _ => t) []
  let fresh := (pipes.filter (fun b => (was b).isNone)).map (·.mid)
  let left := s.ctr.unrebuilt.filter (fun mid => pipes.any (fun b => b.mid == mid) && !fresh.contains mid)
  { s with ctr := { s.ctr with curds := curds, unrebuilt := left ++ fresh,
                               layers := s.ctr.layers.filter (fun l => sameLineage old new && new.units.any (fun u => u.mid == l.1)) } }

/-- The stations at a swap (R134): those new to the model start DORMANT, those that left it are RETIRED. -/
def swapStns (old : ModelImage) (new : ModelImage) (s : State) : State :=
  let s := (old.stations.filter (fun d => !sameLineage old new || !new.stations.any (fun e => e.ident == d.ident))).foldl (fun s d => setSess d.ident .retired s) s
  (new.stations.filter (fun d => !sameLineage old new || !old.stations.any (fun e => e.ident == d.ident))).foldl (fun s d => putStn d.ident {} s) s

/-- The separator at a swap (R123, R134, R156): overrides and exclusions stay for the identifiers that stay, and an estimate of another lineage maps
nothing. -/
def swapSep (old : Option ModelImage) (new : ModelImage) (s : State) : State :=
  let same := match old with | some o => sameLineage o new | none => false
  let stays := fun (mid : Nat) => same && hasMid new mid
  { s with sep := { s.sep with sigmas := s.sep.sigmas.filter (fun e => stays e.1.1), excl := s.sep.excl.filter (fun e => stays e.1),
                               est := if same then s.sep.est else s.sep.est.map (fun e => { e with nodes := [], branches := [] }) } }

/-- The curds and the stations of a model that follows no other (R134, R178): every pipe is to be rebuilt and every station starts DORMANT. -/
def firstModel (m : ModelImage) (s : State) : State :=
  let s := { s with ctr := { s.ctr with curds := [], unrebuilt := (branchesOf .pipe m).map (·.mid), layers := [] } }
  m.stations.foldl (fun s d => putStn d.ident {} s) s

/-- MODEL_SWAP at the start of the target round (R134): the slots, the churn's banks, the curds, the stations and the tally change over;
the separator starts from the last estimate by identifier, dispatch forecasts the new stations and discards an outstanding solve when it ends
(R26). -/
def modelSwap (s : State) : State :=
  match s.model.armed, s.model.staged with
  | some t, some m =>
    if s.rnd.number < t then s
    else
      let old := s.model.active
      let s := swapSep old m (usePats m (swapSlots m s))
      let s := match old with | some o => swapStns o m (swapCurds o m s) | none => firstModel m s
      refreshDemand (tlySwap s)
  | _, _ => s

/-- SEP_MODELSTAT (R136). -/
def modelStat (s : State) : Word :=
  let nets := match s.model.active with | some m => m.networks.length - 1 | none => 0
  let stage := if s.model.armed.isSome then 2 else if s.model.staged.isSome then 1 else 0
  BitVec.ofNat 32 (b2n s.model.prev.isSome <<< 7 ||| b2n s.model.lastStruct <<< 6 ||| nets <<< 2 ||| stage)

end Sys2Proof.Machine
end

