-- ==== Sys2Proof/Machine/Update.lean ====
section
/-!
DEFINITION. Firmware and configuration update (R524 to R542): the manifest and its blocks, the loader and the whey journal, activation,
confirmation and fallback, and what the boot stage does with them.
-/
namespace Sys2Proof.Machine

/-! ## Status -/

/-- The recovery ROM runs (R73, R540). -/
def inRecovery (s : State) : Bool := s.start.recovery

/-- The update state with a change. -/
def updSet (f : UpdSt → UpdSt) (s : State) : State := { s with upd := f s.upd }

/-- STATE of UPD_STAT (R542). -/
def UpdState.code : UpdState → Nat
  | .idle => 0 | .receiving => 1 | .writing => 2 | .written => 3 | .activating => 4 | .pending => 5 | .fallingBack => 6

/-- An update operation ends; its status is LAST_STATUS (R542). -/
def updEnd (r : Req) (st dt len : Nat) (s : State) : State := complete r st dt len [] (updSet (fun u => { u with lastStatus := st }) s)

/-- UPD_STAT (R542). -/
def updStat (s : State) : Word :=
  BitVec.ofNat 32 (s.upd.state.code <<< 29 ||| b2n s.upd.fellBack <<< 28 ||| b2n s.upd.target.isSome <<< 27 ||| b2n s.upd.cold <<< 26 |||
    min s.upd.resets 3 <<< 24 ||| s.upd.lastWhy <<< 16 ||| s.upd.lastStatus)

/-- The header of a firmware image (R526): the signature holds over a header with its MAGIC. -/
def readFw (b : Bytes) (sigOk : Bool) : FwHeader :=
  { version := leAt b 4 4, pairLevel := leAt b 8 2, pairMin := leAt b 0xA 2, pverMin := leAt b 0xC 1, pverMax := leAt b 0xD 1, setFmt := leAt b 0xE 2,
    secVer := leAt b 0x10 2, sigOk := sigOk && b.take 4 == [0x44, 0x5A, 0x46, 0x57] }

/-- UPD_NEWVER (R541): the version received or pending. -/
def updNewVer (s : State) : Nat :=
  match s.upd.fwNew with
  | some h => h.version
  | none =>
    if s.upd.state == .pending && s.upd.fwOld.isSome then s.upd.fwRun.version
    else (s.upd.parts.findSome? (fun p => match p with | .firmware b g => some (readFw b g).version | _ => none)).getD 0

/-- UPD_PAIRLVL (R541). -/
def updPairLvl (s : State) : Word := BitVec.ofNat 32 (s.upd.fwRun.pairMin <<< 16 ||| s.upd.fwRun.pairLevel)

/-- UPD_PROGRESS (R541). -/
def updProgress (s : State) : Word := BitVec.ofNat 32 (s.upd.got.length <<< 16 ||| s.upd.wrote)

/-- Pair compatibility (R537): DETAIL 1 for the levels, 2 for the PVER ranges, 0 when compatible. -/
def pairDetail (a b : FwHeader) : Nat :=
  if b.pairLevel < a.pairMin ∨ a.pairLevel < b.pairMin then 1
  else if a.pverMax < b.pverMin ∨ b.pverMax < a.pverMin then 2
  else 0

/-! ## Manifests -/

/-- The largest component of a type, in bytes (R525). -/
def compMax : CompType → Nat
  | .firmware => 100663296 | .config => 16777216 | .model => 67108864 | .program => 33554432

/-- The bytes of a block (R524). -/
def blockSize : Nat := 262144

/-- Check 2 of R528. -/
def manifestBad (m : Manifest) : Bool :=
  let types := m.components.map (·.type)
  !m.formOk || m.components.isEmpty || decide (4 < m.components.length) || decide (65536 < m.size) ||
    m.components.any (fun c => decide (1 < types.count c.type) || decide (compMax c.type < c.length) || decide (c.length = 0) ||
      decide (c.blocks ≠ (c.length + blockSize - 1) / blockSize) || decide (c.blockSums.length ≠ c.blocks) ||
      (c.type != .config && decide (c.minFw ≠ 0)))

/-- TYPE of a component (R525). -/
def compType (n : Nat) : Option CompType :=
  match n with | 1 => some .firmware | 2 => some .config | 3 => some .model | 4 => some .program | _ => none

/-- The entry of a component in the table of a manifest, with its check list from byte `lists` on (R524). -/
def readComponent (b : Bytes) (i lists : Nat) (digestOk : Bool) : Component :=
  let o := 0x20 + 48 * i
  let n := leAt b (o + 8) 4
  { type := (compType (leAt b o 1)).getD .firmware, length := leAt b (o + 4) 4, blocks := n, version := leAt b (o + 0xC) 4, minFw := leAt b (o + 0x10) 4,
    digestOk := digestOk, blockSums := (List.range (min n 4096)).map (fun k => BitVec.ofNat 128 (beAt b (lists + 16 * k) 16)) }

/-- The components of a manifest in order: their check lists stand one after the other behind the table (R524). -/
def readComponents (b : Bytes) : List Nat → Nat → List Bool → List Component
  | [], _, _ => []
  | i :: is, lists, ok =>
    readComponent b i lists (ok.headD true) :: readComponents b is (lists + 16 * leAt b (0x20 + 48 * i + 8) 4) (ok.drop 1)

/-- A manifest as its bytes give it (R524); whether its signature and the digests of its lists hold comes with it. -/
def readManifest (b : Bytes) (sigOk : Bool) (digestsOk : List Bool) : Manifest :=
  let n := leAt b 6 2
  let idx := List.range (min n 4)
  let blocks := (idx.map (fun i => leAt b (0x20 + 48 * i + 8) 4)).sum
  { formOk := b.take 4 == [0x44, 0x5A, 0x4D, 0x46] && leAt b 4 2 == 1 && leAt b 0xA 6 == 0 && leAt b 0x18 8 == 0 && within n 1 4 && decide (leAt b 8 1 < 2) &&
      idx.all (fun i => (compType (leAt b (0x20 + 48 * i) 1)).isSome) && b.length == 0x20 + 48 * n + 16 * blocks + 64,
    site := leAt b 8 1 == 1, cold := leAt b 9 1 % 2 == 1, components := readComponents b idx (0x20 + 48 * n) digestsOk, sigOk := sigOk, size := b.length }

/-- Whether a manifest carries a component of a type. -/
def carries (t : CompType) (m : Manifest) : Bool := m.components.any (fun c => c.type == t)

/-- The checks of R528 in order: the status and DETAIL of the first that fails. -/
def manifestRefused (share : Bool) (m : Manifest) (s : State) : Option (Nat × Nat) :=
  if s.upd.state ≠ .idle then some (0x17, 0)
  else if manifestBad m then some (0xA0, 1)
  else if !m.site ∧ m.components.any (fun c => c.type != .firmware) then some (0xA0, 2)
  else if inRecovery s ∧ (m.site ∨ !carries .firmware m) then some (0xA0, 2)
  else if m.site ∧ !keyed s then some (0x98, 0)
  else if !m.sigOk then some (0x9B, 0)
  else if m.components.any (fun c => !c.digestOk) then some (0xA0, 3)
  else if (carries .model m ∧ s.model.armed.isSome) ∨ (carries .program m ∧ s.cyc.exch.isSome) then some (0x17, 0)
  else if share ∧ refusesPairOp s then some (0x81, 0)
  else if share ∧ !peerHere s then some (0x80, 0)
  else none

/-- An accepted manifest (R528). -/
def applyManifest (share : Bool) (m : Manifest) (s : State) : State :=
  updSet (fun u => { u with state := .receiving, manifest := some m, share := share, got := [], parts := [], wrote := 0, cold := m.cold,
                            lastStatus := 0, blockAt := s.tim.mon }) s

/-- UPD_MANIFEST (R528). -/
def updManifest (r : Req) (share : Bool) (m : Manifest) (s : State) : State :=
  match manifestRefused share m s with
  | some (st, dt) => updEnd r st dt 0 s
  | none =>
    if share then viaPeer r (.updManifest m) m.size (applyManifest true m) s
    else updEnd r 0x00 0 m.size (applyManifest false m s)

/-- UPD_MANIFEST (R527): SHARE in PARAM, the manifest in the buffer. -/
def execUpdManifest (r : Req) (buf : Bytes) (sigOk : Bool) (digestsOk : List Bool) (s : State) :=
  run (withOp r [0x0B10] (some buf) (fun d b s =>
    if 2 ≤ leAt d.param 0 1 then updEnd r 0x16 0 0 s else updManifest r (leAt d.param 0 1 == 1) (readManifest b sigOk digestsOk) s)) s

/-- RECEIVING ends with everything discarded and an event (R530). -/
def dropSet (s : State) : State :=
  evt 17 5 0 (updSet (fun u => { u with state := .idle, manifest := none, got := [], parts := [], cold := false }) s)

/-! ## Blocks -/

/-- The flash key of a block: region 1 firmware, 2 configuration (R525). -/
def flashKey (region n : Nat) : Nat := region * 65536 + n

/-- The region of a component that goes to flash. -/
def regionOf : CompType → Nat
  | .firmware => 1 | .config => 2 | _ => 0

/-- What R372 refuses of a program at staging. -/
def programBad (p : ProgImage) (s : State) : Bool :=
  p.tasks.any (fun t => t.2.owns.any (fun w =>
    s.lpe.loops.any (fun l => match l.2.struct with | some k => k.out.kind == 1 && k.out.ref == w.1 | none => false) ||
      (decide (plantOut 0 ≤ w.1) && decide (w.1 < 0x10000)) ||
      (decide (0x10000 ≤ w.1) && (stnCfg ((w.1 - 0x10000) / 16) s).appOut == 0)))

/-- The first component that fails before any is placed (R530): status, DETAIL and the failed check of a model. -/
def compRefused (parts : List BlockData) (c : Component) (s : State) : Option (Nat × Nat × Nat) :=
  match c.type with
  | .firmware => none
  | .config => if parts.any (fun p => match p with | .config _ => true | _ => false) then none else some (0xA0, 0, 1)
  | .model =>
    match parts.findSome? (fun p => match p with | .model m => some m | _ => none) with
    | none => some (0xA0, 0, 1)
    | some m =>
      match modelBad m with
      | some k => some (0xA0, 0, k)
      | none => if s.model.armed.isSome then some (0x17, 0, 0) else none
  | .program =>
    match parts.findSome? (fun p => match p with | .program x => some x | _ => none) with
    | none => some (0xA0, 0, 1)
    | some p => if programBad p s then some (0x19, 5, 0) else if s.cyc.exch.isSome then some (0x17, 0, 0) else none

/-- The blocks that the loader has to write (R531): those whose check value differs from that of the block in place. -/
def blocksToWrite (m : Manifest) (s : State) : List (Nat × Nat × BitVec 128) :=
  m.components.flatMap (fun c =>
    let g := regionOf c.type
    if g = 0 then []
    else (c.blockSums.mapIdx (fun i x => (g, i, x))).filter (fun e => inRecovery s || tget s.upd.flash (flashKey g e.2.1) != some e.2.2))

/-- Writing is over when nothing is left to write (R531, R540). -/
def writtenCheck (s : State) : State :=
  if s.upd.state ≠ .writing ∨ !s.upd.todo.isEmpty then s
  else if inRecovery s then
    let s := updSet (fun u => { u with state := .idle, manifest := none, got := [], parts := [], fwRun := u.fwNew.getD u.fwRun, fwNew := none }) s
    beginModReset .update 3 .cold s
  else updSet (fun u => { u with state := .written }) s

/-- A complete set that passed: models and programs are staged, and the loader starts (R530). -/
def placeSet (m : Manifest) (s : State) : State :=
  let parts := s.upd.parts
  let s := parts.foldl (fun s p => match p with
    | .model x => stageModel x s
    | .program x => { s with cyc := { s.cyc with staged := some x } }
    | _ => s) s
  let fw := parts.findSome? (fun p => match p with | .firmware b g => some (readFw b g) | _ => none)
  let minFw := ((m.components.find? (fun c => c.type == .config)).map (·.minFw)).getD 0
  let cf := (parts.findSome? (fun p => match p with | .config c => some c | _ => none)).map (fun c => (c, minFw))
  if fw.isNone && cf.isNone then updSet (fun u => { u with state := .idle, manifest := none, parts := [], cold := false }) s
  else
    let todo := blocksToWrite m s
    writtenCheck (updSet (fun u => { u with state := .writing, fwNew := fw, cfgNew := cf, todo := todo, journal := [], parts := [] }) s)

/-- What R529 answers to a block before it is held, where it is not held: status, DETAIL, and whether the manifest is discarded. -/
def blockRefused (comp block : Nat) (sum : BitVec 128) (data : BlockData) (s : State) : Option (Nat × Nat × Bool) :=
  match s.upd.manifest, s.upd.state with
  | some m, .receiving =>
    match m.components[comp]? with
    | none => some (0x16, 0, false)
    | some c =>
      match c.blockSums[block]? with
      | none => some (0x16, 4, false)
      | some x =>
        if s.upd.got.contains (comp, block) then some (0x00, 0, false)
        else if x ≠ sum then some (0xA1, block, false)
        else if c.type = .firmware ∧ block = 0 then
          match data with
          | .firmware b g =>
            let h := readFw b g
            if !h.sigOk then some (0x9B, 0, true) else if h.secVer < s.upd.secFloor then some (0xA2, 3, true) else none
          | _ => some (0x9B, 0, true)
        else none
  | _, _ => some (0x16, 0, false)

/-- A block is held (R529). -/
def holdBlock (comp block : Nat) (data : BlockData) (s : State) : State :=
  let p := match data with | .part => [] | d => [d]
  updSet (fun u => { u with got := u.got ++ [(comp, block)], parts := u.parts ++ p, blockAt := s.tim.mon }) s

/-- Whether every block of the manifest is held. -/
def setComplete (m : Manifest) (s : State) : Bool := decide (((m.components.map (·.blocks)).foldl (· + ·) 0) ≤ s.upd.got.length)

/-- The failure that the completed set takes (R530), if this block completes it. -/
def setRefused (comp block : Nat) (data : BlockData) (s : State) : Option (Nat × Nat × Nat) :=
  let s := holdBlock comp block data s
  match s.upd.manifest with
  | some m => if setComplete m s then m.components.findSome? (fun c => compRefused s.upd.parts c s) else none
  | none => none

/-- An accepted block that no check refuses (R529, R530). -/
def applyBlock (comp block : Nat) (data : BlockData) (s : State) : State :=
  let s := holdBlock comp block data s
  match s.upd.manifest with
  | some m => if setComplete m s then placeSet m s else s
  | none => s

/-- UPD_BLOCK (R529, R530): len is the length of the block. -/
def updBlock (r : Req) (comp block : Nat) (sum : BitVec 128) (data : BlockData) (len : Nat) (s : State) : State :=
  match blockRefused comp block sum data s with
  | some (st, dt, drop) => updEnd r st dt (if st = 0 then len else 0) (if drop then dropSet s else s)
  | none =>
    match setRefused comp block data s with
    | some (st, dt, k) => updEnd r st dt 0 (dropSet (if k = 0 then s else evt 17 0xB (argPair k 0) s))
    | none =>
      if s.upd.share && inControl s && duplex s then viaPeer r (.updBlock comp block sum data) len (applyBlock comp block data) s
      else updEnd r 0x00 0 len (applyBlock comp block data s)

/-- UPD_BLOCK (R527): COMPONENT and BLOCK in PARAM; the data arrive as their check value and what the component holds once whole. -/
def execUpdBlock (r : Req) (sum : BitVec 128) (data : BlockData) (s : State) :=
  run (withOp r [0x0B11] (some []) (fun d _ => updBlock r (leAt d.param 0 1) (leAt d.param 4 4) sum data d.length)) s

/-- UPD_ABORT (R530): outside RECEIVING it changes nothing and ends with OK (log entry 41). -/
def updAbort (r : Req) (p : Nat) (s : State) : State :=
  if p ≠ 0 then updEnd r 0x16 0 0 s
  else updEnd r 0x00 0 4 (if s.upd.state = .receiving then dropSet s else s)

def execUpdAbort (r : Req) (s : State) := run (inlineOp r 0x0B15 4 (fun b => updAbort r (leAt b 0 4))) s

/-- RECEIVE_TIMEOUT (R530): 600 s without an accepted block. -/
def receiveTimeout (s : State) : State :=
  if s.upd.state = .receiving ∧ s.upd.blockAt + 600000000000 ≤ s.tim.mon then dropSet s else s

def execReceiveTimeout (s : State) := run receiveTimeout s

/-! ## The loader and the journal -/

/-- Every displaced block is written back and the journal cleared (R532, R536). -/
def restoreJournal (s : State) : State :=
  let f := s.upd.journal.foldl (fun (t : Tbl (BitVec 128)) e => match e.sum with
    | some x => tput t (flashKey e.region e.block) x
    | none => tdel t (flashKey e.region e.block)) s.upd.flash
  updSet (fun u => { u with flash := f, journal := [] }) s

/-- Writing ends without success (R532): LAST_WHY 6; what the manifest staged stays staged. -/
def endWriting (s : State) : State :=
  updSet (fun u => { u with state := .idle, lastWhy := 6, todo := [], fwNew := none, cfgNew := none, manifest := none, got := [], cold := false })
    (restoreJournal s)

/-- LOADER_BLOCK_WRITE (R531), at most once per 50 ms: the block in place goes to the journal, the new one is written and read back; `readOk` tells whether it
read back right (R532). In the recovery ROM there is no journal (R540). -/
def loaderWrite (readOk : Bool) (s : State) : State :=
  match s.upd.state, s.upd.todo with
  | .writing, (g, n, x) :: rest =>
    if s.tim.mon < s.upd.loaderAt + 50000000 then s else
    let j : List Displaced := if inRecovery s then s.upd.journal else s.upd.journal ++ [{ region := g, block := n, sum := tget s.upd.flash (flashKey g n) }]
    let s := updSet (fun u => { u with journal := j, flash := tput u.flash (flashKey g n) x, todo := rest, wrote := u.wrote + 1, loaderAt := s.tim.mon }) s
    let s := pmcAdd 0x9B 1 s
    if readOk then writtenCheck s
    else updSet (fun u => { u with lastStatus := 0xA1 }) (endWriting s)
  | _, _ => s

def execLoaderBlockWrite (readOk : Bool) (s : State) := run (loaderWrite readOk) s

/-! ## Configurations -/

/-- The configuration in force as a component. -/
def cfgImage (s : State) : ConfigImage := { sig := s.cfg.sig, mids := [], body := s.cfg }

/-- The new configuration in force, with what manufacture and the carrier fix (R2, R43, R71). -/
def takeCfg (c : CfgSt) (s : State) : State :=
  { s with cfg := { c with variantT := s.cfg.variantT, hwrev := s.cfg.hwrev, mfgDate := s.cfg.mfgDate, serial := s.cfg.serial,
                           mac := s.cfg.mac } }

/-- The RW and RWL fields of a register take a configured value (R546). -/
def takeReg (a : Nat) (v : Word) (s : State) : State :=
  match regSpec a with
  | some r => let m := BitVec.ofNat 32 (r.rw ||| r.rwl); setReg a ((getReg a s &&& ~~~m) ||| (v &&& m)) s
  | none => s

/-- A configuration is applied in service (R539): registers whose configured value changed take it, a loop whose structure record changed
restarts in hold; the fields of DUP_CFG wait for the next module reset. -/
def applyCfg (c : ConfigImage) (s : State) : State :=
  let old := s.cfg
  let s := takeCfg { c.body with sig := c.sig } s
  let s := c.body.regs.foldl (fun s e => if e.1 = 0x0E004 ∨ tget old.regs e.1 = some e.2 then s else takeReg e.1 e.2 s) s
  let s := c.body.loops.foldl (fun s l => if (loop l.loop s).struct = some l then s else
      let s := applyLoopConfig l s
      putLoop l.loop { loop l.loop s with fresh := true, bump := true, hold := 0, track := false } s) s
  c.body.coefs.foldl (fun s k =>
    if old.coefs.contains k then s else
      let l := loop k.loop s
      putLoop k.loop (if l.useB then { l with bankB := some k } else { l with bankA := some k }) s) s

/-- Whether a configuration refers to a model identifier that the active model lacks (R533, check 7). -/
def cfgLacks (c : ConfigImage) (s : State) : Bool := (lacking s.model.active c.mids).isSome

/-! ## Activation -/

/-- The checks of R533 in order. -/
def activateRefused (s : State) : Option (Nat × Nat) :=
  let compat := match s.upd.fwNew, s.dup.peer with
    | some h, some p => if peerHere s then pairDetail h p.fw else 0
    | _, _ => 0
  if s.upd.state ≠ .written then some (0xA3, 1)
  else if s.dup.state = .control ∧ peerHere s then some (0xA3, 2)
  else if s.dup.state == .standby && (match s.dup.peer with | some p => p.state != 3 || s.dup.isolated | none => true) then some (0xA3, 3)
  else if compat ≠ 0 then some (0xA2, compat)
  else if s.model.armed.isSome ∨ s.cyc.exch.isSome ∨ s.dup.ops.any (fun o => match o.1 with | .handover _ => true | _ => false) then some (0xA3, 4)
  else if !holdupReady s then some (0xA3, 5)
  else if (match s.upd.cfgNew with | some c => cfgLacks c.1 s | none => false) then some (0xA3, 8)
  else none

/-- UPD_ACTIVATE with SCOPE 1 (R533): the module reset follows at the next round close. -/
def activateFw (r : Req) (s : State) : State :=
  match activateRefused s with
  | some (st, dt) => updEnd r st dt 0 s
  | none => updEnd r 0x00 0 16 (updSet (fun u => { u with state := .activating }) s)

/-- UPD_ACTIVATE (R527): the operation of a SCOPE. One that is neither 1 nor 2 ends with BAD_PARAM; one of the other SCOPE is another command's. -/
def scopeOp (scope : Nat) (r : Req) (f : Bytes → State → State) (s : State) : State :=
  inlineOp r 0x0B12 16 (fun b s =>
    let v := leAt b 0 1
    if v < 1 ∨ 2 < v then updEnd r 0x16 0 0 s else if v = scope then f b s else s) s

def execUpdActivateFirmware (r : Req) (s : State) := run (scopeOp 1 r (fun _ => activateFw r)) s

/-- The module reset of an accepted activation, at a round close (R533): a standby resigns with cause 3. -/
def updRoundClose (s : State) : State :=
  if s.upd.state = .activating then beginModReset .update 3 (if s.upd.cold then .cold else .automatic) s else s

/-- A configuration waits for its target round (R539). -/
def applyActivateCfg (target : Nat) (s : State) : State := updSet (fun u => { u with target := some target, lastStatus := 0 }) s

/-- Whether a configuration would change an RWL field of a locked block (R548). -/
def cfgLocked (c : ConfigImage) (s : State) : Bool :=
  c.body.regs.any (fun e => match regSpec e.1, blockAt e.1 with
    | some r, some b => e.1 != 0x0E004 && lockOf b s && (e.2 &&& BitVec.ofNat 32 r.rwl) != (getReg e.1 s &&& BitVec.ofNat 32 r.rwl)
    | _, _ => false)

/-- What this module refuses of UPD_ACTIVATE with SCOPE 2 after checks 1 and 2 of R131 (R539). -/
def activateCfgRefused (target : Nat) (s : State) : Option (Nat × Nat) :=
  if target ≠ 0 ∧ target < earliestRound s then some (0x19, 6)
  else
    match s.upd.cfgNew, s.upd.state with
    | some (c, minFw), .written =>
      if cfgLacks c s then some (0xA3, 8) else if s.upd.fwRun.version < minFw then some (0xA2, 4)
      else if cfgLocked c s then some (0x18, 0) else none
    | _, _ => some (0xA3, 1)

/-- UPD_ACTIVATE with SCOPE 2 (R539, R548). -/
def activateCfg (r : Req) (target : Nat) (s : State) : State :=
  if refusesPairOp s then updEnd r 0x81 0 0 s
  else if duplex s && s.dup.state != .single && !peerHere s then updEnd r 0x80 0 0 s
  else
    match activateCfgRefused target s with
    | some (st, dt) => updEnd r st dt 0 s
    | none =>
      let x := if target = 0 then earliestRound s else target
      let sig := match s.upd.cfgNew with | some c => c.1.sig | none => 0
      viaPeer r (.updActivateConfig sig x) 16 (applyActivateCfg x) s

def execUpdActivateConfig (r : Req) (s : State) := run (scopeOp 2 r (fun b => activateCfg r (leAt b 8 8))) s

/-- At the start of its target round a configuration is applied, and UPD enters PENDING (R539). -/
def cfgRound (s : State) : State :=
  match s.upd.target, s.upd.cfgNew with
  | some t, some (c, _) =>
    if s.rnd.number < t then s
    else
      let old := cfgImage s
      let s := applyCfg c s
      updSet (fun u => { u with state := .pending, target := none, cfgNew := none, cfgOld := some old, resets := 0, pendAt := s.tim.mon,
                                inService := true }) s
  | _, _ => s

/-! ## Confirmation and fallback -/

/-- Confirmation (R536): the journal and the old-format settings are released, and the floor rises to the image's SEC_VER. -/
def confirmImage (s : State) : State :=
  updSet (fun u => { u with state := .idle, journal := [], fwOld := none, cfgOld := none, fwNew := none, cfgNew := none, manifest := none, got := [],
                            secFloor := if u.fwOld.isSome then u.fwRun.secVer else u.secFloor, resets := 0, cold := false,
                            inService := false }) s

/-- UPD_CONFIRM (R536). -/
def updConfirm (r : Req) (p : Nat) (s : State) : State :=
  if p ≠ 0 then updEnd r 0x16 0 0 s
  else if s.upd.state ≠ .pending then updEnd r 0xA3 1 0 s
  else updEnd r 0x00 0 4 (confirmImage s)

def execUpdConfirm (r : Req) (s : State) := run (inlineOp r 0x0B13 4 (fun b => updConfirm r (leAt b 0 4))) s

/-- Fallback (R536): a module reset, in which the boot stage restores the old image. -/
def fallback (why : Nat) (s : State) : State :=
  beginModReset .update 3 .automatic (updSet (fun u => { u with state := .fallingBack, lastWhy := why }) s)

/-- UPD_FALLBACK (R536). -/
def updFallback (r : Req) (p : Nat) (s : State) : State :=
  if p ≠ 0 then updEnd r 0x16 0 0 s
  else if s.upd.state ≠ .pending then updEnd r 0xA3 1 0 s
  else fallback 5 (updEnd r 0x00 0 4 s)

def execUpdFallback (r : Req) (s : State) := run (inlineOp r 0x0B14 4 (fun b => updFallback r (leAt b 0 4))) s

/-- AUTO_CONFIRM (R536): AUTO_CONFIRM_H hours after PENDING began; 0 never confirms. -/
def autoConfirm (s : State) : State :=
  let h := getF 0x4C004 15 8 s
  if s.upd.state = .pending ∧ h ≠ 0 ∧ s.upd.pendAt + (h * 3600000000000 : Nat) ≤ (s.tim.mon : Int) then confirmImage s else s

def execAutoConfirm (s : State) := run autoConfirm s

/-- STAGE5_TIMEOUT (R536): after an activation reset stage 5 is not reached within 10 s of reset release. -/
def stage5Timeout (s : State) : State :=
  if s.tim.mon < s.start.releasedAt + 10000000000 then s
  else if ((s.upd.state = .pending ∧ !s.upd.inService) ∨ (s.upd.state = .activating ∧ (s.upd.fwOld.isSome ∨ s.upd.cfgOld.isSome))) ∧ getF 0x7F01C 3 0 s < 5 then fallback 2 s else s

def execStage5Timeout (s : State) := run stage5Timeout s

/-- SYNC_TMO_EXPIRY (R536): in a pair the module is neither a READY standby nor in control within SYNC_TMO of stage 5. -/
def syncTmoExpiry (s : State) : State :=
  if s.upd.state = .pending ∧ !s.upd.inService ∧ duplex s ∧ !ready s ∧ !inControl s ∧ s.start.stage5At + getF 0x4C004 7 0 s * 10000000000 ≤ s.tim.mon then
    fallback 4 s
  else s

def execSyncTmoExpiry (s : State) := run syncTmoExpiry s

/-! ## The boot stage -/

/-- The old image and the old configuration run again (R536); the restart is warm unless R76 requires cold. -/
def restoreOld (s : State) : State :=
  let s := restoreJournal s
  let s := match s.upd.cfgOld with | some c => takeCfg { c.body with sig := c.sig } s | none => s
  updSet (fun u => { u with state := .idle, fwRun := u.fwOld.getD u.fwRun, fwOld := none, cfgOld := none, fwNew := none, cfgNew := none, manifest := none,
                            got := [], target := none, fellBack := true, resets := 0, cold := false, inService := false }) { s with start := { s.start with request := .automatic } }

/-- What a power-on or module reset makes of the update (R530, R532, R533, R536): RECEIVING and WRITING end, an activation runs the new
image and the new configuration, a fallback restores the old ones, and a third module reset in PENDING falls back. -/
def updBoot (modReset : Bool) (s : State) : State :=
  let s := updSet (fun u => { u with target := none, lastStatus := 0 }) s
  match s.upd.state with
  | .receiving => dropSet s
  | .writing => endWriting s
  | .fallingBack => restoreOld s
  | .activating =>
    if s.upd.fwOld.isSome ∨ s.upd.cfgOld.isSome then s
    else
      let old := cfgImage s
      let oldFw := s.upd.fwRun
      let s := match s.upd.cfgNew with | some (c, _) => takeCfg { c.body with sig := c.sig } s | none => s
      updSet (fun u => { u with fwOld := u.fwNew.map (fun _ => oldFw), fwRun := u.fwNew.getD u.fwRun,
                                cfgOld := u.cfgNew.map (fun _ => old), fwNew := none, cfgNew := none, resets := 0,
                                inService := false }) s
  | .pending =>
    if modReset && !s.upd.inService then
      let n := s.upd.resets + 1
      if 3 ≤ n then restoreOld (updSet (fun u => { u with lastWhy := 3 }) s) else updSet (fun u => { u with resets := n }) s
    else s
  | _ => s

/-- The image fails its check at start-up (R73, R536): with a complete journal the boot stage falls back, and the answer is true. -/
def updImageFail (s : State) : Bool × State :=
  if s.upd.state = .activating ∨ (s.upd.state = .pending ∧ !s.upd.inService) then (true, restoreOld (updSet (fun u => { u with lastWhy := 1 }) s)) else (false, s)

/-- Stage 5 completes (R534): an activation enters PENDING. -/
def updStage5 (s : State) : State :=
  if s.upd.state = .activating then updSet (fun u => { u with state := .pending, resets := 0, pendAt := s.tim.mon, inService := false }) s else s

end Sys2Proof.Machine
end

