-- ==== Sys2Proof/Machine/Duplex.lean ====
section
/-!
DEFINITION. The duplex pair (R389 to R420): messages from the peer, claims and roles, forwarded operations, the comparison of outputs and
the self-test, resynchronisation, the meter-of-record role and the operations of R413.
-/
namespace Sys2Proof.Machine

/-- A cause of vector 3 (R420). -/
def dupCause (bit : Nat) (s : State) : State := setCause 0x0E030 0x0E034 bit 3 s

/-- The duplex state with a change. -/
def dupSet (f : DupSt → DupSt) (s : State) : State := { s with dup := f s.dup }

/-! ## Taking control -/

/-- The highest claim that R395 counts. -/
def highClaim (s : State) : Nat := max s.dup.claim (max (s.dup.peerClaim.getD 0) (max s.dup.heldPrev s.dup.heldNow))

/-- Whether a claim is left to take (R395): 32 bits hold no claim above FFFF_FFFFh. -/
def claimLeft (s : State) : Bool := decide (s.dup.claim < 0xFFFFFFFE) && decide (highClaim s < 0xFFFFFFFF)

/-- A new claim under R395. -/
def newClaim (s : State) : State := dupSet (fun d => { d with claim := highClaim s + 1, newClaim := false }) s

/-- A change of control that this module sees (R414). -/
def noteSwitch (s : State) : State :=
  setPair 0x0E050 s.rnd.number (incReg 0x0E040 1 { s with rnd := { s.rnd with switched := true }, dup := { s.dup with cmpSkip := true } })

/-- The module takes control (R395, R400, R408): with a new claim, with the meter-of-record role where `withMor` or where neither module
holds it, and with dispatch as R249 says. A module without a claim left raises the duplex source; one whose HOLDUP_READY is 0 never shows
the control pattern (R45). -/
def takeControl (withMor : Bool) (s : State) : State :=
  if !holdupReady s then s
  else if !claimLeft s then evt 7 8 (argPair 0 s.dup.claim) (assertSrc 75 s)
  else
    let s := setRole .control (noteSwitch (newClaim s))
    let s := dispTakeControl (dupSet (fun d => { d with takeSent := none }) s)
    if withMor || !s.dup.peerMor then takeMor s else s

/-- The single configuration takes control (R72, R397, R408), with the role while it is keyed and has not released it. -/
def takeSingle (s : State) : State :=
  if !holdupReady s || s.dup.state == .single then s
  else if !claimLeft s then evt 7 8 (argPair 0 s.dup.claim) (assertSrc 75 s)
  else
    let s := dispTakeControl (setRole .single (noteSwitch (newClaim s)))
    if keyed s && !s.dup.morReleased then takeMor s else s

/-- The module begins to resynchronise (R406). -/
def resync (s : State) : State :=
  setRole .syncing (dupSet (fun d => { d with synced := false, isolated := false, noEvidence := false, syncWhy := 0, takeSent := none }) s)

/-- A module that sent RESIGN within the last 100 ms (R396, R400). -/
def justResigned (s : State) : Bool := match s.dup.resignedAt with | some t => decide (s.tim.mon < t + 100000000) | none => false

/-- Whether the firmware has reached stage 5 (R72). -/
def stage5 (s : State) : Bool := let v := getF 0x7F01C 3 0 s; decide (5 ≤ v) && v != 15

/-- A module that takes control at start-up first writes in the next round (R72). -/
def holdWrites (s : State) : State := { s with rnd := { s.rnd with holdWrite := s.rnd.phase != .idle } }

/-- STARTUP_TAKE_CONTROL (R72, R396, R398): with HOLDUP_READY and no peer in control the module takes control, after TAKE where a peer is present; a
standby only while READY. -/
def startupTake (s : State) : State :=
  let free := match s.dup.peer with | some p => p.state != 3 && p.state != 5 | none => true
  if !stage5 s || seqRuns s then s
  else if !duplex s then (if s.dup.state == .init then takeSingle (holdWrites s) else s)
  else if !(s.dup.state == .init || s.dup.state == .syncing || (s.dup.state == .standby && ready s)) || !free || !holdupReady s || s.dup.held then s
  else if s.dup.peer.isNone then (if s.dup.isolated && s.dup.state == .standby then s else takeControl false (holdWrites s))
  else if justResigned s || s.dup.takeSent.isSome then s
  else sendPeer .take (dupSet (fun d => { d with takeSent := some s.tim.mon }) s)

def execStartupTakeControl (s : State) := run startupTake s

/-! ## Messages -/

/-- Why two modules form no pair (R389), none where they do: 4h for the slots, 6h for the configurations. -/
def pairWhy (h : PeerHdr) (s : State) : Option Nat :=
  let want := getF 0x0E004 7 4 s
  if h.slot = slotId s ∨ h.slot = 15 ∨ slotId s = 15 then some 4
  else if (want ≠ 15 ∧ want ≠ h.slot) ∨ (h.expects ≠ 15 ∧ h.expects ≠ slotId s) then some 4
  else if !h.duplexOk ∨ h.pref = getB 0x0E004 1 s then some 6
  else none

/-- A message of the peer link that this module takes (R391 to R393, R412): under MACsec unless either module is unkeyed, at a version that
the firmware supports, and not accepted before. DUP in its block reset takes none (R68). -/
def accept (h : PeerHdr) (s : State) : Option State :=
  let u := s.upd.fwRun
  if !duplex s || s.start.blkRst.contains .dup then none
  else if keyed s && h.keyed && !h.macsecOk then none
  else if h.pver < u.pverMin ∨ u.pverMax < h.pver then none
  else if s.dup.accepted.contains h.mseq then none
  else some (pmcAdd 0x7B 1 (dupSet (fun d => { d with accepted := h.mseq :: d.accepted }) s))

/-- What a header shows of the peer (R392, R414, R419, R420). -/
def seePeer (h : PeerHdr) (s : State) : State :=
  let old := s.dup.peer
  let oldState := match old with | some p => p.state | none => 7
  let since := if old.isSome then s.dup.peerSince else s.tim.mon
  let s := setReg 0x0E028 (lo32 h.claim) (dupSet (fun d => { d with peer := some h, peerClaim := some h.claim, peerSince := since }) s)
  let s := if oldState = h.state then s else dupCause 1 (dupSet (fun d => { d with cmpSkip := true }) s)
  let s := if s.dup.peerMor = h.mor then s else dupCause 5 (dupSet (fun d => { d with peerMor := h.mor }) s)
  if h.state = 3 ∧ old.isSome ∧ oldState ≠ 3 then noteSwitch s else s

/-- The operations of a kind that are pending end. -/
def endOps (p : DupOp → Bool) (st dt : Nat) (s : State) : State :=
  let go := s.dup.ops.filter (fun o => p o.1)
  go.foldl (fun s o => complete o.2 st dt (if st = 0 then 4 else 0) [] s) (dupSet (fun d => { d with ops := d.ops.filter (fun o => !p o.1) }) s)

/-- The state that SYNC carries (R355, R406). -/
def ownSync (s : State) : SyncData :=
  { round := s.rnd.number, phases := s.rnd.bounds, anchor := s.disp.anchor, claim := s.dup.claim, sigs := ownSigs s, cfgSig := s.cfg.sig,
    sessions := (stnIds s).map (fun i => let x := stn i s
      { station := i, state := x.state.code, ever := x.everActive, epoch := x.epoch, ns := x.ns, nm := x.nm, sps := x.sps, appIn := x.appIn,
        appOut := x.appOut, kind := x.kind }),
    sigmas := s.sep.sigmas, excluded := s.sep.excl, params := s.disp.params, prices := s.disp.prices, weather := s.disp.weather,
    modes := s.disp.hostMode, history := s.disp.stns, district := s.disp.district, plan := s.disp.plan,
    loops := s.lpe.loops.map (fun e => { loop := e.1, mode := e.2.mode, spLocal := e.2.spLocal, bankA := e.2.bankA, bankB := e.2.bankB,
                                         useB := e.2.useB, i := e.2.i, y := e.2.y }),
    vars := s.cyc.vals, timersAt := s.tim.net, overlay := s.cyc.overlay }

/-- A pending swap of roles or a resynchronisation that what the peer shows brings on (R397, R401, R406, R413). -/
def followPeer (before : Option PeerHdr) (h : PeerHdr) (s : State) : State :=
  let was := match before with | some p => p.state | none => 7
  let s := if h.state = 3 ∧ s.dup.state ≠ .control then endOps (fun o => match o with | .handover _ => true | _ => false) 0 0 s else s
  if s.dup.state == .init && stage5 s && h.state == 3 then resync s
  else if s.dup.state == .standby && s.dup.isolated then resync s
  else if s.dup.state == .control && h.state == 1 && was != 1 then
    let s := if s.dup.claim ≤ h.claim then dupSet (fun d => { d with newClaim := true }) s else s
    sendPeer (.sync (ownSync s)) s
  else s

/-- The link is there again (R401): two modules in control resolve it by their claims; an ISOLATED standby resynchronises. -/
def linkResolve (h : PeerHdr) (s : State) : State :=
  if s.dup.state == .control && h.state == 3 then
    if h.claim < s.dup.claim ∨ (h.claim = s.dup.claim ∧ slotId s < h.slot) then dupSet (fun d => { d with isolated := false }) s
    else
      let s := if h.mor then setMor false s else s
      resync (setRole .standby s)
  else if s.dup.state == .standby && s.dup.isolated then resync s
  else dupSet (fun d => { d with isolated := false }) s

/-- A HEARTBEAT or the return of heartbeats (R389, R393, R401). A module that fits no pair runs alone. -/
def heartbeat (h : PeerHdr) (s : State) : State :=
  match accept h s with
  | none => s
  | some s =>
    match pairWhy h s with
    | some why => dupSet (fun d => { d with syncWhy := why }) s
    | none =>
      let before := s.dup.peer
      let up := keyed s && h.keyed
      let back := up && !s.dup.linkUp
      let s := seePeer h (dupSet (fun d => { d with linkUp := up, heardAt := s.tim.mon }) s)
      let s := if back then linkResolve h (endCond 74 s) else s
      followPeer before h s

def execHeartbeat (h : PeerHdr) (s : State) := run (heartbeat h) s

def execPeerLinkReturn (h : PeerHdr) (s : State) := run (heartbeat h) s

/-- HEARTBEAT_TX (R393): every 1 ms of MON. -/
def heartbeatTx (s : State) : State :=
  let due := match s.dup.hbAt with | some t => decide (t + 1000000 ≤ s.tim.mon) | none => true
  if duplex s && due then sendPeer .heartbeat (dupSet (fun d => { d with hbAt := some s.tim.mon }) s) else s

def execHeartbeatTx (s : State) := run heartbeatTx s

/-- PEER_TMO in ns (R416). -/
def peerTmo (s : State) : Nat := getF 0x0E008 7 0 s * 1000000

/-- The link counts as lost (R401, R409): ISOLATED; the roles stay, and the records that wait for the peer go out. -/
def linkLost (s : State) : State :=
  if !duplex s || (!s.dup.linkUp && s.dup.peer.isNone) then s
  else
    let s := dupSet (fun d => { d with linkUp := false, lost := true, isolated := true, peer := none, accepted := [], unacked := [], testing := false,
                                       ownResult := none, peerResult := none }) s
    let s := dupCause 7 (dupCause 2 (dupCause 1 (incReg 0x0E048 1 s)))
    freeWaiting (assertSrc 74 s)

/-- PEER_LINK_LOSS (R401): no valid HEARTBEAT for PEER_TMO. -/
def linkSilence (s : State) : State := if s.tim.mon < s.dup.heardAt + peerTmo s then s else linkLost s

def execPeerLinkLoss (s : State) := run linkSilence s

/-- A message that R393 acknowledges arrived. -/
def ackMsg (h : PeerHdr) (s : State) : State := sendPeer (.ack h.mseq) s

/-- PEER_ACKNOWLEDGEMENT (R393, R409, R411): resending stops; a record may go out; the role has passed. -/
def peerAck (q : Nat) (s : State) : State :=
  match s.dup.unacked.find? (fun u => u.mseq == q) with
  | none => s
  | some u =>
    let s := dupSet (fun d => { d with unacked := d.unacked.filter (fun x => x.mseq != q) }) s
    match u.body with
    | .record b => pumpStreams { s with tly := { s.tly with store := s.tly.store.map (fun r => if r.bytes == b then { r with waiting := false } else r) } }
    | .morHandover =>
      let s := dupSet (fun d => { d with peerMor := true, morAsked := false }) (setMor false s)
      endOps (fun o => match o with | .morHand => true | _ => false) 0 0 s
    | _ => s

def execPeerAcknowledgement (mseq : Nat) (s : State) := run (peerAck mseq) s

/-- PEER_MSG_RESEND (R393): an unacknowledged message goes out again with its MSEQ each 1 ms; once PEER_TMO has passed it counts as lost, and the link
with it (DEDUCED, log entry 80). -/
def peerResend (q : Nat) (s : State) : State :=
  match s.dup.unacked.find? (fun u => u.mseq == q) with
  | none => s
  | some u =>
    if u.first + peerTmo s ≤ s.tim.mon then linkLost s
    else if s.tim.mon < u.last + 1000000 || !s.dup.linkUp || !cageOn 3 s || s.start.blkRst.contains .dup then s
    else
      let s := dupSet (fun d => { d with unacked := d.unacked.map (fun x => if x.mseq == q then { x with last := s.tim.mon } else x) }) s
      emit (.peer q u.type (peerHeader u.type q s) u.body) s

def execPeerMsgResend (mseq : Nat) (s : State) := run (peerResend mseq) s

/-- A message with its header: what it shows, its acknowledgement where R393 asks for one, and its effect. -/
def onMessage (acked : Bool) (h : PeerHdr) (f : State → State) (s : State) : State :=
  match accept h s, pairWhy h s with
  | some s, none => let s := seePeer h s; f (if acked then ackMsg h s else s)
  | _, _ => s

/-- RESIGN (R400, R408): a READY standby takes control, with the role unless the cause is 1. -/
def resignMsg (h : PeerHdr) (cause : Nat) (s : State) : State :=
  onMessage true h (fun s => if s.dup.state == .standby && ready s && !justResigned s then takeControl (cause != 1) s else s) s

def execResign (h : PeerHdr) (cause : Nat) (s : State) := run (resignMsg h cause) s

/-- TAKE (R396): of two modules that want control the one with the higher claim, or with the lower SLOT_ID, goes on. -/
def takeMsg (h : PeerHdr) (s : State) : State :=
  onMessage false h (fun s =>
    if s.dup.takeSent.isNone then s
    else if h.claim < s.dup.claim ∨ (h.claim = s.dup.claim ∧ slotId s < h.slot) then s
    else resync s) s

def execTake (h : PeerHdr) (s : State) := run (takeMsg h) s

/-- TAKE_WAIT_EXPIRY (R396): 2 ms after TAKE the module takes control, unless a sequence of R37 or R65 runs. -/
def takeWait (s : State) : State :=
  match s.dup.takeSent with
  | some t => if s.tim.mon < t + 2000000 || seqRuns s then s else takeControl false (holdWrites s)
  | none => s

def execTakeWaitExpiry (s : State) := run takeWait s

/-! ## Forwarded operations -/

/-- An operation takes effect; `r` is the descriptor that ends with it where this module received it. -/
def applyFwd (op : FwdOp) (r : Option Req) (s : State) : State :=
  match op with
  | .setSigma m q g => applySigma m q g s
  | .exclude m q => applyExclude m q s
  | .incl m q => applyInclude m q s
  | .setParam i v => applyParam i v s
  | .pricePush t k p => applyPrice t k p s
  | .weatherPush t w => applyWeather t w s
  | .forceCycle => applyForce s
  | .unitMode m v => applyUnitMode m v s
  | .loopConfig c => applyLoopConfig c s
  | .loopCoef c => applyLoopCoef c r s
  | .loopSwap n => applyLoopSwap n r s
  | .loopMode n m o => applyLoopMode n m o r s
  | .loopSetsp n v => applySetsp n v s
  | .modelArm _ _ x v => applyArm x v s
  | .modelDisarm => applyDisarm s
  | .stationRetire i => setRetire i r s
  | .stationReinstate i => applyReinstate i s
  | .progCtrl c => applyProgCtrl c s
  | .varWrite i _ v => applyVarWrite i v s
  | .constWrite i _ v => applyConstWrite i v s
  | .progExchange g x => applyExchange g x r s
  | .stepAccept => applyStepAccept s
  | .stepReject => applyStepReject s
  | .timeSet t n _ => applyTimeSet t n s
  | .enrol i e n m p a o => applyEnrol i e n m p a o s
  | .updManifest m => applyManifest true m s
  | .updBlock c b _ d => applyBlock c b d s
  | .updActivateConfig _ x => applyActivateCfg x s

/-- The operations whose descriptor ends later than the confirmation (R272, R276, R357, R380). -/
def endsLate : FwdOp → Bool
  | .loopCoef c => c.swap
  | .loopSwap _ => true
  | .loopMode .. => true
  | .stationRetire _ => true
  | .progExchange .. => true
  | _ => false

/-- What this module, as the peer of the sender, refuses of a forwarded operation (R131, R380, R528 to R530, R539). -/
def fwdRefused (op : FwdOp) (s : State) : Option (Nat × Nat) :=
  match op with
  | .modelArm g p x v =>
    (match armImage v s with
     | some m => if m.structSig ≠ g ∨ m.paramSig ≠ p then some (0x19, 5) else if x = 0 then some (0x19, 6) else none
     | none => some (0x19, 5))
  | .progExchange g x =>
    (match s.cyc.staged with | some p => if p.sig ≠ g then some (0x19, 5) else if x = 0 then some (0x19, 6) else none | none => some (0x19, 5))
  | .updManifest m => manifestRefused false m s
  | .updBlock c b x d =>
    (match blockRefused c b x d s with
     | some (st, dt, _) => some (st, dt)
     | none => match setRefused c b d s with | some (st, dt, _) => some (st, dt) | none => none)
  | .updActivateConfig g _ =>
    (match s.upd.cfgNew with
     | some (c, f) => if s.upd.state ≠ .written ∨ c.sig ≠ g then some (0xA3, 6) else if s.upd.fwRun.version < f then some (0xA2, 4) else none
     | none => some (0xA3, 6))
  | _ => none

/-- What undoes an operation (R156). -/
def undoOf (op : FwdOp) (s : State) : Undo :=
  match op with
  | .setSigma m q _ => .sigma m q (match s.sep.sigmas.find? (fun e => e.1 == (m, q)) with | some e => e.2 | none => 0)
  | .exclude m q => .excl m q (s.sep.excl.contains (m, q))
  | .incl m q => .excl m q (s.sep.excl.contains (m, q))
  | .setParam i _ => .param i (tget s.disp.params i)
  | .pricePush .. => .prices s.disp.prices
  | .weatherPush .. => .weather s.disp.weather
  | .forceCycle => .force s.disp.force
  | .unitMode m _ => .mode m (tget s.disp.hostMode m)
  | .loopConfig c => .loop c.loop (loop c.loop s)
  | .loopCoef c => .loop c.loop (loop c.loop s)
  | .loopSwap n => .loop n (loop n s)
  | .loopMode n _ _ => .loop n (loop n s)
  | .loopSetsp n _ => .loop n (loop n s)
  | .modelArm .. => .model s.model s.chu.idle
  | .modelDisarm => .model s.model s.chu.idle
  | .stationRetire i => .station i (stn i s).state (stn i s).retire
  | .stationReinstate i => .station i (stn i s).state (stn i s).retire
  | .progCtrl _ => .program s.cyc (progState s)
  | .varWrite .. => .program s.cyc (progState s)
  | .constWrite .. => .program s.cyc (progState s)
  | .progExchange .. => .program s.cyc (progState s)
  | .stepAccept => .step s.tim.stepPend s.tim.acceptNext
  | .stepReject => .step s.tim.stepPend s.tim.acceptNext
  | .timeSet t n _ =>
    let t' := applyTimeSet t n s
    .time ((t'.tim.net : Int) - s.tim.net) ((t'.tim.rtc : Int) - s.tim.rtc) s.tim.quality
  | .enrol .. => .nothing
  | .updManifest _ => .update s.upd
  | .updBlock .. => .update s.upd
  | .updActivateConfig .. => .update s.upd

/-- An operation is withdrawn (R156): what it replaced stands again. -/
def applyUndo (u : Undo) (s : State) : State :=
  match u with
  | .nothing => s
  | .sigma m q g => applySigma m q g s
  | .excl m q was => if was then applyExclude m q s else applyInclude m q s
  | .param i v => { s with disp := { s.disp with params := (match v with | some x => tput s.disp.params i x | none => tdel s.disp.params i) } }
  | .prices p => { s with disp := { s.disp with prices := p } }
  | .weather w => { s with disp := { s.disp with weather := w } }
  | .force b => { s with disp := { s.disp with force := b } }
  | .mode m v => { s with disp := { s.disp with hostMode := (match v with | some x => tput s.disp.hostMode m x | none => tdel s.disp.hostMode m) } }
  | .loop n l => putLoop n { loop n s with struct := l.struct, bankA := l.bankA, bankB := l.bankB, useB := l.useB, swap := l.swap, modeReq := l.modeReq,
                                           spLocal := l.spLocal, spU := l.spU, spDisp := l.spDisp } s
  | .model m i => { s with model := m, chu := { s.chu with idle := i } }
  | .station i st rt => putStn i { stn i s with state := st, retire := rt } s
  | .program c st => setProgState st { s with cyc := { s.cyc with exch := c.exch, writes := c.writes, overlay := c.overlay, vals := c.vals, tasks := c.tasks } }
  | .step p n => { s with tim := { s.tim with stepPend := p, acceptNext := n } }
  | .time d r q => setQuality q (setRtc false ((s.tim.rtc : Int) - r).toNat (stepNet (-d) s))
  | .update u => { s with upd := u }

/-- FORWARD (R156, R393, R406): the peer's operation is checked, applied and confirmed; during a transfer it is applied once that has
completed. A withdrawal undoes it. -/
def forwardMsg (h : PeerHdr) (op : FwdOp) (withdraw : Bool) (s : State) : State :=
  onMessage false h (fun s =>
    if withdraw then
      match s.dup.undo.find? (fun u => u.1 == op) with
      | some u => evt 7 9 (argPair 5 0) (applyUndo u.2 (dupSet (fun d => { d with undo := d.undo.erase u }) s))
      | none => dupSet (fun d => { d with deferred := d.deferred.erase op }) s
    else
      match fwdRefused op s with
      | some (st, dt) => sendPeer (.confirm op st dt) s
      | none =>
        let s := if s.dup.state == .syncing then dupSet (fun d => { d with deferred := d.deferred ++ [op] }) s
          else applyFwd op none (dupSet (fun d => { d with undo := (op, undoOf op s) :: d.undo.take 63 }) s)
        match op with
        | .enrol .. => s
        | _ => sendPeer (.confirm op 0 0) s) s

def execForward (h : PeerHdr) (op : FwdOp) (withdraw : Bool) (s : State) := run (forwardMsg h op withdraw) s

/-- The last status of an update operation (R542). -/
def noteUpd (op : FwdOp) (st : Nat) (s : State) : State :=
  match op with
  | .updManifest _ => updSet (fun u => { u with lastStatus := st }) s
  | .updBlock .. => updSet (fun u => { u with lastStatus := st }) s
  | .updActivateConfig .. => updSet (fun u => { u with lastStatus := st }) s
  | _ => s

/-- The status codes of R119 (R13). -/
def statusCodes : List Nat :=
  [0x00, 0x01, 0x03, 0x04, 0x05, 0x10, 0x11, 0x12, 0x13, 0x14, 0x15, 0x16, 0x17, 0x18, 0x19, 0x20, 0x21, 0x22, 0x23, 0x24, 0x25, 0x26, 0x27,
   0x30, 0x31, 0x32, 0x38, 0x39, 0x3A, 0x40, 0x41, 0x42, 0x43, 0x44, 0x50, 0x51, 0x58, 0x59, 0x60, 0x61, 0x62] ++
  [0x70, 0x71, 0x72, 0x73, 0x80, 0x81, 0x82, 0x88, 0x89, 0x8A, 0x90, 0x91, 0x98, 0x99, 0x9A, 0x9B, 0xA0, 0xA1, 0xA2, 0xA3, 0xF0]

/-- CONFIRM (R156): the operation takes effect here and its descriptor ends, or it ends with the peer's status. A CONFIRM whose status is none of R119
is discarded (DESIGN CHOICE, log entry 81). -/
def confirmMsg (h : PeerHdr) (op : FwdOp) (st dt : Nat) (s : State) : State :=
  onMessage false h (fun s =>
    match (if statusCodes.contains st then s.dup.fwds.find? (fun f => f.op == op) else none) with
    | none => if statusCodes.contains st then s else evt 7 5 (argPair st 0) s
    | some f =>
      let s := noteUpd op st (dupSet (fun d => { d with fwds := d.fwds.erase f }) s)
      if st ≠ 0 then (match f.req with | some r => finish r st dt s | none => s)
      else
        let s := applyFwd op f.req s
        match f.req with
        | some r => if endsLate op then s else complete r 0x00 0 f.len [] s
        | none => s) s

def execConfirm (h : PeerHdr) (op : FwdOp) (status detail : Nat) (s : State) := run (confirmMsg h op status detail) s

/-- FORWARD_TIMEOUT (R132, R156): the oldest operation without a confirmation after 2 s is withdrawn on both modules. -/
def forwardTimeout (s : State) : State :=
  match s.dup.fwds with
  | [] => s
  | f :: fs =>
    if s.tim.mon < f.mon + 2000000000 then s else
    let s := evt 7 9 (argPair 5 0) (sendPeer (.withdraw f.op) (dupSet (fun d => { d with fwds := fs }) s))
    match f.req with | some r => finish r 0x80 0 (noteUpd f.op 0x80 s) | none => s

def execForwardTimeout (s : State) := run forwardTimeout s

/-! ## Evidence -/

/-- The decision of an ISOLATED, READY standby at READ_CLOSE (R402). -/
def evidenceCheck (s : State) : State :=
  if !(s.dup.state == .standby && s.dup.isolated && ready s) then s
  else
    let e := (stnIds s).filterMap (fun i => let x := stn i s
      match x.round.reply with | some p => if x.prevEpoch = some p.epoch then some p else none | none => none)
    let a := e.filter (fun p => decide ((s.rnd.number - 1) * 16 ≤ p.lastApplied))
    if e.length < getF 0x0E008 23 16 s then
      let due := match s.dup.noEvidAt with | some t => decide (t + 60000000000 ≤ s.tim.mon) | none => true
      let s := dupSet (fun d => { d with noEvidence := true }) s
      if due then evt 7 3 (argCond 0x0E020 17 0) (dupSet (fun d => { d with noEvidAt := some s.tim.mon }) s) else s
    else
      let s := dupSet (fun d => { d with noEvidence := false }) s
      if getF 0x0E008 15 8 s * e.length ≤ a.length * 100 then s else takeControl true s

/-! ## Comparing outputs -/

/-- The outputs latched at WRITE_OPEN (R404). -/
def ownSummary (s : State) : OutSummary :=
  let g := ownSigs s
  { round := s.rnd.number, phases := s.rnd.bounds, structSig := g.1, paramSig := g.2.1, progSig := g.2.2, fallback := s.disp.fallback,
    stations := (stnIds s).filterMap (fun i => let x := stn i s
      if x.round.onList then some (i, x.round.cmds.map (fun c => (c.kind, c.seq, c.vals.headD 0))) else none),
    dio := outWord 0 s,
    plants := s.disp.cmds.map (fun c => (c.mid, c.kind, c.seq, c.txn, c.vals.headD 0, c.vals.getD 1 0)),
    loops := s.lpe.loops.filterMap (fun e => if 2 ≤ e.2.mode ∧ e.2.hold = 0 ∧ e.2.modeReq.isNone then some (e.1, e.2.y) else none) }

/-- One item of the comparison (R404): its class and element, whether it counts at once, and whether it is out of tolerance. -/
structure CmpItem where
  what : Nat
  elem : Nat
  atOnce : Bool
  off  : Bool
deriving DecidableEq, Repr

/-- The commands of one station on both write lists (R404). -/
def stnItems (a b : List (Nat × Nat × Int)) (id contracted : Nat) (budgets : Bool) (s : State) : List CmpItem :=
  let kinds := fun (l : List (Nat × Nat × Int)) => l.map (fun c => (c.1, c.2.1))
  let differ := !((kinds a).all (fun x => (kinds b).contains x) && (kinds b).all (fun x => (kinds a).contains x))
  let each := a.flatMap (fun c => match b.find? (fun x => x.1 == c.1 && x.2.1 == c.2.1) with
    | none => []
    | some x =>
      let d := (c.2.2 - x.2.2).natAbs
      if c.1 = 1 then (if budgets then [⟨3, id, false, decide (getF 0x0E00C 7 0 s * contracted < d * 1000)⟩] else [])
      else if c.1 = 2 then [⟨4, id, false, decide (getF 0x0E00C 15 8 s * 10 < d)⟩]
      else [⟨if c.1 = 3 then 5 else 6, id + c.2.1 % 16 * 2 ^ 16, false, d != 0⟩])
  ⟨2, id, true, differ⟩ :: each

/-- The items of R404 in the order of its table. -/
def cmpItems (a b : OutSummary) (s : State) : List CmpItem :=
  let hdr := a.round != b.round || a.phases != b.phases || a.structSig != b.structSig || a.paramSig != b.paramSig || a.progSig != b.progSig
  let same := a.fallback == b.fallback
  let stns := a.stations.flatMap (fun x => match b.stations.find? (fun y => y.1 == x.1) with
    | some y => stnItems x.2 y.2 x.1 (match stnDecl x.1 s with | some d => d.contractedW | none => 0) same s
    | none => [])
  let ids := fun (o : OutSummary) => o.plants.map (fun p => (p.1, p.2.1, p.2.2.1, p.2.2.2.1))
  let plantDiffer := !((ids a).all (fun x => (ids b).contains x) && (ids b).all (fun x => (ids a).contains x))
  let plants := a.plants.flatMap (fun p => match b.plants.find? (fun q => q.1 == p.1 && q.2.1 == p.2.1 && q.2.2.1 == p.2.2.1) with
    | some q =>
      let top := match unitDecl p.1 s with | some u => (u.hi.headD 0).natAbs | none => 0
      (if same then [⟨9, p.1, false, decide (getF 0x0E00C 7 0 s * top < (p.2.2.2.2.1 - q.2.2.2.2.1).natAbs * 1000)⟩] else []) ++
        [⟨10, p.1, false, decide (getF 0x0E00C 15 8 s * 10 < (p.2.2.2.2.2 - q.2.2.2.2.2).natAbs)⟩]
    | none => [])
  let loops := a.loops.flatMap (fun l => match b.loops.find? (fun m => m.1 == l.1) with
    | some m => [⟨11, l.1, false, decide (getF 0x0E00C 23 16 s * 2 ^ 30 < (l.2 - m.2).natAbs * 1000)⟩]
    | none => [])
  ⟨1, 0, true, hdr⟩ :: stns ++ [⟨7, 0, false, a.dio != b.dio⟩, ⟨8, 0, true, plantDiffer⟩] ++ plants ++ loops

/-- The persistence counts after a comparison (R404). -/
def countItems (l : List CmpItem) (t : List ((Nat × Nat) × Nat)) : List ((Nat × Nat) × Nat) :=
  l.foldl (fun t i =>
    let rest := t.filter (fun e => e.1 != (i.what, i.elem))
    if i.atOnce then rest
    else if i.off then rest ++ [((i.what, i.elem), (match t.find? (fun e => e.1 == (i.what, i.elem)) with | some e => e.2 | none => 0) + 1)]
    else rest) t

/-- A self-test begins on this module (R405). -/
def testBegin (s : State) : State :=
  dupSet (fun d => { d with testing := true, ownResult := none, peerResult := none, testRound := s.rnd.number }) s

/-- The comparison at a round close (R404, R405): `theirs` is the peer's summary of the round, where it has come. -/
def outputCompare (theirs : Option OutSummary) (s : State) : State :=
  match theirs, s.dup.ownSum with
  | some b, some a =>
    let s := dupSet (fun d => { d with peerSigs := some (b.structSig, b.paramSig, b.progSig) }) s
    let runs := s.dup.state == .control || s.dup.state == .standby
    let theirsRuns := match s.dup.peer with | some p => p.state == 2 || p.state == 3 | none => false
    if !getB 0x0E00C 31 s || s.dup.cmpSkip || !runs || !theirsRuns then s
    else
      let l := cmpItems a b s
      let t := countItems l s.dup.diverge
      let n := getF 0x0E00C 27 24 s
      let hit := l.find? (fun i => i.off && (i.atOnce || t.any (fun e => e.1 == (i.what, i.elem) && decide (n ≤ e.2))))
      let s := dupSet (fun d => { d with diverge := t }) s
      match hit with
      | none => s
      | some i =>
        let s := evt 7 0xB (argPair i.what i.elem) (dupCause 3 (incReg 0x0E044 1 s))
        if s.dup.testing then s else sendPeer .selftestAsk (testBegin s)
  | _, _ => s

/-- The results of a self-test decide (R405). -/
def testDecide (s : State) : State :=
  match s.dup.ownResult, s.dup.peerResult with
  | some own, some theirs =>
    let s := dupCause 4 (dupSet (fun d => { d with testing := false, ownResult := none, peerResult := none, testFailed := d.testFailed || !own, diverge := [] }) s)
    if s.dup.state == .control then
      if !own && theirs then beginModReset .duplex 4 .warm s
      else if !own && !theirs then assertSrc 75 (dupSet (fun d => { d with degraded := true }) s)
      else s
    else if s.dup.state == .standby then
      if !own then beginModReset .duplex 4 .warm s else if theirs then resync s else s
    else s
  | _, _ => s

/-- SELFTEST (R405): the peer's request, or its result. -/
def selftestMsg (h : PeerHdr) (result : Option Bool) (s : State) : State :=
  onMessage true h (fun s => match result with
    | none => if s.dup.testing then s else testBegin s
    | some b => testDecide (dupSet (fun d => { d with peerResult := some b }) s)) s

def execSelftest (h : PeerHdr) (result : Option Bool) (s : State) := run (selftestMsg h result) s

/-- SELFTEST_DONE (R405): this module's own result. -/
def selftestDone (pass : Bool) (s : State) : State :=
  if !s.dup.testing then s
  else testDecide (sendPeer (.selftestResult pass) (dupSet (fun d => { d with ownResult := some pass }) s))

def execSelftestDone (pass : Bool) (s : State) := run (selftestDone pass) s

/-- A result that is missing by the close of the next round counts as a lost link (R405). -/
def testMissing (s : State) : State := if s.dup.testing && decide (s.dup.testRound < s.rnd.number) then linkLost s else s

/-! ## Resynchronisation -/

/-- The check of R406 that refuses the transfer. -/
def syncRefused (h : PeerHdr) (d : SyncData) (s : State) : Option Nat :=
  let g := ownSigs s
  if g.1 ≠ d.sigs.1 ∨ g.2.1 ≠ d.sigs.2.1 then some 1
  else if g.2.2 ≠ d.sigs.2.2 then some 2
  else if pairDetail s.upd.fwRun h.fw ≠ 0 then some 3
  else if h.slot = slotId s then some 4
  else if !keyed s then some 5
  else if s.cfg.sig ≠ d.cfgSig then some 6
  else if h.state ≠ 3 then some 7
  else if h.pver < s.upd.fwRun.pverMin ∨ s.upd.fwRun.pverMax < h.pver then some 8
  else none

/-- A session taken over (R340, R354, R355): ACTIVE and SUSPECT resume in SUSPECT, ENROLLING as DORMANT or LOST. -/
def takeSession (s : State) (p : SessRec) : State :=
  let x := stn p.station s
  let st : Sess := if p.state = 2 ∨ p.state = 3 then .suspect else if p.state = 1 then (if p.ever then .lost else .dormant)
    else if p.state = 4 then .lost else if p.state = 5 then .retired else .dormant
  let same := x.epoch == p.epoch && x.ns == p.ns
  let y := { x with state := st, everActive := p.ever, epoch := p.epoch, ns := p.ns, nm := p.nm, sps := p.sps, appIn := p.appIn, appOut := p.appOut,
                    kind := p.kind, misses := 0, enrolCloses := 0, hiSeq := if same then x.hiSeq else 0, window := if same then x.window else [],
                    tx := if same then x.tx else 0 }
  putStn p.station y { s with kst := { s.kst with sessions := if p.nm.isSome then addOnce s.kst.sessions p.station else s.kst.sessions } }

/-- A loop taken over (R406): its first sample uses the copied output. -/
def takeLoop (s : State) (l : LoopSync) : State :=
  putLoop l.loop { loop l.loop s with mode := l.mode, spLocal := l.spLocal, bankA := l.bankA, bankB := l.bankB, useB := l.useB, i := l.i, y := l.y } s

/-- What the transfer brings (R406). -/
def takeSync (d : SyncData) (s : State) : State :=
  let s := d.sessions.foldl takeSession { s with rnd := { s.rnd with number := d.round, peerBounds := some d.phases } }
  let hist := d.history.map (fun e => (e.1, { stnDisp e.1 s with days := e.2.days, hist := e.2.hist, today := e.2.today, dayN := e.2.dayN,
                                                                 qSum := e.2.qSum, qN := e.2.qN }))
  let s := { s with sep := { s.sep with sigmas := d.sigmas, excl := d.excluded },
                    disp := { s.disp with anchor := d.anchor, params := d.params, prices := d.prices, weather := d.weather, hostMode := d.modes,
                                          stns := hist, district := d.district, plan := d.plan, fallback := d.plan.isNone } }
  let s := d.loops.foldl takeLoop s
  let m := match s.cyc.prog with
    | some p => mapProg p p.vars d.vars d.overlay
    | none => ([], [])
  let at_ := s.tim.mon + d.timersAt - s.tim.net
  { s with cyc := { s.cyc with vals := m.1, overlay := m.2, carried := (taskIds s).map (fun t => (t, at_)) },
           dup := { s.dup with peerClaim := some d.claim, peerSigs := some d.sigs } }

/-- The reconciliation of a preferred meter of record begins (R411): B0 is the first quarter-hour boundary after the transfer. -/
def reconStart (s : State) : State :=
  if getB 0x0E004 1 s && !s.dup.mor && s.dup.peerMor then
    dupSet (fun d => { d with recon := [], b0 := some ((qTime s / quarterNs + 1) * quarterNs) }) s
  else s

/-- SYNC_COMPLETE (R406, R411): the transfer has completed, unless a check refuses it; what was forwarded meanwhile is applied. -/
def syncComplete (h : PeerHdr) (d : SyncData) (s : State) : State :=
  onMessage true h (fun s =>
    if s.dup.state ≠ .syncing then s
    else
      match syncRefused h d s with
      | some why => dupSet (fun x => { x with syncWhy := why }) s
      | none =>
        let s := takeSync d s
        let s := setReg 0x0E028 (lo32 d.claim) (dupSet (fun x => { x with synced := true, syncWhy := 0 }) s)
        let ops := s.dup.deferred
        let s := setRole .standby (dupSet (fun x => { x with deferred := [] }) s)
        let s := ops.foldl (fun s o => applyFwd o none s) s
        endOps (fun o => match o with | .resync => true | _ => false) 0 0 (reconStart s)) s

def execSyncComplete (h : PeerHdr) (d : SyncData) (s : State) := run (syncComplete h d) s

/-! ## The meter-of-record role -/

/-- The highest RECORD_SEQ received signed (R409). -/
def noteSeq (rtype source q : Nat) (s : State) : State :=
  let k := rtype * 2 ^ 32 + source
  purgeStore (dupSet (fun d => { d with noted := tput d.noted k (max (tgetD d.noted k 0) q) }) s)

/-- SOURCE of a record as the tally numbers it (R309). -/
def sourceOf (b : Bytes) : Nat := let v := leAt b 4 4; if leAt b 0 1 = 1 then v % 2 ^ 26 else v

/-- This module's own record of a source with a given END. -/
def ownRec (k endNs : Nat) (s : State) : Option Rec :=
  s.tly.store.find? (fun r => r.rtype == skind k && r.source == sid k && r.endNs == endNs)

/-- Adoption (R411, step 1): the record becomes a copy of the holder's, and totals and RECORD_SEQ go on from it. -/
def adopt (k : Nat) (b : Bytes) (s : State) : State :=
  match tsrc k s with
  | none => s
  | some x =>
    let o := if skind k = 2 then 0x58 else 0x50
    let u := unitOf (skind k)
    let e := leAt b 0x18 8 * sec
    let t := { x.totals with imp := leAt b o 8 * u, exp := leAt b (o + 8) 8 * u, excess := if skind k = 2 then x.totals.excess else leAt b 0x60 8 * u }
    let s := putSrc k { x with totals := t, recSeq := leAt b 8 8, endAt := e, ivals := x.ivals.filter (fun v => v.stop != some e) } s
    let s := { s with tly := { s.tly with store := s.tly.store.filter (fun r => !(r.rtype == skind k && r.source == sid k && r.endNs == e && r.check)) } }
    addRec (9 + skind k) (skind k) (sid k) (leAt b 8 8) (leAt b 0x25 1) (b.take 128) s

/-- Whether a record holds no sample (R309, R310, R411): SAMPLES is 0, or no block of a feeder was measured. -/
def noSamples (b : Bytes) : Bool := if leAt b 0 1 = 2 then leAt b 0x6A 2 == 0xFFFF && leAt b 0x6C 2 == 0xFFFF else leAt b 0x70 2 == 0

/-- Whether a pair of records agrees (R411, step 2); none where it is not counted. -/
def pairAgrees (own theirs : Bytes) (s : State) : Option Bool :=
  let bad := fun (b : Bytes) => let f := leAt b 2 2; f / 2 % 2 == 1 || f / 4 % 2 == 1 || f / 8 % 2 == 1 || f / 2048 % 2 == 1
  if noSamples own && noSamples theirs then some true
  else if bad own || bad theirs then none
  else
    let ok := fun o =>
      let a := leAt own o 8
      let h := leAt theirs o 8
      decide (((a : Int) - h).natAbs * 10000 ≤ getF 0x0E010 23 8 s * 1024 * 10000 + getF 0x0E010 7 0 s * h)
    some (ok 0x28 && ok 0x30)

/-- The reconciliation of a source takes a state. -/
def putRecon (k : Nat) (y : ReconSt) (s : State) : State := dupSet (fun d => { d with recon := tput d.recon k y }) s

/-- The holder's records of one source meet the own ones (R411): adoption at END = B0, or at the next record after a pair that did not agree. -/
def reconSource (s : State) (e : Nat × ReconSt) : State :=
  e.2.theirs.foldl (fun s b =>
    let k := e.1
    let x := tgetD s.dup.recon k {}
    let rest := x.theirs.erase b
    if !x.adopted then
      if x.again || s.dup.b0 == some (leAt b 0x18 8 * sec) then putRecon k { x with adopted := true, agreed := 0, theirs := rest } (adopt k b s)
      else putRecon k { x with theirs := rest } s
    else
      match ownRec k (leAt b 0x18 8 * sec) s with
      | none => s
      | some r =>
        match pairAgrees r.bytes b s with
        | none => putRecon k { x with theirs := rest } s
        | some true => putRecon k { x with agreed := x.agreed + 1, theirs := rest } s
        | some false => dupCause 6 (putRecon k { adopted := false, again := true, agreed := 0, theirs := rest } s)) s

/-- The sources that reconcile: those that the tally meters. -/
def reconKeys (s : State) : List Nat := (s.tly.srcs.filter (fun e => e.2.on)).map (·.1)

/-- Whether a source has its agreeing pairs (R411, R418). -/
def reconAgreed (k : Nat) (s : State) : Bool := decide (getF 0x0E010 27 24 s ≤ (tgetD s.dup.recon k {}).agreed)

/-- What stands of the reconciliation (R411), on a module that is READY or in control: once every source has agreed, the preferred module asks the holder for the role. -/
def reconcile (s : State) : State :=
  if s.dup.b0.isNone || !(ready s || inControl s) then s
  else
    let s := s.dup.recon.foldl reconSource s
    if (reconKeys s).all (fun k => reconAgreed k s) && !(reconKeys s).isEmpty && !s.dup.morAsked then
      sendPeer .morTake (dupSet (fun d => { d with morAsked := true }) s)
    else s

/-- RECORD (R409, R411): the peer's signed record, or its notice of one. -/
def recordMsg (h : PeerHdr) (m : Mirror) (s : State) : State :=
  onMessage true h (fun s => match m with
    | .signed t x q => noteSeq t x q s
    | .record b =>
      let t := leAt b 0 1
      if t < 1 ∨ 3 < t then s
      else
        let s := noteSeq t (sourceOf b) (leAt b 8 8) s
        match s.dup.b0 with
        | some z =>
          let k := skey t (sourceOf b)
          let x := tgetD s.dup.recon k {}
          if leAt b 0x18 8 * sec < z ∨ s.dup.mor then s
          else reconcile (dupSet (fun d => { d with recon := tput d.recon k { x with theirs := x.theirs ++ [b] } }) s)
        | none => s) s

def execRecord (h : PeerHdr) (m : Mirror) (s : State) := run (recordMsg h m) s

/-- MOR_HANDOVER (R408, R411): the role passes to this module, or the preferred module asks for it. -/
def morMsg (h : PeerHdr) (ask : Bool) (s : State) : State :=
  onMessage true h (fun s =>
    if ask then (if s.dup.mor then dupSet (fun d => { d with morAsked := true }) s else s)
    else
      let s := setMor true (dupSet (fun d => { d with peerMor := false, morAsked := false, recon := [], b0 := none }) s)
      if h.mor then dupCause 6 s else s) s

def execMorHandover (h : PeerHdr) (ask : Bool) (s : State) := run (morMsg h ask) s

/-- At a round close the holder sends MOR_HANDOVER once every record that it created is signed and acknowledged (R411, R413). -/
def morClose (s : State) : State :=
  let wanted := s.dup.morAsked || s.dup.ops.any (fun o => match o.1 with | .morHand => true | _ => false)
  let under := s.dup.unacked.any (fun u => match u.body with | .morHandover => true | _ => false)
  if s.dup.mor && wanted && !under && !s.tly.store.any (fun r => r.waiting || r.held) then sendPeer .morHandover s else s

/-! ## Operations -/

/-- An operation of R413 begins and waits. -/
def waitOp (o : DupOp) (r : Req) (s : State) : State := dupSet (fun d => { d with ops := d.ops ++ [(o, r)] }) s

/-- DUP_HANDOVER (R413) with WITH_MOR in bit 0 of PARAM: the switch-over takes place at the next round start. -/
def dupHandover (r : Req) (p : Nat) (s : State) : State :=
  let soon := fun (t : Option Nat) => match t with | some x => decide (x ≤ s.rnd.number + 5) | none => false
  if 2 ≤ p then finish r 0x16 0 s
  else if !duplex s then finish r 0x19 8 s
  else if s.dup.state ≠ .control then finish r 0x81 0 s
  else
    match s.dup.peer with
    | none => finish r 0x80 0 s
    | some h =>
      if !h.ready || soon s.model.armed || soon (s.cyc.exch.map (·.target)) then finish r 0x19 1 s
      else waitOp (.handover (p == 1)) r s

def execDupHandover (r : Req) (s : State) := run (inlineOp r 0x0F20 4 (fun b => dupHandover r (leAt b 0 4))) s

/-- DUP_MOR (R413): the operation of an ACTION. One that is not 1 to 3 ends with BAD_PARAM; one of another ACTION is another command's. -/
def morOp (action : Nat) (f : Req → State → State) (r : Req) (s : State) : State :=
  inlineOp r 0x0F21 4 (fun b s =>
    let a := leAt b 0 4
    if a < 1 ∨ 3 < a then finish r 0x16 0 s else if a = action then f r s else s) s

/-- DUP_MOR with ACTION 1 (R413). -/
def dupMorHand (r : Req) (s : State) : State :=
  if !duplex s then finish r 0x19 8 s
  else if s.dup.peer.isNone then finish r 0x80 0 s
  else if !s.dup.mor then finish r 0x19 6 s
  else waitOp .morHand r s

def execDupMorHand (r : Req) (s : State) := run (morOp 1 dupMorHand r) s

/-- DUP_MOR with ACTION 2 (R408, R413). -/
def dupMorRelease (r : Req) (s : State) : State := complete r 0x00 0 4 [] (dupSet (fun d => { d with morReleased := true }) (setMor false s))

def execDupMorRelease (r : Req) (s : State) := run (morOp 2 dupMorRelease r) s

/-- DUP_MOR with ACTION 3 (R413). -/
def dupMorTake (r : Req) (s : State) : State :=
  if duplex s && s.dup.peerMor then finish r 0x19 6 s
  else complete r 0x00 0 4 [] (takeMor (dupSet (fun d => { d with morReleased := false }) s))

def execDupMorTake (r : Req) (s : State) := run (morOp 3 dupMorTake r) s

/-- DUP_TAKEOVER (R413): a takeover that the claim limit of R395 stops ends as one that is not possible. -/
def dupTakeover (r : Req) (p : Nat) (s : State) : State :=
  if p ≠ 0 then finish r 0x16 0 s
  else if !duplex s then finish r 0x19 8 s
  else if !(s.dup.state == .standby && s.dup.isolated && ready s) then finish r 0x19 2 s
  else
    let t := takeControl true s
    if t.dup.state = .control then complete r 0x00 0 4 [] t else finish r 0x19 2 t

def execDupTakeover (r : Req) (s : State) := run (inlineOp r 0x0F22 4 (fun b => dupTakeover r (leAt b 0 4))) s

/-- DUP_RESYNC (R399, R413): a held RESIGNED module is released. -/
def dupResync (r : Req) (p : Nat) (s : State) : State :=
  if p ≠ 0 then finish r 0x16 0 s
  else if !duplex s then finish r 0x19 8 s
  else if inControl s then finish r 0x19 5 s
  else if s.dup.state == .resigned && s.dup.held then
    complete r 0x00 0 4 [] (resync (dupSet (fun d => { d with held := false }) s))
  else waitOp .resync r (resync s)

def execDupResync (r : Req) (s : State) := run (inlineOp r 0x0F24 4 (fun b => dupResync r (leAt b 0 4))) s

/-! ## Status -/

/-- DUP_STAT (R419). -/
def dupStat (s : State) : Word :=
  let st := match s.dup.peer with | some p => p.state | none => 7
  let slot := match s.dup.peer with | some p => p.slot | none => 0
  BitVec.ofNat 32 (s.dup.state.code <<< 29 ||| st <<< 26 ||| b2n s.dup.linkUp <<< 25 ||| b2n s.dup.isolated <<< 24 ||| b2n (ready s) <<< 23 |||
    b2n s.dup.mor <<< 22 ||| b2n s.dup.peerMor <<< 21 ||| b2n s.dup.b0.isSome <<< 20 ||| b2n s.dup.degraded <<< 19 |||
    b2n s.dup.testing <<< 18 ||| b2n s.dup.noEvidence <<< 17 ||| s.dup.resignWhy <<< 12 ||| s.dup.syncWhy <<< 8 ||| slot)

/-- DUP_RECON (R414). -/
def dupRecon (s : State) : Word :=
  if s.dup.b0.isNone then 0
  else
    let l := reconKeys s
    BitVec.ofNat 32 (min l.length 0xFFFF <<< 16 ||| min (l.filter (fun k => reconAgreed k s)).length 0xFFFF)

end Sys2Proof.Machine
end

