-- ==== Sys2Proof/Machine/Faults.lean ====
section
/-!
DEFINITION. The commands of fault collection, of the event recorder and of the performance counters (R498 to R523).
-/
namespace Sys2Proof.Machine

/-! ## Fault sources -/

/-- The clock of one island fails (R62, R498). The monitor of the FCO island lies outside FCO: it pulls FAULT_N low and tells the supervisor
directly, and source 34 waits until the island runs again (R505). -/
def islandFault (s : State) (n : Nat) : State :=
  if n = 34 then (if s.fco.stopped then s else emit (.nmi 34) { s with fco := { s.fco with stopped := true } }) else assertSrc n s

/-- CLOCK_FAULT (R62, R498): an island's source, or the 25 MHz reference with every island that depends on it. -/
def clockFault (n : Nat) (s : State) : State :=
  if n = 16 then (16 :: (List.range 18).map (· + 17)).foldl islandFault s
  else if 17 ≤ n ∧ n ≤ 35 then islandFault s n
  else s

def execClockFault (n : Nat) (s : State) := run (clockFault n) s

/-- LOCKSTEP_MISMATCH (R498): source 48, 49 or 50. -/
def lockstepMismatch (n : Nat) (s : State) : State := if 48 ≤ n ∧ n ≤ 50 then raise n s else s

def execLockstepMismatch (n : Nat) (s : State) := run (lockstepMismatch n) s

/-- MEMORY_ECC_ERROR (R498): sources 51 to 55 and the parity sources 80 to 94. -/
def memoryEccError (n : Nat) (s : State) : State := if (51 ≤ n ∧ n ≤ 55) ∨ (80 ≤ n ∧ n ≤ 94) then raise n s else s

def execMemoryEccError (n : Nat) (s : State) := run (memoryEccError n) s

/-- The clock of one island is good again (R500, R505): the FCO island's source becomes active as the island runs. -/
def islandGood (s : State) (n : Nat) : State :=
  if n = 34 then (if s.fco.stopped then endCond 34 (assertSrc 34 { s with fco := { s.fco with stopped := false } }) else s) else endCond n s

/-- LEVEL_CONDITION_END (R500): the condition of a level source ends. The end of the reference fault ends those of its islands (R62). -/
def levelConditionEnd (n : Nat) (s : State) : State :=
  if !(srcRow n).level then s
  else if n = 16 then (16 :: (List.range 18).map (· + 17)).foldl islandGood s
  else islandGood s n

def execLevelConditionEnd (n : Nat) (s : State) := run (levelConditionEnd n) s

/-- FCO_FORCE (R504): one forced occurrence; a wrong KEY or a reserved source is ignored and recorded. A forced level source stays
active for 1 ms. -/
def fcoForce (v : Word) (s : State) : State :=
  let n := fld v 7 0
  if fld v 31 16 != 0x5A3C || !(srcRow n).known || decide (224 ≤ n) then writeIgnored 0x08010 v s
  else
    let was := s.fco.active.contains n
    let s := occur n true none s
    if (srcRow n).level && !was && s.fco.active.contains n then
      { s with fco := { s.fco with forced := tput s.fco.forced n (s.tim.mon + 1000000) } }
    else s

/-- FORCED_LEVEL_EXPIRY (R504): the source becomes inactive unless its condition holds. -/
def forcedLevelExpiry (n : Nat) (s : State) : State :=
  if !(match tget s.fco.forced n with | some t => decide (t ≤ s.tim.mon) | none => false) then s
  else
    let s := { s with fco := { s.fco with forced := tdel s.fco.forced n } }
    if s.fco.cond.contains n then s else deactivate n s

def execForcedLevelExpiry (n : Nat) (s : State) := run (forcedLevelExpiry n) s

/-- FCO_ACTIVE_CLEAR (R500): a 1 clears an event source, and a level source whose condition does not hold; it is ignored for a level
source whose condition holds. -/
def fcoActiveClear (w : Nat) (v : Word) (s : State) : State :=
  if 7 ≤ w then s
  else ((List.range 32).filter (fun b => bitAt v b)).foldl
    (fun s b => let n := 32 * w + b; if (srcRow n).level && (s.fco.cond.contains n || (tget s.fco.forced n).isSome) then s
                else deactivate n s) s

/-- FCO_WINDOW_END (R499): a window that ends below THRESH returns the count to 0. -/
def fcoWindowEnd (n : Nat) (s : State) : State :=
  if windowOpen n s then s else { s with fco := { s.fco with window := tdel s.fco.window n, opened := tdel s.fco.opened n } }

def execFcoWindowEnd (n : Nat) (s : State) := run (fcoWindowEnd n) s

/-- FCO_INTEGRITY_SCAN (R505): a failed check raises source 192 with the check in ARG; differing lanes apply the union of their
reactions. -/
def fcoIntegrityScan (r : ScanResult) (s : State) : State :=
  match r with
  | .ok => s
  | .copies => occur 192 false (some 1) s
  | .lanes u => u.foldl (fun s n => occur n false none s) (occur 192 false (some 2) s)
  | .path b => occur 192 false (some (3 ||| (b % 256) <<< 8)) s

def execFcoIntegrityScan (r : ScanResult) (s : State) := run (fcoIntegrityScan r) s

/-! ## The event recorder -/

/-- EVR_TOKEN_REFILL (R511): one token at a whole multiple of PERIOD × 10 ms of MON, up to BURST. -/
def evrTokenRefill (code : Nat) (s : State) : State :=
  let n := tgetD s.evr.spent code 0
  if n = 0 || !onMultiple (getF (0x0B000 + 4 * code) 15 8 s * 10000000) (tgetD s.evr.refillAt code 0) s.tim.mon then s
  else
    { s with evr := { s.evr with spent := if n ≤ 1 then tdel s.evr.spent code else tput s.evr.spent code (n - 1),
                                 refillAt := if n ≤ 1 then tdel s.evr.refillAt code else tput s.evr.refillAt code s.tim.mon } }

def execEvrTokenRefill (code : Nat) (s : State) := run (evrTokenRefill code) s

/-- EVR_FLUSH (R512): every 10 ms. -/
def evrFlushDue (s : State) : State :=
  if s.tim.mon < s.evr.flushAt + 10000000 then s else evrFlush { s with evr := { s.evr with flushAt := s.tim.mon } }

def execEvrFlush (s : State) := run evrFlushDue s

/-- EVR_HOLDUP_FLUSH_DONE (R37, R512): the flush of the sequence under way ends. -/
def evrHoldupFlushDone (s : State) : State :=
  match s.pwr.seq with
  | none => s
  | some q =>
    let s := evrFlush s
    { s with pwr := { s.pwr with seq := some { q with flushDone := true } } }

def execEvrHoldupFlushDone (s : State) := run evrHoldupFlushDone s

/-- The oldest EVT_SEQ of the log, 0 while it is empty (R516). -/
def evrOldest (s : State) : Nat := match s.evr.log with | e :: _ => e.seq | [] => 0

/-- EVR_CURSOR_SET (R515): the write of EVR_CURSOR_HI sets the cursor. -/
def evrCursorSet (hi : Word) (s : State) : State :=
  let s := setReg 0x0A044 hi s
  { s with evr := { s.evr with cursor := hi.toNat <<< 32 ||| (getReg 0x0A040 s).toNat } }

/-- The record with a sequence number, staged or flushed. -/
def findEvt (q : Nat) (s : State) : Option Evt := (s.evr.log ++ s.evr.staged).find? (fun e => decide (q ≤ e.seq))

/-- The copy that a read of EVR_WIN[0] takes (R515): a cursor below the oldest record moves to it and sets BEHIND; a cursor above the
newest record copies zeros and sets AHEAD. -/
def evrWinCopy (s : State) : State :=
  let c := s.evr.cursor
  match (s.evr.log ++ s.evr.staged).getLast? with
  | none => setReg 0x0A048 0x20000000 { s with evr := { s.evr with window := zeros 32 } }
  | some last =>
    if last.seq < c then setReg 0x0A048 0x20000000 { s with evr := { s.evr with window := zeros 32 } }
    else
      match findEvt c s with
      | none => s
      | some e =>
        let oldest := match s.evr.log ++ s.evr.staged with | o :: _ => o.seq | [] => 0
        let skipped := if c < oldest then oldest - c else 0
        let st : Nat := 0x80000000 ||| (if c < oldest then 0x40000000 else 0) ||| min skipped 0xFFFF
        let s := { s with evr := { s.evr with window := e.bytes, cursor := if c < oldest then e.seq else c } }
        setReg 0x0A048 (BitVec.ofNat 32 st) (if c < oldest then setPair 0x0A040 e.seq s else s)

/-- EVR_WIN[k] (R516). -/
def evrWin (k : Nat) (s : State) : Word := BitVec.ofNat 32 (leAt s.evr.window (4 * k) 4)

/-- EVR_WIN_COPY (R515). -/
def evrWinRead (who : Requester) (s : State) : State :=
  let s := evrWinCopy s
  emit (.regRead who 0x0A060 (evrWin 0 s)) s

/-- EVR_WIN_ADVANCE (R515): the read of EVR_WIN[7] advances the cursor while AUTOINC is 1. -/
def evrWinAdvance (who : Requester) (s : State) : State :=
  let s := emit (.regRead who 0x0A07C (evrWin 7 s)) s
  if getB 0x0A000 0 s then
    let c := (s.evr.cursor + 1) % 2 ^ 64
    setPair 0x0A040 c { s with evr := { s.evr with cursor := c } }
  else s

/-- EVT_REPLAY (R514): delivery goes on from a record, or from the oldest if it is older. -/
def evtReplay (r : Req) (q : Nat) (s : State) : State :=
  if s.evr.newest < q then finish r 0x16 0 s
  else
    let items : List Item := (s.evr.log.filter (fun e => decide (q ≤ e.seq))).map
      (fun e => { key := e.seq, irq := e.flags / 8 % 2 == 1, data := e.bytes, mon := s.tim.mon })
    let first := max q (evrOldest s)
    let s := { s with evr := { s.evr with delivered := min s.evr.delivered (first - 1) } }
    let s := drainItems 50 items s
    complete r 0x00 0 8 [] s

def execEvtReplay (r : Req) (s : State) := run (inlineOp r 0x0D10 8 (fun b => evtReplay r (leAt b 0 8))) s

/-! ## Performance counters -/

/-- The performance events of R518 whose occurrences no command of the table shows: cycles, multiply-accumulate operations, missed deadlines of
time that the model does not measure, and memory traffic (log entry 99). -/
def pmcUnseen (event : Nat) : Bool :=
  decide (event < 0x0F) || event == 0x10 || event == 0x1A || event == 0x1B || event == 0x22 || event == 0x2A || event == 0x33 || event == 0x4B ||
    (0x98 ≤ event && decide (event < 0x9B))

/-- A counter takes what an event that no command shows has added to it since it was last looked at: a free value. -/
def pmcCatch (s : State) (k : Nat) : State :=
  if getB (0x0C100 + 4 * k) 31 s && pmcUnseen (getF (0x0C100 + 4 * k) 7 0 s) then
    let d := draw s
    pmcAdd (getF (0x0C100 + 4 * k) 7 0 s) (Config.unseenCount d.1 % 2 ^ 64) d.2
  else s

/-- SNAP (R520): all 32 counters into their SNAP registers in one step, with the MON of that step. -/
def pmcSnap (s : State) : State :=
  let s := (List.range 32).foldl pmcCatch s
  setPair 0x0C008 s.tim.mon { s with pmc := { s.pmc with snap := s.pmc.count, snapMon := s.tim.mon } }

/-- CLEAR (R523): all counters, snapshots and peaks to 0. -/
def pmcClear (s : State) : State :=
  let s := { s with pmc := { s.pmc with count := [], snap := [] } }
  (List.range 5).foldl (fun s p => setReg (0x0C610 + 0x20 * p) 0 (setReg (0x0C60C + 0x20 * p) 0 s)) s

/-- The 272-byte item of a snapshot (R521). -/
def pmcItem (s : State) : Bytes :=
  le 8 s.pmc.snapMon ++ le 8 s.pmc.sample ++ (List.range 32).flatMap (fun k => le 8 (tgetD s.pmc.snap k 0))

/-- A snapshot for the ring (R521): it also updates the SNAP registers, and its number rises by one. -/
def pmcSampleOut (s : State) : State :=
  let s := pmcSnap s
  let s := { s with pmc := { s.pmc with sample := s.pmc.sample + 1 } }
  deliver 51 (pmcItem s) s

/-- PMC_PERIODIC_SNAPSHOT (R521): with PERIOD above 0, at a whole multiple of PERIOD ms of MON. -/
def pmcPeriodic (s : State) : State :=
  if onMultiple (getF 0x0C004 15 0 s * 1000000) s.pmc.lastAt s.tim.mon then pmcSampleOut { s with pmc := { s.pmc with lastAt := s.tim.mon } } else s

def execPmcPeriodicSnapshot (s : State) := run pmcPeriodic s

/-- PMC_SAMPLE (R514). -/
def pmcSample (r : Req) (param : Nat) (s : State) : State :=
  if param ≠ 0 then finish r 0x16 0 s else complete r 0x00 0 4 [] (pmcSampleOut s)

def execPmcSample (r : Req) (s : State) := run (inlineOp r 0x0D20 4 (fun b => pmcSample r (leAt b 0 4))) s

/-- PMC_SEL_WRITE (R519, R523): an EVENT above 9Fh is ignored and recorded; a changed EVENT clears the counter. -/
def pmcSelWrite (k : Nat) (v : Word) (s : State) : State :=
  let a := 0x0C100 + 4 * k
  if 32 ≤ k then s
  else if 0x9F < fld v 7 0 then writeIgnored a v s
  else
    let changed := fld v 7 0 != getF a 7 0 s
    let s := setReg a (v &&& 0x800000FF) s
    if changed then { s with pmc := { s.pmc with count := tdel s.pmc.count k } } else s

/-- BWCFG_WRITE (R522, R523): a change of WIN_MS or EN discards the window in progress; a WIN_MS out of range is ignored and recorded. -/
def bwcfgWrite (p : Nat) (v : Word) (s : State) : State :=
  let a := 0x0C600 + 0x20 * p
  if 5 ≤ p then s
  else if fld v 15 0 = 0 ∨ 60000 < fld v 15 0 then writeIgnored a v s
  else
    let changed := v &&& 0x8000FFFF != getReg a s
    let s := setReg a (v &&& 0x8000FFFF) s
    if changed then { s with pmc := { s.pmc with bw := tput s.pmc.bw p { tgetD s.pmc.bw p {} with tx := 0, rx := 0, running := false } } }
    else s

/-- BW_WINDOW_END (R522): LAST_TX and LAST_RX take the window's counts in units of 64 octets, the peaks follow, and the next window
begins, at a whole multiple of WIN_MS ms of MON. -/
def bwWindowEnd (p : Nat) (s : State) : State :=
  let a := 0x0C600 + 0x20 * p
  if 5 ≤ p || !getB a 31 s then s
  else
    let w := tgetD s.pmc.bw p {}
    let next := { s with pmc := { s.pmc with bw := tput s.pmc.bw p { w with tx := 0, rx := 0, running := true, at_ := s.tim.mon } } }
    if !onMultiple (getF a 15 0 s * 1000000) w.at_ s.tim.mon then s
    else if !w.running then next
    else
      let tx := lo32 (min (w.tx / 64) 0xFFFFFFFF)
      let rx := lo32 (min (w.rx / 64) 0xFFFFFFFF)
      let s := setReg (a + 8) rx (setReg (a + 4) tx next)
      let s := setReg (a + 0xC) (if (getReg (a + 0xC) s).toNat < tx.toNat then tx else getReg (a + 0xC) s) s
      let s := setReg (a + 0x10) (if (getReg (a + 0x10) s).toNat < rx.toNat then rx else getReg (a + 0x10) s) s
      setReg (a + 0x14) (getReg (a + 0x14) s + 1) s

def execBwWindowEnd (p : Nat) (s : State) := run (bwWindowEnd p) s

/-- LAST_TX_READ (R522): the read latches LAST_RX of the same window for the next read of LAST_RX. -/
def lastTxRead (who : Requester) (p : Nat) (s : State) : State :=
  if 5 ≤ p then s
  else
    let a := 0x0C600 + 0x20 * p
    let s := { s with pmc := { s.pmc with bw := tput s.pmc.bw p { tgetD s.pmc.bw p {} with rxLatch := some (getReg (a + 8) s) } } }
    emit (.regRead who (a + 4) (getReg (a + 4) s)) s

end Sys2Proof.Machine
end

