-- ==== Sys2Proof/Machine/Provision.lean ====
section
/-!
DEFINITION. Keys for a new or unkeyed module (R412, R491, R492): the wrapped-key transfer on the peer link and the operator's bundle.
-/
namespace Sys2Proof.Machine

/-- What a module that has just become keyed does (R399, R408, R412, R314): it brings up MACsec where a port runs it, signs what it held, takes the
role in the single configuration, and resynchronises where it resigned for want of keys. -/
def keyedNow (was : Bool) (s : State) : State :=
  if was || !keyed s then s
  else
    let s := [0, 1, 2, 3].foldl (fun s p => if macsecOn p s && (eth p s).txAn.isNone then startAssoc p s else s) s
    let s := signHeld s
    let s := if s.dup.state == .single && !s.dup.morReleased then takeMor s else s
    unresign 6 s

/-- PROVISION_KEYS on the unkeyed module (R491, steps 4 to 6). -/
def provisionKeys (b : KeyBundle) (s : State) : State :=
  if keyed s || s.kst.nu.isNone then s
  else
    let want := getF 0x0E004 7 4 s
    if !b.certOk then sendPeer (.provDone false) (provFail 1 s)
    else if !b.sigOk then sendPeer (.provDone false) (provFail 2 s)
    else if want ≠ 15 ∧ b.senderSlot ≠ want then sendPeer (.provDone false) (provFail 3 s)
    else
      let s := installKeys false b.slots { s with kst := { s.kst with nu := none } }
      keyedNow false (sendPeer (.provDone true) s)

def execProvisionKeys (b : KeyBundle) (s : State) := run (provisionKeys b) s

/-- The keyed module starts the transfer (R412, R491, steps 1 to 3): the peer's SLOT_ID must match. -/
def startTransfer (certOk : Bool) (h : PeerHdr) (s : State) : State :=
  let want := getF 0x0E004 7 4 s
  if !certOk || (want != 15 && want != h.slot) then
    endOps (fun o => match o with | .provision => true | _ => false) 0x9B 0 (provFail (if certOk then 3 else 1) s)
  else
    let d := draw s
    sendPeer (.provKeys (ownBundle d.2)) { d.2 with kst := { d.2.kst with prov := some (Config.random d.1 % 2 ^ 128) } }

/-- PROVISION_DONE on the keyed module (R412, R413, R491). A transfer that fails ends DUP_PROVISION with SIG_INVALID (log entry 42). -/
def provisionDone (ok : Bool) (s : State) : State :=
  if s.kst.prov.isNone || !keyed s then s
  else
    let s := if ok then { s with kst := { s.kst with prov := none } } else provFail 4 s
    endOps (fun o => match o with | .provision => true | _ => false) (if ok then 0x00 else 0x9B) 0 s

def execProvisionDone (ok : Bool) (s : State) := run (provisionDone ok) s

/-- DUP_PROVISION (R412, R413): `certOk` is whether the certificate of the peer's HELLO verifies against slot 0. -/
def dupProvision (r : Req) (p : Nat) (certOk : Bool) (s : State) : State :=
  if p ≠ 0 then finish r 0x16 0 s
  else if !duplex s then finish r 0x19 8 s
  else
    match s.dup.peer with
    | none => finish r 0x80 0 s
    | some h =>
      if h.keyed then finish r 0x19 3 s
      else if !keyed s then finish r 0x98 0 s
      else startTransfer certOk h (waitOp .provision r s)

def execDupProvision (r : Req) (certOk : Bool) (s : State) := run (inlineOp r 0x0F23 4 (fun b => dupProvision r (leAt b 0 4) certOk)) s

/-- AUTO_PROVISION (R412): an unkeyed peer has been present for 10 s. -/
def autoProvision (certOk : Bool) (s : State) : State :=
  match s.dup.peer with
  | some h => if getB 0x0E004 2 s && keyed s && !h.keyed && duplex s && decide (s.dup.peerSince + 10000000000 ≤ s.tim.mon) && s.kst.prov.isNone then startTransfer certOk h s else s
  | none => s

def execAutoProvision (certOk : Bool) (s : State) := run (autoProvision certOk) s

/-- KEY_PROVISION (R492, R493): the bundle's key must have the stored fingerprint; the first bundle accepted stores it. -/
def keyProvision (r : Req) (b : KeyBundle) (len : Nat) (s : State) : State :=
  let known := match s.kst.fpr with | some f => f == b.fingerprint | none => true
  if !b.sigOk || !known then finish r 0x9B 0 (evt 16 0xB (argPair 2 0) s)
  else
    let was := keyed s
    let s := installKeys true b.slots { s with kst := { s.kst with fpr := some b.fingerprint } }
    keyDone r len [] (keyedNow was s)

/-- KEY_PROVISION (R493): the buffer holds the bundle, whose layout the spec does not give; it arrives as its content. -/
def execKeyProvision (r : Req) (b : KeyBundle) (s : State) := run (withOp r [0x0C12] (some []) (fun d _ => keyProvision r b d.length)) s

end Sys2Proof.Machine
end

