-- ==== Sys2Proof/Machine/Round.lean ====
section
/-!
DEFINITION. The instants of a round (R17 to R24, R342 to R346): its start with the round number, the swap of a model, an exchange, a handover
and a configuration; the close of the read phase; the end of the separator's window; the opening of the write phase; the close.
-/
namespace Sys2Proof.Machine

/-- The round number of the round that starts (R18, R74): 2 above the committed number for the first round after a restart. -/
def nextRound (s : State) : Nat := s.rnd.number + (if s.rnd.started then 1 else 2)

/-- The exchange in the single configuration at round X (R381, R383): the mapped state starts, or the exchange is abandoned. -/
def exchangeAlone (p : ProgImage) (e : Exchange) (s : State) : State :=
  match e.captured, e.mapped with
  | some c, some m =>
    let rec_ := exchangeRecord e.target (progSig s) p (progVars s) c.2.1 c.2.2
    let s := match e.req with | some r => complete r 0x00 0 16 [] (deliver r.pair rec_ s) | none => s
    endExchanging (installProg p m.1 m.2 (some c.1) s)
  | _, _ => exchangeAbandon s

/-- The exchange on the module in control of a pair at round X (R381, R383): it becomes standby, loads the new program and resynchronises. -/
def exchangeLeave (p : ProgImage) (e : Exchange) (s : State) : State :=
  match e.captured with
  | some c =>
    let rec_ := exchangeRecord e.target (progSig s) p (progVars s) c.2.1 c.2.2
    let s := match e.req with | some r => complete r 0x00 0 16 [] (deliver r.pair rec_ s) | none => s
    resync (endExchanging (installProg p [] [] none s))
  | none => exchangeAbandon s

/-- The exchange on the standby at round X (R381): it takes control with the mapped state. -/
def exchangeEnter (p : ProgImage) (e : Exchange) (s : State) : State :=
  match e.captured, e.mapped with
  | some c, some m => takeControl false (endExchanging (installProg p m.1 m.2 (some c.1) s))
  | _, _ => { s with cyc := { s.cyc with exch := none } }

/-- A program exchange at its target round (R381). -/
def exchangeRound (s : State) : State :=
  match s.cyc.exch, s.cyc.staged with
  | some e, some p =>
    if s.rnd.number < e.target then s
    else if !duplex s || s.dup.state == .single then exchangeAlone p e s
    else if s.dup.state == .control then exchangeLeave p e s
    else exchangeEnter p e s
  | _, _ => s

/-- A switch-over that DUP_HANDOVER asked for (R413): the module in control gives it up at the round start, with the role where it was asked. -/
def handoverDue (s : State) : State :=
  match s.dup.ops.find? (fun o => match o.1 with | .handover _ => true | _ => false) with
  | some (.handover withMor, _) =>
    if s.dup.state == .control then resign 1 (if withMor then setMor false s else s) else s
  | _ => s

/-- The new claim that a module in control takes where its peer shows one as high (R406). -/
def claimDue (s : State) : State := if s.dup.state == .control && s.dup.newClaim && claimLeft s then newClaim s else s

/-- One station at the start of a round: what its request asks for and acknowledges (R342, R347); a FETCH_MAX of 0 disables fetching (R361). -/
def openStn (listed : List Nat) (s : State) (id : Nat) : State :=
  beginStn (if getF 0x2C008 23 16 s = 0 then none else fetchOf id s) (backlogAck id s) (listed.contains id) id s

/-- ROUND_START in a pair: the module in control tells its peer (R17, R343). -/
def tellRound (s : State) : State :=
  if duplex s && s.dup.state == .control then sendPeer (.roundStart s.rnd.bounds s.disp.anchor) s else s

/-- The number and the boundaries of the round that starts: the number is committed to MRAM before the first frame leaves (R74). -/
def openNumber (number : Nat) (bounds : Word) (s : State) : State :=
  let s := { s with rnd := { s.rnd with number := number, phase := .read, frozen := false, started := true, anchor := s.tim.mon,
                                        holdWrite := false, bounds := bounds, port := getF 0x2C010 15 0 s },
                    sep := { s.sep with settled := false }, ctr := { s.ctr with stepped := false },
                    dup := { s.dup with heldPrev := s.dup.heldNow, heldNow := 0, heldBy := [] } }
  pmcAdd 0x4C 1 (emit (.stored 0x10 (le 8 number)) s)

/-- A round starts (R17 to R19, R342 to R344) once start-up has reached stage 5 (R72). In a block reset of RND the number advances and no frame leaves
(R68). -/
def roundBegin (number : Nat) (bounds : Word) (s : State) : State :=
  if !stage5 s || seqRuns s then s
  else
    let s := tellRound (claimDue (cfgRound (modelSwap (openNumber number bounds s))))
    let s := releaseTasks (handoverDue (exchangeRound s))
    let l := readList s
    let s := (stnIds s).foldl (openStn l) s
    l.foldl (fun s i => sendReadReq false i s) s

/-- Whether the peer in control sets the round start for this module (R17). -/
def follows (s : State) : Bool :=
  duplex s && !inControl s && !s.dup.isolated && (match s.dup.peer with | some h => h.state == 3 | none => false)

/-- Whether this module's timing calls for a round start, `late` ns after it (R17, R459): while NET is synchronised, at the first whole NET second that
lies at least 500 ms of MON after the last start, or after stage 5 before the first one; otherwise 1,000,000,000 ns of MON after the last start. -/
def startDue (late : Nat) (s : State) : Bool :=
  let least := s.rnd.anchor + (if s.rnd.started then 500000000 else 0)
  let past := s.tim.net % sec
  if s.tim.quality == .sync then decide (least + past ≤ s.tim.mon) && (decide (late ≤ past) || decide (least + past + sec ≤ s.tim.mon))
  else decide (s.rnd.anchor + 1000000000 + late ≤ s.tim.mon)

/-- ROUND_START (R17): on this module's own timing and with its own boundaries (R343), once the last round has closed. -/
def roundStart (s : State) : State :=
  if follows s || !startDue 0 s || s.rnd.phase != .idle then s else roundBegin (nextRound s) (getReg 0x2C004 s) s

/-- The first round after a restart (R17): at the completion of stage 5 where NET is not synchronised, otherwise at the NET second after it. A module
whose peer is in control follows the peer. -/
def firstRound (s : State) : State :=
  let s := { s with rnd := { s.rnd with anchor := s.tim.mon } }
  if follows s || s.tim.quality == .sync then s else roundBegin (nextRound s) (getReg 0x2C004 s) s

def execRoundStart (s : State) := run roundStart s

/-- ROUND_START_TIMEOUT (R394): 2 ms after the expected start the standby starts the round on its own timing, with the boundaries last received
(R343). -/
def roundStartTimeout (s : State) : State :=
  if !(duplex s && !inControl s) || !startDue 2000000 s || s.rnd.phase != .idle then s
  else roundBegin (nextRound s) (s.rnd.peerBounds.getD (getReg 0x2C004 s)) s

def execRoundStartTimeout (s : State) := run roundStartTimeout s

/-- ROUND_START_MSG (R17, R74, R343, R393): the module in control sets the round start, the number and the boundaries for both. -/
def roundStartMsg (h : PeerHdr) (phases : Word) (anchor : Option Nat) (s : State) : State :=
  onMessage false h (fun s =>
    if inControl s then s
    else if s.rnd.started && h.round == s.rnd.number then s
    else
      let s := { s with rnd := { s.rnd with peerBounds := some phases }, disp := { s.disp with anchor := anchor } }
      roundBegin h.round phases s) s

def execRoundStartMsg (h : PeerHdr) (phases : Word) (anchor : Option Nat) (s : State) := run (roundStartMsg h phases anchor) s

/-- READ_CLOSE (R344): the snapshot is frozen and goes to the separator, the tally and the duplex block (R24, R300, R373, R402). -/
def readClose (s : State) : State :=
  if s.rnd.phase != .read || decide (s.tim.mon < boundary 7 0 s) then s
  else
    let s := publishStations (dispReadings (tlyIntegrate (rndReadClose s)))
    sepOpen (evidenceCheck s)

def execReadClose (s : State) := run readClose s

/-- SEP_WINDOW_END (R24, R142, R218): a separator that has not published abandons its estimate; its job on the fast port ends with DEADLINE, or
leaves the port where it has not started. -/
def sepWindowEnd (s : State) : State :=
  if s.sep.work.isNone || s.rnd.phase != .compute || decide (s.tim.mon < boundary 15 8 s) then s
  else
    let s := if s.chu.f.isNone then s
      else if s.chu.comp == some .f then fastEnd 0x21 s
      else countJob 0x21 { s with chu := { s.chu with f := none } }
    sepFail 0x30 1 s

def execSepWindowEnd (s : State) := run sepWindowEnd s

/-- The commands of a round, latched for every station (R23, R345, R350, R397). -/
def latchAll (s : State) : State :=
  if !sendsCommands s || s.rnd.holdWrite then s
  else
    let s := (stnIds s).foldl latchOut s
    (stnIds s).foldl (fun s i => latchStn (budgetOf i s) s i) s

/-- The stations on the write list, in the order of R344. -/
def writeList (s : State) : List Nat := (List.range 16).flatMap (fun g => (groupStns g s).filter (fun i => (stn i s).round.onList))

/-- OUTPUT_SUMMARY (R404). -/
def summarise (s : State) : State :=
  let o := ownSummary s
  let s := dupSet (fun d => { d with ownSum := some o }) s
  if duplex s then sendPeer (.summary o) s else s

/-- WRITE_OPEN (R19, R23, R345), once the curd tracker has finished its step: commands are latched and go out; the tally latches budgets, the outputs are summarised, and a program that is to be
exchanged at the next round freezes (R304, R381, R404). -/
def writeOpen (s : State) : State :=
  if s.rnd.phase != .compute || !s.ctr.stepped || decide (s.tim.mon < boundary 23 16 s) then s
  else
    let s := latchBudgets (dispLatch { s with rnd := { s.rnd with phase := .write } })
    let s := latchAll (dispCommands s)
    let s := (writeList s).foldl (fun s i => sendWrite false i s) s
    exchangeFreeze (summarise (tlyLatch s))

def execWriteOpen (s : State) := run writeOpen s

/-- ROUND_CLOSE (R340, R356): the outcomes of the stations, the comparison of outputs with the summary that has come, dispatch, and what waits for
a round close. -/
def roundClose (theirs : Option OutSummary) (s : State) : State :=
  if s.rnd.phase != .write || decide (s.tim.mon < boundary 31 24 s) then s
  else
    let s := dupSet (fun d => { d with closedAt := if rndRuns s then some s.tim.mon else d.closedAt }) (rndClose s)
    let s := setReg 0x0E02C (lo32 s.dup.heldNow) s
    let s := testMissing (dupSet (fun d => { d with cmpSkip := false }) (outputCompare theirs s))
    unresign 7 (updRoundClose (morClose (reconcile (dispClose s))))

def execRoundClose (theirs : Option OutSummary) (s : State) := run (roundClose theirs) s

/-- NO_ROUND_CLOSED_3S (R24, R399): a module in control that has closed no round for 3 s resigns with cause 7; a standby cannot take control, and records
that READY is 0. The 3 s run from the start of the round in progress where none has closed since the restart. -/
def noRoundClosed (s : State) : State :=
  if s.tim.mon < s.dup.closedAt.getD s.rnd.anchor + 3000000000 then s
  else if s.dup.state == .control then resign 7 s
  else if s.dup.state == .standby then evt 7 4 (argCond 0x0E020 23 0) s
  else s

def execNoRoundClosed3s (s : State) := run noRoundClosed s

end Sys2Proof.Machine
end

