-- ==== Sys2Proof/Machine/Power.lean ====
section
/-!
DEFINITION. Supply, presence, temperature, the hold-up store and its sequence (R32 to R58), the commands of GLB_CTRL and GLB_BLKRST (R69, R70) and the
entry into standby (R72).
-/
namespace Sys2Proof.Machine

/-! ## Feeds and temperature -/

/-- The OK bit of a feed in GLB_HWSTAT; its sticky bit lies 12 above (R57). -/
def feedBit : Feed → Nat
  | .a => 0 | .b => 1

/-- FEED_LOST (R34). -/
def feedLost (f : Feed) (s : State) : State :=
  let s := setB 0x7F040 (12 + feedBit f) true (setB 0x7F040 (feedBit f) false s)
  evt 0 3 (argCond 0x7F040 (12 + feedBit f) 0) (assertSrc 1 s)

def execFeedLost (f : Feed) (s : State) := run (feedLost f) s

/-- FEED_RETURNED (R34): the source stays while the other feed is lost. -/
def feedReturned (f : Feed) (s : State) : State :=
  let s := setB 0x7F040 (feedBit f) true s
  evt 0 3 (argCond 0x7F040 (feedBit f) 0) (setCond 1 (!(getB 0x7F040 0 s && getB 0x7F040 1 s)) s)

def execFeedReturned (f : Feed) (s : State) := run (feedReturned f) s

/-- GLB_TEMPMAX after a refresh (R551): tracking restarts at the first refresh after a read. -/
def tempMax (mk : Int) (s : State) : Word :=
  if s.pwr.tempMaxOk && decide (mk ≤ (getReg 0x7F048 s).toInt) then getReg 0x7F048 s else BitVec.ofInt 32 mk

/-- TEMP_REFRESH (R32). -/
def tempRefresh (mk : Int) (s : State) : State :=
  let s := setReg 0x7F048 (tempMax mk s) (setReg 0x7F044 (BitVec.ofInt 32 mk) s)
  let s := { s with pwr := { s.pwr with tempMaxOk := true } }
  setCond 3 (decide (108000 < mk)) (setB 0x7F040 9 (decide (108000 < mk)) s)

def execTempRefresh (mk : Int) (s : State) := run (tempRefresh mk) s

/-! ## The hold-up sequence -/

def execPowerFail (s : State) := run (beginHoldup .powerFail) s

/-- PRESENT_LOST (R37, R41). -/
def presentLost (s : State) : State := beginHoldup .presentLost (setB 0x7F040 2 false s)

def execPresentLost (s : State) := run presentLost s

def execOverTempStop (s : State) := run (beginHoldup .overTemp) s

def execPowerdown (s : State) := run (beginHoldup .powerdown) s

/-- The final commit before the rails go off or before a module reset (R65, R306); it clears the marker as its last write. -/
def endFinalCommit (s : State) : State :=
  match s.pwr.seq with
  | some q =>
    if q.commitDone then s
    else
      let s := if s.tly.metering then finalCommit s else s
      { s with pwr := { s.pwr with seq := some { q with commitDone := true } } }
  | none => s

def execFinalCommitDone (s : State) := run endFinalCommit s

/-- The rails go off: only the backup domain stays, staged records that no flush has written are lost (R37, R513), and no request reaches
the host any more (R56). -/
def dropRails (why : HoldupWhy) (flushed : Bool) (s : State) : State :=
  let lost := if flushed then 0 else s.evr.staged.length
  let s := linkDown (setB 0x7F040 3 false (showClm .hiZ s))
  { s with pwr := { s.pwr with on := false, offWhy := some why, seq := none, faultHigh := false, offRtc := s.tim.rtc },
           evr := { s.evr with staged := [], header := lost },
           hif := { s.hif with busMaster := false },
           start := { s.start with outputsLive := false } }

/-- RAILS_OFF (R37): the last step of the hold-up sequence. -/
def railsOff (s : State) : State :=
  match s.pwr.seq with
  | some { why := .holdup w, flushDone := f, .. } => dropRails w f s
  | _ => s

def execRailsOff (s : State) := run railsOff s

/-- HOLDUP_STORE_EXHAUSTED (R39): a final commit that has not completed leaves its bank unreadable, and the marker stays. -/
def storeExhausted (s : State) : State :=
  match s.pwr.seq with
  | some { why := .holdup w, flushDone := f, commitDone := c } =>
    let s := if c || !s.tly.metering then s
      else if s.tly.latest = 0 then { s with tly := { s.tly with bank1 := none } } else { s with tly := { s.tly with bank0 := none } }
    dropRails w f s
  | _ => s

def execHoldupStoreExhausted (s : State) := run storeExhausted s

/-! ## The hold-up store -/

/-- The field outputs follow the output image once the role's pattern is shown and HOLDUP_READY is 1 (R35, R72). -/
def outputsFollow (s : State) : State :=
  if s.pwr.clm == .control || s.pwr.clm == .standby then { s with start := { s.start with outputsLive := s.start.outputsLive || holdupReady s } }
  else s

/-- HOLDUP_READY_SET (R35, R399). -/
def holdupReadySet (s : State) : State :=
  let s := setB 0x7F040 3 true s
  unresign 9 (outputsFollow (setCond 2 (getB 0x7F040 4 s) s))

def execHoldupReadySet (s : State) := run holdupReadySet s

/-- Whether the peer is a READY standby. -/
def peerReady (s : State) : Bool := match s.dup.peer with | some h => h.ready && h.state == 2 | none => false

/-- HOLDUP_READY_LOST (R45). -/
def holdupReadyLost (s : State) : State :=
  let s := setB 0x7F040 3 false s
  if !inControl s then s
  else
    let s := evt 0 4 (argCond 0x7F040 3 0) (assertSrc 2 s)
    if duplex s && peerReady s then resign 9 s else s

def execHoldupReadyLost (s : State) := run holdupReadyLost s

/-- HOLDUP_CAPACITY_MEASURE (R36): the measured energy in per cent of what 60 ms at 52 W needs. -/
def holdupMeasure (pct : Nat) (s : State) : State :=
  let s := setB 0x7F040 4 (decide (pct < 100)) (setF 0x7F040 23 16 (min pct 255) s)
  setCond 2 (decide (pct < 100) || (!holdupReady s && inControl s)) s

def execHoldupCapacityMeasure (pct : Nat) (s : State) := run (holdupMeasure pct) s

/-! ## SFP+ cages -/

/-- SFP_OVERPOWER (R54): the cage goes off, and the port's link with it. -/
def sfpOverpower (p : Nat) (s : State) : State :=
  if 4 ≤ p ∨ s.pwr.sfpOff.contains p then s
  else
    ringLink p false (assertSrc 67 { s with pwr := { s.pwr with sfpOff := s.pwr.sfpOff ++ [p] } })

def execSfpOverpower (p : Nat) (s : State) := run (sfpOverpower p) s

/-- A cage is powered again (R54); the source clears with the last one. -/
def cagePower (p : Nat) (s : State) : State :=
  if !s.pwr.sfpOff.contains p then s
  else
    let left := without s.pwr.sfpOff p
    setCond 67 (!left.isEmpty) { s with pwr := { s.pwr with sfpOff := left } }

/-- SFP_INSERTED (R54): the module reads the identification and the diagnostics of the SFP+ module, and a cage that is off is powered again. -/
def sfpInserted (p : Nat) (page : Bytes) (s : State) : State :=
  if 4 ≤ p then s else cagePower p { s with pwr := { s.pwr with sfpPage := tput s.pwr.sfpPage p page } }

def execSfpInserted (p : Nat) (page : Bytes) (s : State) := run (sfpInserted p page) s

/-! ## Commands on the whole module -/

def execSupervisorWatchdogExpiry (s : State) := run (beginModReset .watchdog 3 .automatic) s

/-- The restart kind that RESTART of GLB_CTRL requests (R69). -/
def restartKind (v : Nat) : RestartKind := if v = 1 then .warm else if v = 2 then .cold else .automatic

def execModreset (restart : Nat) (s : State) := run (beginModReset .software 3 (restartKind restart)) s

/-- BLKRST (R68, R70): a wrong key, a request while BUSY, and a block that cannot be reset are ignored and recorded. -/
def blkrst (v : Word) (s : State) : State :=
  let bs := codeBlocks (fld v 5 0)
  if fld v 31 16 ≠ 0x5A3C ∨ getB 0x7F018 8 s = true ∨ bs.isEmpty ∨ bs = [.tim] ∨ bs = [.fco] then writeIgnored 0x7F018 v s
  else bs.foldl beginBlockReset s

def execBlkrst (v : Word) (s : State) := run (blkrst v) s

/-- STANDBY_ENTRY (R46, R72): the resynchronised module shows the standby pattern. -/
def standbyEntry (s : State) : State :=
  if s.dup.state != .standby || seqRuns s then s
  else
    let s := setF 0x7F01C 3 0 (max (getF 0x7F01C 3 0 s) 6) (showClm .standby s)
    outputsFollow s

def execStandbyEntry (s : State) := run standbyEntry s

end Sys2Proof.Machine
end

