-- ==== Sys2Proof/Machine/Reset.lean ====
section
/-!
DEFINITION. The power-on reset and the module reset (R63 to R67, R71, R546), start-up and the restart decision (R72 to R77), and the end of a block reset
(R67, R68).
-/
namespace Sys2Proof.Machine

/-! ## Registers -/

/-- The bits of a register that a reset leaves: stored, retained and measured values, and status that shows what goes on outside (R57, R67, R479,
R480, R546); a module reset also keeps the MSI-X table and the link status. -/
def resetKeeps (por : Bool) (a : Nat) : Nat :=
  if a = 0x06008 ∨ a = 0x06020 ∨ (0x06800 ≤ a ∧ a < 0x06900) ∨ a = 0x48008 ∨ (0x48100 ≤ a ∧ a < 0x48200) ∨ a = 0x7F00C ∨ a = 0x7F044 then 0xFFFFFFFF
  else if a = 0x06004 then (if por then 0xDE000000 else 0xDFC00000)
  else if por then 0
  else if a = 0x00004 ∨ (0x03000 ≤ a ∧ a < 0x04000) then 0xFFFFFFFF
  else if a = 0x7F040 then 0x0FFF021F
  else if a = 0x38008 then 0x30000000
  else 0

/-- The register file after a reset (R67). -/
def resetFile (por : Bool) (s : State) : State :=
  let addrs := s.regs.map (·.1) ++ (s.cfg.regs.map (·.1)).filter (fun a => decide (0x04000 ≤ a))
  addrs.foldl (fun t a =>
    let keep := BitVec.ofNat 32 (resetKeeps por a)
    setReg a ((getReg a s &&& keep) ||| (loadValue a s &&& ~~~keep)) t) { s with regs := [] }

/-- DUP_CFG and BKD_SRCCFG take their values from the configuration and the order code (R415, R479). -/
def resetConfigured (s : State) : State :=
  let d := b2n s.cfg.duplex + 2 * b2n s.cfg.prefMor + 16 * (s.cfg.peerSlot % 16)
  let auto := match tget s.cfg.regs 0x0E004 with | some v => b2n (bitAt v 2) | none => 0
  let s := setReg 0x0E004 (BitVec.ofNat 32 (d + 4 * auto)) s
  if (tget s.cfg.regs 0x06024).isSome then s else setReg 0x06024 (if s.cfg.variantT then 7 else 5) s

/-- GLB_RSTCAUSE with bits 7:0 and FCO_SRC (R71), and one more start in GLB_BOOTCNT (R551). -/
def setCauseOf (bits src : Nat) (s : State) : State :=
  setF 0x7F00C 15 0 (getF 0x7F00C 15 0 s + 1) (setReg 0x7F014 (BitVec.ofNat 32 (src <<< 8 ||| bits)) s)

/-! ## Blocks -/

/-- The level sources whose condition lies outside the module's own state: it holds through a module reset (R498, R500). -/
def outerSources : List Nat := [1, 2, 3] ++ (List.range 20).map (· + 16) ++ [64, 73, 78]

/-- The collector after a reset (R67, R500): every condition that holds is taken as an occurrence. -/
def resetFco (conds : List Nat) (s : State) : State :=
  conds.foldl (fun s n => occur n false none s) { s with fco := { cond := conds } }

/-- The host interface after a reset (R67): every pair is disabled; the items of deferred streams stay in their stores. -/
def resetHif (por : Bool) (h : HifSt) : HifSt :=
  let rings := h.rings.filterMap (fun e => if e.2.items.isEmpty then none else some (e.1, { items := e.2.items }))
  if por then { rings := rings, lastOut := h.lastOut } else { h with rings := rings, ownerLeft := false, latch := [] }

/-- The recorder after a reset: the log stays; the records of a flush that did not end are counted (R513). -/
def resetEvr (s : State) : State :=
  let e := s.evr
  let s := { s with evr := { newest := e.newest, nextSeq := e.nextSeq, log := e.log, delivered := e.delivered, filled := e.filled, staged := [] } }
  if e.header = 0 then s else keepRec 0x1A8 0 (e.header <<< 32) 0 (setCause 0x0A010 0x0A014 1 1 (incReg 0x0A030 e.header s))

/-- What MRAM keeps of a station (R354): a session in use resumes in SUSPECT, one being enrolled ends. -/
def stnAfter (x : StnSt) : StnSt :=
  { state := match x.state with
      | .active | .suspect => .suspect
      | .enrolling => if x.everActive then .lost else .dormant
      | v => v,
    epoch := x.epoch, ns := x.ns, nm := x.nm, sps := x.sps, appIn := x.appIn, appOut := x.appOut, kind := x.kind, cgen := x.cgen,
    addr := x.addr, port := x.port, everActive := x.everActive }

/-- The round engine after a reset (R74, R353, R354): the number last committed and the sessions stay, and the restart generation rises. -/
def resetRnd (r : RndSt) : RndSt :=
  { stns := r.stns.map (fun e => (e.1, stnAfter e.2)), number := r.number, fseqGen := r.fseqGen + 1 }

/-- The network model after a reset (R129, R133): an armed image whose record is made starts as the active one; otherwise it stays staged. -/
def resetModel (s : State) : State :=
  match s.model.armed, s.model.staged with
  | some _, some m =>
    if s.model.recorded then
      let old := s.model.active
      let s := swapSlots m s
      let s := { s with model := { s.model with lastStruct := false } }
      match old with | some o => swapStns o m s | none => s
    else { s with model := { s.model with armed := none, recorded := false, lastStruct := false } }
  | _, _ => { s with model := { s.model with lastStruct := false } }

/-- The duplex state after a reset: what MRAM keeps (R395, R399, R409, R412). A power-on reset moves the resets counted onto its own MON. -/
def resetDup (back : Nat) (d : DupSt) : DupSt :=
  { claim := d.claim, resets := d.resets.map (· - (back : Int)), noted := d.noted, morReleased := d.morReleased }

/-- The tally after a reset (R67, R77): the banks, the marker, the store, the calibration and the spans that have no record yet. -/
def resetTly (t : TlySt) : TlySt :=
  { t with srcs := [], failed := [], quiet := [], pulseAcc := 0, pulses := [], spanStart := false, metering := false, clipAt := [],
           commitAt := 0 }

/-- The cyclic program after a reset: the images, the overlay and the retained area (R67, R376, R379). -/
def resetCyc (c : CycSt) : CycSt :=
  { prog := c.prog, staged := c.staged, retained := c.retained, overlay := c.overlay, wasRun := c.wasRun }

/-- The CAN channels after a reset: each takes the set-up of its register (R448). -/
def resetCans (s : State) : Tbl CanSt := (List.range 4).map (fun c => (c, { inForce := getReg (canCfgReg c) s }))

/-- The plan in force on the MON of a power-on reset, `back` ns behind (R77). -/
def movePlan (back : Nat) (p : Option Plan) : Option Plan := p.map (fun p => { p with tau0 := p.tau0 - (back : Int) })

/-- The parts that every reset puts back, beyond registers, time, keys and the collector (R67). `back` is the MON that the reset takes away with the
time that the module was without power. -/
def resetBlocks (por : Bool) (monBack back : Nat) (s : State) : State :=
  let cands := match s.model.active with | some m => pipesOf m (List.range 4) | none => []
  { s with hif := resetHif por s.hif, pwr := { on := true, offRtc := s.pwr.offRtc },
           start := { request := s.start.request, commitProg := s.start.commitProg, commitModel := s.start.commitModel, releasedAt := s.start.releasedAt },
           pmc := {}, dup := resetDup monBack s.dup, rnd := resetRnd s.rnd, chu := {}, sep := {}, ctr := { unrebuilt := cands },
           disp := { s.disp with plan := movePlan back s.disp.plan },
           lpe := { s.lpe with traces := [] }, tly := resetTly s.tly, cyc := resetCyc s.cyc,
           fio := { cans := resetCans s, dio := { inputs := s.fio.dio.inputs } } }

/-- The working slots are cleared; start-up derives them again (R67). -/
def resetKst (s : State) : State :=
  let s := clearWorking s
  { s with kst := { s.kst with prov := none, nu := none, helloAt := none } }

/-! ## Time and the backup domain -/

/-- A lost backup domain (R473): no valid RTC, no alarm and no wake, a user area of zeros, no root secret, no tamper log, no
usable slot, and KST_TAMPCFG at its first value (R496). -/
def loseBackup (s : State) : State :=
  let s := setB 0x06004 30 false (setB 0x06004 31 false s)
  let s := setReg 0x48008 (if s.cfg.variantT then 7 else 0) s
  let s := (List.range 64).foldl (fun s n => setReg (0x06800 + 4 * n) 0 s) s
  let s := (List.range 62).foldl (fun s n => if slotState (n + 2) s = 1 then setSlotState (n + 2) 2 s else s) s
  { s with tim := { s.tim with alarm := 0, period := 0, lastWake := 0, stamp := 0 },
           kst := { s.kst with root := none, tamperLog := [], tamperPend := false } }

/-- What VBD and the CRC decide at a power-on reset (R472, R473, R480). -/
def decideBackup (p : PorIn) (s : State) : State :=
  let s := setB 0x06004 31 true s
  if !(s.tim.latchOk && p.areaOk) then loseBackup s
  else if p.retDip then setB 0x06004 28 true s else s

/-- The records and the source of that decision (R472, R473). -/
def tellBackup (p : PorIn) (s : State) : State :=
  let ok := getB 0x06004 31 s
  let s := if ok && p.retDip then evt 3 3 (argCond 0x06004 28 0) s else s
  let s := if !ok && s.tim.latchOk then evt 3 0xB (argPair 0 0) s else s
  let s := { s with tim := { s.tim with latchOk := true } }
  if ok then s else raise 79 s

/-- The time domains after a power-on reset (R450, R453, R465): MON and BUS at 0, NET from a valid RTC. -/
def porTime (s : State) : State :=
  let t := s.tim
  let ok := getB 0x06004 30 s
  { s with tim := { rtc := t.rtc, shadow := t.rtc, stamp := t.stamp, alarm := t.alarm, period := t.period, lastWake := t.lastWake,
                    latchOk := t.latchOk, net := if ok then ((t.rtc : Int) + s.cfg.leapOfs * (sec : Int)).toNat else 0,
                    quality := if ok then .localQ else .free } }

/-- The time domains through a module reset (R67, R450, R453): MON, NET and BUS run on, and NET in SYNC passes to HOLDOVER. -/
def modTime (s : State) : State :=
  let t := s.tim
  { s with tim := { mon := t.mon, monF := t.monF, net := t.net, netF := t.netF, bus := t.bus, busF := t.busF, leapUntil := t.leapUntil,
                    quality := if t.quality == .sync then .holdover else t.quality, lastSync := if t.quality == .sync then t.mon else t.lastSync,
                    rtc := t.rtc, shadow := t.rtc, stamp := t.stamp, alarm := t.alarm, period := t.period, lastWake := t.lastWake,
                    latchOk := t.latchOk, source := t.source, haltUntil := t.haltUntil, measAt := t.measAt } }

/-! ## The resets -/

/-- The bits of GLB_RSTCAUSE of a power-on reset (R71). -/
def porBits : PorCause → Nat
  | .supplyUp => 0x01 | .afterHoldup => 0x11 | .afterOverTemp => 0x31 | .afterPowerdown => 0x11

/-- A power-on reset (R43, R63, R67, R450, R472, R473, R546). -/
def powerOn (cause : PorCause) (p : PorIn) (s : State) : State :=
  let from_ := if s.pwr.on then s.tim.rtc else s.pwr.offRtc
  let mon := s.tim.mon
  let away := mon + (s.tim.rtc - from_)
  let s := updBoot false { s with pwr := { s.pwr with offRtc := from_ }, start := { s.start with request := .automatic, releasedAt := 0 } }
  let s := updSet (fun u => { u with pendAt := u.pendAt - (away : Int), blockAt := 0, loaderAt := 0 }) s
  let s := decideBackup p (resetConfigured (resetFile true s))
  let s := porTime (resetKst (resetBlocks true mon away (resetModel s)))
  let s := setReg 0x7F040 (BitVec.ofNat 32 ((p.slot % 16) <<< 24 ||| 4 ||| 2 * b2n p.feedB ||| b2n p.feedA)) s
  let s := setCauseOf (porBits cause) 0xFF (loadCal s)
  let s := resetFco (if p.feedA && p.feedB then [] else [1]) (resetEvr s)
  setLeg (legNow s) (tellBackup p s)

/-- Why the rails went off, as the cause of the power-on reset that follows (R38, R63). -/
def porAfter : Option HoldupWhy → PorCause
  | some .overTemp => .afterOverTemp
  | some .powerdown => .afterPowerdown
  | some .powerFail | some .presentLost => .afterHoldup
  | none => .supplyUp

/-- Whether a power-on reset follows (R32, R38, R63): the rails are off, a feed and PRESENT_N are there, the cause is that of the stop, and the base
plate is at -40 °C or above, and after an over-temperature stop below 100 °C. -/
def porDue (cause : PorCause) (p : PorIn) (s : State) : Bool :=
  !s.pwr.on && p.present && (p.feedA || p.feedB) && cause == porAfter s.pwr.offWhy && decide (-40000 ≤ p.baseMk) &&
    (cause != .afterOverTemp || decide (p.baseMk < 100000))

/-- POWER_ON_RESET: while a sequence runs, PRESENT follows its sense, and the sequence goes on (R38, R41). -/
def execPowerOnReset (cause : PorCause) (p : PorIn) (s : State) : Host.Outcome State Fault Refusal :=
  .next (if porDue cause p s then powerOn cause p s else if s.pwr.on && seqRuns s then setB 0x7F040 2 p.present { s with pwr := { s.pwr with presentAt := s.tim.mon } } else s)

/-- OVER_TEMP_COOLED (R32, R63). -/
def execOverTempCooled (p : PorIn) (s : State) : Host.Outcome State Fault Refusal :=
  .next (if porDue .afterOverTemp p s then powerOn .afterOverTemp p s else s)

/-- The bits of GLB_RSTCAUSE of a module reset, and its source (R71). -/
def modBits : ModWhy → Nat × Nat
  | .software => (0x02, 0xFF) | .fault n => (0x04, n) | .watchdog => (0x08, 0xFF) | .update => (0x40, 0xFF) | .duplex => (0x80, 0xFF)

/-- A module reset is applied (R65, R67, R71, R546). -/
def modApply (why : ModWhy) (s : State) : State :=
  let conds := s.fco.cond.filter (fun n => outerSources.contains n)
  let s := updBoot true { s with start := { s.start with releasedAt := s.tim.mon } }
  let s := resetConfigured (resetFile false s)
  let s := modTime (resetKst (resetBlocks false 0 0 (resetModel s)))
  let s := setCauseOf (modBits why).1 (modBits why).2 (loadCal s)
  let s := resetFco conds (resetEvr s)
  let leg := legNow s
  { s with tim := { s.tim with legValid := leg, legEver := leg } }

/-- MODULE_RESET: the final commit and the flush come first (R65). -/
def moduleReset (s : State) : State :=
  match s.pwr.seq with
  | some { why := .modReset w, flushDone := f, .. } =>
    let s := endFinalCommit s
    modApply w (if f then s else evrFlush s)
  | _ => s

def execModuleReset (s : State) := run moduleReset s

/-! ## Start-up -/

/-- The restart decision (R76): none for a warm restart, or COLD_WHY of the first condition that fails. -/
def coldWhy (r : StageIn) (s : State) : Option Nat :=
  let limit := s.cfg.warmLimit * sec
  if s.start.request = .cold then some (if getB 0x7F014 6 s then 7 else 1)
  else if !r.badTasks.isEmpty then some 2
  else if progSig s ≠ s.start.commitProg then some 3
  else if (modelSigs s).1 ≠ s.start.commitModel then some 4
  else if !getB 0x06004 30 s then some 6
  else match pickBank r.bank0Ok r.bank1Ok s with
    | some b => if limit = 0 ∨ b.rtc + limit < s.tim.rtc then some 5 else none
    | none => some 5

/-- Stage 4 (R72, R76, R77): the model is loaded, the restart kind is decided, and dispatch, the loops and the program restart. -/
def restart (r : StageIn) (s : State) : State :=
  let s := match s.model.active with | some m => usePats m s | none => s
  let why := coldWhy r s
  let s := setF 0x7F01C 23 20 (why.getD 0) (setF 0x7F01C 17 16 (if why.isNone then 1 else 2) s)
  let s := if why.isSome && s.start.request == .warm then evt 0 0xA (argPair (why.getD 0) 0) s else s
  restartCyc why.isNone r.badTasks (restartLoops why.isNone (restartDisp why.isNone s))

/-- Whether a module of a pair stays RESIGNED at the end of start-up (R399): its self-test failed again, or it has made more than three module
resets within 24 h of MON. -/
def staysResigned (r : StageIn) (s : State) : Bool :=
  let recent := s.dup.resets.filter (fun t => decide ((s.tim.mon : Int) < t + 86400000000000))
  duplex s && ((getB 0x7F014 7 s && !r.selfTestOk) || decide (3 < recent.length))

/-- The module joins its pair, stays RESIGNED, or waits for control (R72, R397, R399). -/
def joinPair (r : StageIn) (s : State) : State :=
  if staysResigned r s then
    setRole .resigned (dupSet (fun d => { d with held := true, testFailed := getB 0x7F014 7 s && !r.selfTestOk }) s)
  else
    let s := { s with pwr := { s.pwr with faultHigh := true } }
    match s.dup.peer with
    | some h => if duplex s && h.state == 3 then resync s else s
    | none => s

/-- What a stage does as it completes (R72, R73). -/
def stageWork (k : Nat) (r : StageIn) (s : State) : State :=
  match k with
  | 1 =>
    let s := afterSlots false (deriveWorking s)
    if s.kst.tamperPend then raise 77 { s with kst := { s.kst with tamperPend := false } } else s
  | 3 =>
    let s := ownerTake s
    if getB 0x7F014 0 s then (if getB 0x06004 30 s then rtcJump s.pwr.offRtc s.tim.rtc s else s) else sendMsg 0 s
  | 4 => restart r s
  | 5 =>
    let s := tlyStart r.bank0Ok r.bank1Ok r.failedChannels s
    let s := (List.range 4).foldl (fun s p => ethEnable p s) s
    firstRound (joinPair r (updStage5 { s with start := { s.start with stage5At := s.tim.mon } }))
  | _ => s

/-- STARTUP_STAGE_COMPLETE (R72, R73, R75): the image check of stage 2 may end in the recovery ROM. -/
def stageComplete (r : StageIn) (s : State) : State :=
  let k := getF 0x7F01C 3 0 s + 1
  if 5 < k ∨ seqRuns s then s
  else if k = 2 ∧ !r.imageOk then
    let t := updImageFail s
    if t.1 then setF 0x7F01C 3 0 2 t.2
    else setF 0x7F01C 3 0 15 { t.2 with start := { t.2.start with recovery := true } }
  else stageWork k r (setF 0x7F01C 3 0 k s)

def execStartupStageComplete (r : StageIn) (s : State) := run (stageComplete r) s

/-! ## The end of a block reset -/

/-- The churn after its block reset: its jobs end with BLK_RESET, on the fast port and for dispatch too, and every slot is built again (R68). -/
def chuBlockReset (s : State) : State :=
  let busy := s.chu.f.isSome
  let s := (s.chu.r0.toList ++ s.chu.rh.toList ++ s.chu.queue).foldl (fun s j => noteUnbegun j 0xF0 s) s
  let s := { s with chu := { building := s.model.active.isSome, lastPair := s.chu.lastPair, ends := s.chu.ends } }
  if busy then sepFail 0x30 3 s else s

/-- What a block does when its reset ends (R67, R68): beyond its registers and descriptors, the state that it holds for work in progress goes;
SDRAM keeps the rest. -/
def blockRestart (b : Block) (s : State) : State :=
  match b with
  | .lpe => lpeBlockReset s
  | .chu => chuBlockReset s
  | .sep => if s.sep.work.isSome then sepFail 0x30 3 s else s
  | .ctr => { s with ctr := { s.ctr with dumps := [], unrebuilt := (match s.model.active with | some m => pipesOf m (List.range 4) | none => []) } }
  | .kst => afterSlots (keyed s) (deriveWorking (clearWorking s))
  | .pmc => { s with pmc := {} }
  | .cyc => { s with cyc := { s.cyc with tasks := s.cyc.tasks.map (fun e => (e.1, { e.2 with running := none })), writes := [] } }
  | .evr => { s with evr := { s.evr with cursor := 0, window := [], spent := [], pend := [] } }
  | .fio => { s with fio := { cans := s.fio.cans.map (fun e => (e.1, { e.2 with pend := [], cells := [] })),
                              eths := s.fio.eths.map (fun e => (e.1, { e.2 with queues := [] })), hsr := s.fio.hsr, dio := s.fio.dio } }
  | _ => s

/-- The level sources of a block are evaluated again once its reset has ended (R502). -/
def reviewSources (b : Block) (s : State) : State :=
  (List.range 224).foldl (fun s n =>
    if !(srcRow n).level || !(codeBlocks (fld (srcCfg n s) 7 0)).contains b || srcHeld n s then s
    else if s.fco.cond.contains n then (if s.fco.active.contains n then s else occur n false none s)
    else if (tget s.fco.forced n).isSome then s else deactivate n s) s

/-- The BLK reactions that waited act once BUSY clears (R502). -/
def startWaiting (s : State) : State :=
  let w := s.fco.waitBlk
  w.foldl (fun s n => reactBlk n s) { s with fco := { s.fco with waitBlk := [] } }

/-- BLOCK_RESET_DONE (R68, R70, R502): the block accepts work again. A MOD reaction has abandoned it. -/
def blockResetDone (b : Block) (s : State) : State :=
  let abandoned : Bool := match s.pwr.seq with | some { why := .modReset (.fault _), .. } => true | _ => false
  if abandoned || !s.start.blkRst.contains b then s
  else
    let left := s.start.blkRst.filter (fun x => x != b)
    let s := setB 0x7F018 8 (!left.isEmpty) { s with start := { s.start with blkRst := left } }
    let s := reviewSources b (blockRestart b s)
    if left.isEmpty then startWaiting s else s

def execBlockResetDone (b : Block) (s : State) := run (blockResetDone b) s

end Sys2Proof.Machine
end

