-- ==== Sys2Proof/Machine/RegAccess.lean ====
section
/-!
DEFINITION. Accesses to the registers of BAR0 (R7 to R12, R543 to R553): what a read returns, what reading does, and what a write does.
-/
namespace Sys2Proof.Machine

/-! ## What a register shows -/

/-- The half of a 64-bit value that an address shows: the lower word at `base` (R11). -/
def half (base a v : Nat) : Word := if a = base then lo32 v else hi32 v

/-- HIF_RINGSTAT (R93). -/
def ringStat (pair : Nat) (s : State) : Word :=
  let r := ring pair s
  let w1c := getReg (ringReg pair 0x18) s &&& 0x60
  w1c ||| BitVec.ofNat 32 (b2n r.detached <<< 7 ||| b2n r.fetchErr <<< 4 ||| b2n (openSlots pair s == 0) <<< 3 |||
    b2n (getReg (ringReg pair 0x1C) s != 0) <<< 2 ||| b2n (ringIdle pair s) <<< 1 ||| b2n (ringOn pair s && !r.detached && !r.fetchErr))

/-- The pending bits of 32 vectors (R545). -/
def pbaWord (lo : Nat) (s : State) : Word := BitVec.ofNat 32 ((s.hif.pba.filter (fun v => lo ≤ v && decide (v < lo + 32))).foldl (fun m v => m + 2 ^ (v - lo)) 0)

/-- HIF (R88 to R94, R545). -/
def viewHif (a : Nat) (s : State) : Option Word :=
  let n := (a - 0x01000) / 0x40
  if 0x01000 ≤ a ∧ a < 0x01F00 ∧ a % 0x40 = 0x18 then some (ringStat n s)
  else if 0x01000 ≤ a ∧ a < 0x01F00 ∧ a % 0x40 = 0x20 then some (BitVec.ofNat 32 ((ring n s).cmpTail <<< 16 ||| (ring n s).subHead))
  else if a = 0x03800 then some (pbaWord 0 s)
  else if a = 0x03804 then some (pbaWord 32 s)
  else none

/-- TIM (R451, R475, R478). -/
def viewTim (a : Nat) (s : State) : Option Word :=
  let net := s.tim.net / sec
  let leg := legSec s
  if a = 0x04010 then some (timStat s)
  else if a = 0x04030 ∨ a = 0x04034 then some (half 0x04030 a s.tim.mon)
  else if a = 0x04040 then some (lo32 net)
  else if a = 0x04044 then some (BitVec.ofNat 32 (net / 2 ^ 32 % 65536))
  else if a = 0x04048 then some (BitVec.ofNat 32 (s.tim.net % sec))
  else if a = 0x0404C then some (BitVec.ofNat 32 (s.tim.netF / 65536))
  else if a = 0x04050 then some (lo32 leg)
  else if a = 0x04054 then some (BitVec.ofNat 32 (leg / 2 ^ 32 % 256))
  else if a = 0x04058 then some (BitVec.ofNat 32 (legNs s % sec))
  else if a = 0x04060 ∨ a = 0x04064 then some (half 0x04060 a (busNs s))
  else if a = 0x04110 then some (getReg 0x04108 s)
  else if a = 0x04114 then some (getReg 0x0410C s)
  else none

/-- BKD (R465, R466, R479, R480): HALTED and the shadow of the RTC. -/
def viewBkd (a : Nat) (s : State) : Option Word :=
  let t := s.tim.shadow
  if a = 0x06004 then some (putBit (getReg a s) 29 (decide (s.tim.mon < s.tim.haltUntil)))
  else if a = 0x0600C then some (BitVec.ofNat 32 (rtcSub s.tim.rtc))
  else if a = 0x06010 then some (lo32 (t / sec))
  else if a = 0x06014 then some (BitVec.ofNat 32 (t / sec / 2 ^ 32 % 256))
  else if a = 0x06018 then some (rtcDate t)
  else if a = 0x0601C then some (rtcTod t)
  else none

/-- FCO (R506). -/
def viewFco (a : Nat) (s : State) : Option Word :=
  if a = 0x08004 then
    some (BitVec.ofNat 32 (b2n s.fco.integrity <<< 31 ||| b2n (pinActive s) <<< 30 ||| s.fco.first.getD 0xFF <<< 16 ||| s.fco.active.length % 256))
  else if 0x08020 ≤ a ∧ a < 0x0803C then
    let w := (a - 0x08020) / 4
    some (BitVec.ofNat 32 ((s.fco.active.filter (fun n => n / 32 == w)).foldl (fun m n => m + 2 ^ (n % 32)) 0))
  else none

/-- EVR and PMC (R516, R520, R523). -/
def viewEvr (a : Nat) (s : State) : Option Word :=
  if a = 0x0A004 then some (BitVec.ofNat 32 (s.evr.staged.length <<< 16 ||| undelivered s * 100 / logSize))
  else if a = 0x0A020 ∨ a = 0x0A024 then some (half 0x0A020 a s.evr.newest)
  else if a = 0x0A028 ∨ a = 0x0A02C then some (half 0x0A028 a (evrOldest s))
  else if 0x0A060 ≤ a ∧ a < 0x0A080 then some (evrWin ((a - 0x0A060) / 4) s)
  else if 0x0C200 ≤ a ∧ a < 0x0C400 then
    let k := (a - 0x0C200) / 0x10
    let o := a % 0x10
    let v := if o < 8 then tgetD s.pmc.count k 0 else tgetD s.pmc.snap k 0
    some (if o % 8 = 0 then lo32 v else hi32 v)
  else none

/-- DUP (R414, R419). -/
def viewDup (a : Nat) (s : State) : Option Word :=
  if a = 0x0E020 then some (dupStat s)
  else if a = 0x0E024 then some (lo32 s.dup.claim)
  else if a = 0x0E058 then some (dupRecon s)
  else none

/-- CHU_STAT (R225). -/
def chuStat (s : State) : Word :=
  let parked : Option Job → Bool := fun j => match j with | some j => j.parked | none => false
  (getReg 0x10020 s &&& 0xFF0F0000) ||| BitVec.ofNat 32 (b2n (parked s.chu.rh) <<< 5 ||| b2n (parked s.chu.r0) <<< 4 |||
    b2n (s.chu.comp == some .rh) <<< 2 ||| b2n (s.chu.comp == some .r0) <<< 1 ||| b2n (s.chu.comp == some .f))

/-- CHU (R221, R225, R226). -/
def viewChu (a : Nat) (s : State) : Option Word :=
  if a = 0x10020 then some (chuStat s)
  else if 0x10100 ≤ a ∧ a < 0x10300 then
    let n := (a - 0x10100) / 0x20
    let p := tget s.chu.pats n
    match a % 0x20 with
    | 0x00 => some (match p with | some p => lo32 p.patSig.toNat | none => 0)
    | 0x04 => some (match p with | some p => hi32 p.patSig.toNat | none => 0)
    | 0x08 => some (patInfo n s)
    | 0x0C => some (match p with | some p => lo32 p.factorNnz | none => 0)
    | 0x10 => some (patPanel n s)
    | _ => none
  else none

/-- The model registers (R135, R136). -/
def viewSep (a : Nat) (s : State) : Option Word :=
  let staged := match s.model.staged with | some m => m.structSig.toNat | none => 0
  if a = 0x14800 then some (modelStat s)
  else if a = 0x14808 ∨ a = 0x1480C then some (half 0x14808 a (modelSigs s).1.toNat)
  else if a = 0x14810 ∨ a = 0x14814 then some (half 0x14810 a (modelSigs s).2.toNat)
  else if a = 0x14818 ∨ a = 0x1481C then some (half 0x14818 a staged)
  else if a = 0x14820 ∨ a = 0x14824 then some (half 0x14820 a (s.model.armed.getD 0))
  else if a = 0x14828 then some (match s.model.active with | some m => lo32 m.generation | none => 0)
  else none

/-- LPE (R281, R283, R284). -/
def viewLpe (a : Nat) (s : State) : Option Word :=
  if a = 0x1C008 then some (lpeStat s)
  else if a = 0x1C020 then some (traceStat s)
  else if 0x20000 ≤ a ∧ a < 0x22000 then
    let n := (a - 0x20000) / 0x10
    match a % 0x10 with
    | 0x0 => some (loopStat n s)
    | 0x4 => some (BitVec.ofInt 32 (loop n s).pv)
    | 0x8 => some (BitVec.ofInt 32 (loop n s).sp)
    | _ => some (BitVec.ofInt 32 (loop n s).y)
  else none

/-- TLY (R318, R321). -/
def viewTly (a : Nat) (s : State) : Option Word :=
  if a = 0x24020 then some (tlyStat s)
  else if a = 0x24024 then some (lo32 s.tly.calCount)
  else if a = 0x24028 then some (lo32 s.tly.store.length)
  else if a = 0x2402C then some (lo32 (heldCount s))
  else if a = 0x24030 ∨ a = 0x24034 then some (half 0x24030 a s.tly.seq)
  else none

/-- RND (R358, R363). -/
def viewRnd (a : Nat) (s : State) : Option Word :=
  let two := fun x y => some (BitVec.ofNat 32 (countSess x s <<< 16 ||| countSess y s))
  if a = 0x2C020 then two .enrolling .dormant
  else if a = 0x2C024 then two .suspect .active
  else if a = 0x2C028 then two .retired .lost
  else if a = 0x2C030 ∨ a = 0x2C034 then some (half 0x2C030 a s.rnd.number)
  else if a = 0x2C038 then some (BitVec.ofNat 32 (s.rnd.fseqGen % 2 ^ 24))
  else if 0x30000 ≤ a ∧ a < 0x34000 then some (rndStn ((a - 0x30000) / 4) s)
  else none

/-- CYC (R385, R387, R388). -/
def viewCyc (a : Nat) (s : State) : Option Word :=
  let staged := match s.cyc.staged with | some p => p.sig.toNat | none => 0
  if a = 0x34020 then some (cycStat s)
  else if a = 0x34028 ∨ a = 0x3402C then some (half 0x34028 a (progSig s).toNat)
  else if a = 0x34030 ∨ a = 0x34034 then some (half 0x34030 a staged)
  else if 0x34100 ≤ a ∧ a < 0x34200 ∧ a % 0x20 = 0 then some (taskCfg ((a - 0x34100) / 0x20) s)
  else if 0x34100 ≤ a ∧ a < 0x34200 ∧ a % 0x20 = 0x14 then
    some (match taskDecl ((a - 0x34100) / 0x20) s with | some d => lo32 d.offsetMs | none => 0)
  else none

/-- FIO, KST and UPD (R447, R494, R541, R542). -/
def viewRest (a : Nat) (s : State) : Option Word :=
  if 0x38400 ≤ a ∧ a < 0x38500 ∧ a % 0x40 = 0 then some (ethCfgView ((a - 0x38400) / 0x40) s)
  else if a = 0x48004 then some (kstStat s)
  else if a = 0x48010 ∨ a = 0x48014 then some (half 0x48010 a (kstUnusable s))
  else if a = 0x4C010 then some (updStat s)
  else if a = 0x4C014 then some (lo32 s.upd.fwRun.version)
  else if a = 0x4C018 then some (lo32 (updNewVer s))
  else if a = 0x4C01C then some (updPairLvl s)
  else if a = 0x4C020 then some (updProgress s)
  else if a = 0x4C024 then some (lo32 s.upd.journal.length)
  else if a = 0x4C028 then some (lo32 s.upd.secFloor)
  else none

/-- GLB (R551, R553). -/
def viewGlb (a : Nat) (s : State) : Option Word :=
  if a = 0x7F004 then some (BitVec.ofNat 32 ((s.cfg.hwrev % 256) <<< 16 ||| (if s.cfg.variantT then 0x54 else 0x41)))
  else if a = 0x7F008 then some s.cfg.mfgDate
  else if a = 0x7F024 then some (BitVec.ofNat 32 (((List.range 16).filter (fun i => lockOf (lockOrder.getD i .glb) s)).foldl (fun m i => m + 2 ^ i) 0))
  else if 0x7F030 ≤ a ∧ a < 0x7F040 then some (s.cfg.serial.getD ((a - 0x7F030) / 4) 0)
  else none

/-- The value of a register that shows a part of the state. -/
def regView (a : Nat) (s : State) : Option Word :=
  match blockAt a with
  | some .hif => viewHif a s
  | some .tim => viewTim a s
  | some .bkd => viewBkd a s
  | some .fco => viewFco a s
  | some .evr | some .pmc => viewEvr a s
  | some .dup => viewDup a s
  | some .chu => viewChu a s
  | some .sep => viewSep a s
  | some .ctr => none
  | some .lpe => viewLpe a s
  | some .tly => viewTly a s
  | some .rnd => viewRnd a s
  | some .cyc => viewCyc a s
  | some .fio | some .kst | some .upd => viewRest a s
  | some .glb => viewGlb a s
  | none => none

/-- The bits of such a register that keep their value while its block is in block reset: stored, retained, live and image values (R546, R550). -/
def viewKept (a : Nat) : Nat :=
  if (0x03800 ≤ a ∧ a < 0x03808) ∨ a = 0x06004 ∨ (0x0600C ≤ a ∧ a < 0x06020) ∨ (0x0A020 ≤ a ∧ a < 0x0A030) ∨ a = 0x0E024 ∨ (0x24024 ≤ a ∧ a < 0x24038) ∨
    a = 0x2C038 ∨ (0x14808 ≤ a ∧ a < 0x14818) ∨ a = 0x14828 ∨ a = 0x34028 ∨ a = 0x3402C ∨ a = 0x4C014 ∨ a = 0x4C01C ∨ a = 0x4C024 ∨ a = 0x4C028
  then 0xFFFFFFFF
  else if 0x30000 ≤ a ∧ a < 0x34000 then 0xE0FF0000
  else if a = 0x14800 then 0x8C
  else if a = 0x4C010 then 0xF0FF0000
  else if 0x38400 ≤ a ∧ a < 0x38500 then 0xFF80FFFF
  else 0

/-- Whether the region of an address is present: in stage Fh only GLB, HIF and UPD are (R543). -/
def present (a : Nat) (s : State) : Bool :=
  match blockAt a with
  | some .glb | some .hif | some .upd => true
  | some _ => getF 0x7F01C 3 0 s != 15
  | none => false

/-- Whether the block of an address is in block reset. -/
def inBlockReset (a : Nat) (s : State) : Bool := match blockAt a with | some b => s.start.blkRst.contains b | none => false

/-- What a read of an aligned address returns, latches apart (R10, R543, R550). -/
def regRead (a : Nat) (s : State) : Word :=
  if !present a s || (regSpec a).isNone then 0
  else match regView a s with
    | none => getReg a s
    | some v =>
      if inBlockReset a s then let k := BitVec.ofNat 32 (viewKept a); (v &&& k) ||| (regReset a &&& ~~~k)
      else v

/-! ## Latches -/

/-- The value latched for a requester at an address. -/
def latched (who : Requester) (a : Nat) (s : State) : Option Word :=
  (s.hif.latch.find? (fun e => e.1 == who && e.2.1 == a)).map (·.2.2)

/-- A value is latched for a requester (R11, R550). -/
def latchAt (who : Requester) (a : Nat) (v : Word) (s : State) : State :=
  { s with hif := { s.hif with latch := (who, a, v) :: s.hif.latch.filter (fun e => !(e.1 == who && e.2.1 == a)) } }

/-- What a requester's read returns: the latched value where there is one (R11, R452). -/
def seen (who : Requester) (a : Nat) (s : State) : Word := (latched who a s).getD (regRead a s)

/-! ## Reads -/

/-- A read of the lower word of a 64-bit pair latches the upper word (R11). -/
def lowerRead (who : Requester) (a : Nat) (s : State) : State :=
  let s := if 0x0C200 ≤ a ∧ a < 0x0C400 ∧ a % 0x10 = 0 then pmcCatch s ((a - 0x0C200) / 0x10) else s
  let v := seen who a s
  let s := if (latched who a s).isSome || inBlockReset a s || !isPairLow a then s else latchAt who (a + 4) (regRead (a + 4) s) s
  emit (.regRead who a v) s

/-- Whether a requester reaches BAR0: the host does from start-up stage 3 on (R72; log entry 71). -/
def reaches (who : Requester) (s : State) : Bool := who != .host || decide (3 ≤ getF 0x7F01C 3 0 s)

/-- A read by a requester that reaches BAR0; one of the host counts (R518). -/
def readBy (who : Requester) (f : State → State) (s : State) : State :=
  if !reaches who s then s else if who = .host then pmcAdd 0x95 1 (f s) else f s

/-- A write by a requester that reaches BAR0; one of the host counts (R518). -/
def writeBy (who : Requester) (f : State → State) (s : State) : State :=
  if !reaches who s then s else if who = .host then pmcAdd 0x96 1 (f s) else f s

def execLowerWordRead (who : Requester) (addr : Nat) (s : State) := run (readBy who (lowerRead who addr)) s

/-- The registers of NET, LEG and BUS that a read of TIM_NETSEC_LO latches (R452). -/
def netRegs : List Nat := [0x04044, 0x04048, 0x0404C, 0x04050, 0x04054, 0x04058, 0x04060, 0x04064]

/-- TIM_NETSEC_LO_READ (R452). -/
def netRead (who : Requester) (s : State) : State :=
  let v := regRead 0x04040 s
  emit (.regRead who 0x04040 v) (netRegs.foldl (fun t a => latchAt who a (regRead a s) t) s)

/-- BKD_RTCSUB_READ (R465): the shadow of the whole RTC. A block reset of BKD lets no read act (R550). -/
def rtcsubRead (who : Requester) (s : State) : State :=
  let v := regRead 0x0600C s
  let s := if inBlockReset 0x0600C s then s else { s with tim := { s.tim with shadow := s.tim.rtc } }
  emit (.regRead who 0x0600C v) s

/-- A completed read of a register with RC fields returns and clears them (R7, R12); GLB_TEMPMAX starts again (R551). -/
def rcRead (who : Requester) (a : Nat) (s : State) : State :=
  let v := regRead a s
  let s := if inBlockReset a s || !present a s then s
    else if a = 0x7F048 then setReg a 0x80000000 { s with pwr := { s.pwr with tempMaxOk := false } }
    else match regSpec a with
      | some r => setReg a (getReg a s &&& ~~~(BitVec.ofNat 32 r.rc)) s
      | none => s
  emit (.regRead who a v) s

/-- A read of LAST_RX returns the value that the read of LAST_TX latched, once (R522). -/
def lastRxRead (who : Requester) (p : Nat) (s : State) : State :=
  let a := 0x0C608 + 0x20 * p
  let w := tgetD s.pmc.bw p {}
  emit (.regRead who a (w.rxLatch.getD (getReg a s))) { s with pmc := { s.pmc with bw := tput s.pmc.bw p { w with rxLatch := none } } }

/-- A full read of the register that holds an address, with all that reading it does (R10, R11, R12, R452, R462, R465, R515, R522). -/
def fullRead (who : Requester) (addr : Nat) (s : State) : State :=
  let a := addr / 4 * 4
  let p := (a - 0x0C600) / 0x20
  if !present a s || inBlockReset a s then rcRead who a s
  else if a = 0x0A060 then evrWinRead who s
  else if a = 0x0A07C then evrWinAdvance who s
  else if 0x0C600 ≤ a ∧ a < 0x0C6A0 ∧ a % 0x20 = 4 then lastTxRead who p s
  else if 0x0C600 ≤ a ∧ a < 0x0C6A0 ∧ a % 0x20 = 8 then lastRxRead who p s
  else if a = 0x04040 then netRead who s
  else if a = 0x0600C then rtcsubRead who s
  else if isPairLow a then lowerRead who a s
  else if (latched who a s).isSome then emit (.regRead who a (seen who a s)) s
  else rcRead who a s

/-- RC_READ (R12). -/
def execRcRead (who : Requester) (addr : Nat) (s : State) := run (readBy who (fullRead who addr)) s

/-- TIM_NETSEC_LO_READ (R452). -/
def execTimNetsecLoRead (who : Requester) (s : State) := run (readBy who (fullRead who 0x04040)) s

/-- BKD_RTCSUB_READ (R465). -/
def execBkdRtcsubRead (who : Requester) (s : State) := run (readBy who (fullRead who 0x0600C)) s

/-- CAPSTAT_READ (R462): NEW and OVR clear. -/
def execCapstatRead (who : Requester) (unit : Nat) (s : State) := run (readBy who (if 4 ≤ unit then id else fullRead who (0x04218 + 0x20 * unit))) s

/-- LAST_TX_READ (R522). -/
def execLastTxRead (who : Requester) (p : Nat) (s : State) := run (readBy who (if 5 ≤ p then id else fullRead who (0x0C604 + 0x20 * p))) s

/-- EVR_WIN_COPY (R515). -/
def execEvrWinCopy (who : Requester) (s : State) := run (readBy who (fullRead who 0x0A060)) s

/-- EVR_WIN_ADVANCE (R515). -/
def execEvrWinAdvance (who : Requester) (s : State) := run (readBy who (fullRead who 0x0A07C)) s

/-! ## Writes -/

/-- A write by the access types of the register's fields (R7 to R9): RW and RWL fields take the value, RWL only while LOCK is 0, W1C bits clear, LOCK
sets. A value outside a field's range leaves the whole register unchanged. -/
def plainWrite (a : Nat) (v : Word) (s : State) : State :=
  match regSpec a, blockAt a with
  | some r, some b =>
    let old := getReg a s
    let rw := BitVec.ofNat 32 r.rw
    let rwl := BitVec.ofNat 32 r.rwl
    let locked := lockOf b s
    let mine := rw ||| (if locked then 0 else rwl)
    if mine ≠ 0 ∧ !rangeOk a ((old &&& ~~~mine) ||| (v &&& mine)) then writeIgnored a v s
    else
      let s := if locked && (v &&& rwl) != (old &&& rwl) then writeIgnored a v s else s
      let lock : Word := if lockAddr b = some a ∧ bitAt v 31 then 0x80000000 else 0
      setReg a ((((old &&& ~~~mine) ||| (v &&& mine)) &&& ~~~(v &&& BitVec.ofNat 32 r.w1c)) ||| lock) s
  | _, _ => s

/-- A register of a ring pair (R86, R88 to R93): those of an internally owned pair take no write but that of OWNER. -/
def writeRing (a : Nat) (v : Word) (s : State) : State :=
  let n := (a - 0x01000) / 0x40
  let o := a % 0x40
  if o = 0x10 then ringcfgWrite n v s
  else if o < 0x10 then baseWrite a n v s
  else if ownedInside n s then s
  else plainWrite a v s

/-- TIM (R451, R460, R463, R475, R476): a change of BUS_SRC is an adjustment; WIDTH stays below PERIOD; a launch unit is not bound to a channel with SRC. -/
def writeTim (a : Nat) (v : Word) (s : State) : State :=
  if a = 0x04004 then
    let bus := busNs s
    let old := getB 0x04004 24 s
    let s := plainWrite a v s
    let new := getB 0x04004 24 s
    if old = new then s
    else
      let s := evt 2 7 (argTime 6 (b2n new)) { s with tim := { s.tim with bus := if new then s.tim.bus else bus } }
      (List.range 4).foldl (matrixAdjust bus (busNs s)) s
  else if a = 0x04008 then
    let s := plainWrite a v s
    setLeg (legNow s) s
  else if 0x04100 ≤ a ∧ a < 0x04120 then
    let d := (a - 0x04100) / 8
    if a % 8 = 0 then incrCommit d v s else setReg (0x04104 + 8 * (if d = 2 then 1 else d)) v s
  else if 0x04300 ≤ a ∧ a < 0x04340 then
    let base := a / 0x10 * 0x10
    let period := if a % 0x10 = 8 then v.toNat else (getReg (base + 8) s).toNat
    let width := if a % 0x10 = 0xC then v.toNat else (getReg (base + 0xC) s).toNat
    if lockOf .tim s then plainWrite a v s
    else if a % 0x10 = 0 then
      if bitAt v 31 && getB (0x38100 + 4 * fld v 4 0) 10 s then writeIgnored a v s else plainWrite a v s
    else if a % 0x10 ≠ 4 ∧ period * 1000 ≤ width then writeIgnored a v s
    else plainWrite a v s
  else plainWrite a v s

/-- EVR and PMC (R515, R516, R520, R523). -/
def writeEvr (a : Nat) (v : Word) (s : State) : State :=
  if a = 0x0A044 then evrCursorSet v s
  else if a = 0x0C000 then
    let s := plainWrite a v s
    let s := if bitAt v 1 then pmcSnap s else s
    if bitAt v 2 then pmcClear s else s
  else if 0x0C100 ≤ a ∧ a < 0x0C180 then pmcSelWrite ((a - 0x0C100) / 4) v s
  else if 0x0C600 ≤ a ∧ a < 0x0C6A0 ∧ a % 0x20 = 0 then bwcfgWrite ((a - 0x0C600) / 0x20) v s
  else plainWrite a v s

/-- TLY (R294, R318, R319): CAL_EN changes with its key; TLY_CAL takes a write only while CAL_EN is 1, and PHASE belongs to current channels. -/
def writeTly (a : Nat) (v : Word) (s : State) : State :=
  if a = 0x24000 then
    let s := if bitAt v 0 = getB a 0 s then s else if bitAt v 0 then calEnSet v s else calEnClear v s
    if bitAt v 31 then setB a 31 true s else s
  else if 0x25000 ≤ a ∧ a < 0x25380 then
    let c := (a - 0x25000) / 0x20
    if !getB 0x24000 0 s then writeIgnored a v s
    else if 0x10 ≤ a % 0x20 ∧ c % 7 < 3 then s
    else plainWrite a v s
  else plainWrite a v s

/-- FIO_ETHCFG (R54, R447): the fields that a port does not have ignore the write; EN, RATE and MACSEC_EN act on the link and on MACsec;
a port without EN or PTP_EN is no longer SLAVE (R453). -/
def writeEth (p : Nat) (v : Word) (s : State) : State :=
  let a := ethCfg p
  let own : Word := if p = 1 then 0x8F80FFFF else if p = 3 then 0x0F80FFFF else 0xFF80FFFF
  let old := ethCfgView p s
  let s := plainWrite a ((v &&& own) ||| (getReg a s &&& ~~~own)) s
  let new := ethCfgView p s
  let on := !bitAt old 31 && bitAt new 31
  let s := if on then cagePower p s else s
  let s := if (bitAt old 31 && !bitAt new 31) || bitAt old 30 != bitAt new 30 then ringLink p false s else s
  let s := if slaveHeld s then s else announceTimeout s
  if on || bitAt old 29 != bitAt new 29 then ethEnable p s else s

/-- FIO (R441, R447, R448): only one channel has SRC; a CAN channel takes its set-up when EN is set. -/
def writeFio (a : Nat) (v : Word) (s : State) : State :=
  if 0x38100 ≤ a ∧ a < 0x38180 then
    let n := (a - 0x38100) / 4
    if bitAt v 10 && !lockOf .fio s && (List.range 32).any (fun k => k != n && getB (0x38100 + 4 * k) 10 s) then writeIgnored a v s else plainWrite a v s
  else if 0x38400 ≤ a ∧ a < 0x38500 ∧ a % 0x40 = 0 then writeEth ((a - 0x38400) / 0x40) v s
  else if 0x38800 ≤ a ∧ a < 0x38900 ∧ a % 0x40 = 0 then
    let c := (a - 0x38800) / 0x40
    let was := getB a 31 s
    let s := plainWrite a v s
    if !was && getB a 31 s then rejoin c (putCan c { can c s with inForce := getReg a s } s) else s
  else plainWrite a v s

/-- GLB_LOCKSET (R549, R552): the LOCK bits of the blocks named; a block that is not present in stage Fh has none. -/
def lockset (v : Word) (s : State) : State :=
  if fld v 31 16 ≠ 0x5A3C then writeIgnored 0x7F020 v s
  else ((List.range 16).filter (fun i => bitAt v i)).foldl (fun s i =>
    match lockAddr (lockOrder.getD i .glb) with
    | some a => if present a s then setB a 31 true s else s
    | none => s) s

def execGlbLockset (value : Word) (s : State) := run (lockset value) s

/-- LOCK_SET (R9, R547). -/
def lockSet (b : Block) (s : State) : State :=
  match lockAddr b with
  | none => s
  | some a => if !present a s then s else if inBlockReset a s then writeIgnored a 0x80000000 s else setB a 31 true s

def execLockSet (block : Block) (s : State) := run (lockSet block) s

/-- GLB (R69, R70, R552). -/
def writeGlb (a : Nat) (v : Word) (s : State) : State :=
  if a = 0x7F010 then
    if fld v 31 16 ≠ 0x5A3C then writeIgnored a v s
    else if fld v 3 0 = 1 then beginModReset .software 3 (restartKind (fld v 5 4)) s
    else if fld v 3 0 = 2 then beginHoldup .powerdown s
    else s
  else if a = 0x7F018 then blkrst v s
  else if a = 0x7F020 then lockset v s
  else plainWrite a v s

/-- A write to the register at an aligned address (R7 to R10, R550). -/
def regWrite (a : Nat) (v : Word) (s : State) : State :=
  if !present a s || (regSpec a).isNone then s
  else if inBlockReset a s then writeIgnored a v s
  else match blockAt a with
    | some .hif =>
      if 0x01000 ≤ a ∧ a < 0x01F00 then writeRing a v s
      else if 0x03000 ≤ a ∧ a < 0x03800 then sendPended (plainWrite a v s)
      else plainWrite a v s
    | some .tim => writeTim a v s
    | some .fco =>
      if a = 0x08010 then fcoForce v s
      else if 0x08020 ≤ a ∧ a < 0x0803C then fcoActiveClear ((a - 0x08020) / 4) v s
      else plainWrite a v s
    | some .evr | some .pmc => writeEvr a v s
    | some .sep => let s := if a = 0x14000 ∧ bitAt v 1 then flatStart s else s; plainWrite a v s
    | some .ctr => let s := if a = 0x18000 ∧ bitAt v 4 then ctrCtrlRebuild s else s; plainWrite a v s
    | some .lpe => if a = 0x1C004 ∧ !lockOf .lpe s ∧ s.lpe.loops.any (fun e => e.2.mode != 0) then writeIgnored a v s else plainWrite a v s
    | some .tly => writeTly a v s
    | some .fio => writeFio a v s
    | some .kst => if a = 0x48008 then tampcfgWrite v s else plainWrite a v s
    | some .upd =>
      if a = 0x4C010 then (if bitAt v 28 then updSet (fun u => { u with fellBack := false }) s else s) else plainWrite a v s
    | some .glb => writeGlb a v s
    | _ => plainWrite a v s

/-- REGISTER_WRITE (R7). An address that is not a multiple of 4 is not carried out (R10). -/
def regWriteOp (addr : Nat) (v : Word) (s : State) : State := if addr % 4 = 0 then regWrite addr v s else writeIgnored addr v s

def execRegisterWrite (who : Requester) (addr : Nat) (value : Word) (s : State) := run (writeBy who (regWriteOp addr value)) s

/-! ## Writes that have a row of their own -/

/-- EVR_CURSOR_SET (R515). -/
def execEvrCursorSet (hi : Word) (s : State) := run (regWrite 0x0A044 hi) s

/-- FCO_FORCE (R504). -/
def execFcoForce (v : Word) (s : State) := run (regWrite 0x08010 v) s

/-- FCO_ACTIVE_CLEAR (R500). -/
def execFcoActiveClear (w : Nat) (v : Word) (s : State) := run (if 7 ≤ w then id else regWrite (0x08020 + 4 * w) v) s

/-- The write of PMC_CTRL that SNAP is (R520): EN stays and SNAP is set. -/
def snapWrite (s : State) : State := regWrite 0x0C000 (getReg 0x0C000 s &&& 1 ||| 2) s

/-- SNAP (R520). -/
def execSnap (s : State) := run snapWrite s

/-- The write of PMC_CTRL that CLEAR is (R523): EN stays and CLEAR is set. -/
def clearWrite (s : State) : State := regWrite 0x0C000 (getReg 0x0C000 s &&& 1 ||| 4) s

/-- CLEAR (R523). -/
def execClear (s : State) := run clearWrite s

/-- PMC_SEL_WRITE (R519). -/
def execPmcSelWrite (k : Nat) (v : Word) (s : State) := run (if 32 ≤ k then id else regWrite (0x0C100 + 4 * k) v) s

/-- BWCFG_WRITE (R522). -/
def execBwcfgWrite (p : Nat) (v : Word) (s : State) := run (if 5 ≤ p then id else regWrite (0x0C600 + 0x20 * p) v) s

/-- INCR_COMMIT (R451). -/
def execIncrCommit (d : Nat) (ns : Word) (s : State) := run (if 4 ≤ d then id else regWrite (0x04100 + 8 * d) ns) s

/-- The write of SEP_CTRL that FLAT_START is (R158): the other fields stay. -/
def flatWrite (s : State) : State := regWrite 0x14000 (putBit (getReg 0x14000 s) 1 true) s

/-- FLAT_START (R158). -/
def execFlatStart (s : State) := run flatWrite s

/-- The write of CTR_CTRL that REBUILD is (R185): the other fields stay. -/
def rebuildWrite (s : State) : State := regWrite 0x18000 (putBit (getReg 0x18000 s) 4 true) s

/-- CTR_CTRL_REBUILD (R185). -/
def execCtrCtrlRebuild (s : State) := run rebuildWrite s

/-- CAL_EN_SET (R294). -/
def execCalEnSet (value : Word) (s : State) := run (regWrite 0x24000 value) s

/-- CAL_EN_CLEAR (R294). -/
def execCalEnClear (value : Word) (s : State) := run (regWrite 0x24000 value) s

/-- KST_TAMPCFG_WRITE (R496). -/
def execKstTampcfgWrite (v : Word) (s : State) := run (regWrite 0x48008 v) s

/-! ## Accesses by size (R10, R83) -/

/-- The addressed bytes of a register's value. -/
def cutWord (addr size : Nat) (v : Word) : Word := (v >>> (8 * (addr % 4))) &&& BitVec.ofNat 32 (2 ^ (8 * size) - 1)

/-- A read of the host of 1, 2 or 4 bytes: the read of the whole register, of which it shows the addressed bytes. -/
def cutRead (addr size : Nat) (s : State) : State :=
  let t := fullRead .host addr s
  match t.out with
  | .regRead w _ v :: _ => { t with out := .regRead w addr (cutWord addr size v) :: s.out }
  | _ => t

/-- Whether an access of 1, 2 or 4 bytes is not carried out (R10): a narrow write, a misaligned access, a read that spans two registers. -/
def notCarried (write : Bool) (addr size : Nat) : Bool := if size < 4 then write || decide (4 < addr % 4 + size) else addr % 4 != 0

/-- What a read of a doorbell page returns (R82, R98): SUB_HEAD, CMP_TAIL, or 0 from every other offset and from pages 60 to 63. -/
def doorbellRead (addr : Nat) (s : State) : Word :=
  let n := addr / 4096
  if 60 ≤ n then 0
  else if addr % 4096 / 4 = 0 then BitVec.ofNat 32 (ring n s).subHead
  else if addr % 4096 / 4 = 1 then BitVec.ofNat 32 (ring n s).cmpTail
  else 0

/-- An aligned write to a doorbell page (R98); pages 60 to 63 and the other offsets ignore it. -/
def doorbellWrite (addr : Nat) (v : Word) (s : State) : State :=
  match addr % 4096 with
  | 0 => subTail (addr / 4096) v s
  | 4 => cmpHead (addr / 4096) v s
  | 8 => cmpArm (addr / 4096) s
  | _ => s

/-- An access of 1, 2 or 4 bytes to BAR0. One that is not carried out is recorded, and as a read returns 0 (R10). -/
def access0 (write : Bool) (addr size value : Nat) (s : State) : State :=
  if notCarried write addr size then
    let s := writeIgnored addr (if write then BitVec.ofNat 32 value else 0) s
    if write then s else emit (.regRead .host addr 0) s
  else if write then regWrite addr (BitVec.ofNat 32 value) s
  else cutRead addr size s

/-- An access of 1, 2 or 4 bytes to BAR2 (R10, R83, R98). R510 gives the record of one that is not carried out a BAR0 offset, which it has not: a free
value (log entry 70). -/
def access2 (write : Bool) (addr size value : Nat) (s : State) : State :=
  if notCarried write addr size then
    let d := draw s
    let s := evt 1 0 (Config.bar2Offset d.1 % 2 ^ 32 ||| (if write then value % 2 ^ 32 else 0) <<< 32) d.2
    if write then s else emit (.bar2Read addr 0) s
  else if write then doorbellWrite addr (BitVec.ofNat 32 value) s
  else emit (.bar2Read addr (cutWord addr size (doorbellRead addr s))) s

/-- An access of at most 4 bytes to a BAR, counted where it is one to BAR0 (R518). -/
def accessPart (bar2 write : Bool) (addr size value : Nat) (s : State) : State :=
  if bar2 then access2 write addr size value s
  else if write then writeBy .host (access0 true addr size value) s
  else readBy .host (access0 false addr size value) s

/-- ACCESS_MISALIGNED (R10, R83): an access of the host by its size; one of 64 bits is two of 32 bits, the lower address first. -/
def misaligned (x : Access) (s : State) : State :=
  if !reaches .host s then s
  else if x.size = 8 then
    accessPart x.bar2 x.write (x.addr + 4) 4 (x.value / 2 ^ 32) (accessPart x.bar2 x.write x.addr 4 (x.value % 2 ^ 32) s)
  else accessPart x.bar2 x.write x.addr x.size x.value s

def execAccessMisaligned (access : Access) (s : State) := run (misaligned access) s

end Sys2Proof.Machine
end

