-- ==== Sys2Proof/Machine/Dispatch.lean ====
section
/-! DEFINITION. One arm per command: the direct call of its meaning. -/
namespace Sys2Proof.Machine

def exec (i : Instr) (s : State) : Host.Outcome State Fault Refusal :=
  match i with
  | .powerOnReset cause p => Sys2Proof.Machine.execPowerOnReset cause p s
  | .feedLost f => Sys2Proof.Machine.execFeedLost f s
  | .feedReturned f => Sys2Proof.Machine.execFeedReturned f s
  | .powerFail => Sys2Proof.Machine.execPowerFail s
  | .presentLost => Sys2Proof.Machine.execPresentLost s
  | .finalCommitDone => Sys2Proof.Machine.execFinalCommitDone s
  | .evrHoldupFlushDone => Sys2Proof.Machine.execEvrHoldupFlushDone s
  | .railsOff => Sys2Proof.Machine.execRailsOff s
  | .tempRefresh mk => Sys2Proof.Machine.execTempRefresh mk s
  | .overTempStop => Sys2Proof.Machine.execOverTempStop s
  | .overTempCooled p => Sys2Proof.Machine.execOverTempCooled p s
  | .holdupReadySet => Sys2Proof.Machine.execHoldupReadySet s
  | .holdupReadyLost => Sys2Proof.Machine.execHoldupReadyLost s
  | .holdupCapacityMeasure pct => Sys2Proof.Machine.execHoldupCapacityMeasure pct s
  | .sfpOverpower port => Sys2Proof.Machine.execSfpOverpower port s
  | .sfpInserted port page => Sys2Proof.Machine.execSfpInserted port page s
  | .clockFault source => Sys2Proof.Machine.execClockFault source s
  | .lockstepMismatch source => Sys2Proof.Machine.execLockstepMismatch source s
  | .memoryEccError source => Sys2Proof.Machine.execMemoryEccError source s
  | .supervisorWatchdogExpiry => Sys2Proof.Machine.execSupervisorWatchdogExpiry s
  | .modreset restart => Sys2Proof.Machine.execModreset restart s
  | .powerdown => Sys2Proof.Machine.execPowerdown s
  | .moduleReset => Sys2Proof.Machine.execModuleReset s
  | .blkrst value => Sys2Proof.Machine.execBlkrst value s
  | .blockResetDone b => Sys2Proof.Machine.execBlockResetDone b s
  | .perstN => Sys2Proof.Machine.execPerstN s
  | .functionLevelReset => Sys2Proof.Machine.execFunctionLevelReset s
  | .startupStageComplete r => Sys2Proof.Machine.execStartupStageComplete r s
  | .standbyEntry => Sys2Proof.Machine.execStandbyEntry s
  | .startupTakeControl => Sys2Proof.Machine.execStartupTakeControl s
  | .accessMisaligned access => Sys2Proof.Machine.execAccessMisaligned access s
  | .registerWrite who addr value => Sys2Proof.Machine.execRegisterWrite who addr value s
  | .lockSet block => Sys2Proof.Machine.execLockSet block s
  | .glbLockset value => Sys2Proof.Machine.execGlbLockset value s
  | .rcRead who addr => Sys2Proof.Machine.execRcRead who addr s
  | .lowerWordRead who addr => Sys2Proof.Machine.execLowerWordRead who addr s
  | .timNetsecLoRead who => Sys2Proof.Machine.execTimNetsecLoRead who s
  | .bkdRtcsubRead who => Sys2Proof.Machine.execBkdRtcsubRead who s
  | .capstatRead who unit => Sys2Proof.Machine.execCapstatRead who unit s
  | .lastTxRead who p => Sys2Proof.Machine.execLastTxRead who p s
  | .evrCursorSet hi => Sys2Proof.Machine.execEvrCursorSet hi s
  | .evrWinCopy who => Sys2Proof.Machine.execEvrWinCopy who s
  | .evrWinAdvance who => Sys2Proof.Machine.execEvrWinAdvance who s
  | .ringEnable pair value => Sys2Proof.Machine.execRingEnable pair value s
  | .ringDisable pair => Sys2Proof.Machine.execRingDisable pair s
  | .startedDescriptorCancel r => Sys2Proof.Machine.execStartedDescriptorCancel r s
  | .ownerClear => Sys2Proof.Machine.execOwnerClear s
  | .ownerSet => Sys2Proof.Machine.execOwnerSet s
  | .subTail pair value => Sys2Proof.Machine.execSubTail pair value s
  | .cmpHead pair value => Sys2Proof.Machine.execCmpHead pair value s
  | .cmpArm pair => Sys2Proof.Machine.execCmpArm pair s
  | .descriptorFetch pair b => Sys2Proof.Machine.execDescriptorFetch pair b s
  | .descriptorFetchFail pair why => Sys2Proof.Machine.execDescriptorFetchFail pair why s
  | .descriptorStart pair fail => Sys2Proof.Machine.execDescriptorStart pair fail s
  | .coalesceTimeExpiry pair => Sys2Proof.Machine.execCoalesceTimeExpiry pair s
  | .vectorSpacingExpiry vector => Sys2Proof.Machine.execVectorSpacingExpiry vector s
  | .msixUnmask what => Sys2Proof.Machine.execMsixUnmask what s
  | .rxbuf pair fail => Sys2Proof.Machine.execRxbuf pair fail s
  | .linkLoss cause => Sys2Proof.Machine.execLinkLoss cause s
  | .linkReturn speed width => Sys2Proof.Machine.execLinkReturn speed width s
  | .modelArm r => Sys2Proof.Machine.execModelArm r s
  | .modelDisarm r => Sys2Proof.Machine.execModelDisarm r s
  | .modelRevert r => Sys2Proof.Machine.execModelRevert r s
  | .modelRecordActive => Sys2Proof.Machine.execModelRecordActive s
  | .roundStart => Sys2Proof.Machine.execRoundStart s
  | .roundStartTimeout => Sys2Proof.Machine.execRoundStartTimeout s
  | .readRetry station => Sys2Proof.Machine.execReadRetry station s
  | .hello f => Sys2Proof.Machine.execHello f s
  | .ready f => Sys2Proof.Machine.execReady f s
  | .readRep f => Sys2Proof.Machine.execReadRep f s
  | .readClose => Sys2Proof.Machine.execReadClose s
  | .fastportJobComplete => Sys2Proof.Machine.execFastportJobComplete s
  | .sepWindowEnd => Sys2Proof.Machine.execSepWindowEnd s
  | .ctrStep late us => Sys2Proof.Machine.execCtrStep late us s
  | .writeOpen => Sys2Proof.Machine.execWriteOpen s
  | .writeRetry station => Sys2Proof.Machine.execWriteRetry station s
  | .writeAck f => Sys2Proof.Machine.execWriteAck f s
  | .roundClose theirs => Sys2Proof.Machine.execRoundClose theirs s
  | .stationRetire r => Sys2Proof.Machine.execStationRetire r s
  | .stationReinstate r => Sys2Proof.Machine.execStationReinstate r s
  | .stationQuery r => Sys2Proof.Machine.execStationQuery r s
  | .dispatchSolveComplete => Sys2Proof.Machine.execDispatchSolveComplete s
  | .quarterHourStep => Sys2Proof.Machine.execQuarterHourStep s
  | .planAgeExpiry => Sys2Proof.Machine.execPlanAgeExpiry s
  | .plantAck u ws => Sys2Proof.Machine.execPlantAck u ws s
  | .plantAckTimeout mid => Sys2Proof.Machine.execPlantAckTimeout mid s
  | .legMidnight => Sys2Proof.Machine.execLegMidnight s
  | .setParam r => Sys2Proof.Machine.execSetParam r s
  | .pricePush r buf => Sys2Proof.Machine.execPricePush r buf s
  | .weatherPush r buf => Sys2Proof.Machine.execWeatherPush r buf s
  | .forceCycle r => Sys2Proof.Machine.execForceCycle r s
  | .unitMode r => Sys2Proof.Machine.execUnitMode r s
  | .kktSolve r buf => Sys2Proof.Machine.execKktSolve r buf s
  | .qpSolve r buf => Sys2Proof.Machine.execQpSolve r buf s
  | .patternLoad r p => Sys2Proof.Machine.execPatternLoad r p s
  | .patternFree r => Sys2Proof.Machine.execPatternFree r s
  | .panelBoundary => Sys2Proof.Machine.execPanelBoundary s
  | .qpIterationComplete => Sys2Proof.Machine.execQpIterationComplete s
  | .kktSolveComplete => Sys2Proof.Machine.execKktSolveComplete s
  | .chuDeadline who => Sys2Proof.Machine.execChuDeadline who s
  | .chuPatternsRebuilt => Sys2Proof.Machine.execChuPatternsRebuilt s
  | .setSigma r => Sys2Proof.Machine.execSetSigma r s
  | .excl r => Sys2Proof.Machine.execExclude r s
  | .incl r => Sys2Proof.Machine.execInclude r s
  | .flatStart => Sys2Proof.Machine.execFlatStart s
  | .curdDump r => Sys2Proof.Machine.execCurdDump r s
  | .rebuild r => Sys2Proof.Machine.execRebuild r s
  | .ctrCtrlRebuild => Sys2Proof.Machine.execCtrCtrlRebuild s
  | .baseTick => Sys2Proof.Machine.execBaseTick s
  | .loopConfig r buf => Sys2Proof.Machine.execLoopConfig r buf s
  | .loopCoef r buf => Sys2Proof.Machine.execLoopCoef r buf s
  | .loopSwap r => Sys2Proof.Machine.execLoopSwap r s
  | .loopMode r => Sys2Proof.Machine.execLoopMode r s
  | .loopSetsp r => Sys2Proof.Machine.execLoopSetsp r s
  | .loopState r => Sys2Proof.Machine.execLoopState r s
  | .traceCfg r => Sys2Proof.Machine.execTraceCfg r s
  | .traceArm r => Sys2Proof.Machine.execTraceArm r s
  | .tlyCommit => Sys2Proof.Machine.execTlyCommit s
  | .holdMinExpiry station => Sys2Proof.Machine.execHoldMinExpiry station s
  | .feederBlock feeder samples => Sys2Proof.Machine.execFeederBlock feeder samples s
  | .supplyConditionChange feeder cond x => Sys2Proof.Machine.execSupplyConditionChange feeder cond x s
  | .localHeatSample meter x => Sys2Proof.Machine.execLocalHeatSample meter x s
  | .calEnSet value => Sys2Proof.Machine.execCalEnSet value s
  | .calEnClear value => Sys2Proof.Machine.execCalEnClear value s
  | .billAck r => Sys2Proof.Machine.execBillAck r s
  | .billReplay r => Sys2Proof.Machine.execBillReplay r s
  | .taskActivation task => Sys2Proof.Machine.execTaskActivation task s
  | .taskInstanceEnd task outs vals us => Sys2Proof.Machine.execTaskInstanceEnd task outs vals us s
  | .taskWatchdogExpiry task => Sys2Proof.Machine.execTaskWatchdogExpiry task s
  | .progRun r => Sys2Proof.Machine.execProgRun r s
  | .progStop r => Sys2Proof.Machine.execProgStop r s
  | .progColdStart r => Sys2Proof.Machine.execProgColdStart r s
  | .varRead r => Sys2Proof.Machine.execVarRead r s
  | .varWrite r => Sys2Proof.Machine.execVarWrite r s
  | .constWrite r => Sys2Proof.Machine.execConstWrite r s
  | .progExchange r => Sys2Proof.Machine.execProgExchange r s
  | .exchangeCapture => Sys2Proof.Machine.execExchangeCapture s
  | .exchangeMapped got => Sys2Proof.Machine.execExchangeMapped got s
  | .exchangeAbandon => Sys2Proof.Machine.execExchangeAbandon s
  | .heartbeatTx => Sys2Proof.Machine.execHeartbeatTx s
  | .heartbeat h => Sys2Proof.Machine.execHeartbeat h s
  | .peerLinkLoss => Sys2Proof.Machine.execPeerLinkLoss s
  | .peerLinkReturn h => Sys2Proof.Machine.execPeerLinkReturn h s
  | .roundStartMsg h phases anchor => Sys2Proof.Machine.execRoundStartMsg h phases anchor s
  | .resign h cause => Sys2Proof.Machine.execResign h cause s
  | .take h => Sys2Proof.Machine.execTake h s
  | .takeWaitExpiry => Sys2Proof.Machine.execTakeWaitExpiry s
  | .peerMsgResend mseq => Sys2Proof.Machine.execPeerMsgResend mseq s
  | .forward h op withdraw => Sys2Proof.Machine.execForward h op withdraw s
  | .confirm h op status detail => Sys2Proof.Machine.execConfirm h op status detail s
  | .forwardTimeout => Sys2Proof.Machine.execForwardTimeout s
  | .selftest h result => Sys2Proof.Machine.execSelftest h result s
  | .selftestDone pass => Sys2Proof.Machine.execSelftestDone pass s
  | .syncComplete h d => Sys2Proof.Machine.execSyncComplete h d s
  | .record h m => Sys2Proof.Machine.execRecord h m s
  | .morHandover h ask => Sys2Proof.Machine.execMorHandover h ask s
  | .dupHandover r => Sys2Proof.Machine.execDupHandover r s
  | .dupMorHand r => Sys2Proof.Machine.execDupMorHand r s
  | .dupMorRelease r => Sys2Proof.Machine.execDupMorRelease r s
  | .dupMorTake r => Sys2Proof.Machine.execDupMorTake r s
  | .dupTakeover r => Sys2Proof.Machine.execDupTakeover r s
  | .dupProvision r certOk => Sys2Proof.Machine.execDupProvision r certOk s
  | .dupResync r => Sys2Proof.Machine.execDupResync r s
  | .autoProvision certOk => Sys2Proof.Machine.execAutoProvision certOk s
  | .provisionHello => Sys2Proof.Machine.execProvisionHello s
  | .provisionKeys b => Sys2Proof.Machine.execProvisionKeys b s
  | .provisionDone ok => Sys2Proof.Machine.execProvisionDone ok s
  | .frameTx r buf => Sys2Proof.Machine.execFrameTx r buf s
  | .frameLaunch port queue => Sys2Proof.Machine.execFrameLaunch port queue s
  | .gclLoad r buf => Sys2Proof.Machine.execGclLoad r buf s
  | .gclOperational port => Sys2Proof.Machine.execGclOperational port s
  | .ethFrameRx port f => Sys2Proof.Machine.execEthFrameRx port f s
  | .ringPortLinkChange port up => Sys2Proof.Machine.execRingPortLinkChange port up s
  | .hsrSupervisionTx => Sys2Proof.Machine.execHsrSupervisionTx s
  | .hsrEntryExpiry => Sys2Proof.Machine.execHsrEntryExpiry s
  | .noPeers port => Sys2Proof.Machine.execNoPeers port s
  | .macsecRekey port => Sys2Proof.Machine.execMacsecRekey port s
  | .macsecOldSaExpiry port sci => Sys2Proof.Machine.execMacsecOldSaExpiry port sci s
  | .keyNumberAnnouncement port an sci kn tag => Sys2Proof.Machine.execKeyNumberAnnouncement port an sci kn tag s
  | .knaTx port => Sys2Proof.Machine.execKnaTx port s
  | .ptpOffsetMeasurement ofs => Sys2Proof.Machine.execPtpOffsetMeasurement ofs s
  | .announce m => Sys2Proof.Machine.execAnnounce m s
  | .announceTimeout => Sys2Proof.Machine.execAnnounceTimeout s
  | .holdHExpiry => Sys2Proof.Machine.execHoldHExpiry s
  | .leapSecond positive => Sys2Proof.Machine.execLeapSecond positive s
  | .incrCommit d ns => Sys2Proof.Machine.execIncrCommit d ns s
  | .stepAccept r => Sys2Proof.Machine.execStepAccept r s
  | .stepReject r => Sys2Proof.Machine.execStepReject r s
  | .timeSet r => Sys2Proof.Machine.execTimeSet r s
  | .rtcSet r => Sys2Proof.Machine.execRtcSet r s
  | .alarmSet r => Sys2Proof.Machine.execAlarmSet r s
  | .rtcCompare => Sys2Proof.Machine.execRtcCompare s
  | .rtcAlarm => Sys2Proof.Machine.execRtcAlarm s
  | .periodicWake => Sys2Proof.Machine.execPeriodicWake s
  | .captureEdge unit rising => Sys2Proof.Machine.execCaptureEdge unit rising s
  | .launchPulse unit => Sys2Proof.Machine.execLaunchPulse unit s
  | .oscStop => Sys2Proof.Machine.execOscStop s
  | .backupSourceSwitch mainUp extMv cellMv => Sys2Proof.Machine.execBackupSourceSwitch mainUp extMv cellMv s
  | .backupSourceMeasure extMv cellMv capMv => Sys2Proof.Machine.execBackupSourceMeasure extMv cellMv capMv s
  | .vbdRetTrip => Sys2Proof.Machine.execVbdRetTrip s
  | .vbdFloorTrip => Sys2Proof.Machine.execVbdFloorTrip s
  | .slotPatrol bad => Sys2Proof.Machine.execSlotPatrol bad s
  | .tamperTrip t => Sys2Proof.Machine.execTamperTrip t s
  | .keyZeroise r => Sys2Proof.Machine.execKeyZeroise r s
  | .keyDevcert r => Sys2Proof.Machine.execKeyDevcert r s
  | .keyPublic r => Sys2Proof.Machine.execKeyPublic r s
  | .keyProvision r b => Sys2Proof.Machine.execKeyProvision r b s
  | .keyGcm r buf => Sys2Proof.Machine.execKeyGcm r buf s
  | .keyHmac r buf => Sys2Proof.Machine.execKeyHmac r buf s
  | .kstTampcfgWrite value => Sys2Proof.Machine.execKstTampcfgWrite value s
  | .fcoForce value => Sys2Proof.Machine.execFcoForce value s
  | .forcedLevelExpiry source => Sys2Proof.Machine.execForcedLevelExpiry source s
  | .fcoActiveClear w value => Sys2Proof.Machine.execFcoActiveClear w value s
  | .fcoWindowEnd source => Sys2Proof.Machine.execFcoWindowEnd source s
  | .fcoIntegrityScan r => Sys2Proof.Machine.execFcoIntegrityScan r s
  | .evrTokenRefill code => Sys2Proof.Machine.execEvrTokenRefill code s
  | .evrFlush => Sys2Proof.Machine.execEvrFlush s
  | .evtReplay r => Sys2Proof.Machine.execEvtReplay r s
  | .pmcSample r => Sys2Proof.Machine.execPmcSample r s
  | .snap => Sys2Proof.Machine.execSnap s
  | .clear => Sys2Proof.Machine.execClear s
  | .pmcSelWrite k value => Sys2Proof.Machine.execPmcSelWrite k value s
  | .pmcPeriodicSnapshot => Sys2Proof.Machine.execPmcPeriodicSnapshot s
  | .bwWindowEnd p => Sys2Proof.Machine.execBwWindowEnd p s
  | .bwcfgWrite p value => Sys2Proof.Machine.execBwcfgWrite p value s
  | .canFrameRx ch f => Sys2Proof.Machine.execCanFrameRx ch f s
  | .canNodeTimeout ch node => Sys2Proof.Machine.execCanNodeTimeout ch node s
  | .canTx r buf => Sys2Proof.Machine.execCanTx r buf s
  | .canTxDone ch item how => Sys2Proof.Machine.execCanTxDone ch item how s
  | .canCancel r => Sys2Proof.Machine.execCanCancel r s
  | .schedLoad r buf => Sys2Proof.Machine.execSchedLoad r buf s
  | .schedCellOpen ch row col => Sys2Proof.Machine.execSchedCellOpen ch row col s
  | .schedWindowDrop ch obj => Sys2Proof.Machine.execSchedWindowDrop ch obj s
  | .canSleep r => Sys2Proof.Machine.execCanSleep r s
  | .canWake r => Sys2Proof.Machine.execCanWake r s
  | .cannWakeN ch => Sys2Proof.Machine.execCannWakeN ch s
  | .busOff ch => Sys2Proof.Machine.execBusOff ch s
  | .busOffRecovery ch => Sys2Proof.Machine.execBusOffRecovery ch s
  | .dioInputEdge ch level => Sys2Proof.Machine.execDioInputEdge ch level s
  | .dioOutputLatch => Sys2Proof.Machine.execDioOutputLatch s
  | .dioOutputShutdown ch => Sys2Proof.Machine.execDioOutputShutdown ch s
  | .dioReadbackFault ch holds => Sys2Proof.Machine.execDioReadbackFault ch holds s
  | .logicSilence => Sys2Proof.Machine.execLogicSilence s
  | .silenceEnd => Sys2Proof.Machine.execSilenceEnd s
  | .groupSupplyMissing group missing => Sys2Proof.Machine.execGroupSupplyMissing group missing s
  | .updManifest r buf sigOk digestsOk => Sys2Proof.Machine.execUpdManifest r buf sigOk digestsOk s
  | .updBlock r sum data => Sys2Proof.Machine.execUpdBlock r sum data s
  | .updActivateFirmware r => Sys2Proof.Machine.execUpdActivateFirmware r s
  | .updActivateConfig r => Sys2Proof.Machine.execUpdActivateConfig r s
  | .updConfirm r => Sys2Proof.Machine.execUpdConfirm r s
  | .updFallback r => Sys2Proof.Machine.execUpdFallback r s
  | .updAbort r => Sys2Proof.Machine.execUpdAbort r s
  | .loaderBlockWrite readOk => Sys2Proof.Machine.execLoaderBlockWrite readOk s
  | .receiveTimeout => Sys2Proof.Machine.execReceiveTimeout s
  | .autoConfirm => Sys2Proof.Machine.execAutoConfirm s
  | .stage5Timeout => Sys2Proof.Machine.execStage5Timeout s
  | .syncTmoExpiry => Sys2Proof.Machine.execSyncTmoExpiry s
  | .noRoundClosed3s => Sys2Proof.Machine.execNoRoundClosed3s s
  | .peerAcknowledgement mseq => Sys2Proof.Machine.execPeerAcknowledgement mseq s
  | .canTxDeadline ch tag => Sys2Proof.Machine.execCanTxDeadline ch tag s
  | .levelConditionEnd source => Sys2Proof.Machine.execLevelConditionEnd source s
  | .holdupStoreExhausted => Sys2Proof.Machine.execHoldupStoreExhausted s

end Sys2Proof.Machine
end

