-- ==== Sys2Proof/Safety.lean ====
section
/-!
DEFINITION. What claims about the module are stated in: the parts of its state, what a command leaves as it was, and the form of the
register file.
-/
namespace Sys2Proof.Machine

/-- The parts of the state beyond the register file and the queue. -/
inductive Part where
  | cfg | hif | pwr | start | fco | evr | pmc | dup | tim | kst | model | rnd | chu | sep | ctr | disp | lpe | tly | cyc | fio | upd
  | out | free
deriving DecidableEq, Repr

/-- A part holds the same in two states. -/
def Part.same : Part → State → State → Prop
  | .cfg, s, t => t.cfg = s.cfg
  | .hif, s, t => t.hif = s.hif
  | .pwr, s, t => t.pwr = s.pwr
  | .start, s, t => t.start = s.start
  | .fco, s, t => t.fco = s.fco
  | .evr, s, t => t.evr = s.evr
  | .pmc, s, t => t.pmc = s.pmc
  | .dup, s, t => t.dup = s.dup
  | .tim, s, t => t.tim = s.tim
  | .kst, s, t => t.kst = s.kst
  | .model, s, t => t.model = s.model
  | .rnd, s, t => t.rnd = s.rnd
  | .chu, s, t => t.chu = s.chu
  | .sep, s, t => t.sep = s.sep
  | .ctr, s, t => t.ctr = s.ctr
  | .disp, s, t => t.disp = s.disp
  | .lpe, s, t => t.lpe = s.lpe
  | .tly, s, t => t.tly = s.tly
  | .cyc, s, t => t.cyc = s.cyc
  | .fio, s, t => t.fio = s.fio
  | .upd, s, t => t.upd = s.upd
  | .out, s, t => t.out = s.out
  | .free, s, t => t.free = s.free

/-- The register file's canonical form: addresses strictly rising, and no entry equal to the register's reset value. -/
def regsOk : Tbl Word → Bool
  | [] => true
  | [e] => e.2 != regReset e.1
  | e :: f :: r => decide (e.1 < f.1) && e.2 != regReset e.1 && regsOk (f :: r)

/-- From s to t the queue, every part but those of `ps`, and every register but those of `rs` stay as they were; `none` stands for a
set of registers that depends on the state. -/
structure Untouched (ps : List Part) (rs : Option (List Nat)) (s t : State) : Prop where
  pending : t.pending = s.pending
  parts   : ∀ p, p ∉ ps → p.same s t
  regs    : ∀ l, rs = some l → ∀ a, a ∉ l → getReg a t = getReg a s

/-- What a command may change at most: whenever it answers a next state, the frame holds. -/
def KeepsBut (ps : List Part) (rs : Option (List Nat)) (i : Instr) : Prop :=
  ∀ s t, exec i s = .next t → Untouched ps rs s t

/-- No source of the fault collector has the BLK reaction (R501, R507), so that no command starts a block reset by way of a source. -/
def NoBlk (s : State) : Prop := ∀ n, n < 224 → bitAt (srcCfg n s) 29 = false

/-- What a command may change at most where no source has the BLK reaction: the frame with the registers `rs`. -/
def CalmBut (ps : List Part) (rs : List Nat) (i : Instr) : Prop :=
  ∀ s t, NoBlk s → exec i s = .next t → Untouched ps (some rs) s t

/-- In a state a command answers a next state of which `P` holds. -/
def Does (i : Instr) (s : State) (P : State → Prop) : Prop := ∃ t, exec i s = .next t ∧ P t

/-- A register answers accesses: its block is there at this stage of the start-up (R71, R72) and in no block reset (R67). -/
def Answers (a : Nat) (s : State) : Prop := present a s = true ∧ inBlockReset a s = false

/-- The command that a request stands for: its descriptor is held and started and asks for an operation (R95, R108). -/
def Held (r : Req) (op : Nat) (c : Cmd) (s : State) : Prop := heldCmd r s = some c ∧ c.desc.opcode = op

/-- A command's data in its host buffer, whose read succeeds (R95, R104). -/
def Reads (c : Cmd) (b : Bytes) : Prop := descInl c.desc = false ∧ c.desc.length = b.length ∧ writeFails c.fail b.length = false

/-- A request held for an operation gives it `len` bytes in line (R95, R96). -/
def Inline (r : Req) (op len : Nat) (b : Bytes) (s : State) : Prop :=
  ∃ c, Held r op c s ∧ descInl c.desc = true ∧ c.desc.length = len ∧ descInput c.desc none = b

/-- A request held for an operation gives it the bytes of a host buffer. -/
def Buffered (r : Req) (op : Nat) (b : Bytes) (s : State) : Prop := ∃ c, Held r op c s ∧ Reads c b

/-- The form of a received Plynu frame: whole, checksummed where it must be, well formed and with nothing in its reserved fields (R326, R327,
check 1 of R338). -/
structure FrameForm (f : Frame) : Prop where
  whole : f.fragment = false
  csum  : f.csumZero = false ∨ f.ipv4 = true
  form  : malformed f = false
  hdr   : hdrBad f = false

/-- A session frame with the body `b` in clear that passes checks 2 to 9 of R338. -/
structure SessionOk (f : Frame) (b : Bytes) (s : State) : Prop where
  runs    : rndRuns s = true
  known   : (stnDecl f.station s).isSome = true
  state   : (stn f.station s).state ≠ .retired ∧ (stn f.station s).state ≠ .dormant ∧ (stn f.station s).state ≠ .lost
  epoch   : f.epoch = (stn f.station s).epoch
  welcome : (stn f.station s).nm.isSome = true
  tag     : ∃ k, sessKey f.station s = some k ∧ b = gcmText k (plynuNonce f.sender f.fseq) f.body ∧
              f.tag = Config.gcmTag k (plynuNonce f.sender f.fseq) (frameHdr f) b
  recent  : (stn f.station s).hiSeq ≤ f.fseq + 64
  fresh   : (stn f.station s).window.contains f.fseq = false

end Sys2Proof.Machine
end

