-- ==== Sys2Proof/Certificates/Slice0/Obligations.lean ====
section
/-!
DEFINITION. The statements about the module for the provers. A command's outcome is stated with `Does` (it answers a next state of which
something holds) and its frame with `KeepsBut`; the rules are those of the spec.
-/

set_option linter.unusedVariables false

open Sys2Proof Sys2Proof.Machine

/-! ## The queue and the machine as a whole -/

/-- A step runs the command at the front of the queue with the rest of the queue. -/
def Obligations.StepRunsTheFrontCommand : Prop :=
  ∀ s c rest, s.pending = c :: rest → step s = exec c { s with pending := rest }

/-- The model's choice (log entry 2): on an empty queue a step is one 2 ns tick. With the rails on MON, NET and BUS advance by their increments,
MON and BUS wrapping; with the rails off they stand; the RTC advances while it is valid and no setting holds it; nothing outside the time block changes. -/
def Obligations.IdleStepIsOneTick : Prop :=
  ∀ s, s.pending = [] → ∃ t, step s = .next t ∧ Untouched [.tim] (some []) s t ∧
    t.tim.rtc = (if getB 0x06004 30 s && (!s.pwr.on || decide (s.tim.haltUntil ≤ s.tim.mon)) then s.tim.rtc + 2 else s.tim.rtc) ∧
    (s.pwr.on = false → t.tim = { s.tim with rtc := t.tim.rtc }) ∧
    (s.pwr.on = true → t.tim.mon * 2 ^ 32 + t.tim.monF = (s.tim.mon * 2 ^ 32 + s.tim.monF + s.tim.incrMon) % 2 ^ 96) ∧
    (s.pwr.on = true → t.tim.net * 2 ^ 32 + t.tim.netF = s.tim.net * 2 ^ 32 + s.tim.netF + s.tim.incrNet) ∧
    (s.pwr.on = true → t.tim.bus * 2 ^ 32 + t.tim.busF = (s.tim.bus * 2 ^ 32 + s.tim.busF + s.tim.incrBus) % 2 ^ 96)

/-- No command faults and none is refused: each answers a next state from every state. -/
def Obligations.EveryCommandAnswers : Prop := ∀ i s, ∃ t, exec i s = .next t

/-- The queue is first in, first out: a step takes its front and adds nothing. What has left the module is never taken back, and the counter
of the free values never goes back. -/
def Obligations.QueueAndOutputsAreKept : Prop :=
  ∀ s t, step s = .next t → t.pending = s.pending.tail ∧ s.out <:+ t.out ∧ s.free ≤ t.free

/-- The state after reset: nothing waits or has been sent, the rails are on, every register reads its reset value, MON and BUS are 0, no lock is set,
no key is held, the module is in INIT with CLM at 0000b, no round or update runs, and no job waits. -/
def Obligations.ResetStateIsTheSpecs : Prop :=
  State.reset.pending = [] ∧ State.reset.out = [] ∧ State.reset.pwr.on = true ∧ (∀ a, getReg a State.reset = regReset a) ∧
  State.reset.tim.mon = 0 ∧ State.reset.tim.bus = 0 ∧ (∀ b, lockOf b State.reset = false) ∧ keyed State.reset = false ∧
  State.reset.dup.state = .init ∧ State.reset.pwr.clm = .static0 ∧ faultN State.reset = false ∧ State.reset.rnd.phase = .idle ∧
  State.reset.chu.queue = [] ∧ State.reset.upd.state = .idle ∧ getReg 0x7F014 State.reset = 0xFF01 ∧ getF 0x7F01C 3 0 State.reset = 0

/-- The register file of the state after reset has its canonical form. -/
def Obligations.RegistersCanonicalAtReset : Prop := regsOk State.reset.regs = true

/-- Every step keeps the register file's canonical form: addresses strictly rising, and no entry equal to its register's reset value. -/
def Obligations.RegistersStayCanonical : Prop := ∀ s t, step s = .next t → regsOk s.regs = true → regsOk t.regs = true

/-- The module's own claim never decreases (R395), whatever a step does. -/
def Obligations.ClaimNeverDecreases : Prop := ∀ s t, step s = .next t → s.dup.claim ≤ t.dup.claim

/-- With the rails off (R37) only a power-on reset, and what the backup domain does by itself, changes anything. -/
def Obligations.RailsOffIsStill : Prop :=
  ∀ (i : Instr) (s : State), s.pwr.on = false →
    match i with
    | .powerOnReset _ _ | .overTempCooled _ | .tamperTrip _ | .oscStop | .backupSourceSwitch _ _ _ | .vbdRetTrip | .vbdFloorTrip => True
    | _ => exec i s = .next s
/-- Fault collection (R62, R498 to R505): what each of its commands leaves. A condition that begins stands in the collector, one that
ends does not; a source whose THRESH is at most 1 becomes active at its occurrence. While island 1 stands still the collector stands
with it: only the NMI goes out. -/
def Obligations.FaultCommandsComplete : Prop :=
  (∀ s n, s.pwr.on = true → 17 ≤ n → n ≤ 35 → n ≠ 34 → Does (.clockFault n) s fun t => n ∈ t.fco.cond) ∧
  (∀ s n, s.pwr.on = true → 16 ≤ n → n ≤ 33 → Does (.clockFault 16) s fun t => n ∈ t.fco.cond ∧ t.fco.stopped = true) ∧
  (∀ s, s.pwr.on = true → s.fco.stopped = false → Does (.clockFault 34) s fun t => t.fco.stopped = true ∧ t.fco.cond = s.fco.cond ∧
    t.out = .nmi 34 :: s.out) ∧
  (∀ s n, s.pwr.on = true → 48 ≤ n → n ≤ 50 → fld (srcCfg n s) 23 16 ≤ 1 → Does (.lockstepMismatch n) s fun t => n ∈ t.fco.active) ∧
  (∀ s n, s.pwr.on = true → (51 ≤ n ∧ n ≤ 55) ∨ (80 ≤ n ∧ n ≤ 94) → fld (srcCfg n s) 23 16 ≤ 1 →
    Does (.memoryEccError n) s fun t => n ∈ t.fco.active) ∧
  (∀ s n, s.pwr.on = true → (srcRow n).level = true → n ≠ 16 → n ≠ 34 → Does (.levelConditionEnd n) s fun t =>
    n ∉ t.fco.cond ∧ (srcHeld n s = false → tget s.fco.forced n = none → n ∉ t.fco.active)) ∧
  (∀ s v, s.pwr.on = true → fld v 31 16 = 0x5A3C → (srcRow (fld v 7 0)).known = true → fld v 7 0 < 224 →
    Answers 0x08010 s → fld (srcCfg (fld v 7 0) s) 23 16 ≤ 1 → Does (.fcoForce v) s fun t => fld v 7 0 ∈ t.fco.active ∧
      ((srcRow (fld v 7 0)).level = true → fld v 7 0 ∉ s.fco.active → tget t.fco.forced (fld v 7 0) = some (s.tim.mon + 1000000))) ∧
  (∀ s n m, s.pwr.on = true → tget s.fco.forced n = some m → m ≤ s.tim.mon → Does (.forcedLevelExpiry n) s fun t =>
    tget t.fco.forced n = none ∧ (n ∉ s.fco.cond → n ∉ t.fco.active)) ∧
  (∀ s w v b, s.pwr.on = true → w < 7 → b < 32 → bitAt v b = true → Answers (0x08020 + 4 * w) s → (srcRow (32 * w + b)).level = false →
    Does (.fcoActiveClear w v) s fun t => 32 * w + b ∉ t.fco.active) ∧
  (∀ s n, s.pwr.on = true → windowOpen n s = false → Does (.fcoWindowEnd n) s fun t => tget t.fco.window n = none ∧ tget t.fco.opened n = none) ∧
  (∀ s r, s.pwr.on = true → r ≠ .ok → fld (srcCfg 192 s) 23 16 ≤ 1 → Does (.fcoIntegrityScan r) s fun t => 192 ∈ t.fco.active)

/-- The event recorder (R37, R511 to R516): what each of its commands leaves. -/
def Obligations.RecorderCommandsComplete : Prop :=
  (∀ s c, s.pwr.on = true →
    onMultiple (getF (0x0B000 + 4 * c) 15 8 s * 10000000) (tgetD s.evr.refillAt c 0) s.tim.mon = true → Does (.evrTokenRefill c) s fun t => tgetD t.evr.spent c 0 = tgetD s.evr.spent c 0 - 1) ∧
  (∀ s, s.pwr.on = true → s.evr.flushAt + 10000000 ≤ s.tim.mon → s.evr.noRoom = 0 → s.evr.log.length + s.evr.staged.length ≤ logSize → Does .evrFlush s fun t =>
    t.evr.staged = [] ∧ t.evr.log = s.evr.log ++ s.evr.staged) ∧
  (∀ s q, s.pwr.on = true → s.pwr.seq = some q → Does .evrHoldupFlushDone s fun t => t.pwr.seq = some { q with flushDone := true }) ∧
  (∀ s v, s.pwr.on = true → Answers 0x0A044 s → Does (.evrCursorSet v) s fun t =>
    t.evr.cursor = v.toNat <<< 32 ||| (getReg 0x0A040 s).toNat ∧ getReg 0x0A044 t = v) ∧
  (∀ s who e l, s.pwr.on = true → reaches who s = true → Answers 0x0A060 s → findEvt s.evr.cursor s = some e → (s.evr.log ++ s.evr.staged).getLast? = some l →
    s.evr.cursor ≤ l.seq → Does (.evrWinCopy who) s fun t =>
      t.evr.window = e.bytes ∧ t.out = .regRead who 0x0A060 (evrWin 0 t) :: s.out) ∧
  (∀ s who, s.pwr.on = true → reaches who s = true → Answers 0x0A07C s → Does (.evrWinAdvance who) s fun t => t.out = .regRead who 0x0A07C (evrWin 7 s) :: s.out ∧
    t.evr.cursor = if getB 0x0A000 0 s then (s.evr.cursor + 1) % 2 ^ 64 else s.evr.cursor) ∧
  (∀ s r b, s.pwr.on = true → Inline r 0x0D10 8 b s → leAt b 0 8 ≤ s.evr.newest → Does (.evtReplay r) s fun t => .opDone r 0 0 8 [] ∈ t.out)

/-- The performance counters (R518 to R523): what each of their commands leaves. -/
def Obligations.CounterCommandsComplete : Prop :=
  (∀ s, s.pwr.on = true → Answers 0x0C000 s → Does .snap s fun t => t.pmc.snap = t.pmc.count ∧ t.pmc.snapMon = s.tim.mon ∧
    (∀ k, k < 32 → pmcUnseen (getF (0x0C100 + 4 * k) 7 0 s) = false → tget t.pmc.count k = tget s.pmc.count k) ∧
    getReg 0x0C008 t = lo32 s.tim.mon ∧ getReg 0x0C00C t = hi32 s.tim.mon) ∧
  (∀ s, s.pwr.on = true → Answers 0x0C000 s → Does .clear s fun t => t.pmc.count = [] ∧ t.pmc.snap = []) ∧
  (∀ s, s.pwr.on = true → onMultiple (getF 0x0C004 15 0 s * 1000000) s.pmc.lastAt s.tim.mon = true → Does .pmcPeriodicSnapshot s fun t =>
    getReg 0x0C008 t = lo32 s.tim.mon ∧ getReg 0x0C00C t = hi32 s.tim.mon) ∧
  (∀ s r b, s.pwr.on = true → Inline r 0x0D20 4 b s → leAt b 0 4 = 0 → Does (.pmcSample r) s fun t =>
    .opDone r 0 0 4 [] ∈ t.out ∧ getReg 0x0C008 t = lo32 s.tim.mon ∧ getReg 0x0C00C t = hi32 s.tim.mon) ∧
  (∀ s k v, s.pwr.on = true → k < 32 → Answers (0x0C100 + 4 * k) s → fld v 7 0 ≤ 0x9F → Does (.pmcSelWrite k v) s fun t =>
    getReg (0x0C100 + 4 * k) t = v &&& 0x800000FF ∧ (fld v 7 0 ≠ getF (0x0C100 + 4 * k) 7 0 s → tget t.pmc.count k = none)) ∧
  (∀ s p v, s.pwr.on = true → p < 5 → Answers (0x0C600 + 0x20 * p) s → fld v 15 0 ≠ 0 → fld v 15 0 ≤ 60000 → Does (.bwcfgWrite p v) s fun t =>
    getReg (0x0C600 + 0x20 * p) t = v &&& 0x8000FFFF ∧
    (v &&& 0x8000FFFF ≠ getReg (0x0C600 + 0x20 * p) s → (tgetD t.pmc.bw p {}).tx = 0 ∧ (tgetD t.pmc.bw p {}).rx = 0)) ∧
  (∀ s p, s.pwr.on = true → p < 5 → getB (0x0C600 + 0x20 * p) 31 s = true →
    onMultiple (getF (0x0C600 + 0x20 * p) 15 0 s * 1000000) (tgetD s.pmc.bw p {}).at_ s.tim.mon = true → (tgetD s.pmc.bw p {}).running = true →
    Does (.bwWindowEnd p) s fun t => getReg (0x0C604 + 0x20 * p) t = lo32 (min ((tgetD s.pmc.bw p {}).tx / 64) 0xFFFFFFFF) ∧
      getReg (0x0C608 + 0x20 * p) t = lo32 (min ((tgetD s.pmc.bw p {}).rx / 64) 0xFFFFFFFF) ∧ (tgetD t.pmc.bw p {}).tx = 0) ∧
  (∀ s who p, s.pwr.on = true → p < 5 → reaches who s = true → Answers (0x0C604 + 0x20 * p) s → Does (.lastTxRead who p) s fun t =>
    t.out = .regRead who (0x0C604 + 0x20 * p) (getReg (0x0C604 + 0x20 * p) s) :: s.out ∧
    (tgetD t.pmc.bw p {}).rxLatch = some (getReg (0x0C608 + 0x20 * p) s))

/-- Ring pairs and doorbells (R84 to R86, R91, R98, R112, R115): what the commands that set a pair up, stop it or ring it leave. -/
def Obligations.RingCommandsComplete : Prop :=
  (∀ s pair v, s.pwr.on = true → pair < 60 → ownedInside pair s = false → .hif ∉ s.start.blkRst → ringOn pair s = false → ringIdle pair s = true → bitAt v 2 = false →
    within (fld (v ||| 1) 15 12) 4 0xC = true → within (fld (v ||| 1) 11 8) 4 0xC = true → getF (ringReg pair 0) 11 0 s = 0 →
    getF (ringReg pair 8) 11 0 s = 0 → Does (.ringEnable pair v) s fun t => ringOn pair t = true ∧
      ring pair t = { armed := true, items := (ring pair s).items, lost := (ring pair s).lost }) ∧
  (∀ s pair, s.pwr.on = true → pair < 60 → .hif ∉ s.start.blkRst → ringOn pair s = true → ownedInside pair s = false →
    Does (.ringDisable pair) s fun t => ringOn pair t = false) ∧
  (∀ s r, s.pwr.on = true → (ring r.pair s).disabling = true →
    (∀ j ∈ s.chu.queue ++ s.chu.r0.toList ++ s.chu.rh.toList, j.req ≠ some r) →
    Does (.startedDescriptorCancel r) s fun t => .opDone r 0x03 0 0 [] ∈ t.out) ∧
  (∀ s, s.pwr.on = true → .hif ∉ s.start.blkRst → ownedInside 0 s = true → lockOf .hif s = false → (ring 0 s).cmds = [] →
    Does .ownerClear s fun t => ownedInside 0 t = false ∧ ringOn 0 t = false ∧ ring 0 t = {}) ∧
  (∀ s, s.pwr.on = true → .hif ∉ s.start.blkRst → ownedInside 0 s = false → lockOf .hif s = false → ringOn 0 s = false → ringIdle 0 s = true →
    Does .ownerSet s fun t => ownedInside 0 t = true ∧ ringOn 0 t = true) ∧
  (∀ s pair v, s.pwr.on = true → pair < 60 → doorbellOk pair s = true → v.toNat < subSize pair s →
    Does (.subTail pair v) s fun t => (ring pair t).subTail = v.toNat) ∧
  (∀ s pair v, s.pwr.on = true → pair < 60 → doorbellOk pair s = true → v.toNat < cmpSize pair s →
    (v.toNat + cmpSize pair s - (ring pair s).cmpHead) % cmpSize pair s ≤
      ((ring pair s).cmpTail + cmpSize pair s - (ring pair s).cmpHead) % cmpSize pair s →
    Does (.cmpHead pair v) s fun t => (ring pair t).cmpHead = v.toNat) ∧
  (∀ s pair, s.pwr.on = true → pair < 60 → doorbellOk pair s = true → (ring pair s).cmpTail = (ring pair s).cmpHead →
    Does (.cmpArm pair) s fun t => (ring pair t).armed = true)

/-- Descriptors, buffer posts and vectors (R97, R101, R104 to R106, R109, R112 to R114): what their commands leave. -/
def Obligations.DescriptorCommandsComplete : Prop :=
  (∀ s pair b, s.pwr.on = true → mayFetch pair s = true → Does (.descriptorFetch pair b) s fun t =>
      (ring pair t).subHead = ((ring pair s).subHead + 1) % subSize pair s ∧
      (if isPost pair (descRead b) then (ring pair t).posts.map (·.desc) = (ring pair s).posts.map (·.desc) ++ [descRead b]
       else (ring pair t).cmds.map (·.desc) = (ring pair s).cmds.map (·.desc) ++ [descRead b])) ∧
  (∀ s pair why, s.pwr.on = true → mayFetch pair s = true →
    Does (.descriptorFetchFail pair why) s fun t => (ring pair t).fetchErr = true ∧ (ring pair t).subHead = (ring pair s).subHead) ∧
  (∀ s pair fail i c, s.pwr.on = true → pairBlocked pair s = false → startable 0 (ring pair s).cmds = some i →
    (ring pair s).cmds[i]? = some c → 0 < freeSlots pair s → descCheck pair s.start.recovery c.desc s.tim.mon = none →
    Does (.descriptorStart pair fail) s fun t =>
      (ring pair t).cmds = (ring pair s).cmds.set i { c with started := true, fail := fail }) ∧
  (∀ s pair fail c cs, s.pwr.on = true → (ring pair s).posts = c :: cs → postCheck pair c.desc = none →
    Does (.rxbuf pair fail) s fun t => (ring pair t).posts = cs) ∧
  (∀ s pair, s.pwr.on = true → (ring pair s).unsig ≠ 0 →
    (ring pair s).oldest + getF (ringReg pair 0x14) 31 16 s * 1000 ≤ s.tim.mon → (ring pair s).armed = true →
    Does (.coalesceTimeExpiry pair) s fun t => (ring pair t).armed = false ∧ (ring pair t).unsig = 0) ∧
  (∀ s v, s.pwr.on = true → v ∈ s.hif.spaced → (∀ m, tget s.hif.lastMsg v = some m → m + 100000 ≤ s.tim.mon) →
    s.hif.msixOn = true → linkOk s = true → vecMasked v s = false →
    Does (.vectorSpacingExpiry v) s fun t => .msix v ∈ t.out) ∧
  (∀ s v, s.pwr.on = true → v < 64 → Does (.msixUnmask (.vector v)) s fun t => getB (0x0300C + 16 * v) 0 t = false) ∧
  (∀ s e m, s.pwr.on = true → Does (.msixUnmask (.config (.msix e m))) s fun t => t.hif.msixOn = e ∧ t.hif.fnMask = m) ∧
  (∀ s b, s.pwr.on = true → s.hif.busMaster = true → Does (.msixUnmask (.config (.busMaster b))) s fun t =>
    t.hif.busMaster = b ∧ (b = false → 64 ∈ t.fco.cond))

/-- The link (R66, R94, R117, R545): what its loss, its return and the two endpoint resets leave. -/
def Obligations.LinkCommandsComplete : Prop :=
  (∀ s c, s.pwr.on = true → Does (.linkLoss c) s fun t => 64 ∈ t.fco.cond) ∧
  (∀ s speed width, s.pwr.on = true → 1 ≤ speed → speed ≤ 3 → width = 1 ∨ width = 2 ∨ width = 4 → Does (.linkReturn speed width) s fun t => 64 ∉ t.fco.cond ∧
    getB 0x00004 0 t = true ∧ getF 0x00004 3 2 t = speed ∧ getF 0x00004 7 4 t = width) ∧
  (∀ s a, s.pwr.on = true → 0x03000 ≤ a → a < 0x04000 → Does .perstN s fun t => 64 ∈ t.fco.cond ∧ t.hif.msixOn = false ∧
    getReg a t = regReset a) ∧
  (∀ s a, s.pwr.on = true → 0x03000 ≤ a → a < 0x04000 → Does .functionLevelReset s fun t => 64 ∈ t.fco.cond ∧ t.hif.msixOn = false ∧
    getReg a t = regReset a)

/-- Time domains and PTP (R451, R453 to R458, R460): what the commands that measure, follow, set or adjust time leave. -/
def Obligations.TimeCommandsComplete : Prop :=
  (∀ s ofs, s.pwr.on = true → s.tim.slave ≠ 0 → s.tim.acceptNext = false → s.tim.stepPend = false → overLimit ofs s = false →
    100000 < ofs.natAbs → Does (.ptpOffsetMeasurement ofs) s fun t => t.tim.net = ((s.tim.net : Int) + ofs).toNat) ∧
  (∀ s ofs, s.pwr.on = true → s.tim.slave ≠ 0 → s.tim.acceptNext = false → s.tim.stepPend = false → overLimit ofs s = true →
    Does (.ptpOffsetMeasurement ofs) s fun t => t.tim.stepPend = true ∧ t.tim.net = s.tim.net) ∧
  (∀ s m, s.pwr.on = true → m.best = true → ptpPort m.port s = true → m.gmId.toNat ∉ s.tim.rejects → Does (.announce m) s fun t =>
    t.tim.gm = some m.gmId.toNat ∧ t.tim.slave = (if m.port ≤ 1 then 1 else 3)) ∧
  (∀ s, s.pwr.on = true → Does .announceTimeout s fun t => t.tim.slave = 0 ∧ t.tim.net = s.tim.net ∧
    (s.tim.quality = .sync → t.tim.quality = .holdover)) ∧
  (∀ s, s.pwr.on = true → Does .holdHExpiry s fun t => t.tim.legValid = legNow s ∧
    (s.tim.quality = .holdover → s.tim.lastSync + getF 0x04008 31 16 s * 3600 * sec ≤ s.tim.mon → t.tim.legValid = false) ∧
    (s.tim.quality = .localQ → s.tim.stamp + getF 0x04008 31 16 s * 3600 * sec ≤ s.tim.rtc → t.tim.legValid = false)) ∧
  (∀ s b, s.pwr.on = true → Does (.leapSecond b) s fun t => t.cfg.leapOfs = s.cfg.leapOfs + (if b then 1 else -1)) ∧
  (∀ s v, s.pwr.on = true → Answers 0x04100 s → (if v.toNat * 2 ^ 32 + (getReg 0x04104 s).toNat < 8589934592
      then 8589934592 - (v.toNat * 2 ^ 32 + (getReg 0x04104 s).toNat) else v.toNat * 2 ^ 32 + (getReg 0x04104 s).toNat - 8589934592)
      * 1000000 ≤ 200 * 8589934592 →
    Does (.incrCommit 0 v) s fun t => t.tim.incrMon = v.toNat * 2 ^ 32 + (getReg 0x04104 s).toNat ∧ getReg 0x04100 t = v) ∧
  (∀ s r b, s.pwr.on = true → Inline r 0x0F30 4 b s → leAt b 0 4 = 0 → duplex s = false → s.tim.stepPend = true → Does (.stepAccept r) s fun t =>
    t.tim.acceptNext = true ∧ .opDone r 0 0 4 [] ∈ t.out) ∧
  (∀ s r b g, s.pwr.on = true → Inline r 0x0F31 4 b s → leAt b 0 4 = 0 → duplex s = false → s.tim.stepPend = true → s.tim.gm = some g →
    Does (.stepReject r) s fun t =>
    g ∈ t.tim.rejects ∧ t.tim.slave = 0 ∧ .opDone r 0 0 4 [] ∈ t.out) ∧
  (∀ s r b u ns, s.pwr.on = true → Inline r 0x0F32 16 b s → leAt b 0 8 = u → leAt b 8 4 = ns → leAt b 0xC 4 = 1 → ns < sec →
    duplex s = false → s.tim.quality ≠ .sync → Does (.timeSet r) s fun t =>
    t.tim.rtc = u * sec + ns ∧ t.tim.net = (((u * sec + ns : Nat) : Int) + s.cfg.leapOfs * (sec : Int)).toNat ∧
    t.tim.quality = .localQ ∧ .opDone r 0 0 16 [] ∈ t.out)

/-- The real-time clock, the capture and launch units and the backup domain (R461 to R472, R479, R480): what their commands leave. The
commands of the backup domain act with the rails off too. -/
def Obligations.BackupCommandsComplete : Prop :=
  (∀ s r b, s.pwr.on = true → Inline r 0x0F33 16 b s → leAt b 0 1 = 0 → Does (.rtcSet r) s fun t => t.tim.rtc = leAt b 8 8 * 1000000 ∧ .opDone r 0 0 16 [] ∈ t.out) ∧
  (∀ s r b, s.pwr.on = true → Inline r 0x0F34 16 b s → leAt b 8 4 ≤ 86400 → Does (.alarmSet r) s fun t =>
    t.tim.alarm = leAt b 0 8 ∧ t.tim.period = leAt b 8 4 ∧ .opDone r 0 0 16 [] ∈ t.out) ∧
  (∀ s, s.pwr.on = true → s.tim.quality = .sync → (∀ m, s.tim.cmpAt = some m → m + 60 * sec ≤ s.tim.mon) →
    500000000 < ((legNs s : Int) - s.tim.rtc).natAbs → Does .rtcCompare s fun t => legNs s ≤ t.tim.rtc ∧ t.tim.rtc ≤ legNs s + 61000) ∧
  (∀ s, s.pwr.on = true → s.tim.alarm ≠ 0 → s.tim.alarm ≤ s.tim.rtc / sec → Does .rtcAlarm s fun t =>
    t.tim.alarm = 0 ∧ getB 0x04014 4 t = true ∧ getB 0x06004 21 t = false) ∧
  (∀ s, s.pwr.on = true → s.tim.period ≠ 0 → s.tim.lastWake < s.tim.rtc / sec / s.tim.period * s.tim.period →
    Does .periodicWake s fun t => t.tim.lastWake = s.tim.rtc / sec / s.tim.period * s.tim.period ∧ getB 0x04014 5 t = true) ∧
  (∀ s k, s.pwr.on = true → k < 4 → getB (0x04200 + 0x20 * k) 31 s = true → getF (0x04200 + 0x20 * k) 30 29 s % 2 = 1 →
    getB (0x04218 + 0x20 * k) 0 s = false → Does (.captureEdge k true) s fun t =>
      getReg (0x04204 + 0x20 * k) t = lo32 (s.tim.mon - 1000) ∧ getReg (0x04208 + 0x20 * k) t = hi32 (s.tim.mon - 1000) ∧
      getB (0x04218 + 0x20 * k) 0 t = true) ∧
  (∀ s k, s.pwr.on = true → k < 4 → launchLive k s = true → tget s.tim.launched k = none → getB (0x04300 + 0x10 * k) 30 s = true →
    launchStart k s ≤ s.tim.net → (s.tim.net - launchStart k s) % launchPeriod k s ≤ 4 → Does (.launchPulse k) s fun t =>
      .launch k (getF (0x04300 + 0x10 * k) 4 0 s) (getReg (0x0430C + 0x10 * k) s).toNat false ∈ t.out) ∧
  (∀ s, Does .oscStop s fun t => getB 0x06004 27 t = true ∧ getB 0x06004 30 t = false) ∧
  (∀ s m e c, Does (.backupSourceSwitch m e c) s fun t => t.tim.source = firstSource m e c s) ∧
  (∀ s e c p, s.pwr.on = true → measureDue s = true → getB 0x06024 1 s = true → c < 2600 →
    Does (.backupSourceMeasure e c p) s fun t => 78 ∈ t.fco.cond ∧ getB 0x06004 24 t = true) ∧
  (∀ s, Does .vbdRetTrip s fun t => t.tim.latchOk = false) ∧
  (∀ s, Does .vbdFloorTrip s fun t => t.tim.latchOk = false)


/-- The key store (R481 to R493): what its commands leave. A slot that fails its patrol is UNUSABLE; a tamper trip, with the rails off
too, and KEY_ZEROISE leave no root secret and no working key. -/
def Obligations.KeyCommandsComplete : Prop :=
  (∀ s l n, s.pwr.on = true → n ∈ l → n < 64 → n ≠ 8 → n ≠ 9 → slotState n s ≠ 0 →
    Does (.slotPatrol l) s fun t => slotState n t = 2) ∧
  (∀ s x, tamperArmed x s = true → Does (.tamperTrip x) s fun t => t.kst.root = none ∧ t.kst.prov = none ∧ t.kst.tamperPend = true ∧
    tget t.kst.material 8 = none ∧ tget t.kst.material 9 = none ∧ t.kst.sessions = []) ∧
  (∀ s r b, s.pwr.on = true → Inline r 0x0C13 4 b s → leAt b 0 4 = 0x5A3C → Does (.keyZeroise r) s fun t => t.kst.root = none ∧ t.kst.tamperPend = true ∧
    tget t.kst.material 8 = none ∧ tget t.kst.material 9 = none ∧ .opDone r 0 0 4 [] ∈ t.out) ∧
  (∀ s v, s.pwr.on = true → Answers 0x48008 s → Does (.kstTampcfgWrite v) s fun t => getReg 0x48008 t =
    (if keyed s then getReg 0x48008 s ||| v else v) &&& (if s.cfg.variantT then 7 else 5)) ∧
  (∀ s r c, s.pwr.on = true → Held r 0x0C10 c s → 512 ≤ c.desc.length → s.kst.cert.length ≤ c.desc.length → Does (.keyDevcert r) s fun t =>
    .opDone r 0 0 s.kst.cert.length s.kst.cert ∈ t.out) ∧
  (∀ s r c n, s.pwr.on = true → Held r 0x0C11 c s → 64 ≤ c.desc.length → leAt c.desc.param 0 1 = n → n < 64 → getF (0x48100 + 4 * n) 27 24 s = 3 ∨ getF (0x48100 + 4 * n) 27 24 s = 4 →
    n < 2 ∨ keyed s = true → slotState n s ≠ 2 → Does (.keyPublic r) s fun t =>
      .opDone r 0 0 64 (be 32 (Config.pubX (slotKey n s)) ++ be 32 (Config.pubY (slotKey n s))) ∈ t.out) ∧
  (∀ s r c n nonce k out b, s.pwr.on = true → Held r 0x0C14 c s → Reads c b → leAt c.desc.param 0 1 = n → leAt c.desc.param 1 1 = 0 →
    beAt c.desc.param 4 12 = nonce → leAt c.desc.param 0x10 4 = k → leAt c.desc.param 0x18 8 = out → userSlotCheck n 0 s = none → k ≤ b.length →
    Does (.keyGcm r b) s fun t => ∀ c, c = gcmText (slotKey n s) nonce (b.drop k) ++
        be 16 (Config.gcmTag (slotKey n s) nonce (b.take k) (b.drop k)).toNat →
      .opDone r 0 0 c.length [] ∈ t.out ∧ (attached r.pair s = true → .hostData r.pair out c ∈ t.out)) ∧
  (∀ s r c n out b, s.pwr.on = true → Held r 0x0C15 c s → Reads c b → leAt c.desc.param 0 1 = n → leAt c.desc.param 0x18 8 = out →
    userSlotCheck n 1 s = none → Does (.keyHmac r b) s fun t => .opDone r 0 0 32 [] ∈ t.out ∧
    (attached r.pair s = true → .hostData r.pair out (be 32 (Config.hmac (slotKey n s) b)) ∈ t.out)) ∧
  (∀ s, s.pwr.on = true → keyed s = false → duplex s = true → getB 0x384C4 0 s = true → .dup ∉ s.start.blkRst → cageOn 3 s = true →
    (∀ m, s.kst.helloAt = some m → m + 1000000000 ≤ s.tim.mon) → Does .provisionHello s fun t =>
    t.kst.nu.isSome = true ∧ t.free = s.free + 1 ∧ ∃ q h, .peer q 11 h .provHello ∈ t.out)

/-- Stations, enrolment and the sessions (R333 to R357): what an accepted HELLO, READY, READ_REP and WRITE_ACK, the repetitions and the
station operations leave. -/
def Obligations.StationCommandsComplete : Prop :=
  (∀ s f d, s.pwr.on = true → FrameForm f → f.type = 1 → stnDecl f.station s = some d → (stn f.station s).state ≠ .retired →
    keyed s = true → rndRuns s = true → f.tag = BitVec.ofNat 128 (Config.hmac (keyEnrol f.station s) (frameHdr f ++ f.body) / 2 ^ 128) →
    helloBad f.body = false → helloRefused f d s = none → f.epoch ≠ 0 → Does (.hello f) s fun t =>
      (stn f.station t).state = .enrolling ∧ (stn f.station t).epoch = f.epoch ∧ (stn f.station t).ns = some (beAt f.body 0 16) ∧
      ((stn f.station t).nm.isSome = inControl s)) ∧
  (∀ s f, s.pwr.on = true → FrameForm f → SessionOk f (zeros 8) s → f.type = 4 → Does (.ready f) s fun t =>
    (stn f.station t).state = (if (stn f.station s).state = .enrolling then .active else (stn f.station s).state) ∧
    (stn f.station t).hiSeq = max (stn f.station s).hiSeq f.fseq) ∧
  (∀ s f b, s.pwr.on = true → FrameForm f → SessionOk f b s → f.type = 0x11 → f.round = s.rnd.number → s.rnd.phase = .read →
    f.rxMon < boundary 7 0 s → (stn f.station s).round.reply = none → readRepBad (stn f.station s) b s = false →
    Does (.readRep f) s fun t => (stn f.station t).round.reply = some (parseReply (stn f.station s) b f.rxMon)) ∧
  (∀ s f b, s.pwr.on = true → FrameForm f → SessionOk f b s → f.type = 0x21 → f.round = s.rnd.number → s.rnd.phase = .write →
    f.rxMon < boundary 31 24 s → (stn f.station s).round.written = false → (stn f.station s).round.wrOpen = true →
    writeAckBad b = false → Does (.writeAck f) s fun t => (stn f.station t).round.written = true) ∧
  (∀ s id, s.pwr.on = true → s.rnd.phase = .read → (stn id s).round.listed = true → (stn id s).round.reply = none →
    1 ≤ (stn id s).round.reads → (stn id s).round.reads ≤ getF 0x2C008 3 0 s → retryDue (stn id s) s = true → s.tim.mon < boundary 7 0 s →
    rndRuns s = true → (sessKey id s).isSome = true →
    Does (.readRetry id) s fun t => (stn id t).round.reads = (stn id s).round.reads + 1 ∧ ∃ b g, .plynu id b g ∈ t.out) ∧
  (∀ s id, s.pwr.on = true → s.rnd.phase = .write → (stn id s).round.wrOpen = true → (stn id s).round.written = false →
    1 ≤ (stn id s).round.writes → (stn id s).round.writes ≤ getF 0x2C008 3 0 s → retryDue (stn id s) s = true → s.tim.mon < boundary 31 24 s →
    rndRuns s = true → (sessKey id s).isSome = true →
    sendsCommands s = true → Does (.writeRetry id) s fun t =>
      (stn id t).round.writes = (stn id s).round.writes + 1 ∧ ∃ b g, .plynu id b g ∈ t.out) ∧
  (∀ s r b id, s.pwr.on = true → Inline r 0x0610 4 b s → leAt b 0 2 = id → inGroup r id s = true → duplex s = false → (stn id s).state ≠ .retired →
    Does (.stationRetire r) s fun t => (stn id t).retire = some (some r)) ∧
  (∀ s r b id, s.pwr.on = true → Inline r 0x0611 4 b s → leAt b 0 2 = id → inGroup r id s = true → duplex s = false →
    (stn id s).state = .retired → (stnDecl id s).isSome = true → Does (.stationReinstate r) s fun t => (stn id t).state = .dormant ∧ .opDone r 0 0 4 [] ∈ t.out) ∧
  (∀ s r c id, s.pwr.on = true → Held r 0x0612 c s → descInl c.desc = false → 64 ≤ c.desc.length → leAt c.desc.param 0 2 = id →
    inGroup r id s = true → (stn id s).state = .active ∨ (stn id s).state = .suspect → Does (.stationQuery r) s fun t => (stn id t).query = (stn id s).query ++ [r])

/-- The separator (R142 to R158, R218): what the end of a fast-port job and the operations on its points leave. Without the bad-data test a
pass of the weighted least squares ends with the estimate of the round. -/
def Obligations.SeparatorCommandsComplete : Prop :=
  (∀ s j p w m, s.pwr.on = true → computing s = some .f → s.chu.f = some j → solvingPat j = some p → overdue j s = false →
    (kktSolved p j).sat = none → j.regPivots = 0 → .sep ∉ s.start.blkRst → s.sep.work = some w → s.model.active = some m → w.stage = .wls →
    m.networks.length ≤ w.net + 1 → bdOn w = false → Does .fastportJobComplete s fun t =>
      t.sep.work = none ∧ t.sep.fresh = true ∧ t.sep.est.map (·.round) = some s.rnd.number) ∧
  (∀ s r b mid q g, s.pwr.on = true → Inline r 0x0210 12 b s → leAt b 0 4 = mid → leAt b 4 1 = q → leAt b 8 4 = g → duplex s = false →
    pointCheck mid q s = none → Does (.setSigma r) s fun t =>
    (∀ d, sigmaOf mid q d t = if g = 0 then d else g) ∧ .opDone r 0 0 12 [] ∈ t.out) ∧
  (∀ s r b mid q, s.pwr.on = true → Inline r 0x0211 8 b s → leAt b 0 4 = mid → leAt b 4 1 = q → duplex s = false →
    pointCheck mid q s = none → s.sep.excl.length < 256 → Does (.excl r) s fun t =>
    (mid, q) ∈ t.sep.excl ∧ .opDone r 0 0 8 [] ∈ t.out) ∧
  (∀ s r b mid q, s.pwr.on = true → Inline r 0x0212 8 b s → leAt b 0 4 = mid → leAt b 4 1 = q → duplex s = false →
    pointCheck mid q s = none → Does (.incl r) s fun t =>
    (mid, q) ∉ t.sep.excl ∧ .opDone r 0 0 8 [] ∈ t.out) ∧
  (∀ s, s.pwr.on = true → Answers 0x14000 s → Does .flatStart s fun t => t.sep.flatNext = true)

/-- The churn (R192 to R220): a job that passes its checks waits in its order, a panel counts its replaced pivots, an iterate joins its job or
ends it, and a deadline ends the job that waits. -/
def Obligations.ChurnCommandsComplete : Prop :=
  (∀ s r c b, s.pwr.on = true → Held r 0x0110 c s → Reads c b → s.chu.comp.isSome = true →
    jobCheck false (jobParam c.desc) (readSections b.length b 0).1 (readSections b.length b 0).2 s = none → Does (.kktSolve r b) s fun t =>
    t.chu.queue.map (·.req) = s.chu.queue.map (·.req) ++ [some r]) ∧
  (∀ s r c b, s.pwr.on = true → Held r 0x0111 c s → Reads c b → s.chu.comp.isSome = true →
    jobCheck true (jobParam c.desc) (readSections b.length b 0).1 (readSections b.length b 0).2 s = none → Does (.qpSolve r b) s fun t =>
    t.chu.queue.map (·.req) = s.chu.queue.map (·.req) ++ [some r]) ∧
  (∀ s c j, s.pwr.on = true → computing s = some c → ctxJob c s = some j → Does .panelBoundary s fun t =>
    getReg 0x10030 t = satAdd32 (getReg 0x10030 s) (panelJob j).2) ∧
  (∀ s pt p c j, s.pwr.on = true → computing s = some c → ctxJob c s = some j → j.qp = true → j.pat = some p → overdue j s = false →
    nextPoint p j = some (pt, none) → converged (iterJob pt j) pt = false →
    infeasible (iterJob pt j).iters (2 ^ (24 - j.epsExp)) (iterJob pt j).bestRps pt.dualLarge = false →
    (iterJob pt j).iters < j.maxIter → jobCancelled j s = false → Does .qpIterationComplete s fun t =>
      ctxJob c t = some (iterJob pt j) ∧ t.chu.comp = some c) ∧
  (∀ s pt p c j r, s.pwr.on = true → computing s = some c → ctxJob c s = some j → j.qp = true → j.pat = some p → overdue j s = false →
    nextPoint p j = some (pt, none) → converged (iterJob pt j) pt = true → j.req = some r → Does .qpIterationComplete s fun t =>
      ∃ st d len, (st = (warnStatus (iterJob pt j)).1 ∨ st = 0x15) ∧ .opDone r st d len [] ∈ t.out) ∧
  (∀ s p c j r, s.pwr.on = true → computing s = some c → c ≠ .f → ctxJob c s = some j → solvingPat j = some p → overdue j s = false →
    (kktSolved p j).sat = none → j.req = some r → Does .kktSolveComplete s fun t =>
      ∃ st d len, (st = (warnStatus j).1 ∨ st = 0x15) ∧ .opDone r st d len [] ∈ t.out) ∧
  (∀ s j r, s.pwr.on = true → j ∈ s.chu.queue → j.req = some r → overdue j s = true → Does (.chuDeadline (some r)) s fun t =>
    .opDone r 0x21 0 0 [] ∈ t.out) ∧
  (∀ s m, s.pwr.on = true → s.chu.building = true → s.model.active = some m → Does .chuPatternsRebuilt s fun t =>
    t.chu.building = false ∧ t.chu.pats = builtPats s.cfg.watch m ++ hostPats s.chu.pats) ∧
  (∀ s r c n p, s.pwr.on = true → Held r 0x0112 c s → descInl c.desc = false → writeFails c.fail c.desc.length = false →
    leAt c.desc.param 8 1 = n → 12 ≤ n → n ≤ 15 → patBusy n s = false → imageBad p c.desc.length = none → Does (.patternLoad r p) s fun t =>
    tget t.chu.pats n = some (loadedSlot p) ∧ .opDone r 0 0 c.desc.length [] ∈ t.out) ∧
  (∀ s r b n, s.pwr.on = true → Inline r 0x0113 1 b s → leAt b 0 1 = n → 12 ≤ n → n ≤ 15 → patBusy n s = false →
    Does (.patternFree r) s fun t =>
    tget t.chu.pats n = none ∧ .opDone r 0 0 1 [] ∈ t.out)

/-- The curd tracker (R167, R178, R183, R185): a round has one step, which shows the round in CTR_ROUND; the operations wait for it. -/
def Obligations.CurdCommandsComplete : Prop :=
  (∀ s late us, s.pwr.on = true → stepDue s = true → Does (.ctrStep late us) s fun t => t.ctr.stepped = true ∧ getReg 0x18030 t = lo32 s.rnd.number ∧ t.ctr.dumps = []) ∧
  (∀ s r b mid m, s.pwr.on = true → Inline r 0x0310 4 b s → leAt b 0 4 = mid → s.model.active = some m → m.branches.any (fun b => b.kind == .pipe && b.mid == mid) = true →
    Does (.curdDump r) s fun t => t.ctr.dumps = s.ctr.dumps ++ [(r, mid)] ∧ .opDone r 0 0 4 [] ∈ t.out) ∧
  (∀ s r b mask m, s.pwr.on = true → Inline r 0x0311 4 b s → leAt b 0 4 = mask → s.model.active = some m → mask ≠ 0 → mask < 2 ^ min 4 m.networks.length →
    Does (.rebuild r) s fun t => (∀ n, n ∈ maskNets mask → n ∈ t.ctr.rebuildReq) ∧ .opDone r 0 0 4 [] ∈ t.out) ∧
  (∀ s, s.pwr.on = true → Answers 0x18000 s → Does .ctrCtrlRebuild s fun t => t.ctr.rebuildReq = [0, 1, 2, 3])

/-- The loop engine (R260 to R279): a base tick samples every due loop, and the operations take effect or wait for the loop's next sample. -/
def Obligations.LoopCommandsComplete : Prop :=
  (∀ s n, s.pwr.on = true → started s = true → s.start.blkRst.contains .lpe = false →
    onMultiple (baseUs s * 1000) s.lpe.tickAt s.tim.mon = true → n ∈ dueLoops (s.tim.mon / (baseUs s * 1000)) s →
    Does .baseTick s fun t => (loop n t).last = s.tim.mon) ∧
  (∀ s r b c, s.pwr.on = true → Buffered r 0x0410 b s → b.length = 96 → loopRecOf b = c → duplex s = false → loopRecBad c = none → (loop c.loop s).mode = 0 →
    [c.pv, c.sp, c.ff1, c.ff2].all (fun b => midOk b s) = true → c.out.kind = 0 → Does (.loopConfig r b) s fun t =>
      (loop c.loop t).struct = some c ∧ (loop c.loop t).spLocal = c.spLocal ∧ .opDone r 0 0 96 [] ∈ t.out) ∧
  (∀ s r b k, s.pwr.on = true → Buffered r 0x0411 b s → b.length = 48 → coefRecOf b = k → duplex s = false → coefBad k s = none →
    (loop k.loop s).swap = none → k.swap = false → Does (.loopCoef r b) s fun t => otherBank (loop k.loop t) = some k ∧ (loop k.loop t).useB = (loop k.loop s).useB ∧
      .opDone r 0 0 48 [] ∈ t.out) ∧
  (∀ s r b k, s.pwr.on = true → Buffered r 0x0411 b s → b.length = 48 → coefRecOf b = k → duplex s = false → coefBad k s = none →
    (loop k.loop s).swap = none → k.swap = true → Does (.loopCoef r b) s fun t => otherBank (loop k.loop t) = some k ∧ (loop k.loop t).swap = some { req := some r, len := 48 }) ∧
  (∀ s r b n, s.pwr.on = true → Inline r 0x0412 4 b s → leAt b 0 2 = n → duplex s = false → n < 512 → (loop n s).swap = none → (otherBank (loop n s)).isSome = true →
    (loop n s).struct.isSome = true → Does (.loopSwap r) s fun t => (loop n t).swap = some { req := some r, len := 4 }) ∧
  (∀ s r b n mode, s.pwr.on = true → Inline r 0x0413 8 b s → leAt b 0 2 = n → leAt b 2 1 = mode → duplex s = false → n < 512 → (loop n s).struct.isSome = true → mode < 4 →
    mode ≠ 3 ∨ cascadeOk n s = true → Does (.loopMode r) s fun t =>
      (loop n t).modeReq.map (·.mode) = some mode ∧ (loop n t).mode = (loop n s).mode) ∧
  (∀ s r b n c v, s.pwr.on = true → Inline r 0x0414 8 b s → leAt b 0 2 = n → leSAt b 4 4 = v → duplex s = false → n < 512 → (loop n s).struct = some c → c.sp.kind = 0 →
    Does (.loopSetsp r) s fun t => (loop n t).spLocal = v ∧ .opDone r 0 0 8 [] ∈ t.out) ∧
  (∀ s r c n, s.pwr.on = true → Held r 0x0415 c s → descInl c.desc = false → 64 ≤ c.desc.length → leAt c.desc.param 0 2 = n → n < 512 →
    Does (.loopState r) s fun t =>
    .opDone r (if (loop n s).hold ≠ 0 then 0x50 else 0) 0 64 (loopStateRec n s) ∈ t.out) ∧
  (∀ s r b c, s.pwr.on = true → Inline r 0x0416 32 b s → traceRecOf b = c → c.unit < 8 → c.trigger < 6 → c.loop < 512 → 0 < c.nodes → 0 < c.depth → c.depth ≤ 65536 →
    c.pre < c.depth → 1 ≤ c.decim → c.decim ≤ 1000 → (trace c.unit s).armed = false → Does (.traceCfg r) s fun t =>
      trace c.unit t = { cfg := some c } ∧ .opDone r 0 0 32 [] ∈ t.out) ∧
  (∀ s r b mask u, s.pwr.on = true → Inline r 0x0417 4 b s → leAt b 0 4 = mask → mask < 256 → (∀ v, traceWords v s ≤ 32768) → u < 8 → mask / 2 ^ u % 2 = 1 →
    (trace u s).cfg.isSome = true → Does (.traceArm r) s fun t => (trace u t).armed = true ∧ .opDone r 0 0 4 [] ∈ t.out)

/-- Dispatch (R228 to R258): what the end of a solve, the quarter-hours, the answers of the units and its operations leave. -/
def Obligations.DispatchCommandsComplete : Prop :=
  (∀ s c e, s.pwr.on = true → s.disp.solving = some c → s.chu.ends.find? (fun e => e.slot == c.slot) = some e →
    Does .dispatchSolveComplete s fun t => t.disp.solving = none ∧
      (∀ p v, e.point = some p → e.warm = some v → t.disp.warm.map (·.vals) = some v) ∧
      (rejectReason c e s = 0 → t.disp.waiting.map (·.1.vars) = some e.plan)) ∧
  (∀ s p, s.pwr.on = true → s.disp.plan = some p → s.disp.fallback = false → s.disp.step ≠ stepNow p s → Does .quarterHourStep s fun t =>
    t.disp.step = stepNow p s ∧ t.disp.toSend = (modelUnits s).map (·.mid) ∧ t.disp.quarter = qTime s / quarterNs) ∧
  (∀ s, s.pwr.on = true → s.disp.plan.isSome = true → s.disp.fallback = false → 3600 * sec ≤ planAge s → Does .planAgeExpiry s fun t => t.disp.fallback = true ∧ t.disp.toSend = (modelUnits s).map (·.mid)) ∧
  (∀ s u ws, s.pwr.on = true → u < 256 → Does (.plantAck u ws) s fun t =>
    areaStamp (plantIn u) t = some s.tim.mon ∧ inWord (plantIn u) t = ws.getD 0 0) ∧
  (∀ s u ws e c, s.pwr.on = true → s.cfg.unitChan.find? (fun e => e.2 == u) = some e →
    s.disp.cmds.find? (fun c => c.mid == e.1 && !c.ended && c.seq == (ws.getD 0 0).toNat + fld (ws.getD 1 0) 15 0 * 2 ^ 32) = some c →
    c.kind = 1 → fld (ws.getD 1 0) 23 16 = 0 → Does (.plantAck u ws) s fun t => tget t.disp.setW e.1 = some c.vals) ∧
  (∀ s mid c, s.pwr.on = true → s.disp.cmds.find? (fun c => c.mid == mid && !c.ended && decide (c.first + ackNs s ≤ s.tim.mon)) = some c →
    s.disp.cmds.find? (fun x => x.mid == mid && !x.ended && (some c.seq == none || some c.seq == some x.seq)) = some c → c.kind = 1 →
    Does (.plantAckTimeout mid) s fun t => mid ∈ t.disp.freeze) ∧
  (∀ s, s.pwr.on = true → s.tim.legValid = true → legSec s / 86400 ≠ s.disp.day → Does .legMidnight s fun t =>
    t.disp.dayLegOk = true ∧ t.disp.day = legSec s / 86400 ∧
    ∀ d, d ∈ modelStns s → (stnDisp d.ident t).dayN = 0) ∧
  (∀ s r b id v p, s.pwr.on = true → Inline r 0x0E10 8 b s → leAt b 0 2 = id → leAt b 4 4 = v → duplex s = false →
    dispParams.find? (fun p => p.1 == id) = some p → p.2.1 ≤ v → v ≤ p.2.2.1 →
    (id = 1 → paramSet 2 s < v) → (id = 2 → v < paramSet 1 s) → Does (.setParam r) s fun t =>
      tget t.disp.params id = some v ∧ .opDone r 0 0 8 [] ∈ t.out) ∧
  (∀ s r b k n, s.pwr.on = true → Buffered r 0x0E11 b s → duplex s = false → leAt b 0 8 % 900 = 0 → leAt b 8 1 = k → 1 ≤ k → k ≤ 4 → leAt b 12 4 = n →
    1 ≤ n → n ≤ 192 → b.length = 16 + 4 * n → Does (.pricePush r b) s fun t =>
      (tgetD t.disp.prices k []).head? = some (leAt b 0 8, (List.range n).map (fun i => leSAt b (16 + 4 * i) 4)) ∧ .opDone r 0 0 (16 + 4 * n) [] ∈ t.out) ∧
  (∀ s r b n, s.pwr.on = true → Buffered r 0x0E12 b s → duplex s = false → leAt b 0 8 % 900 = 0 → leAt b 12 4 = n → 1 ≤ n → n ≤ 192 →
    b.length = 16 + 8 * n → Does (.weatherPush r b) s fun t =>
      t.disp.weather.head? = some (leAt b 0 8, (List.range n).map (fun i => (leSAt b (16 + 8 * i) 4, leAt b (20 + 8 * i) 4))) ∧
      .opDone r 0 0 (16 + 8 * n) [] ∈ t.out) ∧
  (∀ s r b, s.pwr.on = true → Inline r 0x0E13 4 b s → leAt b 0 4 = 0 → duplex s = false → Does (.forceCycle r) s fun t =>
    t.disp.force = true ∧ .opDone r 0 0 4 [] ∈ t.out) ∧
  (∀ s r b mid mode, s.pwr.on = true → Inline r 0x0E14 8 b s → leAt b 0 4 = mid → leAt b 4 1 = mode → duplex s = false → (unitDecl mid s).isSome = true →
    mode ≤ 2 → Does (.unitMode r) s fun t => tget t.disp.hostMode mid = some mode ∧ .opDone r 0 0 8 [] ∈ t.out)

/-- The tally (R286 to R317): a commit writes the bank that does not hold the latest one, blocks and samples enter their channels, and
calibration and billing operations do what R294 and R317 say. -/
def Obligations.TallyCommandsComplete : Prop :=
  (∀ s, s.pwr.on = true → seqRuns s = false → s.start.blkRst.contains .tly = false → s.tly.metering = true → onMultiple 250000000 s.tly.commitAt s.tim.mon = true →
    Does .tlyCommit s fun t =>
    t.tly.seq = s.tly.seq + 1 ∧ t.tly.latest = (if s.tly.latest = 0 then 1 else 0) ∧
    (if s.tly.latest = 0 then t.tly.bank1 else t.tly.bank0).map (·.seq) = some (s.tly.seq + 1) ∧
    (if s.tly.latest = 0 then t.tly.bank0 = s.tly.bank0 else t.tly.bank1 = s.tly.bank1)) ∧
  (∀ s id x v l, s.pwr.on = true → tsrc (skey 1 id) s = some x → x.ivals = v :: l → holdOver v s = true →
    Does (.holdMinExpiry id) s fun t => tsrc (skey 1 id) t = some { x with ivals := { v with expired := true } :: l }) ∧
  (∀ s f b k, s.pwr.on = true → f < 4 → s.tly.metering = true → s.start.blkRst.contains .tly = false → k < 4 →
    Does (.feederBlock f b) s fun t => getB (fdrStat f) k t = ((blockSum f b s).ranges.getD k ([], false, 0)).2.1) ∧
  (∀ s f c x, s.pwr.on = true → f < 4 → s.tly.metering = true → s.start.blkRst.contains .tly = false →
    (c = .overload → tgetD s.tly.clipAt f 0 + 1000000000 ≤ s.tim.mon) →
    (c ≠ .overload → (if supplyMet f c x s then supplyTime c else 1000) ≤ x.ms) →
    Does (.supplyConditionChange f c x) s fun t => getB (fdrStat f) (condBit c) t = supplyMet f c x s) ∧
  (∀ s m x y, s.pwr.on = true → m < 8 → s.tly.metering = true → s.start.blkRst.contains .tly = false →
    tsrc (skey 3 m) (tlyRoll s) = some y → (running y).isSome = true → Does (.localHeatSample m x) s fun t =>
      getB (lhCfg m + 0xC) 1 t = rtdBad (getF (lhCfg m) 7 4 s) x.tWarm s ∧ getB (lhCfg m + 0xC) 2 t = rtdBad (getF (lhCfg m) 3 0 s) x.tCool s) ∧
  (∀ s v, s.pwr.on = true → Answers 0x24000 s → fld v 23 8 = 0x5A3C → bitAt v 0 = true → lockOf .tly s = false → s.dup.mor = false →
    Does (.calEnSet v) s fun t => getB 0x24000 0 t = true) ∧
  (∀ s v, s.pwr.on = true → Answers 0x24000 s → fld v 23 8 = 0x5A3C → bitAt v 0 = false → getB 0x24000 0 s = true → Does (.calEnClear v) s fun t =>
    getB 0x24000 0 t = false ∧ t.tly.calCount = s.tly.calCount + 1 ∧ t.tly.calFlash = calRegs.map (fun a => (a, getReg a s))) ∧
  (∀ s r b n, s.pwr.on = true → Inline r 0x0510 8 b s → leAt b 0 8 = n → n ≤ tgetD s.hif.lastOut r.pair 0 → Does (.billAck r) s fun t =>
    (∃ st d, (st = 0x00 ∨ st = 0x62) ∧ .opDone r st d 8 [] ∈ t.out) ∧
    ∀ x, x ∈ t.tly.store → x.stream = r.pair → x.store ≤ n → x.queued = true → x.acked = true) ∧
  (∀ s r b n, s.pwr.on = true → Inline r 0x0511 8 b s → leAt b 0 8 = n → n ≤ tgetD s.hif.lastOut r.pair 0 → Does (.billReplay r) s fun t =>
    ∃ st d, (st = 0x00 ∨ st = 0x62) ∧ .opDone r st d 8 [] ∈ t.out)

/-- The cyclic program (R364 to R382): its tasks, its control operations and an exchange. -/
def Obligations.ProgramCommandsComplete : Prop :=
  (∀ s n d, s.pwr.on = true → started s = true → taskDecl n s = some d → taskDue d (task n s) s = true → progState s = 1 → s.cyc.exch = none →
    (task n s).held = false → s.start.blkRst.contains .cyc = false → (task n s).running = none →
    Does (.taskActivation n) s fun t => (task n t).running = some s.tim.mon) ∧
  (∀ s n d outs vals us, s.pwr.on = true → started s = true → taskDecl n s = some d → (task n s).running.isSome = true →
    Does (.taskInstanceEnd n outs vals us) s fun t => (task n t).running = none ∧ getReg (taskReg n 4) t = lo32 us ∧
      getReg (taskReg n 0x10) t = getReg (taskReg n 0x10) s + 1) ∧
  (∀ s n, s.pwr.on = true → started s = true → watchdogDue n s = true → Does (.taskWatchdogExpiry n) s fun t =>
    (∀ e, e ∈ t.cyc.tasks → e.2.running = none) ∧ (bitAt (srcCfg 56 s) 29 = false → progState t = 2) ∧
    (fld (srcCfg 56 s) 23 16 ≤ 1 → 56 ∈ t.fco.active)) ∧
  (∀ s r b, s.pwr.on = true → Inline r 0x0710 4 b s → leAt b 0 1 = 1 → duplex s = false → progState s = 0 → Does (.progRun r) s fun t =>
    progState t = 1 ∧ .opDone r 0 0 4 [] ∈ t.out) ∧
  (∀ s r b, s.pwr.on = true → Inline r 0x0710 4 b s → leAt b 0 1 = 2 → duplex s = false → progState s = 1 → Does (.progStop r) s fun t =>
    progState t = 0 ∧ .opDone r 0 0 4 [] ∈ t.out) ∧
  (∀ s r b, s.pwr.on = true → Inline r 0x0710 4 b s → leAt b 0 1 = 3 → duplex s = false → progState s ≠ 3 → Does (.progColdStart r) s fun t =>
    progState t = 1 ∧ .opDone r 0 0 4 [] ∈ t.out) ∧
  (∀ s r c i d, s.pwr.on = true → Held r 0x0711 c s → descInl c.desc = false → 24 ≤ c.desc.length → BitVec.ofNat 64 (leAt c.desc.param 0 8) = i →
    varDecl i s = some d → Does (.varRead r) s fun t =>
    .opDone r 0 0 24 (le 8 i.toNat ++ le 1 d.type ++ zeros 7 ++ le 8 (varValue d s)) ∈ t.out) ∧
  (∀ s r b i ty v, s.pwr.on = true → Inline r 0x0712 24 b s → BitVec.ofNat 64 (leAt b 0 8) = i → leAt b 8 1 = ty → leAt b 0x10 8 = v → duplex s = false →
    changeRefused false i ty v s = none → Does (.varWrite r) s fun t =>
    valIn t.cyc.writes i = some v ∧ .opDone r 0 0 24 [] ∈ t.out) ∧
  (∀ s r b i ty v, s.pwr.on = true → Inline r 0x0713 24 b s → BitVec.ofNat 64 (leAt b 0 8) = i → leAt b 8 1 = ty → leAt b 0x10 8 = v → duplex s = false →
    changeRefused true i ty v s = none → Does (.constWrite r) s fun t =>
    valIn t.cyc.overlay i = some v ∧ .opDone r 0 0 24 [] ∈ t.out) ∧
  (∀ s r b g x p, s.pwr.on = true → Inline r 0x0714 16 b s → BitVec.ofNat 64 (leAt b 0 8) = g → leAt b 8 8 = x → duplex s = false → s.cyc.exch = none → s.cyc.staged = some p → p.sig = g →
    lacking s.model.active p.mids = none → s.model.armed = none → activationPending s = false → x = 0 ∨ earliestRound s ≤ x →
    Does (.progExchange r) s fun t =>
      t.cyc.exch = some { target := if x = 0 then earliestRound s else x, sig := g, req := some r }) ∧
  (∀ s e, s.pwr.on = true → s.cyc.exch = some e → e.frozen = true → e.captured = none →
    s.cyc.tasks.any (fun t => t.2.running.isSome) = false → Does .exchangeCapture s fun t =>
      t.cyc.exch = some { e with captured := some (s.tim.mon, s.cyc.vals, s.cyc.overlay) }) ∧
  (∀ s e p c, s.pwr.on = true → duplex s = false → s.cyc.exch = some e → s.cyc.staged = some p → e.captured = some c → e.mapped = none →
    Does (.exchangeMapped none) s fun t => t.cyc.exch = some { e with mapped := some (mapProg p (progVars s) c.2.1 c.2.2) }) ∧
  (∀ s e, s.pwr.on = true → s.cyc.exch = some e → e.frozen = true → s.rnd.anchor + 950000000 ≤ s.tim.mon → e.mapped = none →
    Does .exchangeAbandon s fun t =>
    t.cyc.exch = none ∧ ∀ r, e.req = some r → .opDone r 0x19 0xA 0 [] ∈ t.out)

/-- Ethernet (R423 to R429, R486): frames of the host, gates, the ring, MACsec and received frames. -/
def Obligations.EthernetCommandsComplete : Prop :=
  (∀ s r c b, s.pwr.on = true → Held r 0x0810 c s → Reads c b → (r.pair - 34) / 2 ≠ 3 → 14 ≤ b.length → b.length ≤ largestFrame b →
    leAt c.desc.param 0 8 ≤ s.tim.mon + 1000000000 → leAt c.desc.param 8 1 ≤ 7 → frameRefused b s = false → Does (.frameTx r b) s fun t =>
      (eth ((r.pair - 34) / 2) t).queues = (eth ((r.pair - 34) / 2) s).queues ++
        [{ req := r, queue := leAt c.desc.param 8 1, launch := leAt c.desc.param 0 8, data := b }]) ∧
  (∀ s p q x, s.pwr.on = true → queueHead p q s = some x → x.launch = 0 → mayStart p q s = true →
    (∀ k, k < 8 → q < k → mayStart p k s = false) → ethOn p s = true → macsecDead p s = false → Does (.frameLaunch p q) s fun t =>
      .opDone x.req 0 0 x.data.length [] ∈ t.out) ∧
  (∀ s p q x, s.pwr.on = true → queueHead p q s = some x → x.launch ≠ 0 → x.launch + 1000 < s.tim.mon → Does (.frameLaunch p q) s fun t =>
    .opDone x.req 0x88 0 0 [] ∈ t.out ∧ getReg (0x38410 + 0x40 * p) t = satAdd32 (getReg (0x38410 + 0x40 * p) s) 1) ∧
  (∀ s r b g, s.pwr.on = true → Buffered r 0x0811 b s → b.length = 16 + 8 * leAt b 12 4 → readGates b = g → (r.pair - 34) / 2 ≠ 3 →
    1 ≤ g.entries.length → g.entries.length ≤ 256 → 1000 ≤ gateCycle g → gateCycle g ≤ 1000000000 → Does (.gclLoad r b) s fun t =>
      (eth ((r.pair - 34) / 2) t).nextGates = some (g, s.tim.net) ∧ .opDone r 0 0 (16 + 8 * g.entries.length) [] ∈ t.out) ∧
  (∀ s p g n, s.pwr.on = true → (eth p s).nextGates = some (g, n) → gateStart g (n + (eth p s).gates.elim 0 gateCycle) ≤ s.tim.net →
    Does (.gclOperational p) s fun t => (eth p t).gates = some g ∧ (eth p t).nextGates = none) ∧
  (∀ s p f, s.pwr.on = true → p < 4 → ethOn p s = true → s.start.blkRst.contains .fio = false → f.badFcs = true →
    Does (.ethFrameRx p f) s fun t => getReg (0x38408 + 0x40 * p) t = satAdd32 (getReg (0x38408 + 0x40 * p) s) 1) ∧
  (∀ s f, s.pwr.on = true → ethOn 2 s = true → s.start.blkRst.contains .fio = false → f.badFcs = false → frameType f ≠ 0x8808 →
    macsecOn 2 s = false → toModule 2 f s = true → isEcho 2 f.data s = false → isResolve 2 f.data s = true → Does (.ethFrameRx 2 f) s fun t =>
      .reply 2 1 0 ∈ t.out) ∧
  (∀ s f, s.pwr.on = true → ethOn 2 s = true → s.start.blkRst.contains .fio = false → f.badFcs = false → frameType f ≠ 0x8808 →
    macsecOn 2 s = false → toModule 2 f s = true → isEcho 2 f.data s = false → isResolve 2 f.data s = false → consumed 2 f s = false →
    fld (ethCfgView 2 s) 27 26 ≠ 0 → (ring 39 s).lost = 0 → hasRoom 39 s = true → Does (.ethFrameRx 2 f) s fun t => ∃ i e b, .entry 39 i e b ∈ t.out) ∧
  (∀ s p b, s.pwr.on = true → 2 ≤ p → p < 4 → (b = true → ethOn p s = true ∧ ¬(p = 3 ∧ sfpGigabit p s = true)) → Does (.ringPortLinkChange p b) s fun t =>
    getB (ethStat p) 0 t = b) ∧
  (∀ s p b, s.pwr.on = true → p < 2 → getB (ethStat p) 0 s ≠ b → (b = true → ethOn p s = true) → Does (.ringPortLinkChange p b) s fun t =>
    66 ∈ t.fco.cond ↔ ¬(b = true ∧ getB 0x38600 (1 - p) s = true)) ∧
  (∀ s, s.pwr.on = true → s.start.blkRst.contains .fio = false → (∀ k, s.fio.hsr.supAt = some k → k + 2000000000 ≤ s.tim.mon) → ethOn 0 s = true →
    macsecDead 0 s = false → Does .hsrSupervisionTx s fun t => .reply 0 3 s.fio.hsr.seq ∈ t.out ∧ t.fio.hsr.seq = (s.fio.hsr.seq + 1) % 65536) ∧
  (∀ s, s.pwr.on = true → Does .hsrEntryExpiry s fun t => (∀ e, e ∈ t.fio.hsr.seen → s.tim.mon < e.2.2 + 400000000) ∧
    (∀ e, e ∈ t.fio.hsr.nodes → s.tim.mon < e.2 + 60000000000) ∧ getF 0x38600 31 16 t = t.fio.hsr.nodes.length % 65536) ∧
  (∀ s p, s.pwr.on = true → p < 2 → (eth p s).lastSup + 6000000000 ≤ s.tim.mon → Does (.noPeers p) s fun t => getB 0x38600 (2 + p) t = true) ∧
  (∀ s p a, s.pwr.on = true → (eth p s).txAn = some a → 0xC0000000 ≤ (eth p s).txPn → slotState (portSlot p) s = 1 → keyed s = true → Does (.macsecRekey p) s fun t =>
    tgetD t.kst.kn p 0 = tgetD s.kst.kn p 0 + 1 ∧ (eth p t).txAn = some ((a + 1) % 4) ∧ (eth p t).txPn = 0) ∧
  (∀ s p sci c o, s.pwr.on = true → (eth p s).rx.find? (fun c => c.sci == sci) = some c → c.old = some o → o.2.2 + 2000000000 ≤ s.tim.mon →
    Does (.macsecOldSaExpiry p sci) s fun t => tget t.kst.saks (sakKey p sci o.1) = none ∧
      ∀ e, e ∈ (eth p t).rx → e.sci = sci → e.old = none) ∧
  (∀ s p an sci kn, s.pwr.on = true → slotState (portSlot p) s = 1 → hiKn sci s < kn →
    Does (.keyNumberAnnouncement p an sci kn (knaTag p sci (knaBody an sci kn) s)) s fun t =>
      hiKn sci t = kn ∧ (tget t.kst.saks (sakKey p sci an)).isSome = true) ∧
  (∀ s p a, s.pwr.on = true → (eth p s).txAn = some a → ethOn p s = true → (∀ k, (eth p s).knaAt = some k → k + 1000000000 ≤ s.tim.mon) →
    Does (.knaTx p) s fun t => ∃ b, .eth p none none b ∈ t.out)

/-- CAN (R431 to R439): received and sent frames, the schedule matrix, sleep and bus-off. -/
def Obligations.CanCommandsComplete : Prop :=
  (∀ s c f, s.pwr.on = true → c < 4 → canOnBus c s = true → f.remote = true → Does (.canFrameRx c f) s fun t =>
    getReg (0x38810 + 0x40 * c) t = satAdd32 (getReg (0x38810 + 0x40 * c) s) 1) ∧
  (∀ s c f n b, s.pwr.on = true → c < 4 → canOnBus c s = true → f.remote = false → canNodes c s = [n] → n.node < 64 → n.rx = [b] →
    b.ident = f.ident → b.alive = none → n.plant = none → Does (.canFrameRx c f) s fun t =>
      areaStamp (canArea c n.node) t = some s.tim.mon) ∧
  (∀ s c node k, s.pwr.on = true → tget s.cyc.stamps (canArea c node) = some k →
    k + 3 * tgetD s.cfg.nodePeriod (canArea c node) 0 * 1000000 ≤ s.tim.mon → Does (.canNodeTimeout c node) s fun t => tget t.cyc.stamps (canArea c node) = none) ∧
  (∀ s r c b, s.pwr.on = true → Held r 0x0910 c s → Reads c b → b.length = 8 + leAt b 5 1 → canLenOk (readCan b).fd (readCan b).data.length = true →
    (readCan b).fd = false ∨ bitAt (can (r.pair - 42) s).inForce 30 = true → Does (.canTx r b) s fun t =>
      (can (r.pair - 42) t).pend = (can (r.pair - 42) s).pend ++
        [{ req := r, tag := c.desc.userTag, frame := readCan b, deadline := c.desc.deadline, cancel := none }]) ∧
  (∀ s c tag x, s.pwr.on = true → canLive c s = true → (can c s).pend.find? (fun t => t.tag == tag) = some x →
    Does (.canTxDone c (.host tag) .sent) s fun t => .can c x.frame ∈ t.out ∧ .opDone x.req 0 0 (8 + x.frame.data.length) [] ∈ t.out) ∧
  (∀ s c k e, s.pwr.on = true → canLive c s = true → (can c s).cells.find? (fun e => e.1 == k) = some e →
    Does (.canTxDone c (.cell k) .sent) s fun t => .can c e.2.1 ∈ t.out ∧ ∀ x, x ∈ (can c t).cells → x.1 ≠ k) ∧
  (∀ s c tag x, s.pwr.on = true → (can c s).pend.find? (fun t => t.tag == tag && t.deadline != 0 && decide (t.deadline ≤ s.tim.mon)) = some x →
    Does (.canTxDeadline c tag) s fun t => .opDone x.req 0x88 0 0 [] ∈ t.out) ∧
  (∀ s r b tag x, s.pwr.on = true → Inline r 0x0911 8 b s → leAt b 0 8 = tag → (can (r.pair - 42) s).pend.find? (fun t => t.tag == tag) = some x → inArbitration (r.pair - 42) s ≠ some x →
    Does (.canCancel r) s fun t => .opDone x.req 0x89 0 0 [] ∈ t.out ∧ .opDone r 0 0 8 [] ∈ t.out) ∧
  (∀ s r b m, s.pwr.on = true → Buffered r 0x0912 b s → b.length = 16 + 4 * leAt b 5 1 + leAt b 4 1 * leAt b 5 1 → readMatrix b = m →
    matrixOk m (canObjs (r.pair - 42) s).length = true → tooNarrow (r.pair - 42) m s = false →
    (can (r.pair - 42) s).matrix = none → Does (.schedLoad r b) s fun t => (can (r.pair - 42) t).matrix = some m ∧
      .opDone r 0 0 (16 + 4 * m.cols + m.rows * m.cols) [] ∈ t.out) ∧
  (∀ s c row col m k n o, s.pwr.on = true → (can c s).next = none → (can c s).matrix = some m → inWindow m (can c s).busFrom row col s = true →
    m.cells[row * m.cols + col]? = some (some k) → (canObjs c s)[k]? = some (n, o) → canLive c s = true →
    Does (.schedCellOpen c row col) s fun t => ∃ drop, (k, objFrame c n o s, drop) ∈ (can c t).cells) ∧
  (∀ s c k, s.pwr.on = true → (can c s).cells.any (fun e => e.1 == k && decide (e.2.2 ≤ busNs s)) = true → Does (.schedWindowDrop c k) s fun t =>
    getReg (0x38808 + 0x40 * c) t = satAdd32 (getReg (0x38808 + 0x40 * c) s) 1 ∧ ∀ x, x ∈ (can c t).cells → x.1 ≠ k) ∧
  (∀ s r b, s.pwr.on = true → Inline r 0x0913 4 b s → leAt b 0 4 = 0 → canNodes (r.pair - 42) s = [] → (can (r.pair - 42) s).matrix = none → Does (.canSleep r) s fun t =>
    canMode (r.pair - 42) t = 3 ∧ .opDone r 0 0 4 [] ∈ t.out) ∧
  (∀ s r b, s.pwr.on = true → Inline r 0x0914 4 b s → leAt b 0 4 = 0 → canMode (r.pair - 42) s = 3 → Does (.canWake r) s fun t => canMode (r.pair - 42) t = 0 ∧ .opDone r 0 0 4 [] ∈ t.out) ∧
  (∀ s c, s.pwr.on = true → canMode c s = 3 → Does (.cannWakeN c) s fun t => canMode c t = 0) ∧
  (∀ s c, s.pwr.on = true → c < 4 → canMode c s ≠ 2 → Does (.busOff c) s fun t => 68 + c ∈ t.fco.cond ∧
    (bitAt (srcCfg (68 + c) s) 29 = false → canMode c t = 2) ∧ (can c t).cells = []) ∧
  (∀ s c, s.pwr.on = true → bitAt (can c s).inForce 29 = true → canMode c s = 2 → Does (.busOffRecovery c) s fun t =>
    canMode c t = 0 ∧ 68 + c ∉ t.fco.cond)

/-- The digital channels (R440 to R443): edges, the 1 ms latch, shutdown, read-back faults, silence and the group supplies. -/
def Obligations.DigitalCommandsComplete : Prop :=
  (∀ s n b, s.pwr.on = true → n < 32 → bitAt (dioCh n s) 15 = false → b = false ∨ groupOk n s = true → Does (.dioInputEdge n b) s fun t => bitAt t.fio.dio.inputs n = b) ∧
  (∀ s, s.pwr.on = true → s.start.blkRst.contains .cyc = false → s.fio.dio.latchAt + 1000000 ≤ s.tim.mon → Does .dioOutputLatch s fun t =>
    t.fio.dio.latch = outWord 0 s ∧ areaStamp 0 t = some s.tim.mon) ∧
  (∀ s n, s.pwr.on = true → n < 32 → Does (.dioOutputShutdown n) s fun t => n ∈ t.fio.dio.shut) ∧
  (∀ s n b, s.pwr.on = true → n < 32 → b = false ∨ bitAt (dioOut s) n = true → Does (.dioReadbackFault n b) s fun t => n ∈ t.fio.dio.readback ↔ b = true) ∧
  (∀ s, s.pwr.on = true → getB 0x38008 30 s = false → s.fio.dio.latchAt + getF 0x38004 7 0 s * 1000000 ≤ s.tim.mon → Does .logicSilence s fun t => 72 ∈ t.fco.cond ∧
    (bitAt (srcCfg 72 s) 29 = false → getB 0x38008 30 t = true)) ∧
  (∀ s k, s.pwr.on = true → getB 0x38008 30 s = true → s.fio.dio.resumeAt = some k → k + 100000000 ≤ s.tim.mon →
    s.tim.mon < s.fio.dio.latchAt + getF 0x38004 7 0 s * 1000000 → Does .silenceEnd s fun t =>
    bitAt (srcCfg 72 s) 29 = false → getB 0x38008 30 t = false) ∧
  (∀ s g, s.pwr.on = true → Does (.groupSupplyMissing g true) s fun t => 73 ∈ t.fco.cond ∧
    ∀ n, n < 16 → bitAt (dioCh (n + (if g = 2 then 16 else 0)) s) 15 = false → bitAt t.fio.dio.inputs (n + (if g = 2 then 16 else 0)) = false) ∧
  (∀ s g, s.pwr.on = true → getB 0x38008 (if g = 2 then 28 else 29) s = false → Does (.groupSupplyMissing g false) s fun t => 73 ∉ t.fco.cond)

/-- Model slots (R129 to R133): arming, disarming, reverting, and the record of an armed model. -/
def Obligations.ModelCommandsComplete : Prop :=
  (∀ s r b x, s.pwr.on = true → Inline r 0x0B20 24 b s → leAt b 0x10 8 = x → duplex s = false →
    armRefused s.model.staged (BitVec.ofNat 64 (leAt b 0 8)) (BitVec.ofNat 64 (leAt b 8 8)) s = none → x = 0 ∨ earliestRound s ≤ x →
    Does (.modelArm r) s fun t =>
    t.model.armed = some (if x = 0 then earliestRound s else x) ∧ t.model.staged = s.model.staged ∧ .opDone r 0 0 24 [] ∈ t.out) ∧
  (∀ s r b x, s.pwr.on = true → Inline r 0x0B22 24 b s → leAt b 0x10 8 = x → duplex s = false →
    armRefused s.model.prev (BitVec.ofNat 64 (leAt b 0 8)) (BitVec.ofNat 64 (leAt b 8 8)) s = none → x = 0 ∨ earliestRound s ≤ x →
    Does (.modelRevert r) s fun t =>
    t.model.armed = some (if x = 0 then earliestRound s else x) ∧ t.model.staged = s.model.prev ∧ .opDone r 0 0 24 [] ∈ t.out) ∧
  (∀ s r b m, s.pwr.on = true → Inline r 0x0B21 24 b s → BitVec.ofNat 64 (leAt b 0 8) = m.structSig → leAt b 8 16 = 0 → duplex s = false → s.model.armed.isSome = true → s.model.staged = some m →
    Does (.modelDisarm r) s fun t => t.model.armed = none ∧ t.model.staged = some m ∧ .opDone r 0 0 24 [] ∈ t.out) ∧
  (∀ s m k, s.pwr.on = true → s.model.armed = some k → s.rnd.number < k → s.model.staged = some m → s.model.recorded = false →
    Does .modelRecordActive s fun t => t.model.recorded = true ∧
      .stored 0x11 (le 8 m.structSig.toNat ++ le 8 m.paramSig.toNat) ∈ t.out)

/-- Update (R528 to R539): receiving, writing, activating, confirming and falling back. -/
def Obligations.UpdateCommandsComplete : Prop :=
  (∀ s r c b g d m, s.pwr.on = true → Held r 0x0B10 c s → Reads c b → leAt c.desc.param 0 1 = 0 → readManifest b g d = m →
    manifestRefused false m s = none → Does (.updManifest r b g d) s fun t =>
    t.upd.state = .receiving ∧ t.upd.manifest = some m ∧ t.upd.got = [] ∧ .opDone r 0 0 m.size [] ∈ t.out) ∧
  (∀ s r c k n x d m, s.pwr.on = true → Held r 0x0B11 c s → writeFails c.fail c.desc.length = false → leAt c.desc.param 0 1 = k →
    leAt c.desc.param 4 4 = n → blockRefused k n x d s = none → s.upd.share = false → s.upd.manifest = some m →
    setComplete m (holdBlock k n d s) = false → Does (.updBlock r x d) s fun t =>
      t.upd.got = s.upd.got ++ [(k, n)] ∧ t.upd.state = s.upd.state ∧ .opDone r 0 0 c.desc.length [] ∈ t.out) ∧
  (∀ s r b, s.pwr.on = true → Inline r 0x0B12 16 b s → leAt b 0 1 = 1 → activateRefused s = none → Does (.updActivateFirmware r) s fun t =>
    t.upd.state = .activating ∧ .opDone r 0 0 16 [] ∈ t.out) ∧
  (∀ s r b x, s.pwr.on = true → Inline r 0x0B12 16 b s → leAt b 0 1 = 2 → leAt b 8 8 = x → duplex s = false → activateCfgRefused x s = none →
    Does (.updActivateConfig r) s fun t =>
    t.upd.target = some (if x = 0 then earliestRound s else x) ∧ .opDone r 0 0 16 [] ∈ t.out) ∧
  (∀ s r b, s.pwr.on = true → Inline r 0x0B13 4 b s → leAt b 0 4 = 0 → s.upd.state = .pending → Does (.updConfirm r) s fun t =>
    t.upd.state = .idle ∧ t.upd.journal = [] ∧ t.upd.fwOld = none ∧ t.upd.cfgOld = none ∧ .opDone r 0 0 4 [] ∈ t.out) ∧
  (∀ s r b, s.pwr.on = true → Inline r 0x0B14 4 b s → leAt b 0 4 = 0 → s.upd.state = .pending → Does (.updFallback r) s fun t =>
    t.upd.state = .fallingBack ∧ t.upd.lastWhy = 5 ∧ seqRuns t = true ∧ .opDone r 0 0 4 [] ∈ t.out) ∧
  (∀ s r b, s.pwr.on = true → Inline r 0x0B15 4 b s → leAt b 0 4 = 0 → s.upd.state = .receiving → Does (.updAbort r) s fun t =>
    t.upd.state = .idle ∧ t.upd.manifest = none ∧ t.upd.got = [] ∧ .opDone r 0 0 4 [] ∈ t.out) ∧
  (∀ s e l, s.pwr.on = true → s.upd.state = .writing → s.upd.todo = e :: l → s.upd.loaderAt + 50000000 ≤ s.tim.mon → l ≠ [] →
    Does (.loaderBlockWrite true) s fun t =>
    tget t.upd.flash (flashKey e.1 e.2.1) = some e.2.2 ∧ t.upd.todo = l ∧ t.upd.wrote = s.upd.wrote + 1 ∧ t.upd.state = .writing) ∧
  (∀ s e l, s.pwr.on = true → s.upd.state = .writing → s.upd.todo = e :: l → s.upd.loaderAt + 50000000 ≤ s.tim.mon →
    Does (.loaderBlockWrite false) s fun t =>
    t.upd.state = .idle ∧ t.upd.lastWhy = 6 ∧ t.upd.journal = [] ∧ t.upd.lastStatus = 0xA1) ∧
  (∀ s, s.pwr.on = true → s.upd.state = .receiving → s.upd.blockAt + 600000000000 ≤ s.tim.mon → Does .receiveTimeout s fun t =>
    t.upd.state = .idle ∧ t.upd.manifest = none) ∧
  (∀ s, s.pwr.on = true → s.upd.state = .pending → getF 0x4C004 15 8 s ≠ 0 →
    s.upd.pendAt + (getF 0x4C004 15 8 s * 3600000000000 : Nat) ≤ (s.tim.mon : Int) → Does .autoConfirm s fun t =>
    t.upd.state = .idle ∧ t.upd.journal = []) ∧
  (∀ s, s.pwr.on = true → s.upd.state = .pending → s.upd.inService = false → getF 0x7F01C 3 0 s < 5 →
    s.start.releasedAt + 10000000000 ≤ s.tim.mon → Does .stage5Timeout s fun t =>
    t.upd.state = .fallingBack ∧ t.upd.lastWhy = 2 ∧ seqRuns t = true) ∧
  (∀ s, s.pwr.on = true → s.upd.state = .pending → s.upd.inService = false → duplex s = true → ready s = false → inControl s = false →
    s.start.stage5At + getF 0x4C004 7 0 s * 10000000000 ≤ s.tim.mon → Does .syncTmoExpiry s fun t =>
    t.upd.state = .fallingBack ∧ t.upd.lastWhy = 4 ∧ seqRuns t = true)

/-- The pair (R389 to R402): taking control, and the messages of the peer link. -/
def Obligations.PairCommandsComplete : Prop :=
  (∀ s, s.pwr.on = true → stage5 s = true → seqRuns s = false → duplex s = false → s.dup.state = .init → holdupReady s = true →
    claimLeft s = true → Does .startupTakeControl s fun t => t.dup.state = .single ∧ t.dup.claim = highClaim s + 1 ∧ t.pwr.clm = .control) ∧
  (∀ s h, s.pwr.on = true → stage5 s = true → seqRuns s = false → duplex s = true → s.dup.state = .init → holdupReady s = true →
    s.dup.held = false → s.dup.peer = some h → h.state ≠ 3 → h.state ≠ 5 → justResigned s = false → s.dup.takeSent = none →
    Does .startupTakeControl s fun t => t.dup.takeSent = some s.tim.mon ∧ t.dup.state = .init) ∧
  (∀ s, s.pwr.on = true → duplex s = true → s.dup.linkUp = true → s.start.blkRst.contains .dup = false → cageOn 3 s = true →
    (∀ k, s.dup.hbAt = some k → k + 1000000 ≤ s.tim.mon) → Does .heartbeatTx s fun t => ∃ q b, .peer q 1 b .heartbeat ∈ t.out) ∧
  (∀ s h, s.pwr.on = true → (accept h s).isSome = true → pairWhy h s = none → Does (.heartbeat h) s fun t =>
    t.dup.peer = some h ∧ t.dup.peerClaim = some h.claim ∧ t.dup.linkUp = (keyed s && h.keyed)) ∧
  (∀ s h, s.pwr.on = true → (accept h s).isSome = true → pairWhy h s = none → s.dup.linkUp = false → keyed s = true → h.keyed = true →
    Does (.peerLinkReturn h) s fun t => t.dup.peer = some h ∧ t.dup.linkUp = true ∧ 74 ∉ t.fco.cond) ∧
  (∀ s, s.pwr.on = true → duplex s = true → s.dup.linkUp = true → s.dup.heardAt + peerTmo s ≤ s.tim.mon → Does .peerLinkLoss s fun t =>
    t.dup.isolated = true ∧ t.dup.linkUp = false ∧ t.dup.peer = none ∧ 74 ∈ t.fco.cond) ∧
  (∀ s q, s.pwr.on = true → Does (.peerAcknowledgement q) s fun t => ∀ u, u ∈ t.dup.unacked → u.mseq ≠ q) ∧
  (∀ s q u, s.pwr.on = true → s.dup.unacked.find? (fun u => u.mseq == q) = some u → s.tim.mon < u.first + peerTmo s →
    u.last + 1000000 ≤ s.tim.mon → s.dup.linkUp = true → s.start.blkRst.contains .dup = false → cageOn 3 s = true →
    Does (.peerMsgResend q) s fun t => .peer q u.type (peerHeader u.type q s) u.body ∈ t.out) ∧
  (∀ s h c, s.pwr.on = true → (accept h s).isSome = true → pairWhy h s = none → ready s = true → justResigned s = false →
    s.dup.claim < 0xFFFFFFFE → h.claim < 0xFFFFFFFF → s.dup.heldPrev < 0xFFFFFFFF → s.dup.heldNow < 0xFFFFFFFF →
    Does (.resign h c) s fun t => t.dup.state = .control ∧ s.dup.claim < t.dup.claim ∧ h.claim < t.dup.claim) ∧
  (∀ s h, s.pwr.on = true → (accept h s).isSome = true → pairWhy h s = none → s.dup.takeSent.isSome = true → s.dup.claim < h.claim →
    Does (.take h) s fun t => t.dup.state = .syncing ∧ t.dup.takeSent = none) ∧
  (∀ s k, s.pwr.on = true → s.dup.takeSent = some k → k + 2000000 ≤ s.tim.mon → seqRuns s = false → holdupReady s = true → claimLeft s = true →
    Does .takeWaitExpiry s fun t =>
    t.dup.state = .control ∧ t.dup.claim = highClaim s + 1)

/-- Forwarded operations, the self-test, the transfer and the mirror (R156, R393, R405 to R411). -/
def Obligations.PeerCommandsComplete : Prop :=
  (∀ s h op, s.pwr.on = true → (accept h s).isSome = true → pairWhy h s = none → (∀ u, fwdRefused op u = none) → s.dup.state ≠ .syncing →
    Does (.forward h op false) s fun t => t.dup.undo.head?.map (·.1) = some op) ∧
  (∀ s h i v, s.pwr.on = true → (accept h s).isSome = true → pairWhy h s = none → s.dup.linkUp = true → cageOn 3 s = true → s.dup.state ≠ .syncing →
    Does (.forward h (.setParam i v) false) s fun t =>
      tget t.disp.params i = some v ∧ ∃ q b, .peer q 5 b (.confirm (.setParam i v) 0 0) ∈ t.out) ∧
  (∀ s h op f r, s.pwr.on = true → (accept h s).isSome = true → pairWhy h s = none → s.dup.fwds.find? (fun f => f.op == op) = some f →
    f.req = some r → endsLate op = false → Does (.confirm h op 0 0) s fun t => .opDone r 0 0 f.len [] ∈ t.out) ∧
  (∀ s h op f r st dt, s.pwr.on = true → (accept h s).isSome = true → pairWhy h s = none → s.dup.fwds.find? (fun f => f.op == op) = some f →
    f.req = some r → st ∈ statusCodes → st ≠ 0 → Does (.confirm h op st dt) s fun t => .opDone r st dt 0 [] ∈ t.out) ∧
  (∀ s f l, s.pwr.on = true → s.dup.fwds = f :: l → f.mon + 2000000000 ≤ s.tim.mon → Does .forwardTimeout s fun t =>
    t.dup.fwds = l ∧ ∀ r, f.req = some r → .opDone r 0x80 0 0 [] ∈ t.out) ∧
  (∀ s h, s.pwr.on = true → (accept h s).isSome = true → pairWhy h s = none → s.dup.testing = false → Does (.selftest h none) s fun t =>
    t.dup.testing = true ∧ t.dup.testRound = s.rnd.number) ∧
  (∀ s b, s.pwr.on = true → s.dup.testing = true → s.dup.peerResult = none → Does (.selftestDone b) s fun t =>
    t.dup.ownResult = some b ∧ t.dup.testing = true) ∧
  (∀ s h d, s.pwr.on = true → (accept h s).isSome = true → pairWhy h s = none → s.dup.state = .syncing → syncRefused h d s = none →
    s.dup.deferred = [] → Does (.syncComplete h d) s fun t =>
      t.dup.state = .standby ∧ t.dup.synced = true ∧ t.rnd.number = d.round ∧ t.disp.params = d.params ∧ t.sep.excl = d.excluded) ∧
  (∀ s h y x q, s.pwr.on = true → (accept h s).isSome = true → pairWhy h s = none → Does (.record h (.signed y x q)) s fun t =>
    tgetD t.dup.noted (y * 2 ^ 32 + x) 0 = max (tgetD s.dup.noted (y * 2 ^ 32 + x) 0) q) ∧
  (∀ s h, s.pwr.on = true → (accept h s).isSome = true → pairWhy h s = none → Does (.morHandover h false) s fun t =>
    t.dup.mor = true ∧ t.dup.peerMor = false)

/-- The operations of ring pair 56 on the pair (R413). -/
def Obligations.DuplexOperationsComplete : Prop :=
  (∀ s r b p h, s.pwr.on = true → Inline r 0x0F20 4 b s → leAt b 0 4 = p → p < 2 → duplex s = true → s.dup.state = .control → s.dup.peer = some h →
    h.ready = true → (∀ x, s.model.armed = some x → s.rnd.number + 5 < x) → (∀ e, s.cyc.exch = some e → s.rnd.number + 5 < e.target) →
    Does (.dupHandover r) s fun t => t.dup.ops = s.dup.ops ++ [(.handover (p == 1), r)] ∧ t.dup.state = .control) ∧
  (∀ s r b, s.pwr.on = true → Inline r 0x0F21 4 b s → leAt b 0 4 = 1 → duplex s = true → s.dup.peer.isSome = true → s.dup.mor = true →
    Does (.dupMorHand r) s fun t => t.dup.ops = s.dup.ops ++ [(.morHand, r)]) ∧
  (∀ s r b, s.pwr.on = true → Inline r 0x0F21 4 b s → leAt b 0 4 = 2 → Does (.dupMorRelease r) s fun t =>
    t.dup.mor = false ∧ t.dup.morReleased = true ∧ .opDone r 0 0 4 [] ∈ t.out) ∧
  (∀ s r b, s.pwr.on = true → Inline r 0x0F21 4 b s → leAt b 0 4 = 3 → duplex s = false ∨ s.dup.peerMor = false → Does (.dupMorTake r) s fun t =>
    t.dup.mor = true ∧ t.dup.morReleased = false ∧ .opDone r 0 0 4 [] ∈ t.out) ∧
  (∀ s r b, s.pwr.on = true → Inline r 0x0F22 4 b s → leAt b 0 4 = 0 → duplex s = true → s.dup.isolated = true → ready s = true → claimLeft s = true →
    Does (.dupTakeover r) s fun t => t.dup.state = .control ∧ t.dup.claim = highClaim s + 1 ∧ .opDone r 0 0 4 [] ∈ t.out) ∧
  (∀ s r b, s.pwr.on = true → Inline r 0x0F24 4 b s → leAt b 0 4 = 0 → duplex s = true → inControl s = false →
    ¬(s.dup.state = .resigned ∧ s.dup.held = true) → Does (.dupResync r) s fun t =>
    t.dup.state = .syncing ∧ (.resync, r) ∈ t.dup.ops ∧ t.dup.synced = false)

/-- Provisioning (R412, R491 to R493): the transfer of keys and the operator's bundle. -/
def Obligations.ProvisionCommandsComplete : Prop :=
  (∀ s b, s.pwr.on = true → keyed s = false → s.kst.nu.isSome = true → b.certOk = true → b.sigOk = true →
    getF 0x0E004 7 4 s = 15 ∨ b.senderSlot = getF 0x0E004 7 4 s → Does (.provisionKeys b) s fun t => t.kst.nu = none ∧ t.kst.root.isSome = true ∧
      ∀ e, e ∈ b.slots → fillable false e.1 = true → slotState e.1 t = 1) ∧
  (∀ s b, s.pwr.on = true → s.kst.prov.isSome = true → keyed s = true → Does (.provisionDone b) s fun t => t.kst.prov = none ∧
    ∀ r, (.provision, r) ∈ s.dup.ops → .opDone r (if b then 0 else 0x9B) 0 (if b then 4 else 0) [] ∈ t.out) ∧
  (∀ s r b h, s.pwr.on = true → Inline r 0x0F23 4 b s → leAt b 0 4 = 0 → duplex s = true → s.dup.peer = some h → h.keyed = false → keyed s = true →
    getF 0x0E004 7 4 s = 15 ∨ h.slot = getF 0x0E004 7 4 s → Does (.dupProvision r true) s fun t => (.provision, r) ∈ t.dup.ops ∧ t.kst.prov.isSome = true) ∧
  (∀ s h, s.pwr.on = true → duplex s = true → s.dup.peer = some h → h.keyed = false → keyed s = true →
    getF 0x0E004 7 4 s = 15 ∨ h.slot = getF 0x0E004 7 4 s → getB 0x0E004 2 s = true → s.dup.peerSince + 10000000000 ≤ s.tim.mon → s.kst.prov = none → Does (.autoProvision true) s fun t => t.kst.prov.isSome = true) ∧
  (∀ s r c b, s.pwr.on = true → Held r 0x0C12 c s → writeFails c.fail c.desc.length = false → b.sigOk = true →
    s.kst.fpr = none ∨ s.kst.fpr = some b.fingerprint → Does (.keyProvision r b) s fun t =>
    t.kst.fpr = some b.fingerprint ∧ t.kst.root.isSome = true ∧ .opDone r 0 0 c.desc.length [] ∈ t.out)

/-- The round (R17 to R24, R342 to R346, R394, R399): its instants, each in its phase. -/
def Obligations.RoundCommandsComplete : Prop :=
  (∀ s, s.pwr.on = true → stage5 s = true → seqRuns s = false → follows s = false → startDue 0 s = true → s.rnd.phase = .idle → Does .roundStart s fun t =>
    t.rnd.number = s.rnd.number + (if s.rnd.started then 1 else 2) ∧ t.rnd.phase = .read ∧ t.rnd.anchor = s.tim.mon ∧
    t.rnd.bounds = getReg 0x2C004 s) ∧
  (∀ s, s.pwr.on = true → stage5 s = true → seqRuns s = false → duplex s = true → inControl s = false → startDue 2000000 s = true → s.rnd.phase = .idle →
    Does .roundStartTimeout s fun t =>
    t.rnd.number = s.rnd.number + (if s.rnd.started then 1 else 2) ∧ t.rnd.phase = .read ∧
    t.rnd.bounds = s.rnd.peerBounds.getD (getReg 0x2C004 s)) ∧
  (∀ s h ph a, s.pwr.on = true → (accept h s).isSome = true → pairWhy h s = none → inControl s = false →
    s.rnd.started = false ∨ h.round ≠ s.rnd.number → stage5 s = true → seqRuns s = false → Does (.roundStartMsg h ph a) s fun t =>
      t.rnd.number = h.round ∧ t.rnd.bounds = ph ∧ t.rnd.phase = .read) ∧
  (∀ s, s.pwr.on = true → s.rnd.phase = .read → boundary 7 0 s ≤ s.tim.mon → Does .readClose s fun t => t.rnd.phase = .compute ∧ t.rnd.frozen = true) ∧
  (∀ s, s.pwr.on = true → s.sep.work.isSome = true → s.rnd.phase = .compute → boundary 15 8 s ≤ s.tim.mon → Does .sepWindowEnd s fun t => t.sep.work = none) ∧
  (∀ s, s.pwr.on = true → s.rnd.phase = .compute → s.ctr.stepped = true → boundary 23 16 s ≤ s.tim.mon → Does .writeOpen s fun t => t.rnd.phase = .write ∧ t.dup.ownSum.isSome = true) ∧
  (∀ s o, s.pwr.on = true → s.rnd.phase = .write → boundary 31 24 s ≤ s.tim.mon → Does (.roundClose o) s fun t =>
    t.rnd.phase = .idle ∧ t.rnd.closes = s.rnd.closes + 1 ∧ (rndRuns s = true → t.dup.closedAt = some s.tim.mon)) ∧
  (∀ s, s.pwr.on = true → duplex s = true → s.dup.state = .control → s.dup.closedAt.getD s.rnd.anchor + 3000000000 ≤ s.tim.mon → Does .noRoundClosed3s s fun t =>
    t.dup.state = .resigned ∧ t.dup.resignWhy = 7)

/-- Supply, temperature and the hold-up store (R32 to R58). -/
def Obligations.SupplyCommandsComplete : Prop :=
  (∀ s f, s.pwr.on = true → Does (.feedLost f) s fun t => 1 ∈ t.fco.cond ∧ getB 0x7F040 (feedBit f) t = false ∧
    getB 0x7F040 (12 + feedBit f) t = true) ∧
  (∀ s f, s.pwr.on = true → Does (.feedReturned f) s fun t => getB 0x7F040 (feedBit f) t = true ∧
    (getB 0x7F040 (1 - feedBit f) s = true → 1 ∉ t.fco.cond)) ∧
  (∀ s mk, s.pwr.on = true → Does (.tempRefresh mk) s fun t => getReg 0x7F044 t = BitVec.ofInt 32 mk ∧
    getB 0x7F040 9 t = decide (108000 < mk) ∧ (3 ∈ t.fco.cond ↔ 108000 < mk)) ∧
  (∀ s, s.pwr.on = true → s.pwr.seq = none → Does .powerFail s fun t => t.pwr.seq = some { why := .holdup .powerFail } ∧
    t.pwr.clm = .static0 ∧ t.start.outputsLive = false ∧ 0 ∈ t.fco.cond) ∧
  (∀ s, s.pwr.on = true → s.pwr.seq = none → Does .presentLost s fun t => t.pwr.seq = some { why := .holdup .presentLost } ∧
    t.pwr.clm = .static0 ∧ t.start.outputsLive = false ∧ 0 ∈ t.fco.cond ∧ getB 0x7F040 2 t = false) ∧
  (∀ s, s.pwr.on = true → s.pwr.seq = none → Does .overTempStop s fun t => t.pwr.seq = some { why := .holdup .overTemp } ∧
    t.pwr.clm = .static0 ∧ t.start.outputsLive = false ∧ 0 ∈ t.fco.cond) ∧
  (∀ s, s.pwr.on = true → s.pwr.seq = none → Does .powerdown s fun t => t.pwr.seq = some { why := .holdup .powerdown } ∧
    t.pwr.clm = .static0 ∧ t.start.outputsLive = false ∧ 0 ∈ t.fco.cond) ∧
  (∀ s, s.pwr.on = true → Does .holdupReadySet s fun t => holdupReady t = true) ∧
  (∀ s, s.pwr.on = true → Does .holdupReadyLost s fun t => holdupReady t = false ∧ (inControl s = true → 2 ∈ t.fco.cond)) ∧
  (∀ s n, s.pwr.on = true → Does (.holdupCapacityMeasure n) s fun t => getF 0x7F040 23 16 t = min n 255 ∧
    getB 0x7F040 4 t = decide (n < 100) ∧ (n < 100 → 2 ∈ t.fco.cond)) ∧
  (∀ s p, s.pwr.on = true → p < 4 → p ∉ s.pwr.sfpOff → Does (.sfpOverpower p) s fun t => p ∈ t.pwr.sfpOff ∧ 67 ∈ t.fco.cond) ∧
  (∀ s p g, s.pwr.on = true → p < 4 → p ∈ s.pwr.sfpOff → Does (.sfpInserted p g) s fun t => p ∉ t.pwr.sfpOff ∧
    (t.pwr.sfpOff = [] → 67 ∉ t.fco.cond)) ∧
  (∀ s, s.pwr.on = true → s.dup.state = .standby → seqRuns s = false → Does .standbyEntry s fun t =>
    t.pwr.clm = .standby ∧ getF 0x7F01C 3 0 t = max (getF 0x7F01C 3 0 s) 6) ∧
  (∀ s q, s.pwr.on = true → s.pwr.seq = some q → Does .finalCommitDone s fun t => t.pwr.seq = some { q with commitDone := true } ∧
    (q.commitDone = false → s.tly.metering = true → t.tly.seq = s.tly.seq + 1 ∧ t.tly.marker = none)) ∧
  (∀ s q w, s.pwr.on = true → s.pwr.seq = some q → q.why = .holdup w → Does .railsOff s fun t =>
    t.pwr.on = false ∧ t.pwr.offWhy = some w ∧ t.pwr.seq = none ∧ t.pwr.clm = .hiZ ∧ t.evr.staged = []) ∧
  (∀ s q w, s.pwr.on = true → s.pwr.seq = some q → q.why = .holdup w → Does .holdupStoreExhausted s fun t =>
    t.pwr.on = false ∧ t.pwr.offWhy = some w ∧
    (q.commitDone = false → s.tly.metering = true → (if s.tly.latest = 0 then t.tly.bank1 else t.tly.bank0) = none))

/-- Resets and start-up (R63 to R73, R502): what each reset leaves, the stages, and the end of a block reset. While another block is in reset, the
end of one leaves that other alone; with nothing waiting and no BLK reaction, the last one leaves none. -/
def Obligations.ResetCommandsComplete : Prop :=
  (∀ s, s.pwr.on = true → s.pwr.seq = none → Does .supervisorWatchdogExpiry s fun t => t.pwr.seq = some { why := .modReset .watchdog } ∧
    t.pwr.clm = .static0 ∧ t.start.outputsLive = false) ∧
  (∀ s v, s.pwr.on = true → s.pwr.seq = none → Does (.modreset v) s fun t => t.pwr.seq = some { why := .modReset .software } ∧
    t.start.request = restartKind v ∧ t.pwr.clm = .static0) ∧
  (∀ s v b, s.pwr.on = true → fld v 31 16 = 0x5A3C → getB 0x7F018 8 s = false → b ∈ codeBlocks (fld v 5 0) → b ≠ .tim → b ≠ .fco →
    Does (.blkrst v) s fun t => b ∈ t.start.blkRst) ∧
  (∀ s c p, porDue c p s = true → Does (.powerOnReset c p) s fun t => t.pwr.on = true ∧ t.tim.mon = 0 ∧
    getReg 0x7F014 t = BitVec.ofNat 32 (0xFF00 + porBits c)) ∧
  (∀ s p, porDue .afterOverTemp p s = true → Does (.overTempCooled p) s fun t => t.pwr.on = true ∧ t.tim.mon = 0 ∧
    getReg 0x7F014 t = 0xFF31) ∧
  (∀ s q w, s.pwr.on = true → s.pwr.seq = some q → q.why = .modReset w → Does .moduleReset s fun t => t.tim.mon = s.tim.mon ∧
    getReg 0x7F014 t = BitVec.ofNat 32 ((modBits w).2 <<< 8 ||| (modBits w).1)) ∧
  (∀ s r, s.pwr.on = true → seqRuns s = false → getF 0x7F01C 3 0 s < 5 → getF 0x7F01C 3 0 s ≠ 1 ∨ r.imageOk = true →
    Does (.startupStageComplete r) s fun t => getF 0x7F01C 3 0 t = getF 0x7F01C 3 0 s + 1) ∧
  (∀ s b c, s.pwr.on = true → s.pwr.seq = none → b ∈ s.start.blkRst → c ∈ s.start.blkRst → c ≠ b → Does (.blockResetDone b) s fun t =>
    b ∉ t.start.blkRst ∧ c ∈ t.start.blkRst) ∧
  (∀ s b, s.pwr.on = true → s.pwr.seq = none → s.start.blkRst = [b] → s.fco.waitBlk = [] → NoBlk s →
    Does (.blockResetDone b) s fun t => t.start.blkRst = [] ∧ getB 0x7F018 8 t = false)

/-- Accesses to the registers (R7 to R12, R452, R462, R465, R547, R549). -/
def Obligations.RegisterCommandsComplete : Prop :=
  (∀ s x, s.pwr.on = true → reaches .host s = true → x.bar2 = false → x.write = false → x.size ≠ 8 → notCarried false x.addr x.size = true →
    Does (.accessMisaligned x) s fun t => .regRead .host x.addr 0 ∈ t.out) ∧
  (∀ s x, s.pwr.on = true → reaches .host s = true → x.bar2 = false → x.write = false → x.size = 8 → x.addr % 4 ≠ 0 →
    Does (.accessMisaligned x) s fun t => .regRead .host x.addr 0 ∈ t.out ∧ .regRead .host (x.addr + 4) 0 ∈ t.out) ∧
  (∀ s x, s.pwr.on = true → reaches .host s = true → x.bar2 = true → x.write = false → x.size ≠ 8 → Does (.accessMisaligned x) s fun t =>
    .bar2Read x.addr (if notCarried false x.addr x.size then 0 else cutWord x.addr x.size (doorbellRead x.addr s)) ∈ t.out) ∧
  (∀ s who n v, s.pwr.on = true → n < 64 → reaches who s = true → Answers (0x06800 + 4 * n) s →
    Does (.registerWrite who (0x06800 + 4 * n) v) s fun t => getReg (0x06800 + 4 * n) t = v) ∧
  (∀ s b a, s.pwr.on = true → lockAddr b = some a → Answers a s → Does (.lockSet b) s fun t => lockOf b t = true) ∧
  (∀ s v i a, s.pwr.on = true → fld v 31 16 = 0x5A3C → i < 16 → bitAt v i = true → lockAddr (lockOrder.getD i .glb) = some a →
    present a s = true → Does (.glbLockset v) s fun t => getB a 31 t = true) ∧
  (∀ s who n, s.pwr.on = true → n < 224 → reaches who s = true → Answers (0x08800 + 4 * n) s →
    latched who (0x08800 + 4 * n) s = none → Does (.rcRead who (0x08800 + 4 * n)) s fun t =>
      .regRead who (0x08800 + 4 * n) (getReg (0x08800 + 4 * n) s) ∈ t.out ∧ getReg (0x08800 + 4 * n) t = 0) ∧
  (∀ s u who a, s.pwr.on = true → reaches who s = true → isPairLow a = true → latched who a s = none → inBlockReset a s = false →
    u = (if 0x0C200 ≤ a ∧ a < 0x0C400 ∧ a % 0x10 = 0 then pmcCatch s ((a - 0x0C200) / 0x10) else s) → Does (.lowerWordRead who a) s fun t =>
      .regRead who a (regRead a u) ∈ t.out ∧ latched who (a + 4) t = some (regRead (a + 4) u)) ∧
  (∀ s who a, s.pwr.on = true → reaches who s = true → Answers 0x04040 s → a ∈ netRegs → Does (.timNetsecLoRead who) s fun t =>
    .regRead who 0x04040 (regRead 0x04040 s) ∈ t.out ∧ latched who a t = some (regRead a s)) ∧
  (∀ s who, s.pwr.on = true → reaches who s = true → Answers 0x0600C s → Does (.bkdRtcsubRead who) s fun t =>
    .regRead who 0x0600C (regRead 0x0600C s) ∈ t.out ∧ t.tim.shadow = s.tim.rtc) ∧
  (∀ s who n, s.pwr.on = true → reaches who s = true → n < 4 → Answers (0x04218 + 0x20 * n) s → latched who (0x04218 + 0x20 * n) s = none →
    Does (.capstatRead who n) s fun t =>
    .regRead who (0x04218 + 0x20 * n) (regRead (0x04218 + 0x20 * n) s) ∈ t.out ∧ getB (0x04218 + 0x20 * n) 0 t = false ∧
    getB (0x04218 + 0x20 * n) 1 t = false)

/-- The fault collector, the event recorder and the counters: the parts of the state and the registers that each command may change at most; all else stays as it was. Where no register list
is given, the registers that change depend on the state; `CalmBut` gives the list that holds while no source has the BLK reaction. -/
def Obligations.FaultCommandsFrame : Prop :=
  (∀ n, KeepsBut [.hif, .pwr, .start, .fco, .evr, .pmc, .dup, .rnd, .tly, .cyc, .out] none (.clockFault n)) ∧ (∀ n, CalmBut [.hif, .pwr, .start, .fco, .evr, .pmc, .dup, .rnd, .tly, .cyc, .out] ((List.range 20).map (fun k => 0x08800 + 4 * (16 + k)) ++ [0x0A034, 0x0A010, 0x0A030, 0x7F018, 0x0E04C, 0x0E030, 0x7F040, 0x7F01C, 0x34020]) (.clockFault n)) ∧
  (∀ n, KeepsBut [.hif, .pwr, .start, .fco, .evr, .pmc, .dup, .rnd, .tly, .cyc, .out] none (.lockstepMismatch n)) ∧ (∀ n, CalmBut [.hif, .pwr, .start, .fco, .evr, .pmc, .dup, .rnd, .tly, .cyc, .out] [0x08800 + 4 * n, 0x0A034, 0x0A010, 0x0A030, 0x7F018, 0x0E04C, 0x0E030, 0x7F040, 0x7F01C, 0x34020] (.lockstepMismatch n)) ∧
  (∀ n, KeepsBut [.hif, .pwr, .start, .fco, .evr, .pmc, .dup, .rnd, .tly, .cyc, .out] none (.memoryEccError n)) ∧ (∀ n, CalmBut [.hif, .pwr, .start, .fco, .evr, .pmc, .dup, .rnd, .tly, .cyc, .out] [0x08800 + 4 * n, 0x0A034, 0x0A010, 0x0A030, 0x7F018, 0x0E04C, 0x0E030, 0x7F040, 0x7F01C, 0x34020] (.memoryEccError n)) ∧
  (∀ n, KeepsBut [.hif, .pwr, .start, .fco, .evr, .pmc, .dup, .rnd, .tly, .cyc, .out] none (.levelConditionEnd n)) ∧ (∀ n, CalmBut [.hif, .pwr, .start, .fco, .evr, .pmc, .dup, .rnd, .tly, .cyc, .out] [0x08888, 0x0A034, 0x0A010, 0x0A030, 0x7F018, 0x0E04C, 0x0E030, 0x7F040, 0x7F01C, 0x34020] (.levelConditionEnd n)) ∧
  (∀ n, KeepsBut [.hif, .fco, .evr, .pmc, .out] (some [0x0A034, 0x0A010, 0x0A030]) (.forcedLevelExpiry n)) ∧
  (∀ n, KeepsBut [.fco] (some []) (.fcoWindowEnd n)) ∧
  (∀ r, KeepsBut [.hif, .pwr, .start, .fco, .evr, .pmc, .dup, .rnd, .tly, .cyc, .out] none (.fcoIntegrityScan r)) ∧
  (∀ code, KeepsBut [.evr] (some []) (.evrTokenRefill code)) ∧
  (KeepsBut [.hif, .evr, .pmc, .out] (some [0x0A010, 0x0A030]) .evrFlush) ∧
  (KeepsBut [.hif, .pwr, .evr, .pmc, .out] (some [0x0A010, 0x0A030]) .evrHoldupFlushDone) ∧
  (∀ r, KeepsBut [.hif, .evr, .pmc, .out] (some []) (.evtReplay r)) ∧
  (KeepsBut [.hif, .pmc, .out, .free] (some [0x0C00C, 0x0C008, 0x01CDC]) .pmcPeriodicSnapshot) ∧
  (∀ r, KeepsBut [.hif, .pmc, .out, .free] (some [0x0C00C, 0x0C008, 0x01CDC]) (.pmcSample r)) ∧
  (∀ p, KeepsBut [.pmc] (some [0x0C600 + 32 * p + 8, 0x0C600 + 32 * p + 4, 0x0C600 + 32 * p + 12, 0x0C600 + 32 * p + 16, 0x0C600 + 32 * p + 20]) (.bwWindowEnd p))

/-- The host interface: the parts of the state and the registers that each command may change at most; all else stays as it was. Where no register list
is given, the registers that change depend on the state; `CalmBut` gives the list that holds while no source has the BLK reaction. -/
def Obligations.HostCommandsFrame : Prop :=
  (∀ pair v, KeepsBut [.hif, .evr, .pmc, .out] (some [ringReg pair 16, 0x0A034, 0x01010, 0x0A010, 0x0A030]) (.ringEnable pair v)) ∧
  (∀ pair, KeepsBut [.hif, .evr, .pmc, .out] (some [ringReg pair 16, 0x0A034, 0x01010, 0x0A010, 0x0A030]) (.ringDisable pair)) ∧
  (∀ r, KeepsBut [.hif, .pmc, .rnd, .ctr, .lpe, .fio, .out] (some []) (.startedDescriptorCancel r)) ∧
  (KeepsBut [.hif, .evr, .pmc, .out] (some [0x01010, 0x0A034, 0x0A010, 0x0A030]) .ownerClear) ∧
  (KeepsBut [.hif, .evr, .pmc, .out] (some [0x01010, 0x0A034, 0x0A010, 0x0A030]) .ownerSet) ∧
  (∀ pair v, KeepsBut [.hif, .evr, .pmc, .out] (some [ringReg pair 24, 0x0A034, 0x0A010, 0x0A030]) (.subTail pair v)) ∧
  (∀ pair v, KeepsBut [.hif, .evr, .pmc, .out] (some [ringReg pair 24, 0x0A034, 0x0A010, 0x0A030]) (.cmpHead pair v)) ∧
  (∀ pair, KeepsBut [.hif, .evr, .pmc, .out] (some [ringReg pair 24, 0x0A034, 0x0A010, 0x0A030]) (.cmpArm pair)) ∧
  (∀ pair b, KeepsBut [.hif, .pmc] (some []) (.descriptorFetch pair b)) ∧
  (∀ pair why, KeepsBut [.hif, .pmc, .out] (some []) (.descriptorFetchFail pair why)) ∧
  (∀ pair fail, KeepsBut [.hif, .pmc, .out] (some []) (.descriptorStart pair fail)) ∧
  (∀ pair fail, KeepsBut [.hif, .evr, .pmc, .out] (some []) (.rxbuf pair fail)) ∧
  (∀ pair, KeepsBut [.hif, .pmc, .out] (some []) (.coalesceTimeExpiry pair)) ∧
  (∀ v, KeepsBut [.hif, .pmc, .out] (some []) (.vectorSpacingExpiry v)) ∧
  (∀ c, KeepsBut [.hif, .pwr, .start, .fco, .evr, .pmc, .dup, .rnd, .tly, .cyc, .out] none (.linkLoss c)) ∧ (∀ c, CalmBut [.hif, .pwr, .start, .fco, .evr, .pmc, .dup, .rnd, .tly, .cyc, .out] [0x00004, 0x08900, 0x0A034, 0x0A010, 0x0A030, 0x7F018, 0x0E04C, 0x0E030, 0x7F040, 0x7F01C, 0x34020] (.linkLoss c)) ∧
  (∀ w, KeepsBut [.hif, .pwr, .start, .fco, .evr, .pmc, .dup, .rnd, .tly, .cyc, .out] none (.msixUnmask w)) ∧ (∀ w, CalmBut [.hif, .pwr, .start, .fco, .evr, .pmc, .dup, .rnd, .tly, .cyc, .out] ((List.range 64).map (fun v => 0x0300C + 16 * v) ++ [0x00004, 0x08900, 0x0A034, 0x0A010, 0x0A030, 0x7F018, 0x0E04C, 0x0E030, 0x7F040, 0x7F01C, 0x34020]) (.msixUnmask w)) ∧
  (∀ speed width, KeepsBut [.hif, .fco, .evr, .pmc, .out] (some [0x00004, 0x0A034, 0x0A010, 0x0A030]) (.linkReturn speed width)) ∧
  (KeepsBut [.hif, .pwr, .start, .fco, .evr, .pmc, .dup, .rnd, .tly, .cyc, .out] none .perstN) ∧
  (KeepsBut [.hif, .pwr, .start, .fco, .evr, .pmc, .dup, .rnd, .tly, .cyc, .out] none .functionLevelReset)

/-- The time block, the backup domain and the key store: the parts of the state and the registers that each command may change at most; all else stays as it was. Where no register list
is given, the registers that change depend on the state; `CalmBut` gives the list that holds while no source has the BLK reaction. -/
def Obligations.TimeAndKeyCommandsFrame : Prop :=
  (∀ ofs, KeepsBut [.hif, .evr, .pmc, .tim, .disp, .fio, .out, .free] (some [0x38808, 0x38848, 0x38888, 0x388C8, 0x0A034, 0x04014, 0x0A010, 0x0A030, 0x04024, 0x04020, 0x0410C, 0x04108]) (.ptpOffsetMeasurement ofs)) ∧
  (∀ m, KeepsBut [.hif, .evr, .pmc, .tim, .disp, .out] (some [0x0402C, 0x04028, 0x0A034, 0x04014, 0x0A010, 0x0A030]) (.announce m)) ∧
  (KeepsBut [.hif, .evr, .pmc, .tim, .disp, .out] (some [0x0A034, 0x04014, 0x0A010, 0x0A030]) .announceTimeout) ∧
  (KeepsBut [.hif, .pmc, .tim, .disp, .out] (some [0x04014]) .holdHExpiry) ∧
  (∀ positive, KeepsBut [.cfg, .hif, .evr, .pmc, .tim, .out] (some [0x0A034, 0x0A010, 0x0A030]) (.leapSecond positive)) ∧
  (∀ r, KeepsBut [.hif, .pmc, .dup, .tim, .out] (some []) (.stepAccept r)) ∧
  (∀ r, KeepsBut [.hif, .evr, .pmc, .dup, .tim, .disp, .out] (some [0x0A034, 0x04014, 0x0A010, 0x0A030]) (.stepReject r)) ∧
  (∀ r, KeepsBut [.hif, .evr, .pmc, .dup, .tim, .disp, .fio, .out, .free] (some [0x38808, 0x38848, 0x38888, 0x388C8, 0x0A034, 0x04014, 0x0A010, 0x0A030, 0x06004]) (.timeSet r)) ∧
  (∀ r, KeepsBut [.hif, .evr, .pmc, .tim, .disp, .out, .free] (some [0x06004, 0x0A034, 0x0A010, 0x0A030, 0x04014]) (.rtcSet r)) ∧
  (∀ r, KeepsBut [.hif, .pmc, .tim, .out] (some []) (.alarmSet r)) ∧
  (KeepsBut [.hif, .evr, .pmc, .tim, .disp, .out, .free] (some [0x06008, 0x06004, 0x0A034, 0x0A010, 0x0A030, 0x04014]) .rtcCompare) ∧
  (KeepsBut [.hif, .evr, .pmc, .tim, .out] (some [0x06004, 0x0A034, 0x04014, 0x0A010, 0x0A030]) .rtcAlarm) ∧
  (KeepsBut [.hif, .evr, .pmc, .tim, .out] (some [0x06004, 0x04014, 0x0A034, 0x0A010, 0x0A030]) .periodicWake) ∧
  (∀ k rising, KeepsBut [.hif, .pmc, .out] (some [0x04200 + 32 * k + 24, 0x04200 + 32 * k + 8, 0x04200 + 32 * k + 4, 0x04200 + 32 * k + 16, 0x04200 + 32 * k + 12, 0x04200 + 32 * k + 20, 0x04014]) (.captureEdge k rising)) ∧
  (∀ k, KeepsBut [.tim, .out] (some []) (.launchPulse k)) ∧
  (KeepsBut [.hif, .evr, .pmc, .out] (some [0x06004, 0x0A034, 0x04014, 0x0A010, 0x0A030]) .oscStop) ∧
  (∀ mainUp extMv cellMv, KeepsBut [.tim] (some [0x06004]) (.backupSourceSwitch mainUp extMv cellMv)) ∧
  (∀ extMv cellMv capMv, KeepsBut [.hif, .pwr, .start, .fco, .evr, .pmc, .dup, .tim, .rnd, .tly, .cyc, .out] none (.backupSourceMeasure extMv cellMv capMv)) ∧ (∀ extMv cellMv capMv, CalmBut [.hif, .pwr, .start, .fco, .evr, .pmc, .dup, .tim, .rnd, .tly, .cyc, .out] [0x06020, 0x06004, 0x04014, 0x0A034, 0x0A010, 0x0A030, 0x08938, 0x7F018, 0x0E04C, 0x0E030, 0x7F040, 0x7F01C, 0x34020] (.backupSourceMeasure extMv cellMv capMv)) ∧
  (KeepsBut [.tim] (some []) .vbdRetTrip) ∧
  (KeepsBut [.tim] (some []) .vbdFloorTrip) ∧
  (∀ bad, KeepsBut [.hif, .pwr, .start, .fco, .evr, .pmc, .dup, .kst, .rnd, .tly, .cyc, .out] none (.slotPatrol bad)) ∧
  (∀ t, KeepsBut [.hif, .pwr, .start, .fco, .evr, .pmc, .dup, .kst, .rnd, .tly, .cyc, .out] none (.tamperTrip t)) ∧ (∀ t, CalmBut [.hif, .pwr, .start, .fco, .evr, .pmc, .dup, .kst, .rnd, .tly, .cyc, .out] [0x0E04C, 0x48124, 0x48120, 0x0E030, 0x7F040, 0x0A034, 0x08930, 0x7F01C, 0x0A010, 0x0A030, 0x34020, 0x7F018] (.tamperTrip t)) ∧
  (∀ r, KeepsBut [.hif, .pwr, .start, .fco, .evr, .pmc, .dup, .kst, .rnd, .tly, .cyc, .out] none (.keyZeroise r)) ∧ (∀ r, CalmBut [.hif, .pwr, .start, .fco, .evr, .pmc, .dup, .kst, .rnd, .tly, .cyc, .out] [0x0E04C, 0x48124, 0x48120, 0x0E030, 0x7F040, 0x0A034, 0x08930, 0x7F01C, 0x0A010, 0x0A030, 0x34020, 0x7F018] (.keyZeroise r)) ∧
  (∀ r, KeepsBut [.hif, .pmc, .out] (some []) (.keyDevcert r)) ∧
  (∀ r, KeepsBut [.hif, .pmc, .out] (some []) (.keyPublic r)) ∧
  (∀ r buf, KeepsBut [.hif, .pmc, .out] (some []) (.keyGcm r buf)) ∧
  (∀ r buf, KeepsBut [.hif, .pmc, .out] (some []) (.keyHmac r buf)) ∧
  (KeepsBut [.pmc, .dup, .kst, .out, .free] (some []) .provisionHello)

/-- Station frames, estimation, the solver, the temperature stores, the loops and dispatch: the parts of the state and the registers that each command may change at most; all else stays as it was. Where no register list
is given, the registers that change depend on the state; `CalmBut` gives the list that holds while no source has the BLK reaction. -/
def Obligations.SolverCommandsFrame : Prop :=
  (∀ f, KeepsBut [.hif, .pwr, .start, .evr, .pmc, .dup, .kst, .rnd, .tly, .cyc, .out, .free] none (.hello f)) ∧
  (∀ f, KeepsBut [.hif, .pwr, .start, .evr, .pmc, .dup, .kst, .rnd, .tly, .cyc, .out, .free] none (.ready f)) ∧
  (∀ f, KeepsBut [.hif, .pwr, .start, .evr, .pmc, .dup, .kst, .rnd, .tly, .cyc, .out, .free] none (.readRep f)) ∧
  (∀ f, KeepsBut [.hif, .pwr, .start, .evr, .pmc, .dup, .kst, .rnd, .tly, .cyc, .out, .free] none (.writeAck f)) ∧
  (∀ id, KeepsBut [.pmc, .rnd, .out] (some []) (.readRetry id)) ∧
  (∀ id, KeepsBut [.pmc, .rnd, .out] (some []) (.writeRetry id)) ∧
  (∀ r, KeepsBut [.hif, .pmc, .dup, .rnd, .out] (some []) (.stationRetire r)) ∧
  (∀ r, KeepsBut [.hif, .pmc, .dup, .rnd, .out] (some []) (.stationReinstate r)) ∧
  (∀ r, KeepsBut [.hif, .pmc, .rnd, .out] (some []) (.stationQuery r)) ∧
  (∀ r, KeepsBut [.hif, .pmc, .dup, .sep, .out] (some []) (.setSigma r)) ∧
  (∀ r, KeepsBut [.hif, .pmc, .dup, .sep, .out] (some []) (.excl r)) ∧
  (∀ r, KeepsBut [.hif, .pmc, .dup, .sep, .out] (some []) (.incl r)) ∧
  (∀ r buf, KeepsBut [.hif, .pmc, .chu, .out] (some [0x10028]) (.kktSolve r buf)) ∧
  (∀ r buf, KeepsBut [.hif, .pmc, .chu, .out] (some [0x10028]) (.qpSolve r buf)) ∧
  (KeepsBut [.hif, .evr, .pmc, .chu, .sep, .out] (some [0x10030, 0x10028, 0x14020, 0x10024, 0x1002C, 0x10034, 0x10020, 0x14038, 0x14028, 0x14024, 0x1403C, 0x0A034, 0x14034, 0x14030, 0x0A010, 0x0A030, 0x0111C, 0x0115C]) .panelBoundary) ∧
  (KeepsBut [.hif, .evr, .pmc, .chu, .sep, .out] (some [0x10020, 0x10024, 0x1002C, 0x10034, 0x14020, 0x10028, 0x14038, 0x14028, 0x14024, 0x1403C, 0x0A034, 0x14034, 0x14030, 0x0A010, 0x0A030, 0x0111C, 0x0115C]) .qpIterationComplete) ∧
  (KeepsBut [.hif, .evr, .pmc, .chu, .sep, .out] (some [0x10024, 0x1002C, 0x10034, 0x10020, 0x14020, 0x14038, 0x14028, 0x14024, 0x1403C, 0x0A034, 0x14034, 0x14030, 0x10028, 0x0A010, 0x0A030, 0x0111C, 0x0115C]) .kktSolveComplete) ∧
  (KeepsBut [.hif, .evr, .pmc, .chu, .sep, .out] (some [0x10024, 0x1002C, 0x10034, 0x10020, 0x14020, 0x14038, 0x14028, 0x14024, 0x1403C, 0x0A034, 0x14034, 0x14030, 0x10028, 0x0A010, 0x0A030, 0x0111C, 0x0115C]) .fastportJobComplete) ∧
  (∀ who, KeepsBut [.hif, .evr, .pmc, .chu, .sep, .out] (some [0x10024, 0x1002C, 0x10034, 0x10020, 0x14020, 0x14038, 0x14028, 0x14024, 0x1403C, 0x0A034, 0x14034, 0x14030, 0x10028, 0x0A010, 0x0A030, 0x0111C, 0x0115C]) (.chuDeadline who)) ∧
  (∀ r p, KeepsBut [.hif, .pmc, .chu, .out] (some []) (.patternLoad r p)) ∧
  (∀ r, KeepsBut [.hif, .pmc, .chu, .out] (some []) (.patternFree r)) ∧
  (KeepsBut [.pmc, .chu] (some []) .chuPatternsRebuilt) ∧
  (∀ late us, KeepsBut [.hif, .pmc, .ctr, .out] none (.ctrStep late us)) ∧
  (∀ r, KeepsBut [.hif, .pmc, .ctr, .out] (some []) (.curdDump r)) ∧
  (∀ r, KeepsBut [.hif, .pmc, .ctr, .out] (some []) (.rebuild r)) ∧
  (KeepsBut [.hif, .evr, .pmc, .lpe, .cyc, .out] none .baseTick) ∧
  (∀ r buf, KeepsBut [.hif, .pmc, .dup, .lpe, .out] (some []) (.loopConfig r buf)) ∧
  (∀ r buf, KeepsBut [.hif, .pmc, .dup, .lpe, .out] (some []) (.loopCoef r buf)) ∧
  (∀ r, KeepsBut [.hif, .pmc, .dup, .lpe, .out] (some []) (.loopSwap r)) ∧
  (∀ r, KeepsBut [.hif, .pmc, .dup, .lpe, .out] (some []) (.loopMode r)) ∧
  (∀ r, KeepsBut [.hif, .pmc, .dup, .lpe, .out] (some []) (.loopSetsp r)) ∧
  (∀ r, KeepsBut [.hif, .pmc, .out] (some []) (.loopState r)) ∧
  (∀ r, KeepsBut [.hif, .pmc, .lpe, .out] (some []) (.traceCfg r)) ∧
  (∀ r, KeepsBut [.hif, .pmc, .lpe, .out] (some []) (.traceArm r)) ∧
  (KeepsBut [.hif, .pmc, .chu, .disp, .out] (some [0x01010, 0x01D1C, 0x01D5C, 0x01D9C]) .dispatchSolveComplete) ∧
  (∀ u ws, KeepsBut [.hif, .pmc, .disp, .cyc, .out] (some [0x01D1C, 0x01D5C, 0x01D9C]) (.plantAck u ws)) ∧
  (∀ mid, KeepsBut [.hif, .pmc, .disp, .out] (some [0x01D1C, 0x01D5C, 0x01D9C]) (.plantAckTimeout mid)) ∧
  (KeepsBut [.disp] (some []) .quarterHourStep) ∧
  (KeepsBut [.disp] (some []) .planAgeExpiry) ∧
  (KeepsBut [.hif, .pmc, .disp, .out] (some [0x01DDC]) .legMidnight) ∧
  (∀ r, KeepsBut [.hif, .pmc, .dup, .disp, .out] (some []) (.setParam r)) ∧
  (∀ r buf, KeepsBut [.hif, .pmc, .dup, .disp, .out] (some []) (.pricePush r buf)) ∧
  (∀ r buf, KeepsBut [.hif, .pmc, .dup, .disp, .out] (some []) (.weatherPush r buf)) ∧
  (∀ r, KeepsBut [.hif, .pmc, .dup, .disp, .out] (some []) (.forceCycle r)) ∧
  (∀ r, KeepsBut [.hif, .pmc, .dup, .disp, .out] (some []) (.unitMode r))

/-- The tally and the cyclic program: the parts of the state and the registers that each command may change at most; all else stays as it was. Where no register list
is given, the registers that change depend on the state; `CalmBut` gives the list that holds while no source has the BLK reaction. -/
def Obligations.TallyAndProgramCommandsFrame : Prop :=
  (∀ feeder cond x, KeepsBut [.hif, .evr, .pmc, .tly, .out] (some [0x0A034, fdrStat feeder, 0x0A010, 0x0A030]) (.supplyConditionChange feeder cond x)) ∧
  (∀ feeder samples, KeepsBut [.hif, .evr, .pmc, .tly, .out] (some [0x0A034, fdrStat feeder, 0x24020, 0x0A010, 0x0A030]) (.feederBlock feeder samples)) ∧
  (∀ meter x, KeepsBut [.pmc, .tly] (some [lhCfg meter + 12]) (.localHeatSample meter x)) ∧
  (KeepsBut [.hif, .start, .evr, .pmc, .dup, .lpe, .tly, .cyc, .out] (some [0x0A034, 0x2403C, 0x24038, 0x0A010, 0x0A030]) .tlyCommit) ∧
  (∀ station, KeepsBut [.tly] (some []) (.holdMinExpiry station)) ∧
  (∀ r, KeepsBut [.hif, .pmc, .tly, .out] (some []) (.billAck r)) ∧
  (∀ r, KeepsBut [.hif, .evr, .pmc, .out] (some []) (.billReplay r)) ∧
  (∀ task, KeepsBut [.hif, .evr, .pmc, .cyc, .out] (some [taskReg task 12, 0x0A034, 0x0179C, 0x0A010, 0x0A030]) (.taskActivation task)) ∧
  (∀ task outs vals us, KeepsBut [.pmc, .cyc, .out] (some [taskReg task 4, taskReg task 16, taskReg task 8]) (.taskInstanceEnd task outs vals us)) ∧
  (∀ task, KeepsBut [.hif, .pwr, .start, .fco, .evr, .pmc, .dup, .rnd, .tly, .cyc, .out] none (.taskWatchdogExpiry task)) ∧ (∀ task, CalmBut [.hif, .pwr, .start, .fco, .evr, .pmc, .dup, .rnd, .tly, .cyc, .out] [0x34038, 0x0A034, 0x34020, 0x0E04C, 0x088E0, 0x0A010, 0x0A030, 0x0179C, 0x0E030, 0x7F040, 0x7F01C, 0x7F018] (.taskWatchdogExpiry task)) ∧
  (∀ r, KeepsBut [.hif, .pwr, .start, .evr, .pmc, .dup, .cyc, .out] (some [0x0A034, 0x34020, 0x7F040, 0x0A010, 0x0A030, 0x7F01C, 0x0E030]) (.progRun r)) ∧
  (∀ r, KeepsBut [.hif, .pwr, .start, .evr, .pmc, .dup, .cyc, .out] (some [0x0A034, 0x34020, 0x7F040, 0x0A010, 0x0A030, 0x7F01C, 0x0E030]) (.progStop r)) ∧
  (∀ r, KeepsBut [.hif, .pwr, .start, .evr, .pmc, .dup, .cyc, .out] (some [0x0A034, 0x34020, 0x7F040, 0x0A010, 0x0A030, 0x7F01C, 0x0E030]) (.progColdStart r)) ∧
  (∀ r, KeepsBut [.hif, .pmc, .out] (some []) (.varRead r)) ∧
  (∀ r, KeepsBut [.hif, .pmc, .dup, .cyc, .out] (some []) (.varWrite r)) ∧
  (∀ r, KeepsBut [.hif, .pmc, .dup, .cyc, .out] (some []) (.constWrite r)) ∧
  (∀ r, KeepsBut [.hif, .pmc, .dup, .cyc, .out] (some []) (.progExchange r)) ∧
  (KeepsBut [.pmc, .dup, .cyc, .out] (some []) .exchangeCapture) ∧
  (∀ got, KeepsBut [.cyc] (some []) (.exchangeMapped got)) ∧
  (KeepsBut [.hif, .evr, .pmc, .cyc, .out] (some [0x0A034, 0x34020, 0x0A010, 0x0A030]) .exchangeAbandon)

/-- Ethernet, CAN and the field inputs and outputs: the parts of the state and the registers that each command may change at most; all else stays as it was. Where no register list
is given, the registers that change depend on the state; `CalmBut` gives the list that holds while no source has the BLK reaction. -/
def Obligations.FieldCommandsFrame : Prop :=
  (∀ port, KeepsBut [.pmc, .fio, .out] (some []) (.knaTx port)) ∧
  (∀ port, KeepsBut [.pmc, .kst, .fio, .out] (some [ethStat port]) (.macsecRekey port)) ∧
  (∀ port an sci kn tag, KeepsBut [.kst] (some []) (.keyNumberAnnouncement port an sci kn tag)) ∧
  (∀ port sci, KeepsBut [.kst, .fio] (some []) (.macsecOldSaExpiry port sci)) ∧
  (∀ r buf, KeepsBut [.hif, .pmc, .fio, .out] (some []) (.frameTx r buf)) ∧
  (∀ port queue, KeepsBut [.hif, .pmc, .fio, .out] (some [0x38410 + 64 * port]) (.frameLaunch port queue)) ∧
  (∀ r buf, KeepsBut [.hif, .pmc, .fio, .out] (some []) (.gclLoad r buf)) ∧
  (∀ port, KeepsBut [.fio] (some []) (.gclOperational port)) ∧
  (∀ port up, KeepsBut [.hif, .pwr, .start, .fco, .evr, .pmc, .dup, .rnd, .tly, .cyc, .out] none (.ringPortLinkChange port up)) ∧ (∀ port up, CalmBut [.hif, .pwr, .start, .fco, .evr, .pmc, .dup, .rnd, .tly, .cyc, .out] [ethStat port, 0x38600, 0x0A034, 0x0A010, 0x0A030, 0x08908, 0x7F018, 0x0E04C, 0x0E030, 0x7F040, 0x7F01C, 0x34020] (.ringPortLinkChange port up)) ∧
  (KeepsBut [.pmc, .fio, .out] (some []) .hsrSupervisionTx) ∧
  (KeepsBut [.fio] (some [0x38600]) .hsrEntryExpiry) ∧
  (∀ port, KeepsBut [] (some [0x38600]) (.noPeers port)) ∧
  (∀ port f, KeepsBut [.hif, .pmc, .disp, .cyc, .fio, .out] (some [0x38408 + 64 * port, 0x3840C + 64 * port, 0x38608, 0x38604, 0x38600, ringReg (35 + 2 * port) 28, 0x01D1C, 0x01D5C, 0x01D9C]) (.ethFrameRx port f)) ∧
  (∀ ch f, KeepsBut [.hif, .pmc, .disp, .cyc, .fio, .out] none (.canFrameRx ch f)) ∧
  (∀ ch node, KeepsBut [.cyc] (some []) (.canNodeTimeout ch node)) ∧
  (∀ r buf, KeepsBut [.hif, .evr, .pmc, .fio, .out] (some [0x0A034, 0x0A010, 0x0A030, canStatReg (r.pair - 42)]) (.canTx r buf)) ∧
  (∀ ch i how, KeepsBut [.hif, .pmc, .fio, .out] (some [canStatReg ch]) (.canTxDone ch i how)) ∧
  (∀ ch tag, KeepsBut [.hif, .pmc, .fio, .out] (some []) (.canTxDeadline ch tag)) ∧
  (∀ r, KeepsBut [.hif, .pmc, .fio, .out] (some []) (.canCancel r)) ∧
  (∀ r buf, KeepsBut [.hif, .pmc, .fio, .out] (some [canStatReg (r.pair - 42)]) (.schedLoad r buf)) ∧
  (∀ ch row col, KeepsBut [.fio] (some [canStatReg ch]) (.schedCellOpen ch row col)) ∧
  (∀ ch obj, KeepsBut [.hif, .evr, .pmc, .fio, .out] (some [0x38808 + 64 * ch, 0x0A034, 0x0A010, 0x0A030]) (.schedWindowDrop ch obj)) ∧
  (∀ r, KeepsBut [.hif, .evr, .pmc, .fio, .out] (some [0x0A034, canStatReg (r.pair - 42), 0x0A010, 0x0A030]) (.canSleep r)) ∧
  (∀ r, KeepsBut [.hif, .evr, .pmc, .fio, .out] (some [0x0A034, 0x0A010, 0x0A030, canStatReg (r.pair - 42)]) (.canWake r)) ∧
  (∀ ch, KeepsBut [.hif, .evr, .pmc, .fio, .out] (some [0x0A034, 0x0A010, 0x0A030, canStatReg ch]) (.cannWakeN ch)) ∧
  (∀ ch, KeepsBut [.hif, .pwr, .start, .fco, .evr, .pmc, .dup, .rnd, .tly, .cyc, .fio, .out] none (.busOff ch)) ∧ (∀ ch, CalmBut [.hif, .pwr, .start, .fco, .evr, .pmc, .dup, .rnd, .tly, .cyc, .fio, .out] [canStatReg ch, 0x0A034, 0x08800 + 4 * (68 + ch), 0x0A010, 0x0A030, 0x7F018, 0x0E04C, 0x0E030, 0x7F040, 0x7F01C, 0x34020] (.busOff ch)) ∧
  (∀ ch, KeepsBut [.hif, .fco, .evr, .pmc, .out] (some [canStatReg ch, 0x0A034, 0x0A010, 0x0A030]) (.busOffRecovery ch)) ∧
  (∀ ch level, KeepsBut [.hif, .pmc, .fio, .out] (some [0x01B9C]) (.dioInputEdge ch level)) ∧
  (KeepsBut [.hif, .pwr, .start, .fco, .evr, .pmc, .dup, .rnd, .tly, .cyc, .fio, .out] none .dioOutputLatch) ∧ (CalmBut [.hif, .pwr, .start, .fco, .evr, .pmc, .dup, .rnd, .tly, .cyc, .fio, .out] [0x3800C, 0x38008, 0x08920, 0x0A034, 0x0A010, 0x0A030, 0x7F018, 0x0E04C, 0x0E030, 0x7F040, 0x7F01C, 0x34020] .dioOutputLatch) ∧
  (∀ ch, KeepsBut [.hif, .pwr, .start, .fco, .evr, .pmc, .dup, .rnd, .tly, .cyc, .fio, .out] none (.dioOutputShutdown ch)) ∧ (∀ ch, CalmBut [.hif, .pwr, .start, .fco, .evr, .pmc, .dup, .rnd, .tly, .cyc, .fio, .out] [0x3800C, 0x38008, 0x08920, 0x0A034, 0x0A010, 0x0A030, 0x7F018, 0x0E04C, 0x0E030, 0x7F040, 0x7F01C, 0x34020] (.dioOutputShutdown ch)) ∧
  (∀ ch holds, KeepsBut [.hif, .pwr, .start, .fco, .evr, .pmc, .dup, .rnd, .tly, .cyc, .fio, .out] none (.dioReadbackFault ch holds)) ∧ (∀ ch holds, CalmBut [.hif, .pwr, .start, .fco, .evr, .pmc, .dup, .rnd, .tly, .cyc, .fio, .out] [0x3800C, 0x38008, 0x08920, 0x0A034, 0x0A010, 0x0A030, 0x7F018, 0x0E04C, 0x0E030, 0x7F040, 0x7F01C, 0x34020] (.dioReadbackFault ch holds)) ∧
  (KeepsBut [.hif, .pwr, .start, .fco, .evr, .pmc, .dup, .rnd, .tly, .cyc, .fio, .out] none .logicSilence) ∧ (CalmBut [.hif, .pwr, .start, .fco, .evr, .pmc, .dup, .rnd, .tly, .cyc, .fio, .out] [0x38008, 0x3800C, 0x38010, 0x08920, 0x0A034, 0x0A010, 0x0A030, 0x7F018, 0x0E04C, 0x0E030, 0x7F040, 0x7F01C, 0x34020] .logicSilence) ∧
  (KeepsBut [.hif, .pwr, .start, .fco, .evr, .pmc, .dup, .rnd, .tly, .cyc, .out] none .silenceEnd) ∧ (CalmBut [.hif, .pwr, .start, .fco, .evr, .pmc, .dup, .rnd, .tly, .cyc, .out] [0x38008, 0x3800C, 0x08920, 0x0A034, 0x0A010, 0x0A030, 0x7F018, 0x0E04C, 0x0E030, 0x7F040, 0x7F01C, 0x34020] .silenceEnd) ∧
  (∀ group missing, KeepsBut [.hif, .pwr, .start, .fco, .evr, .pmc, .dup, .rnd, .tly, .cyc, .fio, .out] none (.groupSupplyMissing group missing)) ∧ (∀ group missing, CalmBut [.hif, .pwr, .start, .fco, .evr, .pmc, .dup, .rnd, .tly, .cyc, .fio, .out] [0x38008, 0x3800C, 0x08920, 0x0A034, 0x08924, 0x01B9C, 0x0A010, 0x0A030, 0x7F018, 0x0E04C, 0x0E030, 0x7F040, 0x7F01C, 0x34020] (.groupSupplyMissing group missing))

/-- The network model, the update engine and provisioning: the parts of the state and the registers that each command may change at most; all else stays as it was. Where no register list
is given, the registers that change depend on the state; `CalmBut` gives the list that holds while no source has the BLK reaction. -/
def Obligations.ImageCommandsFrame : Prop :=
  (∀ r, KeepsBut [.hif, .evr, .pmc, .dup, .model, .chu, .out] (some [0x0A034, 0x0A010, 0x0A030]) (.modelArm r)) ∧
  (∀ r, KeepsBut [.hif, .evr, .pmc, .dup, .model, .chu, .out] (some [0x0A034, 0x0A010, 0x0A030]) (.modelRevert r)) ∧
  (∀ r, KeepsBut [.hif, .start, .pmc, .dup, .model, .chu, .out] (some []) (.modelDisarm r)) ∧
  (KeepsBut [.start, .model, .out] (some []) .modelRecordActive) ∧
  (∀ r buf sigOk digestsOk, KeepsBut [.hif, .pmc, .dup, .upd, .out] (some []) (.updManifest r buf sigOk digestsOk)) ∧
  (∀ r sum data, KeepsBut [.hif, .pwr, .start, .evr, .pmc, .dup, .model, .tly, .cyc, .upd, .out] (some [0x0A034, 0x0A010, 0x0A030, 0x0E04C, 0x0E030, 0x7F040, 0x7F01C, 0x34020]) (.updBlock r sum data)) ∧
  (∀ r, KeepsBut [.hif, .evr, .pmc, .upd, .out] (some [0x0A034, 0x0A010, 0x0A030]) (.updAbort r)) ∧
  (KeepsBut [.hif, .evr, .pmc, .upd, .out] (some [0x0A034, 0x0A010, 0x0A030]) .receiveTimeout) ∧
  (∀ readOk, KeepsBut [.hif, .pwr, .start, .evr, .pmc, .dup, .tly, .cyc, .upd, .out] (some [0x0E04C, 0x0E030, 0x7F040, 0x0A034, 0x7F01C, 0x0A010, 0x0A030, 0x34020]) (.loaderBlockWrite readOk)) ∧
  (∀ r, KeepsBut [.hif, .pmc, .upd, .out] (some []) (.updActivateFirmware r)) ∧
  (∀ r, KeepsBut [.hif, .pmc, .dup, .upd, .out] (some []) (.updActivateConfig r)) ∧
  (∀ r, KeepsBut [.hif, .pmc, .upd, .out] (some []) (.updConfirm r)) ∧
  (∀ r, KeepsBut [.hif, .pwr, .start, .evr, .pmc, .dup, .tly, .cyc, .upd, .out] (some [0x0E04C, 0x0E030, 0x7F040, 0x0A034, 0x7F01C, 0x0A010, 0x0A030, 0x34020]) (.updFallback r)) ∧
  (KeepsBut [.upd] (some []) .autoConfirm) ∧
  (KeepsBut [.hif, .pwr, .start, .evr, .pmc, .dup, .tly, .cyc, .upd, .out] (some [0x0E04C, 0x0E030, 0x7F040, 0x0A034, 0x7F01C, 0x0A010, 0x0A030, 0x34020]) .stage5Timeout) ∧
  (KeepsBut [.hif, .pwr, .start, .evr, .pmc, .dup, .tly, .cyc, .upd, .out] (some [0x0E04C, 0x0E030, 0x7F040, 0x0A034, 0x7F01C, 0x0A010, 0x0A030, 0x34020]) .syncTmoExpiry) ∧
  (∀ b, KeepsBut [.hif, .pwr, .start, .fco, .evr, .pmc, .dup, .kst, .rnd, .tly, .cyc, .fio, .out, .free] none (.provisionKeys b)) ∧
  (∀ ok, KeepsBut [.hif, .evr, .pmc, .dup, .kst, .out] (some [0x0A034, 0x0A010, 0x0A030]) (.provisionDone ok)) ∧
  (∀ r certOk, KeepsBut [.hif, .evr, .pmc, .dup, .kst, .out, .free] (some [0x0A034, 0x0A010, 0x0A030]) (.dupProvision r certOk)) ∧
  (∀ certOk, KeepsBut [.hif, .evr, .pmc, .dup, .kst, .out, .free] (some [0x0A034, 0x0A010, 0x0A030]) (.autoProvision certOk)) ∧
  (∀ r b, KeepsBut [.hif, .pwr, .start, .fco, .evr, .pmc, .dup, .kst, .rnd, .tly, .cyc, .fio, .out, .free] none (.keyProvision r b))

/-- The duplex pair: the parts of the state and the registers that each command may change at most; all else stays as it was. Where no register list
is given, the registers that change depend on the state; `CalmBut` gives the list that holds while no source has the BLK reaction. -/
def Obligations.DuplexCommandsFrame : Prop :=
  (KeepsBut [.hif, .pwr, .start, .fco, .evr, .pmc, .dup, .rnd, .disp, .tly, .cyc, .out] none .startupTakeControl) ∧ (CalmBut [.hif, .pwr, .start, .fco, .evr, .pmc, .dup, .rnd, .disp, .tly, .cyc, .out] [0x0E054, 0x0E050, 0x0A034, 0x0892C, 0x7F040, 0x0E040, 0x0A010, 0x0A030, 0x7F01C, 0x0E030, 0x7F018, 0x0E04C, 0x34020] .startupTakeControl) ∧
  (∀ h, KeepsBut [.hif, .pwr, .start, .fco, .evr, .pmc, .dup, .rnd, .tly, .cyc, .out] (some [0x0E028, 0x0E054, 0x0E050, 0x0E030, 0x0E040, 0x7F040, 0x0A034, 0x7F01C, 0x0A010, 0x0A030, 0x34020]) (.heartbeat h)) ∧
  (∀ h, KeepsBut [.hif, .pwr, .start, .fco, .evr, .pmc, .dup, .rnd, .tly, .cyc, .out] (some [0x0E028, 0x0E054, 0x0E050, 0x0E030, 0x0E040, 0x7F040, 0x0A034, 0x7F01C, 0x0A010, 0x0A030, 0x34020]) (.peerLinkReturn h)) ∧
  (KeepsBut [.pmc, .dup, .out] (some []) .heartbeatTx) ∧
  (KeepsBut [.hif, .pwr, .start, .fco, .evr, .pmc, .dup, .rnd, .tly, .cyc, .out] none .peerLinkLoss) ∧ (CalmBut [.hif, .pwr, .start, .fco, .evr, .pmc, .dup, .rnd, .tly, .cyc, .out] [0x0E030, 0x0E048, 0x08928, 0x0A034, 0x0A010, 0x0A030, 0x7F018, 0x0E04C, 0x7F040, 0x7F01C, 0x34020] .peerLinkLoss) ∧
  (∀ mseq, KeepsBut [.hif, .evr, .pmc, .dup, .tly, .out] (some [0x0E030]) (.peerAcknowledgement mseq)) ∧
  (∀ mseq, KeepsBut [.hif, .pwr, .start, .fco, .evr, .pmc, .dup, .rnd, .tly, .cyc, .out] none (.peerMsgResend mseq)) ∧ (∀ mseq, CalmBut [.hif, .pwr, .start, .fco, .evr, .pmc, .dup, .rnd, .tly, .cyc, .out] [0x0E030, 0x0E048, 0x08928, 0x0A034, 0x0A010, 0x0A030, 0x7F018, 0x0E04C, 0x7F040, 0x7F01C, 0x34020] (.peerMsgResend mseq)) ∧
  (∀ h cause, KeepsBut [.hif, .pwr, .start, .fco, .evr, .pmc, .dup, .rnd, .disp, .tly, .cyc, .out] none (.resign h cause)) ∧ (∀ h cause, CalmBut [.hif, .pwr, .start, .fco, .evr, .pmc, .dup, .rnd, .disp, .tly, .cyc, .out] [0x0E028, 0x0E054, 0x0E050, 0x0A034, 0x7F040, 0x0E030, 0x0E040, 0x0A010, 0x0A030, 0x0892C, 0x7F01C, 0x34020, 0x7F018, 0x0E04C] (.resign h cause)) ∧
  (∀ h, KeepsBut [.hif, .pwr, .start, .evr, .pmc, .dup, .rnd, .cyc, .out] (some [0x0E028, 0x0E054, 0x0E050, 0x7F040, 0x0A034, 0x0E030, 0x0E040, 0x7F01C, 0x0A010, 0x0A030, 0x34020]) (.take h)) ∧
  (KeepsBut [.hif, .pwr, .start, .fco, .evr, .pmc, .dup, .rnd, .disp, .tly, .cyc, .out] none .takeWaitExpiry) ∧ (CalmBut [.hif, .pwr, .start, .fco, .evr, .pmc, .dup, .rnd, .disp, .tly, .cyc, .out] [0x0A034, 0x7F040, 0x0E054, 0x0E050, 0x0A010, 0x0A030, 0x0892C, 0x7F01C, 0x0E030, 0x0E040, 0x34020, 0x7F018, 0x0E04C] .takeWaitExpiry) ∧
  (∀ h op withdraw, KeepsBut [.hif, .pwr, .start, .evr, .pmc, .dup, .tim, .kst, .model, .rnd, .chu, .sep, .disp, .lpe, .tly, .cyc, .fio, .upd, .out, .free] (some [0x0E028, 0x0E054, 0x0E050, 0x0A034, 0x38808, 0x38848, 0x38888, 0x388C8, 0x04014, 0x0A010, 0x0A030, 0x0E030, 0x0E040, 0x34020, 0x06004, 0x7F040, 0x0E04C, 0x7F01C]) (.forward h op withdraw)) ∧
  (∀ h op status detail, KeepsBut [.hif, .pwr, .start, .evr, .pmc, .dup, .tim, .kst, .model, .rnd, .chu, .sep, .disp, .lpe, .tly, .cyc, .fio, .upd, .out, .free] (some [0x0E028, 0x0E054, 0x0E050, 0x0A034, 0x38808, 0x38848, 0x38888, 0x388C8, 0x04014, 0x0A010, 0x0A030, 0x0E030, 0x0E040, 0x34020, 0x06004, 0x7F040, 0x0E04C, 0x7F01C]) (.confirm h op status detail)) ∧
  (KeepsBut [.hif, .evr, .pmc, .dup, .upd, .out] (some [0x0A034, 0x0A010, 0x0A030]) .forwardTimeout) ∧
  (∀ h result, KeepsBut [.hif, .pwr, .start, .fco, .evr, .pmc, .dup, .rnd, .tly, .cyc, .out] none (.selftest h result)) ∧ (∀ h result, CalmBut [.hif, .pwr, .start, .fco, .evr, .pmc, .dup, .rnd, .tly, .cyc, .out] [0x0E028, 0x0E054, 0x0E050, 0x0E030, 0x0E04C, 0x0E040, 0x7F040, 0x0A034, 0x0892C, 0x7F01C, 0x0A010, 0x0A030, 0x34020, 0x7F018] (.selftest h result)) ∧
  (∀ pass, KeepsBut [.hif, .pwr, .start, .fco, .evr, .pmc, .dup, .rnd, .tly, .cyc, .out] none (.selftestDone pass)) ∧ (∀ pass, CalmBut [.hif, .pwr, .start, .fco, .evr, .pmc, .dup, .rnd, .tly, .cyc, .out] [0x0E030, 0x0E04C, 0x7F040, 0x0A034, 0x0892C, 0x7F01C, 0x0A010, 0x0A030, 0x34020, 0x7F018] (.selftestDone pass)) ∧
  (∀ h d, KeepsBut [.hif, .pwr, .start, .evr, .pmc, .dup, .tim, .kst, .model, .rnd, .chu, .sep, .disp, .lpe, .tly, .cyc, .fio, .upd, .out, .free] (some [0x0E028, 0x7F040, 0x0A034, 0x38808, 0x38848, 0x38888, 0x388C8, 0x04014, 0x0A010, 0x0A030, 0x0E054, 0x0E050, 0x7F01C, 0x0E030, 0x34020, 0x06004, 0x0E040, 0x0E04C]) (.syncComplete h d)) ∧
  (∀ h m, KeepsBut [.hif, .evr, .pmc, .dup, .rnd, .tly, .out] (some [0x0E028, 0x0E054, 0x0E050, 0x0E030, 0x0E040]) (.record h m)) ∧
  (∀ h ask, KeepsBut [.hif, .evr, .pmc, .dup, .rnd, .tly, .out] (some [0x0E028, 0x0E054, 0x0E050, 0x0E030, 0x0E040]) (.morHandover h ask)) ∧
  (∀ r, KeepsBut [.hif, .pmc, .dup, .out] (some []) (.dupHandover r)) ∧
  (∀ r, KeepsBut [.hif, .pmc, .dup, .out] (some []) (.dupMorHand r)) ∧
  (∀ r, KeepsBut [.hif, .evr, .pmc, .dup, .tly, .out] (some [0x0E030]) (.dupMorRelease r)) ∧
  (∀ r, KeepsBut [.hif, .evr, .pmc, .dup, .tly, .out] (some [0x0E030]) (.dupMorTake r)) ∧
  (∀ r, KeepsBut [.hif, .pwr, .start, .fco, .evr, .pmc, .dup, .rnd, .disp, .tly, .cyc, .out] none (.dupTakeover r)) ∧ (∀ r, CalmBut [.hif, .pwr, .start, .fco, .evr, .pmc, .dup, .rnd, .disp, .tly, .cyc, .out] [0x0A034, 0x7F040, 0x0E054, 0x0E050, 0x0A010, 0x0A030, 0x0892C, 0x7F01C, 0x0E030, 0x0E040, 0x34020, 0x7F018, 0x0E04C] (.dupTakeover r)) ∧
  (∀ r, KeepsBut [.hif, .pwr, .start, .evr, .pmc, .dup, .cyc, .out] (some [0x7F040, 0x0A034, 0x7F01C, 0x0A010, 0x0A030, 0x0E030, 0x34020]) (.dupResync r))

/-- The round, and supply, temperature and hold-up: the parts of the state and the registers that each command may change at most; all else stays as it was. Where no register list
is given, the registers that change depend on the state; `CalmBut` gives the list that holds while no source has the BLK reaction. -/
def Obligations.RoundAndSupplyCommandsFrame : Prop :=
  (KeepsBut [.cfg, .hif, .pwr, .start, .fco, .evr, .pmc, .dup, .model, .rnd, .chu, .sep, .ctr, .disp, .lpe, .tly, .cyc, .upd, .out] none .roundStart) ∧
  (KeepsBut [.cfg, .hif, .pwr, .start, .fco, .evr, .pmc, .dup, .model, .rnd, .chu, .sep, .ctr, .disp, .lpe, .tly, .cyc, .upd, .out] none .roundStartTimeout) ∧
  (∀ h phases anchor, KeepsBut [.cfg, .hif, .pwr, .start, .fco, .evr, .pmc, .dup, .model, .rnd, .chu, .sep, .ctr, .disp, .lpe, .tly, .cyc, .upd, .out] none (.roundStartMsg h phases anchor)) ∧
  (KeepsBut [.hif, .pwr, .start, .fco, .evr, .pmc, .dup, .rnd, .chu, .sep, .disp, .tly, .cyc, .out] none .readClose) ∧ (CalmBut [.hif, .pwr, .start, .fco, .evr, .pmc, .dup, .rnd, .chu, .sep, .disp, .tly, .cyc, .out] [0x0A034, 0x14020, 0x7F040, 0x0E054, 0x0E050, 0x0A010, 0x0A030, 0x14038, 0x14028, 0x14024, 0x1403C, 0x0892C, 0x7F01C, 0x0E030, 0x0E040, 0x0111C, 0x34020, 0x7F018, 0x0E04C, 0x10028] .readClose) ∧
  (KeepsBut [.hif, .evr, .pmc, .chu, .sep, .out] (some [0x10024, 0x1002C, 0x10034, 0x14020, 0x14038, 0x14028, 0x14024, 0x1403C, 0x0A034, 0x10028, 0x0A010, 0x0A030, 0x0111C]) .sepWindowEnd) ∧
  (KeepsBut [.hif, .evr, .pmc, .dup, .rnd, .disp, .lpe, .tly, .cyc, .out] (some [0x01D1C, 0x01D5C, 0x01D9C, 0x0A034, 0x34020, 0x0A010, 0x0A030]) .writeOpen) ∧
  (∀ theirs, KeepsBut [.hif, .pwr, .start, .fco, .evr, .pmc, .dup, .rnd, .chu, .disp, .tly, .cyc, .out, .free] none (.roundClose theirs)) ∧
  (KeepsBut [.hif, .pwr, .start, .evr, .pmc, .dup, .tly, .cyc, .out] (some [0x0E04C, 0x0A034, 0x0E030, 0x7F040, 0x0A010, 0x0A030, 0x7F01C, 0x34020]) .noRoundClosed3s) ∧
  (∀ f, KeepsBut [.hif, .pwr, .start, .fco, .evr, .pmc, .dup, .rnd, .tly, .cyc, .out] none (.feedLost f)) ∧ (∀ f, CalmBut [.hif, .pwr, .start, .fco, .evr, .pmc, .dup, .rnd, .tly, .cyc, .out] [0x7F040, 0x0A034, 0x08804, 0x0A010, 0x0A030, 0x7F018, 0x0E04C, 0x0E030, 0x7F01C, 0x34020] (.feedLost f)) ∧
  (∀ f, KeepsBut [.hif, .pwr, .start, .fco, .evr, .pmc, .dup, .rnd, .tly, .cyc, .out] none (.feedReturned f)) ∧ (∀ f, CalmBut [.hif, .pwr, .start, .fco, .evr, .pmc, .dup, .rnd, .tly, .cyc, .out] [0x7F040, 0x0A034, 0x0A010, 0x0A030, 0x08804, 0x7F018, 0x0E04C, 0x0E030, 0x7F01C, 0x34020] (.feedReturned f)) ∧
  (∀ mk, KeepsBut [.hif, .pwr, .start, .fco, .evr, .pmc, .dup, .rnd, .tly, .cyc, .out] none (.tempRefresh mk)) ∧ (∀ mk, CalmBut [.hif, .pwr, .start, .fco, .evr, .pmc, .dup, .rnd, .tly, .cyc, .out] [0x7F048, 0x7F044, 0x7F040, 0x0880C, 0x0A034, 0x0A010, 0x0A030, 0x7F018, 0x0E04C, 0x0E030, 0x7F01C, 0x34020] (.tempRefresh mk)) ∧
  (KeepsBut [.hif, .pwr, .start, .fco, .evr, .pmc, .dup, .rnd, .tly, .cyc, .out] none .powerFail) ∧ (CalmBut [.hif, .pwr, .start, .fco, .evr, .pmc, .dup, .rnd, .tly, .cyc, .out] [0x08800, 0x7F040, 0x0E04C, 0x0A034, 0x0E030, 0x0A010, 0x0A030, 0x7F018, 0x7F01C, 0x34020] .powerFail) ∧
  (KeepsBut [.hif, .pwr, .start, .fco, .evr, .pmc, .dup, .rnd, .tly, .cyc, .out] none .presentLost) ∧ (CalmBut [.hif, .pwr, .start, .fco, .evr, .pmc, .dup, .rnd, .tly, .cyc, .out] [0x7F040, 0x08800, 0x0E04C, 0x0A034, 0x0E030, 0x0A010, 0x0A030, 0x7F018, 0x7F01C, 0x34020] .presentLost) ∧
  (KeepsBut [.hif, .pwr, .start, .fco, .evr, .pmc, .dup, .rnd, .tly, .cyc, .out] none .overTempStop) ∧ (CalmBut [.hif, .pwr, .start, .fco, .evr, .pmc, .dup, .rnd, .tly, .cyc, .out] [0x08800, 0x7F040, 0x0E04C, 0x0A034, 0x0E030, 0x0A010, 0x0A030, 0x7F018, 0x7F01C, 0x34020] .overTempStop) ∧
  (KeepsBut [.hif, .pwr, .start, .fco, .evr, .pmc, .dup, .rnd, .tly, .cyc, .out] none .powerdown) ∧ (CalmBut [.hif, .pwr, .start, .fco, .evr, .pmc, .dup, .rnd, .tly, .cyc, .out] [0x08800, 0x7F040, 0x0E04C, 0x0A034, 0x0E030, 0x0A010, 0x0A030, 0x7F018, 0x7F01C, 0x34020] .powerdown) ∧
  (KeepsBut [.hif, .pwr, .start, .evr, .pmc, .dup, .lpe, .tly, .cyc, .out] (some [0x0A034, 0x2403C, 0x24038, 0x0A010, 0x0A030]) .finalCommitDone) ∧
  (KeepsBut [.hif, .pwr, .start, .evr] (some [0x7F040, 0x00004]) .railsOff) ∧
  (KeepsBut [.hif, .pwr, .start, .evr, .tly] (some [0x7F040, 0x00004]) .holdupStoreExhausted) ∧
  (KeepsBut [.hif, .pwr, .start, .fco, .evr, .pmc, .dup, .rnd, .tly, .cyc, .out] none .holdupReadySet) ∧ (CalmBut [.hif, .pwr, .start, .fco, .evr, .pmc, .dup, .rnd, .tly, .cyc, .out] [0x7F040, 0x0A034, 0x7F01C, 0x0A010, 0x0A030, 0x0E030, 0x08808, 0x34020, 0x7F018, 0x0E04C] .holdupReadySet) ∧
  (KeepsBut [.hif, .pwr, .start, .fco, .evr, .pmc, .dup, .rnd, .tly, .cyc, .out] none .holdupReadyLost) ∧ (CalmBut [.hif, .pwr, .start, .fco, .evr, .pmc, .dup, .rnd, .tly, .cyc, .out] [0x7F040, 0x0A034, 0x08808, 0x0E04C, 0x0A010, 0x0A030, 0x0E030, 0x7F018, 0x7F01C, 0x34020] .holdupReadyLost) ∧
  (∀ pct, KeepsBut [.hif, .pwr, .start, .fco, .evr, .pmc, .dup, .rnd, .tly, .cyc, .out] none (.holdupCapacityMeasure pct)) ∧ (∀ pct, CalmBut [.hif, .pwr, .start, .fco, .evr, .pmc, .dup, .rnd, .tly, .cyc, .out] [0x7F040, 0x08808, 0x0A034, 0x0A010, 0x0A030, 0x7F018, 0x0E04C, 0x0E030, 0x7F01C, 0x34020] (.holdupCapacityMeasure pct)) ∧
  (∀ p, KeepsBut [.hif, .pwr, .start, .fco, .evr, .pmc, .dup, .rnd, .tly, .cyc, .out] none (.sfpOverpower p)) ∧ (∀ p, CalmBut [.hif, .pwr, .start, .fco, .evr, .pmc, .dup, .rnd, .tly, .cyc, .out] [ethStat p, 0x38600, 0x0A034, 0x0890C, 0x0A010, 0x0A030, 0x08908, 0x7F018, 0x0E04C, 0x0E030, 0x7F040, 0x7F01C, 0x34020] (.sfpOverpower p)) ∧
  (∀ p page, KeepsBut [.hif, .pwr, .start, .fco, .evr, .pmc, .dup, .rnd, .tly, .cyc, .out] none (.sfpInserted p page)) ∧ (∀ p page, CalmBut [.hif, .pwr, .start, .fco, .evr, .pmc, .dup, .rnd, .tly, .cyc, .out] [0x0890C, 0x0A034, 0x0A010, 0x0A030, 0x7F018, 0x0E04C, 0x0E030, 0x7F040, 0x7F01C, 0x34020] (.sfpInserted p page)) ∧
  (KeepsBut [.hif, .pwr, .start, .evr, .pmc, .dup, .tly, .cyc, .out] (some [0x0E04C, 0x0E030, 0x7F040, 0x0A034, 0x7F01C, 0x0A010, 0x0A030, 0x34020]) .supervisorWatchdogExpiry) ∧
  (∀ restart, KeepsBut [.hif, .pwr, .start, .evr, .pmc, .dup, .tly, .cyc, .out] (some [0x0E04C, 0x0E030, 0x7F040, 0x0A034, 0x7F01C, 0x0A010, 0x0A030, 0x34020]) (.modreset restart)) ∧
  (∀ v, KeepsBut [.hif, .start, .evr, .pmc, .rnd, .out] none (.blkrst v)) ∧
  (KeepsBut [.pwr, .start] (some [0x7F01C]) .standbyEntry)

/-- Resets, start-up and register accesses: the parts of the state and the registers that each command may change at most; all else stays as it was. Where no register list
is given, the registers that change depend on the state; `CalmBut` gives the list that holds while no source has the BLK reaction. -/
def Obligations.ResetAndAccessCommandsFrame : Prop :=
  (∀ cause p, KeepsBut [.cfg, .hif, .pwr, .start, .fco, .evr, .pmc, .dup, .tim, .kst, .model, .rnd, .chu, .sep, .ctr, .disp, .lpe, .tly, .cyc, .fio, .upd, .out] none (.powerOnReset cause p)) ∧
  (∀ p, KeepsBut [.cfg, .hif, .pwr, .start, .fco, .evr, .pmc, .dup, .tim, .kst, .model, .rnd, .chu, .sep, .ctr, .disp, .lpe, .tly, .cyc, .fio, .upd, .out] none (.overTempCooled p)) ∧
  (KeepsBut [.cfg, .hif, .pwr, .start, .fco, .evr, .pmc, .dup, .tim, .kst, .model, .rnd, .chu, .sep, .ctr, .disp, .lpe, .tly, .cyc, .fio, .upd, .out] none .moduleReset) ∧
  (∀ r, KeepsBut [.cfg, .hif, .pwr, .start, .fco, .evr, .pmc, .dup, .tim, .kst, .model, .rnd, .chu, .sep, .ctr, .disp, .lpe, .tly, .cyc, .fio, .upd, .out] none (.startupStageComplete r)) ∧
  (∀ b, KeepsBut [.hif, .pwr, .start, .fco, .evr, .pmc, .dup, .kst, .rnd, .chu, .sep, .ctr, .lpe, .tly, .cyc, .fio, .out] none (.blockResetDone b)) ∧
  (∀ who addr, KeepsBut [.hif, .pmc, .out, .free] (some []) (.lowerWordRead who addr)) ∧
  (∀ who addr, KeepsBut [.hif, .pwr, .evr, .pmc, .tim, .out, .free] (some [addr / 4 * 4, 0x0A044, 0x0A040, 0x0A048]) (.rcRead who addr)) ∧
  (∀ who, KeepsBut [.hif, .pwr, .evr, .pmc, .tim, .out, .free] (some [0x04040, 0x0A044, 0x0A040, 0x0A048]) (.timNetsecLoRead who)) ∧
  (∀ who, KeepsBut [.hif, .pwr, .evr, .pmc, .tim, .out, .free] (some [0x0600C, 0x0A044, 0x0A040, 0x0A048]) (.bkdRtcsubRead who)) ∧
  (∀ who unit, KeepsBut [.hif, .pwr, .evr, .pmc, .tim, .out, .free] (some [(0x04218 + 32 * unit) / 4 * 4, 0x0A044, 0x0A040, 0x0A048]) (.capstatRead who unit)) ∧
  (∀ who p, KeepsBut [.hif, .pwr, .evr, .pmc, .tim, .out, .free] (some [(0x0C604 + 32 * p) / 4 * 4, 0x0A044, 0x0A040, 0x0A048]) (.lastTxRead who p)) ∧
  (∀ who, KeepsBut [.hif, .pwr, .evr, .pmc, .tim, .out, .free] (some [0x0A060, 0x0A044, 0x0A040, 0x0A048]) (.evrWinCopy who)) ∧
  (∀ who, KeepsBut [.hif, .pwr, .evr, .pmc, .tim, .out, .free] (some [0x0A07C, 0x0A044, 0x0A040, 0x0A048]) (.evrWinAdvance who)) ∧
  (∀ value, KeepsBut [.hif, .evr, .pmc, .out] (some (lockOrder.filterMap lockAddr ++ [0x0A034, 0x0A010, 0x0A030])) (.glbLockset value)) ∧
  (∀ block, KeepsBut [.hif, .evr, .pmc, .out] (some ((lockAddr block).toList ++ [0x0A034, 0x0A010, 0x0A030])) (.lockSet block)) ∧
  (∀ who addr value, KeepsBut [.hif, .pwr, .start, .fco, .evr, .pmc, .dup, .tim, .kst, .rnd, .sep, .ctr, .disp, .tly, .cyc, .fio, .upd, .out, .free] none (.registerWrite who addr value)) ∧
  (∀ hi, KeepsBut [.hif, .evr, .pmc, .out] (some [0x0A044, 0x0A034, 0x0A010, 0x0A030]) (.evrCursorSet hi)) ∧
  (∀ v, KeepsBut [.hif, .pwr, .start, .fco, .evr, .pmc, .dup, .rnd, .tly, .cyc, .out] none (.fcoForce v)) ∧ (∀ v, CalmBut [.hif, .pwr, .start, .fco, .evr, .pmc, .dup, .rnd, .tly, .cyc, .out] [0x08800 + 4 * fld v 7 0, 0x0A034, 0x0A010, 0x0A030, 0x7F018, 0x0E04C, 0x0E030, 0x7F040, 0x7F01C, 0x34020] (.fcoForce v)) ∧
  (∀ w v, KeepsBut [.hif, .fco, .evr, .pmc, .out] (some [0x0A034, 0x0A010, 0x0A030]) (.fcoActiveClear w v)) ∧
  (KeepsBut [.hif, .evr, .pmc, .out, .free] (some [0x0C000, 0x0C00C, 0x0C008, 0x0A034, 0x0A010, 0x0A030]) .snap) ∧
  (KeepsBut [.hif, .evr, .pmc, .out] (some ([0x0C000, 0x0A034, 0x0A010, 0x0A030] ++ (List.range 5).flatMap (fun p => [0x0C60C + 0x20 * p, 0x0C610 + 0x20 * p]))) .clear) ∧
  (∀ k v, KeepsBut [.hif, .evr, .pmc, .out] (some [0x0C100 + 4 * k, 0x0A034, 0x0A010, 0x0A030]) (.pmcSelWrite k v)) ∧
  (∀ p v, KeepsBut [.hif, .evr, .pmc, .out] (some [0x0C600 + 0x20 * p, 0x0A034, 0x0A010, 0x0A030]) (.bwcfgWrite p v)) ∧
  (∀ d ns, KeepsBut [.hif, .evr, .pmc, .tim, .out] (some [0x04100, 0x04108, 0x04118, 0x0A034, 0x0A010, 0x0A030]) (.incrCommit d ns)) ∧
  (KeepsBut [.hif, .evr, .pmc, .sep, .out] (some [0x14000, 0x0A034, 0x0A010, 0x0A030]) .flatStart) ∧
  (KeepsBut [.hif, .evr, .pmc, .ctr, .out] (some [0x18000, 0x0A034, 0x0A010, 0x0A030]) .ctrCtrlRebuild) ∧
  (∀ value, KeepsBut [.hif, .evr, .pmc, .tly, .out] (some [0x24000, 0x0A034, 0x0A010, 0x0A030]) (.calEnSet value)) ∧
  (∀ value, KeepsBut [.hif, .evr, .pmc, .tly, .out] (some [0x24000, 0x0A034, 0x0A010, 0x0A030]) (.calEnClear value)) ∧
  (∀ v, KeepsBut [.hif, .evr, .pmc, .out] (some [0x48008, 0x0A034, 0x0A010, 0x0A030]) (.kstTampcfgWrite v)) ∧
  (∀ access, KeepsBut [.hif, .pwr, .start, .fco, .evr, .pmc, .dup, .tim, .kst, .rnd, .sep, .ctr, .disp, .tly, .cyc, .fio, .upd, .out, .free] none (.accessMisaligned access))

/-! ## Rules of the spec -/

/-- R11: reading the lower word latches the upper word; the next read of the upper word returns the latched value, and one that no read of the lower
word has preceded returns the live upper word. -/
def Obligations.LowerWordReadFirst : Prop :=
  ∀ s u who a, s.pwr.on = true → reaches who s = true → isPairLow a = true → latched who a s = none → Answers a s → Answers (a + 4) s →
    u = (if 0x0C200 ≤ a ∧ a < 0x0C400 ∧ a % 0x10 = 0 then pmcCatch s ((a - 0x0C200) / 0x10) else s) →
    Does (.rcRead who a) s (fun t => .regRead who a (regRead a u) ∈ t.out ∧ latched who (a + 4) t = some (regRead (a + 4) u)) ∧
    (∀ v, latched who (a + 4) s = some v → Does (.rcRead who (a + 4)) s fun t => .regRead who (a + 4) v ∈ t.out) ∧
    (latched who (a + 4) s = none → Does (.rcRead who (a + 4)) s fun t => .regRead who (a + 4) (regRead (a + 4) s) ∈ t.out)

/-- R452: a read of TIM_NETSEC_LO latches every other NET, LEG and BUS register at one tick; a later read of one returns the latched value, one that no
such read has preceded the live value; MON is read as R11 states. -/
def Obligations.NetReadLatchesAll : Prop :=
  (∀ s who, s.pwr.on = true → reaches who s = true → Answers 0x04040 s → Does (.timNetsecLoRead who) s fun t => .regRead who 0x04040 (regRead 0x04040 s) ∈ t.out ∧
    ∀ a, a ∈ netRegs → latched who a t = some (regRead a s)) ∧
  (∀ s who a v, s.pwr.on = true → reaches who s = true → a ∈ netRegs → Answers a s → latched who a s = some v →
    Does (.rcRead who a) s fun t => .regRead who a v ∈ t.out) ∧
  (∀ s who a, s.pwr.on = true → reaches who s = true → a ∈ netRegs → latched who a s = none →
    Does (.rcRead who a) s fun t => .regRead who a (regRead a s) ∈ t.out) ∧
  isPairLow 0x04030 = true

/-- R547 with R549: bit 31 of each block's control register is its lock bit; PMC and GLB have none and no RWL field; GLB_LOCKSET sets several in one
write, and GLB_LOCKSTAT reports them all. -/
def Obligations.LockBits : Prop :=
  [(Block.hif, 0x00000), (.tim, 0x04000), (.bkd, 0x06000), (.fco, 0x08000), (.evr, 0x0A000), (.dup, 0x0E000), (.chu, 0x10000), (.sep, 0x14000),
   (.ctr, 0x18000), (.lpe, 0x1C000), (.tly, 0x24000), (.rnd, 0x2C000), (.cyc, 0x34000), (.fio, 0x38000), (.kst, 0x48000), (.upd, 0x4C000)].all
    (fun e => lockAddr e.1 == some e.2) = true ∧
  (∀ b s, lockOf b s = true ↔ ∃ a, lockAddr b = some a ∧ getB a 31 s = true) ∧
  lockAddr .pmc = none ∧ lockAddr .glb = none ∧
  (∀ a r, blockAt a = some .pmc ∨ blockAt a = some .glb → regSpec a = some r → r.rwl = 0) ∧
  (∀ s v, s.pwr.on = true → fld v 31 16 = 0x5A3C → getF 0x7F01C 3 0 s ≠ 15 → s.start.blkRst.contains .glb = false →
    Does (.glbLockset v) s fun t => ∀ i b, lockOrder[i]? = some b →
      lockOf b t = (lockOf b s || bitAt v i) ∧ bitAt (regRead 0x7F024 t) i = lockOf b t)

/-- R7 and R9 for the registers without a write rule of their own: RW fields take the value, W1C bits clear, a lock bit sets; RWL fields take the value
only while LOCK is 0; with LOCK at 1 the write is recorded only where it would change an RWL field. A block reset leaves every lock bit and every RWL
field as it was. -/
def Obligations.LockedFieldsStay : Prop :=
  (∀ s v a r, s.pwr.on = true → regSpec a = some r → Does (.blkrst v) s fun t =>
    getReg a t &&& BitVec.ofNat 32 r.rwl = getReg a s &&& BitVec.ofNat 32 r.rwl ∧ ∀ b, lockOf b t = lockOf b s) ∧
  ∀ s a v b r, blockAt a = some b → regSpec a = some r →
    (lockOf b s = true → rangeOk a ((getReg a s &&& ~~~BitVec.ofNat 32 r.rw) ||| (v &&& BitVec.ofNat 32 r.rw)) = true →
      getReg a (plainWrite a v s) = ((((getReg a s &&& ~~~BitVec.ofNat 32 r.rw) ||| (v &&& BitVec.ofNat 32 r.rw)) &&&
        ~~~(v &&& BitVec.ofNat 32 r.w1c)) ||| (if lockAddr b = some a ∧ bitAt v 31 then 0x80000000 else 0)) ∧
      (v &&& BitVec.ofNat 32 r.rwl = getReg a s &&& BitVec.ofNat 32 r.rwl → (plainWrite a v s).evr = s.evr)) ∧
    (lockOf b s = false → rangeOk a ((getReg a s &&& ~~~(BitVec.ofNat 32 r.rw ||| BitVec.ofNat 32 r.rwl)) ||| (v &&& (BitVec.ofNat 32 r.rw ||| BitVec.ofNat 32 r.rwl))) = true →
      (plainWrite a v s).evr = s.evr ∧
      getReg a (plainWrite a v s) = ((((getReg a s &&& ~~~(BitVec.ofNat 32 r.rw ||| BitVec.ofNat 32 r.rwl)) ||| (v &&& (BitVec.ofNat 32 r.rw ||| BitVec.ofNat 32 r.rwl))) &&&
        ~~~(v &&& BitVec.ofNat 32 r.w1c)) ||| (if lockAddr b = some a ∧ bitAt v 31 then 0x80000000 else 0)))

/-- R91: when ENABLE goes from 0 to 1, SUB_HEAD and CMP_TAIL become 0, the host's tail and head are taken as 0, the pair's vector arms, and the first pass
through the completion ring, with PHASE 1, begins. Host software's zeroing of the ring is not the module's. -/
def Obligations.EnableStartsThePair : Prop :=
  ∀ s pair v, s.pwr.on = true → pair < 60 → ownedInside pair s = false → .hif ∉ s.start.blkRst → bitAt v 2 = false → ringOn pair s = false →
    ringIdle pair s = true → within (fld (v ||| 1) 15 12) 4 0xC = true → within (fld (v ||| 1) 11 8) 4 0xC = true → getF (ringReg pair 0) 11 0 s = 0 → getF (ringReg pair 8) 11 0 s = 0 →
    Does (.ringEnable pair v) s fun t => ringOn pair t = true ∧ (ring pair t).subHead = 0 ∧ (ring pair t).cmpTail = 0 ∧ (ring pair t).subTail = 0 ∧
      (ring pair t).cmpHead = 0 ∧ (ring pair t).armed = true ∧ (ring pair t).phase = true

/-- R107: a stream item is never split: it takes one buffer, and one that is longer than its buffer fills it with the first LENGTH bytes, and the entry
carries BUF_SHORT with the item's full length in DETAIL. -/
def Obligations.LongItemIsCut : Prop :=
  ∀ s pair b u us a, (ring pair s).bufs = u :: us → u.addr = some a → hasRoom pair s = true → (ring pair s).lost = 0 → bufFails pair b s = false →
    0 < u.len → b ≠ [] → (ring pair (deliver pair b s)).bufs = us ∧ .hostData pair a (b.take u.len) ∈ (deliver pair b s).out ∧
    ∃ n k e, .entry pair n k (Entry.bytes e) ∈ (deliver pair b s).out ∧ e.slot = u.slot ∧ e.rxdata = true ∧ e.len = min u.len b.length ∧
      (u.len < b.length → e.status = 0x15 ∧ e.detail = b.length) ∧ (b.length ≤ u.len → e.status = 0 ∧ e.detail = 0)

/-- R114: a masked vector among 1 to 63 sets its pending bit and sends nothing; when it is unmasked its message goes out if the bit is still set, and
otherwise none does. The spacing of R113 lets it pass. -/
def Obligations.MaskedVectorsWait : Prop :=
  ∀ s v, 0 < v → v < 64 →
    (s.hif.msixOn = true → linkOk s = true → vecMasked v s = true → v ∈ (sendMsg v s).hif.pba ∧ (sendMsg v s).out = s.out) ∧
    (s.pwr.on = true → s.hif.msixOn = true → linkOk s = true → s.hif.fnMask = false → v ∈ s.hif.pba →
      (∀ m, tget s.hif.lastMsg v = some m → m + 100000 ≤ s.tim.mon) →
      Does (.msixUnmask (.vector v)) s fun t => .msix v ∈ t.out ∧ v ∉ t.hif.pba) ∧
    (s.pwr.on = true → linkOk s = true → getB (0x0300C + 16 * v) 0 s = false → v ∈ s.hif.pba →
      (∀ m, tget s.hif.lastMsg v = some m → m + 100000 ≤ s.tim.mon) →
      Does (.msixUnmask (.config (.msix true false))) s fun t => .msix v ∈ t.out ∧ v ∉ t.hif.pba) ∧
    (s.pwr.on = true → v ∉ s.hif.pba → Does (.msixUnmask (.vector v)) s fun t => t.out.count (.msix v) = s.out.count (.msix v))

/-- R403: a module in control that accepts, in one round, frames of at least two stations whose HELD_CLAIM is above its own claim resigns with cause 8,
isolated or not. -/
def Obligations.TwoHigherClaimsResign : Prop :=
  ∀ s id other held, duplex s = true → s.dup.state = .control → s.dup.claim < held → other ∈ s.dup.heldBy → other ≠ id →
    (noteClaim id held s).dup.resignWhy = 8 ∧ (noteClaim id held s).dup.state ≠ .control ∧ inControl (noteClaim id held s) = false

/-- R503: once a sequence of R37 or R65 runs, BLK and MOD reactions are recorded and not acted on, and the sequence runs on; a module of a pair resigns
with cause 2 in the hold-up sequence. -/
def Obligations.SequenceRunsOn : Prop :=
  (∀ s n, seqRuns s = true → (raise n s).start.blkRst = s.start.blkRst ∧ (raise n s).pwr.seq = s.pwr.seq ∧
    (raise n s).fco.waitBlk = s.fco.waitBlk ∧ (raise n s).dup.state = s.dup.state) ∧
  (∀ s n, seqRuns s = true → n < 224 → (srcRow n).known = true → (srcRow n).level = false → n ∉ s.fco.active → fld (srcCfg n s) 23 16 ≤ 1 →
    tgetD s.fco.window n 0 = 0 → fld (getReg (0x0B000 + 4 * n) s) 15 8 = 0 → s.evr.staged.length < 255 →
    ∃ e, e ∈ (raise n s).evr.staged ∧ e.code = n ∧ e.seq = s.evr.nextSeq) ∧
  (∀ s i, s.pwr.on = true → s.pwr.seq = none → duplex s = true → s.dup.state = .control ∨ s.dup.state = .standby ∨ s.dup.state = .syncing →
    i = .powerFail ∨ i = .presentLost ∨ i = .overTempStop ∨ i = .powerdown →
    Does i s fun t => t.dup.resignWhy = 2 ∧ t.dup.state = .resigned)

/-- R108: the free completion slots are size − 1 − ((CMP_TAIL − CMP_HEAD) mod size); a command descriptor starts only where a slot that no other
descriptor has reserved is left for its entry, so that a full completion ring holds back the start of commands. -/
def Obligations.CompletionSlots : Prop :=
  (∀ pair s, (ring pair s).cmpHead < cmpSize pair s → (ring pair s).cmpTail < cmpSize pair s →
    (openSlots pair s : Int) = cmpSize pair s - 1 - (((ring pair s).cmpTail : Int) - (ring pair s).cmpHead) % cmpSize pair s) ∧
  (∀ s pair fail, s.pwr.on = true → attached pair s = true → freeSlots pair s = 0 → Does (.descriptorStart pair fail) s fun t => (ring pair t).cmds = (ring pair s).cmds) ∧
  (∀ s pair fail i c, s.pwr.on = true → pairBlocked pair s = false → startable 0 (ring pair s).cmds = some i → (ring pair s).cmds[i]? = some c →
    0 < freeSlots pair s → descCheck pair s.start.recovery c.desc s.tim.mon = none → Does (.descriptorStart pair fail) s fun t =>
      reserved (ring pair t) = reserved (ring pair s) + 1)

/-- R511: a record takes a token of its code and is kept with the code's pending count, which returns to 0; one that finds no token is suppressed and
adds 1 to that count and to EVR_SUPPR; a refill gives back one token, up to BURST. -/
def Obligations.TokensLimitRecords : Prop :=
  (∀ s c f x, 0xE0 ≤ c → bitAt (getReg (0x0B000 + 4 * c) s) 0 = false → fld (getReg (0x0B000 + 4 * c) s) 15 8 ≠ 0 →
    tgetD s.evr.spent c 0 < fld (getReg (0x0B000 + 4 * c) s) 7 4 → s.evr.staged.length < 255 →
    tgetD (record c f x s).evr.spent c 0 = tgetD s.evr.spent c 0 + 1 ∧ tgetD (record c f x s).evr.pend c 0 = 0 ∧
    ∃ e, (record c f x s).evr.staged = s.evr.staged ++ [e] ∧ e.code = c ∧ e.suppr = tgetD s.evr.pend c 0 ∧ e.arg = x) ∧
  (∀ s c f x, fld (getReg (0x0B000 + 4 * c) s) 15 8 ≠ 0 → max 1 (fld (getReg (0x0B000 + 4 * c) s) 7 4) ≤ tgetD s.evr.spent c 0 →
    (record c f x s).evr.staged = s.evr.staged ∧ tgetD (record c f x s).evr.pend c 0 = min (tgetD s.evr.pend c 0 + 1) 0xFFFF ∧
    getReg 0x0A034 (record c f x s) = satAdd32 (getReg 0x0A034 s) 1) ∧
  (∀ s c, s.pwr.on = true → onMultiple (getF (0x0B000 + 4 * c) 15 8 s * 10000000) (tgetD s.evr.refillAt c 0) s.tim.mon = true →
    Does (.evrTokenRefill c) s fun t => tgetD t.evr.spent c 0 = tgetD s.evr.spent c 0 - 1)
end

