-- ==== Sys2Proof/Laws/Tables.lean ====
section
/-!
SUPPORT. Sparse tables and the register file: a read after a write, and that a register write keeps the canonical form.
-/

set_option Elab.async false
namespace Sys2Proof.Machine

/-- A table's keys rise strictly. -/
def rising {α : Type} : Tbl α → Prop
  | [] => True
  | [_] => True
  | e :: f :: r => e.1 < f.1 ∧ rising (f :: r)

section
variable {α : Type} {t : Tbl α} {k j : Nat} {x : α}

theorem tget_tput_same : tget (tput t k x) k = some x := by
  induction t with
  | nil => simp [tput, tget]
  | cons e r ih =>
    obtain ⟨a, v⟩ := e
    simp only [tput]
    split
    · simp [tget]
    · split
      · simp [tget]
      · simp [tget, ih]; omega

theorem tget_tput_other (h : j ≠ k) : tget (tput t k x) j = tget t j := by
  induction t with
  | nil => simp [tput, tget, Ne.symm h]
  | cons e r ih =>
    obtain ⟨a, v⟩ := e
    simp only [tput]
    split
    · simp [tget, Ne.symm h]
    · split
      · next _ e => subst e; simp [tget, Ne.symm h]
      · simp [tget, ih]

theorem tget_tdel_same : tget (tdel t k) k = none := by
  induction t with
  | nil => rfl
  | cons e r ih =>
    obtain ⟨a, v⟩ := e
    by_cases h : a = k <;> simp_all [tdel, tget]

theorem tget_tdel_other (h : j ≠ k) : tget (tdel t k) j = tget t j := by
  induction t with
  | nil => rfl
  | cons e r ih =>
    obtain ⟨a, v⟩ := e
    by_cases ha : a = k
    · subst ha; simpa [tdel, tget, Ne.symm h] using ih
    · simp [tdel, tget, ha] at ih ⊢; rw [ih]

end

/-- The canonical form says: keys rise, and no entry holds its reset value. -/
theorem regsOk_iff (t : Tbl Word) : regsOk t = true ↔ t.Pairwise (fun e f => e.1 < f.1) ∧ ∀ e ∈ t, e.2 ≠ regReset e.1 := by
  induction t with
  | nil => simp [regsOk]
  | cons e r ih =>
    cases r with
    | nil => simp [regsOk]
    | cons f r =>
      simp only [regsOk, Bool.and_eq_true, decide_eq_true_eq, bne_iff_ne, ih]
      constructor
      · rintro ⟨⟨h1, h2⟩, h3, h4⟩
        refine ⟨List.pairwise_cons.2 ⟨?_, h3⟩, ?_⟩
        · intro g hg
          rcases List.mem_cons.1 hg with rfl | hg
          · exact h1
          · exact Nat.lt_trans h1 ((List.pairwise_cons.1 h3).1 g hg)
        · intro g hg
          rcases List.mem_cons.1 hg with rfl | hg
          · exact h2
          · exact h4 g hg
      · rintro ⟨h3, h4⟩
        have h5 := List.pairwise_cons.1 h3
        exact ⟨⟨h5.1 f (by simp), h4 e (by simp)⟩, h5.2, fun g hg => h4 g (List.mem_cons_of_mem _ hg)⟩

theorem mem_tput {t : Tbl Word} {k : Nat} {x : Word} {e : Nat × Word} (h : e ∈ tput t k x) : e = (k, x) ∨ e ∈ t := by
  induction t with
  | nil => simpa [tput] using h
  | cons a r ih =>
    obtain ⟨b, v⟩ := a
    simp only [tput] at h
    split at h
    · simpa using h
    · split at h
      · rcases List.mem_cons.1 h with h | h
        · exact .inl h
        · exact .inr (List.mem_cons_of_mem _ h)
      · rcases List.mem_cons.1 h with h | h
        · exact .inr (by simp [h])
        · rcases ih h with h | h
          · exact .inl h
          · exact .inr (List.mem_cons_of_mem _ h)

theorem pairwise_tput {t : Tbl Word} {k : Nat} {x : Word} (h : t.Pairwise (fun e f => e.1 < f.1)) :
    (tput t k x).Pairwise (fun e f => e.1 < f.1) := by
  induction t with
  | nil => simp [tput]
  | cons a r ih =>
    obtain ⟨b, v⟩ := a
    have h5 := List.pairwise_cons.1 h
    simp only [tput]
    split
    · next hk =>
      refine List.pairwise_cons.2 ⟨?_, h⟩
      intro g hg
      rcases List.mem_cons.1 hg with rfl | hg
      · exact hk
      · exact Nat.lt_trans hk (h5.1 g hg)
    · split
      · next hk => subst hk; exact List.pairwise_cons.2 ⟨h5.1, h5.2⟩
      · refine List.pairwise_cons.2 ⟨?_, ih h5.2⟩
        intro g hg
        rcases mem_tput hg with rfl | hg
        · show b < k; omega
        · exact h5.1 g hg

theorem regsOk_setReg (a : Nat) (w : Word) (s : State) (h : regsOk s.regs = true) : regsOk (setReg a w s).regs = true := by
  rw [regsOk_iff] at h ⊢
  simp only [setReg]
  split
  · exact ⟨h.1.filter _, fun e he => h.2 e (List.mem_of_mem_filter he)⟩
  · next hw =>
    refine ⟨pairwise_tput h.1, fun e he => ?_⟩
    rcases mem_tput he with rfl | he
    · exact hw
    · exact h.2 e he

theorem regsOk_filter {t : Tbl Word} (p : Nat × Word → Bool) (h : regsOk t = true) : regsOk (t.filter p) = true := by
  rw [regsOk_iff] at h ⊢
  exact ⟨h.1.filter _, fun e he => h.2 e (List.mem_of_mem_filter he)⟩

/-- A register reads back what was written to it. -/
@[simp] theorem getReg_setReg_same (a : Nat) (w : Word) (s : State) : getReg a (setReg a w s) = w := by
  simp only [getReg, setReg]
  split
  · next h => simp [tget_tdel_same, h]
  · simp [tget_tput_same]

/-- Writing one register leaves every other. -/
theorem getReg_setReg_other (a b : Nat) (w : Word) (s : State) (h : b ≠ a) : getReg b (setReg a w s) = getReg b s := by
  simp only [getReg, setReg]
  split
  · rw [tget_tdel_other h]
  · rw [tget_tput_other h]

/-- A register read after any register write. -/
theorem getReg_setReg (a b : Nat) (w : Word) (s : State) : getReg b (setReg a w s) = if b = a then w else getReg b s := by
  split
  · next h => subst h; simp
  · next h => exact getReg_setReg_other a b w s h

end Sys2Proof.Machine
end

