-- ==== Sys2Proof/Laws/Within.lean ====
section
/-!
SUPPORT. How frames compose: the relation `Within`, which adds to a frame that the register file keeps its canonical form, and
one lemma for each way in which an operation is built.
-/

set_option Elab.async false
namespace Sys2Proof.Machine

/-- A frame, with the register file's canonical form kept, nothing that has left the module taken back, and no free value drawn twice. -/
structure Within (ps : List Part) (rs : Option (List Nat)) (s t : State) : Prop extends Untouched ps rs s t where
  canon : regsOk s.regs = true → regsOk t.regs = true
  grow  : s.out <:+ t.out
  draws : s.free ≤ t.free

/-- One register list covers another. -/
def regsLe : Option (List Nat) → Option (List Nat) → Prop
  | _, none => True
  | none, some _ => False
  | some l, some m => ∀ a, a ∈ l → a ∈ m

namespace Within
variable {ps ps' : List Part} {rs rs' : Option (List Nat)} {s t u : State}

theorem refl : Within ps rs s s :=
  { pending := rfl, parts := fun p _ => by cases p <;> rfl, regs := fun _ _ _ _ => rfl, canon := id,
    grow := List.suffix_refl _, draws := Nat.le_refl _ }

theorem trans (h : Within ps rs s t) (k : Within ps rs t u) : Within ps rs s u :=
  { pending := k.pending.trans h.pending
    parts := fun p hp => by
      have a := h.parts p hp
      have b := k.parts p hp
      cases p <;> exact Eq.trans b a
    regs := fun l hl a ha => (k.regs l hl a ha).trans (h.regs l hl a ha)
    canon := fun c => k.canon (h.canon c)
    grow := h.grow.trans k.grow
    draws := Nat.le_trans h.draws k.draws }

theorem mono (h : Within ps' rs' s t) (hp : (ps'.all fun p => ps.contains p) = true) (hr : regsLe rs' rs) : Within ps rs s t :=
  { pending := h.pending
    parts := fun p hn => h.parts p (fun m => hn (by simpa using List.all_eq_true.1 hp p m))
    regs := fun l hl a ha => by
      subst hl
      cases rs' with
      | none => exact absurd hr (by simp [regsLe])
      | some m => exact h.regs m rfl a (fun x => ha (hr a x))
    canon := h.canon
    grow := h.grow
    draws := h.draws }

/-- An operation applied after what is already within. -/
theorem step (k : Within ps' rs' t u) (h : Within ps rs s t) (hp : (ps'.all fun p => ps.contains p) = true)
    (hr : regsLe rs' rs) : Within ps rs s u := h.trans (k.mono hp hr)

theorem after (k : Within ps rs t u) (h : Within ps rs s t) : Within ps rs s u := h.trans k

theorem cut (m : State) (h : Within ps rs s m) (k : Within ps rs s m → Within ps rs s t) : Within ps rs s t := k h

theorem ite {c : Prop} [Decidable c] (h : Within ps rs s t) (k : Within ps rs s u) : Within ps rs s (if c then t else u) := by
  split <;> assumption

theorem foldl {α : Type} {f : State → α → State} {l : List α} (hf : ∀ t x, Within ps rs s t → Within ps rs s (f t x))
    (h : Within ps rs s t) : Within ps rs s (l.foldl f t) := by
  induction l generalizing t with
  | nil => exact h
  | cons x l ih => exact ih (hf t x h)

/-- A state given by its fields (what a record update elaborates to). -/
def Fields (ps : List Part) (rs : Option (List Nat)) (s : State) (regs : Tbl Word) (cfg : CfgSt) (hif : HifSt) (pwr : PwrSt) (start : StartSt) (fco : FcoSt) (evr : EvrSt) (pmc : PmcSt) (dup : DupSt) (tim : TimSt) (kst : KstSt) (model : ModelSt) (rnd : RndSt) (chu : ChuSt) (sep : SepSt) (ctr : CtrSt) (disp : DispSt) (lpe : LpeSt) (tly : TlySt) (cyc : CycSt) (fio : FioSt) (upd : UpdSt) (out : List Out) (free : Nat) (pending : List Instr) : Prop :=
  Within ps rs s (State.mk regs cfg hif pwr start fco evr pmc dup tim kst model rnd chu sep ctr disp lpe tly cyc fio upd out free pending)

theorem of_mk {regs : Tbl Word} {cfg : CfgSt} {hif : HifSt} {pwr : PwrSt} {start : StartSt} {fco : FcoSt} {evr : EvrSt} {pmc : PmcSt} {dup : DupSt} {tim : TimSt} {kst : KstSt} {model : ModelSt} {rnd : RndSt} {chu : ChuSt} {sep : SepSt} {ctr : CtrSt} {disp : DispSt} {lpe : LpeSt} {tly : TlySt} {cyc : CycSt} {fio : FioSt} {upd : UpdSt} {out : List Out} {free : Nat} {pending : List Instr} :
    Within ps rs s (State.mk regs cfg hif pwr start fco evr pmc dup tim kst model rnd chu sep ctr disp lpe tly cyc fio upd out free pending) ↔ Fields ps rs s regs cfg hif pwr start fco evr pmc dup tim kst model rnd chu sep ctr disp lpe tly cyc fio upd out free pending := Iff.rfl

/-- A record update within the parts `ps` that leaves the registers. -/
theorem upd {regs : Tbl Word} {cfg : CfgSt} {hif : HifSt} {pwr : PwrSt} {start : StartSt} {fco : FcoSt} {evr : EvrSt} {pmc : PmcSt} {dup : DupSt} {tim : TimSt} {kst : KstSt} {model : ModelSt} {rnd : RndSt} {chu : ChuSt} {sep : SepSt} {ctr : CtrSt} {disp : DispSt} {lpe : LpeSt} {tly : TlySt} {cyc : CycSt} {fio : FioSt} {upd : UpdSt} {out : List Out} {free : Nat} {pending : List Instr} (hr : regs = t.regs) (h : Within ps rs s t)
    (h_cfg : (ps.contains Part.cfg = true) ∨ cfg = t.cfg := by first | exact Or.inl (by decide) | exact Or.inr rfl)
    (h_hif : (ps.contains Part.hif = true) ∨ hif = t.hif := by first | exact Or.inl (by decide) | exact Or.inr rfl)
    (h_pwr : (ps.contains Part.pwr = true) ∨ pwr = t.pwr := by first | exact Or.inl (by decide) | exact Or.inr rfl)
    (h_start : (ps.contains Part.start = true) ∨ start = t.start := by first | exact Or.inl (by decide) | exact Or.inr rfl)
    (h_fco : (ps.contains Part.fco = true) ∨ fco = t.fco := by first | exact Or.inl (by decide) | exact Or.inr rfl)
    (h_evr : (ps.contains Part.evr = true) ∨ evr = t.evr := by first | exact Or.inl (by decide) | exact Or.inr rfl)
    (h_pmc : (ps.contains Part.pmc = true) ∨ pmc = t.pmc := by first | exact Or.inl (by decide) | exact Or.inr rfl)
    (h_dup : (ps.contains Part.dup = true) ∨ dup = t.dup := by first | exact Or.inl (by decide) | exact Or.inr rfl)
    (h_tim : (ps.contains Part.tim = true) ∨ tim = t.tim := by first | exact Or.inl (by decide) | exact Or.inr rfl)
    (h_kst : (ps.contains Part.kst = true) ∨ kst = t.kst := by first | exact Or.inl (by decide) | exact Or.inr rfl)
    (h_model : (ps.contains Part.model = true) ∨ model = t.model := by first | exact Or.inl (by decide) | exact Or.inr rfl)
    (h_rnd : (ps.contains Part.rnd = true) ∨ rnd = t.rnd := by first | exact Or.inl (by decide) | exact Or.inr rfl)
    (h_chu : (ps.contains Part.chu = true) ∨ chu = t.chu := by first | exact Or.inl (by decide) | exact Or.inr rfl)
    (h_sep : (ps.contains Part.sep = true) ∨ sep = t.sep := by first | exact Or.inl (by decide) | exact Or.inr rfl)
    (h_ctr : (ps.contains Part.ctr = true) ∨ ctr = t.ctr := by first | exact Or.inl (by decide) | exact Or.inr rfl)
    (h_disp : (ps.contains Part.disp = true) ∨ disp = t.disp := by first | exact Or.inl (by decide) | exact Or.inr rfl)
    (h_lpe : (ps.contains Part.lpe = true) ∨ lpe = t.lpe := by first | exact Or.inl (by decide) | exact Or.inr rfl)
    (h_tly : (ps.contains Part.tly = true) ∨ tly = t.tly := by first | exact Or.inl (by decide) | exact Or.inr rfl)
    (h_cyc : (ps.contains Part.cyc = true) ∨ cyc = t.cyc := by first | exact Or.inl (by decide) | exact Or.inr rfl)
    (h_fio : (ps.contains Part.fio = true) ∨ fio = t.fio := by first | exact Or.inl (by decide) | exact Or.inr rfl)
    (h_upd : (ps.contains Part.upd = true) ∨ upd = t.upd := by first | exact Or.inl (by decide) | exact Or.inr rfl)
    (ho : out = t.out := by with_reducible rfl) (hf : free = t.free := by with_reducible rfl)
    (hq : pending = t.pending := by with_reducible rfl) :
    Fields ps rs s regs cfg hif pwr start fco evr pmc dup tim kst model rnd chu sep ctr disp lpe tly cyc fio upd out free pending := by
  subst hr hq ho hf
  refine h.trans ⟨⟨rfl, ?_, fun _ _ _ _ => rfl⟩, id, List.suffix_refl _, Nat.le_refl _⟩
  intro p hp
  have hc : ps.contains p = false := by simpa using hp
  cases p
  · exact h_cfg.resolve_left (by rw [hc]; exact Bool.false_ne_true)
  · exact h_hif.resolve_left (by rw [hc]; exact Bool.false_ne_true)
  · exact h_pwr.resolve_left (by rw [hc]; exact Bool.false_ne_true)
  · exact h_start.resolve_left (by rw [hc]; exact Bool.false_ne_true)
  · exact h_fco.resolve_left (by rw [hc]; exact Bool.false_ne_true)
  · exact h_evr.resolve_left (by rw [hc]; exact Bool.false_ne_true)
  · exact h_pmc.resolve_left (by rw [hc]; exact Bool.false_ne_true)
  · exact h_dup.resolve_left (by rw [hc]; exact Bool.false_ne_true)
  · exact h_tim.resolve_left (by rw [hc]; exact Bool.false_ne_true)
  · exact h_kst.resolve_left (by rw [hc]; exact Bool.false_ne_true)
  · exact h_model.resolve_left (by rw [hc]; exact Bool.false_ne_true)
  · exact h_rnd.resolve_left (by rw [hc]; exact Bool.false_ne_true)
  · exact h_chu.resolve_left (by rw [hc]; exact Bool.false_ne_true)
  · exact h_sep.resolve_left (by rw [hc]; exact Bool.false_ne_true)
  · exact h_ctr.resolve_left (by rw [hc]; exact Bool.false_ne_true)
  · exact h_disp.resolve_left (by rw [hc]; exact Bool.false_ne_true)
  · exact h_lpe.resolve_left (by rw [hc]; exact Bool.false_ne_true)
  · exact h_tly.resolve_left (by rw [hc]; exact Bool.false_ne_true)
  · exact h_cyc.resolve_left (by rw [hc]; exact Bool.false_ne_true)
  · exact h_fio.resolve_left (by rw [hc]; exact Bool.false_ne_true)
  · exact h_upd.resolve_left (by rw [hc]; exact Bool.false_ne_true)
  · rfl
  · rfl

end Within
end Sys2Proof.Machine
end

