-- ==== Sys2Proof/Laws/WithinOps.lean ====
section
/-!
SUPPORT. What each operation of Machine/Ops.lean may change at most.
-/
set_option linter.all false
set_option Elab.async false

namespace Sys2Proof.Machine

theorem setReg_within (a : Nat) (w : Word) (s : State) : Within [] (some [a]) s (setReg a w s) where
  pending := rfl
  parts := fun p _ => by cases p <;> rfl
  regs := fun l hl b hb => by
    obtain rfl := Option.some.inj hl
    exact getReg_setReg_other a b w s (by simpa using hb)
  canon := regsOk_setReg a w s
  grow := List.suffix_refl _
  draws := Nat.le_refl _

theorem setF_within (x1 : Nat) (hi : Nat) (lo : Nat) (v : Nat) (s : State) : Within [] (some [x1]) s (setF x1 hi lo v s) := by
  unfold setF
  repeat' first
    | with_reducible apply Within.refl
    | with_reducible assumption
    | (intro y; with_reducible refine Within.cut y ?_ ?_; (on_goal 2 => clear_value y; intro _); (on_goal 1 => subst y))
    | (intro y; clear_value y)
    | (intro y; subst y)
    | intro _
    | lift_lets -underBinder
    | ((with_reducible apply Within.step (setReg_within _ _ _)); (on_goal 2 => decide); (on_goal 2 => first | (simp [regsLe]; done) | (simp [regsLe, ringReg]; done)))
    | with_reducible apply Within.ite
    | with_reducible apply Within.foldl
    | split

theorem setB_within (x1 : Nat) (i : Nat) (b : Bool) (s : State) : Within [] (some [x1]) s (setB x1 i b s) := by
  unfold setB
  repeat' first
    | with_reducible apply Within.refl
    | with_reducible assumption
    | (intro y; with_reducible refine Within.cut y ?_ ?_; (on_goal 2 => clear_value y; intro _); (on_goal 1 => subst y))
    | (intro y; clear_value y)
    | (intro y; subst y)
    | intro _
    | lift_lets -underBinder
    | ((with_reducible apply Within.step (setReg_within _ _ _)); (on_goal 2 => decide); (on_goal 2 => first | (simp [regsLe]; done) | (simp [regsLe, ringReg]; done)))
    | with_reducible apply Within.ite
    | with_reducible apply Within.foldl
    | split

theorem incReg_within (x1 : Nat) (n : Nat) (s : State) : Within [] (some [x1]) s (incReg x1 n s) := by
  unfold incReg
  repeat' first
    | with_reducible apply Within.refl
    | with_reducible assumption
    | (intro y; with_reducible refine Within.cut y ?_ ?_; (on_goal 2 => clear_value y; intro _); (on_goal 1 => subst y))
    | (intro y; clear_value y)
    | (intro y; subst y)
    | intro _
    | lift_lets -underBinder
    | ((with_reducible apply Within.step (setReg_within _ _ _)); (on_goal 2 => decide); (on_goal 2 => first | (simp [regsLe]; done) | (simp [regsLe, ringReg]; done)))
    | with_reducible apply Within.ite
    | with_reducible apply Within.foldl
    | split

theorem setPair_within (x1 : Nat) (v : Nat) (s : State) : Within [] (some [x1 + 4, x1]) s (setPair x1 v s) := by
  unfold setPair
  repeat' first
    | with_reducible apply Within.refl
    | with_reducible assumption
    | (intro y; with_reducible refine Within.cut y ?_ ?_; (on_goal 2 => clear_value y; intro _); (on_goal 1 => subst y))
    | (intro y; clear_value y)
    | (intro y; subst y)
    | intro _
    | lift_lets -underBinder
    | ((with_reducible apply Within.step (setReg_within _ _ _)); (on_goal 2 => decide); (on_goal 2 => first | (simp [regsLe]; done) | (simp [regsLe, ringReg]; done)))
    | with_reducible apply Within.ite
    | with_reducible apply Within.foldl
    | split

theorem emit_within (o : Out) (s : State) : Within [.out] (some []) s (emit o s) where
  pending := rfl
  parts := fun p hp => by cases p <;> first | rfl | exact absurd (by decide) hp
  regs := fun _ _ _ _ => rfl
  canon := id
  grow := List.suffix_cons _ _
  draws := Nat.le_refl _

theorem draw_proj (s : State) : Within [.free] (some []) s (draw s).2 where
  pending := rfl
  parts := fun p hp => by cases p <;> first | rfl | exact absurd (by decide) hp
  regs := fun _ _ _ _ => rfl
  canon := id
  grow := List.suffix_refl _
  draws := Nat.le_succ _

theorem draw_eq {s t : State} {n : Nat} (h : draw s = (n, t)) : Within [.free] (some []) s t := by
  obtain rfl : (draw s).2 = t := congrArg Prod.snd h
  exact draw_proj s

theorem pmcAdd_within (event : Nat) (n : Nat) (s : State) : Within [.pmc] (some []) s (pmcAdd event n s) := by
  unfold pmcAdd
  repeat' first
    | with_reducible apply Within.refl
    | with_reducible assumption
    | (intro y; with_reducible refine Within.cut y ?_ ?_; (on_goal 2 => clear_value y; intro _); (on_goal 1 => subst y))
    | (intro y; clear_value y)
    | (intro y; subst y)
    | intro _
    | lift_lets -underBinder
    | (simp -zeta only [Within.of_mk]; with_reducible refine Within.upd rfl ?_)
    | with_reducible apply Within.ite
    | with_reducible apply Within.foldl
    | split

theorem bwAdd_within (p : Nat) (tx : Nat) (rx : Nat) (s : State) : Within [.pmc] (some []) s (bwAdd p tx rx s) := by
  unfold bwAdd
  repeat' first
    | with_reducible apply Within.refl
    | with_reducible assumption
    | (intro y; with_reducible refine Within.cut y ?_ ?_; (on_goal 2 => clear_value y; intro _); (on_goal 1 => subst y))
    | (intro y; clear_value y)
    | (intro y; subst y)
    | intro _
    | lift_lets -underBinder
    | (simp -zeta only [Within.of_mk]; with_reducible refine Within.upd rfl ?_)
    | with_reducible apply Within.ite
    | with_reducible apply Within.foldl
    | split

theorem putMsg_within (v : Nat) (s : State) : Within [.hif, .pmc, .out] (some []) s (putMsg v s) := by
  unfold putMsg
  repeat' first
    | with_reducible apply Within.refl
    | with_reducible assumption
    | (intro y; with_reducible refine Within.cut y ?_ ?_; (on_goal 2 => clear_value y; intro _); (on_goal 1 => subst y))
    | (intro y; clear_value y)
    | (intro y; subst y)
    | intro _
    | lift_lets -underBinder
    | ((with_reducible apply Within.step (emit_within _ _)); (on_goal 2 => decide); (on_goal 2 => simp [regsLe]))
    | ((with_reducible apply Within.step (pmcAdd_within _ _ _)); (on_goal 2 => decide); (on_goal 2 => simp [regsLe]))
    | (simp -zeta only [Within.of_mk]; with_reducible refine Within.upd rfl ?_)
    | with_reducible apply Within.ite
    | with_reducible apply Within.foldl
    | split

theorem sendMsg_within (v : Nat) (s : State) : Within [.hif, .pmc, .out] (some []) s (sendMsg v s) := by
  unfold sendMsg
  repeat' first
    | with_reducible apply Within.refl
    | with_reducible assumption
    | (intro y; with_reducible refine Within.cut y ?_ ?_; (on_goal 2 => clear_value y; intro _); (on_goal 1 => subst y))
    | (intro y; clear_value y)
    | (intro y; subst y)
    | intro _
    | lift_lets -underBinder
    | ((with_reducible apply Within.step (putMsg_within _ _)); (on_goal 2 => decide); (on_goal 2 => simp [regsLe]))
    | (simp -zeta only [Within.of_mk]; with_reducible refine Within.upd rfl ?_)
    | with_reducible apply Within.ite
    | with_reducible apply Within.foldl
    | split

theorem setCause_within (stat : Nat) (en : Nat) (bit : Nat) (vec : Nat) (s : State) : Within [.hif, .pmc, .out] (some [stat]) s (setCause stat en bit vec s) := by
  unfold setCause
  repeat' first
    | with_reducible apply Within.refl
    | with_reducible assumption
    | (intro y; with_reducible refine Within.cut y ?_ ?_; (on_goal 2 => clear_value y; intro _); (on_goal 1 => subst y))
    | (intro y; clear_value y)
    | (intro y; subst y)
    | intro _
    | lift_lets -underBinder
    | ((with_reducible apply Within.step (sendMsg_within _ _)); (on_goal 2 => decide); (on_goal 2 => simp [regsLe]))
    | ((with_reducible apply Within.step (setB_within _ _ _ _)); (on_goal 2 => decide); (on_goal 2 => first | (simp [regsLe]; done) | (simp [regsLe, ringReg]; done)))
    | (simp -zeta only [Within.of_mk]; with_reducible refine Within.upd rfl ?_)
    | with_reducible apply Within.ite
    | with_reducible apply Within.foldl
    | split

theorem putRing_within (pair : Nat) (r : Ring) (s : State) : Within [.hif] (some []) s (putRing pair r s) := by
  unfold putRing
  repeat' first
    | with_reducible apply Within.refl
    | with_reducible assumption
    | (intro y; with_reducible refine Within.cut y ?_ ?_; (on_goal 2 => clear_value y; intro _); (on_goal 1 => subst y))
    | (intro y; clear_value y)
    | (intro y; subst y)
    | intro _
    | lift_lets -underBinder
    | (simp -zeta only [Within.of_mk]; with_reducible refine Within.upd rfl ?_)
    | with_reducible apply Within.ite
    | with_reducible apply Within.foldl
    | split

theorem signalPair_within (pair : Nat) (s : State) : Within [.hif, .pmc, .out] (some []) s (signalPair pair s) := by
  unfold signalPair
  repeat' first
    | with_reducible apply Within.refl
    | with_reducible assumption
    | (intro y; with_reducible refine Within.cut y ?_ ?_; (on_goal 2 => clear_value y; intro _); (on_goal 1 => subst y))
    | (intro y; clear_value y)
    | (intro y; subst y)
    | intro _
    | lift_lets -underBinder
    | ((with_reducible apply Within.step (sendMsg_within _ _)); (on_goal 2 => decide); (on_goal 2 => simp [regsLe]))
    | ((with_reducible apply Within.step (putRing_within _ _ _)); (on_goal 2 => decide); (on_goal 2 => simp [regsLe]))
    | (simp -zeta only [Within.of_mk]; with_reducible refine Within.upd rfl ?_)
    | with_reducible apply Within.ite
    | with_reducible apply Within.foldl
    | split

theorem writeEntry_within (pair : Nat) (slot : Nat) (tag : Nat) (len : Nat) (status : Nat) (detail : Nat) (rx : Bool) (mon : Nat) (irq : Bool) (s : State) : Within [.hif, .pmc, .out] (some []) s (writeEntry pair slot tag len status detail rx mon irq s) := by
  unfold writeEntry
  repeat' first
    | with_reducible apply Within.refl
    | with_reducible assumption
    | (intro y; with_reducible refine Within.cut y ?_ ?_; (on_goal 2 => clear_value y; intro _); (on_goal 1 => subst y))
    | (intro y; clear_value y)
    | (intro y; subst y)
    | intro _
    | lift_lets -underBinder
    | ((with_reducible apply Within.step (signalPair_within _ _)); (on_goal 2 => decide); (on_goal 2 => simp [regsLe]))
    | ((with_reducible apply Within.step (bwAdd_within _ _ _ _)); (on_goal 2 => decide); (on_goal 2 => simp [regsLe]))
    | ((with_reducible apply Within.step (emit_within _ _)); (on_goal 2 => decide); (on_goal 2 => simp [regsLe]))
    | ((with_reducible apply Within.step (putRing_within _ _ _)); (on_goal 2 => decide); (on_goal 2 => simp [regsLe]))
    | ((with_reducible apply Within.step (pmcAdd_within _ _ _)); (on_goal 2 => decide); (on_goal 2 => simp [regsLe]))
    | (simp -zeta only [Within.of_mk]; with_reducible refine Within.upd rfl ?_)
    | with_reducible apply Within.ite
    | with_reducible apply Within.foldl
    | split

theorem hostWrite_within (pair : Nat) (addr : Nat) (b : Bytes) (s : State) : Within [.pmc, .out] (some []) s (hostWrite pair addr b s) := by
  unfold hostWrite
  repeat' first
    | with_reducible apply Within.refl
    | with_reducible assumption
    | (intro y; with_reducible refine Within.cut y ?_ ?_; (on_goal 2 => clear_value y; intro _); (on_goal 1 => subst y))
    | (intro y; clear_value y)
    | (intro y; subst y)
    | intro _
    | lift_lets -underBinder
    | ((with_reducible apply Within.step (emit_within _ _)); (on_goal 2 => decide); (on_goal 2 => simp [regsLe]))
    | ((with_reducible apply Within.step (pmcAdd_within _ _ _)); (on_goal 2 => decide); (on_goal 2 => simp [regsLe]))
    | ((with_reducible apply Within.step (bwAdd_within _ _ _ _)); (on_goal 2 => decide); (on_goal 2 => simp [regsLe]))
    | (simp -zeta only [Within.of_mk]; with_reducible refine Within.upd rfl ?_)
    | with_reducible apply Within.ite
    | with_reducible apply Within.foldl
    | split

theorem cmdEntry_within (pair : Nat) (c : Cmd) (d : Done) (s : State) : Within [.hif, .pmc, .out] (some []) s (cmdEntry pair c d s) := by
  unfold cmdEntry
  repeat' first
    | with_reducible apply Within.refl
    | with_reducible assumption
    | (intro y; with_reducible refine Within.cut y ?_ ?_; (on_goal 2 => clear_value y; intro _); (on_goal 1 => subst y))
    | (intro y; clear_value y)
    | (intro y; subst y)
    | intro _
    | lift_lets -underBinder
    | ((with_reducible apply Within.step (hostWrite_within _ _ _ _)); (on_goal 2 => decide); (on_goal 2 => simp [regsLe]))
    | ((with_reducible apply Within.step (writeEntry_within _ _ _ _ _ _ _ _ _ _)); (on_goal 2 => decide); (on_goal 2 => simp [regsLe]))
    | (simp -zeta only [Within.of_mk]; with_reducible refine Within.upd rfl ?_)
    | with_reducible apply Within.ite
    | with_reducible apply Within.foldl
    | split

theorem flushCmds_within (pair : Nat) (x2 : List Cmd) (x3 : State) : Within [.hif, .pmc, .out] (some []) x3 (flushCmds pair x2 x3) := by
  fun_induction flushCmds pair x2 x3
  all_goals
    repeat' first
      | with_reducible apply Within.refl
      | with_reducible assumption
      | (intro y; with_reducible refine Within.cut y ?_ ?_; (on_goal 2 => clear_value y; intro _); (on_goal 1 => subst y))
      | (intro y; clear_value y)
      | (intro y; subst y)
      | intro _
      | lift_lets -underBinder
      | ((with_reducible apply Within.step (cmdEntry_within _ _ _ _)); (on_goal 2 => decide); (on_goal 2 => simp [regsLe]))
      | ((with_reducible apply Within.step (putRing_within _ _ _)); (on_goal 2 => decide); (on_goal 2 => simp [regsLe]))
      | (simp -zeta only [Within.of_mk]; with_reducible refine Within.upd rfl ?_)
      | with_reducible apply Within.ite
      | with_reducible apply Within.foldl
      | ((with_reducible apply Within.after); with_reducible assumption)
      | split

theorem flushBufs_within (pair : Nat) (x2 : List (Buf × Nat)) (x3 : State) : Within [.hif, .pmc, .out] (some []) x3 (flushBufs pair x2 x3) := by
  fun_induction flushBufs pair x2 x3
  all_goals
    repeat' first
      | with_reducible apply Within.refl
      | with_reducible assumption
      | (intro y; with_reducible refine Within.cut y ?_ ?_; (on_goal 2 => clear_value y; intro _); (on_goal 1 => subst y))
      | (intro y; clear_value y)
      | (intro y; subst y)
      | intro _
      | lift_lets -underBinder
      | ((with_reducible apply Within.step (writeEntry_within _ _ _ _ _ _ _ _ _ _)); (on_goal 2 => decide); (on_goal 2 => simp [regsLe]))
      | ((with_reducible apply Within.step (putRing_within _ _ _)); (on_goal 2 => decide); (on_goal 2 => simp [regsLe]))
      | (simp -zeta only [Within.of_mk]; with_reducible refine Within.upd rfl ?_)
      | with_reducible apply Within.ite
      | with_reducible apply Within.foldl
      | ((with_reducible apply Within.after); with_reducible assumption)
      | split

theorem endBufs_within (pair : Nat) (st : Nat) (s : State) : Within [.hif] (some []) s (endBufs pair st s) := by
  unfold endBufs
  repeat' first
    | with_reducible apply Within.refl
    | with_reducible assumption
    | (intro y; with_reducible refine Within.cut y ?_ ?_; (on_goal 2 => clear_value y; intro _); (on_goal 1 => subst y))
    | (intro y; clear_value y)
    | (intro y; subst y)
    | intro _
    | lift_lets -underBinder
    | ((with_reducible apply Within.step (putRing_within _ _ _)); (on_goal 2 => decide); (on_goal 2 => simp [regsLe]))
    | (simp -zeta only [Within.of_mk]; with_reducible refine Within.upd rfl ?_)
    | with_reducible apply Within.ite
    | with_reducible apply Within.foldl
    | split

theorem flushRing_within (pair : Nat) (s : State) : Within [.hif, .pmc, .out] (some []) s (flushRing pair s) := by
  unfold flushRing
  repeat' first
    | with_reducible apply Within.refl
    | with_reducible assumption
    | (intro y; with_reducible refine Within.cut y ?_ ?_; (on_goal 2 => clear_value y; intro _); (on_goal 1 => subst y))
    | (intro y; clear_value y)
    | (intro y; subst y)
    | intro _
    | lift_lets -underBinder
    | ((with_reducible apply Within.step (putRing_within _ _ _)); (on_goal 2 => decide); (on_goal 2 => simp [regsLe]))
    | ((with_reducible apply Within.step (flushBufs_within _ _ _)); (on_goal 2 => decide); (on_goal 2 => simp [regsLe]))
    | ((with_reducible apply Within.step (endBufs_within _ _ _)); (on_goal 2 => decide); (on_goal 2 => simp [regsLe]))
    | ((with_reducible apply Within.step (flushCmds_within _ _ _)); (on_goal 2 => decide); (on_goal 2 => simp [regsLe]))
    | (simp -zeta only [Within.of_mk]; with_reducible refine Within.upd rfl ?_)
    | with_reducible apply Within.ite
    | with_reducible apply Within.foldl
    | split

theorem complete_within (r : Req) (status : Nat) (detail : Nat) (len : Nat) (b : Bytes) (s : State) : Within [.hif, .pmc, .out] (some []) s (complete r status detail len b s) := by
  unfold complete
  repeat' first
    | with_reducible apply Within.refl
    | with_reducible assumption
    | (intro y; with_reducible refine Within.cut y ?_ ?_; (on_goal 2 => clear_value y; intro _); (on_goal 1 => subst y))
    | (intro y; clear_value y)
    | (intro y; subst y)
    | intro _
    | lift_lets -underBinder
    | ((with_reducible apply Within.step (putRing_within _ _ _)); (on_goal 2 => decide); (on_goal 2 => simp [regsLe]))
    | ((with_reducible apply Within.step (flushRing_within _ _)); (on_goal 2 => decide); (on_goal 2 => simp [regsLe]))
    | ((with_reducible apply Within.step (emit_within _ _)); (on_goal 2 => decide); (on_goal 2 => simp [regsLe]))
    | (simp -zeta only [Within.of_mk]; with_reducible refine Within.upd rfl ?_)
    | with_reducible apply Within.ite
    | with_reducible apply Within.foldl
    | split

theorem finish_within (r : Req) (status : Nat) (detail : Nat) (s : State) : Within [.hif, .pmc, .out] (some []) s (finish r status detail s) := by
  unfold finish
  repeat' first
    | with_reducible apply Within.refl
    | with_reducible assumption
    | (intro y; with_reducible refine Within.cut y ?_ ?_; (on_goal 2 => clear_value y; intro _); (on_goal 1 => subst y))
    | (intro y; clear_value y)
    | (intro y; subst y)
    | intro _
    | lift_lets -underBinder
    | ((with_reducible apply Within.step (complete_within _ _ _ _ _ _)); (on_goal 2 => decide); (on_goal 2 => simp [regsLe]))
    | (simp -zeta only [Within.of_mk]; with_reducible refine Within.upd rfl ?_)
    | with_reducible apply Within.ite
    | with_reducible apply Within.foldl
    | split

theorem output_within (r : Req) (len : Nat) (b : Bytes) (s : State) : Within [.hif, .pmc, .out] (some []) s (output r len b s) := by
  unfold output
  repeat' first
    | with_reducible apply Within.refl
    | with_reducible assumption
    | (intro y; with_reducible refine Within.cut y ?_ ?_; (on_goal 2 => clear_value y; intro _); (on_goal 1 => subst y))
    | (intro y; clear_value y)
    | (intro y; subst y)
    | intro _
    | lift_lets -underBinder
    | ((with_reducible apply Within.step (complete_within _ _ _ _ _ _)); (on_goal 2 => decide); (on_goal 2 => simp [regsLe]))
    | (simp -zeta only [Within.of_mk]; with_reducible refine Within.upd rfl ?_)
    | with_reducible apply Within.ite
    | with_reducible apply Within.foldl
    | split

theorem withOp_within {ps : List Part} {rs : Option (List Nat)} {s u : State} {r : Req} {ops : List Nat} {buf : Option Bytes}
    {f : Desc → Bytes → State → State} (hp : ([Part.hif, .pmc, .out].all fun p => ps.contains p) = true) (hr : regsLe (some []) rs)
    (hf : ∀ d b t, Within ps rs s t → Within ps rs s (f d b t)) (h : Within ps rs s u) : Within ps rs s (withOp r ops buf f u) := by
  have sub : ∀ qs : List Part, (qs.all fun p => [Part.hif, .pmc, .out].contains p) = true → (qs.all fun p => ps.contains p) = true := by
    intro qs hq
    rw [List.all_eq_true] at hp hq ⊢
    intro p m
    have := hq p m
    simp only [List.contains_eq_mem, List.mem_cons, List.not_mem_nil, or_false, decide_eq_true_eq] at this
    obtain rfl | rfl | rfl := this <;> exact hp _ (by simp)
  unfold withOp
  split
  · exact h
  · refine Within.ite h (Within.ite ?_ ?_)
    · exact Within.step (finish_within _ _ _ _) h (sub _ (by decide)) hr
    · refine hf _ _ _ (Within.ite h ?_)
      exact Within.step (bwAdd_within _ _ _ _) (Within.step (pmcAdd_within _ _ _) h (sub _ (by decide)) hr) (sub _ (by decide)) hr

theorem inlineOp_within {ps : List Part} {rs : Option (List Nat)} {s u : State} {r : Req} {op len : Nat}
    {f : Bytes → State → State} (hp : ([Part.hif, .pmc, .out].all fun p => ps.contains p) = true) (hr : regsLe (some []) rs)
    (hf : ∀ b t, Within ps rs s t → Within ps rs s (f b t)) (h : Within ps rs s u) : Within ps rs s (inlineOp r op len f u) := by
  unfold inlineOp
  refine withOp_within hp hr (fun d b t k => ?_) h
  split
  · exact Within.step (finish_within _ _ _ _) k hp hr
  · exact hf b t k

theorem ovfCheck_within (pair : Nat) (s : State) : Within [.hif, .pmc, .out] (some []) s (ovfCheck pair s) := by
  unfold ovfCheck
  repeat' first
    | with_reducible apply Within.refl
    | with_reducible assumption
    | (intro y; with_reducible refine Within.cut y ?_ ?_; (on_goal 2 => clear_value y; intro _); (on_goal 1 => subst y))
    | (intro y; clear_value y)
    | (intro y; subst y)
    | intro _
    | lift_lets -underBinder
    | ((with_reducible apply Within.step (writeEntry_within _ _ _ _ _ _ _ _ _ _)); (on_goal 2 => decide); (on_goal 2 => simp [regsLe]))
    | ((with_reducible apply Within.step (pmcAdd_within _ _ _)); (on_goal 2 => decide); (on_goal 2 => simp [regsLe]))
    | ((with_reducible apply Within.step (putRing_within _ _ _)); (on_goal 2 => decide); (on_goal 2 => simp [regsLe]))
    | (simp -zeta only [Within.of_mk]; with_reducible refine Within.upd rfl ?_)
    | with_reducible apply Within.ite
    | with_reducible apply Within.foldl
    | split

theorem fillBuf_within (pair : Nat) (irq : Bool) (st : Nat) (dt : Nat) (mon : Nat) (b : Bytes) (s : State) : Within [.hif, .pmc, .out] (some []) s (fillBuf pair irq st dt mon b s) := by
  unfold fillBuf
  repeat' first
    | with_reducible apply Within.refl
    | with_reducible assumption
    | (intro y; with_reducible refine Within.cut y ?_ ?_; (on_goal 2 => clear_value y; intro _); (on_goal 1 => subst y))
    | (intro y; clear_value y)
    | (intro y; subst y)
    | intro _
    | lift_lets -underBinder
    | ((with_reducible apply Within.step (writeEntry_within _ _ _ _ _ _ _ _ _ _)); (on_goal 2 => decide); (on_goal 2 => simp [regsLe]))
    | ((with_reducible apply Within.step (hostWrite_within _ _ _ _)); (on_goal 2 => decide); (on_goal 2 => simp [regsLe]))
    | ((with_reducible apply Within.step (putRing_within _ _ _)); (on_goal 2 => decide); (on_goal 2 => simp [regsLe]))
    | (simp -zeta only [Within.of_mk]; with_reducible refine Within.upd rfl ?_)
    | with_reducible apply Within.ite
    | with_reducible apply Within.foldl
    | split

theorem failBuf_within (pair : Nat) (s : State) : Within [.hif, .pmc, .out] (some []) s (failBuf pair s) := by
  unfold failBuf
  repeat' first
    | with_reducible apply Within.refl
    | with_reducible assumption
    | (intro y; with_reducible refine Within.cut y ?_ ?_; (on_goal 2 => clear_value y; intro _); (on_goal 1 => subst y))
    | (intro y; clear_value y)
    | (intro y; subst y)
    | intro _
    | lift_lets -underBinder
    | ((with_reducible apply Within.step (putRing_within _ _ _)); (on_goal 2 => decide); (on_goal 2 => simp [regsLe]))
    | ((with_reducible apply Within.step (writeEntry_within _ _ _ _ _ _ _ _ _ _)); (on_goal 2 => decide); (on_goal 2 => simp [regsLe]))
    | (simp -zeta only [Within.of_mk]; with_reducible refine Within.upd rfl ?_)
    | with_reducible apply Within.ite
    | with_reducible apply Within.foldl
    | split

theorem loseItem_within (pair : Nat) (s : State) : Within [.hif, .pmc] (some [ringReg pair 28]) s (loseItem pair s) := by
  unfold loseItem
  repeat' first
    | with_reducible apply Within.refl
    | with_reducible assumption
    | (intro y; with_reducible refine Within.cut y ?_ ?_; (on_goal 2 => clear_value y; intro _); (on_goal 1 => subst y))
    | (intro y; clear_value y)
    | (intro y; subst y)
    | intro _
    | lift_lets -underBinder
    | ((with_reducible apply Within.step (putRing_within _ _ _)); (on_goal 2 => decide); (on_goal 2 => simp [regsLe]))
    | ((with_reducible apply Within.step (incReg_within _ _ _)); (on_goal 2 => decide); (on_goal 2 => first | (simp [regsLe]; done) | (simp [regsLe, ringReg]; done)))
    | ((with_reducible apply Within.step (pmcAdd_within _ _ _)); (on_goal 2 => decide); (on_goal 2 => simp [regsLe]))
    | (simp -zeta only [Within.of_mk]; with_reducible refine Within.upd rfl ?_)
    | with_reducible apply Within.ite
    | with_reducible apply Within.foldl
    | split

theorem deliverWith_within (pair : Nat) (st : Nat) (dt : Nat) (b : Bytes) (s : State) : Within [.hif, .pmc, .out] (some [ringReg pair 28]) s (deliverWith pair st dt b s) := by
  unfold deliverWith
  repeat' first
    | with_reducible apply Within.refl
    | with_reducible assumption
    | (intro y; with_reducible refine Within.cut y ?_ ?_; (on_goal 2 => clear_value y; intro _); (on_goal 1 => subst y))
    | (intro y; clear_value y)
    | (intro y; subst y)
    | intro _
    | lift_lets -underBinder
    | ((with_reducible apply Within.step (fillBuf_within _ _ _ _ _ _ _)); (on_goal 2 => decide); (on_goal 2 => simp [regsLe]))
    | ((with_reducible apply Within.step (failBuf_within _ _)); (on_goal 2 => decide); (on_goal 2 => simp [regsLe]))
    | ((with_reducible apply Within.step (loseItem_within _ _)); (on_goal 2 => decide); (on_goal 2 => first | (simp [regsLe]; done) | (simp [regsLe, ringReg]; done)))
    | ((with_reducible apply Within.step (ovfCheck_within _ _)); (on_goal 2 => decide); (on_goal 2 => simp [regsLe]))
    | (simp -zeta only [Within.of_mk]; with_reducible refine Within.upd rfl ?_)
    | with_reducible apply Within.ite
    | with_reducible apply Within.foldl
    | split

theorem deliver_within (pair : Nat) (b : Bytes) (s : State) : Within [.hif, .pmc, .out] (some [ringReg pair 28]) s (deliver pair b s) := by
  unfold deliver
  repeat' first
    | with_reducible apply Within.refl
    | with_reducible assumption
    | (intro y; with_reducible refine Within.cut y ?_ ?_; (on_goal 2 => clear_value y; intro _); (on_goal 1 => subst y))
    | (intro y; clear_value y)
    | (intro y; subst y)
    | intro _
    | lift_lets -underBinder
    | ((with_reducible apply Within.step (deliverWith_within _ _ _ _ _)); (on_goal 2 => decide); (on_goal 2 => first | (simp [regsLe]; done) | (simp [regsLe, ringReg]; done)))
    | (simp -zeta only [Within.of_mk]; with_reducible refine Within.upd rfl ?_)
    | with_reducible apply Within.ite
    | with_reducible apply Within.foldl
    | split

theorem itemGone_within (pair : Nat) (key : Nat) (s : State) : Within [.hif, .evr] (some []) s (itemGone pair key s) := by
  unfold itemGone
  repeat' first
    | with_reducible apply Within.refl
    | with_reducible assumption
    | (intro y; with_reducible refine Within.cut y ?_ ?_; (on_goal 2 => clear_value y; intro _); (on_goal 1 => subst y))
    | (intro y; clear_value y)
    | (intro y; subst y)
    | intro _
    | lift_lets -underBinder
    | (simp -zeta only [Within.of_mk]; with_reducible refine Within.upd rfl ?_)
    | with_reducible apply Within.ite
    | with_reducible apply Within.foldl
    | split

theorem failBufs_within (pair : Nat) (b : Bytes) (x3 : List Buf) (x4 : State) : Within [.hif, .pmc, .out] (some []) x4 (failBufs pair b x3 x4) := by
  fun_induction failBufs pair b x3 x4
  all_goals
    repeat' first
      | with_reducible apply Within.refl
      | with_reducible assumption
      | (intro y; with_reducible refine Within.cut y ?_ ?_; (on_goal 2 => clear_value y; intro _); (on_goal 1 => subst y))
      | (intro y; clear_value y)
      | (intro y; subst y)
      | intro _
      | lift_lets -underBinder
      | ((with_reducible apply Within.step (failBuf_within _ _)); (on_goal 2 => decide); (on_goal 2 => simp [regsLe]))
      | (simp -zeta only [Within.of_mk]; with_reducible refine Within.upd rfl ?_)
      | with_reducible apply Within.ite
      | with_reducible apply Within.foldl
      | ((with_reducible apply Within.after); with_reducible assumption)
      | split

theorem drainItems_within (pair : Nat) (x2 : List Item) (x3 : State) : Within [.hif, .evr, .pmc, .out] (some []) x3 (drainItems pair x2 x3) := by
  fun_induction drainItems pair x2 x3
  all_goals
    repeat' first
      | with_reducible apply Within.refl
      | with_reducible assumption
      | (intro y; with_reducible refine Within.cut y ?_ ?_; (on_goal 2 => clear_value y; intro _); (on_goal 1 => subst y))
      | (intro y; clear_value y)
      | (intro y; subst y)
      | intro _
      | lift_lets -underBinder
      | ((with_reducible apply Within.step (fillBuf_within _ _ _ _ _ _ _)); (on_goal 2 => decide); (on_goal 2 => simp [regsLe]))
      | ((with_reducible apply Within.step (itemGone_within _ _ _)); (on_goal 2 => decide); (on_goal 2 => simp [regsLe]))
      | ((with_reducible apply Within.step (failBufs_within _ _ _ _)); (on_goal 2 => decide); (on_goal 2 => simp [regsLe]))
      | ((with_reducible apply Within.step (putRing_within _ _ _)); (on_goal 2 => decide); (on_goal 2 => simp [regsLe]))
      | (simp -zeta only [Within.of_mk]; with_reducible refine Within.upd rfl ?_)
      | with_reducible apply Within.ite
      | with_reducible apply Within.foldl
      | ((with_reducible apply Within.after); with_reducible assumption)
      | split

theorem deferWith_within (pair : Nat) (key : Nat) (irq : Bool) (st : Nat) (b : Bytes) (s : State) : Within [.hif, .evr, .pmc, .out] (some []) s (deferWith pair key irq st b s) := by
  unfold deferWith
  repeat' first
    | with_reducible apply Within.refl
    | with_reducible assumption
    | (intro y; with_reducible refine Within.cut y ?_ ?_; (on_goal 2 => clear_value y; intro _); (on_goal 1 => subst y))
    | (intro y; clear_value y)
    | (intro y; subst y)
    | intro _
    | lift_lets -underBinder
    | ((with_reducible apply Within.step (drainItems_within _ _ _)); (on_goal 2 => decide); (on_goal 2 => simp [regsLe]))
    | (simp -zeta only [Within.of_mk]; with_reducible refine Within.upd rfl ?_)
    | with_reducible apply Within.ite
    | with_reducible apply Within.foldl
    | split

theorem defer_within (pair : Nat) (key : Nat) (irq : Bool) (b : Bytes) (s : State) : Within [.hif, .evr, .pmc, .out] (some []) s (defer pair key irq b s) := by
  unfold defer
  repeat' first
    | with_reducible apply Within.refl
    | with_reducible assumption
    | (intro y; with_reducible refine Within.cut y ?_ ?_; (on_goal 2 => clear_value y; intro _); (on_goal 1 => subst y))
    | (intro y; clear_value y)
    | (intro y; subst y)
    | intro _
    | lift_lets -underBinder
    | ((with_reducible apply Within.step (deferWith_within _ _ _ _ _ _)); (on_goal 2 => decide); (on_goal 2 => simp [regsLe]))
    | (simp -zeta only [Within.of_mk]; with_reducible refine Within.upd rfl ?_)
    | with_reducible apply Within.ite
    | with_reducible apply Within.foldl
    | split

theorem pumpRing_within (pair : Nat) (s : State) : Within [.hif, .evr, .pmc, .out] (some []) s (pumpRing pair s) := by
  unfold pumpRing
  repeat' first
    | with_reducible apply Within.refl
    | with_reducible assumption
    | (intro y; with_reducible refine Within.cut y ?_ ?_; (on_goal 2 => clear_value y; intro _); (on_goal 1 => subst y))
    | (intro y; clear_value y)
    | (intro y; subst y)
    | intro _
    | lift_lets -underBinder
    | ((with_reducible apply Within.step (drainItems_within _ _ _)); (on_goal 2 => decide); (on_goal 2 => simp [regsLe]))
    | ((with_reducible apply Within.step (flushRing_within _ _)); (on_goal 2 => decide); (on_goal 2 => simp [regsLe]))
    | ((with_reducible apply Within.step (ovfCheck_within _ _)); (on_goal 2 => decide); (on_goal 2 => simp [regsLe]))
    | (simp -zeta only [Within.of_mk]; with_reducible refine Within.upd rfl ?_)
    | with_reducible apply Within.ite
    | with_reducible apply Within.foldl
    | split

theorem fillCheck_within (s : State) : Within [.hif, .evr, .pmc, .out] (some [0x0A010]) s (fillCheck s) := by
  unfold fillCheck
  repeat' first
    | with_reducible apply Within.refl
    | with_reducible assumption
    | (intro y; with_reducible refine Within.cut y ?_ ?_; (on_goal 2 => clear_value y; intro _); (on_goal 1 => subst y))
    | (intro y; clear_value y)
    | (intro y; subst y)
    | intro _
    | lift_lets -underBinder
    | ((with_reducible apply Within.step (setCause_within _ _ _ _ _)); (on_goal 2 => decide); (on_goal 2 => first | (simp [regsLe]; done) | (simp [regsLe, ringReg]; done)))
    | (simp -zeta only [Within.of_mk]; with_reducible refine Within.upd rfl ?_)
    | with_reducible apply Within.ite
    | with_reducible apply Within.foldl
    | split

theorem logRec_within (s : State) (e : Evt) : Within [.hif, .evr, .pmc, .out] (some [0x0A030, 0x0A010]) s (logRec s e) := by
  unfold logRec
  repeat' first
    | with_reducible apply Within.refl
    | with_reducible assumption
    | (intro y; with_reducible refine Within.cut y ?_ ?_; (on_goal 2 => clear_value y; intro _); (on_goal 1 => subst y))
    | (intro y; clear_value y)
    | (intro y; subst y)
    | intro _
    | lift_lets -underBinder
    | ((with_reducible apply Within.step (defer_within _ _ _ _ _)); (on_goal 2 => decide); (on_goal 2 => simp [regsLe]))
    | ((with_reducible apply Within.step (putRing_within _ _ _)); (on_goal 2 => decide); (on_goal 2 => simp [regsLe]))
    | ((with_reducible apply Within.step (incReg_within _ _ _)); (on_goal 2 => decide); (on_goal 2 => first | (simp [regsLe]; done) | (simp [regsLe, ringReg]; done)))
    | ((with_reducible apply Within.step (setCause_within _ _ _ _ _)); (on_goal 2 => decide); (on_goal 2 => first | (simp [regsLe]; done) | (simp [regsLe, ringReg]; done)))
    | (simp -zeta only [Within.of_mk]; with_reducible refine Within.upd rfl ?_)
    | with_reducible apply Within.ite
    | with_reducible apply Within.foldl
    | split

theorem keepRec_within (code : Nat) (flags : Nat) (arg : Nat) (suppr : Nat) (s : State) : Within [.hif, .evr, .pmc, .out] (some [0x0A010, 0x0A030]) s (keepRec code flags arg suppr s) := by
  unfold keepRec
  repeat' first
    | with_reducible apply Within.refl
    | with_reducible assumption
    | (intro y; with_reducible refine Within.cut y ?_ ?_; (on_goal 2 => clear_value y; intro _); (on_goal 1 => subst y))
    | (intro y; clear_value y)
    | (intro y; subst y)
    | intro _
    | lift_lets -underBinder
    | ((with_reducible apply Within.step (pmcAdd_within _ _ _)); (on_goal 2 => decide); (on_goal 2 => simp [regsLe]))
    | ((with_reducible apply Within.step (incReg_within _ _ _)); (on_goal 2 => decide); (on_goal 2 => first | (simp [regsLe]; done) | (simp [regsLe, ringReg]; done)))
    | ((with_reducible apply Within.step (setCause_within _ _ _ _ _)); (on_goal 2 => decide); (on_goal 2 => first | (simp [regsLe]; done) | (simp [regsLe, ringReg]; done)))
    | (simp -zeta only [Within.of_mk]; with_reducible refine Within.upd rfl ?_)
    | with_reducible apply Within.ite
    | with_reducible apply Within.foldl
    | split

theorem evrFlush_within (s : State) : Within [.hif, .evr, .pmc, .out] (some [0x0A010, 0x0A030]) s (evrFlush s) := by
  unfold evrFlush
  repeat' first
    | with_reducible apply Within.refl
    | with_reducible assumption
    | (intro y; with_reducible refine Within.cut y ?_ ?_; (on_goal 2 => clear_value y; intro _); (on_goal 1 => subst y))
    | (intro y; clear_value y)
    | (intro y; subst y)
    | intro _
    | lift_lets -underBinder
    | ((with_reducible apply Within.step (keepRec_within _ _ _ _ _)); (on_goal 2 => decide); (on_goal 2 => first | (simp [regsLe]; done) | (simp [regsLe, ringReg]; done)))
    | ((with_reducible apply Within.step (logRec_within _ _)); (on_goal 2 => decide); (on_goal 2 => first | (simp [regsLe]; done) | (simp [regsLe, ringReg]; done)))
    | ((with_reducible apply Within.step (fillCheck_within _)); (on_goal 2 => decide); (on_goal 2 => first | (simp [regsLe]; done) | (simp [regsLe, ringReg]; done)))
    | (simp -zeta only [Within.of_mk]; with_reducible refine Within.upd rfl ?_)
    | with_reducible apply Within.ite
    | with_reducible apply Within.foldl
    | split

theorem record_within (code : Nat) (flags : Nat) (arg : Nat) (s : State) : Within [.hif, .evr, .pmc, .out] (some [0x0A034, 0x0A010, 0x0A030]) s (record code flags arg s) := by
  unfold record
  repeat' first
    | with_reducible apply Within.refl
    | with_reducible assumption
    | (intro y; with_reducible refine Within.cut y ?_ ?_; (on_goal 2 => clear_value y; intro _); (on_goal 1 => subst y))
    | (intro y; clear_value y)
    | (intro y; subst y)
    | intro _
    | lift_lets -underBinder
    | ((with_reducible apply Within.step (evrFlush_within _)); (on_goal 2 => decide); (on_goal 2 => first | (simp [regsLe]; done) | (simp [regsLe, ringReg]; done)))
    | ((with_reducible apply Within.step (keepRec_within _ _ _ _ _)); (on_goal 2 => decide); (on_goal 2 => first | (simp [regsLe]; done) | (simp [regsLe, ringReg]; done)))
    | ((with_reducible apply Within.step (incReg_within _ _ _)); (on_goal 2 => decide); (on_goal 2 => first | (simp [regsLe]; done) | (simp [regsLe, ringReg]; done)))
    | ((with_reducible apply Within.step (pmcAdd_within _ _ _)); (on_goal 2 => decide); (on_goal 2 => simp [regsLe]))
    | (simp -zeta only [Within.of_mk]; with_reducible refine Within.upd rfl ?_)
    | with_reducible apply Within.ite
    | with_reducible apply Within.foldl
    | split

theorem evt_within (g : Nat) (kind : Nat) (arg : Nat) (s : State) : Within [.hif, .evr, .pmc, .out] (some [0x0A034, 0x0A010, 0x0A030]) s (evt g kind arg s) := by
  unfold evt
  repeat' first
    | with_reducible apply Within.refl
    | with_reducible assumption
    | (intro y; with_reducible refine Within.cut y ?_ ?_; (on_goal 2 => clear_value y; intro _); (on_goal 1 => subst y))
    | (intro y; clear_value y)
    | (intro y; subst y)
    | intro _
    | lift_lets -underBinder
    | ((with_reducible apply Within.step (record_within _ _ _ _)); (on_goal 2 => decide); (on_goal 2 => first | (simp [regsLe]; done) | (simp [regsLe, ringReg]; done)))
    | (simp -zeta only [Within.of_mk]; with_reducible refine Within.upd rfl ?_)
    | with_reducible apply Within.ite
    | with_reducible apply Within.foldl
    | split

theorem writeIgnored_within (x1 : Nat) (v : Word) (s : State) : Within [.hif, .evr, .pmc, .out] (some [0x0A034, 0x0A010, 0x0A030]) s (writeIgnored x1 v s) := by
  unfold writeIgnored
  repeat' first
    | with_reducible apply Within.refl
    | with_reducible assumption
    | (intro y; with_reducible refine Within.cut y ?_ ?_; (on_goal 2 => clear_value y; intro _); (on_goal 1 => subst y))
    | (intro y; clear_value y)
    | (intro y; subst y)
    | intro _
    | lift_lets -underBinder
    | ((with_reducible apply Within.step (evt_within _ _ _ _)); (on_goal 2 => decide); (on_goal 2 => first | (simp [regsLe]; done) | (simp [regsLe, ringReg]; done)))
    | (simp -zeta only [Within.of_mk]; with_reducible refine Within.upd rfl ?_)
    | with_reducible apply Within.ite
    | with_reducible apply Within.foldl
    | split

end Sys2Proof.Machine
end

