-- ==== Sys2Proof/Laws/WithinStore.lean ====
section
/-!
SUPPORT. What each operation of Machine/Store.lean may change at most.
-/
set_option linter.all false
set_option Elab.async false

namespace Sys2Proof.Machine

theorem purgeStore_within (s : State) : Within [.tly] (some []) s (purgeStore s) := by
  unfold purgeStore
  repeat' first
    | with_reducible apply Within.refl
    | with_reducible assumption
    | (intro y; with_reducible refine Within.cut y ?_ ?_; (on_goal 2 => clear_value y; intro _); (on_goal 1 => subst y))
    | (intro y; clear_value y)
    | (intro y; subst y)
    | intro _
    | lift_lets -underBinder
    | (simp -zeta only [Within.of_mk]; with_reducible refine Within.upd rfl ?_)
    | with_reducible apply Within.ite
    | with_reducible apply Within.foldl
    | split

theorem pumpStream_within (pair : Nat) (s : State) : Within [.hif, .evr, .pmc, .tly, .out] (some []) s (pumpStream pair s) := by
  unfold pumpStream
  repeat' first
    | with_reducible apply Within.refl
    | with_reducible assumption
    | (intro y; with_reducible refine Within.cut y ?_ ?_; (on_goal 2 => clear_value y; intro _); (on_goal 1 => subst y))
    | (intro y; clear_value y)
    | (intro y; subst y)
    | intro _
    | lift_lets -underBinder
    | ((with_reducible apply Within.step (deferWith_within _ _ _ _ _ _)); (on_goal 2 => decide); (on_goal 2 => simp [regsLe]))
    | (simp -zeta only [Within.of_mk]; with_reducible refine Within.upd rfl ?_)
    | with_reducible apply Within.ite
    | with_reducible apply Within.foldl
    | split

theorem pumpStreams_within (s : State) : Within [.hif, .evr, .pmc, .tly, .out] (some []) s (pumpStreams s) := by
  unfold pumpStreams
  repeat' first
    | with_reducible apply Within.refl
    | with_reducible assumption
    | (intro y; with_reducible refine Within.cut y ?_ ?_; (on_goal 2 => clear_value y; intro _); (on_goal 1 => subst y))
    | (intro y; clear_value y)
    | (intro y; subst y)
    | intro _
    | lift_lets -underBinder
    | ((with_reducible apply Within.step (pumpStream_within _ _)); (on_goal 2 => decide); (on_goal 2 => simp [regsLe]))
    | (simp -zeta only [Within.of_mk]; with_reducible refine Within.upd rfl ?_)
    | with_reducible apply Within.ite
    | with_reducible apply Within.foldl
    | split

theorem dropHeld_within (s : State) : Within [.hif, .evr, .pmc, .tly, .out] (some []) s (dropHeld s) := by
  unfold dropHeld
  repeat' first
    | with_reducible apply Within.refl
    | with_reducible assumption
    | (intro y; with_reducible refine Within.cut y ?_ ?_; (on_goal 2 => clear_value y; intro _); (on_goal 1 => subst y))
    | (intro y; clear_value y)
    | (intro y; subst y)
    | intro _
    | lift_lets -underBinder
    | ((with_reducible apply Within.step (pumpStreams_within _)); (on_goal 2 => decide); (on_goal 2 => simp [regsLe]))
    | (simp -zeta only [Within.of_mk]; with_reducible refine Within.upd rfl ?_)
    | with_reducible apply Within.ite
    | with_reducible apply Within.foldl
    | split

theorem freeWaiting_within (s : State) : Within [.hif, .evr, .pmc, .tly, .out] (some []) s (freeWaiting s) := by
  unfold freeWaiting
  repeat' first
    | with_reducible apply Within.refl
    | with_reducible assumption
    | (intro y; with_reducible refine Within.cut y ?_ ?_; (on_goal 2 => clear_value y; intro _); (on_goal 1 => subst y))
    | (intro y; clear_value y)
    | (intro y; subst y)
    | intro _
    | lift_lets -underBinder
    | ((with_reducible apply Within.step (pumpStreams_within _)); (on_goal 2 => decide); (on_goal 2 => simp [regsLe]))
    | (simp -zeta only [Within.of_mk]; with_reducible refine Within.upd rfl ?_)
    | with_reducible apply Within.ite
    | with_reducible apply Within.foldl
    | split

end Sys2Proof.Machine
end

