-- ==== Sys2Proof/Laws/WithinRaise.lean ====
section
/-!
SUPPORT. What each operation of Machine/Raise.lean may change at most.
-/
set_option linter.all false
set_option Elab.async false

namespace Sys2Proof.Machine

theorem sendPeer_within (b : PeerBody) (s : State) : Within [.pmc, .dup, .out] (some []) s (sendPeer b s) := by
  unfold sendPeer
  repeat' first
    | with_reducible apply Within.refl
    | with_reducible assumption
    | (intro y; with_reducible refine Within.cut y ?_ ?_; (on_goal 2 => clear_value y; intro _); (on_goal 1 => subst y))
    | (intro y; clear_value y)
    | (intro y; subst y)
    | intro _
    | lift_lets -underBinder
    | ((with_reducible apply Within.step (emit_within _ _)); (on_goal 2 => decide); (on_goal 2 => simp [regsLe]))
    | ((with_reducible apply Within.step (pmcAdd_within _ _ _)); (on_goal 2 => decide); (on_goal 2 => simp [regsLe]))
    | (simp -zeta only [Within.of_mk]; with_reducible refine Within.upd rfl ?_)
    | with_reducible apply Within.ite
    | with_reducible apply Within.foldl
    | split

theorem withdrawExchange_within (s : State) : Within [.hif, .pmc, .cyc, .out] (some [0x34020]) s (withdrawExchange s) := by
  unfold withdrawExchange
  repeat' first
    | with_reducible apply Within.refl
    | with_reducible assumption
    | (intro y; with_reducible refine Within.cut y ?_ ?_; (on_goal 2 => clear_value y; intro _); (on_goal 1 => subst y))
    | (intro y; clear_value y)
    | (intro y; subst y)
    | intro _
    | lift_lets -underBinder
    | ((with_reducible apply Within.step (finish_within _ _ _ _)); (on_goal 2 => decide); (on_goal 2 => simp [regsLe]))
    | ((with_reducible apply Within.step (setF_within _ _ _ _ _)); (on_goal 2 => decide); (on_goal 2 => first | (simp [regsLe]; done) | (simp [regsLe, ringReg]; done)))
    | (simp -zeta only [Within.of_mk]; with_reducible refine Within.upd rfl ?_)
    | with_reducible apply Within.ite
    | with_reducible apply Within.foldl
    | split

theorem showClm_within (c : Clm) (s : State) : Within [.pwr] (some []) s (showClm c s) := by
  unfold showClm
  repeat' first
    | with_reducible apply Within.refl
    | with_reducible assumption
    | (intro y; with_reducible refine Within.cut y ?_ ?_; (on_goal 2 => clear_value y; intro _); (on_goal 1 => subst y))
    | (intro y; clear_value y)
    | (intro y; subst y)
    | intro _
    | lift_lets -underBinder
    | (simp -zeta only [Within.of_mk]; with_reducible refine Within.upd rfl ?_)
    | with_reducible apply Within.ite
    | with_reducible apply Within.foldl
    | split

theorem setRole_within (d : DupState) (s : State) : Within [.hif, .pwr, .start, .evr, .pmc, .dup, .cyc, .out] (some [0x7F040, 0x0A034, 0x7F01C, 0x0A010, 0x0A030, 0x0E030, 0x34020]) s (setRole d s) := by
  unfold setRole
  repeat' first
    | with_reducible apply Within.refl
    | with_reducible assumption
    | (intro y; with_reducible refine Within.cut y ?_ ?_; (on_goal 2 => clear_value y; intro _); (on_goal 1 => subst y))
    | (intro y; clear_value y)
    | (intro y; subst y)
    | intro _
    | lift_lets -underBinder
    | ((with_reducible apply Within.step (setCause_within _ _ _ _ _)); (on_goal 2 => decide); (on_goal 2 => first | (simp [regsLe]; done) | (simp [regsLe, ringReg]; done)))
    | ((with_reducible apply Within.step (evt_within _ _ _ _)); (on_goal 2 => decide); (on_goal 2 => first | (simp [regsLe]; done) | (simp [regsLe, ringReg]; done)))
    | ((with_reducible apply Within.step (setF_within _ _ _ _ _)); (on_goal 2 => decide); (on_goal 2 => first | (simp [regsLe]; done) | (simp [regsLe, ringReg]; done)))
    | ((with_reducible apply Within.step (setB_within _ _ _ _)); (on_goal 2 => decide); (on_goal 2 => first | (simp [regsLe]; done) | (simp [regsLe, ringReg]; done)))
    | ((with_reducible apply Within.step (showClm_within _ _)); (on_goal 2 => decide); (on_goal 2 => simp [regsLe]))
    | ((with_reducible apply Within.step (withdrawExchange_within _)); (on_goal 2 => decide); (on_goal 2 => first | (simp [regsLe]; done) | (simp [regsLe, ringReg]; done)))
    | (simp -zeta only [Within.of_mk]; with_reducible refine Within.upd rfl ?_)
    | with_reducible apply Within.ite
    | with_reducible apply Within.foldl
    | split

theorem setMor_within (m : Bool) (s : State) : Within [.hif, .evr, .pmc, .dup, .tly, .out] (some [0x0E030]) s (setMor m s) := by
  unfold setMor
  repeat' first
    | with_reducible apply Within.refl
    | with_reducible assumption
    | (intro y; with_reducible refine Within.cut y ?_ ?_; (on_goal 2 => clear_value y; intro _); (on_goal 1 => subst y))
    | (intro y; clear_value y)
    | (intro y; subst y)
    | intro _
    | lift_lets -underBinder
    | ((with_reducible apply Within.step (dropHeld_within _)); (on_goal 2 => decide); (on_goal 2 => simp [regsLe]))
    | ((with_reducible apply Within.step (setCause_within _ _ _ _ _)); (on_goal 2 => decide); (on_goal 2 => first | (simp [regsLe]; done) | (simp [regsLe, ringReg]; done)))
    | (simp -zeta only [Within.of_mk]; with_reducible refine Within.upd rfl ?_)
    | with_reducible apply Within.ite
    | with_reducible apply Within.foldl
    | split

theorem switchOps_within (keep : DupOp → Bool) (s : State) : Within [.hif, .pmc, .dup, .out] (some []) s (switchOps keep s) := by
  unfold switchOps
  repeat' first
    | with_reducible apply Within.refl
    | with_reducible assumption
    | (intro y; with_reducible refine Within.cut y ?_ ?_; (on_goal 2 => clear_value y; intro _); (on_goal 1 => subst y))
    | (intro y; clear_value y)
    | (intro y; subst y)
    | intro _
    | lift_lets -underBinder
    | ((with_reducible apply Within.step (finish_within _ _ _ _)); (on_goal 2 => decide); (on_goal 2 => simp [regsLe]))
    | (simp -zeta only [Within.of_mk]; with_reducible refine Within.upd rfl ?_)
    | with_reducible apply Within.ite
    | with_reducible apply Within.foldl
    | split

theorem resign_within (cause : Nat) (s : State) : Within [.hif, .pwr, .start, .evr, .pmc, .dup, .tly, .cyc, .out] (some [0x0E04C, 0x0E030, 0x7F040, 0x0A034, 0x7F01C, 0x0A010, 0x0A030, 0x34020]) s (resign cause s) := by
  unfold resign
  repeat' first
    | with_reducible apply Within.refl
    | with_reducible assumption
    | (intro y; with_reducible refine Within.cut y ?_ ?_; (on_goal 2 => clear_value y; intro _); (on_goal 1 => subst y))
    | (intro y; clear_value y)
    | (intro y; subst y)
    | intro _
    | lift_lets -underBinder
    | ((with_reducible apply Within.step (setRole_within _ _)); (on_goal 2 => decide); (on_goal 2 => first | (simp [regsLe]; done) | (simp [regsLe, ringReg]; done)))
    | ((with_reducible apply Within.step (setMor_within _ _)); (on_goal 2 => decide); (on_goal 2 => first | (simp [regsLe]; done) | (simp [regsLe, ringReg]; done)))
    | ((with_reducible apply Within.step (incReg_within _ _ _)); (on_goal 2 => decide); (on_goal 2 => first | (simp [regsLe]; done) | (simp [regsLe, ringReg]; done)))
    | ((with_reducible apply Within.step (sendPeer_within _ _)); (on_goal 2 => decide); (on_goal 2 => simp [regsLe]))
    | ((with_reducible apply Within.step (switchOps_within _ _)); (on_goal 2 => decide); (on_goal 2 => simp [regsLe]))
    | (simp -zeta only [Within.of_mk]; with_reducible refine Within.upd rfl ?_)
    | with_reducible apply Within.ite
    | with_reducible apply Within.foldl
    | split

theorem resignTell_within (cause : Nat) (s : State) : Within [.hif, .pwr, .start, .evr, .pmc, .dup, .tly, .cyc, .out] (some [0x0E04C, 0x0E030, 0x7F040, 0x0A034, 0x7F01C, 0x0A010, 0x0A030, 0x34020]) s (resignTell cause s) := by
  unfold resignTell
  repeat' first
    | with_reducible apply Within.refl
    | with_reducible assumption
    | (intro y; with_reducible refine Within.cut y ?_ ?_; (on_goal 2 => clear_value y; intro _); (on_goal 1 => subst y))
    | (intro y; clear_value y)
    | (intro y; subst y)
    | intro _
    | lift_lets -underBinder
    | ((with_reducible apply Within.step (resign_within _ _)); (on_goal 2 => decide); (on_goal 2 => first | (simp [regsLe]; done) | (simp [regsLe, ringReg]; done)))
    | ((with_reducible apply Within.step (sendPeer_within _ _)); (on_goal 2 => decide); (on_goal 2 => simp [regsLe]))
    | (simp -zeta only [Within.of_mk]; with_reducible refine Within.upd rfl ?_)
    | with_reducible apply Within.ite
    | with_reducible apply Within.foldl
    | split

theorem viaPeer_within {ps : List Part} {rs : Option (List Nat)} {s u : State} {r : Req} {op : FwdOp} {len : Nat} {apply : State → State}
    (hp : ([Part.hif, .pmc, .dup, .out].all fun p => ps.contains p) = true)
    (hr : regsLe (some []) rs)
    (ha : ∀ t, Within ps rs s t → Within ps rs s (apply t)) (h : Within ps rs s u) : Within ps rs s (viaPeer r op len apply u) := by
  unfold viaPeer
  split
  · refine Within.trans (ha u h) (Within.mono (complete_within _ _ _ _ _ _) ?_ hr)
    simp only [List.all_cons, List.all_nil, Bool.and_eq_true] at hp ⊢
    exact ⟨hp.1, hp.2.1, hp.2.2.2.1, trivial⟩
  · have k : Within [.hif, .pmc, .dup, .out] (some []) u (viaPeer r op len id u) := by
      unfold viaPeer
      split
      · exact Within.mono (complete_within _ _ _ _ _ _) (by decide) (by simp [regsLe])
      · split
        · exact Within.mono (finish_within _ _ _ _) (by decide) (by simp [regsLe])
        · refine Within.step (sendPeer_within _ _) ?_ (by decide) (by simp [regsLe])
          simp -zeta only [Within.of_mk]
          exact Within.upd rfl Within.refl
    rename_i hn
    have e : viaPeer r op len id u = if u.dup.isolated || u.dup.peer.isNone then finish r 0x80 0 u else
        let f : Fwd := { op := op, req := some r, len := len, mon := u.tim.mon }
        sendPeer (.forward op) { u with dup := { u.dup with fwds := u.dup.fwds ++ [f] } } := by
      unfold viaPeer
      rw [if_neg hn]
    rw [e] at k
    exact h.trans (k.mono hp hr)

theorem outputsSafe_within (s : State) : Within [.start] (some []) s (outputsSafe s) := by
  unfold outputsSafe
  repeat' first
    | with_reducible apply Within.refl
    | with_reducible assumption
    | (intro y; with_reducible refine Within.cut y ?_ ?_; (on_goal 2 => clear_value y; intro _); (on_goal 1 => subst y))
    | (intro y; clear_value y)
    | (intro y; subst y)
    | intro _
    | lift_lets -underBinder
    | (simp -zeta only [Within.of_mk]; with_reducible refine Within.upd rfl ?_)
    | with_reducible apply Within.ite
    | with_reducible apply Within.foldl
    | split

theorem seqStart_within (why : SeqWhy) (s : State) : Within [.pwr, .start, .tly] (some [0x7F040]) s (seqStart why s) := by
  unfold seqStart
  repeat' first
    | with_reducible apply Within.refl
    | with_reducible assumption
    | (intro y; with_reducible refine Within.cut y ?_ ?_; (on_goal 2 => clear_value y; intro _); (on_goal 1 => subst y))
    | (intro y; clear_value y)
    | (intro y; subst y)
    | intro _
    | lift_lets -underBinder
    | ((with_reducible apply Within.step (setB_within _ _ _ _)); (on_goal 2 => decide); (on_goal 2 => first | (simp [regsLe]; done) | (simp [regsLe, ringReg]; done)))
    | ((with_reducible apply Within.step (outputsSafe_within _)); (on_goal 2 => decide); (on_goal 2 => simp [regsLe]))
    | ((with_reducible apply Within.step (showClm_within _ _)); (on_goal 2 => decide); (on_goal 2 => simp [regsLe]))
    | (simp -zeta only [Within.of_mk]; with_reducible refine Within.upd rfl ?_)
    | with_reducible apply Within.ite
    | with_reducible apply Within.foldl
    | split

theorem beginModReset_within (why : ModWhy) (cause : Nat) (kind : RestartKind) (s : State) : Within [.hif, .pwr, .start, .evr, .pmc, .dup, .tly, .cyc, .out] (some [0x0E04C, 0x0E030, 0x7F040, 0x0A034, 0x7F01C, 0x0A010, 0x0A030, 0x34020]) s (beginModReset why cause kind s) := by
  unfold beginModReset
  repeat' first
    | with_reducible apply Within.refl
    | with_reducible assumption
    | (intro y; with_reducible refine Within.cut y ?_ ?_; (on_goal 2 => clear_value y; intro _); (on_goal 1 => subst y))
    | (intro y; clear_value y)
    | (intro y; subst y)
    | intro _
    | lift_lets -underBinder
    | ((with_reducible apply Within.step (seqStart_within _ _)); (on_goal 2 => decide); (on_goal 2 => first | (simp [regsLe]; done) | (simp [regsLe, ringReg]; done)))
    | ((with_reducible apply Within.step (resignTell_within _ _)); (on_goal 2 => decide); (on_goal 2 => first | (simp [regsLe]; done) | (simp [regsLe, ringReg]; done)))
    | (simp -zeta only [Within.of_mk]; with_reducible refine Within.upd rfl ?_)
    | with_reducible apply Within.ite
    | with_reducible apply Within.foldl
    | split

theorem resetPair_within (s : State) (pair : Nat) : Within [.hif, .pmc, .out] (some []) s (resetPair s pair) := by
  unfold resetPair
  repeat' first
    | with_reducible apply Within.refl
    | with_reducible assumption
    | (intro y; with_reducible refine Within.cut y ?_ ?_; (on_goal 2 => clear_value y; intro _); (on_goal 1 => subst y))
    | (intro y; clear_value y)
    | (intro y; subst y)
    | intro _
    | lift_lets -underBinder
    | ((with_reducible apply Within.step (putRing_within _ _ _)); (on_goal 2 => decide); (on_goal 2 => simp [regsLe]))
    | ((with_reducible apply Within.step (flushRing_within _ _)); (on_goal 2 => decide); (on_goal 2 => simp [regsLe]))
    | (simp -zeta only [Within.of_mk]; with_reducible refine Within.upd rfl ?_)
    | with_reducible apply Within.ite
    | with_reducible apply Within.foldl
    | split

theorem dropPair_within (s : State) (pair : Nat) : Within [.hif] (some []) s (dropPair s pair) := by
  unfold dropPair
  repeat' first
    | with_reducible apply Within.refl
    | with_reducible assumption
    | (intro y; with_reducible refine Within.cut y ?_ ?_; (on_goal 2 => clear_value y; intro _); (on_goal 1 => subst y))
    | (intro y; clear_value y)
    | (intro y; subst y)
    | intro _
    | lift_lets -underBinder
    | ((with_reducible apply Within.step (putRing_within _ _ _)); (on_goal 2 => decide); (on_goal 2 => simp [regsLe]))
    | (simp -zeta only [Within.of_mk]; with_reducible refine Within.upd rfl ?_)
    | with_reducible apply Within.ite
    | with_reducible apply Within.foldl
    | split

theorem resetRegs_within (b : Block) (s : State) : Within [] none s (resetRegs b s) := by
  unfold resetRegs
  repeat' first
    | with_reducible apply Within.refl
    | with_reducible assumption
    | (intro y; with_reducible refine Within.cut y ?_ ?_; (on_goal 2 => clear_value y; intro _); (on_goal 1 => subst y))
    | (intro y; clear_value y)
    | (intro y; subst y)
    | intro _
    | lift_lets -underBinder
    | ((with_reducible apply Within.step (setReg_within _ _ _)); (on_goal 2 => decide); (on_goal 2 => trivial))
    | with_reducible apply Within.ite
    | with_reducible apply Within.foldl
    | split

theorem rndBlockReset_within (s : State) : Within [.rnd] (some []) s (rndBlockReset s) := by
  unfold rndBlockReset
  repeat' first
    | with_reducible apply Within.refl
    | with_reducible assumption
    | (intro y; with_reducible refine Within.cut y ?_ ?_; (on_goal 2 => clear_value y; intro _); (on_goal 1 => subst y))
    | (intro y; clear_value y)
    | (intro y; subst y)
    | intro _
    | lift_lets -underBinder
    | (simp -zeta only [Within.of_mk]; with_reducible refine Within.upd rfl ?_)
    | with_reducible apply Within.ite
    | with_reducible apply Within.foldl
    | split

theorem beginBlockReset_within (s : State) (b : Block) : Within [.hif, .start, .evr, .pmc, .rnd, .out] none s (beginBlockReset s b) := by
  unfold beginBlockReset
  repeat' first
    | with_reducible apply Within.refl
    | with_reducible assumption
    | (intro y; with_reducible refine Within.cut y ?_ ?_; (on_goal 2 => clear_value y; intro _); (on_goal 1 => subst y))
    | (intro y; clear_value y)
    | (intro y; subst y)
    | intro _
    | lift_lets -underBinder
    | ((with_reducible apply Within.step (evt_within _ _ _ _)); (on_goal 2 => decide); (on_goal 2 => trivial))
    | ((with_reducible apply Within.step (resetPair_within _ _)); (on_goal 2 => decide); (on_goal 2 => trivial))
    | ((with_reducible apply Within.step (dropPair_within _ _)); (on_goal 2 => decide); (on_goal 2 => trivial))
    | ((with_reducible apply Within.step (rndBlockReset_within _)); (on_goal 2 => decide); (on_goal 2 => trivial))
    | ((with_reducible apply Within.step (resetRegs_within _ _)); (on_goal 2 => decide); (on_goal 2 => trivial))
    | ((with_reducible apply Within.step (setB_within _ _ _ _)); (on_goal 2 => decide); (on_goal 2 => trivial))
    | (simp -zeta only [Within.of_mk]; with_reducible refine Within.upd rfl ?_)
    | with_reducible apply Within.ite
    | with_reducible apply Within.foldl
    | split

theorem reactBlk_within (n : Nat) (s : State) : Within [.hif, .pwr, .start, .fco, .evr, .pmc, .dup, .rnd, .tly, .cyc, .out] none s (reactBlk n s) := by
  unfold reactBlk
  repeat' first
    | with_reducible apply Within.refl
    | with_reducible assumption
    | (intro y; with_reducible refine Within.cut y ?_ ?_; (on_goal 2 => clear_value y; intro _); (on_goal 1 => subst y))
    | (intro y; clear_value y)
    | (intro y; subst y)
    | intro _
    | lift_lets -underBinder
    | ((with_reducible apply Within.step (beginBlockReset_within _ _)); (on_goal 2 => decide); (on_goal 2 => trivial))
    | ((with_reducible apply Within.step (beginModReset_within _ _ _ _)); (on_goal 2 => decide); (on_goal 2 => trivial))
    | (simp -zeta only [Within.of_mk]; with_reducible refine Within.upd rfl ?_)
    | with_reducible apply Within.ite
    | with_reducible apply Within.foldl
    | split

theorem activate_within (n : Nat) (count : Nat) (forced : Bool) (why : Option Nat) (s : State) : Within [.hif, .pwr, .start, .fco, .evr, .pmc, .dup, .rnd, .tly, .cyc, .out] none s (activate n count forced why s) := by
  unfold activate
  repeat' first
    | with_reducible apply Within.refl
    | with_reducible assumption
    | (intro y; with_reducible refine Within.cut y ?_ ?_; (on_goal 2 => clear_value y; intro _); (on_goal 1 => subst y))
    | (intro y; clear_value y)
    | (intro y; subst y)
    | intro _
    | lift_lets -underBinder
    | ((with_reducible apply Within.step (beginModReset_within _ _ _ _)); (on_goal 2 => decide); (on_goal 2 => trivial))
    | ((with_reducible apply Within.step (reactBlk_within _ _)); (on_goal 2 => decide); (on_goal 2 => trivial))
    | ((with_reducible apply Within.step (emit_within _ _)); (on_goal 2 => decide); (on_goal 2 => trivial))
    | ((with_reducible apply Within.step (sendMsg_within _ _)); (on_goal 2 => decide); (on_goal 2 => trivial))
    | ((with_reducible apply Within.step (record_within _ _ _ _)); (on_goal 2 => decide); (on_goal 2 => trivial))
    | (simp -zeta only [Within.of_mk]; with_reducible refine Within.upd rfl ?_)
    | with_reducible apply Within.ite
    | with_reducible apply Within.foldl
    | split

theorem occur_within (n : Nat) (forced : Bool) (why : Option Nat) (s : State) : Within [.hif, .pwr, .start, .fco, .evr, .pmc, .dup, .rnd, .tly, .cyc, .out] none s (occur n forced why s) := by
  unfold occur
  repeat' first
    | with_reducible apply Within.refl
    | with_reducible assumption
    | (intro y; with_reducible refine Within.cut y ?_ ?_; (on_goal 2 => clear_value y; intro _); (on_goal 1 => subst y))
    | (intro y; clear_value y)
    | (intro y; subst y)
    | intro _
    | lift_lets -underBinder
    | ((with_reducible apply Within.step (activate_within _ _ _ _ _)); (on_goal 2 => decide); (on_goal 2 => trivial))
    | ((with_reducible apply Within.step (incReg_within _ _ _)); (on_goal 2 => decide); (on_goal 2 => trivial))
    | (simp -zeta only [Within.of_mk]; with_reducible refine Within.upd rfl ?_)
    | with_reducible apply Within.ite
    | with_reducible apply Within.foldl
    | split

theorem raise_within (n : Nat) (s : State) : Within [.hif, .pwr, .start, .fco, .evr, .pmc, .dup, .rnd, .tly, .cyc, .out] none s (raise n s) := by
  unfold raise
  repeat' first
    | with_reducible apply Within.refl
    | with_reducible assumption
    | (intro y; with_reducible refine Within.cut y ?_ ?_; (on_goal 2 => clear_value y; intro _); (on_goal 1 => subst y))
    | (intro y; clear_value y)
    | (intro y; subst y)
    | intro _
    | lift_lets -underBinder
    | ((with_reducible apply Within.step (occur_within _ _ _ _)); (on_goal 2 => decide); (on_goal 2 => trivial))
    | (simp -zeta only [Within.of_mk]; with_reducible refine Within.upd rfl ?_)
    | with_reducible apply Within.ite
    | with_reducible apply Within.foldl
    | split

theorem assertSrc_within (n : Nat) (s : State) : Within [.hif, .pwr, .start, .fco, .evr, .pmc, .dup, .rnd, .tly, .cyc, .out] none s (assertSrc n s) := by
  unfold assertSrc
  repeat' first
    | with_reducible apply Within.refl
    | with_reducible assumption
    | (intro y; with_reducible refine Within.cut y ?_ ?_; (on_goal 2 => clear_value y; intro _); (on_goal 1 => subst y))
    | (intro y; clear_value y)
    | (intro y; subst y)
    | intro _
    | lift_lets -underBinder
    | ((with_reducible apply Within.step (occur_within _ _ _ _)); (on_goal 2 => decide); (on_goal 2 => trivial))
    | (simp -zeta only [Within.of_mk]; with_reducible refine Within.upd rfl ?_)
    | with_reducible apply Within.ite
    | with_reducible apply Within.foldl
    | split

theorem deactivate_within (n : Nat) (s : State) : Within [.hif, .fco, .evr, .pmc, .out] (some [0x0A034, 0x0A010, 0x0A030]) s (deactivate n s) := by
  unfold deactivate
  repeat' first
    | with_reducible apply Within.refl
    | with_reducible assumption
    | (intro y; with_reducible refine Within.cut y ?_ ?_; (on_goal 2 => clear_value y; intro _); (on_goal 1 => subst y))
    | (intro y; clear_value y)
    | (intro y; subst y)
    | intro _
    | lift_lets -underBinder
    | ((with_reducible apply Within.step (record_within _ _ _ _)); (on_goal 2 => decide); (on_goal 2 => first | (simp [regsLe]; done) | (simp [regsLe, ringReg]; done)))
    | (simp -zeta only [Within.of_mk]; with_reducible refine Within.upd rfl ?_)
    | with_reducible apply Within.ite
    | with_reducible apply Within.foldl
    | split

theorem endCond_within (n : Nat) (s : State) : Within [.hif, .fco, .evr, .pmc, .out] (some [0x0A034, 0x0A010, 0x0A030]) s (endCond n s) := by
  unfold endCond
  repeat' first
    | with_reducible apply Within.refl
    | with_reducible assumption
    | (intro y; with_reducible refine Within.cut y ?_ ?_; (on_goal 2 => clear_value y; intro _); (on_goal 1 => subst y))
    | (intro y; clear_value y)
    | (intro y; subst y)
    | intro _
    | lift_lets -underBinder
    | ((with_reducible apply Within.step (deactivate_within _ _)); (on_goal 2 => decide); (on_goal 2 => first | (simp [regsLe]; done) | (simp [regsLe, ringReg]; done)))
    | (simp -zeta only [Within.of_mk]; with_reducible refine Within.upd rfl ?_)
    | with_reducible apply Within.ite
    | with_reducible apply Within.foldl
    | split

theorem setCond_within (n : Nat) (holds : Bool) (s : State) : Within [.hif, .pwr, .start, .fco, .evr, .pmc, .dup, .rnd, .tly, .cyc, .out] none s (setCond n holds s) := by
  unfold setCond
  repeat' first
    | with_reducible apply Within.refl
    | with_reducible assumption
    | (intro y; with_reducible refine Within.cut y ?_ ?_; (on_goal 2 => clear_value y; intro _); (on_goal 1 => subst y))
    | (intro y; clear_value y)
    | (intro y; subst y)
    | intro _
    | lift_lets -underBinder
    | ((with_reducible apply Within.step (endCond_within _ _)); (on_goal 2 => decide); (on_goal 2 => trivial))
    | ((with_reducible apply Within.step (assertSrc_within _ _)); (on_goal 2 => decide); (on_goal 2 => trivial))
    | (simp -zeta only [Within.of_mk]; with_reducible refine Within.upd rfl ?_)
    | with_reducible apply Within.ite
    | with_reducible apply Within.foldl
    | split

theorem beginHoldup_within (why : HoldupWhy) (s : State) : Within [.hif, .pwr, .start, .fco, .evr, .pmc, .dup, .rnd, .tly, .cyc, .out] none s (beginHoldup why s) := by
  unfold beginHoldup
  repeat' first
    | with_reducible apply Within.refl
    | with_reducible assumption
    | (intro y; with_reducible refine Within.cut y ?_ ?_; (on_goal 2 => clear_value y; intro _); (on_goal 1 => subst y))
    | (intro y; clear_value y)
    | (intro y; subst y)
    | intro _
    | lift_lets -underBinder
    | ((with_reducible apply Within.step (resignTell_within _ _)); (on_goal 2 => decide); (on_goal 2 => trivial))
    | ((with_reducible apply Within.step (seqStart_within _ _)); (on_goal 2 => decide); (on_goal 2 => trivial))
    | ((with_reducible apply Within.step (assertSrc_within _ _)); (on_goal 2 => decide); (on_goal 2 => trivial))
    | (simp -zeta only [Within.of_mk]; with_reducible refine Within.upd rfl ?_)
    | with_reducible apply Within.ite
    | with_reducible apply Within.foldl
    | split

end Sys2Proof.Machine
end

