-- ==== Sys2Proof/Laws/WithinKeys.lean ====
section
/-!
SUPPORT. What each operation of Machine/Keys.lean may change at most.
-/
set_option linter.all false
set_option Elab.async false

namespace Sys2Proof.Machine

theorem setSlotState_within (n : Nat) (v : Nat) (s : State) : Within [] (some [295168 + 4 * n]) s (setSlotState n v s) := by
  unfold setSlotState
  repeat' first
    | with_reducible apply Within.refl
    | with_reducible assumption
    | (intro y; with_reducible refine Within.cut y ?_ ?_; (on_goal 2 => clear_value y; intro _); (on_goal 1 => subst y))
    | (intro y; clear_value y)
    | (intro y; subst y)
    | intro _
    | lift_lets -underBinder
    | ((with_reducible apply Within.step (setF_within _ _ _ _ _)); (on_goal 2 => decide); (on_goal 2 => first | (simp [regsLe]; done) | (simp [regsLe, ringReg]; done)))
    | with_reducible apply Within.ite
    | with_reducible apply Within.foldl
    | split

theorem deriveWorking_within (s : State) : Within [.kst] (some [0x48124, 0x48120]) s (deriveWorking s) := by
  unfold deriveWorking
  repeat' first
    | with_reducible apply Within.refl
    | with_reducible assumption
    | (intro y; with_reducible refine Within.cut y ?_ ?_; (on_goal 2 => clear_value y; intro _); (on_goal 1 => subst y))
    | (intro y; clear_value y)
    | (intro y; subst y)
    | intro _
    | lift_lets -underBinder
    | ((with_reducible apply Within.step (setReg_within _ _ _)); (on_goal 2 => decide); (on_goal 2 => first | (simp [regsLe]; done) | (simp [regsLe, ringReg]; done)))
    | (simp -zeta only [Within.of_mk]; with_reducible refine Within.upd rfl ?_)
    | with_reducible apply Within.ite
    | with_reducible apply Within.foldl
    | split

theorem clearWorking_within (s : State) : Within [.kst] (some [0x48124, 0x48120]) s (clearWorking s) := by
  unfold clearWorking
  repeat' first
    | with_reducible apply Within.refl
    | with_reducible assumption
    | (intro y; with_reducible refine Within.cut y ?_ ?_; (on_goal 2 => clear_value y; intro _); (on_goal 1 => subst y))
    | (intro y; clear_value y)
    | (intro y; subst y)
    | intro _
    | lift_lets -underBinder
    | ((with_reducible apply Within.step (setSlotState_within _ _ _)); (on_goal 2 => decide); (on_goal 2 => first | (simp [regsLe]; done) | (simp [regsLe, ringReg]; done)))
    | (simp -zeta only [Within.of_mk]; with_reducible refine Within.upd rfl ?_)
    | with_reducible apply Within.ite
    | with_reducible apply Within.foldl
    | split

theorem afterSlots_within (was : Bool) (s : State) : Within [.hif, .pwr, .start, .fco, .evr, .pmc, .dup, .rnd, .tly, .cyc, .out] none s (afterSlots was s) := by
  unfold afterSlots
  repeat' first
    | with_reducible apply Within.refl
    | with_reducible assumption
    | (intro y; with_reducible refine Within.cut y ?_ ?_; (on_goal 2 => clear_value y; intro _); (on_goal 1 => subst y))
    | (intro y; clear_value y)
    | (intro y; subst y)
    | intro _
    | lift_lets -underBinder
    | ((with_reducible apply Within.step (resign_within _ _)); (on_goal 2 => decide); (on_goal 2 => trivial))
    | ((with_reducible apply Within.step (setCond_within _ _ _)); (on_goal 2 => decide); (on_goal 2 => trivial))
    | (simp -zeta only [Within.of_mk]; with_reducible refine Within.upd rfl ?_)
    | with_reducible apply Within.ite
    | with_reducible apply Within.foldl
    | split

theorem patrolFail_within (s : State) (n : Nat) : Within [.hif, .evr, .pmc, .kst, .out] (some [0x0A034, 295168 + 4 * n, 0x0A010, 0x0A030]) s (patrolFail s n) := by
  unfold patrolFail
  repeat' first
    | with_reducible apply Within.refl
    | with_reducible assumption
    | (intro y; with_reducible refine Within.cut y ?_ ?_; (on_goal 2 => clear_value y; intro _); (on_goal 1 => subst y))
    | (intro y; clear_value y)
    | (intro y; subst y)
    | intro _
    | lift_lets -underBinder
    | ((with_reducible apply Within.step (setSlotState_within _ _ _)); (on_goal 2 => decide); (on_goal 2 => first | (simp [regsLe]; done) | (simp [regsLe, ringReg]; done)))
    | ((with_reducible apply Within.step (evt_within _ _ _ _)); (on_goal 2 => decide); (on_goal 2 => first | (simp [regsLe]; done) | (simp [regsLe, ringReg]; done)))
    | (simp -zeta only [Within.of_mk]; with_reducible refine Within.upd rfl ?_)
    | with_reducible apply Within.ite
    | with_reducible apply Within.foldl
    | split

theorem slotPatrol_within (bad : List Nat) (s : State) : Within [.hif, .pwr, .start, .fco, .evr, .pmc, .dup, .kst, .rnd, .tly, .cyc, .out] none s (slotPatrol bad s) := by
  unfold slotPatrol
  repeat' first
    | with_reducible apply Within.refl
    | with_reducible assumption
    | (intro y; with_reducible refine Within.cut y ?_ ?_; (on_goal 2 => clear_value y; intro _); (on_goal 1 => subst y))
    | (intro y; clear_value y)
    | (intro y; subst y)
    | intro _
    | lift_lets -underBinder
    | ((with_reducible apply Within.step (patrolFail_within _ _)); (on_goal 2 => decide); (on_goal 2 => trivial))
    | ((with_reducible apply Within.step (afterSlots_within _ _)); (on_goal 2 => decide); (on_goal 2 => trivial))
    | (simp -zeta only [Within.of_mk]; with_reducible refine Within.upd rfl ?_)
    | with_reducible apply Within.ite
    | with_reducible apply Within.foldl
    | split

theorem cancelKeyJobs_within (but : Option Req) (s : State) : Within [.hif, .pmc, .out] (some []) s (cancelKeyJobs but s) := by
  unfold cancelKeyJobs
  repeat' first
    | with_reducible apply Within.refl
    | with_reducible assumption
    | (intro y; with_reducible refine Within.cut y ?_ ?_; (on_goal 2 => clear_value y; intro _); (on_goal 1 => subst y))
    | (intro y; clear_value y)
    | (intro y; subst y)
    | intro _
    | lift_lets -underBinder
    | ((with_reducible apply Within.step (finish_within _ _ _ _)); (on_goal 2 => decide); (on_goal 2 => simp [regsLe]))
    | (simp -zeta only [Within.of_mk]; with_reducible refine Within.upd rfl ?_)
    | with_reducible apply Within.ite
    | with_reducible apply Within.foldl
    | split

theorem zeroise_within (source : Nat) (but : Option Req) (s : State) : Within [.hif, .pwr, .start, .fco, .evr, .pmc, .dup, .kst, .rnd, .tly, .cyc, .out] none s (zeroise source but s) := by
  unfold zeroise
  repeat' first
    | with_reducible apply Within.refl
    | with_reducible assumption
    | (intro y; with_reducible refine Within.cut y ?_ ?_; (on_goal 2 => clear_value y; intro _); (on_goal 1 => subst y))
    | (intro y; clear_value y)
    | (intro y; subst y)
    | intro _
    | lift_lets -underBinder
    | ((with_reducible apply Within.step (cancelKeyJobs_within _ _)); (on_goal 2 => decide); (on_goal 2 => trivial))
    | ((with_reducible apply Within.step (afterSlots_within _ _)); (on_goal 2 => decide); (on_goal 2 => trivial))
    | ((with_reducible apply Within.step (clearWorking_within _)); (on_goal 2 => decide); (on_goal 2 => trivial))
    | (simp -zeta only [Within.of_mk]; with_reducible refine Within.upd rfl ?_)
    | with_reducible apply Within.ite
    | with_reducible apply Within.foldl
    | split

theorem tamperTrip_within (t : TamperSource) (s : State) : Within [.hif, .pwr, .start, .fco, .evr, .pmc, .dup, .kst, .rnd, .tly, .cyc, .out] none s (tamperTrip t s) := by
  unfold tamperTrip
  repeat' first
    | with_reducible apply Within.refl
    | with_reducible assumption
    | (intro y; with_reducible refine Within.cut y ?_ ?_; (on_goal 2 => clear_value y; intro _); (on_goal 1 => subst y))
    | (intro y; clear_value y)
    | (intro y; subst y)
    | intro _
    | lift_lets -underBinder
    | ((with_reducible apply Within.step (zeroise_within _ _ _)); (on_goal 2 => decide); (on_goal 2 => trivial))
    | (simp -zeta only [Within.of_mk]; with_reducible refine Within.upd rfl ?_)
    | with_reducible apply Within.ite
    | with_reducible apply Within.foldl
    | split

theorem keyZeroise_within (r : Req) (param : Nat) (s : State) : Within [.hif, .pwr, .start, .fco, .evr, .pmc, .dup, .kst, .rnd, .tly, .cyc, .out] none s (keyZeroise r param s) := by
  unfold keyZeroise
  repeat' first
    | with_reducible apply Within.refl
    | with_reducible assumption
    | (intro y; with_reducible refine Within.cut y ?_ ?_; (on_goal 2 => clear_value y; intro _); (on_goal 1 => subst y))
    | (intro y; clear_value y)
    | (intro y; subst y)
    | intro _
    | lift_lets -underBinder
    | ((with_reducible apply Within.step (zeroise_within _ _ _)); (on_goal 2 => decide); (on_goal 2 => trivial))
    | ((with_reducible apply Within.step (complete_within _ _ _ _ _ _)); (on_goal 2 => decide); (on_goal 2 => trivial))
    | ((with_reducible apply Within.step (finish_within _ _ _ _)); (on_goal 2 => decide); (on_goal 2 => trivial))
    | (simp -zeta only [Within.of_mk]; with_reducible refine Within.upd rfl ?_)
    | with_reducible apply Within.ite
    | with_reducible apply Within.foldl
    | split

theorem tampcfgWrite_within (v : Word) (s : State) : Within [] (some [0x48008]) s (tampcfgWrite v s) := by
  unfold tampcfgWrite
  repeat' first
    | with_reducible apply Within.refl
    | with_reducible assumption
    | (intro y; with_reducible refine Within.cut y ?_ ?_; (on_goal 2 => clear_value y; intro _); (on_goal 1 => subst y))
    | (intro y; clear_value y)
    | (intro y; subst y)
    | intro _
    | lift_lets -underBinder
    | ((with_reducible apply Within.step (setReg_within _ _ _)); (on_goal 2 => decide); (on_goal 2 => first | (simp [regsLe]; done) | (simp [regsLe, ringReg]; done)))
    | with_reducible apply Within.ite
    | with_reducible apply Within.foldl
    | split

theorem keyDone_within (r : Req) (len : Nat) (b : Bytes) (s : State) : Within [.hif, .pmc, .out] (some []) s (keyDone r len b s) := by
  unfold keyDone
  repeat' first
    | with_reducible apply Within.refl
    | with_reducible assumption
    | (intro y; with_reducible refine Within.cut y ?_ ?_; (on_goal 2 => clear_value y; intro _); (on_goal 1 => subst y))
    | (intro y; clear_value y)
    | (intro y; subst y)
    | intro _
    | lift_lets -underBinder
    | ((with_reducible apply Within.step (pmcAdd_within _ _ _)); (on_goal 2 => decide); (on_goal 2 => simp [regsLe]))
    | ((with_reducible apply Within.step (complete_within _ _ _ _ _ _)); (on_goal 2 => decide); (on_goal 2 => simp [regsLe]))
    | (simp -zeta only [Within.of_mk]; with_reducible refine Within.upd rfl ?_)
    | with_reducible apply Within.ite
    | with_reducible apply Within.foldl
    | split

theorem keyDevcert_within (r : Req) (len : Nat) (s : State) : Within [.hif, .pmc, .out] (some []) s (keyDevcert r len s) := by
  unfold keyDevcert
  repeat' first
    | with_reducible apply Within.refl
    | with_reducible assumption
    | (intro y; with_reducible refine Within.cut y ?_ ?_; (on_goal 2 => clear_value y; intro _); (on_goal 1 => subst y))
    | (intro y; clear_value y)
    | (intro y; subst y)
    | intro _
    | lift_lets -underBinder
    | ((with_reducible apply Within.step (pmcAdd_within _ _ _)); (on_goal 2 => decide); (on_goal 2 => simp [regsLe]))
    | ((with_reducible apply Within.step (output_within _ _ _ _)); (on_goal 2 => decide); (on_goal 2 => simp [regsLe]))
    | ((with_reducible apply Within.step (finish_within _ _ _ _)); (on_goal 2 => decide); (on_goal 2 => simp [regsLe]))
    | (simp -zeta only [Within.of_mk]; with_reducible refine Within.upd rfl ?_)
    | with_reducible apply Within.ite
    | with_reducible apply Within.foldl
    | split

theorem keyPublic_within (r : Req) (slot : Nat) (len : Nat) (s : State) : Within [.hif, .pmc, .out] (some []) s (keyPublic r slot len s) := by
  unfold keyPublic
  repeat' first
    | with_reducible apply Within.refl
    | with_reducible assumption
    | (intro y; with_reducible refine Within.cut y ?_ ?_; (on_goal 2 => clear_value y; intro _); (on_goal 1 => subst y))
    | (intro y; clear_value y)
    | (intro y; subst y)
    | intro _
    | lift_lets -underBinder
    | ((with_reducible apply Within.step (keyDone_within _ _ _ _)); (on_goal 2 => decide); (on_goal 2 => simp [regsLe]))
    | ((with_reducible apply Within.step (finish_within _ _ _ _)); (on_goal 2 => decide); (on_goal 2 => simp [regsLe]))
    | (simp -zeta only [Within.of_mk]; with_reducible refine Within.upd rfl ?_)
    | with_reducible apply Within.ite
    | with_reducible apply Within.foldl
    | split

theorem keyGcm_within (r : Req) (slot : Nat) (mode : Nat) (nonce : Nat) (aadLen : Nat) (out : Nat) (b : Bytes) (s : State) : Within [.hif, .pmc, .out] (some []) s (keyGcm r slot mode nonce aadLen out b s) := by
  unfold keyGcm
  repeat' first
    | with_reducible apply Within.refl
    | with_reducible assumption
    | (intro y; with_reducible refine Within.cut y ?_ ?_; (on_goal 2 => clear_value y; intro _); (on_goal 1 => subst y))
    | (intro y; clear_value y)
    | (intro y; subst y)
    | intro _
    | lift_lets -underBinder
    | ((with_reducible apply Within.step (hostWrite_within _ _ _ _)); (on_goal 2 => decide); (on_goal 2 => simp [regsLe]))
    | ((with_reducible apply Within.step (keyDone_within _ _ _ _)); (on_goal 2 => decide); (on_goal 2 => simp [regsLe]))
    | ((with_reducible apply Within.step (finish_within _ _ _ _)); (on_goal 2 => decide); (on_goal 2 => simp [regsLe]))
    | (simp -zeta only [Within.of_mk]; with_reducible refine Within.upd rfl ?_)
    | with_reducible apply Within.ite
    | with_reducible apply Within.foldl
    | split

theorem keyHmac_within (r : Req) (slot : Nat) (out : Nat) (b : Bytes) (s : State) : Within [.hif, .pmc, .out] (some []) s (keyHmac r slot out b s) := by
  unfold keyHmac
  repeat' first
    | with_reducible apply Within.refl
    | with_reducible assumption
    | (intro y; with_reducible refine Within.cut y ?_ ?_; (on_goal 2 => clear_value y; intro _); (on_goal 1 => subst y))
    | (intro y; clear_value y)
    | (intro y; subst y)
    | intro _
    | lift_lets -underBinder
    | ((with_reducible apply Within.step (hostWrite_within _ _ _ _)); (on_goal 2 => decide); (on_goal 2 => simp [regsLe]))
    | ((with_reducible apply Within.step (keyDone_within _ _ _ _)); (on_goal 2 => decide); (on_goal 2 => simp [regsLe]))
    | ((with_reducible apply Within.step (finish_within _ _ _ _)); (on_goal 2 => decide); (on_goal 2 => simp [regsLe]))
    | (simp -zeta only [Within.of_mk]; with_reducible refine Within.upd rfl ?_)
    | with_reducible apply Within.ite
    | with_reducible apply Within.foldl
    | split

theorem storeSlot_within (s : State) (e : Nat × Word × Nat) : Within [.kst, .out] (some [295168 + 4 * e.fst]) s (storeSlot s e) := by
  unfold storeSlot
  repeat' first
    | with_reducible apply Within.refl
    | with_reducible assumption
    | (intro y; with_reducible refine Within.cut y ?_ ?_; (on_goal 2 => clear_value y; intro _); (on_goal 1 => subst y))
    | (intro y; clear_value y)
    | (intro y; subst y)
    | intro _
    | lift_lets -underBinder
    | ((with_reducible apply Within.step (emit_within _ _)); (on_goal 2 => decide); (on_goal 2 => simp [regsLe]))
    | ((with_reducible apply Within.step (setReg_within _ _ _)); (on_goal 2 => decide); (on_goal 2 => first | (simp [regsLe]; done) | (simp [regsLe, ringReg]; done)))
    | (simp -zeta only [Within.of_mk]; with_reducible refine Within.upd rfl ?_)
    | with_reducible apply Within.ite
    | with_reducible apply Within.foldl
    | split

theorem installKeys_within (user : Bool) (l : List (Nat × Word × Nat)) (s : State) : Within [.hif, .pwr, .start, .fco, .evr, .pmc, .dup, .kst, .rnd, .tly, .cyc, .out, .free] none s (installKeys user l s) := by
  unfold installKeys
  repeat' first
    | with_reducible apply Within.refl
    | with_reducible assumption
    | (intro y; with_reducible refine Within.cut y ?_ ?_; (on_goal 2 => clear_value y; intro _); (on_goal 1 => subst y))
    | (intro y; with_reducible refine Within.cut y.2 ?_ ?_; (on_goal 2 => clear_value y; intro _); (on_goal 1 => subst y))
    | (intro y; clear_value y)
    | (intro y; subst y)
    | intro _
    | lift_lets -underBinder
    | ((with_reducible apply Within.step (storeSlot_within _ _)); (on_goal 2 => decide); (on_goal 2 => trivial))
    | ((with_reducible apply Within.step (afterSlots_within _ _)); (on_goal 2 => decide); (on_goal 2 => trivial))
    | ((with_reducible apply Within.step (deriveWorking_within _)); (on_goal 2 => decide); (on_goal 2 => trivial))
    | ((with_reducible apply Within.step (setSlotState_within _ _ _)); (on_goal 2 => decide); (on_goal 2 => trivial))
    | ((with_reducible apply Within.step (draw_proj _)); (on_goal 2 => decide); (on_goal 2 => trivial))
    | ((with_reducible apply Within.step (draw_eq ‹draw _ = _›)); (on_goal 2 => decide); (on_goal 2 => trivial))
    | (simp -zeta only [Within.of_mk]; with_reducible refine Within.upd rfl ?_)
    | with_reducible apply Within.ite
    | with_reducible apply Within.foldl
    | split

theorem provFail_within (check : Nat) (s : State) : Within [.hif, .evr, .pmc, .kst, .out] (some [0x0A034, 0x0A010, 0x0A030]) s (provFail check s) := by
  unfold provFail
  repeat' first
    | with_reducible apply Within.refl
    | with_reducible assumption
    | (intro y; with_reducible refine Within.cut y ?_ ?_; (on_goal 2 => clear_value y; intro _); (on_goal 1 => subst y))
    | (intro y; clear_value y)
    | (intro y; subst y)
    | intro _
    | lift_lets -underBinder
    | ((with_reducible apply Within.step (evt_within _ _ _ _)); (on_goal 2 => decide); (on_goal 2 => first | (simp [regsLe]; done) | (simp [regsLe, ringReg]; done)))
    | (simp -zeta only [Within.of_mk]; with_reducible refine Within.upd rfl ?_)
    | with_reducible apply Within.ite
    | with_reducible apply Within.foldl
    | split

theorem provisionHello_within (s : State) : Within [.pmc, .dup, .kst, .out, .free] (some []) s (provisionHello s) := by
  unfold provisionHello
  repeat' first
    | with_reducible apply Within.refl
    | with_reducible assumption
    | (intro y; with_reducible refine Within.cut y ?_ ?_; (on_goal 2 => clear_value y; intro _); (on_goal 1 => subst y))
    | (intro y; with_reducible refine Within.cut y.2 ?_ ?_; (on_goal 2 => clear_value y; intro _); (on_goal 1 => subst y))
    | (intro y; clear_value y)
    | (intro y; subst y)
    | intro _
    | lift_lets -underBinder
    | ((with_reducible apply Within.step (sendPeer_within _ _)); (on_goal 2 => decide); (on_goal 2 => simp [regsLe]))
    | ((with_reducible apply Within.step (draw_proj _)); (on_goal 2 => decide); (on_goal 2 => first | (simp [regsLe]; done) | (simp [regsLe, ringReg]; done)))
    | ((with_reducible apply Within.step (draw_eq ‹draw _ = _›)); (on_goal 2 => decide); (on_goal 2 => first | (simp [regsLe]; done) | (simp [regsLe, ringReg]; done)))
    | (simp -zeta only [Within.of_mk]; with_reducible refine Within.upd rfl ?_)
    | with_reducible apply Within.ite
    | with_reducible apply Within.foldl
    | split

end Sys2Proof.Machine
end

