-- ==== Sys2Proof/Laws/WithinTime.lean ====
section
/-!
SUPPORT. What each operation of Machine/Time.lean may change at most.
-/
set_option linter.all false
set_option Elab.async false

namespace Sys2Proof.Machine

theorem tick_within (s : State) : Within [.tim] (some []) s (tick s) := by
  unfold tick
  repeat' first
    | with_reducible apply Within.refl
    | with_reducible assumption
    | (intro y; with_reducible refine Within.cut y ?_ ?_; (on_goal 2 => clear_value y; intro _); (on_goal 1 => subst y))
    | (intro y; clear_value y)
    | (intro y; subst y)
    | intro _
    | lift_lets -underBinder
    | (simp -zeta only [Within.of_mk]; with_reducible refine Within.upd rfl ?_)
    | with_reducible apply Within.ite
    | with_reducible apply Within.foldl
    | split

theorem timCause_within (bit : Nat) (s : State) : Within [.hif, .pmc, .out] (some [0x04014]) s (timCause bit s) := by
  unfold timCause
  repeat' first
    | with_reducible apply Within.refl
    | with_reducible assumption
    | (intro y; with_reducible refine Within.cut y ?_ ?_; (on_goal 2 => clear_value y; intro _); (on_goal 1 => subst y))
    | (intro y; clear_value y)
    | (intro y; subst y)
    | intro _
    | lift_lets -underBinder
    | ((with_reducible apply Within.step (setCause_within _ _ _ _ _)); (on_goal 2 => decide); (on_goal 2 => first | (simp [regsLe]; done) | (simp [regsLe, ringReg]; done)))
    | (simp -zeta only [Within.of_mk]; with_reducible refine Within.upd rfl ?_)
    | with_reducible apply Within.ite
    | with_reducible apply Within.foldl
    | split

theorem setLeg_within (v : Bool) (s : State) : Within [.hif, .pmc, .tim, .disp, .out] (some [0x04014]) s (setLeg v s) := by
  unfold setLeg
  repeat' first
    | with_reducible apply Within.refl
    | with_reducible assumption
    | (intro y; with_reducible refine Within.cut y ?_ ?_; (on_goal 2 => clear_value y; intro _); (on_goal 1 => subst y))
    | (intro y; clear_value y)
    | (intro y; subst y)
    | intro _
    | lift_lets -underBinder
    | ((with_reducible apply Within.step (timCause_within _ _)); (on_goal 2 => decide); (on_goal 2 => first | (simp [regsLe]; done) | (simp [regsLe, ringReg]; done)))
    | (simp -zeta only [Within.of_mk]; with_reducible refine Within.upd rfl ?_)
    | with_reducible apply Within.ite
    | with_reducible apply Within.foldl
    | split

theorem setQuality_within (q : NetQ) (s : State) : Within [.hif, .evr, .pmc, .tim, .disp, .out] (some [0x0A034, 0x04014, 0x0A010, 0x0A030]) s (setQuality q s) := by
  unfold setQuality
  repeat' first
    | with_reducible apply Within.refl
    | with_reducible assumption
    | (intro y; with_reducible refine Within.cut y ?_ ?_; (on_goal 2 => clear_value y; intro _); (on_goal 1 => subst y))
    | (intro y; clear_value y)
    | (intro y; subst y)
    | intro _
    | lift_lets -underBinder
    | ((with_reducible apply Within.step (timCause_within _ _)); (on_goal 2 => decide); (on_goal 2 => first | (simp [regsLe]; done) | (simp [regsLe, ringReg]; done)))
    | ((with_reducible apply Within.step (evt_within _ _ _ _)); (on_goal 2 => decide); (on_goal 2 => first | (simp [regsLe]; done) | (simp [regsLe, ringReg]; done)))
    | ((with_reducible apply Within.step (setLeg_within _ _)); (on_goal 2 => decide); (on_goal 2 => first | (simp [regsLe]; done) | (simp [regsLe, ringReg]; done)))
    | (simp -zeta only [Within.of_mk]; with_reducible refine Within.upd rfl ?_)
    | with_reducible apply Within.ite
    | with_reducible apply Within.foldl
    | split

theorem toHoldover_within (s : State) : Within [.hif, .evr, .pmc, .tim, .disp, .out] (some [0x0A034, 0x04014, 0x0A010, 0x0A030]) s (toHoldover s) := by
  unfold toHoldover
  repeat' first
    | with_reducible apply Within.refl
    | with_reducible assumption
    | (intro y; with_reducible refine Within.cut y ?_ ?_; (on_goal 2 => clear_value y; intro _); (on_goal 1 => subst y))
    | (intro y; clear_value y)
    | (intro y; subst y)
    | intro _
    | lift_lets -underBinder
    | ((with_reducible apply Within.step (setQuality_within _ _)); (on_goal 2 => decide); (on_goal 2 => first | (simp [regsLe]; done) | (simp [regsLe, ringReg]; done)))
    | (simp -zeta only [Within.of_mk]; with_reducible refine Within.upd rfl ?_)
    | with_reducible apply Within.ite
    | with_reducible apply Within.foldl
    | split

theorem pulse_within (k : Nat) (late : Bool) (s : State) : Within [.out] (some []) s (pulse k late s) := by
  unfold pulse
  repeat' first
    | with_reducible apply Within.refl
    | with_reducible assumption
    | (intro y; with_reducible refine Within.cut y ?_ ?_; (on_goal 2 => clear_value y; intro _); (on_goal 1 => subst y))
    | (intro y; clear_value y)
    | (intro y; subst y)
    | intro _
    | lift_lets -underBinder
    | ((with_reducible apply Within.step (emit_within _ _)); (on_goal 2 => decide); (on_goal 2 => simp [regsLe]))
    | (simp -zeta only [Within.of_mk]; with_reducible refine Within.upd rfl ?_)
    | with_reducible apply Within.ite
    | with_reducible apply Within.foldl
    | split

theorem launchAdjust_within (old : Nat) (new : Nat) (s : State) (k : Nat) : Within [.hif, .evr, .pmc, .tim, .out] (some [0x0A034, 0x0A010, 0x0A030]) s (launchAdjust old new s k) := by
  unfold launchAdjust
  repeat' first
    | with_reducible apply Within.refl
    | with_reducible assumption
    | (intro y; with_reducible refine Within.cut y ?_ ?_; (on_goal 2 => clear_value y; intro _); (on_goal 1 => subst y))
    | (intro y; clear_value y)
    | (intro y; subst y)
    | intro _
    | lift_lets -underBinder
    | ((with_reducible apply Within.step (pulse_within _ _ _)); (on_goal 2 => decide); (on_goal 2 => simp [regsLe]))
    | ((with_reducible apply Within.step (evt_within _ _ _ _)); (on_goal 2 => decide); (on_goal 2 => first | (simp [regsLe]; done) | (simp [regsLe, ringReg]; done)))
    | (simp -zeta only [Within.of_mk]; with_reducible refine Within.upd rfl ?_)
    | with_reducible apply Within.ite
    | with_reducible apply Within.foldl
    | split

theorem restartMatrix_within (c : Nat) (t : Nat) (s : State) : Within [.fio] (some []) s (restartMatrix c t s) := by
  unfold restartMatrix
  repeat' first
    | with_reducible apply Within.refl
    | with_reducible assumption
    | (intro y; with_reducible refine Within.cut y ?_ ?_; (on_goal 2 => clear_value y; intro _); (on_goal 1 => subst y))
    | (intro y; clear_value y)
    | (intro y; subst y)
    | intro _
    | lift_lets -underBinder
    | (simp -zeta only [Within.of_mk]; with_reducible refine Within.upd rfl ?_)
    | with_reducible apply Within.ite
    | with_reducible apply Within.foldl
    | split

theorem matrixAdjust_within (old : Nat) (new : Nat) (s : State) (c : Nat) : Within [.fio] (some [231432 + 64 * c]) s (matrixAdjust old new s c) := by
  unfold matrixAdjust
  repeat' first
    | with_reducible apply Within.refl
    | with_reducible assumption
    | (intro y; with_reducible refine Within.cut y ?_ ?_; (on_goal 2 => clear_value y; intro _); (on_goal 1 => subst y))
    | (intro y; clear_value y)
    | (intro y; subst y)
    | intro _
    | lift_lets -underBinder
    | ((with_reducible apply Within.step (incReg_within _ _ _)); (on_goal 2 => decide); (on_goal 2 => first | (simp [regsLe]; done) | (simp [regsLe, ringReg]; done)))
    | ((with_reducible apply Within.step (restartMatrix_within _ _ _)); (on_goal 2 => decide); (on_goal 2 => simp [regsLe]))
    | (simp -zeta only [Within.of_mk]; with_reducible refine Within.upd rfl ?_)
    | with_reducible apply Within.ite
    | with_reducible apply Within.foldl
    | split

theorem matrixAdjust_cell (a b c : Nat) (s : State) (hc : c < 4) :
    Within [.fio] (some [0x38808, 0x38848, 0x38888, 0x388C8]) s (matrixAdjust a b s c) :=
  (matrixAdjust_within a b s c).mono (by decide) (by
    intro x hx
    simp only [List.mem_singleton] at hx
    subst hx
    have : c = 0 ∨ c = 1 ∨ c = 2 ∨ c = 3 := by omega
    obtain rfl | rfl | rfl | rfl := this <;> simp)
theorem stepNet_within (ofs : Int) (s : State) : Within [.hif, .evr, .pmc, .tim, .fio, .out] (some [0x38808, 0x38848, 0x38888, 0x388C8, 0x0A034, 0x04014, 0x0A010, 0x0A030]) s (stepNet ofs s) := by
  have cells : ∀ (a b : Nat) (l : List Nat) (t : State), (∀ c ∈ l, c < 4) → Within [.hif, .evr, .pmc, .tim, .fio, .out] (some [0x38808, 0x38848, 0x38888, 0x388C8, 0x0A034, 0x04014, 0x0A010, 0x0A030]) s t →
      Within [.hif, .evr, .pmc, .tim, .fio, .out] (some [0x38808, 0x38848, 0x38888, 0x388C8, 0x0A034, 0x04014, 0x0A010, 0x0A030]) s (l.foldl (matrixAdjust a b) t) := by
    intro a b l
    induction l with
    | nil => intro t _ h; exact h
    | cons c l ih =>
      intro t hl h
      refine ih _ (fun c m => hl c (List.mem_cons_of_mem _ m)) ?_
      exact Within.step (matrixAdjust_cell a b c t (hl c (by simp))) h (by decide) (by simp [regsLe])
  have fires : ∀ (a b : Nat) (l : List Nat) (t : State), Within [.hif, .evr, .pmc, .tim, .fio, .out] (some [0x38808, 0x38848, 0x38888, 0x388C8, 0x0A034, 0x04014, 0x0A010, 0x0A030]) s t → Within [.hif, .evr, .pmc, .tim, .fio, .out] (some [0x38808, 0x38848, 0x38888, 0x388C8, 0x0A034, 0x04014, 0x0A010, 0x0A030]) s (l.foldl (launchAdjust a b) t) := by
    intro a b l t h
    exact Within.foldl (fun u x k => Within.step (launchAdjust_within _ _ _ _) k (by decide) (by simp [regsLe])) h
  unfold stepNet
  dsimp only
  have base : Within [.hif, .evr, .pmc, .tim, .fio, .out] (some [0x38808, 0x38848, 0x38888, 0x388C8, 0x0A034, 0x04014, 0x0A010, 0x0A030]) s (evt 2 7 (argTime 3 ofs) (timCause 3 { s with tim := { s.tim with net := ((s.tim.net : Int) + ofs).toNat, inWin := 0 } })) := by
    refine Within.step (evt_within _ _ _ _) (Within.step (timCause_within _ _) ?_ (by decide) (by simp [regsLe])) (by decide) (by simp [regsLe])
    simp -zeta only [Within.of_mk]
    exact Within.upd rfl Within.refl
  split
  · refine fires _ _ _ _ ?_
    split
    · exact cells _ _ _ _ (by simp) base
    · exact base
  · split
    · exact cells _ _ _ _ (by simp) base
    · exact base

theorem instantEvt_within (bit : Nat) (late : Option Nat) (s : State) : Within [.hif, .evr, .pmc, .out] (some [0x0A034, 0x0A010, 0x0A030]) s (instantEvt bit late s) := by
  unfold instantEvt
  repeat' first
    | with_reducible apply Within.refl
    | with_reducible assumption
    | (intro y; with_reducible refine Within.cut y ?_ ?_; (on_goal 2 => clear_value y; intro _); (on_goal 1 => subst y))
    | (intro y; clear_value y)
    | (intro y; subst y)
    | intro _
    | lift_lets -underBinder
    | ((with_reducible apply Within.step (evt_within _ _ _ _)); (on_goal 2 => decide); (on_goal 2 => first | (simp [regsLe]; done) | (simp [regsLe, ringReg]; done)))
    | (simp -zeta only [Within.of_mk]; with_reducible refine Within.upd rfl ?_)
    | with_reducible apply Within.ite
    | with_reducible apply Within.foldl
    | split

theorem fireAlarm_within (late : Option Nat) (s : State) : Within [.hif, .evr, .pmc, .tim, .out] (some [0x06004, 0x0A034, 0x04014, 0x0A010, 0x0A030]) s (fireAlarm late s) := by
  unfold fireAlarm
  repeat' first
    | with_reducible apply Within.refl
    | with_reducible assumption
    | (intro y; with_reducible refine Within.cut y ?_ ?_; (on_goal 2 => clear_value y; intro _); (on_goal 1 => subst y))
    | (intro y; clear_value y)
    | (intro y; subst y)
    | intro _
    | lift_lets -underBinder
    | ((with_reducible apply Within.step (setB_within _ _ _ _)); (on_goal 2 => decide); (on_goal 2 => first | (simp [regsLe]; done) | (simp [regsLe, ringReg]; done)))
    | ((with_reducible apply Within.step (timCause_within _ _)); (on_goal 2 => decide); (on_goal 2 => first | (simp [regsLe]; done) | (simp [regsLe, ringReg]; done)))
    | ((with_reducible apply Within.step (instantEvt_within _ _ _)); (on_goal 2 => decide); (on_goal 2 => first | (simp [regsLe]; done) | (simp [regsLe, ringReg]; done)))
    | (simp -zeta only [Within.of_mk]; with_reducible refine Within.upd rfl ?_)
    | with_reducible apply Within.ite
    | with_reducible apply Within.foldl
    | split

theorem fireWake_within (late : Option Nat) (instant : Nat) (s : State) : Within [.hif, .evr, .pmc, .tim, .out] (some [0x06004, 0x04014, 0x0A034, 0x0A010, 0x0A030]) s (fireWake late instant s) := by
  unfold fireWake
  repeat' first
    | with_reducible apply Within.refl
    | with_reducible assumption
    | (intro y; with_reducible refine Within.cut y ?_ ?_; (on_goal 2 => clear_value y; intro _); (on_goal 1 => subst y))
    | (intro y; clear_value y)
    | (intro y; subst y)
    | intro _
    | lift_lets -underBinder
    | ((with_reducible apply Within.step (setB_within _ _ _ _)); (on_goal 2 => decide); (on_goal 2 => first | (simp [regsLe]; done) | (simp [regsLe, ringReg]; done)))
    | ((with_reducible apply Within.step (timCause_within _ _)); (on_goal 2 => decide); (on_goal 2 => first | (simp [regsLe]; done) | (simp [regsLe, ringReg]; done)))
    | ((with_reducible apply Within.step (instantEvt_within _ _ _)); (on_goal 2 => decide); (on_goal 2 => first | (simp [regsLe]; done) | (simp [regsLe, ringReg]; done)))
    | (simp -zeta only [Within.of_mk]; with_reducible refine Within.upd rfl ?_)
    | with_reducible apply Within.ite
    | with_reducible apply Within.foldl
    | split

theorem rtcJump_within (old : Nat) (new : Nat) (s : State) : Within [.hif, .evr, .pmc, .tim, .out] (some [0x06004, 0x04014, 0x0A034, 0x0A010, 0x0A030]) s (rtcJump old new s) := by
  unfold rtcJump
  repeat' first
    | with_reducible apply Within.refl
    | with_reducible assumption
    | (intro y; with_reducible refine Within.cut y ?_ ?_; (on_goal 2 => clear_value y; intro _); (on_goal 1 => subst y))
    | (intro y; clear_value y)
    | (intro y; subst y)
    | intro _
    | lift_lets -underBinder
    | ((with_reducible apply Within.step (evt_within _ _ _ _)); (on_goal 2 => decide); (on_goal 2 => first | (simp [regsLe]; done) | (simp [regsLe, ringReg]; done)))
    | ((with_reducible apply Within.step (setF_within _ _ _ _ _)); (on_goal 2 => decide); (on_goal 2 => first | (simp [regsLe]; done) | (simp [regsLe, ringReg]; done)))
    | ((with_reducible apply Within.step (fireWake_within _ _ _)); (on_goal 2 => decide); (on_goal 2 => first | (simp [regsLe]; done) | (simp [regsLe, ringReg]; done)))
    | ((with_reducible apply Within.step (fireAlarm_within _ _)); (on_goal 2 => decide); (on_goal 2 => first | (simp [regsLe]; done) | (simp [regsLe, ringReg]; done)))
    | (simp -zeta only [Within.of_mk]; with_reducible refine Within.upd rfl ?_)
    | with_reducible apply Within.ite
    | with_reducible apply Within.foldl
    | split

theorem setRtc_within (fromNet : Bool) (t : Nat) (s : State) : Within [.hif, .evr, .pmc, .tim, .disp, .out, .free] (some [0x06004, 0x0A034, 0x0A010, 0x0A030, 0x04014]) s (setRtc fromNet t s) := by
  unfold setRtc
  repeat' first
    | with_reducible apply Within.refl
    | with_reducible assumption
    | (intro y; with_reducible refine Within.cut y ?_ ?_; (on_goal 2 => clear_value y; intro _); (on_goal 1 => subst y))
    | (intro y; with_reducible refine Within.cut y.2 ?_ ?_; (on_goal 2 => clear_value y; intro _); (on_goal 1 => subst y))
    | (intro y; clear_value y)
    | (intro y; subst y)
    | intro _
    | lift_lets -underBinder
    | ((with_reducible apply Within.step (rtcJump_within _ _ _)); (on_goal 2 => decide); (on_goal 2 => first | (simp [regsLe]; done) | (simp [regsLe, ringReg]; done)))
    | ((with_reducible apply Within.step (setLeg_within _ _)); (on_goal 2 => decide); (on_goal 2 => first | (simp [regsLe]; done) | (simp [regsLe, ringReg]; done)))
    | ((with_reducible apply Within.step (evt_within _ _ _ _)); (on_goal 2 => decide); (on_goal 2 => first | (simp [regsLe]; done) | (simp [regsLe, ringReg]; done)))
    | ((with_reducible apply Within.step (setB_within _ _ _ _)); (on_goal 2 => decide); (on_goal 2 => first | (simp [regsLe]; done) | (simp [regsLe, ringReg]; done)))
    | ((with_reducible apply Within.step (draw_proj _)); (on_goal 2 => decide); (on_goal 2 => first | (simp [regsLe]; done) | (simp [regsLe, ringReg]; done)))
    | ((with_reducible apply Within.step (draw_eq ‹draw _ = _›)); (on_goal 2 => decide); (on_goal 2 => first | (simp [regsLe]; done) | (simp [regsLe, ringReg]; done)))
    | (simp -zeta only [Within.of_mk]; with_reducible refine Within.upd rfl ?_)
    | with_reducible apply Within.ite
    | with_reducible apply Within.foldl
    | split

theorem slew_within (s : State) : Within [.tim, .free] (some [0x0410C, 0x04108]) s (slew s) := by
  unfold slew
  repeat' first
    | with_reducible apply Within.refl
    | with_reducible assumption
    | (intro y; with_reducible refine Within.cut y ?_ ?_; (on_goal 2 => clear_value y; intro _); (on_goal 1 => subst y))
    | (intro y; with_reducible refine Within.cut y.2 ?_ ?_; (on_goal 2 => clear_value y; intro _); (on_goal 1 => subst y))
    | (intro y; clear_value y)
    | (intro y; subst y)
    | intro _
    | lift_lets -underBinder
    | ((with_reducible apply Within.step (setReg_within _ _ _)); (on_goal 2 => decide); (on_goal 2 => first | (simp [regsLe]; done) | (simp [regsLe, ringReg]; done)))
    | ((with_reducible apply Within.step (draw_proj _)); (on_goal 2 => decide); (on_goal 2 => first | (simp [regsLe]; done) | (simp [regsLe, ringReg]; done)))
    | ((with_reducible apply Within.step (draw_eq ‹draw _ = _›)); (on_goal 2 => decide); (on_goal 2 => first | (simp [regsLe]; done) | (simp [regsLe, ringReg]; done)))
    | (simp -zeta only [Within.of_mk]; with_reducible refine Within.upd rfl ?_)
    | with_reducible apply Within.ite
    | with_reducible apply Within.foldl
    | split

theorem countOffset_within (ofs : Int) (s : State) : Within [.hif, .evr, .pmc, .tim, .disp, .out] (some [0x0A034, 0x04014, 0x0A010, 0x0A030]) s (countOffset ofs s) := by
  unfold countOffset
  repeat' first
    | with_reducible apply Within.refl
    | with_reducible assumption
    | (intro y; with_reducible refine Within.cut y ?_ ?_; (on_goal 2 => clear_value y; intro _); (on_goal 1 => subst y))
    | (intro y; clear_value y)
    | (intro y; subst y)
    | intro _
    | lift_lets -underBinder
    | ((with_reducible apply Within.step (toHoldover_within _)); (on_goal 2 => decide); (on_goal 2 => first | (simp [regsLe]; done) | (simp [regsLe, ringReg]; done)))
    | ((with_reducible apply Within.step (setQuality_within _ _)); (on_goal 2 => decide); (on_goal 2 => first | (simp [regsLe]; done) | (simp [regsLe, ringReg]; done)))
    | (simp -zeta only [Within.of_mk]; with_reducible refine Within.upd rfl ?_)
    | with_reducible apply Within.ite
    | with_reducible apply Within.foldl
    | split

theorem refuseStep_within (ofs : Int) (s : State) : Within [.hif, .evr, .pmc, .tim, .disp, .out] (some [0x04024, 0x04020, 0x0A034, 0x04014, 0x0A010, 0x0A030]) s (refuseStep ofs s) := by
  unfold refuseStep
  repeat' first
    | with_reducible apply Within.refl
    | with_reducible assumption
    | (intro y; with_reducible refine Within.cut y ?_ ?_; (on_goal 2 => clear_value y; intro _); (on_goal 1 => subst y))
    | (intro y; clear_value y)
    | (intro y; subst y)
    | intro _
    | lift_lets -underBinder
    | ((with_reducible apply Within.step (timCause_within _ _)); (on_goal 2 => decide); (on_goal 2 => first | (simp [regsLe]; done) | (simp [regsLe, ringReg]; done)))
    | ((with_reducible apply Within.step (evt_within _ _ _ _)); (on_goal 2 => decide); (on_goal 2 => first | (simp [regsLe]; done) | (simp [regsLe, ringReg]; done)))
    | ((with_reducible apply Within.step (setPair_within _ _ _)); (on_goal 2 => decide); (on_goal 2 => first | (simp [regsLe]; done) | (simp [regsLe, ringReg]; done)))
    | ((with_reducible apply Within.step (toHoldover_within _)); (on_goal 2 => decide); (on_goal 2 => first | (simp [regsLe]; done) | (simp [regsLe, ringReg]; done)))
    | (simp -zeta only [Within.of_mk]; with_reducible refine Within.upd rfl ?_)
    | with_reducible apply Within.ite
    | with_reducible apply Within.foldl
    | split

theorem ptpOffset_within (ofs : Int) (s : State) : Within [.hif, .evr, .pmc, .tim, .disp, .fio, .out, .free] (some [0x38808, 0x38848, 0x38888, 0x388C8, 0x0A034, 0x04014, 0x0A010, 0x0A030, 0x04024, 0x04020, 0x0410C, 0x04108]) s (ptpOffset ofs s) := by
  unfold ptpOffset
  repeat' first
    | with_reducible apply Within.refl
    | with_reducible assumption
    | (intro y; with_reducible refine Within.cut y ?_ ?_; (on_goal 2 => clear_value y; intro _); (on_goal 1 => subst y))
    | (intro y; clear_value y)
    | (intro y; subst y)
    | intro _
    | lift_lets -underBinder
    | ((with_reducible apply Within.step (slew_within _)); (on_goal 2 => decide); (on_goal 2 => first | (simp [regsLe]; done) | (simp [regsLe, ringReg]; done)))
    | ((with_reducible apply Within.step (refuseStep_within _ _)); (on_goal 2 => decide); (on_goal 2 => first | (simp [regsLe]; done) | (simp [regsLe, ringReg]; done)))
    | ((with_reducible apply Within.step (countOffset_within _ _)); (on_goal 2 => decide); (on_goal 2 => first | (simp [regsLe]; done) | (simp [regsLe, ringReg]; done)))
    | ((with_reducible apply Within.step (setPair_within _ _ _)); (on_goal 2 => decide); (on_goal 2 => first | (simp [regsLe]; done) | (simp [regsLe, ringReg]; done)))
    | ((with_reducible apply Within.step (stepNet_within _ _)); (on_goal 2 => decide); (on_goal 2 => first | (simp [regsLe]; done) | (simp [regsLe, ringReg]; done)))
    | (simp -zeta only [Within.of_mk]; with_reducible refine Within.upd rfl ?_)
    | with_reducible apply Within.ite
    | with_reducible apply Within.foldl
    | split

theorem announce_within (m : AnnounceMsg) (s : State) : Within [.hif, .evr, .pmc, .tim, .disp, .out] (some [0x0402C, 0x04028, 0x0A034, 0x04014, 0x0A010, 0x0A030]) s (announce m s) := by
  unfold announce
  repeat' first
    | with_reducible apply Within.refl
    | with_reducible assumption
    | (intro y; with_reducible refine Within.cut y ?_ ?_; (on_goal 2 => clear_value y; intro _); (on_goal 1 => subst y))
    | (intro y; clear_value y)
    | (intro y; subst y)
    | intro _
    | lift_lets -underBinder
    | ((with_reducible apply Within.step (timCause_within _ _)); (on_goal 2 => decide); (on_goal 2 => first | (simp [regsLe]; done) | (simp [regsLe, ringReg]; done)))
    | ((with_reducible apply Within.step (evt_within _ _ _ _)); (on_goal 2 => decide); (on_goal 2 => first | (simp [regsLe]; done) | (simp [regsLe, ringReg]; done)))
    | ((with_reducible apply Within.step (setPair_within _ _ _)); (on_goal 2 => decide); (on_goal 2 => first | (simp [regsLe]; done) | (simp [regsLe, ringReg]; done)))
    | ((with_reducible apply Within.step (toHoldover_within _)); (on_goal 2 => decide); (on_goal 2 => first | (simp [regsLe]; done) | (simp [regsLe, ringReg]; done)))
    | (simp -zeta only [Within.of_mk]; with_reducible refine Within.upd rfl ?_)
    | with_reducible apply Within.ite
    | with_reducible apply Within.foldl
    | split

theorem announceTimeout_within (s : State) : Within [.hif, .evr, .pmc, .tim, .disp, .out] (some [0x0A034, 0x04014, 0x0A010, 0x0A030]) s (announceTimeout s) := by
  unfold announceTimeout
  repeat' first
    | with_reducible apply Within.refl
    | with_reducible assumption
    | (intro y; with_reducible refine Within.cut y ?_ ?_; (on_goal 2 => clear_value y; intro _); (on_goal 1 => subst y))
    | (intro y; clear_value y)
    | (intro y; subst y)
    | intro _
    | lift_lets -underBinder
    | ((with_reducible apply Within.step (toHoldover_within _)); (on_goal 2 => decide); (on_goal 2 => first | (simp [regsLe]; done) | (simp [regsLe, ringReg]; done)))
    | (simp -zeta only [Within.of_mk]; with_reducible refine Within.upd rfl ?_)
    | with_reducible apply Within.ite
    | with_reducible apply Within.foldl
    | split

theorem holdHExpiry_within (s : State) : Within [.hif, .pmc, .tim, .disp, .out] (some [0x04014]) s (holdHExpiry s) := by
  unfold holdHExpiry
  repeat' first
    | with_reducible apply Within.refl
    | with_reducible assumption
    | (intro y; with_reducible refine Within.cut y ?_ ?_; (on_goal 2 => clear_value y; intro _); (on_goal 1 => subst y))
    | (intro y; clear_value y)
    | (intro y; subst y)
    | intro _
    | lift_lets -underBinder
    | ((with_reducible apply Within.step (setLeg_within _ _)); (on_goal 2 => decide); (on_goal 2 => first | (simp [regsLe]; done) | (simp [regsLe, ringReg]; done)))
    | (simp -zeta only [Within.of_mk]; with_reducible refine Within.upd rfl ?_)
    | with_reducible apply Within.ite
    | with_reducible apply Within.foldl
    | split

theorem leapSecond_within (positive : Bool) (s : State) : Within [.cfg, .hif, .evr, .pmc, .tim, .out] (some [0x0A034, 0x0A010, 0x0A030]) s (leapSecond positive s) := by
  unfold leapSecond
  repeat' first
    | with_reducible apply Within.refl
    | with_reducible assumption
    | (intro y; with_reducible refine Within.cut y ?_ ?_; (on_goal 2 => clear_value y; intro _); (on_goal 1 => subst y))
    | (intro y; clear_value y)
    | (intro y; subst y)
    | intro _
    | lift_lets -underBinder
    | ((with_reducible apply Within.step (evt_within _ _ _ _)); (on_goal 2 => decide); (on_goal 2 => first | (simp [regsLe]; done) | (simp [regsLe, ringReg]; done)))
    | (simp -zeta only [Within.of_mk]; with_reducible refine Within.upd rfl ?_)
    | with_reducible apply Within.ite
    | with_reducible apply Within.foldl
    | split

theorem incrCommit_within (d : Nat) (ns : Word) (s : State) : Within [.hif, .evr, .pmc, .tim, .out] (some [0x04100, 0x04108, 0x04118, 0x0A034, 0x0A010, 0x0A030]) s (incrCommit d ns s) := by
  unfold incrCommit
  dsimp only
  split
  · exact Within.refl
  rename_i hd
  refine Within.ite ?_ ?_
  · exact (writeIgnored_within _ _ _).mono (by decide) (by simp [regsLe])
  have step : Within [.hif, .evr, .pmc, .tim, .out] (some [0x04100, 0x04108, 0x04118, 0x0A034, 0x0A010, 0x0A030]) s
      (setReg (0x04100 + 8 * if d = 2 then 1 else d) ns s) := by
    refine (setReg_within _ _ _).mono (by decide) ?_
    intro a ha
    simp only [List.mem_singleton] at ha
    subst ha
    obtain rfl | rfl | rfl | rfl : d = 0 ∨ d = 1 ∨ d = 2 ∨ d = 3 := by omega
    all_goals decide
  generalize setReg (0x04100 + 8 * if d = 2 then 1 else d) ns s = u at step ⊢
  generalize (if d = 2 then 1 else d) = e
  split
  all_goals exact Within.upd rfl step

theorem applyStepAccept_within (s : State) : Within [.tim] (some []) s (applyStepAccept s) := by
  unfold applyStepAccept
  repeat' first
    | with_reducible apply Within.refl
    | with_reducible assumption
    | (intro y; with_reducible refine Within.cut y ?_ ?_; (on_goal 2 => clear_value y; intro _); (on_goal 1 => subst y))
    | (intro y; clear_value y)
    | (intro y; subst y)
    | intro _
    | lift_lets -underBinder
    | (simp -zeta only [Within.of_mk]; with_reducible refine Within.upd rfl ?_)
    | with_reducible apply Within.ite
    | with_reducible apply Within.foldl
    | split

theorem applyStepReject_within (s : State) : Within [.hif, .evr, .pmc, .tim, .disp, .out] (some [0x0A034, 0x04014, 0x0A010, 0x0A030]) s (applyStepReject s) := by
  unfold applyStepReject
  repeat' first
    | with_reducible apply Within.refl
    | with_reducible assumption
    | (intro y; with_reducible refine Within.cut y ?_ ?_; (on_goal 2 => clear_value y; intro _); (on_goal 1 => subst y))
    | (intro y; clear_value y)
    | (intro y; subst y)
    | intro _
    | lift_lets -underBinder
    | ((with_reducible apply Within.step (announceTimeout_within _)); (on_goal 2 => decide); (on_goal 2 => first | (simp [regsLe]; done) | (simp [regsLe, ringReg]; done)))
    | (simp -zeta only [Within.of_mk]; with_reducible refine Within.upd rfl ?_)
    | with_reducible apply Within.ite
    | with_reducible apply Within.foldl
    | split

theorem applyTimeSet_within (utcSec : Nat) (ns : Nat) (s : State) : Within [.hif, .evr, .pmc, .tim, .disp, .fio, .out, .free] (some [0x38808, 0x38848, 0x38888, 0x388C8, 0x0A034, 0x04014, 0x0A010, 0x0A030, 0x06004]) s (applyTimeSet utcSec ns s) := by
  unfold applyTimeSet
  repeat' first
    | with_reducible apply Within.refl
    | with_reducible assumption
    | (intro y; with_reducible refine Within.cut y ?_ ?_; (on_goal 2 => clear_value y; intro _); (on_goal 1 => subst y))
    | (intro y; clear_value y)
    | (intro y; subst y)
    | intro _
    | lift_lets -underBinder
    | ((with_reducible apply Within.step (setRtc_within _ _ _)); (on_goal 2 => decide); (on_goal 2 => first | (simp [regsLe]; done) | (simp [regsLe, ringReg]; done)))
    | ((with_reducible apply Within.step (setQuality_within _ _)); (on_goal 2 => decide); (on_goal 2 => first | (simp [regsLe]; done) | (simp [regsLe, ringReg]; done)))
    | ((with_reducible apply Within.step (stepNet_within _ _)); (on_goal 2 => decide); (on_goal 2 => first | (simp [regsLe]; done) | (simp [regsLe, ringReg]; done)))
    | (simp -zeta only [Within.of_mk]; with_reducible refine Within.upd rfl ?_)
    | with_reducible apply Within.ite
    | with_reducible apply Within.foldl
    | split

theorem stepAccept_within (r : Req) (param : Nat) (s : State) : Within [.hif, .pmc, .dup, .tim, .out] (some []) s (stepAccept r param s) := by
  unfold stepAccept
  repeat' first
    | with_reducible apply Within.refl
    | with_reducible assumption
    | (intro y; with_reducible refine Within.cut y ?_ ?_; (on_goal 2 => clear_value y; intro _); (on_goal 1 => subst y))
    | (intro y; clear_value y)
    | (intro y; subst y)
    | intro _
    | lift_lets -underBinder
    | ((with_reducible apply Within.step (applyStepAccept_within _)); (on_goal 2 => decide); (on_goal 2 => simp [regsLe]))
    | ((with_reducible apply viaPeer_within); (on_goal 1 => decide); (on_goal 1 => first | (simp [regsLe]; done) | (simp [regsLe, ringReg]; done)))
    | ((with_reducible apply Within.step (finish_within _ _ _ _)); (on_goal 2 => decide); (on_goal 2 => simp [regsLe]))
    | (simp -zeta only [Within.of_mk]; with_reducible refine Within.upd rfl ?_)
    | with_reducible apply Within.ite
    | with_reducible apply Within.foldl
    | split

theorem stepReject_within (r : Req) (param : Nat) (s : State) : Within [.hif, .evr, .pmc, .dup, .tim, .disp, .out] (some [0x0A034, 0x04014, 0x0A010, 0x0A030]) s (stepReject r param s) := by
  unfold stepReject
  repeat' first
    | with_reducible apply Within.refl
    | with_reducible assumption
    | (intro y; with_reducible refine Within.cut y ?_ ?_; (on_goal 2 => clear_value y; intro _); (on_goal 1 => subst y))
    | (intro y; clear_value y)
    | (intro y; subst y)
    | intro _
    | lift_lets -underBinder
    | ((with_reducible apply Within.step (applyStepReject_within _)); (on_goal 2 => decide); (on_goal 2 => first | (simp [regsLe]; done) | (simp [regsLe, ringReg]; done)))
    | ((with_reducible apply viaPeer_within); (on_goal 1 => decide); (on_goal 1 => first | (simp [regsLe]; done) | (simp [regsLe, ringReg]; done)))
    | ((with_reducible apply Within.step (finish_within _ _ _ _)); (on_goal 2 => decide); (on_goal 2 => simp [regsLe]))
    | (simp -zeta only [Within.of_mk]; with_reducible refine Within.upd rfl ?_)
    | with_reducible apply Within.ite
    | with_reducible apply Within.foldl
    | split

theorem timeSet_within (r : Req) (utcSec : Nat) (ns : Nat) (flags : Nat) (s : State) : Within [.hif, .evr, .pmc, .dup, .tim, .disp, .fio, .out, .free] (some [0x38808, 0x38848, 0x38888, 0x388C8, 0x0A034, 0x04014, 0x0A010, 0x0A030, 0x06004]) s (timeSet r utcSec ns flags s) := by
  unfold timeSet
  repeat' first
    | with_reducible apply Within.refl
    | with_reducible assumption
    | (intro y; with_reducible refine Within.cut y ?_ ?_; (on_goal 2 => clear_value y; intro _); (on_goal 1 => subst y))
    | (intro y; clear_value y)
    | (intro y; subst y)
    | intro _
    | lift_lets -underBinder
    | ((with_reducible apply Within.step (applyTimeSet_within _ _ _)); (on_goal 2 => decide); (on_goal 2 => first | (simp [regsLe]; done) | (simp [regsLe, ringReg]; done)))
    | ((with_reducible apply viaPeer_within); (on_goal 1 => decide); (on_goal 1 => first | (simp [regsLe]; done) | (simp [regsLe, ringReg]; done)))
    | ((with_reducible apply Within.step (finish_within _ _ _ _)); (on_goal 2 => decide); (on_goal 2 => simp [regsLe]))
    | (simp -zeta only [Within.of_mk]; with_reducible refine Within.upd rfl ?_)
    | with_reducible apply Within.ite
    | with_reducible apply Within.foldl
    | split

theorem rtcSet_within (r : Req) (source : Nat) (ms : Nat) (s : State) : Within [.hif, .evr, .pmc, .tim, .disp, .out, .free] (some [0x06004, 0x0A034, 0x0A010, 0x0A030, 0x04014]) s (rtcSet r source ms s) := by
  unfold rtcSet
  repeat' first
    | with_reducible apply Within.refl
    | with_reducible assumption
    | (intro y; with_reducible refine Within.cut y ?_ ?_; (on_goal 2 => clear_value y; intro _); (on_goal 1 => subst y))
    | (intro y; clear_value y)
    | (intro y; subst y)
    | intro _
    | lift_lets -underBinder
    | ((with_reducible apply Within.step (setRtc_within _ _ _)); (on_goal 2 => decide); (on_goal 2 => first | (simp [regsLe]; done) | (simp [regsLe, ringReg]; done)))
    | ((with_reducible apply Within.step (complete_within _ _ _ _ _ _)); (on_goal 2 => decide); (on_goal 2 => simp [regsLe]))
    | ((with_reducible apply Within.step (finish_within _ _ _ _)); (on_goal 2 => decide); (on_goal 2 => simp [regsLe]))
    | (simp -zeta only [Within.of_mk]; with_reducible refine Within.upd rfl ?_)
    | with_reducible apply Within.ite
    | with_reducible apply Within.foldl
    | split

theorem alarmSet_within (r : Req) (alarm : Nat) (period : Nat) (s : State) : Within [.hif, .pmc, .tim, .out] (some []) s (alarmSet r alarm period s) := by
  unfold alarmSet
  repeat' first
    | with_reducible apply Within.refl
    | with_reducible assumption
    | (intro y; with_reducible refine Within.cut y ?_ ?_; (on_goal 2 => clear_value y; intro _); (on_goal 1 => subst y))
    | (intro y; clear_value y)
    | (intro y; subst y)
    | intro _
    | lift_lets -underBinder
    | ((with_reducible apply Within.step (complete_within _ _ _ _ _ _)); (on_goal 2 => decide); (on_goal 2 => simp [regsLe]))
    | ((with_reducible apply Within.step (finish_within _ _ _ _)); (on_goal 2 => decide); (on_goal 2 => simp [regsLe]))
    | (simp -zeta only [Within.of_mk]; with_reducible refine Within.upd rfl ?_)
    | with_reducible apply Within.ite
    | with_reducible apply Within.foldl
    | split

theorem rtcCompare_within (s : State) : Within [.hif, .evr, .pmc, .tim, .disp, .out, .free] (some [0x06008, 0x06004, 0x0A034, 0x0A010, 0x0A030, 0x04014]) s (rtcCompare s) := by
  unfold rtcCompare
  repeat' first
    | with_reducible apply Within.refl
    | with_reducible assumption
    | (intro y; with_reducible refine Within.cut y ?_ ?_; (on_goal 2 => clear_value y; intro _); (on_goal 1 => subst y))
    | (intro y; with_reducible refine Within.cut y.2 ?_ ?_; (on_goal 2 => clear_value y; intro _); (on_goal 1 => subst y))
    | (intro y; clear_value y)
    | (intro y; subst y)
    | intro _
    | lift_lets -underBinder
    | ((with_reducible apply Within.step (setReg_within _ _ _)); (on_goal 2 => decide); (on_goal 2 => first | (simp [regsLe]; done) | (simp [regsLe, ringReg]; done)))
    | ((with_reducible apply Within.step (draw_proj _)); (on_goal 2 => decide); (on_goal 2 => first | (simp [regsLe]; done) | (simp [regsLe, ringReg]; done)))
    | ((with_reducible apply Within.step (draw_eq ‹draw _ = _›)); (on_goal 2 => decide); (on_goal 2 => first | (simp [regsLe]; done) | (simp [regsLe, ringReg]; done)))
    | ((with_reducible apply Within.step (setRtc_within _ _ _)); (on_goal 2 => decide); (on_goal 2 => first | (simp [regsLe]; done) | (simp [regsLe, ringReg]; done)))
    | (simp -zeta only [Within.of_mk]; with_reducible refine Within.upd rfl ?_)
    | with_reducible apply Within.ite
    | with_reducible apply Within.foldl
    | split

theorem rtcAlarm_within (s : State) : Within [.hif, .evr, .pmc, .tim, .out] (some [0x06004, 0x0A034, 0x04014, 0x0A010, 0x0A030]) s (rtcAlarm s) := by
  unfold rtcAlarm
  repeat' first
    | with_reducible apply Within.refl
    | with_reducible assumption
    | (intro y; with_reducible refine Within.cut y ?_ ?_; (on_goal 2 => clear_value y; intro _); (on_goal 1 => subst y))
    | (intro y; clear_value y)
    | (intro y; subst y)
    | intro _
    | lift_lets -underBinder
    | ((with_reducible apply Within.step (fireAlarm_within _ _)); (on_goal 2 => decide); (on_goal 2 => first | (simp [regsLe]; done) | (simp [regsLe, ringReg]; done)))
    | (simp -zeta only [Within.of_mk]; with_reducible refine Within.upd rfl ?_)
    | with_reducible apply Within.ite
    | with_reducible apply Within.foldl
    | split

theorem periodicWake_within (s : State) : Within [.hif, .evr, .pmc, .tim, .out] (some [0x06004, 0x04014, 0x0A034, 0x0A010, 0x0A030]) s (periodicWake s) := by
  unfold periodicWake
  repeat' first
    | with_reducible apply Within.refl
    | with_reducible assumption
    | (intro y; with_reducible refine Within.cut y ?_ ?_; (on_goal 2 => clear_value y; intro _); (on_goal 1 => subst y))
    | (intro y; clear_value y)
    | (intro y; subst y)
    | intro _
    | lift_lets -underBinder
    | ((with_reducible apply Within.step (fireWake_within _ _ _)); (on_goal 2 => decide); (on_goal 2 => first | (simp [regsLe]; done) | (simp [regsLe, ringReg]; done)))
    | (simp -zeta only [Within.of_mk]; with_reducible refine Within.upd rfl ?_)
    | with_reducible apply Within.ite
    | with_reducible apply Within.foldl
    | split

theorem captureEdge_within (k : Nat) (rising : Bool) (s : State) : Within [.hif, .pmc, .out] (some [16896 + 32 * k + 24, 16896 + 32 * k + 8, 16896 + 32 * k + 4, 16896 + 32 * k + 16, 16896 + 32 * k + 12, 16896 + 32 * k + 20, 0x04014]) s (captureEdge k rising s) := by
  unfold captureEdge
  repeat' first
    | with_reducible apply Within.refl
    | with_reducible assumption
    | (intro (y : Nat); subst y)
    | (intro y; with_reducible refine Within.cut y ?_ ?_; (on_goal 2 => clear_value y; intro _); (on_goal 1 => subst y))
    | (intro (y : Nat); subst y)
    | (intro y; clear_value y)
    | (intro y; subst y)
    | intro _
    | lift_lets -underBinder
    | ((with_reducible apply Within.step (pmcAdd_within _ _ _)); (on_goal 2 => decide); (on_goal 2 => simp [regsLe]))
    | ((with_reducible apply Within.step (timCause_within _ _)); (on_goal 2 => decide); (on_goal 2 => first | (simp [regsLe]; done) | (simp [regsLe, ringReg]; done)))
    | ((with_reducible apply Within.step (setReg_within _ _ _)); (on_goal 2 => decide); (on_goal 2 => first | (simp [regsLe]; done) | (simp [regsLe, ringReg]; done)))
    | ((with_reducible apply Within.step (setB_within _ _ _ _)); (on_goal 2 => decide); (on_goal 2 => first | (simp [regsLe]; done) | (simp [regsLe, ringReg]; done)))
    | (simp -zeta only [Within.of_mk]; with_reducible refine Within.upd rfl ?_)
    | with_reducible apply Within.ite
    | with_reducible apply Within.foldl
    | split

theorem launchPulse_within (k : Nat) (s : State) : Within [.tim, .out] (some []) s (launchPulse k s) := by
  unfold launchPulse
  repeat' first
    | with_reducible apply Within.refl
    | with_reducible assumption
    | (intro y; with_reducible refine Within.cut y ?_ ?_; (on_goal 2 => clear_value y; intro _); (on_goal 1 => subst y))
    | (intro y; clear_value y)
    | (intro y; subst y)
    | intro _
    | lift_lets -underBinder
    | ((with_reducible apply Within.step (pulse_within _ _ _)); (on_goal 2 => decide); (on_goal 2 => simp [regsLe]))
    | (simp -zeta only [Within.of_mk]; with_reducible refine Within.upd rfl ?_)
    | with_reducible apply Within.ite
    | with_reducible apply Within.foldl
    | split

theorem oscStop_within (s : State) : Within [.hif, .evr, .pmc, .out] (some [0x06004, 0x0A034, 0x04014, 0x0A010, 0x0A030]) s (oscStop s) := by
  unfold oscStop
  repeat' first
    | with_reducible apply Within.refl
    | with_reducible assumption
    | (intro y; with_reducible refine Within.cut y ?_ ?_; (on_goal 2 => clear_value y; intro _); (on_goal 1 => subst y))
    | (intro y; clear_value y)
    | (intro y; subst y)
    | intro _
    | lift_lets -underBinder
    | ((with_reducible apply Within.step (timCause_within _ _)); (on_goal 2 => decide); (on_goal 2 => first | (simp [regsLe]; done) | (simp [regsLe, ringReg]; done)))
    | ((with_reducible apply Within.step (evt_within _ _ _ _)); (on_goal 2 => decide); (on_goal 2 => first | (simp [regsLe]; done) | (simp [regsLe, ringReg]; done)))
    | ((with_reducible apply Within.step (setB_within _ _ _ _)); (on_goal 2 => decide); (on_goal 2 => first | (simp [regsLe]; done) | (simp [regsLe, ringReg]; done)))
    | (simp -zeta only [Within.of_mk]; with_reducible refine Within.upd rfl ?_)
    | with_reducible apply Within.ite
    | with_reducible apply Within.foldl
    | split

theorem backupSwitch_within (mainUp : Bool) (extMv : Nat) (cellMv : Nat) (s : State) : Within [.tim] (some [0x06004]) s (backupSwitch mainUp extMv cellMv s) := by
  unfold backupSwitch
  repeat' first
    | with_reducible apply Within.refl
    | with_reducible assumption
    | (intro y; with_reducible refine Within.cut y ?_ ?_; (on_goal 2 => clear_value y; intro _); (on_goal 1 => subst y))
    | (intro y; clear_value y)
    | (intro y; subst y)
    | intro _
    | lift_lets -underBinder
    | ((with_reducible apply Within.step (setF_within _ _ _ _ _)); (on_goal 2 => decide); (on_goal 2 => first | (simp [regsLe]; done) | (simp [regsLe, ringReg]; done)))
    | (simp -zeta only [Within.of_mk]; with_reducible refine Within.upd rfl ?_)
    | with_reducible apply Within.ite
    | with_reducible apply Within.foldl
    | split

theorem lowFlag_within (bit : Nat) (v : Bool) (s : State) : Within [.hif, .evr, .pmc, .out] (some [0x06004, 0x0A034, 0x0A010, 0x0A030]) s (lowFlag bit v s) := by
  unfold lowFlag
  repeat' first
    | with_reducible apply Within.refl
    | with_reducible assumption
    | (intro y; with_reducible refine Within.cut y ?_ ?_; (on_goal 2 => clear_value y; intro _); (on_goal 1 => subst y))
    | (intro y; clear_value y)
    | (intro y; subst y)
    | intro _
    | lift_lets -underBinder
    | ((with_reducible apply Within.step (evt_within _ _ _ _)); (on_goal 2 => decide); (on_goal 2 => first | (simp [regsLe]; done) | (simp [regsLe, ringReg]; done)))
    | ((with_reducible apply Within.step (setB_within _ _ _ _)); (on_goal 2 => decide); (on_goal 2 => first | (simp [regsLe]; done) | (simp [regsLe, ringReg]; done)))
    | (simp -zeta only [Within.of_mk]; with_reducible refine Within.upd rfl ?_)
    | with_reducible apply Within.ite
    | with_reducible apply Within.foldl
    | split

theorem backupMeasure_within (extMv : Nat) (cellMv : Nat) (capMv : Nat) (s : State) : Within [.hif, .pwr, .start, .fco, .evr, .pmc, .dup, .tim, .rnd, .tly, .cyc, .out] none s (backupMeasure extMv cellMv capMv s) := by
  unfold backupMeasure
  repeat' first
    | with_reducible apply Within.refl
    | with_reducible assumption
    | (intro y; with_reducible refine Within.cut y ?_ ?_; (on_goal 2 => clear_value y; intro _); (on_goal 1 => subst y))
    | (intro y; clear_value y)
    | (intro y; subst y)
    | intro _
    | lift_lets -underBinder
    | ((with_reducible apply Within.step (timCause_within _ _)); (on_goal 2 => decide); (on_goal 2 => trivial))
    | ((with_reducible apply Within.step (setCond_within _ _ _)); (on_goal 2 => decide); (on_goal 2 => trivial))
    | ((with_reducible apply Within.step (lowFlag_within _ _ _)); (on_goal 2 => decide); (on_goal 2 => trivial))
    | ((with_reducible apply Within.step (setReg_within _ _ _)); (on_goal 2 => decide); (on_goal 2 => trivial))
    | (simp -zeta only [Within.of_mk]; with_reducible refine Within.upd rfl ?_)
    | with_reducible apply Within.ite
    | with_reducible apply Within.foldl
    | split

theorem vbdTrip_within (s : State) : Within [.tim] (some []) s (vbdTrip s) := by
  unfold vbdTrip
  repeat' first
    | with_reducible apply Within.refl
    | with_reducible assumption
    | (intro y; with_reducible refine Within.cut y ?_ ?_; (on_goal 2 => clear_value y; intro _); (on_goal 1 => subst y))
    | (intro y; clear_value y)
    | (intro y; subst y)
    | intro _
    | lift_lets -underBinder
    | (simp -zeta only [Within.of_mk]; with_reducible refine Within.upd rfl ?_)
    | with_reducible apply Within.ite
    | with_reducible apply Within.foldl
    | split

end Sys2Proof.Machine
end

