-- ==== Sys2Proof/Laws/WithinRnd.lean ====
section
/-!
SUPPORT. What each operation of Machine/Rnd.lean may change at most.
-/
set_option linter.all false
set_option Elab.async false

namespace Sys2Proof.Machine

theorem putStn_within (id : Nat) (x : StnSt) (s : State) : Within [.rnd] (some []) s (putStn id x s) := by
  unfold putStn
  repeat' first
    | with_reducible apply Within.refl
    | with_reducible assumption
    | (intro y; with_reducible refine Within.cut y ?_ ?_; (on_goal 2 => clear_value y; intro _); (on_goal 1 => subst y))
    | (intro y; clear_value y)
    | (intro y; subst y)
    | intro _
    | lift_lets -underBinder
    | (simp -zeta only [Within.of_mk]; with_reducible refine Within.upd rfl ?_)
    | with_reducible apply Within.ite
    | with_reducible apply Within.foldl
    | split

theorem setSess_within (id : Nat) (v : Sess) (s : State) : Within [.rnd] (some []) s (setSess id v s) := by
  unfold setSess
  repeat' first
    | with_reducible apply Within.refl
    | with_reducible assumption
    | (intro y; with_reducible refine Within.cut y ?_ ?_; (on_goal 2 => clear_value y; intro _); (on_goal 1 => subst y))
    | (intro y; clear_value y)
    | (intro y; subst y)
    | intro _
    | lift_lets -underBinder
    | ((with_reducible apply Within.step (putStn_within _ _ _)); (on_goal 2 => decide); (on_goal 2 => simp [regsLe]))
    | (simp -zeta only [Within.of_mk]; with_reducible refine Within.upd rfl ?_)
    | with_reducible apply Within.ite
    | with_reducible apply Within.foldl
    | split

theorem sendEnrol_within (type : Nat) (id : Nat) (epoch : Nat) (body : Bytes) (s : State) : Within [.out] (some []) s (sendEnrol type id epoch body s) := by
  unfold sendEnrol
  repeat' first
    | with_reducible apply Within.refl
    | with_reducible assumption
    | (intro y; with_reducible refine Within.cut y ?_ ?_; (on_goal 2 => clear_value y; intro _); (on_goal 1 => subst y))
    | (intro y; clear_value y)
    | (intro y; subst y)
    | intro _
    | lift_lets -underBinder
    | ((with_reducible apply Within.step (emit_within _ _)); (on_goal 2 => decide); (on_goal 2 => simp [regsLe]))
    | (simp -zeta only [Within.of_mk]; with_reducible refine Within.upd rfl ?_)
    | with_reducible apply Within.ite
    | with_reducible apply Within.foldl
    | split

theorem sendSession_within (type : Nat) (id : Nat) (flags : Nat) (body : Bytes) (s : State) : Within [.rnd, .out] (some []) s (sendSession type id flags body s) := by
  unfold sendSession
  repeat' first
    | with_reducible apply Within.refl
    | with_reducible assumption
    | (intro y; with_reducible refine Within.cut y ?_ ?_; (on_goal 2 => clear_value y; intro _); (on_goal 1 => subst y))
    | (intro y; clear_value y)
    | (intro y; subst y)
    | intro _
    | lift_lets -underBinder
    | ((with_reducible apply Within.step (putStn_within _ _ _)); (on_goal 2 => decide); (on_goal 2 => simp [regsLe]))
    | ((with_reducible apply Within.step (emit_within _ _)); (on_goal 2 => decide); (on_goal 2 => simp [regsLe]))
    | (simp -zeta only [Within.of_mk]; with_reducible refine Within.upd rfl ?_)
    | with_reducible apply Within.ite
    | with_reducible apply Within.foldl
    | split

theorem reject_within (code : Nat) (id : Nat) (epoch : Nat) (epochRef : Nat) (fseqRef : Nat) (nsRef : Nat) (s : State) : Within [.pmc, .rnd, .out] (some []) s (reject code id epoch epochRef fseqRef nsRef s) := by
  unfold reject
  repeat' first
    | with_reducible apply Within.refl
    | with_reducible assumption
    | (intro y; with_reducible refine Within.cut y ?_ ?_; (on_goal 2 => clear_value y; intro _); (on_goal 1 => subst y))
    | (intro y; clear_value y)
    | (intro y; subst y)
    | intro _
    | lift_lets -underBinder
    | ((with_reducible apply Within.step (putStn_within _ _ _)); (on_goal 2 => decide); (on_goal 2 => simp [regsLe]))
    | ((with_reducible apply Within.step (sendEnrol_within _ _ _ _ _)); (on_goal 2 => decide); (on_goal 2 => simp [regsLe]))
    | ((with_reducible apply Within.step (pmcAdd_within _ _ _)); (on_goal 2 => decide); (on_goal 2 => simp [regsLe]))
    | (simp -zeta only [Within.of_mk]; with_reducible refine Within.upd rfl ?_)
    | with_reducible apply Within.ite
    | with_reducible apply Within.foldl
    | split

theorem discard_within (k : Nat) (id : Nat) (s : State) : Within [.hif, .evr, .pmc, .rnd, .out] (some [0x0A034, 180480 + 4 * k, 0x0A010, 0x0A030]) s (discard k id s) := by
  unfold discard
  repeat' first
    | with_reducible apply Within.refl
    | with_reducible assumption
    | (intro y; with_reducible refine Within.cut y ?_ ?_; (on_goal 2 => clear_value y; intro _); (on_goal 1 => subst y))
    | (intro y; clear_value y)
    | (intro y; subst y)
    | intro _
    | lift_lets -underBinder
    | ((with_reducible apply Within.step (putStn_within _ _ _)); (on_goal 2 => decide); (on_goal 2 => simp [regsLe]))
    | ((with_reducible apply Within.step (incReg_within _ _ _)); (on_goal 2 => decide); (on_goal 2 => first | (simp [regsLe]; done) | (simp [regsLe, ringReg]; done)))
    | ((with_reducible apply Within.step (pmcAdd_within _ _ _)); (on_goal 2 => decide); (on_goal 2 => simp [regsLe]))
    | ((with_reducible apply Within.step (evt_within _ _ _ _)); (on_goal 2 => decide); (on_goal 2 => first | (simp [regsLe]; done) | (simp [regsLe, ringReg]; done)))
    | (simp -zeta only [Within.of_mk]; with_reducible refine Within.upd rfl ?_)
    | with_reducible apply Within.ite
    | with_reducible apply Within.foldl
    | split

theorem noteAddr_within (f : Frame) (s : State) : Within [.hif, .evr, .pmc, .rnd, .out] (some [0x0A034, 0x0A010, 0x0A030]) s (noteAddr f s) := by
  unfold noteAddr
  repeat' first
    | with_reducible apply Within.refl
    | with_reducible assumption
    | (intro y; with_reducible refine Within.cut y ?_ ?_; (on_goal 2 => clear_value y; intro _); (on_goal 1 => subst y))
    | (intro y; clear_value y)
    | (intro y; subst y)
    | intro _
    | lift_lets -underBinder
    | ((with_reducible apply Within.step (evt_within _ _ _ _)); (on_goal 2 => decide); (on_goal 2 => first | (simp [regsLe]; done) | (simp [regsLe, ringReg]; done)))
    | ((with_reducible apply Within.step (putStn_within _ _ _)); (on_goal 2 => decide); (on_goal 2 => simp [regsLe]))
    | (simp -zeta only [Within.of_mk]; with_reducible refine Within.upd rfl ?_)
    | with_reducible apply Within.ite
    | with_reducible apply Within.foldl
    | split

theorem newSession_within (id : Nat) (epoch : Nat) (ns : Nat) (nm : Option Nat) (sps : Nat) (appIn : Nat) (appOut : Nat) (s : State) : Within [.pmc, .kst, .rnd] (some []) s (newSession id epoch ns nm sps appIn appOut s) := by
  unfold newSession
  repeat' first
    | with_reducible apply Within.refl
    | with_reducible assumption
    | (intro y; with_reducible refine Within.cut y ?_ ?_; (on_goal 2 => clear_value y; intro _); (on_goal 1 => subst y))
    | (intro y; clear_value y)
    | (intro y; subst y)
    | intro _
    | lift_lets -underBinder
    | ((with_reducible apply Within.step (pmcAdd_within _ _ _)); (on_goal 2 => decide); (on_goal 2 => simp [regsLe]))
    | ((with_reducible apply Within.step (putStn_within _ _ _)); (on_goal 2 => decide); (on_goal 2 => simp [regsLe]))
    | (simp -zeta only [Within.of_mk]; with_reducible refine Within.upd rfl ?_)
    | with_reducible apply Within.ite
    | with_reducible apply Within.foldl
    | split

theorem welcome_within (id : Nat) (s : State) : Within [.out] (some []) s (welcome id s) := by
  unfold welcome
  repeat' first
    | with_reducible apply Within.refl
    | with_reducible assumption
    | (intro y; with_reducible refine Within.cut y ?_ ?_; (on_goal 2 => clear_value y; intro _); (on_goal 1 => subst y))
    | (intro y; clear_value y)
    | (intro y; subst y)
    | intro _
    | lift_lets -underBinder
    | ((with_reducible apply Within.step (sendEnrol_within _ _ _ _ _)); (on_goal 2 => decide); (on_goal 2 => simp [regsLe]))
    | (simp -zeta only [Within.of_mk]; with_reducible refine Within.upd rfl ?_)
    | with_reducible apply Within.ite
    | with_reducible apply Within.foldl
    | split

theorem keepKind_within (id : Nat) (f : Frame) (s : State) : Within [.rnd] (some []) s (keepKind id f s) := by
  unfold keepKind
  repeat' first
    | with_reducible apply Within.refl
    | with_reducible assumption
    | (intro y; with_reducible refine Within.cut y ?_ ?_; (on_goal 2 => clear_value y; intro _); (on_goal 1 => subst y))
    | (intro y; clear_value y)
    | (intro y; subst y)
    | intro _
    | lift_lets -underBinder
    | ((with_reducible apply Within.step (putStn_within _ _ _)); (on_goal 2 => decide); (on_goal 2 => simp [regsLe]))
    | (simp -zeta only [Within.of_mk]; with_reducible refine Within.upd rfl ?_)
    | with_reducible apply Within.ite
    | with_reducible apply Within.foldl
    | split

theorem helloAccept_within (f : Frame) (s : State) : Within [.hif, .evr, .pmc, .dup, .kst, .rnd, .out, .free] (some [0x0A034, 0x0A010, 0x0A030]) s (helloAccept f s) := by
  unfold helloAccept
  repeat' first
    | with_reducible apply Within.refl
    | with_reducible assumption
    | (intro y; with_reducible refine Within.cut y ?_ ?_; (on_goal 2 => clear_value y; intro _); (on_goal 1 => subst y))
    | (intro y; with_reducible refine Within.cut y.2 ?_ ?_; (on_goal 2 => clear_value y; intro _); (on_goal 1 => subst y))
    | (intro y; clear_value y)
    | (intro y; subst y)
    | intro _
    | lift_lets -underBinder
    | ((with_reducible apply Within.step (sendPeer_within _ _)); (on_goal 2 => decide); (on_goal 2 => simp [regsLe]))
    | ((with_reducible apply Within.step (newSession_within _ _ _ _ _ _ _ _)); (on_goal 2 => decide); (on_goal 2 => simp [regsLe]))
    | ((with_reducible apply Within.step (keepKind_within _ _ _)); (on_goal 2 => decide); (on_goal 2 => simp [regsLe]))
    | ((with_reducible apply Within.step (welcome_within _ _)); (on_goal 2 => decide); (on_goal 2 => simp [regsLe]))
    | ((with_reducible apply Within.step (draw_proj _)); (on_goal 2 => decide); (on_goal 2 => first | (simp [regsLe]; done) | (simp [regsLe, ringReg]; done)))
    | ((with_reducible apply Within.step (draw_eq ‹draw _ = _›)); (on_goal 2 => decide); (on_goal 2 => first | (simp [regsLe]; done) | (simp [regsLe, ringReg]; done)))
    | ((with_reducible apply Within.step (pmcAdd_within _ _ _)); (on_goal 2 => decide); (on_goal 2 => simp [regsLe]))
    | ((with_reducible apply Within.step (noteAddr_within _ _)); (on_goal 2 => decide); (on_goal 2 => first | (simp [regsLe]; done) | (simp [regsLe, ringReg]; done)))
    | (simp -zeta only [Within.of_mk]; with_reducible refine Within.upd rfl ?_)
    | with_reducible apply Within.ite
    | with_reducible apply Within.foldl
    | split

theorem applyEnrol_within (id : Nat) (epoch : Nat) (ns : Nat) (nm : Nat) (sps : Nat) (appIn : Nat) (appOut : Nat) (s : State) : Within [.pmc, .kst, .rnd] (some []) s (applyEnrol id epoch ns nm sps appIn appOut s) := by
  unfold applyEnrol
  repeat' first
    | with_reducible apply Within.refl
    | with_reducible assumption
    | (intro y; with_reducible refine Within.cut y ?_ ?_; (on_goal 2 => clear_value y; intro _); (on_goal 1 => subst y))
    | (intro y; clear_value y)
    | (intro y; subst y)
    | intro _
    | lift_lets -underBinder
    | ((with_reducible apply Within.step (newSession_within _ _ _ _ _ _ _ _)); (on_goal 2 => decide); (on_goal 2 => simp [regsLe]))
    | ((with_reducible apply Within.step (putStn_within _ _ _)); (on_goal 2 => decide); (on_goal 2 => simp [regsLe]))
    | (simp -zeta only [Within.of_mk]; with_reducible refine Within.upd rfl ?_)
    | with_reducible apply Within.ite
    | with_reducible apply Within.foldl
    | split

theorem hello_within (f : Frame) (d : StationDecl) (s : State) : Within [.hif, .evr, .pmc, .dup, .kst, .rnd, .out, .free] none s (hello f d s) := by
  unfold hello
  repeat' first
    | with_reducible apply Within.refl
    | with_reducible assumption
    | (intro y; with_reducible refine Within.cut y ?_ ?_; (on_goal 2 => clear_value y; intro _); (on_goal 1 => subst y))
    | (intro y; clear_value y)
    | (intro y; subst y)
    | intro _
    | lift_lets -underBinder
    | ((with_reducible apply Within.step (helloAccept_within _ _)); (on_goal 2 => decide); (on_goal 2 => trivial))
    | ((with_reducible apply Within.step (reject_within _ _ _ _ _ _ _)); (on_goal 2 => decide); (on_goal 2 => trivial))
    | ((with_reducible apply Within.step (discard_within _ _ _)); (on_goal 2 => decide); (on_goal 2 => trivial))
    | (simp -zeta only [Within.of_mk]; with_reducible refine Within.upd rfl ?_)
    | with_reducible apply Within.ite
    | with_reducible apply Within.foldl
    | split

theorem enrolled_within (id : Nat) (s : State) : Within [.pmc, .rnd] (some []) s (enrolled id s) := by
  unfold enrolled
  repeat' first
    | with_reducible apply Within.refl
    | with_reducible assumption
    | (intro y; with_reducible refine Within.cut y ?_ ?_; (on_goal 2 => clear_value y; intro _); (on_goal 1 => subst y))
    | (intro y; clear_value y)
    | (intro y; subst y)
    | intro _
    | lift_lets -underBinder
    | ((with_reducible apply Within.step (setSess_within _ _ _)); (on_goal 2 => decide); (on_goal 2 => simp [regsLe]))
    | ((with_reducible apply Within.step (pmcAdd_within _ _ _)); (on_goal 2 => decide); (on_goal 2 => simp [regsLe]))
    | (simp -zeta only [Within.of_mk]; with_reducible refine Within.upd rfl ?_)
    | with_reducible apply Within.ite
    | with_reducible apply Within.foldl
    | split

theorem advanceWin_within (id : Nat) (q : Nat) (s : State) : Within [.rnd] (some []) s (advanceWin id q s) := by
  unfold advanceWin
  repeat' first
    | with_reducible apply Within.refl
    | with_reducible assumption
    | (intro y; with_reducible refine Within.cut y ?_ ?_; (on_goal 2 => clear_value y; intro _); (on_goal 1 => subst y))
    | (intro y; clear_value y)
    | (intro y; subst y)
    | intro _
    | lift_lets -underBinder
    | ((with_reducible apply Within.step (putStn_within _ _ _)); (on_goal 2 => decide); (on_goal 2 => simp [regsLe]))
    | (simp -zeta only [Within.of_mk]; with_reducible refine Within.upd rfl ?_)
    | with_reducible apply Within.ite
    | with_reducible apply Within.foldl
    | split

theorem noteClaim_within (id : Nat) (held : Nat) (s : State) : Within [.hif, .pwr, .start, .evr, .pmc, .dup, .tly, .cyc, .out] (some [0x0E04C, 0x0E030, 0x7F040, 0x0A034, 0x7F01C, 0x0A010, 0x0A030, 0x34020]) s (noteClaim id held s) := by
  unfold noteClaim
  repeat' first
    | with_reducible apply Within.refl
    | with_reducible assumption
    | (intro y; with_reducible refine Within.cut y ?_ ?_; (on_goal 2 => clear_value y; intro _); (on_goal 1 => subst y))
    | (intro y; clear_value y)
    | (intro y; subst y)
    | intro _
    | lift_lets -underBinder
    | ((with_reducible apply Within.step (resign_within _ _)); (on_goal 2 => decide); (on_goal 2 => first | (simp [regsLe]; done) | (simp [regsLe, ringReg]; done)))
    | (simp -zeta only [Within.of_mk]; with_reducible refine Within.upd rfl ?_)
    | with_reducible apply Within.ite
    | with_reducible apply Within.foldl
    | split

theorem readRep_within (f : Frame) (b : Bytes) (s : State) : Within [.hif, .pwr, .start, .evr, .pmc, .dup, .rnd, .tly, .cyc, .out] (some [0x0A034, 0x2C100, 0x2C120, 0x2C11C, 0x2C124, 0x0E04C, 0x0A010, 0x0A030, 0x0E030, 0x7F040, 0x7F01C, 0x34020]) s (readRep f b s) := by
  unfold readRep
  repeat' first
    | with_reducible apply Within.refl
    | with_reducible assumption
    | (intro y; with_reducible refine Within.cut y ?_ ?_; (on_goal 2 => clear_value y; intro _); (on_goal 1 => subst y))
    | (intro y; clear_value y)
    | (intro y; subst y)
    | intro _
    | lift_lets -underBinder
    | ((with_reducible apply Within.step (putStn_within _ _ _)); (on_goal 2 => decide); (on_goal 2 => simp [regsLe]))
    | ((with_reducible apply Within.step (pmcAdd_within _ _ _)); (on_goal 2 => decide); (on_goal 2 => simp [regsLe]))
    | ((with_reducible apply Within.step (noteAddr_within _ _)); (on_goal 2 => decide); (on_goal 2 => first | (simp [regsLe]; done) | (simp [regsLe, ringReg]; done)))
    | ((with_reducible apply Within.step (noteClaim_within _ _ _)); (on_goal 2 => decide); (on_goal 2 => first | (simp [regsLe]; done) | (simp [regsLe, ringReg]; done)))
    | ((with_reducible apply Within.step (enrolled_within _ _)); (on_goal 2 => decide); (on_goal 2 => simp [regsLe]))
    | ((with_reducible apply Within.step (discard_within _ _ _)); (on_goal 2 => decide); (on_goal 2 => first | (simp [regsLe]; done) | (simp [regsLe, ringReg]; done)))
    | (simp -zeta only [Within.of_mk]; with_reducible refine Within.upd rfl ?_)
    | with_reducible apply Within.ite
    | with_reducible apply Within.foldl
    | split

theorem writeAck_within (f : Frame) (b : Bytes) (s : State) : Within [.hif, .pwr, .start, .evr, .pmc, .dup, .rnd, .tly, .cyc, .out] (some [0x0E04C, 0x0A034, 0x2C100, 0x2C120, 0x2C11C, 0x2C124, 0x0E030, 0x7F040, 0x0A010, 0x0A030, 0x7F01C, 0x34020]) s (writeAck f b s) := by
  unfold writeAck
  repeat' first
    | with_reducible apply Within.refl
    | with_reducible assumption
    | (intro y; with_reducible refine Within.cut y ?_ ?_; (on_goal 2 => clear_value y; intro _); (on_goal 1 => subst y))
    | (intro y; clear_value y)
    | (intro y; subst y)
    | intro _
    | lift_lets -underBinder
    | ((with_reducible apply Within.step (putStn_within _ _ _)); (on_goal 2 => decide); (on_goal 2 => simp [regsLe]))
    | ((with_reducible apply Within.step (pmcAdd_within _ _ _)); (on_goal 2 => decide); (on_goal 2 => simp [regsLe]))
    | ((with_reducible apply Within.step (noteAddr_within _ _)); (on_goal 2 => decide); (on_goal 2 => first | (simp [regsLe]; done) | (simp [regsLe, ringReg]; done)))
    | ((with_reducible apply Within.step (noteClaim_within _ _ _)); (on_goal 2 => decide); (on_goal 2 => first | (simp [regsLe]; done) | (simp [regsLe, ringReg]; done)))
    | ((with_reducible apply Within.step (discard_within _ _ _)); (on_goal 2 => decide); (on_goal 2 => first | (simp [regsLe]; done) | (simp [regsLe, ringReg]; done)))
    | (simp -zeta only [Within.of_mk]; with_reducible refine Within.upd rfl ?_)
    | with_reducible apply Within.ite
    | with_reducible apply Within.foldl
    | split

theorem sessionFrame_within (f : Frame) (s : State) : Within [.hif, .pwr, .start, .evr, .pmc, .dup, .rnd, .tly, .cyc, .out] (some [0x0A034, 0x2C110, 0x2C114, 0x2C10C, 0x2C118, 0x2C11C, 0x2C124, 0x2C100, 0x2C120, 0x0E04C, 0x0A010, 0x0A030, 0x0E030, 0x7F040, 0x7F01C, 0x34020]) s (sessionFrame f s) := by
  unfold sessionFrame
  repeat' first
    | with_reducible apply Within.refl
    | with_reducible assumption
    | (intro y; with_reducible refine Within.cut y ?_ ?_; (on_goal 2 => clear_value y; intro _); (on_goal 1 => subst y))
    | (intro y; clear_value y)
    | (intro y; subst y)
    | intro _
    | lift_lets -underBinder
    | ((with_reducible apply Within.step (writeAck_within _ _ _)); (on_goal 2 => decide); (on_goal 2 => first | (simp [regsLe]; done) | (simp [regsLe, ringReg]; done)))
    | ((with_reducible apply Within.step (readRep_within _ _ _)); (on_goal 2 => decide); (on_goal 2 => first | (simp [regsLe]; done) | (simp [regsLe, ringReg]; done)))
    | ((with_reducible apply Within.step (noteAddr_within _ _)); (on_goal 2 => decide); (on_goal 2 => first | (simp [regsLe]; done) | (simp [regsLe, ringReg]; done)))
    | ((with_reducible apply Within.step (enrolled_within _ _)); (on_goal 2 => decide); (on_goal 2 => simp [regsLe]))
    | ((with_reducible apply Within.step (advanceWin_within _ _ _)); (on_goal 2 => decide); (on_goal 2 => simp [regsLe]))
    | ((with_reducible apply Within.step (discard_within _ _ _)); (on_goal 2 => decide); (on_goal 2 => first | (simp [regsLe]; done) | (simp [regsLe, ringReg]; done)))
    | ((with_reducible apply Within.step (reject_within _ _ _ _ _ _ _)); (on_goal 2 => decide); (on_goal 2 => simp [regsLe]))
    | (simp -zeta only [Within.of_mk]; with_reducible refine Within.upd rfl ?_)
    | with_reducible apply Within.ite
    | with_reducible apply Within.foldl
    | split

theorem receive_within (f : Frame) (s : State) : Within [.hif, .pwr, .start, .evr, .pmc, .dup, .kst, .rnd, .tly, .cyc, .out, .free] none s (receive f s) := by
  unfold receive
  repeat' first
    | with_reducible apply Within.refl
    | with_reducible assumption
    | (intro y; with_reducible refine Within.cut y ?_ ?_; (on_goal 2 => clear_value y; intro _); (on_goal 1 => subst y))
    | (intro y; clear_value y)
    | (intro y; subst y)
    | intro _
    | lift_lets -underBinder
    | ((with_reducible apply Within.step (sessionFrame_within _ _)); (on_goal 2 => decide); (on_goal 2 => trivial))
    | ((with_reducible apply Within.step (hello_within _ _ _)); (on_goal 2 => decide); (on_goal 2 => trivial))
    | ((with_reducible apply Within.step (reject_within _ _ _ _ _ _ _)); (on_goal 2 => decide); (on_goal 2 => trivial))
    | ((with_reducible apply Within.step (discard_within _ _ _)); (on_goal 2 => decide); (on_goal 2 => trivial))
    | (simp -zeta only [Within.of_mk]; with_reducible refine Within.upd rfl ?_)
    | with_reducible apply Within.ite
    | with_reducible apply Within.foldl
    | split

theorem sendReadReq_within (retry : Bool) (id : Nat) (s : State) : Within [.pmc, .rnd, .out] (some []) s (sendReadReq retry id s) := by
  unfold sendReadReq
  repeat' first
    | with_reducible apply Within.refl
    | with_reducible assumption
    | (intro y; with_reducible refine Within.cut y ?_ ?_; (on_goal 2 => clear_value y; intro _); (on_goal 1 => subst y))
    | (intro y; clear_value y)
    | (intro y; subst y)
    | intro _
    | lift_lets -underBinder
    | ((with_reducible apply Within.step (sendSession_within _ _ _ _ _)); (on_goal 2 => decide); (on_goal 2 => simp [regsLe]))
    | ((with_reducible apply Within.step (pmcAdd_within _ _ _)); (on_goal 2 => decide); (on_goal 2 => simp [regsLe]))
    | ((with_reducible apply Within.step (putStn_within _ _ _)); (on_goal 2 => decide); (on_goal 2 => simp [regsLe]))
    | (simp -zeta only [Within.of_mk]; with_reducible refine Within.upd rfl ?_)
    | with_reducible apply Within.ite
    | with_reducible apply Within.foldl
    | split

theorem readRetry_within (id : Nat) (s : State) : Within [.pmc, .rnd, .out] (some []) s (readRetry id s) := by
  unfold readRetry
  repeat' first
    | with_reducible apply Within.refl
    | with_reducible assumption
    | (intro y; with_reducible refine Within.cut y ?_ ?_; (on_goal 2 => clear_value y; intro _); (on_goal 1 => subst y))
    | (intro y; clear_value y)
    | (intro y; subst y)
    | intro _
    | lift_lets -underBinder
    | ((with_reducible apply Within.step (sendReadReq_within _ _ _)); (on_goal 2 => decide); (on_goal 2 => simp [regsLe]))
    | (simp -zeta only [Within.of_mk]; with_reducible refine Within.upd rfl ?_)
    | with_reducible apply Within.ite
    | with_reducible apply Within.foldl
    | split

theorem sendWrite_within (retry : Bool) (id : Nat) (s : State) : Within [.pmc, .rnd, .out] (some []) s (sendWrite retry id s) := by
  unfold sendWrite
  repeat' first
    | with_reducible apply Within.refl
    | with_reducible assumption
    | (intro y; with_reducible refine Within.cut y ?_ ?_; (on_goal 2 => clear_value y; intro _); (on_goal 1 => subst y))
    | (intro y; clear_value y)
    | (intro y; subst y)
    | intro _
    | lift_lets -underBinder
    | ((with_reducible apply Within.step (sendSession_within _ _ _ _ _)); (on_goal 2 => decide); (on_goal 2 => simp [regsLe]))
    | ((with_reducible apply Within.step (pmcAdd_within _ _ _)); (on_goal 2 => decide); (on_goal 2 => simp [regsLe]))
    | ((with_reducible apply Within.step (putStn_within _ _ _)); (on_goal 2 => decide); (on_goal 2 => simp [regsLe]))
    | (simp -zeta only [Within.of_mk]; with_reducible refine Within.upd rfl ?_)
    | with_reducible apply Within.ite
    | with_reducible apply Within.foldl
    | split

theorem writeRetry_within (id : Nat) (s : State) : Within [.pmc, .rnd, .out] (some []) s (writeRetry id s) := by
  unfold writeRetry
  repeat' first
    | with_reducible apply Within.refl
    | with_reducible assumption
    | (intro y; with_reducible refine Within.cut y ?_ ?_; (on_goal 2 => clear_value y; intro _); (on_goal 1 => subst y))
    | (intro y; clear_value y)
    | (intro y; subst y)
    | intro _
    | lift_lets -underBinder
    | ((with_reducible apply Within.step (sendWrite_within _ _ _)); (on_goal 2 => decide); (on_goal 2 => simp [regsLe]))
    | (simp -zeta only [Within.of_mk]; with_reducible refine Within.upd rfl ?_)
    | with_reducible apply Within.ite
    | with_reducible apply Within.foldl
    | split

theorem publishStn_within (id : Nat) (idx : Nat) (v : List Int) (s : State) : Within [.rnd] (some []) s (publishStn id idx v s) := by
  unfold publishStn
  repeat' first
    | with_reducible apply Within.refl
    | with_reducible assumption
    | (intro y; with_reducible refine Within.cut y ?_ ?_; (on_goal 2 => clear_value y; intro _); (on_goal 1 => subst y))
    | (intro y; clear_value y)
    | (intro y; subst y)
    | intro _
    | lift_lets -underBinder
    | ((with_reducible apply Within.step (putStn_within _ _ _)); (on_goal 2 => decide); (on_goal 2 => simp [regsLe]))
    | (simp -zeta only [Within.of_mk]; with_reducible refine Within.upd rfl ?_)
    | with_reducible apply Within.ite
    | with_reducible apply Within.foldl
    | split

theorem beginStn_within (fetch : Option (Nat × Nat)) (ackTo : Nat) (listed : Bool) (id : Nat) (s : State) : Within [.rnd] (some []) s (beginStn fetch ackTo listed id s) := by
  unfold beginStn
  repeat' first
    | with_reducible apply Within.refl
    | with_reducible assumption
    | (intro y; with_reducible refine Within.cut y ?_ ?_; (on_goal 2 => clear_value y; intro _); (on_goal 1 => subst y))
    | (intro y; clear_value y)
    | (intro y; subst y)
    | intro _
    | lift_lets -underBinder
    | ((with_reducible apply Within.step (putStn_within _ _ _)); (on_goal 2 => decide); (on_goal 2 => simp [regsLe]))
    | (simp -zeta only [Within.of_mk]; with_reducible refine Within.upd rfl ?_)
    | with_reducible apply Within.ite
    | with_reducible apply Within.foldl
    | split

theorem endQueries_within (s : State) (id : Nat) : Within [.hif, .pmc, .rnd, .out] (some []) s (endQueries s id) := by
  unfold endQueries
  repeat' first
    | with_reducible apply Within.refl
    | with_reducible assumption
    | (intro y; with_reducible refine Within.cut y ?_ ?_; (on_goal 2 => clear_value y; intro _); (on_goal 1 => subst y))
    | (intro y; clear_value y)
    | (intro y; subst y)
    | intro _
    | lift_lets -underBinder
    | ((with_reducible apply Within.step (finish_within _ _ _ _)); (on_goal 2 => decide); (on_goal 2 => simp [regsLe]))
    | ((with_reducible apply Within.step (complete_within _ _ _ _ _ _)); (on_goal 2 => decide); (on_goal 2 => simp [regsLe]))
    | ((with_reducible apply Within.step (putStn_within _ _ _)); (on_goal 2 => decide); (on_goal 2 => simp [regsLe]))
    | (simp -zeta only [Within.of_mk]; with_reducible refine Within.upd rfl ?_)
    | with_reducible apply Within.ite
    | with_reducible apply Within.foldl
    | split

theorem rndReadClose_within (s : State) : Within [.hif, .pmc, .rnd, .out] (some []) s (rndReadClose s) := by
  unfold rndReadClose
  repeat' first
    | with_reducible apply Within.refl
    | with_reducible assumption
    | (intro y; with_reducible refine Within.cut y ?_ ?_; (on_goal 2 => clear_value y; intro _); (on_goal 1 => subst y))
    | (intro y; clear_value y)
    | (intro y; subst y)
    | intro _
    | lift_lets -underBinder
    | ((with_reducible apply Within.step (endQueries_within _ _)); (on_goal 2 => decide); (on_goal 2 => simp [regsLe]))
    | (simp -zeta only [Within.of_mk]; with_reducible refine Within.upd rfl ?_)
    | with_reducible apply Within.ite
    | with_reducible apply Within.foldl
    | split

theorem latchStn_within (budget : List Int) (s : State) (id : Nat) : Within [.rnd] (some []) s (latchStn budget s id) := by
  unfold latchStn
  repeat' first
    | with_reducible apply Within.refl
    | with_reducible assumption
    | (intro y; with_reducible refine Within.cut y ?_ ?_; (on_goal 2 => clear_value y; intro _); (on_goal 1 => subst y))
    | (intro y; clear_value y)
    | (intro y; subst y)
    | intro _
    | lift_lets -underBinder
    | ((with_reducible apply Within.step (putStn_within _ _ _)); (on_goal 2 => decide); (on_goal 2 => simp [regsLe]))
    | (simp -zeta only [Within.of_mk]; with_reducible refine Within.upd rfl ?_)
    | with_reducible apply Within.ite
    | with_reducible apply Within.foldl
    | split

theorem closeStn_within (s : State) (id : Nat) : Within [.hif, .pmc, .rnd, .out] (some []) s (closeStn s id) := by
  unfold closeStn
  repeat' first
    | with_reducible apply Within.refl
    | with_reducible assumption
    | (intro y; with_reducible refine Within.cut y ?_ ?_; (on_goal 2 => clear_value y; intro _); (on_goal 1 => subst y))
    | (intro y; clear_value y)
    | (intro y; subst y)
    | intro _
    | lift_lets -underBinder
    | ((with_reducible apply Within.step (complete_within _ _ _ _ _ _)); (on_goal 2 => decide); (on_goal 2 => simp [regsLe]))
    | ((with_reducible apply Within.step (pmcAdd_within _ _ _)); (on_goal 2 => decide); (on_goal 2 => simp [regsLe]))
    | ((with_reducible apply Within.step (putStn_within _ _ _)); (on_goal 2 => decide); (on_goal 2 => simp [regsLe]))
    | (simp -zeta only [Within.of_mk]; with_reducible refine Within.upd rfl ?_)
    | with_reducible apply Within.ite
    | with_reducible apply Within.foldl
    | split

theorem groupRecord_within (empty : Bool) (s : State) (g : Nat) : Within [.hif, .pmc, .out] (some [ringReg (14 + g) 28]) s (groupRecord empty s g) := by
  unfold groupRecord
  repeat' first
    | with_reducible apply Within.refl
    | with_reducible assumption
    | (intro y; with_reducible refine Within.cut y ?_ ?_; (on_goal 2 => clear_value y; intro _); (on_goal 1 => subst y))
    | (intro y; clear_value y)
    | (intro y; subst y)
    | intro _
    | lift_lets -underBinder
    | ((with_reducible apply Within.step (deliverWith_within _ _ _ _ _)); (on_goal 2 => decide); (on_goal 2 => first | (simp [regsLe]; done) | (simp [regsLe, ringReg]; done)))
    | (simp -zeta only [Within.of_mk]; with_reducible refine Within.upd rfl ?_)
    | with_reducible apply Within.ite
    | with_reducible apply Within.foldl
    | split

theorem rndClose_within (s : State) : Within [.hif, .pmc, .rnd, .out] none s (rndClose s) := by
  unfold rndClose
  repeat' first
    | with_reducible apply Within.refl
    | with_reducible assumption
    | (intro y; with_reducible refine Within.cut y ?_ ?_; (on_goal 2 => clear_value y; intro _); (on_goal 1 => subst y))
    | (intro y; clear_value y)
    | (intro y; subst y)
    | intro _
    | lift_lets -underBinder
    | ((with_reducible apply Within.step (groupRecord_within _ _ _)); (on_goal 2 => decide); (on_goal 2 => trivial))
    | ((with_reducible apply Within.step (closeStn_within _ _)); (on_goal 2 => decide); (on_goal 2 => trivial))
    | ((with_reducible apply Within.step (pmcAdd_within _ _ _)); (on_goal 2 => decide); (on_goal 2 => trivial))
    | (simp -zeta only [Within.of_mk]; with_reducible refine Within.upd rfl ?_)
    | with_reducible apply Within.ite
    | with_reducible apply Within.foldl
    | split

theorem setRetire_within (id : Nat) (r : Option Req) (s : State) : Within [.rnd] (some []) s (setRetire id r s) := by
  unfold setRetire
  repeat' first
    | with_reducible apply Within.refl
    | with_reducible assumption
    | (intro y; with_reducible refine Within.cut y ?_ ?_; (on_goal 2 => clear_value y; intro _); (on_goal 1 => subst y))
    | (intro y; clear_value y)
    | (intro y; subst y)
    | intro _
    | lift_lets -underBinder
    | ((with_reducible apply Within.step (putStn_within _ _ _)); (on_goal 2 => decide); (on_goal 2 => simp [regsLe]))
    | (simp -zeta only [Within.of_mk]; with_reducible refine Within.upd rfl ?_)
    | with_reducible apply Within.ite
    | with_reducible apply Within.foldl
    | split

theorem stationRetire_within (r : Req) (id : Nat) (s : State) : Within [.hif, .pmc, .dup, .rnd, .out] (some []) s (stationRetire r id s) := by
  unfold stationRetire
  repeat' first
    | with_reducible apply Within.refl
    | with_reducible assumption
    | (intro y; with_reducible refine Within.cut y ?_ ?_; (on_goal 2 => clear_value y; intro _); (on_goal 1 => subst y))
    | (intro y; clear_value y)
    | (intro y; subst y)
    | intro _
    | lift_lets -underBinder
    | ((with_reducible apply viaPeer_within); (on_goal 1 => decide); (on_goal 1 => first | (simp [regsLe]; done) | (simp [regsLe, ringReg]; done)))
    | ((with_reducible apply Within.step (setRetire_within _ _ _)); (on_goal 2 => decide); (on_goal 2 => simp [regsLe]))
    | ((with_reducible apply Within.step (complete_within _ _ _ _ _ _)); (on_goal 2 => decide); (on_goal 2 => simp [regsLe]))
    | ((with_reducible apply Within.step (finish_within _ _ _ _)); (on_goal 2 => decide); (on_goal 2 => simp [regsLe]))
    | (simp -zeta only [Within.of_mk]; with_reducible refine Within.upd rfl ?_)
    | with_reducible apply Within.ite
    | with_reducible apply Within.foldl
    | split

theorem applyReinstate_within (id : Nat) (s : State) : Within [.rnd] (some []) s (applyReinstate id s) := by
  unfold applyReinstate
  repeat' first
    | with_reducible apply Within.refl
    | with_reducible assumption
    | (intro y; with_reducible refine Within.cut y ?_ ?_; (on_goal 2 => clear_value y; intro _); (on_goal 1 => subst y))
    | (intro y; clear_value y)
    | (intro y; subst y)
    | intro _
    | lift_lets -underBinder
    | ((with_reducible apply Within.step (setSess_within _ _ _)); (on_goal 2 => decide); (on_goal 2 => simp [regsLe]))
    | (simp -zeta only [Within.of_mk]; with_reducible refine Within.upd rfl ?_)
    | with_reducible apply Within.ite
    | with_reducible apply Within.foldl
    | split

theorem stationReinstate_within (r : Req) (id : Nat) (s : State) : Within [.hif, .pmc, .dup, .rnd, .out] (some []) s (stationReinstate r id s) := by
  unfold stationReinstate
  repeat' first
    | with_reducible apply Within.refl
    | with_reducible assumption
    | (intro y; with_reducible refine Within.cut y ?_ ?_; (on_goal 2 => clear_value y; intro _); (on_goal 1 => subst y))
    | (intro y; clear_value y)
    | (intro y; subst y)
    | intro _
    | lift_lets -underBinder
    | ((with_reducible apply Within.step (applyReinstate_within _ _)); (on_goal 2 => decide); (on_goal 2 => simp [regsLe]))
    | ((with_reducible apply viaPeer_within); (on_goal 1 => decide); (on_goal 1 => first | (simp [regsLe]; done) | (simp [regsLe, ringReg]; done)))
    | ((with_reducible apply Within.step (finish_within _ _ _ _)); (on_goal 2 => decide); (on_goal 2 => simp [regsLe]))
    | (simp -zeta only [Within.of_mk]; with_reducible refine Within.upd rfl ?_)
    | with_reducible apply Within.ite
    | with_reducible apply Within.foldl
    | split

theorem stationQuery_within (r : Req) (id : Nat) (s : State) : Within [.hif, .pmc, .rnd, .out] (some []) s (stationQuery r id s) := by
  unfold stationQuery
  repeat' first
    | with_reducible apply Within.refl
    | with_reducible assumption
    | (intro y; with_reducible refine Within.cut y ?_ ?_; (on_goal 2 => clear_value y; intro _); (on_goal 1 => subst y))
    | (intro y; clear_value y)
    | (intro y; subst y)
    | intro _
    | lift_lets -underBinder
    | ((with_reducible apply Within.step (putStn_within _ _ _)); (on_goal 2 => decide); (on_goal 2 => simp [regsLe]))
    | ((with_reducible apply Within.step (finish_within _ _ _ _)); (on_goal 2 => decide); (on_goal 2 => simp [regsLe]))
    | (simp -zeta only [Within.of_mk]; with_reducible refine Within.upd rfl ?_)
    | with_reducible apply Within.ite
    | with_reducible apply Within.foldl
    | split

end Sys2Proof.Machine
end

