-- ==== Sys2Proof/Laws/WithinChuBase.lean ====
section
/-!
SUPPORT. What each operation of Machine/ChuBase.lean may change at most.
-/
set_option linter.all false
set_option Elab.async false

namespace Sys2Proof.Machine

theorem usePats_within (m : ModelImage) (s : State) : Within [.chu] (some []) s (usePats m s) := by
  unfold usePats
  repeat' first
    | with_reducible apply Within.refl
    | with_reducible assumption
    | (intro y; with_reducible refine Within.cut y ?_ ?_; (on_goal 2 => clear_value y; intro _); (on_goal 1 => subst y))
    | (intro y; clear_value y)
    | (intro y; subst y)
    | intro _
    | lift_lets -underBinder
    | (simp -zeta only [Within.of_mk]; with_reducible refine Within.upd rfl ?_)
    | with_reducible apply Within.ite
    | with_reducible apply Within.foldl
    | split

theorem putCtx_within (c : Ctx) (j : Option Job) (s : State) : Within [.chu] (some []) s (putCtx c j s) := by
  unfold putCtx
  repeat' first
    | with_reducible apply Within.refl
    | with_reducible assumption
    | (intro y; with_reducible refine Within.cut y ?_ ?_; (on_goal 2 => clear_value y; intro _); (on_goal 1 => subst y))
    | (intro y; clear_value y)
    | (intro y; subst y)
    | intro _
    | lift_lets -underBinder
    | (simp -zeta only [Within.of_mk]; with_reducible refine Within.upd rfl ?_)
    | with_reducible apply Within.ite
    | with_reducible apply Within.foldl
    | split

theorem fillR0_within (s : State) : Within [.chu] (some []) s (fillR0 s) := by
  unfold fillR0
  repeat' first
    | with_reducible apply Within.refl
    | with_reducible assumption
    | (intro y; with_reducible refine Within.cut y ?_ ?_; (on_goal 2 => clear_value y; intro _); (on_goal 1 => subst y))
    | (intro y; clear_value y)
    | (intro y; subst y)
    | intro _
    | lift_lets -underBinder
    | (simp -zeta only [Within.of_mk]; with_reducible refine Within.upd rfl ?_)
    | with_reducible apply Within.ite
    | with_reducible apply Within.foldl
    | split

theorem resumeCtx_within (c : Ctx) (s : State) : Within [.pmc, .chu] (some [0x10028]) s (resumeCtx c s) := by
  unfold resumeCtx
  repeat' first
    | with_reducible apply Within.refl
    | with_reducible assumption
    | (intro y; with_reducible refine Within.cut y ?_ ?_; (on_goal 2 => clear_value y; intro _); (on_goal 1 => subst y))
    | (intro y; clear_value y)
    | (intro y; subst y)
    | intro _
    | lift_lets -underBinder
    | ((with_reducible apply Within.step (putCtx_within _ _ _)); (on_goal 2 => decide); (on_goal 2 => simp [regsLe]))
    | ((with_reducible apply Within.step (incReg_within _ _ _)); (on_goal 2 => decide); (on_goal 2 => first | (simp [regsLe]; done) | (simp [regsLe, ringReg]; done)))
    | ((with_reducible apply Within.step (pmcAdd_within _ _ _)); (on_goal 2 => decide); (on_goal 2 => simp [regsLe]))
    | (simp -zeta only [Within.of_mk]; with_reducible refine Within.upd rfl ?_)
    | with_reducible apply Within.ite
    | with_reducible apply Within.foldl
    | split

theorem parkCtx_within (keep : Option Ctx) (s : State) (c : Ctx) : Within [.chu] (some []) s (parkCtx keep s c) := by
  unfold parkCtx
  repeat' first
    | with_reducible apply Within.refl
    | with_reducible assumption
    | (intro y; with_reducible refine Within.cut y ?_ ?_; (on_goal 2 => clear_value y; intro _); (on_goal 1 => subst y))
    | (intro y; clear_value y)
    | (intro y; subst y)
    | intro _
    | lift_lets -underBinder
    | ((with_reducible apply Within.step (putCtx_within _ _ _)); (on_goal 2 => decide); (on_goal 2 => simp [regsLe]))
    | (simp -zeta only [Within.of_mk]; with_reducible refine Within.upd rfl ?_)
    | with_reducible apply Within.ite
    | with_reducible apply Within.foldl
    | split

theorem takeJob_within (s : State) : Within [.chu] (some []) s (takeJob s) := by
  unfold takeJob
  repeat' first
    | with_reducible apply Within.refl
    | with_reducible assumption
    | (intro y; with_reducible refine Within.cut y ?_ ?_; (on_goal 2 => clear_value y; intro _); (on_goal 1 => subst y))
    | (intro y; clear_value y)
    | (intro y; subst y)
    | intro _
    | lift_lets -underBinder
    | ((with_reducible apply Within.step (fillR0_within _)); (on_goal 2 => decide); (on_goal 2 => simp [regsLe]))
    | (simp -zeta only [Within.of_mk]; with_reducible refine Within.upd rfl ?_)
    | with_reducible apply Within.ite
    | with_reducible apply Within.foldl
    | split

theorem noteUnbegun_within (j : Job) (status : Nat) (s : State) : Within [.chu] (some []) s (noteUnbegun j status s) := by
  unfold noteUnbegun
  repeat' first
    | with_reducible apply Within.refl
    | with_reducible assumption
    | (intro y; with_reducible refine Within.cut y ?_ ?_; (on_goal 2 => clear_value y; intro _); (on_goal 1 => subst y))
    | (intro y; clear_value y)
    | (intro y; subst y)
    | intro _
    | lift_lets -underBinder
    | (simp -zeta only [Within.of_mk]; with_reducible refine Within.upd rfl ?_)
    | with_reducible apply Within.ite
    | with_reducible apply Within.foldl
    | split

theorem arbitrateFor_within (x1 : Nat) (x2 : State) : Within [.hif, .pmc, .chu, .out] (some [0x10028]) x2 (arbitrateFor x1 x2) := by
  fun_induction arbitrateFor x1 x2
  all_goals
    repeat' first
      | with_reducible apply Within.refl
      | with_reducible assumption
      | (intro y; with_reducible refine Within.cut y ?_ ?_; (on_goal 2 => clear_value y; intro _); (on_goal 1 => subst y))
      | (intro y; clear_value y)
      | (intro y; subst y)
      | intro _
      | lift_lets -underBinder
      | ((with_reducible apply Within.step (finish_within _ _ _ _)); (on_goal 2 => decide); (on_goal 2 => simp [regsLe]))
      | ((with_reducible apply Within.step (noteUnbegun_within _ _ _)); (on_goal 2 => decide); (on_goal 2 => simp [regsLe]))
      | ((with_reducible apply Within.step (putCtx_within _ _ _)); (on_goal 2 => decide); (on_goal 2 => simp [regsLe]))
      | ((with_reducible apply Within.step (resumeCtx_within _ _)); (on_goal 2 => decide); (on_goal 2 => first | (simp [regsLe]; done) | (simp [regsLe, ringReg]; done)))
      | ((with_reducible apply Within.step (parkCtx_within _ _ _)); (on_goal 2 => decide); (on_goal 2 => simp [regsLe]))
      | ((with_reducible apply Within.step (takeJob_within _)); (on_goal 2 => decide); (on_goal 2 => simp [regsLe]))
      | (simp -zeta only [Within.of_mk]; with_reducible refine Within.upd rfl ?_)
      | with_reducible apply Within.ite
      | with_reducible apply Within.foldl
      | ((with_reducible apply Within.after); with_reducible assumption)
      | split

theorem arbitrate_within (s : State) : Within [.hif, .pmc, .chu, .out] (some [0x10028]) s (arbitrate s) := by
  unfold arbitrate
  repeat' first
    | with_reducible apply Within.refl
    | with_reducible assumption
    | (intro y; with_reducible refine Within.cut y ?_ ?_; (on_goal 2 => clear_value y; intro _); (on_goal 1 => subst y))
    | (intro y; clear_value y)
    | (intro y; subst y)
    | intro _
    | lift_lets -underBinder
    | ((with_reducible apply Within.step (arbitrateFor_within _ _)); (on_goal 2 => decide); (on_goal 2 => first | (simp [regsLe]; done) | (simp [regsLe, ringReg]; done)))
    | (simp -zeta only [Within.of_mk]; with_reducible refine Within.upd rfl ?_)
    | with_reducible apply Within.ite
    | with_reducible apply Within.foldl
    | split

theorem arbitrateIdle_within (s : State) : Within [.hif, .pmc, .chu, .out] (some [0x10028]) s (arbitrateIdle s) := by
  unfold arbitrateIdle
  repeat' first
    | with_reducible apply Within.refl
    | with_reducible assumption
    | (intro y; with_reducible refine Within.cut y ?_ ?_; (on_goal 2 => clear_value y; intro _); (on_goal 1 => subst y))
    | (intro y; clear_value y)
    | (intro y; subst y)
    | intro _
    | lift_lets -underBinder
    | ((with_reducible apply Within.step (arbitrate_within _)); (on_goal 2 => decide); (on_goal 2 => first | (simp [regsLe]; done) | (simp [regsLe, ringReg]; done)))
    | (simp -zeta only [Within.of_mk]; with_reducible refine Within.upd rfl ?_)
    | with_reducible apply Within.ite
    | with_reducible apply Within.foldl
    | split

theorem fastSubmit_proj (slot deadline : Nat) (input : PatSlot → List JobSection) (s : State) : Within [.hif, .pmc, .chu, .out] (some [0x10028]) s (fastSubmit slot deadline input s).1 := by
  unfold fastSubmit
  split
  · exact Within.refl
  · split
    · exact Within.refl
    · split
      · exact Within.refl
      · split
        · exact Within.refl
        · refine Within.step (arbitrateIdle_within _) ?_ (by decide) (by simp [regsLe])
          simp -zeta only [Within.of_mk]
          exact Within.upd rfl Within.refl

theorem fastSubmit_eq {slot deadline : Nat} {input : PatSlot → List JobSection} {s t : State} {o : Option Nat} (h : fastSubmit slot deadline input s = (t, o)) :
    Within [.hif, .pmc, .chu, .out] (some [0x10028]) s t := by
  have k := fastSubmit_proj slot deadline input s
  rw [h] at k
  exact k

theorem countJob_within (status : Nat) (s : State) : Within [.pmc] (some [0x10024, 0x1002C, 0x10034]) s (countJob status s) := by
  unfold countJob
  repeat' first
    | with_reducible apply Within.refl
    | with_reducible assumption
    | (intro y; with_reducible refine Within.cut y ?_ ?_; (on_goal 2 => clear_value y; intro _); (on_goal 1 => subst y))
    | (intro y; clear_value y)
    | (intro y; subst y)
    | intro _
    | lift_lets -underBinder
    | ((with_reducible apply Within.step (incReg_within _ _ _)); (on_goal 2 => decide); (on_goal 2 => first | (simp [regsLe]; done) | (simp [regsLe, ringReg]; done)))
    | ((with_reducible apply Within.step (pmcAdd_within _ _ _)); (on_goal 2 => decide); (on_goal 2 => simp [regsLe]))
    | (simp -zeta only [Within.of_mk]; with_reducible refine Within.upd rfl ?_)
    | with_reducible apply Within.ite
    | with_reducible apply Within.foldl
    | split

theorem fastEnd_within (status : Nat) (s : State) : Within [.hif, .pmc, .chu, .out] (some [0x10024, 0x1002C, 0x10034, 0x10028]) s (fastEnd status s) := by
  unfold fastEnd
  repeat' first
    | with_reducible apply Within.refl
    | with_reducible assumption
    | (intro y; with_reducible refine Within.cut y ?_ ?_; (on_goal 2 => clear_value y; intro _); (on_goal 1 => subst y))
    | (intro y; clear_value y)
    | (intro y; subst y)
    | intro _
    | lift_lets -underBinder
    | ((with_reducible apply Within.step (countJob_within _ _)); (on_goal 2 => decide); (on_goal 2 => first | (simp [regsLe]; done) | (simp [regsLe, ringReg]; done)))
    | ((with_reducible apply Within.step (arbitrate_within _)); (on_goal 2 => decide); (on_goal 2 => first | (simp [regsLe]; done) | (simp [regsLe, ringReg]; done)))
    | (simp -zeta only [Within.of_mk]; with_reducible refine Within.upd rfl ?_)
    | with_reducible apply Within.ite
    | with_reducible apply Within.foldl
    | split

end Sys2Proof.Machine
end

