-- ==== Sys2Proof/Laws/WithinCtr.lean ====
section
/-!
SUPPORT. What each operation of Machine/Ctr.lean may change at most.
-/
set_option linter.all false
set_option Elab.async false

namespace Sys2Proof.Machine

theorem giveDumps_within (s : State) : Within [.hif, .pmc, .ctr, .out] none s (giveDumps s) := by
  unfold giveDumps
  repeat' first
    | with_reducible apply Within.refl
    | with_reducible assumption
    | (intro y; with_reducible refine Within.cut y ?_ ?_; (on_goal 2 => clear_value y; intro _); (on_goal 1 => subst y))
    | (intro y; clear_value y)
    | (intro y; subst y)
    | intro _
    | lift_lets -underBinder
    | ((with_reducible apply Within.step (deliver_within _ _ _)); (on_goal 2 => decide); (on_goal 2 => trivial))
    | (simp -zeta only [Within.of_mk]; with_reducible refine Within.upd rfl ?_)
    | with_reducible apply Within.ite
    | with_reducible apply Within.foldl
    | split

theorem endStep_within (o : StepOut) (s : State) : Within [.hif, .pmc, .ctr, .out] none s (endStep o s) := by
  unfold endStep
  repeat' first
    | with_reducible apply Within.refl
    | with_reducible assumption
    | (intro y; with_reducible refine Within.cut y ?_ ?_; (on_goal 2 => clear_value y; intro _); (on_goal 1 => subst y))
    | (intro y; clear_value y)
    | (intro y; subst y)
    | intro _
    | lift_lets -underBinder
    | ((with_reducible apply Within.step (giveDumps_within _)); (on_goal 2 => decide); (on_goal 2 => trivial))
    | ((with_reducible apply Within.step (deliverWith_within _ _ _ _ _)); (on_goal 2 => decide); (on_goal 2 => trivial))
    | ((with_reducible apply Within.step (pmcAdd_within _ _ _)); (on_goal 2 => decide); (on_goal 2 => trivial))
    | ((with_reducible apply Within.step (incReg_within _ _ _)); (on_goal 2 => decide); (on_goal 2 => trivial))
    | ((with_reducible apply Within.step (setReg_within _ _ _)); (on_goal 2 => decide); (on_goal 2 => trivial))
    | ((with_reducible apply Within.step (setPair_within _ _ _)); (on_goal 2 => decide); (on_goal 2 => trivial))
    | (simp -zeta only [Within.of_mk]; with_reducible refine Within.upd rfl ?_)
    | with_reducible apply Within.ite
    | with_reducible apply Within.foldl
    | split

theorem stillStep_within (all : List Nat) (nets : List Nat) (stalls : Nat) (us : Nat) (s : State) : Within [.hif, .pmc, .ctr, .out] none s (stillStep all nets stalls us s) := by
  unfold stillStep
  repeat' first
    | with_reducible apply Within.refl
    | with_reducible assumption
    | (intro y; with_reducible refine Within.cut y ?_ ?_; (on_goal 2 => clear_value y; intro _); (on_goal 1 => subst y))
    | (intro y; clear_value y)
    | (intro y; subst y)
    | intro _
    | lift_lets -underBinder
    | ((with_reducible apply Within.step (endStep_within _ _)); (on_goal 2 => decide); (on_goal 2 => trivial))
    | (simp -zeta only [Within.of_mk]; with_reducible refine Within.upd rfl ?_)
    | with_reducible apply Within.ite
    | with_reducible apply Within.foldl
    | split

theorem movedStep_within (m : ModelImage) (est : Estimate) (age : Nat) (late : Bool) (us : Nat) (s : State) : Within [.hif, .pmc, .ctr, .out] none s (movedStep m est age late us s) := by
  unfold movedStep
  repeat' first
    | with_reducible apply Within.refl
    | with_reducible assumption
    | (intro y; with_reducible refine Within.cut y ?_ ?_; (on_goal 2 => clear_value y; intro _); (on_goal 1 => subst y))
    | (intro y; clear_value y)
    | (intro y; subst y)
    | intro _
    | lift_lets -underBinder
    | ((with_reducible apply Within.step (endStep_within _ _)); (on_goal 2 => decide); (on_goal 2 => trivial))
    | (simp -zeta only [Within.of_mk]; with_reducible refine Within.upd rfl ?_)
    | with_reducible apply Within.ite
    | with_reducible apply Within.foldl
    | split

theorem ctrStep_within (late : Bool) (us : Nat) (s : State) : Within [.hif, .pmc, .ctr, .out] none s (ctrStep late us s) := by
  unfold ctrStep
  repeat' first
    | with_reducible apply Within.refl
    | with_reducible assumption
    | (intro y; with_reducible refine Within.cut y ?_ ?_; (on_goal 2 => clear_value y; intro _); (on_goal 1 => subst y))
    | (intro y; clear_value y)
    | (intro y; subst y)
    | intro _
    | lift_lets -underBinder
    | ((with_reducible apply Within.step (movedStep_within _ _ _ _ _ _)); (on_goal 2 => decide); (on_goal 2 => trivial))
    | ((with_reducible apply Within.step (stillStep_within _ _ _ _ _)); (on_goal 2 => decide); (on_goal 2 => trivial))
    | (simp -zeta only [Within.of_mk]; with_reducible refine Within.upd rfl ?_)
    | with_reducible apply Within.ite
    | with_reducible apply Within.foldl
    | split

theorem curdDump_within (r : Req) (mid : Nat) (s : State) : Within [.hif, .pmc, .ctr, .out] (some []) s (curdDump r mid s) := by
  unfold curdDump
  repeat' first
    | with_reducible apply Within.refl
    | with_reducible assumption
    | (intro y; with_reducible refine Within.cut y ?_ ?_; (on_goal 2 => clear_value y; intro _); (on_goal 1 => subst y))
    | (intro y; clear_value y)
    | (intro y; subst y)
    | intro _
    | lift_lets -underBinder
    | ((with_reducible apply Within.step (complete_within _ _ _ _ _ _)); (on_goal 2 => decide); (on_goal 2 => simp [regsLe]))
    | ((with_reducible apply Within.step (finish_within _ _ _ _)); (on_goal 2 => decide); (on_goal 2 => simp [regsLe]))
    | (simp -zeta only [Within.of_mk]; with_reducible refine Within.upd rfl ?_)
    | with_reducible apply Within.ite
    | with_reducible apply Within.foldl
    | split

theorem ctrRebuild_within (r : Req) (mask : Nat) (s : State) : Within [.hif, .pmc, .ctr, .out] (some []) s (ctrRebuild r mask s) := by
  unfold ctrRebuild
  repeat' first
    | with_reducible apply Within.refl
    | with_reducible assumption
    | (intro y; with_reducible refine Within.cut y ?_ ?_; (on_goal 2 => clear_value y; intro _); (on_goal 1 => subst y))
    | (intro y; clear_value y)
    | (intro y; subst y)
    | intro _
    | lift_lets -underBinder
    | ((with_reducible apply Within.step (complete_within _ _ _ _ _ _)); (on_goal 2 => decide); (on_goal 2 => simp [regsLe]))
    | ((with_reducible apply Within.step (finish_within _ _ _ _)); (on_goal 2 => decide); (on_goal 2 => simp [regsLe]))
    | (simp -zeta only [Within.of_mk]; with_reducible refine Within.upd rfl ?_)
    | with_reducible apply Within.ite
    | with_reducible apply Within.foldl
    | split

theorem ctrCtrlRebuild_within (s : State) : Within [.ctr] (some []) s (ctrCtrlRebuild s) := by
  unfold ctrCtrlRebuild
  repeat' first
    | with_reducible apply Within.refl
    | with_reducible assumption
    | (intro y; with_reducible refine Within.cut y ?_ ?_; (on_goal 2 => clear_value y; intro _); (on_goal 1 => subst y))
    | (intro y; clear_value y)
    | (intro y; subst y)
    | intro _
    | lift_lets -underBinder
    | (simp -zeta only [Within.of_mk]; with_reducible refine Within.upd rfl ?_)
    | with_reducible apply Within.ite
    | with_reducible apply Within.foldl
    | split

end Sys2Proof.Machine
end

