-- ==== Sys2Proof/Laws/Calm.lean ====
section
/-!
SUPPORT. The registers that an operation may change while no source of the fault collector has the BLK reaction.
-/
set_option linter.all false
set_option Elab.async false

namespace Sys2Proof.Machine

/-- One register list lies in another. -/
def sub (l m : List Nat) : Prop := ∀ a, a ∈ l → a ∈ m

/-- No register of the list configures a source. -/
def off (l : List Nat) : Prop := ∀ a, a ∈ l → a < 0x08400 ∨ 0x08780 ≤ a

/-- While no source has the BLK reaction, none gets it, and only the registers of the list may change. -/
structure Calm (l : List Nat) (s t : State) : Prop where
  keep : NoBlk s → NoBlk t
  regs : NoBlk s → ∀ a, a ∉ l → getReg a t = getReg a s

namespace Calm
variable {l l' : List Nat} {s t u : State}

theorem refl : Calm l s s := ⟨id, fun _ _ _ => rfl⟩

theorem trans (h : Calm l s t) (k : Calm l t u) : Calm l s u :=
  ⟨fun n => k.keep (h.keep n), fun n a ha => (k.regs (h.keep n) a ha).trans (h.regs n a ha)⟩

theorem mono (h : Calm l' s t) (hl : sub l' l) : Calm l s t := ⟨h.keep, fun n a ha => h.regs n a (fun m => ha (hl a m))⟩

theorem step (k : Calm l' t u) (h : Calm l s t) (hl : sub l' l) : Calm l s u := h.trans (k.mono hl)

theorem of_within {ps : List Part} (h : Within ps (some l) s t) (ho : off l) : Calm l s t := by
  refine ⟨fun n k hk => ?_, fun _ a ha => h.regs l rfl a ha⟩
  have e : srcCfg k t = srcCfg k s := h.regs l rfl _ (fun m => by rcases ho _ m with x | x <;> omega)
  rw [e]; exact n k hk

theorem step_within {ps : List Part} (k : Within ps (some l') t u) (h : Calm l s t) (ho : off l') (hl : sub l' l) : Calm l s u :=
  (of_within k ho).step h hl

theorem assume (h : NoBlk s → Calm l s t) : Calm l s t := ⟨fun n => (h n).keep n, fun n => (h n).regs n⟩

theorem cut (m : State) (h : Calm l s m) (k : Calm l s m → Calm l s t) : Calm l s t := k h

theorem ite {c : Prop} [Decidable c] (h : Calm l s t) (k : Calm l s u) : Calm l s (if c then t else u) := by
  split <;> assumption

theorem dead {c : Bool} (hc : c = false) (k : Calm l s u) : Calm l s (if c = true then t else u) := by
  subst hc; exact k

theorem foldl {α : Type} {f : State → α → State} {xs : List α} (hf : ∀ t x, Calm l s t → Calm l s (f t x)) (h : Calm l s t) :
    Calm l s (xs.foldl f t) := by
  induction xs generalizing t with
  | nil => exact h
  | cons x xs ih => exact ih (hf t x h)

/-- A state given by its fields. -/
def Fields (l : List Nat) (s : State) (regs : Tbl Word) : Prop := ∀ t : State, t.regs = regs → Calm l s t

theorem of_mk {regs : Tbl Word} {cfg : CfgSt} {hif : HifSt} {pwr : PwrSt} {start : StartSt} {fco : FcoSt} {evr : EvrSt} {pmc : PmcSt} {dup : DupSt} {tim : TimSt} {kst : KstSt} {model : ModelSt} {rnd : RndSt} {chu : ChuSt} {sep : SepSt} {ctr : CtrSt} {disp : DispSt} {lpe : LpeSt} {tly : TlySt} {cyc : CycSt} {fio : FioSt} {upd : UpdSt} {out : List Out} {free : Nat} {pending : List Instr} :
    Calm l s (State.mk regs cfg hif pwr start fco evr pmc dup tim kst model rnd chu sep ctr disp lpe tly cyc fio upd out free pending) ↔ Fields l s regs := by
  refine ⟨fun h t e => ?_, fun h => h _ rfl⟩
  have g : ∀ a, getReg a t = getReg a (State.mk regs cfg hif pwr start fco evr pmc dup tim kst model rnd chu sep ctr disp lpe tly cyc fio upd out free pending) :=
    fun a => by simp [getReg, e]
  exact ⟨fun n k hk => by unfold srcCfg; rw [g]; exact h.keep n k hk, fun n a ha => (g a).trans (h.regs n a ha)⟩

theorem upd {regs : Tbl Word} (hr : regs = t.regs) (h : Calm l s t) : Fields l s regs := by
  intro u e
  have g : ∀ a, getReg a u = getReg a t := fun a => by simp [getReg, e, hr]
  exact ⟨fun n k hk => by unfold srcCfg; rw [g]; exact h.keep n k hk, fun n a ha => (g a).trans (h.regs n a ha)⟩

end Calm

theorem onMessage_calm {l : List Nat} {s u : State} {acked : Bool} {h : PeerHdr} {f : State → State}
    (hl : sub [0x0E028, 0x0E054, 0x0E050, 0x0E030, 0x0E040] l) (ha : ∀ t, Calm l s t → Calm l s (f t)) (k : Calm l s u) :
    Calm l s (onMessage acked h f u) := by
  unfold onMessage
  split
  · next t e _ =>
    refine ha _ ?_
    have a : Within [.hif, .pmc, .dup, .rnd, .out] (some [0x0E028, 0x0E054, 0x0E050, 0x0E030, 0x0E040]) u (seePeer h t) :=
      Within.step (seePeer_within _ _) (Within.mono (accept_eq e) (by decide) (by simp [regsLe])) (by decide) (by simp [regsLe])
    have b : Within [.hif, .pmc, .dup, .rnd, .out] (some [0x0E028, 0x0E054, 0x0E050, 0x0E030, 0x0E040]) u
        (if acked then ackMsg h (seePeer h t) else seePeer h t) := by
      split
      · exact Within.step (ackMsg_within _ _) a (by decide) (by simp [regsLe])
      · exact a
    exact k.trans ((Calm.of_within b (by simp [off])).mono hl)
  · exact k

theorem withOp_calm {l : List Nat} {s u : State} {r : Req} {ops : List Nat} {buf : Option Bytes} {f : Desc → Bytes → State → State}
    (hf : ∀ d b t, Calm l s t → Calm l s (f d b t)) (h : Calm l s u) : Calm l s (withOp r ops buf f u) := by
  unfold withOp
  split
  · exact h
  · refine Calm.ite h (Calm.ite (Calm.step_within (finish_within _ _ _ _) h (by simp [off]) (by simp [sub])) (hf _ _ _ (Calm.ite h ?_)))
    exact Calm.step_within (bwAdd_within _ _ _ _) (Calm.step_within (pmcAdd_within _ _ _) h (by simp [off]) (by simp [sub])) (by simp [off]) (by simp [sub])
theorem inlineOp_calm {l : List Nat} {s u : State} {r : Req} {op len : Nat} {f : Bytes → State → State}
    (hf : ∀ b t, Calm l s t → Calm l s (f b t)) (h : Calm l s u) : Calm l s (inlineOp r op len f u) := by
  unfold inlineOp
  refine withOp_calm (fun d b t k => ?_) h
  split
  · exact Calm.step_within (finish_within _ _ _ _) k (by simp [off]) (by simp [sub])
  · exact hf b t k
theorem recordOp_calm {l : List Nat} {s u : State} {r : Req} {op len : Nat} {buf : Bytes} {f : Bytes → State → State}
    (hf : ∀ b t, Calm l s t → Calm l s (f b t)) (h : Calm l s u) : Calm l s (recordOp r op len buf f u) := by
  unfold recordOp
  refine withOp_calm (fun d b t k => ?_) h
  split
  · exact Calm.step_within (finish_within _ _ _ _) k (by simp [off]) (by simp [sub])
  · exact hf b t k
theorem scopeOp_calm {l : List Nat} {s u : State} {scope : Nat} {r : Req} {f : Bytes → State → State}
    (hf : ∀ b t, Calm l s t → Calm l s (f b t)) (h : Calm l s u) : Calm l s (scopeOp scope r f u) := by
  unfold scopeOp
  refine inlineOp_calm (fun b t k => ?_) h
  dsimp only
  exact Calm.ite (Calm.step_within (updEnd_within _ _ _ _ _) k (by simp [off]) (by simp [sub])) (Calm.ite (hf b t k) k)
theorem pushOp_calm {l : List Nat} {s u : State} {r : Req} {op row : Nat} {buf : Bytes} {go : Bytes → Nat → Nat → State → State}
    (hf : ∀ b a n t, Calm l s t → Calm l s (go b a n t)) (h : Calm l s u) : Calm l s (pushOp r op row buf go u) := by
  unfold pushOp
  refine withOp_calm (fun d b t k => ?_) h
  dsimp only
  have e : ∀ a c, Calm l s (finish r a c t) := fun a c => Calm.step_within (finish_within _ _ _ _) k (by simp [off]) (by simp [sub])
  exact Calm.ite (e _ _) (Calm.ite (e _ _) (Calm.ite (e _ _) (Calm.ite (e _ _) (Calm.ite (e _ _) (hf _ _ _ _ k)))))
theorem morOp_calm {l : List Nat} {s u : State} {action : Nat} {r : Req} {f : Req → State → State}
    (hf : ∀ t, Calm l s t → Calm l s (f r t)) (h : Calm l s u) : Calm l s (morOp action f r u) := by
  unfold morOp
  refine inlineOp_calm (fun b t k => ?_) h
  dsimp only
  exact Calm.ite (Calm.step_within (finish_within _ _ _ _) k (by simp [off]) (by simp [sub])) (Calm.ite (hf t k) k)
theorem pointOp_calm {l : List Nat} {s u : State} {r : Req} {mid q : Nat} {go : State → State}
    (hf : ∀ t, Calm l s t → Calm l s (go t)) (h : Calm l s u) : Calm l s (pointOp r mid q go u) := by
  unfold pointOp
  refine Calm.ite (Calm.step_within (finish_within _ _ _ _) h (by simp [off]) (by simp [sub])) ?_
  split
  · exact Calm.step_within (finish_within _ _ _ _) h (by simp [off]) (by simp [sub])
  · exact hf u h
theorem readBy_calm {l : List Nat} {s u : State} {who : Requester} {f : State → State}
    (hf : ∀ t, Calm l s t → Calm l s (f t)) (h : Calm l s u) : Calm l s (readBy who f u) := by
  unfold readBy
  exact Calm.ite h (Calm.ite (Calm.step_within (pmcAdd_within _ _ _) (hf u h) (by simp [off]) (by simp [sub])) (hf u h))
theorem writeBy_calm {l : List Nat} {s u : State} {who : Requester} {f : State → State}
    (hf : ∀ t, Calm l s t → Calm l s (f t)) (h : Calm l s u) : Calm l s (writeBy who f u) := by
  unfold writeBy
  exact Calm.ite h (Calm.ite (Calm.step_within (pmcAdd_within _ _ _) (hf u h) (by simp [off]) (by simp [sub])) (hf u h))
theorem changeOf_calm {l : List Nat} {s u : State} {f : BitVec 64 → Nat → Nat → State → State} {b : Bytes}
    (hf : ∀ i k v t, Calm l s t → Calm l s (f i k v t)) (h : Calm l s u) : Calm l s (changeOf f b u) :=
  hf _ _ _ u h

theorem viaPeer_calm {l : List Nat} {s u : State} {r : Req} {op : FwdOp} {len : Nat} {apply : State → State}
    (ha : ∀ t, Calm l s t → Calm l s (apply t)) (h : Calm l s u) : Calm l s (viaPeer r op len apply u) := by
  unfold viaPeer
  refine Calm.ite (Calm.step_within (complete_within _ _ _ _ _ _) (ha u h) (by simp [off]) (by simp [sub])) (Calm.ite ?_ ?_)
  · exact Calm.step_within (finish_within _ _ _ _) h (by simp [off]) (by simp [sub])
  · refine Calm.step_within (sendPeer_within _ _) ?_ (by simp [off]) (by simp [sub])
    simp -zeta only [Calm.of_mk]
    exact Calm.upd rfl h
theorem viaPeerLate_calm {l : List Nat} {s u : State} {r : Req} {op : FwdOp} {len : Nat} {apply : State → State}
    (ha : ∀ t, Calm l s t → Calm l s (apply t)) (h : Calm l s u) : Calm l s (viaPeerLate r op len apply u) := by
  unfold viaPeerLate
  split
  · exact ha u h
  · exact viaPeer_calm (fun _ k => k) h

theorem activate_calm (n count : Nat) (forced : Bool) (why : Option Nat) (s : State) (hn : n < 224) :
    Calm [0x0A034, 0x0A010, 0x0A030, 0x7F018, 0x0E04C, 0x0E030, 0x7F040, 0x7F01C, 0x34020] s (activate n count forced why s) := by
  refine Calm.assume fun hb => ?_
  have h29 : bitAt (srcCfg n s) 29 = false := hb n hn
  unfold activate
  repeat' first
    | with_reducible apply Calm.refl
    | with_reducible assumption
    | with_reducible apply Calm.dead h29
    | (intro y; with_reducible refine Calm.cut y ?_ ?_; (on_goal 2 => clear_value y; intro _); (on_goal 1 => subst y))
    | (intro (y : Word); subst y)
    | (intro y; clear_value y)
    | intro _
    | lift_lets -underBinder
    | ((with_reducible apply Calm.step_within (beginModReset_within _ _ _ _)); (on_goal 2 => (simp [off]; done)); (on_goal 2 => (simp [sub]; done)))
    | ((with_reducible apply Calm.step_within (emit_within _ _)); (on_goal 2 => (simp [off]; done)); (on_goal 2 => (simp [sub]; done)))
    | ((with_reducible apply Calm.step_within (sendMsg_within _ _)); (on_goal 2 => (simp [off]; done)); (on_goal 2 => (simp [sub]; done)))
    | ((with_reducible apply Calm.step_within (record_within _ _ _ _)); (on_goal 2 => (simp [off]; done)); (on_goal 2 => (simp [sub]; done)))
    | (simp -zeta only [Calm.of_mk]; with_reducible refine Calm.upd rfl ?_)
    | with_reducible apply Calm.ite

theorem occur_calm (n : Nat) (forced : Bool) (why : Option Nat) (s : State) : Calm [34816 + 4 * n, 0x0A034, 0x0A010, 0x0A030, 0x7F018, 0x0E04C, 0x0E030, 0x7F040, 0x7F01C, 0x34020] s (occur n forced why s) := by
  rcases Nat.lt_or_ge n 224 with hn | hn
  swap
  · unfold occur; rw [if_pos (by simp [hn])]; exact Calm.refl
  unfold occur
  repeat' first
    | with_reducible apply Calm.refl
    | with_reducible assumption
    | (intro y; with_reducible refine Calm.cut y ?_ ?_; (on_goal 2 => clear_value y; intro _); (on_goal 1 => subst y))
    | (intro y; clear_value y)
    | (intro y; subst y)
    | intro _
    | lift_lets -underBinder
    | ((with_reducible refine Calm.step (activate_calm _ _ _ _ _ (by assumption)) ?_ ?_); (on_goal 2 => first | (simp [sub]; done) | (simp [sub, ringReg]; done)))
    | ((with_reducible apply Calm.step_within (incReg_within _ _ _)); (on_goal 2 => first | (simp [off]; done) | (simp [off, ethStat, canStatReg, ethCfg]; omega) | (intro z hz; simp at hz; omega)); (on_goal 2 => first | (simp [sub]; done) | (simp [sub, ringReg]; done)))
    | (simp -zeta only [Calm.of_mk]; with_reducible refine Calm.upd rfl ?_)
    | with_reducible apply Calm.ite
    | with_reducible apply Calm.foldl
    | split

theorem raise_calm (n : Nat) (s : State) : Calm [34816 + 4 * n, 0x0A034, 0x0A010, 0x0A030, 0x7F018, 0x0E04C, 0x0E030, 0x7F040, 0x7F01C, 0x34020] s (raise n s) := by
  unfold raise
  repeat' first
    | with_reducible apply Calm.refl
    | with_reducible assumption
    | (intro y; with_reducible refine Calm.cut y ?_ ?_; (on_goal 2 => clear_value y; intro _); (on_goal 1 => subst y))
    | (intro y; clear_value y)
    | (intro y; subst y)
    | intro _
    | lift_lets -underBinder
    | ((with_reducible apply Calm.step (occur_calm _ _ _ _)); (on_goal 2 => first | (simp [sub]; done) | (simp [sub, ringReg]; done)))
    | (simp -zeta only [Calm.of_mk]; with_reducible refine Calm.upd rfl ?_)
    | with_reducible apply Calm.ite
    | with_reducible apply Calm.foldl
    | split

theorem assertSrc_calm (n : Nat) (s : State) : Calm [34816 + 4 * n, 0x0A034, 0x0A010, 0x0A030, 0x7F018, 0x0E04C, 0x0E030, 0x7F040, 0x7F01C, 0x34020] s (assertSrc n s) := by
  unfold assertSrc
  repeat' first
    | with_reducible apply Calm.refl
    | with_reducible assumption
    | (intro y; with_reducible refine Calm.cut y ?_ ?_; (on_goal 2 => clear_value y; intro _); (on_goal 1 => subst y))
    | (intro y; clear_value y)
    | (intro y; subst y)
    | intro _
    | lift_lets -underBinder
    | ((with_reducible apply Calm.step (occur_calm _ _ _ _)); (on_goal 2 => first | (simp [sub]; done) | (simp [sub, ringReg]; done)))
    | (simp -zeta only [Calm.of_mk]; with_reducible refine Calm.upd rfl ?_)
    | with_reducible apply Calm.ite
    | with_reducible apply Calm.foldl
    | split

theorem setCond_calm (n : Nat) (holds : Bool) (s : State) : Calm [34816 + 4 * n, 0x0A034, 0x0A010, 0x0A030, 0x7F018, 0x0E04C, 0x0E030, 0x7F040, 0x7F01C, 0x34020] s (setCond n holds s) := by
  unfold setCond
  repeat' first
    | with_reducible apply Calm.refl
    | with_reducible assumption
    | (intro y; with_reducible refine Calm.cut y ?_ ?_; (on_goal 2 => clear_value y; intro _); (on_goal 1 => subst y))
    | (intro y; clear_value y)
    | (intro y; subst y)
    | intro _
    | lift_lets -underBinder
    | ((with_reducible apply Calm.step_within (endCond_within _ _)); (on_goal 2 => first | (simp [off]; done) | (simp [off, ethStat, canStatReg, ethCfg]; omega) | (intro z hz; simp at hz; omega)); (on_goal 2 => first | (simp [sub]; done) | (simp [sub, ringReg]; done)))
    | ((with_reducible apply Calm.step (assertSrc_calm _ _)); (on_goal 2 => first | (simp [sub]; done) | (simp [sub, ringReg]; done)))
    | (simp -zeta only [Calm.of_mk]; with_reducible refine Calm.upd rfl ?_)
    | with_reducible apply Calm.ite
    | with_reducible apply Calm.foldl
    | split

theorem beginHoldup_calm (why : HoldupWhy) (s : State) : Calm [0x08800, 0x7F040, 0x0E04C, 0x0A034, 0x0E030, 0x0A010, 0x0A030, 0x7F018, 0x7F01C, 0x34020] s (beginHoldup why s) := by
  unfold beginHoldup
  repeat' first
    | with_reducible apply Calm.refl
    | with_reducible assumption
    | (intro y; with_reducible refine Calm.cut y ?_ ?_; (on_goal 2 => clear_value y; intro _); (on_goal 1 => subst y))
    | (intro y; clear_value y)
    | (intro y; subst y)
    | intro _
    | lift_lets -underBinder
    | ((with_reducible apply Calm.step_within (resignTell_within _ _)); (on_goal 2 => first | (simp [off]; done) | (simp [off, ethStat, canStatReg, ethCfg]; omega) | (intro z hz; simp at hz; omega)); (on_goal 2 => first | (simp [sub]; done) | (simp [sub, ringReg]; done)))
    | ((with_reducible apply Calm.step_within (seqStart_within _ _)); (on_goal 2 => first | (simp [off]; done) | (simp [off, ethStat, canStatReg, ethCfg]; omega) | (intro z hz; simp at hz; omega)); (on_goal 2 => first | (simp [sub]; done) | (simp [sub, ringReg]; done)))
    | ((with_reducible apply Calm.step (assertSrc_calm _ _)); (on_goal 2 => first | (simp [sub]; done) | (simp [sub, ringReg]; done)))
    | (simp -zeta only [Calm.of_mk]; with_reducible refine Calm.upd rfl ?_)
    | with_reducible apply Calm.ite
    | with_reducible apply Calm.foldl
    | split

theorem afterSlots_calm (was : Bool) (s : State) : Calm [0x0E04C, 0x0E030, 0x7F040, 0x0A034, 0x08930, 0x7F01C, 0x0A010, 0x0A030, 0x34020, 0x7F018] s (afterSlots was s) := by
  unfold afterSlots
  repeat' first
    | with_reducible apply Calm.refl
    | with_reducible assumption
    | (intro y; with_reducible refine Calm.cut y ?_ ?_; (on_goal 2 => clear_value y; intro _); (on_goal 1 => subst y))
    | (intro y; clear_value y)
    | (intro y; subst y)
    | intro _
    | lift_lets -underBinder
    | ((with_reducible apply Calm.step_within (resign_within _ _)); (on_goal 2 => first | (simp [off]; done) | (simp [off, ethStat, canStatReg, ethCfg]; omega) | (intro z hz; simp at hz; omega)); (on_goal 2 => first | (simp [sub]; done) | (simp [sub, ringReg]; done)))
    | ((with_reducible apply Calm.step (setCond_calm _ _ _)); (on_goal 2 => first | (simp [sub]; done) | (simp [sub, ringReg]; done)))
    | (simp -zeta only [Calm.of_mk]; with_reducible refine Calm.upd rfl ?_)
    | with_reducible apply Calm.ite
    | with_reducible apply Calm.foldl
    | split

theorem zeroise_calm (source : Nat) (but : Option Req) (s : State) : Calm [0x0E04C, 0x48124, 0x48120, 0x0E030, 0x7F040, 0x0A034, 0x08930, 0x7F01C, 0x0A010, 0x0A030, 0x34020, 0x7F018] s (zeroise source but s) := by
  unfold zeroise
  repeat' first
    | with_reducible apply Calm.refl
    | with_reducible assumption
    | (intro y; with_reducible refine Calm.cut y ?_ ?_; (on_goal 2 => clear_value y; intro _); (on_goal 1 => subst y))
    | (intro y; clear_value y)
    | (intro y; subst y)
    | intro _
    | lift_lets -underBinder
    | ((with_reducible apply Calm.step_within (cancelKeyJobs_within _ _)); (on_goal 2 => first | (simp [off]; done) | (simp [off, ethStat, canStatReg, ethCfg]; omega) | (intro z hz; simp at hz; omega)); (on_goal 2 => first | (simp [sub]; done) | (simp [sub, ringReg]; done)))
    | ((with_reducible apply Calm.step (afterSlots_calm _ _)); (on_goal 2 => first | (simp [sub]; done) | (simp [sub, ringReg]; done)))
    | ((with_reducible apply Calm.step_within (clearWorking_within _)); (on_goal 2 => first | (simp [off]; done) | (simp [off, ethStat, canStatReg, ethCfg]; omega) | (intro z hz; simp at hz; omega)); (on_goal 2 => first | (simp [sub]; done) | (simp [sub, ringReg]; done)))
    | (simp -zeta only [Calm.of_mk]; with_reducible refine Calm.upd rfl ?_)
    | with_reducible apply Calm.ite
    | with_reducible apply Calm.foldl
    | split

theorem tamperTrip_calm (t : TamperSource) (s : State) : Calm [0x0E04C, 0x48124, 0x48120, 0x0E030, 0x7F040, 0x0A034, 0x08930, 0x7F01C, 0x0A010, 0x0A030, 0x34020, 0x7F018] s (tamperTrip t s) := by
  unfold tamperTrip
  repeat' first
    | with_reducible apply Calm.refl
    | with_reducible assumption
    | (intro y; with_reducible refine Calm.cut y ?_ ?_; (on_goal 2 => clear_value y; intro _); (on_goal 1 => subst y))
    | (intro y; clear_value y)
    | (intro y; subst y)
    | intro _
    | lift_lets -underBinder
    | ((with_reducible apply Calm.step (zeroise_calm _ _ _)); (on_goal 2 => first | (simp [sub]; done) | (simp [sub, ringReg]; done)))
    | (simp -zeta only [Calm.of_mk]; with_reducible refine Calm.upd rfl ?_)
    | with_reducible apply Calm.ite
    | with_reducible apply Calm.foldl
    | split

theorem keyZeroise_calm (r : Req) (param : Nat) (s : State) : Calm [0x0E04C, 0x48124, 0x48120, 0x0E030, 0x7F040, 0x0A034, 0x08930, 0x7F01C, 0x0A010, 0x0A030, 0x34020, 0x7F018] s (keyZeroise r param s) := by
  unfold keyZeroise
  repeat' first
    | with_reducible apply Calm.refl
    | with_reducible assumption
    | (intro y; with_reducible refine Calm.cut y ?_ ?_; (on_goal 2 => clear_value y; intro _); (on_goal 1 => subst y))
    | (intro y; clear_value y)
    | (intro y; subst y)
    | intro _
    | lift_lets -underBinder
    | ((with_reducible apply Calm.step (zeroise_calm _ _ _)); (on_goal 2 => first | (simp [sub]; done) | (simp [sub, ringReg]; done)))
    | ((with_reducible apply Calm.step_within (complete_within _ _ _ _ _ _)); (on_goal 2 => first | (simp [off]; done) | (simp [off, ethStat, canStatReg, ethCfg]; omega) | (intro z hz; simp at hz; omega)); (on_goal 2 => first | (simp [sub]; done) | (simp [sub, ringReg]; done)))
    | ((with_reducible apply Calm.step_within (finish_within _ _ _ _)); (on_goal 2 => first | (simp [off]; done) | (simp [off, ethStat, canStatReg, ethCfg]; omega) | (intro z hz; simp at hz; omega)); (on_goal 2 => first | (simp [sub]; done) | (simp [sub, ringReg]; done)))
    | (simp -zeta only [Calm.of_mk]; with_reducible refine Calm.upd rfl ?_)
    | with_reducible apply Calm.ite
    | with_reducible apply Calm.foldl
    | split

theorem backupMeasure_calm (extMv : Nat) (cellMv : Nat) (capMv : Nat) (s : State) : Calm [0x06020, 0x06004, 0x04014, 0x0A034, 0x0A010, 0x0A030, 0x08938, 0x7F018, 0x0E04C, 0x0E030, 0x7F040, 0x7F01C, 0x34020] s (backupMeasure extMv cellMv capMv s) := by
  unfold backupMeasure
  repeat' first
    | with_reducible apply Calm.refl
    | with_reducible assumption
    | (intro y; with_reducible refine Calm.cut y ?_ ?_; (on_goal 2 => clear_value y; intro _); (on_goal 1 => subst y))
    | (intro y; clear_value y)
    | (intro y; subst y)
    | intro _
    | lift_lets -underBinder
    | ((with_reducible apply Calm.step_within (timCause_within _ _)); (on_goal 2 => first | (simp [off]; done) | (simp [off, ethStat, canStatReg, ethCfg]; omega) | (intro z hz; simp at hz; omega)); (on_goal 2 => first | (simp [sub]; done) | (simp [sub, ringReg]; done)))
    | ((with_reducible apply Calm.step (setCond_calm _ _ _)); (on_goal 2 => first | (simp [sub]; done) | (simp [sub, ringReg]; done)))
    | ((with_reducible apply Calm.step_within (lowFlag_within _ _ _)); (on_goal 2 => first | (simp [off]; done) | (simp [off, ethStat, canStatReg, ethCfg]; omega) | (intro z hz; simp at hz; omega)); (on_goal 2 => first | (simp [sub]; done) | (simp [sub, ringReg]; done)))
    | ((with_reducible apply Calm.step_within (setReg_within _ _ _)); (on_goal 2 => first | (simp [off]; done) | (simp [off, ethStat, canStatReg, ethCfg]; omega) | (intro z hz; simp at hz; omega)); (on_goal 2 => first | (simp [sub]; done) | (simp [sub, ringReg]; done)))
    | (simp -zeta only [Calm.of_mk]; with_reducible refine Calm.upd rfl ?_)
    | with_reducible apply Calm.ite
    | with_reducible apply Calm.foldl
    | split

theorem linkDrop_calm (cause : Nat) (s : State) : Calm [0x08900, 0x0A034, 0x0A010, 0x0A030, 0x7F018, 0x0E04C, 0x0E030, 0x7F040, 0x7F01C, 0x34020] s (linkDrop cause s) := by
  unfold linkDrop
  repeat' first
    | with_reducible apply Calm.refl
    | with_reducible assumption
    | (intro y; with_reducible refine Calm.cut y ?_ ?_; (on_goal 2 => clear_value y; intro _); (on_goal 1 => subst y))
    | (intro y; clear_value y)
    | (intro y; subst y)
    | intro _
    | lift_lets -underBinder
    | ((with_reducible apply Calm.step_within (evt_within _ _ _ _)); (on_goal 2 => first | (simp [off]; done) | (simp [off, ethStat, canStatReg, ethCfg]; omega) | (intro z hz; simp at hz; omega)); (on_goal 2 => first | (simp [sub]; done) | (simp [sub, ringReg]; done)))
    | ((with_reducible apply Calm.step (assertSrc_calm _ _)); (on_goal 2 => first | (simp [sub]; done) | (simp [sub, ringReg]; done)))
    | ((with_reducible apply Calm.step_within (putRing_within _ _ _)); (on_goal 2 => first | (simp [off]; done) | (simp [off, ethStat, canStatReg, ethCfg]; omega) | (intro z hz; simp at hz; omega)); (on_goal 2 => first | (simp [sub]; done) | (simp [sub, ringReg]; done)))
    | (simp -zeta only [Calm.of_mk]; with_reducible refine Calm.upd rfl ?_)
    | with_reducible apply Calm.ite
    | with_reducible apply Calm.foldl
    | split

theorem linkLoss_calm (c : LinkCause) (s : State) : Calm [0x00004, 0x08900, 0x0A034, 0x0A010, 0x0A030, 0x7F018, 0x0E04C, 0x0E030, 0x7F040, 0x7F01C, 0x34020] s (linkLoss c s) := by
  unfold linkLoss
  repeat' first
    | with_reducible apply Calm.refl
    | with_reducible assumption
    | (intro y; with_reducible refine Calm.cut y ?_ ?_; (on_goal 2 => clear_value y; intro _); (on_goal 1 => subst y))
    | (intro y; clear_value y)
    | (intro y; subst y)
    | intro _
    | lift_lets -underBinder
    | ((with_reducible apply Calm.step_within (linkDown_within _)); (on_goal 2 => first | (simp [off]; done) | (simp [off, ethStat, canStatReg, ethCfg]; omega) | (intro z hz; simp at hz; omega)); (on_goal 2 => first | (simp [sub]; done) | (simp [sub, ringReg]; done)))
    | ((with_reducible apply Calm.step_within (pmcAdd_within _ _ _)); (on_goal 2 => first | (simp [off]; done) | (simp [off, ethStat, canStatReg, ethCfg]; omega) | (intro z hz; simp at hz; omega)); (on_goal 2 => first | (simp [sub]; done) | (simp [sub, ringReg]; done)))
    | ((with_reducible apply Calm.step (linkDrop_calm _ _)); (on_goal 2 => first | (simp [sub]; done) | (simp [sub, ringReg]; done)))
    | (simp -zeta only [Calm.of_mk]; with_reducible refine Calm.upd rfl ?_)
    | with_reducible apply Calm.ite
    | with_reducible apply Calm.foldl
    | split

theorem watchdog_calm (t : Nat) (s : State) : Calm [0x34038, 0x0A034, 0x34020, 0x0E04C, 0x088E0, 0x0A010, 0x0A030, 0x0179C, 0x0E030, 0x7F040, 0x7F01C, 0x7F018] s (watchdog t s) := by
  unfold watchdog
  repeat' first
    | with_reducible apply Calm.refl
    | with_reducible assumption
    | (intro y; with_reducible refine Calm.cut y ?_ ?_; (on_goal 2 => clear_value y; intro _); (on_goal 1 => subst y))
    | (intro y; clear_value y)
    | (intro y; subst y)
    | intro _
    | lift_lets -underBinder
    | ((with_reducible apply Calm.step (raise_calm _ _)); (on_goal 2 => first | (simp [sub]; done) | (simp [sub, ringReg]; done)))
    | ((with_reducible apply Calm.step_within (resign_within _ _)); (on_goal 2 => first | (simp [off]; done) | (simp [off, ethStat, canStatReg, ethCfg]; omega) | (intro z hz; simp at hz; omega)); (on_goal 2 => first | (simp [sub]; done) | (simp [sub, ringReg]; done)))
    | ((with_reducible apply Calm.step_within (incReg_within _ _ _)); (on_goal 2 => first | (simp [off]; done) | (simp [off, ethStat, canStatReg, ethCfg]; omega) | (intro z hz; simp at hz; omega)); (on_goal 2 => first | (simp [sub]; done) | (simp [sub, ringReg]; done)))
    | ((with_reducible apply Calm.step_within (progRecord_within _ _ _)); (on_goal 2 => first | (simp [off]; done) | (simp [off, ethStat, canStatReg, ethCfg]; omega) | (intro z hz; simp at hz; omega)); (on_goal 2 => first | (simp [sub]; done) | (simp [sub, ringReg]; done)))
    | ((with_reducible apply Calm.step_within (stopTask_within _ _)); (on_goal 2 => first | (simp [off]; done) | (simp [off, ethStat, canStatReg, ethCfg]; omega) | (intro z hz; simp at hz; omega)); (on_goal 2 => first | (simp [sub]; done) | (simp [sub, ringReg]; done)))
    | ((with_reducible apply Calm.step_within (setF_within _ _ _ _ _)); (on_goal 2 => first | (simp [off]; done) | (simp [off, ethStat, canStatReg, ethCfg]; omega) | (intro z hz; simp at hz; omega)); (on_goal 2 => first | (simp [sub]; done) | (simp [sub, ringReg]; done)))
    | ((with_reducible apply Calm.step_within (setProgState_within _ _)); (on_goal 2 => first | (simp [off]; done) | (simp [off, ethStat, canStatReg, ethCfg]; omega) | (intro z hz; simp at hz; omega)); (on_goal 2 => first | (simp [sub]; done) | (simp [sub, ringReg]; done)))
    | (simp -zeta only [Calm.of_mk]; with_reducible refine Calm.upd rfl ?_)
    | with_reducible apply Calm.ite
    | with_reducible apply Calm.foldl
    | split

theorem ringLink_calm (p : Nat) (up : Bool) (s : State) : Calm [ethStat p, 0x38600, 0x0A034, 0x0A010, 0x0A030, 0x08908, 0x7F018, 0x0E04C, 0x0E030, 0x7F040, 0x7F01C, 0x34020] s (ringLink p up s) := by
  unfold ringLink
  repeat' first
    | with_reducible apply Calm.refl
    | with_reducible assumption
    | (intro y; with_reducible refine Calm.cut y ?_ ?_; (on_goal 2 => clear_value y; intro _); (on_goal 1 => subst y))
    | (intro y; clear_value y)
    | (intro y; subst y)
    | intro _
    | lift_lets -underBinder
    | ((with_reducible apply Calm.step (setCond_calm _ _ _)); (on_goal 2 => first | (simp [sub]; done) | (simp [sub, ringReg]; done)))
    | ((with_reducible apply Calm.step_within (setB_within _ _ _ _)); (on_goal 2 => first | (simp [off]; done) | (simp [off, ethStat, canStatReg, ethCfg]; omega) | (intro z hz; simp at hz; omega)); (on_goal 2 => first | (simp [sub]; done) | (simp [sub, ringReg]; done)))
    | ((with_reducible apply Calm.step_within (evt_within _ _ _ _)); (on_goal 2 => first | (simp [off]; done) | (simp [off, ethStat, canStatReg, ethCfg]; omega) | (intro z hz; simp at hz; omega)); (on_goal 2 => first | (simp [sub]; done) | (simp [sub, ringReg]; done)))
    | (simp -zeta only [Calm.of_mk]; with_reducible refine Calm.upd rfl ?_)
    | with_reducible apply Calm.ite
    | with_reducible apply Calm.foldl
    | split

theorem busOff_calm (c : Nat) (s : State) : Calm [canStatReg c, 0x0A034, 34816 + 4 * (68 + c), 0x0A010, 0x0A030, 0x7F018, 0x0E04C, 0x0E030, 0x7F040, 0x7F01C, 0x34020] s (busOff c s) := by
  unfold busOff
  repeat' first
    | with_reducible apply Calm.refl
    | with_reducible assumption
    | (intro y; with_reducible refine Calm.cut y ?_ ?_; (on_goal 2 => clear_value y; intro _); (on_goal 1 => subst y))
    | (intro y; clear_value y)
    | (intro y; subst y)
    | intro _
    | lift_lets -underBinder
    | ((with_reducible apply Calm.step_within (evt_within _ _ _ _)); (on_goal 2 => first | (simp [off]; done) | (simp [off, ethStat, canStatReg, ethCfg]; omega) | (intro z hz; simp at hz; omega)); (on_goal 2 => first | (simp [sub]; done) | (simp [sub, ringReg]; done)))
    | ((with_reducible apply Calm.step (assertSrc_calm _ _)); (on_goal 2 => first | (simp [sub]; done) | (simp [sub, ringReg]; done)))
    | ((with_reducible apply Calm.step_within (endPending_within _ _ _)); (on_goal 2 => first | (simp [off]; done) | (simp [off, ethStat, canStatReg, ethCfg]; omega) | (intro z hz; simp at hz; omega)); (on_goal 2 => first | (simp [sub]; done) | (simp [sub, ringReg]; done)))
    | ((with_reducible apply Calm.step_within (putCan_within _ _ _)); (on_goal 2 => first | (simp [off]; done) | (simp [off, ethStat, canStatReg, ethCfg]; omega) | (intro z hz; simp at hz; omega)); (on_goal 2 => first | (simp [sub]; done) | (simp [sub, ringReg]; done)))
    | ((with_reducible apply Calm.step_within (setB_within _ _ _ _)); (on_goal 2 => first | (simp [off]; done) | (simp [off, ethStat, canStatReg, ethCfg]; omega) | (intro z hz; simp at hz; omega)); (on_goal 2 => first | (simp [sub]; done) | (simp [sub, ringReg]; done)))
    | ((with_reducible apply Calm.step_within (setF_within _ _ _ _ _)); (on_goal 2 => first | (simp [off]; done) | (simp [off, ethStat, canStatReg, ethCfg]; omega) | (intro z hz; simp at hz; omega)); (on_goal 2 => first | (simp [sub]; done) | (simp [sub, ringReg]; done)))
    | (simp -zeta only [Calm.of_mk]; with_reducible refine Calm.upd rfl ?_)
    | with_reducible apply Calm.ite
    | with_reducible apply Calm.foldl
    | split

theorem dioFaults_calm (s : State) : Calm [0x3800C, 0x38008, 0x08920, 0x0A034, 0x0A010, 0x0A030, 0x7F018, 0x0E04C, 0x0E030, 0x7F040, 0x7F01C, 0x34020] s (dioFaults s) := by
  unfold dioFaults
  repeat' first
    | with_reducible apply Calm.refl
    | with_reducible assumption
    | (intro y; with_reducible refine Calm.cut y ?_ ?_; (on_goal 2 => clear_value y; intro _); (on_goal 1 => subst y))
    | (intro y; clear_value y)
    | (intro y; subst y)
    | intro _
    | lift_lets -underBinder
    | ((with_reducible apply Calm.step_within (setB_within _ _ _ _)); (on_goal 2 => first | (simp [off]; done) | (simp [off, ethStat, canStatReg, ethCfg]; omega) | (intro z hz; simp at hz; omega)); (on_goal 2 => first | (simp [sub]; done) | (simp [sub, ringReg]; done)))
    | ((with_reducible apply Calm.step (setCond_calm _ _ _)); (on_goal 2 => first | (simp [sub]; done) | (simp [sub, ringReg]; done)))
    | ((with_reducible apply Calm.step_within (setReg_within _ _ _)); (on_goal 2 => first | (simp [off]; done) | (simp [off, ethStat, canStatReg, ethCfg]; omega) | (intro z hz; simp at hz; omega)); (on_goal 2 => first | (simp [sub]; done) | (simp [sub, ringReg]; done)))
    | (simp -zeta only [Calm.of_mk]; with_reducible refine Calm.upd rfl ?_)
    | with_reducible apply Calm.ite
    | with_reducible apply Calm.foldl
    | split

theorem dioLatch_calm (s : State) : Calm [0x3800C, 0x38008, 0x08920, 0x0A034, 0x0A010, 0x0A030, 0x7F018, 0x0E04C, 0x0E030, 0x7F040, 0x7F01C, 0x34020] s (dioLatch s) := by
  unfold dioLatch
  repeat' first
    | with_reducible apply Calm.refl
    | with_reducible assumption
    | (intro y; with_reducible refine Calm.cut y ?_ ?_; (on_goal 2 => clear_value y; intro _); (on_goal 1 => subst y))
    | (intro y; clear_value y)
    | (intro y; subst y)
    | intro _
    | lift_lets -underBinder
    | ((with_reducible apply Calm.step_within (publishArea_within _ _ _ _)); (on_goal 2 => first | (simp [off]; done) | (simp [off, ethStat, canStatReg, ethCfg]; omega) | (intro z hz; simp at hz; omega)); (on_goal 2 => first | (simp [sub]; done) | (simp [sub, ringReg]; done)))
    | ((with_reducible apply Calm.step_within (dioRearm_within _ _ _)); (on_goal 2 => first | (simp [off]; done) | (simp [off, ethStat, canStatReg, ethCfg]; omega) | (intro z hz; simp at hz; omega)); (on_goal 2 => first | (simp [sub]; done) | (simp [sub, ringReg]; done)))
    | ((with_reducible apply Calm.step (dioFaults_calm _)); (on_goal 2 => first | (simp [sub]; done) | (simp [sub, ringReg]; done)))
    | (simp -zeta only [Calm.of_mk]; with_reducible refine Calm.upd rfl ?_)
    | with_reducible apply Calm.ite
    | with_reducible apply Calm.foldl
    | split

theorem dioShutdown_calm (n : Nat) (s : State) : Calm [0x3800C, 0x38008, 0x08920, 0x0A034, 0x0A010, 0x0A030, 0x7F018, 0x0E04C, 0x0E030, 0x7F040, 0x7F01C, 0x34020] s (dioShutdown n s) := by
  unfold dioShutdown
  repeat' first
    | with_reducible apply Calm.refl
    | with_reducible assumption
    | (intro y; with_reducible refine Calm.cut y ?_ ?_; (on_goal 2 => clear_value y; intro _); (on_goal 1 => subst y))
    | (intro y; clear_value y)
    | (intro y; subst y)
    | intro _
    | lift_lets -underBinder
    | ((with_reducible apply Calm.step_within (putDio_within _ _)); (on_goal 2 => first | (simp [off]; done) | (simp [off, ethStat, canStatReg, ethCfg]; omega) | (intro z hz; simp at hz; omega)); (on_goal 2 => first | (simp [sub]; done) | (simp [sub, ringReg]; done)))
    | ((with_reducible apply Calm.step_within (pmcAdd_within _ _ _)); (on_goal 2 => first | (simp [off]; done) | (simp [off, ethStat, canStatReg, ethCfg]; omega) | (intro z hz; simp at hz; omega)); (on_goal 2 => first | (simp [sub]; done) | (simp [sub, ringReg]; done)))
    | ((with_reducible apply Calm.step (dioFaults_calm _)); (on_goal 2 => first | (simp [sub]; done) | (simp [sub, ringReg]; done)))
    | (simp -zeta only [Calm.of_mk]; with_reducible refine Calm.upd rfl ?_)
    | with_reducible apply Calm.ite
    | with_reducible apply Calm.foldl
    | split

theorem dioReadback_calm (n : Nat) (holds : Bool) (s : State) : Calm [0x3800C, 0x38008, 0x08920, 0x0A034, 0x0A010, 0x0A030, 0x7F018, 0x0E04C, 0x0E030, 0x7F040, 0x7F01C, 0x34020] s (dioReadback n holds s) := by
  unfold dioReadback
  repeat' first
    | with_reducible apply Calm.refl
    | with_reducible assumption
    | (intro y; with_reducible refine Calm.cut y ?_ ?_; (on_goal 2 => clear_value y; intro _); (on_goal 1 => subst y))
    | (intro y; clear_value y)
    | (intro y; subst y)
    | intro _
    | lift_lets -underBinder
    | ((with_reducible apply Calm.step_within (putDio_within _ _)); (on_goal 2 => first | (simp [off]; done) | (simp [off, ethStat, canStatReg, ethCfg]; omega) | (intro z hz; simp at hz; omega)); (on_goal 2 => first | (simp [sub]; done) | (simp [sub, ringReg]; done)))
    | ((with_reducible apply Calm.step (dioFaults_calm _)); (on_goal 2 => first | (simp [sub]; done) | (simp [sub, ringReg]; done)))
    | ((with_reducible apply Calm.step_within (pmcAdd_within _ _ _)); (on_goal 2 => first | (simp [off]; done) | (simp [off, ethStat, canStatReg, ethCfg]; omega) | (intro z hz; simp at hz; omega)); (on_goal 2 => first | (simp [sub]; done) | (simp [sub, ringReg]; done)))
    | (simp -zeta only [Calm.of_mk]; with_reducible refine Calm.upd rfl ?_)
    | with_reducible apply Calm.ite
    | with_reducible apply Calm.foldl
    | split

theorem logicSilence_calm (s : State) : Calm [0x38008, 0x3800C, 0x38010, 0x08920, 0x0A034, 0x0A010, 0x0A030, 0x7F018, 0x0E04C, 0x0E030, 0x7F040, 0x7F01C, 0x34020] s (logicSilence s) := by
  unfold logicSilence
  repeat' first
    | with_reducible apply Calm.refl
    | with_reducible assumption
    | (intro y; with_reducible refine Calm.cut y ?_ ?_; (on_goal 2 => clear_value y; intro _); (on_goal 1 => subst y))
    | (intro y; clear_value y)
    | (intro y; subst y)
    | intro _
    | lift_lets -underBinder
    | ((with_reducible apply Calm.step_within (putDio_within _ _)); (on_goal 2 => first | (simp [off]; done) | (simp [off, ethStat, canStatReg, ethCfg]; omega) | (intro z hz; simp at hz; omega)); (on_goal 2 => first | (simp [sub]; done) | (simp [sub, ringReg]; done)))
    | ((with_reducible apply Calm.step_within (setB_within _ _ _ _)); (on_goal 2 => first | (simp [off]; done) | (simp [off, ethStat, canStatReg, ethCfg]; omega) | (intro z hz; simp at hz; omega)); (on_goal 2 => first | (simp [sub]; done) | (simp [sub, ringReg]; done)))
    | ((with_reducible apply Calm.step_within (incReg_within _ _ _)); (on_goal 2 => first | (simp [off]; done) | (simp [off, ethStat, canStatReg, ethCfg]; omega) | (intro z hz; simp at hz; omega)); (on_goal 2 => first | (simp [sub]; done) | (simp [sub, ringReg]; done)))
    | ((with_reducible apply Calm.step_within (pmcAdd_within _ _ _)); (on_goal 2 => first | (simp [off]; done) | (simp [off, ethStat, canStatReg, ethCfg]; omega) | (intro z hz; simp at hz; omega)); (on_goal 2 => first | (simp [sub]; done) | (simp [sub, ringReg]; done)))
    | ((with_reducible apply Calm.step (dioFaults_calm _)); (on_goal 2 => first | (simp [sub]; done) | (simp [sub, ringReg]; done)))
    | (simp -zeta only [Calm.of_mk]; with_reducible refine Calm.upd rfl ?_)
    | with_reducible apply Calm.ite
    | with_reducible apply Calm.foldl
    | split

theorem silenceEnd_calm (s : State) : Calm [0x38008, 0x3800C, 0x08920, 0x0A034, 0x0A010, 0x0A030, 0x7F018, 0x0E04C, 0x0E030, 0x7F040, 0x7F01C, 0x34020] s (silenceEnd s) := by
  unfold silenceEnd
  repeat' first
    | with_reducible apply Calm.refl
    | with_reducible assumption
    | (intro y; with_reducible refine Calm.cut y ?_ ?_; (on_goal 2 => clear_value y; intro _); (on_goal 1 => subst y))
    | (intro y; clear_value y)
    | (intro y; subst y)
    | intro _
    | lift_lets -underBinder
    | ((with_reducible apply Calm.step_within (setB_within _ _ _ _)); (on_goal 2 => first | (simp [off]; done) | (simp [off, ethStat, canStatReg, ethCfg]; omega) | (intro z hz; simp at hz; omega)); (on_goal 2 => first | (simp [sub]; done) | (simp [sub, ringReg]; done)))
    | ((with_reducible apply Calm.step (dioFaults_calm _)); (on_goal 2 => first | (simp [sub]; done) | (simp [sub, ringReg]; done)))
    | (simp -zeta only [Calm.of_mk]; with_reducible refine Calm.upd rfl ?_)
    | with_reducible apply Calm.ite
    | with_reducible apply Calm.foldl
    | split

theorem groupSupply_calm (g : Nat) (missing : Bool) (s : State) : Calm [0x38008, 0x3800C, 0x08920, 0x0A034, 0x08924, 0x01B9C, 0x0A010, 0x0A030, 0x7F018, 0x0E04C, 0x0E030, 0x7F040, 0x7F01C, 0x34020] s (groupSupply g missing s) := by
  unfold groupSupply
  repeat' first
    | with_reducible apply Calm.refl
    | with_reducible assumption
    | (intro y; with_reducible refine Calm.cut y ?_ ?_; (on_goal 2 => clear_value y; intro _); (on_goal 1 => subst y))
    | (intro y; clear_value y)
    | (intro y; subst y)
    | intro _
    | lift_lets -underBinder
    | ((with_reducible apply Calm.step (setCond_calm _ _ _)); (on_goal 2 => first | (simp [sub]; done) | (simp [sub, ringReg]; done)))
    | ((with_reducible apply Calm.step (dioFaults_calm _)); (on_goal 2 => first | (simp [sub]; done) | (simp [sub, ringReg]; done)))
    | ((with_reducible apply Calm.step_within (setB_within _ _ _ _)); (on_goal 2 => first | (simp [off]; done) | (simp [off, ethStat, canStatReg, ethCfg]; omega) | (intro z hz; simp at hz; omega)); (on_goal 2 => first | (simp [sub]; done) | (simp [sub, ringReg]; done)))
    | ((with_reducible apply Calm.step_within (dioEdge_within _ _ _)); (on_goal 2 => first | (simp [off]; done) | (simp [off, ethStat, canStatReg, ethCfg]; omega) | (intro z hz; simp at hz; omega)); (on_goal 2 => first | (simp [sub]; done) | (simp [sub, ringReg]; done)))
    | (simp -zeta only [Calm.of_mk]; with_reducible refine Calm.upd rfl ?_)
    | with_reducible apply Calm.ite
    | with_reducible apply Calm.foldl
    | split

theorem islandFault_calm (s : State) (n : Nat) : Calm [34816 + 4 * n, 0x0A034, 0x0A010, 0x0A030, 0x7F018, 0x0E04C, 0x0E030, 0x7F040, 0x7F01C, 0x34020] s (islandFault s n) := by
  unfold islandFault
  repeat' first
    | with_reducible apply Calm.refl
    | with_reducible assumption
    | (intro y; with_reducible refine Calm.cut y ?_ ?_; (on_goal 2 => clear_value y; intro _); (on_goal 1 => subst y))
    | (intro y; clear_value y)
    | (intro y; subst y)
    | intro _
    | lift_lets -underBinder
    | ((with_reducible apply Calm.step (assertSrc_calm _ _)); (on_goal 2 => first | (simp [sub]; done) | (simp [sub, ringReg]; done)))
    | ((with_reducible apply Calm.step_within (emit_within _ _)); (on_goal 2 => first | (simp [off]; done) | (simp [off, ethStat, canStatReg, ethCfg]; omega) | (intro z hz; simp at hz; omega)); (on_goal 2 => first | (simp [sub]; done) | (simp [sub, ringReg]; done)))
    | (simp -zeta only [Calm.of_mk]; with_reducible refine Calm.upd rfl ?_)
    | with_reducible apply Calm.ite
    | with_reducible apply Calm.foldl
    | split

theorem lockstepMismatch_calm (n : Nat) (s : State) : Calm [34816 + 4 * n, 0x0A034, 0x0A010, 0x0A030, 0x7F018, 0x0E04C, 0x0E030, 0x7F040, 0x7F01C, 0x34020] s (lockstepMismatch n s) := by
  unfold lockstepMismatch
  repeat' first
    | with_reducible apply Calm.refl
    | with_reducible assumption
    | (intro y; with_reducible refine Calm.cut y ?_ ?_; (on_goal 2 => clear_value y; intro _); (on_goal 1 => subst y))
    | (intro y; clear_value y)
    | (intro y; subst y)
    | intro _
    | lift_lets -underBinder
    | ((with_reducible apply Calm.step (raise_calm _ _)); (on_goal 2 => first | (simp [sub]; done) | (simp [sub, ringReg]; done)))
    | (simp -zeta only [Calm.of_mk]; with_reducible refine Calm.upd rfl ?_)
    | with_reducible apply Calm.ite
    | with_reducible apply Calm.foldl
    | split

theorem memoryEccError_calm (n : Nat) (s : State) : Calm [34816 + 4 * n, 0x0A034, 0x0A010, 0x0A030, 0x7F018, 0x0E04C, 0x0E030, 0x7F040, 0x7F01C, 0x34020] s (memoryEccError n s) := by
  unfold memoryEccError
  repeat' first
    | with_reducible apply Calm.refl
    | with_reducible assumption
    | (intro y; with_reducible refine Calm.cut y ?_ ?_; (on_goal 2 => clear_value y; intro _); (on_goal 1 => subst y))
    | (intro y; clear_value y)
    | (intro y; subst y)
    | intro _
    | lift_lets -underBinder
    | ((with_reducible apply Calm.step (raise_calm _ _)); (on_goal 2 => first | (simp [sub]; done) | (simp [sub, ringReg]; done)))
    | (simp -zeta only [Calm.of_mk]; with_reducible refine Calm.upd rfl ?_)
    | with_reducible apply Calm.ite
    | with_reducible apply Calm.foldl
    | split

theorem islandGood_calm (s : State) (n : Nat) : Calm [0x08888, 0x0A034, 0x0A010, 0x0A030, 0x7F018, 0x0E04C, 0x0E030, 0x7F040, 0x7F01C, 0x34020] s (islandGood s n) := by
  unfold islandGood
  repeat' first
    | with_reducible apply Calm.refl
    | with_reducible assumption
    | (intro y; with_reducible refine Calm.cut y ?_ ?_; (on_goal 2 => clear_value y; intro _); (on_goal 1 => subst y))
    | (intro y; clear_value y)
    | (intro y; subst y)
    | intro _
    | lift_lets -underBinder
    | ((with_reducible apply Calm.step (assertSrc_calm _ _)); (on_goal 2 => first | (simp [sub]; done) | (simp [sub, ringReg]; done)))
    | ((with_reducible apply Calm.step_within (endCond_within _ _)); (on_goal 2 => first | (simp [off]; done) | (simp [off, ethStat, canStatReg, ethCfg]; omega) | (intro z hz; simp at hz; omega)); (on_goal 2 => first | (simp [sub]; done) | (simp [sub, ringReg]; done)))
    | (simp -zeta only [Calm.of_mk]; with_reducible refine Calm.upd rfl ?_)
    | with_reducible apply Calm.ite
    | with_reducible apply Calm.foldl
    | split

theorem levelConditionEnd_calm (n : Nat) (s : State) : Calm [0x08888, 0x0A034, 0x0A010, 0x0A030, 0x7F018, 0x0E04C, 0x0E030, 0x7F040, 0x7F01C, 0x34020] s (levelConditionEnd n s) := by
  unfold levelConditionEnd
  repeat' first
    | with_reducible apply Calm.refl
    | with_reducible assumption
    | (intro y; with_reducible refine Calm.cut y ?_ ?_; (on_goal 2 => clear_value y; intro _); (on_goal 1 => subst y))
    | (intro y; clear_value y)
    | (intro y; subst y)
    | intro _
    | lift_lets -underBinder
    | ((with_reducible apply Calm.step (islandGood_calm _ _)); (on_goal 2 => first | (simp [sub]; done) | (simp [sub, ringReg]; done)))
    | (simp -zeta only [Calm.of_mk]; with_reducible refine Calm.upd rfl ?_)
    | with_reducible apply Calm.ite
    | with_reducible apply Calm.foldl
    | split

theorem fcoForce_calm (v : Word) (s : State) : Calm [34816 + 4 * fld v 7 0, 0x0A034, 0x0A010, 0x0A030, 0x7F018, 0x0E04C, 0x0E030, 0x7F040, 0x7F01C, 0x34020] s (fcoForce v s) := by
  unfold fcoForce
  repeat' first
    | with_reducible apply Calm.refl
    | with_reducible assumption
    | (intro y; with_reducible refine Calm.cut y ?_ ?_; (on_goal 2 => clear_value y; intro _); (on_goal 1 => subst y))
    | (intro (y : Nat); subst y)
    | (intro y; clear_value y)
    | (intro y; subst y)
    | intro _
    | lift_lets -underBinder
    | ((with_reducible apply Calm.step (occur_calm _ _ _ _)); (on_goal 2 => first | (simp [sub]; done) | (simp [sub, ringReg]; done)))
    | ((with_reducible apply Calm.step_within (writeIgnored_within _ _ _)); (on_goal 2 => first | (simp [off]; done) | (simp [off, ethStat, canStatReg, ethCfg]; omega) | (intro z hz; simp at hz; omega)); (on_goal 2 => first | (simp [sub]; done) | (simp [sub, ringReg]; done)))
    | (simp -zeta only [Calm.of_mk]; with_reducible refine Calm.upd rfl ?_)
    | with_reducible apply Calm.ite
    | with_reducible apply Calm.foldl
    | split

theorem takeControl_calm (withMor : Bool) (s : State) : Calm [0x0A034, 0x7F040, 0x0E054, 0x0E050, 0x0A010, 0x0A030, 0x0892C, 0x7F01C, 0x0E030, 0x0E040, 0x34020, 0x7F018, 0x0E04C] s (takeControl withMor s) := by
  unfold takeControl
  repeat' first
    | with_reducible apply Calm.refl
    | with_reducible assumption
    | (intro y; with_reducible refine Calm.cut y ?_ ?_; (on_goal 2 => clear_value y; intro _); (on_goal 1 => subst y))
    | (intro y; clear_value y)
    | (intro y; subst y)
    | intro _
    | lift_lets -underBinder
    | ((with_reducible apply Calm.step_within (takeMor_within _)); (on_goal 2 => first | (simp [off]; done) | (simp [off, ethStat, canStatReg, ethCfg]; omega) | (intro z hz; simp at hz; omega)); (on_goal 2 => first | (simp [sub]; done) | (simp [sub, ringReg]; done)))
    | ((with_reducible apply Calm.step_within (dupSet_within _ _)); (on_goal 2 => first | (simp [off]; done) | (simp [off, ethStat, canStatReg, ethCfg]; omega) | (intro z hz; simp at hz; omega)); (on_goal 2 => first | (simp [sub]; done) | (simp [sub, ringReg]; done)))
    | ((with_reducible apply Calm.step_within (dispTakeControl_within _)); (on_goal 2 => first | (simp [off]; done) | (simp [off, ethStat, canStatReg, ethCfg]; omega) | (intro z hz; simp at hz; omega)); (on_goal 2 => first | (simp [sub]; done) | (simp [sub, ringReg]; done)))
    | ((with_reducible apply Calm.step_within (newClaim_within _)); (on_goal 2 => first | (simp [off]; done) | (simp [off, ethStat, canStatReg, ethCfg]; omega) | (intro z hz; simp at hz; omega)); (on_goal 2 => first | (simp [sub]; done) | (simp [sub, ringReg]; done)))
    | ((with_reducible apply Calm.step_within (noteSwitch_within _)); (on_goal 2 => first | (simp [off]; done) | (simp [off, ethStat, canStatReg, ethCfg]; omega) | (intro z hz; simp at hz; omega)); (on_goal 2 => first | (simp [sub]; done) | (simp [sub, ringReg]; done)))
    | ((with_reducible apply Calm.step_within (setRole_within _ _)); (on_goal 2 => first | (simp [off]; done) | (simp [off, ethStat, canStatReg, ethCfg]; omega) | (intro z hz; simp at hz; omega)); (on_goal 2 => first | (simp [sub]; done) | (simp [sub, ringReg]; done)))
    | ((with_reducible apply Calm.step (assertSrc_calm _ _)); (on_goal 2 => first | (simp [sub]; done) | (simp [sub, ringReg]; done)))
    | ((with_reducible apply Calm.step_within (evt_within _ _ _ _)); (on_goal 2 => first | (simp [off]; done) | (simp [off, ethStat, canStatReg, ethCfg]; omega) | (intro z hz; simp at hz; omega)); (on_goal 2 => first | (simp [sub]; done) | (simp [sub, ringReg]; done)))
    | (simp -zeta only [Calm.of_mk]; with_reducible refine Calm.upd rfl ?_)
    | with_reducible apply Calm.ite
    | with_reducible apply Calm.foldl
    | split

theorem takeSingle_calm (s : State) : Calm [0x0E054, 0x0E050, 0x0A034, 0x0892C, 0x7F040, 0x0E040, 0x0A010, 0x0A030, 0x7F01C, 0x0E030, 0x7F018, 0x0E04C, 0x34020] s (takeSingle s) := by
  unfold takeSingle
  repeat' first
    | with_reducible apply Calm.refl
    | with_reducible assumption
    | (intro y; with_reducible refine Calm.cut y ?_ ?_; (on_goal 2 => clear_value y; intro _); (on_goal 1 => subst y))
    | (intro y; clear_value y)
    | (intro y; subst y)
    | intro _
    | lift_lets -underBinder
    | ((with_reducible apply Calm.step_within (takeMor_within _)); (on_goal 2 => first | (simp [off]; done) | (simp [off, ethStat, canStatReg, ethCfg]; omega) | (intro z hz; simp at hz; omega)); (on_goal 2 => first | (simp [sub]; done) | (simp [sub, ringReg]; done)))
    | ((with_reducible apply Calm.step_within (newClaim_within _)); (on_goal 2 => first | (simp [off]; done) | (simp [off, ethStat, canStatReg, ethCfg]; omega) | (intro z hz; simp at hz; omega)); (on_goal 2 => first | (simp [sub]; done) | (simp [sub, ringReg]; done)))
    | ((with_reducible apply Calm.step_within (noteSwitch_within _)); (on_goal 2 => first | (simp [off]; done) | (simp [off, ethStat, canStatReg, ethCfg]; omega) | (intro z hz; simp at hz; omega)); (on_goal 2 => first | (simp [sub]; done) | (simp [sub, ringReg]; done)))
    | ((with_reducible apply Calm.step_within (setRole_within _ _)); (on_goal 2 => first | (simp [off]; done) | (simp [off, ethStat, canStatReg, ethCfg]; omega) | (intro z hz; simp at hz; omega)); (on_goal 2 => first | (simp [sub]; done) | (simp [sub, ringReg]; done)))
    | ((with_reducible apply Calm.step_within (dispTakeControl_within _)); (on_goal 2 => first | (simp [off]; done) | (simp [off, ethStat, canStatReg, ethCfg]; omega) | (intro z hz; simp at hz; omega)); (on_goal 2 => first | (simp [sub]; done) | (simp [sub, ringReg]; done)))
    | ((with_reducible apply Calm.step (assertSrc_calm _ _)); (on_goal 2 => first | (simp [sub]; done) | (simp [sub, ringReg]; done)))
    | ((with_reducible apply Calm.step_within (evt_within _ _ _ _)); (on_goal 2 => first | (simp [off]; done) | (simp [off, ethStat, canStatReg, ethCfg]; omega) | (intro z hz; simp at hz; omega)); (on_goal 2 => first | (simp [sub]; done) | (simp [sub, ringReg]; done)))
    | (simp -zeta only [Calm.of_mk]; with_reducible refine Calm.upd rfl ?_)
    | with_reducible apply Calm.ite
    | with_reducible apply Calm.foldl
    | split

theorem startupTake_calm (s : State) : Calm [0x0E054, 0x0E050, 0x0A034, 0x0892C, 0x7F040, 0x0E040, 0x0A010, 0x0A030, 0x7F01C, 0x0E030, 0x7F018, 0x0E04C, 0x34020] s (startupTake s) := by
  unfold startupTake
  repeat' first
    | with_reducible apply Calm.refl
    | with_reducible assumption
    | (intro y; with_reducible refine Calm.cut y ?_ ?_; (on_goal 2 => clear_value y; intro _); (on_goal 1 => subst y))
    | (intro y; clear_value y)
    | (intro y; subst y)
    | intro _
    | lift_lets -underBinder
    | ((with_reducible apply Calm.step_within (dupSet_within _ _)); (on_goal 2 => first | (simp [off]; done) | (simp [off, ethStat, canStatReg, ethCfg]; omega) | (intro z hz; simp at hz; omega)); (on_goal 2 => first | (simp [sub]; done) | (simp [sub, ringReg]; done)))
    | ((with_reducible apply Calm.step_within (sendPeer_within _ _)); (on_goal 2 => first | (simp [off]; done) | (simp [off, ethStat, canStatReg, ethCfg]; omega) | (intro z hz; simp at hz; omega)); (on_goal 2 => first | (simp [sub]; done) | (simp [sub, ringReg]; done)))
    | ((with_reducible apply Calm.step (takeControl_calm _ _)); (on_goal 2 => first | (simp [sub]; done) | (simp [sub, ringReg]; done)))
    | ((with_reducible apply Calm.step_within (holdWrites_within _)); (on_goal 2 => first | (simp [off]; done) | (simp [off, ethStat, canStatReg, ethCfg]; omega) | (intro z hz; simp at hz; omega)); (on_goal 2 => first | (simp [sub]; done) | (simp [sub, ringReg]; done)))
    | ((with_reducible apply Calm.step (takeSingle_calm _)); (on_goal 2 => first | (simp [sub]; done) | (simp [sub, ringReg]; done)))
    | (simp -zeta only [Calm.of_mk]; with_reducible refine Calm.upd rfl ?_)
    | with_reducible apply Calm.ite
    | with_reducible apply Calm.foldl
    | split

theorem linkLost_calm (s : State) : Calm [0x0E030, 0x0E048, 0x08928, 0x0A034, 0x0A010, 0x0A030, 0x7F018, 0x0E04C, 0x7F040, 0x7F01C, 0x34020] s (linkLost s) := by
  unfold linkLost
  repeat' first
    | with_reducible apply Calm.refl
    | with_reducible assumption
    | (intro y; with_reducible refine Calm.cut y ?_ ?_; (on_goal 2 => clear_value y; intro _); (on_goal 1 => subst y))
    | (intro y; clear_value y)
    | (intro y; subst y)
    | intro _
    | lift_lets -underBinder
    | ((with_reducible apply Calm.step (assertSrc_calm _ _)); (on_goal 2 => first | (simp [sub]; done) | (simp [sub, ringReg]; done)))
    | ((with_reducible apply Calm.step_within (freeWaiting_within _)); (on_goal 2 => first | (simp [off]; done) | (simp [off, ethStat, canStatReg, ethCfg]; omega) | (intro z hz; simp at hz; omega)); (on_goal 2 => first | (simp [sub]; done) | (simp [sub, ringReg]; done)))
    | ((with_reducible apply Calm.step_within (incReg_within _ _ _)); (on_goal 2 => first | (simp [off]; done) | (simp [off, ethStat, canStatReg, ethCfg]; omega) | (intro z hz; simp at hz; omega)); (on_goal 2 => first | (simp [sub]; done) | (simp [sub, ringReg]; done)))
    | ((with_reducible apply Calm.step_within (dupCause_within _ _)); (on_goal 2 => first | (simp [off]; done) | (simp [off, ethStat, canStatReg, ethCfg]; omega) | (intro z hz; simp at hz; omega)); (on_goal 2 => first | (simp [sub]; done) | (simp [sub, ringReg]; done)))
    | ((with_reducible apply Calm.step_within (dupSet_within _ _)); (on_goal 2 => first | (simp [off]; done) | (simp [off, ethStat, canStatReg, ethCfg]; omega) | (intro z hz; simp at hz; omega)); (on_goal 2 => first | (simp [sub]; done) | (simp [sub, ringReg]; done)))
    | (simp -zeta only [Calm.of_mk]; with_reducible refine Calm.upd rfl ?_)
    | with_reducible apply Calm.ite
    | with_reducible apply Calm.foldl
    | split

theorem linkSilence_calm (s : State) : Calm [0x0E030, 0x0E048, 0x08928, 0x0A034, 0x0A010, 0x0A030, 0x7F018, 0x0E04C, 0x7F040, 0x7F01C, 0x34020] s (linkSilence s) := by
  unfold linkSilence
  repeat' first
    | with_reducible apply Calm.refl
    | with_reducible assumption
    | (intro y; with_reducible refine Calm.cut y ?_ ?_; (on_goal 2 => clear_value y; intro _); (on_goal 1 => subst y))
    | (intro y; clear_value y)
    | (intro y; subst y)
    | intro _
    | lift_lets -underBinder
    | ((with_reducible apply Calm.step (linkLost_calm _)); (on_goal 2 => first | (simp [sub]; done) | (simp [sub, ringReg]; done)))
    | (simp -zeta only [Calm.of_mk]; with_reducible refine Calm.upd rfl ?_)
    | with_reducible apply Calm.ite
    | with_reducible apply Calm.foldl
    | split

theorem peerResend_calm (q : Nat) (s : State) : Calm [0x0E030, 0x0E048, 0x08928, 0x0A034, 0x0A010, 0x0A030, 0x7F018, 0x0E04C, 0x7F040, 0x7F01C, 0x34020] s (peerResend q s) := by
  unfold peerResend
  repeat' first
    | with_reducible apply Calm.refl
    | with_reducible assumption
    | (intro y; with_reducible refine Calm.cut y ?_ ?_; (on_goal 2 => clear_value y; intro _); (on_goal 1 => subst y))
    | (intro y; clear_value y)
    | (intro y; subst y)
    | intro _
    | lift_lets -underBinder
    | ((with_reducible apply Calm.step_within (emit_within _ _)); (on_goal 2 => first | (simp [off]; done) | (simp [off, ethStat, canStatReg, ethCfg]; omega) | (intro z hz; simp at hz; omega)); (on_goal 2 => first | (simp [sub]; done) | (simp [sub, ringReg]; done)))
    | ((with_reducible apply Calm.step_within (dupSet_within _ _)); (on_goal 2 => first | (simp [off]; done) | (simp [off, ethStat, canStatReg, ethCfg]; omega) | (intro z hz; simp at hz; omega)); (on_goal 2 => first | (simp [sub]; done) | (simp [sub, ringReg]; done)))
    | ((with_reducible apply Calm.step (linkLost_calm _)); (on_goal 2 => first | (simp [sub]; done) | (simp [sub, ringReg]; done)))
    | (simp -zeta only [Calm.of_mk]; with_reducible refine Calm.upd rfl ?_)
    | with_reducible apply Calm.ite
    | with_reducible apply Calm.foldl
    | split

theorem resignMsg_calm (h : PeerHdr) (cause : Nat) (s : State) : Calm [0x0E028, 0x0E054, 0x0E050, 0x0A034, 0x7F040, 0x0E030, 0x0E040, 0x0A010, 0x0A030, 0x0892C, 0x7F01C, 0x34020, 0x7F018, 0x0E04C] s (resignMsg h cause s) := by
  unfold resignMsg
  repeat' first
    | with_reducible apply Calm.refl
    | with_reducible assumption
    | (intro y; with_reducible refine Calm.cut y ?_ ?_; (on_goal 2 => clear_value y; intro _); (on_goal 1 => subst y))
    | (intro y; clear_value y)
    | (intro y; subst y)
    | intro _
    | lift_lets -underBinder
    | ((with_reducible apply Calm.step (takeControl_calm _ _)); (on_goal 2 => first | (simp [sub]; done) | (simp [sub, ringReg]; done)))
    | ((with_reducible apply onMessage_calm); (on_goal 1 => first | (simp [sub]; done) | (simp [sub, ringReg]; done)))
    | (simp -zeta only [Calm.of_mk]; with_reducible refine Calm.upd rfl ?_)
    | with_reducible apply Calm.ite
    | with_reducible apply Calm.foldl
    | split

theorem takeWait_calm (s : State) : Calm [0x0A034, 0x7F040, 0x0E054, 0x0E050, 0x0A010, 0x0A030, 0x0892C, 0x7F01C, 0x0E030, 0x0E040, 0x34020, 0x7F018, 0x0E04C] s (takeWait s) := by
  unfold takeWait
  repeat' first
    | with_reducible apply Calm.refl
    | with_reducible assumption
    | (intro y; with_reducible refine Calm.cut y ?_ ?_; (on_goal 2 => clear_value y; intro _); (on_goal 1 => subst y))
    | (intro y; clear_value y)
    | (intro y; subst y)
    | intro _
    | lift_lets -underBinder
    | ((with_reducible apply Calm.step_within (holdWrites_within _)); (on_goal 2 => first | (simp [off]; done) | (simp [off, ethStat, canStatReg, ethCfg]; omega) | (intro z hz; simp at hz; omega)); (on_goal 2 => first | (simp [sub]; done) | (simp [sub, ringReg]; done)))
    | ((with_reducible apply Calm.step (takeControl_calm _ _)); (on_goal 2 => first | (simp [sub]; done) | (simp [sub, ringReg]; done)))
    | (simp -zeta only [Calm.of_mk]; with_reducible refine Calm.upd rfl ?_)
    | with_reducible apply Calm.ite
    | with_reducible apply Calm.foldl
    | split

theorem evidenceCheck_calm (s : State) : Calm [0x0A034, 0x7F040, 0x0E054, 0x0E050, 0x0A010, 0x0A030, 0x0892C, 0x7F01C, 0x0E030, 0x0E040, 0x34020, 0x7F018, 0x0E04C] s (evidenceCheck s) := by
  unfold evidenceCheck
  repeat' first
    | with_reducible apply Calm.refl
    | with_reducible assumption
    | (intro y; with_reducible refine Calm.cut y ?_ ?_; (on_goal 2 => clear_value y; intro _); (on_goal 1 => subst y))
    | (intro y; clear_value y)
    | (intro y; subst y)
    | intro _
    | lift_lets -underBinder
    | ((with_reducible apply Calm.step (takeControl_calm _ _)); (on_goal 2 => first | (simp [sub]; done) | (simp [sub, ringReg]; done)))
    | ((with_reducible apply Calm.step_within (evt_within _ _ _ _)); (on_goal 2 => first | (simp [off]; done) | (simp [off, ethStat, canStatReg, ethCfg]; omega) | (intro z hz; simp at hz; omega)); (on_goal 2 => first | (simp [sub]; done) | (simp [sub, ringReg]; done)))
    | ((with_reducible apply Calm.step_within (dupSet_within _ _)); (on_goal 2 => first | (simp [off]; done) | (simp [off, ethStat, canStatReg, ethCfg]; omega) | (intro z hz; simp at hz; omega)); (on_goal 2 => first | (simp [sub]; done) | (simp [sub, ringReg]; done)))
    | (simp -zeta only [Calm.of_mk]; with_reducible refine Calm.upd rfl ?_)
    | with_reducible apply Calm.ite
    | with_reducible apply Calm.foldl
    | split

theorem testDecide_calm (s : State) : Calm [0x0E030, 0x0E04C, 0x7F040, 0x0A034, 0x0892C, 0x7F01C, 0x0A010, 0x0A030, 0x34020, 0x7F018] s (testDecide s) := by
  unfold testDecide
  repeat' first
    | with_reducible apply Calm.refl
    | with_reducible assumption
    | (intro y; with_reducible refine Calm.cut y ?_ ?_; (on_goal 2 => clear_value y; intro _); (on_goal 1 => subst y))
    | (intro y; clear_value y)
    | (intro y; subst y)
    | intro _
    | lift_lets -underBinder
    | ((with_reducible apply Calm.step_within (resync_within _)); (on_goal 2 => first | (simp [off]; done) | (simp [off, ethStat, canStatReg, ethCfg]; omega) | (intro z hz; simp at hz; omega)); (on_goal 2 => first | (simp [sub]; done) | (simp [sub, ringReg]; done)))
    | ((with_reducible apply Calm.step (assertSrc_calm _ _)); (on_goal 2 => first | (simp [sub]; done) | (simp [sub, ringReg]; done)))
    | ((with_reducible apply Calm.step_within (beginModReset_within _ _ _ _)); (on_goal 2 => first | (simp [off]; done) | (simp [off, ethStat, canStatReg, ethCfg]; omega) | (intro z hz; simp at hz; omega)); (on_goal 2 => first | (simp [sub]; done) | (simp [sub, ringReg]; done)))
    | ((with_reducible apply Calm.step_within (dupSet_within _ _)); (on_goal 2 => first | (simp [off]; done) | (simp [off, ethStat, canStatReg, ethCfg]; omega) | (intro z hz; simp at hz; omega)); (on_goal 2 => first | (simp [sub]; done) | (simp [sub, ringReg]; done)))
    | ((with_reducible apply Calm.step_within (dupCause_within _ _)); (on_goal 2 => first | (simp [off]; done) | (simp [off, ethStat, canStatReg, ethCfg]; omega) | (intro z hz; simp at hz; omega)); (on_goal 2 => first | (simp [sub]; done) | (simp [sub, ringReg]; done)))
    | (simp -zeta only [Calm.of_mk]; with_reducible refine Calm.upd rfl ?_)
    | with_reducible apply Calm.ite
    | with_reducible apply Calm.foldl
    | split

theorem selftestMsg_calm (h : PeerHdr) (result : Option Bool) (s : State) : Calm [0x0E028, 0x0E054, 0x0E050, 0x0E030, 0x0E04C, 0x0E040, 0x7F040, 0x0A034, 0x0892C, 0x7F01C, 0x0A010, 0x0A030, 0x34020, 0x7F018] s (selftestMsg h result s) := by
  unfold selftestMsg
  repeat' first
    | with_reducible apply Calm.refl
    | with_reducible assumption
    | (intro y; with_reducible refine Calm.cut y ?_ ?_; (on_goal 2 => clear_value y; intro _); (on_goal 1 => subst y))
    | (intro y; clear_value y)
    | (intro y; subst y)
    | intro _
    | lift_lets -underBinder
    | ((with_reducible apply Calm.step_within (dupSet_within _ _)); (on_goal 2 => first | (simp [off]; done) | (simp [off, ethStat, canStatReg, ethCfg]; omega) | (intro z hz; simp at hz; omega)); (on_goal 2 => first | (simp [sub]; done) | (simp [sub, ringReg]; done)))
    | ((with_reducible apply Calm.step (testDecide_calm _)); (on_goal 2 => first | (simp [sub]; done) | (simp [sub, ringReg]; done)))
    | ((with_reducible apply Calm.step_within (testBegin_within _)); (on_goal 2 => first | (simp [off]; done) | (simp [off, ethStat, canStatReg, ethCfg]; omega) | (intro z hz; simp at hz; omega)); (on_goal 2 => first | (simp [sub]; done) | (simp [sub, ringReg]; done)))
    | ((with_reducible apply onMessage_calm); (on_goal 1 => first | (simp [sub]; done) | (simp [sub, ringReg]; done)))
    | (simp -zeta only [Calm.of_mk]; with_reducible refine Calm.upd rfl ?_)
    | with_reducible apply Calm.ite
    | with_reducible apply Calm.foldl
    | split

theorem selftestDone_calm (pass : Bool) (s : State) : Calm [0x0E030, 0x0E04C, 0x7F040, 0x0A034, 0x0892C, 0x7F01C, 0x0A010, 0x0A030, 0x34020, 0x7F018] s (selftestDone pass s) := by
  unfold selftestDone
  repeat' first
    | with_reducible apply Calm.refl
    | with_reducible assumption
    | (intro y; with_reducible refine Calm.cut y ?_ ?_; (on_goal 2 => clear_value y; intro _); (on_goal 1 => subst y))
    | (intro y; clear_value y)
    | (intro y; subst y)
    | intro _
    | lift_lets -underBinder
    | ((with_reducible apply Calm.step_within (dupSet_within _ _)); (on_goal 2 => first | (simp [off]; done) | (simp [off, ethStat, canStatReg, ethCfg]; omega) | (intro z hz; simp at hz; omega)); (on_goal 2 => first | (simp [sub]; done) | (simp [sub, ringReg]; done)))
    | ((with_reducible apply Calm.step_within (sendPeer_within _ _)); (on_goal 2 => first | (simp [off]; done) | (simp [off, ethStat, canStatReg, ethCfg]; omega) | (intro z hz; simp at hz; omega)); (on_goal 2 => first | (simp [sub]; done) | (simp [sub, ringReg]; done)))
    | ((with_reducible apply Calm.step (testDecide_calm _)); (on_goal 2 => first | (simp [sub]; done) | (simp [sub, ringReg]; done)))
    | (simp -zeta only [Calm.of_mk]; with_reducible refine Calm.upd rfl ?_)
    | with_reducible apply Calm.ite
    | with_reducible apply Calm.foldl
    | split

theorem testMissing_calm (s : State) : Calm [0x0E030, 0x0E048, 0x08928, 0x0A034, 0x0A010, 0x0A030, 0x7F018, 0x0E04C, 0x7F040, 0x7F01C, 0x34020] s (testMissing s) := by
  unfold testMissing
  repeat' first
    | with_reducible apply Calm.refl
    | with_reducible assumption
    | (intro y; with_reducible refine Calm.cut y ?_ ?_; (on_goal 2 => clear_value y; intro _); (on_goal 1 => subst y))
    | (intro y; clear_value y)
    | (intro y; subst y)
    | intro _
    | lift_lets -underBinder
    | ((with_reducible apply Calm.step (linkLost_calm _)); (on_goal 2 => first | (simp [sub]; done) | (simp [sub, ringReg]; done)))
    | (simp -zeta only [Calm.of_mk]; with_reducible refine Calm.upd rfl ?_)
    | with_reducible apply Calm.ite
    | with_reducible apply Calm.foldl
    | split

theorem dupTakeover_calm (r : Req) (p : Nat) (s : State) : Calm [0x0A034, 0x7F040, 0x0E054, 0x0E050, 0x0A010, 0x0A030, 0x0892C, 0x7F01C, 0x0E030, 0x0E040, 0x34020, 0x7F018, 0x0E04C] s (dupTakeover r p s) := by
  unfold dupTakeover
  repeat' first
    | with_reducible apply Calm.refl
    | with_reducible assumption
    | (intro y; with_reducible refine Calm.cut y ?_ ?_; (on_goal 2 => clear_value y; intro _); (on_goal 1 => subst y))
    | (intro y; clear_value y)
    | (intro y; subst y)
    | intro _
    | lift_lets -underBinder
    | ((with_reducible apply Calm.step_within (complete_within _ _ _ _ _ _)); (on_goal 2 => first | (simp [off]; done) | (simp [off, ethStat, canStatReg, ethCfg]; omega) | (intro z hz; simp at hz; omega)); (on_goal 2 => first | (simp [sub]; done) | (simp [sub, ringReg]; done)))
    | ((with_reducible apply Calm.step (takeControl_calm _ _)); (on_goal 2 => first | (simp [sub]; done) | (simp [sub, ringReg]; done)))
    | ((with_reducible apply Calm.step_within (finish_within _ _ _ _)); (on_goal 2 => first | (simp [off]; done) | (simp [off, ethStat, canStatReg, ethCfg]; omega) | (intro z hz; simp at hz; omega)); (on_goal 2 => first | (simp [sub]; done) | (simp [sub, ringReg]; done)))
    | (simp -zeta only [Calm.of_mk]; with_reducible refine Calm.upd rfl ?_)
    | with_reducible apply Calm.ite
    | with_reducible apply Calm.foldl
    | split

theorem exchangeEnter_calm (p : ProgImage) (e : Exchange) (s : State) : Calm [0x0A034, 0x7F040, 0x0E054, 0x0E050, 0x34020, 0x0A010, 0x0A030, 0x0892C, 0x7F01C, 0x0E030, 0x0E040, 0x7F018, 0x0E04C] s (exchangeEnter p e s) := by
  unfold exchangeEnter
  repeat' first
    | with_reducible apply Calm.refl
    | with_reducible assumption
    | (intro y; with_reducible refine Calm.cut y ?_ ?_; (on_goal 2 => clear_value y; intro _); (on_goal 1 => subst y))
    | (intro y; clear_value y)
    | (intro y; subst y)
    | intro _
    | lift_lets -underBinder
    | ((with_reducible apply Calm.step_within (installProg_within _ _ _ _ _)); (on_goal 2 => first | (simp [off]; done) | (simp [off, ethStat, canStatReg, ethCfg]; omega) | (intro z hz; simp at hz; omega)); (on_goal 2 => first | (simp [sub]; done) | (simp [sub, ringReg]; done)))
    | ((with_reducible apply Calm.step_within (endExchanging_within _)); (on_goal 2 => first | (simp [off]; done) | (simp [off, ethStat, canStatReg, ethCfg]; omega) | (intro z hz; simp at hz; omega)); (on_goal 2 => first | (simp [sub]; done) | (simp [sub, ringReg]; done)))
    | ((with_reducible apply Calm.step (takeControl_calm _ _)); (on_goal 2 => first | (simp [sub]; done) | (simp [sub, ringReg]; done)))
    | (simp -zeta only [Calm.of_mk]; with_reducible refine Calm.upd rfl ?_)
    | with_reducible apply Calm.ite
    | with_reducible apply Calm.foldl
    | split

theorem readClose_calm (s : State) : Calm [0x0A034, 0x14020, 0x7F040, 0x0E054, 0x0E050, 0x0A010, 0x0A030, 0x14038, 0x14028, 0x14024, 0x1403C, 0x0892C, 0x7F01C, 0x0E030, 0x0E040, 0x0111C, 0x34020, 0x7F018, 0x0E04C, 0x10028] s (readClose s) := by
  unfold readClose
  repeat' first
    | with_reducible apply Calm.refl
    | with_reducible assumption
    | (intro y; with_reducible refine Calm.cut y ?_ ?_; (on_goal 2 => clear_value y; intro _); (on_goal 1 => subst y))
    | (intro y; clear_value y)
    | (intro y; subst y)
    | intro _
    | lift_lets -underBinder
    | ((with_reducible apply Calm.step (evidenceCheck_calm _)); (on_goal 2 => first | (simp [sub]; done) | (simp [sub, ringReg]; done)))
    | ((with_reducible apply Calm.step_within (sepOpen_within _)); (on_goal 2 => first | (simp [off]; done) | (simp [off, ethStat, canStatReg, ethCfg]; omega) | (intro z hz; simp at hz; omega)); (on_goal 2 => first | (simp [sub]; done) | (simp [sub, ringReg]; done)))
    | ((with_reducible apply Calm.step_within (rndReadClose_within _)); (on_goal 2 => first | (simp [off]; done) | (simp [off, ethStat, canStatReg, ethCfg]; omega) | (intro z hz; simp at hz; omega)); (on_goal 2 => first | (simp [sub]; done) | (simp [sub, ringReg]; done)))
    | ((with_reducible apply Calm.step_within (tlyIntegrate_within _)); (on_goal 2 => first | (simp [off]; done) | (simp [off, ethStat, canStatReg, ethCfg]; omega) | (intro z hz; simp at hz; omega)); (on_goal 2 => first | (simp [sub]; done) | (simp [sub, ringReg]; done)))
    | ((with_reducible apply Calm.step_within (dispReadings_within _)); (on_goal 2 => first | (simp [off]; done) | (simp [off, ethStat, canStatReg, ethCfg]; omega) | (intro z hz; simp at hz; omega)); (on_goal 2 => first | (simp [sub]; done) | (simp [sub, ringReg]; done)))
    | ((with_reducible apply Calm.step_within (publishStations_within _)); (on_goal 2 => first | (simp [off]; done) | (simp [off, ethStat, canStatReg, ethCfg]; omega) | (intro z hz; simp at hz; omega)); (on_goal 2 => first | (simp [sub]; done) | (simp [sub, ringReg]; done)))
    | (simp -zeta only [Calm.of_mk]; with_reducible refine Calm.upd rfl ?_)
    | with_reducible apply Calm.ite
    | with_reducible apply Calm.foldl
    | split

theorem feedLost_calm (f : Feed) (s : State) : Calm [0x7F040, 0x0A034, 0x08804, 0x0A010, 0x0A030, 0x7F018, 0x0E04C, 0x0E030, 0x7F01C, 0x34020] s (feedLost f s) := by
  unfold feedLost
  repeat' first
    | with_reducible apply Calm.refl
    | with_reducible assumption
    | (intro y; with_reducible refine Calm.cut y ?_ ?_; (on_goal 2 => clear_value y; intro _); (on_goal 1 => subst y))
    | (intro y; clear_value y)
    | (intro y; subst y)
    | intro _
    | lift_lets -underBinder
    | ((with_reducible apply Calm.step (assertSrc_calm _ _)); (on_goal 2 => first | (simp [sub]; done) | (simp [sub, ringReg]; done)))
    | ((with_reducible apply Calm.step_within (evt_within _ _ _ _)); (on_goal 2 => first | (simp [off]; done) | (simp [off, ethStat, canStatReg, ethCfg]; omega) | (intro z hz; simp at hz; omega)); (on_goal 2 => first | (simp [sub]; done) | (simp [sub, ringReg]; done)))
    | ((with_reducible apply Calm.step_within (setB_within _ _ _ _)); (on_goal 2 => first | (simp [off]; done) | (simp [off, ethStat, canStatReg, ethCfg]; omega) | (intro z hz; simp at hz; omega)); (on_goal 2 => first | (simp [sub]; done) | (simp [sub, ringReg]; done)))
    | (simp -zeta only [Calm.of_mk]; with_reducible refine Calm.upd rfl ?_)
    | with_reducible apply Calm.ite
    | with_reducible apply Calm.foldl
    | split

theorem feedReturned_calm (f : Feed) (s : State) : Calm [0x7F040, 0x0A034, 0x0A010, 0x0A030, 0x08804, 0x7F018, 0x0E04C, 0x0E030, 0x7F01C, 0x34020] s (feedReturned f s) := by
  unfold feedReturned
  repeat' first
    | with_reducible apply Calm.refl
    | with_reducible assumption
    | (intro y; with_reducible refine Calm.cut y ?_ ?_; (on_goal 2 => clear_value y; intro _); (on_goal 1 => subst y))
    | (intro y; clear_value y)
    | (intro y; subst y)
    | intro _
    | lift_lets -underBinder
    | ((with_reducible apply Calm.step (setCond_calm _ _ _)); (on_goal 2 => first | (simp [sub]; done) | (simp [sub, ringReg]; done)))
    | ((with_reducible apply Calm.step_within (evt_within _ _ _ _)); (on_goal 2 => first | (simp [off]; done) | (simp [off, ethStat, canStatReg, ethCfg]; omega) | (intro z hz; simp at hz; omega)); (on_goal 2 => first | (simp [sub]; done) | (simp [sub, ringReg]; done)))
    | ((with_reducible apply Calm.step_within (setB_within _ _ _ _)); (on_goal 2 => first | (simp [off]; done) | (simp [off, ethStat, canStatReg, ethCfg]; omega) | (intro z hz; simp at hz; omega)); (on_goal 2 => first | (simp [sub]; done) | (simp [sub, ringReg]; done)))
    | (simp -zeta only [Calm.of_mk]; with_reducible refine Calm.upd rfl ?_)
    | with_reducible apply Calm.ite
    | with_reducible apply Calm.foldl
    | split

theorem tempRefresh_calm (mk : Int) (s : State) : Calm [0x7F048, 0x7F044, 0x7F040, 0x0880C, 0x0A034, 0x0A010, 0x0A030, 0x7F018, 0x0E04C, 0x0E030, 0x7F01C, 0x34020] s (tempRefresh mk s) := by
  unfold tempRefresh
  repeat' first
    | with_reducible apply Calm.refl
    | with_reducible assumption
    | (intro y; with_reducible refine Calm.cut y ?_ ?_; (on_goal 2 => clear_value y; intro _); (on_goal 1 => subst y))
    | (intro y; clear_value y)
    | (intro y; subst y)
    | intro _
    | lift_lets -underBinder
    | ((with_reducible apply Calm.step_within (setB_within _ _ _ _)); (on_goal 2 => first | (simp [off]; done) | (simp [off, ethStat, canStatReg, ethCfg]; omega) | (intro z hz; simp at hz; omega)); (on_goal 2 => first | (simp [sub]; done) | (simp [sub, ringReg]; done)))
    | ((with_reducible apply Calm.step (setCond_calm _ _ _)); (on_goal 2 => first | (simp [sub]; done) | (simp [sub, ringReg]; done)))
    | ((with_reducible apply Calm.step_within (setReg_within _ _ _)); (on_goal 2 => first | (simp [off]; done) | (simp [off, ethStat, canStatReg, ethCfg]; omega) | (intro z hz; simp at hz; omega)); (on_goal 2 => first | (simp [sub]; done) | (simp [sub, ringReg]; done)))
    | (simp -zeta only [Calm.of_mk]; with_reducible refine Calm.upd rfl ?_)
    | with_reducible apply Calm.ite
    | with_reducible apply Calm.foldl
    | split

theorem presentLost_calm (s : State) : Calm [0x7F040, 0x08800, 0x0E04C, 0x0A034, 0x0E030, 0x0A010, 0x0A030, 0x7F018, 0x7F01C, 0x34020] s (presentLost s) := by
  unfold presentLost
  repeat' first
    | with_reducible apply Calm.refl
    | with_reducible assumption
    | (intro y; with_reducible refine Calm.cut y ?_ ?_; (on_goal 2 => clear_value y; intro _); (on_goal 1 => subst y))
    | (intro y; clear_value y)
    | (intro y; subst y)
    | intro _
    | lift_lets -underBinder
    | ((with_reducible apply Calm.step_within (setB_within _ _ _ _)); (on_goal 2 => first | (simp [off]; done) | (simp [off, ethStat, canStatReg, ethCfg]; omega) | (intro z hz; simp at hz; omega)); (on_goal 2 => first | (simp [sub]; done) | (simp [sub, ringReg]; done)))
    | ((with_reducible apply Calm.step (beginHoldup_calm _ _)); (on_goal 2 => first | (simp [sub]; done) | (simp [sub, ringReg]; done)))
    | (simp -zeta only [Calm.of_mk]; with_reducible refine Calm.upd rfl ?_)
    | with_reducible apply Calm.ite
    | with_reducible apply Calm.foldl
    | split

theorem holdupReadySet_calm (s : State) : Calm [0x7F040, 0x0A034, 0x7F01C, 0x0A010, 0x0A030, 0x0E030, 0x08808, 0x34020, 0x7F018, 0x0E04C] s (holdupReadySet s) := by
  unfold holdupReadySet
  repeat' first
    | with_reducible apply Calm.refl
    | with_reducible assumption
    | (intro y; with_reducible refine Calm.cut y ?_ ?_; (on_goal 2 => clear_value y; intro _); (on_goal 1 => subst y))
    | (intro y; clear_value y)
    | (intro y; subst y)
    | intro _
    | lift_lets -underBinder
    | ((with_reducible apply Calm.step (setCond_calm _ _ _)); (on_goal 2 => first | (simp [sub]; done) | (simp [sub, ringReg]; done)))
    | ((with_reducible apply Calm.step_within (outputsFollow_within _)); (on_goal 2 => first | (simp [off]; done) | (simp [off, ethStat, canStatReg, ethCfg]; omega) | (intro z hz; simp at hz; omega)); (on_goal 2 => first | (simp [sub]; done) | (simp [sub, ringReg]; done)))
    | ((with_reducible apply Calm.step_within (unresign_within _ _)); (on_goal 2 => first | (simp [off]; done) | (simp [off, ethStat, canStatReg, ethCfg]; omega) | (intro z hz; simp at hz; omega)); (on_goal 2 => first | (simp [sub]; done) | (simp [sub, ringReg]; done)))
    | ((with_reducible apply Calm.step_within (setB_within _ _ _ _)); (on_goal 2 => first | (simp [off]; done) | (simp [off, ethStat, canStatReg, ethCfg]; omega) | (intro z hz; simp at hz; omega)); (on_goal 2 => first | (simp [sub]; done) | (simp [sub, ringReg]; done)))
    | (simp -zeta only [Calm.of_mk]; with_reducible refine Calm.upd rfl ?_)
    | with_reducible apply Calm.ite
    | with_reducible apply Calm.foldl
    | split

theorem holdupReadyLost_calm (s : State) : Calm [0x7F040, 0x0A034, 0x08808, 0x0E04C, 0x0A010, 0x0A030, 0x0E030, 0x7F018, 0x7F01C, 0x34020] s (holdupReadyLost s) := by
  unfold holdupReadyLost
  repeat' first
    | with_reducible apply Calm.refl
    | with_reducible assumption
    | (intro y; with_reducible refine Calm.cut y ?_ ?_; (on_goal 2 => clear_value y; intro _); (on_goal 1 => subst y))
    | (intro y; clear_value y)
    | (intro y; subst y)
    | intro _
    | lift_lets -underBinder
    | ((with_reducible apply Calm.step_within (resign_within _ _)); (on_goal 2 => first | (simp [off]; done) | (simp [off, ethStat, canStatReg, ethCfg]; omega) | (intro z hz; simp at hz; omega)); (on_goal 2 => first | (simp [sub]; done) | (simp [sub, ringReg]; done)))
    | ((with_reducible apply Calm.step (assertSrc_calm _ _)); (on_goal 2 => first | (simp [sub]; done) | (simp [sub, ringReg]; done)))
    | ((with_reducible apply Calm.step_within (evt_within _ _ _ _)); (on_goal 2 => first | (simp [off]; done) | (simp [off, ethStat, canStatReg, ethCfg]; omega) | (intro z hz; simp at hz; omega)); (on_goal 2 => first | (simp [sub]; done) | (simp [sub, ringReg]; done)))
    | ((with_reducible apply Calm.step_within (setB_within _ _ _ _)); (on_goal 2 => first | (simp [off]; done) | (simp [off, ethStat, canStatReg, ethCfg]; omega) | (intro z hz; simp at hz; omega)); (on_goal 2 => first | (simp [sub]; done) | (simp [sub, ringReg]; done)))
    | (simp -zeta only [Calm.of_mk]; with_reducible refine Calm.upd rfl ?_)
    | with_reducible apply Calm.ite
    | with_reducible apply Calm.foldl
    | split

theorem holdupMeasure_calm (pct : Nat) (s : State) : Calm [0x7F040, 0x08808, 0x0A034, 0x0A010, 0x0A030, 0x7F018, 0x0E04C, 0x0E030, 0x7F01C, 0x34020] s (holdupMeasure pct s) := by
  unfold holdupMeasure
  repeat' first
    | with_reducible apply Calm.refl
    | with_reducible assumption
    | (intro y; with_reducible refine Calm.cut y ?_ ?_; (on_goal 2 => clear_value y; intro _); (on_goal 1 => subst y))
    | (intro y; clear_value y)
    | (intro y; subst y)
    | intro _
    | lift_lets -underBinder
    | ((with_reducible apply Calm.step (setCond_calm _ _ _)); (on_goal 2 => first | (simp [sub]; done) | (simp [sub, ringReg]; done)))
    | ((with_reducible apply Calm.step_within (setF_within _ _ _ _ _)); (on_goal 2 => first | (simp [off]; done) | (simp [off, ethStat, canStatReg, ethCfg]; omega) | (intro z hz; simp at hz; omega)); (on_goal 2 => first | (simp [sub]; done) | (simp [sub, ringReg]; done)))
    | ((with_reducible apply Calm.step_within (setB_within _ _ _ _)); (on_goal 2 => first | (simp [off]; done) | (simp [off, ethStat, canStatReg, ethCfg]; omega) | (intro z hz; simp at hz; omega)); (on_goal 2 => first | (simp [sub]; done) | (simp [sub, ringReg]; done)))
    | (simp -zeta only [Calm.of_mk]; with_reducible refine Calm.upd rfl ?_)
    | with_reducible apply Calm.ite
    | with_reducible apply Calm.foldl
    | split

theorem sfpOverpower_calm (p : Nat) (s : State) : Calm [ethStat p, 0x38600, 0x0A034, 0x0890C, 0x0A010, 0x0A030, 0x08908, 0x7F018, 0x0E04C, 0x0E030, 0x7F040, 0x7F01C, 0x34020] s (sfpOverpower p s) := by
  unfold sfpOverpower
  repeat' first
    | with_reducible apply Calm.refl
    | with_reducible assumption
    | (intro y; with_reducible refine Calm.cut y ?_ ?_; (on_goal 2 => clear_value y; intro _); (on_goal 1 => subst y))
    | (intro y; clear_value y)
    | (intro y; subst y)
    | intro _
    | lift_lets -underBinder
    | ((with_reducible apply Calm.step (assertSrc_calm _ _)); (on_goal 2 => first | (simp [sub]; done) | (simp [sub, ringReg]; done)))
    | ((with_reducible apply Calm.step (ringLink_calm _ _ _)); (on_goal 2 => first | (simp [sub]; done) | (simp [sub, ringReg]; done)))
    | (simp -zeta only [Calm.of_mk]; with_reducible refine Calm.upd rfl ?_)
    | with_reducible apply Calm.ite
    | with_reducible apply Calm.foldl
    | split

theorem cagePower_calm (p : Nat) (s : State) : Calm [0x0890C, 0x0A034, 0x0A010, 0x0A030, 0x7F018, 0x0E04C, 0x0E030, 0x7F040, 0x7F01C, 0x34020] s (cagePower p s) := by
  unfold cagePower
  repeat' first
    | with_reducible apply Calm.refl
    | with_reducible assumption
    | (intro y; with_reducible refine Calm.cut y ?_ ?_; (on_goal 2 => clear_value y; intro _); (on_goal 1 => subst y))
    | (intro y; clear_value y)
    | (intro y; subst y)
    | intro _
    | lift_lets -underBinder
    | ((with_reducible apply Calm.step (setCond_calm _ _ _)); (on_goal 2 => first | (simp [sub]; done) | (simp [sub, ringReg]; done)))
    | (simp -zeta only [Calm.of_mk]; with_reducible refine Calm.upd rfl ?_)
    | with_reducible apply Calm.ite
    | with_reducible apply Calm.foldl
    | split

theorem sfpInserted_calm (p : Nat) (page : Bytes) (s : State) : Calm [0x0890C, 0x0A034, 0x0A010, 0x0A030, 0x7F018, 0x0E04C, 0x0E030, 0x7F040, 0x7F01C, 0x34020] s (sfpInserted p page s) := by
  unfold sfpInserted
  repeat' first
    | with_reducible apply Calm.refl
    | with_reducible assumption
    | (intro y; with_reducible refine Calm.cut y ?_ ?_; (on_goal 2 => clear_value y; intro _); (on_goal 1 => subst y))
    | (intro y; clear_value y)
    | (intro y; subst y)
    | intro _
    | lift_lets -underBinder
    | ((with_reducible apply Calm.step (cagePower_calm _ _)); (on_goal 2 => first | (simp [sub]; done) | (simp [sub, ringReg]; done)))
    | (simp -zeta only [Calm.of_mk]; with_reducible refine Calm.upd rfl ?_)
    | with_reducible apply Calm.ite
    | with_reducible apply Calm.foldl
    | split

theorem tellBackup_calm (p : PorIn) (s : State) : Calm [0x0A034, 0x0A010, 0x0A030, 0x0893C, 0x7F018, 0x0E04C, 0x0E030, 0x7F040, 0x7F01C, 0x34020] s (tellBackup p s) := by
  unfold tellBackup
  repeat' first
    | with_reducible apply Calm.refl
    | with_reducible assumption
    | (intro y; with_reducible refine Calm.cut y ?_ ?_; (on_goal 2 => clear_value y; intro _); (on_goal 1 => subst y))
    | (intro y; clear_value y)
    | (intro y; subst y)
    | intro _
    | lift_lets -underBinder
    | ((with_reducible apply Calm.step (raise_calm _ _)); (on_goal 2 => first | (simp [sub]; done) | (simp [sub, ringReg]; done)))
    | ((with_reducible apply Calm.step_within (evt_within _ _ _ _)); (on_goal 2 => first | (simp [off]; done) | (simp [off, ethStat, canStatReg, ethCfg]; omega) | (intro z hz; simp at hz; omega)); (on_goal 2 => first | (simp [sub]; done) | (simp [sub, ringReg]; done)))
    | (simp -zeta only [Calm.of_mk]; with_reducible refine Calm.upd rfl ?_)
    | with_reducible apply Calm.ite
    | with_reducible apply Calm.foldl
    | split

end Sys2Proof.Machine
end

