-- ==== Sys2Proof/Laws/Claims.lean ====
section
/-!
SUPPORT. The module's own claim never decreases (R395): what each operation that changes the duplex state does to it.
-/
set_option linter.all false
set_option Elab.async false

namespace Sys2Proof.Machine

/-- The claim of a state is at most that of a later one. -/
def Claims (s t : State) : Prop := s.dup.claim ≤ t.dup.claim

namespace Claims
variable {s t u : State}

theorem refl : Claims s s := Nat.le_refl _
theorem trans (h : Claims s t) (k : Claims t u) : Claims s u := Nat.le_trans h k
theorem step (k : Claims t u) (h : Claims s t) : Claims s u := h.trans k
theorem after (k : Claims t u) (h : Claims s t) : Claims s u := h.trans k
theorem of_within {ps : List Part} {rs : Option (List Nat)} (h : Within ps rs s t) (hp : ps.contains .dup = false) : Claims s t := by
  have e : t.dup = s.dup := h.parts .dup (by simpa using hp)
  unfold Claims
  rw [e]
theorem cut (m : State) (h : Claims s m) (k : Claims s m → Claims s t) : Claims s t := k h
theorem ite {c : Prop} [Decidable c] (h : Claims s t) (k : Claims s u) : Claims s (if c then t else u) := by split <;> assumption
theorem foldl {α : Type} {f : State → α → State} {xs : List α} (hf : ∀ t x, Claims s t → Claims s (f t x)) (h : Claims s t) :
    Claims s (xs.foldl f t) := by
  induction xs generalizing t with
  | nil => exact h
  | cons x xs ih => exact ih (hf t x h)

/-- A state given by its fields. -/
def Fields (s : State) (regs : Tbl Word) (dup : DupSt) : Prop := s.dup.claim ≤ dup.claim

theorem of_mk {regs : Tbl Word} {cfg : CfgSt} {hif : HifSt} {pwr : PwrSt} {start : StartSt} {fco : FcoSt} {evr : EvrSt} {pmc : PmcSt} {dup : DupSt} {tim : TimSt} {kst : KstSt} {model : ModelSt} {rnd : RndSt} {chu : ChuSt} {sep : SepSt} {ctr : CtrSt} {disp : DispSt} {lpe : LpeSt} {tly : TlySt} {cyc : CycSt} {fio : FioSt} {upd : UpdSt} {out : List Out} {free : Nat} {pending : List Instr} :
    Claims s (State.mk regs cfg hif pwr start fco evr pmc dup tim kst model rnd chu sep ctr disp lpe tly cyc fio upd out free pending) ↔ Fields s regs dup := Iff.rfl

theorem upd {regs : Tbl Word} {dup : DupSt} (hr : regs = t.regs) (h : Claims s t) (hc : t.dup.claim ≤ dup.claim) : Fields s regs dup :=
  Nat.le_trans h hc

end Claims

theorem dupSet_claims (f : DupSt → DupSt) (s : State) (hf : ∀ d, d.claim ≤ (f d).claim) : Claims s (dupSet f s) := hf s.dup

theorem withOp_claims {s u : State} {r : Req} {ops : List Nat} {buf : Option Bytes} {f : Desc → Bytes → State → State}
    (hf : ∀ d b t, Claims s t → Claims s (f d b t)) (h : Claims s u) : Claims s (withOp r ops buf f u) := by
  unfold withOp
  split
  · exact h
  · refine Claims.ite h (Claims.ite (Claims.step (Claims.of_within (finish_within _ _ _ _) (by decide)) h) (hf _ _ _ (Claims.ite h ?_)))
    exact Claims.step (Claims.of_within (bwAdd_within _ _ _ _) (by decide)) (Claims.step (Claims.of_within (pmcAdd_within _ _ _) (by decide)) h)
theorem inlineOp_claims {s u : State} {r : Req} {op len : Nat} {f : Bytes → State → State}
    (hf : ∀ b t, Claims s t → Claims s (f b t)) (h : Claims s u) : Claims s (inlineOp r op len f u) := by
  unfold inlineOp
  refine withOp_claims (fun d b t k => ?_) h
  split
  · exact Claims.step (Claims.of_within (finish_within _ _ _ _) (by decide)) k
  · exact hf b t k
theorem recordOp_claims {s u : State} {r : Req} {op len : Nat} {buf : Bytes} {f : Bytes → State → State}
    (hf : ∀ b t, Claims s t → Claims s (f b t)) (h : Claims s u) : Claims s (recordOp r op len buf f u) := by
  unfold recordOp
  refine withOp_claims (fun d b t k => ?_) h
  split
  · exact Claims.step (Claims.of_within (finish_within _ _ _ _) (by decide)) k
  · exact hf b t k
theorem scopeOp_claims {s u : State} {scope : Nat} {r : Req} {f : Bytes → State → State}
    (hf : ∀ b t, Claims s t → Claims s (f b t)) (h : Claims s u) : Claims s (scopeOp scope r f u) := by
  unfold scopeOp
  refine inlineOp_claims (fun b t k => ?_) h
  dsimp only
  exact Claims.ite (Claims.step (Claims.of_within (updEnd_within _ _ _ _ _) (by decide)) k) (Claims.ite (hf b t k) k)
theorem pushOp_claims {s u : State} {r : Req} {op row : Nat} {buf : Bytes} {go : Bytes → Nat → Nat → State → State}
    (hf : ∀ b a n t, Claims s t → Claims s (go b a n t)) (h : Claims s u) : Claims s (pushOp r op row buf go u) := by
  unfold pushOp
  refine withOp_claims (fun d b t k => ?_) h
  dsimp only
  have e : ∀ a c, Claims s (finish r a c t) := fun a c => Claims.step (Claims.of_within (finish_within _ _ _ _) (by decide)) k
  exact Claims.ite (e _ _) (Claims.ite (e _ _) (Claims.ite (e _ _) (Claims.ite (e _ _) (Claims.ite (e _ _) (hf _ _ _ _ k)))))
theorem morOp_claims {s u : State} {action : Nat} {r : Req} {f : Req → State → State}
    (hf : ∀ t, Claims s t → Claims s (f r t)) (h : Claims s u) : Claims s (morOp action f r u) := by
  unfold morOp
  refine inlineOp_claims (fun b t k => ?_) h
  dsimp only
  exact Claims.ite (Claims.step (Claims.of_within (finish_within _ _ _ _) (by decide)) k) (Claims.ite (hf t k) k)
theorem pointOp_claims {s u : State} {r : Req} {mid q : Nat} {go : State → State}
    (hf : ∀ t, Claims s t → Claims s (go t)) (h : Claims s u) : Claims s (pointOp r mid q go u) := by
  unfold pointOp
  refine Claims.ite (Claims.step (Claims.of_within (finish_within _ _ _ _) (by decide)) h) ?_
  split
  · exact Claims.step (Claims.of_within (finish_within _ _ _ _) (by decide)) h
  · exact hf u h
theorem readBy_claims {s u : State} {who : Requester} {f : State → State}
    (hf : ∀ t, Claims s t → Claims s (f t)) (h : Claims s u) : Claims s (readBy who f u) := by
  unfold readBy
  exact Claims.ite h (Claims.ite (Claims.step (Claims.of_within (pmcAdd_within _ _ _) (by decide)) (hf u h)) (hf u h))
theorem writeBy_claims {s u : State} {who : Requester} {f : State → State}
    (hf : ∀ t, Claims s t → Claims s (f t)) (h : Claims s u) : Claims s (writeBy who f u) := by
  unfold writeBy
  exact Claims.ite h (Claims.ite (Claims.step (Claims.of_within (pmcAdd_within _ _ _) (by decide)) (hf u h)) (hf u h))
theorem changeOf_claims {s u : State} {f : BitVec 64 → Nat → Nat → State → State} {b : Bytes}
    (hf : ∀ i k v t, Claims s t → Claims s (f i k v t)) (h : Claims s u) : Claims s (changeOf f b u) :=
  hf _ _ _ u h

theorem sendPeer_claims (b : PeerBody) (s : State) : Claims s (sendPeer b s) := by
  unfold sendPeer
  repeat' first
    | with_reducible apply Claims.refl
    | with_reducible assumption
    | (intro (y : DupSt); subst y)
    | (intro y; with_reducible refine Claims.cut y ?_ ?_; (on_goal 2 => clear_value y; intro _); (on_goal 1 => subst y))
    | (intro y; clear_value y)
    | (intro y; subst y)
    | intro _
    | lift_lets -underBinder
    | (with_reducible apply Claims.step (Claims.of_within (emit_within _ _) (by decide)))
    | (with_reducible apply Claims.step (Claims.of_within (pmcAdd_within _ _ _) (by decide)))
    | (simp -zeta only [Claims.of_mk]; with_reducible refine Claims.upd (by with_reducible rfl) ?_ (by exact Nat.le_refl _))
    | with_reducible apply Claims.ite
    | with_reducible apply Claims.foldl
    | split

theorem setRole_claims (d : DupState) (s : State) : Claims s (setRole d s) := by
  unfold setRole
  repeat' first
    | with_reducible apply Claims.refl
    | with_reducible assumption
    | (intro (y : DupSt); subst y)
    | (intro y; with_reducible refine Claims.cut y ?_ ?_; (on_goal 2 => clear_value y; intro _); (on_goal 1 => subst y))
    | (intro y; clear_value y)
    | (intro y; subst y)
    | intro _
    | lift_lets -underBinder
    | (with_reducible apply Claims.step (Claims.of_within (setCause_within _ _ _ _ _) (by decide)))
    | (with_reducible apply Claims.step (Claims.of_within (evt_within _ _ _ _) (by decide)))
    | (with_reducible apply Claims.step (Claims.of_within (setF_within _ _ _ _ _) (by decide)))
    | (with_reducible apply Claims.step (Claims.of_within (setB_within _ _ _ _) (by decide)))
    | (with_reducible apply Claims.step (Claims.of_within (showClm_within _ _) (by decide)))
    | (with_reducible apply Claims.step (Claims.of_within (withdrawExchange_within _) (by decide)))
    | (simp -zeta only [Claims.of_mk]; with_reducible refine Claims.upd (by with_reducible rfl) ?_ (by exact Nat.le_refl _))
    | with_reducible apply Claims.ite
    | with_reducible apply Claims.foldl
    | split

theorem setMor_claims (m : Bool) (s : State) : Claims s (setMor m s) := by
  unfold setMor
  repeat' first
    | with_reducible apply Claims.refl
    | with_reducible assumption
    | (intro (y : DupSt); subst y)
    | (intro y; with_reducible refine Claims.cut y ?_ ?_; (on_goal 2 => clear_value y; intro _); (on_goal 1 => subst y))
    | (intro y; clear_value y)
    | (intro y; subst y)
    | intro _
    | lift_lets -underBinder
    | (with_reducible apply Claims.step (Claims.of_within (dropHeld_within _) (by decide)))
    | (with_reducible apply Claims.step (Claims.of_within (setCause_within _ _ _ _ _) (by decide)))
    | (simp -zeta only [Claims.of_mk]; with_reducible refine Claims.upd (by with_reducible rfl) ?_ (by exact Nat.le_refl _))
    | with_reducible apply Claims.ite
    | with_reducible apply Claims.foldl
    | split

theorem switchOps_claims (keep : DupOp → Bool) (s : State) : Claims s (switchOps keep s) := by
  unfold switchOps
  repeat' first
    | with_reducible apply Claims.refl
    | with_reducible assumption
    | (intro (y : DupSt); subst y)
    | (intro y; with_reducible refine Claims.cut y ?_ ?_; (on_goal 2 => clear_value y; intro _); (on_goal 1 => subst y))
    | (intro y; clear_value y)
    | (intro y; subst y)
    | intro _
    | lift_lets -underBinder
    | (with_reducible apply Claims.step (Claims.of_within (finish_within _ _ _ _) (by decide)))
    | (simp -zeta only [Claims.of_mk]; with_reducible refine Claims.upd (by with_reducible rfl) ?_ (by exact Nat.le_refl _))
    | with_reducible apply Claims.ite
    | with_reducible apply Claims.foldl
    | split

theorem resign_claims (cause : Nat) (s : State) : Claims s (resign cause s) := by
  unfold resign
  repeat' first
    | with_reducible apply Claims.refl
    | with_reducible assumption
    | (intro (y : DupSt); subst y)
    | (intro y; with_reducible refine Claims.cut y ?_ ?_; (on_goal 2 => clear_value y; intro _); (on_goal 1 => subst y))
    | (intro y; clear_value y)
    | (intro y; subst y)
    | intro _
    | lift_lets -underBinder
    | (with_reducible apply Claims.step (setRole_claims _ _))
    | (with_reducible apply Claims.step (setMor_claims _ _))
    | (with_reducible apply Claims.step (Claims.of_within (incReg_within _ _ _) (by decide)))
    | (with_reducible apply Claims.step (sendPeer_claims _ _))
    | (with_reducible apply Claims.step (switchOps_claims _ _))
    | (simp -zeta only [Claims.of_mk]; with_reducible refine Claims.upd (by with_reducible rfl) ?_ (by exact Nat.le_refl _))
    | with_reducible apply Claims.ite
    | with_reducible apply Claims.foldl
    | split

theorem resignTell_claims (cause : Nat) (s : State) : Claims s (resignTell cause s) := by
  unfold resignTell
  repeat' first
    | with_reducible apply Claims.refl
    | with_reducible assumption
    | (intro (y : DupSt); subst y)
    | (intro y; with_reducible refine Claims.cut y ?_ ?_; (on_goal 2 => clear_value y; intro _); (on_goal 1 => subst y))
    | (intro y; clear_value y)
    | (intro y; subst y)
    | intro _
    | lift_lets -underBinder
    | (with_reducible apply Claims.step (resign_claims _ _))
    | (with_reducible apply Claims.step (sendPeer_claims _ _))
    | (simp -zeta only [Claims.of_mk]; with_reducible refine Claims.upd (by with_reducible rfl) ?_ (by exact Nat.le_refl _))
    | with_reducible apply Claims.ite
    | with_reducible apply Claims.foldl
    | split

theorem viaPeer_claims {s u : State} {r : Req} {op : FwdOp} {len : Nat} {apply : State → State}
    (ha : ∀ t, Claims s t → Claims s (apply t)) (h : Claims s u) : Claims s (viaPeer r op len apply u) := by
  unfold viaPeer
  split
  · exact Claims.step (Claims.of_within (complete_within _ _ _ _ _ _) (by decide)) (ha u h)
  · split
    · exact Claims.step (Claims.of_within (finish_within _ _ _ _) (by decide)) h
    · exact Claims.step (sendPeer_claims _ _) h

theorem beginModReset_claims (why : ModWhy) (cause : Nat) (kind : RestartKind) (s : State) : Claims s (beginModReset why cause kind s) := by
  unfold beginModReset
  repeat' first
    | with_reducible apply Claims.refl
    | with_reducible assumption
    | (intro (y : DupSt); subst y)
    | (intro y; with_reducible refine Claims.cut y ?_ ?_; (on_goal 2 => clear_value y; intro _); (on_goal 1 => subst y))
    | (intro y; clear_value y)
    | (intro y; subst y)
    | intro _
    | lift_lets -underBinder
    | (with_reducible apply Claims.step (Claims.of_within (seqStart_within _ _) (by decide)))
    | (with_reducible apply Claims.step (resignTell_claims _ _))
    | (simp -zeta only [Claims.of_mk]; with_reducible refine Claims.upd (by with_reducible rfl) ?_ (by exact Nat.le_refl _))
    | with_reducible apply Claims.ite
    | with_reducible apply Claims.foldl
    | split

theorem reactBlk_claims (n : Nat) (s : State) : Claims s (reactBlk n s) := by
  unfold reactBlk
  repeat' first
    | with_reducible apply Claims.refl
    | with_reducible assumption
    | (intro (y : DupSt); subst y)
    | (intro y; with_reducible refine Claims.cut y ?_ ?_; (on_goal 2 => clear_value y; intro _); (on_goal 1 => subst y))
    | (intro y; clear_value y)
    | (intro y; subst y)
    | intro _
    | lift_lets -underBinder
    | (with_reducible apply Claims.step (Claims.of_within (beginBlockReset_within _ _) (by decide)))
    | (with_reducible apply Claims.step (beginModReset_claims _ _ _ _))
    | (simp -zeta only [Claims.of_mk]; with_reducible refine Claims.upd (by with_reducible rfl) ?_ (by exact Nat.le_refl _))
    | with_reducible apply Claims.ite
    | with_reducible apply Claims.foldl
    | split

theorem activate_claims (n : Nat) (count : Nat) (forced : Bool) (why : Option Nat) (s : State) : Claims s (activate n count forced why s) := by
  unfold activate
  repeat' first
    | with_reducible apply Claims.refl
    | with_reducible assumption
    | (intro (y : DupSt); subst y)
    | (intro y; with_reducible refine Claims.cut y ?_ ?_; (on_goal 2 => clear_value y; intro _); (on_goal 1 => subst y))
    | (intro y; clear_value y)
    | (intro y; subst y)
    | intro _
    | lift_lets -underBinder
    | (with_reducible apply Claims.step (beginModReset_claims _ _ _ _))
    | (with_reducible apply Claims.step (reactBlk_claims _ _))
    | (with_reducible apply Claims.step (Claims.of_within (emit_within _ _) (by decide)))
    | (with_reducible apply Claims.step (Claims.of_within (sendMsg_within _ _) (by decide)))
    | (with_reducible apply Claims.step (Claims.of_within (record_within _ _ _ _) (by decide)))
    | (simp -zeta only [Claims.of_mk]; with_reducible refine Claims.upd (by with_reducible rfl) ?_ (by exact Nat.le_refl _))
    | with_reducible apply Claims.ite
    | with_reducible apply Claims.foldl
    | split

theorem occur_claims (n : Nat) (forced : Bool) (why : Option Nat) (s : State) : Claims s (occur n forced why s) := by
  unfold occur
  repeat' first
    | with_reducible apply Claims.refl
    | with_reducible assumption
    | (intro (y : DupSt); subst y)
    | (intro y; with_reducible refine Claims.cut y ?_ ?_; (on_goal 2 => clear_value y; intro _); (on_goal 1 => subst y))
    | (intro y; clear_value y)
    | (intro y; subst y)
    | intro _
    | lift_lets -underBinder
    | (with_reducible apply Claims.step (activate_claims _ _ _ _ _))
    | (with_reducible apply Claims.step (Claims.of_within (incReg_within _ _ _) (by decide)))
    | (simp -zeta only [Claims.of_mk]; with_reducible refine Claims.upd (by with_reducible rfl) ?_ (by exact Nat.le_refl _))
    | with_reducible apply Claims.ite
    | with_reducible apply Claims.foldl
    | split

theorem raise_claims (n : Nat) (s : State) : Claims s (raise n s) := by
  unfold raise
  repeat' first
    | with_reducible apply Claims.refl
    | with_reducible assumption
    | (intro (y : DupSt); subst y)
    | (intro y; with_reducible refine Claims.cut y ?_ ?_; (on_goal 2 => clear_value y; intro _); (on_goal 1 => subst y))
    | (intro y; clear_value y)
    | (intro y; subst y)
    | intro _
    | lift_lets -underBinder
    | (with_reducible apply Claims.step (occur_claims _ _ _ _))
    | (simp -zeta only [Claims.of_mk]; with_reducible refine Claims.upd (by with_reducible rfl) ?_ (by exact Nat.le_refl _))
    | with_reducible apply Claims.ite
    | with_reducible apply Claims.foldl
    | split

theorem assertSrc_claims (n : Nat) (s : State) : Claims s (assertSrc n s) := by
  unfold assertSrc
  repeat' first
    | with_reducible apply Claims.refl
    | with_reducible assumption
    | (intro (y : DupSt); subst y)
    | (intro y; with_reducible refine Claims.cut y ?_ ?_; (on_goal 2 => clear_value y; intro _); (on_goal 1 => subst y))
    | (intro y; clear_value y)
    | (intro y; subst y)
    | intro _
    | lift_lets -underBinder
    | (with_reducible apply Claims.step (occur_claims _ _ _ _))
    | (simp -zeta only [Claims.of_mk]; with_reducible refine Claims.upd (by with_reducible rfl) ?_ (by exact Nat.le_refl _))
    | with_reducible apply Claims.ite
    | with_reducible apply Claims.foldl
    | split

theorem setCond_claims (n : Nat) (holds : Bool) (s : State) : Claims s (setCond n holds s) := by
  unfold setCond
  repeat' first
    | with_reducible apply Claims.refl
    | with_reducible assumption
    | (intro (y : DupSt); subst y)
    | (intro y; with_reducible refine Claims.cut y ?_ ?_; (on_goal 2 => clear_value y; intro _); (on_goal 1 => subst y))
    | (intro y; clear_value y)
    | (intro y; subst y)
    | intro _
    | lift_lets -underBinder
    | (with_reducible apply Claims.step (Claims.of_within (endCond_within _ _) (by decide)))
    | (with_reducible apply Claims.step (assertSrc_claims _ _))
    | (simp -zeta only [Claims.of_mk]; with_reducible refine Claims.upd (by with_reducible rfl) ?_ (by exact Nat.le_refl _))
    | with_reducible apply Claims.ite
    | with_reducible apply Claims.foldl
    | split

theorem beginHoldup_claims (why : HoldupWhy) (s : State) : Claims s (beginHoldup why s) := by
  unfold beginHoldup
  repeat' first
    | with_reducible apply Claims.refl
    | with_reducible assumption
    | (intro (y : DupSt); subst y)
    | (intro y; with_reducible refine Claims.cut y ?_ ?_; (on_goal 2 => clear_value y; intro _); (on_goal 1 => subst y))
    | (intro y; clear_value y)
    | (intro y; subst y)
    | intro _
    | lift_lets -underBinder
    | (with_reducible apply Claims.step (resignTell_claims _ _))
    | (with_reducible apply Claims.step (Claims.of_within (seqStart_within _ _) (by decide)))
    | (with_reducible apply Claims.step (assertSrc_claims _ _))
    | (simp -zeta only [Claims.of_mk]; with_reducible refine Claims.upd (by with_reducible rfl) ?_ (by exact Nat.le_refl _))
    | with_reducible apply Claims.ite
    | with_reducible apply Claims.foldl
    | split

theorem afterSlots_claims (was : Bool) (s : State) : Claims s (afterSlots was s) := by
  unfold afterSlots
  repeat' first
    | with_reducible apply Claims.refl
    | with_reducible assumption
    | (intro (y : DupSt); subst y)
    | (intro y; with_reducible refine Claims.cut y ?_ ?_; (on_goal 2 => clear_value y; intro _); (on_goal 1 => subst y))
    | (intro y; clear_value y)
    | (intro y; subst y)
    | intro _
    | lift_lets -underBinder
    | (with_reducible apply Claims.step (resign_claims _ _))
    | (with_reducible apply Claims.step (setCond_claims _ _ _))
    | (simp -zeta only [Claims.of_mk]; with_reducible refine Claims.upd (by with_reducible rfl) ?_ (by exact Nat.le_refl _))
    | with_reducible apply Claims.ite
    | with_reducible apply Claims.foldl
    | split

theorem slotPatrol_claims (bad : List Nat) (s : State) : Claims s (slotPatrol bad s) := by
  unfold slotPatrol
  repeat' first
    | with_reducible apply Claims.refl
    | with_reducible assumption
    | (intro (y : DupSt); subst y)
    | (intro y; with_reducible refine Claims.cut y ?_ ?_; (on_goal 2 => clear_value y; intro _); (on_goal 1 => subst y))
    | (intro y; clear_value y)
    | (intro y; subst y)
    | intro _
    | lift_lets -underBinder
    | (with_reducible apply Claims.step (Claims.of_within (patrolFail_within _ _) (by decide)))
    | (with_reducible apply Claims.step (afterSlots_claims _ _))
    | (simp -zeta only [Claims.of_mk]; with_reducible refine Claims.upd (by with_reducible rfl) ?_ (by exact Nat.le_refl _))
    | with_reducible apply Claims.ite
    | with_reducible apply Claims.foldl
    | split

theorem zeroise_claims (source : Nat) (but : Option Req) (s : State) : Claims s (zeroise source but s) := by
  unfold zeroise
  repeat' first
    | with_reducible apply Claims.refl
    | with_reducible assumption
    | (intro (y : DupSt); subst y)
    | (intro y; with_reducible refine Claims.cut y ?_ ?_; (on_goal 2 => clear_value y; intro _); (on_goal 1 => subst y))
    | (intro y; clear_value y)
    | (intro y; subst y)
    | intro _
    | lift_lets -underBinder
    | (with_reducible apply Claims.step (Claims.of_within (cancelKeyJobs_within _ _) (by decide)))
    | (with_reducible apply Claims.step (afterSlots_claims _ _))
    | (with_reducible apply Claims.step (Claims.of_within (clearWorking_within _) (by decide)))
    | (simp -zeta only [Claims.of_mk]; with_reducible refine Claims.upd (by with_reducible rfl) ?_ (by exact Nat.le_refl _))
    | with_reducible apply Claims.ite
    | with_reducible apply Claims.foldl
    | split

theorem tamperTrip_claims (t : TamperSource) (s : State) : Claims s (tamperTrip t s) := by
  unfold tamperTrip
  repeat' first
    | with_reducible apply Claims.refl
    | with_reducible assumption
    | (intro (y : DupSt); subst y)
    | (intro y; with_reducible refine Claims.cut y ?_ ?_; (on_goal 2 => clear_value y; intro _); (on_goal 1 => subst y))
    | (intro y; clear_value y)
    | (intro y; subst y)
    | intro _
    | lift_lets -underBinder
    | (with_reducible apply Claims.step (zeroise_claims _ _ _))
    | (simp -zeta only [Claims.of_mk]; with_reducible refine Claims.upd (by with_reducible rfl) ?_ (by exact Nat.le_refl _))
    | with_reducible apply Claims.ite
    | with_reducible apply Claims.foldl
    | split

theorem keyZeroise_claims (r : Req) (param : Nat) (s : State) : Claims s (keyZeroise r param s) := by
  unfold keyZeroise
  repeat' first
    | with_reducible apply Claims.refl
    | with_reducible assumption
    | (intro (y : DupSt); subst y)
    | (intro y; with_reducible refine Claims.cut y ?_ ?_; (on_goal 2 => clear_value y; intro _); (on_goal 1 => subst y))
    | (intro y; clear_value y)
    | (intro y; subst y)
    | intro _
    | lift_lets -underBinder
    | (with_reducible apply Claims.step (zeroise_claims _ _ _))
    | (with_reducible apply Claims.step (Claims.of_within (complete_within _ _ _ _ _ _) (by decide)))
    | (with_reducible apply Claims.step (Claims.of_within (finish_within _ _ _ _) (by decide)))
    | (simp -zeta only [Claims.of_mk]; with_reducible refine Claims.upd (by with_reducible rfl) ?_ (by exact Nat.le_refl _))
    | with_reducible apply Claims.ite
    | with_reducible apply Claims.foldl
    | split

theorem installKeys_claims (user : Bool) (l : List (Nat × Word × Nat)) (s : State) : Claims s (installKeys user l s) := by
  unfold installKeys
  repeat' first
    | with_reducible apply Claims.refl
    | with_reducible assumption
    | (intro (y : DupSt); subst y)
    | (intro y; with_reducible refine Claims.cut y ?_ ?_; (on_goal 2 => clear_value y; intro _); (on_goal 1 => subst y))
    | (intro y; with_reducible refine Claims.cut y.2 ?_ ?_; (on_goal 2 => clear_value y; intro _); (on_goal 1 => subst y))
    | (intro y; clear_value y)
    | (intro y; subst y)
    | intro _
    | lift_lets -underBinder
    | (with_reducible apply Claims.step (Claims.of_within (storeSlot_within _ _) (by decide)))
    | (with_reducible apply Claims.step (afterSlots_claims _ _))
    | (with_reducible apply Claims.step (Claims.of_within (deriveWorking_within _) (by decide)))
    | (with_reducible apply Claims.step (Claims.of_within (setSlotState_within _ _ _) (by decide)))
    | (with_reducible apply Claims.step (Claims.of_within (draw_proj _) (by decide)))
    | (with_reducible apply Claims.step (Claims.of_within (draw_eq ‹draw _ = _›) (by decide)))
    | (simp -zeta only [Claims.of_mk]; with_reducible refine Claims.upd (by with_reducible rfl) ?_ (by exact Nat.le_refl _))
    | with_reducible apply Claims.ite
    | with_reducible apply Claims.foldl
    | split

theorem provisionHello_claims (s : State) : Claims s (provisionHello s) := by
  unfold provisionHello
  repeat' first
    | with_reducible apply Claims.refl
    | with_reducible assumption
    | (intro (y : DupSt); subst y)
    | (intro y; with_reducible refine Claims.cut y ?_ ?_; (on_goal 2 => clear_value y; intro _); (on_goal 1 => subst y))
    | (intro y; with_reducible refine Claims.cut y.2 ?_ ?_; (on_goal 2 => clear_value y; intro _); (on_goal 1 => subst y))
    | (intro y; clear_value y)
    | (intro y; subst y)
    | intro _
    | lift_lets -underBinder
    | (with_reducible apply Claims.step (sendPeer_claims _ _))
    | (with_reducible apply Claims.step (Claims.of_within (draw_proj _) (by decide)))
    | (with_reducible apply Claims.step (Claims.of_within (draw_eq ‹draw _ = _›) (by decide)))
    | (simp -zeta only [Claims.of_mk]; with_reducible refine Claims.upd (by with_reducible rfl) ?_ (by exact Nat.le_refl _))
    | with_reducible apply Claims.ite
    | with_reducible apply Claims.foldl
    | split

theorem stepAccept_claims (r : Req) (param : Nat) (s : State) : Claims s (stepAccept r param s) := by
  unfold stepAccept
  repeat' first
    | with_reducible apply Claims.refl
    | with_reducible assumption
    | (intro (y : DupSt); subst y)
    | (intro y; with_reducible refine Claims.cut y ?_ ?_; (on_goal 2 => clear_value y; intro _); (on_goal 1 => subst y))
    | (intro y; clear_value y)
    | (intro y; subst y)
    | intro _
    | lift_lets -underBinder
    | (with_reducible apply Claims.step (Claims.of_within (applyStepAccept_within _) (by decide)))
    | (with_reducible apply viaPeer_claims)
    | (with_reducible apply Claims.step (Claims.of_within (finish_within _ _ _ _) (by decide)))
    | (simp -zeta only [Claims.of_mk]; with_reducible refine Claims.upd (by with_reducible rfl) ?_ (by exact Nat.le_refl _))
    | with_reducible apply Claims.ite
    | with_reducible apply Claims.foldl
    | split

theorem stepReject_claims (r : Req) (param : Nat) (s : State) : Claims s (stepReject r param s) := by
  unfold stepReject
  repeat' first
    | with_reducible apply Claims.refl
    | with_reducible assumption
    | (intro (y : DupSt); subst y)
    | (intro y; with_reducible refine Claims.cut y ?_ ?_; (on_goal 2 => clear_value y; intro _); (on_goal 1 => subst y))
    | (intro y; clear_value y)
    | (intro y; subst y)
    | intro _
    | lift_lets -underBinder
    | (with_reducible apply Claims.step (Claims.of_within (applyStepReject_within _) (by decide)))
    | (with_reducible apply viaPeer_claims)
    | (with_reducible apply Claims.step (Claims.of_within (finish_within _ _ _ _) (by decide)))
    | (simp -zeta only [Claims.of_mk]; with_reducible refine Claims.upd (by with_reducible rfl) ?_ (by exact Nat.le_refl _))
    | with_reducible apply Claims.ite
    | with_reducible apply Claims.foldl
    | split

theorem timeSet_claims (r : Req) (utcSec : Nat) (ns : Nat) (flags : Nat) (s : State) : Claims s (timeSet r utcSec ns flags s) := by
  unfold timeSet
  repeat' first
    | with_reducible apply Claims.refl
    | with_reducible assumption
    | (intro (y : DupSt); subst y)
    | (intro y; with_reducible refine Claims.cut y ?_ ?_; (on_goal 2 => clear_value y; intro _); (on_goal 1 => subst y))
    | (intro y; clear_value y)
    | (intro y; subst y)
    | intro _
    | lift_lets -underBinder
    | (with_reducible apply Claims.step (Claims.of_within (applyTimeSet_within _ _ _) (by decide)))
    | (with_reducible apply viaPeer_claims)
    | (with_reducible apply Claims.step (Claims.of_within (finish_within _ _ _ _) (by decide)))
    | (simp -zeta only [Claims.of_mk]; with_reducible refine Claims.upd (by with_reducible rfl) ?_ (by exact Nat.le_refl _))
    | with_reducible apply Claims.ite
    | with_reducible apply Claims.foldl
    | split

theorem backupMeasure_claims (extMv : Nat) (cellMv : Nat) (capMv : Nat) (s : State) : Claims s (backupMeasure extMv cellMv capMv s) := by
  unfold backupMeasure
  repeat' first
    | with_reducible apply Claims.refl
    | with_reducible assumption
    | (intro (y : DupSt); subst y)
    | (intro y; with_reducible refine Claims.cut y ?_ ?_; (on_goal 2 => clear_value y; intro _); (on_goal 1 => subst y))
    | (intro y; clear_value y)
    | (intro y; subst y)
    | intro _
    | lift_lets -underBinder
    | (with_reducible apply Claims.step (Claims.of_within (timCause_within _ _) (by decide)))
    | (with_reducible apply Claims.step (setCond_claims _ _ _))
    | (with_reducible apply Claims.step (Claims.of_within (lowFlag_within _ _ _) (by decide)))
    | (with_reducible apply Claims.step (Claims.of_within (setReg_within _ _ _) (by decide)))
    | (simp -zeta only [Claims.of_mk]; with_reducible refine Claims.upd (by with_reducible rfl) ?_ (by exact Nat.le_refl _))
    | with_reducible apply Claims.ite
    | with_reducible apply Claims.foldl
    | split

theorem helloAccept_claims (f : Frame) (s : State) : Claims s (helloAccept f s) := by
  unfold helloAccept
  repeat' first
    | with_reducible apply Claims.refl
    | with_reducible assumption
    | (intro (y : DupSt); subst y)
    | (intro y; with_reducible refine Claims.cut y ?_ ?_; (on_goal 2 => clear_value y; intro _); (on_goal 1 => subst y))
    | (intro y; with_reducible refine Claims.cut y.2 ?_ ?_; (on_goal 2 => clear_value y; intro _); (on_goal 1 => subst y))
    | (intro y; clear_value y)
    | (intro y; subst y)
    | intro _
    | lift_lets -underBinder
    | (with_reducible apply Claims.step (sendPeer_claims _ _))
    | (with_reducible apply Claims.step (Claims.of_within (newSession_within _ _ _ _ _ _ _ _) (by decide)))
    | (with_reducible apply Claims.step (Claims.of_within (keepKind_within _ _ _) (by decide)))
    | (with_reducible apply Claims.step (Claims.of_within (welcome_within _ _) (by decide)))
    | (with_reducible apply Claims.step (Claims.of_within (draw_proj _) (by decide)))
    | (with_reducible apply Claims.step (Claims.of_within (draw_eq ‹draw _ = _›) (by decide)))
    | (with_reducible apply Claims.step (Claims.of_within (pmcAdd_within _ _ _) (by decide)))
    | (with_reducible apply Claims.step (Claims.of_within (noteAddr_within _ _) (by decide)))
    | (simp -zeta only [Claims.of_mk]; with_reducible refine Claims.upd (by with_reducible rfl) ?_ (by exact Nat.le_refl _))
    | with_reducible apply Claims.ite
    | with_reducible apply Claims.foldl
    | split

theorem hello_claims (f : Frame) (d : StationDecl) (s : State) : Claims s (hello f d s) := by
  unfold hello
  repeat' first
    | with_reducible apply Claims.refl
    | with_reducible assumption
    | (intro (y : DupSt); subst y)
    | (intro y; with_reducible refine Claims.cut y ?_ ?_; (on_goal 2 => clear_value y; intro _); (on_goal 1 => subst y))
    | (intro y; clear_value y)
    | (intro y; subst y)
    | intro _
    | lift_lets -underBinder
    | (with_reducible apply Claims.step (helloAccept_claims _ _))
    | (with_reducible apply Claims.step (Claims.of_within (reject_within _ _ _ _ _ _ _) (by decide)))
    | (with_reducible apply Claims.step (Claims.of_within (discard_within _ _ _) (by decide)))
    | (simp -zeta only [Claims.of_mk]; with_reducible refine Claims.upd (by with_reducible rfl) ?_ (by exact Nat.le_refl _))
    | with_reducible apply Claims.ite
    | with_reducible apply Claims.foldl
    | split

theorem noteClaim_claims (id : Nat) (held : Nat) (s : State) : Claims s (noteClaim id held s) := by
  unfold noteClaim
  repeat' first
    | with_reducible apply Claims.refl
    | with_reducible assumption
    | (intro (y : DupSt); subst y)
    | (intro y; with_reducible refine Claims.cut y ?_ ?_; (on_goal 2 => clear_value y; intro _); (on_goal 1 => subst y))
    | (intro y; clear_value y)
    | (intro y; subst y)
    | intro _
    | lift_lets -underBinder
    | (with_reducible apply Claims.step (resign_claims _ _))
    | (simp -zeta only [Claims.of_mk]; with_reducible refine Claims.upd (by with_reducible rfl) ?_ (by exact Nat.le_refl _))
    | with_reducible apply Claims.ite
    | with_reducible apply Claims.foldl
    | split

theorem readRep_claims (f : Frame) (b : Bytes) (s : State) : Claims s (readRep f b s) := by
  unfold readRep
  repeat' first
    | with_reducible apply Claims.refl
    | with_reducible assumption
    | (intro (y : DupSt); subst y)
    | (intro y; with_reducible refine Claims.cut y ?_ ?_; (on_goal 2 => clear_value y; intro _); (on_goal 1 => subst y))
    | (intro y; clear_value y)
    | (intro y; subst y)
    | intro _
    | lift_lets -underBinder
    | (with_reducible apply Claims.step (Claims.of_within (putStn_within _ _ _) (by decide)))
    | (with_reducible apply Claims.step (Claims.of_within (pmcAdd_within _ _ _) (by decide)))
    | (with_reducible apply Claims.step (Claims.of_within (noteAddr_within _ _) (by decide)))
    | (with_reducible apply Claims.step (noteClaim_claims _ _ _))
    | (with_reducible apply Claims.step (Claims.of_within (enrolled_within _ _) (by decide)))
    | (with_reducible apply Claims.step (Claims.of_within (discard_within _ _ _) (by decide)))
    | (simp -zeta only [Claims.of_mk]; with_reducible refine Claims.upd (by with_reducible rfl) ?_ (by exact Nat.le_refl _))
    | with_reducible apply Claims.ite
    | with_reducible apply Claims.foldl
    | split

theorem writeAck_claims (f : Frame) (b : Bytes) (s : State) : Claims s (writeAck f b s) := by
  unfold writeAck
  repeat' first
    | with_reducible apply Claims.refl
    | with_reducible assumption
    | (intro (y : DupSt); subst y)
    | (intro y; with_reducible refine Claims.cut y ?_ ?_; (on_goal 2 => clear_value y; intro _); (on_goal 1 => subst y))
    | (intro y; clear_value y)
    | (intro y; subst y)
    | intro _
    | lift_lets -underBinder
    | (with_reducible apply Claims.step (Claims.of_within (putStn_within _ _ _) (by decide)))
    | (with_reducible apply Claims.step (Claims.of_within (pmcAdd_within _ _ _) (by decide)))
    | (with_reducible apply Claims.step (Claims.of_within (noteAddr_within _ _) (by decide)))
    | (with_reducible apply Claims.step (noteClaim_claims _ _ _))
    | (with_reducible apply Claims.step (Claims.of_within (discard_within _ _ _) (by decide)))
    | (simp -zeta only [Claims.of_mk]; with_reducible refine Claims.upd (by with_reducible rfl) ?_ (by exact Nat.le_refl _))
    | with_reducible apply Claims.ite
    | with_reducible apply Claims.foldl
    | split

theorem sessionFrame_claims (f : Frame) (s : State) : Claims s (sessionFrame f s) := by
  unfold sessionFrame
  repeat' first
    | with_reducible apply Claims.refl
    | with_reducible assumption
    | (intro (y : DupSt); subst y)
    | (intro y; with_reducible refine Claims.cut y ?_ ?_; (on_goal 2 => clear_value y; intro _); (on_goal 1 => subst y))
    | (intro y; clear_value y)
    | (intro y; subst y)
    | intro _
    | lift_lets -underBinder
    | (with_reducible apply Claims.step (writeAck_claims _ _ _))
    | (with_reducible apply Claims.step (readRep_claims _ _ _))
    | (with_reducible apply Claims.step (Claims.of_within (noteAddr_within _ _) (by decide)))
    | (with_reducible apply Claims.step (Claims.of_within (enrolled_within _ _) (by decide)))
    | (with_reducible apply Claims.step (Claims.of_within (advanceWin_within _ _ _) (by decide)))
    | (with_reducible apply Claims.step (Claims.of_within (discard_within _ _ _) (by decide)))
    | (with_reducible apply Claims.step (Claims.of_within (reject_within _ _ _ _ _ _ _) (by decide)))
    | (simp -zeta only [Claims.of_mk]; with_reducible refine Claims.upd (by with_reducible rfl) ?_ (by exact Nat.le_refl _))
    | with_reducible apply Claims.ite
    | with_reducible apply Claims.foldl
    | split

theorem receive_claims (f : Frame) (s : State) : Claims s (receive f s) := by
  unfold receive
  repeat' first
    | with_reducible apply Claims.refl
    | with_reducible assumption
    | (intro (y : DupSt); subst y)
    | (intro y; with_reducible refine Claims.cut y ?_ ?_; (on_goal 2 => clear_value y; intro _); (on_goal 1 => subst y))
    | (intro y; clear_value y)
    | (intro y; subst y)
    | intro _
    | lift_lets -underBinder
    | (with_reducible apply Claims.step (sessionFrame_claims _ _))
    | (with_reducible apply Claims.step (hello_claims _ _ _))
    | (with_reducible apply Claims.step (Claims.of_within (reject_within _ _ _ _ _ _ _) (by decide)))
    | (with_reducible apply Claims.step (Claims.of_within (discard_within _ _ _) (by decide)))
    | (simp -zeta only [Claims.of_mk]; with_reducible refine Claims.upd (by with_reducible rfl) ?_ (by exact Nat.le_refl _))
    | with_reducible apply Claims.ite
    | with_reducible apply Claims.foldl
    | split

theorem stationRetire_claims (r : Req) (id : Nat) (s : State) : Claims s (stationRetire r id s) := by
  unfold stationRetire
  repeat' first
    | with_reducible apply Claims.refl
    | with_reducible assumption
    | (intro (y : DupSt); subst y)
    | (intro y; with_reducible refine Claims.cut y ?_ ?_; (on_goal 2 => clear_value y; intro _); (on_goal 1 => subst y))
    | (intro y; clear_value y)
    | (intro y; subst y)
    | intro _
    | lift_lets -underBinder
    | (with_reducible apply viaPeer_claims)
    | (with_reducible apply Claims.step (Claims.of_within (setRetire_within _ _ _) (by decide)))
    | (with_reducible apply Claims.step (Claims.of_within (complete_within _ _ _ _ _ _) (by decide)))
    | (with_reducible apply Claims.step (Claims.of_within (finish_within _ _ _ _) (by decide)))
    | (simp -zeta only [Claims.of_mk]; with_reducible refine Claims.upd (by with_reducible rfl) ?_ (by exact Nat.le_refl _))
    | with_reducible apply Claims.ite
    | with_reducible apply Claims.foldl
    | split

theorem stationReinstate_claims (r : Req) (id : Nat) (s : State) : Claims s (stationReinstate r id s) := by
  unfold stationReinstate
  repeat' first
    | with_reducible apply Claims.refl
    | with_reducible assumption
    | (intro (y : DupSt); subst y)
    | (intro y; with_reducible refine Claims.cut y ?_ ?_; (on_goal 2 => clear_value y; intro _); (on_goal 1 => subst y))
    | (intro y; clear_value y)
    | (intro y; subst y)
    | intro _
    | lift_lets -underBinder
    | (with_reducible apply Claims.step (Claims.of_within (applyReinstate_within _ _) (by decide)))
    | (with_reducible apply viaPeer_claims)
    | (with_reducible apply Claims.step (Claims.of_within (finish_within _ _ _ _) (by decide)))
    | (simp -zeta only [Claims.of_mk]; with_reducible refine Claims.upd (by with_reducible rfl) ?_ (by exact Nat.le_refl _))
    | with_reducible apply Claims.ite
    | with_reducible apply Claims.foldl
    | split

theorem setSigma_claims (r : Req) (mid : Nat) (q : Nat) (sg : Nat) (x5 : State) : Claims x5 (setSigma r mid q sg x5) := by
  unfold setSigma
  repeat' first
    | with_reducible apply Claims.refl
    | with_reducible assumption
    | (intro (y : DupSt); subst y)
    | (intro y; with_reducible refine Claims.cut y ?_ ?_; (on_goal 2 => clear_value y; intro _); (on_goal 1 => subst y))
    | (intro y; clear_value y)
    | (intro y; subst y)
    | intro _
    | lift_lets -underBinder
    | (with_reducible apply Claims.step (Claims.of_within (applySigma_within _ _ _ _) (by decide)))
    | (with_reducible apply viaPeer_claims)
    | (with_reducible apply pointOp_claims)
    | (simp -zeta only [Claims.of_mk]; with_reducible refine Claims.upd (by with_reducible rfl) ?_ (by exact Nat.le_refl _))
    | with_reducible apply Claims.ite
    | with_reducible apply Claims.foldl
    | split

theorem excludePoint_claims (r : Req) (mid : Nat) (q : Nat) (x4 : State) : Claims x4 (excludePoint r mid q x4) := by
  unfold excludePoint
  repeat' first
    | with_reducible apply Claims.refl
    | with_reducible assumption
    | (intro (y : DupSt); subst y)
    | (intro y; with_reducible refine Claims.cut y ?_ ?_; (on_goal 2 => clear_value y; intro _); (on_goal 1 => subst y))
    | (intro y; clear_value y)
    | (intro y; subst y)
    | intro _
    | lift_lets -underBinder
    | (with_reducible apply Claims.step (Claims.of_within (applyExclude_within _ _ _) (by decide)))
    | (with_reducible apply viaPeer_claims)
    | (with_reducible apply Claims.step (Claims.of_within (finish_within _ _ _ _) (by decide)))
    | (with_reducible apply pointOp_claims)
    | (simp -zeta only [Claims.of_mk]; with_reducible refine Claims.upd (by with_reducible rfl) ?_ (by exact Nat.le_refl _))
    | with_reducible apply Claims.ite
    | with_reducible apply Claims.foldl
    | split

theorem includePoint_claims (r : Req) (mid : Nat) (q : Nat) (x4 : State) : Claims x4 (includePoint r mid q x4) := by
  unfold includePoint
  repeat' first
    | with_reducible apply Claims.refl
    | with_reducible assumption
    | (intro (y : DupSt); subst y)
    | (intro y; with_reducible refine Claims.cut y ?_ ?_; (on_goal 2 => clear_value y; intro _); (on_goal 1 => subst y))
    | (intro y; clear_value y)
    | (intro y; subst y)
    | intro _
    | lift_lets -underBinder
    | (with_reducible apply Claims.step (Claims.of_within (applyInclude_within _ _ _) (by decide)))
    | (with_reducible apply viaPeer_claims)
    | (with_reducible apply pointOp_claims)
    | (simp -zeta only [Claims.of_mk]; with_reducible refine Claims.upd (by with_reducible rfl) ?_ (by exact Nat.le_refl _))
    | with_reducible apply Claims.ite
    | with_reducible apply Claims.foldl
    | split

theorem viaPeerLate_claims {s u : State} {r : Req} {op : FwdOp} {len : Nat} {apply : State → State}
    (ha : ∀ t, Claims s t → Claims s (apply t)) (h : Claims s u) : Claims s (viaPeerLate r op len apply u) := by
  unfold viaPeerLate
  split
  · exact ha u h
  · exact viaPeer_claims (fun _ k => k) h

theorem loopConfig_claims (r : Req) (c : LoopRec) (s : State) : Claims s (loopConfig r c s) := by
  unfold loopConfig
  repeat' first
    | with_reducible apply Claims.refl
    | with_reducible assumption
    | (intro (y : DupSt); subst y)
    | (intro y; with_reducible refine Claims.cut y ?_ ?_; (on_goal 2 => clear_value y; intro _); (on_goal 1 => subst y))
    | (intro y; clear_value y)
    | (intro y; subst y)
    | intro _
    | lift_lets -underBinder
    | (with_reducible apply Claims.step (Claims.of_within (applyLoopConfig_within _ _) (by decide)))
    | (with_reducible apply viaPeer_claims)
    | (with_reducible apply Claims.step (Claims.of_within (finish_within _ _ _ _) (by decide)))
    | (simp -zeta only [Claims.of_mk]; with_reducible refine Claims.upd (by with_reducible rfl) ?_ (by exact Nat.le_refl _))
    | with_reducible apply Claims.ite
    | with_reducible apply Claims.foldl
    | split

theorem loopCoef_claims (r : Req) (k : CoefRec) (s : State) : Claims s (loopCoef r k s) := by
  unfold loopCoef
  repeat' first
    | with_reducible apply Claims.refl
    | with_reducible assumption
    | (intro (y : DupSt); subst y)
    | (intro y; with_reducible refine Claims.cut y ?_ ?_; (on_goal 2 => clear_value y; intro _); (on_goal 1 => subst y))
    | (intro y; clear_value y)
    | (intro y; subst y)
    | intro _
    | lift_lets -underBinder
    | (with_reducible apply viaPeer_claims)
    | (with_reducible apply Claims.step (Claims.of_within (applyLoopCoef_within _ _ _) (by decide)))
    | (with_reducible apply viaPeerLate_claims)
    | (with_reducible apply Claims.step (Claims.of_within (finish_within _ _ _ _) (by decide)))
    | (simp -zeta only [Claims.of_mk]; with_reducible refine Claims.upd (by with_reducible rfl) ?_ (by exact Nat.le_refl _))
    | with_reducible apply Claims.ite
    | with_reducible apply Claims.foldl
    | split

theorem loopSwap_claims (r : Req) (n : Nat) (s : State) : Claims s (loopSwap r n s) := by
  unfold loopSwap
  repeat' first
    | with_reducible apply Claims.refl
    | with_reducible assumption
    | (intro (y : DupSt); subst y)
    | (intro y; with_reducible refine Claims.cut y ?_ ?_; (on_goal 2 => clear_value y; intro _); (on_goal 1 => subst y))
    | (intro y; clear_value y)
    | (intro y; subst y)
    | intro _
    | lift_lets -underBinder
    | (with_reducible apply Claims.step (Claims.of_within (applyLoopSwap_within _ _ _) (by decide)))
    | (with_reducible apply viaPeerLate_claims)
    | (with_reducible apply Claims.step (Claims.of_within (finish_within _ _ _ _) (by decide)))
    | (simp -zeta only [Claims.of_mk]; with_reducible refine Claims.upd (by with_reducible rfl) ?_ (by exact Nat.le_refl _))
    | with_reducible apply Claims.ite
    | with_reducible apply Claims.foldl
    | split

theorem loopMode_claims (r : Req) (n : Nat) (mode : Nat) (manout : Option Int) (s : State) : Claims s (loopMode r n mode manout s) := by
  unfold loopMode
  repeat' first
    | with_reducible apply Claims.refl
    | with_reducible assumption
    | (intro (y : DupSt); subst y)
    | (intro y; with_reducible refine Claims.cut y ?_ ?_; (on_goal 2 => clear_value y; intro _); (on_goal 1 => subst y))
    | (intro y; clear_value y)
    | (intro y; subst y)
    | intro _
    | lift_lets -underBinder
    | (with_reducible apply Claims.step (Claims.of_within (applyLoopMode_within _ _ _ _ _) (by decide)))
    | (with_reducible apply viaPeerLate_claims)
    | (with_reducible apply Claims.step (Claims.of_within (finish_within _ _ _ _) (by decide)))
    | (simp -zeta only [Claims.of_mk]; with_reducible refine Claims.upd (by with_reducible rfl) ?_ (by exact Nat.le_refl _))
    | with_reducible apply Claims.ite
    | with_reducible apply Claims.foldl
    | split

theorem loopSetsp_claims (r : Req) (n : Nat) (sp : Int) (s : State) : Claims s (loopSetsp r n sp s) := by
  unfold loopSetsp
  repeat' first
    | with_reducible apply Claims.refl
    | with_reducible assumption
    | (intro (y : DupSt); subst y)
    | (intro y; with_reducible refine Claims.cut y ?_ ?_; (on_goal 2 => clear_value y; intro _); (on_goal 1 => subst y))
    | (intro y; clear_value y)
    | (intro y; subst y)
    | intro _
    | lift_lets -underBinder
    | (with_reducible apply Claims.step (Claims.of_within (applySetsp_within _ _ _) (by decide)))
    | (with_reducible apply viaPeer_claims)
    | (with_reducible apply Claims.step (Claims.of_within (finish_within _ _ _ _) (by decide)))
    | (simp -zeta only [Claims.of_mk]; with_reducible refine Claims.upd (by with_reducible rfl) ?_ (by exact Nat.le_refl _))
    | with_reducible apply Claims.ite
    | with_reducible apply Claims.foldl
    | split

theorem linkDrop_claims (cause : Nat) (s : State) : Claims s (linkDrop cause s) := by
  unfold linkDrop
  repeat' first
    | with_reducible apply Claims.refl
    | with_reducible assumption
    | (intro (y : DupSt); subst y)
    | (intro y; with_reducible refine Claims.cut y ?_ ?_; (on_goal 2 => clear_value y; intro _); (on_goal 1 => subst y))
    | (intro y; clear_value y)
    | (intro y; subst y)
    | intro _
    | lift_lets -underBinder
    | (with_reducible apply Claims.step (Claims.of_within (evt_within _ _ _ _) (by decide)))
    | (with_reducible apply Claims.step (assertSrc_claims _ _))
    | (with_reducible apply Claims.step (Claims.of_within (putRing_within _ _ _) (by decide)))
    | (simp -zeta only [Claims.of_mk]; with_reducible refine Claims.upd (by with_reducible rfl) ?_ (by exact Nat.le_refl _))
    | with_reducible apply Claims.ite
    | with_reducible apply Claims.foldl
    | split

theorem linkLoss_claims (c : LinkCause) (s : State) : Claims s (linkLoss c s) := by
  unfold linkLoss
  repeat' first
    | with_reducible apply Claims.refl
    | with_reducible assumption
    | (intro (y : DupSt); subst y)
    | (intro y; with_reducible refine Claims.cut y ?_ ?_; (on_goal 2 => clear_value y; intro _); (on_goal 1 => subst y))
    | (intro y; clear_value y)
    | (intro y; subst y)
    | intro _
    | lift_lets -underBinder
    | (with_reducible apply Claims.step (Claims.of_within (linkDown_within _) (by decide)))
    | (with_reducible apply Claims.step (Claims.of_within (pmcAdd_within _ _ _) (by decide)))
    | (with_reducible apply Claims.step (linkDrop_claims _ _))
    | (simp -zeta only [Claims.of_mk]; with_reducible refine Claims.upd (by with_reducible rfl) ?_ (by exact Nat.le_refl _))
    | with_reducible apply Claims.ite
    | with_reducible apply Claims.foldl
    | split

theorem msixUnmask_claims (w : Unmask) (s : State) : Claims s (msixUnmask w s) := by
  unfold msixUnmask
  repeat' first
    | with_reducible apply Claims.refl
    | with_reducible assumption
    | (intro (y : DupSt); subst y)
    | (intro y; with_reducible refine Claims.cut y ?_ ?_; (on_goal 2 => clear_value y; intro _); (on_goal 1 => subst y))
    | (intro y; clear_value y)
    | (intro y; subst y)
    | intro _
    | lift_lets -underBinder
    | (with_reducible apply Claims.step (Claims.of_within (cfgWrite_within _ _) (by decide)))
    | (with_reducible apply Claims.step (linkLoss_claims _ _))
    | (with_reducible apply Claims.step (Claims.of_within (setB_within _ _ _ _) (by decide)))
    | (with_reducible apply Claims.step (Claims.of_within (sendPended_within _) (by decide)))
    | (simp -zeta only [Claims.of_mk]; with_reducible refine Claims.upd (by with_reducible rfl) ?_ (by exact Nat.le_refl _))
    | with_reducible apply Claims.ite
    | with_reducible apply Claims.foldl
    | split

theorem perstN_claims (s : State) : Claims s (perstN s) := by
  unfold perstN
  repeat' first
    | with_reducible apply Claims.refl
    | with_reducible assumption
    | (intro (y : DupSt); subst y)
    | (intro y; with_reducible refine Claims.cut y ?_ ?_; (on_goal 2 => clear_value y; intro _); (on_goal 1 => subst y))
    | (intro y; clear_value y)
    | (intro y; subst y)
    | intro _
    | lift_lets -underBinder
    | (with_reducible apply Claims.step (linkDrop_claims _ _))
    | (with_reducible apply Claims.step (Claims.of_within (beginBlockReset_within _ _) (by decide)))
    | (with_reducible apply Claims.step (Claims.of_within (clearMsix_within _) (by decide)))
    | (with_reducible apply Claims.step (Claims.of_within (linkDown_within _) (by decide)))
    | (simp -zeta only [Claims.of_mk]; with_reducible refine Claims.upd (by with_reducible rfl) ?_ (by exact Nat.le_refl _))
    | with_reducible apply Claims.ite
    | with_reducible apply Claims.foldl
    | split

theorem setParam_claims (r : Req) (id : Nat) (v : Nat) (s : State) : Claims s (setParam r id v s) := by
  unfold setParam
  repeat' first
    | with_reducible apply Claims.refl
    | with_reducible assumption
    | (intro (y : DupSt); subst y)
    | (intro y; with_reducible refine Claims.cut y ?_ ?_; (on_goal 2 => clear_value y; intro _); (on_goal 1 => subst y))
    | (intro y; clear_value y)
    | (intro y; subst y)
    | intro _
    | lift_lets -underBinder
    | (with_reducible apply Claims.step (Claims.of_within (applyParam_within _ _ _) (by decide)))
    | (with_reducible apply viaPeer_claims)
    | (with_reducible apply Claims.step (Claims.of_within (finish_within _ _ _ _) (by decide)))
    | (simp -zeta only [Claims.of_mk]; with_reducible refine Claims.upd (by with_reducible rfl) ?_ (by exact Nat.le_refl _))
    | with_reducible apply Claims.ite
    | with_reducible apply Claims.foldl
    | split

theorem pricePush_claims (r : Req) (b : Bytes) (start : Nat) (n : Nat) (s : State) : Claims s (pricePush r b start n s) := by
  unfold pricePush
  repeat' first
    | with_reducible apply Claims.refl
    | with_reducible assumption
    | (intro (y : DupSt); subst y)
    | (intro y; with_reducible refine Claims.cut y ?_ ?_; (on_goal 2 => clear_value y; intro _); (on_goal 1 => subst y))
    | (intro y; clear_value y)
    | (intro y; subst y)
    | intro _
    | lift_lets -underBinder
    | (with_reducible apply Claims.step (Claims.of_within (applyPrice_within _ _ _ _) (by decide)))
    | (with_reducible apply viaPeer_claims)
    | (with_reducible apply Claims.step (Claims.of_within (finish_within _ _ _ _) (by decide)))
    | (simp -zeta only [Claims.of_mk]; with_reducible refine Claims.upd (by with_reducible rfl) ?_ (by exact Nat.le_refl _))
    | with_reducible apply Claims.ite
    | with_reducible apply Claims.foldl
    | split

theorem weatherPush_claims (r : Req) (b : Bytes) (start : Nat) (n : Nat) (s : State) : Claims s (weatherPush r b start n s) := by
  unfold weatherPush
  repeat' first
    | with_reducible apply Claims.refl
    | with_reducible assumption
    | (intro (y : DupSt); subst y)
    | (intro y; with_reducible refine Claims.cut y ?_ ?_; (on_goal 2 => clear_value y; intro _); (on_goal 1 => subst y))
    | (intro y; clear_value y)
    | (intro y; subst y)
    | intro _
    | lift_lets -underBinder
    | (with_reducible apply Claims.step (Claims.of_within (applyWeather_within _ _ _) (by decide)))
    | (with_reducible apply viaPeer_claims)
    | (simp -zeta only [Claims.of_mk]; with_reducible refine Claims.upd (by with_reducible rfl) ?_ (by exact Nat.le_refl _))
    | with_reducible apply Claims.ite
    | with_reducible apply Claims.foldl
    | split

theorem forceCycle_claims (r : Req) (p : Nat) (s : State) : Claims s (forceCycle r p s) := by
  unfold forceCycle
  repeat' first
    | with_reducible apply Claims.refl
    | with_reducible assumption
    | (intro (y : DupSt); subst y)
    | (intro y; with_reducible refine Claims.cut y ?_ ?_; (on_goal 2 => clear_value y; intro _); (on_goal 1 => subst y))
    | (intro y; clear_value y)
    | (intro y; subst y)
    | intro _
    | lift_lets -underBinder
    | (with_reducible apply Claims.step (Claims.of_within (applyForce_within _) (by decide)))
    | (with_reducible apply viaPeer_claims)
    | (with_reducible apply Claims.step (Claims.of_within (finish_within _ _ _ _) (by decide)))
    | (simp -zeta only [Claims.of_mk]; with_reducible refine Claims.upd (by with_reducible rfl) ?_ (by exact Nat.le_refl _))
    | with_reducible apply Claims.ite
    | with_reducible apply Claims.foldl
    | split

theorem unitModeOp_claims (r : Req) (mid : Nat) (mode : Nat) (s : State) : Claims s (unitModeOp r mid mode s) := by
  unfold unitModeOp
  repeat' first
    | with_reducible apply Claims.refl
    | with_reducible assumption
    | (intro (y : DupSt); subst y)
    | (intro y; with_reducible refine Claims.cut y ?_ ?_; (on_goal 2 => clear_value y; intro _); (on_goal 1 => subst y))
    | (intro y; clear_value y)
    | (intro y; subst y)
    | intro _
    | lift_lets -underBinder
    | (with_reducible apply Claims.step (Claims.of_within (applyUnitMode_within _ _ _) (by decide)))
    | (with_reducible apply viaPeer_claims)
    | (with_reducible apply Claims.step (Claims.of_within (finish_within _ _ _ _) (by decide)))
    | (simp -zeta only [Claims.of_mk]; with_reducible refine Claims.upd (by with_reducible rfl) ?_ (by exact Nat.le_refl _))
    | with_reducible apply Claims.ite
    | with_reducible apply Claims.foldl
    | split

theorem addRec_claims (stream : Nat) (rtype : Nat) (source : Nat) (seq : Nat) (status : Nat) (b : Bytes) (s : State) : Claims s (addRec stream rtype source seq status b s) := by
  unfold addRec
  repeat' first
    | with_reducible apply Claims.refl
    | with_reducible assumption
    | (intro (y : DupSt); subst y)
    | (intro y; with_reducible refine Claims.cut y ?_ ?_; (on_goal 2 => clear_value y; intro _); (on_goal 1 => subst y))
    | (intro y; clear_value y)
    | (intro y; subst y)
    | intro _
    | lift_lets -underBinder
    | (with_reducible apply Claims.step (Claims.of_within (pumpStream_within _ _) (by decide)))
    | (with_reducible apply Claims.step (sendPeer_claims _ _))
    | (with_reducible apply Claims.step (Claims.of_within (emit_within _ _) (by decide)))
    | (with_reducible apply Claims.step (Claims.of_within (pmcAdd_within _ _ _) (by decide)))
    | (simp -zeta only [Claims.of_mk]; with_reducible refine Claims.upd (by with_reducible rfl) ?_ (by exact Nat.le_refl _))
    | with_reducible apply Claims.ite
    | with_reducible apply Claims.foldl
    | split

theorem signHeld_claims (s : State) : Claims s (signHeld s) := by
  unfold signHeld
  repeat' first
    | with_reducible apply Claims.refl
    | with_reducible assumption
    | (intro (y : DupSt); subst y)
    | (intro y; with_reducible refine Claims.cut y ?_ ?_; (on_goal 2 => clear_value y; intro _); (on_goal 1 => subst y))
    | (intro y; clear_value y)
    | (intro y; subst y)
    | intro _
    | lift_lets -underBinder
    | (with_reducible apply Claims.step (Claims.of_within (pumpStreams_within _) (by decide)))
    | (with_reducible apply Claims.step (sendPeer_claims _ _))
    | (with_reducible apply Claims.step (Claims.of_within (pmcAdd_within _ _ _) (by decide)))
    | (simp -zeta only [Claims.of_mk]; with_reducible refine Claims.upd (by with_reducible rfl) ?_ (by exact Nat.le_refl _))
    | with_reducible apply Claims.ite
    | with_reducible apply Claims.foldl
    | split

theorem signCopy_claims (s : State) (r : Rec) : Claims s (signCopy s r) := by
  unfold signCopy
  repeat' first
    | with_reducible apply Claims.refl
    | with_reducible assumption
    | (intro (y : DupSt); subst y)
    | (intro y; with_reducible refine Claims.cut y ?_ ?_; (on_goal 2 => clear_value y; intro _); (on_goal 1 => subst y))
    | (intro y; clear_value y)
    | (intro y; subst y)
    | intro _
    | lift_lets -underBinder
    | (with_reducible apply Claims.step (addRec_claims _ _ _ _ _ _ _))
    | (simp -zeta only [Claims.of_mk]; with_reducible refine Claims.upd (by with_reducible rfl) ?_ (by exact Nat.le_refl _))
    | with_reducible apply Claims.ite
    | with_reducible apply Claims.foldl
    | split

theorem signNoted_claims (s : State) : Claims s (signNoted s) := by
  unfold signNoted
  repeat' first
    | with_reducible apply Claims.refl
    | with_reducible assumption
    | (intro (y : DupSt); subst y)
    | (intro y; with_reducible refine Claims.cut y ?_ ?_; (on_goal 2 => clear_value y; intro _); (on_goal 1 => subst y))
    | (intro y; clear_value y)
    | (intro y; subst y)
    | intro _
    | lift_lets -underBinder
    | (with_reducible apply Claims.step (signCopy_claims _ _))
    | (simp -zeta only [Claims.of_mk]; with_reducible refine Claims.upd (by with_reducible rfl) ?_ (by exact Nat.le_refl _))
    | with_reducible apply Claims.ite
    | with_reducible apply Claims.foldl
    | split

theorem takeMor_claims (s : State) : Claims s (takeMor s) := by
  unfold takeMor
  repeat' first
    | with_reducible apply Claims.refl
    | with_reducible assumption
    | (intro (y : DupSt); subst y)
    | (intro y; with_reducible refine Claims.cut y ?_ ?_; (on_goal 2 => clear_value y; intro _); (on_goal 1 => subst y))
    | (intro y; clear_value y)
    | (intro y; subst y)
    | intro _
    | lift_lets -underBinder
    | (with_reducible apply Claims.step (setMor_claims _ _))
    | (with_reducible apply Claims.step (signNoted_claims _))
    | (simp -zeta only [Claims.of_mk]; with_reducible refine Claims.upd (by with_reducible rfl) ?_ (by exact Nat.le_refl _))
    | with_reducible apply Claims.ite
    | with_reducible apply Claims.foldl
    | split

theorem recordSpan_claims (p : Span) (s : State) : Claims s (recordSpan p s) := by
  unfold recordSpan
  repeat' first
    | with_reducible apply Claims.refl
    | with_reducible assumption
    | (intro (y : DupSt); subst y)
    | (intro y; with_reducible refine Claims.cut y ?_ ?_; (on_goal 2 => clear_value y; intro _); (on_goal 1 => subst y))
    | (intro y; clear_value y)
    | (intro y; subst y)
    | intro _
    | lift_lets -underBinder
    | (with_reducible apply Claims.step (Claims.of_within (incReg_within _ _ _) (by decide)))
    | (with_reducible apply Claims.step (addRec_claims _ _ _ _ _ _ _))
    | (with_reducible apply Claims.step (Claims.of_within (putSrc_within _ _ _) (by decide)))
    | (simp -zeta only [Claims.of_mk]; with_reducible refine Claims.upd (by with_reducible rfl) ?_ (by exact Nat.le_refl _))
    | with_reducible apply Claims.ite
    | with_reducible apply Claims.foldl
    | split

theorem addSpan_claims (p : Span) (s : State) : Claims s (addSpan p s) := by
  unfold addSpan
  repeat' first
    | with_reducible apply Claims.refl
    | with_reducible assumption
    | (intro (y : DupSt); subst y)
    | (intro y; with_reducible refine Claims.cut y ?_ ?_; (on_goal 2 => clear_value y; intro _); (on_goal 1 => subst y))
    | (intro y; clear_value y)
    | (intro y; subst y)
    | intro _
    | lift_lets -underBinder
    | (with_reducible apply Claims.step (recordSpan_claims _ _))
    | (simp -zeta only [Claims.of_mk]; with_reducible refine Claims.upd (by with_reducible rfl) ?_ (by exact Nat.le_refl _))
    | with_reducible apply Claims.ite
    | with_reducible apply Claims.foldl
    | split

theorem closeGaps_pclaims (k : Nat) (v : Ival) (x : TlySrc) (s : State) : Claims s (closeGaps k v x s).2.2 := by
  unfold closeGaps
  split
  · exact Claims.refl
  · refine Claims.foldl ?_ ?_
    · intro t p h
      exact Claims.step (addSpan_claims _ _) h
    · exact Claims.step (Claims.of_within (putSrc_within _ _ _) (by decide)) (Claims.of_within (pmcAdd_within _ _ _) (by decide))

theorem recordIval_claims (k : Nat) (v : Ival) (x : TlySrc) (s : State) : Claims s (recordIval k v x s) := by
  unfold recordIval
  repeat' first
    | with_reducible apply Claims.refl
    | with_reducible assumption
    | (intro (y : DupSt); subst y)
    | (intro y; with_reducible refine Claims.cut y ?_ ?_; (on_goal 2 => clear_value y; intro _); (on_goal 1 => subst y))
    | (intro y; clear_value y)
    | (intro y; subst y)
    | intro _
    | lift_lets -underBinder
    | (with_reducible apply Claims.step (addRec_claims _ _ _ _ _ _ _))
    | (with_reducible apply Claims.step (Claims.of_within (incReg_within _ _ _) (by decide)))
    | (with_reducible apply Claims.step (Claims.of_within (evt_within _ _ _ _) (by decide)))
    | (with_reducible apply Claims.step (Claims.of_within (putSrc_within _ _ _) (by decide)))
    | (simp -zeta only [Claims.of_mk]; with_reducible refine Claims.upd (by with_reducible rfl) ?_ (by exact Nat.le_refl _))
    | with_reducible apply Claims.ite
    | with_reducible apply Claims.foldl
    | split

theorem closeOldest_claims (k : Nat) (s : State) : Claims s (closeOldest k s) := by
  unfold closeOldest
  repeat' first
    | with_reducible apply Claims.refl
    | with_reducible assumption
    | (intro (y : DupSt); subst y)
    | (intro y; with_reducible refine Claims.cut y ?_ ?_; (on_goal 2 => clear_value y; intro _); (on_goal 1 => subst y))
    | (intro y; with_reducible refine Claims.cut y.2.2 ?_ ?_; (on_goal 2 => clear_value y; intro _); (on_goal 1 => subst y))
    | (intro y; clear_value y)
    | (intro y; subst y)
    | intro _
    | lift_lets -underBinder
    | (with_reducible apply Claims.step (recordIval_claims _ _ _ _))
    | (with_reducible apply Claims.step (Claims.of_within (putSrc_within _ _ _) (by decide)))
    | (with_reducible apply Claims.step (closeGaps_pclaims _ _ _ _))
    | (with_reducible apply Claims.step (closeGaps_eclaims ‹closeGaps _ _ _ _ = _›))
    | (simp -zeta only [Claims.of_mk]; with_reducible refine Claims.upd (by with_reducible rfl) ?_ (by exact Nat.le_refl _))
    | with_reducible apply Claims.ite
    | with_reducible apply Claims.foldl
    | split

theorem closeSrc_claims (s : State) (k : Nat) : Claims s (closeSrc s k) := by
  unfold closeSrc
  repeat' first
    | with_reducible apply Claims.refl
    | with_reducible assumption
    | (intro (y : DupSt); subst y)
    | (intro y; with_reducible refine Claims.cut y ?_ ?_; (on_goal 2 => clear_value y; intro _); (on_goal 1 => subst y))
    | (intro y; clear_value y)
    | (intro y; subst y)
    | intro _
    | lift_lets -underBinder
    | (with_reducible apply Claims.step (closeOldest_claims _ _))
    | (simp -zeta only [Claims.of_mk]; with_reducible refine Claims.upd (by with_reducible rfl) ?_ (by exact Nat.le_refl _))
    | with_reducible apply Claims.ite
    | with_reducible apply Claims.foldl
    | split

theorem flushSpans_claims (s : State) : Claims s (flushSpans s) := by
  unfold flushSpans
  repeat' first
    | with_reducible apply Claims.refl
    | with_reducible assumption
    | (intro (y : DupSt); subst y)
    | (intro y; with_reducible refine Claims.cut y ?_ ?_; (on_goal 2 => clear_value y; intro _); (on_goal 1 => subst y))
    | (intro y; clear_value y)
    | (intro y; subst y)
    | intro _
    | lift_lets -underBinder
    | (with_reducible apply Claims.step (addSpan_claims _ _))
    | (simp -zeta only [Claims.of_mk]; with_reducible refine Claims.upd (by with_reducible rfl) ?_ (by exact Nat.le_refl _))
    | with_reducible apply Claims.ite
    | with_reducible apply Claims.foldl
    | split

theorem commitNow_claims (final : Bool) (s : State) : Claims s (commitNow final s) := by
  unfold commitNow
  repeat' first
    | with_reducible apply Claims.refl
    | with_reducible assumption
    | (intro (y : DupSt); subst y)
    | (intro y; with_reducible refine Claims.cut y ?_ ?_; (on_goal 2 => clear_value y; intro _); (on_goal 1 => subst y))
    | (intro y; clear_value y)
    | (intro y; subst y)
    | intro _
    | lift_lets -underBinder
    | (with_reducible apply Claims.step (flushSpans_claims _))
    | (with_reducible apply Claims.step (Claims.of_within (purgeStore_within _) (by decide)))
    | (with_reducible apply Claims.step (Claims.of_within (mapSrcs_within _ _) (by decide)))
    | (with_reducible apply Claims.step (Claims.of_within (writeBank_within _ _) (by decide)))
    | (with_reducible apply Claims.step (closeSrc_claims _ _))
    | (with_reducible apply Claims.step (Claims.of_within (tlyRoll_within _) (by decide)))
    | (simp -zeta only [Claims.of_mk]; with_reducible refine Claims.upd (by with_reducible rfl) ?_ (by exact Nat.le_refl _))
    | with_reducible apply Claims.ite
    | with_reducible apply Claims.foldl
    | split

theorem endOwed_claims (s : State) : Claims s (endOwed s) := by
  unfold endOwed
  repeat' first
    | with_reducible apply Claims.refl
    | with_reducible assumption
    | (intro (y : DupSt); subst y)
    | (intro y; with_reducible refine Claims.cut y ?_ ?_; (on_goal 2 => clear_value y; intro _); (on_goal 1 => subst y))
    | (intro y; clear_value y)
    | (intro y; subst y)
    | intro _
    | lift_lets -underBinder
    | (with_reducible apply Claims.step (Claims.of_within (markSpan_within _ _ _ _ _) (by decide)))
    | (with_reducible apply Claims.step (addSpan_claims _ _))
    | (simp -zeta only [Claims.of_mk]; with_reducible refine Claims.upd (by with_reducible rfl) ?_ (by exact Nat.le_refl _))
    | with_reducible apply Claims.ite
    | with_reducible apply Claims.foldl
    | split

theorem tlyCommit_claims (s : State) : Claims s (tlyCommit s) := by
  unfold tlyCommit
  repeat' first
    | with_reducible apply Claims.refl
    | with_reducible assumption
    | (intro (y : DupSt); subst y)
    | (intro y; with_reducible refine Claims.cut y ?_ ?_; (on_goal 2 => clear_value y; intro _); (on_goal 1 => subst y))
    | (intro y; clear_value y)
    | (intro y; subst y)
    | intro _
    | lift_lets -underBinder
    | (with_reducible apply Claims.step (endOwed_claims _))
    | (with_reducible apply Claims.step (commitNow_claims _ _))
    | (with_reducible apply Claims.step (Claims.of_within (snapLoops_within _) (by decide)))
    | (simp -zeta only [Claims.of_mk]; with_reducible refine Claims.upd (by with_reducible rfl) ?_ (by exact Nat.le_refl _))
    | with_reducible apply Claims.ite
    | with_reducible apply Claims.foldl
    | split

theorem finalCommit_claims (s : State) : Claims s (finalCommit s) := by
  unfold finalCommit
  repeat' first
    | with_reducible apply Claims.refl
    | with_reducible assumption
    | (intro (y : DupSt); subst y)
    | (intro y; with_reducible refine Claims.cut y ?_ ?_; (on_goal 2 => clear_value y; intro _); (on_goal 1 => subst y))
    | (intro y; clear_value y)
    | (intro y; subst y)
    | intro _
    | lift_lets -underBinder
    | (with_reducible apply Claims.step (commitNow_claims _ _))
    | (with_reducible apply Claims.step (Claims.of_within (snapLoops_within _) (by decide)))
    | (simp -zeta only [Claims.of_mk]; with_reducible refine Claims.upd (by with_reducible rfl) ?_ (by exact Nat.le_refl _))
    | with_reducible apply Claims.ite
    | with_reducible apply Claims.foldl
    | split

theorem putSpan_claims (k : Nat) (kind : Nat) (sflags : Nat) (x4 : Nat) (b : Nat) (ns : Option Nat) (s : State) : Claims s (putSpan k kind sflags x4 b ns s) := by
  unfold putSpan
  repeat' first
    | with_reducible apply Claims.refl
    | with_reducible assumption
    | (intro (y : DupSt); subst y)
    | (intro y; with_reducible refine Claims.cut y ?_ ?_; (on_goal 2 => clear_value y; intro _); (on_goal 1 => subst y))
    | (intro y; clear_value y)
    | (intro y; subst y)
    | intro _
    | lift_lets -underBinder
    | (with_reducible apply Claims.step (addSpan_claims _ _))
    | (with_reducible apply Claims.step (Claims.of_within (markSpan_within _ _ _ _ _) (by decide)))
    | (simp -zeta only [Claims.of_mk]; with_reducible refine Claims.upd (by with_reducible rfl) ?_ (by exact Nat.le_refl _))
    | with_reducible apply Claims.ite
    | with_reducible apply Claims.foldl
    | split

theorem bankSpans_claims (b : Bank) (mk : Option Nat) (s : State) (k : Nat) : Claims s (bankSpans b mk s k) := by
  unfold bankSpans
  repeat' first
    | with_reducible apply Claims.refl
    | with_reducible assumption
    | (intro (y : DupSt); subst y)
    | (intro y; with_reducible refine Claims.cut y ?_ ?_; (on_goal 2 => clear_value y; intro _); (on_goal 1 => subst y))
    | (intro y; clear_value y)
    | (intro y; subst y)
    | intro _
    | lift_lets -underBinder
    | (with_reducible apply Claims.step (putSpan_claims _ _ _ _ _ _ _))
    | (simp -zeta only [Claims.of_mk]; with_reducible refine Claims.upd (by with_reducible rfl) ?_ (by exact Nat.le_refl _))
    | with_reducible apply Claims.ite
    | with_reducible apply Claims.foldl
    | split

theorem lostSpan_claims (last : Option Rec) (s : State) (k : Nat) : Claims s (lostSpan last s k) := by
  unfold lostSpan
  repeat' first
    | with_reducible apply Claims.refl
    | with_reducible assumption
    | (intro (y : DupSt); subst y)
    | (intro y; with_reducible refine Claims.cut y ?_ ?_; (on_goal 2 => clear_value y; intro _); (on_goal 1 => subst y))
    | (intro y; clear_value y)
    | (intro y; subst y)
    | intro _
    | lift_lets -underBinder
    | (with_reducible apply Claims.step (Claims.of_within (putSrc_within _ _ _) (by decide)))
    | (with_reducible apply Claims.step (putSpan_claims _ _ _ _ _ _ _))
    | (simp -zeta only [Claims.of_mk]; with_reducible refine Claims.upd (by with_reducible rfl) ?_ (by exact Nat.le_refl _))
    | with_reducible apply Claims.ite
    | with_reducible apply Claims.foldl
    | split

theorem tlyRestore_claims (ok0 : Bool) (ok1 : Bool) (s : State) : Claims s (tlyRestore ok0 ok1 s) := by
  unfold tlyRestore
  repeat' first
    | with_reducible apply Claims.refl
    | with_reducible assumption
    | (intro (y : DupSt); subst y)
    | (intro y; with_reducible refine Claims.cut y ?_ ?_; (on_goal 2 => clear_value y; intro _); (on_goal 1 => subst y))
    | (intro y; clear_value y)
    | (intro y; subst y)
    | intro _
    | lift_lets -underBinder
    | (with_reducible apply Claims.step (Claims.of_within (putSrc_within _ _ _) (by decide)))
    | (with_reducible apply Claims.step (lostSpan_claims _ _ _))
    | (with_reducible apply Claims.step (Claims.of_within (startSrc_within _ _ _) (by decide)))
    | (with_reducible apply Claims.step (bankSpans_claims _ _ _ _))
    | (with_reducible apply Claims.step (Claims.of_within (mapSrcs_within _ _) (by decide)))
    | (with_reducible apply Claims.step (Claims.of_within (restartAxis_within _ _) (by decide)))
    | (with_reducible apply Claims.step (Claims.of_within (tlySwap_within _) (by decide)))
    | (simp -zeta only [Claims.of_mk]; with_reducible refine Claims.upd (by with_reducible rfl) ?_ (by exact Nat.le_refl _))
    | with_reducible apply Claims.ite
    | with_reducible apply Claims.foldl
    | split

theorem selfTest_claims (bad : List Nat) (s : State) : Claims s (selfTest bad s) := by
  unfold selfTest
  repeat' first
    | with_reducible apply Claims.refl
    | with_reducible assumption
    | (intro (y : DupSt); subst y)
    | (intro y; with_reducible refine Claims.cut y ?_ ?_; (on_goal 2 => clear_value y; intro _); (on_goal 1 => subst y))
    | (intro y; clear_value y)
    | (intro y; subst y)
    | intro _
    | lift_lets -underBinder
    | (with_reducible apply Claims.step (setCond_claims _ _ _))
    | (with_reducible apply Claims.step (Claims.of_within (setB_within _ _ _ _) (by decide)))
    | (simp -zeta only [Claims.of_mk]; with_reducible refine Claims.upd (by with_reducible rfl) ?_ (by exact Nat.le_refl _))
    | with_reducible apply Claims.ite
    | with_reducible apply Claims.foldl
    | split

theorem tlyStart_claims (ok0 : Bool) (ok1 : Bool) (bad : List Nat) (s : State) : Claims s (tlyStart ok0 ok1 bad s) := by
  unfold tlyStart
  repeat' first
    | with_reducible apply Claims.refl
    | with_reducible assumption
    | (intro (y : DupSt); subst y)
    | (intro y; with_reducible refine Claims.cut y ?_ ?_; (on_goal 2 => clear_value y; intro _); (on_goal 1 => subst y))
    | (intro y; clear_value y)
    | (intro y; subst y)
    | intro _
    | lift_lets -underBinder
    | (with_reducible apply Claims.step (Claims.of_within (loadCal_within _) (by decide)))
    | (with_reducible apply Claims.step (selfTest_claims _ _))
    | (with_reducible apply Claims.step (tlyRestore_claims _ _ _))
    | (simp -zeta only [Claims.of_mk]; with_reducible refine Claims.upd (by with_reducible rfl) ?_ (by exact Nat.le_refl _))
    | with_reducible apply Claims.ite
    | with_reducible apply Claims.foldl
    | split

theorem watchdog_claims (t : Nat) (s : State) : Claims s (watchdog t s) := by
  unfold watchdog
  repeat' first
    | with_reducible apply Claims.refl
    | with_reducible assumption
    | (intro (y : DupSt); subst y)
    | (intro y; with_reducible refine Claims.cut y ?_ ?_; (on_goal 2 => clear_value y; intro _); (on_goal 1 => subst y))
    | (intro y; clear_value y)
    | (intro y; subst y)
    | intro _
    | lift_lets -underBinder
    | (with_reducible apply Claims.step (raise_claims _ _))
    | (with_reducible apply Claims.step (resign_claims _ _))
    | (with_reducible apply Claims.step (Claims.of_within (incReg_within _ _ _) (by decide)))
    | (with_reducible apply Claims.step (Claims.of_within (progRecord_within _ _ _) (by decide)))
    | (with_reducible apply Claims.step (Claims.of_within (stopTask_within _ _) (by decide)))
    | (with_reducible apply Claims.step (Claims.of_within (setF_within _ _ _ _ _) (by decide)))
    | (with_reducible apply Claims.step (Claims.of_within (setProgState_within _ _) (by decide)))
    | (simp -zeta only [Claims.of_mk]; with_reducible refine Claims.upd (by with_reducible rfl) ?_ (by exact Nat.le_refl _))
    | with_reducible apply Claims.ite
    | with_reducible apply Claims.foldl
    | split

theorem unresign_claims (cause : Nat) (s : State) : Claims s (unresign cause s) := by
  unfold unresign
  repeat' first
    | with_reducible apply Claims.refl
    | with_reducible assumption
    | (intro (y : DupSt); subst y)
    | (intro y; with_reducible refine Claims.cut y ?_ ?_; (on_goal 2 => clear_value y; intro _); (on_goal 1 => subst y))
    | (intro y; clear_value y)
    | (intro y; subst y)
    | intro _
    | lift_lets -underBinder
    | (with_reducible apply Claims.step (setRole_claims _ _))
    | (simp -zeta only [Claims.of_mk]; with_reducible refine Claims.upd (by with_reducible rfl) ?_ (by exact Nat.le_refl _))
    | with_reducible apply Claims.ite
    | with_reducible apply Claims.foldl
    | split

theorem startProg_claims (s : State) : Claims s (startProg s) := by
  unfold startProg
  repeat' first
    | with_reducible apply Claims.refl
    | with_reducible assumption
    | (intro (y : DupSt); subst y)
    | (intro y; with_reducible refine Claims.cut y ?_ ?_; (on_goal 2 => clear_value y; intro _); (on_goal 1 => subst y))
    | (intro y; clear_value y)
    | (intro y; subst y)
    | intro _
    | lift_lets -underBinder
    | (with_reducible apply Claims.step (Claims.of_within (setProgState_within _ _) (by decide)))
    | (with_reducible apply Claims.step (unresign_claims _ _))
    | (simp -zeta only [Claims.of_mk]; with_reducible refine Claims.upd (by with_reducible rfl) ?_ (by exact Nat.le_refl _))
    | with_reducible apply Claims.ite
    | with_reducible apply Claims.foldl
    | split

theorem applyProgCtrl_claims (cmd : Nat) (s : State) : Claims s (applyProgCtrl cmd s) := by
  unfold applyProgCtrl
  repeat' first
    | with_reducible apply Claims.refl
    | with_reducible assumption
    | (intro (y : DupSt); subst y)
    | (intro y; with_reducible refine Claims.cut y ?_ ?_; (on_goal 2 => clear_value y; intro _); (on_goal 1 => subst y))
    | (intro y; clear_value y)
    | (intro y; subst y)
    | intro _
    | lift_lets -underBinder
    | (with_reducible apply Claims.step (Claims.of_within (setProgState_within _ _) (by decide)))
    | (with_reducible apply Claims.step (Claims.of_within (stopTask_within _ _) (by decide)))
    | (with_reducible apply Claims.step (Claims.of_within (coldStart_within _) (by decide)))
    | (with_reducible apply Claims.step (startProg_claims _))
    | (simp -zeta only [Claims.of_mk]; with_reducible refine Claims.upd (by with_reducible rfl) ?_ (by exact Nat.le_refl _))
    | with_reducible apply Claims.ite
    | with_reducible apply Claims.foldl
    | split

theorem progCtrl_claims (r : Req) (cmd : Nat) (s : State) : Claims s (progCtrl r cmd s) := by
  unfold progCtrl
  repeat' first
    | with_reducible apply Claims.refl
    | with_reducible assumption
    | (intro (y : DupSt); subst y)
    | (intro y; with_reducible refine Claims.cut y ?_ ?_; (on_goal 2 => clear_value y; intro _); (on_goal 1 => subst y))
    | (intro y; clear_value y)
    | (intro y; subst y)
    | intro _
    | lift_lets -underBinder
    | (with_reducible apply Claims.step (applyProgCtrl_claims _ _))
    | (with_reducible apply viaPeer_claims)
    | (with_reducible apply Claims.step (Claims.of_within (finish_within _ _ _ _) (by decide)))
    | (simp -zeta only [Claims.of_mk]; with_reducible refine Claims.upd (by with_reducible rfl) ?_ (by exact Nat.le_refl _))
    | with_reducible apply Claims.ite
    | with_reducible apply Claims.foldl
    | split

theorem progOp_claims (r : Req) (mine : Nat → Bool) (s : State) : Claims s (progOp r mine s) := by
  unfold progOp
  repeat' first
    | with_reducible apply Claims.refl
    | with_reducible assumption
    | (intro (y : DupSt); subst y)
    | (intro y; with_reducible refine Claims.cut y ?_ ?_; (on_goal 2 => clear_value y; intro _); (on_goal 1 => subst y))
    | (intro y; clear_value y)
    | (intro y; subst y)
    | intro _
    | lift_lets -underBinder
    | (with_reducible apply Claims.step (progCtrl_claims _ _ _))
    | (with_reducible apply inlineOp_claims)
    | (simp -zeta only [Claims.of_mk]; with_reducible refine Claims.upd (by with_reducible rfl) ?_ (by exact Nat.le_refl _))
    | with_reducible apply Claims.ite
    | with_reducible apply Claims.foldl
    | split

theorem varWrite_claims (r : Req) (i : BitVec 64) (type : Nat) (v : Nat) (s : State) : Claims s (varWrite r i type v s) := by
  unfold varWrite
  repeat' first
    | with_reducible apply Claims.refl
    | with_reducible assumption
    | (intro (y : DupSt); subst y)
    | (intro y; with_reducible refine Claims.cut y ?_ ?_; (on_goal 2 => clear_value y; intro _); (on_goal 1 => subst y))
    | (intro y; clear_value y)
    | (intro y; subst y)
    | intro _
    | lift_lets -underBinder
    | (with_reducible apply Claims.step (Claims.of_within (applyVarWrite_within _ _ _) (by decide)))
    | (with_reducible apply viaPeer_claims)
    | (with_reducible apply Claims.step (Claims.of_within (finish_within _ _ _ _) (by decide)))
    | (simp -zeta only [Claims.of_mk]; with_reducible refine Claims.upd (by with_reducible rfl) ?_ (by exact Nat.le_refl _))
    | with_reducible apply Claims.ite
    | with_reducible apply Claims.foldl
    | split

theorem constWrite_claims (r : Req) (i : BitVec 64) (type : Nat) (v : Nat) (s : State) : Claims s (constWrite r i type v s) := by
  unfold constWrite
  repeat' first
    | with_reducible apply Claims.refl
    | with_reducible assumption
    | (intro (y : DupSt); subst y)
    | (intro y; with_reducible refine Claims.cut y ?_ ?_; (on_goal 2 => clear_value y; intro _); (on_goal 1 => subst y))
    | (intro y; clear_value y)
    | (intro y; subst y)
    | intro _
    | lift_lets -underBinder
    | (with_reducible apply Claims.step (Claims.of_within (applyConstWrite_within _ _ _) (by decide)))
    | (with_reducible apply viaPeer_claims)
    | (with_reducible apply Claims.step (Claims.of_within (finish_within _ _ _ _) (by decide)))
    | (simp -zeta only [Claims.of_mk]; with_reducible refine Claims.upd (by with_reducible rfl) ?_ (by exact Nat.le_refl _))
    | with_reducible apply Claims.ite
    | with_reducible apply Claims.foldl
    | split

theorem progExchange_claims (r : Req) (sig : BitVec 64) (target : Nat) (s : State) : Claims s (progExchange r sig target s) := by
  unfold progExchange
  repeat' first
    | with_reducible apply Claims.refl
    | with_reducible assumption
    | (intro (y : DupSt); subst y)
    | (intro y; with_reducible refine Claims.cut y ?_ ?_; (on_goal 2 => clear_value y; intro _); (on_goal 1 => subst y))
    | (intro y; clear_value y)
    | (intro y; subst y)
    | intro _
    | lift_lets -underBinder
    | (with_reducible apply Claims.step (Claims.of_within (applyExchange_within _ _ _ _) (by decide)))
    | (with_reducible apply viaPeerLate_claims)
    | (with_reducible apply Claims.step (Claims.of_within (finish_within _ _ _ _) (by decide)))
    | (simp -zeta only [Claims.of_mk]; with_reducible refine Claims.upd (by with_reducible rfl) ?_ (by exact Nat.le_refl _))
    | with_reducible apply Claims.ite
    | with_reducible apply Claims.foldl
    | split

theorem exchangeCapture_claims (s : State) : Claims s (exchangeCapture s) := by
  unfold exchangeCapture
  repeat' first
    | with_reducible apply Claims.refl
    | with_reducible assumption
    | (intro (y : DupSt); subst y)
    | (intro y; with_reducible refine Claims.cut y ?_ ?_; (on_goal 2 => clear_value y; intro _); (on_goal 1 => subst y))
    | (intro y; clear_value y)
    | (intro y; subst y)
    | intro _
    | lift_lets -underBinder
    | (with_reducible apply Claims.step (sendPeer_claims _ _))
    | (with_reducible apply Claims.step (Claims.of_within (pmcAdd_within _ _ _) (by decide)))
    | (simp -zeta only [Claims.of_mk]; with_reducible refine Claims.upd (by with_reducible rfl) ?_ (by exact Nat.le_refl _))
    | with_reducible apply Claims.ite
    | with_reducible apply Claims.foldl
    | split

theorem restartCyc_claims (warm : Bool) (bad : List Nat) (s : State) : Claims s (restartCyc warm bad s) := by
  unfold restartCyc
  repeat' first
    | with_reducible apply Claims.refl
    | with_reducible assumption
    | (intro (y : DupSt); subst y)
    | (intro y; with_reducible refine Claims.cut y ?_ ?_; (on_goal 2 => clear_value y; intro _); (on_goal 1 => subst y))
    | (intro y; clear_value y)
    | (intro y; subst y)
    | intro _
    | lift_lets -underBinder
    | (with_reducible apply Claims.step (startProg_claims _))
    | (with_reducible apply Claims.step (Claims.of_within (setB_within _ _ _ _) (by decide)))
    | (with_reducible apply Claims.step (Claims.of_within (evt_within _ _ _ _) (by decide)))
    | (simp -zeta only [Claims.of_mk]; with_reducible refine Claims.upd (by with_reducible rfl) ?_ (by exact Nat.le_refl _))
    | with_reducible apply Claims.ite
    | with_reducible apply Claims.foldl
    | split

theorem ringLink_claims (p : Nat) (up : Bool) (s : State) : Claims s (ringLink p up s) := by
  unfold ringLink
  repeat' first
    | with_reducible apply Claims.refl
    | with_reducible assumption
    | (intro (y : DupSt); subst y)
    | (intro y; with_reducible refine Claims.cut y ?_ ?_; (on_goal 2 => clear_value y; intro _); (on_goal 1 => subst y))
    | (intro y; clear_value y)
    | (intro y; subst y)
    | intro _
    | lift_lets -underBinder
    | (with_reducible apply Claims.step (setCond_claims _ _ _))
    | (with_reducible apply Claims.step (Claims.of_within (setB_within _ _ _ _) (by decide)))
    | (with_reducible apply Claims.step (Claims.of_within (evt_within _ _ _ _) (by decide)))
    | (simp -zeta only [Claims.of_mk]; with_reducible refine Claims.upd (by with_reducible rfl) ?_ (by exact Nat.le_refl _))
    | with_reducible apply Claims.ite
    | with_reducible apply Claims.foldl
    | split

theorem busOff_claims (c : Nat) (s : State) : Claims s (busOff c s) := by
  unfold busOff
  repeat' first
    | with_reducible apply Claims.refl
    | with_reducible assumption
    | (intro (y : DupSt); subst y)
    | (intro y; with_reducible refine Claims.cut y ?_ ?_; (on_goal 2 => clear_value y; intro _); (on_goal 1 => subst y))
    | (intro y; clear_value y)
    | (intro y; subst y)
    | intro _
    | lift_lets -underBinder
    | (with_reducible apply Claims.step (Claims.of_within (evt_within _ _ _ _) (by decide)))
    | (with_reducible apply Claims.step (assertSrc_claims _ _))
    | (with_reducible apply Claims.step (Claims.of_within (endPending_within _ _ _) (by decide)))
    | (with_reducible apply Claims.step (Claims.of_within (putCan_within _ _ _) (by decide)))
    | (with_reducible apply Claims.step (Claims.of_within (setB_within _ _ _ _) (by decide)))
    | (with_reducible apply Claims.step (Claims.of_within (setF_within _ _ _ _ _) (by decide)))
    | (simp -zeta only [Claims.of_mk]; with_reducible refine Claims.upd (by with_reducible rfl) ?_ (by exact Nat.le_refl _))
    | with_reducible apply Claims.ite
    | with_reducible apply Claims.foldl
    | split

theorem dioFaults_claims (s : State) : Claims s (dioFaults s) := by
  unfold dioFaults
  repeat' first
    | with_reducible apply Claims.refl
    | with_reducible assumption
    | (intro (y : DupSt); subst y)
    | (intro y; with_reducible refine Claims.cut y ?_ ?_; (on_goal 2 => clear_value y; intro _); (on_goal 1 => subst y))
    | (intro y; clear_value y)
    | (intro y; subst y)
    | intro _
    | lift_lets -underBinder
    | (with_reducible apply Claims.step (Claims.of_within (setB_within _ _ _ _) (by decide)))
    | (with_reducible apply Claims.step (setCond_claims _ _ _))
    | (with_reducible apply Claims.step (Claims.of_within (setReg_within _ _ _) (by decide)))
    | (simp -zeta only [Claims.of_mk]; with_reducible refine Claims.upd (by with_reducible rfl) ?_ (by exact Nat.le_refl _))
    | with_reducible apply Claims.ite
    | with_reducible apply Claims.foldl
    | split

theorem dioLatch_claims (s : State) : Claims s (dioLatch s) := by
  unfold dioLatch
  repeat' first
    | with_reducible apply Claims.refl
    | with_reducible assumption
    | (intro (y : DupSt); subst y)
    | (intro y; with_reducible refine Claims.cut y ?_ ?_; (on_goal 2 => clear_value y; intro _); (on_goal 1 => subst y))
    | (intro y; clear_value y)
    | (intro y; subst y)
    | intro _
    | lift_lets -underBinder
    | (with_reducible apply Claims.step (Claims.of_within (publishArea_within _ _ _ _) (by decide)))
    | (with_reducible apply Claims.step (Claims.of_within (dioRearm_within _ _ _) (by decide)))
    | (with_reducible apply Claims.step (dioFaults_claims _))
    | (simp -zeta only [Claims.of_mk]; with_reducible refine Claims.upd (by with_reducible rfl) ?_ (by exact Nat.le_refl _))
    | with_reducible apply Claims.ite
    | with_reducible apply Claims.foldl
    | split

theorem dioShutdown_claims (n : Nat) (s : State) : Claims s (dioShutdown n s) := by
  unfold dioShutdown
  repeat' first
    | with_reducible apply Claims.refl
    | with_reducible assumption
    | (intro (y : DupSt); subst y)
    | (intro y; with_reducible refine Claims.cut y ?_ ?_; (on_goal 2 => clear_value y; intro _); (on_goal 1 => subst y))
    | (intro y; clear_value y)
    | (intro y; subst y)
    | intro _
    | lift_lets -underBinder
    | (with_reducible apply Claims.step (Claims.of_within (putDio_within _ _) (by decide)))
    | (with_reducible apply Claims.step (Claims.of_within (pmcAdd_within _ _ _) (by decide)))
    | (with_reducible apply Claims.step (dioFaults_claims _))
    | (simp -zeta only [Claims.of_mk]; with_reducible refine Claims.upd (by with_reducible rfl) ?_ (by exact Nat.le_refl _))
    | with_reducible apply Claims.ite
    | with_reducible apply Claims.foldl
    | split

theorem dioReadback_claims (n : Nat) (holds : Bool) (s : State) : Claims s (dioReadback n holds s) := by
  unfold dioReadback
  repeat' first
    | with_reducible apply Claims.refl
    | with_reducible assumption
    | (intro (y : DupSt); subst y)
    | (intro y; with_reducible refine Claims.cut y ?_ ?_; (on_goal 2 => clear_value y; intro _); (on_goal 1 => subst y))
    | (intro y; clear_value y)
    | (intro y; subst y)
    | intro _
    | lift_lets -underBinder
    | (with_reducible apply Claims.step (Claims.of_within (putDio_within _ _) (by decide)))
    | (with_reducible apply Claims.step (dioFaults_claims _))
    | (with_reducible apply Claims.step (Claims.of_within (pmcAdd_within _ _ _) (by decide)))
    | (simp -zeta only [Claims.of_mk]; with_reducible refine Claims.upd (by with_reducible rfl) ?_ (by exact Nat.le_refl _))
    | with_reducible apply Claims.ite
    | with_reducible apply Claims.foldl
    | split

theorem logicSilence_claims (s : State) : Claims s (logicSilence s) := by
  unfold logicSilence
  repeat' first
    | with_reducible apply Claims.refl
    | with_reducible assumption
    | (intro (y : DupSt); subst y)
    | (intro y; with_reducible refine Claims.cut y ?_ ?_; (on_goal 2 => clear_value y; intro _); (on_goal 1 => subst y))
    | (intro y; clear_value y)
    | (intro y; subst y)
    | intro _
    | lift_lets -underBinder
    | (with_reducible apply Claims.step (Claims.of_within (putDio_within _ _) (by decide)))
    | (with_reducible apply Claims.step (Claims.of_within (setB_within _ _ _ _) (by decide)))
    | (with_reducible apply Claims.step (Claims.of_within (incReg_within _ _ _) (by decide)))
    | (with_reducible apply Claims.step (Claims.of_within (pmcAdd_within _ _ _) (by decide)))
    | (with_reducible apply Claims.step (dioFaults_claims _))
    | (simp -zeta only [Claims.of_mk]; with_reducible refine Claims.upd (by with_reducible rfl) ?_ (by exact Nat.le_refl _))
    | with_reducible apply Claims.ite
    | with_reducible apply Claims.foldl
    | split

theorem silenceEnd_claims (s : State) : Claims s (silenceEnd s) := by
  unfold silenceEnd
  repeat' first
    | with_reducible apply Claims.refl
    | with_reducible assumption
    | (intro (y : DupSt); subst y)
    | (intro y; with_reducible refine Claims.cut y ?_ ?_; (on_goal 2 => clear_value y; intro _); (on_goal 1 => subst y))
    | (intro y; clear_value y)
    | (intro y; subst y)
    | intro _
    | lift_lets -underBinder
    | (with_reducible apply Claims.step (Claims.of_within (setB_within _ _ _ _) (by decide)))
    | (with_reducible apply Claims.step (dioFaults_claims _))
    | (simp -zeta only [Claims.of_mk]; with_reducible refine Claims.upd (by with_reducible rfl) ?_ (by exact Nat.le_refl _))
    | with_reducible apply Claims.ite
    | with_reducible apply Claims.foldl
    | split

theorem groupSupply_claims (g : Nat) (missing : Bool) (s : State) : Claims s (groupSupply g missing s) := by
  unfold groupSupply
  repeat' first
    | with_reducible apply Claims.refl
    | with_reducible assumption
    | (intro (y : DupSt); subst y)
    | (intro y; with_reducible refine Claims.cut y ?_ ?_; (on_goal 2 => clear_value y; intro _); (on_goal 1 => subst y))
    | (intro y; clear_value y)
    | (intro y; subst y)
    | intro _
    | lift_lets -underBinder
    | (with_reducible apply Claims.step (setCond_claims _ _ _))
    | (with_reducible apply Claims.step (dioFaults_claims _))
    | (with_reducible apply Claims.step (Claims.of_within (setB_within _ _ _ _) (by decide)))
    | (with_reducible apply Claims.step (Claims.of_within (dioEdge_within _ _ _) (by decide)))
    | (simp -zeta only [Claims.of_mk]; with_reducible refine Claims.upd (by with_reducible rfl) ?_ (by exact Nat.le_refl _))
    | with_reducible apply Claims.ite
    | with_reducible apply Claims.foldl
    | split

theorem islandFault_claims (s : State) (n : Nat) : Claims s (islandFault s n) := by
  unfold islandFault
  repeat' first
    | with_reducible apply Claims.refl
    | with_reducible assumption
    | (intro (y : DupSt); subst y)
    | (intro y; with_reducible refine Claims.cut y ?_ ?_; (on_goal 2 => clear_value y; intro _); (on_goal 1 => subst y))
    | (intro y; clear_value y)
    | (intro y; subst y)
    | intro _
    | lift_lets -underBinder
    | (with_reducible apply Claims.step (assertSrc_claims _ _))
    | (with_reducible apply Claims.step (Claims.of_within (emit_within _ _) (by decide)))
    | (simp -zeta only [Claims.of_mk]; with_reducible refine Claims.upd (by with_reducible rfl) ?_ (by exact Nat.le_refl _))
    | with_reducible apply Claims.ite
    | with_reducible apply Claims.foldl
    | split

theorem clockFault_claims (n : Nat) (s : State) : Claims s (clockFault n s) := by
  unfold clockFault
  repeat' first
    | with_reducible apply Claims.refl
    | with_reducible assumption
    | (intro (y : DupSt); subst y)
    | (intro y; with_reducible refine Claims.cut y ?_ ?_; (on_goal 2 => clear_value y; intro _); (on_goal 1 => subst y))
    | (intro y; clear_value y)
    | (intro y; subst y)
    | intro _
    | lift_lets -underBinder
    | (with_reducible apply Claims.step (islandFault_claims _ _))
    | (simp -zeta only [Claims.of_mk]; with_reducible refine Claims.upd (by with_reducible rfl) ?_ (by exact Nat.le_refl _))
    | with_reducible apply Claims.ite
    | with_reducible apply Claims.foldl
    | split

theorem lockstepMismatch_claims (n : Nat) (s : State) : Claims s (lockstepMismatch n s) := by
  unfold lockstepMismatch
  repeat' first
    | with_reducible apply Claims.refl
    | with_reducible assumption
    | (intro (y : DupSt); subst y)
    | (intro y; with_reducible refine Claims.cut y ?_ ?_; (on_goal 2 => clear_value y; intro _); (on_goal 1 => subst y))
    | (intro y; clear_value y)
    | (intro y; subst y)
    | intro _
    | lift_lets -underBinder
    | (with_reducible apply Claims.step (raise_claims _ _))
    | (simp -zeta only [Claims.of_mk]; with_reducible refine Claims.upd (by with_reducible rfl) ?_ (by exact Nat.le_refl _))
    | with_reducible apply Claims.ite
    | with_reducible apply Claims.foldl
    | split

theorem memoryEccError_claims (n : Nat) (s : State) : Claims s (memoryEccError n s) := by
  unfold memoryEccError
  repeat' first
    | with_reducible apply Claims.refl
    | with_reducible assumption
    | (intro (y : DupSt); subst y)
    | (intro y; with_reducible refine Claims.cut y ?_ ?_; (on_goal 2 => clear_value y; intro _); (on_goal 1 => subst y))
    | (intro y; clear_value y)
    | (intro y; subst y)
    | intro _
    | lift_lets -underBinder
    | (with_reducible apply Claims.step (raise_claims _ _))
    | (simp -zeta only [Claims.of_mk]; with_reducible refine Claims.upd (by with_reducible rfl) ?_ (by exact Nat.le_refl _))
    | with_reducible apply Claims.ite
    | with_reducible apply Claims.foldl
    | split

theorem islandGood_claims (s : State) (n : Nat) : Claims s (islandGood s n) := by
  unfold islandGood
  repeat' first
    | with_reducible apply Claims.refl
    | with_reducible assumption
    | (intro (y : DupSt); subst y)
    | (intro y; with_reducible refine Claims.cut y ?_ ?_; (on_goal 2 => clear_value y; intro _); (on_goal 1 => subst y))
    | (intro y; clear_value y)
    | (intro y; subst y)
    | intro _
    | lift_lets -underBinder
    | (with_reducible apply Claims.step (assertSrc_claims _ _))
    | (with_reducible apply Claims.step (Claims.of_within (endCond_within _ _) (by decide)))
    | (simp -zeta only [Claims.of_mk]; with_reducible refine Claims.upd (by with_reducible rfl) ?_ (by exact Nat.le_refl _))
    | with_reducible apply Claims.ite
    | with_reducible apply Claims.foldl
    | split

theorem levelConditionEnd_claims (n : Nat) (s : State) : Claims s (levelConditionEnd n s) := by
  unfold levelConditionEnd
  repeat' first
    | with_reducible apply Claims.refl
    | with_reducible assumption
    | (intro (y : DupSt); subst y)
    | (intro y; with_reducible refine Claims.cut y ?_ ?_; (on_goal 2 => clear_value y; intro _); (on_goal 1 => subst y))
    | (intro y; clear_value y)
    | (intro y; subst y)
    | intro _
    | lift_lets -underBinder
    | (with_reducible apply Claims.step (islandGood_claims _ _))
    | (simp -zeta only [Claims.of_mk]; with_reducible refine Claims.upd (by with_reducible rfl) ?_ (by exact Nat.le_refl _))
    | with_reducible apply Claims.ite
    | with_reducible apply Claims.foldl
    | split

theorem fcoForce_claims (v : Word) (s : State) : Claims s (fcoForce v s) := by
  unfold fcoForce
  repeat' first
    | with_reducible apply Claims.refl
    | with_reducible assumption
    | (intro (y : DupSt); subst y)
    | (intro y; with_reducible refine Claims.cut y ?_ ?_; (on_goal 2 => clear_value y; intro _); (on_goal 1 => subst y))
    | (intro y; clear_value y)
    | (intro y; subst y)
    | intro _
    | lift_lets -underBinder
    | (with_reducible apply Claims.step (occur_claims _ _ _ _))
    | (with_reducible apply Claims.step (Claims.of_within (writeIgnored_within _ _ _) (by decide)))
    | (simp -zeta only [Claims.of_mk]; with_reducible refine Claims.upd (by with_reducible rfl) ?_ (by exact Nat.le_refl _))
    | with_reducible apply Claims.ite
    | with_reducible apply Claims.foldl
    | split

theorem fcoIntegrityScan_claims (r : ScanResult) (s : State) : Claims s (fcoIntegrityScan r s) := by
  unfold fcoIntegrityScan
  repeat' first
    | with_reducible apply Claims.refl
    | with_reducible assumption
    | (intro (y : DupSt); subst y)
    | (intro y; with_reducible refine Claims.cut y ?_ ?_; (on_goal 2 => clear_value y; intro _); (on_goal 1 => subst y))
    | (intro y; clear_value y)
    | (intro y; subst y)
    | intro _
    | lift_lets -underBinder
    | (with_reducible apply Claims.step (occur_claims _ _ _ _))
    | (simp -zeta only [Claims.of_mk]; with_reducible refine Claims.upd (by with_reducible rfl) ?_ (by exact Nat.le_refl _))
    | with_reducible apply Claims.ite
    | with_reducible apply Claims.foldl
    | split

theorem modelArm_claims (revert : Bool) (r : Req) (structSig : BitVec 64) (paramSig : BitVec 64) (target : Nat) (s : State) : Claims s (modelArm revert r structSig paramSig target s) := by
  unfold modelArm
  repeat' first
    | with_reducible apply Claims.refl
    | with_reducible assumption
    | (intro (y : DupSt); subst y)
    | (intro y; with_reducible refine Claims.cut y ?_ ?_; (on_goal 2 => clear_value y; intro _); (on_goal 1 => subst y))
    | (intro y; clear_value y)
    | (intro y; subst y)
    | intro _
    | lift_lets -underBinder
    | (with_reducible apply Claims.step (Claims.of_within (applyArm_within _ _ _) (by decide)))
    | (with_reducible apply viaPeer_claims)
    | (with_reducible apply Claims.step (Claims.of_within (evt_within _ _ _ _) (by decide)))
    | (with_reducible apply Claims.step (Claims.of_within (finish_within _ _ _ _) (by decide)))
    | (simp -zeta only [Claims.of_mk]; with_reducible refine Claims.upd (by with_reducible rfl) ?_ (by exact Nat.le_refl _))
    | with_reducible apply Claims.ite
    | with_reducible apply Claims.foldl
    | split

theorem armOp_claims (revert : Bool) (op : Nat) (r : Req) (s : State) : Claims s (armOp revert op r s) := by
  unfold armOp
  repeat' first
    | with_reducible apply Claims.refl
    | with_reducible assumption
    | (intro (y : DupSt); subst y)
    | (intro y; with_reducible refine Claims.cut y ?_ ?_; (on_goal 2 => clear_value y; intro _); (on_goal 1 => subst y))
    | (intro y; clear_value y)
    | (intro y; subst y)
    | intro _
    | lift_lets -underBinder
    | (with_reducible apply Claims.step (modelArm_claims _ _ _ _ _ _))
    | (with_reducible apply inlineOp_claims)
    | (simp -zeta only [Claims.of_mk]; with_reducible refine Claims.upd (by with_reducible rfl) ?_ (by exact Nat.le_refl _))
    | with_reducible apply Claims.ite
    | with_reducible apply Claims.foldl
    | split

theorem modelDisarm_claims (r : Req) (structSig : BitVec 64) (rest : Nat) (s : State) : Claims s (modelDisarm r structSig rest s) := by
  unfold modelDisarm
  repeat' first
    | with_reducible apply Claims.refl
    | with_reducible assumption
    | (intro (y : DupSt); subst y)
    | (intro y; with_reducible refine Claims.cut y ?_ ?_; (on_goal 2 => clear_value y; intro _); (on_goal 1 => subst y))
    | (intro y; clear_value y)
    | (intro y; subst y)
    | intro _
    | lift_lets -underBinder
    | (with_reducible apply Claims.step (Claims.of_within (applyDisarm_within _) (by decide)))
    | (with_reducible apply viaPeer_claims)
    | (with_reducible apply Claims.step (Claims.of_within (finish_within _ _ _ _) (by decide)))
    | (simp -zeta only [Claims.of_mk]; with_reducible refine Claims.upd (by with_reducible rfl) ?_ (by exact Nat.le_refl _))
    | with_reducible apply Claims.ite
    | with_reducible apply Claims.foldl
    | split

theorem updManifest_claims (r : Req) (share : Bool) (m : Manifest) (s : State) : Claims s (updManifest r share m s) := by
  unfold updManifest
  repeat' first
    | with_reducible apply Claims.refl
    | with_reducible assumption
    | (intro (y : DupSt); subst y)
    | (intro y; with_reducible refine Claims.cut y ?_ ?_; (on_goal 2 => clear_value y; intro _); (on_goal 1 => subst y))
    | (intro y; clear_value y)
    | (intro y; subst y)
    | intro _
    | lift_lets -underBinder
    | (with_reducible apply Claims.step (Claims.of_within (applyManifest_within _ _ _) (by decide)))
    | (with_reducible apply viaPeer_claims)
    | (with_reducible apply Claims.step (Claims.of_within (updEnd_within _ _ _ _ _) (by decide)))
    | (simp -zeta only [Claims.of_mk]; with_reducible refine Claims.upd (by with_reducible rfl) ?_ (by exact Nat.le_refl _))
    | with_reducible apply Claims.ite
    | with_reducible apply Claims.foldl
    | split

theorem writtenCheck_claims (s : State) : Claims s (writtenCheck s) := by
  unfold writtenCheck
  repeat' first
    | with_reducible apply Claims.refl
    | with_reducible assumption
    | (intro (y : DupSt); subst y)
    | (intro y; with_reducible refine Claims.cut y ?_ ?_; (on_goal 2 => clear_value y; intro _); (on_goal 1 => subst y))
    | (intro y; clear_value y)
    | (intro y; subst y)
    | intro _
    | lift_lets -underBinder
    | (with_reducible apply Claims.step (beginModReset_claims _ _ _ _))
    | (with_reducible apply Claims.step (Claims.of_within (updSet_within _ _) (by decide)))
    | (simp -zeta only [Claims.of_mk]; with_reducible refine Claims.upd (by with_reducible rfl) ?_ (by exact Nat.le_refl _))
    | with_reducible apply Claims.ite
    | with_reducible apply Claims.foldl
    | split

theorem placeSet_claims (m : Manifest) (s : State) : Claims s (placeSet m s) := by
  unfold placeSet
  repeat' first
    | with_reducible apply Claims.refl
    | with_reducible assumption
    | (intro (y : DupSt); subst y)
    | (intro y; with_reducible refine Claims.cut y ?_ ?_; (on_goal 2 => clear_value y; intro _); (on_goal 1 => subst y))
    | (intro y; clear_value y)
    | (intro y; subst y)
    | intro _
    | lift_lets -underBinder
    | (with_reducible apply Claims.step (writtenCheck_claims _))
    | (with_reducible apply Claims.step (Claims.of_within (updSet_within _ _) (by decide)))
    | (with_reducible apply Claims.step (Claims.of_within (stageModel_within _ _) (by decide)))
    | (simp -zeta only [Claims.of_mk]; with_reducible refine Claims.upd (by with_reducible rfl) ?_ (by exact Nat.le_refl _))
    | with_reducible apply Claims.ite
    | with_reducible apply Claims.foldl
    | split

theorem applyBlock_claims (comp : Nat) (block : Nat) (data : BlockData) (s : State) : Claims s (applyBlock comp block data s) := by
  unfold applyBlock
  repeat' first
    | with_reducible apply Claims.refl
    | with_reducible assumption
    | (intro (y : DupSt); subst y)
    | (intro y; with_reducible refine Claims.cut y ?_ ?_; (on_goal 2 => clear_value y; intro _); (on_goal 1 => subst y))
    | (intro y; clear_value y)
    | (intro y; subst y)
    | intro _
    | lift_lets -underBinder
    | (with_reducible apply Claims.step (placeSet_claims _ _))
    | (with_reducible apply Claims.step (Claims.of_within (holdBlock_within _ _ _ _) (by decide)))
    | (simp -zeta only [Claims.of_mk]; with_reducible refine Claims.upd (by with_reducible rfl) ?_ (by exact Nat.le_refl _))
    | with_reducible apply Claims.ite
    | with_reducible apply Claims.foldl
    | split

theorem updBlock_claims (r : Req) (comp : Nat) (block : Nat) (sum : BitVec 128) (data : BlockData) (len : Nat) (s : State) : Claims s (updBlock r comp block sum data len s) := by
  unfold updBlock
  repeat' first
    | with_reducible apply Claims.refl
    | with_reducible assumption
    | (intro (y : DupSt); subst y)
    | (intro y; with_reducible refine Claims.cut y ?_ ?_; (on_goal 2 => clear_value y; intro _); (on_goal 1 => subst y))
    | (intro y; clear_value y)
    | (intro y; subst y)
    | intro _
    | lift_lets -underBinder
    | (with_reducible apply Claims.step (applyBlock_claims _ _ _ _))
    | (with_reducible apply viaPeer_claims)
    | (with_reducible apply Claims.step (Claims.of_within (evt_within _ _ _ _) (by decide)))
    | (with_reducible apply Claims.step (Claims.of_within (dropSet_within _) (by decide)))
    | (with_reducible apply Claims.step (Claims.of_within (updEnd_within _ _ _ _ _) (by decide)))
    | (simp -zeta only [Claims.of_mk]; with_reducible refine Claims.upd (by with_reducible rfl) ?_ (by exact Nat.le_refl _))
    | with_reducible apply Claims.ite
    | with_reducible apply Claims.foldl
    | split

theorem loaderWrite_claims (readOk : Bool) (s : State) : Claims s (loaderWrite readOk s) := by
  unfold loaderWrite
  repeat' first
    | with_reducible apply Claims.refl
    | with_reducible assumption
    | (intro (y : DupSt); subst y)
    | (intro y; with_reducible refine Claims.cut y ?_ ?_; (on_goal 2 => clear_value y; intro _); (on_goal 1 => subst y))
    | (intro y; clear_value y)
    | (intro y; subst y)
    | intro _
    | lift_lets -underBinder
    | (with_reducible apply Claims.step (Claims.of_within (endWriting_within _) (by decide)))
    | (with_reducible apply Claims.step (writtenCheck_claims _))
    | (with_reducible apply Claims.step (Claims.of_within (pmcAdd_within _ _ _) (by decide)))
    | (with_reducible apply Claims.step (Claims.of_within (updSet_within _ _) (by decide)))
    | (simp -zeta only [Claims.of_mk]; with_reducible refine Claims.upd (by with_reducible rfl) ?_ (by exact Nat.le_refl _))
    | with_reducible apply Claims.ite
    | with_reducible apply Claims.foldl
    | split

theorem updRoundClose_claims (s : State) : Claims s (updRoundClose s) := by
  unfold updRoundClose
  repeat' first
    | with_reducible apply Claims.refl
    | with_reducible assumption
    | (intro (y : DupSt); subst y)
    | (intro y; with_reducible refine Claims.cut y ?_ ?_; (on_goal 2 => clear_value y; intro _); (on_goal 1 => subst y))
    | (intro y; clear_value y)
    | (intro y; subst y)
    | intro _
    | lift_lets -underBinder
    | (with_reducible apply Claims.step (beginModReset_claims _ _ _ _))
    | (simp -zeta only [Claims.of_mk]; with_reducible refine Claims.upd (by with_reducible rfl) ?_ (by exact Nat.le_refl _))
    | with_reducible apply Claims.ite
    | with_reducible apply Claims.foldl
    | split

theorem activateCfg_claims (r : Req) (target : Nat) (s : State) : Claims s (activateCfg r target s) := by
  unfold activateCfg
  repeat' first
    | with_reducible apply Claims.refl
    | with_reducible assumption
    | (intro (y : DupSt); subst y)
    | (intro y; with_reducible refine Claims.cut y ?_ ?_; (on_goal 2 => clear_value y; intro _); (on_goal 1 => subst y))
    | (intro y; clear_value y)
    | (intro y; subst y)
    | intro _
    | lift_lets -underBinder
    | (with_reducible apply Claims.step (Claims.of_within (applyActivateCfg_within _ _) (by decide)))
    | (with_reducible apply viaPeer_claims)
    | (with_reducible apply Claims.step (Claims.of_within (updEnd_within _ _ _ _ _) (by decide)))
    | (simp -zeta only [Claims.of_mk]; with_reducible refine Claims.upd (by with_reducible rfl) ?_ (by exact Nat.le_refl _))
    | with_reducible apply Claims.ite
    | with_reducible apply Claims.foldl
    | split

theorem fallback_claims (why : Nat) (s : State) : Claims s (fallback why s) := by
  unfold fallback
  repeat' first
    | with_reducible apply Claims.refl
    | with_reducible assumption
    | (intro (y : DupSt); subst y)
    | (intro y; with_reducible refine Claims.cut y ?_ ?_; (on_goal 2 => clear_value y; intro _); (on_goal 1 => subst y))
    | (intro y; clear_value y)
    | (intro y; subst y)
    | intro _
    | lift_lets -underBinder
    | (with_reducible apply Claims.step (Claims.of_within (updSet_within _ _) (by decide)))
    | (with_reducible apply Claims.step (beginModReset_claims _ _ _ _))
    | (simp -zeta only [Claims.of_mk]; with_reducible refine Claims.upd (by with_reducible rfl) ?_ (by exact Nat.le_refl _))
    | with_reducible apply Claims.ite
    | with_reducible apply Claims.foldl
    | split

theorem updFallback_claims (r : Req) (p : Nat) (s : State) : Claims s (updFallback r p s) := by
  unfold updFallback
  repeat' first
    | with_reducible apply Claims.refl
    | with_reducible assumption
    | (intro (y : DupSt); subst y)
    | (intro y; with_reducible refine Claims.cut y ?_ ?_; (on_goal 2 => clear_value y; intro _); (on_goal 1 => subst y))
    | (intro y; clear_value y)
    | (intro y; subst y)
    | intro _
    | lift_lets -underBinder
    | (with_reducible apply Claims.step (fallback_claims _ _))
    | (with_reducible apply Claims.step (Claims.of_within (updEnd_within _ _ _ _ _) (by decide)))
    | (simp -zeta only [Claims.of_mk]; with_reducible refine Claims.upd (by with_reducible rfl) ?_ (by exact Nat.le_refl _))
    | with_reducible apply Claims.ite
    | with_reducible apply Claims.foldl
    | split

theorem stage5Timeout_claims (s : State) : Claims s (stage5Timeout s) := by
  unfold stage5Timeout
  repeat' first
    | with_reducible apply Claims.refl
    | with_reducible assumption
    | (intro (y : DupSt); subst y)
    | (intro y; with_reducible refine Claims.cut y ?_ ?_; (on_goal 2 => clear_value y; intro _); (on_goal 1 => subst y))
    | (intro y; clear_value y)
    | (intro y; subst y)
    | intro _
    | lift_lets -underBinder
    | (with_reducible apply Claims.step (fallback_claims _ _))
    | (simp -zeta only [Claims.of_mk]; with_reducible refine Claims.upd (by with_reducible rfl) ?_ (by exact Nat.le_refl _))
    | with_reducible apply Claims.ite
    | with_reducible apply Claims.foldl
    | split

theorem syncTmoExpiry_claims (s : State) : Claims s (syncTmoExpiry s) := by
  unfold syncTmoExpiry
  repeat' first
    | with_reducible apply Claims.refl
    | with_reducible assumption
    | (intro (y : DupSt); subst y)
    | (intro y; with_reducible refine Claims.cut y ?_ ?_; (on_goal 2 => clear_value y; intro _); (on_goal 1 => subst y))
    | (intro y; clear_value y)
    | (intro y; subst y)
    | intro _
    | lift_lets -underBinder
    | (with_reducible apply Claims.step (fallback_claims _ _))
    | (simp -zeta only [Claims.of_mk]; with_reducible refine Claims.upd (by with_reducible rfl) ?_ (by exact Nat.le_refl _))
    | with_reducible apply Claims.ite
    | with_reducible apply Claims.foldl
    | split

theorem newClaim_claims (s : State) : Claims s (newClaim s) := by
  unfold newClaim Claims dupSet highClaim
  dsimp only
  omega

theorem noteSwitch_claims (s : State) : Claims s (noteSwitch s) := by
  unfold noteSwitch
  repeat' first
    | with_reducible apply Claims.refl
    | with_reducible assumption
    | (intro (y : DupSt); subst y)
    | (intro y; with_reducible refine Claims.cut y ?_ ?_; (on_goal 2 => clear_value y; intro _); (on_goal 1 => subst y))
    | (intro y; clear_value y)
    | (intro y; subst y)
    | intro _
    | lift_lets -underBinder
    | (with_reducible apply Claims.step (Claims.of_within (incReg_within _ _ _) (by decide)))
    | (with_reducible apply Claims.step (Claims.of_within (setPair_within _ _ _) (by decide)))
    | (simp -zeta only [Claims.of_mk]; with_reducible refine Claims.upd (by with_reducible rfl) ?_ (by exact Nat.le_refl _))
    | with_reducible apply Claims.ite
    | with_reducible apply Claims.foldl
    | split

theorem takeControl_claims (withMor : Bool) (s : State) : Claims s (takeControl withMor s) := by
  unfold takeControl
  repeat' first
    | with_reducible apply Claims.refl
    | with_reducible assumption
    | (intro (y : DupSt); subst y)
    | (intro y; with_reducible refine Claims.cut y ?_ ?_; (on_goal 2 => clear_value y; intro _); (on_goal 1 => subst y))
    | (intro y; clear_value y)
    | (intro y; subst y)
    | intro _
    | lift_lets -underBinder
    | (with_reducible apply Claims.step (takeMor_claims _))
    | (with_reducible apply Claims.step (Claims.of_within (dispTakeControl_within _) (by decide)))
    | (with_reducible apply Claims.step (newClaim_claims _))
    | (with_reducible apply Claims.step (noteSwitch_claims _))
    | (with_reducible apply Claims.step (setRole_claims _ _))
    | (with_reducible apply Claims.step (assertSrc_claims _ _))
    | (with_reducible apply Claims.step (Claims.of_within (evt_within _ _ _ _) (by decide)))
    | ((with_reducible refine Claims.step (dupSet_claims _ _ ?_) ?_); (on_goal 1 => (intro y; first | exact Nat.le_refl _ | (dsimp only; split <;> exact Nat.le_refl _))))
    | (simp -zeta only [Claims.of_mk]; with_reducible refine Claims.upd (by with_reducible rfl) ?_ (by exact Nat.le_refl _))
    | with_reducible apply Claims.ite
    | with_reducible apply Claims.foldl
    | split

theorem takeSingle_claims (s : State) : Claims s (takeSingle s) := by
  unfold takeSingle
  repeat' first
    | with_reducible apply Claims.refl
    | with_reducible assumption
    | (intro (y : DupSt); subst y)
    | (intro y; with_reducible refine Claims.cut y ?_ ?_; (on_goal 2 => clear_value y; intro _); (on_goal 1 => subst y))
    | (intro y; clear_value y)
    | (intro y; subst y)
    | intro _
    | lift_lets -underBinder
    | (with_reducible apply Claims.step (takeMor_claims _))
    | (with_reducible apply Claims.step (newClaim_claims _))
    | (with_reducible apply Claims.step (noteSwitch_claims _))
    | (with_reducible apply Claims.step (setRole_claims _ _))
    | (with_reducible apply Claims.step (Claims.of_within (dispTakeControl_within _) (by decide)))
    | (with_reducible apply Claims.step (assertSrc_claims _ _))
    | (with_reducible apply Claims.step (Claims.of_within (evt_within _ _ _ _) (by decide)))
    | (simp -zeta only [Claims.of_mk]; with_reducible refine Claims.upd (by with_reducible rfl) ?_ (by exact Nat.le_refl _))
    | with_reducible apply Claims.ite
    | with_reducible apply Claims.foldl
    | split

theorem resync_claims (s : State) : Claims s (resync s) := by
  unfold resync
  repeat' first
    | with_reducible apply Claims.refl
    | with_reducible assumption
    | (intro (y : DupSt); subst y)
    | (intro y; with_reducible refine Claims.cut y ?_ ?_; (on_goal 2 => clear_value y; intro _); (on_goal 1 => subst y))
    | (intro y; clear_value y)
    | (intro y; subst y)
    | intro _
    | lift_lets -underBinder
    | (with_reducible apply Claims.step (setRole_claims _ _))
    | ((with_reducible refine Claims.step (dupSet_claims _ _ ?_) ?_); (on_goal 1 => (intro y; first | exact Nat.le_refl _ | (dsimp only; split <;> exact Nat.le_refl _))))
    | (simp -zeta only [Claims.of_mk]; with_reducible refine Claims.upd (by with_reducible rfl) ?_ (by exact Nat.le_refl _))
    | with_reducible apply Claims.ite
    | with_reducible apply Claims.foldl
    | split

theorem startupTake_claims (s : State) : Claims s (startupTake s) := by
  unfold startupTake
  repeat' first
    | with_reducible apply Claims.refl
    | with_reducible assumption
    | (intro (y : DupSt); subst y)
    | (intro y; with_reducible refine Claims.cut y ?_ ?_; (on_goal 2 => clear_value y; intro _); (on_goal 1 => subst y))
    | (intro y; clear_value y)
    | (intro y; subst y)
    | intro _
    | lift_lets -underBinder
    | (with_reducible apply Claims.step (sendPeer_claims _ _))
    | (with_reducible apply Claims.step (takeControl_claims _ _))
    | (with_reducible apply Claims.step (Claims.of_within (holdWrites_within _) (by decide)))
    | (with_reducible apply Claims.step (takeSingle_claims _))
    | ((with_reducible refine Claims.step (dupSet_claims _ _ ?_) ?_); (on_goal 1 => (intro y; first | exact Nat.le_refl _ | (dsimp only; split <;> exact Nat.le_refl _))))
    | (simp -zeta only [Claims.of_mk]; with_reducible refine Claims.upd (by with_reducible rfl) ?_ (by exact Nat.le_refl _))
    | with_reducible apply Claims.ite
    | with_reducible apply Claims.foldl
    | split

theorem accept_eclaims {h : PeerHdr} {s t : State} (e : accept h s = some t) : Claims s t := by
  unfold accept at e
  simp only [Option.ite_none_left_eq_some, Option.some.injEq] at e
  rw [← e.2.2.2.2]
  exact Claims.step (Claims.of_within (pmcAdd_within _ _ _) (by decide)) (dupSet_claims _ _ (fun _ => Nat.le_refl _))

theorem seePeer_claims (h : PeerHdr) (s : State) : Claims s (seePeer h s) := by
  unfold seePeer
  repeat' first
    | with_reducible apply Claims.refl
    | with_reducible assumption
    | (intro (y : DupSt); subst y)
    | (intro y; with_reducible refine Claims.cut y ?_ ?_; (on_goal 2 => clear_value y; intro _); (on_goal 1 => subst y))
    | (intro y; clear_value y)
    | (intro y; subst y)
    | intro _
    | lift_lets -underBinder
    | (with_reducible apply Claims.step (noteSwitch_claims _))
    | (with_reducible apply Claims.step (Claims.of_within (dupCause_within _ _) (by decide)))
    | (with_reducible apply Claims.step (Claims.of_within (setReg_within _ _ _) (by decide)))
    | ((with_reducible refine Claims.step (dupSet_claims _ _ ?_) ?_); (on_goal 1 => (intro y; first | exact Nat.le_refl _ | (dsimp only; split <;> exact Nat.le_refl _))))
    | (simp -zeta only [Claims.of_mk]; with_reducible refine Claims.upd (by with_reducible rfl) ?_ (by exact Nat.le_refl _))
    | with_reducible apply Claims.ite
    | with_reducible apply Claims.foldl
    | split

theorem endOps_claims (p : DupOp → Bool) (st : Nat) (dt : Nat) (s : State) : Claims s (endOps p st dt s) := by
  unfold endOps
  repeat' first
    | with_reducible apply Claims.refl
    | with_reducible assumption
    | (intro (y : DupSt); subst y)
    | (intro y; with_reducible refine Claims.cut y ?_ ?_; (on_goal 2 => clear_value y; intro _); (on_goal 1 => subst y))
    | (intro y; clear_value y)
    | (intro y; subst y)
    | intro _
    | lift_lets -underBinder
    | (with_reducible apply Claims.step (Claims.of_within (complete_within _ _ _ _ _ _) (by decide)))
    | ((with_reducible refine Claims.step (dupSet_claims _ _ ?_) ?_); (on_goal 1 => (intro y; first | exact Nat.le_refl _ | (dsimp only; split <;> exact Nat.le_refl _))))
    | (simp -zeta only [Claims.of_mk]; with_reducible refine Claims.upd (by with_reducible rfl) ?_ (by exact Nat.le_refl _))
    | with_reducible apply Claims.ite
    | with_reducible apply Claims.foldl
    | split

theorem followPeer_claims (before : Option PeerHdr) (h : PeerHdr) (s : State) : Claims s (followPeer before h s) := by
  unfold followPeer
  repeat' first
    | with_reducible apply Claims.refl
    | with_reducible assumption
    | (intro (y : DupSt); subst y)
    | (intro y; with_reducible refine Claims.cut y ?_ ?_; (on_goal 2 => clear_value y; intro _); (on_goal 1 => subst y))
    | (intro y; clear_value y)
    | (intro y; subst y)
    | intro _
    | lift_lets -underBinder
    | (with_reducible apply Claims.step (sendPeer_claims _ _))
    | (with_reducible apply Claims.step (resync_claims _))
    | (with_reducible apply Claims.step (endOps_claims _ _ _ _))
    | ((with_reducible refine Claims.step (dupSet_claims _ _ ?_) ?_); (on_goal 1 => (intro y; first | exact Nat.le_refl _ | (dsimp only; split <;> exact Nat.le_refl _))))
    | (simp -zeta only [Claims.of_mk]; with_reducible refine Claims.upd (by with_reducible rfl) ?_ (by exact Nat.le_refl _))
    | with_reducible apply Claims.ite
    | with_reducible apply Claims.foldl
    | split

theorem linkResolve_claims (h : PeerHdr) (s : State) : Claims s (linkResolve h s) := by
  unfold linkResolve
  repeat' first
    | with_reducible apply Claims.refl
    | with_reducible assumption
    | (intro (y : DupSt); subst y)
    | (intro y; with_reducible refine Claims.cut y ?_ ?_; (on_goal 2 => clear_value y; intro _); (on_goal 1 => subst y))
    | (intro y; clear_value y)
    | (intro y; subst y)
    | intro _
    | lift_lets -underBinder
    | (with_reducible apply Claims.step (setRole_claims _ _))
    | (with_reducible apply Claims.step (resync_claims _))
    | (with_reducible apply Claims.step (setMor_claims _ _))
    | ((with_reducible refine Claims.step (dupSet_claims _ _ ?_) ?_); (on_goal 1 => (intro y; first | exact Nat.le_refl _ | (dsimp only; split <;> exact Nat.le_refl _))))
    | (simp -zeta only [Claims.of_mk]; with_reducible refine Claims.upd (by with_reducible rfl) ?_ (by exact Nat.le_refl _))
    | with_reducible apply Claims.ite
    | with_reducible apply Claims.foldl
    | split

theorem heartbeat_claims (h : PeerHdr) (s : State) : Claims s (heartbeat h s) := by
  unfold heartbeat
  repeat' first
    | with_reducible apply Claims.refl
    | with_reducible assumption
    | (intro (y : DupSt); subst y)
    | (intro y; with_reducible refine Claims.cut y ?_ ?_; (on_goal 2 => clear_value y; intro _); (on_goal 1 => subst y))
    | (intro y; clear_value y)
    | (intro y; subst y)
    | intro _
    | lift_lets -underBinder
    | (with_reducible apply Claims.step (followPeer_claims _ _ _))
    | (with_reducible apply Claims.step (Claims.of_within (endCond_within _ _) (by decide)))
    | (with_reducible apply Claims.step (linkResolve_claims _ _))
    | (with_reducible apply Claims.step (seePeer_claims _ _))
    | (with_reducible apply Claims.step (accept_eclaims ‹accept _ _ = _›))
    | ((with_reducible refine Claims.step (dupSet_claims _ _ ?_) ?_); (on_goal 1 => (intro y; first | exact Nat.le_refl _ | (dsimp only; split <;> exact Nat.le_refl _))))
    | (simp -zeta only [Claims.of_mk]; with_reducible refine Claims.upd (by with_reducible rfl) ?_ (by exact Nat.le_refl _))
    | with_reducible apply Claims.ite
    | with_reducible apply Claims.foldl
    | split

theorem heartbeatTx_claims (s : State) : Claims s (heartbeatTx s) := by
  unfold heartbeatTx
  repeat' first
    | with_reducible apply Claims.refl
    | with_reducible assumption
    | (intro (y : DupSt); subst y)
    | (intro y; with_reducible refine Claims.cut y ?_ ?_; (on_goal 2 => clear_value y; intro _); (on_goal 1 => subst y))
    | (intro y; clear_value y)
    | (intro y; subst y)
    | intro _
    | lift_lets -underBinder
    | (with_reducible apply Claims.step (sendPeer_claims _ _))
    | ((with_reducible refine Claims.step (dupSet_claims _ _ ?_) ?_); (on_goal 1 => (intro y; first | exact Nat.le_refl _ | (dsimp only; split <;> exact Nat.le_refl _))))
    | (simp -zeta only [Claims.of_mk]; with_reducible refine Claims.upd (by with_reducible rfl) ?_ (by exact Nat.le_refl _))
    | with_reducible apply Claims.ite
    | with_reducible apply Claims.foldl
    | split

theorem linkLost_claims (s : State) : Claims s (linkLost s) := by
  unfold linkLost
  repeat' first
    | with_reducible apply Claims.refl
    | with_reducible assumption
    | (intro (y : DupSt); subst y)
    | (intro y; with_reducible refine Claims.cut y ?_ ?_; (on_goal 2 => clear_value y; intro _); (on_goal 1 => subst y))
    | (intro y; clear_value y)
    | (intro y; subst y)
    | intro _
    | lift_lets -underBinder
    | (with_reducible apply Claims.step (assertSrc_claims _ _))
    | (with_reducible apply Claims.step (Claims.of_within (freeWaiting_within _) (by decide)))
    | (with_reducible apply Claims.step (Claims.of_within (incReg_within _ _ _) (by decide)))
    | (with_reducible apply Claims.step (Claims.of_within (dupCause_within _ _) (by decide)))
    | ((with_reducible refine Claims.step (dupSet_claims _ _ ?_) ?_); (on_goal 1 => (intro y; first | exact Nat.le_refl _ | (dsimp only; split <;> exact Nat.le_refl _))))
    | (simp -zeta only [Claims.of_mk]; with_reducible refine Claims.upd (by with_reducible rfl) ?_ (by exact Nat.le_refl _))
    | with_reducible apply Claims.ite
    | with_reducible apply Claims.foldl
    | split

theorem linkSilence_claims (s : State) : Claims s (linkSilence s) := by
  unfold linkSilence
  repeat' first
    | with_reducible apply Claims.refl
    | with_reducible assumption
    | (intro (y : DupSt); subst y)
    | (intro y; with_reducible refine Claims.cut y ?_ ?_; (on_goal 2 => clear_value y; intro _); (on_goal 1 => subst y))
    | (intro y; clear_value y)
    | (intro y; subst y)
    | intro _
    | lift_lets -underBinder
    | (with_reducible apply Claims.step (linkLost_claims _))
    | (simp -zeta only [Claims.of_mk]; with_reducible refine Claims.upd (by with_reducible rfl) ?_ (by exact Nat.le_refl _))
    | with_reducible apply Claims.ite
    | with_reducible apply Claims.foldl
    | split

theorem ackMsg_claims (h : PeerHdr) (s : State) : Claims s (ackMsg h s) := by
  unfold ackMsg
  repeat' first
    | with_reducible apply Claims.refl
    | with_reducible assumption
    | (intro (y : DupSt); subst y)
    | (intro y; with_reducible refine Claims.cut y ?_ ?_; (on_goal 2 => clear_value y; intro _); (on_goal 1 => subst y))
    | (intro y; clear_value y)
    | (intro y; subst y)
    | intro _
    | lift_lets -underBinder
    | (with_reducible apply Claims.step (sendPeer_claims _ _))
    | (simp -zeta only [Claims.of_mk]; with_reducible refine Claims.upd (by with_reducible rfl) ?_ (by exact Nat.le_refl _))
    | with_reducible apply Claims.ite
    | with_reducible apply Claims.foldl
    | split

theorem peerAck_claims (q : Nat) (s : State) : Claims s (peerAck q s) := by
  unfold peerAck
  repeat' first
    | with_reducible apply Claims.refl
    | with_reducible assumption
    | (intro (y : DupSt); subst y)
    | (intro y; with_reducible refine Claims.cut y ?_ ?_; (on_goal 2 => clear_value y; intro _); (on_goal 1 => subst y))
    | (intro y; clear_value y)
    | (intro y; subst y)
    | intro _
    | lift_lets -underBinder
    | (with_reducible apply Claims.step (endOps_claims _ _ _ _))
    | (with_reducible apply Claims.step (setMor_claims _ _))
    | (with_reducible apply Claims.step (Claims.of_within (pumpStreams_within _) (by decide)))
    | ((with_reducible refine Claims.step (dupSet_claims _ _ ?_) ?_); (on_goal 1 => (intro y; first | exact Nat.le_refl _ | (dsimp only; split <;> exact Nat.le_refl _))))
    | (simp -zeta only [Claims.of_mk]; with_reducible refine Claims.upd (by with_reducible rfl) ?_ (by exact Nat.le_refl _))
    | with_reducible apply Claims.ite
    | with_reducible apply Claims.foldl
    | split

theorem peerResend_claims (q : Nat) (s : State) : Claims s (peerResend q s) := by
  unfold peerResend
  repeat' first
    | with_reducible apply Claims.refl
    | with_reducible assumption
    | (intro (y : DupSt); subst y)
    | (intro y; with_reducible refine Claims.cut y ?_ ?_; (on_goal 2 => clear_value y; intro _); (on_goal 1 => subst y))
    | (intro y; clear_value y)
    | (intro y; subst y)
    | intro _
    | lift_lets -underBinder
    | (with_reducible apply Claims.step (Claims.of_within (emit_within _ _) (by decide)))
    | (with_reducible apply Claims.step (linkLost_claims _))
    | ((with_reducible refine Claims.step (dupSet_claims _ _ ?_) ?_); (on_goal 1 => (intro y; first | exact Nat.le_refl _ | (dsimp only; split <;> exact Nat.le_refl _))))
    | (simp -zeta only [Claims.of_mk]; with_reducible refine Claims.upd (by with_reducible rfl) ?_ (by exact Nat.le_refl _))
    | with_reducible apply Claims.ite
    | with_reducible apply Claims.foldl
    | split

theorem onMessage_claims {s u : State} {acked : Bool} {h : PeerHdr} {f : State → State}
    (ha : ∀ t, Claims s t → Claims s (f t)) (k : Claims s u) : Claims s (onMessage acked h f u) := by
  unfold onMessage
  split
  · next t e _ =>
    refine ha _ ?_
    have a : Claims s (seePeer h t) := Claims.step (seePeer_claims _ _) (k.trans (accept_eclaims e))
    split
    · exact Claims.step (ackMsg_claims _ _) a
    · exact a
  · exact k

theorem resignMsg_claims (h : PeerHdr) (cause : Nat) (s : State) : Claims s (resignMsg h cause s) := by
  unfold resignMsg
  repeat' first
    | with_reducible apply Claims.refl
    | with_reducible assumption
    | (intro (y : DupSt); subst y)
    | (intro y; with_reducible refine Claims.cut y ?_ ?_; (on_goal 2 => clear_value y; intro _); (on_goal 1 => subst y))
    | (intro y; clear_value y)
    | (intro y; subst y)
    | intro _
    | lift_lets -underBinder
    | (with_reducible apply Claims.step (takeControl_claims _ _))
    | (with_reducible apply onMessage_claims)
    | (simp -zeta only [Claims.of_mk]; with_reducible refine Claims.upd (by with_reducible rfl) ?_ (by exact Nat.le_refl _))
    | with_reducible apply Claims.ite
    | with_reducible apply Claims.foldl
    | split

theorem takeMsg_claims (h : PeerHdr) (s : State) : Claims s (takeMsg h s) := by
  unfold takeMsg
  repeat' first
    | with_reducible apply Claims.refl
    | with_reducible assumption
    | (intro (y : DupSt); subst y)
    | (intro y; with_reducible refine Claims.cut y ?_ ?_; (on_goal 2 => clear_value y; intro _); (on_goal 1 => subst y))
    | (intro y; clear_value y)
    | (intro y; subst y)
    | intro _
    | lift_lets -underBinder
    | (with_reducible apply Claims.step (resync_claims _))
    | (with_reducible apply onMessage_claims)
    | (simp -zeta only [Claims.of_mk]; with_reducible refine Claims.upd (by with_reducible rfl) ?_ (by exact Nat.le_refl _))
    | with_reducible apply Claims.ite
    | with_reducible apply Claims.foldl
    | split

theorem takeWait_claims (s : State) : Claims s (takeWait s) := by
  unfold takeWait
  repeat' first
    | with_reducible apply Claims.refl
    | with_reducible assumption
    | (intro (y : DupSt); subst y)
    | (intro y; with_reducible refine Claims.cut y ?_ ?_; (on_goal 2 => clear_value y; intro _); (on_goal 1 => subst y))
    | (intro y; clear_value y)
    | (intro y; subst y)
    | intro _
    | lift_lets -underBinder
    | (with_reducible apply Claims.step (Claims.of_within (holdWrites_within _) (by decide)))
    | (with_reducible apply Claims.step (takeControl_claims _ _))
    | (simp -zeta only [Claims.of_mk]; with_reducible refine Claims.upd (by with_reducible rfl) ?_ (by exact Nat.le_refl _))
    | with_reducible apply Claims.ite
    | with_reducible apply Claims.foldl
    | split

theorem applyFwd_claims (op : FwdOp) (r : Option Req) (s : State) : Claims s (applyFwd op r s) := by
  unfold applyFwd
  repeat' first
    | with_reducible apply Claims.refl
    | with_reducible assumption
    | (intro (y : DupSt); subst y)
    | (intro y; with_reducible refine Claims.cut y ?_ ?_; (on_goal 2 => clear_value y; intro _); (on_goal 1 => subst y))
    | (intro y; clear_value y)
    | (intro y; subst y)
    | intro _
    | lift_lets -underBinder
    | (with_reducible apply Claims.step (Claims.of_within (applyActivateCfg_within _ _) (by decide)))
    | (with_reducible apply Claims.step (applyBlock_claims _ _ _ _))
    | (with_reducible apply Claims.step (Claims.of_within (applyManifest_within _ _ _) (by decide)))
    | (with_reducible apply Claims.step (Claims.of_within (applyEnrol_within _ _ _ _ _ _ _ _) (by decide)))
    | (with_reducible apply Claims.step (Claims.of_within (applyTimeSet_within _ _ _) (by decide)))
    | (with_reducible apply Claims.step (Claims.of_within (applyStepReject_within _) (by decide)))
    | (with_reducible apply Claims.step (Claims.of_within (applyStepAccept_within _) (by decide)))
    | (with_reducible apply Claims.step (Claims.of_within (applyExchange_within _ _ _ _) (by decide)))
    | (with_reducible apply Claims.step (Claims.of_within (applyConstWrite_within _ _ _) (by decide)))
    | (with_reducible apply Claims.step (Claims.of_within (applyVarWrite_within _ _ _) (by decide)))
    | (with_reducible apply Claims.step (applyProgCtrl_claims _ _))
    | (with_reducible apply Claims.step (Claims.of_within (applyReinstate_within _ _) (by decide)))
    | (with_reducible apply Claims.step (Claims.of_within (setRetire_within _ _ _) (by decide)))
    | (with_reducible apply Claims.step (Claims.of_within (applyDisarm_within _) (by decide)))
    | (with_reducible apply Claims.step (Claims.of_within (applyArm_within _ _ _) (by decide)))
    | (with_reducible apply Claims.step (Claims.of_within (applySetsp_within _ _ _) (by decide)))
    | (with_reducible apply Claims.step (Claims.of_within (applyLoopMode_within _ _ _ _ _) (by decide)))
    | (with_reducible apply Claims.step (Claims.of_within (applyLoopSwap_within _ _ _) (by decide)))
    | (with_reducible apply Claims.step (Claims.of_within (applyLoopCoef_within _ _ _) (by decide)))
    | (with_reducible apply Claims.step (Claims.of_within (applyLoopConfig_within _ _) (by decide)))
    | (with_reducible apply Claims.step (Claims.of_within (applyUnitMode_within _ _ _) (by decide)))
    | (with_reducible apply Claims.step (Claims.of_within (applyForce_within _) (by decide)))
    | (with_reducible apply Claims.step (Claims.of_within (applyWeather_within _ _ _) (by decide)))
    | (with_reducible apply Claims.step (Claims.of_within (applyPrice_within _ _ _ _) (by decide)))
    | (with_reducible apply Claims.step (Claims.of_within (applyParam_within _ _ _) (by decide)))
    | (with_reducible apply Claims.step (Claims.of_within (applyInclude_within _ _ _) (by decide)))
    | (with_reducible apply Claims.step (Claims.of_within (applyExclude_within _ _ _) (by decide)))
    | (with_reducible apply Claims.step (Claims.of_within (applySigma_within _ _ _ _) (by decide)))
    | (simp -zeta only [Claims.of_mk]; with_reducible refine Claims.upd (by with_reducible rfl) ?_ (by exact Nat.le_refl _))
    | with_reducible apply Claims.ite
    | with_reducible apply Claims.foldl
    | split

theorem forwardMsg_claims (h : PeerHdr) (op : FwdOp) (withdraw : Bool) (s : State) : Claims s (forwardMsg h op withdraw s) := by
  unfold forwardMsg
  repeat' first
    | with_reducible apply Claims.refl
    | with_reducible assumption
    | (intro (y : DupSt); subst y)
    | (intro y; with_reducible refine Claims.cut y ?_ ?_; (on_goal 2 => clear_value y; intro _); (on_goal 1 => subst y))
    | (intro y; clear_value y)
    | (intro y; subst y)
    | intro _
    | lift_lets -underBinder
    | (with_reducible apply Claims.step (applyFwd_claims _ _ _))
    | (with_reducible apply Claims.step (sendPeer_claims _ _))
    | (with_reducible apply Claims.step (Claims.of_within (applyUndo_within _ _) (by decide)))
    | (with_reducible apply Claims.step (Claims.of_within (evt_within _ _ _ _) (by decide)))
    | (with_reducible apply onMessage_claims)
    | ((with_reducible refine Claims.step (dupSet_claims _ _ ?_) ?_); (on_goal 1 => (intro y; first | exact Nat.le_refl _ | (dsimp only; split <;> exact Nat.le_refl _))))
    | (simp -zeta only [Claims.of_mk]; with_reducible refine Claims.upd (by with_reducible rfl) ?_ (by exact Nat.le_refl _))
    | with_reducible apply Claims.ite
    | with_reducible apply Claims.foldl
    | split

theorem confirmMsg_claims (h : PeerHdr) (op : FwdOp) (st : Nat) (dt : Nat) (s : State) : Claims s (confirmMsg h op st dt s) := by
  unfold confirmMsg
  repeat' first
    | with_reducible apply Claims.refl
    | with_reducible assumption
    | (intro (y : DupSt); subst y)
    | (intro y; with_reducible refine Claims.cut y ?_ ?_; (on_goal 2 => clear_value y; intro _); (on_goal 1 => subst y))
    | (intro y; clear_value y)
    | (intro y; subst y)
    | intro _
    | lift_lets -underBinder
    | (with_reducible apply Claims.step (Claims.of_within (complete_within _ _ _ _ _ _) (by decide)))
    | (with_reducible apply Claims.step (applyFwd_claims _ _ _))
    | (with_reducible apply Claims.step (Claims.of_within (finish_within _ _ _ _) (by decide)))
    | (with_reducible apply Claims.step (Claims.of_within (noteUpd_within _ _ _) (by decide)))
    | (with_reducible apply Claims.step (Claims.of_within (evt_within _ _ _ _) (by decide)))
    | (with_reducible apply onMessage_claims)
    | ((with_reducible refine Claims.step (dupSet_claims _ _ ?_) ?_); (on_goal 1 => (intro y; first | exact Nat.le_refl _ | (dsimp only; split <;> exact Nat.le_refl _))))
    | (simp -zeta only [Claims.of_mk]; with_reducible refine Claims.upd (by with_reducible rfl) ?_ (by exact Nat.le_refl _))
    | with_reducible apply Claims.ite
    | with_reducible apply Claims.foldl
    | split

theorem forwardTimeout_claims (s : State) : Claims s (forwardTimeout s) := by
  unfold forwardTimeout
  repeat' first
    | with_reducible apply Claims.refl
    | with_reducible assumption
    | (intro (y : DupSt); subst y)
    | (intro y; with_reducible refine Claims.cut y ?_ ?_; (on_goal 2 => clear_value y; intro _); (on_goal 1 => subst y))
    | (intro y; clear_value y)
    | (intro y; subst y)
    | intro _
    | lift_lets -underBinder
    | (with_reducible apply Claims.step (Claims.of_within (noteUpd_within _ _ _) (by decide)))
    | (with_reducible apply Claims.step (Claims.of_within (finish_within _ _ _ _) (by decide)))
    | (with_reducible apply Claims.step (sendPeer_claims _ _))
    | (with_reducible apply Claims.step (Claims.of_within (evt_within _ _ _ _) (by decide)))
    | ((with_reducible refine Claims.step (dupSet_claims _ _ ?_) ?_); (on_goal 1 => (intro y; first | exact Nat.le_refl _ | (dsimp only; split <;> exact Nat.le_refl _))))
    | (simp -zeta only [Claims.of_mk]; with_reducible refine Claims.upd (by with_reducible rfl) ?_ (by exact Nat.le_refl _))
    | with_reducible apply Claims.ite
    | with_reducible apply Claims.foldl
    | split

theorem evidenceCheck_claims (s : State) : Claims s (evidenceCheck s) := by
  unfold evidenceCheck
  repeat' first
    | with_reducible apply Claims.refl
    | with_reducible assumption
    | (intro (y : DupSt); subst y)
    | (intro y; with_reducible refine Claims.cut y ?_ ?_; (on_goal 2 => clear_value y; intro _); (on_goal 1 => subst y))
    | (intro y; clear_value y)
    | (intro y; subst y)
    | intro _
    | lift_lets -underBinder
    | (with_reducible apply Claims.step (takeControl_claims _ _))
    | (with_reducible apply Claims.step (Claims.of_within (evt_within _ _ _ _) (by decide)))
    | ((with_reducible refine Claims.step (dupSet_claims _ _ ?_) ?_); (on_goal 1 => (intro y; first | exact Nat.le_refl _ | (dsimp only; split <;> exact Nat.le_refl _))))
    | (simp -zeta only [Claims.of_mk]; with_reducible refine Claims.upd (by with_reducible rfl) ?_ (by exact Nat.le_refl _))
    | with_reducible apply Claims.ite
    | with_reducible apply Claims.foldl
    | split

theorem testBegin_claims (s : State) : Claims s (testBegin s) := by
  unfold testBegin
  repeat' first
    | with_reducible apply Claims.refl
    | with_reducible assumption
    | (intro (y : DupSt); subst y)
    | (intro y; with_reducible refine Claims.cut y ?_ ?_; (on_goal 2 => clear_value y; intro _); (on_goal 1 => subst y))
    | (intro y; clear_value y)
    | (intro y; subst y)
    | intro _
    | lift_lets -underBinder
    | ((with_reducible refine Claims.step (dupSet_claims _ _ ?_) ?_); (on_goal 1 => (intro y; first | exact Nat.le_refl _ | (dsimp only; split <;> exact Nat.le_refl _))))
    | (simp -zeta only [Claims.of_mk]; with_reducible refine Claims.upd (by with_reducible rfl) ?_ (by exact Nat.le_refl _))
    | with_reducible apply Claims.ite
    | with_reducible apply Claims.foldl
    | split

theorem outputCompare_claims (theirs : Option OutSummary) (s : State) : Claims s (outputCompare theirs s) := by
  unfold outputCompare
  repeat' first
    | with_reducible apply Claims.refl
    | with_reducible assumption
    | (intro (y : DupSt); subst y)
    | (intro y; with_reducible refine Claims.cut y ?_ ?_; (on_goal 2 => clear_value y; intro _); (on_goal 1 => subst y))
    | (intro y; clear_value y)
    | (intro y; subst y)
    | intro _
    | lift_lets -underBinder
    | (with_reducible apply Claims.step (testBegin_claims _))
    | (with_reducible apply Claims.step (sendPeer_claims _ _))
    | (with_reducible apply Claims.step (Claims.of_within (incReg_within _ _ _) (by decide)))
    | (with_reducible apply Claims.step (Claims.of_within (dupCause_within _ _) (by decide)))
    | (with_reducible apply Claims.step (Claims.of_within (evt_within _ _ _ _) (by decide)))
    | ((with_reducible refine Claims.step (dupSet_claims _ _ ?_) ?_); (on_goal 1 => (intro y; first | exact Nat.le_refl _ | (dsimp only; split <;> exact Nat.le_refl _))))
    | (simp -zeta only [Claims.of_mk]; with_reducible refine Claims.upd (by with_reducible rfl) ?_ (by exact Nat.le_refl _))
    | with_reducible apply Claims.ite
    | with_reducible apply Claims.foldl
    | split

theorem testDecide_claims (s : State) : Claims s (testDecide s) := by
  unfold testDecide
  repeat' first
    | with_reducible apply Claims.refl
    | with_reducible assumption
    | (intro (y : DupSt); subst y)
    | (intro y; with_reducible refine Claims.cut y ?_ ?_; (on_goal 2 => clear_value y; intro _); (on_goal 1 => subst y))
    | (intro y; clear_value y)
    | (intro y; subst y)
    | intro _
    | lift_lets -underBinder
    | (with_reducible apply Claims.step (resync_claims _))
    | (with_reducible apply Claims.step (assertSrc_claims _ _))
    | (with_reducible apply Claims.step (beginModReset_claims _ _ _ _))
    | (with_reducible apply Claims.step (Claims.of_within (dupCause_within _ _) (by decide)))
    | ((with_reducible refine Claims.step (dupSet_claims _ _ ?_) ?_); (on_goal 1 => (intro y; first | exact Nat.le_refl _ | (dsimp only; split <;> exact Nat.le_refl _))))
    | (simp -zeta only [Claims.of_mk]; with_reducible refine Claims.upd (by with_reducible rfl) ?_ (by exact Nat.le_refl _))
    | with_reducible apply Claims.ite
    | with_reducible apply Claims.foldl
    | split

theorem selftestMsg_claims (h : PeerHdr) (result : Option Bool) (s : State) : Claims s (selftestMsg h result s) := by
  unfold selftestMsg
  repeat' first
    | with_reducible apply Claims.refl
    | with_reducible assumption
    | (intro (y : DupSt); subst y)
    | (intro y; with_reducible refine Claims.cut y ?_ ?_; (on_goal 2 => clear_value y; intro _); (on_goal 1 => subst y))
    | (intro y; clear_value y)
    | (intro y; subst y)
    | intro _
    | lift_lets -underBinder
    | (with_reducible apply Claims.step (testDecide_claims _))
    | (with_reducible apply Claims.step (testBegin_claims _))
    | (with_reducible apply onMessage_claims)
    | ((with_reducible refine Claims.step (dupSet_claims _ _ ?_) ?_); (on_goal 1 => (intro y; first | exact Nat.le_refl _ | (dsimp only; split <;> exact Nat.le_refl _))))
    | (simp -zeta only [Claims.of_mk]; with_reducible refine Claims.upd (by with_reducible rfl) ?_ (by exact Nat.le_refl _))
    | with_reducible apply Claims.ite
    | with_reducible apply Claims.foldl
    | split

theorem selftestDone_claims (pass : Bool) (s : State) : Claims s (selftestDone pass s) := by
  unfold selftestDone
  repeat' first
    | with_reducible apply Claims.refl
    | with_reducible assumption
    | (intro (y : DupSt); subst y)
    | (intro y; with_reducible refine Claims.cut y ?_ ?_; (on_goal 2 => clear_value y; intro _); (on_goal 1 => subst y))
    | (intro y; clear_value y)
    | (intro y; subst y)
    | intro _
    | lift_lets -underBinder
    | (with_reducible apply Claims.step (sendPeer_claims _ _))
    | (with_reducible apply Claims.step (testDecide_claims _))
    | ((with_reducible refine Claims.step (dupSet_claims _ _ ?_) ?_); (on_goal 1 => (intro y; first | exact Nat.le_refl _ | (dsimp only; split <;> exact Nat.le_refl _))))
    | (simp -zeta only [Claims.of_mk]; with_reducible refine Claims.upd (by with_reducible rfl) ?_ (by exact Nat.le_refl _))
    | with_reducible apply Claims.ite
    | with_reducible apply Claims.foldl
    | split

theorem testMissing_claims (s : State) : Claims s (testMissing s) := by
  unfold testMissing
  repeat' first
    | with_reducible apply Claims.refl
    | with_reducible assumption
    | (intro (y : DupSt); subst y)
    | (intro y; with_reducible refine Claims.cut y ?_ ?_; (on_goal 2 => clear_value y; intro _); (on_goal 1 => subst y))
    | (intro y; clear_value y)
    | (intro y; subst y)
    | intro _
    | lift_lets -underBinder
    | (with_reducible apply Claims.step (linkLost_claims _))
    | (simp -zeta only [Claims.of_mk]; with_reducible refine Claims.upd (by with_reducible rfl) ?_ (by exact Nat.le_refl _))
    | with_reducible apply Claims.ite
    | with_reducible apply Claims.foldl
    | split

theorem takeSync_claims (d : SyncData) (s : State) : Claims s (takeSync d s) := by
  unfold takeSync
  repeat' first
    | with_reducible apply Claims.refl
    | with_reducible assumption
    | (intro (y : DupSt); subst y)
    | (intro y; with_reducible refine Claims.cut y ?_ ?_; (on_goal 2 => clear_value y; intro _); (on_goal 1 => subst y))
    | (intro y; clear_value y)
    | (intro y; subst y)
    | intro _
    | lift_lets -underBinder
    | (with_reducible apply Claims.step (Claims.of_within (takeLoop_within _ _) (by decide)))
    | (with_reducible apply Claims.step (Claims.of_within (takeSession_within _ _) (by decide)))
    | (simp -zeta only [Claims.of_mk]; with_reducible refine Claims.upd (by with_reducible rfl) ?_ (by exact Nat.le_refl _))
    | with_reducible apply Claims.ite
    | with_reducible apply Claims.foldl
    | split

theorem reconStart_claims (s : State) : Claims s (reconStart s) := by
  unfold reconStart
  repeat' first
    | with_reducible apply Claims.refl
    | with_reducible assumption
    | (intro (y : DupSt); subst y)
    | (intro y; with_reducible refine Claims.cut y ?_ ?_; (on_goal 2 => clear_value y; intro _); (on_goal 1 => subst y))
    | (intro y; clear_value y)
    | (intro y; subst y)
    | intro _
    | lift_lets -underBinder
    | ((with_reducible refine Claims.step (dupSet_claims _ _ ?_) ?_); (on_goal 1 => (intro y; first | exact Nat.le_refl _ | (dsimp only; split <;> exact Nat.le_refl _))))
    | (simp -zeta only [Claims.of_mk]; with_reducible refine Claims.upd (by with_reducible rfl) ?_ (by exact Nat.le_refl _))
    | with_reducible apply Claims.ite
    | with_reducible apply Claims.foldl
    | split

theorem syncComplete_claims (h : PeerHdr) (d : SyncData) (s : State) : Claims s (syncComplete h d s) := by
  unfold syncComplete
  repeat' first
    | with_reducible apply Claims.refl
    | with_reducible assumption
    | (intro (y : DupSt); subst y)
    | (intro y; with_reducible refine Claims.cut y ?_ ?_; (on_goal 2 => clear_value y; intro _); (on_goal 1 => subst y))
    | (intro y; clear_value y)
    | (intro y; subst y)
    | intro _
    | lift_lets -underBinder
    | (with_reducible apply Claims.step (reconStart_claims _))
    | (with_reducible apply Claims.step (endOps_claims _ _ _ _))
    | (with_reducible apply Claims.step (applyFwd_claims _ _ _))
    | (with_reducible apply Claims.step (setRole_claims _ _))
    | (with_reducible apply Claims.step (Claims.of_within (setReg_within _ _ _) (by decide)))
    | (with_reducible apply Claims.step (takeSync_claims _ _))
    | (with_reducible apply onMessage_claims)
    | ((with_reducible refine Claims.step (dupSet_claims _ _ ?_) ?_); (on_goal 1 => (intro y; first | exact Nat.le_refl _ | (dsimp only; split <;> exact Nat.le_refl _))))
    | (simp -zeta only [Claims.of_mk]; with_reducible refine Claims.upd (by with_reducible rfl) ?_ (by exact Nat.le_refl _))
    | with_reducible apply Claims.ite
    | with_reducible apply Claims.foldl
    | split

theorem noteSeq_claims (rtype : Nat) (source : Nat) (q : Nat) (s : State) : Claims s (noteSeq rtype source q s) := by
  unfold noteSeq
  repeat' first
    | with_reducible apply Claims.refl
    | with_reducible assumption
    | (intro (y : DupSt); subst y)
    | (intro y; with_reducible refine Claims.cut y ?_ ?_; (on_goal 2 => clear_value y; intro _); (on_goal 1 => subst y))
    | (intro y; clear_value y)
    | (intro y; subst y)
    | intro _
    | lift_lets -underBinder
    | (with_reducible apply Claims.step (Claims.of_within (purgeStore_within _) (by decide)))
    | ((with_reducible refine Claims.step (dupSet_claims _ _ ?_) ?_); (on_goal 1 => (intro y; first | exact Nat.le_refl _ | (dsimp only; split <;> exact Nat.le_refl _))))
    | (simp -zeta only [Claims.of_mk]; with_reducible refine Claims.upd (by with_reducible rfl) ?_ (by exact Nat.le_refl _))
    | with_reducible apply Claims.ite
    | with_reducible apply Claims.foldl
    | split

theorem adopt_claims (k : Nat) (b : Bytes) (s : State) : Claims s (adopt k b s) := by
  unfold adopt
  repeat' first
    | with_reducible apply Claims.refl
    | with_reducible assumption
    | (intro (y : DupSt); subst y)
    | (intro y; with_reducible refine Claims.cut y ?_ ?_; (on_goal 2 => clear_value y; intro _); (on_goal 1 => subst y))
    | (intro y; clear_value y)
    | (intro y; subst y)
    | intro _
    | lift_lets -underBinder
    | (with_reducible apply Claims.step (addRec_claims _ _ _ _ _ _ _))
    | (with_reducible apply Claims.step (Claims.of_within (putSrc_within _ _ _) (by decide)))
    | (simp -zeta only [Claims.of_mk]; with_reducible refine Claims.upd (by with_reducible rfl) ?_ (by exact Nat.le_refl _))
    | with_reducible apply Claims.ite
    | with_reducible apply Claims.foldl
    | split

theorem putRecon_claims (k : Nat) (y : ReconSt) (s : State) : Claims s (putRecon k y s) := by
  unfold putRecon
  repeat' first
    | with_reducible apply Claims.refl
    | with_reducible assumption
    | (intro (y : DupSt); subst y)
    | (intro y; with_reducible refine Claims.cut y ?_ ?_; (on_goal 2 => clear_value y; intro _); (on_goal 1 => subst y))
    | (intro y; clear_value y)
    | (intro y; subst y)
    | intro _
    | lift_lets -underBinder
    | ((with_reducible refine Claims.step (dupSet_claims _ _ ?_) ?_); (on_goal 1 => (intro y; first | exact Nat.le_refl _ | (dsimp only; split <;> exact Nat.le_refl _))))
    | (simp -zeta only [Claims.of_mk]; with_reducible refine Claims.upd (by with_reducible rfl) ?_ (by exact Nat.le_refl _))
    | with_reducible apply Claims.ite
    | with_reducible apply Claims.foldl
    | split

theorem reconSource_claims (s : State) (e : Nat × ReconSt) : Claims s (reconSource s e) := by
  unfold reconSource
  dsimp only
  repeat' first
    | with_reducible apply Claims.refl
    | with_reducible assumption
    | (intro (y : DupSt); subst y)
    | (intro y; with_reducible refine Claims.cut y ?_ ?_; (on_goal 2 => clear_value y; intro _); (on_goal 1 => subst y))
    | (intro y; clear_value y)
    | (intro y; subst y)
    | intro _
    | lift_lets -underBinder
    | (with_reducible apply Claims.step (Claims.of_within (dupCause_within _ _) (by decide)))
    | (with_reducible apply Claims.step (adopt_claims _ _ _))
    | (with_reducible apply Claims.step (putRecon_claims _ _ _))
    | (simp -zeta only [Claims.of_mk]; with_reducible refine Claims.upd (by with_reducible rfl) ?_ (by exact Nat.le_refl _))
    | with_reducible apply Claims.ite
    | with_reducible apply Claims.foldl
    | split

theorem reconcile_claims (s : State) : Claims s (reconcile s) := by
  unfold reconcile
  repeat' first
    | with_reducible apply Claims.refl
    | with_reducible assumption
    | (intro (y : DupSt); subst y)
    | (intro y; with_reducible refine Claims.cut y ?_ ?_; (on_goal 2 => clear_value y; intro _); (on_goal 1 => subst y))
    | (intro y; clear_value y)
    | (intro y; subst y)
    | intro _
    | lift_lets -underBinder
    | (with_reducible apply Claims.step (sendPeer_claims _ _))
    | (with_reducible apply Claims.step (reconSource_claims _ _))
    | ((with_reducible refine Claims.step (dupSet_claims _ _ ?_) ?_); (on_goal 1 => (intro y; first | exact Nat.le_refl _ | (dsimp only; split <;> exact Nat.le_refl _))))
    | (simp -zeta only [Claims.of_mk]; with_reducible refine Claims.upd (by with_reducible rfl) ?_ (by exact Nat.le_refl _))
    | with_reducible apply Claims.ite
    | with_reducible apply Claims.foldl
    | split

theorem recordMsg_claims (h : PeerHdr) (m : Mirror) (s : State) : Claims s (recordMsg h m s) := by
  unfold recordMsg
  repeat' first
    | with_reducible apply Claims.refl
    | with_reducible assumption
    | (intro (y : DupSt); subst y)
    | (intro y; with_reducible refine Claims.cut y ?_ ?_; (on_goal 2 => clear_value y; intro _); (on_goal 1 => subst y))
    | (intro y; clear_value y)
    | (intro y; subst y)
    | intro _
    | lift_lets -underBinder
    | (with_reducible apply Claims.step (reconcile_claims _))
    | (with_reducible apply Claims.step (noteSeq_claims _ _ _ _))
    | (with_reducible apply onMessage_claims)
    | ((with_reducible refine Claims.step (dupSet_claims _ _ ?_) ?_); (on_goal 1 => (intro y; first | exact Nat.le_refl _ | (dsimp only; split <;> exact Nat.le_refl _))))
    | (simp -zeta only [Claims.of_mk]; with_reducible refine Claims.upd (by with_reducible rfl) ?_ (by exact Nat.le_refl _))
    | with_reducible apply Claims.ite
    | with_reducible apply Claims.foldl
    | split

theorem morMsg_claims (h : PeerHdr) (ask : Bool) (s : State) : Claims s (morMsg h ask s) := by
  unfold morMsg
  repeat' first
    | with_reducible apply Claims.refl
    | with_reducible assumption
    | (intro (y : DupSt); subst y)
    | (intro y; with_reducible refine Claims.cut y ?_ ?_; (on_goal 2 => clear_value y; intro _); (on_goal 1 => subst y))
    | (intro y; clear_value y)
    | (intro y; subst y)
    | intro _
    | lift_lets -underBinder
    | (with_reducible apply Claims.step (Claims.of_within (dupCause_within _ _) (by decide)))
    | (with_reducible apply Claims.step (setMor_claims _ _))
    | (with_reducible apply onMessage_claims)
    | ((with_reducible refine Claims.step (dupSet_claims _ _ ?_) ?_); (on_goal 1 => (intro y; first | exact Nat.le_refl _ | (dsimp only; split <;> exact Nat.le_refl _))))
    | (simp -zeta only [Claims.of_mk]; with_reducible refine Claims.upd (by with_reducible rfl) ?_ (by exact Nat.le_refl _))
    | with_reducible apply Claims.ite
    | with_reducible apply Claims.foldl
    | split

theorem morClose_claims (s : State) : Claims s (morClose s) := by
  unfold morClose
  repeat' first
    | with_reducible apply Claims.refl
    | with_reducible assumption
    | (intro (y : DupSt); subst y)
    | (intro y; with_reducible refine Claims.cut y ?_ ?_; (on_goal 2 => clear_value y; intro _); (on_goal 1 => subst y))
    | (intro y; clear_value y)
    | (intro y; subst y)
    | intro _
    | lift_lets -underBinder
    | (with_reducible apply Claims.step (sendPeer_claims _ _))
    | (simp -zeta only [Claims.of_mk]; with_reducible refine Claims.upd (by with_reducible rfl) ?_ (by exact Nat.le_refl _))
    | with_reducible apply Claims.ite
    | with_reducible apply Claims.foldl
    | split

theorem waitOp_claims (o : DupOp) (r : Req) (s : State) : Claims s (waitOp o r s) := by
  unfold waitOp
  repeat' first
    | with_reducible apply Claims.refl
    | with_reducible assumption
    | (intro (y : DupSt); subst y)
    | (intro y; with_reducible refine Claims.cut y ?_ ?_; (on_goal 2 => clear_value y; intro _); (on_goal 1 => subst y))
    | (intro y; clear_value y)
    | (intro y; subst y)
    | intro _
    | lift_lets -underBinder
    | ((with_reducible refine Claims.step (dupSet_claims _ _ ?_) ?_); (on_goal 1 => (intro y; first | exact Nat.le_refl _ | (dsimp only; split <;> exact Nat.le_refl _))))
    | (simp -zeta only [Claims.of_mk]; with_reducible refine Claims.upd (by with_reducible rfl) ?_ (by exact Nat.le_refl _))
    | with_reducible apply Claims.ite
    | with_reducible apply Claims.foldl
    | split

theorem dupHandover_claims (r : Req) (p : Nat) (s : State) : Claims s (dupHandover r p s) := by
  unfold dupHandover
  repeat' first
    | with_reducible apply Claims.refl
    | with_reducible assumption
    | (intro (y : DupSt); subst y)
    | (intro y; with_reducible refine Claims.cut y ?_ ?_; (on_goal 2 => clear_value y; intro _); (on_goal 1 => subst y))
    | (intro y; clear_value y)
    | (intro y; subst y)
    | intro _
    | lift_lets -underBinder
    | (with_reducible apply Claims.step (waitOp_claims _ _ _))
    | (with_reducible apply Claims.step (Claims.of_within (finish_within _ _ _ _) (by decide)))
    | (simp -zeta only [Claims.of_mk]; with_reducible refine Claims.upd (by with_reducible rfl) ?_ (by exact Nat.le_refl _))
    | with_reducible apply Claims.ite
    | with_reducible apply Claims.foldl
    | split

theorem dupMorHand_claims (r : Req) (s : State) : Claims s (dupMorHand r s) := by
  unfold dupMorHand
  repeat' first
    | with_reducible apply Claims.refl
    | with_reducible assumption
    | (intro (y : DupSt); subst y)
    | (intro y; with_reducible refine Claims.cut y ?_ ?_; (on_goal 2 => clear_value y; intro _); (on_goal 1 => subst y))
    | (intro y; clear_value y)
    | (intro y; subst y)
    | intro _
    | lift_lets -underBinder
    | (with_reducible apply Claims.step (waitOp_claims _ _ _))
    | (with_reducible apply Claims.step (Claims.of_within (finish_within _ _ _ _) (by decide)))
    | (simp -zeta only [Claims.of_mk]; with_reducible refine Claims.upd (by with_reducible rfl) ?_ (by exact Nat.le_refl _))
    | with_reducible apply Claims.ite
    | with_reducible apply Claims.foldl
    | split

theorem dupMorRelease_claims (r : Req) (s : State) : Claims s (dupMorRelease r s) := by
  unfold dupMorRelease
  repeat' first
    | with_reducible apply Claims.refl
    | with_reducible assumption
    | (intro (y : DupSt); subst y)
    | (intro y; with_reducible refine Claims.cut y ?_ ?_; (on_goal 2 => clear_value y; intro _); (on_goal 1 => subst y))
    | (intro y; clear_value y)
    | (intro y; subst y)
    | intro _
    | lift_lets -underBinder
    | (with_reducible apply Claims.step (setMor_claims _ _))
    | (with_reducible apply Claims.step (Claims.of_within (complete_within _ _ _ _ _ _) (by decide)))
    | ((with_reducible refine Claims.step (dupSet_claims _ _ ?_) ?_); (on_goal 1 => (intro y; first | exact Nat.le_refl _ | (dsimp only; split <;> exact Nat.le_refl _))))
    | (simp -zeta only [Claims.of_mk]; with_reducible refine Claims.upd (by with_reducible rfl) ?_ (by exact Nat.le_refl _))
    | with_reducible apply Claims.ite
    | with_reducible apply Claims.foldl
    | split

theorem dupMorTake_claims (r : Req) (s : State) : Claims s (dupMorTake r s) := by
  unfold dupMorTake
  repeat' first
    | with_reducible apply Claims.refl
    | with_reducible assumption
    | (intro (y : DupSt); subst y)
    | (intro y; with_reducible refine Claims.cut y ?_ ?_; (on_goal 2 => clear_value y; intro _); (on_goal 1 => subst y))
    | (intro y; clear_value y)
    | (intro y; subst y)
    | intro _
    | lift_lets -underBinder
    | (with_reducible apply Claims.step (takeMor_claims _))
    | (with_reducible apply Claims.step (Claims.of_within (complete_within _ _ _ _ _ _) (by decide)))
    | (with_reducible apply Claims.step (Claims.of_within (finish_within _ _ _ _) (by decide)))
    | ((with_reducible refine Claims.step (dupSet_claims _ _ ?_) ?_); (on_goal 1 => (intro y; first | exact Nat.le_refl _ | (dsimp only; split <;> exact Nat.le_refl _))))
    | (simp -zeta only [Claims.of_mk]; with_reducible refine Claims.upd (by with_reducible rfl) ?_ (by exact Nat.le_refl _))
    | with_reducible apply Claims.ite
    | with_reducible apply Claims.foldl
    | split

theorem dupTakeover_claims (r : Req) (p : Nat) (s : State) : Claims s (dupTakeover r p s) := by
  unfold dupTakeover
  repeat' first
    | with_reducible apply Claims.refl
    | with_reducible assumption
    | (intro (y : DupSt); subst y)
    | (intro y; with_reducible refine Claims.cut y ?_ ?_; (on_goal 2 => clear_value y; intro _); (on_goal 1 => subst y))
    | (intro y; clear_value y)
    | (intro y; subst y)
    | intro _
    | lift_lets -underBinder
    | (with_reducible apply Claims.step (Claims.of_within (complete_within _ _ _ _ _ _) (by decide)))
    | (with_reducible apply Claims.step (takeControl_claims _ _))
    | (with_reducible apply Claims.step (Claims.of_within (finish_within _ _ _ _) (by decide)))
    | (simp -zeta only [Claims.of_mk]; with_reducible refine Claims.upd (by with_reducible rfl) ?_ (by exact Nat.le_refl _))
    | with_reducible apply Claims.ite
    | with_reducible apply Claims.foldl
    | split

theorem dupResync_claims (r : Req) (p : Nat) (s : State) : Claims s (dupResync r p s) := by
  unfold dupResync
  repeat' first
    | with_reducible apply Claims.refl
    | with_reducible assumption
    | (intro (y : DupSt); subst y)
    | (intro y; with_reducible refine Claims.cut y ?_ ?_; (on_goal 2 => clear_value y; intro _); (on_goal 1 => subst y))
    | (intro y; clear_value y)
    | (intro y; subst y)
    | intro _
    | lift_lets -underBinder
    | (with_reducible apply Claims.step (waitOp_claims _ _ _))
    | (with_reducible apply Claims.step (resync_claims _))
    | (with_reducible apply Claims.step (Claims.of_within (complete_within _ _ _ _ _ _) (by decide)))
    | (with_reducible apply Claims.step (Claims.of_within (finish_within _ _ _ _) (by decide)))
    | ((with_reducible refine Claims.step (dupSet_claims _ _ ?_) ?_); (on_goal 1 => (intro y; first | exact Nat.le_refl _ | (dsimp only; split <;> exact Nat.le_refl _))))
    | (simp -zeta only [Claims.of_mk]; with_reducible refine Claims.upd (by with_reducible rfl) ?_ (by exact Nat.le_refl _))
    | with_reducible apply Claims.ite
    | with_reducible apply Claims.foldl
    | split

theorem keyedNow_claims (was : Bool) (s : State) : Claims s (keyedNow was s) := by
  unfold keyedNow
  repeat' first
    | with_reducible apply Claims.refl
    | with_reducible assumption
    | (intro (y : DupSt); subst y)
    | (intro y; with_reducible refine Claims.cut y ?_ ?_; (on_goal 2 => clear_value y; intro _); (on_goal 1 => subst y))
    | (intro y; clear_value y)
    | (intro y; subst y)
    | intro _
    | lift_lets -underBinder
    | (with_reducible apply Claims.step (unresign_claims _ _))
    | (with_reducible apply Claims.step (takeMor_claims _))
    | (with_reducible apply Claims.step (signHeld_claims _))
    | (with_reducible apply Claims.step (Claims.of_within (startAssoc_within _ _) (by decide)))
    | (simp -zeta only [Claims.of_mk]; with_reducible refine Claims.upd (by with_reducible rfl) ?_ (by exact Nat.le_refl _))
    | with_reducible apply Claims.ite
    | with_reducible apply Claims.foldl
    | split

theorem provisionKeys_claims (b : KeyBundle) (s : State) : Claims s (provisionKeys b s) := by
  unfold provisionKeys
  repeat' first
    | with_reducible apply Claims.refl
    | with_reducible assumption
    | (intro (y : DupSt); subst y)
    | (intro y; with_reducible refine Claims.cut y ?_ ?_; (on_goal 2 => clear_value y; intro _); (on_goal 1 => subst y))
    | (intro y; clear_value y)
    | (intro y; subst y)
    | intro _
    | lift_lets -underBinder
    | (with_reducible apply Claims.step (keyedNow_claims _ _))
    | (with_reducible apply Claims.step (installKeys_claims _ _ _))
    | (with_reducible apply Claims.step (Claims.of_within (provFail_within _ _) (by decide)))
    | (with_reducible apply Claims.step (sendPeer_claims _ _))
    | (simp -zeta only [Claims.of_mk]; with_reducible refine Claims.upd (by with_reducible rfl) ?_ (by exact Nat.le_refl _))
    | with_reducible apply Claims.ite
    | with_reducible apply Claims.foldl
    | split

theorem startTransfer_claims (certOk : Bool) (h : PeerHdr) (s : State) : Claims s (startTransfer certOk h s) := by
  unfold startTransfer
  repeat' first
    | with_reducible apply Claims.refl
    | with_reducible assumption
    | (intro (y : DupSt); subst y)
    | (intro y; with_reducible refine Claims.cut y ?_ ?_; (on_goal 2 => clear_value y; intro _); (on_goal 1 => subst y))
    | (intro y; with_reducible refine Claims.cut y.2 ?_ ?_; (on_goal 2 => clear_value y; intro _); (on_goal 1 => subst y))
    | (intro y; clear_value y)
    | (intro y; subst y)
    | intro _
    | lift_lets -underBinder
    | (with_reducible apply Claims.step (sendPeer_claims _ _))
    | (with_reducible apply Claims.step (Claims.of_within (draw_proj _) (by decide)))
    | (with_reducible apply Claims.step (Claims.of_within (draw_eq ‹draw _ = _›) (by decide)))
    | (with_reducible apply Claims.step (Claims.of_within (provFail_within _ _) (by decide)))
    | (with_reducible apply Claims.step (endOps_claims _ _ _ _))
    | (simp -zeta only [Claims.of_mk]; with_reducible refine Claims.upd (by with_reducible rfl) ?_ (by exact Nat.le_refl _))
    | with_reducible apply Claims.ite
    | with_reducible apply Claims.foldl
    | split

theorem provisionDone_claims (ok : Bool) (s : State) : Claims s (provisionDone ok s) := by
  unfold provisionDone
  repeat' first
    | with_reducible apply Claims.refl
    | with_reducible assumption
    | (intro (y : DupSt); subst y)
    | (intro y; with_reducible refine Claims.cut y ?_ ?_; (on_goal 2 => clear_value y; intro _); (on_goal 1 => subst y))
    | (intro y; clear_value y)
    | (intro y; subst y)
    | intro _
    | lift_lets -underBinder
    | (with_reducible apply Claims.step (endOps_claims _ _ _ _))
    | (with_reducible apply Claims.step (Claims.of_within (provFail_within _ _) (by decide)))
    | (simp -zeta only [Claims.of_mk]; with_reducible refine Claims.upd (by with_reducible rfl) ?_ (by exact Nat.le_refl _))
    | with_reducible apply Claims.ite
    | with_reducible apply Claims.foldl
    | split

theorem dupProvision_claims (r : Req) (p : Nat) (certOk : Bool) (s : State) : Claims s (dupProvision r p certOk s) := by
  unfold dupProvision
  repeat' first
    | with_reducible apply Claims.refl
    | with_reducible assumption
    | (intro (y : DupSt); subst y)
    | (intro y; with_reducible refine Claims.cut y ?_ ?_; (on_goal 2 => clear_value y; intro _); (on_goal 1 => subst y))
    | (intro y; clear_value y)
    | (intro y; subst y)
    | intro _
    | lift_lets -underBinder
    | (with_reducible apply Claims.step (waitOp_claims _ _ _))
    | (with_reducible apply Claims.step (startTransfer_claims _ _ _))
    | (with_reducible apply Claims.step (Claims.of_within (finish_within _ _ _ _) (by decide)))
    | (simp -zeta only [Claims.of_mk]; with_reducible refine Claims.upd (by with_reducible rfl) ?_ (by exact Nat.le_refl _))
    | with_reducible apply Claims.ite
    | with_reducible apply Claims.foldl
    | split

theorem autoProvision_claims (certOk : Bool) (s : State) : Claims s (autoProvision certOk s) := by
  unfold autoProvision
  repeat' first
    | with_reducible apply Claims.refl
    | with_reducible assumption
    | (intro (y : DupSt); subst y)
    | (intro y; with_reducible refine Claims.cut y ?_ ?_; (on_goal 2 => clear_value y; intro _); (on_goal 1 => subst y))
    | (intro y; clear_value y)
    | (intro y; subst y)
    | intro _
    | lift_lets -underBinder
    | (with_reducible apply Claims.step (startTransfer_claims _ _ _))
    | (simp -zeta only [Claims.of_mk]; with_reducible refine Claims.upd (by with_reducible rfl) ?_ (by exact Nat.le_refl _))
    | with_reducible apply Claims.ite
    | with_reducible apply Claims.foldl
    | split

theorem keyProvision_claims (r : Req) (b : KeyBundle) (len : Nat) (s : State) : Claims s (keyProvision r b len s) := by
  unfold keyProvision
  repeat' first
    | with_reducible apply Claims.refl
    | with_reducible assumption
    | (intro (y : DupSt); subst y)
    | (intro y; with_reducible refine Claims.cut y ?_ ?_; (on_goal 2 => clear_value y; intro _); (on_goal 1 => subst y))
    | (intro y; clear_value y)
    | (intro y; subst y)
    | intro _
    | lift_lets -underBinder
    | (with_reducible apply Claims.step (keyedNow_claims _ _))
    | (with_reducible apply Claims.step (Claims.of_within (keyDone_within _ _ _ _) (by decide)))
    | (with_reducible apply Claims.step (installKeys_claims _ _ _))
    | (with_reducible apply Claims.step (Claims.of_within (evt_within _ _ _ _) (by decide)))
    | (with_reducible apply Claims.step (Claims.of_within (finish_within _ _ _ _) (by decide)))
    | (simp -zeta only [Claims.of_mk]; with_reducible refine Claims.upd (by with_reducible rfl) ?_ (by exact Nat.le_refl _))
    | with_reducible apply Claims.ite
    | with_reducible apply Claims.foldl
    | split

theorem exchangeLeave_claims (p : ProgImage) (e : Exchange) (s : State) : Claims s (exchangeLeave p e s) := by
  unfold exchangeLeave
  repeat' first
    | with_reducible apply Claims.refl
    | with_reducible assumption
    | (intro (y : DupSt); subst y)
    | (intro y; with_reducible refine Claims.cut y ?_ ?_; (on_goal 2 => clear_value y; intro _); (on_goal 1 => subst y))
    | (intro y; clear_value y)
    | (intro y; subst y)
    | intro _
    | lift_lets -underBinder
    | (with_reducible apply Claims.step (Claims.of_within (exchangeAbandon_within _) (by decide)))
    | (with_reducible apply Claims.step (Claims.of_within (installProg_within _ _ _ _ _) (by decide)))
    | (with_reducible apply Claims.step (Claims.of_within (endExchanging_within _) (by decide)))
    | (with_reducible apply Claims.step (resync_claims _))
    | (with_reducible apply Claims.step (Claims.of_within (deliver_within _ _ _) (by decide)))
    | (with_reducible apply Claims.step (Claims.of_within (complete_within _ _ _ _ _ _) (by decide)))
    | (simp -zeta only [Claims.of_mk]; with_reducible refine Claims.upd (by with_reducible rfl) ?_ (by exact Nat.le_refl _))
    | with_reducible apply Claims.ite
    | with_reducible apply Claims.foldl
    | split

theorem exchangeEnter_claims (p : ProgImage) (e : Exchange) (s : State) : Claims s (exchangeEnter p e s) := by
  unfold exchangeEnter
  repeat' first
    | with_reducible apply Claims.refl
    | with_reducible assumption
    | (intro (y : DupSt); subst y)
    | (intro y; with_reducible refine Claims.cut y ?_ ?_; (on_goal 2 => clear_value y; intro _); (on_goal 1 => subst y))
    | (intro y; clear_value y)
    | (intro y; subst y)
    | intro _
    | lift_lets -underBinder
    | (with_reducible apply Claims.step (Claims.of_within (installProg_within _ _ _ _ _) (by decide)))
    | (with_reducible apply Claims.step (Claims.of_within (endExchanging_within _) (by decide)))
    | (with_reducible apply Claims.step (takeControl_claims _ _))
    | (simp -zeta only [Claims.of_mk]; with_reducible refine Claims.upd (by with_reducible rfl) ?_ (by exact Nat.le_refl _))
    | with_reducible apply Claims.ite
    | with_reducible apply Claims.foldl
    | split

theorem exchangeRound_claims (s : State) : Claims s (exchangeRound s) := by
  unfold exchangeRound
  repeat' first
    | with_reducible apply Claims.refl
    | with_reducible assumption
    | (intro (y : DupSt); subst y)
    | (intro y; with_reducible refine Claims.cut y ?_ ?_; (on_goal 2 => clear_value y; intro _); (on_goal 1 => subst y))
    | (intro y; clear_value y)
    | (intro y; subst y)
    | intro _
    | lift_lets -underBinder
    | (with_reducible apply Claims.step (exchangeEnter_claims _ _ _))
    | (with_reducible apply Claims.step (exchangeLeave_claims _ _ _))
    | (with_reducible apply Claims.step (Claims.of_within (exchangeAlone_within _ _ _) (by decide)))
    | (simp -zeta only [Claims.of_mk]; with_reducible refine Claims.upd (by with_reducible rfl) ?_ (by exact Nat.le_refl _))
    | with_reducible apply Claims.ite
    | with_reducible apply Claims.foldl
    | split

theorem handoverDue_claims (s : State) : Claims s (handoverDue s) := by
  unfold handoverDue
  repeat' first
    | with_reducible apply Claims.refl
    | with_reducible assumption
    | (intro (y : DupSt); subst y)
    | (intro y; with_reducible refine Claims.cut y ?_ ?_; (on_goal 2 => clear_value y; intro _); (on_goal 1 => subst y))
    | (intro y; clear_value y)
    | (intro y; subst y)
    | intro _
    | lift_lets -underBinder
    | (with_reducible apply Claims.step (setMor_claims _ _))
    | (with_reducible apply Claims.step (resign_claims _ _))
    | (simp -zeta only [Claims.of_mk]; with_reducible refine Claims.upd (by with_reducible rfl) ?_ (by exact Nat.le_refl _))
    | with_reducible apply Claims.ite
    | with_reducible apply Claims.foldl
    | split

theorem claimDue_claims (s : State) : Claims s (claimDue s) := by
  unfold claimDue
  repeat' first
    | with_reducible apply Claims.refl
    | with_reducible assumption
    | (intro (y : DupSt); subst y)
    | (intro y; with_reducible refine Claims.cut y ?_ ?_; (on_goal 2 => clear_value y; intro _); (on_goal 1 => subst y))
    | (intro y; clear_value y)
    | (intro y; subst y)
    | intro _
    | lift_lets -underBinder
    | (with_reducible apply Claims.step (newClaim_claims _))
    | (simp -zeta only [Claims.of_mk]; with_reducible refine Claims.upd (by with_reducible rfl) ?_ (by exact Nat.le_refl _))
    | with_reducible apply Claims.ite
    | with_reducible apply Claims.foldl
    | split

theorem tellRound_claims (s : State) : Claims s (tellRound s) := by
  unfold tellRound
  repeat' first
    | with_reducible apply Claims.refl
    | with_reducible assumption
    | (intro (y : DupSt); subst y)
    | (intro y; with_reducible refine Claims.cut y ?_ ?_; (on_goal 2 => clear_value y; intro _); (on_goal 1 => subst y))
    | (intro y; clear_value y)
    | (intro y; subst y)
    | intro _
    | lift_lets -underBinder
    | (with_reducible apply Claims.step (sendPeer_claims _ _))
    | (simp -zeta only [Claims.of_mk]; with_reducible refine Claims.upd (by with_reducible rfl) ?_ (by exact Nat.le_refl _))
    | with_reducible apply Claims.ite
    | with_reducible apply Claims.foldl
    | split

theorem openNumber_claims (number : Nat) (bounds : Word) (s : State) : Claims s (openNumber number bounds s) := by
  unfold openNumber
  repeat' first
    | with_reducible apply Claims.refl
    | with_reducible assumption
    | (intro (y : DupSt); subst y)
    | (intro y; with_reducible refine Claims.cut y ?_ ?_; (on_goal 2 => clear_value y; intro _); (on_goal 1 => subst y))
    | (intro y; clear_value y)
    | (intro y; subst y)
    | intro _
    | lift_lets -underBinder
    | (with_reducible apply Claims.step (Claims.of_within (emit_within _ _) (by decide)))
    | (with_reducible apply Claims.step (Claims.of_within (pmcAdd_within _ _ _) (by decide)))
    | (simp -zeta only [Claims.of_mk]; with_reducible refine Claims.upd (by with_reducible rfl) ?_ (by exact Nat.le_refl _))
    | with_reducible apply Claims.ite
    | with_reducible apply Claims.foldl
    | split

theorem roundBegin_claims (number : Nat) (bounds : Word) (s : State) : Claims s (roundBegin number bounds s) := by
  unfold roundBegin
  repeat' first
    | with_reducible apply Claims.refl
    | with_reducible assumption
    | (intro (y : DupSt); subst y)
    | (intro y; with_reducible refine Claims.cut y ?_ ?_; (on_goal 2 => clear_value y; intro _); (on_goal 1 => subst y))
    | (intro y; clear_value y)
    | (intro y; subst y)
    | intro _
    | lift_lets -underBinder
    | (with_reducible apply Claims.step (Claims.of_within (sendReadReq_within _ _ _) (by decide)))
    | (with_reducible apply Claims.step (Claims.of_within (openStn_within _ _ _) (by decide)))
    | (with_reducible apply Claims.step (exchangeRound_claims _))
    | (with_reducible apply Claims.step (handoverDue_claims _))
    | (with_reducible apply Claims.step (Claims.of_within (releaseTasks_within _) (by decide)))
    | (with_reducible apply Claims.step (openNumber_claims _ _ _))
    | (with_reducible apply Claims.step (Claims.of_within (modelSwap_within _) (by decide)))
    | (with_reducible apply Claims.step (Claims.of_within (cfgRound_within _) (by decide)))
    | (with_reducible apply Claims.step (claimDue_claims _))
    | (with_reducible apply Claims.step (tellRound_claims _))
    | (simp -zeta only [Claims.of_mk]; with_reducible refine Claims.upd (by with_reducible rfl) ?_ (by exact Nat.le_refl _))
    | with_reducible apply Claims.ite
    | with_reducible apply Claims.foldl
    | split

theorem roundStart_claims (s : State) : Claims s (roundStart s) := by
  unfold roundStart
  repeat' first
    | with_reducible apply Claims.refl
    | with_reducible assumption
    | (intro (y : DupSt); subst y)
    | (intro y; with_reducible refine Claims.cut y ?_ ?_; (on_goal 2 => clear_value y; intro _); (on_goal 1 => subst y))
    | (intro y; clear_value y)
    | (intro y; subst y)
    | intro _
    | lift_lets -underBinder
    | (with_reducible apply Claims.step (roundBegin_claims _ _ _))
    | (simp -zeta only [Claims.of_mk]; with_reducible refine Claims.upd (by with_reducible rfl) ?_ (by exact Nat.le_refl _))
    | with_reducible apply Claims.ite
    | with_reducible apply Claims.foldl
    | split

theorem firstRound_claims (s : State) : Claims s (firstRound s) := by
  unfold firstRound
  repeat' first
    | with_reducible apply Claims.refl
    | with_reducible assumption
    | (intro (y : DupSt); subst y)
    | (intro y; with_reducible refine Claims.cut y ?_ ?_; (on_goal 2 => clear_value y; intro _); (on_goal 1 => subst y))
    | (intro y; clear_value y)
    | (intro y; subst y)
    | intro _
    | lift_lets -underBinder
    | (with_reducible apply Claims.step (roundBegin_claims _ _ _))
    | (simp -zeta only [Claims.of_mk]; with_reducible refine Claims.upd (by with_reducible rfl) ?_ (by exact Nat.le_refl _))
    | with_reducible apply Claims.ite
    | with_reducible apply Claims.foldl
    | split

theorem roundStartTimeout_claims (s : State) : Claims s (roundStartTimeout s) := by
  unfold roundStartTimeout
  repeat' first
    | with_reducible apply Claims.refl
    | with_reducible assumption
    | (intro (y : DupSt); subst y)
    | (intro y; with_reducible refine Claims.cut y ?_ ?_; (on_goal 2 => clear_value y; intro _); (on_goal 1 => subst y))
    | (intro y; clear_value y)
    | (intro y; subst y)
    | intro _
    | lift_lets -underBinder
    | (with_reducible apply Claims.step (roundBegin_claims _ _ _))
    | (simp -zeta only [Claims.of_mk]; with_reducible refine Claims.upd (by with_reducible rfl) ?_ (by exact Nat.le_refl _))
    | with_reducible apply Claims.ite
    | with_reducible apply Claims.foldl
    | split

theorem roundStartMsg_claims (h : PeerHdr) (phases : Word) (anchor : Option Nat) (s : State) : Claims s (roundStartMsg h phases anchor s) := by
  unfold roundStartMsg
  repeat' first
    | with_reducible apply Claims.refl
    | with_reducible assumption
    | (intro (y : DupSt); subst y)
    | (intro y; with_reducible refine Claims.cut y ?_ ?_; (on_goal 2 => clear_value y; intro _); (on_goal 1 => subst y))
    | (intro y; clear_value y)
    | (intro y; subst y)
    | intro _
    | lift_lets -underBinder
    | (with_reducible apply Claims.step (roundBegin_claims _ _ _))
    | (with_reducible apply onMessage_claims)
    | (simp -zeta only [Claims.of_mk]; with_reducible refine Claims.upd (by with_reducible rfl) ?_ (by exact Nat.le_refl _))
    | with_reducible apply Claims.ite
    | with_reducible apply Claims.foldl
    | split

theorem readClose_claims (s : State) : Claims s (readClose s) := by
  unfold readClose
  repeat' first
    | with_reducible apply Claims.refl
    | with_reducible assumption
    | (intro (y : DupSt); subst y)
    | (intro y; with_reducible refine Claims.cut y ?_ ?_; (on_goal 2 => clear_value y; intro _); (on_goal 1 => subst y))
    | (intro y; clear_value y)
    | (intro y; subst y)
    | intro _
    | lift_lets -underBinder
    | (with_reducible apply Claims.step (evidenceCheck_claims _))
    | (with_reducible apply Claims.step (Claims.of_within (sepOpen_within _) (by decide)))
    | (with_reducible apply Claims.step (Claims.of_within (rndReadClose_within _) (by decide)))
    | (with_reducible apply Claims.step (Claims.of_within (tlyIntegrate_within _) (by decide)))
    | (with_reducible apply Claims.step (Claims.of_within (dispReadings_within _) (by decide)))
    | (with_reducible apply Claims.step (Claims.of_within (publishStations_within _) (by decide)))
    | (simp -zeta only [Claims.of_mk]; with_reducible refine Claims.upd (by with_reducible rfl) ?_ (by exact Nat.le_refl _))
    | with_reducible apply Claims.ite
    | with_reducible apply Claims.foldl
    | split

theorem summarise_claims (s : State) : Claims s (summarise s) := by
  unfold summarise
  repeat' first
    | with_reducible apply Claims.refl
    | with_reducible assumption
    | (intro (y : DupSt); subst y)
    | (intro y; with_reducible refine Claims.cut y ?_ ?_; (on_goal 2 => clear_value y; intro _); (on_goal 1 => subst y))
    | (intro y; clear_value y)
    | (intro y; subst y)
    | intro _
    | lift_lets -underBinder
    | (with_reducible apply Claims.step (sendPeer_claims _ _))
    | ((with_reducible refine Claims.step (dupSet_claims _ _ ?_) ?_); (on_goal 1 => (intro y; first | exact Nat.le_refl _ | (dsimp only; split <;> exact Nat.le_refl _))))
    | (simp -zeta only [Claims.of_mk]; with_reducible refine Claims.upd (by with_reducible rfl) ?_ (by exact Nat.le_refl _))
    | with_reducible apply Claims.ite
    | with_reducible apply Claims.foldl
    | split

theorem writeOpen_claims (s : State) : Claims s (writeOpen s) := by
  unfold writeOpen
  repeat' first
    | with_reducible apply Claims.refl
    | with_reducible assumption
    | (intro (y : DupSt); subst y)
    | (intro y; with_reducible refine Claims.cut y ?_ ?_; (on_goal 2 => clear_value y; intro _); (on_goal 1 => subst y))
    | (intro y; clear_value y)
    | (intro y; subst y)
    | intro _
    | lift_lets -underBinder
    | (with_reducible apply Claims.step (Claims.of_within (tlyLatch_within _) (by decide)))
    | (with_reducible apply Claims.step (summarise_claims _))
    | (with_reducible apply Claims.step (Claims.of_within (exchangeFreeze_within _) (by decide)))
    | (with_reducible apply Claims.step (Claims.of_within (sendWrite_within _ _ _) (by decide)))
    | (with_reducible apply Claims.step (Claims.of_within (dispCommands_within _) (by decide)))
    | (with_reducible apply Claims.step (Claims.of_within (latchAll_within _) (by decide)))
    | (with_reducible apply Claims.step (Claims.of_within (dispLatch_within _) (by decide)))
    | (with_reducible apply Claims.step (Claims.of_within (latchBudgets_within _) (by decide)))
    | (simp -zeta only [Claims.of_mk]; with_reducible refine Claims.upd (by with_reducible rfl) ?_ (by exact Nat.le_refl _))
    | with_reducible apply Claims.ite
    | with_reducible apply Claims.foldl
    | split

theorem roundClose_claims (theirs : Option OutSummary) (s : State) : Claims s (roundClose theirs s) := by
  unfold roundClose
  repeat' first
    | with_reducible apply Claims.refl
    | with_reducible assumption
    | (intro (y : DupSt); subst y)
    | (intro y; with_reducible refine Claims.cut y ?_ ?_; (on_goal 2 => clear_value y; intro _); (on_goal 1 => subst y))
    | (intro y; clear_value y)
    | (intro y; subst y)
    | intro _
    | lift_lets -underBinder
    | (with_reducible apply Claims.step (Claims.of_within (dispClose_within _) (by decide)))
    | (with_reducible apply Claims.step (reconcile_claims _))
    | (with_reducible apply Claims.step (morClose_claims _))
    | (with_reducible apply Claims.step (updRoundClose_claims _))
    | (with_reducible apply Claims.step (unresign_claims _ _))
    | (with_reducible apply Claims.step (outputCompare_claims _ _))
    | (with_reducible apply Claims.step (testMissing_claims _))
    | (with_reducible apply Claims.step (Claims.of_within (setReg_within _ _ _) (by decide)))
    | (with_reducible apply Claims.step (Claims.of_within (rndClose_within _) (by decide)))
    | ((with_reducible refine Claims.step (dupSet_claims _ _ ?_) ?_); (on_goal 1 => (intro y; first | exact Nat.le_refl _ | (dsimp only; split <;> exact Nat.le_refl _))))
    | (simp -zeta only [Claims.of_mk]; with_reducible refine Claims.upd (by with_reducible rfl) ?_ (by exact Nat.le_refl _))
    | with_reducible apply Claims.ite
    | with_reducible apply Claims.foldl
    | split

theorem noRoundClosed_claims (s : State) : Claims s (noRoundClosed s) := by
  unfold noRoundClosed
  repeat' first
    | with_reducible apply Claims.refl
    | with_reducible assumption
    | (intro (y : DupSt); subst y)
    | (intro y; with_reducible refine Claims.cut y ?_ ?_; (on_goal 2 => clear_value y; intro _); (on_goal 1 => subst y))
    | (intro y; clear_value y)
    | (intro y; subst y)
    | intro _
    | lift_lets -underBinder
    | (with_reducible apply Claims.step (Claims.of_within (evt_within _ _ _ _) (by decide)))
    | (with_reducible apply Claims.step (resign_claims _ _))
    | (simp -zeta only [Claims.of_mk]; with_reducible refine Claims.upd (by with_reducible rfl) ?_ (by exact Nat.le_refl _))
    | with_reducible apply Claims.ite
    | with_reducible apply Claims.foldl
    | split

theorem feedLost_claims (f : Feed) (s : State) : Claims s (feedLost f s) := by
  unfold feedLost
  repeat' first
    | with_reducible apply Claims.refl
    | with_reducible assumption
    | (intro (y : DupSt); subst y)
    | (intro y; with_reducible refine Claims.cut y ?_ ?_; (on_goal 2 => clear_value y; intro _); (on_goal 1 => subst y))
    | (intro y; clear_value y)
    | (intro y; subst y)
    | intro _
    | lift_lets -underBinder
    | (with_reducible apply Claims.step (assertSrc_claims _ _))
    | (with_reducible apply Claims.step (Claims.of_within (evt_within _ _ _ _) (by decide)))
    | (with_reducible apply Claims.step (Claims.of_within (setB_within _ _ _ _) (by decide)))
    | (simp -zeta only [Claims.of_mk]; with_reducible refine Claims.upd (by with_reducible rfl) ?_ (by exact Nat.le_refl _))
    | with_reducible apply Claims.ite
    | with_reducible apply Claims.foldl
    | split

theorem feedReturned_claims (f : Feed) (s : State) : Claims s (feedReturned f s) := by
  unfold feedReturned
  repeat' first
    | with_reducible apply Claims.refl
    | with_reducible assumption
    | (intro (y : DupSt); subst y)
    | (intro y; with_reducible refine Claims.cut y ?_ ?_; (on_goal 2 => clear_value y; intro _); (on_goal 1 => subst y))
    | (intro y; clear_value y)
    | (intro y; subst y)
    | intro _
    | lift_lets -underBinder
    | (with_reducible apply Claims.step (setCond_claims _ _ _))
    | (with_reducible apply Claims.step (Claims.of_within (evt_within _ _ _ _) (by decide)))
    | (with_reducible apply Claims.step (Claims.of_within (setB_within _ _ _ _) (by decide)))
    | (simp -zeta only [Claims.of_mk]; with_reducible refine Claims.upd (by with_reducible rfl) ?_ (by exact Nat.le_refl _))
    | with_reducible apply Claims.ite
    | with_reducible apply Claims.foldl
    | split

theorem tempRefresh_claims (mk : Int) (s : State) : Claims s (tempRefresh mk s) := by
  unfold tempRefresh
  repeat' first
    | with_reducible apply Claims.refl
    | with_reducible assumption
    | (intro (y : DupSt); subst y)
    | (intro y; with_reducible refine Claims.cut y ?_ ?_; (on_goal 2 => clear_value y; intro _); (on_goal 1 => subst y))
    | (intro y; clear_value y)
    | (intro y; subst y)
    | intro _
    | lift_lets -underBinder
    | (with_reducible apply Claims.step (Claims.of_within (setB_within _ _ _ _) (by decide)))
    | (with_reducible apply Claims.step (setCond_claims _ _ _))
    | (with_reducible apply Claims.step (Claims.of_within (setReg_within _ _ _) (by decide)))
    | (simp -zeta only [Claims.of_mk]; with_reducible refine Claims.upd (by with_reducible rfl) ?_ (by exact Nat.le_refl _))
    | with_reducible apply Claims.ite
    | with_reducible apply Claims.foldl
    | split

theorem presentLost_claims (s : State) : Claims s (presentLost s) := by
  unfold presentLost
  repeat' first
    | with_reducible apply Claims.refl
    | with_reducible assumption
    | (intro (y : DupSt); subst y)
    | (intro y; with_reducible refine Claims.cut y ?_ ?_; (on_goal 2 => clear_value y; intro _); (on_goal 1 => subst y))
    | (intro y; clear_value y)
    | (intro y; subst y)
    | intro _
    | lift_lets -underBinder
    | (with_reducible apply Claims.step (Claims.of_within (setB_within _ _ _ _) (by decide)))
    | (with_reducible apply Claims.step (beginHoldup_claims _ _))
    | (simp -zeta only [Claims.of_mk]; with_reducible refine Claims.upd (by with_reducible rfl) ?_ (by exact Nat.le_refl _))
    | with_reducible apply Claims.ite
    | with_reducible apply Claims.foldl
    | split

theorem endFinalCommit_claims (s : State) : Claims s (endFinalCommit s) := by
  unfold endFinalCommit
  repeat' first
    | with_reducible apply Claims.refl
    | with_reducible assumption
    | (intro (y : DupSt); subst y)
    | (intro y; with_reducible refine Claims.cut y ?_ ?_; (on_goal 2 => clear_value y; intro _); (on_goal 1 => subst y))
    | (intro y; clear_value y)
    | (intro y; subst y)
    | intro _
    | lift_lets -underBinder
    | (with_reducible apply Claims.step (finalCommit_claims _))
    | (simp -zeta only [Claims.of_mk]; with_reducible refine Claims.upd (by with_reducible rfl) ?_ (by exact Nat.le_refl _))
    | with_reducible apply Claims.ite
    | with_reducible apply Claims.foldl
    | split

theorem holdupReadySet_claims (s : State) : Claims s (holdupReadySet s) := by
  unfold holdupReadySet
  repeat' first
    | with_reducible apply Claims.refl
    | with_reducible assumption
    | (intro (y : DupSt); subst y)
    | (intro y; with_reducible refine Claims.cut y ?_ ?_; (on_goal 2 => clear_value y; intro _); (on_goal 1 => subst y))
    | (intro y; clear_value y)
    | (intro y; subst y)
    | intro _
    | lift_lets -underBinder
    | (with_reducible apply Claims.step (setCond_claims _ _ _))
    | (with_reducible apply Claims.step (Claims.of_within (outputsFollow_within _) (by decide)))
    | (with_reducible apply Claims.step (unresign_claims _ _))
    | (with_reducible apply Claims.step (Claims.of_within (setB_within _ _ _ _) (by decide)))
    | (simp -zeta only [Claims.of_mk]; with_reducible refine Claims.upd (by with_reducible rfl) ?_ (by exact Nat.le_refl _))
    | with_reducible apply Claims.ite
    | with_reducible apply Claims.foldl
    | split

theorem holdupReadyLost_claims (s : State) : Claims s (holdupReadyLost s) := by
  unfold holdupReadyLost
  repeat' first
    | with_reducible apply Claims.refl
    | with_reducible assumption
    | (intro (y : DupSt); subst y)
    | (intro y; with_reducible refine Claims.cut y ?_ ?_; (on_goal 2 => clear_value y; intro _); (on_goal 1 => subst y))
    | (intro y; clear_value y)
    | (intro y; subst y)
    | intro _
    | lift_lets -underBinder
    | (with_reducible apply Claims.step (resign_claims _ _))
    | (with_reducible apply Claims.step (assertSrc_claims _ _))
    | (with_reducible apply Claims.step (Claims.of_within (evt_within _ _ _ _) (by decide)))
    | (with_reducible apply Claims.step (Claims.of_within (setB_within _ _ _ _) (by decide)))
    | (simp -zeta only [Claims.of_mk]; with_reducible refine Claims.upd (by with_reducible rfl) ?_ (by exact Nat.le_refl _))
    | with_reducible apply Claims.ite
    | with_reducible apply Claims.foldl
    | split

theorem holdupMeasure_claims (pct : Nat) (s : State) : Claims s (holdupMeasure pct s) := by
  unfold holdupMeasure
  repeat' first
    | with_reducible apply Claims.refl
    | with_reducible assumption
    | (intro (y : DupSt); subst y)
    | (intro y; with_reducible refine Claims.cut y ?_ ?_; (on_goal 2 => clear_value y; intro _); (on_goal 1 => subst y))
    | (intro y; clear_value y)
    | (intro y; subst y)
    | intro _
    | lift_lets -underBinder
    | (with_reducible apply Claims.step (setCond_claims _ _ _))
    | (with_reducible apply Claims.step (Claims.of_within (setF_within _ _ _ _ _) (by decide)))
    | (with_reducible apply Claims.step (Claims.of_within (setB_within _ _ _ _) (by decide)))
    | (simp -zeta only [Claims.of_mk]; with_reducible refine Claims.upd (by with_reducible rfl) ?_ (by exact Nat.le_refl _))
    | with_reducible apply Claims.ite
    | with_reducible apply Claims.foldl
    | split

theorem sfpOverpower_claims (p : Nat) (s : State) : Claims s (sfpOverpower p s) := by
  unfold sfpOverpower
  repeat' first
    | with_reducible apply Claims.refl
    | with_reducible assumption
    | (intro (y : DupSt); subst y)
    | (intro y; with_reducible refine Claims.cut y ?_ ?_; (on_goal 2 => clear_value y; intro _); (on_goal 1 => subst y))
    | (intro y; clear_value y)
    | (intro y; subst y)
    | intro _
    | lift_lets -underBinder
    | (with_reducible apply Claims.step (assertSrc_claims _ _))
    | (with_reducible apply Claims.step (ringLink_claims _ _ _))
    | (simp -zeta only [Claims.of_mk]; with_reducible refine Claims.upd (by with_reducible rfl) ?_ (by exact Nat.le_refl _))
    | with_reducible apply Claims.ite
    | with_reducible apply Claims.foldl
    | split

theorem cagePower_claims (p : Nat) (s : State) : Claims s (cagePower p s) := by
  unfold cagePower
  repeat' first
    | with_reducible apply Claims.refl
    | with_reducible assumption
    | (intro (y : DupSt); subst y)
    | (intro y; with_reducible refine Claims.cut y ?_ ?_; (on_goal 2 => clear_value y; intro _); (on_goal 1 => subst y))
    | (intro y; clear_value y)
    | (intro y; subst y)
    | intro _
    | lift_lets -underBinder
    | (with_reducible apply Claims.step (setCond_claims _ _ _))
    | (simp -zeta only [Claims.of_mk]; with_reducible refine Claims.upd (by with_reducible rfl) ?_ (by exact Nat.le_refl _))
    | with_reducible apply Claims.ite
    | with_reducible apply Claims.foldl
    | split

theorem sfpInserted_claims (p : Nat) (page : Bytes) (s : State) : Claims s (sfpInserted p page s) := by
  unfold sfpInserted
  repeat' first
    | with_reducible apply Claims.refl
    | with_reducible assumption
    | (intro (y : DupSt); subst y)
    | (intro y; with_reducible refine Claims.cut y ?_ ?_; (on_goal 2 => clear_value y; intro _); (on_goal 1 => subst y))
    | (intro y; clear_value y)
    | (intro y; subst y)
    | intro _
    | lift_lets -underBinder
    | (with_reducible apply Claims.step (cagePower_claims _ _))
    | (simp -zeta only [Claims.of_mk]; with_reducible refine Claims.upd (by with_reducible rfl) ?_ (by exact Nat.le_refl _))
    | with_reducible apply Claims.ite
    | with_reducible apply Claims.foldl
    | split

theorem resetFco_claims (conds : List Nat) (s : State) : Claims s (resetFco conds s) := by
  unfold resetFco
  repeat' first
    | with_reducible apply Claims.refl
    | with_reducible assumption
    | (intro (y : DupSt); subst y)
    | (intro y; with_reducible refine Claims.cut y ?_ ?_; (on_goal 2 => clear_value y; intro _); (on_goal 1 => subst y))
    | (intro y; clear_value y)
    | (intro y; subst y)
    | intro _
    | lift_lets -underBinder
    | (with_reducible apply Claims.step (occur_claims _ _ _ _))
    | (simp -zeta only [Claims.of_mk]; with_reducible refine Claims.upd (by with_reducible rfl) ?_ (by exact Nat.le_refl _))
    | with_reducible apply Claims.ite
    | with_reducible apply Claims.foldl
    | split

theorem resetBlocks_claims (por : Bool) (monBack back : Nat) (s : State) : Claims s (resetBlocks por monBack back s) := by
  unfold resetBlocks Claims resetDup
  exact Nat.le_refl _

theorem tellBackup_claims (p : PorIn) (s : State) : Claims s (tellBackup p s) := by
  unfold tellBackup
  repeat' first
    | with_reducible apply Claims.refl
    | with_reducible assumption
    | (intro (y : DupSt); subst y)
    | (intro y; with_reducible refine Claims.cut y ?_ ?_; (on_goal 2 => clear_value y; intro _); (on_goal 1 => subst y))
    | (intro y; clear_value y)
    | (intro y; subst y)
    | intro _
    | lift_lets -underBinder
    | (with_reducible apply Claims.step (raise_claims _ _))
    | (with_reducible apply Claims.step (Claims.of_within (evt_within _ _ _ _) (by decide)))
    | (simp -zeta only [Claims.of_mk]; with_reducible refine Claims.upd (by with_reducible rfl) ?_ (by exact Nat.le_refl _))
    | with_reducible apply Claims.ite
    | with_reducible apply Claims.foldl
    | split

theorem powerOn_claims (cause : PorCause) (p : PorIn) (s : State) : Claims s (powerOn cause p s) := by
  unfold powerOn
  repeat' first
    | with_reducible apply Claims.refl
    | with_reducible assumption
    | (intro (y : DupSt); subst y)
    | (intro y; with_reducible refine Claims.cut y ?_ ?_; (on_goal 2 => clear_value y; intro _); (on_goal 1 => subst y))
    | (intro y; clear_value y)
    | (intro y; subst y)
    | intro _
    | lift_lets -underBinder
    | (with_reducible apply Claims.step (tellBackup_claims _ _))
    | (with_reducible apply Claims.step (Claims.of_within (setLeg_within _ _) (by decide)))
    | (with_reducible apply Claims.step (Claims.of_within (resetEvr_within _) (by decide)))
    | (with_reducible apply Claims.step (resetFco_claims _ _))
    | (with_reducible apply Claims.step (Claims.of_within (loadCal_within _) (by decide)))
    | (with_reducible apply Claims.step (Claims.of_within (setCauseOf_within _ _ _) (by decide)))
    | (with_reducible apply Claims.step (Claims.of_within (setReg_within _ _ _) (by decide)))
    | (with_reducible apply Claims.step (Claims.of_within (resetModel_within _) (by decide)))
    | (with_reducible apply Claims.step (resetBlocks_claims _ _ _ _))
    | (with_reducible apply Claims.step (Claims.of_within (resetKst_within _) (by decide)))
    | (with_reducible apply Claims.step (Claims.of_within (porTime_within _) (by decide)))
    | (with_reducible apply Claims.step (Claims.of_within (resetFile_within _ _) (by decide)))
    | (with_reducible apply Claims.step (Claims.of_within (resetConfigured_within _) (by decide)))
    | (with_reducible apply Claims.step (Claims.of_within (decideBackup_within _ _) (by decide)))
    | (with_reducible apply Claims.step (Claims.of_within (updSet_within _ _) (by decide)))
    | (with_reducible apply Claims.step (Claims.of_within (updBoot_within _ _) (by decide)))
    | (simp -zeta only [Claims.of_mk]; with_reducible refine Claims.upd (by with_reducible rfl) ?_ (by exact Nat.le_refl _))
    | with_reducible apply Claims.ite
    | with_reducible apply Claims.foldl
    | split

theorem modApply_claims (why : ModWhy) (s : State) : Claims s (modApply why s) := by
  unfold modApply
  repeat' first
    | with_reducible apply Claims.refl
    | with_reducible assumption
    | (intro (y : DupSt); subst y)
    | (intro y; with_reducible refine Claims.cut y ?_ ?_; (on_goal 2 => clear_value y; intro _); (on_goal 1 => subst y))
    | (intro y; clear_value y)
    | (intro y; subst y)
    | intro _
    | lift_lets -underBinder
    | (with_reducible apply Claims.step (Claims.of_within (resetEvr_within _) (by decide)))
    | (with_reducible apply Claims.step (resetFco_claims _ _))
    | (with_reducible apply Claims.step (Claims.of_within (loadCal_within _) (by decide)))
    | (with_reducible apply Claims.step (Claims.of_within (setCauseOf_within _ _ _) (by decide)))
    | (with_reducible apply Claims.step (Claims.of_within (resetModel_within _) (by decide)))
    | (with_reducible apply Claims.step (resetBlocks_claims _ _ _ _))
    | (with_reducible apply Claims.step (Claims.of_within (resetKst_within _) (by decide)))
    | (with_reducible apply Claims.step (Claims.of_within (modTime_within _) (by decide)))
    | (with_reducible apply Claims.step (Claims.of_within (resetFile_within _ _) (by decide)))
    | (with_reducible apply Claims.step (Claims.of_within (resetConfigured_within _) (by decide)))
    | (with_reducible apply Claims.step (Claims.of_within (updBoot_within _ _) (by decide)))
    | (simp -zeta only [Claims.of_mk]; with_reducible refine Claims.upd (by with_reducible rfl) ?_ (by exact Nat.le_refl _))
    | with_reducible apply Claims.ite
    | with_reducible apply Claims.foldl
    | split

theorem moduleReset_claims (s : State) : Claims s (moduleReset s) := by
  unfold moduleReset
  repeat' first
    | with_reducible apply Claims.refl
    | with_reducible assumption
    | (intro (y : DupSt); subst y)
    | (intro y; with_reducible refine Claims.cut y ?_ ?_; (on_goal 2 => clear_value y; intro _); (on_goal 1 => subst y))
    | (intro y; clear_value y)
    | (intro y; subst y)
    | intro _
    | lift_lets -underBinder
    | (with_reducible apply Claims.step (Claims.of_within (evrFlush_within _) (by decide)))
    | (with_reducible apply Claims.step (modApply_claims _ _))
    | (with_reducible apply Claims.step (endFinalCommit_claims _))
    | (simp -zeta only [Claims.of_mk]; with_reducible refine Claims.upd (by with_reducible rfl) ?_ (by exact Nat.le_refl _))
    | with_reducible apply Claims.ite
    | with_reducible apply Claims.foldl
    | split

theorem restart_claims (r : StageIn) (s : State) : Claims s (restart r s) := by
  unfold restart
  repeat' first
    | with_reducible apply Claims.refl
    | with_reducible assumption
    | (intro (y : DupSt); subst y)
    | (intro y; with_reducible refine Claims.cut y ?_ ?_; (on_goal 2 => clear_value y; intro _); (on_goal 1 => subst y))
    | (intro y; clear_value y)
    | (intro y; subst y)
    | intro _
    | lift_lets -underBinder
    | (with_reducible apply Claims.step (Claims.of_within (restartDisp_within _ _) (by decide)))
    | (with_reducible apply Claims.step (Claims.of_within (restartLoops_within _ _) (by decide)))
    | (with_reducible apply Claims.step (restartCyc_claims _ _ _))
    | (with_reducible apply Claims.step (Claims.of_within (evt_within _ _ _ _) (by decide)))
    | (with_reducible apply Claims.step (Claims.of_within (setF_within _ _ _ _ _) (by decide)))
    | (with_reducible apply Claims.step (Claims.of_within (usePats_within _ _) (by decide)))
    | (simp -zeta only [Claims.of_mk]; with_reducible refine Claims.upd (by with_reducible rfl) ?_ (by exact Nat.le_refl _))
    | with_reducible apply Claims.ite
    | with_reducible apply Claims.foldl
    | split

theorem joinPair_claims (r : StageIn) (s : State) : Claims s (joinPair r s) := by
  unfold joinPair
  repeat' first
    | with_reducible apply Claims.refl
    | with_reducible assumption
    | (intro (y : DupSt); subst y)
    | (intro y; with_reducible refine Claims.cut y ?_ ?_; (on_goal 2 => clear_value y; intro _); (on_goal 1 => subst y))
    | (intro y; clear_value y)
    | (intro y; subst y)
    | intro _
    | lift_lets -underBinder
    | (with_reducible apply Claims.step (resync_claims _))
    | (with_reducible apply Claims.step (setRole_claims _ _))
    | ((with_reducible refine Claims.step (dupSet_claims _ _ ?_) ?_); (on_goal 1 => (intro y; first | exact Nat.le_refl _ | (dsimp only; split <;> exact Nat.le_refl _))))
    | (simp -zeta only [Claims.of_mk]; with_reducible refine Claims.upd (by with_reducible rfl) ?_ (by exact Nat.le_refl _))
    | with_reducible apply Claims.ite
    | with_reducible apply Claims.foldl
    | split

theorem stageWork_claims (k : Nat) (r : StageIn) (s : State) : Claims s (stageWork k r s) := by
  unfold stageWork
  repeat' first
    | with_reducible apply Claims.refl
    | with_reducible assumption
    | (intro (y : DupSt); subst y)
    | (intro y; with_reducible refine Claims.cut y ?_ ?_; (on_goal 2 => clear_value y; intro _); (on_goal 1 => subst y))
    | (intro y; clear_value y)
    | (intro y; subst y)
    | intro _
    | lift_lets -underBinder
    | (with_reducible apply Claims.step (Claims.of_within (updStage5_within _) (by decide)))
    | (with_reducible apply Claims.step (joinPair_claims _ _))
    | (with_reducible apply Claims.step (firstRound_claims _))
    | (with_reducible apply Claims.step (Claims.of_within (ethEnable_within _ _) (by decide)))
    | (with_reducible apply Claims.step (tlyStart_claims _ _ _ _))
    | (with_reducible apply Claims.step (restart_claims _ _))
    | (with_reducible apply Claims.step (Claims.of_within (sendMsg_within _ _) (by decide)))
    | (with_reducible apply Claims.step (Claims.of_within (rtcJump_within _ _ _) (by decide)))
    | (with_reducible apply Claims.step (Claims.of_within (ownerTake_within _) (by decide)))
    | (with_reducible apply Claims.step (raise_claims _ _))
    | (with_reducible apply Claims.step (Claims.of_within (deriveWorking_within _) (by decide)))
    | (with_reducible apply Claims.step (afterSlots_claims _ _))
    | (simp -zeta only [Claims.of_mk]; with_reducible refine Claims.upd (by with_reducible rfl) ?_ (by exact Nat.le_refl _))
    | with_reducible apply Claims.ite
    | with_reducible apply Claims.foldl
    | split

theorem stageComplete_claims (r : StageIn) (s : State) : Claims s (stageComplete r s) := by
  unfold stageComplete
  repeat' first
    | with_reducible apply Claims.refl
    | with_reducible assumption
    | (intro (y : DupSt); subst y)
    | (intro y; with_reducible refine Claims.cut y ?_ ?_; (on_goal 2 => clear_value y; intro _); (on_goal 1 => subst y))
    | (intro y; with_reducible refine Claims.cut y.2 ?_ ?_; (on_goal 2 => clear_value y; intro _); (on_goal 1 => subst y))
    | (intro y; clear_value y)
    | (intro y; subst y)
    | intro _
    | lift_lets -underBinder
    | (with_reducible apply Claims.step (stageWork_claims _ _ _))
    | (with_reducible apply Claims.step (Claims.of_within (setF_within _ _ _ _ _) (by decide)))
    | (with_reducible apply Claims.step (Claims.of_within (updImageFail_proj _) (by decide)))
    | (with_reducible apply Claims.step (Claims.of_within (updImageFail_eq ‹updImageFail _ = _›) (by decide)))
    | (simp -zeta only [Claims.of_mk]; with_reducible refine Claims.upd (by with_reducible rfl) ?_ (by exact Nat.le_refl _))
    | with_reducible apply Claims.ite
    | with_reducible apply Claims.foldl
    | split

theorem blockRestart_claims (b : Block) (s : State) : Claims s (blockRestart b s) := by
  unfold blockRestart
  repeat' first
    | with_reducible apply Claims.refl
    | with_reducible assumption
    | (intro (y : DupSt); subst y)
    | (intro y; with_reducible refine Claims.cut y ?_ ?_; (on_goal 2 => clear_value y; intro _); (on_goal 1 => subst y))
    | (intro y; clear_value y)
    | (intro y; subst y)
    | intro _
    | lift_lets -underBinder
    | (with_reducible apply Claims.step (Claims.of_within (clearWorking_within _) (by decide)))
    | (with_reducible apply Claims.step (Claims.of_within (deriveWorking_within _) (by decide)))
    | (with_reducible apply Claims.step (afterSlots_claims _ _))
    | (with_reducible apply Claims.step (Claims.of_within (sepFail_within _ _ _) (by decide)))
    | (with_reducible apply Claims.step (Claims.of_within (chuBlockReset_within _) (by decide)))
    | (with_reducible apply Claims.step (Claims.of_within (lpeBlockReset_within _) (by decide)))
    | (simp -zeta only [Claims.of_mk]; with_reducible refine Claims.upd (by with_reducible rfl) ?_ (by exact Nat.le_refl _))
    | with_reducible apply Claims.ite
    | with_reducible apply Claims.foldl
    | split

theorem reviewSources_claims (b : Block) (s : State) : Claims s (reviewSources b s) := by
  unfold reviewSources
  repeat' first
    | with_reducible apply Claims.refl
    | with_reducible assumption
    | (intro (y : DupSt); subst y)
    | (intro y; with_reducible refine Claims.cut y ?_ ?_; (on_goal 2 => clear_value y; intro _); (on_goal 1 => subst y))
    | (intro y; clear_value y)
    | (intro y; subst y)
    | intro _
    | lift_lets -underBinder
    | (with_reducible apply Claims.step (Claims.of_within (deactivate_within _ _) (by decide)))
    | (with_reducible apply Claims.step (occur_claims _ _ _ _))
    | (simp -zeta only [Claims.of_mk]; with_reducible refine Claims.upd (by with_reducible rfl) ?_ (by exact Nat.le_refl _))
    | with_reducible apply Claims.ite
    | with_reducible apply Claims.foldl
    | split

theorem startWaiting_claims (s : State) : Claims s (startWaiting s) := by
  unfold startWaiting
  repeat' first
    | with_reducible apply Claims.refl
    | with_reducible assumption
    | (intro (y : DupSt); subst y)
    | (intro y; with_reducible refine Claims.cut y ?_ ?_; (on_goal 2 => clear_value y; intro _); (on_goal 1 => subst y))
    | (intro y; clear_value y)
    | (intro y; subst y)
    | intro _
    | lift_lets -underBinder
    | (with_reducible apply Claims.step (reactBlk_claims _ _))
    | (simp -zeta only [Claims.of_mk]; with_reducible refine Claims.upd (by with_reducible rfl) ?_ (by exact Nat.le_refl _))
    | with_reducible apply Claims.ite
    | with_reducible apply Claims.foldl
    | split

theorem blockResetDone_claims (b : Block) (s : State) : Claims s (blockResetDone b s) := by
  unfold blockResetDone
  repeat' first
    | with_reducible apply Claims.refl
    | with_reducible assumption
    | (intro (y : DupSt); subst y)
    | (intro y; with_reducible refine Claims.cut y ?_ ?_; (on_goal 2 => clear_value y; intro _); (on_goal 1 => subst y))
    | (intro y; clear_value y)
    | (intro y; subst y)
    | intro _
    | lift_lets -underBinder
    | (with_reducible apply Claims.step (startWaiting_claims _))
    | (with_reducible apply Claims.step (blockRestart_claims _ _))
    | (with_reducible apply Claims.step (reviewSources_claims _ _))
    | (with_reducible apply Claims.step (Claims.of_within (setB_within _ _ _ _) (by decide)))
    | (simp -zeta only [Claims.of_mk]; with_reducible refine Claims.upd (by with_reducible rfl) ?_ (by exact Nat.le_refl _))
    | with_reducible apply Claims.ite
    | with_reducible apply Claims.foldl
    | split

theorem writeEth_claims (p : Nat) (v : Word) (s : State) : Claims s (writeEth p v s) := by
  unfold writeEth
  repeat' first
    | with_reducible apply Claims.refl
    | with_reducible assumption
    | (intro (y : DupSt); subst y)
    | (intro y; with_reducible refine Claims.cut y ?_ ?_; (on_goal 2 => clear_value y; intro _); (on_goal 1 => subst y))
    | (intro y; clear_value y)
    | (intro y; subst y)
    | intro _
    | lift_lets -underBinder
    | (with_reducible apply Claims.step (Claims.of_within (ethEnable_within _ _) (by decide)))
    | (with_reducible apply Claims.step (Claims.of_within (announceTimeout_within _) (by decide)))
    | (with_reducible apply Claims.step (ringLink_claims _ _ _))
    | (with_reducible apply Claims.step (cagePower_claims _ _))
    | (with_reducible apply Claims.step (Claims.of_within (plainWrite_within _ _ _) (by decide)))
    | (simp -zeta only [Claims.of_mk]; with_reducible refine Claims.upd (by with_reducible rfl) ?_ (by exact Nat.le_refl _))
    | with_reducible apply Claims.ite
    | with_reducible apply Claims.foldl
    | split

theorem writeFio_claims (x1 : Nat) (v : Word) (s : State) : Claims s (writeFio x1 v s) := by
  unfold writeFio
  repeat' first
    | with_reducible apply Claims.refl
    | with_reducible assumption
    | (intro (y : DupSt); subst y)
    | (intro y; with_reducible refine Claims.cut y ?_ ?_; (on_goal 2 => clear_value y; intro _); (on_goal 1 => subst y))
    | (intro y; clear_value y)
    | (intro y; subst y)
    | intro _
    | lift_lets -underBinder
    | (with_reducible apply Claims.step (Claims.of_within (putCan_within _ _ _) (by decide)))
    | (with_reducible apply Claims.step (Claims.of_within (rejoin_within _ _) (by decide)))
    | (with_reducible apply Claims.step (writeEth_claims _ _ _))
    | (with_reducible apply Claims.step (Claims.of_within (plainWrite_within _ _ _) (by decide)))
    | (with_reducible apply Claims.step (Claims.of_within (writeIgnored_within _ _ _) (by decide)))
    | (simp -zeta only [Claims.of_mk]; with_reducible refine Claims.upd (by with_reducible rfl) ?_ (by exact Nat.le_refl _))
    | with_reducible apply Claims.ite
    | with_reducible apply Claims.foldl
    | split

theorem writeGlb_claims (x1 : Nat) (v : Word) (s : State) : Claims s (writeGlb x1 v s) := by
  unfold writeGlb
  repeat' first
    | with_reducible apply Claims.refl
    | with_reducible assumption
    | (intro (y : DupSt); subst y)
    | (intro y; with_reducible refine Claims.cut y ?_ ?_; (on_goal 2 => clear_value y; intro _); (on_goal 1 => subst y))
    | (intro y; clear_value y)
    | (intro y; subst y)
    | intro _
    | lift_lets -underBinder
    | (with_reducible apply Claims.step (Claims.of_within (plainWrite_within _ _ _) (by decide)))
    | (with_reducible apply Claims.step (Claims.of_within (lockset_within _ _) (by decide)))
    | (with_reducible apply Claims.step (Claims.of_within (blkrst_within _ _) (by decide)))
    | (with_reducible apply Claims.step (beginHoldup_claims _ _))
    | (with_reducible apply Claims.step (beginModReset_claims _ _ _ _))
    | (with_reducible apply Claims.step (Claims.of_within (writeIgnored_within _ _ _) (by decide)))
    | (simp -zeta only [Claims.of_mk]; with_reducible refine Claims.upd (by with_reducible rfl) ?_ (by exact Nat.le_refl _))
    | with_reducible apply Claims.ite
    | with_reducible apply Claims.foldl
    | split

theorem regWrite_claims (x1 : Nat) (v : Word) (s : State) : Claims s (regWrite x1 v s) := by
  unfold regWrite
  repeat' first
    | with_reducible apply Claims.refl
    | with_reducible assumption
    | (intro (y : DupSt); subst y)
    | (intro y; with_reducible refine Claims.cut y ?_ ?_; (on_goal 2 => clear_value y; intro _); (on_goal 1 => subst y))
    | (intro y; clear_value y)
    | (intro y; subst y)
    | intro _
    | lift_lets -underBinder
    | (with_reducible apply Claims.step (writeGlb_claims _ _ _))
    | (with_reducible apply Claims.step (Claims.of_within (updSet_within _ _) (by decide)))
    | (with_reducible apply Claims.step (Claims.of_within (tampcfgWrite_within _ _) (by decide)))
    | (with_reducible apply Claims.step (writeFio_claims _ _ _))
    | (with_reducible apply Claims.step (Claims.of_within (writeTly_within _ _ _) (by decide)))
    | (with_reducible apply Claims.step (Claims.of_within (ctrCtrlRebuild_within _) (by decide)))
    | (with_reducible apply Claims.step (Claims.of_within (flatStart_within _) (by decide)))
    | (with_reducible apply Claims.step (Claims.of_within (writeEvr_within _ _ _) (by decide)))
    | (with_reducible apply Claims.step (Claims.of_within (fcoActiveClear_within _ _ _) (by decide)))
    | (with_reducible apply Claims.step (fcoForce_claims _ _))
    | (with_reducible apply Claims.step (Claims.of_within (writeTim_within _ _ _) (by decide)))
    | (with_reducible apply Claims.step (Claims.of_within (plainWrite_within _ _ _) (by decide)))
    | (with_reducible apply Claims.step (Claims.of_within (sendPended_within _) (by decide)))
    | (with_reducible apply Claims.step (Claims.of_within (writeRing_within _ _ _) (by decide)))
    | (with_reducible apply Claims.step (Claims.of_within (writeIgnored_within _ _ _) (by decide)))
    | (simp -zeta only [Claims.of_mk]; with_reducible refine Claims.upd (by with_reducible rfl) ?_ (by exact Nat.le_refl _))
    | with_reducible apply Claims.ite
    | with_reducible apply Claims.foldl
    | split

theorem regWriteOp_claims (addr : Nat) (v : Word) (s : State) : Claims s (regWriteOp addr v s) := by
  unfold regWriteOp
  repeat' first
    | with_reducible apply Claims.refl
    | with_reducible assumption
    | (intro (y : DupSt); subst y)
    | (intro y; with_reducible refine Claims.cut y ?_ ?_; (on_goal 2 => clear_value y; intro _); (on_goal 1 => subst y))
    | (intro y; clear_value y)
    | (intro y; subst y)
    | intro _
    | lift_lets -underBinder
    | (with_reducible apply Claims.step (Claims.of_within (writeIgnored_within _ _ _) (by decide)))
    | (with_reducible apply Claims.step (regWrite_claims _ _ _))
    | (simp -zeta only [Claims.of_mk]; with_reducible refine Claims.upd (by with_reducible rfl) ?_ (by exact Nat.le_refl _))
    | with_reducible apply Claims.ite
    | with_reducible apply Claims.foldl
    | split

theorem access0_claims (write : Bool) (addr : Nat) (size : Nat) (value : Nat) (s : State) : Claims s (access0 write addr size value s) := by
  unfold access0
  repeat' first
    | with_reducible apply Claims.refl
    | with_reducible assumption
    | (intro (y : DupSt); subst y)
    | (intro y; with_reducible refine Claims.cut y ?_ ?_; (on_goal 2 => clear_value y; intro _); (on_goal 1 => subst y))
    | (intro y; clear_value y)
    | (intro y; subst y)
    | intro _
    | lift_lets -underBinder
    | (with_reducible apply Claims.step (Claims.of_within (cutRead_within _ _ _) (by decide)))
    | (with_reducible apply Claims.step (regWrite_claims _ _ _))
    | (with_reducible apply Claims.step (Claims.of_within (emit_within _ _) (by decide)))
    | (with_reducible apply Claims.step (Claims.of_within (writeIgnored_within _ _ _) (by decide)))
    | (simp -zeta only [Claims.of_mk]; with_reducible refine Claims.upd (by with_reducible rfl) ?_ (by exact Nat.le_refl _))
    | with_reducible apply Claims.ite
    | with_reducible apply Claims.foldl
    | split

theorem accessPart_claims (bar2 : Bool) (write : Bool) (addr : Nat) (size : Nat) (value : Nat) (s : State) : Claims s (accessPart bar2 write addr size value s) := by
  unfold accessPart
  repeat' first
    | with_reducible apply Claims.refl
    | with_reducible assumption
    | (intro (y : DupSt); subst y)
    | (intro y; with_reducible refine Claims.cut y ?_ ?_; (on_goal 2 => clear_value y; intro _); (on_goal 1 => subst y))
    | (intro y; clear_value y)
    | (intro y; subst y)
    | intro _
    | lift_lets -underBinder
    | (with_reducible apply readBy_claims)
    | (with_reducible apply Claims.step (access0_claims _ _ _ _ _))
    | (with_reducible apply writeBy_claims)
    | (with_reducible apply Claims.step (Claims.of_within (access2_within _ _ _ _ _) (by decide)))
    | (simp -zeta only [Claims.of_mk]; with_reducible refine Claims.upd (by with_reducible rfl) ?_ (by exact Nat.le_refl _))
    | with_reducible apply Claims.ite
    | with_reducible apply Claims.foldl
    | split

theorem misaligned_claims (x : Access) (s : State) : Claims s (misaligned x s) := by
  unfold misaligned
  repeat' first
    | with_reducible apply Claims.refl
    | with_reducible assumption
    | (intro (y : DupSt); subst y)
    | (intro y; with_reducible refine Claims.cut y ?_ ?_; (on_goal 2 => clear_value y; intro _); (on_goal 1 => subst y))
    | (intro y; clear_value y)
    | (intro y; subst y)
    | intro _
    | lift_lets -underBinder
    | (with_reducible apply Claims.step (accessPart_claims _ _ _ _ _ _))
    | (simp -zeta only [Claims.of_mk]; with_reducible refine Claims.upd (by with_reducible rfl) ?_ (by exact Nat.le_refl _))
    | with_reducible apply Claims.ite
    | with_reducible apply Claims.foldl
    | split

end Sys2Proof.Machine
end

