-- ==== Sys2Proof/Laws/State.lean ====
section
/-!
SUPPORT. The shared operations, field by field: what each leaves as it was, and what a register reads after it.
-/
set_option Elab.async false
namespace Sys2Proof.Machine

@[simp] theorem setReg_cfg (x1 : Nat) (w : Word) (s : State) : (setReg x1 w s).cfg = s.cfg :=
  (setReg_within x1 w s).parts .cfg (by decide)
@[simp] theorem setReg_hif (x1 : Nat) (w : Word) (s : State) : (setReg x1 w s).hif = s.hif :=
  (setReg_within x1 w s).parts .hif (by decide)
@[simp] theorem setReg_pwr (x1 : Nat) (w : Word) (s : State) : (setReg x1 w s).pwr = s.pwr :=
  (setReg_within x1 w s).parts .pwr (by decide)
@[simp] theorem setReg_start (x1 : Nat) (w : Word) (s : State) : (setReg x1 w s).start = s.start :=
  (setReg_within x1 w s).parts .start (by decide)
@[simp] theorem setReg_fco (x1 : Nat) (w : Word) (s : State) : (setReg x1 w s).fco = s.fco :=
  (setReg_within x1 w s).parts .fco (by decide)
@[simp] theorem setReg_evr (x1 : Nat) (w : Word) (s : State) : (setReg x1 w s).evr = s.evr :=
  (setReg_within x1 w s).parts .evr (by decide)
@[simp] theorem setReg_pmc (x1 : Nat) (w : Word) (s : State) : (setReg x1 w s).pmc = s.pmc :=
  (setReg_within x1 w s).parts .pmc (by decide)
@[simp] theorem setReg_dup (x1 : Nat) (w : Word) (s : State) : (setReg x1 w s).dup = s.dup :=
  (setReg_within x1 w s).parts .dup (by decide)
@[simp] theorem setReg_tim (x1 : Nat) (w : Word) (s : State) : (setReg x1 w s).tim = s.tim :=
  (setReg_within x1 w s).parts .tim (by decide)
@[simp] theorem setReg_kst (x1 : Nat) (w : Word) (s : State) : (setReg x1 w s).kst = s.kst :=
  (setReg_within x1 w s).parts .kst (by decide)
@[simp] theorem setReg_model (x1 : Nat) (w : Word) (s : State) : (setReg x1 w s).model = s.model :=
  (setReg_within x1 w s).parts .model (by decide)
@[simp] theorem setReg_rnd (x1 : Nat) (w : Word) (s : State) : (setReg x1 w s).rnd = s.rnd :=
  (setReg_within x1 w s).parts .rnd (by decide)
@[simp] theorem setReg_chu (x1 : Nat) (w : Word) (s : State) : (setReg x1 w s).chu = s.chu :=
  (setReg_within x1 w s).parts .chu (by decide)
@[simp] theorem setReg_sep (x1 : Nat) (w : Word) (s : State) : (setReg x1 w s).sep = s.sep :=
  (setReg_within x1 w s).parts .sep (by decide)
@[simp] theorem setReg_ctr (x1 : Nat) (w : Word) (s : State) : (setReg x1 w s).ctr = s.ctr :=
  (setReg_within x1 w s).parts .ctr (by decide)
@[simp] theorem setReg_disp (x1 : Nat) (w : Word) (s : State) : (setReg x1 w s).disp = s.disp :=
  (setReg_within x1 w s).parts .disp (by decide)
@[simp] theorem setReg_lpe (x1 : Nat) (w : Word) (s : State) : (setReg x1 w s).lpe = s.lpe :=
  (setReg_within x1 w s).parts .lpe (by decide)
@[simp] theorem setReg_tly (x1 : Nat) (w : Word) (s : State) : (setReg x1 w s).tly = s.tly :=
  (setReg_within x1 w s).parts .tly (by decide)
@[simp] theorem setReg_cyc (x1 : Nat) (w : Word) (s : State) : (setReg x1 w s).cyc = s.cyc :=
  (setReg_within x1 w s).parts .cyc (by decide)
@[simp] theorem setReg_fio (x1 : Nat) (w : Word) (s : State) : (setReg x1 w s).fio = s.fio :=
  (setReg_within x1 w s).parts .fio (by decide)
@[simp] theorem setReg_upd (x1 : Nat) (w : Word) (s : State) : (setReg x1 w s).upd = s.upd :=
  (setReg_within x1 w s).parts .upd (by decide)
@[simp] theorem setReg_out (x1 : Nat) (w : Word) (s : State) : (setReg x1 w s).out = s.out :=
  (setReg_within x1 w s).parts .out (by decide)
@[simp] theorem setReg_free (x1 : Nat) (w : Word) (s : State) : (setReg x1 w s).free = s.free :=
  (setReg_within x1 w s).parts .free (by decide)
@[simp] theorem setReg_pending (x1 : Nat) (w : Word) (s : State) : (setReg x1 w s).pending = s.pending := (setReg_within x1 w s).pending

@[simp] theorem setF_cfg (x1 : Nat) (hi : Nat) (lo : Nat) (v : Nat) (s : State) : (setF x1 hi lo v s).cfg = s.cfg :=
  (setF_within x1 hi lo v s).parts .cfg (by decide)
@[simp] theorem setF_hif (x1 : Nat) (hi : Nat) (lo : Nat) (v : Nat) (s : State) : (setF x1 hi lo v s).hif = s.hif :=
  (setF_within x1 hi lo v s).parts .hif (by decide)
@[simp] theorem setF_pwr (x1 : Nat) (hi : Nat) (lo : Nat) (v : Nat) (s : State) : (setF x1 hi lo v s).pwr = s.pwr :=
  (setF_within x1 hi lo v s).parts .pwr (by decide)
@[simp] theorem setF_start (x1 : Nat) (hi : Nat) (lo : Nat) (v : Nat) (s : State) : (setF x1 hi lo v s).start = s.start :=
  (setF_within x1 hi lo v s).parts .start (by decide)
@[simp] theorem setF_fco (x1 : Nat) (hi : Nat) (lo : Nat) (v : Nat) (s : State) : (setF x1 hi lo v s).fco = s.fco :=
  (setF_within x1 hi lo v s).parts .fco (by decide)
@[simp] theorem setF_evr (x1 : Nat) (hi : Nat) (lo : Nat) (v : Nat) (s : State) : (setF x1 hi lo v s).evr = s.evr :=
  (setF_within x1 hi lo v s).parts .evr (by decide)
@[simp] theorem setF_pmc (x1 : Nat) (hi : Nat) (lo : Nat) (v : Nat) (s : State) : (setF x1 hi lo v s).pmc = s.pmc :=
  (setF_within x1 hi lo v s).parts .pmc (by decide)
@[simp] theorem setF_dup (x1 : Nat) (hi : Nat) (lo : Nat) (v : Nat) (s : State) : (setF x1 hi lo v s).dup = s.dup :=
  (setF_within x1 hi lo v s).parts .dup (by decide)
@[simp] theorem setF_tim (x1 : Nat) (hi : Nat) (lo : Nat) (v : Nat) (s : State) : (setF x1 hi lo v s).tim = s.tim :=
  (setF_within x1 hi lo v s).parts .tim (by decide)
@[simp] theorem setF_kst (x1 : Nat) (hi : Nat) (lo : Nat) (v : Nat) (s : State) : (setF x1 hi lo v s).kst = s.kst :=
  (setF_within x1 hi lo v s).parts .kst (by decide)
@[simp] theorem setF_model (x1 : Nat) (hi : Nat) (lo : Nat) (v : Nat) (s : State) : (setF x1 hi lo v s).model = s.model :=
  (setF_within x1 hi lo v s).parts .model (by decide)
@[simp] theorem setF_rnd (x1 : Nat) (hi : Nat) (lo : Nat) (v : Nat) (s : State) : (setF x1 hi lo v s).rnd = s.rnd :=
  (setF_within x1 hi lo v s).parts .rnd (by decide)
@[simp] theorem setF_chu (x1 : Nat) (hi : Nat) (lo : Nat) (v : Nat) (s : State) : (setF x1 hi lo v s).chu = s.chu :=
  (setF_within x1 hi lo v s).parts .chu (by decide)
@[simp] theorem setF_sep (x1 : Nat) (hi : Nat) (lo : Nat) (v : Nat) (s : State) : (setF x1 hi lo v s).sep = s.sep :=
  (setF_within x1 hi lo v s).parts .sep (by decide)
@[simp] theorem setF_ctr (x1 : Nat) (hi : Nat) (lo : Nat) (v : Nat) (s : State) : (setF x1 hi lo v s).ctr = s.ctr :=
  (setF_within x1 hi lo v s).parts .ctr (by decide)
@[simp] theorem setF_disp (x1 : Nat) (hi : Nat) (lo : Nat) (v : Nat) (s : State) : (setF x1 hi lo v s).disp = s.disp :=
  (setF_within x1 hi lo v s).parts .disp (by decide)
@[simp] theorem setF_lpe (x1 : Nat) (hi : Nat) (lo : Nat) (v : Nat) (s : State) : (setF x1 hi lo v s).lpe = s.lpe :=
  (setF_within x1 hi lo v s).parts .lpe (by decide)
@[simp] theorem setF_tly (x1 : Nat) (hi : Nat) (lo : Nat) (v : Nat) (s : State) : (setF x1 hi lo v s).tly = s.tly :=
  (setF_within x1 hi lo v s).parts .tly (by decide)
@[simp] theorem setF_cyc (x1 : Nat) (hi : Nat) (lo : Nat) (v : Nat) (s : State) : (setF x1 hi lo v s).cyc = s.cyc :=
  (setF_within x1 hi lo v s).parts .cyc (by decide)
@[simp] theorem setF_fio (x1 : Nat) (hi : Nat) (lo : Nat) (v : Nat) (s : State) : (setF x1 hi lo v s).fio = s.fio :=
  (setF_within x1 hi lo v s).parts .fio (by decide)
@[simp] theorem setF_upd (x1 : Nat) (hi : Nat) (lo : Nat) (v : Nat) (s : State) : (setF x1 hi lo v s).upd = s.upd :=
  (setF_within x1 hi lo v s).parts .upd (by decide)
@[simp] theorem setF_out (x1 : Nat) (hi : Nat) (lo : Nat) (v : Nat) (s : State) : (setF x1 hi lo v s).out = s.out :=
  (setF_within x1 hi lo v s).parts .out (by decide)
@[simp] theorem setF_free (x1 : Nat) (hi : Nat) (lo : Nat) (v : Nat) (s : State) : (setF x1 hi lo v s).free = s.free :=
  (setF_within x1 hi lo v s).parts .free (by decide)
@[simp] theorem setF_pending (x1 : Nat) (hi : Nat) (lo : Nat) (v : Nat) (s : State) : (setF x1 hi lo v s).pending = s.pending := (setF_within x1 hi lo v s).pending
theorem getReg_setF_other (z : Nat) (x1 : Nat) (hi : Nat) (lo : Nat) (v : Nat) (s : State) (h : z ∉ [x1]) : getReg z (setF x1 hi lo v s) = getReg z s :=
  (setF_within x1 hi lo v s).regs _ rfl z h

@[simp] theorem setB_cfg (x1 : Nat) (i : Nat) (b : Bool) (s : State) : (setB x1 i b s).cfg = s.cfg :=
  (setB_within x1 i b s).parts .cfg (by decide)
@[simp] theorem setB_hif (x1 : Nat) (i : Nat) (b : Bool) (s : State) : (setB x1 i b s).hif = s.hif :=
  (setB_within x1 i b s).parts .hif (by decide)
@[simp] theorem setB_pwr (x1 : Nat) (i : Nat) (b : Bool) (s : State) : (setB x1 i b s).pwr = s.pwr :=
  (setB_within x1 i b s).parts .pwr (by decide)
@[simp] theorem setB_start (x1 : Nat) (i : Nat) (b : Bool) (s : State) : (setB x1 i b s).start = s.start :=
  (setB_within x1 i b s).parts .start (by decide)
@[simp] theorem setB_fco (x1 : Nat) (i : Nat) (b : Bool) (s : State) : (setB x1 i b s).fco = s.fco :=
  (setB_within x1 i b s).parts .fco (by decide)
@[simp] theorem setB_evr (x1 : Nat) (i : Nat) (b : Bool) (s : State) : (setB x1 i b s).evr = s.evr :=
  (setB_within x1 i b s).parts .evr (by decide)
@[simp] theorem setB_pmc (x1 : Nat) (i : Nat) (b : Bool) (s : State) : (setB x1 i b s).pmc = s.pmc :=
  (setB_within x1 i b s).parts .pmc (by decide)
@[simp] theorem setB_dup (x1 : Nat) (i : Nat) (b : Bool) (s : State) : (setB x1 i b s).dup = s.dup :=
  (setB_within x1 i b s).parts .dup (by decide)
@[simp] theorem setB_tim (x1 : Nat) (i : Nat) (b : Bool) (s : State) : (setB x1 i b s).tim = s.tim :=
  (setB_within x1 i b s).parts .tim (by decide)
@[simp] theorem setB_kst (x1 : Nat) (i : Nat) (b : Bool) (s : State) : (setB x1 i b s).kst = s.kst :=
  (setB_within x1 i b s).parts .kst (by decide)
@[simp] theorem setB_model (x1 : Nat) (i : Nat) (b : Bool) (s : State) : (setB x1 i b s).model = s.model :=
  (setB_within x1 i b s).parts .model (by decide)
@[simp] theorem setB_rnd (x1 : Nat) (i : Nat) (b : Bool) (s : State) : (setB x1 i b s).rnd = s.rnd :=
  (setB_within x1 i b s).parts .rnd (by decide)
@[simp] theorem setB_chu (x1 : Nat) (i : Nat) (b : Bool) (s : State) : (setB x1 i b s).chu = s.chu :=
  (setB_within x1 i b s).parts .chu (by decide)
@[simp] theorem setB_sep (x1 : Nat) (i : Nat) (b : Bool) (s : State) : (setB x1 i b s).sep = s.sep :=
  (setB_within x1 i b s).parts .sep (by decide)
@[simp] theorem setB_ctr (x1 : Nat) (i : Nat) (b : Bool) (s : State) : (setB x1 i b s).ctr = s.ctr :=
  (setB_within x1 i b s).parts .ctr (by decide)
@[simp] theorem setB_disp (x1 : Nat) (i : Nat) (b : Bool) (s : State) : (setB x1 i b s).disp = s.disp :=
  (setB_within x1 i b s).parts .disp (by decide)
@[simp] theorem setB_lpe (x1 : Nat) (i : Nat) (b : Bool) (s : State) : (setB x1 i b s).lpe = s.lpe :=
  (setB_within x1 i b s).parts .lpe (by decide)
@[simp] theorem setB_tly (x1 : Nat) (i : Nat) (b : Bool) (s : State) : (setB x1 i b s).tly = s.tly :=
  (setB_within x1 i b s).parts .tly (by decide)
@[simp] theorem setB_cyc (x1 : Nat) (i : Nat) (b : Bool) (s : State) : (setB x1 i b s).cyc = s.cyc :=
  (setB_within x1 i b s).parts .cyc (by decide)
@[simp] theorem setB_fio (x1 : Nat) (i : Nat) (b : Bool) (s : State) : (setB x1 i b s).fio = s.fio :=
  (setB_within x1 i b s).parts .fio (by decide)
@[simp] theorem setB_upd (x1 : Nat) (i : Nat) (b : Bool) (s : State) : (setB x1 i b s).upd = s.upd :=
  (setB_within x1 i b s).parts .upd (by decide)
@[simp] theorem setB_out (x1 : Nat) (i : Nat) (b : Bool) (s : State) : (setB x1 i b s).out = s.out :=
  (setB_within x1 i b s).parts .out (by decide)
@[simp] theorem setB_free (x1 : Nat) (i : Nat) (b : Bool) (s : State) : (setB x1 i b s).free = s.free :=
  (setB_within x1 i b s).parts .free (by decide)
@[simp] theorem setB_pending (x1 : Nat) (i : Nat) (b : Bool) (s : State) : (setB x1 i b s).pending = s.pending := (setB_within x1 i b s).pending
theorem getReg_setB_other (z : Nat) (x1 : Nat) (i : Nat) (b : Bool) (s : State) (h : z ∉ [x1]) : getReg z (setB x1 i b s) = getReg z s :=
  (setB_within x1 i b s).regs _ rfl z h

@[simp] theorem incReg_cfg (x1 : Nat) (n : Nat) (s : State) : (incReg x1 n s).cfg = s.cfg :=
  (incReg_within x1 n s).parts .cfg (by decide)
@[simp] theorem incReg_hif (x1 : Nat) (n : Nat) (s : State) : (incReg x1 n s).hif = s.hif :=
  (incReg_within x1 n s).parts .hif (by decide)
@[simp] theorem incReg_pwr (x1 : Nat) (n : Nat) (s : State) : (incReg x1 n s).pwr = s.pwr :=
  (incReg_within x1 n s).parts .pwr (by decide)
@[simp] theorem incReg_start (x1 : Nat) (n : Nat) (s : State) : (incReg x1 n s).start = s.start :=
  (incReg_within x1 n s).parts .start (by decide)
@[simp] theorem incReg_fco (x1 : Nat) (n : Nat) (s : State) : (incReg x1 n s).fco = s.fco :=
  (incReg_within x1 n s).parts .fco (by decide)
@[simp] theorem incReg_evr (x1 : Nat) (n : Nat) (s : State) : (incReg x1 n s).evr = s.evr :=
  (incReg_within x1 n s).parts .evr (by decide)
@[simp] theorem incReg_pmc (x1 : Nat) (n : Nat) (s : State) : (incReg x1 n s).pmc = s.pmc :=
  (incReg_within x1 n s).parts .pmc (by decide)
@[simp] theorem incReg_dup (x1 : Nat) (n : Nat) (s : State) : (incReg x1 n s).dup = s.dup :=
  (incReg_within x1 n s).parts .dup (by decide)
@[simp] theorem incReg_tim (x1 : Nat) (n : Nat) (s : State) : (incReg x1 n s).tim = s.tim :=
  (incReg_within x1 n s).parts .tim (by decide)
@[simp] theorem incReg_kst (x1 : Nat) (n : Nat) (s : State) : (incReg x1 n s).kst = s.kst :=
  (incReg_within x1 n s).parts .kst (by decide)
@[simp] theorem incReg_model (x1 : Nat) (n : Nat) (s : State) : (incReg x1 n s).model = s.model :=
  (incReg_within x1 n s).parts .model (by decide)
@[simp] theorem incReg_rnd (x1 : Nat) (n : Nat) (s : State) : (incReg x1 n s).rnd = s.rnd :=
  (incReg_within x1 n s).parts .rnd (by decide)
@[simp] theorem incReg_chu (x1 : Nat) (n : Nat) (s : State) : (incReg x1 n s).chu = s.chu :=
  (incReg_within x1 n s).parts .chu (by decide)
@[simp] theorem incReg_sep (x1 : Nat) (n : Nat) (s : State) : (incReg x1 n s).sep = s.sep :=
  (incReg_within x1 n s).parts .sep (by decide)
@[simp] theorem incReg_ctr (x1 : Nat) (n : Nat) (s : State) : (incReg x1 n s).ctr = s.ctr :=
  (incReg_within x1 n s).parts .ctr (by decide)
@[simp] theorem incReg_disp (x1 : Nat) (n : Nat) (s : State) : (incReg x1 n s).disp = s.disp :=
  (incReg_within x1 n s).parts .disp (by decide)
@[simp] theorem incReg_lpe (x1 : Nat) (n : Nat) (s : State) : (incReg x1 n s).lpe = s.lpe :=
  (incReg_within x1 n s).parts .lpe (by decide)
@[simp] theorem incReg_tly (x1 : Nat) (n : Nat) (s : State) : (incReg x1 n s).tly = s.tly :=
  (incReg_within x1 n s).parts .tly (by decide)
@[simp] theorem incReg_cyc (x1 : Nat) (n : Nat) (s : State) : (incReg x1 n s).cyc = s.cyc :=
  (incReg_within x1 n s).parts .cyc (by decide)
@[simp] theorem incReg_fio (x1 : Nat) (n : Nat) (s : State) : (incReg x1 n s).fio = s.fio :=
  (incReg_within x1 n s).parts .fio (by decide)
@[simp] theorem incReg_upd (x1 : Nat) (n : Nat) (s : State) : (incReg x1 n s).upd = s.upd :=
  (incReg_within x1 n s).parts .upd (by decide)
@[simp] theorem incReg_out (x1 : Nat) (n : Nat) (s : State) : (incReg x1 n s).out = s.out :=
  (incReg_within x1 n s).parts .out (by decide)
@[simp] theorem incReg_free (x1 : Nat) (n : Nat) (s : State) : (incReg x1 n s).free = s.free :=
  (incReg_within x1 n s).parts .free (by decide)
@[simp] theorem incReg_pending (x1 : Nat) (n : Nat) (s : State) : (incReg x1 n s).pending = s.pending := (incReg_within x1 n s).pending
theorem getReg_incReg_other (z : Nat) (x1 : Nat) (n : Nat) (s : State) (h : z ∉ [x1]) : getReg z (incReg x1 n s) = getReg z s :=
  (incReg_within x1 n s).regs _ rfl z h

@[simp] theorem setPair_cfg (x1 : Nat) (v : Nat) (s : State) : (setPair x1 v s).cfg = s.cfg :=
  (setPair_within x1 v s).parts .cfg (by decide)
@[simp] theorem setPair_hif (x1 : Nat) (v : Nat) (s : State) : (setPair x1 v s).hif = s.hif :=
  (setPair_within x1 v s).parts .hif (by decide)
@[simp] theorem setPair_pwr (x1 : Nat) (v : Nat) (s : State) : (setPair x1 v s).pwr = s.pwr :=
  (setPair_within x1 v s).parts .pwr (by decide)
@[simp] theorem setPair_start (x1 : Nat) (v : Nat) (s : State) : (setPair x1 v s).start = s.start :=
  (setPair_within x1 v s).parts .start (by decide)
@[simp] theorem setPair_fco (x1 : Nat) (v : Nat) (s : State) : (setPair x1 v s).fco = s.fco :=
  (setPair_within x1 v s).parts .fco (by decide)
@[simp] theorem setPair_evr (x1 : Nat) (v : Nat) (s : State) : (setPair x1 v s).evr = s.evr :=
  (setPair_within x1 v s).parts .evr (by decide)
@[simp] theorem setPair_pmc (x1 : Nat) (v : Nat) (s : State) : (setPair x1 v s).pmc = s.pmc :=
  (setPair_within x1 v s).parts .pmc (by decide)
@[simp] theorem setPair_dup (x1 : Nat) (v : Nat) (s : State) : (setPair x1 v s).dup = s.dup :=
  (setPair_within x1 v s).parts .dup (by decide)
@[simp] theorem setPair_tim (x1 : Nat) (v : Nat) (s : State) : (setPair x1 v s).tim = s.tim :=
  (setPair_within x1 v s).parts .tim (by decide)
@[simp] theorem setPair_kst (x1 : Nat) (v : Nat) (s : State) : (setPair x1 v s).kst = s.kst :=
  (setPair_within x1 v s).parts .kst (by decide)
@[simp] theorem setPair_model (x1 : Nat) (v : Nat) (s : State) : (setPair x1 v s).model = s.model :=
  (setPair_within x1 v s).parts .model (by decide)
@[simp] theorem setPair_rnd (x1 : Nat) (v : Nat) (s : State) : (setPair x1 v s).rnd = s.rnd :=
  (setPair_within x1 v s).parts .rnd (by decide)
@[simp] theorem setPair_chu (x1 : Nat) (v : Nat) (s : State) : (setPair x1 v s).chu = s.chu :=
  (setPair_within x1 v s).parts .chu (by decide)
@[simp] theorem setPair_sep (x1 : Nat) (v : Nat) (s : State) : (setPair x1 v s).sep = s.sep :=
  (setPair_within x1 v s).parts .sep (by decide)
@[simp] theorem setPair_ctr (x1 : Nat) (v : Nat) (s : State) : (setPair x1 v s).ctr = s.ctr :=
  (setPair_within x1 v s).parts .ctr (by decide)
@[simp] theorem setPair_disp (x1 : Nat) (v : Nat) (s : State) : (setPair x1 v s).disp = s.disp :=
  (setPair_within x1 v s).parts .disp (by decide)
@[simp] theorem setPair_lpe (x1 : Nat) (v : Nat) (s : State) : (setPair x1 v s).lpe = s.lpe :=
  (setPair_within x1 v s).parts .lpe (by decide)
@[simp] theorem setPair_tly (x1 : Nat) (v : Nat) (s : State) : (setPair x1 v s).tly = s.tly :=
  (setPair_within x1 v s).parts .tly (by decide)
@[simp] theorem setPair_cyc (x1 : Nat) (v : Nat) (s : State) : (setPair x1 v s).cyc = s.cyc :=
  (setPair_within x1 v s).parts .cyc (by decide)
@[simp] theorem setPair_fio (x1 : Nat) (v : Nat) (s : State) : (setPair x1 v s).fio = s.fio :=
  (setPair_within x1 v s).parts .fio (by decide)
@[simp] theorem setPair_upd (x1 : Nat) (v : Nat) (s : State) : (setPair x1 v s).upd = s.upd :=
  (setPair_within x1 v s).parts .upd (by decide)
@[simp] theorem setPair_out (x1 : Nat) (v : Nat) (s : State) : (setPair x1 v s).out = s.out :=
  (setPair_within x1 v s).parts .out (by decide)
@[simp] theorem setPair_free (x1 : Nat) (v : Nat) (s : State) : (setPair x1 v s).free = s.free :=
  (setPair_within x1 v s).parts .free (by decide)
@[simp] theorem setPair_pending (x1 : Nat) (v : Nat) (s : State) : (setPair x1 v s).pending = s.pending := (setPair_within x1 v s).pending
theorem getReg_setPair_other (z : Nat) (x1 : Nat) (v : Nat) (s : State) (h : z ∉ [x1 + 4, x1]) : getReg z (setPair x1 v s) = getReg z s :=
  (setPair_within x1 v s).regs _ rfl z h

@[simp] theorem emit_cfg (o : Out) (s : State) : (emit o s).cfg = s.cfg :=
  (emit_within o s).parts .cfg (by decide)
@[simp] theorem emit_hif (o : Out) (s : State) : (emit o s).hif = s.hif :=
  (emit_within o s).parts .hif (by decide)
@[simp] theorem emit_pwr (o : Out) (s : State) : (emit o s).pwr = s.pwr :=
  (emit_within o s).parts .pwr (by decide)
@[simp] theorem emit_start (o : Out) (s : State) : (emit o s).start = s.start :=
  (emit_within o s).parts .start (by decide)
@[simp] theorem emit_fco (o : Out) (s : State) : (emit o s).fco = s.fco :=
  (emit_within o s).parts .fco (by decide)
@[simp] theorem emit_evr (o : Out) (s : State) : (emit o s).evr = s.evr :=
  (emit_within o s).parts .evr (by decide)
@[simp] theorem emit_pmc (o : Out) (s : State) : (emit o s).pmc = s.pmc :=
  (emit_within o s).parts .pmc (by decide)
@[simp] theorem emit_dup (o : Out) (s : State) : (emit o s).dup = s.dup :=
  (emit_within o s).parts .dup (by decide)
@[simp] theorem emit_tim (o : Out) (s : State) : (emit o s).tim = s.tim :=
  (emit_within o s).parts .tim (by decide)
@[simp] theorem emit_kst (o : Out) (s : State) : (emit o s).kst = s.kst :=
  (emit_within o s).parts .kst (by decide)
@[simp] theorem emit_model (o : Out) (s : State) : (emit o s).model = s.model :=
  (emit_within o s).parts .model (by decide)
@[simp] theorem emit_rnd (o : Out) (s : State) : (emit o s).rnd = s.rnd :=
  (emit_within o s).parts .rnd (by decide)
@[simp] theorem emit_chu (o : Out) (s : State) : (emit o s).chu = s.chu :=
  (emit_within o s).parts .chu (by decide)
@[simp] theorem emit_sep (o : Out) (s : State) : (emit o s).sep = s.sep :=
  (emit_within o s).parts .sep (by decide)
@[simp] theorem emit_ctr (o : Out) (s : State) : (emit o s).ctr = s.ctr :=
  (emit_within o s).parts .ctr (by decide)
@[simp] theorem emit_disp (o : Out) (s : State) : (emit o s).disp = s.disp :=
  (emit_within o s).parts .disp (by decide)
@[simp] theorem emit_lpe (o : Out) (s : State) : (emit o s).lpe = s.lpe :=
  (emit_within o s).parts .lpe (by decide)
@[simp] theorem emit_tly (o : Out) (s : State) : (emit o s).tly = s.tly :=
  (emit_within o s).parts .tly (by decide)
@[simp] theorem emit_cyc (o : Out) (s : State) : (emit o s).cyc = s.cyc :=
  (emit_within o s).parts .cyc (by decide)
@[simp] theorem emit_fio (o : Out) (s : State) : (emit o s).fio = s.fio :=
  (emit_within o s).parts .fio (by decide)
@[simp] theorem emit_upd (o : Out) (s : State) : (emit o s).upd = s.upd :=
  (emit_within o s).parts .upd (by decide)
@[simp] theorem emit_free (o : Out) (s : State) : (emit o s).free = s.free :=
  (emit_within o s).parts .free (by decide)
@[simp] theorem emit_pending (o : Out) (s : State) : (emit o s).pending = s.pending := (emit_within o s).pending
@[simp] theorem getReg_emit (z : Nat) (o : Out) (s : State) : getReg z (emit o s) = getReg z s :=
  (emit_within o s).regs _ rfl z (by simp)

@[simp] theorem pmcAdd_cfg (event : Nat) (n : Nat) (s : State) : (pmcAdd event n s).cfg = s.cfg :=
  (pmcAdd_within event n s).parts .cfg (by decide)
@[simp] theorem pmcAdd_hif (event : Nat) (n : Nat) (s : State) : (pmcAdd event n s).hif = s.hif :=
  (pmcAdd_within event n s).parts .hif (by decide)
@[simp] theorem pmcAdd_pwr (event : Nat) (n : Nat) (s : State) : (pmcAdd event n s).pwr = s.pwr :=
  (pmcAdd_within event n s).parts .pwr (by decide)
@[simp] theorem pmcAdd_start (event : Nat) (n : Nat) (s : State) : (pmcAdd event n s).start = s.start :=
  (pmcAdd_within event n s).parts .start (by decide)
@[simp] theorem pmcAdd_fco (event : Nat) (n : Nat) (s : State) : (pmcAdd event n s).fco = s.fco :=
  (pmcAdd_within event n s).parts .fco (by decide)
@[simp] theorem pmcAdd_evr (event : Nat) (n : Nat) (s : State) : (pmcAdd event n s).evr = s.evr :=
  (pmcAdd_within event n s).parts .evr (by decide)
@[simp] theorem pmcAdd_dup (event : Nat) (n : Nat) (s : State) : (pmcAdd event n s).dup = s.dup :=
  (pmcAdd_within event n s).parts .dup (by decide)
@[simp] theorem pmcAdd_tim (event : Nat) (n : Nat) (s : State) : (pmcAdd event n s).tim = s.tim :=
  (pmcAdd_within event n s).parts .tim (by decide)
@[simp] theorem pmcAdd_kst (event : Nat) (n : Nat) (s : State) : (pmcAdd event n s).kst = s.kst :=
  (pmcAdd_within event n s).parts .kst (by decide)
@[simp] theorem pmcAdd_model (event : Nat) (n : Nat) (s : State) : (pmcAdd event n s).model = s.model :=
  (pmcAdd_within event n s).parts .model (by decide)
@[simp] theorem pmcAdd_rnd (event : Nat) (n : Nat) (s : State) : (pmcAdd event n s).rnd = s.rnd :=
  (pmcAdd_within event n s).parts .rnd (by decide)
@[simp] theorem pmcAdd_chu (event : Nat) (n : Nat) (s : State) : (pmcAdd event n s).chu = s.chu :=
  (pmcAdd_within event n s).parts .chu (by decide)
@[simp] theorem pmcAdd_sep (event : Nat) (n : Nat) (s : State) : (pmcAdd event n s).sep = s.sep :=
  (pmcAdd_within event n s).parts .sep (by decide)
@[simp] theorem pmcAdd_ctr (event : Nat) (n : Nat) (s : State) : (pmcAdd event n s).ctr = s.ctr :=
  (pmcAdd_within event n s).parts .ctr (by decide)
@[simp] theorem pmcAdd_disp (event : Nat) (n : Nat) (s : State) : (pmcAdd event n s).disp = s.disp :=
  (pmcAdd_within event n s).parts .disp (by decide)
@[simp] theorem pmcAdd_lpe (event : Nat) (n : Nat) (s : State) : (pmcAdd event n s).lpe = s.lpe :=
  (pmcAdd_within event n s).parts .lpe (by decide)
@[simp] theorem pmcAdd_tly (event : Nat) (n : Nat) (s : State) : (pmcAdd event n s).tly = s.tly :=
  (pmcAdd_within event n s).parts .tly (by decide)
@[simp] theorem pmcAdd_cyc (event : Nat) (n : Nat) (s : State) : (pmcAdd event n s).cyc = s.cyc :=
  (pmcAdd_within event n s).parts .cyc (by decide)
@[simp] theorem pmcAdd_fio (event : Nat) (n : Nat) (s : State) : (pmcAdd event n s).fio = s.fio :=
  (pmcAdd_within event n s).parts .fio (by decide)
@[simp] theorem pmcAdd_upd (event : Nat) (n : Nat) (s : State) : (pmcAdd event n s).upd = s.upd :=
  (pmcAdd_within event n s).parts .upd (by decide)
@[simp] theorem pmcAdd_out (event : Nat) (n : Nat) (s : State) : (pmcAdd event n s).out = s.out :=
  (pmcAdd_within event n s).parts .out (by decide)
@[simp] theorem pmcAdd_free (event : Nat) (n : Nat) (s : State) : (pmcAdd event n s).free = s.free :=
  (pmcAdd_within event n s).parts .free (by decide)
@[simp] theorem pmcAdd_pending (event : Nat) (n : Nat) (s : State) : (pmcAdd event n s).pending = s.pending := (pmcAdd_within event n s).pending
@[simp] theorem getReg_pmcAdd (z : Nat) (event : Nat) (n : Nat) (s : State) : getReg z (pmcAdd event n s) = getReg z s :=
  (pmcAdd_within event n s).regs _ rfl z (by simp)

@[simp] theorem bwAdd_cfg (p : Nat) (tx : Nat) (rx : Nat) (s : State) : (bwAdd p tx rx s).cfg = s.cfg :=
  (bwAdd_within p tx rx s).parts .cfg (by decide)
@[simp] theorem bwAdd_hif (p : Nat) (tx : Nat) (rx : Nat) (s : State) : (bwAdd p tx rx s).hif = s.hif :=
  (bwAdd_within p tx rx s).parts .hif (by decide)
@[simp] theorem bwAdd_pwr (p : Nat) (tx : Nat) (rx : Nat) (s : State) : (bwAdd p tx rx s).pwr = s.pwr :=
  (bwAdd_within p tx rx s).parts .pwr (by decide)
@[simp] theorem bwAdd_start (p : Nat) (tx : Nat) (rx : Nat) (s : State) : (bwAdd p tx rx s).start = s.start :=
  (bwAdd_within p tx rx s).parts .start (by decide)
@[simp] theorem bwAdd_fco (p : Nat) (tx : Nat) (rx : Nat) (s : State) : (bwAdd p tx rx s).fco = s.fco :=
  (bwAdd_within p tx rx s).parts .fco (by decide)
@[simp] theorem bwAdd_evr (p : Nat) (tx : Nat) (rx : Nat) (s : State) : (bwAdd p tx rx s).evr = s.evr :=
  (bwAdd_within p tx rx s).parts .evr (by decide)
@[simp] theorem bwAdd_dup (p : Nat) (tx : Nat) (rx : Nat) (s : State) : (bwAdd p tx rx s).dup = s.dup :=
  (bwAdd_within p tx rx s).parts .dup (by decide)
@[simp] theorem bwAdd_tim (p : Nat) (tx : Nat) (rx : Nat) (s : State) : (bwAdd p tx rx s).tim = s.tim :=
  (bwAdd_within p tx rx s).parts .tim (by decide)
@[simp] theorem bwAdd_kst (p : Nat) (tx : Nat) (rx : Nat) (s : State) : (bwAdd p tx rx s).kst = s.kst :=
  (bwAdd_within p tx rx s).parts .kst (by decide)
@[simp] theorem bwAdd_model (p : Nat) (tx : Nat) (rx : Nat) (s : State) : (bwAdd p tx rx s).model = s.model :=
  (bwAdd_within p tx rx s).parts .model (by decide)
@[simp] theorem bwAdd_rnd (p : Nat) (tx : Nat) (rx : Nat) (s : State) : (bwAdd p tx rx s).rnd = s.rnd :=
  (bwAdd_within p tx rx s).parts .rnd (by decide)
@[simp] theorem bwAdd_chu (p : Nat) (tx : Nat) (rx : Nat) (s : State) : (bwAdd p tx rx s).chu = s.chu :=
  (bwAdd_within p tx rx s).parts .chu (by decide)
@[simp] theorem bwAdd_sep (p : Nat) (tx : Nat) (rx : Nat) (s : State) : (bwAdd p tx rx s).sep = s.sep :=
  (bwAdd_within p tx rx s).parts .sep (by decide)
@[simp] theorem bwAdd_ctr (p : Nat) (tx : Nat) (rx : Nat) (s : State) : (bwAdd p tx rx s).ctr = s.ctr :=
  (bwAdd_within p tx rx s).parts .ctr (by decide)
@[simp] theorem bwAdd_disp (p : Nat) (tx : Nat) (rx : Nat) (s : State) : (bwAdd p tx rx s).disp = s.disp :=
  (bwAdd_within p tx rx s).parts .disp (by decide)
@[simp] theorem bwAdd_lpe (p : Nat) (tx : Nat) (rx : Nat) (s : State) : (bwAdd p tx rx s).lpe = s.lpe :=
  (bwAdd_within p tx rx s).parts .lpe (by decide)
@[simp] theorem bwAdd_tly (p : Nat) (tx : Nat) (rx : Nat) (s : State) : (bwAdd p tx rx s).tly = s.tly :=
  (bwAdd_within p tx rx s).parts .tly (by decide)
@[simp] theorem bwAdd_cyc (p : Nat) (tx : Nat) (rx : Nat) (s : State) : (bwAdd p tx rx s).cyc = s.cyc :=
  (bwAdd_within p tx rx s).parts .cyc (by decide)
@[simp] theorem bwAdd_fio (p : Nat) (tx : Nat) (rx : Nat) (s : State) : (bwAdd p tx rx s).fio = s.fio :=
  (bwAdd_within p tx rx s).parts .fio (by decide)
@[simp] theorem bwAdd_upd (p : Nat) (tx : Nat) (rx : Nat) (s : State) : (bwAdd p tx rx s).upd = s.upd :=
  (bwAdd_within p tx rx s).parts .upd (by decide)
@[simp] theorem bwAdd_out (p : Nat) (tx : Nat) (rx : Nat) (s : State) : (bwAdd p tx rx s).out = s.out :=
  (bwAdd_within p tx rx s).parts .out (by decide)
@[simp] theorem bwAdd_free (p : Nat) (tx : Nat) (rx : Nat) (s : State) : (bwAdd p tx rx s).free = s.free :=
  (bwAdd_within p tx rx s).parts .free (by decide)
@[simp] theorem bwAdd_pending (p : Nat) (tx : Nat) (rx : Nat) (s : State) : (bwAdd p tx rx s).pending = s.pending := (bwAdd_within p tx rx s).pending
@[simp] theorem getReg_bwAdd (z : Nat) (p : Nat) (tx : Nat) (rx : Nat) (s : State) : getReg z (bwAdd p tx rx s) = getReg z s :=
  (bwAdd_within p tx rx s).regs _ rfl z (by simp)

@[simp] theorem sendMsg_cfg (v : Nat) (s : State) : (sendMsg v s).cfg = s.cfg :=
  (sendMsg_within v s).parts .cfg (by decide)
@[simp] theorem sendMsg_pwr (v : Nat) (s : State) : (sendMsg v s).pwr = s.pwr :=
  (sendMsg_within v s).parts .pwr (by decide)
@[simp] theorem sendMsg_start (v : Nat) (s : State) : (sendMsg v s).start = s.start :=
  (sendMsg_within v s).parts .start (by decide)
@[simp] theorem sendMsg_fco (v : Nat) (s : State) : (sendMsg v s).fco = s.fco :=
  (sendMsg_within v s).parts .fco (by decide)
@[simp] theorem sendMsg_evr (v : Nat) (s : State) : (sendMsg v s).evr = s.evr :=
  (sendMsg_within v s).parts .evr (by decide)
@[simp] theorem sendMsg_dup (v : Nat) (s : State) : (sendMsg v s).dup = s.dup :=
  (sendMsg_within v s).parts .dup (by decide)
@[simp] theorem sendMsg_tim (v : Nat) (s : State) : (sendMsg v s).tim = s.tim :=
  (sendMsg_within v s).parts .tim (by decide)
@[simp] theorem sendMsg_kst (v : Nat) (s : State) : (sendMsg v s).kst = s.kst :=
  (sendMsg_within v s).parts .kst (by decide)
@[simp] theorem sendMsg_model (v : Nat) (s : State) : (sendMsg v s).model = s.model :=
  (sendMsg_within v s).parts .model (by decide)
@[simp] theorem sendMsg_rnd (v : Nat) (s : State) : (sendMsg v s).rnd = s.rnd :=
  (sendMsg_within v s).parts .rnd (by decide)
@[simp] theorem sendMsg_chu (v : Nat) (s : State) : (sendMsg v s).chu = s.chu :=
  (sendMsg_within v s).parts .chu (by decide)
@[simp] theorem sendMsg_sep (v : Nat) (s : State) : (sendMsg v s).sep = s.sep :=
  (sendMsg_within v s).parts .sep (by decide)
@[simp] theorem sendMsg_ctr (v : Nat) (s : State) : (sendMsg v s).ctr = s.ctr :=
  (sendMsg_within v s).parts .ctr (by decide)
@[simp] theorem sendMsg_disp (v : Nat) (s : State) : (sendMsg v s).disp = s.disp :=
  (sendMsg_within v s).parts .disp (by decide)
@[simp] theorem sendMsg_lpe (v : Nat) (s : State) : (sendMsg v s).lpe = s.lpe :=
  (sendMsg_within v s).parts .lpe (by decide)
@[simp] theorem sendMsg_tly (v : Nat) (s : State) : (sendMsg v s).tly = s.tly :=
  (sendMsg_within v s).parts .tly (by decide)
@[simp] theorem sendMsg_cyc (v : Nat) (s : State) : (sendMsg v s).cyc = s.cyc :=
  (sendMsg_within v s).parts .cyc (by decide)
@[simp] theorem sendMsg_fio (v : Nat) (s : State) : (sendMsg v s).fio = s.fio :=
  (sendMsg_within v s).parts .fio (by decide)
@[simp] theorem sendMsg_upd (v : Nat) (s : State) : (sendMsg v s).upd = s.upd :=
  (sendMsg_within v s).parts .upd (by decide)
@[simp] theorem sendMsg_free (v : Nat) (s : State) : (sendMsg v s).free = s.free :=
  (sendMsg_within v s).parts .free (by decide)
@[simp] theorem sendMsg_pending (v : Nat) (s : State) : (sendMsg v s).pending = s.pending := (sendMsg_within v s).pending
@[simp] theorem getReg_sendMsg (z : Nat) (v : Nat) (s : State) : getReg z (sendMsg v s) = getReg z s :=
  (sendMsg_within v s).regs _ rfl z (by simp)

@[simp] theorem setCause_cfg (stat : Nat) (en : Nat) (bit : Nat) (vec : Nat) (s : State) : (setCause stat en bit vec s).cfg = s.cfg :=
  (setCause_within stat en bit vec s).parts .cfg (by decide)
@[simp] theorem setCause_pwr (stat : Nat) (en : Nat) (bit : Nat) (vec : Nat) (s : State) : (setCause stat en bit vec s).pwr = s.pwr :=
  (setCause_within stat en bit vec s).parts .pwr (by decide)
@[simp] theorem setCause_start (stat : Nat) (en : Nat) (bit : Nat) (vec : Nat) (s : State) : (setCause stat en bit vec s).start = s.start :=
  (setCause_within stat en bit vec s).parts .start (by decide)
@[simp] theorem setCause_fco (stat : Nat) (en : Nat) (bit : Nat) (vec : Nat) (s : State) : (setCause stat en bit vec s).fco = s.fco :=
  (setCause_within stat en bit vec s).parts .fco (by decide)
@[simp] theorem setCause_evr (stat : Nat) (en : Nat) (bit : Nat) (vec : Nat) (s : State) : (setCause stat en bit vec s).evr = s.evr :=
  (setCause_within stat en bit vec s).parts .evr (by decide)
@[simp] theorem setCause_dup (stat : Nat) (en : Nat) (bit : Nat) (vec : Nat) (s : State) : (setCause stat en bit vec s).dup = s.dup :=
  (setCause_within stat en bit vec s).parts .dup (by decide)
@[simp] theorem setCause_tim (stat : Nat) (en : Nat) (bit : Nat) (vec : Nat) (s : State) : (setCause stat en bit vec s).tim = s.tim :=
  (setCause_within stat en bit vec s).parts .tim (by decide)
@[simp] theorem setCause_kst (stat : Nat) (en : Nat) (bit : Nat) (vec : Nat) (s : State) : (setCause stat en bit vec s).kst = s.kst :=
  (setCause_within stat en bit vec s).parts .kst (by decide)
@[simp] theorem setCause_model (stat : Nat) (en : Nat) (bit : Nat) (vec : Nat) (s : State) : (setCause stat en bit vec s).model = s.model :=
  (setCause_within stat en bit vec s).parts .model (by decide)
@[simp] theorem setCause_rnd (stat : Nat) (en : Nat) (bit : Nat) (vec : Nat) (s : State) : (setCause stat en bit vec s).rnd = s.rnd :=
  (setCause_within stat en bit vec s).parts .rnd (by decide)
@[simp] theorem setCause_chu (stat : Nat) (en : Nat) (bit : Nat) (vec : Nat) (s : State) : (setCause stat en bit vec s).chu = s.chu :=
  (setCause_within stat en bit vec s).parts .chu (by decide)
@[simp] theorem setCause_sep (stat : Nat) (en : Nat) (bit : Nat) (vec : Nat) (s : State) : (setCause stat en bit vec s).sep = s.sep :=
  (setCause_within stat en bit vec s).parts .sep (by decide)
@[simp] theorem setCause_ctr (stat : Nat) (en : Nat) (bit : Nat) (vec : Nat) (s : State) : (setCause stat en bit vec s).ctr = s.ctr :=
  (setCause_within stat en bit vec s).parts .ctr (by decide)
@[simp] theorem setCause_disp (stat : Nat) (en : Nat) (bit : Nat) (vec : Nat) (s : State) : (setCause stat en bit vec s).disp = s.disp :=
  (setCause_within stat en bit vec s).parts .disp (by decide)
@[simp] theorem setCause_lpe (stat : Nat) (en : Nat) (bit : Nat) (vec : Nat) (s : State) : (setCause stat en bit vec s).lpe = s.lpe :=
  (setCause_within stat en bit vec s).parts .lpe (by decide)
@[simp] theorem setCause_tly (stat : Nat) (en : Nat) (bit : Nat) (vec : Nat) (s : State) : (setCause stat en bit vec s).tly = s.tly :=
  (setCause_within stat en bit vec s).parts .tly (by decide)
@[simp] theorem setCause_cyc (stat : Nat) (en : Nat) (bit : Nat) (vec : Nat) (s : State) : (setCause stat en bit vec s).cyc = s.cyc :=
  (setCause_within stat en bit vec s).parts .cyc (by decide)
@[simp] theorem setCause_fio (stat : Nat) (en : Nat) (bit : Nat) (vec : Nat) (s : State) : (setCause stat en bit vec s).fio = s.fio :=
  (setCause_within stat en bit vec s).parts .fio (by decide)
@[simp] theorem setCause_upd (stat : Nat) (en : Nat) (bit : Nat) (vec : Nat) (s : State) : (setCause stat en bit vec s).upd = s.upd :=
  (setCause_within stat en bit vec s).parts .upd (by decide)
@[simp] theorem setCause_free (stat : Nat) (en : Nat) (bit : Nat) (vec : Nat) (s : State) : (setCause stat en bit vec s).free = s.free :=
  (setCause_within stat en bit vec s).parts .free (by decide)
@[simp] theorem setCause_pending (stat : Nat) (en : Nat) (bit : Nat) (vec : Nat) (s : State) : (setCause stat en bit vec s).pending = s.pending := (setCause_within stat en bit vec s).pending
theorem getReg_setCause_other (z : Nat) (stat : Nat) (en : Nat) (bit : Nat) (vec : Nat) (s : State) (h : z ∉ [stat]) : getReg z (setCause stat en bit vec s) = getReg z s :=
  (setCause_within stat en bit vec s).regs _ rfl z h

@[simp] theorem putRing_cfg (pair : Nat) (r : Ring) (s : State) : (putRing pair r s).cfg = s.cfg :=
  (putRing_within pair r s).parts .cfg (by decide)
@[simp] theorem putRing_pwr (pair : Nat) (r : Ring) (s : State) : (putRing pair r s).pwr = s.pwr :=
  (putRing_within pair r s).parts .pwr (by decide)
@[simp] theorem putRing_start (pair : Nat) (r : Ring) (s : State) : (putRing pair r s).start = s.start :=
  (putRing_within pair r s).parts .start (by decide)
@[simp] theorem putRing_fco (pair : Nat) (r : Ring) (s : State) : (putRing pair r s).fco = s.fco :=
  (putRing_within pair r s).parts .fco (by decide)
@[simp] theorem putRing_evr (pair : Nat) (r : Ring) (s : State) : (putRing pair r s).evr = s.evr :=
  (putRing_within pair r s).parts .evr (by decide)
@[simp] theorem putRing_pmc (pair : Nat) (r : Ring) (s : State) : (putRing pair r s).pmc = s.pmc :=
  (putRing_within pair r s).parts .pmc (by decide)
@[simp] theorem putRing_dup (pair : Nat) (r : Ring) (s : State) : (putRing pair r s).dup = s.dup :=
  (putRing_within pair r s).parts .dup (by decide)
@[simp] theorem putRing_tim (pair : Nat) (r : Ring) (s : State) : (putRing pair r s).tim = s.tim :=
  (putRing_within pair r s).parts .tim (by decide)
@[simp] theorem putRing_kst (pair : Nat) (r : Ring) (s : State) : (putRing pair r s).kst = s.kst :=
  (putRing_within pair r s).parts .kst (by decide)
@[simp] theorem putRing_model (pair : Nat) (r : Ring) (s : State) : (putRing pair r s).model = s.model :=
  (putRing_within pair r s).parts .model (by decide)
@[simp] theorem putRing_rnd (pair : Nat) (r : Ring) (s : State) : (putRing pair r s).rnd = s.rnd :=
  (putRing_within pair r s).parts .rnd (by decide)
@[simp] theorem putRing_chu (pair : Nat) (r : Ring) (s : State) : (putRing pair r s).chu = s.chu :=
  (putRing_within pair r s).parts .chu (by decide)
@[simp] theorem putRing_sep (pair : Nat) (r : Ring) (s : State) : (putRing pair r s).sep = s.sep :=
  (putRing_within pair r s).parts .sep (by decide)
@[simp] theorem putRing_ctr (pair : Nat) (r : Ring) (s : State) : (putRing pair r s).ctr = s.ctr :=
  (putRing_within pair r s).parts .ctr (by decide)
@[simp] theorem putRing_disp (pair : Nat) (r : Ring) (s : State) : (putRing pair r s).disp = s.disp :=
  (putRing_within pair r s).parts .disp (by decide)
@[simp] theorem putRing_lpe (pair : Nat) (r : Ring) (s : State) : (putRing pair r s).lpe = s.lpe :=
  (putRing_within pair r s).parts .lpe (by decide)
@[simp] theorem putRing_tly (pair : Nat) (r : Ring) (s : State) : (putRing pair r s).tly = s.tly :=
  (putRing_within pair r s).parts .tly (by decide)
@[simp] theorem putRing_cyc (pair : Nat) (r : Ring) (s : State) : (putRing pair r s).cyc = s.cyc :=
  (putRing_within pair r s).parts .cyc (by decide)
@[simp] theorem putRing_fio (pair : Nat) (r : Ring) (s : State) : (putRing pair r s).fio = s.fio :=
  (putRing_within pair r s).parts .fio (by decide)
@[simp] theorem putRing_upd (pair : Nat) (r : Ring) (s : State) : (putRing pair r s).upd = s.upd :=
  (putRing_within pair r s).parts .upd (by decide)
@[simp] theorem putRing_out (pair : Nat) (r : Ring) (s : State) : (putRing pair r s).out = s.out :=
  (putRing_within pair r s).parts .out (by decide)
@[simp] theorem putRing_free (pair : Nat) (r : Ring) (s : State) : (putRing pair r s).free = s.free :=
  (putRing_within pair r s).parts .free (by decide)
@[simp] theorem putRing_pending (pair : Nat) (r : Ring) (s : State) : (putRing pair r s).pending = s.pending := (putRing_within pair r s).pending
@[simp] theorem getReg_putRing (z : Nat) (pair : Nat) (r : Ring) (s : State) : getReg z (putRing pair r s) = getReg z s :=
  (putRing_within pair r s).regs _ rfl z (by simp)

@[simp] theorem signalPair_cfg (pair : Nat) (s : State) : (signalPair pair s).cfg = s.cfg :=
  (signalPair_within pair s).parts .cfg (by decide)
@[simp] theorem signalPair_pwr (pair : Nat) (s : State) : (signalPair pair s).pwr = s.pwr :=
  (signalPair_within pair s).parts .pwr (by decide)
@[simp] theorem signalPair_start (pair : Nat) (s : State) : (signalPair pair s).start = s.start :=
  (signalPair_within pair s).parts .start (by decide)
@[simp] theorem signalPair_fco (pair : Nat) (s : State) : (signalPair pair s).fco = s.fco :=
  (signalPair_within pair s).parts .fco (by decide)
@[simp] theorem signalPair_evr (pair : Nat) (s : State) : (signalPair pair s).evr = s.evr :=
  (signalPair_within pair s).parts .evr (by decide)
@[simp] theorem signalPair_dup (pair : Nat) (s : State) : (signalPair pair s).dup = s.dup :=
  (signalPair_within pair s).parts .dup (by decide)
@[simp] theorem signalPair_tim (pair : Nat) (s : State) : (signalPair pair s).tim = s.tim :=
  (signalPair_within pair s).parts .tim (by decide)
@[simp] theorem signalPair_kst (pair : Nat) (s : State) : (signalPair pair s).kst = s.kst :=
  (signalPair_within pair s).parts .kst (by decide)
@[simp] theorem signalPair_model (pair : Nat) (s : State) : (signalPair pair s).model = s.model :=
  (signalPair_within pair s).parts .model (by decide)
@[simp] theorem signalPair_rnd (pair : Nat) (s : State) : (signalPair pair s).rnd = s.rnd :=
  (signalPair_within pair s).parts .rnd (by decide)
@[simp] theorem signalPair_chu (pair : Nat) (s : State) : (signalPair pair s).chu = s.chu :=
  (signalPair_within pair s).parts .chu (by decide)
@[simp] theorem signalPair_sep (pair : Nat) (s : State) : (signalPair pair s).sep = s.sep :=
  (signalPair_within pair s).parts .sep (by decide)
@[simp] theorem signalPair_ctr (pair : Nat) (s : State) : (signalPair pair s).ctr = s.ctr :=
  (signalPair_within pair s).parts .ctr (by decide)
@[simp] theorem signalPair_disp (pair : Nat) (s : State) : (signalPair pair s).disp = s.disp :=
  (signalPair_within pair s).parts .disp (by decide)
@[simp] theorem signalPair_lpe (pair : Nat) (s : State) : (signalPair pair s).lpe = s.lpe :=
  (signalPair_within pair s).parts .lpe (by decide)
@[simp] theorem signalPair_tly (pair : Nat) (s : State) : (signalPair pair s).tly = s.tly :=
  (signalPair_within pair s).parts .tly (by decide)
@[simp] theorem signalPair_cyc (pair : Nat) (s : State) : (signalPair pair s).cyc = s.cyc :=
  (signalPair_within pair s).parts .cyc (by decide)
@[simp] theorem signalPair_fio (pair : Nat) (s : State) : (signalPair pair s).fio = s.fio :=
  (signalPair_within pair s).parts .fio (by decide)
@[simp] theorem signalPair_upd (pair : Nat) (s : State) : (signalPair pair s).upd = s.upd :=
  (signalPair_within pair s).parts .upd (by decide)
@[simp] theorem signalPair_free (pair : Nat) (s : State) : (signalPair pair s).free = s.free :=
  (signalPair_within pair s).parts .free (by decide)
@[simp] theorem signalPair_pending (pair : Nat) (s : State) : (signalPair pair s).pending = s.pending := (signalPair_within pair s).pending
@[simp] theorem getReg_signalPair (z : Nat) (pair : Nat) (s : State) : getReg z (signalPair pair s) = getReg z s :=
  (signalPair_within pair s).regs _ rfl z (by simp)

@[simp] theorem writeEntry_cfg (pair : Nat) (slot : Nat) (tag : Nat) (len : Nat) (status : Nat) (detail : Nat) (rx : Bool) (mon : Nat) (irq : Bool) (s : State) : (writeEntry pair slot tag len status detail rx mon irq s).cfg = s.cfg :=
  (writeEntry_within pair slot tag len status detail rx mon irq s).parts .cfg (by decide)
@[simp] theorem writeEntry_pwr (pair : Nat) (slot : Nat) (tag : Nat) (len : Nat) (status : Nat) (detail : Nat) (rx : Bool) (mon : Nat) (irq : Bool) (s : State) : (writeEntry pair slot tag len status detail rx mon irq s).pwr = s.pwr :=
  (writeEntry_within pair slot tag len status detail rx mon irq s).parts .pwr (by decide)
@[simp] theorem writeEntry_start (pair : Nat) (slot : Nat) (tag : Nat) (len : Nat) (status : Nat) (detail : Nat) (rx : Bool) (mon : Nat) (irq : Bool) (s : State) : (writeEntry pair slot tag len status detail rx mon irq s).start = s.start :=
  (writeEntry_within pair slot tag len status detail rx mon irq s).parts .start (by decide)
@[simp] theorem writeEntry_fco (pair : Nat) (slot : Nat) (tag : Nat) (len : Nat) (status : Nat) (detail : Nat) (rx : Bool) (mon : Nat) (irq : Bool) (s : State) : (writeEntry pair slot tag len status detail rx mon irq s).fco = s.fco :=
  (writeEntry_within pair slot tag len status detail rx mon irq s).parts .fco (by decide)
@[simp] theorem writeEntry_evr (pair : Nat) (slot : Nat) (tag : Nat) (len : Nat) (status : Nat) (detail : Nat) (rx : Bool) (mon : Nat) (irq : Bool) (s : State) : (writeEntry pair slot tag len status detail rx mon irq s).evr = s.evr :=
  (writeEntry_within pair slot tag len status detail rx mon irq s).parts .evr (by decide)
@[simp] theorem writeEntry_dup (pair : Nat) (slot : Nat) (tag : Nat) (len : Nat) (status : Nat) (detail : Nat) (rx : Bool) (mon : Nat) (irq : Bool) (s : State) : (writeEntry pair slot tag len status detail rx mon irq s).dup = s.dup :=
  (writeEntry_within pair slot tag len status detail rx mon irq s).parts .dup (by decide)
@[simp] theorem writeEntry_tim (pair : Nat) (slot : Nat) (tag : Nat) (len : Nat) (status : Nat) (detail : Nat) (rx : Bool) (mon : Nat) (irq : Bool) (s : State) : (writeEntry pair slot tag len status detail rx mon irq s).tim = s.tim :=
  (writeEntry_within pair slot tag len status detail rx mon irq s).parts .tim (by decide)
@[simp] theorem writeEntry_kst (pair : Nat) (slot : Nat) (tag : Nat) (len : Nat) (status : Nat) (detail : Nat) (rx : Bool) (mon : Nat) (irq : Bool) (s : State) : (writeEntry pair slot tag len status detail rx mon irq s).kst = s.kst :=
  (writeEntry_within pair slot tag len status detail rx mon irq s).parts .kst (by decide)
@[simp] theorem writeEntry_model (pair : Nat) (slot : Nat) (tag : Nat) (len : Nat) (status : Nat) (detail : Nat) (rx : Bool) (mon : Nat) (irq : Bool) (s : State) : (writeEntry pair slot tag len status detail rx mon irq s).model = s.model :=
  (writeEntry_within pair slot tag len status detail rx mon irq s).parts .model (by decide)
@[simp] theorem writeEntry_rnd (pair : Nat) (slot : Nat) (tag : Nat) (len : Nat) (status : Nat) (detail : Nat) (rx : Bool) (mon : Nat) (irq : Bool) (s : State) : (writeEntry pair slot tag len status detail rx mon irq s).rnd = s.rnd :=
  (writeEntry_within pair slot tag len status detail rx mon irq s).parts .rnd (by decide)
@[simp] theorem writeEntry_chu (pair : Nat) (slot : Nat) (tag : Nat) (len : Nat) (status : Nat) (detail : Nat) (rx : Bool) (mon : Nat) (irq : Bool) (s : State) : (writeEntry pair slot tag len status detail rx mon irq s).chu = s.chu :=
  (writeEntry_within pair slot tag len status detail rx mon irq s).parts .chu (by decide)
@[simp] theorem writeEntry_sep (pair : Nat) (slot : Nat) (tag : Nat) (len : Nat) (status : Nat) (detail : Nat) (rx : Bool) (mon : Nat) (irq : Bool) (s : State) : (writeEntry pair slot tag len status detail rx mon irq s).sep = s.sep :=
  (writeEntry_within pair slot tag len status detail rx mon irq s).parts .sep (by decide)
@[simp] theorem writeEntry_ctr (pair : Nat) (slot : Nat) (tag : Nat) (len : Nat) (status : Nat) (detail : Nat) (rx : Bool) (mon : Nat) (irq : Bool) (s : State) : (writeEntry pair slot tag len status detail rx mon irq s).ctr = s.ctr :=
  (writeEntry_within pair slot tag len status detail rx mon irq s).parts .ctr (by decide)
@[simp] theorem writeEntry_disp (pair : Nat) (slot : Nat) (tag : Nat) (len : Nat) (status : Nat) (detail : Nat) (rx : Bool) (mon : Nat) (irq : Bool) (s : State) : (writeEntry pair slot tag len status detail rx mon irq s).disp = s.disp :=
  (writeEntry_within pair slot tag len status detail rx mon irq s).parts .disp (by decide)
@[simp] theorem writeEntry_lpe (pair : Nat) (slot : Nat) (tag : Nat) (len : Nat) (status : Nat) (detail : Nat) (rx : Bool) (mon : Nat) (irq : Bool) (s : State) : (writeEntry pair slot tag len status detail rx mon irq s).lpe = s.lpe :=
  (writeEntry_within pair slot tag len status detail rx mon irq s).parts .lpe (by decide)
@[simp] theorem writeEntry_tly (pair : Nat) (slot : Nat) (tag : Nat) (len : Nat) (status : Nat) (detail : Nat) (rx : Bool) (mon : Nat) (irq : Bool) (s : State) : (writeEntry pair slot tag len status detail rx mon irq s).tly = s.tly :=
  (writeEntry_within pair slot tag len status detail rx mon irq s).parts .tly (by decide)
@[simp] theorem writeEntry_cyc (pair : Nat) (slot : Nat) (tag : Nat) (len : Nat) (status : Nat) (detail : Nat) (rx : Bool) (mon : Nat) (irq : Bool) (s : State) : (writeEntry pair slot tag len status detail rx mon irq s).cyc = s.cyc :=
  (writeEntry_within pair slot tag len status detail rx mon irq s).parts .cyc (by decide)
@[simp] theorem writeEntry_fio (pair : Nat) (slot : Nat) (tag : Nat) (len : Nat) (status : Nat) (detail : Nat) (rx : Bool) (mon : Nat) (irq : Bool) (s : State) : (writeEntry pair slot tag len status detail rx mon irq s).fio = s.fio :=
  (writeEntry_within pair slot tag len status detail rx mon irq s).parts .fio (by decide)
@[simp] theorem writeEntry_upd (pair : Nat) (slot : Nat) (tag : Nat) (len : Nat) (status : Nat) (detail : Nat) (rx : Bool) (mon : Nat) (irq : Bool) (s : State) : (writeEntry pair slot tag len status detail rx mon irq s).upd = s.upd :=
  (writeEntry_within pair slot tag len status detail rx mon irq s).parts .upd (by decide)
@[simp] theorem writeEntry_free (pair : Nat) (slot : Nat) (tag : Nat) (len : Nat) (status : Nat) (detail : Nat) (rx : Bool) (mon : Nat) (irq : Bool) (s : State) : (writeEntry pair slot tag len status detail rx mon irq s).free = s.free :=
  (writeEntry_within pair slot tag len status detail rx mon irq s).parts .free (by decide)
@[simp] theorem writeEntry_pending (pair : Nat) (slot : Nat) (tag : Nat) (len : Nat) (status : Nat) (detail : Nat) (rx : Bool) (mon : Nat) (irq : Bool) (s : State) : (writeEntry pair slot tag len status detail rx mon irq s).pending = s.pending := (writeEntry_within pair slot tag len status detail rx mon irq s).pending
@[simp] theorem getReg_writeEntry (z : Nat) (pair : Nat) (slot : Nat) (tag : Nat) (len : Nat) (status : Nat) (detail : Nat) (rx : Bool) (mon : Nat) (irq : Bool) (s : State) : getReg z (writeEntry pair slot tag len status detail rx mon irq s) = getReg z s :=
  (writeEntry_within pair slot tag len status detail rx mon irq s).regs _ rfl z (by simp)

@[simp] theorem hostWrite_cfg (pair : Nat) (addr : Nat) (b : Bytes) (s : State) : (hostWrite pair addr b s).cfg = s.cfg :=
  (hostWrite_within pair addr b s).parts .cfg (by decide)
@[simp] theorem hostWrite_hif (pair : Nat) (addr : Nat) (b : Bytes) (s : State) : (hostWrite pair addr b s).hif = s.hif :=
  (hostWrite_within pair addr b s).parts .hif (by decide)
@[simp] theorem hostWrite_pwr (pair : Nat) (addr : Nat) (b : Bytes) (s : State) : (hostWrite pair addr b s).pwr = s.pwr :=
  (hostWrite_within pair addr b s).parts .pwr (by decide)
@[simp] theorem hostWrite_start (pair : Nat) (addr : Nat) (b : Bytes) (s : State) : (hostWrite pair addr b s).start = s.start :=
  (hostWrite_within pair addr b s).parts .start (by decide)
@[simp] theorem hostWrite_fco (pair : Nat) (addr : Nat) (b : Bytes) (s : State) : (hostWrite pair addr b s).fco = s.fco :=
  (hostWrite_within pair addr b s).parts .fco (by decide)
@[simp] theorem hostWrite_evr (pair : Nat) (addr : Nat) (b : Bytes) (s : State) : (hostWrite pair addr b s).evr = s.evr :=
  (hostWrite_within pair addr b s).parts .evr (by decide)
@[simp] theorem hostWrite_dup (pair : Nat) (addr : Nat) (b : Bytes) (s : State) : (hostWrite pair addr b s).dup = s.dup :=
  (hostWrite_within pair addr b s).parts .dup (by decide)
@[simp] theorem hostWrite_tim (pair : Nat) (addr : Nat) (b : Bytes) (s : State) : (hostWrite pair addr b s).tim = s.tim :=
  (hostWrite_within pair addr b s).parts .tim (by decide)
@[simp] theorem hostWrite_kst (pair : Nat) (addr : Nat) (b : Bytes) (s : State) : (hostWrite pair addr b s).kst = s.kst :=
  (hostWrite_within pair addr b s).parts .kst (by decide)
@[simp] theorem hostWrite_model (pair : Nat) (addr : Nat) (b : Bytes) (s : State) : (hostWrite pair addr b s).model = s.model :=
  (hostWrite_within pair addr b s).parts .model (by decide)
@[simp] theorem hostWrite_rnd (pair : Nat) (addr : Nat) (b : Bytes) (s : State) : (hostWrite pair addr b s).rnd = s.rnd :=
  (hostWrite_within pair addr b s).parts .rnd (by decide)
@[simp] theorem hostWrite_chu (pair : Nat) (addr : Nat) (b : Bytes) (s : State) : (hostWrite pair addr b s).chu = s.chu :=
  (hostWrite_within pair addr b s).parts .chu (by decide)
@[simp] theorem hostWrite_sep (pair : Nat) (addr : Nat) (b : Bytes) (s : State) : (hostWrite pair addr b s).sep = s.sep :=
  (hostWrite_within pair addr b s).parts .sep (by decide)
@[simp] theorem hostWrite_ctr (pair : Nat) (addr : Nat) (b : Bytes) (s : State) : (hostWrite pair addr b s).ctr = s.ctr :=
  (hostWrite_within pair addr b s).parts .ctr (by decide)
@[simp] theorem hostWrite_disp (pair : Nat) (addr : Nat) (b : Bytes) (s : State) : (hostWrite pair addr b s).disp = s.disp :=
  (hostWrite_within pair addr b s).parts .disp (by decide)
@[simp] theorem hostWrite_lpe (pair : Nat) (addr : Nat) (b : Bytes) (s : State) : (hostWrite pair addr b s).lpe = s.lpe :=
  (hostWrite_within pair addr b s).parts .lpe (by decide)
@[simp] theorem hostWrite_tly (pair : Nat) (addr : Nat) (b : Bytes) (s : State) : (hostWrite pair addr b s).tly = s.tly :=
  (hostWrite_within pair addr b s).parts .tly (by decide)
@[simp] theorem hostWrite_cyc (pair : Nat) (addr : Nat) (b : Bytes) (s : State) : (hostWrite pair addr b s).cyc = s.cyc :=
  (hostWrite_within pair addr b s).parts .cyc (by decide)
@[simp] theorem hostWrite_fio (pair : Nat) (addr : Nat) (b : Bytes) (s : State) : (hostWrite pair addr b s).fio = s.fio :=
  (hostWrite_within pair addr b s).parts .fio (by decide)
@[simp] theorem hostWrite_upd (pair : Nat) (addr : Nat) (b : Bytes) (s : State) : (hostWrite pair addr b s).upd = s.upd :=
  (hostWrite_within pair addr b s).parts .upd (by decide)
@[simp] theorem hostWrite_free (pair : Nat) (addr : Nat) (b : Bytes) (s : State) : (hostWrite pair addr b s).free = s.free :=
  (hostWrite_within pair addr b s).parts .free (by decide)
@[simp] theorem hostWrite_pending (pair : Nat) (addr : Nat) (b : Bytes) (s : State) : (hostWrite pair addr b s).pending = s.pending := (hostWrite_within pair addr b s).pending
@[simp] theorem getReg_hostWrite (z : Nat) (pair : Nat) (addr : Nat) (b : Bytes) (s : State) : getReg z (hostWrite pair addr b s) = getReg z s :=
  (hostWrite_within pair addr b s).regs _ rfl z (by simp)

@[simp] theorem flushRing_cfg (pair : Nat) (s : State) : (flushRing pair s).cfg = s.cfg :=
  (flushRing_within pair s).parts .cfg (by decide)
@[simp] theorem flushRing_pwr (pair : Nat) (s : State) : (flushRing pair s).pwr = s.pwr :=
  (flushRing_within pair s).parts .pwr (by decide)
@[simp] theorem flushRing_start (pair : Nat) (s : State) : (flushRing pair s).start = s.start :=
  (flushRing_within pair s).parts .start (by decide)
@[simp] theorem flushRing_fco (pair : Nat) (s : State) : (flushRing pair s).fco = s.fco :=
  (flushRing_within pair s).parts .fco (by decide)
@[simp] theorem flushRing_evr (pair : Nat) (s : State) : (flushRing pair s).evr = s.evr :=
  (flushRing_within pair s).parts .evr (by decide)
@[simp] theorem flushRing_dup (pair : Nat) (s : State) : (flushRing pair s).dup = s.dup :=
  (flushRing_within pair s).parts .dup (by decide)
@[simp] theorem flushRing_tim (pair : Nat) (s : State) : (flushRing pair s).tim = s.tim :=
  (flushRing_within pair s).parts .tim (by decide)
@[simp] theorem flushRing_kst (pair : Nat) (s : State) : (flushRing pair s).kst = s.kst :=
  (flushRing_within pair s).parts .kst (by decide)
@[simp] theorem flushRing_model (pair : Nat) (s : State) : (flushRing pair s).model = s.model :=
  (flushRing_within pair s).parts .model (by decide)
@[simp] theorem flushRing_rnd (pair : Nat) (s : State) : (flushRing pair s).rnd = s.rnd :=
  (flushRing_within pair s).parts .rnd (by decide)
@[simp] theorem flushRing_chu (pair : Nat) (s : State) : (flushRing pair s).chu = s.chu :=
  (flushRing_within pair s).parts .chu (by decide)
@[simp] theorem flushRing_sep (pair : Nat) (s : State) : (flushRing pair s).sep = s.sep :=
  (flushRing_within pair s).parts .sep (by decide)
@[simp] theorem flushRing_ctr (pair : Nat) (s : State) : (flushRing pair s).ctr = s.ctr :=
  (flushRing_within pair s).parts .ctr (by decide)
@[simp] theorem flushRing_disp (pair : Nat) (s : State) : (flushRing pair s).disp = s.disp :=
  (flushRing_within pair s).parts .disp (by decide)
@[simp] theorem flushRing_lpe (pair : Nat) (s : State) : (flushRing pair s).lpe = s.lpe :=
  (flushRing_within pair s).parts .lpe (by decide)
@[simp] theorem flushRing_tly (pair : Nat) (s : State) : (flushRing pair s).tly = s.tly :=
  (flushRing_within pair s).parts .tly (by decide)
@[simp] theorem flushRing_cyc (pair : Nat) (s : State) : (flushRing pair s).cyc = s.cyc :=
  (flushRing_within pair s).parts .cyc (by decide)
@[simp] theorem flushRing_fio (pair : Nat) (s : State) : (flushRing pair s).fio = s.fio :=
  (flushRing_within pair s).parts .fio (by decide)
@[simp] theorem flushRing_upd (pair : Nat) (s : State) : (flushRing pair s).upd = s.upd :=
  (flushRing_within pair s).parts .upd (by decide)
@[simp] theorem flushRing_free (pair : Nat) (s : State) : (flushRing pair s).free = s.free :=
  (flushRing_within pair s).parts .free (by decide)
@[simp] theorem flushRing_pending (pair : Nat) (s : State) : (flushRing pair s).pending = s.pending := (flushRing_within pair s).pending
@[simp] theorem getReg_flushRing (z : Nat) (pair : Nat) (s : State) : getReg z (flushRing pair s) = getReg z s :=
  (flushRing_within pair s).regs _ rfl z (by simp)

@[simp] theorem complete_cfg (r : Req) (status : Nat) (detail : Nat) (len : Nat) (b : Bytes) (s : State) : (complete r status detail len b s).cfg = s.cfg :=
  (complete_within r status detail len b s).parts .cfg (by decide)
@[simp] theorem complete_pwr (r : Req) (status : Nat) (detail : Nat) (len : Nat) (b : Bytes) (s : State) : (complete r status detail len b s).pwr = s.pwr :=
  (complete_within r status detail len b s).parts .pwr (by decide)
@[simp] theorem complete_start (r : Req) (status : Nat) (detail : Nat) (len : Nat) (b : Bytes) (s : State) : (complete r status detail len b s).start = s.start :=
  (complete_within r status detail len b s).parts .start (by decide)
@[simp] theorem complete_fco (r : Req) (status : Nat) (detail : Nat) (len : Nat) (b : Bytes) (s : State) : (complete r status detail len b s).fco = s.fco :=
  (complete_within r status detail len b s).parts .fco (by decide)
@[simp] theorem complete_evr (r : Req) (status : Nat) (detail : Nat) (len : Nat) (b : Bytes) (s : State) : (complete r status detail len b s).evr = s.evr :=
  (complete_within r status detail len b s).parts .evr (by decide)
@[simp] theorem complete_dup (r : Req) (status : Nat) (detail : Nat) (len : Nat) (b : Bytes) (s : State) : (complete r status detail len b s).dup = s.dup :=
  (complete_within r status detail len b s).parts .dup (by decide)
@[simp] theorem complete_tim (r : Req) (status : Nat) (detail : Nat) (len : Nat) (b : Bytes) (s : State) : (complete r status detail len b s).tim = s.tim :=
  (complete_within r status detail len b s).parts .tim (by decide)
@[simp] theorem complete_kst (r : Req) (status : Nat) (detail : Nat) (len : Nat) (b : Bytes) (s : State) : (complete r status detail len b s).kst = s.kst :=
  (complete_within r status detail len b s).parts .kst (by decide)
@[simp] theorem complete_model (r : Req) (status : Nat) (detail : Nat) (len : Nat) (b : Bytes) (s : State) : (complete r status detail len b s).model = s.model :=
  (complete_within r status detail len b s).parts .model (by decide)
@[simp] theorem complete_rnd (r : Req) (status : Nat) (detail : Nat) (len : Nat) (b : Bytes) (s : State) : (complete r status detail len b s).rnd = s.rnd :=
  (complete_within r status detail len b s).parts .rnd (by decide)
@[simp] theorem complete_chu (r : Req) (status : Nat) (detail : Nat) (len : Nat) (b : Bytes) (s : State) : (complete r status detail len b s).chu = s.chu :=
  (complete_within r status detail len b s).parts .chu (by decide)
@[simp] theorem complete_sep (r : Req) (status : Nat) (detail : Nat) (len : Nat) (b : Bytes) (s : State) : (complete r status detail len b s).sep = s.sep :=
  (complete_within r status detail len b s).parts .sep (by decide)
@[simp] theorem complete_ctr (r : Req) (status : Nat) (detail : Nat) (len : Nat) (b : Bytes) (s : State) : (complete r status detail len b s).ctr = s.ctr :=
  (complete_within r status detail len b s).parts .ctr (by decide)
@[simp] theorem complete_disp (r : Req) (status : Nat) (detail : Nat) (len : Nat) (b : Bytes) (s : State) : (complete r status detail len b s).disp = s.disp :=
  (complete_within r status detail len b s).parts .disp (by decide)
@[simp] theorem complete_lpe (r : Req) (status : Nat) (detail : Nat) (len : Nat) (b : Bytes) (s : State) : (complete r status detail len b s).lpe = s.lpe :=
  (complete_within r status detail len b s).parts .lpe (by decide)
@[simp] theorem complete_tly (r : Req) (status : Nat) (detail : Nat) (len : Nat) (b : Bytes) (s : State) : (complete r status detail len b s).tly = s.tly :=
  (complete_within r status detail len b s).parts .tly (by decide)
@[simp] theorem complete_cyc (r : Req) (status : Nat) (detail : Nat) (len : Nat) (b : Bytes) (s : State) : (complete r status detail len b s).cyc = s.cyc :=
  (complete_within r status detail len b s).parts .cyc (by decide)
@[simp] theorem complete_fio (r : Req) (status : Nat) (detail : Nat) (len : Nat) (b : Bytes) (s : State) : (complete r status detail len b s).fio = s.fio :=
  (complete_within r status detail len b s).parts .fio (by decide)
@[simp] theorem complete_upd (r : Req) (status : Nat) (detail : Nat) (len : Nat) (b : Bytes) (s : State) : (complete r status detail len b s).upd = s.upd :=
  (complete_within r status detail len b s).parts .upd (by decide)
@[simp] theorem complete_free (r : Req) (status : Nat) (detail : Nat) (len : Nat) (b : Bytes) (s : State) : (complete r status detail len b s).free = s.free :=
  (complete_within r status detail len b s).parts .free (by decide)
@[simp] theorem complete_pending (r : Req) (status : Nat) (detail : Nat) (len : Nat) (b : Bytes) (s : State) : (complete r status detail len b s).pending = s.pending := (complete_within r status detail len b s).pending
@[simp] theorem getReg_complete (z : Nat) (r : Req) (status : Nat) (detail : Nat) (len : Nat) (b : Bytes) (s : State) : getReg z (complete r status detail len b s) = getReg z s :=
  (complete_within r status detail len b s).regs _ rfl z (by simp)

@[simp] theorem finish_cfg (r : Req) (status : Nat) (detail : Nat) (s : State) : (finish r status detail s).cfg = s.cfg :=
  (finish_within r status detail s).parts .cfg (by decide)
@[simp] theorem finish_pwr (r : Req) (status : Nat) (detail : Nat) (s : State) : (finish r status detail s).pwr = s.pwr :=
  (finish_within r status detail s).parts .pwr (by decide)
@[simp] theorem finish_start (r : Req) (status : Nat) (detail : Nat) (s : State) : (finish r status detail s).start = s.start :=
  (finish_within r status detail s).parts .start (by decide)
@[simp] theorem finish_fco (r : Req) (status : Nat) (detail : Nat) (s : State) : (finish r status detail s).fco = s.fco :=
  (finish_within r status detail s).parts .fco (by decide)
@[simp] theorem finish_evr (r : Req) (status : Nat) (detail : Nat) (s : State) : (finish r status detail s).evr = s.evr :=
  (finish_within r status detail s).parts .evr (by decide)
@[simp] theorem finish_dup (r : Req) (status : Nat) (detail : Nat) (s : State) : (finish r status detail s).dup = s.dup :=
  (finish_within r status detail s).parts .dup (by decide)
@[simp] theorem finish_tim (r : Req) (status : Nat) (detail : Nat) (s : State) : (finish r status detail s).tim = s.tim :=
  (finish_within r status detail s).parts .tim (by decide)
@[simp] theorem finish_kst (r : Req) (status : Nat) (detail : Nat) (s : State) : (finish r status detail s).kst = s.kst :=
  (finish_within r status detail s).parts .kst (by decide)
@[simp] theorem finish_model (r : Req) (status : Nat) (detail : Nat) (s : State) : (finish r status detail s).model = s.model :=
  (finish_within r status detail s).parts .model (by decide)
@[simp] theorem finish_rnd (r : Req) (status : Nat) (detail : Nat) (s : State) : (finish r status detail s).rnd = s.rnd :=
  (finish_within r status detail s).parts .rnd (by decide)
@[simp] theorem finish_chu (r : Req) (status : Nat) (detail : Nat) (s : State) : (finish r status detail s).chu = s.chu :=
  (finish_within r status detail s).parts .chu (by decide)
@[simp] theorem finish_sep (r : Req) (status : Nat) (detail : Nat) (s : State) : (finish r status detail s).sep = s.sep :=
  (finish_within r status detail s).parts .sep (by decide)
@[simp] theorem finish_ctr (r : Req) (status : Nat) (detail : Nat) (s : State) : (finish r status detail s).ctr = s.ctr :=
  (finish_within r status detail s).parts .ctr (by decide)
@[simp] theorem finish_disp (r : Req) (status : Nat) (detail : Nat) (s : State) : (finish r status detail s).disp = s.disp :=
  (finish_within r status detail s).parts .disp (by decide)
@[simp] theorem finish_lpe (r : Req) (status : Nat) (detail : Nat) (s : State) : (finish r status detail s).lpe = s.lpe :=
  (finish_within r status detail s).parts .lpe (by decide)
@[simp] theorem finish_tly (r : Req) (status : Nat) (detail : Nat) (s : State) : (finish r status detail s).tly = s.tly :=
  (finish_within r status detail s).parts .tly (by decide)
@[simp] theorem finish_cyc (r : Req) (status : Nat) (detail : Nat) (s : State) : (finish r status detail s).cyc = s.cyc :=
  (finish_within r status detail s).parts .cyc (by decide)
@[simp] theorem finish_fio (r : Req) (status : Nat) (detail : Nat) (s : State) : (finish r status detail s).fio = s.fio :=
  (finish_within r status detail s).parts .fio (by decide)
@[simp] theorem finish_upd (r : Req) (status : Nat) (detail : Nat) (s : State) : (finish r status detail s).upd = s.upd :=
  (finish_within r status detail s).parts .upd (by decide)
@[simp] theorem finish_free (r : Req) (status : Nat) (detail : Nat) (s : State) : (finish r status detail s).free = s.free :=
  (finish_within r status detail s).parts .free (by decide)
@[simp] theorem finish_pending (r : Req) (status : Nat) (detail : Nat) (s : State) : (finish r status detail s).pending = s.pending := (finish_within r status detail s).pending
@[simp] theorem getReg_finish (z : Nat) (r : Req) (status : Nat) (detail : Nat) (s : State) : getReg z (finish r status detail s) = getReg z s :=
  (finish_within r status detail s).regs _ rfl z (by simp)

@[simp] theorem ovfCheck_cfg (pair : Nat) (s : State) : (ovfCheck pair s).cfg = s.cfg :=
  (ovfCheck_within pair s).parts .cfg (by decide)
@[simp] theorem ovfCheck_pwr (pair : Nat) (s : State) : (ovfCheck pair s).pwr = s.pwr :=
  (ovfCheck_within pair s).parts .pwr (by decide)
@[simp] theorem ovfCheck_start (pair : Nat) (s : State) : (ovfCheck pair s).start = s.start :=
  (ovfCheck_within pair s).parts .start (by decide)
@[simp] theorem ovfCheck_fco (pair : Nat) (s : State) : (ovfCheck pair s).fco = s.fco :=
  (ovfCheck_within pair s).parts .fco (by decide)
@[simp] theorem ovfCheck_evr (pair : Nat) (s : State) : (ovfCheck pair s).evr = s.evr :=
  (ovfCheck_within pair s).parts .evr (by decide)
@[simp] theorem ovfCheck_dup (pair : Nat) (s : State) : (ovfCheck pair s).dup = s.dup :=
  (ovfCheck_within pair s).parts .dup (by decide)
@[simp] theorem ovfCheck_tim (pair : Nat) (s : State) : (ovfCheck pair s).tim = s.tim :=
  (ovfCheck_within pair s).parts .tim (by decide)
@[simp] theorem ovfCheck_kst (pair : Nat) (s : State) : (ovfCheck pair s).kst = s.kst :=
  (ovfCheck_within pair s).parts .kst (by decide)
@[simp] theorem ovfCheck_model (pair : Nat) (s : State) : (ovfCheck pair s).model = s.model :=
  (ovfCheck_within pair s).parts .model (by decide)
@[simp] theorem ovfCheck_rnd (pair : Nat) (s : State) : (ovfCheck pair s).rnd = s.rnd :=
  (ovfCheck_within pair s).parts .rnd (by decide)
@[simp] theorem ovfCheck_chu (pair : Nat) (s : State) : (ovfCheck pair s).chu = s.chu :=
  (ovfCheck_within pair s).parts .chu (by decide)
@[simp] theorem ovfCheck_sep (pair : Nat) (s : State) : (ovfCheck pair s).sep = s.sep :=
  (ovfCheck_within pair s).parts .sep (by decide)
@[simp] theorem ovfCheck_ctr (pair : Nat) (s : State) : (ovfCheck pair s).ctr = s.ctr :=
  (ovfCheck_within pair s).parts .ctr (by decide)
@[simp] theorem ovfCheck_disp (pair : Nat) (s : State) : (ovfCheck pair s).disp = s.disp :=
  (ovfCheck_within pair s).parts .disp (by decide)
@[simp] theorem ovfCheck_lpe (pair : Nat) (s : State) : (ovfCheck pair s).lpe = s.lpe :=
  (ovfCheck_within pair s).parts .lpe (by decide)
@[simp] theorem ovfCheck_tly (pair : Nat) (s : State) : (ovfCheck pair s).tly = s.tly :=
  (ovfCheck_within pair s).parts .tly (by decide)
@[simp] theorem ovfCheck_cyc (pair : Nat) (s : State) : (ovfCheck pair s).cyc = s.cyc :=
  (ovfCheck_within pair s).parts .cyc (by decide)
@[simp] theorem ovfCheck_fio (pair : Nat) (s : State) : (ovfCheck pair s).fio = s.fio :=
  (ovfCheck_within pair s).parts .fio (by decide)
@[simp] theorem ovfCheck_upd (pair : Nat) (s : State) : (ovfCheck pair s).upd = s.upd :=
  (ovfCheck_within pair s).parts .upd (by decide)
@[simp] theorem ovfCheck_free (pair : Nat) (s : State) : (ovfCheck pair s).free = s.free :=
  (ovfCheck_within pair s).parts .free (by decide)
@[simp] theorem ovfCheck_pending (pair : Nat) (s : State) : (ovfCheck pair s).pending = s.pending := (ovfCheck_within pair s).pending
@[simp] theorem getReg_ovfCheck (z : Nat) (pair : Nat) (s : State) : getReg z (ovfCheck pair s) = getReg z s :=
  (ovfCheck_within pair s).regs _ rfl z (by simp)

@[simp] theorem fillBuf_cfg (pair : Nat) (irq : Bool) (st : Nat) (dt : Nat) (mon : Nat) (b : Bytes) (s : State) : (fillBuf pair irq st dt mon b s).cfg = s.cfg :=
  (fillBuf_within pair irq st dt mon b s).parts .cfg (by decide)
@[simp] theorem fillBuf_pwr (pair : Nat) (irq : Bool) (st : Nat) (dt : Nat) (mon : Nat) (b : Bytes) (s : State) : (fillBuf pair irq st dt mon b s).pwr = s.pwr :=
  (fillBuf_within pair irq st dt mon b s).parts .pwr (by decide)
@[simp] theorem fillBuf_start (pair : Nat) (irq : Bool) (st : Nat) (dt : Nat) (mon : Nat) (b : Bytes) (s : State) : (fillBuf pair irq st dt mon b s).start = s.start :=
  (fillBuf_within pair irq st dt mon b s).parts .start (by decide)
@[simp] theorem fillBuf_fco (pair : Nat) (irq : Bool) (st : Nat) (dt : Nat) (mon : Nat) (b : Bytes) (s : State) : (fillBuf pair irq st dt mon b s).fco = s.fco :=
  (fillBuf_within pair irq st dt mon b s).parts .fco (by decide)
@[simp] theorem fillBuf_evr (pair : Nat) (irq : Bool) (st : Nat) (dt : Nat) (mon : Nat) (b : Bytes) (s : State) : (fillBuf pair irq st dt mon b s).evr = s.evr :=
  (fillBuf_within pair irq st dt mon b s).parts .evr (by decide)
@[simp] theorem fillBuf_dup (pair : Nat) (irq : Bool) (st : Nat) (dt : Nat) (mon : Nat) (b : Bytes) (s : State) : (fillBuf pair irq st dt mon b s).dup = s.dup :=
  (fillBuf_within pair irq st dt mon b s).parts .dup (by decide)
@[simp] theorem fillBuf_tim (pair : Nat) (irq : Bool) (st : Nat) (dt : Nat) (mon : Nat) (b : Bytes) (s : State) : (fillBuf pair irq st dt mon b s).tim = s.tim :=
  (fillBuf_within pair irq st dt mon b s).parts .tim (by decide)
@[simp] theorem fillBuf_kst (pair : Nat) (irq : Bool) (st : Nat) (dt : Nat) (mon : Nat) (b : Bytes) (s : State) : (fillBuf pair irq st dt mon b s).kst = s.kst :=
  (fillBuf_within pair irq st dt mon b s).parts .kst (by decide)
@[simp] theorem fillBuf_model (pair : Nat) (irq : Bool) (st : Nat) (dt : Nat) (mon : Nat) (b : Bytes) (s : State) : (fillBuf pair irq st dt mon b s).model = s.model :=
  (fillBuf_within pair irq st dt mon b s).parts .model (by decide)
@[simp] theorem fillBuf_rnd (pair : Nat) (irq : Bool) (st : Nat) (dt : Nat) (mon : Nat) (b : Bytes) (s : State) : (fillBuf pair irq st dt mon b s).rnd = s.rnd :=
  (fillBuf_within pair irq st dt mon b s).parts .rnd (by decide)
@[simp] theorem fillBuf_chu (pair : Nat) (irq : Bool) (st : Nat) (dt : Nat) (mon : Nat) (b : Bytes) (s : State) : (fillBuf pair irq st dt mon b s).chu = s.chu :=
  (fillBuf_within pair irq st dt mon b s).parts .chu (by decide)
@[simp] theorem fillBuf_sep (pair : Nat) (irq : Bool) (st : Nat) (dt : Nat) (mon : Nat) (b : Bytes) (s : State) : (fillBuf pair irq st dt mon b s).sep = s.sep :=
  (fillBuf_within pair irq st dt mon b s).parts .sep (by decide)
@[simp] theorem fillBuf_ctr (pair : Nat) (irq : Bool) (st : Nat) (dt : Nat) (mon : Nat) (b : Bytes) (s : State) : (fillBuf pair irq st dt mon b s).ctr = s.ctr :=
  (fillBuf_within pair irq st dt mon b s).parts .ctr (by decide)
@[simp] theorem fillBuf_disp (pair : Nat) (irq : Bool) (st : Nat) (dt : Nat) (mon : Nat) (b : Bytes) (s : State) : (fillBuf pair irq st dt mon b s).disp = s.disp :=
  (fillBuf_within pair irq st dt mon b s).parts .disp (by decide)
@[simp] theorem fillBuf_lpe (pair : Nat) (irq : Bool) (st : Nat) (dt : Nat) (mon : Nat) (b : Bytes) (s : State) : (fillBuf pair irq st dt mon b s).lpe = s.lpe :=
  (fillBuf_within pair irq st dt mon b s).parts .lpe (by decide)
@[simp] theorem fillBuf_tly (pair : Nat) (irq : Bool) (st : Nat) (dt : Nat) (mon : Nat) (b : Bytes) (s : State) : (fillBuf pair irq st dt mon b s).tly = s.tly :=
  (fillBuf_within pair irq st dt mon b s).parts .tly (by decide)
@[simp] theorem fillBuf_cyc (pair : Nat) (irq : Bool) (st : Nat) (dt : Nat) (mon : Nat) (b : Bytes) (s : State) : (fillBuf pair irq st dt mon b s).cyc = s.cyc :=
  (fillBuf_within pair irq st dt mon b s).parts .cyc (by decide)
@[simp] theorem fillBuf_fio (pair : Nat) (irq : Bool) (st : Nat) (dt : Nat) (mon : Nat) (b : Bytes) (s : State) : (fillBuf pair irq st dt mon b s).fio = s.fio :=
  (fillBuf_within pair irq st dt mon b s).parts .fio (by decide)
@[simp] theorem fillBuf_upd (pair : Nat) (irq : Bool) (st : Nat) (dt : Nat) (mon : Nat) (b : Bytes) (s : State) : (fillBuf pair irq st dt mon b s).upd = s.upd :=
  (fillBuf_within pair irq st dt mon b s).parts .upd (by decide)
@[simp] theorem fillBuf_free (pair : Nat) (irq : Bool) (st : Nat) (dt : Nat) (mon : Nat) (b : Bytes) (s : State) : (fillBuf pair irq st dt mon b s).free = s.free :=
  (fillBuf_within pair irq st dt mon b s).parts .free (by decide)
@[simp] theorem fillBuf_pending (pair : Nat) (irq : Bool) (st : Nat) (dt : Nat) (mon : Nat) (b : Bytes) (s : State) : (fillBuf pair irq st dt mon b s).pending = s.pending := (fillBuf_within pair irq st dt mon b s).pending
@[simp] theorem getReg_fillBuf (z : Nat) (pair : Nat) (irq : Bool) (st : Nat) (dt : Nat) (mon : Nat) (b : Bytes) (s : State) : getReg z (fillBuf pair irq st dt mon b s) = getReg z s :=
  (fillBuf_within pair irq st dt mon b s).regs _ rfl z (by simp)

@[simp] theorem loseItem_cfg (pair : Nat) (s : State) : (loseItem pair s).cfg = s.cfg :=
  (loseItem_within pair s).parts .cfg (by decide)
@[simp] theorem loseItem_pwr (pair : Nat) (s : State) : (loseItem pair s).pwr = s.pwr :=
  (loseItem_within pair s).parts .pwr (by decide)
@[simp] theorem loseItem_start (pair : Nat) (s : State) : (loseItem pair s).start = s.start :=
  (loseItem_within pair s).parts .start (by decide)
@[simp] theorem loseItem_fco (pair : Nat) (s : State) : (loseItem pair s).fco = s.fco :=
  (loseItem_within pair s).parts .fco (by decide)
@[simp] theorem loseItem_evr (pair : Nat) (s : State) : (loseItem pair s).evr = s.evr :=
  (loseItem_within pair s).parts .evr (by decide)
@[simp] theorem loseItem_dup (pair : Nat) (s : State) : (loseItem pair s).dup = s.dup :=
  (loseItem_within pair s).parts .dup (by decide)
@[simp] theorem loseItem_tim (pair : Nat) (s : State) : (loseItem pair s).tim = s.tim :=
  (loseItem_within pair s).parts .tim (by decide)
@[simp] theorem loseItem_kst (pair : Nat) (s : State) : (loseItem pair s).kst = s.kst :=
  (loseItem_within pair s).parts .kst (by decide)
@[simp] theorem loseItem_model (pair : Nat) (s : State) : (loseItem pair s).model = s.model :=
  (loseItem_within pair s).parts .model (by decide)
@[simp] theorem loseItem_rnd (pair : Nat) (s : State) : (loseItem pair s).rnd = s.rnd :=
  (loseItem_within pair s).parts .rnd (by decide)
@[simp] theorem loseItem_chu (pair : Nat) (s : State) : (loseItem pair s).chu = s.chu :=
  (loseItem_within pair s).parts .chu (by decide)
@[simp] theorem loseItem_sep (pair : Nat) (s : State) : (loseItem pair s).sep = s.sep :=
  (loseItem_within pair s).parts .sep (by decide)
@[simp] theorem loseItem_ctr (pair : Nat) (s : State) : (loseItem pair s).ctr = s.ctr :=
  (loseItem_within pair s).parts .ctr (by decide)
@[simp] theorem loseItem_disp (pair : Nat) (s : State) : (loseItem pair s).disp = s.disp :=
  (loseItem_within pair s).parts .disp (by decide)
@[simp] theorem loseItem_lpe (pair : Nat) (s : State) : (loseItem pair s).lpe = s.lpe :=
  (loseItem_within pair s).parts .lpe (by decide)
@[simp] theorem loseItem_tly (pair : Nat) (s : State) : (loseItem pair s).tly = s.tly :=
  (loseItem_within pair s).parts .tly (by decide)
@[simp] theorem loseItem_cyc (pair : Nat) (s : State) : (loseItem pair s).cyc = s.cyc :=
  (loseItem_within pair s).parts .cyc (by decide)
@[simp] theorem loseItem_fio (pair : Nat) (s : State) : (loseItem pair s).fio = s.fio :=
  (loseItem_within pair s).parts .fio (by decide)
@[simp] theorem loseItem_upd (pair : Nat) (s : State) : (loseItem pair s).upd = s.upd :=
  (loseItem_within pair s).parts .upd (by decide)
@[simp] theorem loseItem_out (pair : Nat) (s : State) : (loseItem pair s).out = s.out :=
  (loseItem_within pair s).parts .out (by decide)
@[simp] theorem loseItem_free (pair : Nat) (s : State) : (loseItem pair s).free = s.free :=
  (loseItem_within pair s).parts .free (by decide)
@[simp] theorem loseItem_pending (pair : Nat) (s : State) : (loseItem pair s).pending = s.pending := (loseItem_within pair s).pending
theorem getReg_loseItem_other (z : Nat) (pair : Nat) (s : State) (h : z ∉ [ringReg pair 28]) : getReg z (loseItem pair s) = getReg z s :=
  (loseItem_within pair s).regs _ rfl z h

@[simp] theorem deliverWith_cfg (pair : Nat) (st : Nat) (dt : Nat) (b : Bytes) (s : State) : (deliverWith pair st dt b s).cfg = s.cfg :=
  (deliverWith_within pair st dt b s).parts .cfg (by decide)
@[simp] theorem deliverWith_pwr (pair : Nat) (st : Nat) (dt : Nat) (b : Bytes) (s : State) : (deliverWith pair st dt b s).pwr = s.pwr :=
  (deliverWith_within pair st dt b s).parts .pwr (by decide)
@[simp] theorem deliverWith_start (pair : Nat) (st : Nat) (dt : Nat) (b : Bytes) (s : State) : (deliverWith pair st dt b s).start = s.start :=
  (deliverWith_within pair st dt b s).parts .start (by decide)
@[simp] theorem deliverWith_fco (pair : Nat) (st : Nat) (dt : Nat) (b : Bytes) (s : State) : (deliverWith pair st dt b s).fco = s.fco :=
  (deliverWith_within pair st dt b s).parts .fco (by decide)
@[simp] theorem deliverWith_evr (pair : Nat) (st : Nat) (dt : Nat) (b : Bytes) (s : State) : (deliverWith pair st dt b s).evr = s.evr :=
  (deliverWith_within pair st dt b s).parts .evr (by decide)
@[simp] theorem deliverWith_dup (pair : Nat) (st : Nat) (dt : Nat) (b : Bytes) (s : State) : (deliverWith pair st dt b s).dup = s.dup :=
  (deliverWith_within pair st dt b s).parts .dup (by decide)
@[simp] theorem deliverWith_tim (pair : Nat) (st : Nat) (dt : Nat) (b : Bytes) (s : State) : (deliverWith pair st dt b s).tim = s.tim :=
  (deliverWith_within pair st dt b s).parts .tim (by decide)
@[simp] theorem deliverWith_kst (pair : Nat) (st : Nat) (dt : Nat) (b : Bytes) (s : State) : (deliverWith pair st dt b s).kst = s.kst :=
  (deliverWith_within pair st dt b s).parts .kst (by decide)
@[simp] theorem deliverWith_model (pair : Nat) (st : Nat) (dt : Nat) (b : Bytes) (s : State) : (deliverWith pair st dt b s).model = s.model :=
  (deliverWith_within pair st dt b s).parts .model (by decide)
@[simp] theorem deliverWith_rnd (pair : Nat) (st : Nat) (dt : Nat) (b : Bytes) (s : State) : (deliverWith pair st dt b s).rnd = s.rnd :=
  (deliverWith_within pair st dt b s).parts .rnd (by decide)
@[simp] theorem deliverWith_chu (pair : Nat) (st : Nat) (dt : Nat) (b : Bytes) (s : State) : (deliverWith pair st dt b s).chu = s.chu :=
  (deliverWith_within pair st dt b s).parts .chu (by decide)
@[simp] theorem deliverWith_sep (pair : Nat) (st : Nat) (dt : Nat) (b : Bytes) (s : State) : (deliverWith pair st dt b s).sep = s.sep :=
  (deliverWith_within pair st dt b s).parts .sep (by decide)
@[simp] theorem deliverWith_ctr (pair : Nat) (st : Nat) (dt : Nat) (b : Bytes) (s : State) : (deliverWith pair st dt b s).ctr = s.ctr :=
  (deliverWith_within pair st dt b s).parts .ctr (by decide)
@[simp] theorem deliverWith_disp (pair : Nat) (st : Nat) (dt : Nat) (b : Bytes) (s : State) : (deliverWith pair st dt b s).disp = s.disp :=
  (deliverWith_within pair st dt b s).parts .disp (by decide)
@[simp] theorem deliverWith_lpe (pair : Nat) (st : Nat) (dt : Nat) (b : Bytes) (s : State) : (deliverWith pair st dt b s).lpe = s.lpe :=
  (deliverWith_within pair st dt b s).parts .lpe (by decide)
@[simp] theorem deliverWith_tly (pair : Nat) (st : Nat) (dt : Nat) (b : Bytes) (s : State) : (deliverWith pair st dt b s).tly = s.tly :=
  (deliverWith_within pair st dt b s).parts .tly (by decide)
@[simp] theorem deliverWith_cyc (pair : Nat) (st : Nat) (dt : Nat) (b : Bytes) (s : State) : (deliverWith pair st dt b s).cyc = s.cyc :=
  (deliverWith_within pair st dt b s).parts .cyc (by decide)
@[simp] theorem deliverWith_fio (pair : Nat) (st : Nat) (dt : Nat) (b : Bytes) (s : State) : (deliverWith pair st dt b s).fio = s.fio :=
  (deliverWith_within pair st dt b s).parts .fio (by decide)
@[simp] theorem deliverWith_upd (pair : Nat) (st : Nat) (dt : Nat) (b : Bytes) (s : State) : (deliverWith pair st dt b s).upd = s.upd :=
  (deliverWith_within pair st dt b s).parts .upd (by decide)
@[simp] theorem deliverWith_free (pair : Nat) (st : Nat) (dt : Nat) (b : Bytes) (s : State) : (deliverWith pair st dt b s).free = s.free :=
  (deliverWith_within pair st dt b s).parts .free (by decide)
@[simp] theorem deliverWith_pending (pair : Nat) (st : Nat) (dt : Nat) (b : Bytes) (s : State) : (deliverWith pair st dt b s).pending = s.pending := (deliverWith_within pair st dt b s).pending
theorem getReg_deliverWith_other (z : Nat) (pair : Nat) (st : Nat) (dt : Nat) (b : Bytes) (s : State) (h : z ∉ [ringReg pair 28]) : getReg z (deliverWith pair st dt b s) = getReg z s :=
  (deliverWith_within pair st dt b s).regs _ rfl z h

@[simp] theorem deliver_cfg (pair : Nat) (b : Bytes) (s : State) : (deliver pair b s).cfg = s.cfg :=
  (deliver_within pair b s).parts .cfg (by decide)
@[simp] theorem deliver_pwr (pair : Nat) (b : Bytes) (s : State) : (deliver pair b s).pwr = s.pwr :=
  (deliver_within pair b s).parts .pwr (by decide)
@[simp] theorem deliver_start (pair : Nat) (b : Bytes) (s : State) : (deliver pair b s).start = s.start :=
  (deliver_within pair b s).parts .start (by decide)
@[simp] theorem deliver_fco (pair : Nat) (b : Bytes) (s : State) : (deliver pair b s).fco = s.fco :=
  (deliver_within pair b s).parts .fco (by decide)
@[simp] theorem deliver_evr (pair : Nat) (b : Bytes) (s : State) : (deliver pair b s).evr = s.evr :=
  (deliver_within pair b s).parts .evr (by decide)
@[simp] theorem deliver_dup (pair : Nat) (b : Bytes) (s : State) : (deliver pair b s).dup = s.dup :=
  (deliver_within pair b s).parts .dup (by decide)
@[simp] theorem deliver_tim (pair : Nat) (b : Bytes) (s : State) : (deliver pair b s).tim = s.tim :=
  (deliver_within pair b s).parts .tim (by decide)
@[simp] theorem deliver_kst (pair : Nat) (b : Bytes) (s : State) : (deliver pair b s).kst = s.kst :=
  (deliver_within pair b s).parts .kst (by decide)
@[simp] theorem deliver_model (pair : Nat) (b : Bytes) (s : State) : (deliver pair b s).model = s.model :=
  (deliver_within pair b s).parts .model (by decide)
@[simp] theorem deliver_rnd (pair : Nat) (b : Bytes) (s : State) : (deliver pair b s).rnd = s.rnd :=
  (deliver_within pair b s).parts .rnd (by decide)
@[simp] theorem deliver_chu (pair : Nat) (b : Bytes) (s : State) : (deliver pair b s).chu = s.chu :=
  (deliver_within pair b s).parts .chu (by decide)
@[simp] theorem deliver_sep (pair : Nat) (b : Bytes) (s : State) : (deliver pair b s).sep = s.sep :=
  (deliver_within pair b s).parts .sep (by decide)
@[simp] theorem deliver_ctr (pair : Nat) (b : Bytes) (s : State) : (deliver pair b s).ctr = s.ctr :=
  (deliver_within pair b s).parts .ctr (by decide)
@[simp] theorem deliver_disp (pair : Nat) (b : Bytes) (s : State) : (deliver pair b s).disp = s.disp :=
  (deliver_within pair b s).parts .disp (by decide)
@[simp] theorem deliver_lpe (pair : Nat) (b : Bytes) (s : State) : (deliver pair b s).lpe = s.lpe :=
  (deliver_within pair b s).parts .lpe (by decide)
@[simp] theorem deliver_tly (pair : Nat) (b : Bytes) (s : State) : (deliver pair b s).tly = s.tly :=
  (deliver_within pair b s).parts .tly (by decide)
@[simp] theorem deliver_cyc (pair : Nat) (b : Bytes) (s : State) : (deliver pair b s).cyc = s.cyc :=
  (deliver_within pair b s).parts .cyc (by decide)
@[simp] theorem deliver_fio (pair : Nat) (b : Bytes) (s : State) : (deliver pair b s).fio = s.fio :=
  (deliver_within pair b s).parts .fio (by decide)
@[simp] theorem deliver_upd (pair : Nat) (b : Bytes) (s : State) : (deliver pair b s).upd = s.upd :=
  (deliver_within pair b s).parts .upd (by decide)
@[simp] theorem deliver_free (pair : Nat) (b : Bytes) (s : State) : (deliver pair b s).free = s.free :=
  (deliver_within pair b s).parts .free (by decide)
@[simp] theorem deliver_pending (pair : Nat) (b : Bytes) (s : State) : (deliver pair b s).pending = s.pending := (deliver_within pair b s).pending
theorem getReg_deliver_other (z : Nat) (pair : Nat) (b : Bytes) (s : State) (h : z ∉ [ringReg pair 28]) : getReg z (deliver pair b s) = getReg z s :=
  (deliver_within pair b s).regs _ rfl z h

@[simp] theorem drainItems_cfg (pair : Nat) (x2 : List Item) (x3 : State) : (drainItems pair x2 x3).cfg = x3.cfg :=
  (drainItems_within pair x2 x3).parts .cfg (by decide)
@[simp] theorem drainItems_pwr (pair : Nat) (x2 : List Item) (x3 : State) : (drainItems pair x2 x3).pwr = x3.pwr :=
  (drainItems_within pair x2 x3).parts .pwr (by decide)
@[simp] theorem drainItems_start (pair : Nat) (x2 : List Item) (x3 : State) : (drainItems pair x2 x3).start = x3.start :=
  (drainItems_within pair x2 x3).parts .start (by decide)
@[simp] theorem drainItems_fco (pair : Nat) (x2 : List Item) (x3 : State) : (drainItems pair x2 x3).fco = x3.fco :=
  (drainItems_within pair x2 x3).parts .fco (by decide)
@[simp] theorem drainItems_dup (pair : Nat) (x2 : List Item) (x3 : State) : (drainItems pair x2 x3).dup = x3.dup :=
  (drainItems_within pair x2 x3).parts .dup (by decide)
@[simp] theorem drainItems_tim (pair : Nat) (x2 : List Item) (x3 : State) : (drainItems pair x2 x3).tim = x3.tim :=
  (drainItems_within pair x2 x3).parts .tim (by decide)
@[simp] theorem drainItems_kst (pair : Nat) (x2 : List Item) (x3 : State) : (drainItems pair x2 x3).kst = x3.kst :=
  (drainItems_within pair x2 x3).parts .kst (by decide)
@[simp] theorem drainItems_model (pair : Nat) (x2 : List Item) (x3 : State) : (drainItems pair x2 x3).model = x3.model :=
  (drainItems_within pair x2 x3).parts .model (by decide)
@[simp] theorem drainItems_rnd (pair : Nat) (x2 : List Item) (x3 : State) : (drainItems pair x2 x3).rnd = x3.rnd :=
  (drainItems_within pair x2 x3).parts .rnd (by decide)
@[simp] theorem drainItems_chu (pair : Nat) (x2 : List Item) (x3 : State) : (drainItems pair x2 x3).chu = x3.chu :=
  (drainItems_within pair x2 x3).parts .chu (by decide)
@[simp] theorem drainItems_sep (pair : Nat) (x2 : List Item) (x3 : State) : (drainItems pair x2 x3).sep = x3.sep :=
  (drainItems_within pair x2 x3).parts .sep (by decide)
@[simp] theorem drainItems_ctr (pair : Nat) (x2 : List Item) (x3 : State) : (drainItems pair x2 x3).ctr = x3.ctr :=
  (drainItems_within pair x2 x3).parts .ctr (by decide)
@[simp] theorem drainItems_disp (pair : Nat) (x2 : List Item) (x3 : State) : (drainItems pair x2 x3).disp = x3.disp :=
  (drainItems_within pair x2 x3).parts .disp (by decide)
@[simp] theorem drainItems_lpe (pair : Nat) (x2 : List Item) (x3 : State) : (drainItems pair x2 x3).lpe = x3.lpe :=
  (drainItems_within pair x2 x3).parts .lpe (by decide)
@[simp] theorem drainItems_tly (pair : Nat) (x2 : List Item) (x3 : State) : (drainItems pair x2 x3).tly = x3.tly :=
  (drainItems_within pair x2 x3).parts .tly (by decide)
@[simp] theorem drainItems_cyc (pair : Nat) (x2 : List Item) (x3 : State) : (drainItems pair x2 x3).cyc = x3.cyc :=
  (drainItems_within pair x2 x3).parts .cyc (by decide)
@[simp] theorem drainItems_fio (pair : Nat) (x2 : List Item) (x3 : State) : (drainItems pair x2 x3).fio = x3.fio :=
  (drainItems_within pair x2 x3).parts .fio (by decide)
@[simp] theorem drainItems_upd (pair : Nat) (x2 : List Item) (x3 : State) : (drainItems pair x2 x3).upd = x3.upd :=
  (drainItems_within pair x2 x3).parts .upd (by decide)
@[simp] theorem drainItems_free (pair : Nat) (x2 : List Item) (x3 : State) : (drainItems pair x2 x3).free = x3.free :=
  (drainItems_within pair x2 x3).parts .free (by decide)
@[simp] theorem drainItems_pending (pair : Nat) (x2 : List Item) (x3 : State) : (drainItems pair x2 x3).pending = x3.pending := (drainItems_within pair x2 x3).pending
@[simp] theorem getReg_drainItems (z : Nat) (pair : Nat) (x2 : List Item) (x3 : State) : getReg z (drainItems pair x2 x3) = getReg z x3 :=
  (drainItems_within pair x2 x3).regs _ rfl z (by simp)

@[simp] theorem deferWith_cfg (pair : Nat) (key : Nat) (irq : Bool) (st : Nat) (b : Bytes) (s : State) : (deferWith pair key irq st b s).cfg = s.cfg :=
  (deferWith_within pair key irq st b s).parts .cfg (by decide)
@[simp] theorem deferWith_pwr (pair : Nat) (key : Nat) (irq : Bool) (st : Nat) (b : Bytes) (s : State) : (deferWith pair key irq st b s).pwr = s.pwr :=
  (deferWith_within pair key irq st b s).parts .pwr (by decide)
@[simp] theorem deferWith_start (pair : Nat) (key : Nat) (irq : Bool) (st : Nat) (b : Bytes) (s : State) : (deferWith pair key irq st b s).start = s.start :=
  (deferWith_within pair key irq st b s).parts .start (by decide)
@[simp] theorem deferWith_fco (pair : Nat) (key : Nat) (irq : Bool) (st : Nat) (b : Bytes) (s : State) : (deferWith pair key irq st b s).fco = s.fco :=
  (deferWith_within pair key irq st b s).parts .fco (by decide)
@[simp] theorem deferWith_dup (pair : Nat) (key : Nat) (irq : Bool) (st : Nat) (b : Bytes) (s : State) : (deferWith pair key irq st b s).dup = s.dup :=
  (deferWith_within pair key irq st b s).parts .dup (by decide)
@[simp] theorem deferWith_tim (pair : Nat) (key : Nat) (irq : Bool) (st : Nat) (b : Bytes) (s : State) : (deferWith pair key irq st b s).tim = s.tim :=
  (deferWith_within pair key irq st b s).parts .tim (by decide)
@[simp] theorem deferWith_kst (pair : Nat) (key : Nat) (irq : Bool) (st : Nat) (b : Bytes) (s : State) : (deferWith pair key irq st b s).kst = s.kst :=
  (deferWith_within pair key irq st b s).parts .kst (by decide)
@[simp] theorem deferWith_model (pair : Nat) (key : Nat) (irq : Bool) (st : Nat) (b : Bytes) (s : State) : (deferWith pair key irq st b s).model = s.model :=
  (deferWith_within pair key irq st b s).parts .model (by decide)
@[simp] theorem deferWith_rnd (pair : Nat) (key : Nat) (irq : Bool) (st : Nat) (b : Bytes) (s : State) : (deferWith pair key irq st b s).rnd = s.rnd :=
  (deferWith_within pair key irq st b s).parts .rnd (by decide)
@[simp] theorem deferWith_chu (pair : Nat) (key : Nat) (irq : Bool) (st : Nat) (b : Bytes) (s : State) : (deferWith pair key irq st b s).chu = s.chu :=
  (deferWith_within pair key irq st b s).parts .chu (by decide)
@[simp] theorem deferWith_sep (pair : Nat) (key : Nat) (irq : Bool) (st : Nat) (b : Bytes) (s : State) : (deferWith pair key irq st b s).sep = s.sep :=
  (deferWith_within pair key irq st b s).parts .sep (by decide)
@[simp] theorem deferWith_ctr (pair : Nat) (key : Nat) (irq : Bool) (st : Nat) (b : Bytes) (s : State) : (deferWith pair key irq st b s).ctr = s.ctr :=
  (deferWith_within pair key irq st b s).parts .ctr (by decide)
@[simp] theorem deferWith_disp (pair : Nat) (key : Nat) (irq : Bool) (st : Nat) (b : Bytes) (s : State) : (deferWith pair key irq st b s).disp = s.disp :=
  (deferWith_within pair key irq st b s).parts .disp (by decide)
@[simp] theorem deferWith_lpe (pair : Nat) (key : Nat) (irq : Bool) (st : Nat) (b : Bytes) (s : State) : (deferWith pair key irq st b s).lpe = s.lpe :=
  (deferWith_within pair key irq st b s).parts .lpe (by decide)
@[simp] theorem deferWith_tly (pair : Nat) (key : Nat) (irq : Bool) (st : Nat) (b : Bytes) (s : State) : (deferWith pair key irq st b s).tly = s.tly :=
  (deferWith_within pair key irq st b s).parts .tly (by decide)
@[simp] theorem deferWith_cyc (pair : Nat) (key : Nat) (irq : Bool) (st : Nat) (b : Bytes) (s : State) : (deferWith pair key irq st b s).cyc = s.cyc :=
  (deferWith_within pair key irq st b s).parts .cyc (by decide)
@[simp] theorem deferWith_fio (pair : Nat) (key : Nat) (irq : Bool) (st : Nat) (b : Bytes) (s : State) : (deferWith pair key irq st b s).fio = s.fio :=
  (deferWith_within pair key irq st b s).parts .fio (by decide)
@[simp] theorem deferWith_upd (pair : Nat) (key : Nat) (irq : Bool) (st : Nat) (b : Bytes) (s : State) : (deferWith pair key irq st b s).upd = s.upd :=
  (deferWith_within pair key irq st b s).parts .upd (by decide)
@[simp] theorem deferWith_free (pair : Nat) (key : Nat) (irq : Bool) (st : Nat) (b : Bytes) (s : State) : (deferWith pair key irq st b s).free = s.free :=
  (deferWith_within pair key irq st b s).parts .free (by decide)
@[simp] theorem deferWith_pending (pair : Nat) (key : Nat) (irq : Bool) (st : Nat) (b : Bytes) (s : State) : (deferWith pair key irq st b s).pending = s.pending := (deferWith_within pair key irq st b s).pending
@[simp] theorem getReg_deferWith (z : Nat) (pair : Nat) (key : Nat) (irq : Bool) (st : Nat) (b : Bytes) (s : State) : getReg z (deferWith pair key irq st b s) = getReg z s :=
  (deferWith_within pair key irq st b s).regs _ rfl z (by simp)

@[simp] theorem defer_cfg (pair : Nat) (key : Nat) (irq : Bool) (b : Bytes) (s : State) : (defer pair key irq b s).cfg = s.cfg :=
  (defer_within pair key irq b s).parts .cfg (by decide)
@[simp] theorem defer_pwr (pair : Nat) (key : Nat) (irq : Bool) (b : Bytes) (s : State) : (defer pair key irq b s).pwr = s.pwr :=
  (defer_within pair key irq b s).parts .pwr (by decide)
@[simp] theorem defer_start (pair : Nat) (key : Nat) (irq : Bool) (b : Bytes) (s : State) : (defer pair key irq b s).start = s.start :=
  (defer_within pair key irq b s).parts .start (by decide)
@[simp] theorem defer_fco (pair : Nat) (key : Nat) (irq : Bool) (b : Bytes) (s : State) : (defer pair key irq b s).fco = s.fco :=
  (defer_within pair key irq b s).parts .fco (by decide)
@[simp] theorem defer_dup (pair : Nat) (key : Nat) (irq : Bool) (b : Bytes) (s : State) : (defer pair key irq b s).dup = s.dup :=
  (defer_within pair key irq b s).parts .dup (by decide)
@[simp] theorem defer_tim (pair : Nat) (key : Nat) (irq : Bool) (b : Bytes) (s : State) : (defer pair key irq b s).tim = s.tim :=
  (defer_within pair key irq b s).parts .tim (by decide)
@[simp] theorem defer_kst (pair : Nat) (key : Nat) (irq : Bool) (b : Bytes) (s : State) : (defer pair key irq b s).kst = s.kst :=
  (defer_within pair key irq b s).parts .kst (by decide)
@[simp] theorem defer_model (pair : Nat) (key : Nat) (irq : Bool) (b : Bytes) (s : State) : (defer pair key irq b s).model = s.model :=
  (defer_within pair key irq b s).parts .model (by decide)
@[simp] theorem defer_rnd (pair : Nat) (key : Nat) (irq : Bool) (b : Bytes) (s : State) : (defer pair key irq b s).rnd = s.rnd :=
  (defer_within pair key irq b s).parts .rnd (by decide)
@[simp] theorem defer_chu (pair : Nat) (key : Nat) (irq : Bool) (b : Bytes) (s : State) : (defer pair key irq b s).chu = s.chu :=
  (defer_within pair key irq b s).parts .chu (by decide)
@[simp] theorem defer_sep (pair : Nat) (key : Nat) (irq : Bool) (b : Bytes) (s : State) : (defer pair key irq b s).sep = s.sep :=
  (defer_within pair key irq b s).parts .sep (by decide)
@[simp] theorem defer_ctr (pair : Nat) (key : Nat) (irq : Bool) (b : Bytes) (s : State) : (defer pair key irq b s).ctr = s.ctr :=
  (defer_within pair key irq b s).parts .ctr (by decide)
@[simp] theorem defer_disp (pair : Nat) (key : Nat) (irq : Bool) (b : Bytes) (s : State) : (defer pair key irq b s).disp = s.disp :=
  (defer_within pair key irq b s).parts .disp (by decide)
@[simp] theorem defer_lpe (pair : Nat) (key : Nat) (irq : Bool) (b : Bytes) (s : State) : (defer pair key irq b s).lpe = s.lpe :=
  (defer_within pair key irq b s).parts .lpe (by decide)
@[simp] theorem defer_tly (pair : Nat) (key : Nat) (irq : Bool) (b : Bytes) (s : State) : (defer pair key irq b s).tly = s.tly :=
  (defer_within pair key irq b s).parts .tly (by decide)
@[simp] theorem defer_cyc (pair : Nat) (key : Nat) (irq : Bool) (b : Bytes) (s : State) : (defer pair key irq b s).cyc = s.cyc :=
  (defer_within pair key irq b s).parts .cyc (by decide)
@[simp] theorem defer_fio (pair : Nat) (key : Nat) (irq : Bool) (b : Bytes) (s : State) : (defer pair key irq b s).fio = s.fio :=
  (defer_within pair key irq b s).parts .fio (by decide)
@[simp] theorem defer_upd (pair : Nat) (key : Nat) (irq : Bool) (b : Bytes) (s : State) : (defer pair key irq b s).upd = s.upd :=
  (defer_within pair key irq b s).parts .upd (by decide)
@[simp] theorem defer_free (pair : Nat) (key : Nat) (irq : Bool) (b : Bytes) (s : State) : (defer pair key irq b s).free = s.free :=
  (defer_within pair key irq b s).parts .free (by decide)
@[simp] theorem defer_pending (pair : Nat) (key : Nat) (irq : Bool) (b : Bytes) (s : State) : (defer pair key irq b s).pending = s.pending := (defer_within pair key irq b s).pending
@[simp] theorem getReg_defer (z : Nat) (pair : Nat) (key : Nat) (irq : Bool) (b : Bytes) (s : State) : getReg z (defer pair key irq b s) = getReg z s :=
  (defer_within pair key irq b s).regs _ rfl z (by simp)

@[simp] theorem pumpRing_cfg (pair : Nat) (s : State) : (pumpRing pair s).cfg = s.cfg :=
  (pumpRing_within pair s).parts .cfg (by decide)
@[simp] theorem pumpRing_pwr (pair : Nat) (s : State) : (pumpRing pair s).pwr = s.pwr :=
  (pumpRing_within pair s).parts .pwr (by decide)
@[simp] theorem pumpRing_start (pair : Nat) (s : State) : (pumpRing pair s).start = s.start :=
  (pumpRing_within pair s).parts .start (by decide)
@[simp] theorem pumpRing_fco (pair : Nat) (s : State) : (pumpRing pair s).fco = s.fco :=
  (pumpRing_within pair s).parts .fco (by decide)
@[simp] theorem pumpRing_dup (pair : Nat) (s : State) : (pumpRing pair s).dup = s.dup :=
  (pumpRing_within pair s).parts .dup (by decide)
@[simp] theorem pumpRing_tim (pair : Nat) (s : State) : (pumpRing pair s).tim = s.tim :=
  (pumpRing_within pair s).parts .tim (by decide)
@[simp] theorem pumpRing_kst (pair : Nat) (s : State) : (pumpRing pair s).kst = s.kst :=
  (pumpRing_within pair s).parts .kst (by decide)
@[simp] theorem pumpRing_model (pair : Nat) (s : State) : (pumpRing pair s).model = s.model :=
  (pumpRing_within pair s).parts .model (by decide)
@[simp] theorem pumpRing_rnd (pair : Nat) (s : State) : (pumpRing pair s).rnd = s.rnd :=
  (pumpRing_within pair s).parts .rnd (by decide)
@[simp] theorem pumpRing_chu (pair : Nat) (s : State) : (pumpRing pair s).chu = s.chu :=
  (pumpRing_within pair s).parts .chu (by decide)
@[simp] theorem pumpRing_sep (pair : Nat) (s : State) : (pumpRing pair s).sep = s.sep :=
  (pumpRing_within pair s).parts .sep (by decide)
@[simp] theorem pumpRing_ctr (pair : Nat) (s : State) : (pumpRing pair s).ctr = s.ctr :=
  (pumpRing_within pair s).parts .ctr (by decide)
@[simp] theorem pumpRing_disp (pair : Nat) (s : State) : (pumpRing pair s).disp = s.disp :=
  (pumpRing_within pair s).parts .disp (by decide)
@[simp] theorem pumpRing_lpe (pair : Nat) (s : State) : (pumpRing pair s).lpe = s.lpe :=
  (pumpRing_within pair s).parts .lpe (by decide)
@[simp] theorem pumpRing_tly (pair : Nat) (s : State) : (pumpRing pair s).tly = s.tly :=
  (pumpRing_within pair s).parts .tly (by decide)
@[simp] theorem pumpRing_cyc (pair : Nat) (s : State) : (pumpRing pair s).cyc = s.cyc :=
  (pumpRing_within pair s).parts .cyc (by decide)
@[simp] theorem pumpRing_fio (pair : Nat) (s : State) : (pumpRing pair s).fio = s.fio :=
  (pumpRing_within pair s).parts .fio (by decide)
@[simp] theorem pumpRing_upd (pair : Nat) (s : State) : (pumpRing pair s).upd = s.upd :=
  (pumpRing_within pair s).parts .upd (by decide)
@[simp] theorem pumpRing_free (pair : Nat) (s : State) : (pumpRing pair s).free = s.free :=
  (pumpRing_within pair s).parts .free (by decide)
@[simp] theorem pumpRing_pending (pair : Nat) (s : State) : (pumpRing pair s).pending = s.pending := (pumpRing_within pair s).pending
@[simp] theorem getReg_pumpRing (z : Nat) (pair : Nat) (s : State) : getReg z (pumpRing pair s) = getReg z s :=
  (pumpRing_within pair s).regs _ rfl z (by simp)

@[simp] theorem keepRec_cfg (code : Nat) (flags : Nat) (arg : Nat) (suppr : Nat) (s : State) : (keepRec code flags arg suppr s).cfg = s.cfg :=
  (keepRec_within code flags arg suppr s).parts .cfg (by decide)
@[simp] theorem keepRec_pwr (code : Nat) (flags : Nat) (arg : Nat) (suppr : Nat) (s : State) : (keepRec code flags arg suppr s).pwr = s.pwr :=
  (keepRec_within code flags arg suppr s).parts .pwr (by decide)
@[simp] theorem keepRec_start (code : Nat) (flags : Nat) (arg : Nat) (suppr : Nat) (s : State) : (keepRec code flags arg suppr s).start = s.start :=
  (keepRec_within code flags arg suppr s).parts .start (by decide)
@[simp] theorem keepRec_fco (code : Nat) (flags : Nat) (arg : Nat) (suppr : Nat) (s : State) : (keepRec code flags arg suppr s).fco = s.fco :=
  (keepRec_within code flags arg suppr s).parts .fco (by decide)
@[simp] theorem keepRec_dup (code : Nat) (flags : Nat) (arg : Nat) (suppr : Nat) (s : State) : (keepRec code flags arg suppr s).dup = s.dup :=
  (keepRec_within code flags arg suppr s).parts .dup (by decide)
@[simp] theorem keepRec_tim (code : Nat) (flags : Nat) (arg : Nat) (suppr : Nat) (s : State) : (keepRec code flags arg suppr s).tim = s.tim :=
  (keepRec_within code flags arg suppr s).parts .tim (by decide)
@[simp] theorem keepRec_kst (code : Nat) (flags : Nat) (arg : Nat) (suppr : Nat) (s : State) : (keepRec code flags arg suppr s).kst = s.kst :=
  (keepRec_within code flags arg suppr s).parts .kst (by decide)
@[simp] theorem keepRec_model (code : Nat) (flags : Nat) (arg : Nat) (suppr : Nat) (s : State) : (keepRec code flags arg suppr s).model = s.model :=
  (keepRec_within code flags arg suppr s).parts .model (by decide)
@[simp] theorem keepRec_rnd (code : Nat) (flags : Nat) (arg : Nat) (suppr : Nat) (s : State) : (keepRec code flags arg suppr s).rnd = s.rnd :=
  (keepRec_within code flags arg suppr s).parts .rnd (by decide)
@[simp] theorem keepRec_chu (code : Nat) (flags : Nat) (arg : Nat) (suppr : Nat) (s : State) : (keepRec code flags arg suppr s).chu = s.chu :=
  (keepRec_within code flags arg suppr s).parts .chu (by decide)
@[simp] theorem keepRec_sep (code : Nat) (flags : Nat) (arg : Nat) (suppr : Nat) (s : State) : (keepRec code flags arg suppr s).sep = s.sep :=
  (keepRec_within code flags arg suppr s).parts .sep (by decide)
@[simp] theorem keepRec_ctr (code : Nat) (flags : Nat) (arg : Nat) (suppr : Nat) (s : State) : (keepRec code flags arg suppr s).ctr = s.ctr :=
  (keepRec_within code flags arg suppr s).parts .ctr (by decide)
@[simp] theorem keepRec_disp (code : Nat) (flags : Nat) (arg : Nat) (suppr : Nat) (s : State) : (keepRec code flags arg suppr s).disp = s.disp :=
  (keepRec_within code flags arg suppr s).parts .disp (by decide)
@[simp] theorem keepRec_lpe (code : Nat) (flags : Nat) (arg : Nat) (suppr : Nat) (s : State) : (keepRec code flags arg suppr s).lpe = s.lpe :=
  (keepRec_within code flags arg suppr s).parts .lpe (by decide)
@[simp] theorem keepRec_tly (code : Nat) (flags : Nat) (arg : Nat) (suppr : Nat) (s : State) : (keepRec code flags arg suppr s).tly = s.tly :=
  (keepRec_within code flags arg suppr s).parts .tly (by decide)
@[simp] theorem keepRec_cyc (code : Nat) (flags : Nat) (arg : Nat) (suppr : Nat) (s : State) : (keepRec code flags arg suppr s).cyc = s.cyc :=
  (keepRec_within code flags arg suppr s).parts .cyc (by decide)
@[simp] theorem keepRec_fio (code : Nat) (flags : Nat) (arg : Nat) (suppr : Nat) (s : State) : (keepRec code flags arg suppr s).fio = s.fio :=
  (keepRec_within code flags arg suppr s).parts .fio (by decide)
@[simp] theorem keepRec_upd (code : Nat) (flags : Nat) (arg : Nat) (suppr : Nat) (s : State) : (keepRec code flags arg suppr s).upd = s.upd :=
  (keepRec_within code flags arg suppr s).parts .upd (by decide)
@[simp] theorem keepRec_free (code : Nat) (flags : Nat) (arg : Nat) (suppr : Nat) (s : State) : (keepRec code flags arg suppr s).free = s.free :=
  (keepRec_within code flags arg suppr s).parts .free (by decide)
@[simp] theorem keepRec_pending (code : Nat) (flags : Nat) (arg : Nat) (suppr : Nat) (s : State) : (keepRec code flags arg suppr s).pending = s.pending := (keepRec_within code flags arg suppr s).pending
theorem getReg_keepRec_other (z : Nat) (code : Nat) (flags : Nat) (arg : Nat) (suppr : Nat) (s : State) (h : z ∉ [0x0A010, 0x0A030]) : getReg z (keepRec code flags arg suppr s) = getReg z s :=
  (keepRec_within code flags arg suppr s).regs _ rfl z h

@[simp] theorem evrFlush_cfg (s : State) : (evrFlush s).cfg = s.cfg :=
  (evrFlush_within s).parts .cfg (by decide)
@[simp] theorem evrFlush_pwr (s : State) : (evrFlush s).pwr = s.pwr :=
  (evrFlush_within s).parts .pwr (by decide)
@[simp] theorem evrFlush_start (s : State) : (evrFlush s).start = s.start :=
  (evrFlush_within s).parts .start (by decide)
@[simp] theorem evrFlush_fco (s : State) : (evrFlush s).fco = s.fco :=
  (evrFlush_within s).parts .fco (by decide)
@[simp] theorem evrFlush_dup (s : State) : (evrFlush s).dup = s.dup :=
  (evrFlush_within s).parts .dup (by decide)
@[simp] theorem evrFlush_tim (s : State) : (evrFlush s).tim = s.tim :=
  (evrFlush_within s).parts .tim (by decide)
@[simp] theorem evrFlush_kst (s : State) : (evrFlush s).kst = s.kst :=
  (evrFlush_within s).parts .kst (by decide)
@[simp] theorem evrFlush_model (s : State) : (evrFlush s).model = s.model :=
  (evrFlush_within s).parts .model (by decide)
@[simp] theorem evrFlush_rnd (s : State) : (evrFlush s).rnd = s.rnd :=
  (evrFlush_within s).parts .rnd (by decide)
@[simp] theorem evrFlush_chu (s : State) : (evrFlush s).chu = s.chu :=
  (evrFlush_within s).parts .chu (by decide)
@[simp] theorem evrFlush_sep (s : State) : (evrFlush s).sep = s.sep :=
  (evrFlush_within s).parts .sep (by decide)
@[simp] theorem evrFlush_ctr (s : State) : (evrFlush s).ctr = s.ctr :=
  (evrFlush_within s).parts .ctr (by decide)
@[simp] theorem evrFlush_disp (s : State) : (evrFlush s).disp = s.disp :=
  (evrFlush_within s).parts .disp (by decide)
@[simp] theorem evrFlush_lpe (s : State) : (evrFlush s).lpe = s.lpe :=
  (evrFlush_within s).parts .lpe (by decide)
@[simp] theorem evrFlush_tly (s : State) : (evrFlush s).tly = s.tly :=
  (evrFlush_within s).parts .tly (by decide)
@[simp] theorem evrFlush_cyc (s : State) : (evrFlush s).cyc = s.cyc :=
  (evrFlush_within s).parts .cyc (by decide)
@[simp] theorem evrFlush_fio (s : State) : (evrFlush s).fio = s.fio :=
  (evrFlush_within s).parts .fio (by decide)
@[simp] theorem evrFlush_upd (s : State) : (evrFlush s).upd = s.upd :=
  (evrFlush_within s).parts .upd (by decide)
@[simp] theorem evrFlush_free (s : State) : (evrFlush s).free = s.free :=
  (evrFlush_within s).parts .free (by decide)
@[simp] theorem evrFlush_pending (s : State) : (evrFlush s).pending = s.pending := (evrFlush_within s).pending
theorem getReg_evrFlush_other (z : Nat) (s : State) (h : z ∉ [0x0A010, 0x0A030]) : getReg z (evrFlush s) = getReg z s :=
  (evrFlush_within s).regs _ rfl z h

@[simp] theorem record_cfg (code : Nat) (flags : Nat) (arg : Nat) (s : State) : (record code flags arg s).cfg = s.cfg :=
  (record_within code flags arg s).parts .cfg (by decide)
@[simp] theorem record_pwr (code : Nat) (flags : Nat) (arg : Nat) (s : State) : (record code flags arg s).pwr = s.pwr :=
  (record_within code flags arg s).parts .pwr (by decide)
@[simp] theorem record_start (code : Nat) (flags : Nat) (arg : Nat) (s : State) : (record code flags arg s).start = s.start :=
  (record_within code flags arg s).parts .start (by decide)
@[simp] theorem record_fco (code : Nat) (flags : Nat) (arg : Nat) (s : State) : (record code flags arg s).fco = s.fco :=
  (record_within code flags arg s).parts .fco (by decide)
@[simp] theorem record_dup (code : Nat) (flags : Nat) (arg : Nat) (s : State) : (record code flags arg s).dup = s.dup :=
  (record_within code flags arg s).parts .dup (by decide)
@[simp] theorem record_tim (code : Nat) (flags : Nat) (arg : Nat) (s : State) : (record code flags arg s).tim = s.tim :=
  (record_within code flags arg s).parts .tim (by decide)
@[simp] theorem record_kst (code : Nat) (flags : Nat) (arg : Nat) (s : State) : (record code flags arg s).kst = s.kst :=
  (record_within code flags arg s).parts .kst (by decide)
@[simp] theorem record_model (code : Nat) (flags : Nat) (arg : Nat) (s : State) : (record code flags arg s).model = s.model :=
  (record_within code flags arg s).parts .model (by decide)
@[simp] theorem record_rnd (code : Nat) (flags : Nat) (arg : Nat) (s : State) : (record code flags arg s).rnd = s.rnd :=
  (record_within code flags arg s).parts .rnd (by decide)
@[simp] theorem record_chu (code : Nat) (flags : Nat) (arg : Nat) (s : State) : (record code flags arg s).chu = s.chu :=
  (record_within code flags arg s).parts .chu (by decide)
@[simp] theorem record_sep (code : Nat) (flags : Nat) (arg : Nat) (s : State) : (record code flags arg s).sep = s.sep :=
  (record_within code flags arg s).parts .sep (by decide)
@[simp] theorem record_ctr (code : Nat) (flags : Nat) (arg : Nat) (s : State) : (record code flags arg s).ctr = s.ctr :=
  (record_within code flags arg s).parts .ctr (by decide)
@[simp] theorem record_disp (code : Nat) (flags : Nat) (arg : Nat) (s : State) : (record code flags arg s).disp = s.disp :=
  (record_within code flags arg s).parts .disp (by decide)
@[simp] theorem record_lpe (code : Nat) (flags : Nat) (arg : Nat) (s : State) : (record code flags arg s).lpe = s.lpe :=
  (record_within code flags arg s).parts .lpe (by decide)
@[simp] theorem record_tly (code : Nat) (flags : Nat) (arg : Nat) (s : State) : (record code flags arg s).tly = s.tly :=
  (record_within code flags arg s).parts .tly (by decide)
@[simp] theorem record_cyc (code : Nat) (flags : Nat) (arg : Nat) (s : State) : (record code flags arg s).cyc = s.cyc :=
  (record_within code flags arg s).parts .cyc (by decide)
@[simp] theorem record_fio (code : Nat) (flags : Nat) (arg : Nat) (s : State) : (record code flags arg s).fio = s.fio :=
  (record_within code flags arg s).parts .fio (by decide)
@[simp] theorem record_upd (code : Nat) (flags : Nat) (arg : Nat) (s : State) : (record code flags arg s).upd = s.upd :=
  (record_within code flags arg s).parts .upd (by decide)
@[simp] theorem record_free (code : Nat) (flags : Nat) (arg : Nat) (s : State) : (record code flags arg s).free = s.free :=
  (record_within code flags arg s).parts .free (by decide)
@[simp] theorem record_pending (code : Nat) (flags : Nat) (arg : Nat) (s : State) : (record code flags arg s).pending = s.pending := (record_within code flags arg s).pending
theorem getReg_record_other (z : Nat) (code : Nat) (flags : Nat) (arg : Nat) (s : State) (h : z ∉ [0x0A034, 0x0A010, 0x0A030]) : getReg z (record code flags arg s) = getReg z s :=
  (record_within code flags arg s).regs _ rfl z h

@[simp] theorem evt_cfg (g : Nat) (kind : Nat) (arg : Nat) (s : State) : (evt g kind arg s).cfg = s.cfg :=
  (evt_within g kind arg s).parts .cfg (by decide)
@[simp] theorem evt_pwr (g : Nat) (kind : Nat) (arg : Nat) (s : State) : (evt g kind arg s).pwr = s.pwr :=
  (evt_within g kind arg s).parts .pwr (by decide)
@[simp] theorem evt_start (g : Nat) (kind : Nat) (arg : Nat) (s : State) : (evt g kind arg s).start = s.start :=
  (evt_within g kind arg s).parts .start (by decide)
@[simp] theorem evt_fco (g : Nat) (kind : Nat) (arg : Nat) (s : State) : (evt g kind arg s).fco = s.fco :=
  (evt_within g kind arg s).parts .fco (by decide)
@[simp] theorem evt_dup (g : Nat) (kind : Nat) (arg : Nat) (s : State) : (evt g kind arg s).dup = s.dup :=
  (evt_within g kind arg s).parts .dup (by decide)
@[simp] theorem evt_tim (g : Nat) (kind : Nat) (arg : Nat) (s : State) : (evt g kind arg s).tim = s.tim :=
  (evt_within g kind arg s).parts .tim (by decide)
@[simp] theorem evt_kst (g : Nat) (kind : Nat) (arg : Nat) (s : State) : (evt g kind arg s).kst = s.kst :=
  (evt_within g kind arg s).parts .kst (by decide)
@[simp] theorem evt_model (g : Nat) (kind : Nat) (arg : Nat) (s : State) : (evt g kind arg s).model = s.model :=
  (evt_within g kind arg s).parts .model (by decide)
@[simp] theorem evt_rnd (g : Nat) (kind : Nat) (arg : Nat) (s : State) : (evt g kind arg s).rnd = s.rnd :=
  (evt_within g kind arg s).parts .rnd (by decide)
@[simp] theorem evt_chu (g : Nat) (kind : Nat) (arg : Nat) (s : State) : (evt g kind arg s).chu = s.chu :=
  (evt_within g kind arg s).parts .chu (by decide)
@[simp] theorem evt_sep (g : Nat) (kind : Nat) (arg : Nat) (s : State) : (evt g kind arg s).sep = s.sep :=
  (evt_within g kind arg s).parts .sep (by decide)
@[simp] theorem evt_ctr (g : Nat) (kind : Nat) (arg : Nat) (s : State) : (evt g kind arg s).ctr = s.ctr :=
  (evt_within g kind arg s).parts .ctr (by decide)
@[simp] theorem evt_disp (g : Nat) (kind : Nat) (arg : Nat) (s : State) : (evt g kind arg s).disp = s.disp :=
  (evt_within g kind arg s).parts .disp (by decide)
@[simp] theorem evt_lpe (g : Nat) (kind : Nat) (arg : Nat) (s : State) : (evt g kind arg s).lpe = s.lpe :=
  (evt_within g kind arg s).parts .lpe (by decide)
@[simp] theorem evt_tly (g : Nat) (kind : Nat) (arg : Nat) (s : State) : (evt g kind arg s).tly = s.tly :=
  (evt_within g kind arg s).parts .tly (by decide)
@[simp] theorem evt_cyc (g : Nat) (kind : Nat) (arg : Nat) (s : State) : (evt g kind arg s).cyc = s.cyc :=
  (evt_within g kind arg s).parts .cyc (by decide)
@[simp] theorem evt_fio (g : Nat) (kind : Nat) (arg : Nat) (s : State) : (evt g kind arg s).fio = s.fio :=
  (evt_within g kind arg s).parts .fio (by decide)
@[simp] theorem evt_upd (g : Nat) (kind : Nat) (arg : Nat) (s : State) : (evt g kind arg s).upd = s.upd :=
  (evt_within g kind arg s).parts .upd (by decide)
@[simp] theorem evt_free (g : Nat) (kind : Nat) (arg : Nat) (s : State) : (evt g kind arg s).free = s.free :=
  (evt_within g kind arg s).parts .free (by decide)
@[simp] theorem evt_pending (g : Nat) (kind : Nat) (arg : Nat) (s : State) : (evt g kind arg s).pending = s.pending := (evt_within g kind arg s).pending
theorem getReg_evt_other (z : Nat) (g : Nat) (kind : Nat) (arg : Nat) (s : State) (h : z ∉ [0x0A034, 0x0A010, 0x0A030]) : getReg z (evt g kind arg s) = getReg z s :=
  (evt_within g kind arg s).regs _ rfl z h

@[simp] theorem writeIgnored_cfg (x1 : Nat) (v : Word) (s : State) : (writeIgnored x1 v s).cfg = s.cfg :=
  (writeIgnored_within x1 v s).parts .cfg (by decide)
@[simp] theorem writeIgnored_pwr (x1 : Nat) (v : Word) (s : State) : (writeIgnored x1 v s).pwr = s.pwr :=
  (writeIgnored_within x1 v s).parts .pwr (by decide)
@[simp] theorem writeIgnored_start (x1 : Nat) (v : Word) (s : State) : (writeIgnored x1 v s).start = s.start :=
  (writeIgnored_within x1 v s).parts .start (by decide)
@[simp] theorem writeIgnored_fco (x1 : Nat) (v : Word) (s : State) : (writeIgnored x1 v s).fco = s.fco :=
  (writeIgnored_within x1 v s).parts .fco (by decide)
@[simp] theorem writeIgnored_dup (x1 : Nat) (v : Word) (s : State) : (writeIgnored x1 v s).dup = s.dup :=
  (writeIgnored_within x1 v s).parts .dup (by decide)
@[simp] theorem writeIgnored_tim (x1 : Nat) (v : Word) (s : State) : (writeIgnored x1 v s).tim = s.tim :=
  (writeIgnored_within x1 v s).parts .tim (by decide)
@[simp] theorem writeIgnored_kst (x1 : Nat) (v : Word) (s : State) : (writeIgnored x1 v s).kst = s.kst :=
  (writeIgnored_within x1 v s).parts .kst (by decide)
@[simp] theorem writeIgnored_model (x1 : Nat) (v : Word) (s : State) : (writeIgnored x1 v s).model = s.model :=
  (writeIgnored_within x1 v s).parts .model (by decide)
@[simp] theorem writeIgnored_rnd (x1 : Nat) (v : Word) (s : State) : (writeIgnored x1 v s).rnd = s.rnd :=
  (writeIgnored_within x1 v s).parts .rnd (by decide)
@[simp] theorem writeIgnored_chu (x1 : Nat) (v : Word) (s : State) : (writeIgnored x1 v s).chu = s.chu :=
  (writeIgnored_within x1 v s).parts .chu (by decide)
@[simp] theorem writeIgnored_sep (x1 : Nat) (v : Word) (s : State) : (writeIgnored x1 v s).sep = s.sep :=
  (writeIgnored_within x1 v s).parts .sep (by decide)
@[simp] theorem writeIgnored_ctr (x1 : Nat) (v : Word) (s : State) : (writeIgnored x1 v s).ctr = s.ctr :=
  (writeIgnored_within x1 v s).parts .ctr (by decide)
@[simp] theorem writeIgnored_disp (x1 : Nat) (v : Word) (s : State) : (writeIgnored x1 v s).disp = s.disp :=
  (writeIgnored_within x1 v s).parts .disp (by decide)
@[simp] theorem writeIgnored_lpe (x1 : Nat) (v : Word) (s : State) : (writeIgnored x1 v s).lpe = s.lpe :=
  (writeIgnored_within x1 v s).parts .lpe (by decide)
@[simp] theorem writeIgnored_tly (x1 : Nat) (v : Word) (s : State) : (writeIgnored x1 v s).tly = s.tly :=
  (writeIgnored_within x1 v s).parts .tly (by decide)
@[simp] theorem writeIgnored_cyc (x1 : Nat) (v : Word) (s : State) : (writeIgnored x1 v s).cyc = s.cyc :=
  (writeIgnored_within x1 v s).parts .cyc (by decide)
@[simp] theorem writeIgnored_fio (x1 : Nat) (v : Word) (s : State) : (writeIgnored x1 v s).fio = s.fio :=
  (writeIgnored_within x1 v s).parts .fio (by decide)
@[simp] theorem writeIgnored_upd (x1 : Nat) (v : Word) (s : State) : (writeIgnored x1 v s).upd = s.upd :=
  (writeIgnored_within x1 v s).parts .upd (by decide)
@[simp] theorem writeIgnored_free (x1 : Nat) (v : Word) (s : State) : (writeIgnored x1 v s).free = s.free :=
  (writeIgnored_within x1 v s).parts .free (by decide)
@[simp] theorem writeIgnored_pending (x1 : Nat) (v : Word) (s : State) : (writeIgnored x1 v s).pending = s.pending := (writeIgnored_within x1 v s).pending
theorem getReg_writeIgnored_other (z : Nat) (x1 : Nat) (v : Word) (s : State) (h : z ∉ [0x0A034, 0x0A010, 0x0A030]) : getReg z (writeIgnored x1 v s) = getReg z s :=
  (writeIgnored_within x1 v s).regs _ rfl z h

/-! ## Fields of registers -/

theorem getLsbD_putFld (w : Word) (hi lo v j : Nat) (h : lo ≤ hi) (k : hi < 32) :
    (putFld w hi lo v).getLsbD j = if lo ≤ j ∧ j ≤ hi then v.testBit (j - lo) else w.getLsbD j := by
  by_cases hj : j < 32
  · simp only [putFld, BitVec.getLsbD_or, BitVec.getLsbD_and, BitVec.getLsbD_not, BitVec.getLsbD_ofNat, Nat.testBit_shiftLeft,
      Nat.testBit_two_pow_sub_one, Nat.testBit_mod_two_pow, hj, decide_true, Bool.true_and]
    by_cases h1 : lo ≤ j
    · by_cases h2 : j ≤ hi
      · have h3 : j - lo < hi - lo + 1 := by omega
        simp [h1, h2, h3]
      · have h3 : ¬ j - lo < hi - lo + 1 := by omega
        simp [h1, h2, h3]
    · simp [h1]
  · rw [BitVec.getLsbD_of_ge _ _ (by omega), BitVec.getLsbD_of_ge _ _ (by omega)]
    have : ¬ (lo ≤ j ∧ j ≤ hi) := by omega
    simp [this]

theorem testBit_fld (w : Word) (hi lo i : Nat) : (fld w hi lo).testBit i = (decide (i < hi - lo + 1) && w.getLsbD (i + lo)) := by
  simp [fld, Nat.testBit_mod_two_pow, Nat.testBit_shiftRight, BitVec.getLsbD, Nat.add_comm]

/-- A field reads back what was put into it, cut to its width. -/
theorem fld_putFld_same (w : Word) (hi lo v : Nat) (h : lo ≤ hi) (k : hi < 32) : fld (putFld w hi lo v) hi lo = v % 2 ^ (hi - lo + 1) := by
  apply Nat.eq_of_testBit_eq
  intro i
  rw [testBit_fld, getLsbD_putFld w hi lo v _ h k, Nat.testBit_mod_two_pow]
  by_cases hi' : i < hi - lo + 1
  · have : lo ≤ i + lo ∧ i + lo ≤ hi := by omega
    simp [hi', this]
  · simp [hi']

/-- A field keeps its value while another one, above or below it, is put. -/
theorem fld_putFld_other (w : Word) (hi lo v hi' lo' : Nat) (h : lo ≤ hi) (k : hi < 32) (h' : lo' ≤ hi')
    (d : hi < lo' ∨ hi' < lo) :
    fld (putFld w hi lo v) hi' lo' = fld w hi' lo' := by
  apply Nat.eq_of_testBit_eq
  intro i
  rw [testBit_fld, testBit_fld, getLsbD_putFld w hi lo v _ h k]
  by_cases hi'' : i < hi' - lo' + 1
  · have : ¬ (lo ≤ i + lo' ∧ i + lo' ≤ hi) := by omega
    simp [this]
  · simp [hi'']

/-- A bit reads back what was put into it. -/
theorem bitAt_putBit_same (w : Word) (i : Nat) (b : Bool) (k : i < 32) : bitAt (putBit w i b) i = b := by
  rw [bitAt, putBit, getLsbD_putFld w i i _ i (Nat.le_refl i) k]
  cases b <;> simp

/-- A bit keeps its value while another one is put. -/
theorem bitAt_putBit_other (w : Word) (i j : Nat) (b : Bool) (k : i < 32) (d : j ≠ i) : bitAt (putBit w i b) j = bitAt w j := by
  rw [bitAt, putBit, getLsbD_putFld w i i _ j (Nat.le_refl i) k]
  have : ¬ (i ≤ j ∧ j ≤ i) := by omega
  simp [this, bitAt]

@[simp] theorem getB_setB_same (a i : Nat) (b : Bool) (s : State) (k : i < 32) : getB a i (setB a i b s) = b := by
  rw [getB, setB, getReg_setReg_same, bitAt_putBit_same _ _ _ k]

theorem getB_setB_bit (a i j : Nat) (b : Bool) (s : State) (k : i < 32) (d : j ≠ i) : getB a j (setB a i b s) = getB a j s := by
  rw [getB, setB, getReg_setReg_same, bitAt_putBit_other _ _ _ _ k d, getB]

theorem getB_setB_reg (a c i j : Nat) (b : Bool) (s : State) (d : c ≠ a) : getB c j (setB a i b s) = getB c j s := by
  rw [getB, setB, getReg_setReg_other _ _ _ _ d, getB]

@[simp] theorem getF_setF_same (a hi lo v : Nat) (s : State) (h : lo ≤ hi) (k : hi < 32) :
    getF a hi lo (setF a hi lo v s) = v % 2 ^ (hi - lo + 1) := by
  rw [getF, setF, getReg_setReg_same, fld_putFld_same _ _ _ _ h k]

/-! ## Registers after an update of other parts -/

@[simp] theorem getReg_upd (a : Nat) (t : State) (cfg : CfgSt) (hif : HifSt) (pwr : PwrSt) (start : StartSt) (fco : FcoSt) (evr : EvrSt) (pmc : PmcSt) (dup : DupSt) (tim : TimSt) (kst : KstSt) (model : ModelSt) (rnd : RndSt) (chu : ChuSt) (sep : SepSt) (ctr : CtrSt) (disp : DispSt) (lpe : LpeSt) (tly : TlySt) (cyc : CycSt) (fio : FioSt) (upd : UpdSt) (out : List Out) (free : Nat) (pending : List Instr) :
    getReg a (State.mk t.regs cfg hif pwr start fco evr pmc dup tim kst model rnd chu sep ctr disp lpe tly cyc fio upd out free pending) = getReg a t := rfl
@[simp] theorem getB_upd (a i : Nat) (t : State) (cfg : CfgSt) (hif : HifSt) (pwr : PwrSt) (start : StartSt) (fco : FcoSt) (evr : EvrSt) (pmc : PmcSt) (dup : DupSt) (tim : TimSt) (kst : KstSt) (model : ModelSt) (rnd : RndSt) (chu : ChuSt) (sep : SepSt) (ctr : CtrSt) (disp : DispSt) (lpe : LpeSt) (tly : TlySt) (cyc : CycSt) (fio : FioSt) (upd : UpdSt) (out : List Out) (free : Nat) (pending : List Instr) :
    getB a i (State.mk t.regs cfg hif pwr start fco evr pmc dup tim kst model rnd chu sep ctr disp lpe tly cyc fio upd out free pending) = getB a i t := rfl
@[simp] theorem getF_upd (a hi lo : Nat) (t : State) (cfg : CfgSt) (hif : HifSt) (pwr : PwrSt) (start : StartSt) (fco : FcoSt) (evr : EvrSt) (pmc : PmcSt) (dup : DupSt) (tim : TimSt) (kst : KstSt) (model : ModelSt) (rnd : RndSt) (chu : ChuSt) (sep : SepSt) (ctr : CtrSt) (disp : DispSt) (lpe : LpeSt) (tly : TlySt) (cyc : CycSt) (fio : FioSt) (upd : UpdSt) (out : List Out) (free : Nat) (pending : List Instr) :
    getF a hi lo (State.mk t.regs cfg hif pwr start fco evr pmc dup tim kst model rnd chu sep ctr disp lpe tly cyc fio upd out free pending) = getF a hi lo t := rfl

end Sys2Proof.Machine
end

