-- ==== Sys2Proof/Laws/Faults.lean ====
section
/-!
SUPPORT. The fault collector's operations: what an occurrence, an activation, the start and the end of a condition leave of the collector; and how a
command that needs the rails completes.
-/

set_option Elab.async false
namespace Sys2Proof.Machine


-- laws
theorem mem_addOnce {l : List Nat} {n m : Nat} : m ∈ addOnce l n ↔ m ∈ l ∨ m = n := by
  unfold addOnce
  split
  · next h => simp only [List.contains_iff_mem] at h; constructor
              · exact .inl
              · rintro (h' | rfl) <;> assumption
  · simp [List.mem_append]
theorem mem_without {l : List Nat} {n m : Nat} : m ∈ without l n ↔ m ∈ l ∧ m ≠ n := by simp [without]

theorem reactBlk_fco (n : Nat) (s : State) : ∃ l, (reactBlk n s).fco = { s.fco with waitBlk := l } := by
  unfold reactBlk
  dsimp only
  split
  · exact ⟨_, rfl⟩
  · split
    · exact ⟨_, ((beginModReset_within _ _ _ _).parts .fco (by decide)).trans rfl⟩
    · split
      · exact ⟨_, rfl⟩
      · split
        · have h : Within [.hif, .start, .evr, .pmc, .rnd, .out] none s ((codeBlocks (fld (srcCfg n s) 7 0)).foldl beginBlockReset s) := by
            refine Within.foldl ?_ Within.refl
            intro t b h
            exact Within.step (beginBlockReset_within _ _) h (by decide) trivial
          exact ⟨_, (h.parts .fco (by decide)).trans rfl⟩
        · exact ⟨_, rfl⟩


theorem beginModReset_fco (why : ModWhy) (c : Nat) (k : RestartKind) (s : State) : (beginModReset why c k s).fco = s.fco :=
  (beginModReset_within why c k s).parts .fco (by decide)

theorem ite_fco {c : Prop} [Decidable c] {f : State → State} (h : ∀ t, (f t).fco = t.fco) (s : State) :
    (if c then f s else s).fco = s.fco := by split <;> simp [h]

/-- What an activation does to the collector. -/
theorem activate_fco (n count : Nat) (forced : Bool) (why : Option Nat) (s : State) :
    ∃ l, (activate n count forced why s).fco = { s.fco with
      active := addOnce s.fco.active n, first := some (s.fco.first.getD n), integrity := s.fco.integrity || n == 192, waitBlk := l } := by
  unfold activate
  dsimp only
  rw [ite_fco (beginModReset_fco _ _ _)]
  split
  · obtain ⟨l, h⟩ := reactBlk_fco n (if bitAt (srcCfg n s) 28 = true then _ else _)
    refine ⟨l, h.trans ?_⟩
    rw [ite_fco (f := fun t => emit (.nmi n) (sendMsg 0 t)) (by simp), ite_fco (f := sendMsg 0) (by simp)]
    simp
  · refine ⟨s.fco.waitBlk, ?_⟩
    rw [ite_fco (f := fun t => emit (.nmi n) (sendMsg 0 t)) (by simp), ite_fco (f := sendMsg 0) (by simp)]
    simp

@[simp] theorem activate_cond (n count : Nat) (forced : Bool) (why : Option Nat) (s : State) :
    (activate n count forced why s).fco.cond = s.fco.cond := by obtain ⟨_, h⟩ := activate_fco n count forced why s; rw [h]
@[simp] theorem activate_forced (n count : Nat) (forced : Bool) (why : Option Nat) (s : State) :
    (activate n count forced why s).fco.forced = s.fco.forced := by obtain ⟨_, h⟩ := activate_fco n count forced why s; rw [h]
@[simp] theorem activate_active (n count : Nat) (forced : Bool) (why : Option Nat) (s : State) :
    (activate n count forced why s).fco.active = addOnce s.fco.active n := by obtain ⟨_, h⟩ := activate_fco n count forced why s; rw [h]

/-- An occurrence leaves the conditions and the forced levels. -/
@[simp] theorem occur_cond (n : Nat) (forced : Bool) (why : Option Nat) (s : State) : (occur n forced why s).fco.cond = s.fco.cond := by
  unfold occur; dsimp only; (repeat' split) <;> simp
@[simp] theorem occur_forced (n : Nat) (forced : Bool) (why : Option Nat) (s : State) : (occur n forced why s).fco.forced = s.fco.forced := by
  unfold occur; dsimp only; (repeat' split) <;> simp
/-- An occurrence keeps every active source active. -/
theorem occur_active (n m : Nat) (forced : Bool) (why : Option Nat) (s : State) (h : m ∈ s.fco.active) :
    m ∈ (occur n forced why s).fco.active := by
  unfold occur; dsimp only; (repeat' split) <;> simp [h, mem_addOnce]
/-- An occurrence with THRESH at most 1 activates an event source, a forced source, and a level source whose condition holds. -/
theorem occur_activates (n : Nat) (forced : Bool) (why : Option Nat) (s : State) (hk : (srcRow n).known = true) (hn : n < 224)
    (ht : fld (srcCfg n s) 23 16 ≤ 1) (hl : (srcRow n).level = false ∨ forced = true ∨ n ∈ s.fco.cond) :
    n ∈ (occur n forced why s).fco.active := by
  have hc : srcCfg n (incReg (0x08800 + 4 * n) 1 s) = srcCfg n s := by
    unfold srcCfg
    exact getReg_incReg_other _ _ _ _ (by simp)
  unfold occur
  dsimp only
  rw [if_neg (by simp [hk]; omega)]
  split
  · next h => simpa using h
  · rw [if_pos (by rw [hc]; omega), if_neg (by simp; grind)]
    simp [mem_addOnce]

@[simp] theorem assertSrc_cond (n m : Nat) (s : State) : m ∈ (assertSrc n s).fco.cond ↔ m ∈ s.fco.cond ∨ m = n := by
  unfold assertSrc
  dsimp only
  split
  · next h => simp only [List.contains_iff_mem] at h; grind
  · split <;> simp [mem_addOnce]

@[simp] theorem deactivate_cond (n : Nat) (s : State) : (deactivate n s).fco.cond = s.fco.cond := by
  unfold deactivate; dsimp only; (repeat' split) <;> simp
@[simp] theorem deactivate_active (n m : Nat) (s : State) : m ∈ (deactivate n s).fco.active ↔ m ∈ s.fco.active ∧ m ≠ n := by
  unfold deactivate; dsimp only
  split
  · next h => simp at h; grind
  · split <;> simp [mem_without]



theorem deactivate_forced (n m : Nat) (s : State) (h : tget s.fco.forced m = none) : tget (deactivate n s).fco.forced m = none := by
  unfold deactivate; dsimp only
  by_cases e : m = n
  · subst e; (repeat' split) <;> simp [tget_tdel_same, h]
  · (repeat' split) <;> simp [tget_tdel_other e, h]
/-- A command that needs the rails answers its operation's state while they are good. -/
theorem run_on {f : State → State} {s : State} {P : State → Prop} (h : s.pwr.on = true) (hp : P (f s)) :
    ∃ t, run f s = .next t ∧ P t := ⟨f s, by simp [run, h], hp⟩
theorem run_off {f : State → State} {s : State} (h : s.pwr.on = false) : run f s = .next s := by unfold run; rw [h]; rfl

end Sys2Proof.Machine
end

