-- ==== Sys2Proof/Laws/Frames.lean ====
section
/-!
SUPPORT. From what an operation may change to the frame of the command that runs it.
-/

set_option Elab.async false
namespace Sys2Proof.Machine

theorem untouched_refl (ps : List Part) (rs : Option (List Nat)) (s : State) : Untouched ps rs s s := (Within.refl (rs := rs)).toUntouched

theorem keeps_run {ps : List Part} {rs : Option (List Nat)} {i : Instr} {f : State → State} (he : ∀ s, exec i s = run f s)
    (h : ∀ s, Within ps rs s (f s)) : KeepsBut ps rs i := by
  intro s t e
  rw [he] at e
  unfold run at e
  cases e
  split
  · exact (h s).toUntouched
  · exact untouched_refl ps rs s

theorem keeps_next {ps : List Part} {rs : Option (List Nat)} {i : Instr} {f : State → State} (he : ∀ s, exec i s = .next (f s))
    (h : ∀ s, Within ps rs s (f s)) : KeepsBut ps rs i := by
  intro s t e
  rw [he] at e
  cases e
  exact (h s).toUntouched

theorem calm_run {ps : List Part} {rs : List Nat} {i : Instr} {f : State → State} (he : ∀ s, exec i s = run f s)
    (h : ∀ s, Within ps none s (f s)) (k : ∀ s, Calm rs s (f s)) : CalmBut ps rs i := by
  intro s t nb e
  rw [he] at e
  unfold run at e
  cases e
  split
  · exact { pending := (h s).pending, parts := (h s).parts, regs := fun l hl a ha => by cases hl; exact (k s).regs nb a ha }
  · exact untouched_refl ps (some rs) s

theorem calm_next {ps : List Part} {rs : List Nat} {i : Instr} {f : State → State} (he : ∀ s, exec i s = .next (f s))
    (h : ∀ s, Within ps none s (f s)) (k : ∀ s, Calm rs s (f s)) : CalmBut ps rs i := by
  intro s t nb e
  rw [he] at e
  cases e
  exact { pending := (h s).pending, parts := (h s).parts, regs := fun l hl a ha => by cases hl; exact (k s).regs nb a ha }
/-! ## Register lists with a range -/

theorem lockSet_within_lock (b : Block) (s : State) : Within [.hif,.evr,.pmc,.out] (some ((lockAddr b).toList ++ [0x0A034, 0x0A010, 0x0A030])) s (lockSet b s) := by
  unfold lockSet
  split
  · exact Within.refl
  · rename_i a h
    refine Within.ite Within.refl (Within.ite ?_ ?_)
    · exact (writeIgnored_within _ _ _).mono (by decide) (by simp [regsLe])
    · exact (setB_within _ _ _ _).mono (by decide) (by simp [regsLe, h])

theorem lockset_within_locks (v : Word) (s : State) : Within [.hif,.evr,.pmc,.out] (some (lockOrder.filterMap lockAddr ++ [0x0A034, 0x0A010, 0x0A030])) s (lockset v s) := by
  unfold lockset
  refine Within.ite ?_ ?_
  · exact (writeIgnored_within _ _ _).mono (by decide) (by simp [regsLe])
  · have key : ∀ (l : List Nat) (t : State), (∀ i ∈ l, i < 16) → Within [.hif,.evr,.pmc,.out] (some (lockOrder.filterMap lockAddr ++ [0x0A034, 0x0A010, 0x0A030])) s t →
      Within [.hif,.evr,.pmc,.out] (some (lockOrder.filterMap lockAddr ++ [0x0A034, 0x0A010, 0x0A030])) s (l.foldl (fun s i => match lockAddr (lockOrder.getD i .glb) with
        | some a => if present a s then setB a 31 true s else s
        | none => s) t) := by
      intro l
      induction l with
      | nil => intro t _ h; exact h
      | cons i l ih =>
        intro t hl h
        refine ih _ (fun j hj => hl j (List.mem_cons_of_mem _ hj)) ?_
        dsimp only
        split
        · rename_i a ha
          refine Within.ite (Within.step (setB_within _ _ _ _) h (by decide) ?_) h
          intro x hx
          simp only [List.mem_singleton] at hx
          subst hx
          have : lockOrder.getD i .glb ∈ lockOrder := by
            have hi := hl i (by simp)
            have : i < lockOrder.length := hi
            rw [List.getD_eq_getElem _ _ this]; exact List.getElem_mem _
          exact List.mem_append_left _ (List.mem_filterMap.2 ⟨_, this, ha⟩)
        · exact h
    refine key _ _ (fun i hi => ?_) Within.refl
    have := List.mem_of_mem_filter hi
    simpa using this

theorem pmcClear_within_max (s : State) : Within [.pmc] (some ((List.range 5).flatMap (fun p => [0x0C60C + 0x20 * p, 0x0C610 + 0x20 * p]))) s (pmcClear s) := by
  unfold pmcClear
  dsimp only [List.range, List.range.loop, List.foldl]
  repeat (refine Within.step (setReg_within _ _ _) ?_ (by decide) (by simp [regsLe]))
  simp -zeta only [Within.of_mk]; exact Within.upd rfl Within.refl

theorem msixUnmask_calm (w : Unmask) (s : State) : Calm ((List.range 64).map (fun v => 0x0300C + 16 * v) ++ [0x00004, 0x08900, 0x0A034, 0x0A010, 0x0A030, 0x7F018, 0x0E04C, 0x0E030, 0x7F040, 0x7F01C, 0x34020]) s (msixUnmask w s) := by
  unfold msixUnmask
  split
  · split
    · exact Calm.refl
    · rename_i v h
      refine Calm.step_within (sendPended_within _) ?_ (by simp [off]) (by simp [sub])
      refine (Calm.of_within (setB_within _ _ _ _) (fun a m => ?_)).mono (fun a m => ?_) <;> rw [List.mem_singleton] at m <;> subst m
      · exact .inl (by omega)
      · exact List.mem_append_left _ (List.mem_map.2 ⟨v, List.mem_range.2 (by omega), rfl⟩)
  · exact Calm.ite ((linkLoss_calm _ _).mono (fun a m => List.mem_append_right _ m)) Calm.refl
  · exact (Calm.of_within (cfgWrite_within _ _) (by simp [off])).mono (by simp [sub])

theorem clockFault_calm (n : Nat) (s : State) : Calm ((List.range 20).map (fun k => 0x08800 + 4 * (16 + k)) ++ [0x0A034, 0x0A010, 0x0A030, 0x7F018, 0x0E04C, 0x0E030, 0x7F040, 0x7F01C, 0x34020]) s (clockFault n s) := by
  have one : ∀ k (t : State), 16 ≤ k → k ≤ 35 → Calm ((List.range 20).map (fun k => 0x08800 + 4 * (16 + k)) ++ [0x0A034, 0x0A010, 0x0A030, 0x7F018, 0x0E04C, 0x0E030, 0x7F040, 0x7F01C, 0x34020]) t (islandFault t k) := by
    intro k t h1 h2
    refine (islandFault_calm t k).mono ?_
    intro x hx
    rcases List.mem_cons.1 hx with rfl | hx
    · exact List.mem_append_left _ (List.mem_map.2 ⟨k - 16, List.mem_range.2 (by omega), by omega⟩)
    · exact List.mem_append_right _ hx
  unfold clockFault
  split
  · have key : ∀ (l : List Nat) (t : State), (∀ i ∈ l, 16 ≤ i ∧ i ≤ 35) → Calm ((List.range 20).map (fun k => 0x08800 + 4 * (16 + k)) ++ [0x0A034, 0x0A010, 0x0A030, 0x7F018, 0x0E04C, 0x0E030, 0x7F040, 0x7F01C, 0x34020]) t (l.foldl islandFault t) := by
      intro l
      induction l with
      | nil => intro t _; exact Calm.refl
      | cons i l ih =>
        intro t h
        exact (one i t (h i (by simp)).1 (h i (by simp)).2).trans (ih _ (fun j hj => h j (List.mem_cons_of_mem _ hj)))
    exact key _ _ (by decide)
  · split
    · exact one n _ (by omega) (by omega)
    · exact Calm.refl

/-! ## The write of one register -/

theorem flatStart_regWrite (v : Word) (s : State) : Within [.hif, .evr, .pmc, .sep, .out] (some [0x14000, 0x0A034, 0x0A010, 0x0A030]) s (regWrite 0x14000 v s) := by
  unfold regWrite
  refine Within.ite Within.refl (Within.ite ((writeIgnored_within _ _ _).mono (by decide) (by simp [regsLe])) ?_)
  have e : blockAt 0x14000 = some .sep := by decide
  simp only [e]
  exact Within.step (plainWrite_within _ _ _) (Within.ite ((flatStart_within _).mono (by decide) (by simp [regsLe])) Within.refl) (by decide) (by simp [regsLe])

theorem rebuild_regWrite (v : Word) (s : State) : Within [.hif, .evr, .pmc, .ctr, .out] (some [0x18000, 0x0A034, 0x0A010, 0x0A030]) s (regWrite 0x18000 v s) := by
  unfold regWrite
  refine Within.ite Within.refl (Within.ite ((writeIgnored_within _ _ _).mono (by decide) (by simp [regsLe])) ?_)
  have e : blockAt 0x18000 = some .ctr := by decide
  simp only [e]
  exact Within.step (plainWrite_within _ _ _) (Within.ite ((ctrCtrlRebuild_within _).mono (by decide) (by simp [regsLe])) Within.refl) (by decide) (by simp [regsLe])

theorem tampcfg_regWrite (v : Word) (s : State) : Within [.hif, .evr, .pmc, .out] (some [0x48008, 0x0A034, 0x0A010, 0x0A030]) s (regWrite 0x48008 v s) := by
  unfold regWrite
  refine Within.ite Within.refl (Within.ite ((writeIgnored_within _ _ _).mono (by decide) (by simp [regsLe])) ?_)
  have e : blockAt 0x48008 = some .kst := by decide
  simp only [e]
  exact (tampcfgWrite_within _ _).mono (by decide) (by simp [regsLe])

theorem cursor_regWrite (v : Word) (s : State) : Within [.hif, .evr, .pmc, .out] (some [0x0A044, 0x0A034, 0x0A010, 0x0A030]) s (regWrite 0x0A044 v s) := by
  unfold regWrite
  refine Within.ite Within.refl (Within.ite ((writeIgnored_within _ _ _).mono (by decide) (by simp [regsLe])) ?_)
  have e : blockAt 0x0A044 = some .evr := by decide
  simp only [e]
  exact (evrCursorSet_within _ _).mono (by decide) (by simp [regsLe])

theorem calEn_regWrite (v : Word) (s : State) : Within [.hif, .evr, .pmc, .tly, .out] (some [0x24000, 0x0A034, 0x0A010, 0x0A030]) s (regWrite 0x24000 v s) := by
  unfold regWrite
  refine Within.ite Within.refl (Within.ite ((writeIgnored_within _ _ _).mono (by decide) (by simp [regsLe])) ?_)
  have e : blockAt 0x24000 = some .tly := by decide
  simp only [e]
  unfold writeTly
  rw [if_pos rfl]
  have base : Within [.hif, .evr, .pmc, .tly, .out] (some [0x24000, 0x0A034, 0x0A010, 0x0A030]) s
      (if bitAt v 0 = getB 0x24000 0 s then s else if bitAt v 0 then calEnSet v s else calEnClear v s) :=
    Within.ite Within.refl (Within.ite ((calEnSet_within _ _).mono (by decide) (by simp [regsLe])) ((calEnClear_within _ _).mono (by decide) (by simp [regsLe])))
  exact Within.ite (Within.step (setB_within _ _ _ _) base (by decide) (by simp [regsLe])) base

theorem pmcSel_regWrite (k : Nat) (v : Word) (s : State) (hk : k < 32) : Within [.hif, .evr, .pmc, .out] (some [0x0C100 + 4 * k, 0x0A034, 0x0A010, 0x0A030]) s (regWrite (0x0C100 + 4 * k) v s) := by
  unfold regWrite
  refine Within.ite Within.refl (Within.ite ((writeIgnored_within _ _ _).mono (by decide) (by simp [regsLe])) ?_)
  have e : blockAt (0x0C100 + 4 * k) = some .pmc := by unfold blockAt; (repeat rw [if_neg (by omega)]); rw [if_pos (by omega)]
  simp only [e]
  have d : (0x0C100 + 4 * k - 0x0C100) / 4 = k := by omega
  unfold writeEvr
  rw [if_neg (by omega), if_neg (by omega), if_pos (by omega), d]
  exact (pmcSelWrite_within _ _ _).mono (by decide) (by simp [regsLe])

theorem bwcfg_regWrite (p : Nat) (v : Word) (s : State) (hp : p < 5) : Within [.hif, .evr, .pmc, .out] (some [0x0C600 + 0x20 * p, 0x0A034, 0x0A010, 0x0A030]) s (regWrite (0x0C600 + 0x20 * p) v s) := by
  unfold regWrite
  refine Within.ite Within.refl (Within.ite ((writeIgnored_within _ _ _).mono (by decide) (by simp [regsLe])) ?_)
  have e : blockAt (0x0C600 + 0x20 * p) = some .pmc := by unfold blockAt; (repeat rw [if_neg (by omega)]); rw [if_pos (by omega)]
  simp only [e]
  have d : (0x0C600 + 0x20 * p - 0x0C600) / 0x20 = p := by omega
  unfold writeEvr
  rw [if_neg (by omega), if_neg (by omega), if_neg (by omega), if_pos (by omega), d]
  exact (bwcfgWrite_within _ _ _).mono (by decide) (by simp [regsLe])

theorem activeClear_regWrite (w : Nat) (v : Word) (s : State) (hw : w < 7) : Within [.hif, .fco, .evr, .pmc, .out] (some [0x0A034, 0x0A010, 0x0A030]) s (regWrite (0x08020 + 4 * w) v s) := by
  unfold regWrite
  refine Within.ite Within.refl (Within.ite ((writeIgnored_within _ _ _).mono (by decide) (by simp [regsLe])) ?_)
  have e : blockAt (0x08020 + 4 * w) = some .fco := by unfold blockAt; (repeat rw [if_neg (by omega)]); rw [if_pos (by omega)]
  simp only [e]
  have d : (0x08020 + 4 * w - 0x08020) / 4 = w := by omega
  rw [if_neg (by omega), if_pos (by omega), d]
  exact fcoActiveClear_within _ _ _

theorem incr_regWrite (d : Nat) (v : Word) (s : State) (hd : d < 4) : Within [.hif, .evr, .pmc, .tim, .out] (some [0x04100, 0x04108, 0x04118, 0x0A034, 0x0A010, 0x0A030]) s (regWrite (0x04100 + 8 * d) v s) := by
  unfold regWrite
  refine Within.ite Within.refl (Within.ite ((writeIgnored_within _ _ _).mono (by decide) (by simp [regsLe])) ?_)
  have e : blockAt (0x04100 + 8 * d) = some .tim := by unfold blockAt; rw [if_neg (by omega), if_pos (by omega)]
  simp only [e]
  have d' : (0x04100 + 8 * d - 0x04100) / 8 = d := by omega
  unfold writeTim
  rw [if_neg (by omega), if_neg (by omega), if_pos (by omega), d']
  dsimp only
  rw [if_pos (by omega)]
  exact (incrCommit_within _ _ _).mono (by decide) (by simp [regsLe])

theorem force_regWrite (v : Word) (s : State) : Within [.hif, .pwr, .start, .fco, .evr, .pmc, .dup, .rnd, .tly, .cyc, .out] none s (regWrite 0x08010 v s) := by
  unfold regWrite
  refine Within.ite Within.refl (Within.ite ((writeIgnored_within _ _ _).mono (by decide) trivial) ?_)
  have e : blockAt 0x08010 = some .fco := by decide
  simp only [e, if_true]
  exact fcoForce_within _ _

theorem force_regWrite_calm (v : Word) (s : State) : Calm [0x08800 + 4 * fld v 7 0, 0x0A034, 0x0A010, 0x0A030, 0x7F018, 0x0E04C, 0x0E030, 0x7F040, 0x7F01C, 0x34020] s (regWrite 0x08010 v s) := by
  unfold regWrite
  refine Calm.ite Calm.refl (Calm.ite (Calm.step_within (writeIgnored_within _ _ _) Calm.refl (by simp [off]) (by simp [sub])) ?_)
  have e : blockAt 0x08010 = some .fco := by decide
  simp only [e]
  rw [if_pos trivial]
  exact (fcoForce_calm v s).mono (by simp [sub])

theorem snap_regWrite (s : State) : Within [.hif, .evr, .pmc, .out, .free] (some [0x0C000, 0x0C00C, 0x0C008, 0x0A034, 0x0A010, 0x0A030]) s
    (regWrite 0x0C000 (getReg 0x0C000 s &&& 1 ||| 2) s) := by
  unfold regWrite
  refine Within.ite Within.refl (Within.ite ((writeIgnored_within _ _ _).mono (by decide) (by simp [regsLe])) ?_)
  have e : blockAt 0x0C000 = some .pmc := by decide
  simp only [e]
  unfold writeEvr
  rw [if_neg (by decide), if_pos rfl]
  have h2 : bitAt (getReg 0x0C000 s &&& 1 ||| 2) 2 = false := by simp [bitAt]
  dsimp only
  rw [h2, if_neg (by decide)]
  have base := (plainWrite_within 0x0C000 (getReg 0x0C000 s &&& 1 ||| 2) s).mono (rs := some [0x0C000, 0x0C00C, 0x0C008, 0x0A034, 0x0A010, 0x0A030])
    (ps := [.hif, .evr, .pmc, .out, .free]) (by decide) (by simp [regsLe])
  exact Within.ite (Within.step (pmcSnap_within _) base (by decide) (by simp [regsLe])) base

theorem clear_regWrite (s : State) : Within [.hif, .evr, .pmc, .out] (some ([0x0C000, 0x0A034, 0x0A010, 0x0A030] ++ (List.range 5).flatMap (fun p => [0x0C60C + 0x20 * p, 0x0C610 + 0x20 * p]))) s
    (regWrite 0x0C000 (getReg 0x0C000 s &&& 1 ||| 4) s) := by
  unfold regWrite
  refine Within.ite Within.refl (Within.ite ((writeIgnored_within _ _ _).mono (by decide) (by simp [regsLe])) ?_)
  have e : blockAt 0x0C000 = some .pmc := by decide
  simp only [e]
  unfold writeEvr
  rw [if_neg (by decide), if_pos rfl]
  have h1 : bitAt (getReg 0x0C000 s &&& 1 ||| 4) 1 = false := by simp [bitAt]
  simp only [h1, Bool.false_eq_true, if_false]
  have base := (plainWrite_within 0x0C000 (getReg 0x0C000 s &&& 1 ||| 4) s).mono
    (rs := some ([0x0C000, 0x0A034, 0x0A010, 0x0A030] ++ (List.range 5).flatMap (fun p => [0x0C60C + 0x20 * p, 0x0C610 + 0x20 * p])))
    (ps := [.hif, .evr, .pmc, .out]) (by decide) (by simp [regsLe])
  exact Within.ite (Within.step (pmcClear_within_max _) base (by decide) (fun a m => List.mem_append_right _ m)) base

end Sys2Proof.Machine
end

