-- ==== Sys2Proof/Laws/Kept.lean ====
section
/-!
SUPPORT. Registers that a block reset keeps: neither a reaction of the fault collector nor what starts with one touches them.
-/

set_option Elab.async false
namespace Sys2Proof.Machine

/-- The registers beyond the event counters that a reaction of the fault collector may write. -/
def raiseWrites : List Nat := [0x0E04C, 0x0E030, 0x7F040, 0x0A034, 0x7F01C, 0x0A010, 0x0A030, 0x34020, 0x7F018]

/-- A register that no reaction of the fault collector touches. -/
def steady (a : Nat) : Bool := keptByBlock a && !raiseWrites.contains a

theorem steady_counter {a n : Nat} (h : steady a = true) (hn : n < 224) : a ≠ 0x08800 + 4 * n := by
  intro e; subst e
  simp only [steady, keptByBlock, Bool.and_eq_true, Bool.or_eq_true, beq_iff_eq, decide_eq_true_eq] at h
  omega

theorem resetRegs_kept {a : Nat} (b : Block) (s : State) (h : keptByBlock a = true) : getReg a (resetRegs b s) = getReg a s := by
  unfold resetRegs
  dsimp only
  have key : ∀ (l : List Nat) (t : State), a ∉ l →
      getReg a (l.foldl (fun s a => setReg a (blockRegValue a (getReg a s) s) s) t) = getReg a t := by
    intro l
    induction l with
    | nil => intro t _; rfl
    | cons x l ih =>
      intro t hx
      simp only [List.mem_cons, not_or] at hx
      rw [List.foldl_cons, ih _ hx.2, getReg_setReg, if_neg hx.1]
  exact key _ _ (by simp [h])

theorem evt_steady {a : Nat} (g k x : Nat) (s : State) (h : steady a = true) : getReg a (evt g k x s) = getReg a s := by
  refine (evt_within g k x s).regs _ rfl a ?_
  intro m
  simp only [steady, raiseWrites, Bool.and_eq_true] at h
  simp at m
  rcases m with rfl | rfl | rfl <;> simp at h

theorem beginBlockReset_steady {a : Nat} (s : State) (b : Block) (h : steady a = true) : getReg a (beginBlockReset s b) = getReg a s := by
  have hk : keptByBlock a = true := by simp [steady] at h; exact h.1
  have h18 : a ≠ 0x7F018 := by rintro rfl; simp [steady, raiseWrites] at h
  unfold beginBlockReset
  split
  · rfl
  · have drops : ∀ (f : State → Nat → State) (l : List Nat) (t : State), (∀ u p, getReg a (f u p) = getReg a u) →
        getReg a (l.foldl f t) = getReg a t := by
      intro f l
      induction l with
      | nil => intro t _; rfl
      | cons x l ih => intro t hf; rw [List.foldl_cons, ih _ hf, hf]
    have base : getReg a (resetRegs b (setB 0x7F018 8 true { s with start := { s.start with blkRst := s.start.blkRst ++ [b] } })) = getReg a s := by
      rw [resetRegs_kept b _ hk]
      exact (setB_within 0x7F018 8 true _).regs _ rfl a (by simpa using h18)
    have hr : ∀ t, getReg a (if b = .rnd then rndBlockReset t else t) = getReg a t := by
      intro t
      split
      · exact (rndBlockReset_within t).regs _ rfl a (by simp)
      · rfl
    dsimp only
    rw [evt_steady _ _ _ _ h]
    split
    · rw [drops _ _ _ (fun u p => (dropPair_within u p).regs _ rfl a (by simp)), hr, base]
    · rw [drops _ _ _ (fun u p => (resetPair_within u p).regs _ rfl a (by simp)), hr, base]

theorem beginModReset_steady {a : Nat} (why : ModWhy) (c : Nat) (k : RestartKind) (s : State) (h : steady a = true) :
    getReg a (beginModReset why c k s) = getReg a s := by
  refine (beginModReset_within why c k s).regs _ rfl a ?_
  intro m
  simp [steady, raiseWrites] at h
  simp at m
  omega

theorem resign_steady {a : Nat} (c : Nat) (s : State) (h : steady a = true) : getReg a (resign c s) = getReg a s := by
  refine (resign_within c s).regs _ rfl a ?_
  intro m
  simp [steady, raiseWrites] at h
  simp at m
  omega

theorem reactBlk_steady {a : Nat} (n : Nat) (s : State) (h : steady a = true) : getReg a (reactBlk n s) = getReg a s := by
  unfold reactBlk
  dsimp only
  split
  · rfl
  · split
    · exact beginModReset_steady _ _ _ _ h
    · split
      · rfl
      · split
        · generalize codeBlocks _ = l
          induction l generalizing s with
          | nil => rfl
          | cons x l ih =>
            rw [List.foldl_cons]
            have key : ∀ (l : List Block) (t : State), getReg a (l.foldl beginBlockReset t) = getReg a t := by
              intro l
              induction l with
              | nil => intro t; rfl
              | cons x l ih => intro t; rw [List.foldl_cons, ih, beginBlockReset_steady _ _ h]
            rw [key, beginBlockReset_steady _ _ h]
        · rfl

theorem activate_steady {a : Nat} (n c : Nat) (f : Bool) (w : Option Nat) (s : State) (h : steady a = true) :
    getReg a (activate n c f w s) = getReg a s := by
  have hr : ∀ n k x t, getReg a (record n k x t) = getReg a t := fun n k x t => by
    refine (record_within n k x t).regs _ rfl a ?_
    intro m
    simp [steady, raiseWrites] at h
    simp at m
    omega
  have hm : ∀ v t, getReg a (sendMsg v t) = getReg a t := fun v t => (sendMsg_within v t).regs _ rfl a (by simp)
  have he : ∀ o t, getReg a (emit o t) = getReg a t := fun _ _ => rfl
  unfold activate
  dsimp only
  (repeat' split) <;> simp only [beginModReset_steady _ _ _ _ h, reactBlk_steady _ _ h, hm, he, hr] <;> rfl

theorem occur_steady {a : Nat} (n : Nat) (f : Bool) (w : Option Nat) (s : State) (h : steady a = true) :
    getReg a (occur n f w s) = getReg a s := by
  unfold occur
  split
  · rfl
  · next hn =>
    have hn' : n < 224 := by simp at hn; omega
    have hi : getReg a (incReg (0x08800 + 4 * n) 1 s) = getReg a s := getReg_incReg_other _ _ _ _ (by simpa using steady_counter h hn')
    dsimp only
    (repeat' split) <;> first | exact hi | (rw [activate_steady _ _ _ _ _ h]; exact hi)

/-- Neither the start nor the end of a condition touches a steady register. -/
theorem setCond_steady {a : Nat} (n : Nat) (b : Bool) (s : State) (h : steady a = true) : getReg a (setCond n b s) = getReg a s := by
  unfold setCond
  split
  · unfold assertSrc
    dsimp only
    (repeat' split) <;> first | rfl | exact occur_steady _ _ _ _ h
  · refine (endCond_within n s).regs _ rfl a ?_
    intro m
    simp [steady, raiseWrites] at h
    simp at m
    omega
theorem raise_steady {a : Nat} (n : Nat) (s : State) (h : steady a = true) : getReg a (raise n s) = getReg a s := occur_steady _ _ _ _ h
theorem afterSlots_steady {a : Nat} (was : Bool) (s : State) (h : steady a = true) : getReg a (afterSlots was s) = getReg a s := by
  unfold afterSlots
  dsimp only
  split
  · rw [resign_steady _ _ h, setCond_steady _ _ _ h]
  · rw [setCond_steady _ _ _ h]

end Sys2Proof.Machine
end

