-- ==== Sys2Proof/Laws/Operations.lean ====
section
/-!
SUPPORT. How an operation reaches its effect: the descriptor that asks for it, the requester that reads, the register that answers.
-/

set_option Elab.async false
namespace Sys2Proof.Machine

theorem withOp_held {r : Req} {ops : List Nat} {buf : Option Bytes} {f : Desc → Bytes → State → State} {s : State} {c : Cmd}
    (h : heldCmd r s = some c) (ho : c.desc.opcode ∈ ops) (hf : descInl c.desc = true ∨ buf = none ∨ writeFails c.fail c.desc.length = false) :
    withOp r ops buf f s = f c.desc (descInput c.desc buf)
      (if descInl c.desc || buf.isNone then s else bwAdd 4 0 c.desc.length (pmcAdd 0x90 c.desc.length s)) := by
  unfold withOp
  rw [h]
  rcases hf with hf | hf | hf <;> simp [hf, ho]

/-- What an operation with its data in a host buffer reads is the buffer's bytes. -/
theorem withOp_reads {r : Req} {op : Nat} {b : Bytes} {f : Desc → Bytes → State → State} {s : State} {c : Cmd} (h : Held r op c s) (hr : Reads c b) :
    withOp r [op] (some b) f s = f c.desc b (bwAdd 4 0 b.length (pmcAdd 0x90 b.length s)) := by
  obtain ⟨h1, h2, h3⟩ := hr
  rw [withOp_held h.1 (by simp [h.2]) (.inr (.inr (by rw [h2]; exact h3)))]
  simp [h1, h2, descInput]

/-- An operation that needs no buffer runs on its descriptor. -/
theorem withOp_none {r : Req} {op : Nat} {f : Desc → Bytes → State → State} {s : State} {c : Cmd} (h : Held r op c s) :
    withOp r [op] none f s = f c.desc (descInput c.desc none) s := by
  rw [withOp_held h.1 (by simp [h.2]) (.inr (.inl rfl))]
  simp

/-- An operation with its parameters in line runs on them. -/
theorem inlineOp_asked {r : Req} {op len : Nat} {b : Bytes} {f : Bytes → State → State} {s : State} (h : Inline r op len b s) :
    inlineOp r op len f s = f b s := by
  obtain ⟨c, h1, h3, h4, h5⟩ := h
  unfold inlineOp
  rw [withOp_none h1]
  simp [h3, h4, h5]

/-- An operation with its data in a host buffer runs on what it has read, which the counters of host reads have noted (R521). -/
theorem recordOp_asked {r : Req} {op len : Nat} {b : Bytes} {f : Bytes → State → State} {s : State} (h : Buffered r op b s) (hl : b.length = len) :
    recordOp r op len b f s = f b (bwAdd 4 0 len (pmcAdd 0x90 len s)) := by
  obtain ⟨c, h1, h2⟩ := h
  unfold recordOp
  rw [withOp_reads h1 h2]
  simp [h2.1, h2.2.1, hl]

/-! ## A read or a write of a requester -/

/-- What a requester that reaches the module reads is the operation's, and the host's accesses are counted (R521). -/
theorem readBy_eq {who : Requester} {f : State → State} {s : State} (h : reaches who s = true) :
    readBy who f s = if who = .host then pmcAdd 0x95 1 (f s) else f s := by unfold readBy; rw [if_neg (by simp [h])]
theorem writeBy_eq {who : Requester} {f : State → State} {s : State} (h : reaches who s = true) :
    writeBy who f s = if who = .host then pmcAdd 0x96 1 (f s) else f s := by unfold writeBy; rw [if_neg (by simp [h])]
theorem readBy_pmc {who : Requester} {f : State → State} {s : State} (h : reaches who s = true) :
    Within [.pmc] (some []) (f s) (readBy who f s) := by
  rw [readBy_eq h]
  exact Within.ite (pmcAdd_within _ _ _) Within.refl
theorem writeBy_pmc {who : Requester} {f : State → State} {s : State} (h : reaches who s = true) :
    Within [.pmc] (some []) (f s) (writeBy who f s) := by
  rw [writeBy_eq h]
  exact Within.ite (pmcAdd_within _ _ _) Within.refl

/-! ## Counters -/

/-- Counting an event leaves the counters of every other event. -/
theorem pmcAdd_count (e n k : Nat) (s : State) (h : getF (0x0C100 + 4 * k) 7 0 s ≠ e) :
    tget (pmcAdd e n s).pmc.count k = tget s.pmc.count k := by
  have key : ∀ (l : List Nat) (t : Tbl Nat), k ∉ l → tget (l.foldl (fun t k => tmod t k 0 (fun c => (c + n) % 2 ^ 64)) t) k = tget t k := by
    intro l
    induction l with
    | nil => intro t _; rfl
    | cons a l ih =>
      intro t hk
      rw [List.foldl_cons, ih _ (fun m => hk (List.mem_cons_of_mem _ m))]
      unfold tmod
      exact tget_tput_other (by rintro rfl; exact hk (by simp))
  unfold pmcAdd
  split
  · rfl
  · exact key _ _ (by simp [h])

/-- Looking at a counter leaves every counter whose event the commands show. -/
theorem pmcCatch_count (s : State) (j k : Nat) (h : pmcUnseen (getF (0x0C100 + 4 * k) 7 0 s) = false) :
    tget (pmcCatch s j).pmc.count k = tget s.pmc.count k := by
  unfold pmcCatch
  split
  · next hx =>
    refine (pmcAdd_count _ _ _ _ ?_).trans (by simp [draw])
    intro e
    have e' : getF (0x0C100 + 4 * k) 7 0 s = getF (0x0C100 + 4 * j) 7 0 s := by simpa [draw, getF, getReg] using e
    rw [e'] at h
    simp [h] at hx
  · rfl
theorem pmcCatches_within (l : List Nat) (s : State) : Within [.pmc, .free] (some []) s (l.foldl pmcCatch s) :=
  Within.foldl (fun t k h => Within.step (pmcCatch_within t k) h (by decide) (by simp [regsLe])) Within.refl
theorem pmcCatches_count (l : List Nat) (s : State) (k : Nat) (h : pmcUnseen (getF (0x0C100 + 4 * k) 7 0 s) = false) :
    tget (l.foldl pmcCatch s).pmc.count k = tget s.pmc.count k := by
  induction l generalizing s with
  | nil => rfl
  | cons a l ih =>
    rw [List.foldl_cons, ih _ ?_, pmcCatch_count _ _ _ h]
    have e : getReg (0x0C100 + 4 * k) (pmcCatch s a) = getReg (0x0C100 + 4 * k) s := (pmcCatch_within s a).regs _ rfl _ (by simp)
    simpa [getF, e] using h
/-- What a snapshot leaves (R520). -/
theorem pmcSnap_spec (s : State) : (pmcSnap s).pmc.snap = (pmcSnap s).pmc.count ∧ (pmcSnap s).pmc.snapMon = s.tim.mon ∧
    (∀ k, pmcUnseen (getF (0x0C100 + 4 * k) 7 0 s) = false → tget (pmcSnap s).pmc.count k = tget s.pmc.count k) ∧
    getReg 0x0C008 (pmcSnap s) = lo32 s.tim.mon ∧ getReg 0x0C00C (pmcSnap s) = hi32 s.tim.mon := by
  have ht : ((List.range 32).foldl pmcCatch s).tim = s.tim := (pmcCatches_within _ s).parts .tim (by decide)
  unfold pmcSnap
  dsimp only
  generalize hg : (List.range 32).foldl pmcCatch s = t at *
  simp only [setPair, setReg_pmc, ht]
  refine ⟨trivial, trivial, fun k h => ?_, ?_, ?_⟩
  · rw [← hg]; exact pmcCatches_count _ _ _ h
  · simp [getReg_setReg]
  · simp

/-! ## The write of one register -/

theorem regWrite_force {v : Word} {s : State} (h : Answers 0x08010 s) : regWrite 0x08010 v s = fcoForce v s := by
  unfold regWrite
  rw [if_neg (by have : (regSpec 0x08010).isNone = false := by decide
                 simp [h.1, this]), if_neg (by simp [h.2])]
  have e : blockAt 0x08010 = some .fco := by decide
  simp [e]
theorem regWrite_clear {w : Nat} {v : Word} {s : State} (hw : w < 7) (h : Answers (0x08020 + 4 * w) s) :
    regWrite (0x08020 + 4 * w) v s = fcoActiveClear w v s := by
  unfold regWrite
  have n : (regSpec (0x08020 + 4 * w)).isNone = false := by
    have : ∀ k < 7, (regSpec (0x08020 + 4 * k)).isNone = false := by decide
    exact this w hw
  rw [if_neg (by simp [h.1, n]), if_neg (by simp [h.2])]
  have e : blockAt (0x08020 + 4 * w) = some .fco := by unfold blockAt; (repeat rw [if_neg (by omega)]); rw [if_pos (by omega)]
  have d : (0x08020 + 4 * w - 0x08020) / 4 = w := by omega
  simp only [e]
  rw [if_neg (by omega), if_pos (by omega), d]
theorem regWrite_cursor {v : Word} {s : State} (h : Answers 0x0A044 s) : regWrite 0x0A044 v s = evrCursorSet v s := by
  unfold regWrite
  rw [if_neg (by have : (regSpec 0x0A044).isNone = false := by decide
                 simp [h.1, this]), if_neg (by simp [h.2])]
  have e : blockAt 0x0A044 = some .evr := by decide
  simp [e, writeEvr]
theorem regWrite_tampcfg {v : Word} {s : State} (h : Answers 0x48008 s) : regWrite 0x48008 v s = tampcfgWrite v s := by
  unfold regWrite
  rw [if_neg (by have : (regSpec 0x48008).isNone = false := by decide
                 simp [h.1, this]), if_neg (by simp [h.2])]
  have e : blockAt 0x48008 = some .kst := by decide
  simp [e]
theorem regWrite_pmc {v : Word} {s : State} (h : Answers 0x0C000 s) : regWrite 0x0C000 v s = writeEvr 0x0C000 v s := by
  unfold regWrite
  rw [if_neg (by have : (regSpec 0x0C000).isNone = false := by decide
                 simp [h.1, this]), if_neg (by simp [h.2])]
  have e : blockAt 0x0C000 = some .pmc := by decide
  simp [e]
theorem regWrite_sel {k : Nat} {v : Word} {s : State} (hk : k < 32) (h : Answers (0x0C100 + 4 * k) s) :
    regWrite (0x0C100 + 4 * k) v s = pmcSelWrite k v s := by
  unfold regWrite
  have n : (regSpec (0x0C100 + 4 * k)).isNone = false := by
    have : ∀ k < 32, (regSpec (0x0C100 + 4 * k)).isNone = false := by decide
    exact this k hk
  rw [if_neg (by simp [h.1, n]), if_neg (by simp [h.2])]
  have e : blockAt (0x0C100 + 4 * k) = some .pmc := by unfold blockAt; (repeat rw [if_neg (by omega)]); rw [if_pos (by omega)]
  have d : (0x0C100 + 4 * k - 0x0C100) / 4 = k := by omega
  simp only [e]
  unfold writeEvr
  rw [if_neg (by omega), if_neg (by omega), if_pos (by omega), d]
theorem regWrite_bwcfg {p : Nat} {v : Word} {s : State} (hp : p < 5) (h : Answers (0x0C600 + 0x20 * p) s) :
    regWrite (0x0C600 + 0x20 * p) v s = bwcfgWrite p v s := by
  unfold regWrite
  have n : (regSpec (0x0C600 + 0x20 * p)).isNone = false := by
    have : ∀ k < 5, (regSpec (0x0C600 + 0x20 * k)).isNone = false := by decide
    exact this p hp
  rw [if_neg (by simp [h.1, n]), if_neg (by simp [h.2])]
  have e : blockAt (0x0C600 + 0x20 * p) = some .pmc := by unfold blockAt; (repeat rw [if_neg (by omega)]); rw [if_pos (by omega)]
  have d : (0x0C600 + 0x20 * p - 0x0C600) / 0x20 = p := by omega
  simp only [e]
  unfold writeEvr
  rw [if_neg (by omega), if_neg (by omega), if_neg (by omega), if_pos (by omega), d]

end Sys2Proof.Machine
end

