-- ==== Sys2Proof/Laws/Recorder.lean ====
section
/-!
SUPPORT. Delivery and the flight recorder: a descriptor's end is shown, and the log takes its records in order.
-/

set_option Elab.async false
namespace Sys2Proof.Machine

theorem Within.mem {ps : List Part} {rs : Option (List Nat)} {s t : State} {o : Out} (w : Within ps rs s t) (h : o ∈ s.out) : o ∈ t.out :=
  w.grow.mem h
/-- A descriptor's end is among what the module shows. -/
theorem complete_mem (r : Req) (st dt len : Nat) (b : Bytes) (s : State) : .opDone r st dt len b ∈ (complete r st dt len b s).out := by
  unfold complete
  exact Within.mem (flushRing_within _ _) (by simp [emit])

/-- Delivery changes nothing of the recorder but how far it has come. -/
theorem drainItems_evr (p : Nat) (l : List Item) (s : State) : ∃ d, (drainItems p l s).evr = { s.evr with delivered := d } := by
  induction l generalizing s with
  | nil => exact ⟨s.evr.delivered, by simp [drainItems]⟩
  | cons x l ih =>
    have hb : (failBufs p x.data (ring p s).bufs s).evr = s.evr := (failBufs_within _ _ _ _).parts .evr (by decide)
    unfold drainItems
    dsimp only
    rw [← hb]
    generalize failBufs p x.data (ring p s).bufs s = s
    split
    · obtain ⟨d, h⟩ := ih (itemGone p x.key (fillBuf p x.irq x.stat 0 x.mon x.data s))
      rw [h]
      unfold itemGone
      split
      · exact ⟨d, by simp⟩
      · split <;> exact ⟨d, by simp⟩
    · exact ⟨s.evr.delivered, by simp⟩

/-- A record goes to the end of the log while the log has room. -/
theorem logRec_evr (s : State) (e : Evt) (h : s.evr.log.length < logSize) :
    ∃ d, (logRec s e).evr = { s.evr with log := s.evr.log ++ [e], delivered := d } := by
  unfold logRec
  dsimp only
  obtain ⟨d, hd⟩ := drainItems_evr 50 _ _
  refine ⟨d, hd.trans ?_⟩
  have hf : ¬ (logSize ≤ s.evr.log.length) := by omega
  simp [hf]

/-- The staged records go to the log in their order while it has room. -/
theorem foldl_logRec_evr (l : List Evt) (s : State) (h : s.evr.log.length + l.length ≤ logSize) :
    ∃ d, (l.foldl logRec s).evr = { s.evr with log := s.evr.log ++ l, delivered := d } := by
  induction l generalizing s with
  | nil => exact ⟨s.evr.delivered, by simp⟩
  | cons e l ih =>
    simp only [List.length_cons] at h
    obtain ⟨d, hd⟩ := logRec_evr s e (by omega)
    obtain ⟨d', hd'⟩ := ih (logRec s e) (by rw [hd]; simp; omega)
    exact ⟨d', by rw [List.foldl_cons, hd', hd]; simp⟩

theorem foldl_logRec_log (l : List Evt) (s : State) (h : s.evr.log.length + l.length ≤ logSize) :
    (l.foldl logRec s).evr.log = s.evr.log ++ l := by obtain ⟨_, e⟩ := foldl_logRec_evr l s h; rw [e]
theorem foldl_logRec_staged (l : List Evt) (s : State) (h : s.evr.log.length + l.length ≤ logSize) :
    (l.foldl logRec s).evr.staged = s.evr.staged := by obtain ⟨_, e⟩ := foldl_logRec_evr l s h; rw [e]
theorem foldl_logRec_noRoom (l : List Evt) (s : State) (h : s.evr.log.length + l.length ≤ logSize) :
    (l.foldl logRec s).evr.noRoom = s.evr.noRoom := by obtain ⟨_, e⟩ := foldl_logRec_evr l s h; rw [e]
@[simp] theorem fillCheck_log (s : State) : (fillCheck s).evr.log = s.evr.log := by unfold fillCheck; dsimp only; split <;> simp
@[simp] theorem fillCheck_staged (s : State) : (fillCheck s).evr.staged = s.evr.staged := by unfold fillCheck; dsimp only; split <;> simp
@[simp] theorem fillCheck_noRoom (s : State) : (fillCheck s).evr.noRoom = s.evr.noRoom := by unfold fillCheck; dsimp only; split <;> simp
/-- A record that finds room is staged with the next sequence number. -/
theorem keepRec_evr (c f x p : Nat) (s : State) (h : s.evr.staged.length < stageSize) : ∃ e : Evt, e.code = c ∧ e.seq = s.evr.nextSeq ∧ e.suppr = p ∧
    e.arg = x ∧ (keepRec c f x p s).evr = { s.evr with nextSeq := s.evr.nextSeq + 1, newest := s.evr.nextSeq, staged := s.evr.staged ++ [e] } := by
  unfold keepRec
  dsimp only
  rw [if_neg (by omega)]
  refine ⟨{ seq := s.evr.nextSeq, mon := s.tim.mon, code := c, group := if c < 0xE0 then 0xFF else (c - 0x100) / 0x20, flags := f, suppr := p,
            boot := getF 0x7F00C 15 0 s, arg := x }, rfl, rfl, rfl, rfl, ?_⟩
  unfold setCause
  dsimp only
  (repeat' split) <;> first | rfl | simp

end Sys2Proof.Machine
end

