-- ==== Sys2Proof/Laws/Outbox.lean ====
section
/-!
SUPPORT. What leaves the module: the lengths of packed numbers, and where a write to host memory and a message to the peer are seen.
-/

set_option Elab.async false
namespace Sys2Proof.Machine

@[simp] theorem le_length (n v : Nat) : (le n v).length = n := by
  induction n generalizing v with
  | zero => rfl
  | succ n ih => simp [le, ih]
@[simp] theorem be_length (n v : Nat) : (be n v).length = n := by simp [be]

/-- What a pair writes to host memory is seen once the host has attached the pair. -/
theorem hostWrite_mem (p a : Nat) (b : Bytes) (s : State) (hb : b ≠ []) (ha : attached p s = true) :
    .hostData p a b ∈ (hostWrite p a b s).out := by
  unfold hostWrite
  rw [if_neg (by simp [hb, ha])]
  refine Within.mem (bwAdd_within _ _ _ _) (Within.mem (pmcAdd_within _ _ _) ?_)
  simp [emit]

/-- A message goes to the peer while the link carries it, the cage of port 3 is on and the block is not in reset. -/
theorem sendPeer_mem (b : PeerBody) (s : State) (h : s.dup.linkUp = true ∨ b.type = 11) (hr : s.start.blkRst.contains .dup = false)
    (hc : cageOn 3 s = true) : ∃ q g, .peer q b.type g b ∈ (sendPeer b s).out := by
  unfold sendPeer
  rw [if_neg (by rw [hr]; simp; intro k; simpa [k] using h)]
  dsimp only
  rw [if_pos (by split <;> exact hc)]
  exact ⟨_, _, Within.mem (pmcAdd_within _ _ _) (List.mem_cons_self)⟩

end Sys2Proof.Machine
end

