-- ==== Sys2Proof/Laws/Rings.lean ====
section
/-!
SUPPORT. The pairs' rings: what the completion side of a pair leaves of what the host has set.
-/

set_option Elab.async false
namespace Sys2Proof.Machine

theorem ring_putRing (p q : Nat) (r : Ring) (s : State) : ring p (putRing q r s) = if p = q then r else ring p s := by
  unfold ring putRing tgetD
  split
  · next h => subst h; simp [tget_tput_same]
  · next h => simp [tget_tput_other h]
@[simp] theorem ring_putRing_same (p : Nat) (r : Ring) (s : State) : ring p (putRing p r s) = r := by simp [ring_putRing]
theorem ring_hif {p : Nat} {s t : State} (h : t.hif = s.hif) : ring p t = ring p s := by unfold ring; rw [h]
theorem ring_rings {p : Nat} {s t : State} (h : t.hif.rings = s.hif.rings) : ring p t = ring p s := by unfold ring; rw [h]
@[simp] theorem sendMsg_rings (v : Nat) (s : State) : (sendMsg v s).hif.rings = s.hif.rings := by
  unfold sendMsg putMsg; (repeat' split) <;> simp
@[simp] theorem sendMsg_fnMask (v : Nat) (s : State) : (sendMsg v s).hif.fnMask = s.hif.fnMask := by
  unfold sendMsg putMsg; (repeat' split) <;> simp
@[simp] theorem sendMsg_msixOn (v : Nat) (s : State) : (sendMsg v s).hif.msixOn = s.hif.msixOn := by
  unfold sendMsg putMsg; (repeat' split) <;> simp
@[simp] theorem ring_setReg (p a : Nat) (w : Word) (s : State) : ring p (setReg a w s) = ring p s := rfl
@[simp] theorem ring_setB (p a i : Nat) (b : Bool) (s : State) : ring p (setB a i b s) = ring p s := rfl
@[simp] theorem ring_sendMsg (p v : Nat) (s : State) : ring p (sendMsg v s) = ring p s := ring_rings (by simp)
@[simp] theorem ring_emit (p : Nat) (o : Out) (s : State) : ring p (emit o s) = ring p s := rfl
@[simp] theorem ring_pmcAdd (p e n : Nat) (s : State) : ring p (pmcAdd e n s) = ring p s := ring_hif (by simp)
@[simp] theorem ring_bwAdd (p q a b : Nat) (s : State) : ring p (bwAdd q a b s) = ring p s := ring_hif (by simp)
@[simp] theorem ring_hostWrite (p q a : Nat) (b : Bytes) (s : State) : ring p (hostWrite q a b s) = ring p s := ring_hif (by simp)

/-- What the completion side of a pair leaves: its indices on the submission side, its read index and its posts. -/
structure SameHead (r q : Ring) : Prop where
  subTail  : q.subTail = r.subTail
  subHead  : q.subHead = r.subHead
  cmpHead  : q.cmpHead = r.cmpHead
  fetchErr : q.fetchErr = r.fetchErr
  posts    : q.posts = r.posts

theorem SameHead.rfl {r : Ring} : SameHead r r := ⟨Eq.refl _, Eq.refl _, Eq.refl _, Eq.refl _, Eq.refl _⟩
theorem SameHead.trans {a b c : Ring} (h : SameHead a b) (k : SameHead b c) : SameHead a c :=
  ⟨k.1.trans h.1, k.2.trans h.2, k.3.trans h.3, k.4.trans h.4, k.5.trans h.5⟩

theorem signalPair_head (p : Nat) (s : State) : SameHead (ring p s) (ring p (signalPair p s)) := by
  unfold signalPair; dsimp only; (repeat' split) <;> first | exact .rfl | (simp; exact ⟨rfl, rfl, rfl, rfl, rfl⟩)
theorem writeEntry_head (p a b c d e : Nat) (rx : Bool) (m : Nat) (irq : Bool) (s : State) :
    SameHead (ring p s) (ring p (writeEntry p a b c d e rx m irq s)) := by
  unfold writeEntry; dsimp only
  split
  · exact .rfl
  · have key : ∀ (k : Prop) [Decidable k] t, SameHead (ring p s) (ring p t) →
        SameHead (ring p s) (ring p (if k then signalPair p t else t)) := fun k _ t h => by
      split
      · exact h.trans (signalPair_head p t)
      · exact h
    have e : ∀ (k : Prop) [Decidable k] t, ring p (if k then t else bwAdd 4 32 0 (pmcAdd 0x91 32 t)) = ring p t := fun k _ t => by
      split <;> simp
    refine key _ _ ?_
    rw [e]
    simp
    exact ⟨rfl, rfl, rfl, rfl, rfl⟩
theorem cmdEntry_head (p : Nat) (c : Cmd) (d : Done) (s : State) : SameHead (ring p s) (ring p (cmdEntry p c d s)) := by
  unfold cmdEntry; dsimp only
  split
  · refine SameHead.trans ?_ (writeEntry_head _ _ _ _ _ _ _ _ _ _)
    simp; exact .rfl
  · refine SameHead.trans ?_ (writeEntry_head _ _ _ _ _ _ _ _ _ _)
    split <;> (try simp) <;> exact .rfl
theorem flushCmds_head (p : Nat) (l : List Cmd) (s : State) : SameHead (ring p s) (ring p (flushCmds p l s)) := by
  induction l generalizing s with
  | nil => simp [flushCmds]; exact ⟨rfl, rfl, rfl, rfl, rfl⟩
  | cons c l ih =>
    unfold flushCmds
    split
    · simp; exact ⟨rfl, rfl, rfl, rfl, rfl⟩
    · split
      · simp; exact ⟨rfl, rfl, rfl, rfl, rfl⟩
      · exact SameHead.trans (cmdEntry_head _ _ _ _) (ih _)
theorem flushBufs_head (p : Nat) (l : List (Buf × Nat)) (s : State) : SameHead (ring p s) (ring p (flushBufs p l s)) := by
  induction l generalizing s with
  | nil => simp [flushBufs]; exact ⟨rfl, rfl, rfl, rfl, rfl⟩
  | cons c l ih =>
    obtain ⟨b, st⟩ := c
    unfold flushBufs
    split
    · simp; exact ⟨rfl, rfl, rfl, rfl, rfl⟩
    · exact SameHead.trans (writeEntry_head _ _ _ _ _ _ _ _ _ _) (ih _)
theorem endBufs_head (p st : Nat) (s : State) : SameHead (ring p s) (ring p (endBufs p st s)) := by
  unfold endBufs; simp; exact ⟨rfl, rfl, rfl, rfl, rfl⟩
theorem flushRing_head (p : Nat) (s : State) : SameHead (ring p s) (ring p (flushRing p s)) := by
  unfold flushRing
  dsimp only
  have a := flushCmds_head p (ring p s).cmds s
  generalize flushCmds p (ring p s).cmds s = u at a ⊢
  have b : SameHead (ring p s) (ring p (if (ring p u).disabling && (ring p u).cmds.isEmpty then endBufs p 0x03 u else u)) := by
    split
    · exact a.trans (endBufs_head _ _ _)
    · exact a
  generalize (if (ring p u).disabling && (ring p u).cmds.isEmpty then endBufs p 0x03 u else u) = v at b ⊢
  have c := b.trans (flushBufs_head p (ring p v).ended v)
  generalize flushBufs p (ring p v).ended v = w at c ⊢
  split
  · rw [ring_putRing_same]
    exact c.trans ⟨rfl, rfl, rfl, rfl, rfl⟩
  · exact c
theorem ovfCheck_head (p : Nat) (s : State) : SameHead (ring p s) (ring p (ovfCheck p s)) := by
  unfold ovfCheck; dsimp only
  split
  · exact .rfl
  · simp
    refine SameHead.trans ?_ (writeEntry_head _ _ _ _ _ _ _ _ _ _)
    simp; exact ⟨rfl, rfl, rfl, rfl, rfl⟩
theorem fillBuf_head (p : Nat) (i : Bool) (a b m : Nat) (d : Bytes) (s : State) : SameHead (ring p s) (ring p (fillBuf p i a b m d s)) := by
  unfold fillBuf
  split
  · exact .rfl
  · refine SameHead.trans ?_ (writeEntry_head _ _ _ _ _ _ _ _ _ _)
    split <;> (simp; exact ⟨rfl, rfl, rfl, rfl, rfl⟩)
theorem failBuf_head (p : Nat) (s : State) : SameHead (ring p s) (ring p (failBuf p s)) := by
  unfold failBuf
  split
  · exact .rfl
  · refine SameHead.trans ?_ (writeEntry_head _ _ _ _ _ _ _ _ _ _)
    simp; exact ⟨rfl, rfl, rfl, rfl, rfl⟩
theorem failBufs_head (p : Nat) (b : Bytes) (l : List Buf) (s : State) : SameHead (ring p s) (ring p (failBufs p b l s)) := by
  induction l generalizing s with
  | nil => exact .rfl
  | cons c l ih =>
    unfold failBufs
    split
    · exact (failBuf_head p s).trans (ih _)
    · exact .rfl
@[simp] theorem ring_itemGone (p q k : Nat) (s : State) : ring p (itemGone q k s) = ring p s := by
  unfold itemGone; (repeat' split) <;> rfl
theorem drainItems_head (p : Nat) (l : List Item) (s : State) : SameHead (ring p s) (ring p (drainItems p l s)) := by
  induction l generalizing s with
  | nil => simp [drainItems]; exact ⟨rfl, rfl, rfl, rfl, rfl⟩
  | cons c l ih =>
    have b := failBufs_head p c.data (ring p s).bufs s
    unfold drainItems
    dsimp only
    generalize failBufs p c.data (ring p s).bufs s = u at b ⊢
    refine b.trans ?_
    split
    · refine SameHead.trans ?_ (ih _)
      rw [ring_itemGone]; exact fillBuf_head _ _ _ _ _ _ _
    · rw [ring_putRing_same]; exact ⟨rfl, rfl, rfl, rfl, rfl⟩
/-- What waits for a slot of a pair goes on without touching what the host has set. -/
theorem pumpRing_head (p : Nat) (s : State) : SameHead (ring p s) (ring p (pumpRing p s)) :=
  ((flushRing_head p s).trans (ovfCheck_head p _)).trans (drainItems_head p _ _)

end Sys2Proof.Machine
end

