-- ==== Sys2Proof/Laws/Stations.lean ====
section
/-!
SUPPORT. The stations' table: what a station reads as after the operations on it.
-/

set_option Elab.async false
namespace Sys2Proof.Machine

theorem stn_putStn (i j : Nat) (x : StnSt) (s : State) : stn i (putStn j x s) = if i = j then x else stn i s := by
  unfold stn putStn tgetD
  split
  · next h => subst h; simp [tget_tput_same]
  · next h => simp [tget_tput_other h]
@[simp] theorem stn_putStn_same (i : Nat) (x : StnSt) (s : State) : stn i (putStn i x s) = x := by rw [stn_putStn, if_pos rfl]
theorem stn_rnd {i : Nat} {s t : State} (h : t.rnd = s.rnd) : stn i t = stn i s := by unfold stn; rw [h]
@[simp] theorem stn_pmcAdd (i e n : Nat) (s : State) : stn i (pmcAdd e n s) = stn i s := stn_rnd (by simp)
@[simp] theorem stn_evt (i g k x : Nat) (s : State) : stn i (evt g k x s) = stn i s := stn_rnd (by simp)
@[simp] theorem stn_emit (i : Nat) (o : Out) (s : State) : stn i (emit o s) = stn i s := rfl
@[simp] theorem stn_complete (i : Nat) (r : Req) (a b c : Nat) (d : Bytes) (s : State) : stn i (complete r a b c d s) = stn i s :=
  stn_rnd ((complete_within _ _ _ _ _ _).parts .rnd (by decide))
@[simp] theorem stn_finish (i : Nat) (r : Req) (a b : Nat) (s : State) : stn i (finish r a b s) = stn i s :=
  stn_rnd ((finish_within _ _ _ _).parts .rnd (by decide))
@[simp] theorem stn_noteClaim (i j c : Nat) (s : State) : stn i (noteClaim j c s) = stn i s :=
  stn_rnd ((noteClaim_within _ _ _).parts .rnd (by decide))
@[simp] theorem stn_sendEnrol (i a b c : Nat) (d : Bytes) (s : State) : stn i (sendEnrol a b c d s) = stn i s :=
  stn_rnd ((sendEnrol_within _ _ _ _ _).parts .rnd (by decide))
@[simp] theorem stn_welcome (i j : Nat) (s : State) : stn i (welcome j s) = stn i s :=
  stn_rnd ((welcome_within _ _).parts .rnd (by decide))
@[simp] theorem stn_sendPeer (i : Nat) (b : PeerBody) (s : State) : stn i (sendPeer b s) = stn i s :=
  stn_rnd ((sendPeer_within _ _).parts .rnd (by decide))

/-- A session state set is what the station has. -/
theorem stn_setSess (i : Nat) (v : Sess) (s : State) :
    (stn i (setSess i v s)).state = v ∧ (stn i (setSess i v s)).round.reply = (stn i s).round.reply ∧
    (stn i (setSess i v s)).hiSeq = (stn i s).hiSeq := by
  unfold setSess
  dsimp only
  split
  · next h => exact ⟨h, rfl, rfl⟩
  · simp
theorem enrolled_stn (i : Nat) (s : State) :
    (stn i (enrolled i s)).state = (if (stn i s).state = .enrolling then .active else (stn i s).state) ∧
    (stn i (enrolled i s)).round.reply = (stn i s).round.reply ∧ (stn i (enrolled i s)).hiSeq = (stn i s).hiSeq := by
  unfold enrolled
  split
  · simp [stn_setSess]
  · simp
/-- An accepted frame touches no more of its station than the address it came from. -/
theorem noteAddr_stn (f : Frame) (s : State) :
    ∃ a p, stn f.station (noteAddr f s) = { stn f.station s with addr := a, port := p } := by
  unfold noteAddr
  dsimp only
  split
  · exact ⟨(stn f.station s).addr, (stn f.station s).port, rfl⟩
  · split <;> simp
@[simp] theorem noteAddr_stn_state (f : Frame) (s : State) : (stn f.station (noteAddr f s)).state = (stn f.station s).state := by
  obtain ⟨_, _, e⟩ := noteAddr_stn f s; rw [e]
@[simp] theorem noteAddr_stn_hiSeq (f : Frame) (s : State) : (stn f.station (noteAddr f s)).hiSeq = (stn f.station s).hiSeq := by
  obtain ⟨_, _, e⟩ := noteAddr_stn f s; rw [e]
@[simp] theorem noteAddr_stn_round (f : Frame) (s : State) : (stn f.station (noteAddr f s)).round = (stn f.station s).round := by
  obtain ⟨_, _, e⟩ := noteAddr_stn f s; rw [e]

end Sys2Proof.Machine
end

