-- ==== Sys2Proof/Laws/TimeBlock.lean ====
section
/-!
SUPPORT. The time block: what LEG, the quality of NET and the clock's settings touch; and an operation without a peer.
-/

set_option Elab.async false
namespace Sys2Proof.Machine

/-- LEG_VALID and its traces are all that a change of LEG touches of the time block. -/
theorem setLeg_tim (v : Bool) (s : State) : ∃ a b, (setLeg v s).tim = { s.tim with legValid := a, legEver := b } := by
  unfold setLeg timCause
  dsimp only
  split
  · exact ⟨s.tim.legValid, s.tim.legEver, rfl⟩
  · refine ⟨v, s.tim.legEver || v, ?_⟩
    split <;> simp
theorem setLeg_valid (v : Bool) (s : State) : (setLeg v s).tim.legValid = v := by
  unfold setLeg timCause
  dsimp only
  split
  · assumption
  · simp
/-- What a change of quality touches of the time block. -/
theorem setQuality_tim (q : NetQ) (s : State) : ∃ l c a b, (setQuality q s).tim =
    { s.tim with quality := q, lastSync := l, cmpAt := c, legValid := a, legEver := b } := by
  unfold setQuality timCause
  dsimp only
  split
  · next h =>
    obtain ⟨a, b, e⟩ := setLeg_tim (legNow s) s
    exact ⟨s.tim.lastSync, s.tim.cmpAt, a, b, by rw [e, ← h]⟩
  · obtain ⟨a, b, e⟩ := setLeg_tim (legNow _) _
    exact ⟨if s.tim.quality == .sync then s.tim.mon else s.tim.lastSync, if q == .sync then none else s.tim.cmpAt, a, b, by rw [e]; simp⟩
theorem toHoldover_tim (s : State) : ∃ q l c a b, (toHoldover s).tim =
    { s.tim with inWin := 0, outWin := 0, quality := q, lastSync := l, cmpAt := c, legValid := a, legEver := b } := by
  unfold toHoldover
  dsimp only
  split
  · obtain ⟨l, c, a, b, e⟩ := setQuality_tim .holdover { s with tim := { s.tim with inWin := 0, outWin := 0 } }
    exact ⟨_, l, c, a, b, e⟩
  · exact ⟨s.tim.quality, s.tim.lastSync, s.tim.cmpAt, s.tim.legValid, s.tim.legEver, rfl⟩
theorem launchAdjust_tim (old new : Nat) (s : State) (k : Nat) : ∃ l, (launchAdjust old new s k).tim = { s.tim with launched := l } := by
  unfold launchAdjust pulse
  dsimp only
  split
  · exact ⟨s.tim.launched, rfl⟩
  · split
    · exact ⟨s.tim.launched, rfl⟩
    · split <;> exact ⟨_, by simp; rfl⟩
theorem stepNet_tim (ofs : Int) (s : State) : ∃ l, (stepNet ofs s).tim =
    { s.tim with net := ((s.tim.net : Int) + ofs).toNat, inWin := 0, launched := l } := by
  have key : ∀ (a b : Nat) (l : List Nat) (t : State), ∃ m, (l.foldl (launchAdjust a b) t).tim = { t.tim with launched := m } := by
    intro a b l
    induction l with
    | nil => intro t; exact ⟨t.tim.launched, rfl⟩
    | cons k l ih =>
      intro t
      obtain ⟨m, e⟩ := ih (launchAdjust a b t k)
      obtain ⟨m', e'⟩ := launchAdjust_tim a b t k
      exact ⟨m, by rw [List.foldl_cons, e, e']⟩
  have cells : ∀ (a b : Nat) (l : List Nat) (t : State), (l.foldl (matrixAdjust a b) t).tim = t.tim := by
    intro a b l
    induction l with
    | nil => intro t; rfl
    | cons k l ih => intro t; rw [List.foldl_cons, ih]; exact (matrixAdjust_within _ _ _ _).parts .tim (by decide)
  have base : ∀ t : State, (if getB 0x04004 24 t then (List.range 4).foldl (matrixAdjust (s.tim.net % 2 ^ 64) (((s.tim.net : Int) + ofs).toNat % 2 ^ 64)) t
      else t).tim = t.tim := by
    intro t
    split
    · exact cells _ _ _ _
    · rfl
  unfold stepNet timCause
  dsimp only
  split
  · obtain ⟨m, e⟩ := key _ _ _ _
    exact ⟨m, by rw [e, base]; simp⟩
  · exact ⟨s.tim.launched, by rw [base]; simp⟩
theorem net_ite {c : Prop} [Decidable c] {t u : State} {n : Nat} (h : t.tim.net = n) (k : u.tim.net = n) : (if c then t else u).tim.net = n := by
  split <;> assumption
/-- Counting an offset leaves NET. -/
@[simp] theorem countOffset_net (o : Int) (s : State) : (countOffset o s).tim.net = s.tim.net := by
  have a : ∀ i k, (setQuality .sync { s with tim := { s.tim with inWin := i, outWin := k } }).tim.net = s.tim.net := by
    intro i k
    obtain ⟨_, _, _, _, e⟩ := setQuality_tim .sync { s with tim := { s.tim with inWin := i, outWin := k } }
    rw [e]
  have b : ∀ i k, (toHoldover { s with tim := { s.tim with inWin := i, outWin := k } }).tim.net = s.tim.net := by
    intro i k
    obtain ⟨_, _, _, _, _, e⟩ := toHoldover_tim { s with tim := { s.tim with inWin := i, outWin := k } }
    rw [e]
  unfold countOffset
  exact net_ite (a _ _) (net_ite (b _ _) rfl)
theorem viaPeer_alone (r : Req) (op : FwdOp) (len : Nat) (f : State → State) (s : State) (h : duplex s = false) :
    viaPeer r op len f s = complete r 0 0 len [] (f s) := by unfold viaPeer; rw [if_pos (by simp [h])]
theorem refuses_alone (s : State) (h : duplex s = false) : refusesPairOp s = false := by simp [refusesPairOp, h]
@[simp] theorem instantEvt_tim (b : Nat) (o : Option Nat) (s : State) : (instantEvt b o s).tim = s.tim := by
  unfold instantEvt; split <;> simp
theorem fireAlarm_tim (o : Option Nat) (s : State) : (fireAlarm o s).tim = { s.tim with alarm := 0 } := by simp [fireAlarm, timCause]
theorem fireWake_tim (o : Option Nat) (i : Nat) (s : State) : (fireWake o i s).tim = { s.tim with lastWake := i } := by simp [fireWake, timCause]
theorem rtcJump_tim (a b : Nat) (s : State) : ∃ x y, (rtcJump a b s).tim = { s.tim with alarm := x, lastWake := y } := by
  unfold rtcJump
  dsimp only
  (repeat' split) <;> (try simp [fireAlarm_tim, fireWake_tim]) <;> exact ⟨_, _, rfl⟩
/-- A setting of the RTC leaves NET and its quality, and the RTC holds the value given, or that of NET with the time of the halt. -/
theorem setRtc_tim (fromNet : Bool) (ns : Nat) (s : State) :
    (setRtc fromNet ns s).tim.rtc = (if fromNet then ns + min 61000 (Config.rtcHalt s.free) else ns) ∧ (setRtc fromNet ns s).tim.net = s.tim.net ∧
    (setRtc fromNet ns s).tim.quality = s.tim.quality := by
  have jump : ∀ (a b : Nat) (t : State) (v : Bool), (setLeg v (rtcJump a b t)).tim.rtc = t.tim.rtc ∧
      (setLeg v (rtcJump a b t)).tim.net = t.tim.net ∧ (setLeg v (rtcJump a b t)).tim.quality = t.tim.quality := by
    intro a b t v
    obtain ⟨_, _, e⟩ := setLeg_tim v (rtcJump a b t)
    obtain ⟨_, _, e'⟩ := rtcJump_tim a b t
    rw [e, e']
    exact ⟨rfl, rfl, rfl⟩
  unfold setRtc
  dsimp only
  refine ⟨(jump _ _ _ _).1.trans ?_, (jump _ _ _ _).2.1.trans ?_, (jump _ _ _ _).2.2.trans ?_⟩ <;> simp [draw]

end Sys2Proof.Machine
end

