-- ==== Sys2Proof/WellFormed.lean ====
section
/-!
DEFINITION. The well-formed commands: those whose operands name something that the module has. The meanings do not rest on it: the rules state
what an operation with a bad parameter completes with, and an event of a unit that is not there changes nothing.
-/
namespace Sys2Proof

/-- A ring pair (R89). -/
def pairOk (n : Nat) : Bool := decide (n < 60)
/-- A descriptor in a submission ring of at most 4096 slots (R90, R95). -/
def reqOk (r : Req) : Bool := pairOk r.pair && decide (r.slot < 4096)
/-- A fault source (R498). -/
def sourceOk (n : Nat) : Bool := decide (n < 224)
/-- An MSI-X vector (R112). -/
def vectorOk (n : Nat) : Bool := decide (n < 64)
/-- A register of BAR0 (R10). -/
def addrOk (a : Nat) : Bool := decide (a < 0x80000) && a % 4 == 0
/-- A station number (R329). -/
def stationOk (n : Nat) : Bool := decide (n < 65536)
/-- One of the four units of a kind: Ethernet ports, SFP cages, CAN channels, feeders, MACsec associations. -/
def portOk (n : Nat) : Bool := decide (n < 4)
/-- One of the five paths whose bandwidth is measured (R522). -/
def pathOk (n : Nat) : Bool := decide (n < 5)
/-- A CAN frame: an identifier of 29 bits with its format bit, and at most 64 bytes of data (R436). -/
def canOk (f : CanFrame) : Bool := decide (f.ident < 2 ^ 32) && decide (f.data.length ≤ 64)

/-- A received datagram: UDP over IPv4 or IPv6 (R326). -/
def frameOk (f : Frame) : Bool := decide (f.data.length ≤ 65527) && decide (f.srcAddr < 2 ^ 128) && decide (f.srcPort < 65536)
/-- The phasors of a feeder's three voltages and four currents (R292). -/
def supplyOk (x : SupplyIn) : Bool := decide (x.v.length = 3) && decide (x.i.length = 4)
/-- A sample of a feeder's seven channels (R285). -/
def sampleOk (x : FeederSample) : Bool :=
  decide (x.v.length = 3) && decide (x.vq.length = 3) && decide (x.iH.length = 4) && decide (x.iL.length = 4)
/-- The KIND of the identifier of a branch (R122), where its kind has one; the branches of units and stations have none of their own. -/
def branchMidKind : BranchKind → Option Nat
  | .pipe => some 2
  | .pump => some 3
  | .valve => some 4
  | .checkValve | .resistance => some 5
  | .station | .plant | .store => none
/-- An identifier of a KIND and a NET (R122). -/
def midOk (kind net mid : Nat) : Bool := midKind mid == kind && midNet mid == net
/-- The identifiers of a model (R122): the KIND and the NET of each are those of its element; NET is 0 where the kind has none. -/
def midsOk (m : ModelImage) : Bool :=
  m.nodes.all (fun n => midOk 1 n.net n.mid) &&
    m.branches.all (fun b => match branchMidKind b.kind with | some k => midOk k b.net b.mid | none => decide (b.mid < 2 ^ 32)) &&
    m.units.all (fun u => [6, 7, 9].any (fun k => midOk k 0 u.mid)) &&
    m.meas.all (fun d => (List.range 4).any (fun n => midOk 11 n d.mid)) &&
    m.pumpGroups.all (fun g => midOk 9 0 g.1) && m.groups.all (fun g => midOk 10 0 g.1)
/-- A block of a component. -/
def dataOk (d : BlockData) : Bool := match d with | .model m => midsOk m | _ => true
/-- The header of a peer-link message (R392): a slot and a coded state. -/
def hdrOk (h : PeerHdr) : Bool := decide (h.slot < 16) && decide (h.state < 8)

/-- The well-formed commands. -/
def Instr.wellFormed : Instr → Bool
  | .powerOnReset _ p => decide (p.slot < 16)
  | .feedLost _ => true
  | .feedReturned _ => true
  | .powerFail => true
  | .presentLost => true
  | .finalCommitDone => true
  | .evrHoldupFlushDone => true
  | .railsOff => true
  | .tempRefresh _ => true
  | .overTempStop => true
  | .overTempCooled p => decide (p.slot < 16)
  | .holdupReadySet => true
  | .holdupReadyLost => true
  | .holdupCapacityMeasure _ => true
  | .sfpOverpower port => portOk port
  | .sfpInserted port _ => portOk port
  | .clockFault source => sourceOk source
  | .lockstepMismatch source => sourceOk source
  | .memoryEccError source => sourceOk source
  | .supervisorWatchdogExpiry => true
  | .modreset restart => decide (restart < 4)
  | .powerdown => true
  | .moduleReset => true
  | .blkrst _ => true
  | .blockResetDone _ => true
  | .perstN => true
  | .functionLevelReset => true
  | .startupStageComplete _ => true
  | .standbyEntry => true
  | .startupTakeControl => true
  | .accessMisaligned access => decide (access.addr < 0x80000) && [1, 2, 4, 8].contains access.size
  | .registerWrite _ addr _ => addrOk addr
  | .lockSet _ => true
  | .glbLockset _ => true
  | .rcRead _ addr => addrOk addr
  | .lowerWordRead _ addr => addrOk addr
  | .timNetsecLoRead _ => true
  | .bkdRtcsubRead _ => true
  | .capstatRead _ unit => decide (unit < 4)
  | .lastTxRead _ p => pathOk p
  | .evrCursorSet _ => true
  | .evrWinCopy _ => true
  | .evrWinAdvance _ => true
  | .ringEnable pair _ => pairOk pair
  | .ringDisable pair => pairOk pair
  | .startedDescriptorCancel r => reqOk r
  | .ownerClear => true
  | .ownerSet => true
  | .subTail pair _ => pairOk pair
  | .cmpHead pair _ => pairOk pair
  | .cmpArm pair => pairOk pair
  | .descriptorFetch pair b => pairOk pair && decide (b.length = 64)
  | .descriptorFetchFail pair _ => pairOk pair
  | .descriptorStart pair _ => pairOk pair
  | .coalesceTimeExpiry pair => pairOk pair
  | .vectorSpacingExpiry vector => vectorOk vector
  | .msixUnmask what => (match what with | .vector v => vectorOk v | .config _ => true)
  | .rxbuf pair _ => pairOk pair
  | .linkLoss _ => true
  | .linkReturn speed width => [1, 2, 3].contains speed && [1, 2, 4].contains width
  | .modelArm r => reqOk r
  | .modelDisarm r => reqOk r
  | .modelRevert r => reqOk r
  | .modelRecordActive => true
  | .roundStart => true
  | .roundStartTimeout => true
  | .readRetry station => stationOk station
  | .hello f => frameOk f
  | .ready f => frameOk f
  | .readRep f => frameOk f
  | .readClose => true
  | .fastportJobComplete => true
  | .sepWindowEnd => true
  | .ctrStep _ _ => true
  | .writeOpen => true
  | .writeRetry station => stationOk station
  | .writeAck f => frameOk f
  | .roundClose _ => true
  | .stationRetire r => reqOk r
  | .stationReinstate r => reqOk r
  | .stationQuery r => reqOk r
  | .dispatchSolveComplete => true
  | .quarterHourStep => true
  | .planAgeExpiry => true
  | .plantAck u _ => decide (u < 256)
  | .plantAckTimeout _ => true
  | .legMidnight => true
  | .setParam r => reqOk r
  | .pricePush r _ => reqOk r
  | .weatherPush r _ => reqOk r
  | .forceCycle r => reqOk r
  | .unitMode r => reqOk r
  | .kktSolve r _ => reqOk r
  | .qpSolve r _ => reqOk r
  | .patternLoad r _ => reqOk r
  | .patternFree r => reqOk r
  | .panelBoundary => true
  | .qpIterationComplete => true
  | .kktSolveComplete => true
  | .chuDeadline who => who.all reqOk
  | .chuPatternsRebuilt => true
  | .setSigma r => reqOk r
  | .excl r => reqOk r
  | .incl r => reqOk r
  | .flatStart => true
  | .curdDump r => reqOk r
  | .rebuild r => reqOk r
  | .ctrCtrlRebuild => true
  | .baseTick => true
  | .loopConfig r _ => reqOk r
  | .loopCoef r _ => reqOk r
  | .loopSwap r => reqOk r
  | .loopMode r => reqOk r
  | .loopSetsp r => reqOk r
  | .loopState r => reqOk r
  | .traceCfg r => reqOk r
  | .traceArm r => reqOk r
  | .tlyCommit => true
  | .holdMinExpiry station => stationOk station
  | .feederBlock feeder samples => portOk feeder && samples.all sampleOk
  | .supplyConditionChange feeder _ x => portOk feeder && supplyOk x
  | .localHeatSample meter _ => decide (meter < 8)
  | .calEnSet _ => true
  | .calEnClear _ => true
  | .billAck r => reqOk r
  | .billReplay r => reqOk r
  | .taskActivation task => decide (task < 8)
  | .taskInstanceEnd task _ _ _ => decide (task < 8)
  | .taskWatchdogExpiry task => decide (task < 8)
  | .progRun r => reqOk r
  | .progStop r => reqOk r
  | .progColdStart r => reqOk r
  | .varRead r => reqOk r
  | .varWrite r => reqOk r
  | .constWrite r => reqOk r
  | .progExchange r => reqOk r
  | .exchangeCapture => true
  | .exchangeMapped _ => true
  | .exchangeAbandon => true
  | .heartbeatTx => true
  | .heartbeat h => hdrOk h
  | .peerLinkLoss => true
  | .peerLinkReturn h => hdrOk h
  | .roundStartMsg h _ _ => hdrOk h
  | .resign h _ => hdrOk h
  | .take h => hdrOk h
  | .takeWaitExpiry => true
  | .peerMsgResend _ => true
  | .forward h _ _ => hdrOk h
  | .confirm h _ status _ => hdrOk h && decide (status < 256)
  | .forwardTimeout => true
  | .selftest h _ => hdrOk h
  | .selftestDone _ => true
  | .syncComplete h _ => hdrOk h
  | .record h _ => hdrOk h
  | .morHandover h _ => hdrOk h
  | .dupHandover r => reqOk r
  | .dupMorHand r => reqOk r
  | .dupMorRelease r => reqOk r
  | .dupMorTake r => reqOk r
  | .dupTakeover r => reqOk r
  | .dupProvision r _ => reqOk r
  | .dupResync r => reqOk r
  | .autoProvision _ => true
  | .provisionHello => true
  | .provisionKeys _ => true
  | .provisionDone _ => true
  | .frameTx r _ => reqOk r
  | .frameLaunch port queue => portOk port && decide (queue < 8)
  | .gclLoad r _ => reqOk r
  | .gclOperational port => portOk port
  | .ethFrameRx port f => portOk port && decide (14 ≤ f.data.length)
  | .ringPortLinkChange port _ => portOk port
  | .hsrSupervisionTx => true
  | .hsrEntryExpiry => true
  | .noPeers port => decide (port < 2)
  | .macsecRekey port => portOk port
  | .macsecOldSaExpiry port _ => portOk port
  | .keyNumberAnnouncement port an _ _ _ => portOk port && portOk an
  | .knaTx port => portOk port
  | .ptpOffsetMeasurement _ => true
  | .announce _ => true
  | .announceTimeout => true
  | .holdHExpiry => true
  | .leapSecond _ => true
  | .incrCommit d _ => decide (d < 3)
  | .stepAccept r => reqOk r
  | .stepReject r => reqOk r
  | .timeSet r => reqOk r
  | .rtcSet r => reqOk r
  | .alarmSet r => reqOk r
  | .rtcCompare => true
  | .rtcAlarm => true
  | .periodicWake => true
  | .captureEdge unit _ => decide (unit < 4)
  | .launchPulse unit => decide (unit < 4)
  | .oscStop => true
  | .backupSourceSwitch _ _ _ => true
  | .backupSourceMeasure _ _ _ => true
  | .vbdRetTrip => true
  | .vbdFloorTrip => true
  | .slotPatrol _ => true
  | .tamperTrip _ => true
  | .keyZeroise r => reqOk r
  | .keyDevcert r => reqOk r
  | .keyPublic r => reqOk r
  | .keyProvision r _ => reqOk r
  | .keyGcm r _ => reqOk r
  | .keyHmac r _ => reqOk r
  | .kstTampcfgWrite _ => true
  | .fcoForce _ => true
  | .forcedLevelExpiry source => sourceOk source
  | .fcoActiveClear w _ => decide (w < 7)
  | .fcoWindowEnd source => sourceOk source
  | .fcoIntegrityScan _ => true
  | .evrTokenRefill code => decide (code < 1024)
  | .evrFlush => true
  | .evtReplay r => reqOk r
  | .pmcSample r => reqOk r
  | .snap => true
  | .clear => true
  | .pmcSelWrite k _ => decide (k < 32)
  | .pmcPeriodicSnapshot => true
  | .bwWindowEnd p => pathOk p
  | .bwcfgWrite p _ => pathOk p
  | .canFrameRx ch f => portOk ch && canOk f
  | .canNodeTimeout ch node => portOk ch && decide (node < 64)
  | .canTx r _ => reqOk r
  | .canTxDone ch _ _ => portOk ch
  | .canCancel r => reqOk r
  | .schedLoad r _ => reqOk r
  | .schedCellOpen ch row col => portOk ch && decide (row < 8) && decide (col < 32)
  | .schedWindowDrop ch obj => portOk ch && decide (obj < 255)
  | .canSleep r => reqOk r
  | .canWake r => reqOk r
  | .cannWakeN ch => portOk ch
  | .busOff ch => portOk ch
  | .busOffRecovery ch => portOk ch
  | .dioInputEdge ch _ => decide (ch < 32)
  | .dioOutputLatch => true
  | .dioOutputShutdown ch => decide (ch < 32)
  | .dioReadbackFault ch _ => decide (ch < 32)
  | .logicSilence => true
  | .silenceEnd => true
  | .groupSupplyMissing group _ => decide (group = 1 ∨ group = 2)
  | .updManifest r _ _ _ => reqOk r
  | .updBlock r _ data => reqOk r && dataOk data
  | .updActivateFirmware r => reqOk r
  | .updActivateConfig r => reqOk r
  | .updConfirm r => reqOk r
  | .updFallback r => reqOk r
  | .updAbort r => reqOk r
  | .loaderBlockWrite _ => true
  | .receiveTimeout => true
  | .autoConfirm => true
  | .stage5Timeout => true
  | .syncTmoExpiry => true
  | .noRoundClosed3s => true
  | .peerAcknowledgement _ => true
  | .canTxDeadline ch _ => portOk ch
  | .levelConditionEnd source => sourceOk source
  | .holdupStoreExhausted => true

end Sys2Proof
end

