-- ==== Sys2Proof/Tests/Slice0.lean ====
section
/-!
SUPPORT. Tests: for every statement states and operands that meet its hypotheses, an ill-formed term for each check of well-formedness, and the
worked examples of the spec.
-/

set_option Elab.async false
set_option maxRecDepth 4000
namespace Sys2Proof.Machine

/-! ## Small states and operands -/

@[simp] theorem length_le (n v : Nat) : (le n v).length = n := by induction n generalizing v <;> simp_all [le]
@[simp] theorem length_be (n v : Nat) : (be n v).length = n := by simp [be]
theorem unle_le (n v : Nat) : unle (le n v) = v % 256 ^ n := by
  induction n generalizing v with
  | zero => simp [le, unle, Nat.mod_one]
  | succ n ih =>
    have e : 256 ^ (n + 1) = 256 * 256 ^ n := by rw [Nat.pow_succ, Nat.mul_comm]
    simp only [le, unle, ih, BitVec.toNat_ofNat]; rw [e, Nat.mod_mul]; simp
theorem unbe_be (n v : Nat) : unle (be n v).reverse = v % 256 ^ n := by simp [be, unle_le]

/-- What a command answers on a state, looked at by a test. -/
def after (i : Instr) (s : State) (P : State → Bool) : Bool := match exec i s with | .next t => P t | _ => false

def s0 : State := State.reset
def rq : Req := { pair := 4, slot := 3 }
/-- A state with some registers set. -/
def regs (l : List (Nat × Word)) (s : State) : State := l.foldl (fun s e => setReg e.1 e.2 s) s
/-- Key slots made ready. -/
def slots (l : List Nat) (s : State) : State := l.foldl (fun s n => setSlotState n 1 s) s
/-- A module whose key hierarchy is complete. -/
def keyedUp (s : State) : State := slots [2, 3, 4, 5, 8, 9] { s with kst := { s.kst with root := some 5 } }
/-- The link to the host is up. -/
def link (s : State) : State := { s with hif := { s.hif with linkUp := true, busMaster := true } }
/-- Ring pair `p` is enabled with 16 slots each way. -/
def pairOn (p : Nat) (s : State) : State := setReg (ringReg p 0x10) 0x4401 (link s)
/-- The module is at a start-up stage. -/
def atStage (k : Nat) (s : State) : State := setF 0x7F01C 3 0 k s
/-- The module is one of a pair, in a state of it. -/
def duo (d : DupState) (s : State) : State :=
  regs [(0x0E004, 0xF1), (0x7F040, 0x01000008)] { s with dup := { s.dup with state := d, linkUp := true } }
/-- A control module of a single. -/
def alone (s : State) : State := { s with dup := { s.dup with state := .single } }
/-- A model is active. -/
def withModel (m : ModelImage) (s : State) : State := { s with model := { s.model with active := some m } }

def desc0 (op : Nat) : Desc := { opcode := op, flags := 0, version := 1, length := 64, bufAddr := 4096, userTag := 7, deadline := 0, param := [] }
def cmd0 (op : Nat) : Cmd := { slot := 1, desc := desc0 op, started := false, done := none }
/-- A started descriptor whose parameters stand in it. -/
def inl (op : Nat) (b : Bytes) : Cmd := { slot := 3, desc := { desc0 op with flags := 4, length := b.length, param := b }, started := true, done := none }
/-- A started descriptor whose parameters stand in a host buffer. -/
def buf (op : Nat) (b : Bytes) : Cmd := { slot := 3, desc := { desc0 op with length := b.length }, started := true, done := none }
/-- A started descriptor with a PARAM and a host buffer. -/
def bufp (op : Nat) (par b : Bytes) : Cmd := { slot := 3, desc := { desc0 op with length := b.length, param := par }, started := true, done := none }
/-- A state in which the descriptor `rq` asks for an operation, with its parameters in it or in a buffer. -/
def asks (c : Cmd) (s : State) : State := putRing 4 { cmds := [c] } s
def evt0 : Evt := { seq := 1, mon := 0, code := 0x120, group := 1, flags := 0, suppr := 0, boot := 0, arg := 0 }
def hdr : PeerHdr :=
  { pver := 1, slot := 2, state := 2, claim := 0, round := 9, mseq := 1, ready := true, mor := false, isolated := false, degraded := false,
    macsecOk := true, keyed := true, pref := true, duplexOk := true, expects := 15,
    fw := { version := 0, pairLevel := 0, pairMin := 0, pverMin := 1, pverMax := 1, secVer := 0, sigOk := true } }
def stnD (n : Nat) : StationDecl :=
  { ident := n, full := false, bidir := false, coolSide := false, contractedW := 10000, exportW := 0, net := 0, sigFlow := 1, sigPress := 1,
    sigTemp := 1, kFlow := 256, kWarm := 256, kCool := 256, priorW := [] }
def unitD (mid : Nat) : UnitDecl :=
  { mid := mid, loopIdx := none, lo := [0, 0], hi := [100, 100], owned := [], lossMw := 0, layers := 0, volume := 0, plant := .boiler, rampW := 0, elecLo := 0, elecHi := 0, fuel := 3, etaHeat := 65536, etaElec := 0,
    bandLo := 0, bandHi := 0 }
def pipe (mid : Nat) : Branch :=
  { mid := mid, kind := .pipe, net := 0, fromN := 0, toN := 1, lengthMm := 1000, diam := 100, rough := 1, lossMw := 0, groundMp := 0, groundMk := 0,
    coef := [], sLo := 0, sHi := 1000, travelMs := 0, blockPos := false, qLo := 0, qHi := 0, q0 := 0, owner := 0 }
def net0 : NetDecl := { cold := false, tLo := 0, tHi := 90000, designDt := 30000, designReturn := 40000 }
def meas0 : MeasDecl := { mid := 66, quantity := 2, elem := 0, lo := 0, hi := 9, sigma := 1, kRed := 256 }
/-- A model header with a STRUCT_SIG and a PARAM_SIG. -/
def mHead (ss ps : Nat) : Bytes := zeros 4 ++ [1, 0, 0, 0, 1] ++ zeros 7 ++ [1] ++ zeros 7 ++ le 8 ss ++ le 8 ps ++ zeros 24
def img : ModelImage :=
  { header := mHead 11 12, crcs := [], networks := [net0], nodes := [], branches := [pipe 77], stations := [stnD 3], units := [unitD 55], meas := [meas0],
    pumpGroups := [], groups := [], exps := [], size := 100 }
/-- The same with identifiers of R122. -/
def img1 : ModelImage :=
  { img with branches := [pipe (2 * 2 ^ 28 + 77)], units := [unitD (6 * 2 ^ 28 + 1)], meas := [{ meas0 with mid := 11 * 2 ^ 28 + 66 }] }
def job0 : Job := { req := some { pair := 1, slot := 2 }, qp := true, slot := 5 }
def iter0 : Iterate := { x := [], y := [], zl := [], zu := [] }
def point0 (m : Nat) : IterPoint := { rp := m, rd := 0, gap := 0, objective := 0, dualLarge := false, it := iter0 }
/-- A KKT pattern of one row, and the sections of a job on it: the matrix and the right-hand side. -/
def kBody : PatBody :=
  { order := [0], signs := [true], nonzero := [(0, [(0, 0)])], panels := [(1, 0)],
    blocks := [{ role := 1, exp := 1, count := 1 }, { role := 2, exp := 1, count := 1 }, { role := 0x10, exp := 1, count := 1 }], keys := [], conKeys := [] }
def kSecs : List JobSection :=
  [{ role := 1, blockId := 0, exp := 1, count := 1, vals := [2 ^ 30], keys := [] }, { role := 2, blockId := 1, exp := 1, count := 1, vals := [2 ^ 29], keys := [] }]
/-- A programme of one variable within -1 and 1, with H = 1 and a linear cost. -/
def qBody : PatBody :=
  { order := [0], signs := [true], nonzero := [(0, [(0, 0)])], panels := [(1, 0)],
    blocks := [{ role := 3, exp := 1, count := 1 }, { role := 5, exp := 1, count := 1 }, { role := 7, exp := 1, count := 1 }, { role := 8, exp := 1, count := 1 },
      { role := 0x10, exp := 1, count := 1 }, { role := 0x12, exp := 1, count := 1 }, { role := 0x13, exp := 1, count := 1 }], keys := [7], conKeys := [] }
def qSecs (q : Int) : List JobSection :=
  [{ role := 3, blockId := 0, exp := 1, count := 1, vals := [2 ^ 30], keys := [] }, { role := 5, blockId := 1, exp := 1, count := 1, vals := [q], keys := [] },
   { role := 7, blockId := 2, exp := 1, count := 1, vals := [-(2 ^ 30)], keys := [] }, { role := 8, blockId := 3, exp := 1, count := 1, vals := [2 ^ 30], keys := [] }]
def pat0 (qp : Bool) : PatSlot :=
  { kindQp := qp, freeStand := true, nVars := 1, nCons := 0, structSig := 11, patSig := 13, factorNnz := 1, lineage := 1, longestNs := 10,
    body := if qp then qBody else kBody }
/-- A job's input buffer and its descriptor. -/
def secBuf (l : List JobSection) : Bytes := l.flatMap sectionBytes
def jobC (qp : Bool) (op : Nat) (b : Bytes) : Cmd :=
  bufp op (le 8 11 ++ (if qp then [12, 0, 40, 16] else [12, 0, 0, 0]) ++ le 4 64 ++ le 8 4096 ++ zeros 8) b
/-- The same without bounds and cost, which its starting point solves. -/
def fSecs : List JobSection := (qSecs 0).map (fun x => if x.role = 7 ∨ x.role = 8 then { x with vals := [bsMarker] } else x)
def fJob : Job := { req := some { pair := 1, slot := 2 }, qp := true, slot := 12, pat := some (pat0 true), input := fSecs }
def fPoint : IterPoint := match nextPoint (pat0 true) fJob with | some x => x.1 | none => point0 0
/-- A QP job on `pat0` that forms its first point, and that point. -/
def qJob (q : Int) : Job := { req := some { pair := 1, slot := 2 }, qp := true, slot := 12, pat := some (pat0 true), input := qSecs q }
def qPoint (q : Int) : IterPoint := match nextPoint (pat0 true) (qJob q) with | some x => x.1 | none => point0 0
/-- A KKT job on `pat0` whose factor is complete. -/
def kJob (r : Option Req) : Job :=
  { req := r, qp := false, slot := 12, stage := .solve, pat := some (pat0 false), input := kSecs,
    cols := [{ row := 0, pivM := 2 ^ 30, pivE := 1, replaced := false, lExp := 0, below := [] }] }
/-- A pattern without rows, whose image carries the signature of its sections. -/
def eBody : PatBody := { order := [], signs := [], nonzero := [], panels := [], blocks := [{ role := 1, exp := 0, count := 0 }], keys := [], conKeys := [] }
def eHead (sig : Nat) : Bytes :=
  le 4 0x54505A44 ++ [1, 0, 1, 1] ++ zeros 12 ++ le 2 1 ++ zeros 10 ++ le 8 sig ++ zeros 24 ++
    (List.range 5).flatMap (fun i => le 4 (i + 1) ++ le 4 64 ++ zeros 8)
def image0 : PatternImage := { header := eHead (Config.patDigest eBody).toNat, crcs := [0, 0, 0, 0, 0], body := eBody, lineage := 1 }
/-- The image is good: its header carries the signature of its sections. -/
theorem image0_ok : imageBad image0 1024 = none := by
  have e : BitVec.ofNat 64 (leAt image0.header 0x20 8) = Config.patDigest eBody := by
    have h : slice image0.header 0x20 8 = le 8 (Config.patDigest eBody).toNat := rfl
    unfold leAt; rw [h, unle_le]
    refine BitVec.eq_of_toNat_eq ?_
    have := (Config.patDigest eBody).isLt
    simp only [BitVec.toNat_ofNat]; omega
  have a : patHeadOk image0 1024 = true := by decide +kernel
  have b : patLimitsOk image0 = true := by decide +kernel
  have c : longestPanel (Config.patDigest eBody) eBody = 0 := rfl
  unfold imageBad
  simp [e, a, b, c, show image0.body = eBody from rfl]
def bind0 : Binding := { kind := 0, ref := 0, quantity := 0 }
def loopR (n : Nat) : LoopRec :=
  { loop := n, level := 1, action := false, awMode := false, startMode := 0, spTrack := false, div := 1, phase := 0,
    pv := { kind := 1, ref := 0, quantity := 0 }, sp := bind0, ff1 := bind0, ff2 := bind0, out := bind0, pvLo := 0, pvHi := 100, outEngLo := 0,
    outEngHi := 100, spRate := 0, spLocal := 20, ff1Ref := 0, ff1Span := 0, ff2Ref := 0, ff2Span := 0 }
def coef (n : Nat) (swap : Bool) : CoefRec :=
  { loop := n, swap := swap, kp := 1, ti := 0, td := 0, n := 5, tt := 0, kff1 := 0, kff2 := 0, outLo := 0, outHi := 100, outRate := 0, bias := 0 }
def withLoop (n : Nat) (l : LoopSt) (s : State) : State := { s with lpe := { s.lpe with loops := [(n, l)] } }
def traceR (u : Nat) : TraceRec := { unit := u, trigger := 0, loop := 0, nodes := 1, depth := 16, pre := 0, thresh := 0, decim := 1 }
def cyc0 : Cycle := { round := 5, slot := 12 }
def end0 : SolveEnd := { slot := 12, status := 0, case := 0, point := some (point0 0), plan := [], merit := 0, objective := 0, iters := 3, cold := 0, warm := none }
def plan0 : Plan := { tau0 := 0, step0 := 0, into := 0, onMon := true, round := 1, vars := [] }
def unitCmd (n : Nat) : UnitCmd := { mid := 55, seq := n, kind := 1, vals := [4, 5], txn := 0, group := 0, first := 0, code := none, ended := false }
def ival0 : Ival := { start := 0, stop := some 900000000000 }
def task0 : TaskDecl := { round := false, cycleMs := 10, offsetMs := 0, wdog := 100, safeStop := false, owns := [] }
def var0 : VarDecl :=
  { ident := 21, type := 3, elementary := true, size := 4, sgn := true, kind := .variable, cls := .nonRetained, online := true, lo := 0, hi := 100,
    init := 0, bound := false, task := 0 }
def prog0 : ProgImage := { sig := 31, tasks := [(0, task0)], vars := [var0, { var0 with ident := 22, kind := .constant }], mids := [] }
def progUp (k : Nat) (s : State) : State := setF 0x34020 31 30 k { s with cyc := { s.cyc with prog := some prog0 } }
def exch0 : Exchange := { target := 9, sig := 31, req := some rq }
def frame64 : Bytes := zeros 12 ++ [0x08, 0x00] ++ zeros 50
def port0 : Req := { pair := 34, slot := 1 }
def port2 : Req := { pair := 38, slot := 1 }
def ethTx0 (l : Nat) : EthTx := { req := port0, queue := 2, launch := l, data := frame64 }
def withEth (p : Nat) (e : EthSt) (s : State) : State := { s with fio := { s.fio with eths := [(p, e)] } }
/-- Ethernet port `p` is enabled. -/
def ethUp (p : Nat) (s : State) : State := setB (ethCfg p) 29 false (setB (ethCfg p) 31 true s)
def ethF : EthFrame := { badFcs := false, hsr := none, macsec := none, data := frame64 }
def gates0 : GateList := { baseSec := 0, baseNs := 0, entries := [(255, 1000)] }
def canF : CanFrame := { ident := 0x123, fd := false, brs := false, esi := false, remote := false, data := [1, 2] }
def can0 : Req := { pair := 42, slot := 1 }
def canTx0 : CanTx := { req := can0, tag := 9, frame := canF, deadline := 0, cancel := none }
def withCan (c : Nat) (x : CanSt) (s : State) : State := { s with fio := { s.fio with cans := [(c, x)] } }
/-- CAN channel `c` is on the bus and may transmit. -/
def canUp (c : Nat) (s : State) : State :=
  setB (canCfgReg c) 31 true { s with start := { s.start with outputsLive := true }, dup := { s.dup with state := .single } }
def canRx0 : CanRx := { ident := 0x123, alive := none, map := [(0, 2, 0)] }
def canN : CanNode := { ch := 0, node := 1, rx := [canRx0], tx := [{ ident := 0x200, fd := false, plant := none, map := [(0, 4)], wcttUs := 100 }], plant := none }
def matrix0 : Matrix := { baseUs := 1000, rows := 1, cols := 1, start := [0], cells := [some 0] }
def fw (v : Nat) : FwHeader := { version := v, pairLevel := 0, pairMin := 0, pverMin := 1, pverMax := 1, secVer := 0, sigOk := true }
def compo (t : CompType) : Component := { type := t, length := 300000, blocks := 2, version := 1, minFw := 0, digestOk := true, blockSums := [5, 6] }
def manif : Manifest := { formOk := true, site := true, cold := false, components := [compo .model], sigOk := true, size := 256 }
def cfgImg : ConfigImage := { sig := 8, mids := [], body := {} }
def bundle : KeyBundle :=
  { slots := [(2, 0x1000000, 5), (3, 0x1000000, 6), (4, 0x1000000, 7), (5, 0x1000000, 8), (6, 0x1000000, 9)], certOk := true, sigOk := true,
    senderSlot := 15, fingerprint := 4 }
def sync0 : SyncData :=
  { round := 8, phases := 0x5F463C23, anchor := none, claim := 0, sigs := (0, 0, 0), cfgSig := 0, sessions := [], sigmas := [], excluded := [],
    params := [], prices := [], weather := [], modes := [], history := [], district := 0, plan := none, loops := [], vars := [], timersAt := 0,
    overlay := [] }
def outs0 : OutSummary := { round := 8, phases := 0x5F463C23, structSig := 0, paramSig := 0, progSig := 0, fallback := false, stations := [], dio := 0, plants := [], loops := [] }
def lsample : LocalSample := { pulses := 0, currentUa := 0, tWarm := some 70000, tCool := some 40000 }
def por0 : PorIn := { slot := 1, present := true, baseMk := 20000, feedA := true, feedB := true, retDip := false, areaOk := true }
def stage0 : StageIn := { imageOk := true, bank0Ok := true, bank1Ok := true, badTasks := [], failedChannels := [], selfTestOk := true }
def ann : AnnounceMsg := { gmId := 5, gmClass := 6, accuracy := 0x20, port := 2, utcOffset := 37, utcValid := true, best := true }

/-! ### Frames of station 3 -/

def pHead (type epoch fseq round len : Nat) : Bytes :=
  [0x50, 0x59, 1] ++ be 1 type ++ [0, 3, 0, 0] ++ be 4 epoch ++ be 8 fseq ++ be 8 round ++ be 2 len ++ [0, 0]
/-- A frame of station 3 with a body as it stands on the wire and a tag. -/
def frm (type epoch fseq round : Nat) (body : Bytes) (tag : BitVec 128) : Frame :=
  { fragment := false, ipv4 := true, csumZero := false, data := pHead type epoch fseq round body.length ++ (body ++ be 16 tag.toNat), srcAddr := 1,
    srcPort := 4757, rxMon := 0 }
@[simp] theorem length_pHead (t e q r n : Nat) : (pHead t e q r n).length = 32 := by simp [pHead]
theorem frm_length {t e q r : Nat} {b : Bytes} {g : BitVec 128} (h : b.length < 65536) : (frm t e q r b g).length = b.length := by
  have e : slice (frm t e q r b g).data 28 2 = be 2 b.length := rfl
  unfold Frame.length beAt
  rw [e, unbe_be]
  exact Nat.mod_eq_of_lt h
theorem frm_body {t e q r : Nat} {b : Bytes} {g : BitVec 128} (h : b.length < 65536) : (frm t e q r b g).body = b := by
  unfold Frame.body slice
  rw [frm_length h]
  show ((pHead t e q r b.length ++ (b ++ be 16 g.toNat)).drop 32).take b.length = b
  rw [List.drop_append_of_le_length (by simp), List.drop_of_length_le (by simp)]
  simp
theorem frm_tag {t e q r : Nat} {b : Bytes} {g : BitVec 128} (h : b.length < 65536) : (frm t e q r b g).tag = g := by
  unfold Frame.tag beAt slice
  rw [frm_length h]
  have e : ((pHead t e q r b.length ++ (b ++ be 16 g.toNat)).drop (32 + b.length)).take 16 = be 16 g.toNat := by
    rw [← List.append_assoc, List.drop_append_of_le_length (by simp), List.drop_of_length_le (by simp)]
    exact List.take_of_length_le (by simp)
  show BitVec.ofNat 128 (unle (((pHead t _ q r b.length ++ (b ++ be 16 g.toNat)).drop (32 + b.length)).take 16).reverse) = g
  rw [e, unbe_be]
  refine BitVec.eq_of_toNat_eq ?_
  have := g.isLt
  simp only [BitVec.toNat_ofNat]; omega
theorem frm_hdr {t e q r : Nat} {b : Bytes} {g : BitVec 128} : frameHdr (frm t e q r b g) = pHead t e q r b.length := by
  show (pHead t e q r b.length ++ (b ++ be 16 g.toNat)).take 32 = _
  rw [List.take_append_of_le_length (by simp), List.take_of_length_le (by simp)]
theorem gcmText_twice (k n : Nat) (b : Bytes) : gcmText k n (gcmText k n b) = b := by
  unfold gcmText
  refine List.ext_getElem (by simp) fun i h g => ?_
  simp [BitVec.xor_assoc]
theorem length_gcmText (k n : Nat) (b : Bytes) : (gcmText k n b).length = b.length := by simp [gcmText]
/-- Station 3 is declared, enrolled at EPOCH 1 and in a session. -/
def stnUp (st : Sess) (r : StnRound) (s : State) : State :=
  keyedUp (withModel img { s with rnd := { s.rnd with stns := [(3, { state := st, epoch := 1, ns := some 1, nm := some 2, sps := 1, addr := 1, port := 4757, round := r })] },
                                  cfg := { s.cfg with stations := [(3, {})] } })
def sKey (st : Sess) (r : StnRound) (s : State) : Nat := keySession 3 1 1 2 (stnUp st r s)
/-- The body of a HELLO of a simple station with one sample per second. -/
def helloBody : Bytes := zeros 16 ++ [1, 0, 1, 0, 0, 0, 3, 0x84] ++ zeros 40
def helloS : State := setB 0x2C000 1 true (stnUp .dormant {} s0)
def helloF : Frame :=
  frm 1 1 0 0 helloBody (BitVec.ofNat 128 (Config.hmac (keyEnrol 3 helloS) (pHead 1 1 0 0 64 ++ helloBody) / 2 ^ 128))
/-- A session frame of station 3 on a state, with its body in clear. -/
def sessF (type fseq round : Nat) (body : Bytes) (s : State) : Frame :=
  frm type 1 fseq round (gcmText (keySession 3 1 1 2 s) (plynuNonce 0 fseq) body)
    (Config.gcmTag (keySession 3 1 1 2 s) (plynuNonce 0 fseq) (pHead type 1 fseq round body.length) body)
def readyS : State := stnUp .enrolling {} s0
def readS : State := { stnUp .active { listed := true, reads := 1 } s0 with rnd := { (stnUp .active { listed := true, reads := 1 } s0).rnd with number := 9, phase := .read } }
def writeS : State := { stnUp .active { wrOpen := true, writes := 1 } (alone s0) with rnd := { (stnUp .active { wrOpen := true, writes := 1 } s0).rnd with number := 9, phase := .write } }
/-- A READ_REP of a simple station with no samples. -/
def replyBody : Bytes := zeros 7 ++ [1] ++ zeros 76
def ackBody : Bytes := zeros 4 ++ [1] ++ zeros 11
theorem frameForm_of {f : Frame} (a : f.fragment = false) (b : f.ipv4 = true) (c : malformed f = false) (d : hdrBad f = false) : FrameForm f :=
  ⟨a, .inr b, c, d⟩
theorem sessKey_of {id a b : Nat} {s : State} (h : (stn id s).ns = some a) (g : (stn id s).nm = some b) (k : keyed s = true) :
    sessKey id s = some (keySession id (stn id s).epoch a b s) := by
  unfold sessKey; dsimp only; rw [h, g]; exact if_pos k
/-- A session frame passes the checks of its session. -/
theorem sessionOk_of {type fseq round : Nat} {b : Bytes} {s : State} (hb : b.length < 65536) (h3 : (sessF type fseq round b s).station = 3)
    (he : (sessF type fseq round b s).epoch = 1) (hs : (sessF type fseq round b s).sender = 0) (hq : (sessF type fseq round b s).fseq = fseq)
    (hr : rndRuns s = true) (hd : (stnDecl 3 s).isSome = true) (hx : (stn 3 s).epoch = 1 ∧ (stn 3 s).ns = some 1 ∧ (stn 3 s).nm = some 2)
    (hk : keyed s = true) (hst : (stn 3 s).state ≠ .retired ∧ (stn 3 s).state ≠ .dormant ∧ (stn 3 s).state ≠ .lost)
    (hh : (stn 3 s).hiSeq = 0) (hw : (stn 3 s).window = []) : SessionOk (sessF type fseq round b s) b s where
  runs := hr
  known := by rw [h3]; exact hd
  state := by rw [h3]; exact hst
  epoch := by rw [h3, he, hx.1]
  welcome := by rw [h3, hx.2.2]; rfl
  tag := by
    rw [h3, hs, hq]
    refine ⟨keySession 3 1 1 2 s, by rw [sessKey_of hx.2.1 hx.2.2 hk, hx.1], ?_, ?_⟩
    · unfold sessF; rw [frm_body (by rw [length_gcmText]; exact hb), gcmText_twice]
    · unfold sessF; rw [frm_tag (by rw [length_gcmText]; exact hb), frm_hdr, length_gcmText]
  recent := by rw [h3, hh]; omega
  fresh := by rw [h3, hw]; rfl
def work0 (st : SepStage) : SepWork :=
  { stage := st, opened := 0, fixed := [], q := [5], p := [], set := [0], shut := [(false, 0)], source := [0], meas := [], qtol := 1, ptol := 1 }
/-- The standby of a pair that may take control. -/
def standbyS : State :=
  keyedUp { duo .standby s0 with dup := { state := .standby, linkUp := true, synced := true, closedAt := some 0, peerSigs := some (0, 0, 0), peer := some hdr } }
def fwd0 : Fwd := { op := .forceCycle, req := some rq, len := 4, mon := 0 }
def unack0 : Unacked := { mseq := 7, type := 4, body := .take, first := 0, last := 0 }
/-- No source of the collector has the BLK reaction. -/
def calmS : State := (List.range 224).foldl (fun s n => setB (0x08400 + 4 * n) 29 false s) s0
/-- MON stands at `n` ns. -/
def atMon (n : Nat) (s : State) : State := { s with tim := { s.tim with mon := n } }
/-- Start-up is past stage 3, so that the host reaches the module. -/
def up (s : State) : State := atStage 5 s
/-- A state in which the descriptor in slot 3 of a pair asks for an operation. -/
def asksAt (p : Nat) (c : Cmd) (s : State) : State := putRing p { cmds := [c] } s
def rqs (p : Nat) : Req := { pair := p, slot := 3 }
def gcmC : Cmd := bufp 0xC14 ([16, 0, 0, 0] ++ be 12 1 ++ le 4 1 ++ zeros 4 ++ le 8 4096) [1, 2, 3]
def hmacC : Cmd := bufp 0xC15 ([16] ++ zeros 23 ++ le 8 4096) [1, 2, 3]
/-- The bytes of a loop record of level 1 whose process value is an image word (R274). -/
def loopB (n : Nat) : Bytes :=
  le 2 n ++ [1, 0] ++ le 2 1 ++ zeros 6 ++ [1] ++ zeros 35 ++ le 4 0 ++ le 4 100 ++ le 4 0 ++ le 4 100 ++ zeros 4 ++ le 4 20 ++ zeros 24
/-- The bytes of a coefficient record (R275). -/
def coefB (n : Nat) (swap : Bool) : Bytes :=
  le 2 n ++ [if swap then 1 else 0, 0] ++ le 4 1 ++ zeros 8 ++ le 2 5 ++ zeros 18 ++ le 4 100 ++ zeros 8
/-- The bytes of a trace record (R279). -/
def traceB (u : Nat) : Bytes := le 1 u ++ zeros 3 ++ le 4 1 ++ le 4 16 ++ zeros 8 ++ le 4 1 ++ zeros 8
/-- Broadcast frames: one of an unknown content and a request for an IPv4 address. -/
def bcast : Bytes := List.replicate 6 0xFF ++ zeros 6 ++ [0x08, 0x00] ++ zeros 50
def arpB (ip : Nat) : Bytes := List.replicate 6 0xFF ++ zeros 6 ++ [8, 6] ++ zeros 6 ++ [0, 1] ++ zeros 16 ++ be 4 ip ++ zeros 18
def gatesB : Bytes := zeros 12 ++ le 4 1 ++ [255, 0, 0, 0] ++ le 4 1000
def txC : Cmd := bufp 0x0810 (zeros 8 ++ [7]) frame64
def canB : Bytes := le 4 0x123 ++ [0, 2, 0, 0] ++ [1, 2]
def matrixB : Bytes := le 4 1000 ++ [1, 1] ++ zeros 10 ++ le 4 0 ++ [0]
/-- A manifest of one firmware component of two blocks, and its bytes (R524). -/
def manifB : Bytes :=
  [0x44, 0x5A, 0x4D, 0x46] ++ le 2 1 ++ le 2 1 ++ zeros 24 ++ le 4 1 ++ le 4 300000 ++ le 4 2 ++ le 4 1 ++ zeros 32 ++ zeros 32 ++ zeros 64
def manifC : Cmd := bufp 0x0B10 [0] manifB
def blockC : Cmd := bufp 0x0B11 (le 4 0 ++ le 4 1) (zeros 100)

/-! ## Witnesses of the completion statements, one part for each clause that has hypotheses -/

theorem wit_FaultCommandsComplete :
    (∃ s : State, ∃ n : Nat, s.pwr.on = true ∧ 17 ≤ n ∧ n ≤ 35 ∧ n ≠ 34) ∧
    (∃ s : State, ∃ n, s.pwr.on = true ∧ 16 ≤ n ∧ n ≤ 33) ∧
    (∃ s : State, s.pwr.on = true ∧ s.fco.stopped = false) ∧
    (∃ s : State, ∃ n : Nat, s.pwr.on = true ∧ 48 ≤ n ∧ n ≤ 50 ∧ fld (srcCfg n s) 23 16 ≤ 1) ∧
    (∃ s : State, ∃ n : Nat, s.pwr.on = true ∧ ((51 ≤ n ∧ n ≤ 55) ∨ (80 ≤ n ∧ n ≤ 94)) ∧ fld (srcCfg n s) 23 16 ≤ 1) ∧
    (∃ s : State, ∃ n : Nat, s.pwr.on = true ∧ (srcRow n).level = true ∧ n ≠ 16 ∧ n ≠ 34) ∧
    (∃ s : State, ∃ v : Word, s.pwr.on = true ∧ fld v 31 16 = 0x5A3C ∧ (srcRow (fld v 7 0)).known = true ∧ fld v 7 0 < 224 ∧ Answers 0x08010 s ∧ fld (srcCfg (fld v 7 0) s) 23 16 ≤ 1) ∧
    (∃ s : State, ∃ n : Nat, ∃ m, s.pwr.on = true ∧ tget s.fco.forced n = some m ∧ m ≤ s.tim.mon) ∧
    (∃ s : State, ∃ w : Nat, ∃ v : Word, ∃ b, s.pwr.on = true ∧ w < 7 ∧ b < 32 ∧ bitAt v b = true ∧ Answers (0x08020 + 4 * w) s ∧ (srcRow (32 * w + b)).level = false) ∧
    (∃ s : State, ∃ n : Nat, s.pwr.on = true ∧ windowOpen n s = false) ∧
    (∃ s : State, ∃ r : ScanResult, s.pwr.on = true ∧ r ≠ .ok ∧ fld (srcCfg 192 s) 23 16 ≤ 1) :=
  ⟨⟨s0, 17, by decide +kernel⟩,
   ⟨s0, 16, by decide +kernel⟩,
   ⟨s0, by decide +kernel⟩,
   ⟨s0, 48, by decide +kernel⟩,
   ⟨s0, 94, by decide +kernel⟩,
   ⟨s0, 64, by decide +kernel⟩,
   ⟨s0, 0x5A3C0040, by decide +kernel, by decide +kernel, by decide +kernel, by decide +kernel, by unfold Answers; decide +kernel, by decide +kernel⟩,
   ⟨{s0 with fco := {forced := [(64,0)]}}, 64, 0, by decide +kernel⟩,
   ⟨s0, 1, 0x10000, 16, by decide +kernel, by decide +kernel, by decide +kernel, by decide +kernel, by unfold Answers; decide +kernel, by decide +kernel⟩,
   ⟨s0, 5, by decide +kernel⟩,
   ⟨s0, .copies, by decide +kernel⟩⟩
theorem wit_RecorderCommandsComplete :
    (∃ s : State, ∃ c : Nat, s.pwr.on = true ∧ onMultiple (getF (0x0B000 + 4 * c) 15 8 s * 10000000) (tgetD s.evr.refillAt c 0) s.tim.mon = true) ∧
    (∃ s : State, s.pwr.on = true ∧ s.evr.flushAt + 10000000 ≤ s.tim.mon ∧ s.evr.noRoom = 0 ∧ s.evr.log.length + s.evr.staged.length ≤ logSize) ∧
    (∃ s : State, ∃ q : Seq, s.pwr.on = true ∧ s.pwr.seq = some q) ∧
    (∃ s : State, s.pwr.on = true ∧ Answers 0x0A044 s) ∧
    (∃ s : State, ∃ who : Requester, ∃ e, ∃ l, s.pwr.on = true ∧ reaches who s = true ∧ Answers 0x0A060 s ∧ findEvt s.evr.cursor s = some e ∧ (s.evr.log ++ s.evr.staged).getLast? = some l ∧ s.evr.cursor ≤ l.seq) ∧
    (∃ s : State, ∃ who : Requester, s.pwr.on = true ∧ reaches who s = true ∧ Answers 0x0A07C s) ∧
    (∃ s : State, ∃ r : Req, ∃ b, s.pwr.on = true ∧ Inline r 0x0D10 8 b s ∧ leAt b 0 8 ≤ s.evr.newest) :=
  ⟨⟨atMon 20000000 (setReg 0x0B014 0x00000210 {s0 with evr := {spent := [(5, 1)]}}), 5, by decide +kernel⟩,
   ⟨atMon 10000000 {s0 with evr := {staged := [evt0]}}, by decide +kernel⟩,
   ⟨{s0 with pwr := {seq := some {why := .holdup .powerFail}}}, ({why := .holdup .powerFail} : Seq), by decide +kernel⟩,
   ⟨s0, by decide +kernel, by unfold Answers; decide +kernel⟩,
   ⟨up {s0 with evr := {log := [evt0], cursor := 1}}, .host, evt0, evt0, by decide +kernel, by decide +kernel, by unfold Answers; decide +kernel, by decide +kernel, by decide +kernel, by decide +kernel⟩,
   ⟨up s0, .host, by decide +kernel, by decide +kernel, by unfold Answers; decide +kernel⟩,
   ⟨asks (inl 0x0D10 (zeros 8)) s0, rq, zeros 8, by decide +kernel, .intro (inl 0x0D10 (zeros 8)) (by unfold Held; decide +kernel), by decide +kernel⟩⟩
theorem wit_CounterCommandsComplete :
    (∃ s : State, s.pwr.on = true ∧ Answers 0x0C000 s) ∧
    (∃ s : State, s.pwr.on = true ∧ Answers 0x0C000 s) ∧
    (∃ s : State, s.pwr.on = true ∧ onMultiple (getF 0x0C004 15 0 s * 1000000) s.pmc.lastAt s.tim.mon = true) ∧
    (∃ s : State, ∃ r : Req, ∃ b, s.pwr.on = true ∧ Inline r 0x0D20 4 b s ∧ leAt b 0 4 = 0) ∧
    (∃ s : State, ∃ k : Nat, ∃ v : Word, s.pwr.on = true ∧ k < 32 ∧ Answers (0x0C100 + 4 * k) s ∧ fld v 7 0 ≤ 0x9F) ∧
    (∃ s : State, ∃ p : Nat, ∃ v : Word, s.pwr.on = true ∧ p < 5 ∧ Answers (0x0C600 + 0x20 * p) s ∧ fld v 15 0 ≠ 0 ∧ fld v 15 0 ≤ 60000) ∧
    (∃ s : State, ∃ p : Nat, s.pwr.on = true ∧ p < 5 ∧ getB (0x0C600 + 0x20 * p) 31 s = true ∧ onMultiple (getF (0x0C600 + 0x20 * p) 15 0 s * 1000000) (tgetD s.pmc.bw p {}).at_ s.tim.mon = true ∧ (tgetD s.pmc.bw p {}).running = true) ∧
    (∃ s : State, ∃ who : Requester, ∃ p : Nat, s.pwr.on = true ∧ p < 5 ∧ reaches who s = true ∧ Answers (0x0C604 + 0x20 * p) s) :=
  ⟨⟨s0, by decide +kernel, by unfold Answers; decide +kernel⟩,
   ⟨s0, by decide +kernel, by unfold Answers; decide +kernel⟩,
   ⟨atMon 5000000 (setReg 0x0C004 5 s0), by decide +kernel⟩,
   ⟨asks (inl 0x0D20 (zeros 4)) s0, rq, zeros 4, by decide +kernel, .intro (inl 0x0D20 (zeros 4)) (by unfold Held; decide +kernel), by decide +kernel⟩,
   ⟨s0, 31, 0x8000009F, by decide +kernel, by decide +kernel, by unfold Answers; decide +kernel, by decide +kernel⟩,
   ⟨s0, 4, 0x8000EA60, by decide +kernel, by decide +kernel, by unfold Answers; decide +kernel, by decide +kernel, by decide +kernel⟩,
   ⟨atMon 5000000 (setReg 0x0C600 0x80000005 {s0 with pmc := {bw := [(0,{running := true, tx := 5})]}}), 0, by decide +kernel⟩,
   ⟨up s0, .host, 0, by decide +kernel, by decide +kernel, by decide +kernel, by unfold Answers; decide +kernel⟩⟩
theorem wit_RingCommandsComplete :
    (∃ s : State, ∃ pair : Nat, ∃ v : Word, s.pwr.on = true ∧ pair < 60 ∧ ownedInside pair s = false ∧ .hif ∉ s.start.blkRst ∧ ringOn pair s = false ∧ ringIdle pair s = true ∧ bitAt v 2 = false ∧ within (fld (v ||| 1) 15 12) 4 0xC = true ∧ within (fld (v ||| 1) 11 8) 4 0xC = true ∧ getF (ringReg pair 0) 11 0 s = 0 ∧ getF (ringReg pair 8) 11 0 s = 0) ∧
    (∃ s : State, ∃ pair : Nat, s.pwr.on = true ∧ pair < 60 ∧ .hif ∉ s.start.blkRst ∧ ringOn pair s = true ∧ ownedInside pair s = false) ∧
    (∃ s : State, ∃ r : Req, s.pwr.on = true ∧ (ring r.pair s).disabling = true ∧ ((∀ j ∈ s.chu.queue ++ s.chu.r0.toList ++ s.chu.rh.toList, j.req ≠ some r))) ∧
    (∃ s : State, s.pwr.on = true ∧ .hif ∉ s.start.blkRst ∧ ownedInside 0 s = true ∧ lockOf .hif s = false ∧ (ring 0 s).cmds = []) ∧
    (∃ s : State, s.pwr.on = true ∧ .hif ∉ s.start.blkRst ∧ ownedInside 0 s = false ∧ lockOf .hif s = false ∧ ringOn 0 s = false ∧ ringIdle 0 s = true) ∧
    (∃ s : State, ∃ pair : Nat, ∃ v : Word, s.pwr.on = true ∧ pair < 60 ∧ doorbellOk pair s = true ∧ v.toNat < subSize pair s) ∧
    (∃ s : State, ∃ pair : Nat, ∃ v : Word, s.pwr.on = true ∧ pair < 60 ∧ doorbellOk pair s = true ∧ v.toNat < cmpSize pair s ∧ (v.toNat + cmpSize pair s - (ring pair s).cmpHead) % cmpSize pair s ≤ ((ring pair s).cmpTail + cmpSize pair s - (ring pair s).cmpHead) % cmpSize pair s) ∧
    (∃ s : State, ∃ pair : Nat, s.pwr.on = true ∧ pair < 60 ∧ doorbellOk pair s = true ∧ (ring pair s).cmpTail = (ring pair s).cmpHead) :=
  ⟨⟨s0, 59, 0xC4F0, by decide +kernel⟩,
   ⟨pairOn 4 s0, 4, by decide +kernel⟩,
   ⟨putRing 4 {disabling := true} s0, rq, by decide +kernel⟩,
   ⟨setReg (ringReg 0 0x10) 0x4405 s0, by decide +kernel⟩,
   ⟨setReg (ringReg 0 0x10) 0x4400 s0, by decide +kernel⟩,
   ⟨pairOn 4 s0, 4, 15, by decide +kernel⟩,
   ⟨putRing 4 {cmpTail := 5} (pairOn 4 s0), 4, 5, by decide +kernel⟩,
   ⟨pairOn 4 s0, 4, by decide +kernel⟩⟩
theorem wit_DescriptorCommandsComplete :
    (∃ s : State, ∃ pair : Nat, s.pwr.on = true ∧ mayFetch pair s = true) ∧
    (∃ s : State, ∃ pair : Nat, s.pwr.on = true ∧ mayFetch pair s = true) ∧
    (∃ s : State, ∃ pair : Nat, ∃ i, ∃ c, s.pwr.on = true ∧ pairBlocked pair s = false ∧ startable 0 (ring pair s).cmds = some i ∧ (ring pair s).cmds[i]? = some c ∧ 0 < freeSlots pair s ∧ descCheck pair s.start.recovery c.desc s.tim.mon = none) ∧
    (∃ s : State, ∃ pair : Nat, ∃ c, ∃ cs, s.pwr.on = true ∧ (ring pair s).posts = c :: cs ∧ postCheck pair c.desc = none) ∧
    (∃ s : State, ∃ pair : Nat, s.pwr.on = true ∧ (ring pair s).unsig ≠ 0 ∧ (ring pair s).oldest + getF (ringReg pair 0x14) 31 16 s * 1000 ≤ s.tim.mon ∧ (ring pair s).armed = true) ∧
    (∃ s : State, ∃ v : Nat, s.pwr.on = true ∧ v ∈ s.hif.spaced ∧ ((∀ m, tget s.hif.lastMsg v = some m → m + 100000 ≤ s.tim.mon)) ∧ s.hif.msixOn = true ∧ linkOk s = true ∧ vecMasked v s = false) ∧
    (∃ s : State, ∃ v, s.pwr.on = true ∧ v < 64) ∧
    (∃ s : State, s.pwr.on = true) ∧
    (∃ s : State, s.pwr.on = true ∧ s.hif.busMaster = true) :=
  ⟨⟨putRing 4 {subTail := 1} (pairOn 4 s0), 4, by decide +kernel⟩,
   ⟨putRing 4 {subTail := 1} (pairOn 4 s0), 4, by decide +kernel⟩,
   ⟨putRing 1 {cmds := [cmd0 0x0110]} (pairOn 1 s0), 1, 0, cmd0 0x0110, by decide +kernel⟩,
   ⟨putRing 46 {posts := [cmd0 1]} (pairOn 46 s0), 46, cmd0 1, [], by decide +kernel⟩,
   ⟨atMon 0xFFFF000 (putRing 4 {unsig := 3, armed := true} s0), 4, by decide +kernel⟩,
   ⟨{s0 with hif := {spaced := [0], msixOn := true, linkUp := true, busMaster := true}}, 0, by decide +kernel, by decide +kernel, (fun m h => by cases h), by decide +kernel, by decide +kernel, by decide +kernel⟩,
   ⟨s0, 63, by decide +kernel⟩,
   ⟨s0, by decide +kernel⟩,
   ⟨link s0, by decide +kernel⟩⟩
theorem wit_LinkCommandsComplete :
    (∃ s : State, s.pwr.on = true) ∧
    (∃ s : State, ∃ speed : Nat, ∃ width : Nat, s.pwr.on = true ∧ 1 ≤ speed ∧ speed ≤ 3 ∧ (width = 1 ∨ width = 2 ∨ width = 4)) ∧
    (∃ s : State, ∃ a, s.pwr.on = true ∧ 0x03000 ≤ a ∧ a < 0x04000) ∧
    (∃ s : State, ∃ a, s.pwr.on = true ∧ 0x03000 ≤ a ∧ a < 0x04000) :=
  ⟨⟨s0, by decide +kernel⟩,
   ⟨s0, 3, 4, by decide +kernel⟩,
   ⟨s0, 0x03000, by decide +kernel⟩,
   ⟨s0, 0x03FFF, by decide +kernel⟩⟩
theorem wit_TimeCommandsComplete :
    (∃ s : State, ∃ ofs : Int, s.pwr.on = true ∧ s.tim.slave ≠ 0 ∧ s.tim.acceptNext = false ∧ s.tim.stepPend = false ∧ overLimit ofs s = false ∧ 100000 < ofs.natAbs) ∧
    (∃ s : State, ∃ ofs : Int, s.pwr.on = true ∧ s.tim.slave ≠ 0 ∧ s.tim.acceptNext = false ∧ s.tim.stepPend = false ∧ overLimit ofs s = true) ∧
    (∃ s : State, ∃ m : AnnounceMsg, s.pwr.on = true ∧ m.best = true ∧ ptpPort m.port s = true ∧ m.gmId.toNat ∉ s.tim.rejects) ∧
    (∃ s : State, s.pwr.on = true) ∧
    (∃ s : State, s.pwr.on = true) ∧
    (∃ s : State, s.pwr.on = true) ∧
    (∃ s : State, ∃ v : Word, s.pwr.on = true ∧ Answers 0x04100 s ∧ (if v.toNat * 2 ^ 32 + (getReg 0x04104 s).toNat < 8589934592 then 8589934592 - (v.toNat * 2 ^ 32 + (getReg 0x04104 s).toNat) else v.toNat * 2 ^ 32 + (getReg 0x04104 s).toNat - 8589934592) * 1000000 ≤ 200 * 8589934592) ∧
    (∃ s : State, ∃ r : Req, ∃ b, s.pwr.on = true ∧ Inline r 0x0F30 4 b s ∧ leAt b 0 4 = 0 ∧ duplex s = false ∧ s.tim.stepPend = true) ∧
    (∃ s : State, ∃ r : Req, ∃ b, ∃ g, s.pwr.on = true ∧ Inline r 0x0F31 4 b s ∧ leAt b 0 4 = 0 ∧ duplex s = false ∧ s.tim.stepPend = true ∧ s.tim.gm = some g) ∧
    (∃ s : State, ∃ r : Req, ∃ b, ∃ u, ∃ ns, s.pwr.on = true ∧ Inline r 0x0F32 16 b s ∧ leAt b 0 8 = u ∧ leAt b 8 4 = ns ∧ leAt b 0xC 4 = 1 ∧ ns < sec ∧ duplex s = false ∧ s.tim.quality ≠ .sync) :=
  ⟨⟨{s0 with tim := {slave := 1}}, 200000, by decide +kernel⟩,
   ⟨setReg 0x04004 0x00010001 {s0 with tim := {slave := 1, quality := .sync}}, 2000000, by decide +kernel⟩,
   ⟨setReg 0x38480 0x82000000 s0, ann, by decide +kernel⟩,
   ⟨s0, by decide +kernel⟩,
   ⟨s0, by decide +kernel⟩,
   ⟨s0, by decide +kernel⟩,
   ⟨setReg 0x04104 0 s0, 2, by decide +kernel, by unfold Answers; decide +kernel, by decide +kernel⟩,
   ⟨asks (inl 0x0F30 (zeros 4)) {s0 with tim := {stepPend := true}}, rq, zeros 4, by decide +kernel, .intro (inl 0x0F30 (zeros 4)) (by unfold Held; decide +kernel), by decide +kernel, by decide +kernel, by decide +kernel⟩,
   ⟨asks (inl 0x0F31 (zeros 4)) {s0 with tim := {stepPend := true, gm := some 5, slave := 1}}, rq, zeros 4, 5, by decide +kernel, .intro (inl 0x0F31 (zeros 4)) (by unfold Held; decide +kernel), by decide +kernel, by decide +kernel, by decide +kernel, by decide +kernel⟩,
   ⟨asks (inl 0x0F32 (le 8 1000 ++ le 4 5 ++ le 4 1)) s0, rq, le 8 1000 ++ le 4 5 ++ le 4 1, 1000, 5, by decide +kernel, .intro (inl 0x0F32 (le 8 1000 ++ le 4 5 ++ le 4 1)) (by unfold Held; decide +kernel), by decide +kernel, by decide +kernel, by decide +kernel, by decide +kernel, by decide +kernel, by decide +kernel⟩⟩
theorem wit_BackupCommandsComplete :
    (∃ s : State, ∃ r : Req, ∃ b, s.pwr.on = true ∧ Inline r 0x0F33 16 b s ∧ leAt b 0 1 = 0) ∧
    (∃ s : State, ∃ r : Req, ∃ b, s.pwr.on = true ∧ Inline r 0x0F34 16 b s ∧ leAt b 8 4 ≤ 86400) ∧
    (∃ s : State, s.pwr.on = true ∧ s.tim.quality = .sync ∧ ((∀ m, s.tim.cmpAt = some m → m + 60 * sec ≤ s.tim.mon)) ∧ 500000000 < ((legNs s : Int) - s.tim.rtc).natAbs) ∧
    (∃ s : State, s.pwr.on = true ∧ s.tim.alarm ≠ 0 ∧ s.tim.alarm ≤ s.tim.rtc / sec) ∧
    (∃ s : State, s.pwr.on = true ∧ s.tim.period ≠ 0 ∧ s.tim.lastWake < s.tim.rtc / sec / s.tim.period * s.tim.period) ∧
    (∃ s : State, ∃ k : Nat, s.pwr.on = true ∧ k < 4 ∧ getB (0x04200 + 0x20 * k) 31 s = true ∧ getF (0x04200 + 0x20 * k) 30 29 s % 2 = 1 ∧ getB (0x04218 + 0x20 * k) 0 s = false) ∧
    (∃ s : State, ∃ k : Nat, s.pwr.on = true ∧ k < 4 ∧ launchLive k s = true ∧ tget s.tim.launched k = none ∧ getB (0x04300 + 0x10 * k) 30 s = true ∧ launchStart k s ≤ s.tim.net ∧ (s.tim.net - launchStart k s) % launchPeriod k s ≤ 4) ∧
    (∃ s : State, ∃ c : Nat, s.pwr.on = true ∧ measureDue s = true ∧ getB 0x06024 1 s = true ∧ c < 2600) :=
  ⟨⟨asks (inl 0x0F33 (zeros 8 ++ le 8 1000)) s0, rq, zeros 8 ++ le 8 1000, by decide +kernel, .intro (inl 0x0F33 (zeros 8 ++ le 8 1000)) (by unfold Held; decide +kernel), by decide +kernel⟩,
   ⟨asks (inl 0x0F34 (le 8 100 ++ le 4 86400 ++ zeros 4)) s0, rq, le 8 100 ++ le 4 86400 ++ zeros 4, by decide +kernel, .intro (inl 0x0F34 (le 8 100 ++ le 4 86400 ++ zeros 4)) (by unfold Held; decide +kernel), by decide +kernel⟩,
   ⟨{s0 with tim := {quality := .sync, net := 600000000}}, by decide +kernel, by decide +kernel, (fun m h => by cases h), by decide +kernel⟩,
   ⟨{s0 with tim := {rtc := 5000000000, alarm := 5}}, by decide +kernel⟩,
   ⟨{s0 with tim := {rtc := 5000000000, period := 2}}, by decide +kernel⟩,
   ⟨regs [(0x04200, 0xA0000000)] s0, 0, by decide +kernel⟩,
   ⟨regs [(0x04300, 0xC0000000), (0x04308, 5), (0x38100, 0x8000)] {alone s0 with start := {outputsLive := true}}, 0, by decide +kernel⟩,
   ⟨setReg 0x06024 2 s0, 2599, by decide +kernel⟩⟩
theorem wit_KeyCommandsComplete :
    (∃ s : State, ∃ l : List Nat, ∃ n, s.pwr.on = true ∧ n ∈ l ∧ n < 64 ∧ n ≠ 8 ∧ n ≠ 9 ∧ slotState n s ≠ 0) ∧
    (∃ s : State, ∃ x : TamperSource, tamperArmed x s = true) ∧
    (∃ s : State, ∃ r : Req, ∃ b, s.pwr.on = true ∧ Inline r 0x0C13 4 b s ∧ leAt b 0 4 = 0x5A3C) ∧
    (∃ s : State, s.pwr.on = true ∧ Answers 0x48008 s) ∧
    (∃ s : State, ∃ r : Req, ∃ c, s.pwr.on = true ∧ Held r 0x0C10 c s ∧ 512 ≤ c.desc.length ∧ s.kst.cert.length ≤ c.desc.length) ∧
    (∃ s : State, ∃ r : Req, ∃ c, ∃ n, s.pwr.on = true ∧ Held r 0x0C11 c s ∧ 64 ≤ c.desc.length ∧ leAt c.desc.param 0 1 = n ∧ n < 64 ∧ (getF (0x48100 + 4 * n) 27 24 s = 3 ∨ getF (0x48100 + 4 * n) 27 24 s = 4) ∧ (n < 2 ∨ keyed s = true) ∧ slotState n s ≠ 2) ∧
    (∃ s : State, ∃ r : Req, ∃ c, ∃ n, ∃ nonce, ∃ k, ∃ out, ∃ b : Bytes, s.pwr.on = true ∧ Held r 0x0C14 c s ∧ Reads c b ∧ leAt c.desc.param 0 1 = n ∧ leAt c.desc.param 1 1 = 0 ∧ beAt c.desc.param 4 12 = nonce ∧ leAt c.desc.param 0x10 4 = k ∧ leAt c.desc.param 0x18 8 = out ∧ userSlotCheck n 0 s = none ∧ k ≤ b.length) ∧
    (∃ s : State, ∃ r : Req, ∃ c, ∃ n, ∃ out, ∃ b : Bytes, s.pwr.on = true ∧ Held r 0x0C15 c s ∧ Reads c b ∧ leAt c.desc.param 0 1 = n ∧ leAt c.desc.param 0x18 8 = out ∧ userSlotCheck n 1 s = none) ∧
    (∃ s : State, s.pwr.on = true ∧ keyed s = false ∧ duplex s = true ∧ getB 0x384C4 0 s = true ∧ .dup ∉ s.start.blkRst ∧ cageOn 3 s = true ∧ ((∀ m, s.kst.helloAt = some m → m + 1000000000 ≤ s.tim.mon))) :=
  ⟨⟨slots [7] s0, [7, 7], 7, by decide +kernel⟩,
   ⟨setReg 0x48008 7 (keyedUp s0), .environment, by decide +kernel⟩,
   ⟨asks (inl 0x0C13 (le 4 0x5A3C)) (keyedUp s0), rq, le 4 0x5A3C, by decide +kernel, .intro (inl 0x0C13 (le 4 0x5A3C)) (by unfold Held; decide +kernel), by decide +kernel⟩,
   ⟨s0, by decide +kernel, by unfold Answers; decide +kernel⟩,
   ⟨asks (buf 0x0C10 (zeros 512)) s0, rq, buf 0x0C10 (zeros 512), by decide +kernel, by unfold Held; decide +kernel, by decide +kernel, by decide +kernel⟩,
   ⟨asks (buf 0x0C11 (zeros 64)) (setReg 0x48100 0x43000000 s0), rq, buf 0x0C11 (zeros 64), 0, by decide +kernel, by unfold Held; decide +kernel, by decide +kernel, by decide +kernel, by decide +kernel, by decide +kernel, by decide +kernel, by decide +kernel⟩,
   ⟨asks gcmC (setReg 0x48140 0x40000100 (keyedUp s0)), rq, gcmC, 16, 1, 1, 4096, [1, 2, 3], by decide +kernel, by unfold Held; decide +kernel, by unfold Reads; decide +kernel, by decide +kernel, by decide +kernel, by decide +kernel, by decide +kernel, by decide +kernel, by decide +kernel, by decide +kernel⟩,
   ⟨asks hmacC (setReg 0x48140 0x40000200 (keyedUp s0)), rq, hmacC, 16, 4096, [1, 2, 3], by decide +kernel, by unfold Held; decide +kernel, by unfold Reads; decide +kernel, by decide +kernel, by decide +kernel, by decide +kernel⟩,
   ⟨setReg 0x384C4 1 (duo .init s0), by decide +kernel, by decide +kernel, by decide +kernel, by decide +kernel, by decide +kernel, by decide +kernel, (fun m h => by cases h)⟩⟩
theorem wit_StationCommandsComplete :
    (∃ s : State, ∃ f : Frame, ∃ d, s.pwr.on = true ∧ FrameForm f ∧ f.type = 1 ∧ stnDecl f.station s = some d ∧ (stn f.station s).state ≠ .retired ∧ keyed s = true ∧ rndRuns s = true ∧ f.tag = BitVec.ofNat 128 (Config.hmac (keyEnrol f.station s) (frameHdr f ++ f.body) / 2 ^ 128) ∧ helloBad f.body = false ∧ helloRefused f d s = none ∧ f.epoch ≠ 0) ∧
    (∃ s : State, ∃ f : Frame, s.pwr.on = true ∧ FrameForm f ∧ SessionOk f (zeros 8) s ∧ f.type = 4) ∧
    (∃ s : State, ∃ f : Frame, ∃ b, s.pwr.on = true ∧ FrameForm f ∧ SessionOk f b s ∧ f.type = 0x11 ∧ f.round = s.rnd.number ∧ s.rnd.phase = .read ∧ f.rxMon < boundary 7 0 s ∧ (stn f.station s).round.reply = none ∧ readRepBad (stn f.station s) b s = false) ∧
    (∃ s : State, ∃ f : Frame, ∃ b, s.pwr.on = true ∧ FrameForm f ∧ SessionOk f b s ∧ f.type = 0x21 ∧ f.round = s.rnd.number ∧ s.rnd.phase = .write ∧ f.rxMon < boundary 31 24 s ∧ (stn f.station s).round.written = false ∧ (stn f.station s).round.wrOpen = true ∧ writeAckBad b = false) ∧
    (∃ s : State, ∃ id : Nat, s.pwr.on = true ∧ s.rnd.phase = .read ∧ (stn id s).round.listed = true ∧ (stn id s).round.reply = none ∧ 1 ≤ (stn id s).round.reads ∧ (stn id s).round.reads ≤ getF 0x2C008 3 0 s ∧ retryDue (stn id s) s = true ∧ s.tim.mon < boundary 7 0 s ∧ rndRuns s = true ∧ (sessKey id s).isSome = true) ∧
    (∃ s : State, ∃ id : Nat, s.pwr.on = true ∧ s.rnd.phase = .write ∧ (stn id s).round.wrOpen = true ∧ (stn id s).round.written = false ∧ 1 ≤ (stn id s).round.writes ∧ (stn id s).round.writes ≤ getF 0x2C008 3 0 s ∧ retryDue (stn id s) s = true ∧ s.tim.mon < boundary 31 24 s ∧ rndRuns s = true ∧ (sessKey id s).isSome = true ∧ sendsCommands s = true) ∧
    (∃ s : State, ∃ r : Req, ∃ b, ∃ id, s.pwr.on = true ∧ Inline r 0x0610 4 b s ∧ leAt b 0 2 = id ∧ inGroup r id s = true ∧ duplex s = false ∧ (stn id s).state ≠ .retired) ∧
    (∃ s : State, ∃ r : Req, ∃ b, ∃ id, s.pwr.on = true ∧ Inline r 0x0611 4 b s ∧ leAt b 0 2 = id ∧ inGroup r id s = true ∧ duplex s = false ∧ (stn id s).state = .retired ∧ (stnDecl id s).isSome = true) ∧
    (∃ s : State, ∃ r : Req, ∃ c, ∃ id, s.pwr.on = true ∧ Held r 0x0612 c s ∧ descInl c.desc = false ∧ 64 ≤ c.desc.length ∧ leAt c.desc.param 0 2 = id ∧ inGroup r id s = true ∧ ((stn id s).state = .active ∨ (stn id s).state = .suspect)) :=
  ⟨⟨helloS, helloF, stnD 3, by decide +kernel, by apply frameForm_of <;> decide +kernel, by decide +kernel, by decide +kernel, by decide +kernel, by decide +kernel, by decide +kernel, (by unfold helloF; rw [frm_tag (by decide +kernel), frm_hdr, frm_body (by decide +kernel)]; rfl), (by unfold helloF; rw [frm_body (by decide +kernel)]; decide +kernel), (by decide +kernel), by decide +kernel⟩,
   ⟨readyS, sessF 4 1 0 (zeros 8) readyS, by decide +kernel, by apply frameForm_of <;> decide +kernel, by apply sessionOk_of <;> decide +kernel, by decide +kernel⟩,
   ⟨readS, sessF 0x11 1 9 replyBody readS, replyBody, by decide +kernel, by apply frameForm_of <;> decide +kernel, by apply sessionOk_of <;> decide +kernel, by decide +kernel, by decide +kernel, by decide +kernel, by decide +kernel, by decide +kernel, by decide +kernel⟩,
   ⟨writeS, sessF 0x21 1 9 ackBody writeS, ackBody, by decide +kernel, by apply frameForm_of <;> decide +kernel, by apply sessionOk_of <;> decide +kernel, by decide +kernel, by decide +kernel, by decide +kernel, by decide +kernel, by decide +kernel, by decide +kernel, by decide +kernel⟩,
   ⟨setReg 0x2C008 0x20001 readS, 3, by decide +kernel, by decide +kernel, by decide +kernel, by decide +kernel, by decide +kernel, by decide +kernel, by decide +kernel, by decide +kernel, by decide +kernel, (by rw [sessKey_of (a := 1) (b := 2) (by decide +kernel) (by decide +kernel) (by decide +kernel)]; rfl)⟩,
   ⟨setReg 0x2C008 0x20001 writeS, 3, by decide +kernel, by decide +kernel, by decide +kernel, by decide +kernel, by decide +kernel, by decide +kernel, by decide +kernel, by decide +kernel, by decide +kernel, (by rw [sessKey_of (a := 1) (b := 2) (by decide +kernel) (by decide +kernel) (by decide +kernel)]; rfl), by decide +kernel⟩,
   ⟨asksAt 14 (inl 0x0610 (le 4 3)) (stnUp .active {} s0), rqs 14, le 4 3, 3, by decide +kernel, .intro (inl 0x0610 (le 4 3)) (by unfold Held; decide +kernel), by decide +kernel, by decide +kernel, by decide +kernel, by decide +kernel⟩,
   ⟨asksAt 14 (inl 0x0611 (le 4 3)) (stnUp .retired {} s0), rqs 14, le 4 3, 3, by decide +kernel, .intro (inl 0x0611 (le 4 3)) (by unfold Held; decide +kernel), by decide +kernel, by decide +kernel, by decide +kernel, by decide +kernel, by decide +kernel⟩,
   ⟨asksAt 14 (bufp 0x0612 (le 4 3) (zeros 64)) (stnUp .suspect {} s0), rqs 14, bufp 0x0612 (le 4 3) (zeros 64), 3, by decide +kernel, by unfold Held; decide +kernel, by decide +kernel, by decide +kernel, by decide +kernel, by decide +kernel, by decide +kernel⟩⟩
theorem wit_SeparatorCommandsComplete :
    (∃ s : State, ∃ j, ∃ p, ∃ w, ∃ m, s.pwr.on = true ∧ computing s = some .f ∧ s.chu.f = some j ∧ solvingPat j = some p ∧ overdue j s = false ∧ (kktSolved p j).sat = none ∧ j.regPivots = 0 ∧ .sep ∉ s.start.blkRst ∧ s.sep.work = some w ∧ s.model.active = some m ∧ w.stage = .wls ∧ m.networks.length ≤ w.net + 1 ∧ bdOn w = false) ∧
    (∃ s : State, ∃ r : Req, ∃ b, ∃ mid, ∃ q, ∃ g, s.pwr.on = true ∧ Inline r 0x0210 12 b s ∧ leAt b 0 4 = mid ∧ leAt b 4 1 = q ∧ leAt b 8 4 = g ∧ duplex s = false ∧ pointCheck mid q s = none) ∧
    (∃ s : State, ∃ r : Req, ∃ b, ∃ mid, ∃ q, s.pwr.on = true ∧ Inline r 0x0211 8 b s ∧ leAt b 0 4 = mid ∧ leAt b 4 1 = q ∧ duplex s = false ∧ pointCheck mid q s = none ∧ s.sep.excl.length < 256) ∧
    (∃ s : State, ∃ r : Req, ∃ b, ∃ mid, ∃ q, s.pwr.on = true ∧ Inline r 0x0212 8 b s ∧ leAt b 0 4 = mid ∧ leAt b 4 1 = q ∧ duplex s = false ∧ pointCheck mid q s = none) ∧
    (∃ s : State, s.pwr.on = true ∧ Answers 0x14000 s) :=
  ⟨⟨setReg 0x14000 0 <| withModel img { s0 with chu := { f := some (kJob none), comp := some .f }, sep := { work := some (work0 .wls) } }, kJob none, pat0 false, work0 .wls, img, by decide +kernel⟩,
   ⟨asks (inl 0x0210 (le 4 66 ++ le 4 2 ++ le 4 5)) (withModel img s0), rq, le 4 66 ++ le 4 2 ++ le 4 5, 66, 2, 5, by decide +kernel, .intro (inl 0x0210 (le 4 66 ++ le 4 2 ++ le 4 5)) (by unfold Held; decide +kernel), by decide +kernel, by decide +kernel, by decide +kernel, by decide +kernel, by decide +kernel⟩,
   ⟨asks (inl 0x0211 (le 4 66 ++ le 4 2)) (withModel img s0), rq, le 4 66 ++ le 4 2, 66, 2, by decide +kernel, .intro (inl 0x0211 (le 4 66 ++ le 4 2)) (by unfold Held; decide +kernel), by decide +kernel, by decide +kernel, by decide +kernel, by decide +kernel, by decide +kernel⟩,
   ⟨asks (inl 0x0212 (le 4 66 ++ le 4 2)) (withModel img { s0 with sep := { excl := [(66, 2)] } }), rq, le 4 66 ++ le 4 2, 66, 2, by decide +kernel, .intro (inl 0x0212 (le 4 66 ++ le 4 2)) (by unfold Held; decide +kernel), by decide +kernel, by decide +kernel, by decide +kernel, by decide +kernel⟩,
   ⟨s0, by decide +kernel, by unfold Answers; decide +kernel⟩⟩
theorem wit_ChurnCommandsComplete :
    (∃ s : State, ∃ r : Req, ∃ c, ∃ b : Bytes, s.pwr.on = true ∧ Held r 0x0110 c s ∧ Reads c b ∧ s.chu.comp.isSome = true ∧ jobCheck false (jobParam c.desc) (readSections b.length b 0).1 (readSections b.length b 0).2 s = none) ∧
    (∃ s : State, ∃ r : Req, ∃ c, ∃ b : Bytes, s.pwr.on = true ∧ Held r 0x0111 c s ∧ Reads c b ∧ s.chu.comp.isSome = true ∧ jobCheck true (jobParam c.desc) (readSections b.length b 0).1 (readSections b.length b 0).2 s = none) ∧
    (∃ s : State, ∃ c, ∃ j : Job, s.pwr.on = true ∧ computing s = some c ∧ ctxJob c s = some j) ∧
    (∃ s : State, ∃ pt, ∃ p, ∃ c, ∃ j, s.pwr.on = true ∧ computing s = some c ∧ ctxJob c s = some j ∧ j.qp = true ∧ j.pat = some p ∧ overdue j s = false ∧ nextPoint p j = some (pt, none) ∧ converged (iterJob pt j) pt = false ∧ infeasible (iterJob pt j).iters (2 ^ (24 - j.epsExp)) (iterJob pt j).bestRps pt.dualLarge = false ∧ (iterJob pt j).iters < j.maxIter ∧ jobCancelled j s = false) ∧
    (∃ s : State, ∃ pt, ∃ p, ∃ c, ∃ j, ∃ r, s.pwr.on = true ∧ computing s = some c ∧ ctxJob c s = some j ∧ j.qp = true ∧ j.pat = some p ∧ overdue j s = false ∧ nextPoint p j = some (pt, none) ∧ converged (iterJob pt j) pt = true ∧ j.req = some r) ∧
    (∃ s : State, ∃ p, ∃ c, ∃ j, ∃ r, s.pwr.on = true ∧ computing s = some c ∧ c ≠ .f ∧ ctxJob c s = some j ∧ solvingPat j = some p ∧ overdue j s = false ∧ (kktSolved p j).sat = none ∧ j.req = some r) ∧
    (∃ s : State, ∃ j : Job, ∃ r, s.pwr.on = true ∧ j ∈ s.chu.queue ∧ j.req = some r ∧ overdue j s = true) ∧
    (∃ s : State, ∃ m, s.pwr.on = true ∧ s.chu.building = true ∧ s.model.active = some m) ∧
    (∃ s : State, ∃ r : Req, ∃ c, ∃ n, ∃ p : PatternImage, s.pwr.on = true ∧ Held r 0x0112 c s ∧ descInl c.desc = false ∧ writeFails c.fail c.desc.length = false ∧ leAt c.desc.param 8 1 = n ∧ 12 ≤ n ∧ n ≤ 15 ∧ patBusy n s = false ∧ imageBad p c.desc.length = none) ∧
    (∃ s : State, ∃ r : Req, ∃ b, ∃ n, s.pwr.on = true ∧ Inline r 0x0113 1 b s ∧ leAt b 0 1 = n ∧ 12 ≤ n ∧ n ≤ 15 ∧ patBusy n s = false) :=
  ⟨⟨asksAt 1 (jobC false 0x0110 (secBuf kSecs)) { s0 with chu := { pats := [(12, pat0 false)], comp := some .f } }, rqs 1, jobC false 0x0110 (secBuf kSecs), secBuf kSecs, by decide +kernel, by unfold Held; decide +kernel, by unfold Reads; decide +kernel, by decide +kernel, by decide +kernel⟩,
   ⟨asksAt 1 (jobC true 0x0111 (secBuf (qSecs 5))) { s0 with chu := { pats := [(12, pat0 true)], comp := some .f } }, rqs 1, jobC true 0x0111 (secBuf (qSecs 5)), secBuf (qSecs 5), by decide +kernel, by unfold Held; decide +kernel, by unfold Reads; decide +kernel, by decide +kernel, by decide +kernel⟩,
   ⟨{ s0 with chu := { rh := some { qJob 5 with stage := .between }, comp := some .rh } }, Ctx.rh, ({ qJob 5 with stage := .between } : Job), by decide +kernel⟩,
   ⟨pairOn 1 { s0 with chu := { rh := some (qJob (2 ^ 29)), comp := some .rh } }, qPoint (2 ^ 29), pat0 true, .rh, qJob (2 ^ 29), by decide +kernel⟩,
   ⟨pairOn 1 { s0 with chu := { rh := some fJob, comp := some .rh } }, fPoint, pat0 true, .rh, fJob, { pair := 1, slot := 2 }, by decide +kernel⟩,
   ⟨{ s0 with chu := { rh := some (kJob (some { pair := 1, slot := 2 })), comp := some .rh } }, pat0 false, .rh, kJob (some { pair := 1, slot := 2 }), { pair := 1, slot := 2 }, by decide +kernel⟩,
   ⟨{ s0 with chu := { queue := [{ qJob 0 with deadline := 5 }] }, tim := { mon := 6 } }, ({ qJob 0 with deadline := 5 } : Job), { pair := 1, slot := 2 }, by decide +kernel⟩,
   ⟨withModel img { s0 with chu := { building := true } }, img, by decide +kernel⟩,
   ⟨asksAt 1 (bufp 0x0112 (zeros 8 ++ [15]) (zeros 1024)) s0, rqs 1, bufp 0x0112 (zeros 8 ++ [15]) (zeros 1024), 15, image0, by decide +kernel, by unfold Held; decide +kernel, by decide +kernel, by decide +kernel, by decide +kernel, by decide +kernel, by decide +kernel, by decide +kernel, (image0_ok)⟩,
   ⟨asksAt 1 (inl 0x0113 [12]) s0, rqs 1, [12], 12, by decide +kernel, .intro (inl 0x0113 ([12])) (by unfold Held; decide +kernel), by decide +kernel, by decide +kernel, by decide +kernel, by decide +kernel⟩⟩
theorem wit_CurdCommandsComplete :
    (∃ s : State, s.pwr.on = true ∧ stepDue s = true) ∧
    (∃ s : State, ∃ r : Req, ∃ b, ∃ mid, ∃ m, s.pwr.on = true ∧ Inline r 0x0310 4 b s ∧ leAt b 0 4 = mid ∧ s.model.active = some m ∧ m.branches.any (fun b => b.kind == .pipe && b.mid == mid) = true) ∧
    (∃ s : State, ∃ r : Req, ∃ b, ∃ mask, ∃ m, s.pwr.on = true ∧ Inline r 0x0311 4 b s ∧ leAt b 0 4 = mask ∧ s.model.active = some m ∧ mask ≠ 0 ∧ mask < 2 ^ min 4 m.networks.length) ∧
    (∃ s : State, s.pwr.on = true ∧ Answers 0x18000 s) :=
  ⟨⟨{ withModel img (atMon 1000000000 s0) with rnd := { phase := .compute }, sep := { settled := true } }, by decide +kernel⟩,
   ⟨asksAt 6 (inl 0x0310 (le 4 77)) (withModel img s0), rqs 6, le 4 77, 77, img, by decide +kernel, .intro (inl 0x0310 (le 4 77)) (by unfold Held; decide +kernel), by decide +kernel, by decide +kernel, by decide +kernel⟩,
   ⟨asksAt 6 (inl 0x0311 (le 4 1)) (withModel img s0), rqs 6, le 4 1, 1, img, by decide +kernel, .intro (inl 0x0311 (le 4 1)) (by unfold Held; decide +kernel), by decide +kernel, by decide +kernel, by decide +kernel, by decide +kernel⟩,
   ⟨s0, by decide +kernel, by unfold Answers; decide +kernel⟩⟩
theorem wit_LoopCommandsComplete :
    (∃ s : State, ∃ n, s.pwr.on = true ∧ started s = true ∧ s.start.blkRst.contains .lpe = false ∧ onMultiple (baseUs s * 1000) s.lpe.tickAt s.tim.mon = true ∧ n ∈ dueLoops (s.tim.mon / (baseUs s * 1000)) s) ∧
    (∃ s : State, ∃ r : Req, ∃ b : Bytes, ∃ c, s.pwr.on = true ∧ Buffered r 0x0410 b s ∧ b.length = 96 ∧ loopRecOf b = c ∧ duplex s = false ∧ loopRecBad c = none ∧ (loop c.loop s).mode = 0 ∧ [c.pv, c.sp, c.ff1, c.ff2].all (fun b => midOk b s) = true ∧ c.out.kind = 0) ∧
    (∃ s : State, ∃ r : Req, ∃ b : Bytes, ∃ k, s.pwr.on = true ∧ Buffered r 0x0411 b s ∧ b.length = 48 ∧ coefRecOf b = k ∧ duplex s = false ∧ coefBad k s = none ∧ (loop k.loop s).swap = none ∧ k.swap = false) ∧
    (∃ s : State, ∃ r : Req, ∃ b : Bytes, ∃ k, s.pwr.on = true ∧ Buffered r 0x0411 b s ∧ b.length = 48 ∧ coefRecOf b = k ∧ duplex s = false ∧ coefBad k s = none ∧ (loop k.loop s).swap = none ∧ k.swap = true) ∧
    (∃ s : State, ∃ r : Req, ∃ b, ∃ n, s.pwr.on = true ∧ Inline r 0x0412 4 b s ∧ leAt b 0 2 = n ∧ duplex s = false ∧ n < 512 ∧ (loop n s).swap = none ∧ (otherBank (loop n s)).isSome = true ∧ (loop n s).struct.isSome = true) ∧
    (∃ s : State, ∃ r : Req, ∃ b, ∃ n, ∃ mode, s.pwr.on = true ∧ Inline r 0x0413 8 b s ∧ leAt b 0 2 = n ∧ leAt b 2 1 = mode ∧ duplex s = false ∧ n < 512 ∧ (loop n s).struct.isSome = true ∧ mode < 4 ∧ (mode ≠ 3 ∨ cascadeOk n s = true)) ∧
    (∃ s : State, ∃ r : Req, ∃ b, ∃ n, ∃ c, ∃ v, s.pwr.on = true ∧ Inline r 0x0414 8 b s ∧ leAt b 0 2 = n ∧ leSAt b 4 4 = v ∧ duplex s = false ∧ n < 512 ∧ (loop n s).struct = some c ∧ c.sp.kind = 0) ∧
    (∃ s : State, ∃ r : Req, ∃ c, ∃ n, s.pwr.on = true ∧ Held r 0x0415 c s ∧ descInl c.desc = false ∧ 64 ≤ c.desc.length ∧ leAt c.desc.param 0 2 = n ∧ n < 512) ∧
    (∃ s : State, ∃ r : Req, ∃ b, ∃ c, s.pwr.on = true ∧ Inline r 0x0416 32 b s ∧ traceRecOf b = c ∧ c.unit < 8 ∧ c.trigger < 6 ∧ c.loop < 512 ∧ 0 < c.nodes ∧ 0 < c.depth ∧ c.depth ≤ 65536 ∧ c.pre < c.depth ∧ 1 ≤ c.decim ∧ c.decim ≤ 1000 ∧ (trace c.unit s).armed = false) ∧
    (∃ s : State, ∃ r : Req, ∃ b, ∃ mask, ∃ u, s.pwr.on = true ∧ Inline r 0x0417 4 b s ∧ leAt b 0 4 = mask ∧ mask < 256 ∧ ((∀ v, traceWords v s ≤ 32768)) ∧ u < 8 ∧ mask / 2 ^ u % 2 = 1 ∧ (trace u s).cfg.isSome = true) :=
  ⟨⟨atMon 1000000 <| setReg 0x1C004 1000 <| atStage 5 (withLoop 511 { struct := some (loopR 511), bankA := some (coef 511 false), mode := 1 } s0), 511, by decide +kernel⟩,
   ⟨asksAt 8 (buf 0x0410 (loopB 511)) s0, rqs 8, loopB 511, loopRecOf (loopB 511), by decide +kernel, .intro (buf 0x0410 (loopB 511)) (by unfold Held Reads; decide +kernel), by decide +kernel, by decide +kernel, by decide +kernel, by decide +kernel, by decide +kernel, by decide +kernel, by decide +kernel⟩,
   ⟨asksAt 8 (buf 0x0411 (coefB 5 false)) s0, rqs 8, coefB 5 false, coefRecOf (coefB 5 false), by decide +kernel, .intro (buf 0x0411 (coefB 5 false)) (by unfold Held Reads; decide +kernel), by decide +kernel, by decide +kernel, by decide +kernel, by decide +kernel, by decide +kernel, by decide +kernel⟩,
   ⟨asksAt 8 (buf 0x0411 (coefB 5 true)) (withLoop 5 { struct := some (loopR 5) } s0), rqs 8, coefB 5 true, coefRecOf (coefB 5 true), by decide +kernel, .intro (buf 0x0411 (coefB 5 true)) (by unfold Held Reads; decide +kernel), by decide +kernel, by decide +kernel, by decide +kernel, by decide +kernel, by decide +kernel, by decide +kernel⟩,
   ⟨asksAt 8 (inl 0x0412 (le 4 5)) (withLoop 5 { struct := some (loopR 5), bankB := some (coef 5 true) } s0), rqs 8, le 4 5, 5, by decide +kernel, .intro (inl 0x0412 (le 4 5)) (by unfold Held; decide +kernel), by decide +kernel, by decide +kernel, by decide +kernel, by decide +kernel, by decide +kernel, by decide +kernel⟩,
   ⟨asksAt 8 (inl 0x0413 (le 2 511 ++ le 6 2)) (withLoop 511 { struct := some (loopR 511) } s0), rqs 8, le 2 511 ++ le 6 2, 511, 2, by decide +kernel, .intro (inl 0x0413 (le 2 511 ++ le 6 2)) (by unfold Held; decide +kernel), by decide +kernel, by decide +kernel, by decide +kernel, by decide +kernel, by decide +kernel, by decide +kernel, by decide +kernel⟩,
   ⟨asksAt 8 (inl 0x0414 (le 4 511 ++ le 4 33)) (withLoop 511 { struct := some (loopR 511) } s0), rqs 8, le 4 511 ++ le 4 33, 511, loopR 511, 33, by decide +kernel, .intro (inl 0x0414 (le 4 511 ++ le 4 33)) (by unfold Held; decide +kernel), by decide +kernel, by decide +kernel, by decide +kernel, by decide +kernel, by decide +kernel, by decide +kernel⟩,
   ⟨asksAt 8 (bufp 0x0415 (le 2 511) (zeros 64)) (withLoop 511 { struct := some (loopR 511) } s0), rqs 8, bufp 0x0415 (le 2 511) (zeros 64), 511, by decide +kernel, by unfold Held; decide +kernel, by decide +kernel, by decide +kernel, by decide +kernel, by decide +kernel⟩,
   ⟨asksAt 8 (inl 0x0416 (traceB 7)) s0, rqs 8, traceB 7, traceRecOf (traceB 7), by decide +kernel, .intro (inl 0x0416 (traceB 7)) (by unfold Held; decide +kernel), by decide +kernel, by decide +kernel, by decide +kernel, by decide +kernel, by decide +kernel, by decide +kernel, by decide +kernel, by decide +kernel, by decide +kernel, by decide +kernel, by decide +kernel⟩,
   ⟨asksAt 8 (inl 0x0417 (le 4 1)) { s0 with lpe := { traces := [(0, { cfg := some (traceR 0) })] } }, rqs 8, le 4 1, 1, 0, by decide +kernel, .intro (inl 0x0417 (le 4 1)) (by unfold Held; decide +kernel), by decide +kernel, by decide +kernel, (fun v => by by_cases h : 0 = v; (subst h; decide); simp [traceWords, trace, tgetD, tget, asksAt, putRing, h]), by decide +kernel, by decide +kernel, by decide +kernel⟩⟩
theorem wit_DispatchCommandsComplete :
    (∃ s : State, ∃ c, ∃ e, s.pwr.on = true ∧ s.disp.solving = some c ∧ s.chu.ends.find? (fun e => e.slot == c.slot) = some e) ∧
    (∃ s : State, ∃ p, s.pwr.on = true ∧ s.disp.plan = some p ∧ s.disp.fallback = false ∧ s.disp.step ≠ stepNow p s) ∧
    (∃ s : State, s.pwr.on = true ∧ s.disp.plan.isSome = true ∧ s.disp.fallback = false ∧ 3600 * sec ≤ planAge s) ∧
    (∃ s : State, ∃ u : Nat, s.pwr.on = true ∧ u < 256) ∧
    (∃ s : State, ∃ u : Nat, ∃ ws : List Word, ∃ e, ∃ c, s.pwr.on = true ∧ s.cfg.unitChan.find? (fun e => e.2 == u) = some e ∧ s.disp.cmds.find? (fun c => c.mid == e.1 && !c.ended && c.seq == (ws.getD 0 0).toNat + fld (ws.getD 1 0) 15 0 * 2 ^ 32) = some c ∧ c.kind = 1 ∧ fld (ws.getD 1 0) 23 16 = 0) ∧
    (∃ s : State, ∃ mid : Nat, ∃ c, s.pwr.on = true ∧ s.disp.cmds.find? (fun c => c.mid == mid && !c.ended && decide (c.first + ackNs s ≤ s.tim.mon)) = some c ∧ s.disp.cmds.find? (fun x => x.mid == mid && !x.ended && (some c.seq == none || some c.seq == some x.seq)) = some c ∧ c.kind = 1) ∧
    (∃ s : State, s.pwr.on = true ∧ s.tim.legValid = true ∧ legSec s / 86400 ≠ s.disp.day) ∧
    (∃ s : State, ∃ r : Req, ∃ b, ∃ id, ∃ v, ∃ p, s.pwr.on = true ∧ Inline r 0x0E10 8 b s ∧ leAt b 0 2 = id ∧ leAt b 4 4 = v ∧ duplex s = false ∧ dispParams.find? (fun p => p.1 == id) = some p ∧ p.2.1 ≤ v ∧ v ≤ p.2.2.1 ∧ ((id = 1 → paramSet 2 s < v)) ∧ ((id = 2 → v < paramSet 1 s))) ∧
    (∃ s : State, ∃ r : Req, ∃ b : Bytes, ∃ k, ∃ n, s.pwr.on = true ∧ Buffered r 0x0E11 b s ∧ duplex s = false ∧ leAt b 0 8 % 900 = 0 ∧ leAt b 8 1 = k ∧ 1 ≤ k ∧ k ≤ 4 ∧ leAt b 12 4 = n ∧ 1 ≤ n ∧ n ≤ 192 ∧ b.length = 16 + 4 * n) ∧
    (∃ s : State, ∃ r : Req, ∃ b : Bytes, ∃ n, s.pwr.on = true ∧ Buffered r 0x0E12 b s ∧ duplex s = false ∧ leAt b 0 8 % 900 = 0 ∧ leAt b 12 4 = n ∧ 1 ≤ n ∧ n ≤ 192 ∧ b.length = 16 + 8 * n) ∧
    (∃ s : State, ∃ r : Req, ∃ b, s.pwr.on = true ∧ Inline r 0x0E13 4 b s ∧ leAt b 0 4 = 0 ∧ duplex s = false) ∧
    (∃ s : State, ∃ r : Req, ∃ b, ∃ mid, ∃ mode, s.pwr.on = true ∧ Inline r 0x0E14 8 b s ∧ leAt b 0 4 = mid ∧ leAt b 4 1 = mode ∧ duplex s = false ∧ (unitDecl mid s).isSome = true ∧ mode ≤ 2) :=
  ⟨⟨{ s0 with disp := { solving := some cyc0 }, chu := { ends := [end0] } }, cyc0, end0, by decide +kernel⟩,
   ⟨withModel img { atMon 900000000000 s0 with disp := { plan := some plan0, fallback := false } }, plan0, by decide +kernel⟩,
   ⟨withModel img { atMon 3600000000000 s0 with disp := { plan := some plan0, fallback := false } }, by decide +kernel⟩,
   ⟨s0, 255, by decide +kernel⟩,
   ⟨{ s0 with cfg := { unitChan := [(55, 4)] }, disp := { cmds := [unitCmd 7] } }, 4, [7, 0], (55, 4), unitCmd 7, by decide +kernel⟩,
   ⟨{ atMon 10000000000 s0 with disp := { cmds := [unitCmd 7] } }, 55, unitCmd 7, by decide +kernel⟩,
   ⟨withModel img { s0 with tim := { legValid := true, net := 86400000000000 } }, by decide +kernel⟩,
   ⟨asksAt 13 (inl 0x0E10 (le 4 1 ++ le 4 21)) s0, rqs 13, le 4 1 ++ le 4 21, 1, 21, (1, 15, 300, 60), by decide +kernel, .intro (inl 0x0E10 (le 4 1 ++ le 4 21)) (by unfold Held; decide +kernel), by decide +kernel, by decide +kernel, by decide +kernel, by decide +kernel, by decide +kernel, by decide +kernel, by decide +kernel, by decide +kernel⟩,
   ⟨asksAt 13 (buf 0x0E11 (le 8 900 ++ le 4 4 ++ le 4 1 ++ le 4 5)) s0, rqs 13, le 8 900 ++ le 4 4 ++ le 4 1 ++ le 4 5, 4, 1, by decide +kernel, .intro (buf 0x0E11 (le 8 900 ++ le 4 4 ++ le 4 1 ++ le 4 5)) (by unfold Held Reads; decide +kernel), by decide +kernel, by decide +kernel, by decide +kernel, by decide +kernel, by decide +kernel, by decide +kernel, by decide +kernel, by decide +kernel, by decide +kernel⟩,
   ⟨asksAt 13 (buf 0x0E12 (le 8 900 ++ le 4 0 ++ le 4 1 ++ le 4 5 ++ le 4 6)) s0, rqs 13, le 8 900 ++ le 4 0 ++ le 4 1 ++ le 4 5 ++ le 4 6, 1, by decide +kernel, .intro (buf 0x0E12 (le 8 900 ++ le 4 0 ++ le 4 1 ++ le 4 5 ++ le 4 6)) (by unfold Held Reads; decide +kernel), by decide +kernel, by decide +kernel, by decide +kernel, by decide +kernel, by decide +kernel, by decide +kernel⟩,
   ⟨asksAt 13 (inl 0x0E13 (zeros 4)) s0, rqs 13, zeros 4, by decide +kernel, .intro (inl 0x0E13 (zeros 4)) (by unfold Held; decide +kernel), by decide +kernel, by decide +kernel⟩,
   ⟨asksAt 13 (inl 0x0E14 (le 4 55 ++ le 4 2)) (withModel img s0), rqs 13, le 4 55 ++ le 4 2, 55, 2, by decide +kernel, .intro (inl 0x0E14 (le 4 55 ++ le 4 2)) (by unfold Held; decide +kernel), by decide +kernel, by decide +kernel, by decide +kernel, by decide +kernel, by decide +kernel⟩⟩
theorem wit_TallyCommandsComplete :
    (∃ s : State, s.pwr.on = true ∧ seqRuns s = false ∧ s.start.blkRst.contains .tly = false ∧ s.tly.metering = true ∧ onMultiple 250000000 s.tly.commitAt s.tim.mon = true) ∧
    (∃ s : State, ∃ id : Nat, ∃ x : TlySrc, ∃ v, ∃ l, s.pwr.on = true ∧ tsrc (skey 1 id) s = some x ∧ x.ivals = v :: l ∧ holdOver v s = true) ∧
    (∃ s : State, ∃ f : Nat, ∃ k, s.pwr.on = true ∧ f < 4 ∧ s.tly.metering = true ∧ s.start.blkRst.contains .tly = false ∧ k < 4) ∧
    (∃ s : State, ∃ f : Nat, ∃ c : SupplyCond, ∃ x : SupplyIn, s.pwr.on = true ∧ f < 4 ∧ s.tly.metering = true ∧ s.start.blkRst.contains .tly = false ∧ ((c = .overload → tgetD s.tly.clipAt f 0 + 1000000000 ≤ s.tim.mon)) ∧ ((c ≠ .overload → (if supplyMet f c x s then supplyTime c else 1000) ≤ x.ms))) ∧
    (∃ s : State, ∃ m : Nat, ∃ y, s.pwr.on = true ∧ m < 8 ∧ s.tly.metering = true ∧ s.start.blkRst.contains .tly = false ∧ tsrc (skey 3 m) (tlyRoll s) = some y ∧ (running y).isSome = true) ∧
    (∃ s : State, ∃ v : Word, s.pwr.on = true ∧ Answers 0x24000 s ∧ fld v 23 8 = 0x5A3C ∧ bitAt v 0 = true ∧ lockOf .tly s = false ∧ s.dup.mor = false) ∧
    (∃ s : State, ∃ v : Word, s.pwr.on = true ∧ Answers 0x24000 s ∧ fld v 23 8 = 0x5A3C ∧ bitAt v 0 = false ∧ getB 0x24000 0 s = true) ∧
    (∃ s : State, ∃ r : Req, ∃ b, ∃ n, s.pwr.on = true ∧ Inline r 0x0510 8 b s ∧ leAt b 0 8 = n ∧ n ≤ tgetD s.hif.lastOut r.pair 0) ∧
    (∃ s : State, ∃ r : Req, ∃ b, ∃ n, s.pwr.on = true ∧ Inline r 0x0511 8 b s ∧ leAt b 0 8 = n ∧ n ≤ tgetD s.hif.lastOut r.pair 0) :=
  ⟨⟨atMon 250000000 { s0 with tly := { metering := true } }, by decide +kernel⟩,
   ⟨atMon 9000000000000 { s0 with tly := { srcs := [(skey 1 3, { ivals := [ival0] })] } }, 3, ({ ivals := [ival0] } : TlySrc), ival0, [], by decide +kernel⟩,
   ⟨{ s0 with tly := { metering := true } }, 3, 3, by decide +kernel⟩,
   ⟨setReg (fdrCfg 0) 0x10 { s0 with tly := { metering := true } }, 0, .neutralMismatch, { v := [], i := [(1000000000, 0), (0, 0), (0, 0), (0, 0)], ms := 1000 }, by decide +kernel, by decide +kernel, by decide +kernel, by decide +kernel, (by decide), (by decide +kernel)⟩,
   ⟨{ s0 with tly := { metering := true, srcs := [(skey 3 7, { ivals := [{ start := 0, onMon := true }] })] } }, 7, (tsrc (skey 3 7) (tlyRoll { s0 with tly := { metering := true, srcs := [(skey 3 7, { ivals := [{ start := 0, onMon := true }] })] } })).getD {}, by decide +kernel⟩,
   ⟨s0, 0x5A3C01, by decide +kernel, by unfold Answers; decide +kernel, by decide +kernel, by decide +kernel, by decide +kernel, by decide +kernel⟩,
   ⟨setReg 0x24000 1 s0, 0x5A3C00, by decide +kernel, by unfold Answers; decide +kernel, by decide +kernel, by decide +kernel, by decide +kernel⟩,
   ⟨asksAt 10 (inl 0x0510 (le 8 5)) { s0 with hif := { lastOut := [(10, 5)] } }, rqs 10, le 8 5, 5, by decide +kernel, .intro (inl 0x0510 (le 8 5)) (by unfold Held; decide +kernel), by decide +kernel, by decide +kernel⟩,
   ⟨asksAt 10 (inl 0x0511 (le 8 5)) { s0 with hif := { lastOut := [(10, 5)] } }, rqs 10, le 8 5, 5, by decide +kernel, .intro (inl 0x0511 (le 8 5)) (by unfold Held; decide +kernel), by decide +kernel, by decide +kernel⟩⟩
theorem wit_ProgramCommandsComplete :
    (∃ s : State, ∃ n : Nat, ∃ d, s.pwr.on = true ∧ started s = true ∧ taskDecl n s = some d ∧ taskDue d (task n s) s = true ∧ progState s = 1 ∧ s.cyc.exch = none ∧ (task n s).held = false ∧ s.start.blkRst.contains .cyc = false ∧ (task n s).running = none) ∧
    (∃ s : State, ∃ n : Nat, ∃ d, s.pwr.on = true ∧ started s = true ∧ taskDecl n s = some d ∧ (task n s).running.isSome = true) ∧
    (∃ s : State, ∃ n : Nat, s.pwr.on = true ∧ started s = true ∧ watchdogDue n s = true) ∧
    (∃ s : State, ∃ r : Req, ∃ b, s.pwr.on = true ∧ Inline r 0x0710 4 b s ∧ leAt b 0 1 = 1 ∧ duplex s = false ∧ progState s = 0) ∧
    (∃ s : State, ∃ r : Req, ∃ b, s.pwr.on = true ∧ Inline r 0x0710 4 b s ∧ leAt b 0 1 = 2 ∧ duplex s = false ∧ progState s = 1) ∧
    (∃ s : State, ∃ r : Req, ∃ b, s.pwr.on = true ∧ Inline r 0x0710 4 b s ∧ leAt b 0 1 = 3 ∧ duplex s = false ∧ progState s ≠ 3) ∧
    (∃ s : State, ∃ r : Req, ∃ c, ∃ i, ∃ d, s.pwr.on = true ∧ Held r 0x0711 c s ∧ descInl c.desc = false ∧ 24 ≤ c.desc.length ∧ BitVec.ofNat 64 (leAt c.desc.param 0 8) = i ∧ varDecl i s = some d) ∧
    (∃ s : State, ∃ r : Req, ∃ b, ∃ i, ∃ ty, ∃ v, s.pwr.on = true ∧ Inline r 0x0712 24 b s ∧ BitVec.ofNat 64 (leAt b 0 8) = i ∧ leAt b 8 1 = ty ∧ leAt b 0x10 8 = v ∧ duplex s = false ∧ changeRefused false i ty v s = none) ∧
    (∃ s : State, ∃ r : Req, ∃ b, ∃ i, ∃ ty, ∃ v, s.pwr.on = true ∧ Inline r 0x0713 24 b s ∧ BitVec.ofNat 64 (leAt b 0 8) = i ∧ leAt b 8 1 = ty ∧ leAt b 0x10 8 = v ∧ duplex s = false ∧ changeRefused true i ty v s = none) ∧
    (∃ s : State, ∃ r : Req, ∃ b, ∃ g, ∃ x, ∃ p, s.pwr.on = true ∧ Inline r 0x0714 16 b s ∧ BitVec.ofNat 64 (leAt b 0 8) = g ∧ leAt b 8 8 = x ∧ duplex s = false ∧ s.cyc.exch = none ∧ s.cyc.staged = some p ∧ p.sig = g ∧ lacking s.model.active p.mids = none ∧ s.model.armed = none ∧ activationPending s = false ∧ (x = 0 ∨ earliestRound s ≤ x)) ∧
    (∃ s : State, ∃ e : Exchange, s.pwr.on = true ∧ s.cyc.exch = some e ∧ e.frozen = true ∧ e.captured = none ∧ s.cyc.tasks.any (fun t => t.2.running.isSome) = false) ∧
    (∃ s : State, ∃ e : Exchange, ∃ p, ∃ c, s.pwr.on = true ∧ duplex s = false ∧ s.cyc.exch = some e ∧ s.cyc.staged = some p ∧ e.captured = some c ∧ e.mapped = none) ∧
    (∃ s : State, ∃ e : Exchange, s.pwr.on = true ∧ s.cyc.exch = some e ∧ e.frozen = true ∧ s.rnd.anchor + 950000000 ≤ s.tim.mon ∧ e.mapped = none) :=
  ⟨⟨atMon 10000000 (atStage 5 (progUp 1 s0)), 0, task0, by decide +kernel⟩,
   ⟨atStage 5 (progUp 1 { s0 with cyc := { tasks := [(0, { running := some 0 })] } }), 0, task0, by decide +kernel⟩,
   ⟨atMon 1000000000 (atStage 5 (progUp 1 { s0 with cyc := { tasks := [(0, { running := some 0 })] } })), 0, by decide +kernel⟩,
   ⟨asksAt 12 (inl 0x0710 (le 4 1)) (progUp 0 s0), rqs 12, le 4 1, by decide +kernel, .intro (inl 0x0710 (le 4 1)) (by unfold Held; decide +kernel), by decide +kernel, by decide +kernel, by decide +kernel⟩,
   ⟨asksAt 12 (inl 0x0710 (le 4 2)) (progUp 1 s0), rqs 12, le 4 2, by decide +kernel, .intro (inl 0x0710 (le 4 2)) (by unfold Held; decide +kernel), by decide +kernel, by decide +kernel, by decide +kernel⟩,
   ⟨asksAt 12 (inl 0x0710 (le 4 3)) (progUp 2 s0), rqs 12, le 4 3, by decide +kernel, .intro (inl 0x0710 (le 4 3)) (by unfold Held; decide +kernel), by decide +kernel, by decide +kernel, by decide +kernel⟩,
   ⟨asksAt 12 (bufp 0x0711 (le 8 21) (zeros 24)) (progUp 1 s0), rqs 12, bufp 0x0711 (le 8 21) (zeros 24), (21 : BitVec 64), var0, by decide +kernel, by unfold Held; decide +kernel, by decide +kernel, by decide +kernel, by decide +kernel, by decide +kernel⟩,
   ⟨asksAt 12 (inl 0x0712 (le 8 21 ++ le 8 3 ++ le 8 100)) (progUp 1 s0), rqs 12, le 8 21 ++ le 8 3 ++ le 8 100, 21, 3, 100, by decide +kernel, .intro (inl 0x0712 (le 8 21 ++ le 8 3 ++ le 8 100)) (by unfold Held; decide +kernel), by decide +kernel, by decide +kernel, by decide +kernel, by decide +kernel, by decide +kernel⟩,
   ⟨asksAt 12 (inl 0x0713 (le 8 22 ++ le 8 3 ++ le 8 100)) (progUp 1 s0), rqs 12, le 8 22 ++ le 8 3 ++ le 8 100, 22, 3, 100, by decide +kernel, .intro (inl 0x0713 (le 8 22 ++ le 8 3 ++ le 8 100)) (by unfold Held; decide +kernel), by decide +kernel, by decide +kernel, by decide +kernel, by decide +kernel, by decide +kernel⟩,
   ⟨asksAt 12 (inl 0x0714 (le 8 31 ++ le 8 2)) { s0 with cyc := { staged := some prog0 } }, rqs 12, le 8 31 ++ le 8 2, 31, 2, prog0, by decide +kernel, .intro (inl 0x0714 (le 8 31 ++ le 8 2)) (by unfold Held; decide +kernel), by decide +kernel, by decide +kernel, by decide +kernel, by decide +kernel, by decide +kernel, by decide +kernel, by decide +kernel, by decide +kernel, by decide +kernel, by decide +kernel⟩,
   ⟨{ s0 with cyc := { exch := some { exch0 with frozen := true } } }, ({ exch0 with frozen := true } : Exchange), by decide +kernel⟩,
   ⟨{ s0 with cyc := { exch := some { exch0 with captured := some (5, [(21, 7)], []) }, staged := some prog0 } }, ({ exch0 with captured := some (5, [(21, 7)], []) } : Exchange), prog0, (5, [(21, 7)], []), by decide +kernel⟩,
   ⟨atMon 950000000 { s0 with cyc := { exch := some { exch0 with frozen := true } } }, ({ exch0 with frozen := true } : Exchange), by decide +kernel⟩⟩
theorem wit_EthernetCommandsComplete :
    (∃ s : State, ∃ r : Req, ∃ c, ∃ b : Bytes, s.pwr.on = true ∧ Held r 0x0810 c s ∧ Reads c b ∧ (r.pair - 34) / 2 ≠ 3 ∧ 14 ≤ b.length ∧ b.length ≤ largestFrame b ∧ leAt c.desc.param 0 8 ≤ s.tim.mon + 1000000000 ∧ leAt c.desc.param 8 1 ≤ 7 ∧ frameRefused b s = false) ∧
    (∃ s : State, ∃ p : Nat, ∃ q : Nat, ∃ x, s.pwr.on = true ∧ queueHead p q s = some x ∧ x.launch = 0 ∧ mayStart p q s = true ∧ ((∀ k, k < 8 → q < k → mayStart p k s = false)) ∧ ethOn p s = true ∧ macsecDead p s = false) ∧
    (∃ s : State, ∃ p : Nat, ∃ q : Nat, ∃ x, s.pwr.on = true ∧ queueHead p q s = some x ∧ x.launch ≠ 0 ∧ x.launch + 1000 < s.tim.mon) ∧
    (∃ s : State, ∃ r : Req, ∃ b : Bytes, ∃ g, s.pwr.on = true ∧ Buffered r 0x0811 b s ∧ b.length = 16 + 8 * leAt b 12 4 ∧ readGates b = g ∧ (r.pair - 34) / 2 ≠ 3 ∧ 1 ≤ g.entries.length ∧ g.entries.length ≤ 256 ∧ 1000 ≤ gateCycle g ∧ gateCycle g ≤ 1000000000) ∧
    (∃ s : State, ∃ p : Nat, ∃ g, ∃ n, s.pwr.on = true ∧ (eth p s).nextGates = some (g, n) ∧ gateStart g (n + (eth p s).gates.elim 0 gateCycle) ≤ s.tim.net) ∧
    (∃ s : State, ∃ p : Nat, ∃ f : EthFrame, s.pwr.on = true ∧ p < 4 ∧ ethOn p s = true ∧ s.start.blkRst.contains .fio = false ∧ f.badFcs = true) ∧
    (∃ s : State, ∃ f : EthFrame, s.pwr.on = true ∧ ethOn 2 s = true ∧ s.start.blkRst.contains .fio = false ∧ f.badFcs = false ∧ frameType f ≠ 0x8808 ∧ macsecOn 2 s = false ∧ toModule 2 f s = true ∧ isEcho 2 f.data s = false ∧ isResolve 2 f.data s = true) ∧
    (∃ s : State, ∃ f : EthFrame, s.pwr.on = true ∧ ethOn 2 s = true ∧ s.start.blkRst.contains .fio = false ∧ f.badFcs = false ∧ frameType f ≠ 0x8808 ∧ macsecOn 2 s = false ∧ toModule 2 f s = true ∧ isEcho 2 f.data s = false ∧ isResolve 2 f.data s = false ∧ consumed 2 f s = false ∧ fld (ethCfgView 2 s) 27 26 ≠ 0 ∧ (ring 39 s).lost = 0 ∧ hasRoom 39 s = true) ∧
    (∃ s : State, ∃ p : Nat, ∃ b : Bool, s.pwr.on = true ∧ 2 ≤ p ∧ p < 4 ∧ ((b = true → ethOn p s = true ∧ ¬(p = 3 ∧ sfpGigabit p s = true)))) ∧
    (∃ s : State, ∃ p : Nat, ∃ b : Bool, s.pwr.on = true ∧ p < 2 ∧ getB (ethStat p) 0 s ≠ b ∧ ((b = true → ethOn p s = true))) ∧
    (∃ s : State, s.pwr.on = true ∧ s.start.blkRst.contains .fio = false ∧ ((∀ k, s.fio.hsr.supAt = some k → k + 2000000000 ≤ s.tim.mon)) ∧ ethOn 0 s = true ∧ macsecDead 0 s = false) ∧
    (∃ s : State, s.pwr.on = true) ∧
    (∃ s : State, ∃ p : Nat, s.pwr.on = true ∧ p < 2 ∧ (eth p s).lastSup + 6000000000 ≤ s.tim.mon) ∧
    (∃ s : State, ∃ p : Nat, ∃ a, s.pwr.on = true ∧ (eth p s).txAn = some a ∧ 0xC0000000 ≤ (eth p s).txPn ∧ slotState (portSlot p) s = 1 ∧ keyed s = true) ∧
    (∃ s : State, ∃ p : Nat, ∃ sci : Nat, ∃ c, ∃ o, s.pwr.on = true ∧ (eth p s).rx.find? (fun c => c.sci == sci) = some c ∧ c.old = some o ∧ o.2.2 + 2000000000 ≤ s.tim.mon) ∧
    (∃ s : State, ∃ p : Nat, ∃ sci : Nat, ∃ kn : Nat, s.pwr.on = true ∧ slotState (portSlot p) s = 1 ∧ hiKn sci s < kn) ∧
    (∃ s : State, ∃ p : Nat, ∃ a, s.pwr.on = true ∧ (eth p s).txAn = some a ∧ ethOn p s = true ∧ ((∀ k, (eth p s).knaAt = some k → k + 1000000000 ≤ s.tim.mon))) :=
  ⟨⟨asksAt 34 txC s0, rqs 34, txC, frame64, by decide +kernel, by unfold Held; decide +kernel, by unfold Reads; decide +kernel, by decide +kernel, by decide +kernel, by decide +kernel, by decide +kernel, by decide +kernel, by decide +kernel⟩,
   ⟨ethUp 0 (withEth 0 { queues := [ethTx0 0] } s0), 0, 2, ethTx0 0, by decide +kernel⟩,
   ⟨withEth 0 { queues := [ethTx0 5] } (atMon 1006 s0), 0, 2, ethTx0 5, by decide +kernel⟩,
   ⟨asksAt 34 (buf 0x0811 gatesB) s0, rqs 34, gatesB, readGates gatesB, by decide +kernel, .intro (buf 0x0811 (gatesB)) (by unfold Held Reads; decide +kernel), by decide +kernel, by decide +kernel, by decide +kernel, by decide +kernel, by decide +kernel, by decide +kernel, by decide +kernel⟩,
   ⟨withEth 0 { nextGates := some (gates0, 0) } s0, 0, gates0, 0, by decide +kernel⟩,
   ⟨ethUp 3 (duo .control s0), 3, ({ ethF with badFcs := true } : EthFrame), by decide +kernel⟩,
   ⟨ethUp 2 { s0 with cfg := { ifs := [(2, { v4 := some 5 })] } }, ({ ethF with data := arpB 5 } : EthFrame), by decide +kernel⟩,
   ⟨setF (ethCfg 2) 27 26 1 (ethUp 2 (putRing 39 { bufs := [{ slot := 0, tag := 1, addr := some 4096, len := 2048, irq := false }] } (pairOn 39 s0))), ({ ethF with data := bcast } : EthFrame), by decide +kernel⟩,
   ⟨duo .control s0, 3, true, by decide +kernel⟩,
   ⟨ethUp 0 s0, 0, true, by decide +kernel⟩,
   ⟨ethUp 0 s0, by decide +kernel, by decide +kernel, (fun k h => by cases h), by decide +kernel, by decide +kernel⟩,
   ⟨{ s0 with fio := { hsr := { seen := [(1, 2, 0)], nodes := [(1, 0)] } } }, by decide +kernel⟩,
   ⟨atMon 6000000000 s0, 1, by decide +kernel⟩,
   ⟨keyedUp (slots [6] (withEth 0 { txAn := some 3, txPn := 0xC0000000 } s0)), 0, 3, by decide +kernel⟩,
   ⟨withEth 0 { rx := [{ sci := 9, an := 1, pn := 5, old := some (0, 7, 0) }] } (atMon 2000000000 s0), 0, 9, { sci := 9, an := 1, pn := 5, old := some (0, 7, 0) }, (0, 7, 0), by decide +kernel⟩,
   ⟨slots [6] s0, 0, 9, 1, by decide +kernel⟩,
   ⟨ethUp 0 (withEth 0 { txAn := some 3 } s0), 0, 3, by decide +kernel, by decide +kernel, by decide +kernel, (fun k h => by cases h)⟩⟩
theorem wit_CanCommandsComplete :
    (∃ s : State, ∃ c : Nat, ∃ f : CanFrame, s.pwr.on = true ∧ c < 4 ∧ canOnBus c s = true ∧ f.remote = true) ∧
    (∃ s : State, ∃ c : Nat, ∃ f : CanFrame, ∃ n, ∃ b, s.pwr.on = true ∧ c < 4 ∧ canOnBus c s = true ∧ f.remote = false ∧ canNodes c s = [n] ∧ n.node < 64 ∧ n.rx = [b] ∧ b.ident = f.ident ∧ b.alive = none ∧ n.plant = none) ∧
    (∃ s : State, ∃ c : Nat, ∃ node : Nat, ∃ k, s.pwr.on = true ∧ tget s.cyc.stamps (canArea c node) = some k ∧ k + 3 * tgetD s.cfg.nodePeriod (canArea c node) 0 * 1000000 ≤ s.tim.mon) ∧
    (∃ s : State, ∃ r : Req, ∃ c, ∃ b : Bytes, s.pwr.on = true ∧ Held r 0x0910 c s ∧ Reads c b ∧ b.length = 8 + leAt b 5 1 ∧ canLenOk (readCan b).fd (readCan b).data.length = true ∧ ((readCan b).fd = false ∨ bitAt (can (r.pair - 42) s).inForce 30 = true)) ∧
    (∃ s : State, ∃ c : Nat, ∃ tag, ∃ x, s.pwr.on = true ∧ canLive c s = true ∧ (can c s).pend.find? (fun t => t.tag == tag) = some x) ∧
    (∃ s : State, ∃ c : Nat, ∃ k, ∃ e, s.pwr.on = true ∧ canLive c s = true ∧ (can c s).cells.find? (fun e => e.1 == k) = some e) ∧
    (∃ s : State, ∃ c : Nat, ∃ tag : Nat, ∃ x : CanTx, s.pwr.on = true ∧ (can c s).pend.find? (fun t => t.tag == tag && t.deadline != 0 && decide (t.deadline ≤ s.tim.mon)) = some x) ∧
    (∃ s : State, ∃ r : Req, ∃ b, ∃ tag, ∃ x, s.pwr.on = true ∧ Inline r 0x0911 8 b s ∧ leAt b 0 8 = tag ∧ (can (r.pair - 42) s).pend.find? (fun t => t.tag == tag) = some x ∧ inArbitration (r.pair - 42) s ≠ some x) ∧
    (∃ s : State, ∃ r : Req, ∃ b : Bytes, ∃ m, s.pwr.on = true ∧ Buffered r 0x0912 b s ∧ b.length = 16 + 4 * leAt b 5 1 + leAt b 4 1 * leAt b 5 1 ∧ readMatrix b = m ∧ matrixOk m (canObjs (r.pair - 42) s).length = true ∧ tooNarrow (r.pair - 42) m s = false ∧ (can (r.pair - 42) s).matrix = none) ∧
    (∃ s : State, ∃ c : Nat, ∃ row : Nat, ∃ col : Nat, ∃ m, ∃ k, ∃ n, ∃ o, s.pwr.on = true ∧ (can c s).next = none ∧ (can c s).matrix = some m ∧ inWindow m (can c s).busFrom row col s = true ∧ m.cells[row * m.cols + col]? = some (some k) ∧ (canObjs c s)[k]? = some (n, o) ∧ canLive c s = true) ∧
    (∃ s : State, ∃ c : Nat, ∃ k : Nat, s.pwr.on = true ∧ (can c s).cells.any (fun e => e.1 == k && decide (e.2.2 ≤ busNs s)) = true) ∧
    (∃ s : State, ∃ r : Req, ∃ b, s.pwr.on = true ∧ Inline r 0x0913 4 b s ∧ leAt b 0 4 = 0 ∧ canNodes (r.pair - 42) s = [] ∧ (can (r.pair - 42) s).matrix = none) ∧
    (∃ s : State, ∃ r : Req, ∃ b, s.pwr.on = true ∧ Inline r 0x0914 4 b s ∧ leAt b 0 4 = 0 ∧ canMode (r.pair - 42) s = 3) ∧
    (∃ s : State, ∃ c : Nat, s.pwr.on = true ∧ canMode c s = 3) ∧
    (∃ s : State, ∃ c : Nat, s.pwr.on = true ∧ c < 4 ∧ canMode c s ≠ 2) ∧
    (∃ s : State, ∃ c : Nat, s.pwr.on = true ∧ bitAt (can c s).inForce 29 = true ∧ canMode c s = 2) :=
  ⟨⟨canUp 3 s0, 3, ({ canF with remote := true } : CanFrame), by decide +kernel⟩,
   ⟨canUp 0 { s0 with cfg := { canNodes := [canN] } }, 0, canF, canN, canRx0, by decide +kernel⟩,
   ⟨{ s0 with cyc := { stamps := [(canArea 0 1, 0)] } }, 0, 1, 0, by decide +kernel⟩,
   ⟨asksAt 42 (buf 0x0910 canB) s0, rqs 42, buf 0x0910 canB, canB, by decide +kernel, by unfold Held; decide +kernel, by unfold Reads; decide +kernel, by decide +kernel, by decide +kernel, by decide +kernel⟩,
   ⟨withCan 0 { pend := [canTx0] } (canUp 0 s0), 0, 9, canTx0, by decide +kernel⟩,
   ⟨withCan 0 { cells := [(0, canF, 5)] } (canUp 0 s0), 0, 0, (0, canF, 5), by decide +kernel⟩,
   ⟨withCan 0 { pend := [{ canTx0 with deadline := 5 }] } (atMon 5 s0), 0, 9, ({ canTx0 with deadline := 5 } : CanTx), by decide +kernel⟩,
   ⟨asksAt 42 (inl 0x0911 (le 8 9)) (withCan 0 { pend := [canTx0] } s0), rqs 42, le 8 9, 9, canTx0, by decide +kernel, .intro (inl 0x0911 (le 8 9)) (by unfold Held; decide +kernel), by decide +kernel, by decide +kernel, by decide +kernel⟩,
   ⟨asksAt 42 (buf 0x0912 matrixB) { s0 with cfg := { canNodes := [canN] } }, rqs 42, matrixB, readMatrix matrixB, by decide +kernel, .intro (buf 0x0912 (matrixB)) (by unfold Held Reads; decide +kernel), by decide +kernel, by decide +kernel, by decide +kernel, by decide +kernel, by decide +kernel⟩,
   ⟨withCan 0 { matrix := some matrix0 } (canUp 0 { s0 with cfg := { canNodes := [canN] } }), 0, 0, 0, matrix0, 0, 1, { ident := 0x200, fd := false, plant := none, map := [(0, 4)], wcttUs := 100 }, by decide +kernel⟩,
   ⟨withCan 0 { cells := [(0, canF, 0)] } s0, 0, 0, by decide +kernel⟩,
   ⟨asksAt 42 (inl 0x0913 (zeros 4)) s0, rqs 42, zeros 4, by decide +kernel, .intro (inl 0x0913 (zeros 4)) (by unfold Held; decide +kernel), by decide +kernel, by decide +kernel, by decide +kernel⟩,
   ⟨asksAt 42 (inl 0x0914 (zeros 4)) (setF (canStatReg 0) 31 30 3 s0), rqs 42, zeros 4, by decide +kernel, .intro (inl 0x0914 (zeros 4)) (by unfold Held; decide +kernel), by decide +kernel, by decide +kernel⟩,
   ⟨setF (canStatReg 3) 31 30 3 s0, 3, by decide +kernel⟩,
   ⟨s0, 3, by decide +kernel⟩,
   ⟨withCan 0 { inForce := 0x20000000 } (setF (canStatReg 0) 31 30 2 s0), 0, by decide +kernel⟩⟩
theorem wit_DigitalCommandsComplete :
    (∃ s : State, ∃ n : Nat, ∃ b : Bool, s.pwr.on = true ∧ n < 32 ∧ bitAt (dioCh n s) 15 = false ∧ (b = false ∨ groupOk n s = true)) ∧
    (∃ s : State, s.pwr.on = true ∧ s.start.blkRst.contains .cyc = false ∧ s.fio.dio.latchAt + 1000000 ≤ s.tim.mon) ∧
    (∃ s : State, ∃ n : Nat, s.pwr.on = true ∧ n < 32) ∧
    (∃ s : State, ∃ n : Nat, ∃ b : Bool, s.pwr.on = true ∧ n < 32 ∧ (b = false ∨ bitAt (dioOut s) n = true)) ∧
    (∃ s : State, s.pwr.on = true ∧ getB 0x38008 30 s = false ∧ s.fio.dio.latchAt + getF 0x38004 7 0 s * 1000000 ≤ s.tim.mon) ∧
    (∃ s : State, ∃ k, s.pwr.on = true ∧ getB 0x38008 30 s = true ∧ s.fio.dio.resumeAt = some k ∧ k + 100000000 ≤ s.tim.mon ∧ s.tim.mon < s.fio.dio.latchAt + getF 0x38004 7 0 s * 1000000) ∧
    (∃ s : State, s.pwr.on = true) ∧
    (∃ s : State, ∃ g : Nat, s.pwr.on = true ∧ getB 0x38008 (if g = 2 then 28 else 29) s = false) :=
  ⟨⟨s0, 31, true, by decide +kernel⟩,
   ⟨atMon 1000000 s0, by decide +kernel⟩,
   ⟨s0, 31, by decide +kernel⟩,
   ⟨setReg 0x3817C 0x8800 s0, 31, true, by decide +kernel⟩,
   ⟨atMon 1000000000 s0, by decide +kernel⟩,
   ⟨setB 0x38008 30 true { atMon 100000000 s0 with fio := { dio := { resumeAt := some 0, latchAt := 100000000 } } }, 0, by decide +kernel⟩,
   ⟨s0, by decide +kernel⟩,
   ⟨s0, 1, by decide +kernel⟩⟩
theorem wit_ModelCommandsComplete :
    (∃ s : State, ∃ r : Req, ∃ b, ∃ x, s.pwr.on = true ∧ Inline r 0x0B20 24 b s ∧ leAt b 0x10 8 = x ∧ duplex s = false ∧ armRefused s.model.staged (BitVec.ofNat 64 (leAt b 0 8)) (BitVec.ofNat 64 (leAt b 8 8)) s = none ∧ (x = 0 ∨ earliestRound s ≤ x)) ∧
    (∃ s : State, ∃ r : Req, ∃ b, ∃ x, s.pwr.on = true ∧ Inline r 0x0B22 24 b s ∧ leAt b 0x10 8 = x ∧ duplex s = false ∧ armRefused s.model.prev (BitVec.ofNat 64 (leAt b 0 8)) (BitVec.ofNat 64 (leAt b 8 8)) s = none ∧ (x = 0 ∨ earliestRound s ≤ x)) ∧
    (∃ s : State, ∃ r : Req, ∃ b, ∃ m, s.pwr.on = true ∧ Inline r 0x0B21 24 b s ∧ BitVec.ofNat 64 (leAt b 0 8) = m.structSig ∧ leAt b 8 16 = 0 ∧ duplex s = false ∧ s.model.armed.isSome = true ∧ s.model.staged = some m) ∧
    (∃ s : State, ∃ m, ∃ k, s.pwr.on = true ∧ s.model.armed = some k ∧ s.rnd.number < k ∧ s.model.staged = some m ∧ s.model.recorded = false) :=
  ⟨⟨asksAt 47 (inl 0x0B20 (le 8 11 ++ le 8 12 ++ le 8 2)) { s0 with model := { staged := some img } }, rqs 47, le 8 11 ++ le 8 12 ++ le 8 2, 2, by decide +kernel, .intro (inl 0x0B20 (le 8 11 ++ le 8 12 ++ le 8 2)) (by unfold Held; decide +kernel), by decide +kernel, by decide +kernel, by decide +kernel, by decide +kernel⟩,
   ⟨asksAt 47 (inl 0x0B22 (le 8 11 ++ le 8 12 ++ le 8 0)) { s0 with model := { prev := some img } }, rqs 47, le 8 11 ++ le 8 12 ++ le 8 0, 0, by decide +kernel, .intro (inl 0x0B22 (le 8 11 ++ le 8 12 ++ le 8 0)) (by unfold Held; decide +kernel), by decide +kernel, by decide +kernel, by decide +kernel, by decide +kernel⟩,
   ⟨asksAt 47 (inl 0x0B21 (le 8 11 ++ zeros 16)) { s0 with model := { staged := some img, armed := some 9 } }, rqs 47, le 8 11 ++ zeros 16, img, by decide +kernel, .intro (inl 0x0B21 (le 8 11 ++ zeros 16)) (by unfold Held; decide +kernel), by decide +kernel, by decide +kernel, by decide +kernel, by decide +kernel, by decide +kernel⟩,
   ⟨{ s0 with model := { staged := some img, armed := some 9 } }, img, 9, by decide +kernel⟩⟩
theorem wit_UpdateCommandsComplete :
    (∃ s : State, ∃ r : Req, ∃ c, ∃ b : Bytes, ∃ g : Bool, ∃ d : List Bool, ∃ m, s.pwr.on = true ∧ Held r 0x0B10 c s ∧ Reads c b ∧ leAt c.desc.param 0 1 = 0 ∧ readManifest b g d = m ∧ manifestRefused false m s = none) ∧
    (∃ s : State, ∃ r : Req, ∃ c, ∃ k, ∃ n, ∃ x : BitVec 128, ∃ d : BlockData, ∃ m, s.pwr.on = true ∧ Held r 0x0B11 c s ∧ writeFails c.fail c.desc.length = false ∧ leAt c.desc.param 0 1 = k ∧ leAt c.desc.param 4 4 = n ∧ blockRefused k n x d s = none ∧ s.upd.share = false ∧ s.upd.manifest = some m ∧ setComplete m (holdBlock k n d s) = false) ∧
    (∃ s : State, ∃ r : Req, ∃ b, s.pwr.on = true ∧ Inline r 0x0B12 16 b s ∧ leAt b 0 1 = 1 ∧ activateRefused s = none) ∧
    (∃ s : State, ∃ r : Req, ∃ b, ∃ x, s.pwr.on = true ∧ Inline r 0x0B12 16 b s ∧ leAt b 0 1 = 2 ∧ leAt b 8 8 = x ∧ duplex s = false ∧ activateCfgRefused x s = none) ∧
    (∃ s : State, ∃ r : Req, ∃ b, s.pwr.on = true ∧ Inline r 0x0B13 4 b s ∧ leAt b 0 4 = 0 ∧ s.upd.state = .pending) ∧
    (∃ s : State, ∃ r : Req, ∃ b, s.pwr.on = true ∧ Inline r 0x0B14 4 b s ∧ leAt b 0 4 = 0 ∧ s.upd.state = .pending) ∧
    (∃ s : State, ∃ r : Req, ∃ b, s.pwr.on = true ∧ Inline r 0x0B15 4 b s ∧ leAt b 0 4 = 0 ∧ s.upd.state = .receiving) ∧
    (∃ s : State, ∃ e, ∃ l, s.pwr.on = true ∧ s.upd.state = .writing ∧ s.upd.todo = e :: l ∧ s.upd.loaderAt + 50000000 ≤ s.tim.mon ∧ l ≠ []) ∧
    (∃ s : State, ∃ e, ∃ l, s.pwr.on = true ∧ s.upd.state = .writing ∧ s.upd.todo = e :: l ∧ s.upd.loaderAt + 50000000 ≤ s.tim.mon) ∧
    (∃ s : State, s.pwr.on = true ∧ s.upd.state = .receiving ∧ s.upd.blockAt + 600000000000 ≤ s.tim.mon) ∧
    (∃ s : State, s.pwr.on = true ∧ s.upd.state = .pending ∧ getF 0x4C004 15 8 s ≠ 0 ∧ s.upd.pendAt + (getF 0x4C004 15 8 s * 3600000000000 : Nat) ≤ (s.tim.mon : Int)) ∧
    (∃ s : State, s.pwr.on = true ∧ s.upd.state = .pending ∧ s.upd.inService = false ∧ getF 0x7F01C 3 0 s < 5 ∧ s.start.releasedAt + 10000000000 ≤ s.tim.mon) ∧
    (∃ s : State, s.pwr.on = true ∧ s.upd.state = .pending ∧ s.upd.inService = false ∧ duplex s = true ∧ ready s = false ∧ inControl s = false ∧ s.start.stage5At + getF 0x4C004 7 0 s * 10000000000 ≤ s.tim.mon) :=
  ⟨⟨asksAt 47 manifC s0, rqs 47, manifC, manifB, true, [true], readManifest manifB true [true], by decide +kernel, by unfold Held; decide +kernel, by unfold Reads; decide +kernel, by decide +kernel, by decide +kernel, by decide +kernel⟩,
   ⟨asksAt 47 blockC { s0 with upd := { state := .receiving, manifest := some manif } }, rqs 47, blockC, 0, 1, 6, .part, manif, by decide +kernel, by unfold Held; decide +kernel, by decide +kernel, by decide +kernel, by decide +kernel, by decide +kernel, by decide +kernel, by decide +kernel, by decide +kernel⟩,
   ⟨asksAt 47 (inl 0x0B12 (le 8 1 ++ zeros 8)) (setB 0x7F040 3 true { s0 with upd := { state := .written, fwNew := some (fw 2) } }), rqs 47, le 8 1 ++ zeros 8, by decide +kernel, .intro (inl 0x0B12 (le 8 1 ++ zeros 8)) (by unfold Held; decide +kernel), by decide +kernel, by decide +kernel⟩,
   ⟨asksAt 47 (inl 0x0B12 (le 8 2 ++ le 8 2)) { s0 with upd := { state := .written, cfgNew := some (cfgImg, 0) } }, rqs 47, le 8 2 ++ le 8 2, 2, by decide +kernel, .intro (inl 0x0B12 (le 8 2 ++ le 8 2)) (by unfold Held; decide +kernel), by decide +kernel, by decide +kernel, by decide +kernel, by decide +kernel⟩,
   ⟨asksAt 47 (inl 0x0B13 (zeros 4)) { s0 with upd := { state := .pending } }, rqs 47, zeros 4, by decide +kernel, .intro (inl 0x0B13 (zeros 4)) (by unfold Held; decide +kernel), by decide +kernel, by decide +kernel⟩,
   ⟨asksAt 47 (inl 0x0B14 (zeros 4)) { s0 with upd := { state := .pending, fwOld := some (fw 1) } }, rqs 47, zeros 4, by decide +kernel, .intro (inl 0x0B14 (zeros 4)) (by unfold Held; decide +kernel), by decide +kernel, by decide +kernel⟩,
   ⟨asksAt 47 (inl 0x0B15 (zeros 4)) { s0 with upd := { state := .receiving, manifest := some manif } }, rqs 47, zeros 4, by decide +kernel, .intro (inl 0x0B15 (zeros 4)) (by unfold Held; decide +kernel), by decide +kernel, by decide +kernel⟩,
   ⟨atMon 50000000 { s0 with upd := { state := .writing, manifest := some manif, todo := [(1, 0, 5), (1, 1, 6)] } }, (1, 0, 5), [(1, 1, 6)], by decide +kernel⟩,
   ⟨atMon 50000000 { s0 with upd := { state := .writing, manifest := some manif, todo := [(1, 0, 5)] } }, (1, 0, 5), ([] : List (Nat × Nat × BitVec 128)), by decide +kernel⟩,
   ⟨atMon 600000000000 { s0 with upd := { state := .receiving, manifest := some manif } }, by decide +kernel⟩,
   ⟨setF 0x4C004 15 8 1 (atMon 3600000000000 { s0 with upd := { state := .pending } }), by decide +kernel⟩,
   ⟨atMon 10000000000 { s0 with upd := { state := .pending } }, by decide +kernel⟩,
   ⟨{ atMon 2550000000000 (duo .syncing s0) with upd := { state := .pending } }, by decide +kernel⟩⟩
theorem wit_PairCommandsComplete :
    (∃ s : State, s.pwr.on = true ∧ stage5 s = true ∧ seqRuns s = false ∧ duplex s = false ∧ s.dup.state = .init ∧ holdupReady s = true ∧ claimLeft s = true) ∧
    (∃ s : State, ∃ h, s.pwr.on = true ∧ stage5 s = true ∧ seqRuns s = false ∧ duplex s = true ∧ s.dup.state = .init ∧ holdupReady s = true ∧ s.dup.held = false ∧ s.dup.peer = some h ∧ h.state ≠ 3 ∧ h.state ≠ 5 ∧ justResigned s = false ∧ s.dup.takeSent = none) ∧
    (∃ s : State, s.pwr.on = true ∧ duplex s = true ∧ s.dup.linkUp = true ∧ s.start.blkRst.contains .dup = false ∧ cageOn 3 s = true ∧ ((∀ k, s.dup.hbAt = some k → k + 1000000 ≤ s.tim.mon))) ∧
    (∃ s : State, ∃ h : PeerHdr, s.pwr.on = true ∧ (accept h s).isSome = true ∧ pairWhy h s = none) ∧
    (∃ s : State, ∃ h : PeerHdr, s.pwr.on = true ∧ (accept h s).isSome = true ∧ pairWhy h s = none ∧ s.dup.linkUp = false ∧ keyed s = true ∧ h.keyed = true) ∧
    (∃ s : State, s.pwr.on = true ∧ duplex s = true ∧ s.dup.linkUp = true ∧ s.dup.heardAt + peerTmo s ≤ s.tim.mon) ∧
    (∃ s : State, s.pwr.on = true) ∧
    (∃ s : State, ∃ q : Nat, ∃ u, s.pwr.on = true ∧ s.dup.unacked.find? (fun u => u.mseq == q) = some u ∧ s.tim.mon < u.first + peerTmo s ∧ u.last + 1000000 ≤ s.tim.mon ∧ s.dup.linkUp = true ∧ s.start.blkRst.contains .dup = false ∧ cageOn 3 s = true) ∧
    (∃ s : State, ∃ h : PeerHdr, s.pwr.on = true ∧ (accept h s).isSome = true ∧ pairWhy h s = none ∧ ready s = true ∧ justResigned s = false ∧ s.dup.claim < 0xFFFFFFFE ∧ h.claim < 0xFFFFFFFF ∧ s.dup.heldPrev < 0xFFFFFFFF ∧ s.dup.heldNow < 0xFFFFFFFF) ∧
    (∃ s : State, ∃ h : PeerHdr, s.pwr.on = true ∧ (accept h s).isSome = true ∧ pairWhy h s = none ∧ s.dup.takeSent.isSome = true ∧ s.dup.claim < h.claim) ∧
    (∃ s : State, ∃ k, s.pwr.on = true ∧ s.dup.takeSent = some k ∧ k + 2000000 ≤ s.tim.mon ∧ seqRuns s = false ∧ holdupReady s = true ∧ claimLeft s = true) :=
  ⟨⟨setB 0x7F040 3 true (atStage 5 s0), by decide +kernel⟩,
   ⟨setB 0x7F040 3 true (atStage 5 { duo .init s0 with dup := { linkUp := true, peer := some hdr } }), hdr, by decide +kernel⟩,
   ⟨duo .init s0, by decide +kernel, by decide +kernel, by decide +kernel, by decide +kernel, by decide +kernel, (fun k h => by cases h)⟩,
   ⟨duo .init s0, hdr, by decide +kernel⟩,
   ⟨keyedUp { duo .init s0 with dup := {} }, hdr, by decide +kernel⟩,
   ⟨atMon 255000000 (duo .init s0), by decide +kernel⟩,
   ⟨{ s0 with dup := { unacked := [unack0] } }, by decide +kernel⟩,
   ⟨setReg 0x0E008 5 (atMon 1000000 { s0 with dup := { unacked := [unack0], linkUp := true } }), 7, unack0, by decide +kernel⟩,
   ⟨standbyS, hdr, by decide +kernel⟩,
   ⟨{ duo .init s0 with dup := { takeSent := some 0 } }, ({ hdr with claim := 1 } : PeerHdr), by decide +kernel⟩,
   ⟨setB 0x7F040 3 true (atMon 2000000 { duo .init s0 with dup := { takeSent := some 0 } }), 0, by decide +kernel⟩⟩
theorem wit_PeerCommandsComplete :
    (∃ s : State, ∃ h : PeerHdr, ∃ op : FwdOp, s.pwr.on = true ∧ (accept h s).isSome = true ∧ pairWhy h s = none ∧ ((∀ u, fwdRefused op u = none)) ∧ s.dup.state ≠ .syncing) ∧
    (∃ s : State, ∃ h : PeerHdr, s.pwr.on = true ∧ (accept h s).isSome = true ∧ pairWhy h s = none ∧ s.dup.linkUp = true ∧ cageOn 3 s = true ∧ s.dup.state ≠ .syncing) ∧
    (∃ s : State, ∃ h : PeerHdr, ∃ op : FwdOp, ∃ f, ∃ r, s.pwr.on = true ∧ (accept h s).isSome = true ∧ pairWhy h s = none ∧ s.dup.fwds.find? (fun f => f.op == op) = some f ∧ f.req = some r ∧ endsLate op = false) ∧
    (∃ s : State, ∃ h : PeerHdr, ∃ op : FwdOp, ∃ f, ∃ r, ∃ st : Nat, s.pwr.on = true ∧ (accept h s).isSome = true ∧ pairWhy h s = none ∧ s.dup.fwds.find? (fun f => f.op == op) = some f ∧ f.req = some r ∧ st ∈ statusCodes ∧ st ≠ 0) ∧
    (∃ s : State, ∃ f, ∃ l, s.pwr.on = true ∧ s.dup.fwds = f :: l ∧ f.mon + 2000000000 ≤ s.tim.mon) ∧
    (∃ s : State, ∃ h : PeerHdr, s.pwr.on = true ∧ (accept h s).isSome = true ∧ pairWhy h s = none ∧ s.dup.testing = false) ∧
    (∃ s : State, s.pwr.on = true ∧ s.dup.testing = true ∧ s.dup.peerResult = none) ∧
    (∃ s : State, ∃ h : PeerHdr, ∃ d : SyncData, s.pwr.on = true ∧ (accept h s).isSome = true ∧ pairWhy h s = none ∧ s.dup.state = .syncing ∧ syncRefused h d s = none ∧ s.dup.deferred = []) ∧
    (∃ s : State, ∃ h : PeerHdr, s.pwr.on = true ∧ (accept h s).isSome = true ∧ pairWhy h s = none) ∧
    (∃ s : State, ∃ h : PeerHdr, s.pwr.on = true ∧ (accept h s).isSome = true ∧ pairWhy h s = none) :=
  ⟨⟨duo .standby s0, hdr, .forceCycle, by decide +kernel, by decide +kernel, by decide +kernel, (fun _ => rfl), by decide +kernel⟩,
   ⟨duo .standby s0, hdr, by decide +kernel⟩,
   ⟨{ duo .control s0 with dup := { state := .control, linkUp := true, fwds := [fwd0] } }, hdr, .forceCycle, fwd0, rq, by decide +kernel⟩,
   ⟨{ duo .control s0 with dup := { state := .control, linkUp := true, fwds := [fwd0] } }, hdr, .forceCycle, fwd0, rq, 0x19, by decide +kernel⟩,
   ⟨{ duo .control (atMon 2000000000 s0) with dup := { state := .control, linkUp := true, fwds := [fwd0] } }, fwd0, [], by decide +kernel⟩,
   ⟨duo .standby s0, hdr, by decide +kernel⟩,
   ⟨{ s0 with dup := { testing := true } }, by decide +kernel⟩,
   ⟨keyedUp (duo .syncing s0), ({ hdr with state := 3 } : PeerHdr), sync0, by decide +kernel⟩,
   ⟨duo .standby s0, hdr, by decide +kernel⟩,
   ⟨duo .standby s0, hdr, by decide +kernel⟩⟩
theorem wit_DuplexOperationsComplete :
    (∃ s : State, ∃ r : Req, ∃ b, ∃ p, ∃ h, s.pwr.on = true ∧ Inline r 0x0F20 4 b s ∧ leAt b 0 4 = p ∧ p < 2 ∧ duplex s = true ∧ s.dup.state = .control ∧ s.dup.peer = some h ∧ h.ready = true ∧ ((∀ x, s.model.armed = some x → s.rnd.number + 5 < x)) ∧ ((∀ e, s.cyc.exch = some e → s.rnd.number + 5 < e.target))) ∧
    (∃ s : State, ∃ r : Req, ∃ b, s.pwr.on = true ∧ Inline r 0x0F21 4 b s ∧ leAt b 0 4 = 1 ∧ duplex s = true ∧ s.dup.peer.isSome = true ∧ s.dup.mor = true) ∧
    (∃ s : State, ∃ r : Req, ∃ b, s.pwr.on = true ∧ Inline r 0x0F21 4 b s ∧ leAt b 0 4 = 2) ∧
    (∃ s : State, ∃ r : Req, ∃ b, s.pwr.on = true ∧ Inline r 0x0F21 4 b s ∧ leAt b 0 4 = 3 ∧ (duplex s = false ∨ s.dup.peerMor = false)) ∧
    (∃ s : State, ∃ r : Req, ∃ b, s.pwr.on = true ∧ Inline r 0x0F22 4 b s ∧ leAt b 0 4 = 0 ∧ duplex s = true ∧ s.dup.isolated = true ∧ ready s = true ∧ claimLeft s = true) ∧
    (∃ s : State, ∃ r : Req, ∃ b, s.pwr.on = true ∧ Inline r 0x0F24 4 b s ∧ leAt b 0 4 = 0 ∧ duplex s = true ∧ inControl s = false ∧ ¬(s.dup.state = .resigned ∧ s.dup.held = true)) :=
  ⟨⟨asks (inl 0x0F20 (le 4 1)) { duo .control s0 with dup := { state := .control, linkUp := true, peer := some hdr } }, rq, le 4 1, 1, hdr, by decide +kernel, .intro (inl 0x0F20 (le 4 1)) (by unfold Held; decide +kernel), by decide +kernel, by decide +kernel, by decide +kernel, by decide +kernel, by decide +kernel, by decide +kernel, (fun x h => by cases h), (fun x h => by cases h)⟩,
   ⟨asks (inl 0x0F21 (le 4 1)) { duo .control s0 with dup := { state := .control, linkUp := true, peer := some hdr, mor := true } }, rq, le 4 1, by decide +kernel, .intro (inl 0x0F21 (le 4 1)) (by unfold Held; decide +kernel), by decide +kernel, by decide +kernel, by decide +kernel, by decide +kernel⟩,
   ⟨asks (inl 0x0F21 (le 4 2)) s0, rq, le 4 2, by decide +kernel, .intro (inl 0x0F21 (le 4 2)) (by unfold Held; decide +kernel), by decide +kernel⟩,
   ⟨asks (inl 0x0F21 (le 4 3)) (duo .standby s0), rq, le 4 3, by decide +kernel, .intro (inl 0x0F21 (le 4 3)) (by unfold Held; decide +kernel), by decide +kernel, by decide +kernel⟩,
   ⟨asks (inl 0x0F22 (zeros 4)) { standbyS with dup := { standbyS.dup with isolated := true } }, rq, zeros 4, by decide +kernel, .intro (inl 0x0F22 (zeros 4)) (by unfold Held; decide +kernel), by decide +kernel, by decide +kernel, by decide +kernel, by decide +kernel, by decide +kernel⟩,
   ⟨asks (inl 0x0F24 (zeros 4)) (duo .init s0), rq, zeros 4, by decide +kernel, .intro (inl 0x0F24 (zeros 4)) (by unfold Held; decide +kernel), by decide +kernel, by decide +kernel, by decide +kernel, by decide +kernel⟩⟩
theorem wit_ProvisionCommandsComplete :
    (∃ s : State, ∃ b : KeyBundle, s.pwr.on = true ∧ keyed s = false ∧ s.kst.nu.isSome = true ∧ b.certOk = true ∧ b.sigOk = true ∧ (getF 0x0E004 7 4 s = 15 ∨ b.senderSlot = getF 0x0E004 7 4 s)) ∧
    (∃ s : State, s.pwr.on = true ∧ s.kst.prov.isSome = true ∧ keyed s = true) ∧
    (∃ s : State, ∃ r : Req, ∃ b, ∃ h : PeerHdr, s.pwr.on = true ∧ Inline r 0x0F23 4 b s ∧ leAt b 0 4 = 0 ∧ duplex s = true ∧ s.dup.peer = some h ∧ h.keyed = false ∧ keyed s = true ∧ (getF 0x0E004 7 4 s = 15 ∨ h.slot = getF 0x0E004 7 4 s)) ∧
    (∃ s : State, ∃ h : PeerHdr, s.pwr.on = true ∧ duplex s = true ∧ s.dup.peer = some h ∧ h.keyed = false ∧ keyed s = true ∧ (getF 0x0E004 7 4 s = 15 ∨ h.slot = getF 0x0E004 7 4 s) ∧ getB 0x0E004 2 s = true ∧ s.dup.peerSince + 10000000000 ≤ s.tim.mon ∧ s.kst.prov = none) ∧
    (∃ s : State, ∃ r : Req, ∃ c, ∃ b : KeyBundle, s.pwr.on = true ∧ Held r 0x0C12 c s ∧ writeFails c.fail c.desc.length = false ∧ b.sigOk = true ∧ (s.kst.fpr = none ∨ s.kst.fpr = some b.fingerprint)) :=
  ⟨⟨{ s0 with kst := { nu := some 5 } }, bundle, by decide +kernel⟩,
   ⟨{ keyedUp s0 with kst := { prov := some 5, root := some 5 }, dup := { ops := [(.provision, rq)] } }, by decide +kernel⟩,
   ⟨asks (inl 0x0F23 (zeros 4)) (setReg 0x0E004 0x25 (keyedUp { duo .control s0 with dup := { state := .control, linkUp := true, peer := some { hdr with keyed := false } } })), rq, zeros 4, ({ hdr with keyed := false } : PeerHdr), by decide +kernel, .intro (inl 0x0F23 (zeros 4)) (by unfold Held; decide +kernel), by decide +kernel, by decide +kernel, by decide +kernel, by decide +kernel, by decide +kernel, by decide +kernel⟩,
   ⟨setReg 0x0E004 0x25 (keyedUp { duo .control (atMon 10000000000 s0) with dup := { state := .control, linkUp := true, peer := some { hdr with keyed := false } } }), ({ hdr with keyed := false } : PeerHdr), by decide +kernel⟩,
   ⟨asks (buf 0x0C12 (zeros 600)) s0, rq, buf 0x0C12 (zeros 600), bundle, by decide +kernel, by unfold Held; decide +kernel, by decide +kernel, by decide +kernel, by decide +kernel⟩⟩
theorem wit_RoundCommandsComplete :
    (∃ s : State, s.pwr.on = true ∧ stage5 s = true ∧ seqRuns s = false ∧ follows s = false ∧ startDue 0 s = true ∧ s.rnd.phase = .idle) ∧
    (∃ s : State, s.pwr.on = true ∧ stage5 s = true ∧ seqRuns s = false ∧ duplex s = true ∧ inControl s = false ∧ startDue 2000000 s = true ∧ s.rnd.phase = .idle) ∧
    (∃ s : State, ∃ h : PeerHdr, s.pwr.on = true ∧ (accept h s).isSome = true ∧ pairWhy h s = none ∧ inControl s = false ∧ (s.rnd.started = false ∨ h.round ≠ s.rnd.number) ∧ stage5 s = true ∧ seqRuns s = false) ∧
    (∃ s : State, s.pwr.on = true ∧ s.rnd.phase = .read ∧ boundary 7 0 s ≤ s.tim.mon) ∧
    (∃ s : State, s.pwr.on = true ∧ s.sep.work.isSome = true ∧ s.rnd.phase = .compute ∧ boundary 15 8 s ≤ s.tim.mon) ∧
    (∃ s : State, s.pwr.on = true ∧ s.rnd.phase = .compute ∧ s.ctr.stepped = true ∧ boundary 23 16 s ≤ s.tim.mon) ∧
    (∃ s : State, s.pwr.on = true ∧ s.rnd.phase = .write ∧ boundary 31 24 s ≤ s.tim.mon) ∧
    (∃ s : State, s.pwr.on = true ∧ duplex s = true ∧ s.dup.state = .control ∧ s.dup.closedAt.getD s.rnd.anchor + 3000000000 ≤ s.tim.mon) :=
  ⟨⟨atMon 1000000000 (atStage 5 s0), by decide +kernel⟩,
   ⟨atMon 1002000000 (atStage 6 (duo .standby s0)), by decide +kernel⟩,
   ⟨atStage 5 (duo .standby s0), hdr, by decide +kernel⟩,
   ⟨atMon 2550000000 { s0 with rnd := { phase := .read } }, by decide +kernel⟩,
   ⟨atMon 2550000000 { s0 with rnd := { phase := .compute }, sep := { work := some (work0 .newton) } }, by decide +kernel⟩,
   ⟨{ atMon 2550000000 s0 with rnd := { phase := .compute }, ctr := { stepped := true } }, by decide +kernel⟩,
   ⟨atMon 2550000000 { s0 with rnd := { phase := .write } }, by decide +kernel⟩,
   ⟨atMon 3000000000 (duo .control s0), by decide +kernel⟩⟩
theorem wit_SupplyCommandsComplete :
    (∃ s : State, s.pwr.on = true) ∧
    (∃ s : State, s.pwr.on = true) ∧
    (∃ s : State, s.pwr.on = true) ∧
    (∃ s : State, s.pwr.on = true ∧ s.pwr.seq = none) ∧
    (∃ s : State, s.pwr.on = true ∧ s.pwr.seq = none) ∧
    (∃ s : State, s.pwr.on = true ∧ s.pwr.seq = none) ∧
    (∃ s : State, s.pwr.on = true ∧ s.pwr.seq = none) ∧
    (∃ s : State, s.pwr.on = true) ∧
    (∃ s : State, s.pwr.on = true) ∧
    (∃ s : State, s.pwr.on = true) ∧
    (∃ s : State, ∃ p : Nat, s.pwr.on = true ∧ p < 4 ∧ p ∉ s.pwr.sfpOff) ∧
    (∃ s : State, ∃ p : Nat, s.pwr.on = true ∧ p < 4 ∧ p ∈ s.pwr.sfpOff) ∧
    (∃ s : State, s.pwr.on = true ∧ s.dup.state = .standby ∧ seqRuns s = false) ∧
    (∃ s : State, ∃ q : Seq, s.pwr.on = true ∧ s.pwr.seq = some q) ∧
    (∃ s : State, ∃ q : Seq, ∃ w, s.pwr.on = true ∧ s.pwr.seq = some q ∧ q.why = .holdup w) ∧
    (∃ s : State, ∃ q : Seq, ∃ w, s.pwr.on = true ∧ s.pwr.seq = some q ∧ q.why = .holdup w) :=
  ⟨⟨s0, by decide +kernel⟩,
   ⟨s0, by decide +kernel⟩,
   ⟨s0, by decide +kernel⟩,
   ⟨s0, by decide +kernel⟩,
   ⟨s0, by decide +kernel⟩,
   ⟨s0, by decide +kernel⟩,
   ⟨s0, by decide +kernel⟩,
   ⟨s0, by decide +kernel⟩,
   ⟨s0, by decide +kernel⟩,
   ⟨s0, by decide +kernel⟩,
   ⟨s0, 3, by decide +kernel⟩,
   ⟨{ s0 with pwr := { sfpOff := [3] } }, 3, by decide +kernel⟩,
   ⟨{ s0 with dup := { state := .standby } }, by decide +kernel⟩,
   ⟨{ s0 with pwr := { seq := some { why := .holdup .powerFail } } }, ({ why := .holdup .powerFail } : Seq), by decide +kernel⟩,
   ⟨{ s0 with pwr := { seq := some { why := .holdup .overTemp } } }, ({ why := .holdup .overTemp } : Seq), .overTemp, by decide +kernel⟩,
   ⟨{ s0 with pwr := { seq := some { why := .holdup .powerFail } } }, ({ why := .holdup .powerFail } : Seq), .powerFail, by decide +kernel⟩⟩
theorem wit_ResetCommandsComplete :
    (∃ s : State, s.pwr.on = true ∧ s.pwr.seq = none) ∧
    (∃ s : State, s.pwr.on = true ∧ s.pwr.seq = none) ∧
    (∃ s : State, ∃ v : Word, ∃ b, s.pwr.on = true ∧ fld v 31 16 = 0x5A3C ∧ getB 0x7F018 8 s = false ∧ b ∈ codeBlocks (fld v 5 0) ∧ b ≠ .tim ∧ b ≠ .fco) ∧
    (∃ s : State, ∃ c : PorCause, ∃ p : PorIn, porDue c p s = true) ∧
    (∃ s : State, ∃ p : PorIn, porDue .afterOverTemp p s = true) ∧
    (∃ s : State, ∃ q : Seq, ∃ w, s.pwr.on = true ∧ s.pwr.seq = some q ∧ q.why = .modReset w) ∧
    (∃ s : State, ∃ r : StageIn, s.pwr.on = true ∧ seqRuns s = false ∧ getF 0x7F01C 3 0 s < 5 ∧ (getF 0x7F01C 3 0 s ≠ 1 ∨ r.imageOk = true)) ∧
    (∃ s : State, ∃ b : Block, ∃ c, s.pwr.on = true ∧ s.pwr.seq = none ∧ b ∈ s.start.blkRst ∧ c ∈ s.start.blkRst ∧ c ≠ b) ∧
    (∃ s : State, ∃ b : Block, s.pwr.on = true ∧ s.pwr.seq = none ∧ s.start.blkRst = [b] ∧ s.fco.waitBlk = [] ∧ NoBlk s) :=
  ⟨⟨s0, by decide +kernel⟩,
   ⟨s0, by decide +kernel⟩,
   ⟨s0, 0x5A3C0000, .hif, by decide +kernel⟩,
   ⟨{ s0 with pwr := { on := false, offWhy := some .powerFail } }, .afterHoldup, por0, by decide +kernel⟩,
   ⟨{ s0 with pwr := { on := false, offWhy := some .overTemp } }, por0, by decide +kernel⟩,
   ⟨{ s0 with pwr := { seq := some { why := .modReset .watchdog } } }, ({ why := .modReset .watchdog } : Seq), .watchdog, by decide +kernel⟩,
   ⟨atStage 4 s0, stage0, by decide +kernel⟩,
   ⟨{ s0 with start := { blkRst := [.dup, .fio] } }, .dup, .fio, by decide +kernel⟩,
   ⟨{ calmS with start := { blkRst := [.hif] } }, .hif, by decide +kernel, by decide +kernel, by decide +kernel, by decide +kernel, by unfold NoBlk; decide +kernel⟩⟩
theorem wit_RegisterCommandsComplete :
    (∃ s : State, ∃ x : Access, s.pwr.on = true ∧ reaches .host s = true ∧ x.bar2 = false ∧ x.write = false ∧ x.size ≠ 8 ∧ notCarried false x.addr x.size = true) ∧
    (∃ s : State, ∃ x : Access, s.pwr.on = true ∧ reaches .host s = true ∧ x.bar2 = false ∧ x.write = false ∧ x.size = 8 ∧ x.addr % 4 ≠ 0) ∧
    (∃ s : State, ∃ x : Access, s.pwr.on = true ∧ reaches .host s = true ∧ x.bar2 = true ∧ x.write = false ∧ x.size ≠ 8) ∧
    (∃ s : State, ∃ who : Requester, ∃ n, s.pwr.on = true ∧ n < 64 ∧ reaches who s = true ∧ Answers (0x06800 + 4 * n) s) ∧
    (∃ s : State, ∃ b : Block, ∃ a, s.pwr.on = true ∧ lockAddr b = some a ∧ Answers a s) ∧
    (∃ s : State, ∃ v : Word, ∃ i, ∃ a, s.pwr.on = true ∧ fld v 31 16 = 0x5A3C ∧ i < 16 ∧ bitAt v i = true ∧ lockAddr (lockOrder.getD i .glb) = some a ∧ present a s = true) ∧
    (∃ s : State, ∃ who : Requester, ∃ n, s.pwr.on = true ∧ n < 224 ∧ reaches who s = true ∧ Answers (0x08800 + 4 * n) s ∧ latched who (0x08800 + 4 * n) s = none) ∧
    (∃ s : State, ∃ u, ∃ who : Requester, ∃ a : Nat, s.pwr.on = true ∧ reaches who s = true ∧ isPairLow a = true ∧ latched who a s = none ∧ inBlockReset a s = false ∧ u = (if 0x0C200 ≤ a ∧ a < 0x0C400 ∧ a % 0x10 = 0 then pmcCatch s ((a - 0x0C200) / 0x10) else s)) ∧
    (∃ s : State, ∃ who : Requester, ∃ a, s.pwr.on = true ∧ reaches who s = true ∧ Answers 0x04040 s ∧ a ∈ netRegs) ∧
    (∃ s : State, ∃ who : Requester, s.pwr.on = true ∧ reaches who s = true ∧ Answers 0x0600C s) ∧
    (∃ s : State, ∃ who : Requester, ∃ n : Nat, s.pwr.on = true ∧ reaches who s = true ∧ n < 4 ∧ Answers (0x04218 + 0x20 * n) s ∧ latched who (0x04218 + 0x20 * n) s = none) :=
  ⟨⟨up s0, { bar2 := false, addr := 0x0C006, size := 4, write := false, value := 0 }, by decide +kernel⟩,
   ⟨up s0, { bar2 := false, addr := 0x0C006, size := 8, write := false, value := 0 }, by decide +kernel⟩,
   ⟨up s0, { bar2 := true, addr := 6, size := 2, write := false, value := 0 }, by decide +kernel⟩,
   ⟨up s0, .host, 63, by decide +kernel, by decide +kernel, by decide +kernel, by unfold Answers; decide +kernel⟩,
   ⟨s0, .upd, 0x4C000, by decide +kernel, by decide +kernel, by unfold Answers; decide +kernel⟩,
   ⟨s0, 0x5A3C8000, 15, 0x4C000, by decide +kernel⟩,
   ⟨s0, .supervisor, 223, by decide +kernel, by decide +kernel, by decide +kernel, by unfold Answers; decide +kernel, by decide +kernel⟩,
   ⟨up s0, up s0, .host, 0x04030, by decide +kernel⟩,
   ⟨up s0, .host, 0x04064, by decide +kernel, by decide +kernel, by unfold Answers; decide +kernel, by decide +kernel⟩,
   ⟨up s0, .host, by decide +kernel, by decide +kernel, by unfold Answers; decide +kernel⟩,
   ⟨up s0, .host, 3, by decide +kernel, by decide +kernel, by decide +kernel, by unfold Answers; decide +kernel, by decide +kernel⟩⟩

/-! ## Witnesses of the statements on the whole machine, on frames and on rules -/

theorem wit_StepRunsTheFrontCommand : ∃ (s : State) (c : Instr) (rest : List Instr), s.pending = c :: rest :=
  ⟨{ s0 with pending := [.snap, .clear] }, .snap, [.clear], rfl⟩
theorem wit_IdleStepIsOneTick : ∃ s : State, s.pending = [] ∧ s.pwr.on = true := ⟨s0, rfl, rfl⟩
theorem wit_IdleStepIsOneTick_off : ∃ s : State, s.pending = [] ∧ s.pwr.on = false := ⟨{ s0 with pwr := { on := false } }, rfl, rfl⟩
theorem wit_QueueAndOutputsAreKept : ∃ s t : State, step s = .next t ∧ s.pending ≠ [] := ⟨{ s0 with pending := [.snap] }, _, rfl, by decide⟩
theorem wit_RegistersStayCanonical : ∃ s t : State, step s = .next t ∧ regsOk s.regs = true ∧ s.regs ≠ [] :=
  ⟨{ setReg 0x06800 5 s0 with pending := [.snap] }, _, rfl, by decide +kernel⟩
theorem wit_ClaimNeverDecreases : ∃ s t : State, step s = .next t ∧ s.dup.claim < t.dup.claim :=
  ⟨{ setB 0x7F040 3 true (atStage 5 s0) with pending := [.startupTakeControl] }, _, rfl, by decide +kernel⟩
theorem wit_RailsOffIsStill : ∃ s : State, s.pwr.on = false := ⟨{ s0 with pwr := { on := false } }, rfl⟩
theorem wit_Frames : NoBlk calmS ∧ (∃ t, exec (.clockFault 17) calmS = .next t) ∧ (∃ t, exec .perstN s0 = .next t) ∧
    (∃ t, exec .announceTimeout s0 = .next t) ∧ (∃ t, exec .flatStart s0 = .next t) ∧ (∃ t, exec .tlyCommit s0 = .next t) ∧
    (∃ t, exec .dioOutputLatch s0 = .next t) ∧ (∃ t, exec .autoConfirm s0 = .next t) ∧ (∃ t, exec .heartbeatTx s0 = .next t) ∧
    (∃ t, exec .roundStart s0 = .next t) ∧ ∃ t, exec (.blkrst 0) s0 = .next t :=
  ⟨by unfold NoBlk; decide +kernel, ⟨_, rfl⟩, ⟨_, rfl⟩, ⟨_, rfl⟩, ⟨_, rfl⟩, ⟨_, rfl⟩, ⟨_, rfl⟩, ⟨_, rfl⟩, ⟨_, rfl⟩, ⟨_, rfl⟩, ⟨_, rfl⟩⟩

/-- The host has latched the word at `a`. -/
def latchS (a : Nat) : State := up { s0 with hif := { latch := [(.host, a, 5)] } }
theorem wit_LowerWordReadFirst : (∃ (s : State) (a : Nat) (v : Word), s.pwr.on = true ∧ reaches .host s = true ∧ isPairLow a = true ∧
      latched .host a s = none ∧ Answers a s ∧ Answers (a + 4) s ∧ latched .host (a + 4) s = some v) ∧
    ∃ (s : State) (a : Nat), s.pwr.on = true ∧ reaches .host s = true ∧ isPairLow a = true ∧ latched .host a s = none ∧ Answers a s ∧ Answers (a + 4) s ∧
      latched .host (a + 4) s = none :=
  ⟨⟨latchS 0x04034, 0x04030, 5, by unfold Answers; decide +kernel⟩, up s0, 0x0C3F8, by unfold Answers; decide +kernel⟩
theorem wit_NetReadLatchesAll : (∃ s : State, s.pwr.on = true ∧ reaches .host s = true ∧ Answers 0x04040 s) ∧
    (∃ (s : State) (a : Nat) (v : Word), s.pwr.on = true ∧ reaches .host s = true ∧ a ∈ netRegs ∧ Answers a s ∧ latched .host a s = some v) ∧
    ∃ (s : State) (a : Nat), s.pwr.on = true ∧ reaches .host s = true ∧ a ∈ netRegs ∧ latched .host a s = none :=
  ⟨⟨up s0, by unfold Answers; decide +kernel⟩, ⟨latchS 0x04064, 0x04064, 5, by unfold Answers; decide +kernel⟩, up s0, 0x04044, by decide +kernel⟩
theorem wit_LockBits : (∃ a r, blockAt a = some .pmc ∧ regSpec a = some r) ∧ (∃ a r, blockAt a = some .glb ∧ regSpec a = some r) ∧
    ∃ (s : State) (v : Word), s.pwr.on = true ∧ fld v 31 16 = 0x5A3C ∧ getF 0x7F01C 3 0 s ≠ 15 ∧ s.start.blkRst.contains .glb = false :=
  ⟨⟨0x0C100, _, by decide +kernel, rfl⟩, ⟨0x7F040, _, by decide +kernel, rfl⟩, s0, 0x5A3CFFFF, by decide +kernel⟩
theorem wit_LockedFieldsStay_reset : ∃ (s : State) (a : Nat) (r : RegSpec), s.pwr.on = true ∧ regSpec a = some r := ⟨s0, 0x04004, _, rfl, rfl⟩
/-- TIM_CTRL with its lock bit set. -/
def lockedS : State := setB 0x04000 31 true s0
theorem wit_LockedFieldsStay : ∃ (s : State) (a : Nat) (v : Word) (b : Block) (r : RegSpec), blockAt a = some b ∧ regSpec a = some r ∧
    lockOf b s = true ∧ rangeOk a ((getReg a s &&& ~~~BitVec.ofNat 32 r.rw) ||| (v &&& BitVec.ofNat 32 r.rw)) = true ∧
    v &&& BitVec.ofNat 32 r.rwl ≠ getReg a s &&& BitVec.ofNat 32 r.rwl :=
  ⟨lockedS, 0x04004, 0x00020002, .tim, _, by decide +kernel, rfl, by decide +kernel⟩
theorem wit_LockedFieldsStay_open : ∃ (s : State) (a : Nat) (v : Word) (b : Block) (r : RegSpec), blockAt a = some b ∧ regSpec a = some r ∧
    lockOf b s = false ∧ rangeOk a ((getReg a s &&& ~~~(BitVec.ofNat 32 r.rw ||| BitVec.ofNat 32 r.rwl)) |||
      (v &&& (BitVec.ofNat 32 r.rw ||| BitVec.ofNat 32 r.rwl))) = true := ⟨s0, 0x04004, 0x00020002, .tim, _, by decide +kernel, rfl, by decide +kernel⟩
theorem wit_EnableStartsThePair : ∃ (s : State) (pair : Nat) (v : Word), s.pwr.on = true ∧ pair < 60 ∧ ownedInside pair s = false ∧
    .hif ∉ s.start.blkRst ∧ bitAt v 2 = false ∧ ringOn pair s = false ∧ ringIdle pair s = true ∧ within (fld (v ||| 1) 15 12) 4 0xC = true ∧
    within (fld (v ||| 1) 11 8) 4 0xC = true ∧ getF (ringReg pair 0) 11 0 s = 0 ∧ getF (ringReg pair 8) 11 0 s = 0 := ⟨s0, 59, 0x4C01, by decide +kernel⟩
def buf0 : Buf := { slot := 2, tag := 1, addr := some 4096, len := 4, irq := false }
theorem wit_LongItemIsCut : (∃ (s : State) (pair : Nat) (b : Bytes) (u : Buf) (us : List Buf) (a : Nat), (ring pair s).bufs = u :: us ∧ u.addr = some a ∧
      hasRoom pair s = true ∧ (ring pair s).lost = 0 ∧ bufFails pair b s = false ∧ 0 < u.len ∧ b ≠ [] ∧ u.len < b.length) ∧
    ∃ (s : State) (pair : Nat) (b : Bytes) (u : Buf) (us : List Buf) (a : Nat), (ring pair s).bufs = u :: us ∧ u.addr = some a ∧
      hasRoom pair s = true ∧ (ring pair s).lost = 0 ∧ bufFails pair b s = false ∧ 0 < u.len ∧ b ≠ [] ∧ b.length ≤ u.len :=
  ⟨⟨putRing 46 { bufs := [buf0] } (pairOn 46 s0), 46, zeros 5, buf0, [], 4096, by decide +kernel⟩,
   putRing 46 { bufs := [buf0] } (pairOn 46 s0), 46, zeros 4, buf0, [], 4096, by decide +kernel⟩
theorem wit_MaskedVectorsWait : ∃ (s : State) (v : Nat), 0 < v ∧ v < 64 ∧ s.hif.msixOn = true ∧ linkOk s = true ∧ vecMasked v s = true :=
  ⟨{ s0 with hif := { msixOn := true, linkUp := true, busMaster := true, fnMask := true } }, 63, by decide +kernel⟩
theorem wit_MaskedVectorsWait_pending : ∃ (s : State) (v : Nat), 0 < v ∧ v < 64 ∧ s.pwr.on = true ∧ s.hif.msixOn = true ∧ linkOk s = true ∧
    s.hif.fnMask = false ∧ v ∈ s.hif.pba ∧ (∀ m, tget s.hif.lastMsg v = some m → m + 100000 ≤ s.tim.mon) :=
  ⟨{ s0 with hif := { msixOn := true, linkUp := true, busMaster := true, pba := [1] } }, 1, by decide, by decide, rfl, rfl, rfl, rfl, by decide,
    fun m h => by cases h⟩
theorem wit_MaskedVectorsWait_function : ∃ (s : State) (v : Nat), 0 < v ∧ v < 64 ∧ s.pwr.on = true ∧ linkOk s = true ∧
    getB (0x0300C + 16 * v) 0 s = false ∧ v ∈ s.hif.pba ∧ (∀ m, tget s.hif.lastMsg v = some m → m + 100000 ≤ s.tim.mon) :=
  ⟨setReg (0x0300C + 16 * 63) 0 { s0 with hif := { linkUp := true, busMaster := true, fnMask := true, pba := [63] } }, 63, by decide, by decide, rfl,
    by decide +kernel, by decide +kernel, by decide, fun m h => by cases h⟩
theorem wit_MaskedVectorsWait_none : ∃ (s : State) (v : Nat), 0 < v ∧ v < 64 ∧ s.pwr.on = true ∧ v ∉ s.hif.pba := ⟨s0, 63, by decide⟩
theorem wit_TwoHigherClaimsResign : ∃ (s : State) (ident other held : Nat), duplex s = true ∧ s.dup.state = .control ∧ s.dup.claim < held ∧
    other ∈ s.dup.heldBy ∧ other ≠ ident :=
  ⟨{ duo .control s0 with dup := { state := .control, heldBy := [4] } }, 3, 4, 1, by decide +kernel⟩
def seqS : State := { s0 with pwr := { seq := some { why := .holdup .powerFail } } }
theorem wit_SequenceRunsOn : ∃ (s : State) (n : Nat), seqRuns s = true ∧ n < 224 ∧ (srcRow n).known = true ∧ (srcRow n).level = false ∧
    n ∉ s.fco.active ∧ fld (srcCfg n s) 23 16 ≤ 1 ∧ tgetD s.fco.window n 0 = 0 ∧ fld (getReg (0x0B000 + 4 * n) s) 15 8 = 0 ∧
    s.evr.staged.length < 255 := ⟨setReg (0x0B000 + 4 * 48) 0 seqS, 48, by decide +kernel⟩
theorem wit_SequenceRunsOn_resigns : ∃ s : State, s.pwr.on = true ∧ s.pwr.seq = none ∧ duplex s = true ∧
    (s.dup.state = .control ∨ s.dup.state = .standby ∨ s.dup.state = .syncing) := ⟨duo .syncing s0, by decide +kernel⟩
theorem wit_CompletionSlots : ∃ (s : State) (pair : Nat), (ring pair s).cmpHead < cmpSize pair s ∧ (ring pair s).cmpTail < cmpSize pair s :=
  ⟨putRing 4 { cmpHead := 15, cmpTail := 2 } (pairOn 4 s0), 4, by decide +kernel⟩
theorem wit_CompletionSlots_full : ∃ (s : State) (pair : Nat), s.pwr.on = true ∧ attached pair s = true ∧ freeSlots pair s = 0 :=
  ⟨putRing 4 { cmpHead := 3, cmpTail := 2 } (pairOn 4 s0), 4, by decide +kernel⟩
theorem wit_CompletionSlots_start : ∃ (s : State) (pair i : Nat) (c : Cmd), s.pwr.on = true ∧ pairBlocked pair s = false ∧
    startable 0 (ring pair s).cmds = some i ∧ (ring pair s).cmds[i]? = some c ∧ 0 < freeSlots pair s ∧ descCheck pair s.start.recovery c.desc s.tim.mon = none :=
  ⟨putRing 1 { cmds := [cmd0 0x0110] } (pairOn 1 s0), 1, 0, cmd0 0x0110, by decide +kernel⟩
theorem wit_TokensLimitRecords : ∃ (s : State) (c : Nat), 0xE0 ≤ c ∧ bitAt (getReg (0x0B000 + 4 * c) s) 0 = false ∧
    fld (getReg (0x0B000 + 4 * c) s) 15 8 ≠ 0 ∧ tgetD s.evr.spent c 0 < fld (getReg (0x0B000 + 4 * c) s) 7 4 ∧ s.evr.staged.length < 255 :=
  ⟨setReg (0x0B000 + 4 * 0xE0) 0x00000110 s0, 0xE0, by decide +kernel⟩
theorem wit_TokensLimitRecords_none : ∃ (s : State) (c : Nat), fld (getReg (0x0B000 + 4 * c) s) 15 8 ≠ 0 ∧
    max 1 (fld (getReg (0x0B000 + 4 * c) s) 7 4) ≤ tgetD s.evr.spent c 0 :=
  ⟨setReg (0x0B000 + 4 * 5) 0x00000110 { s0 with evr := { spent := [(5, 1)] } }, 5, by decide +kernel⟩
theorem wit_TokensLimitRecords_refill : ∃ (s : State) (c : Nat), s.pwr.on = true ∧
    onMultiple (getF (0x0B000 + 4 * c) 15 8 s * 10000000) (tgetD s.evr.refillAt c 0) s.tim.mon = true :=
  ⟨atMon 20000000 (setReg 0x0B014 0x00000210 { s0 with evr := { spent := [(5, 1)] } }), 5, by decide +kernel⟩

/-! ## Well-formedness: a term that each check refuses -/

theorem test_wf_accepts : (Instr.ringEnable 59 0).wellFormed = true ∧ (Instr.lockstepMismatch 223).wellFormed = true ∧
    (Instr.registerWrite .host 0x7FFFC 0).wellFormed = true ∧ (Instr.powerFail).wellFormed = true := by decide
theorem test_wf_pair : (Instr.ringEnable 60 0).wellFormed = false := by decide
theorem test_wf_req_pair : (Instr.progStop { pair := 60, slot := 0 }).wellFormed = false := by decide
theorem test_wf_req_slot : (Instr.progStop { pair := 46, slot := 4096 }).wellFormed = false := by decide
theorem test_wf_who : (Instr.chuDeadline (some { pair := 64, slot := 0 })).wellFormed = false := by decide
theorem test_wf_source : (Instr.lockstepMismatch 224).wellFormed = false := by decide
theorem test_wf_vector : (Instr.vectorSpacingExpiry 64).wellFormed = false ∧ (Instr.msixUnmask (.vector 64)).wellFormed = false := by decide
theorem test_wf_addr : (Instr.registerWrite .host 0x80000 0).wellFormed = false ∧ (Instr.rcRead .host 0x6001).wellFormed = false := by decide
theorem test_wf_access : (Instr.accessMisaligned { bar2 := false, addr := 0x80000, size := 4, write := true, value := 0 }).wellFormed = false ∧
    (Instr.accessMisaligned { bar2 := true, addr := 0, size := 3, write := true, value := 0 }).wellFormed = false := by decide
theorem test_wf_station : (Instr.readRetry 65536).wellFormed = false := by decide
theorem test_wf_frame : (Instr.hello { frm 1 1 0 0 [] 0 with srcPort := 65536 }).wellFormed = false ∧ (Instr.ready { frm 4 1 1 0 [] 0 with srcAddr := 2 ^ 128 }).wellFormed = false ∧
    (Instr.readRep { frm 17 1 1 0 [] 0 with data := zeros 65528 }).wellFormed = false := by decide +kernel
theorem test_wf_slot : (Instr.powerOnReset .supplyUp { por0 with slot := 16 }).wellFormed = false := by decide
theorem test_wf_descriptor : (Instr.descriptorFetch 4 (zeros 63)).wellFormed = false := by decide
theorem test_wf_link : (Instr.linkReturn 4 1).wellFormed = false ∧ (Instr.linkReturn 3 8).wellFormed = false := by decide
theorem test_wf_samples : (Instr.feederBlock 3 [{ v := [], vq := [0, 0, 0], iH := [0, 0, 0, 0], iL := [0, 0, 0, 0] }]).wellFormed = false ∧
    (Instr.supplyConditionChange 0 .revSeq { v := [], i := [], ms := 0 }).wellFormed = false := by decide
theorem test_wf_peer : (Instr.take { hdr with slot := 16 }).wellFormed = false ∧ (Instr.confirm hdr .forceCycle 256 0).wellFormed = false := by decide
theorem test_wf_eth : (Instr.ethFrameRx 0 { ethF with data := zeros 13 }).wellFormed = false := by decide
theorem test_wf_mids :
    ([img1, { img1 with branches := [pipe 77] }, { img1 with units := [unitD (8 * 2 ^ 28)] }, { img1 with meas := [{ meas0 with mid := 2 ^ 28 }] },
      { img1 with branches := [{ pipe (2 * 2 ^ 28 + 1) with net := 1 }] }].map (fun m => (Instr.updBlock rq 0 (.model m)).wellFormed)) =
      [true, false, false, false, false] := by decide +kernel
theorem test_wf_port : (Instr.sfpOverpower 4).wellFormed = false ∧ (Instr.noPeers 2).wellFormed = false := by decide
theorem test_wf_queue : (Instr.frameLaunch 0 8).wellFormed = false := by decide
theorem test_wf_an : (Instr.keyNumberAnnouncement 0 4 1 1 0).wellFormed = false := by decide
theorem test_wf_unit : (Instr.captureEdge 4 true).wellFormed = false := by decide
theorem test_wf_path : (Instr.bwWindowEnd 5).wellFormed = false := by decide
theorem test_wf_selector : (Instr.pmcSelWrite 32 0).wellFormed = false := by decide
theorem test_wf_active : (Instr.fcoActiveClear 7 0).wellFormed = false := by decide
theorem test_wf_plant : (Instr.plantAck 256 []).wellFormed = false := by decide
theorem test_wf_feeder : (Instr.feederBlock 4 []).wellFormed = false := by decide
theorem test_wf_meter : (Instr.localHeatSample 8 lsample).wellFormed = false := by decide
theorem test_wf_task : (Instr.taskActivation 8).wellFormed = false := by decide
theorem test_wf_domain : (Instr.incrCommit 3 0).wellFormed = false := by decide
theorem test_wf_channel : (Instr.dioInputEdge 32 true).wellFormed = false ∧ (Instr.busOff 4).wellFormed = false := by decide
theorem test_wf_node : (Instr.canNodeTimeout 0 64).wellFormed = false := by decide
theorem test_wf_cell : (Instr.schedCellOpen 0 8 0).wellFormed = false ∧ (Instr.schedCellOpen 0 0 32).wellFormed = false := by decide
theorem test_wf_object : (Instr.schedWindowDrop 0 255).wellFormed = false := by decide
theorem test_wf_can : (Instr.canFrameRx 0 { canF with data := zeros 65 }).wellFormed = false := by decide
theorem test_wf_group : (Instr.groupSupplyMissing 0 true).wellFormed = false := by decide
theorem test_wf_restart : (Instr.modreset 4).wellFormed = false := by decide
theorem test_wf_code : (Instr.evrTokenRefill 1024).wellFormed = false := by decide

/-! ## Worked examples of the spec -/

/-- 20_register_reference.md, Bringing a module under lock, step 1. -/
theorem test_identity : regRead 0x7F000 s0 = 0x445A7416 ∧ regRead 0x7F004 { s0 with cfg := { variantT := true, hwrev := 1 } } = 0x00010054 := by decide +kernel
/-- The same, steps 5 and 6. -/
theorem test_lockset : after (.glbLockset 0x5A3CFFFF) s0 (fun t => regRead 0x7F024 t == 0x0000FFFF) = true := by decide +kernel
/-- The same: a later write of SEP_TOL is ignored and recorded under code 220h with 14008h in bits 31:0 of ARG. -/
theorem test_locked_sepTol : after (.registerWrite .host 0x14008 1) (setB 0x14000 31 true (up s0)) (fun t =>
    getReg 0x14008 t == getReg 0x14008 s0 && t.evr.staged.any (fun e => e.code == 0x220 && e.arg % 2 ^ 32 == 0x14008)) = true := by decide +kernel
/-- 04_host_interface_queues.md, the example of pair 1: rings of 64 entries at 62, SUB_TAIL 1 announces three descriptors. -/
def pair62 : State := putRing 1 { subHead := 62, subTail := 62, cmpHead := 62, cmpTail := 62, armed := true } (setReg (ringReg 1 0x10) 0x00076601 (link s0))
theorem test_doorbell : after (.subTail 1 1) pair62 (fun t => (ring 1 t).subTail == 1 && (ring 1 t).subHead == 62) = true := by decide +kernel
theorem test_fetch_wraps : after (.descriptorFetch 1 ([0x10, 0x01, 0, 1] ++ zeros 60)) (putRing 1 { subHead := 63, subTail := 1 } pair62)
    (fun t => (ring 1 t).subHead == 0 && (ring 1 t).cmds.map (·.slot) == [63]) = true := by decide +kernel
/-- 14_duplex_redundancy.md, R395: slot 4 takes control with max(56, 57, 57) + 1 = 58. -/
theorem test_claim58 : after .takeWaitExpiry (setB 0x7F040 3 true { duo .init (atMon 2000000 s0) with dup := { claim := 56, peerClaim := some 57, heldPrev := 57, takeSent := some 0 } })
    (fun t => t.dup.state == .control && t.dup.claim == 58) = true := by decide +kernel
/-- 12_round_protocol.md, the example of station 143: a round that does not write the station makes it SUSPECT with MISSES 1. -/
theorem test_suspect : after (.roundClose none) (atMon 3000000000 { stnUp .active { listed := true, reads := 1 } s0 with
      rnd := { (stnUp .active { listed := true, reads := 1 } s0).rnd with phase := .write } })
    (fun t => (stn 3 t).state == .suspect && (stn 3 t).misses == 1) = true := by decide +kernel
/-- 15_field_interfaces.md, the example of CAN1: the matrix of 2 rows and 3 columns completes with OK. -/
theorem test_matrix : after (.schedLoad { pair := 43, slot := 3 } (le 4 10000 ++ [2, 3] ++ zeros 10 ++ le 4 0 ++ le 4 3000 ++ le 4 6000 ++ [0, 1, 255, 0, 1, 2]))
    (asksAt 43 (buf 0x0912 (zeros 34)) { s0 with cfg := { canNodes := [{ canN with ch := 1, tx := [{ ident := 1, fd := true, plant := some 1, map := [], wcttUs := 342 }, { ident := 2, fd := true, plant := some 2, map := [], wcttUs := 342 }, { ident := 3, fd := false, plant := none, map := [], wcttUs := 130 }] }] } })
    (fun t => t.out.contains (.opDone { pair := 43, slot := 3 } 0 0 34 [])) = true := by decide +kernel
/-- 16_time_and_backup_domain.md, the example of grandmaster B: +37 ms above STEP_THR of 1 ms is refused, and TIM_PENDOFS reads 37,000,000. -/
theorem test_step_refused : after (.ptpOffsetMeasurement 37000000) { s0 with tim := { slave := 3, quality := .holdover, net := 90000000000 } }
    (fun t => t.tim.stepPend && t.tim.net == 90000000000 && getReg 0x04020 t == 37000000) = true := by decide +kernel
/-- The same: after STEP_ACCEPT the next offset of +37.002 ms steps NET. -/
theorem test_step_accepted : after (.ptpOffsetMeasurement 37002000) { s0 with tim := { slave := 3, quality := .holdover, stepPend := true, acceptNext := true, net := 90000000000 } }
    (fun t => !t.tim.stepPend && t.tim.net == 90037002000) = true := by decide +kernel
/-- The same: with no port SLAVE NET goes from SYNC to HOLDOVER. -/
theorem test_holdover : after .announceTimeout { s0 with tim := { slave := 1, quality := .sync } } (fun t => t.tim.quality == .holdover) = true := by decide +kernel
/-- 18_faults_events_counters.md, the example of code 2A5h: with BURST 4 and PERIOD 1 s the fifth discard is suppressed and counted as pending. -/
theorem test_bucket_empties : let s := { s0 with evr := { spent := [(0x2A5, 4)] } }
    (evt 13 5 3 s).evr.staged = [] ∧ tgetD (evt 13 5 3 s).evr.pend 0x2A5 0 = 1 := by decide +kernel
theorem test_bucket_keeps : let s := { s0 with evr := { spent := [(0x2A5, 3)] } }
    (evt 13 5 3 s).evr.staged.map (fun e => (e.code, e.group, e.suppr, e.arg)) = [(0x2A5, 13, 0, 3)] := by decide +kernel
/-- 02_module_hardware.md: in slot 3 the module reads 0011b. -/
theorem test_slot3 : after (.powerOnReset .supplyUp { por0 with slot := 3 }) { s0 with pwr := { on := false } } (fun t => getF 0x7F040 27 24 t == 3) = true := by decide +kernel
/-- 08_churn_solver_engine.md, the example of network 0: 600,000 L/h in a block of E = 21 is the mantissa 249F_0000h. -/
theorem test_block : bsPut 21 600000 = (0x249F0000, false) := by decide +kernel
/-- 10_loop_engine.md, the example of loop 17: bank A has driven the output to 1.000, and bank B with OUT_HI 0.90 waits to be swapped in. -/
def word400 : Binding := { kind := 1, ref := 0x400, quantity := 0 }
def loop17 : LoopSt :=
  { struct := some { loopR 17 with div := 10, phase := 3, pv := word400, out := word400, pvHi := 400000, outEngHi := 1000 },
    bankA := some { coef 17 false with kp := 0x02000000, ti := 20000000, outLo := 214748365, outHi := 0x40000000 },
    bankB := some { coef 17 true with kp := 0x01800000, ti := 30000000, outLo := 214748365, outHi := 0x3999999A },
    mode := 2, swap := some { req := some rq, len := 48 }, i := 4427218577690292388, y := 0x40000000, satHi := true, spU := 250000000000, spLocal := 250000 }
def swapS : State :=
  asks (buf 0x0411 (coefB 17 true)) <| setReg 0x1C004 1000 <| atStage 5 <| withLoop 17 loop17
    { atMon 423000000 s0 with cyc := { inp := [(0x400, 236000)], stamps := [(0x400, 423000000)] } }
/-- Its sample at 423.0 ms: y is 0.900, i is 0.8475, SAT_HI stays set, the image word is 900 and the LOOP_COEF completes with SWAP_SAT. -/
theorem test_loop17 : after .baseTick swapS (fun t => (loop 17 t).useB && (loop 17 t).y == 0x3999999A && iOut (loop 17 t).i == 909996196 &&
    (loop 17 t).satHi && outWord 0x400 t == 900 && t.out == [.opDone rq 0x51 0 48 []]) = true := by decide +kernel
/-- The queue: a step takes the front command alone. -/
theorem test_step : (match step { s0 with pending := [.snap, .clear] } with | .next t => t.pending == [.clear] | _ => false) = true := by decide +kernel
theorem test_no_word : decodeTableWord 32 5 = none ∧ State.withFetchWord s0 32 5 = s0 := by decide +kernel

end Sys2Proof.Machine
end

section
/-!
PROOFS. The accesses to the registers and the lock bits: what a read answers and latches (R10 to R12, R452, R462, R465), what a write leaves
(R7 to R9, R549), and what a block reset keeps (R9, R70).
-/
namespace Sys2Proof.Machine

/-! ## From an operation to its command -/

/-- With the rails on a command answers the state that its operation leaves. -/
theorem does_run {i : Instr} {f : State → State} {s : State} {P : State → Prop} (he : exec i s = run f s) (on : s.pwr.on = true) (h : P (f s)) :
    Does i s P := ⟨f s, by rw [he, run, if_pos on], h⟩

/-! ## A requester's access leaves what its operation leaves, but for the counters -/

section Requester
variable {who : Requester} {f : State → State} {s : State}

theorem readBy_out (h : reaches who s = true) : (readBy who f s).out = (f s).out := (readBy_pmc h).parts .out (by decide)
theorem readBy_hif (h : reaches who s = true) : (readBy who f s).hif = (f s).hif := (readBy_pmc h).parts .hif (by decide)
theorem readBy_tim (h : reaches who s = true) : (readBy who f s).tim = (f s).tim := (readBy_pmc h).parts .tim (by decide)
theorem getReg_readBy (h : reaches who s = true) (a : Nat) : getReg a (readBy who f s) = getReg a (f s) := (readBy_pmc h).regs _ rfl a (by simp)
theorem getB_readBy (h : reaches who s = true) (a i : Nat) : getB a i (readBy who f s) = getB a i (f s) := by rw [getB, getReg_readBy h, getB]
theorem getReg_writeBy (h : reaches who s = true) (a : Nat) : getReg a (writeBy who f s) = getReg a (f s) := (writeBy_pmc h).regs _ rfl a (by simp)

end Requester

/-! ## Latches -/

section Latches
variable {who : Requester} {a b : Nat} {v : Word} {s t : State}

theorem latched_of_hif (h : t.hif = s.hif) : latched who a t = latched who a s := by rw [latched, h, latched]

@[simp] theorem latched_emit (o : Out) : latched who a (emit o s) = latched who a s := latched_of_hif (emit_hif o s)

theorem latched_readBy {f : State → State} {w : Requester} (h : reaches w s = true) : latched who a (readBy w f s) = latched who a (f s) :=
  latched_of_hif (readBy_hif h)

@[simp] theorem latched_latchAt_same : latched who a (latchAt who a v s) = some v := by simp [latched, latchAt]

theorem latched_latchAt_other (h : b ≠ a) : latched who b (latchAt who a v s) = latched who b s := by
  have drop : ∀ l : List (Requester × Nat × Word),
      (l.filter (fun e => !(e.1 == who && e.2.1 == a))).find? (fun e => e.1 == who && e.2.1 == b) =
        l.find? (fun e => e.1 == who && e.2.1 == b) := by
    intro l
    rw [List.find?_filter]
    congr 1
    funext e
    cases hb : e.2.1 == b with
    | false => simp
    | true =>
      have ha : (e.2.1 == a) = false := by rw [beq_iff_eq.1 hb]; exact beq_false_of_ne h
      simp only [ha, Bool.and_false, Bool.not_false, true_and, Bool.decide_eq_true]
  unfold latched latchAt
  dsimp only
  rw [List.find?_cons_of_neg (by simp [Ne.symm h]), drop]

/-- After a latch at each of several addresses every one of them holds its value. -/
theorem latched_foldl_latchAt (g : Nat → Word) {l : List Nat} (h : a ∈ l) :
    latched who a (l.foldl (fun t a => latchAt who a (g a) t) s) = some (g a) := by
  induction l using List.reverseRecOn with
  | nil => cases h
  | append_singleton l x ih =>
    rw [List.foldl_append]
    by_cases e : a = x
    · subst e; simp
    · have m : a ∈ l := by simpa [e] using h
      simpa [latched_latchAt_other e] using ih m

end Latches

theorem inBlockReset_of_start {a : Nat} {s t : State} (h : t.start = s.start) : inBlockReset a t = inBlockReset a s := by
  unfold inBlockReset
  rw [h]

/-! ## Addresses of 64-bit pairs -/

/-- A register whose read does nothing beyond the latch of a pair and the clearing of RC fields: none of the registers that a full read
treats on their own (R452, R465, R515, R522). -/
def ReadsPlainly (a : Nat) : Prop :=
  a % 4 = 0 ∧ a ≠ 0x0A060 ∧ a ≠ 0x0A07C ∧ ¬(0x0C600 ≤ a ∧ a < 0x0C6A0 ∧ a % 0x20 = 4) ∧ ¬(0x0C600 ≤ a ∧ a < 0x0C6A0 ∧ a % 0x20 = 8) ∧
    a ≠ 0x04040 ∧ a ≠ 0x0600C

theorem isPairLow_iff (a : Nat) : isPairLow a = true ↔
    a ∈ pairLows ∨ (0x01000 ≤ a ∧ a < 0x01F00 ∧ (a % 0x40 = 0 ∨ a % 0x40 = 8)) ∨ (0x04200 ≤ a ∧ a < 0x04280 ∧ a % 0x20 = 4) ∨
      (0x0C200 ≤ a ∧ a < 0x0C400 ∧ a % 8 = 0) ∨ (0x10100 ≤ a ∧ a < 0x10300 ∧ a % 0x20 = 0) := by
  simp [isPairLow, or_assoc, and_assoc]

theorem isPairLow_false_iff (a : Nat) : isPairLow a = false ↔
    a ∉ pairLows ∧ ¬(0x01000 ≤ a ∧ a < 0x01F00 ∧ (a % 0x40 = 0 ∨ a % 0x40 = 8)) ∧ ¬(0x04200 ≤ a ∧ a < 0x04280 ∧ a % 0x20 = 4) ∧
      ¬(0x0C200 ≤ a ∧ a < 0x0C400 ∧ a % 8 = 0) ∧ ¬(0x10100 ≤ a ∧ a < 0x10300 ∧ a % 0x20 = 0) := by
  rw [← Bool.not_eq_true, isPairLow_iff]
  simp only [not_or]

/-- The single pairs by their bounds and alignment: each lower word stands at a multiple of 4, outside the arrays. -/
theorem pairLows_readsPlainly {a : Nat} (h : a ∈ pairLows) : ReadsPlainly a ∧ ReadsPlainly (a + 4) ∧ isPairLow (a + 4) = false := by
  have all : ∀ a ∈ pairLows, ReadsPlainly a ∧ ReadsPlainly (a + 4) ∧ isPairLow (a + 4) = false := by
    unfold ReadsPlainly
    decide
  exact all a h

theorem readsPlainly_of_pairLow {a : Nat} (h : isPairLow a = true) : ReadsPlainly a := by
  rcases (isPairLow_iff a).1 h with single | array
  · exact (pairLows_readsPlainly single).1
  · unfold ReadsPlainly; omega

theorem readsPlainly_of_pairHigh {a : Nat} (h : isPairLow a = true) : ReadsPlainly (a + 4) := by
  rcases (isPairLow_iff a).1 h with single | array
  · exact (pairLows_readsPlainly single).2.1
  · unfold ReadsPlainly; omega

/-- The upper word of a pair is the lower word of none. -/
theorem isPairLow_pairHigh {a : Nat} (h : isPairLow a = true) : isPairLow (a + 4) = false := by
  rcases (isPairLow_iff a).1 h with single | array
  · exact (pairLows_readsPlainly single).2.2
  · rw [isPairLow_false_iff]
    refine ⟨?_, by omega, by omega, by omega, by omega⟩
    simp only [pairLows, List.mem_cons, List.not_mem_nil, or_false]
    omega

/-! ## What a read answers -/

section Reads
variable {who : Requester} {a : Nat} {s u : State}

/-- A read of a register that answers, outside those that are read on their own. -/
theorem fullRead_plain (h : ReadsPlainly a) (ans : Answers a s) :
    fullRead who a s = if isPairLow a then lowerRead who a s
      else if (latched who a s).isSome then emit (.regRead who a (seen who a s)) s else rcRead who a s := by
  obtain ⟨aligned, win, adv, tx, rx, net, sub⟩ := h
  obtain ⟨here, calm⟩ := ans
  have word : a / 4 * 4 = a := by omega
  unfold fullRead
  simp only [word, here, calm, Bool.not_true, Bool.or_false, Bool.false_eq_true, if_false, if_neg win, if_neg adv, if_neg tx, if_neg rx, if_neg net,
    if_neg sub]

theorem fullRead_pairLow (h : isPairLow a = true) (ans : Answers a s) : fullRead who a s = lowerRead who a s := by
  rw [fullRead_plain (readsPlainly_of_pairLow h) ans, if_pos h]

/-- A latched value answers instead of the register (R11). -/
theorem fullRead_latched {v : Word} (h : ReadsPlainly a) (ans : Answers a s) (low : isPairLow a = false) (l : latched who a s = some v) :
    fullRead who a s = emit (.regRead who a v) s := by
  rw [fullRead_plain h ans, if_neg (by simp [low]), if_pos (by simp [l]), seen, l, Option.getD_some]

/-- With no value latched the register itself answers. -/
theorem fullRead_live (h : ReadsPlainly a) (ans : Answers a s) (low : isPairLow a = false) (l : latched who a s = none) :
    fullRead who a s = rcRead who a s := by
  rw [fullRead_plain h ans, if_neg (by simp [low]), if_neg (by simp [l])]

theorem rcRead_mem (who : Requester) (a : Nat) (s : State) : .regRead who a (regRead a s) ∈ (rcRead who a s).out := List.mem_cons_self

/-- The read of a register that answers clears its RC fields (R12). -/
theorem getReg_rcRead {r : RegSpec} (ans : Answers a s) (spec : regSpec a = some r) (h : a ≠ 0x7F048) :
    getReg a (rcRead who a s) = getReg a s &&& ~~~BitVec.ofNat 32 r.rc := by
  obtain ⟨here, calm⟩ := ans
  simp [rcRead, here, calm, h, spec]

/-- What a counter takes as it is looked at changes neither latches nor block resets. -/
theorem lowerCatch_frame (hu : u = if 0x0C200 ≤ a ∧ a < 0x0C400 ∧ a % 0x10 = 0 then pmcCatch s ((a - 0x0C200) / 0x10) else s) :
    u.hif = s.hif ∧ u.start = s.start := by
  have w : Within [.pmc, .free] (some []) s u := by
    rw [hu]
    exact Within.ite (pmcCatch_within _ _) Within.refl
  exact ⟨w.parts .hif (by decide), w.parts .start (by decide)⟩

/-- The read of a lower word that no latch holds answers the live word and latches the upper one of the same instant (R11). -/
theorem lowerRead_live (low : isPairLow a = true) (l : latched who a s = none) (calm : inBlockReset a s = false)
    (hu : u = if 0x0C200 ≤ a ∧ a < 0x0C400 ∧ a % 0x10 = 0 then pmcCatch s ((a - 0x0C200) / 0x10) else s) :
    lowerRead who a s = emit (.regRead who a (regRead a u)) (latchAt who (a + 4) (regRead (a + 4) u) u) := by
  obtain ⟨hhif, hstart⟩ := lowerCatch_frame hu
  have l' : latched who a u = none := (latched_of_hif hhif).trans l
  have calm' : inBlockReset a u = false := (inBlockReset_of_start hstart).trans calm
  unfold lowerRead
  simp only [← hu, seen, l', calm', low, Option.isSome_none, Option.getD_none, Bool.not_true, Bool.or_false, Bool.false_eq_true, if_false]

/-- What the requester is left with by the read of a lower word: the live word, and the upper word latched. -/
theorem lowerRead_answers (low : isPairLow a = true) (l : latched who a s = none) (calm : inBlockReset a s = false)
    (hu : u = if 0x0C200 ≤ a ∧ a < 0x0C400 ∧ a % 0x10 = 0 then pmcCatch s ((a - 0x0C200) / 0x10) else s) :
    .regRead who a (regRead a u) ∈ (lowerRead who a s).out ∧ latched who (a + 4) (lowerRead who a s) = some (regRead (a + 4) u) := by
  rw [lowerRead_live low l calm hu]
  exact ⟨List.mem_cons_self, by simp⟩

/-- The read of TIM_NETSEC_LO answers it and latches every other register of NET, LEG and BUS (R452). -/
theorem fullRead_net (ans : Answers 0x04040 s) : fullRead who 0x04040 s = netRead who s := by
  obtain ⟨here, calm⟩ := ans
  simp [fullRead, here, calm]

theorem netRead_mem (who : Requester) (s : State) : .regRead who 0x04040 (regRead 0x04040 s) ∈ (netRead who s).out := List.mem_cons_self

theorem latched_netRead (h : a ∈ netRegs) : latched who a (netRead who s) = some (regRead a s) :=
  (latched_emit _).trans (latched_foldl_latchAt (fun a => regRead a s) h)

/-- The read of BKD_RTCSUB takes the whole RTC into its shadow (R465). -/
theorem fullRead_rtcsub (ans : Answers 0x0600C s) :
    fullRead who 0x0600C s = emit (.regRead who 0x0600C (regRead 0x0600C s)) { s with tim := { s.tim with shadow := s.tim.rtc } } := by
  obtain ⟨here, calm⟩ := ans
  simp [fullRead, rtcsubRead, here, calm]

end Reads

/-! ## Registers with RC fields -/

theorem blockAt_fcoCount {n : Nat} (h : n < 224) : blockAt (0x08800 + 4 * n) = some .fco := by
  unfold blockAt
  (repeat rw [if_neg (by omega)]); rw [if_pos (by omega)]

/-- The event counters of the fault collector are RC as a whole (R506). -/
theorem regSpec_fcoCount {n : Nat} (h : n < 224) : regSpec (0x08800 + 4 * n) = some ⟨0, 0, 0, 0, 0xFFFFFFFF⟩ := by
  unfold regSpec
  rw [blockAt_fcoCount h]
  unfold fcoSpec
  dsimp only
  (repeat rw [if_neg (by omega)]); rw [if_pos (by omega)]

/-- An event counter shows the value that the register file holds. -/
theorem regRead_fcoCount {n : Nat} {s : State} (h : n < 224) (here : present (0x08800 + 4 * n) s = true) :
    regRead (0x08800 + 4 * n) s = getReg (0x08800 + 4 * n) s := by
  have view : regView (0x08800 + 4 * n) s = none := by
    unfold regView
    rw [blockAt_fcoCount h]
    unfold viewFco
    dsimp only
    rw [if_neg (by omega), if_neg (by omega)]
  simp [regRead, here, regSpec_fcoCount h, view]

theorem readsPlainly_fcoCount {n : Nat} (h : n < 224) : ReadsPlainly (0x08800 + 4 * n) ∧ isPairLow (0x08800 + 4 * n) = false := by
  refine ⟨by unfold ReadsPlainly; omega, ?_⟩
  simp only [isPairLow_false_iff, pairLows, List.mem_cons, List.not_mem_nil, or_false]
  omega

/-- The status of a capture unit: NEW and OVR are RC (R462). -/
theorem capstat_facts {n : Nat} (h : n < 4) : ReadsPlainly (0x04218 + 0x20 * n) ∧ isPairLow (0x04218 + 0x20 * n) = false ∧
    regSpec (0x04218 + 0x20 * n) = some ⟨0, 0, 0, 0, 0x3⟩ := by
  have all : ∀ n < 4, ReadsPlainly (0x04218 + 0x20 * n) ∧ isPairLow (0x04218 + 0x20 * n) = false ∧
      regSpec (0x04218 + 0x20 * n) = some ⟨0, 0, 0, 0, 0x3⟩ := by
    unfold ReadsPlainly
    decide
  exact all n h

/-! ## Accesses that are not carried out (R10) -/

section Access
variable {addr size value : Nat} {s : State}

/-- A read of BAR0 that is not carried out is recorded and returns 0. -/
theorem accessPart_notCarried (hr : reaches .host s = true) (h : notCarried false addr size = true) :
    accessPart false false addr size value s = pmcAdd 0x95 1 (emit (.regRead .host addr 0) (writeIgnored addr 0 s)) := by
  simp [accessPart, readBy_eq hr, access0, h]

/-- A read of BAR2 shows the addressed bytes of the doorbell page, or 0 where it is not carried out (R83). -/
theorem accessPart_bar2_read (addr size value : Nat) (s : State) :
    .bar2Read addr (if notCarried false addr size then 0 else cutWord addr size (doorbellRead addr s)) ∈ (accessPart true false addr size value s).out := by
  by_cases h : notCarried false addr size = true
  · simp [accessPart, access2, h, emit]
  · simp [accessPart, access2, h, emit]

theorem reaches_of_stage {who : Requester} {s t : State} (h : getReg 0x7F01C t = getReg 0x7F01C s) : reaches who t = reaches who s := by
  rw [reaches, getF, h, reaches, getF]

end Access

/-! ## Writes by the access types of the fields (R7, R9) -/

section Writes
variable {a : Nat} {v : Word} {b : Block} {r : RegSpec} {s : State}

/-- With LOCK at 1 only the RW and W1C fields and the lock bit itself take a write; one that would change an RWL field is recorded. -/
theorem plainWrite_locked (hb : blockAt a = some b) (hr : regSpec a = some r) (hl : lockOf b s = true)
    (ok : rangeOk a ((getReg a s &&& ~~~BitVec.ofNat 32 r.rw) ||| (v &&& BitVec.ofNat 32 r.rw)) = true) :
    plainWrite a v s = setReg a ((((getReg a s &&& ~~~BitVec.ofNat 32 r.rw) ||| (v &&& BitVec.ofNat 32 r.rw)) &&&
        ~~~(v &&& BitVec.ofNat 32 r.w1c)) ||| (if lockAddr b = some a ∧ bitAt v 31 then 0x80000000 else 0))
      (if v &&& BitVec.ofNat 32 r.rwl = getReg a s &&& BitVec.ofNat 32 r.rwl then s else writeIgnored a v s) := by
  simp only [plainWrite, hb, hr, hl, if_true, BitVec.ofNat_eq_ofNat, BitVec.or_zero, ok, Bool.not_true, Bool.false_eq_true, and_false, if_false, Bool.true_and, bne_iff_ne, ne_eq,
    ite_not]

/-- With LOCK at 0 the RWL fields take the value as the RW fields do, and nothing is recorded. -/
theorem plainWrite_unlocked (hb : blockAt a = some b) (hr : regSpec a = some r) (hl : lockOf b s = false)
    (ok : rangeOk a ((getReg a s &&& ~~~(BitVec.ofNat 32 r.rw ||| BitVec.ofNat 32 r.rwl)) |||
      (v &&& (BitVec.ofNat 32 r.rw ||| BitVec.ofNat 32 r.rwl))) = true) :
    plainWrite a v s = setReg a ((((getReg a s &&& ~~~(BitVec.ofNat 32 r.rw ||| BitVec.ofNat 32 r.rwl)) |||
        (v &&& (BitVec.ofNat 32 r.rw ||| BitVec.ofNat 32 r.rwl))) &&& ~~~(v &&& BitVec.ofNat 32 r.w1c)) |||
      (if lockAddr b = some a ∧ bitAt v 31 then 0x80000000 else 0)) s := by
  simp only [plainWrite, hb, hr, hl, ok, Bool.not_true, Bool.false_eq_true, and_false, if_false, Bool.false_and]

/-- The RAM of the backup domain: RW as a whole, without a range (R480). -/
theorem bkdRam_facts {n : Nat} (h : n < 64) : blockAt (0x06800 + 4 * n) = some .bkd ∧
    regSpec (0x06800 + 4 * n) = some ⟨0, 0xFFFFFFFF, 0, 0, 0⟩ ∧ ∀ w, rangeOk (0x06800 + 4 * n) w = true := by
  have all : ∀ n < 64, blockAt (0x06800 + 4 * n) = some .bkd ∧ regSpec (0x06800 + 4 * n) = some ⟨0, 0xFFFFFFFF, 0, 0, 0⟩ := by decide
  refine ⟨(all n h).1, (all n h).2, fun w => ?_⟩
  unfold rangeOk
  dsimp only
  (repeat rw [if_neg (by omega)])

theorem getReg_plainWrite_bkdRam {n : Nat} (h : n < 64) (v : Word) (s : State) : getReg (0x06800 + 4 * n) (plainWrite (0x06800 + 4 * n) v s) = v := by
  obtain ⟨hb, hr, ok⟩ := bkdRam_facts h
  have notLock : lockAddr .bkd ≠ some (0x06800 + 4 * n) := by
    intro e
    have := Option.some.inj e
    omega
  have ones (w : Word) : w &&& 0xFFFFFFFF#32 = w := BitVec.and_allOnes
  cases hl : lockOf .bkd s with
  | true => simp [plainWrite_locked hb hr hl (ok _), notLock, ones]
  | false => simp [plainWrite_unlocked hb hr hl (ok _), notLock, ones]

theorem regWrite_bkdRam {n : Nat} (h : n < 64) (ans : Answers (0x06800 + 4 * n) s) :
    regWrite (0x06800 + 4 * n) v s = plainWrite (0x06800 + 4 * n) v s := by
  obtain ⟨hb, hr, -⟩ := bkdRam_facts h
  obtain ⟨here, calm⟩ := ans
  simp [regWrite, here, calm, hb, hr]

end Writes

/-! ## Lock bits (R547, R549) -/

/-- One block's step of GLB_LOCKSET. -/
def locksetStep (s : State) (i : Nat) : State :=
  match lockAddr (lockOrder.getD i .glb) with
  | some a => if present a s then setB a 31 true s else s
  | none => s

theorem lockset_eq {v : Word} {s : State} (key : fld v 31 16 = 0x5A3C) :
    lockset v s = ((List.range 16).filter (fun i => bitAt v i)).foldl locksetStep s := by
  unfold lockset
  rw [if_neg (by simp [key])]
  rfl

/-- No lock bit stands in the register of the start-up stage. -/
theorem lockAddr_ne_stage (b : Block) : lockAddr b ≠ some 0x7F01C := by cases b <;> decide

theorem present_locksetStep (a i : Nat) (s : State) : present a (locksetStep s i) = present a s := by
  have stage : getReg 0x7F01C (locksetStep s i) = getReg 0x7F01C s := by
    unfold locksetStep
    split
    · next c hc =>
      have hne : (0x7F01C : Nat) ≠ c := by rintro rfl; exact lockAddr_ne_stage _ hc
      split
      · exact getReg_setB_other _ _ _ _ _ (by simpa using hne)
      · rfl
    · rfl
  unfold present
  rw [getF, stage, getF]

/-- A lock bit that is set stays set. -/
theorem getB_locksetStep_mono {a i : Nat} {s : State} (h : getB a 31 s = true) : getB a 31 (locksetStep s i) = true := by
  unfold locksetStep
  split
  · next c hc =>
    split
    · by_cases e : a = c
      · subst e; simp
      · rw [getB_setB_reg _ _ _ _ _ _ e, h]
    · exact h
  · exact h

theorem getB_locksetStep_same {a i : Nat} {s : State} (ha : lockAddr (lockOrder.getD i .glb) = some a) (here : present a s = true) :
    getB a 31 (locksetStep s i) = true := by
  unfold locksetStep
  rw [ha]
  simp [here]

theorem getB_foldl_locksetStep {a i : Nat} (ha : lockAddr (lockOrder.getD i .glb) = some a) (l : List Nat) (s : State) (here : present a s = true)
    (h : i ∈ l ∨ getB a 31 s = true) : getB a 31 (l.foldl locksetStep s) = true := by
  induction l generalizing s with
  | nil => simpa using h
  | cons j l ih =>
    refine ih (locksetStep s j) (by rw [present_locksetStep, here]) ?_
    rcases h with m | set
    · rcases List.mem_cons.1 m with rfl | m
      · exact .inr (getB_locksetStep_same ha here)
      · exact .inl m
    · exact .inr (getB_locksetStep_mono set)

theorem getB_lockset {a i : Nat} {v : Word} {s : State} (key : fld v 31 16 = 0x5A3C) (hi : i < 16) (bit : bitAt v i = true)
    (ha : lockAddr (lockOrder.getD i .glb) = some a) (here : present a s = true) : getB a 31 (lockset v s) = true := by
  rw [lockset_eq key]
  exact getB_foldl_locksetStep ha _ s here (.inl (by simp [hi, bit]))

theorem lockOf_eq {b : Block} {a : Nat} (h : lockAddr b = some a) (s : State) : lockOf b s = getB a 31 s := by rw [lockOf, h]

theorem lockOf_lockSet {b : Block} {a : Nat} {s : State} (h : lockAddr b = some a) (ans : Answers a s) : lockOf b (lockSet b s) = true := by
  obtain ⟨here, calm⟩ := ans
  simp [lockOf_eq h, lockSet, h, here, calm]

/-! ## What a block reset keeps (R9, R70) -/

/-- The bits of a register that a block reset leaves: its RWL fields and the lock bit. -/
def lockMask (a : Nat) : Word :=
  (match regSpec a with | some r => BitVec.ofNat 32 r.rwl | none => 0) ||| (if blocks.any (fun b => lockAddr b == some a) then 0x80000000 else 0)

/-- From one state to the other every RWL field and every lock bit stays. -/
def LocksKept (s t : State) : Prop := ∀ a, getReg a t &&& lockMask a = getReg a s &&& lockMask a

namespace LocksKept
variable {s t u : State}

theorem refl (s : State) : LocksKept s s := fun _ => rfl
theorem trans (h : LocksKept s t) (k : LocksKept t u) : LocksKept s u := fun a => (k a).trans (h a)

/-- A frame over registers without such a bit. -/
theorem of_within {ps : List Part} {rs : List Nat} (w : Within ps (some rs) s t) (h : ∀ a ∈ rs, lockMask a = 0) : LocksKept s t := by
  intro a
  by_cases m : a ∈ rs
  · simp [h a m]
  · rw [w.regs rs rfl a m]

theorem foldl {α : Type} {f : State → α → State} (h : ∀ s x, LocksKept s (f s x)) (l : List α) (s : State) : LocksKept s (l.foldl f s) := by
  induction l generalizing s with
  | nil => exact refl s
  | cons x l ih => exact (h s x).trans (ih _)

/-- The RWL fields, from the bits that are kept together. -/
theorem rwl {a : Nat} {r : RegSpec} (h : LocksKept s t) (hr : regSpec a = some r) :
    getReg a t &&& BitVec.ofNat 32 r.rwl = getReg a s &&& BitVec.ofNat 32 r.rwl := by
  have part : lockMask a &&& BitVec.ofNat 32 r.rwl = BitVec.ofNat 32 r.rwl := by
    unfold lockMask
    rw [hr]
    ext i
    simp +contextual
  rw [← part, ← BitVec.and_assoc, h a, BitVec.and_assoc]

theorem lockOf {b : Block} (h : LocksKept s t) : lockOf b t = lockOf b s := by
  cases hb : lockAddr b with
  | none => simp [Machine.lockOf, hb]
  | some a =>
    have isLock : blocks.any (fun b => lockAddr b == some a) = true := List.any_eq_true.2 ⟨b, by cases b <;> decide, by simp [hb]⟩
    have bit : (lockMask a)[31] = true := by simp [lockMask, isLock]
    have same := congrArg (fun w : Word => w[31]) (h a)
    simpa [lockOf_eq hb, getB, bitAt, bit] using same

end LocksKept

/-- The value that a block reset gives a register has the kept bits of the value before. -/
theorem blockRegValue_kept (a : Nat) (old : Word) (s : State) : blockRegValue a old s &&& lockMask a = old &&& lockMask a := by
  have shape : blockRegValue a old s = (old &&& lockMask a) ||| (cfgReset a s &&& ~~~lockMask a) := by
    unfold blockRegValue lockMask
    rfl
  rw [shape]
  ext i
  simp only [BitVec.getElem_and, BitVec.getElem_or, BitVec.getElem_not]
  cases (lockMask a)[i] <;> simp

theorem resetRegs_locksKept (b : Block) (s : State) : LocksKept s (resetRegs b s) := by
  unfold resetRegs
  refine LocksKept.foldl (fun t c a => ?_) _ s
  by_cases e : a = c
  · subst e; rw [getReg_setReg_same, blockRegValue_kept]
  · rw [getReg_setReg_other _ _ _ _ e]

/-- The registers that recording an event may write have neither an RWL field nor a lock bit. -/
theorem lockMask_recorder : ∀ a ∈ [0x0A034, 0x0A010, 0x0A030], lockMask a = 0 := by decide

theorem beginBlockReset_locksKept (s : State) (b : Block) : LocksKept s (beginBlockReset s b) := by
  unfold beginBlockReset
  split
  · exact LocksKept.refl s
  · have busy : ∀ t, LocksKept t (setB 0x7F018 8 true t) := fun t => LocksKept.of_within (setB_within _ _ _ t) (by decide)
    have started : LocksKept s { s with start := { s.start with blkRst := s.start.blkRst ++ [b] } } := fun _ => rfl
    have rounds : ∀ t, LocksKept t (if b = .rnd then rndBlockReset t else t) := by
      intro t
      split
      · exact LocksKept.of_within (rndBlockReset_within t) (by simp)
      · exact LocksKept.refl t
    have pairs : ∀ t, LocksKept t (if b = .hif then (List.range 60).foldl dropPair t else (blockPairs b).foldl resetPair t) := by
      intro t
      split
      · exact LocksKept.foldl (fun t p => LocksKept.of_within (dropPair_within t p) (by simp)) _ t
      · exact LocksKept.foldl (fun t p => LocksKept.of_within (resetPair_within t p) (by simp)) _ t
    have recorded : ∀ t, LocksKept t (evt (blockGroup b) 0xA 1 t) := fun t => LocksKept.of_within (evt_within _ _ _ t) lockMask_recorder
    exact started.trans <| (busy _).trans <| (resetRegs_locksKept b _).trans <| (rounds _).trans <| (pairs _).trans (recorded _)

theorem blkrst_locksKept (v : Word) (s : State) : LocksKept s (blkrst v s) := by
  unfold blkrst
  dsimp only
  split
  · exact LocksKept.of_within (writeIgnored_within _ _ s) lockMask_recorder
  · exact LocksKept.foldl beginBlockReset_locksKept _ s

/-! ## The statements -/

/-- Settles O50: the lower word's read latches, and the upper word's read finds the latch or the register. -/
theorem lowerWordReadFirst : Obligations.LowerWordReadFirst := by
  unfold Obligations.LowerWordReadFirst
  intro s u who a on hr low l ansLow ansHigh hu
  have plain := readsPlainly_of_pairHigh low
  have high := isPairLow_pairHigh low
  refine ⟨does_run rfl on ?_, fun v lv => does_run rfl on ?_, fun ln => does_run rfl on ?_⟩
  · rw [readBy_out hr, latched_readBy hr, fullRead_pairLow low ansLow]
    exact lowerRead_answers low l ansLow.2 hu
  · rw [readBy_out hr, fullRead_latched plain ansHigh high lv]
    exact List.mem_cons_self
  · rw [readBy_out hr, fullRead_live plain ansHigh high ln]
    exact rcRead_mem who (a + 4) s

/-- Settles O53: a block reset keeps the RWL fields and the lock bits, and a write by access types follows the LOCK bit. -/
theorem lockedFieldsStay : Obligations.LockedFieldsStay := by
  unfold Obligations.LockedFieldsStay
  refine ⟨fun s v a r on hr => does_run rfl on ?_, fun s a v b r hb hr => ⟨fun hl ok => ?_, fun hl ok => ?_⟩⟩
  · have kept := blkrst_locksKept v s
    exact ⟨kept.rwl hr, fun b => kept.lockOf⟩
  · rw [plainWrite_locked hb hr hl ok]
    exact ⟨getReg_setReg_same _ _ _, fun same => by rw [if_pos same, setReg_evr]⟩
  · rw [plainWrite_unlocked hb hr hl ok]
    exact ⟨setReg_evr _ _ _, getReg_setReg_same _ _ _⟩

/-- Settles O39, one clause after another from what each access answers and leaves. -/
theorem registerCommandsComplete : Obligations.RegisterCommandsComplete := by
  unfold Obligations.RegisterCommandsComplete
  refine ⟨?narrow, ?wide, ?bar2, ?write, ?lockSet, ?lockset, ?count, ?lower, ?net, ?rtc, ?capture⟩
  case narrow =>
    intro s x on hr bar0 rd size bad
    refine does_run rfl on ?_
    rw [misaligned, if_neg (by simp [hr]), if_neg size, bar0, rd, accessPart_notCarried hr bad, pmcAdd_out]
    exact List.mem_cons_self
  case wide =>
    intro s x on hr bar0 rd size odd
    refine does_run rfl on ?_
    have lowBad : notCarried false x.addr 4 = true := by simpa [notCarried] using odd
    have highBad : notCarried false (x.addr + 4) 4 = true := by simpa [notCarried] using odd
    rw [misaligned, if_neg (by simp [hr]), if_pos size, bar0, rd, accessPart_notCarried hr lowBad]
    generalize hm : pmcAdd 0x95 1 (emit (.regRead .host x.addr 0) (writeIgnored x.addr 0 s)) = m
    have hrm : reaches .host m = true := by
      rw [← hr, ← hm]
      exact reaches_of_stage (by simp [getReg_writeIgnored_other])
    have first : .regRead .host x.addr 0 ∈ m.out := by rw [← hm, pmcAdd_out]; exact List.mem_cons_self
    rw [accessPart_notCarried hrm highBad, pmcAdd_out]
    exact ⟨List.mem_cons_of_mem _ ((writeIgnored_within _ _ m).mem first), List.mem_cons_self⟩
  case bar2 =>
    intro s x on hr bar2 rd size
    refine does_run rfl on ?_
    rw [misaligned, if_neg (by simp [hr]), if_neg size, bar2, rd]
    exact accessPart_bar2_read x.addr x.size x.value s
  case write =>
    intro s who n v on hn hr ans
    refine does_run rfl on ?_
    rw [getReg_writeBy hr, regWriteOp, if_pos (by omega), regWrite_bkdRam hn ans, getReg_plainWrite_bkdRam hn]
  case lockSet => exact fun s b a on ha ans => does_run rfl on (lockOf_lockSet ha ans)
  case lockset => exact fun s v i a on key hi bit ha here => does_run rfl on (getB_lockset key hi bit ha here)
  case count =>
    intro s who n on hn hr ans l
    refine does_run rfl on ?_
    obtain ⟨plain, low⟩ := readsPlainly_fcoCount hn
    rw [readBy_out hr, getReg_readBy hr, fullRead_live plain ans low l, getReg_rcRead ans (regSpec_fcoCount hn) (by omega),
      ← regRead_fcoCount hn ans.1]
    exact ⟨rcRead_mem _ _ _, BitVec.and_zero⟩
  case lower =>
    intro s u who a on hr low l calm hu
    refine does_run rfl on ?_
    rw [readBy_out hr, latched_readBy hr]
    exact lowerRead_answers low l calm hu
  case net =>
    intro s who a on hr ans ha
    refine does_run rfl on ?_
    rw [readBy_out hr, latched_readBy hr, fullRead_net ans]
    exact ⟨netRead_mem who s, latched_netRead ha⟩
  case rtc =>
    intro s who on hr ans
    refine does_run rfl on ?_
    rw [readBy_out hr, readBy_tim hr, fullRead_rtcsub ans]
    exact ⟨List.mem_cons_self, rfl⟩
  case capture =>
    intro s who n on hr hn ans l
    refine does_run rfl on ?_
    obtain ⟨plain, low, spec⟩ := capstat_facts hn
    have cleared := getReg_rcRead (who := who) ans spec (by omega)
    rw [if_neg (by omega), readBy_out hr, getB_readBy hr, getB_readBy hr, fullRead_live plain ans low l, getB, getB, cleared]
    exact ⟨rcRead_mem _ _ _, by simp [bitAt], by simp [bitAt]⟩

end Sys2Proof.Machine
end

section
/-!
PROOFS. The instants of the round (R17 to R24, R342 to R346, R394, R399): what each settles of the number, the phase, the start, the boundaries and the
close, and that nothing else that acts in the same instant (a model's swap, an exchange, a switch-over, a fault's reaction) changes it again.
-/
namespace Sys2Proof.Machine

/-! ## What an instant of the round settles -/

/-- What the instants of the round settle: in the round engine the number, the phase, the start and the boundaries, in the duplex block the last
round close and the summary of the outputs. -/
structure Instants where
  number   : Nat
  phase    : Phase
  frozen   : Bool
  started  : Bool
  anchor   : Nat
  bounds   : Word
  closes   : Nat
  closedAt : Option Nat
  ownSum   : Option OutSummary

/-- What the instants of the round have settled in a state. -/
def instants (s : State) : Instants :=
  { number := s.rnd.number, phase := s.rnd.phase, frozen := s.rnd.frozen, started := s.rnd.started, anchor := s.rnd.anchor,
    bounds := s.rnd.bounds, closes := s.rnd.closes, closedAt := s.dup.closedAt, ownSum := s.dup.ownSum }

/-- From one state to the other nothing changes that an instant of the round settles. -/
def InstantsKept (s t : State) : Prop := instants t = instants s

namespace InstantsKept
variable {s t u : State} {ps : List Part} {rs : Option (List Nat)}

theorem refl : InstantsKept s s := rfl
theorem after (k : InstantsKept t u) (h : InstantsKept s t) : InstantsKept s u := Eq.trans k h
theorem ite {c : Prop} [Decidable c] (h : InstantsKept s t) (k : InstantsKept s u) : InstantsKept s (if c then t else u) := by
  split <;> assumption
theorem foldl {α : Type} {f : State → α → State} (hf : ∀ s x, InstantsKept s (f s x)) (l : List α) (s : State) :
    InstantsKept s (l.foldl f s) := by
  induction l generalizing s with
  | nil => exact refl
  | cons x l ih => exact (ih _).after (hf s x)

theorem number (h : InstantsKept s t) : t.rnd.number = s.rnd.number := congrArg Instants.number h
theorem phase (h : InstantsKept s t) : t.rnd.phase = s.rnd.phase := congrArg Instants.phase h
theorem frozen (h : InstantsKept s t) : t.rnd.frozen = s.rnd.frozen := congrArg Instants.frozen h
theorem started (h : InstantsKept s t) : t.rnd.started = s.rnd.started := congrArg Instants.started h
theorem anchor (h : InstantsKept s t) : t.rnd.anchor = s.rnd.anchor := congrArg Instants.anchor h
theorem bounds (h : InstantsKept s t) : t.rnd.bounds = s.rnd.bounds := congrArg Instants.bounds h
theorem closes (h : InstantsKept s t) : t.rnd.closes = s.rnd.closes := congrArg Instants.closes h
theorem closedAt (h : InstantsKept s t) : t.dup.closedAt = s.dup.closedAt := congrArg Instants.closedAt h
theorem ownSum (h : InstantsKept s t) : t.dup.ownSum = s.dup.ownSum := congrArg Instants.ownSum h

theorem of_parts (rnd : t.rnd = s.rnd) (closedAt : t.dup.closedAt = s.dup.closedAt) (ownSum : t.dup.ownSum = s.dup.ownSum) : InstantsKept s t := by
  rw [InstantsKept, instants, rnd, closedAt, ownSum, instants]

/-- An operation that leaves the round engine's part and the duplex part. -/
theorem still (h : InstantsKept s t) (w : Within ps rs t u) (hp : (ps.contains .rnd || ps.contains .dup) = false := by decide) :
    InstantsKept s u := by
  have rnd : u.rnd = t.rnd := w.parts .rnd (by simp_all)
  have dup : u.dup = t.dup := w.parts .dup (by simp_all)
  exact (of_parts rnd (by rw [dup]) (by rw [dup])).after h

/-- An operation that may come after what is kept. -/
theorem opt {c : Prop} [Decidable c] (h : InstantsKept s t) (k : InstantsKept t u) : InstantsKept s (if c then u else t) := ite (k.after h) h
theorem optElse {c : Prop} [Decidable c] (h : InstantsKept s t) (k : InstantsKept t u) : InstantsKept s (if c then t else u) := ite h (k.after h)

/-! A change of a part that holds nothing of it. -/
theorem start {p : StartSt} (h : InstantsKept s t) : InstantsKept s { t with start := p } := h
theorem fco {p : FcoSt} (h : InstantsKept s t) : InstantsKept s { t with fco := p } := h
theorem tly {p : TlySt} (h : InstantsKept s t) : InstantsKept s { t with tly := p } := h
theorem cyc {p : CycSt} (h : InstantsKept s t) : InstantsKept s { t with cyc := p } := h

end InstantsKept

open InstantsKept

/-! ## Roles, the peer link and resignation -/

/-- A role that is taken is the state's, and nothing else of the duplex part but the comparison's pause changes. -/
theorem setRole_dup (d : DupState) (s : State) :
    (setRole d s).dup = if s.dup.state = d then s.dup else { s.dup with state := d, cmpSkip := true } := by
  have withdrawn : (withdrawExchange s).dup = s.dup := (withdrawExchange_within s).parts .dup (by decide)
  have shown (c : Clm) (t : State) : (showClm c t).dup = t.dup := (showClm_within c t).parts .dup (by decide)
  unfold setRole
  dsimp only
  split
  · rfl
  · rw [evt_dup, setCause_dup]
    simp [apply_ite State.dup, shown, withdrawn]

theorem setMor_dup (m : Bool) (s : State) : (setMor m s).dup = { s.dup with mor := m } := by
  have held (t : State) : (dropHeld t).dup = t.dup := (dropHeld_within t).parts .dup (by decide)
  unfold setMor
  split
  · next same => rw [← same]
  · cases m <;> simp [held]

theorem switchOps_dup (keep : DupOp → Bool) (s : State) : (switchOps keep s).dup = { s.dup with ops := s.dup.ops.filter (fun o => keep o.1) } := by
  have ended (l : List (DupOp × Req)) (t : State) : (l.foldl (fun s o => finish o.2 0x82 0 s) t).dup = t.dup := by
    induction l generalizing t with
    | nil => rfl
    | cons o l ih => rw [List.foldl_cons, ih, finish_dup]
  exact ended _ _

/-- A message to the peer takes a number and, where it is acknowledged, waits. -/
theorem sendPeer_dup (b : PeerBody) (s : State) : ∃ q l, (sendPeer b s).dup = { s.dup with mseq := q, unacked := l } := by
  unfold sendPeer
  split
  · exact ⟨_, _, rfl⟩
  · dsimp only
    split <;> split <;> exact ⟨_, _, by simp only [pmcAdd_dup, emit_dup]; rfl⟩

theorem setRole_instants (d : DupState) (s : State) : InstantsKept s (setRole d s) := by
  refine of_parts ((setRole_within d s).parts .rnd (by decide)) ?_ ?_ <;> (rw [setRole_dup]; split <;> rfl)

theorem setMor_instants (m : Bool) (s : State) : InstantsKept s (setMor m s) :=
  of_parts ((setMor_within m s).parts .rnd (by decide)) (by rw [setMor_dup]) (by rw [setMor_dup])

theorem switchOps_instants (keep : DupOp → Bool) (s : State) : InstantsKept s (switchOps keep s) :=
  of_parts ((switchOps_within keep s).parts .rnd (by decide)) (by rw [switchOps_dup]) (by rw [switchOps_dup])

theorem sendPeer_instants (b : PeerBody) (s : State) : InstantsKept s (sendPeer b s) := by
  obtain ⟨q, l, dup⟩ := sendPeer_dup b s
  exact of_parts ((sendPeer_within b s).parts .rnd (by decide)) (by rw [dup]) (by rw [dup])

/-- A change of the duplex part other than of the last round close and the summary of the outputs. -/
theorem dupSet_instants (f : DupSt → DupSt) (s : State) (h : instants (dupSet f s) = instants s := by rfl) : InstantsKept s (dupSet f s) := h

theorem putStn_instants (id : Nat) (x : StnSt) (s : State) : InstantsKept s (putStn id x s) := rfl

theorem resign_instants (cause : Nat) (s : State) : InstantsKept s (resign cause s) := by
  unfold resign
  refine ite refl (ite refl ?_)
  dsimp only
  refine opt ?_ rfl
  refine (setRole_instants _ _).after (optElse (still ?_ (incReg_within _ _ _)) (setMor_instants _ _))
  exact (sendPeer_instants (.resign cause) _).after (switchOps_instants _ s)

theorem resync_instants (s : State) : InstantsKept s (resync s) := (setRole_instants _ _).after (dupSet_instants _ s)

/-! ## The fault collector's reactions -/

theorem beginModReset_instants (why : ModWhy) (cause : Nat) (kind : RestartKind) (s : State) :
    InstantsKept s (beginModReset why cause kind s) := by
  have told : InstantsKept s (resignTell cause s) := ite (sendPeer_instants _ s) (resign_instants cause s)
  unfold beginModReset
  refine ite refl (still ?_ (seqStart_within _ _))
  exact told

theorem beginBlockReset_instants (s : State) (b : Block) : InstantsKept s (beginBlockReset s b) := by
  have pairs (t : State) : InstantsKept t (if b = .hif then (List.range 60).foldl dropPair t else (blockPairs b).foldl resetPair t) :=
    ite (foldl (fun u p => still refl (dropPair_within u p)) _ t) (foldl (fun u p => still refl (resetPair_within u p)) _ t)
  have round (t : State) : InstantsKept t (if b = .rnd then rndBlockReset t else t) := opt refl rfl
  unfold beginBlockReset
  refine ite refl (still ((pairs _).after ((round _).after ?_)) (evt_within _ _ _ _))
  exact still (still (start refl) (setB_within 0x7F018 8 true _)) (resetRegs_within b _)

theorem reactBlk_instants (n : Nat) (s : State) : InstantsKept s (reactBlk n s) :=
  ite refl (ite (beginModReset_instants _ _ _ s) (ite refl (ite (foldl beginBlockReset_instants _ s) (fco refl))))

theorem activate_instants (n count : Nat) (forced : Bool) (why : Option Nat) (s : State) : InstantsKept s (activate n count forced why s) := by
  unfold activate
  have message (t : State) : InstantsKept t (sendMsg 0 t) := still refl (sendMsg_within 0 t)
  refine opt (opt (opt (opt ?_ (message _)) ?_) (reactBlk_instants n _)) (beginModReset_instants _ _ _ _)
  · exact still (fco refl) (record_within _ _ _ _)
  · exact still (message _) (emit_within _ _)

theorem occur_instants (n : Nat) (forced : Bool) (why : Option Nat) (s : State) : InstantsKept s (occur n forced why s) := by
  have counted : InstantsKept s (incReg (0x08800 + 4 * n) 1 s) := still refl (incReg_within _ _ s)
  exact ite refl (ite counted (ite (ite (fco counted) ((activate_instants _ _ _ _ _).after (fco counted))) (fco counted)))

theorem assertSrc_instants (n : Nat) (s : State) : InstantsKept s (assertSrc n s) :=
  ite refl (optElse (fco refl) (occur_instants n false none _))

/-! ## Control and the meter-of-record role -/

theorem addRec_instants (stream rtype source seq status : Nat) (b : Bytes) (s : State) :
    InstantsKept s (addRec stream rtype source seq status b s) := by
  unfold addRec
  refine still (opt ?_ ?_) (pumpStream_within _ _)
  · exact still (still (tly refl) (pmcAdd_within _ _ _)) (emit_within _ _)
  · exact still (opt refl (sendPeer_instants _ _)) (pmcAdd_within _ _ _)

theorem takeMor_instants (s : State) : InstantsKept s (takeMor s) := by
  have signed (t : State) (r : Rec) : InstantsKept t (signCopy t r) := (addRec_instants _ _ _ _ _ _ _).after (tly refl)
  exact ite refl ((foldl signed _ _).after (setMor_instants true s))

theorem noteSwitch_instants (s : State) : InstantsKept s (noteSwitch s) := by
  have noted : InstantsKept s { s with rnd := { s.rnd with switched := true }, dup := { s.dup with cmpSkip := true } } := rfl
  exact still (still noted (incReg_within _ _ _)) (setPair_within _ _ _)

theorem newClaim_instants (s : State) : InstantsKept s (newClaim s) := dupSet_instants _ s

theorem takeControl_instants (withMor : Bool) (s : State) : InstantsKept s (takeControl withMor s) := by
  unfold takeControl
  refine ite refl (ite (still (assertSrc_instants 75 s) (evt_within _ _ _ _)) (opt ?_ (takeMor_instants _)))
  refine still ((dupSet_instants _ _).after ?_) (dispTakeControl_within _)
  exact (setRole_instants _ _).after ((noteSwitch_instants _).after (newClaim_instants s))

/-! ## The start of a round -/

theorem exchangeRound_instants (s : State) : InstantsKept s (exchangeRound s) := by
  have alone (p : ProgImage) (e : Exchange) : InstantsKept s (exchangeAlone p e s) := still refl (exchangeAlone_within p e s)
  have leave (p : ProgImage) (e : Exchange) : InstantsKept s (exchangeLeave p e s) := by
    unfold exchangeLeave
    split
    · refine (resync_instants _).after (still (still ?_ (installProg_within _ _ _ _ _)) (endExchanging_within _))
      split
      · exact still (still refl (deliver_within _ _ _)) (complete_within _ _ _ _ _ _)
      · exact refl
    · exact still refl (exchangeAbandon_within s)
  have enter (p : ProgImage) (e : Exchange) : InstantsKept s (exchangeEnter p e s) := by
    unfold exchangeEnter
    split
    · exact (takeControl_instants _ _).after (still (still refl (installProg_within _ _ _ _ _)) (endExchanging_within _))
    · exact cyc refl
  unfold exchangeRound
  split
  · exact ite refl (ite (alone _ _) (ite (leave _ _) (enter _ _)))
  · exact refl

theorem handoverDue_instants (s : State) : InstantsKept s (handoverDue s) := by
  unfold handoverDue
  split
  · exact ite ((resign_instants _ _).after (opt refl (setMor_instants _ s))) refl
  · exact refl

theorem claimDue_instants (s : State) : InstantsKept s (claimDue s) := opt refl (newClaim_instants s)

theorem tellRound_instants (s : State) : InstantsKept s (tellRound s) := opt refl (sendPeer_instants _ s)

theorem setSess_instants (id : Nat) (v : Sess) (s : State) : InstantsKept s (setSess id v s) := ite refl (putStn_instants _ _ s)

theorem modelSwap_instants (s : State) : InstantsKept s (modelSwap s) := by
  have forgets (l : List StationDecl) (t : State) : InstantsKept t (l.foldl (fun s d => putStn d.ident {} s) t) :=
    foldl (fun u d => putStn_instants d.ident {} u) l t
  have stations (o m : ModelImage) (t : State) : InstantsKept t (swapStns o m t) :=
    (forgets _ _).after (foldl (fun u (d : StationDecl) => setSess_instants d.ident .retired u) _ t)
  have first (m : ModelImage) (t : State) : InstantsKept t (firstModel m t) := (forgets _ _).after rfl
  unfold modelSwap
  split
  · refine ite refl (still (still ?_ (tlySwap_within _)) (refreshDemand_within _))
    have image (o : Option ModelImage) (m : ModelImage) : InstantsKept s (swapSep o m (usePats m (swapSlots m s))) :=
      still (still (still refl (swapSlots_within _ _)) (usePats_within _ _)) (swapSep_within _ _ _)
    split
    · exact (stations _ _ _).after (still (image _ _) (swapCurds_within _ _ _))
    · exact (first _ _).after (image _ _)
  · exact refl

theorem openStn_instants (listed : List Nat) (s : State) (id : Nat) : InstantsKept s (openStn listed s id) := putStn_instants id _ s

theorem sendSession_instants (type id flags : Nat) (body : Bytes) (s : State) : InstantsKept s (sendSession type id flags body s) := by
  unfold sendSession
  split
  · exact refl
  · exact still (putStn_instants id _ s) (emit_within _ _)

theorem sendReadReq_instants (retry : Bool) (id : Nat) (s : State) : InstantsKept s (sendReadReq retry id s) := by
  unfold sendReadReq
  refine ite refl ((sendSession_instants _ _ _ _ _).after (opt (still (opt ?_ ?_) (pmcAdd_within _ _ _)) (still refl (pmcAdd_within _ _ _))))
  · exact putStn_instants id _ s
  · exact still refl (pmcAdd_within _ _ _)

/-- The number and the boundaries of a round that starts, and its start. -/
theorem openNumber_instants (number : Nat) (bounds : Word) (s : State) : instants (openNumber number bounds s) =
    { instants s with number := number, phase := .read, frozen := false, started := true, anchor := s.tim.mon, bounds := bounds } := by
  simp [openNumber, instants]

/-- A round that starts keeps the number and the boundaries with which it opened: what follows in the instant changes neither. -/
theorem roundBegin_instants (number : Nat) (bounds : Word) {s : State} (up : stage5 s = true) (idle : seqRuns s = false) :
    instants (roundBegin number bounds s) =
      { instants s with number := number, phase := .read, frozen := false, started := true, anchor := s.tim.mon, bounds := bounds } := by
  have kept : InstantsKept (openNumber number bounds s) (roundBegin number bounds s) := by
    unfold roundBegin
    rw [if_neg (by simp [up, idle])]
    refine (foldl (fun t id => sendReadReq_instants false id t) _ _).after ((foldl (openStn_instants _) _ _).after ?_)
    refine still ((handoverDue_instants _).after ((exchangeRound_instants _).after ?_)) (releaseTasks_within _)
    exact (tellRound_instants _).after ((claimDue_instants _).after (still (modelSwap_instants _) (cfgRound_within _)))
  exact kept.trans (openNumber_instants number bounds s)

/-! ## A message of the peer -/

theorem accept_some {h : PeerHdr} {s t : State} (e : accept h s = some t) :
    t = pmcAdd 0x7B 1 (dupSet (fun d => { d with accepted := h.mseq :: d.accepted }) s) := by
  unfold accept at e
  simp only [Option.ite_none_left_eq_some, Option.some.injEq] at e
  exact e.2.2.2.2.symm

theorem seePeer_instants (h : PeerHdr) (s : State) : InstantsKept s (seePeer h s) := by
  have cause (bit : Nat) (t : State) : InstantsKept t (dupCause bit t) := still refl (dupCause_within bit t)
  unfold seePeer
  refine opt (optElse (optElse ?_ ((cause _ _).after (dupSet_instants _ _))) ((cause _ _).after (dupSet_instants _ _))) (noteSwitch_instants _)
  exact still (dupSet_instants _ s) (setReg_within _ _ _)

/-- What a header shows of the peer leaves this module's role. -/
theorem seePeer_state (h : PeerHdr) (s : State) : (seePeer h s).dup.state = s.dup.state := by
  have cause (bit : Nat) (t : State) : (dupCause bit t).dup = t.dup := (dupCause_within bit t).parts .dup (by decide)
  simp [seePeer, noteSwitch, dupSet, cause, apply_ite State.dup, apply_ite DupSt.state]

/-- The module after the header of a message that it takes: its role, its start-up and the round's instants are as before. -/
structure Seen (s t : State) : Prop where
  kept  : InstantsKept s t
  state : t.dup.state = s.dup.state
  pwr   : t.pwr = s.pwr
  stage : getReg 0x7F01C t = getReg 0x7F01C s

theorem onMessage_seen {h : PeerHdr} {s : State} (taken : (accept h s).isSome = true) (fits : pairWhy h s = none) :
    ∃ t, Seen s t ∧ ∀ f, onMessage false h f s = f t := by
  obtain ⟨u, e⟩ := Option.isSome_iff_exists.1 taken
  have acc := accept_eq e
  have see := seePeer_within h u
  refine ⟨seePeer h u, ⟨(seePeer_instants h u).after ?_, ?_, ?_, ?_⟩, fun f => by simp [onMessage, e, fits]⟩
  · rw [accept_some e]
    exact still (dupSet_instants _ s) (pmcAdd_within _ _ _)
  · rw [seePeer_state, accept_some e, pmcAdd_dup, dupSet]
  · exact (see.parts .pwr (by decide)).trans (acc.parts .pwr (by decide))
  · exact (see.regs _ rfl _ (by simp)).trans (acc.regs _ rfl _ (by simp))

/-- The module in control sets the number and the boundaries of the round for both (R17, R343). -/
theorem roundStartMsg_opens {h : PeerHdr} {phases : Word} {anchor : Option Nat} {s : State} (taken : (accept h s).isSome = true)
    (fits : pairWhy h s = none) (follower : inControl s = false) (fresh : s.rnd.started = false ∨ h.round ≠ s.rnd.number)
    (up : stage5 s = true) (idle : seqRuns s = false) :
    (roundStartMsg h phases anchor s).rnd.number = h.round ∧ (roundStartMsg h phases anchor s).rnd.bounds = phases ∧
    (roundStartMsg h phases anchor s).rnd.phase = .read := by
  obtain ⟨t, ⟨kept, state, pwr, stage⟩, ran⟩ := onMessage_seen taken fits
  have follower' : inControl t = false := by rw [inControl, state, ← inControl, follower]
  have fresh' : (t.rnd.started && h.round == t.rnd.number) = false := by
    rw [kept.started, kept.number]
    rcases fresh with h | h <;> simp [h]
  have up' : stage5 t = true := by rw [stage5, getF, stage]; exact up
  have idle' : seqRuns t = false := by rw [seqRuns, pwr]; exact idle
  rw [roundStartMsg, ran, if_neg (by simp [follower']), if_neg (by simp [fresh'])]
  have opened := roundBegin_instants (s := { t with rnd := { t.rnd with peerBounds := some phases }, disp := { t.disp with anchor := anchor } })
    h.round phases up' idle'
  exact ⟨congrArg Instants.number opened, congrArg Instants.bounds opened, congrArg Instants.phase opened⟩

/-! ## The close of the read phase -/

theorem evidenceCheck_instants (s : State) : InstantsKept s (evidenceCheck s) := by
  unfold evidenceCheck
  refine ite refl (ite (opt (dupSet_instants _ s) ?_) (ite (dupSet_instants _ s) ((takeControl_instants _ _).after (dupSet_instants _ s))))
  exact still (dupSet_instants _ _) (evt_within _ _ _ _)

theorem rndReadClose_instants (s : State) : instants (rndReadClose s) = { instants s with phase := .compute, frozen := true } := by
  have queries (t : State) (id : Nat) : InstantsKept t (endQueries t id) := by
    have ended (r : Req) (u : State) (a b : Nat) : InstantsKept u (finish r a b u) := still refl (finish_within r a b u)
    refine (foldl (fun u r => ?_) _ _).after (putStn_instants id _ t)
    split
    · exact ite (still refl (complete_within _ _ _ _ _ _)) (ite (ended _ _ _ _) (ite (ended _ _ _ _) (ended _ _ _ _)))
    · exact ite (ended _ _ _ _) (ite (ended _ _ _ _) (ended _ _ _ _))
  exact foldl queries _ _

theorem readClose_instants {s : State} (read : s.rnd.phase = .read) (due : boundary 7 0 s ≤ s.tim.mon) :
    instants (readClose s) = { instants s with phase := .compute, frozen := true } := by
  have kept : InstantsKept (rndReadClose s) (readClose s) := by
    unfold readClose
    rw [if_neg (by simp [read]; omega)]
    refine still ((evidenceCheck_instants _).after ?_) (sepOpen_within _)
    exact still (still (still refl (tlyIntegrate_within _)) (dispReadings_within _)) (publishStations_within _)
  exact kept.trans (rndReadClose_instants s)

/-! ## The end of the separator's window -/

theorem sepFail_work (status reason : Nat) (s : State) : (sepFail status reason s).sep.work = none := by
  have shown (w : SepWork) (a b n : Nat) (t : State) : (sepStat w a b n t).sep = t.sep := (sepStat_within w a b n t).parts .sep (by decide)
  unfold sepFail
  split
  · next idle => exact idle
  · simp [sepAbandon, shown, apply_ite State.sep]

theorem sepWindowEnd_work {s : State} (compute : s.rnd.phase = .compute) (due : boundary 15 8 s ≤ s.tim.mon) :
    (sepWindowEnd s).sep.work = none := by
  unfold sepWindowEnd
  by_cases works : s.sep.work.isNone
  · rw [if_pos (by simp [works])]
    exact Option.isNone_iff_eq_none.1 works
  · rw [if_neg (by simp [works, compute]; omega)]
    exact sepFail_work _ _ _

/-! ## The opening of the write phase -/

theorem latchAll_instants (s : State) : InstantsKept s (latchAll s) := by
  have outputs (t : State) (id : Nat) : InstantsKept t (latchOut t id) := foldl (fun u k => ite refl (ite refl (putStn_instants _ _ u))) _ t
  have latched (t : State) (id : Nat) : InstantsKept t (latchStn (budgetOf id t) t id) := ite refl (putStn_instants id _ t)
  exact ite refl ((foldl latched _ _).after (foldl outputs _ s))

theorem sendWrite_instants (retry : Bool) (id : Nat) (s : State) : InstantsKept s (sendWrite retry id s) := by
  unfold sendWrite
  refine ite refl ((sendSession_instants _ _ _ _ _).after (still (opt (putStn_instants id _ s) ?_) (pmcAdd_within _ _ _)))
  exact still refl (pmcAdd_within _ _ _)

theorem summarise_ownSum (s : State) : (summarise s).dup.ownSum = some (ownSummary s) := by
  unfold summarise
  dsimp only
  split
  · rw [(sendPeer_instants _ _).ownSum, dupSet]
  · rfl

theorem writeOpen_opens {s : State} (compute : s.rnd.phase = .compute) (stepped : s.ctr.stepped = true) (due : boundary 23 16 s ≤ s.tim.mon) :
    (writeOpen s).rnd.phase = .write ∧ (writeOpen s).dup.ownSum.isSome = true := by
  unfold writeOpen
  rw [if_neg (by simp [compute, stepped]; omega)]
  dsimp only
  generalize e : tlyLatch _ = t
  have kept : InstantsKept { s with rnd := { s.rnd with phase := .write } } t := by
    subst e
    refine still ((foldl (fun u i => sendWrite_instants false i u) _ _).after ((latchAll_instants _).after ?_)) (tlyLatch_within _)
    exact still (still (still refl (dispLatch_within _)) (latchBudgets_within _)) (dispCommands_within _)
  have frozen := exchangeFreeze_within (summarise t)
  have summed : (summarise t).rnd = t.rnd := (summarise_within t).parts .rnd (by decide)
  constructor
  · rw [show (exchangeFreeze (summarise t)).rnd = _ from frozen.parts .rnd (by decide), summed, kept.phase]
  · rw [show (exchangeFreeze (summarise t)).dup = _ from frozen.parts .dup (by decide), summarise_ownSum]
    rfl

/-! ## The close of a round -/

theorem rndClose_instants (s : State) : instants (rndClose s) = { instants s with phase := .idle, closes := s.rnd.closes + 1 } := by
  have stations (t : State) (id : Nat) : InstantsKept t (closeStn t id) := by
    have missed (u : State) : InstantsKept u (pmcAdd 0x58 1 u) := still refl (pmcAdd_within _ _ _)
    unfold closeStn
    dsimp only
    split
    · exact still (opt (putStn_instants id _ t) (missed _)) (complete_within _ _ _ _ _ _)
    · exact opt (putStn_instants id _ t) (missed _)
  have groups (b : Bool) (t : State) (g : Nat) : InstantsKept t (groupRecord b t g) := still refl (groupRecord_within b t g)
  unfold rndClose
  dsimp only
  generalize e : List.foldl _ _ (List.range 16) = t
  have kept : InstantsKept s t := by
    subst e
    exact (foldl (groups _) _ _).after ((foldl stations _ _).after (opt refl (still refl (pmcAdd_within _ _ _))))
  simp only [instants, kept.number, kept.frozen, kept.started, kept.anchor, kept.bounds, kept.closes, kept.closedAt, kept.ownSum]

theorem outputCompare_instants (theirs : Option OutSummary) (s : State) : InstantsKept s (outputCompare theirs s) := by
  unfold outputCompare
  split
  · dsimp only
    refine ite (dupSet_instants _ s) ?_
    split
    · exact (dupSet_instants _ _).after (dupSet_instants _ s)
    · exact optElse (still (still (still ((dupSet_instants _ _).after (dupSet_instants _ s)) (incReg_within _ _ _)) (dupCause_within _ _)) (evt_within _ _ _ _))
        ((sendPeer_instants _ _).after (dupSet_instants _ _))
  · exact refl

theorem linkLost_instants (s : State) : InstantsKept s (linkLost s) := by
  have cause (bit : Nat) (t : State) : InstantsKept t (dupCause bit t) := still refl (dupCause_within bit t)
  unfold linkLost
  refine ite refl (still ((assertSrc_instants _ _).after ?_) (freeWaiting_within _))
  exact (cause _ _).after ((cause _ _).after ((cause _ _).after (still (dupSet_instants _ s) (incReg_within _ _ _))))

theorem reconcile_instants (s : State) : InstantsKept s (reconcile s) := by
  have put (k : Nat) (y : ReconSt) (t : State) : InstantsKept t (putRecon k y t) := dupSet_instants _ t
  have adopted (k : Nat) (b : Bytes) (t : State) : InstantsKept t (adopt k b t) := by
    unfold adopt
    split
    · exact refl
    · exact (addRec_instants _ _ _ _ _ _ _).after rfl
  have source (t : State) (e : Nat × ReconSt) : InstantsKept t (reconSource t e) := by
    refine foldl (fun u b => ?_) _ t
    refine ite (ite ((put _ _ _).after (adopted _ _ u)) (put _ _ u)) ?_
    split
    · exact refl
    · split
      · exact put _ _ u
      · exact put _ _ u
      · exact still (put _ _ u) (dupCause_within _ _)
  have all := foldl source s.dup.recon s
  exact ite refl (ite ((sendPeer_instants _ _).after ((dupSet_instants _ _).after all)) all)

theorem morClose_instants (s : State) : InstantsKept s (morClose s) := opt refl (sendPeer_instants _ s)

/-- The round engine's close, noted as the last close where the engine runs (R340, R399). -/
def closedRound (s : State) : State := dupSet (fun d => { d with closedAt := if rndRuns s then some s.tim.mon else d.closedAt }) (rndClose s)

theorem closedRound_instants (s : State) : instants (closedRound s) =
    { instants s with phase := .idle, closes := s.rnd.closes + 1, closedAt := if rndRuns s then some s.tim.mon else s.dup.closedAt } := by
  have noted (t : State) : instants (dupSet (fun d => { d with closedAt := if rndRuns s then some s.tim.mon else d.closedAt }) t) =
      { instants t with closedAt := if rndRuns s then some s.tim.mon else (instants t).closedAt } := rfl
  rw [closedRound, noted, rndClose_instants]
  rfl

/-- The comparison of outputs and what waited for a round close leave the close itself. -/
theorem roundClose_instants {theirs : Option OutSummary} {s : State} (write : s.rnd.phase = .write) (due : boundary 31 24 s ≤ s.tim.mon) :
    InstantsKept (closedRound s) (roundClose theirs s) := by
  have missing (t : State) : InstantsKept t (testMissing t) := opt refl (linkLost_instants t)
  have resumed (t : State) : InstantsKept t (unresign 7 t) := opt refl (setRole_instants _ t)
  have activated (t : State) : InstantsKept t (updRoundClose t) := opt refl (beginModReset_instants _ _ _ t)
  unfold roundClose closedRound
  rw [if_neg (by simp [write]; omega)]
  dsimp only
  generalize dupSet _ (rndClose s) = t
  refine (resumed _).after ((activated _).after ((morClose_instants _).after ((reconcile_instants _).after ?_)))
  refine still ((missing _).after ((dupSet_instants _ _).after ((outputCompare_instants theirs _).after ?_))) (dispClose_within _)
  exact still refl (setReg_within _ _ t)

/-! ## Resignation -/

theorem setRole_state (d : DupState) (s : State) : (setRole d s).dup.state = d := by
  rw [setRole_dup]
  split
  · assumption
  · rfl

theorem setRole_resignWhy (d : DupState) (s : State) : (setRole d s).dup.resignWhy = s.dup.resignWhy := by
  rw [setRole_dup]
  split <;> rfl

/-- A module in control that resigns for another cause than a switch-over or a higher claim shows RESIGNED with its cause (R399). -/
theorem resign_resigned {cause : Nat} {s : State} (pair : duplex s = true) (control : s.dup.state = .control) (handover : cause ≠ 1)
    (claims : cause ≠ 8) : (resign cause s).dup.state = .resigned ∧ (resign cause s).dup.resignWhy = cause := by
  simp [resign, pair, control, handover, claims, setRole_state, setRole_resignWhy, setMor_dup]

/-! ## The statement -/

/-- Settles O36, one instant after another. -/
theorem roundCommandsComplete : Obligations.RoundCommandsComplete := by
  unfold Obligations.RoundCommandsComplete
  refine ⟨?start, ?timeout, ?message, ?read, ?window, ?write, ?close, ?silent⟩
  case start =>
    intro s on up idle alone due phase
    refine does_run (f := roundStart) rfl on ?_
    rw [roundStart, if_neg (by simp [alone, due, phase])]
    have opened := roundBegin_instants (nextRound s) (getReg 0x2C004 s) up idle
    exact ⟨congrArg Instants.number opened, congrArg Instants.phase opened, congrArg Instants.anchor opened, congrArg Instants.bounds opened⟩
  case timeout =>
    intro s on up idle pair follower due phase
    refine does_run (f := roundStartTimeout) rfl on ?_
    rw [roundStartTimeout, if_neg (by simp [pair, follower, due, phase])]
    have opened := roundBegin_instants (nextRound s) (s.rnd.peerBounds.getD (getReg 0x2C004 s)) up idle
    exact ⟨congrArg Instants.number opened, congrArg Instants.phase opened, congrArg Instants.bounds opened⟩
  case message =>
    intro s h phases anchor on taken fits follower fresh up idle
    exact does_run rfl on (roundStartMsg_opens taken fits follower fresh up idle)
  case read =>
    intro s on read due
    have closed := readClose_instants read due
    exact does_run rfl on ⟨congrArg Instants.phase closed, congrArg Instants.frozen closed⟩
  case window => exact fun s on _ compute due => does_run rfl on (sepWindowEnd_work compute due)
  case write => exact fun s on compute stepped due => does_run rfl on (writeOpen_opens compute stepped due)
  case close =>
    intro s theirs on write due
    have closed := (roundClose_instants (theirs := theirs) write due).trans (closedRound_instants s)
    refine does_run (f := roundClose theirs) rfl on ⟨congrArg Instants.phase closed, congrArg Instants.closes closed, fun runs => ?_⟩
    rw [show (roundClose theirs s).dup.closedAt = _ from congrArg Instants.closedAt closed]
    exact if_pos runs
  case silent =>
    intro s on pair control due
    refine does_run (f := noRoundClosed) rfl on ?_
    rw [noRoundClosed, if_neg (by omega), if_pos (by simp [control])]
    exact resign_resigned pair control (by decide) (by decide)

end Sys2Proof.Machine
end

section
/-!
PROOFS. The event recorder (R511 to R516): a token comes back, a flush moves what is staged to the log, the window shows the record at the cursor, and a
replay ends its operation.
-/
set_option Elab.async false
namespace Sys2Proof.Machine

/-! ## Tokens (R511) -/

@[simp] theorem tgetD_tput_same {α : Type} (t : Tbl α) (k : Nat) (x d : α) : tgetD (tput t k x) k d = x := by
  rw [tgetD, tget_tput_same, Option.getD_some]
@[simp] theorem tgetD_tdel_same {α : Type} (t : Tbl α) (k : Nat) (d : α) : tgetD (tdel t k) k d = d := by
  rw [tgetD, tget_tdel_same, Option.getD_none]

/-- At a multiple of its period a code gets one token back, if one is spent. -/
theorem evrTokenRefill_spent {c : Nat} {s : State}
    (due : onMultiple (getF (0x0B000 + 4 * c) 15 8 s * 10000000) (tgetD s.evr.refillAt c 0) s.tim.mon = true) :
    tgetD (evrTokenRefill c s).evr.spent c 0 = tgetD s.evr.spent c 0 - 1 := by
  unfold evrTokenRefill
  dsimp only
  by_cases full : tgetD s.evr.spent c 0 = 0
  · rw [if_pos (by simp [full]), full]
  · rw [if_neg (by simp [full, due])]
    by_cases last : tgetD s.evr.spent c 0 ≤ 1
    · simp only [if_pos last, tgetD_tdel_same]
      omega
    · simp only [if_neg last, tgetD_tput_same]

/-! ## The flush (R512) -/

/-- With room in the log for what is staged, and no record lost before it, a flush moves the staged records there in order. -/
theorem evrFlush_log {s : State} (kept : s.evr.noRoom = 0) (room : s.evr.log.length + s.evr.staged.length ≤ logSize) :
    (evrFlush s).evr.staged = [] ∧ (evrFlush s).evr.log = s.evr.log ++ s.evr.staged := by
  obtain ⟨d, logged⟩ := foldl_logRec_evr s.evr.staged { s with evr := { s.evr with staged := [], header := s.evr.staged.length } } room
  unfold evrFlush
  dsimp only
  rw [if_pos (by rw [fillCheck_noRoom, logged, kept])]
  exact ⟨by rw [fillCheck_staged, logged], by rw [fillCheck_log, logged]⟩

/-! ## The window (R515) -/

section Window
variable {who : Requester} {s : State}

theorem fullRead_winCopy (ans : Answers 0x0A060 s) : fullRead who 0x0A060 s = evrWinRead who s := by
  obtain ⟨here, calm⟩ := ans
  simp [fullRead, here, calm]

theorem fullRead_winAdvance (ans : Answers 0x0A07C s) : fullRead who 0x0A07C s = evrWinAdvance who s := by
  obtain ⟨here, calm⟩ := ans
  simp [fullRead, here, calm]

theorem readBy_evr {f : State → State} (h : reaches who s = true) : (readBy who f s).evr = (f s).evr := (readBy_pmc h).parts .evr (by decide)

/-- A cursor at or below the newest record copies the first record from it on. -/
theorem evrWinCopy_window {e l : Evt} (found : findEvt s.evr.cursor s = some e) (newest : (s.evr.log ++ s.evr.staged).getLast? = some l)
    (below : s.evr.cursor ≤ l.seq) : (evrWinCopy s).evr.window = e.bytes := by
  unfold evrWinCopy
  dsimp only
  rw [newest]
  dsimp only
  rw [if_neg (by omega), found]
  simp [apply_ite State.evr]

theorem evrWinRead_out : (evrWinRead who s).out = .regRead who 0x0A060 (evrWin 0 (evrWinRead who s)) :: s.out := by
  have copied : (evrWinCopy s).out = s.out := (evrWinCopy_within s).parts .out (by decide)
  rw [← copied]
  rfl

theorem evrWinAdvance_out : (evrWinAdvance who s).out = .regRead who 0x0A07C (evrWin 7 s) :: s.out := by
  unfold evrWinAdvance
  dsimp only
  split <;> simp [emit]

/-- The read of the last word moves the cursor only while AUTOINC is 1. -/
theorem evrWinAdvance_cursor :
    (evrWinAdvance who s).evr.cursor = if getB 0x0A000 0 s then (s.evr.cursor + 1) % 2 ^ 64 else s.evr.cursor := by
  have same : getB 0x0A000 0 (emit (.regRead who 0x0A07C (evrWin 7 s)) s) = getB 0x0A000 0 s := rfl
  unfold evrWinAdvance
  dsimp only
  rw [same]
  split <;> simp

end Window

/-! ## The statement -/

/-- Settles O11, one command after another. -/
theorem recorderCommandsComplete : Obligations.RecorderCommandsComplete := by
  unfold Obligations.RecorderCommandsComplete
  refine ⟨?refill, ?flush, ?flushDone, ?cursor, ?copy, ?advance, ?replay⟩
  case refill => exact fun s c on due => does_run rfl on (evrTokenRefill_spent due)
  case flush =>
    intro s on due kept room
    refine does_run (f := evrFlushDue) rfl on ?_
    rw [evrFlushDue, if_neg (by omega)]
    exact evrFlush_log kept room
  case flushDone =>
    intro s q on runs
    refine does_run (f := evrHoldupFlushDone) rfl on ?_
    rw [evrHoldupFlushDone, runs]
  case cursor =>
    intro s v on ans
    refine does_run (f := regWrite 0x0A044 v) rfl on ?_
    rw [regWrite_cursor ans, evrCursorSet]
    exact ⟨by rw [getReg_setReg_other _ _ _ _ (by decide)], getReg_setReg_same _ _ _⟩
  case copy =>
    intro s who e l on hr ans found newest below
    refine does_run rfl on ?_
    rw [evrWin, readBy_evr hr, readBy_out hr, fullRead_winCopy ans, ← evrWin]
    exact ⟨evrWinCopy_window found newest below, evrWinRead_out⟩
  case advance =>
    intro s who on hr ans
    refine does_run rfl on ?_
    rw [readBy_evr hr, readBy_out hr, fullRead_winAdvance ans]
    exact ⟨evrWinAdvance_out, evrWinAdvance_cursor⟩
  case replay =>
    intro s r b on asked old
    refine does_run rfl on ?_
    rw [inlineOp_asked asked, evtReplay, if_neg (by omega)]
    exact complete_mem _ _ _ _ _ _

end Sys2Proof.Machine
end

section
/-!
PROOFS. Supply, temperature and the hold-up store (R32 to R58): what a reaction of the fault collector leaves of them, that a sequence of R37 stays
as it began whatever its source's reactions, that a commit counts once, and what the rails' going off leaves.
-/
set_option Elab.async false
namespace Sys2Proof.Machine

/-! ## What an operation keeps -/

/-- Whatever of `P` holds of the one state holds of the other. -/
def Keeps {β : Type} (P : β → State → Prop) (s t : State) : Prop := ∀ x, P x s → P x t

namespace Keeps
variable {β : Type} {P : β → State → Prop} {s t u : State}

theorem refl : Keeps P s s := fun _ => id
theorem after (k : Keeps P t u) (h : Keeps P s t) : Keeps P s u := fun x p => k x (h x p)
theorem ite {c : Prop} [Decidable c] (h : Keeps P s t) (k : Keeps P s u) : Keeps P s (if c then t else u) := by
  split <;> assumption
/-- An operation that may come after what is kept. -/
theorem opt {c : Prop} [Decidable c] (h : Keeps P s t) (k : Keeps P t u) : Keeps P s (if c then u else t) := ite (k.after h) h
theorem optElse {c : Prop} [Decidable c] (h : Keeps P s t) (k : Keeps P t u) : Keeps P s (if c then t else u) := ite h (k.after h)
theorem foldl {α : Type} {f : State → α → State} {l : List α} (hf : ∀ s, ∀ x ∈ l, Keeps P s (f s x)) (s : State) :
    Keeps P s (l.foldl f s) := by
  induction l generalizing s with
  | nil => exact refl
  | cons x l ih => exact (ih (fun t y hy => hf t y (List.mem_cons_of_mem x hy)) (f s x)).after (hf s x List.mem_cons_self)

end Keeps

open Keeps

/-- `P` is kept by all that an active source does: the collector's own part, the event counters, its records and messages, and its BLK and MOD
reactions. -/
structure UnmovedByFaults {β : Type} (P : β → State → Prop) : Prop where
  own   : ∀ (p : FcoSt) (s : State), Keeps P s { s with fco := p }
  count : ∀ (n : Nat) (s : State), n < 224 → Keeps P s (incReg (0x08800 + 4 * n) 1 s)
  frame : ∀ {s t : State}, Within [.hif, .evr, .pmc, .out] (some [0x0A034, 0x0A010, 0x0A030]) s t → Keeps P s t
  blk   : ∀ (n : Nat) (s : State), Keeps P s (reactBlk n s)
  mod   : ∀ (n : Nat) (s : State), Keeps P s (beginModReset (.fault n) 3 .automatic s)

namespace UnmovedByFaults
variable {β : Type} {P : β → State → Prop} (h : UnmovedByFaults P)
include h

theorem message (s : State) : Keeps P s (sendMsg 0 s) := h.frame ((sendMsg_within 0 s).mono (by decide) (by simp [regsLe]))

theorem activate (n count : Nat) (forced : Bool) (why : Option Nat) (s : State) : Keeps P s (activate n count forced why s) := by
  have nmi (t : State) : Keeps P t (emit (.nmi n) t) := h.frame ((emit_within _ t).mono (by decide) (by simp [regsLe]))
  unfold Machine.activate
  refine opt (opt (opt (opt ?_ (h.message _)) ((nmi _).after (h.message _))) (h.blk n _)) (h.mod n _)
  exact (h.frame (record_within _ _ _ _)).after (h.own _ s)

theorem occur (n : Nat) (forced : Bool) (why : Option Nat) (s : State) : Keeps P s (occur n forced why s) := by
  unfold Machine.occur
  split
  · exact refl
  · next hn =>
    have counted := h.count n s (by simp at hn; omega)
    exact ite counted (ite (ite ((h.own _ _).after counted) ((h.activate _ _ _ _ _).after ((h.own _ _).after counted))) ((h.own _ _).after counted))

theorem assertSrc (n : Nat) (s : State) : Keeps P s (assertSrc n s) :=
  ite refl (ite (h.own _ s) ((h.occur n false none _).after (h.own _ s)))

theorem endCond (n : Nat) (s : State) : Keeps P s (endCond n s) := by
  have left (t : State) : Keeps P t (deactivate n t) := by
    unfold deactivate
    exact ite refl (opt (t := { t with fco := _ }) (h.own _ t) (h.frame (record_within _ _ _ _)))
  unfold Machine.endCond
  exact ite (h.own _ s) ((left _).after (h.own _ s))

theorem setCond (n : Nat) (holds : Bool) (s : State) : Keeps P s (setCond n holds s) := ite (h.assertSrc n s) (h.endCond n s)

end UnmovedByFaults

/-- A resignation keeps what a change of role keeps, but for its message, its count and the duplex part (R399). -/
theorem keeps_resign {β : Type} {P : β → State → Prop} (dup : ∀ (p : DupSt) (s : State), Keeps P s { s with dup := p })
    (frame : ∀ {s t : State}, Within [.hif, .evr, .pmc, .dup, .tly, .out] (some [0x0E04C, 0x0E030]) s t → Keeps P s t)
    (role : ∀ (d : DupState) (s : State), Keeps P s (setRole d s)) (cause : Nat) (s : State) : Keeps P s (resign cause s) := by
  have told (b : PeerBody) (t : State) : Keeps P t (sendPeer b t) := frame ((sendPeer_within b t).mono (by decide) (by simp [regsLe]))
  have ended (keep : DupOp → Bool) (t : State) : Keeps P t (switchOps keep t) := frame ((switchOps_within keep t).mono (by decide) (by simp [regsLe]))
  have mor (t : State) : Keeps P t (setMor false t) := frame ((setMor_within false t).mono (by decide) (by simp [regsLe]))
  have count (t : State) : Keeps P t (incReg 0x0E04C 1 t) := frame ((incReg_within _ _ t).mono (by decide) (by simp [regsLe]))
  unfold resign
  refine ite refl (ite refl (opt (t := setRole _ _) ((role _ _).after (optElse ?_ (mor _))) (dup _ _)))
  exact (count _).after ((dup _ _).after ((told _ _).after (ended _ s)))

/-! ## Supply through the reactions of the fault collector -/

/-- What the module shows of its supply: GLB_HWSTAT but for CLM_CTRL, which follows the role (R57), GLB_TEMP and the cages that are off (R54). -/
structure SupplyView where
  status   : Word
  temp     : Word
  cagesOff : List Nat

/-- The module shows this of its supply. -/
def Supplied (v : SupplyView) (s : State) : Prop :=
  putBit (getReg 0x7F040 s) 8 false = v.status ∧ getReg 0x7F044 s = v.temp ∧ s.pwr.sfpOff = v.cagesOff

section Supplied
variable {s t : State} (h : Keeps Supplied s t)
include h

theorem Keeps.supplied_same : putBit (getReg 0x7F040 t) 8 false = putBit (getReg 0x7F040 s) 8 false ∧ getReg 0x7F044 t = getReg 0x7F044 s ∧
    t.pwr.sfpOff = s.pwr.sfpOff := h ⟨_, _, _⟩ ⟨rfl, rfl, rfl⟩

theorem Keeps.getReg_temp : getReg 0x7F044 t = getReg 0x7F044 s := h.supplied_same.2.1
theorem Keeps.sfpOff : t.pwr.sfpOff = s.pwr.sfpOff := h.supplied_same.2.2

/-- Every bit of GLB_HWSTAT but CLM_CTRL. -/
theorem Keeps.getB_status {i : Nat} (d : i ≠ 8) : getB 0x7F040 i t = getB 0x7F040 i s := by
  rw [getB, ← bitAt_putBit_other _ 8 i false (by decide) d, h.supplied_same.1, bitAt_putBit_other _ _ _ _ (by decide) d, getB]

/-- HOLDUP_PCT. -/
theorem Keeps.getF_holdupPct : getF 0x7F040 23 16 t = getF 0x7F040 23 16 s := by
  have clear (w : Word) : fld (putBit w 8 false) 23 16 = fld w 23 16 :=
    fld_putFld_other _ _ _ _ _ _ (by decide) (by decide) (by decide) (by decide)
  rw [getF, ← clear, h.supplied_same.1, clear, getF]

end Supplied

theorem supplied_within {ps : List Part} {rs : List Nat} {s t : State} (w : Within ps (some rs) s t) (hp : .pwr ∉ ps := by decide)
    (hs : 0x7F040 ∉ rs := by decide) (ht : 0x7F044 ∉ rs := by decide) : Keeps Supplied s t := by
  have pwr : t.pwr = s.pwr := w.parts .pwr hp
  intro v shown
  rw [Supplied, w.regs rs rfl _ hs, w.regs rs rfl _ ht, pwr]
  exact shown

/-- CLM_CTRL is no part of it. -/
theorem supplied_setClmCtrl (b : Bool) (s : State) : Keeps Supplied s (setB 0x7F040 8 b s) := by
  have twice (w : Word) : putBit (putBit w 8 b) 8 false = putBit w 8 false := by
    apply BitVec.eq_of_getLsbD_eq
    intro i _
    simp only [putBit, getLsbD_putFld _ 8 8 _ _ (Nat.le_refl 8) (by decide)]
    split <;> rfl
  have temp : getReg 0x7F044 (setB 0x7F040 8 b s) = getReg 0x7F044 s := getReg_setB_other _ _ _ _ _ (by decide)
  intro v shown
  rw [Supplied, temp, setB_pwr, setB, getReg_setReg_same, twice]
  exact shown

theorem supplied_showClm (c : Clm) (s : State) : Keeps Supplied s (showClm c s) := ite refl refl

theorem supplied_evt (g k x : Nat) (s : State) : Keeps Supplied s (evt g k x s) := supplied_within (evt_within g k x s)

theorem supplied_setRole (d : DupState) (s : State) : Keeps Supplied s (setRole d s) := by
  have withdrawn := supplied_within (withdrawExchange_within s)
  have dup (p : DupSt) (t : State) : Keeps Supplied t { t with dup := p } := refl
  have live (p : StartSt) (t : State) : Keeps Supplied t { t with start := p } := refl
  unfold setRole
  refine ite refl ((supplied_evt _ _ _ _).after ((supplied_within (setCause_within _ _ _ _ _)).after ?_))
  refine optElse ((supplied_setClmCtrl _ _).after ((supplied_showClm _ _).after ((dup _ _).after withdrawn))) ?_
  exact (supplied_within (setF_within _ _ _ _ _)).after (live _ _)

theorem supplied_resign (cause : Nat) (s : State) : Keeps Supplied s (resign cause s) :=
  keeps_resign (fun _ _ => refl) (fun w => supplied_within w) supplied_setRole cause s

theorem supplied_resignTell (cause : Nat) (s : State) : Keeps Supplied s (resignTell cause s) :=
  ite (supplied_within (sendPeer_within _ s)) (supplied_resign cause s)

theorem supplied_seqStart (why : SeqWhy) (s : State) : Keeps Supplied s (seqStart why s) := by
  have safe (p : PwrSt) (hp : p.sfpOff = s.pwr.sfpOff) : Keeps Supplied s (outputsSafe { s with pwr := p }) :=
    fun v shown => ⟨shown.1, shown.2.1, hp.trans shown.2.2⟩
  have marked (p : TlySt) (t : State) : Keeps Supplied t { t with tly := p } := refl
  unfold seqStart
  exact (supplied_setClmCtrl _ _).after ((marked _ _).after ((supplied_showClm .static0 _).after (safe _ rfl)))

theorem supplied_beginModReset (why : ModWhy) (cause : Nat) (kind : RestartKind) (s : State) :
    Keeps Supplied s (beginModReset why cause kind s) := by
  have told := supplied_resignTell cause s
  have noted (p : DupSt) (q : StartSt) (t : State) : Keeps Supplied t { t with dup := p, start := q } := refl
  unfold beginModReset
  exact ite refl ((supplied_seqStart _ _).after ((noted _ _ _).after told))

/-- A block reset touches no register of another block. -/
theorem getReg_resetRegs_other {a : Nat} {b : Block} (h : blockAt a ≠ some b) (s : State) : getReg a (resetRegs b s) = getReg a s := by
  have kept : Keeps (fun w t => getReg a t = w) s (resetRegs b s) := by
    unfold resetRegs
    refine foldl (fun t x hx w e => ?_) s
    have chosen := List.of_mem_filter hx
    simp only [Bool.and_eq_true, beq_iff_eq] at chosen
    have mine : blockAt x = some b := chosen.1.1
    rw [getReg_setReg_other _ _ _ _ (by rintro rfl; exact h mine), e]
  exact kept _ rfl

theorem supplied_beginBlockReset {b : Block} (notGlb : b ≠ .glb) (s : State) : Keeps Supplied s (beginBlockReset s b) := by
  have regs (t : State) : Keeps Supplied t (resetRegs b t) := by
    have other {a : Nat} (ha : blockAt a = some .glb) : getReg a (resetRegs b t) = getReg a t :=
      getReg_resetRegs_other (by rw [ha]; simpa using notGlb.symm) t
    have pwr : (resetRegs b t).pwr = t.pwr := (resetRegs_within b t).parts .pwr (by decide)
    intro v shown
    rw [Supplied, other (by decide), other (by decide), pwr]
    exact shown
  have pairs (t : State) : Keeps Supplied t (if b = .hif then (List.range 60).foldl dropPair t else (blockPairs b).foldl resetPair t) :=
    ite (foldl (fun u p _ => supplied_within (dropPair_within u p)) t) (foldl (fun u p _ => supplied_within (resetPair_within u p)) t)
  have noted (p : StartSt) (t : State) : Keeps Supplied t { t with start := p } := refl
  unfold beginBlockReset
  refine ite refl ((supplied_evt _ _ _ _).after ((pairs _).after (opt ?_ (supplied_within (rndBlockReset_within _)))))
  exact (regs _).after ((supplied_within (setB_within 0x7F018 8 true _)).after (noted _ s))

/-- No code of GLB_BLKRST names the block of the supervisor (R70). -/
theorem glb_not_mem_codeBlocks (c : Nat) : Block.glb ∉ codeBlocks c := by
  unfold codeBlocks
  split <;> simp

theorem supplied_reactBlk (n : Nat) (s : State) : Keeps Supplied s (reactBlk n s) := by
  have waits (p : FcoSt) : Keeps Supplied s { s with fco := p } := refl
  exact ite refl (ite (supplied_beginModReset _ _ _ s) (ite refl (ite
    (foldl (fun t b hb => supplied_beginBlockReset (by rintro rfl; exact glb_not_mem_codeBlocks _ hb) t) s) (waits _))))

/-- No reaction of a source reaches what the module shows of its supply. -/
theorem supplied_unmoved : UnmovedByFaults Supplied where
  own _ _ := refl
  count _ s _ := supplied_within (incReg_within _ _ s) (hs := by simp; omega) (ht := by simp; omega)
  frame w := supplied_within w
  blk := supplied_reactBlk
  mod _ := supplied_beginModReset _ _ _

theorem supplied_unresign (cause : Nat) (s : State) : Keeps Supplied s (unresign cause s) := ite (supplied_setRole _ s) refl

theorem supplied_ringLink (p : Nat) (up : Bool) (s : State) : Keeps Supplied s (ringLink p up s) := by
  unfold ringLink
  split
  · exact refl
  · next hp =>
    have port : p < 4 := by omega
    have shown (i : Nat) (b : Bool) (t : State) : Keeps Supplied t (setB (ethStat p) i b t) :=
      supplied_within (setB_within _ _ _ t) (hs := by simp [ethStat]; omega) (ht := by simp [ethStat]; omega)
    have status : Keeps Supplied s (setB (ethStat p) 1 (bitAt (ethCfgView p s) 30) (setB (ethStat p) 0 up s)) :=
      (shown _ _ _).after (shown _ _ s)
    refine ite (supplied_evt _ _ _ s) (ite status ((supplied_evt _ _ _ _).after ((supplied_unmoved.setCond _ _ _).after ?_)))
    exact (supplied_within (setB_within 0x38600 p up _)).after status

/-! ## Conditions -/

theorem endCond_cond (n : Nat) (s : State) : (endCond n s).fco.cond = without s.fco.cond n := by
  unfold endCond
  dsimp only
  split
  · rfl
  · rw [deactivate_cond]

/-- A condition that is set to hold or not does. -/
theorem mem_setCond_cond (n : Nat) (holds : Bool) (s : State) : n ∈ (setCond n holds s).fco.cond ↔ holds = true := by
  cases holds <;> simp [setCond, endCond_cond, mem_without]

theorem mem_setCond_cond_other {n m : Nat} (d : m ≠ n) (holds : Bool) (s : State) :
    m ∈ (setCond n holds s).fco.cond ↔ m ∈ s.fco.cond := by
  cases holds <;> simp [setCond, endCond_cond, mem_without, d]

theorem ringLink_cond {n : Nat} (d : n ≠ 66) (p : Nat) (up : Bool) (s : State) : n ∈ (ringLink p up s).fco.cond ↔ n ∈ s.fco.cond := by
  unfold ringLink
  dsimp only
  (repeat' split) <;> simp [mem_setCond_cond_other d]

/-! ## While a sequence runs -/

/-- A sequence runs, CLM shows 0000b and the outputs are in their safe state (R37, R65). -/
def Silent (q : Seq) (s : State) : Prop := s.pwr.seq = some q ∧ s.pwr.clm = .static0 ∧ s.start.outputsLive = false

theorem Silent.seqRuns {q : Seq} {s : State} (h : Silent q s) : seqRuns s = true := by rw [Machine.seqRuns, h.1]; rfl

theorem silent_within {ps : List Part} {rs : Option (List Nat)} {s t : State} (w : Within ps rs s t) (hp : .pwr ∉ ps := by decide)
    (hs : .start ∉ ps := by decide) : Keeps Silent s t := by
  have pwr : t.pwr = s.pwr := w.parts .pwr hp
  have start : t.start = s.start := w.parts .start hs
  intro q silent
  rw [Silent, pwr, start]
  exact silent

/-- The reactions BLK and MOD are recorded and not acted on while a sequence runs (R503). -/
theorem silent_unmoved : UnmovedByFaults Silent where
  own _ _ := refl
  count _ s _ := silent_within (incReg_within _ _ s)
  frame w := silent_within w
  blk n s q silent := by rw [reactBlk, if_pos silent.seqRuns]; exact silent
  mod n s q silent := by rw [beginModReset, if_pos silent.seqRuns]; exact silent

/-- A role that changes shows no pattern while a sequence runs (R44). -/
theorem silent_setRole (d : DupState) (s : State) : Keeps Silent s (setRole d s) := by
  intro q silent
  have withdrawn := silent_within (withdrawExchange_within s)
  unfold setRole
  dsimp only
  split
  · exact silent
  · obtain ⟨runs, clm, outputs⟩ := withdrawn q silent
    rw [Silent, evt_pwr, setCause_pwr, evt_start, setCause_start]
    simp [runs, clm, outputs, showClm]

theorem silent_resignTell (cause : Nat) (s : State) : Keeps Silent s (resignTell cause s) :=
  ite (silent_within (sendPeer_within _ s)) (keeps_resign (fun _ _ => refl) (fun w => silent_within w) silent_setRole cause s)

@[simp] theorem showClm_clm (c : Clm) (s : State) : (showClm c s).pwr.clm = c := by
  unfold showClm
  split
  · next same => exact beq_iff_eq.1 same
  · rfl

@[simp] theorem showClm_seq (c : Clm) (s : State) : (showClm c s).pwr.seq = s.pwr.seq := by
  unfold showClm
  split <;> rfl

theorem silent_seqStart (why : SeqWhy) (s : State) : Silent { why := why } (seqStart why s) := by
  have start (t : State) : (showClm .static0 t).start = t.start := (showClm_within _ t).parts .start (by decide)
  simp [seqStart, Silent, start, outputsSafe]

/-- The hold-up sequence begins with CLM at 0000b, the outputs safe and its source set (R37). -/
theorem beginHoldup_starts {s : State} (why : HoldupWhy) (idle : s.pwr.seq = none) :
    Silent { why := .holdup why } (beginHoldup why s) ∧ 0 ∈ (beginHoldup why s).fco.cond ∧ Keeps Supplied s (beginHoldup why s) := by
  have steps : beginHoldup why s = resignTell 2 (assertSrc 0 (seqStart (.holdup why) s)) := by rw [beginHoldup, idle]
  have told : (resignTell 2 (assertSrc 0 (seqStart (.holdup why) s))).fco = (assertSrc 0 (seqStart (.holdup why) s)).fco :=
    (resignTell_within 2 _).parts .fco (by decide)
  rw [steps]
  refine ⟨silent_resignTell 2 _ _ (silent_unmoved.assertSrc 0 _ _ (silent_seqStart _ s)), by simp [told], ?_⟩
  exact (supplied_resignTell 2 _).after ((supplied_unmoved.assertSrc 0 _).after (supplied_seqStart _ s))

/-! ## The final commit (R306) -/

/-- The latest commit has this COMMIT_SEQ. -/
def Committed (n : Nat) (s : State) : Prop := s.tly.seq = n

theorem committed_within {ps : List Part} {rs : Option (List Nat)} {s t : State} (w : Within ps rs s t) (hp : .tly ∉ ps := by decide) :
    Keeps Committed s t := by
  have tly : t.tly = s.tly := w.parts .tly hp
  intro n h
  rw [Committed, tly, h]

/-- A change of the tally that leaves COMMIT_SEQ. -/
theorem committed_tly (p : TlySt) (s : State) (h : p.seq = s.tly.seq := by rfl) : Keeps Committed s { s with tly := p } :=
  fun _ e => h.trans e

theorem committed_putSrc (k : Nat) (x : TlySrc) (s : State) : Keeps Committed s (putSrc k x s) := committed_tly _ s
theorem committed_mapSrcs (f : Nat → TlySrc → TlySrc) (s : State) : Keeps Committed s (mapSrcs f s) := committed_tly _ s

theorem committed_pumpStream (pair : Nat) (s : State) : Keeps Committed s (pumpStream pair s) := by
  unfold pumpStream
  exact (foldl (fun u r _ => committed_within (deferWith_within _ _ _ _ _ u)) _).after (committed_tly _ s)

theorem committed_addRec (stream rtype source seq status : Nat) (b : Bytes) (s : State) :
    Keeps Committed s (addRec stream rtype source seq status b s) := by
  unfold addRec
  refine (committed_pumpStream _ _).after (opt ?_ ?_)
  · exact (committed_within (emit_within _ _)).after ((committed_within (pmcAdd_within _ _ _)).after (committed_tly _ s))
  · exact (committed_within (pmcAdd_within _ _ _)).after (opt refl (committed_within (sendPeer_within _ _)))

theorem committed_addSpan (p : Span) (s : State) : Keeps Committed s (addSpan p s) := by
  unfold addSpan
  refine ite (committed_tly _ s) ((committed_addRec _ _ _ _ _ _ _).after ?_)
  exact (committed_within (incReg_within _ _ _)).after (committed_putSrc _ _ s)

theorem committed_closeGaps (k : Nat) (v : Ival) (x : TlySrc) (s : State) : Keeps Committed s (closeGaps k v x s).2.2 := by
  unfold closeGaps
  split
  · exact refl
  · exact (foldl (fun t p _ => committed_addSpan p t) _).after ((committed_putSrc _ _ _).after (committed_within (pmcAdd_within _ _ s)))

theorem committed_recordIval (k : Nat) (v : Ival) (x : TlySrc) (s : State) : Keeps Committed s (recordIval k v x s) := by
  unfold recordIval
  refine (committed_addRec _ _ _ _ _ _ _).after (opt (committed_putSrc _ _ s) ?_)
  exact (committed_within (evt_within _ _ _ _)).after (committed_within (incReg_within _ _ _))

theorem committed_closeOldest (k : Nat) (s : State) : Keeps Committed s (closeOldest k s) := by
  have closed (v : Ival) (x : TlySrc) := committed_closeGaps k v x s
  unfold closeOldest
  split
  · exact refl
  · split
    · exact refl
    · refine ite refl (ite ?_ ((committed_recordIval _ _ _ _).after (closed _ _)))
      split
      · exact ite ((committed_putSrc _ _ _).after (closed _ _)) (closed _ _)
      · exact closed _ _

theorem committed_closeSrc (s : State) (k : Nat) : Keeps Committed s (closeSrc s k) := foldl (fun t _ _ => committed_closeOldest k t) s

theorem committed_startSrc (k t : Nat) (s : State) : Keeps Committed s (startSrc k t s) := by
  unfold startSrc
  split
  · exact ite refl (committed_putSrc _ _ s)
  · exact ite (committed_putSrc _ _ s) refl

theorem committed_tlyRoll (s : State) : Keeps Committed s (tlyRoll s) := by
  unfold tlyRoll
  extract_lets gained lost rolled now edge begun hour
  have hgained : Keeps Committed s gained := opt refl (committed_mapSrcs _ s)
  have hlost : Keeps Committed gained lost := opt refl (committed_mapSrcs _ gained)
  have hrolled : Keeps Committed lost rolled := committed_mapSrcs _ lost
  have hbegun : Keeps Committed rolled begun := opt refl (foldl (fun t k _ => committed_startSrc _ _ t) rolled)
  exact (committed_tly _ begun).after (hbegun.after (hrolled.after (hlost.after hgained)))

theorem committed_flushSpans (s : State) : Keeps Committed s (flushSpans s) := by
  unfold flushSpans
  exact ite refl ((foldl (fun t p _ => committed_addSpan p t) _).after (committed_tly _ s))

/-- The final bank takes the next COMMIT_SEQ and clears the marker. -/
theorem writeBank_final (s : State) : (writeBank true s).tly.seq = s.tly.seq + 1 ∧ (writeBank true s).tly.marker = none := by
  unfold writeBank
  dsimp only
  rw [pmcAdd_tly]
  exact ⟨by simp [apply_ite TlySt.seq], by simp⟩

theorem finalCommit_commits (s : State) : (finalCommit s).tly.seq = s.tly.seq + 1 ∧ (finalCommit s).tly.marker = none := by
  have tly : (finalCommit s).tly = (commitNow true s).tly := rfl
  rw [tly]
  unfold commitNow
  extract_lets rolled closed
  have purged : Keeps Committed (flushSpans closed) (purgeStore (flushSpans closed)) := committed_tly _ _
  have ready : Keeps Committed s (mapSrcs (fun _ x => pruneBud x) (purgeStore (flushSpans closed))) :=
    (committed_mapSrcs _ _).after <| purged.after <| (committed_flushSpans _).after <|
      (foldl (fun t k _ => committed_closeSrc t k) rolled).after (committed_tlyRoll s)
  obtain ⟨seq, marker⟩ := writeBank_final (mapSrcs (fun _ x => pruneBud x) (purgeStore (flushSpans closed)))
  exact ⟨by rw [seq, ready _ rfl], marker⟩

/-- The final commit ends the step of its sequence, and commits once while metering (R306). -/
theorem endFinalCommit_done {s : State} {q : Seq} (runs : s.pwr.seq = some q) :
    (endFinalCommit s).pwr.seq = some { q with commitDone := true } ∧
    (q.commitDone = false → s.tly.metering = true →
      (endFinalCommit s).tly.seq = s.tly.seq + 1 ∧ (endFinalCommit s).tly.marker = none) := by
  rw [endFinalCommit, runs]
  dsimp only
  by_cases done : q.commitDone = true
  · rw [if_pos done]
    exact ⟨by rw [runs, ← done], fun first => absurd done (by simp [first])⟩
  · rw [if_neg done]
    refine ⟨rfl, fun _ metering => ?_⟩
    rw [if_pos metering]
    exact finalCommit_commits s

/-! ## The rails -/

/-- With the rails off CLM is at high impedance, and what no flush has written is lost (R37, R513). -/
theorem dropRails_leaves (why : HoldupWhy) (flushed : Bool) (s : State) :
    (dropRails why flushed s).pwr.on = false ∧ (dropRails why flushed s).pwr.offWhy = some why ∧ (dropRails why flushed s).pwr.seq = none ∧
    (dropRails why flushed s).pwr.clm = .hiZ ∧ (dropRails why flushed s).evr.staged = [] := by
  have link (t : State) : (linkDown t).pwr = t.pwr := (linkDown_within t).parts .pwr (by decide)
  simp [dropRails, link]

theorem dropRails_tly (why : HoldupWhy) (flushed : Bool) (s : State) : (dropRails why flushed s).tly = s.tly :=
  (dropRails_within why flushed s).parts .tly (by decide)

/-- A final commit that has not ended leaves the bank that it writes unreadable (R39). -/
def spoilBank (done : Bool) (s : State) : State :=
  if done || !s.tly.metering then s
  else if s.tly.latest = 0 then { s with tly := { s.tly with bank1 := none } } else { s with tly := { s.tly with bank0 := none } }

theorem spoilBank_bank {s : State} (metering : s.tly.metering = true) :
    (if s.tly.latest = 0 then (spoilBank false s).tly.bank1 else (spoilBank false s).tly.bank0) = none := by
  by_cases latest : s.tly.latest = 0 <;> simp [spoilBank, metering, latest]

section Holdup
variable {s : State} {q : Seq} {w : HoldupWhy} (runs : s.pwr.seq = some q) (why : q.why = .holdup w)
include runs why

theorem railsOff_eq : railsOff s = dropRails w q.flushDone s := by
  obtain ⟨_, _, _⟩ := q
  subst why
  rw [railsOff, runs]

theorem storeExhausted_eq : storeExhausted s = dropRails w q.flushDone (spoilBank q.commitDone s) := by
  obtain ⟨_, _, _⟩ := q
  subst why
  rw [storeExhausted, runs, spoilBank]

theorem storeExhausted_leaves : (storeExhausted s).pwr.on = false ∧ (storeExhausted s).pwr.offWhy = some w ∧
    (q.commitDone = false → s.tly.metering = true →
      (if s.tly.latest = 0 then (storeExhausted s).tly.bank1 else (storeExhausted s).tly.bank0) = none) := by
  obtain ⟨off, cause, -⟩ := dropRails_leaves w q.flushDone (spoilBank q.commitDone s)
  rw [storeExhausted_eq runs why]
  refine ⟨off, cause, fun pending metering => ?_⟩
  rw [dropRails_tly, pending]
  exact spoilBank_bank metering

end Holdup

/-! ## Feeds and temperature -/

/-- The OK bit and the sticky bit of a feed are two bits of GLB_HWSTAT, neither of them CLM_CTRL (R57). -/
theorem feedBit_facts (f : Feed) : feedBit f < 2 ∧ feedBit f ≠ 8 ∧ 12 + feedBit f ≠ 8 := by cases f <;> decide

theorem feedLost_shows (f : Feed) (s : State) : 1 ∈ (feedLost f s).fco.cond ∧ getB 0x7F040 (feedBit f) (feedLost f s) = false ∧
    getB 0x7F040 (12 + feedBit f) (feedLost f s) = true := by
  obtain ⟨small, ok, sticky⟩ := feedBit_facts f
  have kept := (supplied_evt 0 3 (argCond 0x7F040 (12 + feedBit f) 0) _).after
    (supplied_unmoved.assertSrc 1 (setB 0x7F040 (12 + feedBit f) true (setB 0x7F040 (feedBit f) false s)))
  refine ⟨by simp [feedLost], ?_, ?_⟩
  · rw [feedLost, kept.getB_status ok, getB_setB_bit _ _ _ _ _ (by omega) (by omega), getB_setB_same _ _ _ _ (by omega)]
  · rw [feedLost, kept.getB_status sticky, getB_setB_same _ _ _ _ (by omega)]

/-- The source of R34 clears once both feeds are there. -/
theorem feedReturned_shows (f : Feed) (s : State) : getB 0x7F040 (feedBit f) (feedReturned f s) = true ∧
    (getB 0x7F040 (1 - feedBit f) s = true → 1 ∉ (feedReturned f s).fco.cond) := by
  obtain ⟨small, ok, -⟩ := feedBit_facts f
  have kept (c : Bool) := (supplied_evt 0 3 (argCond 0x7F040 (feedBit f) 0) _).after
    (supplied_unmoved.setCond 1 c (setB 0x7F040 (feedBit f) true s))
  have back : getB 0x7F040 (feedBit f) (setB 0x7F040 (feedBit f) true s) = true := getB_setB_same _ _ _ _ (by omega)
  refine ⟨?_, fun other => ?_⟩
  · rw [feedReturned, (kept _).getB_status ok, back]
  · have stays : getB 0x7F040 (1 - feedBit f) (setB 0x7F040 (feedBit f) true s) = true := by
      rw [getB_setB_bit _ _ _ _ _ (by omega) (by omega), other]
    have both : (getB 0x7F040 0 (setB 0x7F040 (feedBit f) true s) && getB 0x7F040 1 (setB 0x7F040 (feedBit f) true s)) = true := by
      cases f
      · exact Bool.and_eq_true_iff.2 ⟨back, stays⟩
      · exact Bool.and_eq_true_iff.2 ⟨stays, back⟩
    rw [feedReturned, evt_fco, mem_setCond_cond, both]
    decide

theorem tempRefresh_shows (mk : Int) (s : State) : getReg 0x7F044 (tempRefresh mk s) = BitVec.ofInt 32 mk ∧
    getB 0x7F040 9 (tempRefresh mk s) = decide (108000 < mk) ∧ (3 ∈ (tempRefresh mk s).fco.cond ↔ 108000 < mk) := by
  have kept (t : State) := supplied_unmoved.setCond 3 (decide (108000 < mk)) t
  unfold tempRefresh
  refine ⟨?_, ?_, ?_⟩
  · rw [(kept _).getReg_temp, getReg_setB_other _ _ _ _ _ (by decide), getReg_upd, getReg_setReg_other _ _ _ _ (by decide),
      getReg_setReg_same]
  · rw [(kept _).getB_status (by decide), getB_setB_same _ _ _ _ (by decide)]
  · rw [mem_setCond_cond, decide_eq_true_iff]

/-! ## The hold-up store -/

theorem holdupReady_setReady (s : State) : holdupReady (holdupReadySet s) = true := by
  have kept (c : Bool) := (supplied_unresign 9 _).after ((supplied_within (outputsFollow_within _)).after
    (supplied_unmoved.setCond 2 c (setB 0x7F040 3 true s)))
  rw [holdupReadySet, holdupReady, (kept _).getB_status (by decide), getB_setB_same _ _ _ _ (by decide)]

/-- A module in control raises the source, whether or not it resigns (R45). -/
theorem holdupReadyLost_shows (s : State) : holdupReady (holdupReadyLost s) = false ∧
    (inControl s = true → 2 ∈ (holdupReadyLost s).fco.cond) := by
  unfold holdupReadyLost
  extract_lets low raised
  have control : inControl low = inControl s := by simp [inControl, low]
  have notReady : getB 0x7F040 3 low = false := getB_setB_same _ _ _ _ (by decide)
  have kept : Keeps Supplied low raised := (supplied_evt _ _ _ _).after (supplied_unmoved.assertSrc 2 low)
  have resigned : (resign 9 raised).fco = raised.fco := (resign_within 9 raised).parts .fco (by decide)
  have cond : 2 ∈ raised.fco.cond := by simp [raised]
  refine ⟨?_, fun leads => ?_⟩
  · rw [holdupReady, (ite refl (opt kept (supplied_resign 9 raised))).getB_status (by decide), notReady]
  · rw [if_neg (by simp [control, leads])]
    split
    · rw [resigned]; exact cond
    · exact cond

theorem holdupMeasure_shows (n : Nat) (s : State) : getF 0x7F040 23 16 (holdupMeasure n s) = min n 255 ∧
    getB 0x7F040 4 (holdupMeasure n s) = decide (n < 100) ∧ (n < 100 → 2 ∈ (holdupMeasure n s).fco.cond) := by
  have kept (c : Bool) (t : State) := supplied_unmoved.setCond 2 c t
  unfold holdupMeasure
  refine ⟨?_, ?_, fun short => ?_⟩
  · rw [(kept _ _).getF_holdupPct, getF, setB, getReg_setReg_same, putBit, fld_putFld_other _ _ _ _ _ _ (by decide) (by decide) (by decide)
      (by decide), ← getF, getF_setF_same _ _ _ _ _ (by decide) (by decide), Nat.mod_eq_of_lt (by omega)]
  · rw [(kept _ _).getB_status (by decide), getB_setB_same _ _ _ _ (by decide)]
  · rw [mem_setCond_cond]
    simp [short]

/-! ## SFP+ cages (R54) -/

theorem sfpOverpower_cuts {p : Nat} {s : State} (port : p < 4) (powered : p ∉ s.pwr.sfpOff) :
    p ∈ (sfpOverpower p s).pwr.sfpOff ∧ 67 ∈ (sfpOverpower p s).fco.cond := by
  have kept := (supplied_ringLink p false _).after
    (supplied_unmoved.assertSrc 67 { s with pwr := { s.pwr with sfpOff := s.pwr.sfpOff ++ [p] } })
  rw [sfpOverpower, if_neg (by simp [powered]; omega)]
  exact ⟨by rw [kept.sfpOff]; simp, by simp [ringLink_cond]⟩

theorem cagePower_powers {p : Nat} {s : State} (off : p ∈ s.pwr.sfpOff) :
    p ∉ (cagePower p s).pwr.sfpOff ∧ ((cagePower p s).pwr.sfpOff = [] → 67 ∉ (cagePower p s).fco.cond) := by
  have left : (cagePower p s).pwr.sfpOff = without s.pwr.sfpOff p := by
    rw [cagePower, if_neg (by simp [off])]
    exact (supplied_unmoved.setCond 67 _ _).sfpOff
  refine ⟨by simp [left, mem_without], fun last => ?_⟩
  rw [left] at last
  rw [cagePower, if_neg (by simp [off]), mem_setCond_cond, last]
  decide

/-! ## The entry into standby (R46, R72) -/

theorem standbyEntry_shows {s : State} (standby : s.dup.state = .standby) (idle : seqRuns s = false) :
    (standbyEntry s).pwr.clm = .standby ∧ getF 0x7F01C 3 0 (standbyEntry s) = max (getF 0x7F01C 3 0 s) 6 := by
  have follows (t : State) : (outputsFollow t).pwr = t.pwr := (outputsFollow_within t).parts .pwr (by decide)
  have stage (t : State) : getReg 0x7F01C (outputsFollow t) = getReg 0x7F01C t := (outputsFollow_within t).regs _ rfl _ (by simp)
  have small : getF 0x7F01C 3 0 s < 16 := Nat.mod_lt _ (by decide)
  rw [standbyEntry, if_neg (by simp [standby, idle])]
  refine ⟨by rw [follows, setF_pwr, showClm_clm], ?_⟩
  rw [getF, stage, ← getF, getF_setF_same _ _ _ _ _ (by decide) (by decide)]
  exact Nat.mod_eq_of_lt (by omega)

/-! ## The statements -/

/-- Settles O9: every other command needs the rails (R37). -/
theorem railsOffIsStill : Obligations.RailsOffIsStill := by
  unfold Obligations.RailsOffIsStill
  intro i s off
  cases i with
  | powerOnReset | overTempCooled | tamperTrip | oscStop | backupSourceSwitch | vbdRetTrip | vbdFloorTrip => trivial
  | _ => exact run_off off

/-- Settles O37, one clause after another from what each operation shows. -/
theorem supplyCommandsComplete : Obligations.SupplyCommandsComplete := by
  unfold Obligations.SupplyCommandsComplete
  have begins {s : State} (why : HoldupWhy) (idle : s.pwr.seq = none) : (beginHoldup why s).pwr.seq = some { why := .holdup why } ∧
      (beginHoldup why s).pwr.clm = .static0 ∧ (beginHoldup why s).start.outputsLive = false ∧ 0 ∈ (beginHoldup why s).fco.cond := by
    obtain ⟨⟨runs, clm, outputs⟩, cond, -⟩ := beginHoldup_starts why idle
    exact ⟨runs, clm, outputs, cond⟩
  refine ⟨?lost, ?returned, ?temp, ?powerFail, ?present, ?overTemp, ?powerdown, ?charged, ?discharged, ?measured, ?cageOff, ?cageOn, ?standby,
    ?commit, ?railsOff, ?exhausted⟩
  case lost => exact fun s f on => does_run rfl on (feedLost_shows f s)
  case returned => exact fun s f on => does_run rfl on (feedReturned_shows f s)
  case temp => exact fun s mk on => does_run rfl on (tempRefresh_shows mk s)
  case powerFail => exact fun s on idle => does_run rfl on (begins .powerFail idle)
  case present =>
    intro s on idle
    obtain ⟨⟨runs, clm, outputs⟩, cond, kept⟩ := beginHoldup_starts (s := setB 0x7F040 2 false s) .presentLost (by rw [setB_pwr, idle])
    refine does_run (f := presentLost) rfl on ⟨runs, clm, outputs, cond, ?_⟩
    rw [presentLost, kept.getB_status (by decide), getB_setB_same _ _ _ _ (by decide)]
  case overTemp => exact fun s on idle => does_run rfl on (begins .overTemp idle)
  case powerdown => exact fun s on idle => does_run rfl on (begins .powerdown idle)
  case charged => exact fun s on => does_run rfl on (holdupReady_setReady s)
  case discharged => exact fun s on => does_run rfl on (holdupReadyLost_shows s)
  case measured => exact fun s n on => does_run rfl on (holdupMeasure_shows n s)
  case cageOff => exact fun s p on port powered => does_run rfl on (sfpOverpower_cuts port powered)
  case cageOn =>
    intro s p page on port off
    refine does_run (f := sfpInserted p page) rfl on ?_
    rw [sfpInserted, if_neg (by omega)]
    exact cagePower_powers off
  case standby => exact fun s on standby idle => does_run rfl on (standbyEntry_shows standby idle)
  case commit => exact fun s q on runs => does_run rfl on (endFinalCommit_done runs)
  case railsOff =>
    intro s q w on runs why
    refine does_run (f := railsOff) rfl on ?_
    rw [railsOff_eq runs why]
    exact dropRails_leaves _ _ _
  case exhausted => exact fun s q w on runs why => does_run rfl on (storeExhausted_leaves runs why)

end Sys2Proof.Machine
end

section
/-!
PROOFS. The tick of an empty queue (R59, R451, R466): the domains count in units of 2^-32 ns.
-/
namespace Sys2Proof.Machine

/-- A domain advances by its increment in units of 2^-32 ns (R451). -/
theorem advance_count (ns f incr : Nat) : (advance ns f incr).1 * 2 ^ 32 + (advance ns f incr).2 = ns * 2 ^ 32 + f + incr := by
  unfold advance
  omega

/-- A domain whose ns wrap at 64 bits wraps at 96 bits with its fraction (R450). -/
theorem advance_wraps (ns f incr : Nat) :
    (advance ns f incr).1 % 2 ^ 64 * 2 ^ 32 + (advance ns f incr).2 = (ns * 2 ^ 32 + f + incr) % 2 ^ 96 := by
  unfold advance
  omega

/-- The RTC advances while it is valid and no setting holds it, with the rails on or off (R466). -/
theorem tick_rtc (s : State) : (tick s).tim.rtc =
    if getB 0x06004 30 s && (!s.pwr.on || decide (s.tim.haltUntil ≤ s.tim.mon)) then s.tim.rtc + 2 else s.tim.rtc := by
  unfold tick
  dsimp only
  split <;> rfl

theorem tick_tim_off {s : State} (off : s.pwr.on = false) : (tick s).tim = { s.tim with rtc := (tick s).tim.rtc } := by
  simp [tick, off]

theorem tick_tim_on {s : State} (on : s.pwr.on = true) : (tick s).tim = { s.tim with
    mon := (advance s.tim.mon s.tim.monF s.tim.incrMon).1 % 2 ^ 64, monF := (advance s.tim.mon s.tim.monF s.tim.incrMon).2,
    net := (advance s.tim.net s.tim.netF s.tim.incrNet).1, netF := (advance s.tim.net s.tim.netF s.tim.incrNet).2,
    bus := (advance s.tim.bus s.tim.busF s.tim.incrBus).1 % 2 ^ 64, busF := (advance s.tim.bus s.tim.busF s.tim.incrBus).2,
    rtc := (tick s).tim.rtc } := by
  simp [tick, on]

/-- Settles O2: the step on an empty queue is a tick. -/
theorem idleStepIsOneTick : Obligations.IdleStepIsOneTick := by
  unfold Obligations.IdleStepIsOneTick
  intro s empty
  refine ⟨tick s, by rw [step, empty], (tick_within s).toUntouched, tick_rtc s, tick_tim_off, ?mon, ?net, ?bus⟩
  case mon => intro on; rw [tick_tim_on on]; exact advance_wraps _ _ _
  case net => intro on; rw [tick_tim_on on]; exact advance_count _ _ _
  case bus => intro on; rw [tick_tim_on on]; exact advance_wraps _ _ _

end Sys2Proof.Machine
end

section
/-!
PROOFS. Fault collection (R62, R498 to R505): a condition that begins or ends, an occurrence that activates its source, and what stays of either while
the other sources of the same command follow.
-/
namespace Sys2Proof.Machine

/-- What one element of a list brings about, and no other element undoes, holds after the list. -/
theorem foldl_brings {α : Type} {f : State → α → State} {P : State → Prop} {x : α} {l : List α} (h : x ∈ l) (brings : ∀ s, P (f s x))
    (stays : ∀ s y, P s → P (f s y)) (s : State) : P (l.foldl f s) := by
  have kept (l : List α) (s : State) (p : P s) : P (l.foldl f s) := by
    induction l generalizing s with
    | nil => exact p
    | cons y l ih => exact ih (f s y) (stays s y p)
  induction l generalizing s with
  | nil => cases h
  | cons y l ih =>
    rcases List.mem_cons.1 h with rfl | m
    · exact kept l _ (brings s)
    · exact ih m (f s y)

/-! ## The clocks of the islands (R62, R505) -/

theorem islandFault_raises {n : Nat} (other : n ≠ 34) (s : State) : n ∈ (islandFault s n).fco.cond := by
  simp [islandFault, other]

theorem islandFault_cond_mono {m : Nat} (s : State) (n : Nat) (h : m ∈ s.fco.cond) : m ∈ (islandFault s n).fco.cond := by
  unfold islandFault
  split
  · split <;> exact h
  · exact (assertSrc_cond n m s).2 (.inl h)

theorem islandFault_stops (s : State) : (islandFault s 34).fco.stopped = true := by
  by_cases stopped : s.fco.stopped = true <;> simp [islandFault, stopped]

/-- The reference fault takes the collector's own island last (R62). -/
theorem clockFault_reference (s : State) :
    clockFault 16 s = islandFault ((16 :: (List.range 17).map (· + 17)).foldl islandFault s) 34 := by
  have last : (16 :: (List.range 18).map (· + 17)) = (16 :: (List.range 17).map (· + 17)) ++ [34] := by decide
  rw [clockFault, if_pos rfl, last, List.foldl_concat]

/-- The reference fault raises its own source and those of the islands, and stops the collector (R62, R505). -/
theorem referenceFault_leaves {n : Nat} (low : 16 ≤ n) (high : n ≤ 33) (s : State) :
    n ∈ (clockFault 16 s).fco.cond ∧ (clockFault 16 s).fco.stopped = true := by
  have listed : n ∈ 16 :: (List.range 17).map (· + 17) := by
    rcases Nat.eq_or_lt_of_le low with rfl | above
    · exact List.mem_cons_self
    · exact List.mem_cons_of_mem _ (List.mem_map.2 ⟨n - 17, by simp; omega, by omega⟩)
  rw [clockFault_reference]
  exact ⟨islandFault_cond_mono _ 34 (foldl_brings listed (islandFault_raises (by omega)) islandFault_cond_mono s), islandFault_stops _⟩

theorem clockFault_island {n : Nat} (low : 17 ≤ n) (high : n ≤ 35) (s : State) : clockFault n s = islandFault s n := by
  rw [clockFault, if_neg (by omega), if_pos ⟨low, high⟩]

/-- The monitor of island 1 tells the supervisor alone (R505). -/
theorem collectorClockFault_leaves {s : State} (runs : s.fco.stopped = false) : (islandFault s 34).fco.stopped = true ∧
    (islandFault s 34).fco.cond = s.fco.cond ∧ (islandFault s 34).out = .nmi 34 :: s.out := by
  simp [islandFault, runs, emit]

/-! ## Occurrences at THRESH (R498, R499) -/

/-- The sources of the lockstep, the memory and the parity checks are events. -/
theorem srcRow_checks : ∀ n < 95, (48 ≤ n ∧ n ≤ 55) ∨ (80 ≤ n ∧ n ≤ 94) → (srcRow n).known = true ∧ (srcRow n).level = false := by decide

theorem raise_check_activates {n : Nat} {s : State} (check : (48 ≤ n ∧ n ≤ 55) ∨ (80 ≤ n ∧ n ≤ 94)) (thresh : fld (srcCfg n s) 23 16 ≤ 1) :
    n ∈ (raise n s).fco.active := by
  obtain ⟨known, event⟩ := srcRow_checks n (by omega) check
  exact occur_activates n false none s known (by omega) thresh (.inl event)

/-- Whatever check of the scan fails, source 192 becomes active, and the reactions of the lanes leave it so (R505). -/
theorem integrityScan_activates {r : ScanResult} {s : State} (failed : r ≠ .ok) (thresh : fld (srcCfg 192 s) 23 16 ≤ 1) :
    192 ∈ (fcoIntegrityScan r s).fco.active := by
  have active (why : Option Nat) : 192 ∈ (occur 192 false why s).fco.active :=
    occur_activates 192 false why s (by decide) (by decide) thresh (.inl (by decide))
  cases r with
  | ok => exact absurd rfl failed
  | copies => exact active _
  | lanes u =>
    have kept (l : List Nat) (t : State) (h : 192 ∈ t.fco.active) : 192 ∈ (l.foldl (fun s n => occur n false none s) t).fco.active := by
      induction l generalizing t with
      | nil => exact h
      | cons n l ih => exact ih _ (occur_active n 192 false none t h)
    exact kept u _ (active _)
  | path b => exact active _

/-! ## The end of a condition (R500) -/

theorem levelConditionEnd_eq {n : Nat} {s : State} (level : (srcRow n).level = true) (ref : n ≠ 16) (own : n ≠ 34) :
    levelConditionEnd n s = endCond n s := by
  rw [levelConditionEnd, if_neg (by simp [level]), if_neg ref, islandGood, if_neg own]

/-- Neither held by a block reset nor forced, the source becomes inactive with its condition (R500, R502). -/
theorem endCond_inactive {n : Nat} {s : State} (held : srcHeld n s = false) (free : tget s.fco.forced n = none) : n ∉ (endCond n s).fco.active := by
  have same : srcHeld n { s with fco := { s.fco with cond := without s.fco.cond n } } = false := held
  simp [endCond, same, free]

/-! ## Forced levels (R504) -/

theorem fcoForce_leaves {v : Word} {s : State} (key : fld v 31 16 = 0x5A3C) (known : (srcRow (fld v 7 0)).known = true) (small : fld v 7 0 < 224)
    (thresh : fld (srcCfg (fld v 7 0) s) 23 16 ≤ 1) : fld v 7 0 ∈ (fcoForce v s).fco.active ∧
      ((srcRow (fld v 7 0)).level = true → fld v 7 0 ∉ s.fco.active →
        tget (fcoForce v s).fco.forced (fld v 7 0) = some (s.tim.mon + 1000000)) := by
  have active : fld v 7 0 ∈ (occur (fld v 7 0) true none s).fco.active := occur_activates _ true none s known small thresh (.inr (.inl rfl))
  have tim : (occur (fld v 7 0) true none s).tim = s.tim := (occur_within _ _ _ s).parts .tim (by decide)
  unfold fcoForce
  dsimp only
  rw [if_neg (by simp [key, known]; omega)]
  refine ⟨?_, fun level fresh => ?_⟩
  · split <;> exact active
  · rw [if_pos (by simp [level, fresh, active]), tim]
    exact tget_tput_same

/-- With its time over a forced level is off, and its source inactive unless the condition holds (R504). -/
theorem forcedLevelExpiry_leaves {n m : Nat} {s : State} (forced : tget s.fco.forced n = some m) (due : m ≤ s.tim.mon) :
    tget (forcedLevelExpiry n s).fco.forced n = none ∧ (n ∉ s.fco.cond → n ∉ (forcedLevelExpiry n s).fco.active) := by
  unfold forcedLevelExpiry
  rw [if_neg (by simp [forced, due])]
  by_cases holds : n ∈ s.fco.cond
  · rw [if_pos (by simp [holds])]
    exact ⟨tget_tdel_same, fun ends => absurd holds ends⟩
  · rw [if_neg (by simp [holds])]
    exact ⟨deactivate_forced n n _ tget_tdel_same, fun _ active => ((deactivate_active _ _ _).1 active).2 rfl⟩

/-! ## The clearing of sources and windows (R499, R500) -/

/-- A 1 clears an event source, and no other bit of the same write makes a source active. -/
theorem fcoActiveClear_clears {w b : Nat} {v : Word} {s : State} (word : w < 7) (low : b < 32) (bit : bitAt v b = true)
    (event : (srcRow (32 * w + b)).level = false) : 32 * w + b ∉ (fcoActiveClear w v s).fco.active := by
  unfold fcoActiveClear
  rw [if_neg (by omega)]
  refine foldl_brings (P := fun t => 32 * w + b ∉ t.fco.active) (x := b) (by simp [low, bit]) (fun t => ?_) (fun t c cleared => ?_) s
  · simp [event]
  · dsimp only
    split
    · exact cleared
    · exact fun active => cleared ((deactivate_active _ _ t).1 active).1

theorem fcoWindowEnd_closes {n : Nat} {s : State} (closed : windowOpen n s = false) :
    tget (fcoWindowEnd n s).fco.window n = none ∧ tget (fcoWindowEnd n s).fco.opened n = none := by
  rw [fcoWindowEnd, if_neg (by simp [closed])]
  exact ⟨tget_tdel_same, tget_tdel_same⟩

/-! ## The statement -/

/-- Settles O10, one command after another. -/
theorem faultCommandsComplete : Obligations.FaultCommandsComplete := by
  unfold Obligations.FaultCommandsComplete
  refine ⟨?island, ?reference, ?collector, ?lockstep, ?memory, ?ends, ?force, ?expiry, ?clear, ?window, ?scan⟩
  case island =>
    intro s n on low high other
    refine does_run (f := clockFault n) rfl on ?_
    rw [clockFault_island low high]
    exact islandFault_raises other s
  case reference => exact fun s n on low high => does_run rfl on (referenceFault_leaves low high s)
  case collector =>
    intro s on runs
    refine does_run (f := clockFault 34) rfl on ?_
    rw [clockFault_island (by decide) (by decide)]
    exact collectorClockFault_leaves runs
  case lockstep =>
    intro s n on low high thresh
    refine does_run (f := lockstepMismatch n) rfl on ?_
    rw [lockstepMismatch, if_pos ⟨low, high⟩]
    exact raise_check_activates (by omega) thresh
  case memory =>
    intro s n on source thresh
    refine does_run (f := memoryEccError n) rfl on ?_
    rw [memoryEccError, if_pos source]
    exact raise_check_activates (by omega) thresh
  case ends =>
    intro s n on level ref own
    refine does_run (f := levelConditionEnd n) rfl on ?_
    rw [levelConditionEnd_eq level ref own]
    exact ⟨by simp [endCond_cond, mem_without], endCond_inactive⟩
  case force =>
    intro s v on key known small ans thresh
    refine does_run (f := regWrite 0x08010 v) rfl on ?_
    rw [regWrite_force ans]
    exact fcoForce_leaves key known small thresh
  case expiry => exact fun s n m on forced due => does_run rfl on (forcedLevelExpiry_leaves forced due)
  case clear =>
    intro s w v b on word low bit ans event
    refine does_run rfl on ?_
    rw [if_neg (by omega), regWrite_clear word ans]
    exact fcoActiveClear_clears word low bit event
  case window => exact fun s n on closed => does_run rfl on (fcoWindowEnd_closes closed)
  case scan => exact fun s r on failed thresh => does_run rfl on (integrityScan_activates failed thresh)

end Sys2Proof.Machine
end

section
/-!
PROOFS. The link to the host (R66, R94, R117, R545): its loss begins the condition of source 64 and its return ends it, and the endpoint resets clear the
MSI-X structures.
-/
namespace Sys2Proof.Machine

/-- A field keeps its value while another field of its register is set. -/
theorem getF_setF_other {hi lo hi' lo' : Nat} (a v : Nat) (s : State) (h : lo ≤ hi) (top : hi < 32) (h' : lo' ≤ hi') (apart : hi < lo' ∨ hi' < lo) :
    getF a hi' lo' (setF a hi lo v s) = getF a hi' lo' s := by
  rw [getF, setF, getReg_setReg_same, fld_putFld_other _ _ _ _ _ _ h top h' apart, getF]

/-- A bit keeps its value while a field of its register beside it is set. -/
theorem getB_setF_other {hi lo i : Nat} (a v : Nat) (s : State) (h : lo ≤ hi) (top : hi < 32) (apart : i < lo ∨ hi < i) :
    getB a i (setF a hi lo v s) = getB a i s := by
  rw [getB, bitAt, setF, getReg_setReg_same, getLsbD_putFld _ _ _ _ _ h top, if_neg (by omega), getB, bitAt]

theorem linkDrop_raises (cause : Nat) (s : State) : 64 ∈ (linkDrop cause s).fco.cond := by simp [linkDrop]

theorem linkLoss_raises (c : LinkCause) (s : State) : 64 ∈ (linkLoss c s).fco.cond := by
  cases c <;> exact linkDrop_raises _ _

/-- HIF_LINKSTAT of a link that has trained (R94). -/
def trained (speed width : Nat) (s : State) : State := setF 0x00004 7 4 width (setF 0x00004 3 2 speed (setB 0x00004 0 true s))

theorem trained_shows {speed width : Nat} (fast : speed ≤ 3) (lanes : width ≤ 4) (s : State) : getB 0x00004 0 (trained speed width s) = true ∧
    getF 0x00004 3 2 (trained speed width s) = speed ∧ getF 0x00004 7 4 (trained speed width s) = width := by
  unfold trained
  refine ⟨?_, ?_, ?_⟩
  · rw [getB_setF_other _ _ _ (by decide) (by decide) (by decide), getB_setF_other _ _ _ (by decide) (by decide) (by decide),
      getB_setB_same _ _ _ _ (by decide)]
  · rw [getF_setF_other _ _ _ (by decide) (by decide) (by decide) (by decide), getF_setF_same _ _ _ _ _ (by decide) (by decide)]
    omega
  · rw [getF_setF_same _ _ _ _ _ (by decide) (by decide)]
    omega

/-- At a speed and a width of the link (R81) the return sets HIF_LINKSTAT, is recorded and ends the condition of source 64. -/
theorem linkReturn_trains {speed width : Nat} (slow : 1 ≤ speed) (fast : speed ≤ 3) (lanes : width = 1 ∨ width = 2 ∨ width = 4) (s : State) :
    ∃ u, linkReturn speed width s = endCond 64 (evt 1 2 (argState 0 0 1 0) (trained speed width u)) := by
  have trains : (!within speed 1 3 || !(([1, 2, 4] : List Nat).contains width)) = false := by
    rcases lanes with rfl | rfl | rfl <;> simp [within, slow, fast]
  rw [linkReturn, if_neg (by rw [trains]; decide)]
  exact ⟨_, rfl⟩

theorem linkReturn_shows {speed width : Nat} (slow : 1 ≤ speed) (fast : speed ≤ 3) (lanes : width = 1 ∨ width = 2 ∨ width = 4) (s : State) :
    64 ∉ (linkReturn speed width s).fco.cond ∧ getB 0x00004 0 (linkReturn speed width s) = true ∧
    getF 0x00004 3 2 (linkReturn speed width s) = speed ∧ getF 0x00004 7 4 (linkReturn speed width s) = width := by
  obtain ⟨u, steps⟩ := linkReturn_trains slow fast lanes s
  have kept : getReg 0x00004 (linkReturn speed width s) = getReg 0x00004 (trained speed width u) := by
    rw [steps, (endCond_within 64 _).regs _ rfl _ (by decide), getReg_evt_other _ _ _ _ _ (by decide)]
  rw [getB, getF, getF, kept]
  exact ⟨by simp [steps, endCond_cond, mem_without], trained_shows fast (by omega) u⟩

/-- The MSI-X structures take their reset values (R545). -/
theorem getReg_clearMsix {a : Nat} (low : 0x03000 ≤ a) (high : a < 0x04000) (s : State) : getReg a (clearMsix s) = regReset a := by
  have cleared (t : Tbl Word) : tget (t.filter (fun e => !(decide (0x03000 ≤ e.1) && decide (e.1 < 0x04000)))) a = none := by
    induction t with
    | nil => rfl
    | cons e t ih =>
      by_cases msix : 0x03000 ≤ e.1 ∧ e.1 < 0x04000
      · rw [List.filter_cons_of_neg (by simp [msix]), ih]
      · rw [List.filter_cons_of_pos (by simp; omega), tget, if_neg (by omega), ih]
  rw [getReg, clearMsix, cleared, Option.getD_none]

/-- PERST_N is a link loss, and the block reset of HIF and the clearing of MSI-X leave the collector (R66, R117). -/
theorem perstN_leaves {a : Nat} (low : 0x03000 ≤ a) (high : a < 0x04000) (s : State) :
    64 ∈ (perstN s).fco.cond ∧ (perstN s).hif.msixOn = false ∧ getReg a (perstN s) = regReset a := by
  have fco (t : State) : (clearMsix (beginBlockReset t .hif)).fco = t.fco := (beginBlockReset_within t .hif).parts .fco (by decide)
  refine ⟨?_, rfl, getReg_clearMsix low high _⟩
  rw [perstN, fco]
  exact linkDrop_raises _ _

/-- Settles O15: a function level reset does what PERST_N does (R66). -/
theorem linkCommandsComplete : Obligations.LinkCommandsComplete := by
  unfold Obligations.LinkCommandsComplete
  refine ⟨?loss, ?back, ?perst, ?flr⟩
  case loss => exact fun s c on => does_run rfl on (linkLoss_raises c s)
  case back => exact fun s speed width on slow fast lanes => does_run rfl on (linkReturn_shows slow fast lanes s)
  case perst => exact fun s a on low high => does_run rfl on (perstN_leaves low high s)
  case flr => exact fun s a on low high => does_run rfl on (perstN_leaves low high s)

end Sys2Proof.Machine
end

section
/-!
PROOFS. Start-up (R72): why the completion of stage 5 need not leave STAGE at 5.
-/
namespace Sys2Proof.Machine

/-- With the rails on, what a command is said to leave its operation leaves. -/
theorem run_of_does {i : Instr} {f : State → State} {s : State} {P : State → Prop} (he : exec i s = run f s) (on : s.pwr.on = true)
    (h : Does i s P) : P (f s) := by
  obtain ⟨t, ran, holds⟩ := h
  rw [he, run, if_pos on] at ran
  cases ran
  exact holds

/-- Every check of the start-up stages passes. -/
def cleanStage : StageIn :=
  { imageOk := true, bank0Ok := true, bank1Ok := true, badTasks := [], failedChannels := [], selfTestOk := true }

/-- An exchange to an empty program, captured and mapped, that is due at the next round start. -/
def dueExchange : CycSt :=
  { staged := some { sig := 0, tasks := [], vars := [], mids := [] },
    exch := some { target := 0, sig := 0, req := none, captured := some (0, [], []), mapped := some ([], []) } }

/-- A module of the duplex configuration in slot 1, in INIT after stage 4, with HOLDUP_READY, no peer in control and an exchange that is due: neither
the operation that schedules one (`applyExchange`) nor the mapping of the peer's state (`exchangeMapped`) asks for the stage. -/
def exchangeAtStage4 : State :=
  setReg 0x7F01C 4 (setReg 0x7F040 0x01000008 (setReg 0x0E004 1 { State.reset with cyc := dueExchange }))

/-- With stage 5 the first round starts (R17); the exchange of its start gives the module control (R381), whose pattern is stage 7 (R72). -/
theorem stageComplete_exchangeAtStage4 : getF 0x7F01C 3 0 (stageComplete cleanStage exchangeAtStage4) = 7 := by decide +kernel

/-- Refutes O38 in its clause of the stages: it says of every state below stage 5 that STAGE rises by 1, but as stage 5 completes the first round
starts, and an exchange that is due there gives the module control, so that STAGE reads 7. -/
theorem not_resetCommandsComplete : ¬ Obligations.ResetCommandsComplete := by
  unfold Obligations.ResetCommandsComplete
  rintro ⟨-, -, -, -, -, -, stages, -, -⟩
  have four : getF 0x7F01C 3 0 exchangeAtStage4 = 4 := by decide
  have rises := stages exchangeAtStage4 cleanStage (by decide) (by decide) (by omega) (.inr rfl)
  have five := run_of_does (f := stageComplete cleanStage) rfl (by decide) rises
  rw [stageComplete_exchangeAtStage4, four] at five
  exact absurd five (by decide)

end Sys2Proof.Machine
end

section
/-!
PROOFS. The ring pairs and their doorbells (R84 to R86, R91, R98, R112, R115): when ENABLE rises and falls, what changes the owner of pair 0, and what a
doorbell that a pair takes leaves.
-/
namespace Sys2Proof.Machine

/-! ## HIF_RINGCFG -/

/-- A bit keeps its value while a field beside it is put. -/
theorem bitAt_putFld_other {hi lo i : Nat} (w : Word) (v : Nat) (h : lo ≤ hi) (top : hi < 32) (apart : i < lo ∨ hi < i) :
    bitAt (putFld w hi lo v) i = bitAt w i := by
  rw [bitAt, getLsbD_putFld _ _ _ _ _ h top, if_neg (by omega), bitAt]

/-- A field keeps its value while a bit beside it is put. -/
theorem fld_putBit_other {hi lo i : Nat} (w : Word) (b : Bool) (h : lo ≤ hi) (low : i < 32) (apart : i < lo ∨ hi < i) :
    fld (putBit w i b) hi lo = fld w hi lo :=
  fld_putFld_other _ _ _ _ _ _ (Nat.le_refl i) low h apart

@[simp] theorem bitAt_or_one_enable (v : Word) : bitAt (v ||| 1) 0 = true := by simp [bitAt]
@[simp] theorem bitAt_or_one_owner (v : Word) : bitAt (v ||| 1) 2 = bitAt v 2 := by simp [bitAt]

section Frame
variable {pair : Nat} {ps : List Part} {rs : List Nat} {s t : State}

theorem ringOn_within (w : Within ps (some rs) s t) (other : ringReg pair 0x10 ∉ rs) : ringOn pair t = ringOn pair s := by
  rw [ringOn, getB, w.regs rs rfl _ other, ringOn, getB]

theorem ownedInside_within (w : Within ps (some rs) s t) (other : ringReg 0 0x10 ∉ rs) : ownedInside pair t = ownedInside pair s := by
  rw [ownedInside, getB, w.regs rs rfl _ other, ownedInside, getB]

end Frame

variable {pair : Nat} {v : Word} {s : State}

@[simp] theorem ringOn_putRing (p : Nat) (r : Ring) (s : State) : ringOn pair (putRing p r s) = ringOn pair s :=
  ringOn_within (putRing_within p r s) (by simp)
@[simp] theorem ownedInside_putRing (p : Nat) (r : Ring) (s : State) : ownedInside pair (putRing p r s) = ownedInside pair s :=
  ownedInside_within (putRing_within p r s) (by simp)
@[simp] theorem ringOn_setEnable (pair : Nat) (b : Bool) (s : State) : ringOn pair (setB (ringReg pair 0x10) 0 b s) = b :=
  getB_setB_same _ _ _ _ (by decide)
@[simp] theorem ownedInside_setEnable (b : Bool) (s : State) : ownedInside 0 (setB (ringReg 0 0x10) 0 b s) = ownedInside 0 s := by
  rw [ownedInside, getB_setB_bit _ _ _ _ _ (by decide) (by decide), ownedInside]
@[simp] theorem ownedInside_setOwner (b : Bool) (s : State) : ownedInside 0 (setB (ringReg 0 0x10) 2 b s) = b := by
  rw [ownedInside, getB_setB_same _ _ _ _ (by decide), beq_self_eq_true, Bool.true_and]

theorem ownedInside_zero (s : State) : ownedInside 0 s = getB (ringReg 0 0x10) 2 s := by rw [ownedInside, beq_self_eq_true, Bool.true_and]

/-- A write of HIF_RINGCFG[n] reaches the pair while HIF is in no block reset (R68). -/
theorem ringRow_writes (pairs : pair < 60) (runs : .hif ∉ s.start.blkRst) : ringRow pair v s = ringcfgWrite pair v s := by
  rw [ringRow, if_neg (by omega), if_neg (by simpa using runs)]

/-! ## Enabling -/

/-- What ENABLE going from 0 to 1 leaves (R91). -/
theorem ringStart_leaves (pair : Nat) (s : State) : ringOn pair (ringStart pair s) = true ∧
    ring pair (ringStart pair s) = { armed := true, items := (ring pair s).items, lost := (ring pair s).lost } := by simp [ringStart]

/-- A write that sets ENABLE on a pair that the host owns and may enable: its sizes are in their range and its bases aligned (R85, R89 to R93). -/
structure MayEnable (pair : Nat) (v : Word) (s : State) : Prop where
  pairs   : pair < 60
  outside : ownedInside pair s = false
  runs    : .hif ∉ s.start.blkRst
  owner   : bitAt v 2 = false
  off     : ringOn pair s = false
  idle    : ringIdle pair s = true
  cmp     : within (fld (v ||| 1) 15 12) 4 0xC = true
  sub     : within (fld (v ||| 1) 11 8) 4 0xC = true
  subBase : getF (ringReg pair 0) 11 0 s = 0
  cmpBase : getF (ringReg pair 8) 11 0 s = 0

/-- A write that leaves OWNER at 0 does nothing to the owner of a pair (R86). -/
theorem ownerWrite_clear (outside : ownedInside pair s = false) (clear : bitAt v 2 = false) : ownerWrite pair v s = s := by
  unfold ownerWrite
  split
  · rw [if_neg (by simp [clear])]
  · next zero =>
    obtain rfl : pair = 0 := by omega
    rw [if_pos (by rw [clear, ← ownedInside_zero, outside])]

/-- The write sets the sizes and SEQTAG, and the pair starts. -/
theorem ringEnable_starts (h : MayEnable pair v s) : ∃ w, ringEnable pair v s = ringStart pair (setReg (ringReg pair 0x10) w s) := by
  have bit (x : Nat) : ringOn pair (setReg (ringReg pair 0x10) (putFld (getReg (ringReg pair 0x10) s) 31 8 x) s) = false := by
    rw [ringOn, getB, getReg_setReg_same, bitAt_putFld_other _ _ (by decide) (by decide) (by decide)]
    exact h.off
  have base (off : Nat) (apart : off < 0x10) (w : Word) : getF (ringReg pair off) 11 0 (setReg (ringReg pair 0x10) w s) = getF (ringReg pair off) 11 0 s := by
    rw [getF, getReg_setReg_other _ _ _ _ (by simp [ringReg]; omega), getF]
  rw [ringEnable, ringRow_writes h.pairs h.runs, ringcfgWrite]
  simp only [ownerWrite_clear h.outside ((bitAt_or_one_owner v).trans h.owner), h.outside, h.off, h.idle, bit, base 0 (by decide), base 8 (by decide),
    h.subBase, h.cmpBase, h.cmp, h.sub, bitAt_or_one_enable, Bool.or_self,
    Bool.false_eq_true, if_false, if_true, Bool.not_false, Bool.and_self, Bool.not_true, Bool.and_false, bne_self_eq_false]
  exact ⟨_, rfl⟩

theorem ringEnable_leaves (h : MayEnable pair v s) : ringOn pair (ringEnable pair v s) = true ∧
    ring pair (ringEnable pair v s) = { armed := true, items := (ring pair s).items, lost := (ring pair s).lost } := by
  obtain ⟨w, starts⟩ := ringEnable_starts h
  rw [starts]
  exact ringStart_leaves pair _

/-- Settles O54: a pair that starts has the indices, the phase and the vector of a fresh one. -/
theorem enableStartsThePair : Obligations.EnableStartsThePair := by
  unfold Obligations.EnableStartsThePair
  intro s pair v on pairs outside runs owner off idle cmp sub subBase cmpBase
  have leaves := ringEnable_leaves (v := v) ⟨pairs, outside, runs, owner, off, idle, cmp, sub, subBase, cmpBase⟩
  refine does_run rfl on ⟨leaves.1, ?_⟩
  rw [leaves.2]
  exact ⟨rfl, rfl, rfl, rfl, rfl, rfl⟩

/-! ## Disabling -/

theorem ringOn_ringStop (pair : Nat) (s : State) : ringOn pair (ringStop pair s) = false := by
  simp only [ringStop, ringOn_putRing, ringOn_within (flushRing_within _ _) (by simp), ringOn_setEnable]

/-- A write that keeps OWNER is at most recorded (R86). -/
theorem ownerWrite_same (outside : ownedInside pair s = false) (same : bitAt v 2 = getB (ringReg pair 0x10) 2 s) :
    Within [.hif, .evr, .pmc, .out] (some [0x0A034, 0x0A010, 0x0A030]) s (ownerWrite pair v s) := by
  unfold ownerWrite
  split
  · exact Within.ite (writeIgnored_within _ _ _) Within.refl
  · next zero =>
    obtain rfl : pair = 0 := by omega
    rw [if_pos same]
    exact Within.refl

/-- The pair stops where the write clears ENABLE alone (R115). -/
theorem ringDisable_stops (pairs : pair < 60) (runs : .hif ∉ s.start.blkRst) (enabled : ringOn pair s = true) (outside : ownedInside pair s = false) :
    ∃ t, ringDisable pair s = ringStop pair t := by
  have same : bitAt (putBit (getReg (ringReg pair 0x10) s) 0 false) 2 = getB (ringReg pair 0x10) 2 s :=
    bitAt_putBit_other _ _ _ _ (by decide) (by decide)
  have noted := ownerWrite_same outside same
  have apart (p : Nat) (h : p < 60) : ringReg p 0x10 ∉ [0x0A034, 0x0A010, 0x0A030] := by simp [ringReg]; omega
  rw [ringDisable, ringRow_writes pairs runs, ringcfgWrite]
  generalize ownerWrite pair _ s = u at noted
  have cfg : getReg (ringReg pair 0x10) u = getReg (ringReg pair 0x10) s := noted.regs _ rfl _ (apart pair pairs)
  have still (w : Word) (x : Nat) (enabled : bitAt w 0 = true) : ringOn pair (setReg (ringReg pair 0x10) (putFld w 31 8 x) u) = true := by
    rw [ringOn, getB, getReg_setReg_same, bitAt_putFld_other _ _ (by decide) (by decide) (by decide), enabled]
  have outside' : ownedInside pair u = false := (ownedInside_within noted (apart 0 (by decide))).trans outside
  simp only [outside, outside', cfg, fld_putBit_other _ _ (show 8 ≤ 31 by decide) (show 0 < 32 by decide) (by decide), still _ _ enabled,
    bitAt_putBit_same _ _ _ (show 0 < 32 by decide)]
  simp

/-! ## The owner of pair 0 -/

/-- The firmware leaves pair 0 at once where no solve of its own is under way (R86). -/
theorem ownerClear_leaves (runs : .hif ∉ s.start.blkRst) (inside : ownedInside 0 s = true) (unlocked : lockOf .hif s = false)
    (done : (ring 0 s).cmds = []) : ownedInside 0 (ownerClear s) = false ∧ ringOn 0 (ownerClear s) = false ∧ ring 0 (ownerClear s) = {} := by
  have clear : bitAt (putBit (getReg (ringReg 0 0x10) s) 2 false) 2 = false := bitAt_putBit_same _ _ _ (by decide)
  have owner : getB (ringReg 0 0x10) 2 s = true := (ownedInside_zero s).symm.trans inside
  have idle : (ring 0 { s with hif := { s.hif with ownerLeft := true } }).cmds = [] := done
  have settles : ownerClear s = ownerSettle { s with hif := { s.hif with ownerLeft := true } } := by
    rw [ownerClear, ringRow_writes (by decide) runs, ringcfgWrite]
    simp only [inside, Bool.true_or, if_true]
    rw [ownerWrite, clear, owner, unlocked]
    rfl
  rw [settles, ownerSettle, idle]
  simp

/-- The firmware sets pair 0 up and enables it (R84, R86). -/
theorem ownerSet_leaves (runs : .hif ∉ s.start.blkRst) (outside : ownedInside 0 s = false) (unlocked : lockOf .hif s = false)
    (off : ringOn 0 s = false) (idle : ringIdle 0 s = true) : ownedInside 0 (ownerSet s) = true ∧ ringOn 0 (ownerSet s) = true := by
  have set : bitAt (putBit (getReg (ringReg 0 0x10) s) 2 true) 2 = true := bitAt_putBit_same _ _ _ (by decide)
  have owner : getB (ringReg 0 0x10) 2 s = false := (ownedInside_zero s).symm.trans outside
  have inside : ownedInside 0 (ownerTake s) = true := by simp [ownerTake, ringStart]
  have takes : ownerWrite 0 (putBit (getReg (ringReg 0 0x10) s) 2 true) s = ownerTake s := by
    rw [ownerWrite, set, owner, unlocked, off, idle]
    rfl
  have enters : ownerSet s = ownerTake s := by
    rw [ownerSet, ringRow_writes (by decide) runs, ringcfgWrite, takes, inside, Bool.or_true, if_pos rfl]
  rw [enters]
  exact ⟨inside, (ringStart_leaves 0 _).1⟩

/-! ## Doorbells -/

/-- Counting a doorbell moves nothing of the pair (R98, R518). -/
theorem pmcAdd_doorbellOk (e n : Nat) (s : State) : doorbellOk pair (pmcAdd e n s) = doorbellOk pair s := by
  rw [doorbellOk, ringOn_within (pmcAdd_within e n s) (by simp), ownedInside_within (pmcAdd_within e n s) (by simp), doorbellOk]
theorem pmcAdd_subSize (e n : Nat) (s : State) : subSize pair (pmcAdd e n s) = subSize pair s := by rw [subSize, getF, getReg_pmcAdd, subSize, getF]
theorem pmcAdd_cmpSize (e n : Nat) (s : State) : cmpSize pair (pmcAdd e n s) = cmpSize pair s := by rw [cmpSize, getF, getReg_pmcAdd, cmpSize, getF]

theorem subTail_takes (pairs : pair < 60) (taken : doorbellOk pair s = true) (range : v.toNat < subSize pair s) :
    (ring pair (subTail pair v s)).subTail = v.toNat := by
  rw [subTail, if_neg (by omega), if_neg (by rw [pmcAdd_doorbellOk, taken]; decide), if_neg (by rw [pmcAdd_subSize]; omega), ring_putRing_same]

/-- A pair re-arms with its indices as they were (R112). -/
theorem rearm_head (pair : Nat) (s : State) : SameHead (ring pair s) (ring pair (rearm pair s)) := by
  have armed : SameHead (ring pair s) (ring pair (putRing pair { ring pair s with armed := true } s)) := by
    rw [ring_putRing_same]
    exact ⟨rfl, rfl, rfl, rfl, rfl⟩
  unfold rearm
  dsimp only
  split
  · rw [ring_putRing_same]
    exact ⟨rfl, rfl, rfl, rfl, rfl⟩
  · exact armed.trans (signalPair_head pair _)

theorem cmpHead_takes (pairs : pair < 60) (taken : doorbellOk pair s = true) (range : v.toNat < cmpSize pair s)
    (unread : (v.toNat + cmpSize pair s - (ring pair s).cmpHead) % cmpSize pair s ≤
      ((ring pair s).cmpTail + cmpSize pair s - (ring pair s).cmpHead) % cmpSize pair s) :
    (ring pair (cmpHead pair v s)).cmpHead = v.toNat := by
  rw [cmpHead, if_neg (by omega), if_neg (by rw [pmcAdd_doorbellOk, taken]; decide),
    if_neg (by rw [pmcAdd_cmpSize, ring_pmcAdd]; omega), (pumpRing_head pair _).cmpHead, (rearm_head pair _).cmpHead, ring_putRing_same]

theorem cmpArm_arms (pairs : pair < 60) (taken : doorbellOk pair s = true) (read : (ring pair s).cmpTail = (ring pair s).cmpHead) :
    (ring pair (cmpArm pair s)).armed = true := by
  rw [cmpArm, if_neg (by omega), if_neg (by rw [pmcAdd_doorbellOk, taken]; decide), rearm,
    if_pos (by rwa [ring_pmcAdd]), ring_putRing_same]

/-- A started descriptor of a pair that is being disabled ends with CANCELLED where no job of the churn is its own (R115). -/
theorem startedCancel_ends {r : Req} (disabling : (ring r.pair s).disabling = true)
    (free : ∀ j ∈ s.chu.queue ++ s.chu.r0.toList ++ s.chu.rh.toList, j.req ≠ some r) : .opDone r 0x03 0 0 [] ∈ (startedCancel r s).out := by
  have other : (s.chu.queue ++ s.chu.r0.toList ++ s.chu.rh.toList).any (fun j => j.req == some r) = false :=
    List.any_eq_false.2 fun j hj => by simpa using free j hj
  rw [startedCancel, disabling, other, if_neg (by decide)]
  exact complete_mem r 0x03 0 0 [] _

/-- Settles O13, one lemma above for each command. -/
theorem ringCommandsComplete : Obligations.RingCommandsComplete := by
  unfold Obligations.RingCommandsComplete
  refine ⟨?enable, ?disable, ?cancel, ?clear, ?set, ?tail, ?head, ?arm⟩
  case enable =>
    exact fun s pair v on pairs outside runs off idle owner cmp sub subBase cmpBase =>
      does_run rfl on (ringEnable_leaves ⟨pairs, outside, runs, owner, off, idle, cmp, sub, subBase, cmpBase⟩)
  case disable =>
    intro s pair on pairs runs enabled outside
    obtain ⟨t, stops⟩ := ringDisable_stops pairs runs enabled outside
    exact does_run rfl on (by rw [stops, ringOn_ringStop])
  case cancel => exact fun s r on disabling free => does_run rfl on (startedCancel_ends disabling free)
  case clear => exact fun s on runs inside unlocked done => does_run rfl on (ownerClear_leaves runs inside unlocked done)
  case set => exact fun s on runs outside unlocked off idle => does_run rfl on (ownerSet_leaves runs outside unlocked off idle)
  case tail => exact fun s pair v on pairs taken range => does_run rfl on (subTail_takes pairs taken range)
  case head => exact fun s pair v on pairs taken range unread => does_run rfl on (cmpHead_takes pairs taken range unread)
  case arm => exact fun s pair on pairs taken read => does_run rfl on (cmpArm_arms pairs taken read)

end Sys2Proof.Machine
end

section
/-!
PROOFS. Descriptors, completion slots and posted buffers (R97, R101 to R109): what starts, what waits for a slot, and how a stream item reaches its buffer.
-/
namespace Sys2Proof.Machine

/-! ## Completion slots -/

/-- The distance between the indices of a ring, in whole numbers and modulo its size. -/
theorem distance_emod {n h : Nat} (t : Nat) (head : h < n) : (((t + n - h) % n : Nat) : Int) = ((t : Int) - h) % n := by
  have shifted : ((t + n - h : Nat) : Int) = (t : Int) - h + n := by omega
  rw [Int.natCast_emod, shifted, Int.add_emod_right]

/-- R108's formula. -/
theorem openSlots_eq {pair : Nat} {s : State} (head : (ring pair s).cmpHead < cmpSize pair s) :
    (openSlots pair s : Int) = cmpSize pair s - 1 - (((ring pair s).cmpTail : Int) - (ring pair s).cmpHead) % cmpSize pair s := by
  rw [← distance_emod _ head, openSlots]
  have below := Nat.mod_lt ((ring pair s).cmpTail + cmpSize pair s - (ring pair s).cmpHead) (show cmpSize pair s > 0 by omega)
  omega

/-- What may start is a descriptor that has not started (R105). -/
theorem startable_unstarted {k i : Nat} {l : List Cmd} (h : startable k l = some i) : k ≤ i ∧ ∀ c, l[i - k]? = some c → c.started = false := by
  induction l generalizing k with
  | nil => cases h
  | cons d l ih =>
    have later (h : startable (k + 1) l = some i) : k ≤ i ∧ ∀ c, (d :: l)[i - k]? = some c → c.started = false := by
      obtain ⟨after, free⟩ := ih h
      have next : i - k = i - (k + 1) + 1 := by omega
      exact ⟨by omega, fun c hc => free c (by rwa [next, List.getElem?_cons_succ] at hc)⟩
    unfold startable at h
    split at h
    · exact later h
    · next free =>
      split at h
      · exact later h
      · obtain rfl := Option.some.inj h
        refine ⟨Nat.le_refl _, fun c hc => ?_⟩
        simp only [Nat.sub_self, List.getElem?_cons_zero, Option.some.injEq] at hc
        subst hc
        exact Bool.eq_false_iff.2 fun started => free (by rw [started, Bool.true_or])

section Start
variable {pair i : Nat} {fail : Option Nat} {c : Cmd} {s : State}

/-- A descriptor that passes its checks is handed to its function (R97). -/
theorem descriptorStart_starts (serves : pairBlocked pair s = false) (next : startable 0 (ring pair s).cmds = some i)
    (fetched : (ring pair s).cmds[i]? = some c) (room : 0 < freeSlots pair s) (passes : descCheck pair s.start.recovery c.desc s.tim.mon = none) :
    ring pair (descriptorStart pair fail s) =
      { ring pair s with cmds := (ring pair s).cmds.set i { c with started := true, fail := fail } } := by
  have free : (decide (freeSlots pair s = 0) && attached pair s) = false := by rw [decide_eq_false (by omega), Bool.false_and]
  simp only [descriptorStart, serves, next, free, fetched, passes]
  simp

/-- No descriptor starts where no slot is free for its entry (R108). -/
theorem descriptorStart_waits (reaches : attached pair s = true) (full : freeSlots pair s = 0) : ring pair (descriptorStart pair fail s) = ring pair s := by
  unfold descriptorStart
  dsimp only
  split
  · rfl
  · cases startable 0 (ring pair s).cmds with
    | none => rfl
    | some i =>
      dsimp only
      rw [if_pos (by rw [full, reaches]; rfl), ring_pmcAdd]

/-- A descriptor that starts reserves one slot. -/
theorem reserved_start {r : Ring} (d : Cmd) (fetched : r.cmds[i]? = some c) (waits : c.started = false) (starts : d.started = true) :
    reserved { r with cmds := r.cmds.set i d } = reserved r + 1 := by
  obtain ⟨inside, rfl⟩ := List.getElem?_eq_some_iff.1 fetched
  simp only [reserved, ← List.countP_eq_length_filter, List.countP_set inside, waits, starts, if_true]
  simp

end Start

/-- Settles O59. -/
theorem completionSlots : Obligations.CompletionSlots := by
  unfold Obligations.CompletionSlots
  refine ⟨?slots, ?full, ?reserves⟩
  case slots => exact fun pair s head _ => openSlots_eq head
  case full => exact fun s pair fail on reaches full => does_run rfl on (by rw [descriptorStart_waits reaches full])
  case reserves =>
    intro s pair fail i c on serves next fetched room passes
    have waits : c.started = false := (startable_unstarted next).2 c fetched
    exact does_run rfl on (by rw [descriptorStart_starts serves next fetched room passes, reserved_start _ fetched waits rfl])

/-! ## Stream items -/

section Stream
variable {pair : Nat} {s : State}

@[simp] theorem signalPair_bufs (pair : Nat) (s : State) : (ring pair (signalPair pair s)).bufs = (ring pair s).bufs := by
  unfold signalPair
  dsimp only
  split
  · split <;> simp
  · rfl

/-- The entry of an attached pair reaches memory with what it reports (R102); it takes no buffer of the pair. -/
theorem writeEntry_puts (reaches : attached pair s = true) (slot tag len status detail : Nat) (rx : Bool) (mon : Nat) (irq : Bool) :
    (ring pair (writeEntry pair slot tag len status detail rx mon irq s)).bufs = (ring pair s).bufs ∧
    ∃ n k e, .entry pair n k (Entry.bytes e) ∈ (writeEntry pair slot tag len status detail rx mon irq s).out ∧
      e.slot = slot ∧ e.rxdata = rx ∧ e.len = len ∧ e.status = status ∧ e.detail = detail := by
  have signals (c : Prop) [Decidable c] (t : State) : (ring pair (if c then signalPair pair t else t)).bufs = (ring pair t).bufs ∧
      ∀ o, o ∈ t.out → o ∈ (if c then signalPair pair t else t).out := by
    split
    · exact ⟨signalPair_bufs pair t, fun _ => Within.mem (signalPair_within pair t)⟩
    · exact ⟨rfl, fun _ => id⟩
  have counts (c : Prop) [Decidable c] (t : State) : ring pair (if c then t else bwAdd 4 32 0 (pmcAdd 0x91 32 t)) = ring pair t ∧
      (if c then t else bwAdd 4 32 0 (pmcAdd 0x91 32 t)).out = t.out := by
    split <;> simp
  unfold writeEntry
  rw [if_neg (by simp [reaches])]
  refine ⟨(signals _ _).1.trans ?_, (ring pair s).cmpTail, entryAddr pair (ring pair s).cmpTail s, ⟨mon, tag, len, detail, slot,
    getF (ringReg pair 0x10) 31 16 s, status, (ring pair s).phase, rx, (ring pair s).subHead⟩, (signals _ _).2 _ ?_, rfl, rfl, rfl, rfl, rfl⟩
  · rw [(counts _ _).1, ring_pmcAdd, ring_putRing_same]
  · rw [(counts _ _).2, pmcAdd_out, putRing_out]
    exact List.mem_cons_self

/-- A pair stays attached while only its descriptors and buffers change (R117). -/
theorem attached_putRing {r : Ring} (same : r.detached = (ring pair s).detached) : attached pair (putRing pair r s) = attached pair s := by
  rw [attached, ring_putRing_same, same, ownedInside_putRing]
  rfl
theorem attached_hostWrite (a : Nat) (b : Bytes) (s : State) : attached pair (hostWrite pair a b s) = attached pair s := by
  have link : linkOk (hostWrite pair a b s) = linkOk s := by rw [linkOk, hostWrite_hif, linkOk]
  rw [attached, link, ring_hostWrite, ownedInside_within (hostWrite_within pair a b s) (by simp), attached]

theorem hasRoom_attached (room : hasRoom pair s = true) : attached pair s = true := by
  simp only [hasRoom, Bool.and_eq_true] at room
  obtain ⟨⟨⟨-, reaches⟩, -⟩, -⟩ := room
  exact reaches

/-- An item that finds a buffer and a slot, with no loss to report, goes into the buffer (R109). -/
theorem deliver_fills {b : Bytes} (room : hasRoom pair s = true) (lossless : (ring pair s).lost = 0) (sound : bufFails pair b s = false) :
    deliver pair b s = fillBuf pair false 0 0 s.tim.mon b s := by
  have reports : ovfCheck pair s = s := by rw [ovfCheck, if_pos (by simp [lossless])]
  simp only [deliver, deliverWith, reports, room, sound]
  rfl

/-- The front buffer takes the item's first bytes, and its entry follows (R107). -/
theorem fillBuf_front {u : Buf} {us : List Buf} {a : Nat} (front : (ring pair s).bufs = u :: us) (addr : u.addr = some a) (irq : Bool) (st dt mon : Nat)
    (b : Bytes) : fillBuf pair irq st dt mon b s =
      writeEntry pair u.slot u.tag (min u.len b.length) (if u.len < b.length then 0x15 else st) (if u.len < b.length then b.length else dt) true mon
        (irq || u.irq) (hostWrite pair a (b.take u.len) (putRing pair { ring pair s with bufs := us } s)) := by
  simp only [fillBuf, front, addr]

end Stream

/-- Settles O55. -/
theorem longItemIsCut : Obligations.LongItemIsCut := by
  unfold Obligations.LongItemIsCut
  intro s pair b u us a front addr room lossless sound long nonempty
  have taken : attached pair (putRing pair { ring pair s with bufs := us } s) = true :=
    (attached_putRing (r := { ring pair s with bufs := us }) rfl).trans (hasRoom_attached room)
  rw [deliver_fills room lossless sound, fillBuf_front front addr]
  obtain ⟨bufs, n, k, e, shown, slot, rx, len, status, detail⟩ := writeEntry_puts ((attached_hostWrite a (b.take u.len) _).trans taken) u.slot u.tag
    (min u.len b.length) (if u.len < b.length then 0x15 else 0) (if u.len < b.length then b.length else 0) true s.tim.mon (false || u.irq)
  refine ⟨?next, ?data, ?entry⟩
  case next => rw [bufs, ring_hostWrite, ring_putRing_same]
  case data =>
    have cut : b.take u.len ≠ [] := by simp [nonempty]; omega
    exact Within.mem (writeEntry_within _ _ _ _ _ _ _ _ _ _) (hostWrite_mem pair a _ _ cut taken)
  case entry =>
    refine ⟨n, k, e, shown, slot, rx, len, fun longer => ?_, fun fits => ?_⟩
    · rw [status, detail, if_pos longer, if_pos longer]
      exact ⟨rfl, rfl⟩
    · rw [status, detail, if_neg (by omega), if_neg (by omega)]
      exact ⟨rfl, rfl⟩

end Sys2Proof.Machine
end

section
/-!
PROOFS. The vectors of MSI-X (R113, R114): a masked one waits in its pending bit, one that is due sends its message, and what the pending ones send when
the host unmasks them.
-/
namespace Sys2Proof.Machine
open Keeps

section Vectors
variable {v x : Nat} {s : State}

/-! ## What a vector's signal can do -/

/-- A vector's signal is lost, sets the pending bit of a masked vector, waits for the spacing of R113, or goes out. -/
theorem sendMsg_cases (v : Nat) (s : State) : sendMsg v s = s ∨
    (vecMasked v s = true ∧ sendMsg v s = { s with hif := { s.hif with pba := addOnce s.hif.pba v } }) ∨
    (vecMasked v s = false ∧ sendMsg v s = { s with hif := { s.hif with spaced := addOnce s.hif.spaced v } }) ∨
    (vecMasked v s = false ∧ sendMsg v s = putMsg v s) := by
  unfold sendMsg
  split
  · exact .inl rfl
  · split
    · next masked => exact .inr (.inl ⟨masked, rfl⟩)
    · next clear =>
      have clear := Bool.eq_false_iff.2 clear
      split
      · split
        · split
          · exact .inr (.inr (.inl ⟨clear, rfl⟩))
          · exact .inr (.inr (.inr ⟨clear, rfl⟩))
        · exact .inr (.inr (.inr ⟨clear, rfl⟩))
      · exact .inr (.inr (.inr ⟨clear, rfl⟩))

theorem putMsg_out (v : Nat) (s : State) : (putMsg v s).out = .msix v :: s.out := by simp [putMsg, emit]
theorem putMsg_hif (v : Nat) (s : State) :
    (putMsg v s).hif = { s.hif with lastMsg := if v ≤ 3 then tput s.hif.lastMsg v s.tim.mon else s.hif.lastMsg } := by simp [putMsg, emit]

@[simp] theorem sendMsg_linkUp (v : Nat) (s : State) : (sendMsg v s).hif.linkUp = s.hif.linkUp := by
  obtain h | ⟨-, h⟩ | ⟨-, h⟩ | ⟨-, h⟩ := sendMsg_cases v s <;> simp [h, putMsg_hif]
@[simp] theorem sendMsg_busMaster (v : Nat) (s : State) : (sendMsg v s).hif.busMaster = s.hif.busMaster := by
  obtain h | ⟨-, h⟩ | ⟨-, h⟩ | ⟨-, h⟩ := sendMsg_cases v s <;> simp [h, putMsg_hif]
@[simp] theorem linkOk_sendMsg (v : Nat) (s : State) : linkOk (sendMsg v s) = linkOk s := by simp [linkOk]
@[simp] theorem vecMasked_sendMsg (v x : Nat) (s : State) : vecMasked v (sendMsg x s) = vecMasked v s := by simp [vecMasked, getB]

/-- A vector's signal leaves the time of every other vector's last message. -/
theorem sendMsg_lastMsg (other : x ≠ v) (s : State) : tget (sendMsg x s).hif.lastMsg v = tget s.hif.lastMsg v := by
  obtain h | ⟨-, h⟩ | ⟨-, h⟩ | ⟨-, h⟩ := sendMsg_cases x s
  case inr.inr.inr =>
    rw [h, putMsg_hif]
    dsimp only
    split
    · exact tget_tput_other other.symm
    · rfl
  all_goals rw [h]

/-- It sends no message of another vector. -/
theorem sendMsg_count (other : x ≠ v) (s : State) : (sendMsg x s).out.count (.msix v) = s.out.count (.msix v) := by
  obtain h | ⟨-, h⟩ | ⟨-, h⟩ | ⟨-, h⟩ := sendMsg_cases x s
  case inr.inr.inr => rw [h, putMsg_out, List.count_cons_of_ne (by simpa using other)]
  all_goals rw [h]

/-! ## A vector whose message goes out -/

/-- The vector's message would go out now: MSI-X and the link carry it, no mask holds it, and its spacing has passed (R113). -/
structure Due (v : Nat) (s : State) : Prop where
  on     : s.hif.msixOn = true
  link   : linkOk s = true
  clear  : vecMasked v s = false
  spaced : ∀ m, tget s.hif.lastMsg v = some m → m + 100000 ≤ s.tim.mon

theorem Due.sends (h : Due v s) : sendMsg v s = putMsg v s := by
  rw [sendMsg, if_neg (by simp [h.on, h.link]), if_neg (by simp [h.clear])]
  split
  · split
    · next m last => rw [if_neg (by have := h.spaced m last; omega)]
    · rfl
  · rfl

theorem Due.mem (h : Due v s) : .msix v ∈ (sendMsg v s).out := by
  rw [h.sends, putMsg_out]
  exact List.mem_cons_self

theorem Due.sendMsg_other (h : Due v s) (other : x ≠ v) : Due v (sendMsg x s) where
  on := by rw [sendMsg_msixOn, h.on]
  link := by rw [linkOk_sendMsg, h.link]
  clear := by rw [vecMasked_sendMsg, h.clear]
  spaced := by
    rw [sendMsg_lastMsg other, sendMsg_tim]
    exact h.spaced

theorem sendAll_grow (l : List Nat) (s : State) : Within [.hif, .pmc, .out] (some []) s (l.foldl (fun t x => sendMsg x t) s) :=
  Within.foldl (fun t x w => (sendMsg_within x t).after w) Within.refl

/-- A vector that is due sends its message in its turn. -/
theorem Due.mem_sendAll {l : List Nat} (h : Due v s) (waits : v ∈ l) : .msix v ∈ (l.foldl (fun t x => sendMsg x t) s).out := by
  induction l generalizing s with
  | nil => cases waits
  | cons x l ih =>
    rw [List.foldl_cons]
    by_cases same : x = v
    · subst same
      exact Within.mem (sendAll_grow l _) h.mem
    · exact ih (h.sendMsg_other same) ((List.mem_cons.1 waits).resolve_left (Ne.symm same))

/-! ## Pending vectors -/

/-- The vector has nothing pending and no mask. -/
def Unpended (v : Nat) (s : State) : Prop := vecMasked v s = false ∧ v ∉ s.hif.pba

theorem sendMsg_unpended (x : Nat) (s : State) : Keeps Unpended s (sendMsg x s) := by
  rintro v ⟨clear, free⟩
  refine ⟨by rw [vecMasked_sendMsg, clear], ?_⟩
  obtain h | ⟨masked, h⟩ | ⟨-, h⟩ | ⟨-, h⟩ := sendMsg_cases x s
  · rwa [h]
  · have other : v ≠ x := by
      rintro rfl
      rw [clear] at masked
      cases masked
    rw [h]
    simpa [mem_addOnce, other] using free
  · rwa [h]
  · rwa [h, putMsg_hif]

/-- The pending vectors that send once they are unmasked (R114). -/
def released (s : State) : List Nat := s.hif.pba.filter (fun v => !vecMasked v s)

/-- The state in which they send: their pending bits are clear. -/
def unpend (s : State) : State := { s with hif := { s.hif with pba := s.hif.pba.filter (fun v => !(released s).contains v) } }

theorem sendPended_eq (s : State) : sendPended s = (released s).foldl (fun t v => sendMsg v t) (unpend s) := rfl

theorem mem_released : v ∈ released s ↔ v ∈ s.hif.pba ∧ vecMasked v s = false := by simp [released]

/-- A pending vector that is due sends its message, and its pending bit clears. -/
theorem sendPended_sends (h : Due v s) (pending : v ∈ s.hif.pba) : .msix v ∈ (sendPended s).out ∧ v ∉ (sendPended s).hif.pba := by
  have go : v ∈ released s := mem_released.2 ⟨pending, h.clear⟩
  have due : Due v (unpend s) := ⟨h.on, h.link, h.clear, h.spaced⟩
  have free : Unpended v (unpend s) := ⟨h.clear, by simp [unpend, go]⟩
  rw [sendPended_eq]
  exact ⟨due.mem_sendAll go, (Keeps.foldl (fun t x _ => sendMsg_unpended x t) (unpend s) v free).2⟩

/-- A vector with no pending bit sends nothing. -/
theorem sendPended_quiet (free : v ∉ s.hif.pba) : (sendPended s).out.count (.msix v) = s.out.count (.msix v) := by
  have others (t : State) (x : Nat) (go : x ∈ released s) : Keeps (fun n u => u.out.count (.msix v) = n) t (sendMsg x t) := fun n same =>
    (sendMsg_count (by rintro rfl; exact free (mem_released.1 go).1) t).trans same
  rw [sendPended_eq]
  exact Keeps.foldl others (unpend s) _ rfl

/-- A masked vector waits (R114). -/
theorem sendMsg_masked (on : s.hif.msixOn = true) (link : linkOk s = true) (masked : vecMasked v s = true) :
    sendMsg v s = { s with hif := { s.hif with pba := addOnce s.hif.pba v } } := by
  rw [sendMsg, if_neg (by simp [on, link]), if_pos masked]

theorem msixUnmask_vector (low : v < 64) : msixUnmask (.vector v) s = sendPended (setB (0x0300C + 16 * v) 0 false s) := by
  rw [msixUnmask, if_neg (by omega)]

end Vectors

/-- Settles O56. -/
theorem maskedVectorsWait : Obligations.MaskedVectorsWait := by
  unfold Obligations.MaskedVectorsWait
  intro s v _ low
  refine ⟨?masked, ?vector, ?function, ?quiet⟩
  case masked =>
    intro on link masked
    rw [sendMsg_masked on link masked]
    exact ⟨mem_addOnce.2 (.inr rfl), rfl⟩
  case vector =>
    intro on msix link mask pending spaced
    have due : Due v (setB (0x0300C + 16 * v) 0 false s) := ⟨msix, link, by simp [vecMasked, mask], spaced⟩
    refine does_run rfl on ?_
    rw [msixUnmask_vector low]
    exact sendPended_sends due pending
  case function =>
    intro on link mask pending spaced
    have due : Due v { s with hif := { s.hif with msixOn := true, fnMask := false } } := ⟨rfl, link, by simp [vecMasked, mask], spaced⟩
    exact does_run rfl on (sendPended_sends due pending)
  case quiet =>
    intro on free
    refine does_run rfl on ?_
    rw [msixUnmask_vector low]
    exact sendPended_quiet free

end Sys2Proof.Machine
end

section
/-!
PROOFS. Bus Master Enable (R117): what the module does of itself, to its rings, in its records and in the reactions of the fault collector, leaves it as the
host has set it.
-/
namespace Sys2Proof.Machine
open Keeps

/-- Bus Master Enable. -/
def BusMaster (b : Bool) (s : State) : Prop := s.hif.busMaster = b

theorem busMaster_same {s t : State} (h : t.hif.busMaster = s.hif.busMaster := by rfl) : Keeps BusMaster s t := fun _ k => h.trans k

theorem busMaster_within {ps : List Part} {rs : Option (List Nat)} {s t : State} (w : Within ps rs s t) (hp : .hif ∉ ps := by decide) :
    Keeps BusMaster s t := by
  have hif : t.hif = s.hif := w.parts .hif hp
  exact busMaster_same (by rw [hif])

/-! ## Entries and stream items -/

theorem busMaster_putRing (p : Nat) (r : Ring) (s : State) : Keeps BusMaster s (putRing p r s) := busMaster_same

theorem busMaster_sendMsg (v : Nat) (s : State) : Keeps BusMaster s (sendMsg v s) := busMaster_same (sendMsg_busMaster v s)

theorem busMaster_setCause (stat en bit vec : Nat) (s : State) : Keeps BusMaster s (setCause stat en bit vec s) :=
  ite refl (opt (busMaster_within (setB_within stat bit true s)) (busMaster_sendMsg vec _))

theorem busMaster_signalPair (p : Nat) (s : State) : Keeps BusMaster s (signalPair p s) :=
  ite (optElse (busMaster_putRing _ _ s) (busMaster_sendMsg _ _)) refl

theorem busMaster_writeEntry (p slot tag len status detail : Nat) (rx : Bool) (mon : Nat) (irq : Bool) (s : State) :
    Keeps BusMaster s (writeEntry p slot tag len status detail rx mon irq s) := by
  unfold writeEntry
  refine ite refl (opt (optElse ?_ (busMaster_within ((bwAdd_within _ _ _ _).after (pmcAdd_within _ _ _)))) (busMaster_signalPair p _))
  exact (busMaster_within (pmcAdd_within _ _ _)).after ((busMaster_putRing _ _ _).after (busMaster_within (emit_within _ s)))

theorem busMaster_cmdEntry (p : Nat) (c : Cmd) (d : Done) (s : State) : Keeps BusMaster s (cmdEntry p c d s) :=
  ite ((busMaster_writeEntry _ _ _ _ _ _ _ _ _ _).after (busMaster_within (hostWrite_within _ _ _ s)))
    ((busMaster_writeEntry _ _ _ _ _ _ _ _ _ _).after (optElse refl (busMaster_within (hostWrite_within _ _ _ s))))

theorem busMaster_flushCmds (p : Nat) (l : List Cmd) (s : State) : Keeps BusMaster s (flushCmds p l s) := by
  induction l generalizing s with
  | nil => exact busMaster_putRing _ _ s
  | cons c l ih =>
    unfold flushCmds
    split
    · exact busMaster_putRing _ _ s
    · exact ite (busMaster_putRing _ _ s) ((ih _).after (busMaster_cmdEntry _ _ _ s))

theorem busMaster_flushBufs (p : Nat) (l : List (Buf × Nat)) (s : State) : Keeps BusMaster s (flushBufs p l s) := by
  induction l generalizing s with
  | nil => exact busMaster_putRing _ _ s
  | cons c l ih => exact ite (busMaster_putRing _ _ s) ((ih _).after (busMaster_writeEntry _ _ _ _ _ _ _ _ _ s))

theorem busMaster_flushRing (p : Nat) (s : State) : Keeps BusMaster s (flushRing p s) := by
  unfold flushRing
  refine opt ((busMaster_flushBufs _ _ _).after (opt (busMaster_flushCmds _ _ s) ?_)) (busMaster_putRing _ _ _)
  exact busMaster_putRing _ _ _

theorem busMaster_finish (r : Req) (status detail : Nat) (s : State) : Keeps BusMaster s (finish r status detail s) :=
  (busMaster_flushRing _ _).after ((busMaster_putRing _ _ _).after (busMaster_within (emit_within _ s)))

theorem busMaster_fillBuf (p : Nat) (irq : Bool) (st dt mon : Nat) (b : Bytes) (s : State) : Keeps BusMaster s (fillBuf p irq st dt mon b s) := by
  unfold fillBuf
  split
  · exact refl
  · refine (busMaster_writeEntry _ _ _ _ _ _ _ _ _ _).after ?_
    split
    · exact (busMaster_within (hostWrite_within _ _ _ _)).after (busMaster_putRing _ _ s)
    · exact busMaster_putRing _ _ s

theorem busMaster_failBuf (p : Nat) (s : State) : Keeps BusMaster s (failBuf p s) := by
  unfold failBuf
  split
  · exact refl
  · exact (busMaster_writeEntry _ _ _ _ _ _ _ _ _ _).after (busMaster_putRing _ _ s)

theorem busMaster_failBufs (p : Nat) (b : Bytes) (l : List Buf) (s : State) : Keeps BusMaster s (failBufs p b l s) := by
  induction l generalizing s with
  | nil => exact refl
  | cons u l ih => exact ite ((ih _).after (busMaster_failBuf p s)) refl

theorem busMaster_itemGone (p key : Nat) (s : State) : Keeps BusMaster s (itemGone p key s) := ite refl (ite busMaster_same refl)

theorem busMaster_drainItems (p : Nat) (l : List Item) (s : State) : Keeps BusMaster s (drainItems p l s) := by
  induction l generalizing s with
  | nil => exact busMaster_putRing _ _ s
  | cons i l ih =>
    have failed := busMaster_failBufs p i.data (ring p s).bufs s
    exact ite ((ih _).after ((busMaster_itemGone _ _ _).after ((busMaster_fillBuf _ _ _ _ _ _ _).after failed))) ((busMaster_putRing _ _ _).after failed)

theorem busMaster_deferWith (p key : Nat) (irq : Bool) (st : Nat) (b : Bytes) (s : State) : Keeps BusMaster s (deferWith p key irq st b s) :=
  busMaster_drainItems _ _ s

/-! ## Event records -/

theorem busMaster_logRec (s : State) (e : Evt) : Keeps BusMaster s (logRec s e) := by
  unfold logRec
  refine (busMaster_deferWith _ _ _ _ _ _).after (opt (t := { s with evr := _ }) refl ?_)
  exact (busMaster_setCause _ _ _ _ _).after ((busMaster_within (incReg_within _ _ _)).after (busMaster_putRing _ _ _))

theorem busMaster_fillCheck (s : State) : Keeps BusMaster s (fillCheck s) := opt (t := { s with evr := _ }) refl (busMaster_setCause _ _ _ _ _)

theorem busMaster_keepRec (code flags arg suppr : Nat) (s : State) : Keeps BusMaster s (keepRec code flags arg suppr s) := by
  have noted (p : EvrSt) : Keeps BusMaster s { s with evr := p } := refl
  unfold keepRec
  refine ite ((busMaster_setCause _ _ _ _ _).after ((busMaster_within (incReg_within _ _ _)).after (noted _))) ?_
  exact opt ((busMaster_within (pmcAdd_within _ _ _)).after (noted _)) (busMaster_setCause _ _ _ _ _)

theorem busMaster_evrFlush (s : State) : Keeps BusMaster s (evrFlush s) := by
  have noted (p : EvrSt) (t : State) : Keeps BusMaster t { t with evr := p } := refl
  have logged : Keeps BusMaster s (fillCheck (s.evr.staged.foldl logRec { s with evr := { s.evr with staged := [], header := s.evr.staged.length } })) :=
    (busMaster_fillCheck _).after ((foldl (fun t e _ => busMaster_logRec t e) _).after (noted _ s))
  exact ite ((noted _ _).after logged) ((busMaster_keepRec _ _ _ _ _).after ((noted _ _).after ((noted _ _).after logged)))

theorem busMaster_record (code flags arg : Nat) (s : State) : Keeps BusMaster s (record code flags arg s) := by
  have noted (p : EvrSt) : Keeps BusMaster s { s with evr := p } := refl
  unfold record
  refine ite ((busMaster_within (pmcAdd_within _ _ _)).after ((busMaster_within (incReg_within _ _ _)).after (noted _))) ?_
  exact opt ((busMaster_keepRec _ _ _ _ _).after (noted _)) (busMaster_evrFlush _)

theorem busMaster_evt (g kind arg : Nat) (s : State) : Keeps BusMaster s (evt g kind arg s) := busMaster_record _ _ _ s

/-! ## Resignation and the resets -/

theorem busMaster_switchOps (keep : DupOp → Bool) (s : State) : Keeps BusMaster s (switchOps keep s) := by
  unfold switchOps
  refine (foldl (fun t o _ => ?_) _).after ?_
  · exact busMaster_finish o.2 0x82 0 t
  · exact busMaster_same

theorem busMaster_pumpStream (p : Nat) (s : State) : Keeps BusMaster s (pumpStream p s) := by
  have noted (p : TlySt) : Keeps BusMaster s { s with tly := p } := refl
  unfold pumpStream
  exact (foldl (fun t _ _ => busMaster_deferWith _ _ _ _ _ t) _).after (noted _)

theorem busMaster_setMor (m : Bool) (s : State) : Keeps BusMaster s (setMor m s) := by
  have caused (p : DupSt) : Keeps BusMaster s (setCause 0x0E030 0x0E034 5 3 { s with dup := p }) := (busMaster_setCause _ _ _ _ _).after busMaster_same
  unfold setMor
  refine ite refl (optElse (caused _) ?_)
  exact (foldl (fun t p _ => busMaster_pumpStream p t) _).after busMaster_same

theorem busMaster_withdrawExchange (s : State) : Keeps BusMaster s (withdrawExchange s) := by
  have noted (p : CycSt) : Keeps BusMaster s { s with cyc := p } := refl
  have runs (t : State) : Keeps BusMaster t (if getF 0x34020 31 30 t = 3 then setF 0x34020 31 30 1 t else t) :=
    opt refl (busMaster_within (setF_within _ _ _ _ t))
  unfold withdrawExchange
  split
  · exact refl
  · split
    · exact (busMaster_finish _ _ _ _).after ((runs _).after (noted _))
    · exact (runs _).after (noted _)

theorem busMaster_setRole (d : DupState) (s : State) : Keeps BusMaster s (setRole d s) := by
  have dup (p : DupSt) (t : State) : Keeps BusMaster t { t with dup := p } := refl
  have live (p : StartSt) (t : State) : Keeps BusMaster t { t with start := p } := refl
  unfold setRole
  refine ite refl ((busMaster_evt _ _ _ _).after ((busMaster_setCause _ _ _ _ _).after (optElse ?_ ?_)))
  · exact (busMaster_within (setB_within _ _ _ _)).after ((busMaster_within (showClm_within _ _)).after ((dup _ _).after (busMaster_withdrawExchange s)))
  · exact (busMaster_within (setF_within _ _ _ _ _)).after (live _ _)

theorem busMaster_resign (cause : Nat) (s : State) : Keeps BusMaster s (resign cause s) := by
  have dup (p : DupSt) (t : State) : Keeps BusMaster t { t with dup := p } := refl
  unfold resign
  refine ite refl (ite refl (opt (t := setRole _ _) ((busMaster_setRole _ _).after (optElse ?_ (busMaster_setMor _ _))) (dup _ _)))
  exact (busMaster_within (incReg_within _ _ _)).after ((dup _ _).after ((busMaster_within (sendPeer_within _ _)).after (busMaster_switchOps _ s)))

theorem busMaster_resignTell (cause : Nat) (s : State) : Keeps BusMaster s (resignTell cause s) :=
  ite (busMaster_within (sendPeer_within _ s)) (busMaster_resign cause s)

theorem busMaster_beginModReset (why : ModWhy) (cause : Nat) (kind : RestartKind) (s : State) : Keeps BusMaster s (beginModReset why cause kind s) := by
  have noted (p : DupSt) (q : StartSt) (t : State) : Keeps BusMaster t { t with dup := p, start := q } := refl
  unfold beginModReset
  exact ite refl ((busMaster_within (seqStart_within _ _)).after ((noted _ _ _).after (busMaster_resignTell cause s)))

theorem busMaster_resetPair (s : State) (p : Nat) : Keeps BusMaster s (resetPair s p) := (busMaster_flushRing _ _).after (busMaster_putRing _ _ s)

theorem busMaster_dropPair (s : State) (p : Nat) : Keeps BusMaster s (dropPair s p) := ite refl (busMaster_putRing _ _ s)

theorem busMaster_beginBlockReset (s : State) (b : Block) : Keeps BusMaster s (beginBlockReset s b) := by
  have noted (p : StartSt) : Keeps BusMaster s { s with start := p } := refl
  have pairs (t : State) : Keeps BusMaster t (if b = .hif then (List.range 60).foldl dropPair t else (blockPairs b).foldl resetPair t) :=
    ite (foldl (fun u p _ => busMaster_dropPair u p) t) (foldl (fun u p _ => busMaster_resetPair u p) t)
  unfold beginBlockReset
  refine ite refl ((busMaster_evt _ _ _ _).after ((pairs _).after (opt ?_ (busMaster_within (rndBlockReset_within _)))))
  exact (busMaster_within (resetRegs_within b _)).after ((busMaster_within (setB_within 0x7F018 8 true _)).after (noted _))

/-! ## The fault collector and the loss of the link -/

theorem busMaster_reactBlk (n : Nat) (s : State) : Keeps BusMaster s (reactBlk n s) :=
  ite refl (ite (busMaster_beginModReset _ _ _ s) (ite refl (ite (foldl (fun t b _ => busMaster_beginBlockReset t b) s) busMaster_same)))

theorem busMaster_activate (n count : Nat) (forced : Bool) (why : Option Nat) (s : State) : Keeps BusMaster s (activate n count forced why s) := by
  have own (p : FcoSt) : Keeps BusMaster s { s with fco := p } := refl
  have nmi (t : State) : Keeps BusMaster t (emit (.nmi n) (sendMsg 0 t)) := (busMaster_within (emit_within _ _)).after (busMaster_sendMsg 0 t)
  unfold activate
  exact opt (opt (opt (opt ((busMaster_record _ _ _ _).after (own _)) (busMaster_sendMsg 0 _)) (nmi _)) (busMaster_reactBlk n _))
    (busMaster_beginModReset _ _ _ _)

theorem busMaster_occur (n : Nat) (forced : Bool) (why : Option Nat) (s : State) : Keeps BusMaster s (occur n forced why s) := by
  have counted := busMaster_within (incReg_within (0x08800 + 4 * n) 1 s)
  have own (p : FcoSt) (t : State) : Keeps BusMaster t { t with fco := p } := refl
  unfold occur
  exact ite refl (ite counted (ite (ite ((own _ _).after counted) ((busMaster_activate _ _ _ _ _).after ((own _ _).after counted)))
    ((own _ _).after counted)))

theorem busMaster_assertSrc (n : Nat) (s : State) : Keeps BusMaster s (assertSrc n s) := by
  have own (p : FcoSt) : Keeps BusMaster s { s with fco := p } := refl
  exact ite refl (ite (own _) ((busMaster_occur n false none _).after (own _)))

theorem busMaster_linkDrop (cause : Nat) (s : State) : Keeps BusMaster s (linkDrop cause s) :=
  (busMaster_assertSrc 64 _).after ((busMaster_evt _ _ _ _).after (foldl (fun t p _ => busMaster_putRing p _ t) s))

end Sys2Proof.Machine
end

section
/-!
PROOFS. The commands of descriptors, buffer posts and vectors (R97, R101, R104, R109, R112 to R114).
-/
namespace Sys2Proof.Machine
open Keeps

section Commands
variable {pair v : Nat} {s : State}

/-- What a fetch takes goes to the posts or to the commands of its pair (R97, R101). -/
theorem descriptorFetch_takes (fetches : mayFetch pair s = true) (b : Bytes) :
    (ring pair (descriptorFetch pair b s)).subHead = ((ring pair s).subHead + 1) % subSize pair s ∧
    (if isPost pair (descRead b) then (ring pair (descriptorFetch pair b s)).posts.map (·.desc) = (ring pair s).posts.map (·.desc) ++ [descRead b]
     else (ring pair (descriptorFetch pair b s)).cmds.map (·.desc) = (ring pair s).cmds.map (·.desc) ++ [descRead b]) := by
  unfold descriptorFetch
  rw [if_neg (by simp [fetches])]
  dsimp only
  split <;> simp

/-- A fetch that fails stops fetching at its slot (R104). -/
theorem descriptorFetchFail_stops (fetches : mayFetch pair s = true) (why : DmaFail) :
    (ring pair (descriptorFetchFail pair why s)).fetchErr = true ∧
    (ring pair (descriptorFetchFail pair why s)).subHead = (ring pair s).subHead := by
  unfold descriptorFetchFail
  rw [if_neg (by simp [fetches])]
  exact ⟨by rw [(flushRing_head pair _).fetchErr, ring_putRing_same], by rw [(flushRing_head pair _).subHead, ring_putRing_same]⟩

/-- A post that passes its checks leaves the posts; what then goes on fetches nothing (R97, R109). -/
theorem rxbuf_takes {c : Cmd} {cs : List Cmd} (front : (ring pair s).posts = c :: cs) (passes : postCheck pair c.desc = none) (fail : Option Nat) :
    (ring pair (rxbuf pair fail s)).posts = cs := by
  simp only [rxbuf, front, passes]
  rw [(pumpRing_head pair _).posts, ring_putRing_same]

/-- An armed pair signals and disarms (R112). -/
theorem signalPair_disarms (armed : (ring pair s).armed = true) :
    ring pair (signalPair pair s) = { ring pair s with armed := false, unsig := 0 } := by
  unfold signalPair
  dsimp only
  rw [if_pos armed]
  split <;> simp

theorem coalesceExpiry_signals (waits : (ring pair s).unsig ≠ 0) (expired : (ring pair s).oldest + getF (ringReg pair 0x14) 31 16 s * 1000 ≤ s.tim.mon) :
    coalesceExpiry pair s = signalPair pair s := by
  rw [coalesceExpiry, if_neg (by simp [waits, expired])]

/-- The next message of a spaced vector goes out once its spacing has passed (R113). -/
theorem spacingExpiry_sends (waits : v ∈ s.hif.spaced) (due : Due v s) : .msix v ∈ (spacingExpiry v s).out := by
  have clear : Due v { s with hif := { s.hif with spaced := without s.hif.spaced v } } := ⟨due.on, due.link, due.clear, due.spaced⟩
  unfold spacingExpiry
  cases last : tget s.hif.lastMsg v with
  | none =>
    rw [if_neg (by simp [waits])]
    exact clear.mem
  | some m =>
    have passed := due.spaced m last
    rw [if_neg (by simp [waits, passed])]
    exact clear.mem

/-- MSI-X Enable and the Function Mask. -/
def MsixSet (e m : Bool) (s : State) : Prop := s.hif.msixOn = e ∧ s.hif.fnMask = m

/-- The pending vectors' messages change neither. -/
theorem sendPended_msix {e m : Bool} (set : MsixSet e m s) : MsixSet e m (sendPended s) := by
  have kept (t : State) (x : Nat) (_ : x ∈ released s) : Keeps (fun (p : Bool × Bool) u => MsixSet p.1 p.2 u) t (sendMsg x t) := by
    rintro p ⟨on, mask⟩
    exact ⟨(sendMsg_msixOn x t).trans on, (sendMsg_fnMask x t).trans mask⟩
  rw [sendPended_eq]
  exact Keeps.foldl kept (unpend s) (e, m) set

/-- Bus Master Enable follows the host, and its clearing is a link loss (R117). -/
theorem busMasterWrite_leaves (on : s.hif.busMaster = true) (b : Bool) : (msixUnmask (.config (.busMaster b)) s).hif.busMaster = b ∧
    (b = false → 64 ∈ (msixUnmask (.config (.busMaster b)) s).fco.cond) := by
  cases b with
  | true => exact ⟨rfl, fun off => by cases off⟩
  | false =>
    have loses : msixUnmask (.config (.busMaster false)) s = linkDrop 2 { s with hif := { s.hif with busMaster := false } } := by
      rw [msixUnmask, if_pos on, linkLoss]
    rw [loses]
    exact ⟨busMaster_linkDrop 2 _ false rfl, fun _ => linkDrop_raises 2 _⟩

end Commands

/-- Settles O14. -/
theorem descriptorCommandsComplete : Obligations.DescriptorCommandsComplete := by
  unfold Obligations.DescriptorCommandsComplete
  refine ⟨?fetch, ?fetchFail, ?start, ?post, ?coalesce, ?spacing, ?unmask, ?msix, ?busMaster⟩
  case fetch => exact fun s pair b on fetches => does_run rfl on (descriptorFetch_takes fetches b)
  case fetchFail => exact fun s pair why on fetches => does_run rfl on (descriptorFetchFail_stops fetches why)
  case start =>
    exact fun s pair fail i c on serves next fetched room passes =>
      does_run rfl on (by rw [descriptorStart_starts serves next fetched room passes])
  case post => exact fun s pair fail c cs on front passes => does_run rfl on (rxbuf_takes front passes fail)
  case coalesce =>
    intro s pair on waits expired armed
    refine does_run rfl on ?_
    rw [coalesceExpiry_signals waits expired, signalPair_disarms armed]
    exact ⟨rfl, rfl⟩
  case spacing => exact fun s v on waits spaced msix link clear => does_run rfl on (spacingExpiry_sends waits ⟨msix, link, clear, spaced⟩)
  case unmask =>
    intro s v on low
    refine does_run rfl on ?_
    rw [msixUnmask_vector low, getB, (sendPended_within _).regs _ rfl _ (by simp), ← getB, getB_setB_same _ _ _ _ (by decide)]
  case msix => exact fun s e m on => does_run rfl on (sendPended_msix ⟨rfl, rfl⟩)
  case busMaster => exact fun s b on master => does_run rfl on (busMasterWrite_leaves master b)

end Sys2Proof.Machine
end

section
/-!
PROOFS. The model slots of a module without a peer (R129 to R131, R133): the staged or previous image armed for its round, an arming taken back, and the
record of an armed image.
-/
namespace Sys2Proof.Machine

section ModelSlots
variable {r : Req} {revert : Bool} {structSig paramSig : BitVec 64} {m : ModelImage} {op x : Nat} {b : Bytes} {s : State}

/-- An arming that no check refuses has an image (R131, check 4). -/
theorem armRefused_none_image {image : Option ModelImage} (passes : armRefused image structSig paramSig s = none) : ∃ m, image = some m := by
  cases image with
  | some m => exact ⟨m, rfl⟩
  | none =>
    unfold armRefused at passes
    split at passes <;> cases passes

/-- The slots after an arming: the image it names stands staged, for its target round. -/
theorem applyArm_model (image : armImage revert s = some m) (target : Nat) :
    (applyArm target revert s).model = { s.model with staged := some m, armed := some target, recorded := false } := by
  rw [applyArm, image]

/-- The round that an arming's TARGET_ROUND selects: 0 stands for the earliest (R131). -/
def targetRound (x : Nat) (s : State) : Nat := if x = 0 then earliestRound s else x

/-- Without a peer an arming that passes the checks of R131 is applied at once. -/
theorem modelArm_alone (alone : duplex s = false) (passes : armRefused (armImage revert s) structSig paramSig s = none)
    (reaches : x = 0 ∨ earliestRound s ≤ x) :
    modelArm revert r structSig paramSig x s = complete r 0 0 24 [] (applyArm (targetRound x s) revert s) := by
  have inTime : ¬(x ≠ 0 ∧ x < earliestRound s) := by omega
  simp only [modelArm, refuses_alone s alone, alone, passes, inTime, targetRound, viaPeer_alone _ _ _ _ _ alone, false_and, Bool.false_and,
    Bool.false_eq_true, if_false]

/-- What MODEL_ARM and MODEL_REVERT leave: the image they name stands staged and armed for its round, and the operation has ended with OK. -/
theorem armOp_arms (asked : Inline r op 24 b s) (alone : duplex s = false)
    (passes : armRefused (armImage revert s) (BitVec.ofNat 64 (leAt b 0 8)) (BitVec.ofNat 64 (leAt b 8 8)) s = none)
    (reaches : leAt b 0x10 8 = 0 ∨ earliestRound s ≤ leAt b 0x10 8) :
    (armOp revert op r s).model.armed = some (targetRound (leAt b 0x10 8) s) ∧ (armOp revert op r s).model.staged = armImage revert s ∧
      .opDone r 0 0 24 [] ∈ (armOp revert op r s).out := by
  obtain ⟨m, image⟩ := armRefused_none_image passes
  rw [armOp, inlineOp_asked asked, modelArm_alone alone passes reaches, complete_model, applyArm_model image, image]
  exact ⟨rfl, rfl, complete_mem _ _ _ _ _ _⟩

/-- A disarming leaves nothing armed and the image staged. -/
theorem applyDisarm_model (armed : s.model.armed.isSome = true) :
    (applyDisarm s).model = { s.model with armed := none, recorded := false } := by
  rw [applyDisarm, if_neg (by rw [Option.isNone_eq_false_iff.2 armed]; decide)]

/-- Without a peer a disarming that names the armed image is applied at once (R130). -/
theorem modelDisarm_alone (alone : duplex s = false) (armed : s.model.armed.isSome = true) (staged : s.model.staged = some m) :
    modelDisarm r m.structSig 0 s = complete r 0 0 24 [] (applyDisarm s) := by
  obtain ⟨k, armed⟩ := Option.isSome_iff_exists.1 armed
  simp only [modelDisarm, refuses_alone s alone, armed, staged, viaPeer_alone _ _ _ _ _ alone, ne_eq, not_true_eq_false, Bool.false_eq_true, if_false]

/-- An armed image without a record is recorded before its target round starts (R133). -/
theorem modelRecord_records {k : Nat} (armed : s.model.armed = some k) (ahead : s.rnd.number < k) (staged : s.model.staged = some m)
    (unrecorded : s.model.recorded = false) :
    modelRecord s = emit (.stored 0x11 (le 8 m.structSig.toNat ++ le 8 m.paramSig.toNat))
      { s with model := { s.model with recorded := true }, start := { s.start with commitModel := m.structSig } } := by
  simp only [modelRecord, armed, staged]
  exact if_neg (by simp [unrecorded, ahead])

end ModelSlots

/-- Settles O30. That MODEL_REVERT leaves the previous image staged in place of another staged one is the model's choice (log entry 87), which R129 leaves
open. -/
theorem modelCommandsComplete : Obligations.ModelCommandsComplete := by
  unfold Obligations.ModelCommandsComplete
  refine ⟨?arm, ?revert, ?disarm, ?record⟩
  case arm =>
    rintro s r b _ on asked rfl alone passes reaches
    exact does_run rfl on (armOp_arms (revert := false) asked alone passes reaches)
  case revert =>
    rintro s r b _ on asked rfl alone passes reaches
    exact does_run rfl on (armOp_arms (revert := true) asked alone passes reaches)
  case disarm =>
    intro s r b m on asked named zero alone armed staged
    refine does_run rfl on ?_
    rw [inlineOp_asked asked, named, zero, modelDisarm_alone alone armed staged, complete_model, applyDisarm_model armed]
    exact ⟨rfl, staged, complete_mem _ _ _ _ _ _⟩
  case record =>
    intro s m k on armed ahead staged unrecorded
    refine does_run rfl on ?_
    rw [modelRecord_records armed ahead staged unrecorded]
    exact ⟨rfl, List.mem_cons_self⟩

end Sys2Proof.Machine
end

section
/-!
PROOFS. The separator's commands (R142, R155, R156, R158, R218): the last pass of the weighted least squares publishes the estimate of its round, and an
operation on a point leaves its σ, or the list of the excluded points, as it asks.
-/
namespace Sys2Proof.Machine

section Separator
variable {r : Req} {mid q g : Nat} {m : ModelImage} {w : SepWork} {j : Job} {p : PatSlot} {sol : List Rat} {v : Word} {s : State}

/-! ## The last pass of the weighted least squares -/

/-- A publication ends the round's work with its estimate. -/
theorem sepPublish_sep (m : ModelImage) (w : SepWork) (s : State) : (sepPublish m w s).sep =
    { s.sep with est := some (estimateOf m w s), fresh := true, work := none, diverged := false, settled := true } := by
  have shown (a b n : Nat) (t : State) : (sepStat w a b n t).sep = t.sep := (sepStat_within w a b n t).parts .sep (by decide)
  simp [sepPublish, shown]

/-- Without the bad-data test a pass that ends is the last: its estimate is published (R148). -/
theorem wlsEnd_publishes (untested : bdOn w = false) (m : ModelImage) (s : State) :
    wlsEnd m w s = sepPublish m (wlsStep m w s) (pmcAdd 0x1E 1 (putWork (wlsStep m w s) s)) := by
  have untested' : bdOn (wlsStep m w s) = false := untested
  unfold wlsEnd
  dsimp only
  split
  · rfl
  · rw [if_pos (by simp [untested'])]

theorem wlsDone_lastNet (last : m.networks.length ≤ w.net + 1) (sol : List Rat) (s : State) : wlsDone m w sol s = wlsEnd m (wlsSteps m w sol) s :=
  if_neg (by simpa [moreNets, wlsSteps] using last)

/-- A job that ends with OK in the last network of an untested pass leads to the publication of the round's estimate (R142, R144). -/
theorem sepJobEnd_publishes (runs : .sep ∉ s.start.blkRst) (work : s.sep.work = some w) (active : s.model.active = some m) (pass : w.stage = .wls)
    (last : m.networks.length ≤ w.net + 1) (untested : bdOn w = false) (sol : List Rat) :
    ∃ x t, t.rnd = s.rnd ∧ sepJobEnd 0 sol s = sepPublish m x t := by
  have ends : sepJobEnd 0 sol s = wlsDone m { w with pivotReg := w.pivotReg || (0 : Nat) == 0x22 } sol s := by
    unfold sepJobEnd
    rw [if_neg (by simpa using runs)]
    simp only [work, active, pass]
    rfl
  rw [ends, wlsDone_lastNet (by exact last)]
  exact ⟨_, _, by simp [putWork], wlsEnd_publishes (by exact untested) m s⟩

/-- The job on context F that has run to its end without a replaced pivot leaves its context and reaches the separator with OK (R218). -/
theorem fastportComplete_ends (computes : computing s = some .f) (job : s.chu.f = some j) (solves : solvingPat j = some p)
    (inTime : overdue j s = false) (sound : (kktSolved p j).sat = none) (pivots : j.regPivots = 0) :
    fastportComplete s = sepJobEnd 0 (bsVals (roleElems p 0x10) (kktSolved p j).x) (fastEnd 0 (pmcAdd 0x12 1 (pmcAdd 0x13 j.refine s))) := by
  simp [fastportComplete, computes, job, solves, inTime, sound, fastStatus, pivots]

/-- The end of the job of an untested pass's last network leaves the estimate of the round in progress. -/
theorem fastportComplete_publishes (computes : computing s = some .f) (job : s.chu.f = some j) (solves : solvingPat j = some p)
    (inTime : overdue j s = false) (sound : (kktSolved p j).sat = none) (pivots : j.regPivots = 0) (runs : .sep ∉ s.start.blkRst)
    (work : s.sep.work = some w) (active : s.model.active = some m) (pass : w.stage = .wls) (last : m.networks.length ≤ w.net + 1)
    (untested : bdOn w = false) : (fastportComplete s).sep.work = none ∧ (fastportComplete s).sep.fresh = true ∧
      (fastportComplete s).sep.est.map (·.round) = some s.rnd.number := by
  rw [fastportComplete_ends computes job solves inTime sound pivots]
  generalize counted : pmcAdd 0x12 1 (pmcAdd 0x13 j.refine s) = c
  have count : Within [.pmc] (some []) s c := by
    subst counted
    exact Within.step (pmcAdd_within _ _ _) (pmcAdd_within _ _ s) (by decide) (by simp [regsLe])
  have left : Within [.hif, .pmc, .chu, .out] (some [0x10024, 0x1002C, 0x10034, 0x10028]) s (fastEnd 0 c) :=
    Within.step (fastEnd_within 0 c) (count.mono (by decide) (by simp [regsLe])) (by decide) (by simp [regsLe])
  have start : (fastEnd 0 c).start = s.start := left.parts .start (by decide)
  have sep : (fastEnd 0 c).sep = s.sep := left.parts .sep (by decide)
  have model : (fastEnd 0 c).model = s.model := left.parts .model (by decide)
  have rnd : (fastEnd 0 c).rnd = s.rnd := left.parts .rnd (by decide)
  obtain ⟨x, t, same, ends⟩ := sepJobEnd_publishes (start ▸ runs) (sep ▸ work) (model ▸ active) pass last untested
    (bsVals (roleElems p 0x10) (kktSolved p j).x)
  rw [ends, sepPublish_sep]
  exact ⟨rfl, rfl, by simp [estimateOf, same, rnd]⟩

/-! ## The operations on a point -/

theorem sigmaOf_applySigma (mid q g model : Nat) (s : State) : sigmaOf mid q model (applySigma mid q g s) = if g = 0 then model else g := by
  have gone : (s.sep.sigmas.filter (fun e => e.1 != (mid, q))).find? (fun e => e.1 == (mid, q)) = none := by simp
  by_cases zero : g = 0
  · simp [sigmaOf, applySigma, zero, gone]
  · simp [sigmaOf, applySigma, zero, gone]

theorem mem_applyExclude (mid q : Nat) (s : State) : (mid, q) ∈ (applyExclude mid q s).sep.excl := by
  by_cases listed : (mid, q) ∈ s.sep.excl <;> simp [applyExclude, listed]

theorem not_mem_applyInclude (mid q : Nat) (s : State) : (mid, q) ∉ (applyInclude mid q s).sep.excl := by simp [applyInclude]

/-- Without a peer an operation on a point that the model has goes on (R156). -/
theorem pointOp_alone (alone : duplex s = false) (known : pointCheck mid q s = none) (r : Req) (go : State → State) :
    pointOp r mid q go s = go s := by
  simp [pointOp, refuses_alone s alone, known]

theorem setSigma_alone (alone : duplex s = false) (known : pointCheck mid q s = none) (r : Req) (g : Nat) :
    setSigma r mid q g s = complete r 0 0 12 [] (applySigma mid q g s) := by
  rw [setSigma, pointOp_alone alone known, viaPeer_alone _ _ _ _ _ alone]

/-- EXCLUDE is applied at once without a peer while the list has room. -/
theorem excludePoint_alone (alone : duplex s = false) (known : pointCheck mid q s = none) (room : s.sep.excl.length < 256) (r : Req) :
    excludePoint r mid q s = complete r 0 0 8 [] (applyExclude mid q s) := by
  rw [excludePoint, pointOp_alone alone known, if_neg (by simp; omega), viaPeer_alone _ _ _ _ _ alone]

theorem includePoint_alone (alone : duplex s = false) (known : pointCheck mid q s = none) (r : Req) :
    includePoint r mid q s = complete r 0 0 8 [] (applyInclude mid q s) := by
  rw [includePoint, pointOp_alone alone known, viaPeer_alone _ _ _ _ _ alone]

/-! ## FLAT_START -/

/-- A write of SEP_CTRL with FLAT_START set has its effect and writes the register's fields (R158). -/
theorem regWrite_flatStart (answers : Answers 0x14000 s) (set : bitAt v 1 = true) : regWrite 0x14000 v s = plainWrite 0x14000 v (flatStart s) := by
  have known : (regSpec 0x14000).isNone = false := by decide
  have block : blockAt 0x14000 = some .sep := by decide
  unfold regWrite
  rw [if_neg (by simp [answers.1, known]), if_neg (by simp [answers.2])]
  simp [block, set]

theorem flatWrite_flatNext (answers : Answers 0x14000 s) : (flatWrite s).sep.flatNext = true := by
  have plain (t : State) : (plainWrite 0x14000 (putBit (getReg 0x14000 s) 1 true) t).sep = t.sep := (plainWrite_within _ _ t).parts .sep (by decide)
  rw [flatWrite, regWrite_flatStart answers (bitAt_putBit_same _ _ _ (by decide)), plain, flatStart]

end Separator

/-- Settles O20, the fast-port job first and then the operations of a module without a peer. -/
theorem separatorCommandsComplete : Obligations.SeparatorCommandsComplete := by
  unfold Obligations.SeparatorCommandsComplete
  refine ⟨?fastport, ?sigma, ?exclude, ?incl, ?flat⟩
  case fastport =>
    exact fun s j p w m on computes job solves inTime sound pivots runs work active pass last untested =>
      does_run rfl on (fastportComplete_publishes computes job solves inTime sound pivots runs work active pass last untested)
  case sigma =>
    rintro s r b _ _ _ on asked rfl rfl rfl alone known
    refine does_run rfl on ?_
    rw [inlineOp_asked asked, setSigma_alone alone known]
    exact ⟨fun d => by rw [sigmaOf, complete_sep, ← sigmaOf, sigmaOf_applySigma], complete_mem _ _ _ _ _ _⟩
  case exclude =>
    rintro s r b _ _ on asked rfl rfl alone known room
    refine does_run rfl on ?_
    rw [inlineOp_asked asked, excludePoint_alone alone known room, complete_sep]
    exact ⟨mem_applyExclude _ _ s, complete_mem _ _ _ _ _ _⟩
  case incl =>
    rintro s r b _ _ on asked rfl rfl alone known
    refine does_run rfl on ?_
    rw [inlineOp_asked asked, includePoint_alone alone known, complete_sep]
    exact ⟨not_mem_applyInclude _ _ s, complete_mem _ _ _ _ _ _⟩
  case flat => exact fun s on answers => does_run rfl on (flatWrite_flatNext answers)

end Sys2Proof.Machine
end

section
/-!
PROOFS. What the peer link brings (R156, R393, R405 to R411): the operations that the two modules forward, the self-test, the transfer, and the mirror
with the meter-of-record role.
-/
namespace Sys2Proof.Machine

section Peer
open Keeps
variable {h : PeerHdr} {op : FwdOp} {f : Fwd} {r : Req} {d : SyncData} {st dt : Nat} {s t : State}

/-! ## The header of a message -/

/-- The duplex part without what the header of a message shows of the peer (R392) and without the numbers of the messages (R393). -/
def headless (d : DupSt) : DupSt :=
  { d with accepted := [], peer := none, peerClaim := none, peerSince := 0, cmpSkip := false, peerMor := false, mseq := 0, unacked := [] }

/-- A state whose duplex part is `d` but for that. -/
def Headless (d : DupSt) (s : State) : Prop := headless s.dup = d

theorem headless_same (h : headless t.dup = headless s.dup := by rfl) : Keeps Headless s t := fun _ k => h.trans k

theorem seePeer_headless (h : PeerHdr) (s : State) : Keeps Headless s (seePeer h s) := by
  have cause (bit : Nat) (t : State) : Keeps Headless t (dupCause bit t) :=
    headless_same (congrArg headless ((dupCause_within bit t).parts .dup (by decide)))
  have change (f : DupSt → DupSt) (t : State) (same : headless (f t.dup) = headless t.dup) : Keeps Headless t (dupSet f t) := headless_same same
  unfold seePeer
  exact opt (optElse (optElse headless_same ((cause _ _).after (change _ _ rfl))) ((cause _ _).after (change _ _ rfl))) headless_same

theorem sendPeer_headless (b : PeerBody) (s : State) : headless (sendPeer b s).dup = headless s.dup := by
  obtain ⟨q, l, dup⟩ := sendPeer_dup b s
  rw [dup, headless, headless]

/-- The module as the effect of a message that it takes finds it: the header has been seen, and the message acknowledged where R393 asks for it. -/
structure Heard (s t : State) : Prop where
  dup    : headless t.dup = headless s.dup
  number : t.rnd.number = s.rnd.number
  frame  : Within [.hif, .pmc, .dup, .rnd, .out] (some [0x0E028, 0x0E054, 0x0E050, 0x0E030, 0x0E040]) s t

namespace Heard

theorem state (k : Heard s t) : t.dup.state = s.dup.state := (congrArg DupSt.state k.dup :)
theorem linkUp (k : Heard s t) : t.dup.linkUp = s.dup.linkUp := (congrArg DupSt.linkUp k.dup :)
theorem testing (k : Heard s t) : t.dup.testing = s.dup.testing := (congrArg DupSt.testing k.dup :)
theorem fwds (k : Heard s t) : t.dup.fwds = s.dup.fwds := (congrArg DupSt.fwds k.dup :)
theorem deferred (k : Heard s t) : t.dup.deferred = s.dup.deferred := (congrArg DupSt.deferred k.dup :)
theorem noted (k : Heard s t) : t.dup.noted = s.dup.noted := (congrArg DupSt.noted k.dup :)

end Heard

/-- A message that the module takes from the other module of its pair has its effect on the module that has heard it (R389, R391 to R393). -/
theorem onMessage_heard (taken : (accept h s).isSome = true) (fits : pairWhy h s = none) (acked : Bool) :
    ∃ t, Heard s t ∧ ∀ f, onMessage acked h f s = f t := by
  obtain ⟨u, e⟩ := Option.isSome_iff_exists.1 taken
  have seen : Heard s (seePeer h u) :=
    { dup := seePeer_headless h u _ (by rw [accept_some e, Headless, pmcAdd_dup, dupSet, headless, headless])
      number := by rw [(seePeer_instants h u).number, accept_some e, pmcAdd_rnd, dupSet]
      frame := Within.step (seePeer_within h u) ((accept_eq e).mono (by decide) (by simp [regsLe])) (by decide) (by simp [regsLe]) }
  cases acked with
  | false => exact ⟨_, seen, fun f => by simp [onMessage, e, fits]⟩
  | true =>
    refine ⟨ackMsg h (seePeer h u), ⟨?_, ?_, ?_⟩, fun f => by simp [onMessage, e, fits]⟩
    · rw [ackMsg, sendPeer_headless, seen.dup]
    · rw [ackMsg, (sendPeer_instants _ _).number, seen.number]
    · exact Within.step (ackMsg_within h _) seen.frame (by decide) (by simp [regsLe])

/-- DUP takes no message in its block reset (R68). -/
theorem accept_runs (taken : (accept h s).isSome = true) : s.start.blkRst.contains .dup = false := by
  obtain ⟨u, e⟩ := Option.isSome_iff_exists.1 taken
  unfold accept at e
  simp only [Option.ite_none_left_eq_some, Bool.or_eq_true, not_or, Bool.not_eq_true] at e
  exact e.1.2

/-! ## The undo records outlast the operations -/

theorem undo_within {ps : List Part} {rs : Option (List Nat)} (w : Within ps rs s t) (hp : .dup ∉ ps := by decide) : t.dup.undo = s.dup.undo :=
  congrArg DupSt.undo (w.parts .dup hp)

theorem setRole_undo (x : DupState) (s : State) : (setRole x s).dup.undo = s.dup.undo := by
  rw [setRole_dup]
  split <;> rfl

theorem sendPeer_undo (b : PeerBody) (s : State) : (sendPeer b s).dup.undo = s.dup.undo := (congrArg DupSt.undo (sendPeer_headless b s) :)

theorem resign_undo (cause : Nat) (s : State) : (resign cause s).dup.undo = s.dup.undo := by
  simp [resign, apply_ite State.dup, apply_ite DupSt.undo, setRole_undo, setMor_dup, sendPeer_undo, switchOps_dup]

theorem beginModReset_undo (why : ModWhy) (cause : Nat) (kind : RestartKind) (s : State) :
    (beginModReset why cause kind s).dup.undo = s.dup.undo := by
  have told : (resignTell cause s).dup.undo = s.dup.undo := by
    unfold resignTell
    split
    · exact sendPeer_undo _ s
    · exact resign_undo cause s
  unfold beginModReset
  split
  · rfl
  · exact (undo_within (seqStart_within _ _)).trans told

/-- A complete set stages its parts, and in the recovery image a module reset may follow (R530). -/
theorem placeSet_undo (m : Manifest) (s : State) : (placeSet m s).dup.undo = s.dup.undo := by
  have written (t : State) : (writtenCheck t).dup.undo = t.dup.undo := by
    unfold writtenCheck
    split
    · rfl
    · split
      · exact beginModReset_undo _ _ _ _
      · rfl
  unfold placeSet
  dsimp only
  generalize e : List.foldl _ s s.upd.parts = u
  have staged : u.dup.undo = s.dup.undo := by
    subst e
    refine undo_within (ps := [.model, .cyc]) (rs := some []) (Within.foldl (fun t x w => ?_) .refl)
    split
    · exact Within.step (stageModel_within _ t) w (by decide) (by simp [regsLe])
    · exact w.trans (Within.upd rfl .refl)
    · exact w
  split
  · exact staged
  · exact (written _).trans staged

theorem applyBlock_undo (comp block : Nat) (data : BlockData) (s : State) : (applyBlock comp block data s).dup.undo = s.dup.undo := by
  have held := undo_within (holdBlock_within comp block data s)
  unfold applyBlock
  dsimp only
  split
  · split
    · exact (placeSet_undo _ _).trans held
    · exact held
  · exact held

theorem startProg_undo (s : State) : (startProg s).dup.undo = s.dup.undo := by
  have stopped (v : Nat) (t : State) : (setProgState v t).dup.undo = t.dup.undo := undo_within (setProgState_within v t)
  unfold startProg unresign
  dsimp only
  split
  · rw [setRole_undo, stopped]
  · rw [stopped]

theorem applyProgCtrl_undo (cmd : Nat) (s : State) : (applyProgCtrl cmd s).dup.undo = s.dup.undo := by
  have cold : (coldStart s).dup.undo = s.dup.undo := undo_within (coldStart_within s)
  have stopped (l : List Nat) : (l.foldl stopTask (setProgState 0 s)).dup.undo = s.dup.undo :=
    (undo_within (ps := [.pmc, .cyc, .out]) (rs := some []) (Within.foldl (fun t x w => (stopTask_within t x).after w) .refl)).trans
      (undo_within (setProgState_within 0 s))
  unfold applyProgCtrl
  simp only [apply_ite State.dup, apply_ite DupSt.undo, startProg_undo, cold, stopped, ite_self]

/-- An operation that is applied leaves the records that undo operations. -/
theorem applyFwd_undo (op : FwdOp) (r : Option Req) (s : State) : (applyFwd op r s).dup.undo = s.dup.undo := by
  cases op with
  | setSigma m q g => exact undo_within (applySigma_within m q g s)
  | exclude m q => exact undo_within (applyExclude_within m q s)
  | incl m q => exact undo_within (applyInclude_within m q s)
  | setParam i v => exact undo_within (applyParam_within i v s)
  | pricePush t k p => exact undo_within (applyPrice_within t k p s)
  | weatherPush t w => exact undo_within (applyWeather_within t w s)
  | forceCycle => exact undo_within (applyForce_within s)
  | unitMode m v => exact undo_within (applyUnitMode_within m v s)
  | loopConfig c => exact undo_within (applyLoopConfig_within c s)
  | loopCoef c => exact undo_within (applyLoopCoef_within c r s)
  | loopSwap n => exact undo_within (applyLoopSwap_within n r s)
  | loopMode n m o => exact undo_within (applyLoopMode_within n m o r s)
  | loopSetsp n v => exact undo_within (applySetsp_within n v s)
  | modelArm _ _ x v => exact undo_within (applyArm_within x v s)
  | modelDisarm => exact undo_within (applyDisarm_within s)
  | stationRetire i => exact undo_within (setRetire_within i r s)
  | stationReinstate i => exact undo_within (applyReinstate_within i s)
  | progCtrl c => exact applyProgCtrl_undo c s
  | varWrite i _ v => exact undo_within (applyVarWrite_within i v s)
  | constWrite i _ v => exact undo_within (applyConstWrite_within i v s)
  | progExchange g x => exact undo_within (applyExchange_within g x r s)
  | stepAccept => exact undo_within (applyStepAccept_within s)
  | stepReject => exact undo_within (applyStepReject_within s)
  | timeSet t n _ => exact undo_within (applyTimeSet_within t n s)
  | enrol i e n m p a o => exact undo_within (applyEnrol_within i e n m p a o s)
  | updManifest m => exact undo_within (applyManifest_within true m s)
  | updBlock c b _ d => exact applyBlock_undo c b d s
  | updActivateConfig _ x => exact undo_within (applyActivateCfg_within x s)

/-! ## Forwarded operations (R156) -/

/-- The module with the record that undoes an operation (log entry 48): the 64 latest are held. -/
def noteUndo (op : FwdOp) (s : State) : State := dupSet (fun d => { d with undo := (op, undoOf op s) :: d.undo.take 63 }) s

/-- A forwarded operation that this module does not refuse is noted and applied, and confirmed unless it is an enrolment. -/
theorem forwardMsg_applies (taken : (accept h s).isSome = true) (fits : pairWhy h s = none) (passes : ∀ u, fwdRefused op u = none)
    (now : s.dup.state ≠ .syncing) : ∃ t, Heard s t ∧ (forwardMsg h op false s = applyFwd op none (noteUndo op t) ∨
      forwardMsg h op false s = sendPeer (.confirm op 0 0) (applyFwd op none (noteUndo op t))) := by
  obtain ⟨t, heard, ran⟩ := onMessage_heard taken fits false
  have now' : (t.dup.state == .syncing) = false := by simp [heard.state, now]
  refine ⟨t, heard, ?_⟩
  simp only [forwardMsg, ran, passes, now', Bool.false_eq_true, if_false]
  split
  · exact .inl rfl
  · exact .inr rfl

theorem forwardMsg_undo (taken : (accept h s).isSome = true) (fits : pairWhy h s = none) (passes : ∀ u, fwdRefused op u = none)
    (now : s.dup.state ≠ .syncing) : (forwardMsg h op false s).dup.undo.head?.map (·.1) = some op := by
  obtain ⟨t, -, ends⟩ := forwardMsg_applies taken fits passes now
  have noted : (applyFwd op none (noteUndo op t)).dup.undo = (op, undoOf op t) :: t.dup.undo.take 63 := applyFwd_undo op none _
  rcases ends with ends | ends
  · rw [ends, noted]; rfl
  · rw [ends, sendPeer_undo, noted]; rfl

/-- A parameter that the peer has set is in force, and its setting confirmed. -/
theorem forwardMsg_setParam (taken : (accept h s).isSome = true) (fits : pairWhy h s = none) (link : s.dup.linkUp = true) (cage : cageOn 3 s = true)
    (now : s.dup.state ≠ .syncing) (i v : Nat) : tget (forwardMsg h (.setParam i v) false s).disp.params i = some v ∧
      ∃ q b, .peer q 5 b (.confirm (.setParam i v) 0 0) ∈ (forwardMsg h (.setParam i v) false s).out := by
  obtain ⟨t, heard, ran⟩ := onMessage_heard taken fits false
  have now' : (t.dup.state == .syncing) = false := by simp [heard.state, now]
  have start : t.start = s.start := heard.frame.parts .start (by decide)
  have pwr : t.pwr = s.pwr := heard.frame.parts .pwr (by decide)
  have ends : forwardMsg h (.setParam i v) false s = sendPeer (.confirm (.setParam i v) 0 0) (applyParam i v (noteUndo (.setParam i v) t)) := by
    simp only [forwardMsg, ran, fwdRefused, now', Bool.false_eq_true, if_false]
    rfl
  rw [ends]
  refine ⟨?_, sendPeer_mem _ _ (.inl (heard.linkUp.trans link)) ?_ ?_⟩
  · rw [show (sendPeer _ _).disp = _ from (sendPeer_within _ _).parts .disp (by decide)]
    exact tget_tput_same
  · exact (congrArg (fun x => x.blkRst.contains .dup) start).trans (accept_runs taken)
  · exact (congrArg (fun x : PwrSt => !x.sfpOff.contains 3) pwr :).trans cage

/-- A CONFIRM with a status of R119 ends the operation that waits for it: with that status, or applied here with OK, unless it ends later. -/
theorem confirmMsg_ends (taken : (accept h s).isSome = true) (fits : pairWhy h s = none) (known : st ∈ statusCodes)
    (waits : s.dup.fwds.find? (fun f => f.op == op) = some f) (req : f.req = some r) :
    ∃ t, confirmMsg h op st dt s = if st ≠ 0 then finish r st dt t else if endsLate op then applyFwd op (some r) t
      else complete r 0x00 0 f.len [] (applyFwd op (some r) t) := by
  obtain ⟨t, heard, ran⟩ := onMessage_heard taken fits false
  refine ⟨noteUpd op st (dupSet (fun d => { d with fwds := d.fwds.erase f }) t), ?_⟩
  simp only [confirmMsg, ran, List.contains_iff_mem, known, heard.fwds, waits, req, if_true]

theorem confirmMsg_ok (taken : (accept h s).isSome = true) (fits : pairWhy h s = none) (waits : s.dup.fwds.find? (fun f => f.op == op) = some f)
    (req : f.req = some r) (soon : endsLate op = false) : .opDone r 0 0 f.len [] ∈ (confirmMsg h op 0 0 s).out := by
  obtain ⟨t, ends⟩ := confirmMsg_ends (dt := 0) taken fits (by decide : 0 ∈ statusCodes) waits req
  rw [ends, if_neg (by decide), if_neg (by simp [soon])]
  exact complete_mem _ _ _ _ _ _

theorem confirmMsg_refused (taken : (accept h s).isSome = true) (fits : pairWhy h s = none)
    (waits : s.dup.fwds.find? (fun f => f.op == op) = some f) (req : f.req = some r) (known : st ∈ statusCodes) (refused : st ≠ 0) (dt : Nat) :
    .opDone r st dt 0 [] ∈ (confirmMsg h op st dt s).out := by
  obtain ⟨t, ends⟩ := confirmMsg_ends (dt := dt) taken fits known waits req
  rw [ends, if_pos refused]
  exact complete_mem _ _ _ _ _ _

/-- The oldest operation without a confirmation after 2 s is withdrawn and ends with PEER_ABSENT (R132, R156). -/
theorem forwardTimeout_ends {l : List Fwd} (oldest : s.dup.fwds = f :: l) (due : f.mon + 2000000000 ≤ s.tim.mon) :
    (forwardTimeout s).dup.fwds = l ∧ ∀ r, f.req = some r → .opDone r 0x80 0 0 [] ∈ (forwardTimeout s).out := by
  have sent (b : PeerBody) (t : State) : (sendPeer b t).dup.fwds = t.dup.fwds := (congrArg DupSt.fwds (sendPeer_headless b t) :)
  have noted (o : FwdOp) (t : State) : (noteUpd o 0x80 t).dup = t.dup := (noteUpd_within o _ t).parts .dup (by decide)
  unfold forwardTimeout
  simp only [oldest, if_neg (show ¬s.tim.mon < f.mon + 2000000000 by omega)]
  cases f.req with
  | none => exact ⟨by rw [evt_dup, sent]; rfl, fun r none => by cases none⟩
  | some q =>
    refine ⟨by rw [finish_dup, noted, evt_dup, sent]; rfl, ?_⟩
    rintro _ ⟨⟩
    exact complete_mem _ _ _ _ _ _

/-! ## The self-test (R405) -/

theorem selftestMsg_begins (taken : (accept h s).isSome = true) (fits : pairWhy h s = none) (idle : s.dup.testing = false) :
    (selftestMsg h none s).dup.testing = true ∧ (selftestMsg h none s).dup.testRound = s.rnd.number := by
  obtain ⟨t, heard, ran⟩ := onMessage_heard taken fits true
  simp [selftestMsg, ran, heard.testing, idle, testBegin, dupSet, heard.number]

/-- This module's own result waits for the peer's. -/
theorem selftestDone_waits (runs : s.dup.testing = true) (alone : s.dup.peerResult = none) (pass : Bool) :
    (selftestDone pass s).dup.ownResult = some pass ∧ (selftestDone pass s).dup.testing = true := by
  rw [selftestDone, if_neg (by simp [runs])]
  generalize told : sendPeer _ _ = t
  have dup : headless t.dup = headless { s.dup with ownResult := some pass } := by rw [← told, sendPeer_headless, dupSet]
  have own : t.dup.ownResult = some pass := congrArg DupSt.ownResult dup
  have theirs : t.dup.peerResult = none := (congrArg DupSt.peerResult dup).trans alone
  have testing : t.dup.testing = true := (congrArg DupSt.testing dup).trans runs
  have undecided : testDecide t = t := by simp only [testDecide, own, theirs]
  rw [undecided]
  exact ⟨own, testing⟩

/-! ## The transfer (R406) -/

/-- The checks of the transfer look at nothing that a message's header changes. -/
theorem syncRefused_heard (k : Heard s t) (h : PeerHdr) (d : SyncData) : syncRefused h d t = syncRefused h d s := by
  have model : t.model = s.model := k.frame.parts .model (by decide)
  have cyc : t.cyc = s.cyc := k.frame.parts .cyc (by decide)
  have upd : t.upd = s.upd := k.frame.parts .upd (by decide)
  have kst : t.kst = s.kst := k.frame.parts .kst (by decide)
  have cfg : t.cfg = s.cfg := k.frame.parts .cfg (by decide)
  have slot : slotId t = slotId s := by rw [slotId, getF, k.frame.regs _ rfl _ (by decide), ← getF, ← slotId]
  have slots (n : Nat) : slotState n t = slotState n s := by rw [slotState, getF, k.frame.regs _ rfl _ (by simp; omega), ← getF, ← slotState]
  have keys : keyed t = keyed s := by simp only [keyed, slots, kst]
  have sigs : ownSigs t = ownSigs s := by simp only [ownSigs, modelSigs, progSig, model, cyc]
  unfold syncRefused
  rw [sigs, upd, cfg, slot, keys]

/-- What the transfer brings: the round's number, dispatch's parameters and the excluded points, while what was forwarded still waits. -/
theorem takeSync_takes (d : SyncData) (s : State) : (takeSync d s).rnd.number = d.round ∧ (takeSync d s).disp.params = d.params ∧
    (takeSync d s).sep.excl = d.excluded ∧ (takeSync d s).dup.deferred = s.dup.deferred := by
  unfold takeSync
  dsimp only
  generalize sessions : List.foldl takeSession _ d.sessions = u
  have number : u.rnd.number = d.round := by
    subst sessions
    exact (InstantsKept.foldl (fun t p => (rfl : InstantsKept t (takeSession t p))) _ _).number
  have dup : u.dup = s.dup := by
    subst sessions
    exact (Within.foldl (ps := [.kst, .rnd]) (rs := some []) (fun t p w => (takeSession_within t p).after w) .refl).parts .dup (by decide)
  generalize loops : List.foldl takeLoop _ d.loops = v
  have kept : Within [.lpe] (some []) _ v := loops ▸ Within.foldl (fun t l w => (takeLoop_within t l).after w) .refl
  have rnd : v.rnd = u.rnd := kept.parts .rnd (by decide)
  have disp := kept.parts .disp (by decide)
  have sep := kept.parts .sep (by decide)
  have dup' : v.dup = u.dup := kept.parts .dup (by decide)
  exact ⟨by rw [rnd, number], congrArg DispSt.params disp, congrArg SepSt.excl sep, by rw [dup', dup]⟩

theorem endOps_dup (p : DupOp → Bool) (st dt : Nat) (s : State) :
    (endOps p st dt s).dup = { s.dup with ops := s.dup.ops.filter (fun o => !p o.1) } := by
  have ended (l : List (DupOp × Req)) (t : State) : (l.foldl (fun s o => complete o.2 st dt (if st = 0 then 4 else 0) [] s) t).dup = t.dup := by
    induction l generalizing t with
    | nil => rfl
    | cons o l ih => rw [List.foldl_cons, ih, complete_dup]
  exact ended _ _

/-- What the transfer brings stands in the module, which has synchronised (R406). -/
def transferred (d : SyncData) (s : State) : State :=
  setReg 0x0E028 (lo32 d.claim) (dupSet (fun x => { x with synced := true, syncWhy := 0 }) (takeSync d s))

/-- The end of the transfer (R406, R411): the role of a standby, what was forwarded meanwhile, and the operation that waited for the transfer. -/
def endTransfer (ops : List FwdOp) (s : State) : State :=
  endOps (fun o => match o with | .resync => true | _ => false) 0 0
    (reconStart (ops.foldl (fun s o => applyFwd o none s) (setRole .standby (dupSet (fun x => { x with deferred := [] }) s))))

theorem endTransfer_within (s : State) : Within [.hif, .pwr, .start, .evr, .pmc, .dup, .cyc, .out] none s (endTransfer [] s) := by
  have role : Within [.hif, .pwr, .start, .evr, .pmc, .dup, .cyc, .out] none s (setRole .standby (dupSet (fun x => { x with deferred := [] }) s)) :=
    Within.step (setRole_within _ _) ((dupSet_within _ s).mono (by decide) trivial) (by decide) trivial
  exact Within.step (endOps_within _ _ _ _) (Within.step (reconStart_within _) role (by decide) trivial) (by decide) trivial

theorem endTransfer_dup (s : State) : (endTransfer [] s).dup.state = .standby ∧ (endTransfer [] s).dup.synced = s.dup.synced := by
  have recon (u : State) : (reconStart u).dup.state = u.dup.state ∧ (reconStart u).dup.synced = u.dup.synced := by
    unfold reconStart
    split <;> exact ⟨rfl, rfl⟩
  have role : (setRole .standby (dupSet (fun x => { x with deferred := [] }) s)).dup.synced = s.dup.synced := by
    rw [setRole_dup]
    split <;> rfl
  rw [endTransfer, List.foldl_nil, endOps_dup]
  exact ⟨(recon _).1.trans (setRole_state _ _), (recon _).2.trans role⟩

/-- A transfer that no check refuses ends, with what was forwarded meanwhile. -/
theorem syncComplete_ends (taken : (accept h s).isSome = true) (fits : pairWhy h s = none) (syncs : s.dup.state = .syncing)
    (passes : syncRefused h d s = none) : ∃ t, Heard s t ∧ syncComplete h d s = endTransfer (transferred d t).dup.deferred (transferred d t) := by
  obtain ⟨t, heard, ran⟩ := onMessage_heard taken fits true
  refine ⟨t, heard, ?_⟩
  rw [syncComplete, ran, if_neg (by simp [heard.state, syncs])]
  simp only [(syncRefused_heard heard h d).trans passes]
  rfl

/-- The transfer makes the module a standby with what it brought. -/
theorem syncComplete_takes (taken : (accept h s).isSome = true) (fits : pairWhy h s = none) (syncs : s.dup.state = .syncing)
    (passes : syncRefused h d s = none) (empty : s.dup.deferred = []) :
    (syncComplete h d s).dup.state = .standby ∧ (syncComplete h d s).dup.synced = true ∧ (syncComplete h d s).rnd.number = d.round ∧
    (syncComplete h d s).disp.params = d.params ∧ (syncComplete h d s).sep.excl = d.excluded := by
  obtain ⟨t, heard, ends⟩ := syncComplete_ends taken fits syncs passes
  obtain ⟨number, params, excl, deferred⟩ := takeSync_takes d t
  have empty' : (transferred d t).dup.deferred = [] := deferred.trans (heard.deferred.trans empty)
  have kept := endTransfer_within (transferred d t)
  have rnd : (endTransfer [] (transferred d t)).rnd = (takeSync d t).rnd := kept.parts .rnd (by decide)
  have disp : (endTransfer [] (transferred d t)).disp = (takeSync d t).disp := kept.parts .disp (by decide)
  have sep : (endTransfer [] (transferred d t)).sep = (takeSync d t).sep := kept.parts .sep (by decide)
  obtain ⟨state, synced⟩ := endTransfer_dup (transferred d t)
  rw [ends, empty', rnd, disp, sep]
  exact ⟨state, synced, number, params, excl⟩

/-! ## The mirror and the meter-of-record role (R408, R409, R411) -/

theorem recordMsg_signed (taken : (accept h s).isSome = true) (fits : pairWhy h s = none) (y x q : Nat) :
    tgetD (recordMsg h (.signed y x q) s).dup.noted (y * 2 ^ 32 + x) 0 = max (tgetD s.dup.noted (y * 2 ^ 32 + x) 0) q := by
  obtain ⟨t, heard, ran⟩ := onMessage_heard taken fits true
  have purged (u : State) : (purgeStore u).dup = u.dup := (purgeStore_within u).parts .dup (by decide)
  simp only [recordMsg, ran, noteSeq, purged, dupSet, tgetD_tput_same, heard.noted]

theorem morMsg_takes (taken : (accept h s).isSome = true) (fits : pairWhy h s = none) :
    (morMsg h false s).dup.mor = true ∧ (morMsg h false s).dup.peerMor = false := by
  obtain ⟨t, heard, ran⟩ := onMessage_heard taken fits true
  have cause (u : State) : (dupCause 6 u).dup = u.dup := (dupCause_within 6 u).parts .dup (by decide)
  simp [morMsg, ran, apply_ite State.dup, cause, setMor_dup, dupSet]

end Peer

/-- Settles O33. Where the spec leaves it open these are the model's choices: a withdrawal restores what the operation replaced, whence the undo record of
the first part (log entry 48); a refusing CONFIRM ends the operation with the peer's status, which is one of R119 (log entries 32 and 81); and a
signing notice is noted whatever its record type, where R409 has 01h to 03h. -/
theorem peerCommandsComplete : Obligations.PeerCommandsComplete := by
  unfold Obligations.PeerCommandsComplete
  refine ⟨?forward, ?param, ?confirm, ?refused, ?timeout, ?selftest, ?result, ?sync, ?signed, ?mor⟩
  case forward => exact fun s h op on taken fits passes now => does_run rfl on (forwardMsg_undo taken fits passes now)
  case param => exact fun s h i v on taken fits link cage now => does_run rfl on (forwardMsg_setParam taken fits link cage now i v)
  case confirm => exact fun s h op f r on taken fits waits req soon => does_run rfl on (confirmMsg_ok taken fits waits req soon)
  case refused =>
    exact fun s h op f r st dt on taken fits waits req known refused => does_run rfl on (confirmMsg_refused taken fits waits req known refused dt)
  case timeout => exact fun s f l on oldest due => does_run rfl on (forwardTimeout_ends oldest due)
  case selftest => exact fun s h on taken fits idle => does_run rfl on (selftestMsg_begins taken fits idle)
  case result => exact fun s b on runs alone => does_run rfl on (selftestDone_waits runs alone b)
  case sync => exact fun s h d on taken fits syncs passes empty => does_run rfl on (syncComplete_takes taken fits syncs passes empty)
  case signed => exact fun s h y x q on taken fits => does_run rfl on (recordMsg_signed taken fits y x q)
  case mor => exact fun s h on taken fits => does_run rfl on (morMsg_takes taken fits)

end Sys2Proof.Machine
end

section
/-!
PROOFS. The curd tracker's commands (R167, R178, R183, R185): the step that a round has, the curds asked for at its end, and the networks that the next
one rebuilds.
-/
namespace Sys2Proof.Machine

section CurdTracker
open Keeps
variable {r : Req} {mid mask n : Nat} {m : ModelImage} {v : Word} {s t : State}

/-! ## The end of a step -/

/-- A state with this part of the curd tracker, in which the lower word of CTR_STATRND reads this value. -/
def CtrShows (x : CtrSt × Word) (s : State) : Prop := s.ctr = x.1 ∧ getReg 0x18030 s = x.2

theorem ctrShows_kept {ps : List Part} {l : List Nat} (w : Within ps (some l) s t) (hp : .ctr ∉ ps := by decide) (hl : 0x18030 ∉ l := by simp) :
    Keeps CtrShows s t := fun _ ⟨part, shown⟩ => ⟨(w.parts .ctr hp).trans part, (w.regs l rfl _ hl).trans shown⟩

/-- No pair counts its lost items in CTR_STATRND. -/
theorem statrnd_not_ringReg (pair : Nat) : 0x18030 ∉ [ringReg pair 28] := by
  simp only [ringReg, List.mem_singleton]
  omega

theorem pmcAdd_ctrShows (e n : Nat) (s : State) : Keeps CtrShows s (pmcAdd e n s) := ctrShows_kept (pmcAdd_within e n s)

theorem deliverWith_ctrShows (pair st dt : Nat) (b : Bytes) (s : State) : Keeps CtrShows s (deliverWith pair st dt b s) :=
  ctrShows_kept (deliverWith_within pair st dt b s) (hl := statrnd_not_ringReg pair)

/-- The dumps asked for are delivered, and none waits any more (R183). -/
theorem giveDumps_shows (s : State) : CtrShows ({ s.ctr with dumps := [] }, getReg 0x18030 s) (giveDumps s) :=
  foldl (fun t d _ => deliverWith_ctrShows d.1.pair 0 0 _ t) { s with ctr := { s.ctr with dumps := [] } } _ ⟨rfl, rfl⟩

/-- The end of a step shows its round in CTR_STATRND and leaves of the tracker all but the dumps. -/
theorem endStep_shows (o : StepOut) (s : State) : CtrShows ({ s.ctr with dumps := [] }, lo32 s.rnd.number) (endStep o s) := by
  unfold endStep
  extract_lets _ _ shown counted events aged _ _ recorded forecast
  have round : CtrShows (s.ctr, lo32 s.rnd.number) shown := ⟨by simp [shown], by simp [shown, setPair, getReg_setReg]⟩
  have merges : Keeps CtrShows shown counted := (ctrShows_kept (incReg_within _ _ _)).after (ctrShows_kept (incReg_within _ _ _))
  have counts : Keeps CtrShows counted events :=
    (pmcAdd_ctrShows _ _ _).after <| (pmcAdd_ctrShows _ _ _).after <| (pmcAdd_ctrShows _ _ _).after <| (pmcAdd_ctrShows _ _ _).after <|
      (pmcAdd_ctrShows _ _ _).after (pmcAdd_ctrShows _ _ _)
  have ages : Keeps CtrShows events aged := opt refl (pmcAdd_ctrShows _ _ _)
  have records : Keeps CtrShows aged recorded := deliverWith_ctrShows _ _ _ _ _
  have forecasts : Keeps CtrShows recorded forecast := optElse refl (deliverWith_ctrShows _ _ _ _ _)
  obtain ⟨part, number⟩ := (forecasts.after <| records.after <| ages.after <| counts.after merges) _ round
  simpa only [part, number] using giveDumps_shows forecast

/-! ## The step of a round -/

/-- What the one step of a round leaves (R167, R183): it counts as made, its round is shown, and no dump waits. -/
def StepMade (k : Nat) (t : State) : Prop := t.ctr.stepped = true ∧ getReg 0x18030 t = lo32 k ∧ t.ctr.dumps = []

theorem endStep_made {k : Nat} (stepped : s.ctr.stepped = true) (round : s.rnd.number = k) (o : StepOut) : StepMade k (endStep o s) := by
  obtain ⟨part, number⟩ := endStep_shows o s
  rw [StepMade, part, number, round]
  exact ⟨stepped, rfl, rfl⟩

theorem stillStep_made {k : Nat} (stepped : s.ctr.stepped = true) (round : s.rnd.number = k) (all nets : List Nat) (stalls us : Nat) :
    StepMade k (stillStep all nets stalls us s) := by
  unfold stillStep
  exact endStep_made (by exact stepped) (by exact round) _

theorem movedStep_made {k : Nat} (stepped : s.ctr.stepped = true) (round : s.rnd.number = k) (m : ModelImage) (est : Estimate) (age : Nat)
    (late : Bool) (us : Nat) : StepMade k (movedStep m est age late us s) := by
  unfold movedStep
  exact endStep_made (by exact stepped) (by exact round) _

/-- A step that is due is made, whether the curds move or not. -/
theorem ctrStep_made (due : stepDue s = true) (late : Bool) (us : Nat) : StepMade s.rnd.number (ctrStep late us s) := by
  rw [ctrStep, if_neg (by simp [due])]
  dsimp only
  split
  case h_1 => exact stillStep_made (by rfl) (by rfl) ..
  case h_2 =>
    split
    case h_1 => exact stillStep_made (by rfl) (by rfl) ..
    case h_2 =>
      split
      · exact stillStep_made (by rfl) (by rfl) ..
      · exact movedStep_made (by rfl) (by rfl) ..

/-! ## The operations -/

/-- CURD_DUMP of a pipe that the model has waits for the end of the next step (R183). -/
theorem curdDump_waits (active : s.model.active = some m) (pipe : m.branches.any (fun b => b.kind == .pipe && b.mid == mid) = true) (r : Req) :
    curdDump r mid s = complete r 0 0 4 [] { s with ctr := { s.ctr with dumps := s.ctr.dumps ++ [(r, mid)] } } := by
  simp only [curdDump, active, pipe, Bool.not_true, Bool.false_eq_true, if_false]

theorem mem_foldl_addOnce {l t : List Nat} : n ∈ l.foldl addOnce t ↔ n ∈ t ∨ n ∈ l := by
  induction l generalizing t with
  | nil => simp
  | cons x l ih => simp [ih, mem_addOnce, or_assoc]

/-- A mask below 2^k names only networks below k. -/
theorem lt_of_mem_maskNets {k : Nat} (below : mask < 2 ^ k) (named : n ∈ maskNets mask) : n < k := by
  simp only [maskNets, List.mem_filter, beq_iff_eq] at named
  by_contra beyond
  have none : mask / 2 ^ n = 0 := Nat.div_eq_of_lt (below.trans_le (Nat.pow_le_pow_right (by decide) (by omega)))
  simp [none] at named

/-- REBUILD of networks that the model has waits for the next step (R183). -/
theorem ctrRebuild_waits (active : s.model.active = some m) (named : mask ≠ 0) (below : mask < 2 ^ min 4 m.networks.length) (r : Req) :
    ctrRebuild r mask s = complete r 0 0 4 [] { s with ctr := { s.ctr with rebuildReq := (maskNets mask).foldl addOnce s.ctr.rebuildReq } } := by
  have four : mask < 16 := below.trans_le (Nat.pow_le_pow_right (by decide) (Nat.min_le_left 4 _))
  have known : (maskNets mask).any (fun n => decide (m.networks.length ≤ n)) = false := by
    simp only [List.any_eq_false, decide_eq_true_eq, not_le]
    exact fun n named => (lt_of_mem_maskNets below named).trans_le (Nat.min_le_right 4 _)
  simp only [ctrRebuild, active, known]
  exact if_neg (by simp; omega)

/-! ## REBUILD of CTR_CTRL -/

/-- A write of CTR_CTRL with REBUILD set has its effect and writes the register's fields (R185). -/
theorem regWrite_rebuild (answers : Answers 0x18000 s) (set : bitAt v 4 = true) : regWrite 0x18000 v s = plainWrite 0x18000 v (ctrCtrlRebuild s) := by
  have known : (regSpec 0x18000).isNone = false := by decide
  have block : blockAt 0x18000 = some .ctr := by decide
  unfold regWrite
  rw [if_neg (by simp [answers.1, known]), if_neg (by simp [answers.2])]
  simp [block, set]

theorem rebuildWrite_asks (answers : Answers 0x18000 s) : (rebuildWrite s).ctr.rebuildReq = [0, 1, 2, 3] := by
  have plain (t : State) : (plainWrite 0x18000 (putBit (getReg 0x18000 s) 4 true) t).ctr = t.ctr := (plainWrite_within _ _ t).parts .ctr (by decide)
  rw [rebuildWrite, regWrite_rebuild answers (bitAt_putBit_same _ _ _ (by decide)), plain, ctrCtrlRebuild]

end CurdTracker

/-- Settles O22; what the statement calls CTR_ROUND is CTR_STATRND (18030h). Where the spec leaves it open these are the model's choices: CURD_DUMP
completes when it is accepted, before its record follows (log entry 26), and a round without an active model, or with CTR in its block reset, has its
step too (log entry 95). -/
theorem curdCommandsComplete : Obligations.CurdCommandsComplete := by
  unfold Obligations.CurdCommandsComplete
  refine ⟨?step, ?dump, ?rebuild, ?control⟩
  case step => exact fun s late us on due => does_run rfl on (ctrStep_made due late us)
  case dump =>
    rintro s r b _ m on asked rfl active pipe
    refine does_run rfl on ?_
    rw [inlineOp_asked asked, curdDump_waits active pipe, complete_ctr]
    exact ⟨rfl, complete_mem _ _ _ _ _ _⟩
  case rebuild =>
    rintro s r b _ m on asked rfl active named below
    refine does_run rfl on ?_
    rw [inlineOp_asked asked, ctrRebuild_waits active named below, complete_ctr]
    exact ⟨fun n listed => mem_foldl_addOnce.2 (.inr listed), complete_mem _ _ _ _ _ _⟩
  case control => exact fun s on answers => does_run rfl on (rebuildWrite_asks answers)

end Sys2Proof.Machine
end

section
/-!
PROOFS. The churn's commands (R192 to R220): a job that waits, the pivots that a panel replaces, the iterate that joins its job or ends it, the deadline
of a waiting job, and the pattern slots.
-/
namespace Sys2Proof.Machine

section Churn
variable {qp : Bool} {op st n : Nat} {r : Req} {b : Bytes} {c : Cmd} {x : Ctx} {j k : Job} {p : PatSlot} {image : PatternImage} {pt : IterPoint}
  {s t : State}

/-! ## A job that waits -/

theorem modelSigs_of_model (model : t.model = s.model) : modelSigs t = modelSigs s := by rw [modelSigs, model, modelSigs]

theorem patAt_of_chu (chu : t.chu = s.chu) (slot : Nat) : patAt slot t = patAt slot s := by rw [patAt, chu, patAt]

theorem patBusy_of_chu (chu : t.chu = s.chu) (slot : Nat) : patBusy slot t = patBusy slot s := by
  rw [patBusy, chuJobs, chu, ← chuJobs, ← patBusy]

/-- The checks of R203 look at the patterns and at the active model alone. -/
theorem jobCheck_of_parts (chu : t.chu = s.chu) (model : t.model = s.model) (qp : Bool) (a : JobParam) (secs : List JobSection) (rest : Nat) :
    jobCheck qp a secs rest t = jobCheck qp a secs rest s := by
  simp only [jobCheck, slotRefused, patAt_of_chu chu, modelSigs_of_model model]

/-- A job that passes its checks while another computes goes to the end of the queue (R194, R203). -/
theorem queueJob_waits {a : JobParam} {secs : List JobSection} {rest : Nat} (computes : s.chu.comp.isSome = true)
    (passes : jobCheck qp a secs rest s = none) (r : Req) :
    (queueJob qp r a secs rest s).chu.queue.map (·.req) = s.chu.queue.map (·.req) ++ [some r] := by
  have busy : s.chu.comp.isNone = false := by simpa using computes
  simp [queueJob, passes, arbitrateIdle, busy]

/-- KKT_SOLVE and QP_SOLVE, whose job's input has been read from its buffer. -/
theorem solveRow_waits (held : Held r op c s) (reads : Reads c b) (computes : s.chu.comp.isSome = true)
    (passes : jobCheck qp (jobParam c.desc) (readSections b.length b 0).1 (readSections b.length b 0).2 s = none) :
    (solveRow qp op r b s).chu.queue.map (·.req) = s.chu.queue.map (·.req) ++ [some r] := by
  have outside : descInl c.desc = false := reads.1
  generalize counted : bwAdd 4 0 b.length (pmcAdd 0x90 b.length s) = u
  have chu : u.chu = s.chu := by simp [← counted]
  have model : u.model = s.model := by simp [← counted]
  rw [solveRow, withOp_reads held reads, counted, if_neg (by simp [outside]), solveOp,
    queueJob_waits (chu ▸ computes) ((jobCheck_of_parts chu model ..).trans passes), chu]

/-! ## The contexts -/

theorem comp_of_computing (computes : computing s = some x) : s.chu.comp = some x := by
  unfold computing at computes
  split at computes
  · cases computes
  · exact computes

@[simp] theorem ctxJob_putCtx (x : Ctx) (j : Option Job) (s : State) : ctxJob x (putCtx x j s) = j := by cases x <;> rfl

@[simp] theorem putCtx_comp (x : Ctx) (j : Option Job) (s : State) : (putCtx x j s).chu.comp = s.chu.comp := by cases x <;> rfl

/-! ## Panels -/

/-- A panel's replaced pivots add to CHU_REGPIV, whatever its boundary then decides (R206). -/
theorem panelBoundary_counts (computes : computing s = some x) (job : ctxJob x s = some j) :
    getReg 0x10030 (panelBoundary s) = satAdd32 (getReg 0x10030 s) (panelJob j).2 := by
  have put : getReg 0x10030 (putCtx x (some (panelJob j).1) s) = getReg 0x10030 s := (putCtx_within _ _ s).regs _ rfl _ (by simp)
  unfold panelBoundary
  simp only [computes, job]
  rw [(boundaryWith_within _ _ _).regs _ rfl _ (by simp)]
  simp only [apply_ite (getReg 0x10030), getReg_pmcAdd, ite_self]
  rw [incReg, getReg_setReg_same, put]

/-! ## The end of a job -/

/-- A request has ended with this status, or with BUF_SHORT because its output did not fit (R204). -/
def EndedOrShort (r : Req) (st : Nat) (t : State) : Prop := ∃ e d len, (e = st ∨ e = 0x15) ∧ .opDone r e d len [] ∈ t.out

theorem writeJob_ends (asked : j.req = some r) (st detail : Nat) (b : Bytes) (s : State) : EndedOrShort r st (writeJob j st detail b s) := by
  unfold writeJob
  simp only [asked]
  split
  · exact ⟨_, _, _, .inr rfl, complete_mem ..⟩
  · exact ⟨_, _, _, .inl rfl, complete_mem ..⟩

/-- A job that ends with a result writes it and completes (R204). -/
theorem endJob_ends (asked : j.req = some r) (writes : ¬(st = 0x03 ∨ st = 0xF0)) (x : Ctx) (detail kase : Nat) (valid : Bool) (sol : Bytes) (m : Nat)
    (s : State) : EndedOrShort r st (endJob x j st detail kase valid sol m s) := by
  unfold endJob
  dsimp only
  rw [if_neg writes]
  obtain ⟨e, d, len, which, shown⟩ := writeJob_ends asked st detail _ _
  exact ⟨e, d, len, which, (arbitrateIdle_within _).mem shown⟩

/-- No warning is one of the statuses without a result. -/
theorem warnStatus_writes (j : Job) : ¬((warnStatus j).1 = 0x03 ∨ (warnStatus j).1 = 0xF0) := by
  unfold warnStatus
  split
  · simp
  · split <;> simp

/-! ## Iterations -/

/-- A completed iterate joins its job, and what follows depends on it (R209, R211). -/
theorem qpIteration_joins (computes : computing s = some x) (job : ctxJob x s = some j) (programme : j.qp = true) (pat : j.pat = some p)
    (inTime : overdue j s = false) (completes : nextPoint p j = some (pt, none)) :
    ∃ u, Within [.pmc] (some []) s u ∧ qpIteration s = afterIter x (iterJob pt j) pt p (putCtx x (some (iterJob pt j)) u) := by
  refine ⟨if j.stage = .solve then pmcAdd 0x12 2 s else s, Within.ite (pmcAdd_within _ _ s) Within.refl, ?_⟩
  simp [qpIteration, computes, job, programme, pat, inTime, completes]

/-- An iterate that neither converges nor shows the programme infeasible leaves its job to the next one while iterations remain (R212, R213). -/
theorem afterIter_goesOn (far : converged k pt = false) (feasible : infeasible k.iters (2 ^ (24 - k.epsExp)) k.bestRps pt.dualLarge = false)
    (remain : k.iters < k.maxIter) (wanted : jobCancelled k s = false) (x : Ctx) (p : PatSlot) : afterIter x k pt p s = s := by
  simp [afterIter, far, feasible, Nat.not_le.2 remain, wanted]

theorem afterIter_converged (converges : converged k pt = true) (asked : k.req = some r) (x : Ctx) (p : PatSlot) (s : State) :
    EndedOrShort r (warnStatus k).1 (afterIter x k pt p s) := by
  unfold afterIter
  rw [if_pos converges]
  exact endJob_ends (by exact asked) (warnStatus_writes k) ..

/-- Whether the ring of a job has been disabled is told by its request and the ring alone. -/
theorem jobCancelled_within (w : Within [.pmc, .chu] (some []) s t) (same : k.req = j.req) : jobCancelled k t = jobCancelled j s := by
  have hif : t.hif = s.hif := w.parts .hif (by decide)
  have regs (a : Nat) : getReg a t = getReg a s := w.regs _ rfl a (by simp)
  simp only [jobCancelled, same, ring, ringOn, getB, hif, regs]

/-- KKT_SOLVE_COMPLETE: the solve that saturates nowhere ends its job with its result (R207, R219). -/
theorem kktComplete_ends (computes : computing s = some x) (ringJob : x ≠ .f) (job : ctxJob x s = some j) (solves : solvingPat j = some p)
    (inTime : overdue j s = false) (sound : (kktSolved p j).sat = none) (asked : j.req = some r) :
    EndedOrShort r (warnStatus j).1 (kktComplete s) := by
  have ends : kktComplete s = endJob x j (warnStatus j).1 (warnStatus j).2 0 true (solSections p 0x10 (kktSolved p j).x)
      (kktMerit p j (kktSolved p j)) (pmcAdd 0x12 1 (pmcAdd 0x13 j.refine s)) := by
    simp [kktComplete, computes, ringJob, job, solves, inTime, sound]
  rw [ends]
  exact endJob_ends asked (warnStatus_writes j) ..

/-! ## Deadlines -/

theorem expireWaiting_mem (asked : j.req = some r) (s : State) : .opDone r 0x21 0 0 [] ∈ (expireWaiting j s).out := by
  unfold expireWaiting
  simp only [asked]
  exact complete_mem ..

/-- The waiting job whose deadline has passed ends with DEADLINE_NONE (R217). -/
theorem chuDeadline_ends (waits : j ∈ s.chu.queue) (asked : j.req = some r) (passed : overdue j s = true) :
    .opDone r 0x21 0 0 [] ∈ (chuDeadline (some r) s).out := by
  obtain ⟨k, found⟩ := Option.isSome_iff_exists.1
    (List.find?_isSome (p := fun j => j.req == some r && overdue j s).2 ⟨j, waits, by simp [asked, passed]⟩)
  obtain ⟨asks, -⟩ : k.req = some r ∧ overdue k s = true := by simpa using List.find?_some found
  unfold chuDeadline
  simp only [found]
  exact expireWaiting_mem asks s

/-! ## Pattern slots -/

/-- The patterns of the active model stand again in slots 0 to 11 (R197, R220). -/
theorem chuRebuilt_chu {m : ModelImage} (builds : s.chu.building = true) (active : s.model.active = some m) :
    (chuRebuilt s).chu = { s.chu with building := false, pats := builtPats s.cfg.watch m ++ hostPats s.chu.pats } := by
  simp [chuRebuilt, builds, active]

/-- PATTERN_LOAD of a good image into a slot that no job uses (R200). -/
theorem patternLoad_fills (low : 12 ≤ n) (high : n ≤ 15) (free : patBusy n s = false) {len : Nat} (good : imageBad image len = none) (r : Req) :
    patternLoad r n image len s = complete r 0 0 len [] { s with chu := { s.chu with pats := tput s.chu.pats n (loadedSlot image) } } := by
  simp [patternLoad, within, low, high, free, good]

theorem patternFree_empties (low : 12 ≤ n) (high : n ≤ 15) (free : patBusy n s = false) (r : Req) :
    patternFree r n s = complete r 0 0 1 [] { s with chu := { s.chu with pats := tdel s.chu.pats n } } := by
  simp [patternFree, within, low, high, free]

end Churn

/-- Settles O21: what waits, what an end of a step leaves of its job, and what the pattern slots hold, one command after another. -/
theorem churnCommandsComplete : Obligations.ChurnCommandsComplete := by
  unfold Obligations.ChurnCommandsComplete
  refine ⟨?kkt, ?qp, ?panel, ?goesOn, ?converged, ?solved, ?deadline, ?rebuilt, ?load, ?free⟩
  case kkt => exact fun s r c b on held reads computes passes => does_run rfl on (solveRow_waits held reads computes passes)
  case qp => exact fun s r c b on held reads computes passes => does_run rfl on (solveRow_waits held reads computes passes)
  case panel => exact fun s c j on computes job => does_run rfl on (panelBoundary_counts computes job)
  case goesOn =>
    intro s pt p c j on computes job programme pat inTime completes far feasible remain wanted
    obtain ⟨u, counted, joins⟩ := qpIteration_joins computes job programme pat inTime completes
    have put : Within [.pmc, .chu] (some []) s (putCtx c (some (iterJob pt j)) u) :=
      Within.step (putCtx_within _ _ u) (counted.mono (by decide) (by simp [regsLe])) (by decide) (by simp [regsLe])
    have chu : u.chu = s.chu := counted.parts .chu (by decide)
    refine does_run rfl on ?_
    rw [joins, afterIter_goesOn far feasible remain ((jobCancelled_within put (by rfl)).trans wanted), ctxJob_putCtx, putCtx_comp, chu]
    exact ⟨rfl, comp_of_computing computes⟩
  case converged =>
    intro s pt p c j r on computes job programme pat inTime completes converges asked
    obtain ⟨u, -, joins⟩ := qpIteration_joins computes job programme pat inTime completes
    refine does_run rfl on ?_
    rw [joins]
    exact afterIter_converged converges (by exact asked) ..
  case solved =>
    exact fun s p c j r on computes ringJob job solves inTime sound asked =>
      does_run rfl on (kktComplete_ends computes ringJob job solves inTime sound asked)
  case deadline => exact fun s j r on waits asked passed => does_run rfl on (chuDeadline_ends waits asked passed)
  case rebuilt => exact fun s m on builds active => does_run rfl on (by rw [chuRebuilt_chu builds active]; exact ⟨rfl, rfl⟩)
  case load =>
    rintro s r c _ image on ⟨held, opcode⟩ outside whole rfl low high free good
    refine does_run rfl on ?_
    rw [withOp_held held (by simp [opcode]) (.inr (.inr whole)), if_neg (by simp [outside]),
      patternLoad_fills low high ((patBusy_of_chu (by simp [outside]) _).trans free) good, complete_chu]
    exact ⟨tget_tput_same, complete_mem ..⟩
  case free =>
    rintro s r b _ on asked rfl low high free
    refine does_run rfl on ?_
    rw [inlineOp_asked asked, patternFree_empties low high free, complete_chu]
    exact ⟨tget_tdel_same, complete_mem ..⟩

end Sys2Proof.Machine
end

section
/-!
PROOFS. Dispatch (R228 to R258): what the end of a solve keeps and accepts, the quarter-hours and the age of the plan, the answers of the units and their
absence, the end of a LEG day, and the operations of a module without a peer.
-/
namespace Sys2Proof.Machine

section Dispatch
variable {r : Req} {op row u v mid id mode : Nat} {seq : Option Nat} {code : Option Nat} {b : Bytes} {c : Cycle} {cmd : UnitCmd} {e : SolveEnd}
  {p : Plan} {s t : State}

/-! ## The records of a cycle -/

/-- Dispatch once nothing waits to be counted in a record (R254). -/
def uncounted (d : DispSt) : DispSt := { d with accCmds := [], accSent := [], accRefused := [], accAborted := 0, accComp := false }

/-- The records of a cycle leave dispatch as it is, but that those of the commands take what has been counted. -/
theorem emitCycle_disp (c : Cycle) (acc : Bool) (s : State) : (emitCycle c acc s).disp = if acc then uncounted s.disp else s.disp := by
  cases acc <;> simp [emitCycle, uncounted, apply_ite State.disp]

/-- The cycle whose commands are under way stays so, or its record has gone out (R254). -/
theorem settleCycle_disp (s : State) : (settleCycle s).disp = s.disp ∨ (settleCycle s).disp = uncounted { s.disp with acting := none } := by
  unfold settleCycle
  split
  · exact .inl rfl
  · extract_lets late
    split
    · exact .inr (emitCycle_disp _ true _)
    · exact .inl rfl

theorem settleCycle_setW (s : State) : (settleCycle s).disp.setW = s.disp.setW := by
  rcases settleCycle_disp s with same | gone
  · rw [same]
  · rw [gone, uncounted]

theorem settleCycle_freeze (s : State) : (settleCycle s).disp.freeze = s.disp.freeze := by
  rcases settleCycle_disp s with same | gone
  · rw [same]
  · rw [gone, uncounted]

/-! ## The end of a solve -/

theorem param_of_parts (act : t.disp.act = s.disp.act) (cfg : t.cfg = s.cfg) (id : Nat) : param id t = param id s := by
  simp only [param, paramDefault, act, cfg]

/-- Whether a solution is rejected is told by the cycle, the parameters in force and the count of model swaps (R243). -/
theorem rejectReason_of_parts (act : t.disp.act = s.disp.act) (cfg : t.cfg = s.cfg) (model : t.model = s.model) (c : Cycle) (e : SolveEnd) :
    rejectReason c e t = rejectReason c e s := by
  simp only [rejectReason, param_of_parts act cfg, model]

/-- The end of a solve taken in: its job has left the churn, and its solution is the next warm start (R242). -/
def solveTaken (c : Cycle) (e : SolveEnd) (s : State) : State :=
  keepWarm c e (takeEntry { s with chu := { s.chu with ends := s.chu.ends.erase e }, disp := { s.disp with solving := none } })

theorem keepWarm_disp (c : Cycle) (e : SolveEnd) (s : State) : ∃ w, (keepWarm c e s).disp = { s.disp with warm := w } ∧
    ∀ pt vals, e.point = some pt → e.warm = some vals → w.map (·.vals) = some vals := by
  unfold keepWarm
  split
  · next vals kept => exact ⟨_, rfl, fun pt x point warm => by simpa [point, warm, eq_comm] using kept⟩
  · next none => exact ⟨s.disp.warm, rfl, fun pt x point warm => by simp [point, warm] at none⟩

theorem solveTaken_disp (c : Cycle) (e : SolveEnd) (s : State) : ∃ w, (solveTaken c e s).disp = { s.disp with solving := none, warm := w } ∧
    ∀ pt vals, e.point = some pt → e.warm = some vals → w.map (·.vals) = some vals := by
  generalize freed : takeEntry { s with chu := { s.chu with ends := s.chu.ends.erase e }, disp := { s.disp with solving := none } } = f
  have disp : f.disp = { s.disp with solving := none } := freed ▸ (takeEntry_within _).parts .disp (by decide)
  obtain ⟨w, same, kept⟩ := keepWarm_disp c e f
  exact ⟨w, by rw [solveTaken, freed, same, disp], kept⟩

/-- Taking the end of a solve in does not change whether its solution is rejected. -/
theorem rejectReason_solveTaken (c : Cycle) (e : SolveEnd) (s : State) :
    rejectReason (cycleEnd c e (solveTaken c e s)) e (solveTaken c e s) = rejectReason c e s := by
  obtain ⟨w, disp, -⟩ := solveTaken_disp c e s
  have entry := takeEntry_within { s with chu := { s.chu with ends := s.chu.ends.erase e }, disp := { s.disp with solving := none } }
  have cfg : (solveTaken c e s).cfg = s.cfg := ((keepWarm_within c e _).parts .cfg (by decide)).trans (entry.parts .cfg (by decide))
  have model : (solveTaken c e s).model = s.model := ((keepWarm_within c e _).parts .model (by decide)).trans (entry.parts .model (by decide))
  exact rejectReason_of_parts (by rw [disp]) cfg model c e

/-- A solution that has been taken in waits for the next write phase where no check of R243 rejects it; otherwise only its cycle's record goes out. -/
theorem solveComplete_ends (solving : s.disp.solving = some c) (ended : s.chu.ends.find? (fun e => e.slot == c.slot) = some e) :
    (∃ w, w.1.vars = e.plan ∧ solveComplete s = { solveTaken c e s with disp := { (solveTaken c e s).disp with waiting := some w } }) ∨
      (rejectReason c e s ≠ 0 ∧ ∃ x acc, solveComplete s = emitCycle x acc (solveTaken c e s)) := by
  have checked := rejectReason_solveTaken c e s
  unfold solveComplete
  simp only [solving, ended]
  rw [← solveTaken, checked]
  split
  · exact .inl ⟨_, rfl, rfl⟩
  · next rejected => exact .inr ⟨rejected, _, _, rfl⟩

theorem solveComplete_leaves (solving : s.disp.solving = some c) (ended : s.chu.ends.find? (fun e => e.slot == c.slot) = some e) :
    (solveComplete s).disp.solving = none ∧
    (∀ pt vals, e.point = some pt → e.warm = some vals → (solveComplete s).disp.warm.map (·.vals) = some vals) ∧
    (rejectReason c e s = 0 → (solveComplete s).disp.waiting.map (·.1.vars) = some e.plan) := by
  obtain ⟨w, taken, kept⟩ := solveTaken_disp c e s
  rcases solveComplete_ends solving ended with ⟨x, plan, accepts⟩ | ⟨rejected, x, acc, rejects⟩
  · rw [accepts, taken]
    exact ⟨rfl, kept, fun _ => congrArg some plan⟩
  · rw [rejects, emitCycle_disp, taken]
    cases acc <;> exact ⟨rfl, kept, fun zero => absurd zero rejected⟩

/-! ## What dispatch holds of the stations -/

theorem stnDisp_putStnDisp (d : Nat) (x : StnDisp) (s : State) : stnDisp id (putStnDisp d x s) = if id = d then x else stnDisp id s := by
  split
  · next same => rw [same, stnDisp, putStnDisp, tgetD_tput_same]
  · next other => rw [stnDisp, putStnDisp, tgetD, tget_tput_other other, ← tgetD, ← stnDisp]

/-- Steps that each replace what dispatch holds of one station change nothing else; what each puts in place holds of all that have had one. -/
theorem foldl_putStnDisp {P : StnDisp → Prop} {f : State → StationDecl → State} (puts : ∀ s d, ∃ x, P x ∧ f s d = putStnDisp d.ident x s)
    (l : List StationDecl) (s : State) : ∃ stns, l.foldl f s = { s with disp := { s.disp with stns := stns } } ∧
      ∀ id, id ∈ l.map (·.ident) ∨ P (stnDisp id s) → P (tgetD stns id {}) := by
  induction l generalizing s with
  | nil => exact ⟨s.disp.stns, rfl, fun id had => had.resolve_left List.not_mem_nil⟩
  | cons d l ih =>
    obtain ⟨x, holds, puts⟩ := puts s d
    obtain ⟨stns, rest, all⟩ := ih (f s d)
    refine ⟨stns, by rw [List.foldl_cons, rest, puts, putStnDisp], fun id had => all id ?_⟩
    rw [puts, stnDisp_putStnDisp]
    rw [List.map_cons, List.mem_cons, or_assoc] at had
    rcases had with first | later | before
    · exact .inr (by rw [if_pos first]; exact holds)
    · exact .inl later
    · exact .inr (by split <;> assumption)

/-! ## Quarter-hours -/

/-- A quarter-hour's readings and forecasts move on before the plan does, and touch nothing that tells its step (R231, R244). -/
theorem quarterStep_eq (s : State) : ∃ stns demand,
    quarterStep s = stepPlan { s with disp := { s.disp with quarter := qTime s / quarterNs, stns := stns, demand := demand } } := by
  unfold quarterStep
  dsimp only
  split
  · next same => exact ⟨s.disp.stns, s.disp.demand, by rw [same]⟩
  · obtain ⟨stns, closed, -⟩ := foldl_putStnDisp (P := fun _ => True) (f := endQuarter (qTime s / sec)) (fun _ _ => ⟨_, trivial, rfl⟩)
      (modelStns s) { s with disp := { s.disp with quarter := qTime s / quarterNs } }
    rw [closed]
    exact ⟨stns, _, rfl⟩

theorem stepPlan_moves (plan : s.disp.plan = some p) (inForce : s.disp.fallback = false) (past : s.disp.step ≠ stepNow p s) :
    stepPlan s = { s with disp := { s.disp with step := stepNow p s, toSend := (modelUnits s).map (·.mid) } } := by
  simp [stepPlan, plan, inForce, past]

theorem quarterStep_moves (plan : s.disp.plan = some p) (inForce : s.disp.fallback = false) (past : s.disp.step ≠ stepNow p s) :
    (quarterStep s).disp.step = stepNow p s ∧ (quarterStep s).disp.toSend = (modelUnits s).map (·.mid) ∧
      (quarterStep s).disp.quarter = qTime s / quarterNs := by
  obtain ⟨stns, demand, opened⟩ := quarterStep_eq s
  rw [opened, stepPlan_moves (by exact plan) (by exact inForce) (by exact past)]
  exact ⟨rfl, rfl, rfl⟩

/-- A plan of 60 min gives way to the fallback (R244, R253). -/
theorem planExpiry_fallsBack (planned : s.disp.plan.isSome = true) (inForce : s.disp.fallback = false) (old : 3600 * sec ≤ planAge s) :
    planExpiry s = { s with disp := { s.disp with fallback := true, toSend := (modelUnits s).map (·.mid) } } := by
  have held : s.disp.plan.isNone = false := Option.isNone_eq_false_iff.2 planned
  simp [planExpiry, held, inForce, old]

/-! ## The answers of the units -/

theorem areaOf_plantIn (low : u < 256) : areaOf (plantIn u) = plantIn u := by
  rw [areaOf, plantIn, if_neg (by omega), if_neg (by omega), if_pos (by omega)]
  omega

theorem inWord_setIn_same (i : Nat) (w : Word) (s : State) : inWord i (setIn i w s) = w := by
  simp only [inWord, setIn, putWord]
  split
  · next zero => rw [tgetD_tdel_same, zero]
  · exact tgetD_tput_same ..

theorem inWord_setIn_other {i j : Nat} (other : i ≠ j) (w : Word) (s : State) : inWord i (setIn j w s) = inWord i s := by
  simp only [inWord, setIn, putWord, tgetD]
  split
  · rw [tget_tdel_other other]
  · rw [tget_tput_other other]

/-- The acknowledgement stands in its channel's input area, with its time (R373). -/
theorem publishArea_plantIn (low : u < 256) (stamp : Nat) (ws : List Word) (s : State) :
    areaStamp (plantIn u) (publishArea (plantIn u) stamp ((List.range 4).map (fun i => ws.getD i 0)) s) = some stamp ∧
      inWord (plantIn u) (publishArea (plantIn u) stamp ((List.range 4).map (fun i => ws.getD i 0)) s) = ws.getD 0 0 := by
  constructor
  · rw [areaStamp, areaOf_plantIn low]
    exact tget_tput_same
  · have word (x : Tbl Nat) (t : State) : inWord (plantIn u) { t with cyc := { t.cyc with stamps := x } } = inWord (plantIn u) t := rfl
    simp [publishArea, List.range_succ, word, inWord_setIn_other, inWord_setIn_same]

/-- The acknowledgement of a unit is published before it answers the unit's command (R245, R373). -/
theorem plantAck_publishes (low : u < 256) (ws : List Word) (s : State) :
    areaStamp (plantIn u) (plantAck u ws s) = some s.tim.mon ∧ inWord (plantIn u) (plantAck u ws s) = ws.getD 0 0 := by
  have shown := publishArea_plantIn low s.tim.mon ws s
  unfold plantAck
  dsimp only
  split
  · rw [areaStamp, inWord, show (resolveCmd _ _ _ _).cyc = _ from (resolveCmd_within _ _ _ _).parts .cyc (by decide)]
    exact shown
  · exact shown

/-- A command found among those without an answer is one of the unit asked for. -/
theorem mid_of_outstanding {q : UnitCmd → Bool} {l : List UnitCmd} (found : l.find? (fun c => c.mid == mid && !c.ended && q c) = some cmd) :
    cmd.mid = mid := by
  have holds := List.find?_some found
  simp only [Bool.and_eq_true, beq_iff_eq] at holds
  exact holds.1.1

/-- A SET that is acknowledged with CODE 0 is what its unit has taken (R246). -/
theorem resolveCmd_sets (outstanding : s.disp.cmds.find? (fun c => c.mid == mid && !c.ended && (seq == none || seq == some c.seq)) = some cmd)
    (set : cmd.kind = 1) : tget (resolveCmd mid seq (some 0) s).disp.setW cmd.mid = some cmd.vals := by
  unfold resolveCmd
  simp only [outstanding, set, if_true]
  rw [settleCycle_setW]
  exact tget_tput_same

/-- A SET that is answered with another CODE, or not at all, freezes its unit in the next cycle (R246, R248). -/
theorem resolveCmd_freezes (outstanding : s.disp.cmds.find? (fun c => c.mid == mid && !c.ended && (seq == none || seq == some c.seq)) = some cmd)
    (set : cmd.kind = 1) (refused : code ≠ some 0) : cmd.mid ∈ (resolveCmd mid seq code s).disp.freeze := by
  unfold resolveCmd
  simp only [outstanding, set, if_true]
  rw [settleCycle_freeze, endSet, if_neg refused]
  exact mem_addOnce.2 (.inr rfl)

theorem plantAck_sets {ws : List Word} {bound : Nat × Nat} (channel : s.cfg.unitChan.find? (fun e => e.2 == u) = some bound)
    (outstanding : s.disp.cmds.find? (fun c => c.mid == bound.1 && !c.ended &&
      c.seq == (ws.getD 0 0).toNat + fld (ws.getD 1 0) 15 0 * 2 ^ 32) = some cmd)
    (set : cmd.kind = 1) (good : fld (ws.getD 1 0) 23 16 = 0) : tget (plantAck u ws s).disp.setW bound.1 = some cmd.vals := by
  have mid : cmd.mid = bound.1 := mid_of_outstanding outstanding
  generalize published : publishArea (plantIn u) s.tim.mon ((List.range 4).map (fun i => ws.getD i 0)) s = t
  have cfg : t.cfg = s.cfg := published ▸ (publishArea_within _ _ _ s).parts .cfg (by decide)
  have disp : t.disp = s.disp := published ▸ (publishArea_within _ _ _ s).parts .disp (by decide)
  have ends : plantAck u ws s = resolveCmd bound.1 (some ((ws.getD 0 0).toNat + fld (ws.getD 1 0) 15 0 * 2 ^ 32)) (some 0) t := by
    simp only [plantAck, published, cfg, channel, good]
  rw [ends, ← mid]
  have asked (n : Nat) (x : UnitCmd) : (some n == none || some n == some x.seq) = (x.seq == n) := by
    simpa using BEq.comm (a := n)
  refine resolveCmd_sets ?_ set
  simpa only [asked, disp, mid] using outstanding

/-- A SET without an answer when PLANT_ACK_MS has passed counts as refused (R246). -/
theorem plantAckTimeout_freezes
    (due : s.disp.cmds.find? (fun c => c.mid == mid && !c.ended && decide (c.first + ackNs s ≤ s.tim.mon)) = some cmd)
    (outstanding : s.disp.cmds.find? (fun c => c.mid == mid && !c.ended && (some cmd.seq == none || some cmd.seq == some c.seq)) = some cmd)
    (set : cmd.kind = 1) : mid ∈ (plantAckTimeout mid s).disp.freeze := by
  have mine : cmd.mid = mid := mid_of_outstanding due
  unfold plantAckTimeout
  simp only [due]
  rw [settleCycle_freeze]
  exact mine ▸ resolveCmd_freezes (mine ▸ outstanding) set (by simp)

/-! ## The end of a LEG day -/

/-- The end of a day counts a station's readings anew (R78). -/
theorem endDay_puts (ok : Bool) (s : State) (d : StationDecl) : ∃ x, x.dayN = 0 ∧ endDay ok s d = putStnDisp d.ident x s := by
  unfold endDay
  dsimp only
  split <;> exact ⟨_, rfl, rfl⟩

/-- A day that ends on a valid LEG begins the next one, with no reading counted in it. -/
theorem legMidnight_leaves (valid : s.tim.legValid = true) (past : legSec s / 86400 ≠ s.disp.day) : (legMidnight s).disp.dayLegOk = true ∧
    (legMidnight s).disp.day = legSec s / 86400 ∧ ∀ d, d ∈ modelStns s → (stnDisp d.ident (legMidnight s)).dayN = 0 := by
  obtain ⟨stns, ended, anew⟩ := foldl_putStnDisp (P := fun x => x.dayN = 0) (endDay_puts s.disp.dayLegOk) (modelStns s)
    { s with disp := { s.disp with day := legSec s / 86400 } }
  have running : ¬(!s.tim.legValid || legSec s / 86400 == s.disp.day) = true := by simp [valid, past]
  unfold legMidnight
  rw [if_neg running]
  simp only [ended, stnDisp, deliver_disp]
  exact ⟨valid, trivial, fun d declared => anew d.ident (.inl (List.mem_map_of_mem declared))⟩

/-! ## The operations -/

/-- A parameter inside its range and on the right side of the other one is set at once without a peer (R258, R259). -/
theorem setParam_alone {row : Nat × Nat × Nat × Nat} (alone : duplex s = false) (known : dispParams.find? (fun p => p.1 == id) = some row)
    (low : row.2.1 ≤ v) (high : v ≤ row.2.2.1) (above : id = 1 → paramSet 2 s < v) (below : id = 2 → v < paramSet 1 s) (r : Req) :
    setParam r id v s = complete r 0 0 8 [] (applyParam id v s) := by
  have apart : ¬((id = 1 ∧ v ≤ paramSet 2 s) ∨ (id = 2 ∧ paramSet 1 s ≤ v)) := by
    rintro (⟨one, least⟩ | ⟨two, most⟩)
    · have := above one; omega
    · have := below two; omega
  simp [setParam, refuses_alone s alone, known, within, low, high, apart, viaPeer_alone _ _ _ _ _ alone]

/-- Whether the module is of a pair is told by its registers, and counting a host read leaves them. -/
theorem duplex_counted (n : Nat) (s : State) : duplex (bwAdd 4 0 n (pmcAdd 0x90 n s)) = duplex s := by simp [duplex, slotId, getB, getF]

/-- A series of the right form goes to its operation (R258). -/
theorem pushOp_asked {go : Bytes → Nat → Nat → State → State} (asked : Buffered r op b s) (alone : duplex s = false) (start : leAt b 0 8 % 900 = 0)
    (filled : 1 ≤ leAt b 12 4) (few : leAt b 12 4 ≤ 192) (whole : b.length = 16 + row * leAt b 12 4) :
    pushOp r op row b go s = go b (leAt b 0 8) (leAt b 12 4) (bwAdd 4 0 b.length (pmcAdd 0x90 b.length s)) := by
  obtain ⟨c, held, reads⟩ := asked
  obtain ⟨outside, length, -⟩ := id reads
  have alone' : duplex (bwAdd 4 0 b.length (pmcAdd 0x90 b.length s)) = false := (duplex_counted _ s).trans alone
  have length' : c.desc.length = 16 + row * leAt b 12 4 := length.trans whole
  rw [pushOp, withOp_reads held reads]
  generalize bwAdd 4 0 b.length (pmcAdd 0x90 b.length s) = t at alone' ⊢
  simp [refuses_alone t alone', outside, start, within, filled, few, length']

theorem pricePush_alone (alone : duplex s = false) (low : 1 ≤ leAt b 8 1) (high : leAt b 8 1 ≤ 4) (r : Req) (start n : Nat) :
    pricePush r b start n s =
      complete r 0 0 (16 + 4 * n) [] (applyPrice start (leAt b 8 1) ((List.range n).map (fun i => leSAt b (16 + 4 * i) 4)) s) := by
  simp [pricePush, within, low, high, viaPeer_alone _ _ _ _ _ alone]

theorem weatherPush_alone (alone : duplex s = false) (r : Req) (b : Bytes) (start n : Nat) :
    weatherPush r b start n s = complete r 0 0 (16 + 8 * n) []
      (applyWeather start ((List.range n).map (fun i => (leSAt b (16 + 8 * i) 4, leAt b (20 + 8 * i) 4))) s) :=
  viaPeer_alone _ _ _ _ _ alone

theorem forceCycle_alone (alone : duplex s = false) (r : Req) : forceCycle r 0 s = complete r 0 0 4 [] (applyForce s) := by
  simp [forceCycle, refuses_alone s alone, viaPeer_alone _ _ _ _ _ alone]

theorem unitModeOp_alone (alone : duplex s = false) (known : (unitDecl mid s).isSome = true) (inRange : mode ≤ 2) (r : Req) :
    unitModeOp r mid mode s = complete r 0 0 8 [] (applyUnitMode mid mode s) := by
  have declared : (unitDecl mid s).isNone = false := Option.isNone_eq_false_iff.2 known
  simp [unitModeOp, refuses_alone s alone, declared, Nat.not_lt.2 inRange, viaPeer_alone _ _ _ _ _ alone]

end Dispatch

/-- Settles O24: the commands that fall due first, then the operations of a module without a peer. -/
theorem dispatchCommandsComplete : Obligations.DispatchCommandsComplete := by
  unfold Obligations.DispatchCommandsComplete
  refine ⟨?solve, ?quarter, ?age, ?publishes, ?sets, ?timeout, ?midnight, ?param, ?price, ?weather, ?force, ?mode⟩
  case solve => exact fun s c e on solving ended => does_run rfl on (solveComplete_leaves solving ended)
  case quarter => exact fun s p on plan inForce past => does_run rfl on (quarterStep_moves plan inForce past)
  case age => exact fun s on planned inForce old => does_run rfl on (by rw [planExpiry_fallsBack planned inForce old]; exact ⟨rfl, rfl⟩)
  case publishes => exact fun s u ws on low => does_run rfl on (plantAck_publishes low ws s)
  case sets => exact fun s u ws e c on channel outstanding set good => does_run rfl on (plantAck_sets channel outstanding set good)
  case timeout => exact fun s mid c on due outstanding set => does_run rfl on (plantAckTimeout_freezes due outstanding set)
  case midnight => exact fun s on valid past => does_run rfl on (legMidnight_leaves valid past)
  case param =>
    rintro s r b _ _ p on asked rfl rfl alone known low high above below
    refine does_run rfl on ?_
    rw [inlineOp_asked asked, setParam_alone alone known low high above below, complete_disp]
    exact ⟨tget_tput_same, complete_mem ..⟩
  case price =>
    rintro s r b _ _ on asked alone start rfl low high rfl filled few whole
    refine does_run rfl on ?_
    rw [pushOp_asked asked alone start filled few whole, pricePush_alone ((duplex_counted _ s).trans alone) low high, complete_disp]
    exact ⟨by rw [applyPrice, tgetD_tput_same, List.head?_cons], complete_mem ..⟩
  case weather =>
    rintro s r b _ on asked alone start rfl filled few whole
    refine does_run rfl on ?_
    rw [pushOp_asked asked alone start filled few whole, weatherPush_alone ((duplex_counted _ s).trans alone), complete_disp]
    exact ⟨rfl, complete_mem ..⟩
  case force =>
    rintro s r b on asked zero alone
    refine does_run rfl on ?_
    rw [inlineOp_asked asked, zero, forceCycle_alone alone, complete_disp]
    exact ⟨rfl, complete_mem ..⟩
  case mode =>
    rintro s r b _ _ on asked rfl rfl alone known mode
    refine does_run rfl on ?_
    rw [inlineOp_asked asked, unitModeOp_alone alone known mode, complete_disp]
    exact ⟨tget_tput_same, complete_mem ..⟩

end Sys2Proof.Machine
end

section
/-!
PROOFS. The loop engine (R260 to R279): a sample is a matter of its own loop, which it leaves sampled at the present MON, and what its operations on a
module without a peer leave of a loop or a trace unit.
-/
namespace Sys2Proof.Machine

section LoopEngine
open Keeps
variable {c : LoopRec} {k : CoefRec} {n m mode u mask : Nat} {s t : State}

/-! ## Loops and trace units -/

@[simp] theorem loop_putLoop_same (n : Nat) (l : LoopSt) (s : State) : loop n (putLoop n l s) = l := tgetD_tput_same ..

theorem loop_putLoop_other (other : m ≠ n) (l : LoopSt) (s : State) : loop m (putLoop n l s) = loop m s := by
  rw [loop, putLoop, tgetD, tget_tput_other other, ← tgetD, ← loop]

@[simp] theorem trace_putTrace_same (u : Nat) (x : TraceSt) (s : State) : trace u (putTrace u x s) = x := tgetD_tput_same ..

theorem trace_putTrace_other {v : Nat} (other : u ≠ v) (x : TraceSt) (s : State) : trace u (putTrace v x s) = trace u s := by
  rw [trace, putTrace, tgetD, tget_tput_other other, ← tgetD, ← trace]

theorem loop_of_lpe (lpe : t.lpe = s.lpe) (n : Nat) : loop n t = loop n s := by rw [loop, lpe, loop]

theorem trace_of_lpe (lpe : t.lpe = s.lpe) (u : Nat) : trace u t = trace u s := by rw [trace, lpe, trace]

/-! ## A sample leaves the other loops (R261) -/

/-- What the engine holds of a loop. -/
def LoopHolds (n : Nat) (l : LoopSt) (s : State) : Prop := loop n s = l

/-- An operation that leaves the loop engine leaves its loops. -/
theorem loop_kept {ps : List Part} {rs : Option (List Nat)} (w : Within ps rs s t) (out : .lpe ∉ ps := by decide) : Keeps (LoopHolds m) s t :=
  fun _ held => (loop_of_lpe (w.parts .lpe out) m).trans held

theorem putLoop_keeps (other : m ≠ n) (l : LoopSt) (s : State) : Keeps (LoopHolds m) s (putLoop n l s) :=
  fun _ held => (loop_putLoop_other other l s).trans held

theorem putTrace_keeps (u : Nat) (x : TraceSt) (s : State) : Keeps (LoopHolds m) s (putTrace u x s) := fun _ => id

theorem takeMode_keeps (other : m ≠ n) (s : State) : Keeps (LoopHolds m) s (takeMode n s) := by
  unfold takeMode
  dsimp only
  split
  · exact refl
  · exact (foldl (fun t r _ => loop_kept (complete_within r 0 0 8 [] t)) _).after (putLoop_keeps other _ s)

theorem takeHold_keeps (other : m ≠ n) (x : LoopIn) (s : State) : Keeps (LoopHolds m) s (takeHold n x s) := by
  unfold takeHold
  refine ite (putLoop_keeps other _ s) (ite (ite (putLoop_keeps other _ s) refl) (ite refl ?_))
  exact (loop_kept (pmcAdd_within _ _ _)).after <| (loop_kept (incReg_within _ _ _)).after <| (loop_kept (evt_within _ _ _ _)).after <|
    putLoop_keeps other _ s

theorem takeSwap_keeps (other : m ≠ n) (saturated : Bool) (s : State) : Keeps (LoopHolds m) s (takeSwap n saturated s) := by
  have counts (changed : LoopSt) : Keeps (LoopHolds m) s (pmcAdd 0x2F 1 (incReg 0x1C00C 1 (putLoop n changed s))) :=
    (loop_kept (pmcAdd_within _ _ _)).after <| (loop_kept (incReg_within _ _ _)).after (putLoop_keeps other changed s)
  unfold takeSwap
  dsimp only
  split
  · exact refl
  · split
    · exact (loop_kept (complete_within _ _ _ _ _ _)).after (opt (counts _) (loop_kept (incReg_within _ _ _)))
    · exact opt (counts _) (loop_kept (incReg_within _ _ _))

theorem writeLoop_keeps (n : Nat) (s : State) : Keeps (LoopHolds m) s (writeLoop n s) := loop_kept (writeLoop_within n s)

/-- The loop's new state goes to its output word too. -/
theorem writeLoop_putLoop_keeps (other : m ≠ n) (l : LoopSt) (s : State) : Keeps (LoopHolds m) s (writeLoop n (putLoop n l s)) :=
  (writeLoop_keeps n _).after (putLoop_keeps other l s)

theorem computeLoop_keeps (other : m ≠ n) (x : LoopIn) (s : State) : Keeps (LoopHolds m) s (computeLoop n x s) := by
  have swaps (saturated : Bool) (t : State) : Keeps (LoopHolds m) t (takeSwap n saturated t) := takeSwap_keeps other saturated t
  unfold computeLoop
  dsimp only
  split
  · exact refl
  · refine ite (swaps false s) (ite ?manual (ite ?hold (ite ?track ?law)))
    case manual => exact (writeLoop_putLoop_keeps other _ _).after (swaps false s)
    case hold => exact (putLoop_keeps other _ _).after (swaps false s)
    case track =>
      split
      · exact (writeLoop_putLoop_keeps other _ _).after (swaps false s)
      · exact swaps false s
    case law =>
      split
      · exact (writeLoop_putLoop_keeps other _ _).after <| (swaps _ _).after (putLoop_keeps other _ s)
      · exact writeLoop_putLoop_keeps other _ s

theorem traceStep_keeps (n : Nat) (before : LoopSt) (s : State) (u : Nat) : Keeps (LoopHolds m) s (traceStep n before s u) := by
  unfold traceStep
  dsimp only
  split
  · exact refl
  · refine ite refl (ite (putTrace_keeps _ _ s) (opt ?_ ?_))
    · exact (loop_kept (pmcAdd_within _ _ _)).after (putTrace_keeps _ _ s)
    · exact (putTrace_keeps _ _ _).after (loop_kept (deliver_within _ _ _))

/-! ## A sample notes its time (R260) -/

/-- The state with a loop's sample computed and its time noted; the counters and the traces follow. -/
def computedLoop (n : Nat) (x : LoopIn) (s : State) : State :=
  let t := computeLoop n x (takeHold n x (takeMode n s))
  putLoop n { loop n t with last := t.tim.mon } t

/-- What follows the computation of a sample leaves every loop. -/
theorem sampleLoop_after (s : State) (x : Nat × LoopIn) : Keeps (LoopHolds m) (computedLoop x.1 x.2 s) (sampleLoop s x) := by
  unfold sampleLoop computedLoop
  dsimp only
  exact (foldl (fun t u _ => traceStep_keeps _ _ t u) _).after <| opt (opt (loop_kept (pmcAdd_within _ _ _)) (loop_kept (pmcAdd_within _ _ _)))
    (loop_kept (pmcAdd_within _ _ _))

theorem sampleLoop_keeps {x : Nat × LoopIn} (other : m ≠ x.1) (s : State) : Keeps (LoopHolds m) s (sampleLoop s x) :=
  (sampleLoop_after s x).after <| (putLoop_keeps other _ _).after <| (computeLoop_keeps other _ _).after <| (takeHold_keeps other _ _).after <|
    takeMode_keeps other s

/-- The loop's last sample is at the present MON. -/
def SampledNow (n : Nat) (s : State) : Prop := (loop n s).last = s.tim.mon

theorem sampleLoop_tim (s : State) (x : Nat × LoopIn) : (sampleLoop s x).tim = s.tim := (sampleLoop_within s x).parts .tim (by decide)

theorem computeLoop_tim (n : Nat) (x : LoopIn) (s : State) : (computeLoop n x (takeHold n x (takeMode n s))).tim = s.tim :=
  ((computeLoop_within n x _).parts .tim (by decide)).trans <| ((takeHold_within n x _).parts .tim (by decide)).trans <|
    (takeMode_within n s).parts .tim (by decide)

theorem sampleLoop_sampledNow (s : State) (x : Nat × LoopIn) : SampledNow x.1 (sampleLoop s x) := by
  have computed : loop x.1 (sampleLoop s x) = loop x.1 (computedLoop x.1 x.2 s) := sampleLoop_after s x _ rfl
  rw [SampledNow, computed, computedLoop, loop_putLoop_same, sampleLoop_tim, computeLoop_tim]

theorem sampledNow_stays (s : State) (x : Nat × LoopIn) (now : SampledNow n s) : SampledNow n (sampleLoop s x) := by
  by_cases own : n = x.1
  · exact own ▸ sampleLoop_sampledNow s x
  · have held : loop n (sampleLoop s x) = loop n s := sampleLoop_keeps own s _ rfl
    rw [SampledNow, held, sampleLoop_tim, now]

theorem baseTick_tim (s : State) : (baseTick s).tim = s.tim := (baseTick_within s).parts .tim (by decide)

/-- A base tick samples every loop that is due (R260, R261). -/
theorem baseTick_sampledNow (starts : started s = true) (runs : s.start.blkRst.contains .lpe = false)
    (tick : onMultiple (baseUs s * 1000) s.lpe.tickAt s.tim.mon = true) (due : n ∈ dueLoops (s.tim.mon / (baseUs s * 1000)) s) :
    SampledNow n (baseTick s) := by
  rw [baseTick, if_neg (by rw [starts, runs, tick]; decide)]
  exact foldl_brings (List.mem_map.2 ⟨n, due, rfl⟩) (fun t => sampleLoop_sampledNow t _) sampledNow_stays _

/-! ## The operations on a loop -/

/-- The counters of host reads, which an operation with a buffer moves, are no part of the loop engine. -/
theorem lpe_counted (len : Nat) (s : State) : (bwAdd 4 0 len (pmcAdd 0x90 len s)).lpe = s.lpe := by simp

theorem midOk_counted (len : Nat) (w : Binding) (s : State) : midOk w (bwAdd 4 0 len (pmcAdd 0x90 len s)) = midOk w s := by
  simp [midOk, estMid]

theorem coefBad_counted (len : Nat) (k : CoefRec) (s : State) : coefBad k (bwAdd 4 0 len (pmcAdd 0x90 len s)) = coefBad k s := by
  have period (c : LoopRec) : periodUs c (bwAdd 4 0 len (pmcAdd 0x90 len s)) = periodUs c s := by
    simp only [periodUs, baseUs, getF, getReg_bwAdd, getReg_pmcAdd]
  unfold coefBad
  rw [loop_of_lpe (lpe_counted len s)]
  simp only [period]

theorem viaPeerLate_alone (alone : duplex s = false) (r : Req) (op : FwdOp) (len : Nat) (apply : State → State) :
    viaPeerLate r op len apply s = apply s := by simp [viaPeerLate, alone]

theorem loopConfig_alone (alone : duplex s = false) (good : loopRecBad c = none) (off : (loop c.loop s).mode = 0)
    (known : [c.pv, c.sp, c.ff1, c.ff2].all (fun w => midOk w s) = true) (outer : c.out.kind = 0) (r : Req) :
    loopConfig r c s = complete r 0 0 96 [] (applyLoopConfig c s) := by
  simp [loopConfig, refuses_alone s alone, good, off, known, outer, viaPeer_alone _ _ _ _ _ alone]

theorem loop_applyLoopConfig (c : LoopRec) (s : State) : loop c.loop (applyLoopConfig c s) =
    { loop c.loop s with struct := some c, spLocal := c.spLocal, spU := c.spLocal * 1000000, spDisp := none } := loop_putLoop_same ..

/-- A coefficient record alone is written at once (R272). -/
theorem loopCoef_writes (alone : duplex s = false) (good : coefBad k s = none) (free : (loop k.loop s).swap = none) (stay : k.swap = false) (r : Req) :
    loopCoef r k s = complete r 0 0 48 [] (applyLoopCoef k none s) := by
  simp [loopCoef, refuses_alone s alone, good, free, stay, viaPeer_alone _ _ _ _ _ alone]

/-- A coefficient record with SWAP ends with its swap (R272). -/
theorem loopCoef_swaps (alone : duplex s = false) (good : coefBad k s = none) (free : (loop k.loop s).swap = none) (swap : k.swap = true) (r : Req) :
    loopCoef r k s = applyLoopCoef k (some r) s := by
  simp [loopCoef, refuses_alone s alone, good, free, swap, viaPeerLate_alone alone]

/-- A coefficient record fills the bank that is not active, and asks for its swap where its SWAP says so. -/
theorem loop_applyLoopCoef (k : CoefRec) (req : Option Req) (s : State) : otherBank (loop k.loop (applyLoopCoef k req s)) = some k ∧
    (loop k.loop (applyLoopCoef k req s)).useB = (loop k.loop s).useB ∧
    (k.swap = true → (loop k.loop (applyLoopCoef k req s)).swap = some { req := req, len := 48 }) := by
  rw [applyLoopCoef, loop_putLoop_same]
  cases active : (loop k.loop s).useB <;> cases swap : k.swap <;> simp [otherBank]

theorem loopSwap_alone (alone : duplex s = false) (low : n < 512) (free : (loop n s).swap = none) (filled : (otherBank (loop n s)).isSome = true)
    (known : (loop n s).struct.isSome = true) (r : Req) : loopSwap r n s = applyLoopSwap n (some r) s := by
  have filled' := Option.isNone_eq_false_iff.2 filled
  have known' := Option.isNone_eq_false_iff.2 known
  simp [loopSwap, refuses_alone s alone, Nat.not_le.2 low, free, filled', known', viaPeerLate_alone alone]

theorem loopMode_alone (alone : duplex s = false) (low : n < 512) (known : (loop n s).struct.isSome = true) (inRange : mode < 4)
    (chained : mode ≠ 3 ∨ cascadeOk n s = true) (manout : Option Int) (r : Req) :
    loopMode r n mode manout s = applyLoopMode n mode manout (some r) s := by
  have known' := Option.isNone_eq_false_iff.2 known
  have accepted : ¬(mode = 3 ∧ (!cascadeOk n s) = true) := by
    rintro ⟨cascade, broken⟩
    rcases chained with plain | ok
    · exact plain cascade
    · simp [ok] at broken
  rw [loopMode, if_neg (by simp [refuses_alone s alone]), if_neg (by simp [known', low]), if_neg (Nat.not_le.2 inRange), if_neg accepted,
    viaPeerLate_alone alone]

theorem loopSetsp_alone (alone : duplex s = false) (low : n < 512) (known : (loop n s).struct = some c) (own : c.sp.kind = 0) (v : Int) (r : Req) :
    loopSetsp r n v s = complete r 0 0 8 [] (applySetsp n v s) := by
  simp [loopSetsp, refuses_alone s alone, Nat.not_le.2 low, known, own, viaPeer_alone _ _ _ _ _ alone]

theorem loopState_answers {len : Nat} (room : 64 ≤ len) (low : n < 512) (r : Req) (s : State) :
    loopState r n len s = complete r (if (loop n s).hold ≠ 0 then 0x50 else 0) 0 64 (loopStateRec n s) s := by
  rw [loopState, if_neg (Nat.not_lt.2 room), if_neg (Nat.not_le.2 low)]

/-! ## The trace units (R279) -/

theorem traceCfg_sets {c : TraceRec} (unit : c.unit < 8) (trigger : c.trigger < 6) (low : c.loop < 512) (nodes : 0 < c.nodes) (depth : 0 < c.depth)
    (deep : c.depth ≤ 65536) (pre : c.pre < c.depth) (least : 1 ≤ c.decim) (most : c.decim ≤ 1000) (idle : (trace c.unit s).armed = false) (r : Req) :
    traceCfg r c s = complete r 0 0 32 [] (putTrace c.unit { cfg := some c } s) := by
  simp [traceCfg, within, idle, least, most, Nat.not_le.2 unit, Nat.not_le.2 trigger, Nat.not_le.2 low, Nat.not_lt.2 deep, Nat.not_le.2 pre, depth.ne',
    nodes.ne']

/-- The eight units together use no more of the store than eight times the most that one uses. -/
theorem usedWords_le {k : Nat} (each : ∀ u, traceWords u s ≤ k) (q : Nat → Bool) :
    (((List.range 8).filter q).map (fun u => traceWords u s)).foldl (· + ·) 0 ≤ 8 * k := by
  calc _ = (((List.range 8).filter q).map (fun u => traceWords u s)).sum := List.sum_eq_foldl.symm
    _ ≤ (((List.range 8).filter q).map (fun u => traceWords u s)).length * k :=
      List.sum_le_card_nsmul _ k (List.forall_mem_map.2 fun u _ => each u)
    _ ≤ 8 * k := Nat.mul_le_mul_right k (by simpa using List.length_filter_le q (List.range 8))

/-- The state with a set-up unit armed and waiting for its trigger. -/
def armTrace (s : State) (u : Nat) : State := putTrace u { cfg := (trace u s).cfg, armed := true } s

theorem armTrace_arms (s : State) (u : Nat) : (trace u (armTrace s u)).armed = true := by rw [armTrace, trace_putTrace_same]

theorem armTrace_stays (s : State) (v : Nat) (armed : (trace u s).armed = true) : (trace u (armTrace s v)).armed = true := by
  by_cases own : u = v
  · exact own ▸ armTrace_arms s u
  · rw [armTrace, trace_putTrace_other own, armed]

/-- A unit that the mask names and that has a set-up is armed, where the store is large enough for all (R279). -/
theorem traceArm_arms (low : mask < 256) (small : ∀ v, traceWords v s ≤ 32768) (unit : u < 8) (named : mask / 2 ^ u % 2 = 1)
    (ready : (trace u s).cfg.isSome = true) (r : Req) : ∃ t, traceArm r mask s = complete r 0 0 4 [] t ∧ (trace u t).armed = true := by
  rw [traceArm, if_neg (Nat.not_le.2 low)]
  dsimp only
  rw [if_neg (Nat.not_lt.2 (usedWords_le small _))]
  exact ⟨_, rfl, foldl_brings (P := fun t => (trace u t).armed = true) (by simp [unit, named, ready]) (armTrace_arms · u) armTrace_stays s⟩

end LoopEngine

/-- Settles O23: the tick first, then the operations of a module without a peer and those on the trace units. -/
theorem loopCommandsComplete : Obligations.LoopCommandsComplete := by
  unfold Obligations.LoopCommandsComplete
  refine ⟨?tick, ?config, ?coef, ?coefSwap, ?swap, ?mode, ?setsp, ?state, ?traceCfg, ?traceArm⟩
  case tick =>
    intro s n on starts runs tick due
    refine does_run rfl on ?_
    rw [baseTick_sampledNow starts runs tick due, baseTick_tim]
  case config =>
    rintro s r b _ on asked length rfl alone good off known outer
    refine does_run rfl on ?_
    simp only [← midOk_counted 96 _ s] at known
    rw [recordOp_asked asked length, loopConfig_alone ((duplex_counted 96 s).trans alone) good (by rwa [loop_of_lpe (lpe_counted 96 s)]) known outer,
      loop_of_lpe (complete_lpe ..), loop_applyLoopConfig]
    exact ⟨rfl, rfl, complete_mem ..⟩
  case coef =>
    rintro s r b _ on asked length rfl alone good free stay
    refine does_run rfl on ?_
    have loops := loop_of_lpe (lpe_counted 48 s)
    rw [recordOp_asked asked length, loopCoef_writes ((duplex_counted 48 s).trans alone) ((coefBad_counted 48 _ s).trans good)
      (by rwa [loops]) stay, loop_of_lpe (complete_lpe ..), ← loops]
    obtain ⟨written, active, -⟩ := loop_applyLoopCoef (coefRecOf b) none (bwAdd 4 0 48 (pmcAdd 0x90 48 s))
    exact ⟨written, active, complete_mem ..⟩
  case coefSwap =>
    rintro s r b _ on asked length rfl alone good free swap
    refine does_run rfl on ?_
    rw [recordOp_asked asked length, loopCoef_swaps ((duplex_counted 48 s).trans alone) ((coefBad_counted 48 _ s).trans good)
      (by rwa [loop_of_lpe (lpe_counted 48 s)]) swap]
    obtain ⟨written, -, waits⟩ := loop_applyLoopCoef (coefRecOf b) (some r) (bwAdd 4 0 48 (pmcAdd 0x90 48 s))
    exact ⟨written, waits swap⟩
  case swap =>
    rintro s r b _ on asked rfl alone low free filled known
    refine does_run rfl on ?_
    rw [inlineOp_asked asked, loopSwap_alone alone low free filled known, applyLoopSwap, loop_putLoop_same]
  case mode =>
    rintro s r b _ _ on asked rfl rfl alone low known inRange chained
    refine does_run rfl on ?_
    rw [inlineOp_asked asked, loopMode_alone alone low known inRange chained, applyLoopMode, loop_putLoop_same]
    exact ⟨rfl, rfl⟩
  case setsp =>
    rintro s r b _ c _ on asked rfl rfl alone low known own
    refine does_run rfl on ?_
    rw [inlineOp_asked asked, loopSetsp_alone alone low known own, loop_of_lpe (complete_lpe ..), applySetsp, loop_putLoop_same]
    exact ⟨rfl, complete_mem ..⟩
  case state =>
    rintro s r c _ on held buffered room rfl low
    refine does_run rfl on ?_
    rw [withOp_none held, if_neg (by simp [buffered]), loopState_answers room low]
    exact complete_mem ..
  case traceCfg =>
    rintro s r b _ on asked rfl unit trigger low nodes depth deep pre least most idle
    refine does_run rfl on ?_
    rw [inlineOp_asked asked, traceCfg_sets unit trigger low nodes depth deep pre least most idle, trace_of_lpe (complete_lpe ..), trace_putTrace_same]
    exact ⟨rfl, complete_mem ..⟩
  case traceArm =>
    rintro s r b _ u on asked rfl low small unit named ready
    refine does_run rfl on ?_
    obtain ⟨t, answers, armed⟩ := traceArm_arms low small unit named ready r
    rw [inlineOp_asked asked, answers, trace_of_lpe (complete_lpe ..)]
    exact ⟨armed, complete_mem ..⟩

end Sys2Proof.Machine
end

section
/-!
PROOFS. Every command and every step: a next state is answered, the queue's rest is left, the register file keeps its canonical form, what has left the
module and the free values drawn stay, and the module's own claim never falls (R395). Each command takes this from the operation it runs.
-/
set_option Elab.async false
namespace Sys2Proof.Machine

/-! ## Lawful operations -/

/-- All parts of the state: a frame with this list says of the parts nothing, and of the queue, the register file's form, the outputs and the free
values what `Within` says. -/
def everyPart : List Part :=
  [.cfg, .hif, .pwr, .start, .fco, .evr, .pmc, .dup, .tim, .kst, .model, .rnd, .chu, .sep, .ctr, .disp, .lpe, .tly, .cyc, .fio, .upd, .out, .free]

theorem mem_everyPart (p : Part) : p ∈ everyPart := by cases p <;> decide

/-- What every command leaves of a state, whatever it does. -/
def Lawfully (s t : State) : Prop := Within everyPart none s t ∧ Claims s t

/-- An operation that leaves every state lawfully. -/
def Lawful (f : State → State) : Prop := ∀ s, Lawfully s (f s)

theorem Within.every {ps : List Part} {rs : Option (List Nat)} {s t : State} (w : Within ps rs s t) : Within everyPart none s t :=
  w.mono (List.all_eq_true.2 fun p _ => List.contains_iff_mem.2 (mem_everyPart p)) (by cases rs <;> trivial)

namespace Lawful
variable {f g : State → State} {ps : List Part} {rs : Option (List Nat)} {r : Req}

theorem of (w : ∀ s, Within ps rs s (f s)) (c : ∀ s, Claims s (f s)) : Lawful f := fun s => ⟨(w s).every, c s⟩

/-- An operation outside the duplex state cannot lower the claim. -/
theorem quiet (w : ∀ s, Within ps rs s (f s)) (h : ps.contains .dup = false := by decide) : Lawful f := .of w fun s => .of_within (w s) h

theorem id : Lawful id := fun _ => ⟨.refl, .refl⟩

theorem comp (hf : Lawful f) (hg : Lawful g) : Lawful fun s => g (f s) := fun s => ⟨(hf s).1.trans (hg _).1, (hf s).2.trans (hg _).2⟩

theorem ite {c : State → Prop} [∀ s, Decidable (c s)] (hf : Lawful f) (hg : Lawful g) : Lawful fun s => if c s then f s else g s := fun s => by
  dsimp only
  split
  · exact hf s
  · exact hg s

/-- One operation or the other, chosen before the state is looked at. -/
theorem choice {c : Prop} [Decidable c] (hf : Lawful f) (hg : Lawful g) : Lawful (if c then f else g) := by split <;> assumption

theorem within (h : Lawful f) (s t : State) (k : Within everyPart none s t) : Within everyPart none s (f t) := k.trans (h t).1
theorem claims (h : Lawful f) (s t : State) (k : Claims s t) : Claims s (f t) := k.trans (h t).2

theorem withOp {ops : List Nat} {buf : Option Bytes} {f : Desc → Bytes → State → State} (h : ∀ d b, Lawful (f d b)) : Lawful (withOp r ops buf f) :=
  fun s => ⟨withOp_within (by decide) trivial (fun d b => (h d b).within s) .refl, withOp_claims (fun d b => (h d b).claims s) .refl⟩

theorem inlineOp {op len : Nat} {f : Bytes → State → State} (h : ∀ b, Lawful (f b)) : Lawful (inlineOp r op len f) :=
  fun s => ⟨inlineOp_within (by decide) trivial (fun b => (h b).within s) .refl, inlineOp_claims (fun b => (h b).claims s) .refl⟩

theorem recordOp {op len : Nat} {buf : Bytes} {f : Bytes → State → State} (h : ∀ b, Lawful (f b)) : Lawful (recordOp r op len buf f) :=
  fun s => ⟨recordOp_within (by decide) trivial (fun b => (h b).within s) .refl, recordOp_claims (fun b => (h b).claims s) .refl⟩

theorem scopeOp {scope : Nat} {f : Bytes → State → State} (h : ∀ b, Lawful (f b)) : Lawful (scopeOp scope r f) :=
  fun s => ⟨scopeOp_within (by decide) trivial (fun b => (h b).within s) .refl, scopeOp_claims (fun b => (h b).claims s) .refl⟩

theorem pushOp {op row : Nat} {buf : Bytes} {go : Bytes → Nat → Nat → State → State} (h : ∀ b a n, Lawful (go b a n)) :
    Lawful (pushOp r op row buf go) :=
  fun s => ⟨pushOp_within (by decide) trivial (fun b a n => (h b a n).within s) .refl, pushOp_claims (fun b a n => (h b a n).claims s) .refl⟩

theorem morOp {action : Nat} {f : Req → State → State} (h : Lawful (f r)) : Lawful (morOp action f r) :=
  fun s => ⟨morOp_within (by decide) trivial (h.within s) .refl, morOp_claims (h.claims s) .refl⟩

theorem changeOf {f : BitVec 64 → Nat → Nat → State → State} {b : Bytes} (h : ∀ i k v, Lawful (f i k v)) : Lawful (changeOf f b) :=
  fun s => ⟨changeOf_within (fun i k v => (h i k v).within s) .refl, changeOf_claims (fun i k v => (h i k v).claims s) .refl⟩

theorem readBy {who : Requester} (h : Lawful f) : Lawful (readBy who f) :=
  fun s => ⟨readBy_within (by decide) trivial (h.within s) .refl, readBy_claims (h.claims s) .refl⟩

theorem writeBy {who : Requester} (h : Lawful f) : Lawful (writeBy who f) :=
  fun s => ⟨writeBy_within (by decide) trivial (h.within s) .refl, writeBy_claims (h.claims s) .refl⟩

/-- A command that needs the rails, and one that does not, leave what their operations leave. -/
theorem run (h : Lawful f) (s : State) : ∃ t, run f s = .next t ∧ Lawfully s t :=
  ⟨_, rfl, Lawful.ite (c := fun s => s.pwr.on = true) h .id s⟩
theorem next (h : Lawful f) (s : State) : ∃ t, (.next (f s) : Host.Outcome State Fault Refusal) = .next t ∧ Lawfully s t := ⟨_, rfl, h s⟩

end Lawful

theorem setB_lawful (a i : Nat) (b : Bool) : Lawful (setB a i b) := .quiet (setB_within a i b)

theorem regWrite_lawful (a : Nat) (v : Word) : Lawful (regWrite a v) := .of (regWrite_within a v) (regWrite_claims a v)

theorem flatWrite_lawful : Lawful flatWrite := fun s => regWrite_lawful 0x14000 _ s
theorem rebuildWrite_lawful : Lawful rebuildWrite := fun s => regWrite_lawful 0x18000 _ s
theorem snapWrite_lawful : Lawful snapWrite := fun s => regWrite_lawful 0x0C000 _ s
theorem clearWrite_lawful : Lawful clearWrite := fun s => regWrite_lawful 0x0C000 _ s

theorem powerOn_lawful (cause : PorCause) (p : PorIn) : Lawful (powerOn cause p) := .of (powerOn_within cause p) (powerOn_claims cause p)

theorem noteSupply_lawful : Lawful fun s => { s with pwr := { s.pwr with presentAt := s.tim.mon } } :=
  .quiet fun s => Within.upd (ps := [.pwr]) (rs := some []) (t := s) rfl .refl

theorem wakeCan_complete_lawful (c cause : Nat) (r : Req) : Lawful fun s => complete r 0 0 4 [] (wakeCan c cause s) :=
  .comp (.quiet (wakeCan_within c cause)) (.quiet (complete_within r 0 0 4 []))

theorem powerOnReset_lawful (cause : PorCause) (p : PorIn) (s : State) : ∃ t, exec (.powerOnReset cause p) s = .next t ∧ Lawfully s t := by
  refine ⟨_, rfl, ?_⟩
  split
  · exact powerOn_lawful cause p s
  · split
    · exact (noteSupply_lawful.comp (setB_lawful 0x7F040 2 p.present)) s
    · exact Lawful.id s

theorem overTempCooled_lawful (p : PorIn) (s : State) : ∃ t, exec (.overTempCooled p) s = .next t ∧ Lawfully s t := by
  refine ⟨_, rfl, ?_⟩
  split
  · exact powerOn_lawful .afterOverTemp p s
  · exact Lawful.id s

/-! ## Every command -/

/-- Every command answers a next state, which it leaves lawfully. -/
theorem exec_lawful (i : Instr) (s : State) : ∃ t, exec i s = .next t ∧ Lawfully s t := by
  cases i with
  | powerOnReset cause p => exact powerOnReset_lawful cause p s
  | feedLost f => exact Lawful.run (.of (feedLost_within f) (feedLost_claims f)) s
  | feedReturned f => exact Lawful.run (.of (feedReturned_within f) (feedReturned_claims f)) s
  | powerFail => exact Lawful.run (.of (beginHoldup_within .powerFail) (beginHoldup_claims .powerFail)) s
  | presentLost => exact Lawful.run (.of presentLost_within presentLost_claims) s
  | finalCommitDone => exact Lawful.run (.of endFinalCommit_within endFinalCommit_claims) s
  | evrHoldupFlushDone => exact Lawful.run (.quiet evrHoldupFlushDone_within) s
  | railsOff => exact Lawful.run (.quiet railsOff_within) s
  | tempRefresh mk => exact Lawful.run (.of (tempRefresh_within mk) (tempRefresh_claims mk)) s
  | overTempStop => exact Lawful.run (.of (beginHoldup_within .overTemp) (beginHoldup_claims .overTemp)) s
  | overTempCooled p => exact overTempCooled_lawful p s
  | holdupReadySet => exact Lawful.run (.of holdupReadySet_within holdupReadySet_claims) s
  | holdupReadyLost => exact Lawful.run (.of holdupReadyLost_within holdupReadyLost_claims) s
  | holdupCapacityMeasure pct => exact Lawful.run (.of (holdupMeasure_within pct) (holdupMeasure_claims pct)) s
  | sfpOverpower p => exact Lawful.run (.of (sfpOverpower_within p) (sfpOverpower_claims p)) s
  | sfpInserted p page => exact Lawful.run (.of (sfpInserted_within p page) (sfpInserted_claims p page)) s
  | clockFault n => exact Lawful.run (.of (clockFault_within n) (clockFault_claims n)) s
  | lockstepMismatch n => exact Lawful.run (.of (lockstepMismatch_within n) (lockstepMismatch_claims n)) s
  | memoryEccError n => exact Lawful.run (.of (memoryEccError_within n) (memoryEccError_claims n)) s
  | supervisorWatchdogExpiry => exact Lawful.run (.of (beginModReset_within .watchdog 3 .automatic) (beginModReset_claims .watchdog 3 .automatic)) s
  | modreset restart => exact Lawful.run (.of (beginModReset_within .software 3 _) (beginModReset_claims .software 3 _)) s
  | powerdown => exact Lawful.run (.of (beginHoldup_within .powerdown) (beginHoldup_claims .powerdown)) s
  | moduleReset => exact Lawful.run (.of moduleReset_within moduleReset_claims) s
  | blkrst v => exact Lawful.run (.quiet (blkrst_within v)) s
  | blockResetDone b => exact Lawful.run (.of (blockResetDone_within b) (blockResetDone_claims b)) s
  | perstN => exact Lawful.run (.of perstN_within perstN_claims) s
  | functionLevelReset => exact Lawful.run (.of perstN_within perstN_claims) s
  | startupStageComplete r => exact Lawful.run (.of (stageComplete_within r) (stageComplete_claims r)) s
  | standbyEntry => exact Lawful.run (.quiet standbyEntry_within) s
  | startupTakeControl => exact Lawful.run (.of startupTake_within startupTake_claims) s
  | accessMisaligned access => exact Lawful.run (.of (misaligned_within access) (misaligned_claims access)) s
  | registerWrite who addr value => exact Lawful.run (.writeBy (.of (regWriteOp_within addr value) (regWriteOp_claims addr value))) s
  | lockSet block => exact Lawful.run (.quiet (lockSet_within block)) s
  | glbLockset value => exact Lawful.run (.quiet (lockset_within value)) s
  | rcRead who addr => exact Lawful.run (.readBy (.quiet (fullRead_within who addr))) s
  | lowerWordRead who addr => exact Lawful.run (.readBy (.quiet (lowerRead_within who addr))) s
  | timNetsecLoRead who => exact Lawful.run (.readBy (.quiet (fullRead_within who 0x04040))) s
  | bkdRtcsubRead who => exact Lawful.run (.readBy (.quiet (fullRead_within who 0x0600C))) s
  | capstatRead who unit => exact Lawful.run (.readBy (.choice .id (.quiet (fullRead_within who _)))) s
  | lastTxRead who p => exact Lawful.run (.readBy (.choice .id (.quiet (fullRead_within who _)))) s
  | evrCursorSet hi => exact Lawful.run (regWrite_lawful 0x0A044 hi) s
  | evrWinCopy who => exact Lawful.run (.readBy (.quiet (fullRead_within who 0x0A060))) s
  | evrWinAdvance who => exact Lawful.run (.readBy (.quiet (fullRead_within who 0x0A07C))) s
  | ringEnable pair v => exact Lawful.run (.quiet (ringEnable_within pair v)) s
  | ringDisable pair => exact Lawful.run (.quiet (ringDisable_within pair)) s
  | startedDescriptorCancel r => exact Lawful.run (.quiet (startedCancel_within r)) s
  | ownerClear => exact Lawful.run (.quiet ownerClear_within) s
  | ownerSet => exact Lawful.run (.quiet ownerSet_within) s
  | subTail pair v => exact Lawful.run (.quiet (subTail_within pair v)) s
  | cmpHead pair v => exact Lawful.run (.quiet (cmpHead_within pair v)) s
  | cmpArm pair => exact Lawful.run (.quiet (cmpArm_within pair)) s
  | descriptorFetch pair b => exact Lawful.run (.quiet (descriptorFetch_within pair b)) s
  | descriptorFetchFail pair why => exact Lawful.run (.quiet (descriptorFetchFail_within pair why)) s
  | descriptorStart pair fail => exact Lawful.run (.quiet (descriptorStart_within pair fail)) s
  | coalesceTimeExpiry pair => exact Lawful.run (.quiet (coalesceExpiry_within pair)) s
  | vectorSpacingExpiry v => exact Lawful.run (.quiet (spacingExpiry_within v)) s
  | msixUnmask w => exact Lawful.run (.of (msixUnmask_within w) (msixUnmask_claims w)) s
  | rxbuf pair fail => exact Lawful.run (.quiet (rxbuf_within pair fail)) s
  | linkLoss c => exact Lawful.run (.of (linkLoss_within c) (linkLoss_claims c)) s
  | linkReturn speed width => exact Lawful.run (.quiet (linkReturn_within speed width)) s
  | modelArm r => exact Lawful.run (.of (armOp_within false 0x0B20 r) (armOp_claims false 0x0B20 r)) s
  | modelDisarm r => exact Lawful.run (.inlineOp fun _ => .of (modelDisarm_within _ _ _) (modelDisarm_claims _ _ _)) s
  | modelRevert r => exact Lawful.run (.of (armOp_within true 0x0B22 r) (armOp_claims true 0x0B22 r)) s
  | modelRecordActive => exact Lawful.run (.quiet modelRecord_within) s
  | roundStart => exact Lawful.run (.of roundStart_within roundStart_claims) s
  | roundStartTimeout => exact Lawful.run (.of roundStartTimeout_within roundStartTimeout_claims) s
  | readRetry id => exact Lawful.run (.quiet (readRetry_within id)) s
  | hello f => exact Lawful.run (.of (receive_within f) (receive_claims f)) s
  | ready f => exact Lawful.run (.of (receive_within f) (receive_claims f)) s
  | readRep f => exact Lawful.run (.of (receive_within f) (receive_claims f)) s
  | readClose => exact Lawful.run (.of readClose_within readClose_claims) s
  | fastportJobComplete => exact Lawful.run (.quiet fastportComplete_within) s
  | sepWindowEnd => exact Lawful.run (.quiet sepWindowEnd_within) s
  | ctrStep late us => exact Lawful.run (.quiet (ctrStep_within late us)) s
  | writeOpen => exact Lawful.run (.of writeOpen_within writeOpen_claims) s
  | writeRetry id => exact Lawful.run (.quiet (writeRetry_within id)) s
  | writeAck f => exact Lawful.run (.of (receive_within f) (receive_claims f)) s
  | roundClose theirs => exact Lawful.run (.of (roundClose_within theirs) (roundClose_claims theirs)) s
  | stationRetire r => exact Lawful.run (.inlineOp fun _ => .of (stationRetire_within _ _) (stationRetire_claims _ _)) s
  | stationReinstate r => exact Lawful.run (.inlineOp fun _ => .of (stationReinstate_within _ _) (stationReinstate_claims _ _)) s
  | stationQuery r => exact Lawful.run (.withOp fun _ _ => .choice (.quiet (finish_within _ _ _)) (.quiet (stationQuery_within _ _))) s
  | dispatchSolveComplete => exact Lawful.run (.quiet solveComplete_within) s
  | quarterHourStep => exact Lawful.run (.quiet quarterStep_within) s
  | planAgeExpiry => exact Lawful.run (.quiet planExpiry_within) s
  | plantAck u ws => exact Lawful.run (.quiet (plantAck_within u ws)) s
  | plantAckTimeout mid => exact Lawful.run (.quiet (plantAckTimeout_within mid)) s
  | legMidnight => exact Lawful.run (.quiet legMidnight_within) s
  | setParam r => exact Lawful.run (.inlineOp fun _ => .of (setParam_within _ _ _) (setParam_claims _ _ _)) s
  | pricePush r buf => exact Lawful.run (.pushOp fun _ _ _ => .of (pricePush_within _ _ _ _) (pricePush_claims _ _ _ _)) s
  | weatherPush r buf => exact Lawful.run (.pushOp fun _ _ _ => .of (weatherPush_within _ _ _ _) (weatherPush_claims _ _ _ _)) s
  | forceCycle r => exact Lawful.run (.inlineOp fun _ => .of (forceCycle_within _ _) (forceCycle_claims _ _)) s
  | unitMode r => exact Lawful.run (.inlineOp fun _ => .of (unitModeOp_within _ _ _) (unitModeOp_claims _ _ _)) s
  | kktSolve r buf => exact Lawful.run (.quiet (solveRow_within false 0x0110 r buf)) s
  | qpSolve r buf => exact Lawful.run (.quiet (solveRow_within true 0x0111 r buf)) s
  | patternLoad r p => exact Lawful.run (.withOp fun _ _ => .ite (.quiet (finish_within _ _ _)) (.quiet (patternLoad_within _ _ _ _))) s
  | patternFree r => exact Lawful.run (.inlineOp fun _ => .quiet (patternFree_within _ _)) s
  | panelBoundary => exact Lawful.run (.quiet panelBoundary_within) s
  | qpIterationComplete => exact Lawful.run (.quiet qpIteration_within) s
  | kktSolveComplete => exact Lawful.run (.quiet kktComplete_within) s
  | chuDeadline who => exact Lawful.run (.quiet (chuDeadline_within who)) s
  | chuPatternsRebuilt => exact Lawful.run (.quiet chuRebuilt_within) s
  | setSigma r => exact Lawful.run (.inlineOp fun _ => .of (setSigma_within _ _ _ _) (setSigma_claims _ _ _ _)) s
  | excl r => exact Lawful.run (.inlineOp fun _ => .of (excludePoint_within _ _ _) (excludePoint_claims _ _ _)) s
  | incl r => exact Lawful.run (.inlineOp fun _ => .of (includePoint_within _ _ _) (includePoint_claims _ _ _)) s
  | flatStart => exact Lawful.run flatWrite_lawful s
  | curdDump r => exact Lawful.run (.inlineOp fun _ => .quiet (curdDump_within _ _)) s
  | rebuild r => exact Lawful.run (.inlineOp fun _ => .quiet (ctrRebuild_within _ _)) s
  | ctrCtrlRebuild => exact Lawful.run rebuildWrite_lawful s
  | baseTick => exact Lawful.run (.quiet baseTick_within) s
  | loopConfig r buf => exact Lawful.run (.recordOp fun _ => .of (loopConfig_within _ _) (loopConfig_claims _ _)) s
  | loopCoef r buf => exact Lawful.run (.recordOp fun _ => .of (loopCoef_within _ _) (loopCoef_claims _ _)) s
  | loopSwap r => exact Lawful.run (.inlineOp fun _ => .of (loopSwap_within _ _) (loopSwap_claims _ _)) s
  | loopMode r => exact Lawful.run (.inlineOp fun _ => .of (loopMode_within _ _ _ _) (loopMode_claims _ _ _ _)) s
  | loopSetsp r => exact Lawful.run (.inlineOp fun _ => .of (loopSetsp_within _ _ _) (loopSetsp_claims _ _ _)) s
  | loopState r => exact Lawful.run (.withOp fun _ _ => .choice (.quiet (finish_within _ _ _)) (.quiet (loopState_within _ _ _))) s
  | traceCfg r => exact Lawful.run (.inlineOp fun _ => .quiet (traceCfg_within _ _)) s
  | traceArm r => exact Lawful.run (.inlineOp fun _ => .quiet (traceArm_within _ _)) s
  | tlyCommit => exact Lawful.run (.of tlyCommit_within tlyCommit_claims) s
  | holdMinExpiry station => exact Lawful.run (.quiet (holdExpiry_within station)) s
  | feederBlock feeder samples => exact Lawful.run (.quiet (feederBlock_within feeder samples)) s
  | supplyConditionChange feeder cond x => exact Lawful.run (.quiet (supplyChange_within feeder cond x)) s
  | localHeatSample meter x => exact Lawful.run (.quiet (localHeat_within meter x)) s
  | calEnSet value => exact Lawful.run (regWrite_lawful 0x24000 value) s
  | calEnClear value => exact Lawful.run (regWrite_lawful 0x24000 value) s
  | billAck r => exact Lawful.run (.inlineOp fun _ => .quiet (billAck_within _ _)) s
  | billReplay r => exact Lawful.run (.inlineOp fun _ => .quiet (billReplay_within _ _)) s
  | taskActivation task => exact Lawful.run (.quiet (activateTask_within task)) s
  | taskInstanceEnd task outs vals us => exact Lawful.run (.quiet (endInstance_within task outs vals us)) s
  | taskWatchdogExpiry task => exact Lawful.run (.of (watchdog_within task) (watchdog_claims task)) s
  | progRun r => exact Lawful.run (.of (progOp_within r _) (progOp_claims r _)) s
  | progStop r => exact Lawful.run (.of (progOp_within r _) (progOp_claims r _)) s
  | progColdStart r => exact Lawful.run (.of (progOp_within r _) (progOp_claims r _)) s
  | varRead r => exact Lawful.run (.withOp fun _ _ => .ite (.quiet (finish_within _ _ _)) (.quiet (varRead_within _ _ _))) s
  | varWrite r => exact Lawful.run (.inlineOp fun _ => .changeOf fun _ _ _ => .of (varWrite_within _ _ _ _) (varWrite_claims _ _ _ _)) s
  | constWrite r => exact Lawful.run (.inlineOp fun _ => .changeOf fun _ _ _ => .of (constWrite_within _ _ _ _) (constWrite_claims _ _ _ _)) s
  | progExchange r => exact Lawful.run (.inlineOp fun _ => .of (progExchange_within _ _ _) (progExchange_claims _ _ _)) s
  | exchangeCapture => exact Lawful.run (.of exchangeCapture_within exchangeCapture_claims) s
  | exchangeMapped got => exact Lawful.run (.quiet (exchangeMapped_within got)) s
  | exchangeAbandon => exact Lawful.run (.quiet abandonDue_within) s
  | heartbeatTx => exact Lawful.run (.of heartbeatTx_within heartbeatTx_claims) s
  | heartbeat h => exact Lawful.run (.of (heartbeat_within h) (heartbeat_claims h)) s
  | peerLinkLoss => exact Lawful.run (.of linkSilence_within linkSilence_claims) s
  | peerLinkReturn h => exact Lawful.run (.of (heartbeat_within h) (heartbeat_claims h)) s
  | roundStartMsg h phases anchor => exact Lawful.run (.of (roundStartMsg_within h phases anchor) (roundStartMsg_claims h phases anchor)) s
  | resign h cause => exact Lawful.run (.of (resignMsg_within h cause) (resignMsg_claims h cause)) s
  | take h => exact Lawful.run (.of (takeMsg_within h) (takeMsg_claims h)) s
  | takeWaitExpiry => exact Lawful.run (.of takeWait_within takeWait_claims) s
  | peerMsgResend mseq => exact Lawful.run (.of (peerResend_within mseq) (peerResend_claims mseq)) s
  | forward h op withdraw => exact Lawful.run (.of (forwardMsg_within h op withdraw) (forwardMsg_claims h op withdraw)) s
  | confirm h op status detail => exact Lawful.run (.of (confirmMsg_within h op status detail) (confirmMsg_claims h op status detail)) s
  | forwardTimeout => exact Lawful.run (.of forwardTimeout_within forwardTimeout_claims) s
  | selftest h result => exact Lawful.run (.of (selftestMsg_within h result) (selftestMsg_claims h result)) s
  | selftestDone pass => exact Lawful.run (.of (selftestDone_within pass) (selftestDone_claims pass)) s
  | syncComplete h d => exact Lawful.run (.of (syncComplete_within h d) (syncComplete_claims h d)) s
  | record h m => exact Lawful.run (.of (recordMsg_within h m) (recordMsg_claims h m)) s
  | morHandover h ask => exact Lawful.run (.of (morMsg_within h ask) (morMsg_claims h ask)) s
  | dupHandover r => exact Lawful.run (.inlineOp fun _ => .of (dupHandover_within _ _) (dupHandover_claims _ _)) s
  | dupMorHand r => exact Lawful.run (.morOp (.of (dupMorHand_within r) (dupMorHand_claims r))) s
  | dupMorRelease r => exact Lawful.run (.morOp (.of (dupMorRelease_within r) (dupMorRelease_claims r))) s
  | dupMorTake r => exact Lawful.run (.morOp (.of (dupMorTake_within r) (dupMorTake_claims r))) s
  | dupTakeover r => exact Lawful.run (.inlineOp fun _ => .of (dupTakeover_within _ _) (dupTakeover_claims _ _)) s
  | dupProvision r certOk => exact Lawful.run (.inlineOp fun _ => .of (dupProvision_within _ _ _) (dupProvision_claims _ _ _)) s
  | dupResync r => exact Lawful.run (.inlineOp fun _ => .of (dupResync_within _ _) (dupResync_claims _ _)) s
  | autoProvision certOk => exact Lawful.run (.of (autoProvision_within certOk) (autoProvision_claims certOk)) s
  | provisionHello => exact Lawful.run (.of provisionHello_within provisionHello_claims) s
  | provisionKeys b => exact Lawful.run (.of (provisionKeys_within b) (provisionKeys_claims b)) s
  | provisionDone ok => exact Lawful.run (.of (provisionDone_within ok) (provisionDone_claims ok)) s
  | frameTx r buf => exact Lawful.run (.withOp fun _ _ => .quiet (frameTx_within _ _ _ _)) s
  | frameLaunch port queue => exact Lawful.run (.quiet (frameLaunch_within port queue)) s
  | gclLoad r buf => exact Lawful.run (.withOp fun _ _ => .choice (.quiet (finish_within _ _ _)) (.quiet (gclLoad_within _ _))) s
  | gclOperational port => exact Lawful.run (.quiet (gclOperational_within port)) s
  | ethFrameRx port f => exact Lawful.run (.quiet (ethRx_within port f)) s
  | ringPortLinkChange port up => exact Lawful.run (.of (ringLink_within port up) (ringLink_claims port up)) s
  | hsrSupervisionTx => exact Lawful.run (.quiet supervisionTx_within) s
  | hsrEntryExpiry => exact Lawful.run (.quiet hsrExpiry_within) s
  | noPeers port => exact Lawful.run (.quiet (noPeers_within port)) s
  | macsecRekey port => exact Lawful.run (.quiet (macsecRekey_within port)) s
  | macsecOldSaExpiry port sci => exact Lawful.run (.quiet (oldSaExpiry_within port sci)) s
  | keyNumberAnnouncement port an sci kn tag => exact Lawful.run (.quiet (knaRx_within port an sci kn tag)) s
  | knaTx port => exact Lawful.run (.quiet (knaDue_within port)) s
  | ptpOffsetMeasurement ofs => exact Lawful.run (.quiet (ptpOffset_within ofs)) s
  | announce m => exact Lawful.run (.quiet (announce_within m)) s
  | announceTimeout => exact Lawful.run (.quiet announceTimeout_within) s
  | holdHExpiry => exact Lawful.run (.quiet holdHExpiry_within) s
  | leapSecond positive => exact Lawful.run (.quiet (leapSecond_within positive)) s
  | incrCommit d ns => exact Lawful.run (.choice .id (regWrite_lawful _ ns)) s
  | stepAccept r => exact Lawful.run (.inlineOp fun _ => .of (stepAccept_within _ _) (stepAccept_claims _ _)) s
  | stepReject r => exact Lawful.run (.inlineOp fun _ => .of (stepReject_within _ _) (stepReject_claims _ _)) s
  | timeSet r => exact Lawful.run (.inlineOp fun _ => .of (timeSet_within _ _ _ _) (timeSet_claims _ _ _ _)) s
  | rtcSet r => exact Lawful.run (.inlineOp fun _ => .quiet (rtcSet_within _ _ _)) s
  | alarmSet r => exact Lawful.run (.inlineOp fun _ => .quiet (alarmSet_within _ _ _)) s
  | rtcCompare => exact Lawful.run (.quiet rtcCompare_within) s
  | rtcAlarm => exact Lawful.run (.quiet rtcAlarm_within) s
  | periodicWake => exact Lawful.run (.quiet periodicWake_within) s
  | captureEdge k rising => exact Lawful.run (.quiet (captureEdge_within k rising)) s
  | launchPulse k => exact Lawful.run (.quiet (launchPulse_within k)) s
  | oscStop => exact Lawful.next (.quiet oscStop_within) s
  | backupSourceSwitch mainUp extMv cellMv => exact Lawful.next (.quiet (backupSwitch_within mainUp extMv cellMv)) s
  | backupSourceMeasure extMv cellMv capMv => exact Lawful.run (.of (backupMeasure_within extMv cellMv capMv) (backupMeasure_claims extMv cellMv capMv)) s
  | vbdRetTrip => exact Lawful.next (.quiet vbdTrip_within) s
  | vbdFloorTrip => exact Lawful.next (.quiet vbdTrip_within) s
  | slotPatrol bad => exact Lawful.run (.of (slotPatrol_within bad) (slotPatrol_claims bad)) s
  | tamperTrip t => exact Lawful.next (.of (tamperTrip_within t) (tamperTrip_claims t)) s
  | keyZeroise r => exact Lawful.run (.inlineOp fun _ => .of (keyZeroise_within _ _) (keyZeroise_claims _ _)) s
  | keyDevcert r => exact Lawful.run (.withOp fun _ _ => .quiet (keyDevcert_within _ _)) s
  | keyPublic r => exact Lawful.run (.withOp fun _ _ => .quiet (keyPublic_within _ _ _)) s
  | keyProvision r b => exact Lawful.run (.withOp fun _ _ => .of (keyProvision_within _ _ _) (keyProvision_claims _ _ _)) s
  | keyGcm r buf => exact Lawful.run (.withOp fun _ _ => .quiet (keyGcm_within _ _ _ _ _ _ _)) s
  | keyHmac r buf => exact Lawful.run (.withOp fun _ _ => .quiet (keyHmac_within _ _ _ _)) s
  | kstTampcfgWrite v => exact Lawful.run (regWrite_lawful 0x48008 v) s
  | fcoForce v => exact Lawful.run (regWrite_lawful 0x08010 v) s
  | forcedLevelExpiry n => exact Lawful.run (.quiet (forcedLevelExpiry_within n)) s
  | fcoActiveClear w v => exact Lawful.run (.choice .id (regWrite_lawful _ v)) s
  | fcoWindowEnd n => exact Lawful.run (.quiet (fcoWindowEnd_within n)) s
  | fcoIntegrityScan r => exact Lawful.run (.of (fcoIntegrityScan_within r) (fcoIntegrityScan_claims r)) s
  | evrTokenRefill code => exact Lawful.run (.quiet (evrTokenRefill_within code)) s
  | evrFlush => exact Lawful.run (.quiet evrFlushDue_within) s
  | evtReplay r => exact Lawful.run (.inlineOp fun _ => .quiet (evtReplay_within _ _)) s
  | pmcSample r => exact Lawful.run (.inlineOp fun _ => .quiet (pmcSample_within _ _)) s
  | snap => exact Lawful.run snapWrite_lawful s
  | clear => exact Lawful.run clearWrite_lawful s
  | pmcSelWrite k v => exact Lawful.run (.choice .id (regWrite_lawful _ v)) s
  | pmcPeriodicSnapshot => exact Lawful.run (.quiet pmcPeriodic_within) s
  | bwWindowEnd p => exact Lawful.run (.quiet (bwWindowEnd_within p)) s
  | bwcfgWrite p v => exact Lawful.run (.choice .id (regWrite_lawful _ v)) s
  | canFrameRx ch f => exact Lawful.run (.quiet (canRx_within ch f)) s
  | canNodeTimeout ch node => exact Lawful.run (.quiet (canNodeTimeout_within ch node)) s
  | canTx r buf => exact Lawful.run (.withOp fun _ _ => .choice (.quiet (finish_within _ _ _)) (.quiet (canTx_within _ _ _ _))) s
  | canTxDone ch i how => exact Lawful.run (.quiet (canTxDone_within ch i how)) s
  | canCancel r => exact Lawful.run (.inlineOp fun _ => .quiet (canCancel_within _ _)) s
  | schedLoad r buf => exact Lawful.run (.withOp fun _ _ => .choice (.quiet (finish_within _ _ _)) (.quiet (schedLoad_within _ _))) s
  | schedCellOpen ch row col => exact Lawful.run (.quiet (cellOpen_within ch row col)) s
  | schedWindowDrop ch obj => exact Lawful.run (.quiet (windowDrop_within ch obj)) s
  | canSleep r => exact Lawful.run (.inlineOp fun _ => .choice (.quiet (finish_within _ _ _)) (.quiet (canSleep_within _))) s
  | canWake r => exact Lawful.run (.inlineOp fun _ => .ite (.quiet (finish_within _ _ _)) (wakeCan_complete_lawful _ 2 r)) s
  | cannWakeN ch => exact Lawful.run (.quiet (wakeCan_within ch 1)) s
  | busOff ch => exact Lawful.run (.of (busOff_within ch) (busOff_claims ch)) s
  | busOffRecovery ch => exact Lawful.run (.quiet (busOffRecovery_within ch)) s
  | dioInputEdge ch level => exact Lawful.run (.quiet (dioEdge_within ch level)) s
  | dioOutputLatch => exact Lawful.run (.of dioLatch_within dioLatch_claims) s
  | dioOutputShutdown ch => exact Lawful.run (.of (dioShutdown_within ch) (dioShutdown_claims ch)) s
  | dioReadbackFault ch holds => exact Lawful.run (.of (dioReadback_within ch holds) (dioReadback_claims ch holds)) s
  | logicSilence => exact Lawful.run (.of logicSilence_within logicSilence_claims) s
  | silenceEnd => exact Lawful.run (.of silenceEnd_within silenceEnd_claims) s
  | groupSupplyMissing group missing => exact Lawful.run (.of (groupSupply_within group missing) (groupSupply_claims group missing)) s
  | updManifest r buf sigOk digestsOk =>
    exact Lawful.run (.withOp fun _ _ => .ite (.quiet (updEnd_within _ _ _ _)) (.of (updManifest_within _ _ _) (updManifest_claims _ _ _))) s
  | updBlock r sum data => exact Lawful.run (.withOp fun _ _ => .of (updBlock_within _ _ _ _ _ _) (updBlock_claims _ _ _ _ _ _)) s
  | updActivateFirmware r => exact Lawful.run (.scopeOp fun _ => .quiet (activateFw_within _)) s
  | updActivateConfig r => exact Lawful.run (.scopeOp fun _ => .of (activateCfg_within _ _) (activateCfg_claims _ _)) s
  | updConfirm r => exact Lawful.run (.inlineOp fun _ => .quiet (updConfirm_within _ _)) s
  | updFallback r => exact Lawful.run (.inlineOp fun _ => .of (updFallback_within _ _) (updFallback_claims _ _)) s
  | updAbort r => exact Lawful.run (.inlineOp fun _ => .quiet (updAbort_within _ _)) s
  | loaderBlockWrite readOk => exact Lawful.run (.of (loaderWrite_within readOk) (loaderWrite_claims readOk)) s
  | receiveTimeout => exact Lawful.run (.quiet receiveTimeout_within) s
  | autoConfirm => exact Lawful.run (.quiet autoConfirm_within) s
  | stage5Timeout => exact Lawful.run (.of stage5Timeout_within stage5Timeout_claims) s
  | syncTmoExpiry => exact Lawful.run (.of syncTmoExpiry_within syncTmoExpiry_claims) s
  | noRoundClosed3s => exact Lawful.run (.of noRoundClosed_within noRoundClosed_claims) s
  | peerAcknowledgement mseq => exact Lawful.run (.of (peerAck_within mseq) (peerAck_claims mseq)) s
  | canTxDeadline ch tag => exact Lawful.run (.quiet (canTxDeadline_within ch tag)) s
  | levelConditionEnd n => exact Lawful.run (.of (levelConditionEnd_within n) (levelConditionEnd_claims n)) s
  | holdupStoreExhausted => exact Lawful.run (.quiet storeExhausted_within) s

/-- A step does what its front command does, or ticks. -/
theorem step_lawful {s t : State} (e : step s = .next t) : t.pending = s.pending.tail ∧ s.out <:+ t.out ∧ s.free ≤ t.free ∧
    (regsOk s.regs = true → regsOk t.regs = true) ∧ s.dup.claim ≤ t.dup.claim := by
  unfold step at e
  split at e
  case h_1 none =>
    obtain rfl := Host.Outcome.next.inj e
    have w := tick_within s
    exact ⟨by rw [w.pending, none]; rfl, w.grow, w.draws, w.canon, Claims.of_within w (by decide)⟩
  case h_2 c rest front =>
    obtain ⟨u, e', w, claim⟩ := exec_lawful c { s with pending := rest }
    obtain rfl := Host.Outcome.next.inj (e.symm.trans e')
    exact ⟨by rw [w.pending, front]; rfl, w.grow, w.draws, w.canon, claim⟩

/-! ## The statements -/

/-- Settles O8. -/
theorem claimNeverDecreases : Obligations.ClaimNeverDecreases := by
  unfold Obligations.ClaimNeverDecreases
  intro s t e
  obtain ⟨-, -, -, -, claim⟩ := step_lawful e
  exact claim

/-- Settles O7. -/
theorem registersStayCanonical : Obligations.RegistersStayCanonical := by
  unfold Obligations.RegistersStayCanonical
  intro s t e
  obtain ⟨-, -, -, canon, -⟩ := step_lawful e
  exact canon

/-- Settles O4. -/
theorem queueAndOutputsAreKept : Obligations.QueueAndOutputsAreKept := by
  unfold Obligations.QueueAndOutputsAreKept
  intro s t e
  obtain ⟨pending, out, free, -, -⟩ := step_lawful e
  exact ⟨pending, out, free⟩

/-- Settles O3. -/
theorem everyCommandAnswers : Obligations.EveryCommandAnswers := by
  unfold Obligations.EveryCommandAnswers
  intro i s
  obtain ⟨t, answers, -⟩ := exec_lawful i s
  exact ⟨t, answers⟩

/-- Settles O1. -/
theorem stepRunsTheFrontCommand : Obligations.StepRunsTheFrontCommand := by
  unfold Obligations.StepRunsTheFrontCommand
  intro s c rest front
  rw [step, front]

/-- Settles O6. -/
theorem registersCanonicalAtReset : Obligations.RegistersCanonicalAtReset := by
  unfold Obligations.RegistersCanonicalAtReset
  decide

end Sys2Proof.Machine
end

section
/-!
PROOFS. The frames of the commands: what each may change at most is what the operation that it runs may change, and a command that a descriptor brings adds
the entry of its end.
-/
set_option Elab.async false
namespace Sys2Proof.Machine

/-! ## Commands that a descriptor brings -/

section Frames
variable {ps ps' : List Part} {rs rs' : Option (List Nat)} {i : Instr} {r : Req} {f g : State → State}

theorem within_choice {c : Prop} [Decidable c] (hf : ∀ s, Within ps' rs' s (f s)) (hg : ∀ s, Within ps rs s (g s))
    (hp : (ps'.all fun p => ps.contains p) = true := by decide) (hr : regsLe rs' rs := by simp [regsLe]) (s : State) :
    Within ps rs s ((if c then f else g) s) := by
  split
  · exact (hf s).mono hp hr
  · exact hg s

theorem within_cases {c : State → Prop} [∀ s, Decidable (c s)] (hf : ∀ s, Within ps' rs' s (f s)) (hg : ∀ s, Within ps rs s (g s))
    (hp : (ps'.all fun p => ps.contains p) = true := by decide) (hr : regsLe rs' rs := by simp [regsLe]) (s : State) :
    Within ps rs s (if c s then f s else g s) := .ite ((hf s).mono hp hr) (hg s)

theorem keeps_withOp {ops : List Nat} {buf : Option Bytes} {f : Desc → Bytes → State → State} (he : ∀ s, exec i s = run (withOp r ops buf f) s)
    (h : ∀ d b s, Within ps rs s (f d b s)) (hp : ([Part.hif, .pmc, .out].all fun p => ps.contains p) = true := by decide)
    (hr : regsLe (some []) rs := by simp [regsLe]) : KeepsBut ps rs i :=
  keeps_run he fun _ => withOp_within hp hr (fun d b t => (h d b t).after) .refl

theorem keeps_inlineOp {op len : Nat} {f : Bytes → State → State} (he : ∀ s, exec i s = run (inlineOp r op len f) s)
    (h : ∀ b s, Within ps rs s (f b s)) (hp : ([Part.hif, .pmc, .out].all fun p => ps.contains p) = true := by decide)
    (hr : regsLe (some []) rs := by simp [regsLe]) : KeepsBut ps rs i :=
  keeps_run he fun _ => inlineOp_within hp hr (fun b t => (h b t).after) .refl

theorem keeps_recordOp {op len : Nat} {buf : Bytes} {f : Bytes → State → State} (he : ∀ s, exec i s = run (recordOp r op len buf f) s)
    (h : ∀ b s, Within ps rs s (f b s)) (hp : ([Part.hif, .pmc, .out].all fun p => ps.contains p) = true := by decide)
    (hr : regsLe (some []) rs := by simp [regsLe]) : KeepsBut ps rs i :=
  keeps_run he fun _ => recordOp_within hp hr (fun b t => (h b t).after) .refl

theorem keeps_pushOp {op row : Nat} {buf : Bytes} {go : Bytes → Nat → Nat → State → State} (he : ∀ s, exec i s = run (pushOp r op row buf go) s)
    (h : ∀ b a n s, Within ps rs s (go b a n s)) (hp : ([Part.hif, .pmc, .out].all fun p => ps.contains p) = true := by decide)
    (hr : regsLe (some []) rs := by simp [regsLe]) : KeepsBut ps rs i :=
  keeps_run he fun _ => pushOp_within hp hr (fun b a n t => (h b a n t).after) .refl

theorem keeps_scopeOp {scope : Nat} {f : Bytes → State → State} (he : ∀ s, exec i s = run (scopeOp scope r f) s)
    (h : ∀ b s, Within ps rs s (f b s)) (hp : ([Part.hif, .pmc, .upd, .out].all fun p => ps.contains p) = true := by decide)
    (hr : regsLe (some []) rs := by simp [regsLe]) : KeepsBut ps rs i :=
  keeps_run he fun _ => scopeOp_within hp hr (fun b t => (h b t).after) .refl

theorem keeps_morOp {action : Nat} {f : Req → State → State} (he : ∀ s, exec i s = run (morOp action f r) s)
    (h : ∀ s, Within ps rs s (f r s)) (hp : ([Part.hif, .pmc, .out].all fun p => ps.contains p) = true := by decide)
    (hr : regsLe (some []) rs := by simp [regsLe]) : KeepsBut ps rs i :=
  keeps_run he fun _ => morOp_within hp hr (fun t => (h t).after) .refl

theorem calm_inlineOp {l : List Nat} {op len : Nat} {f : Bytes → State → State} (he : ∀ s, exec i s = run (inlineOp r op len f) s)
    (h : ∀ b s, Within ps none s (f b s)) (k : ∀ b s, Calm l s (f b s))
    (hp : ([Part.hif, .pmc, .out].all fun p => ps.contains p) = true := by decide) : CalmBut ps l i :=
  calm_run he (fun _ => inlineOp_within hp trivial (fun b t => (h b t).after) .refl) fun _ => inlineOp_calm (fun b t c => c.trans (k b t)) .refl

theorem wakeCan_complete_within (c cause : Nat) (s : State) :
    Within [.hif, .evr, .pmc, .fio, .out] (some [0x0A034, 0x0A010, 0x0A030, canStatReg c]) s (complete r 0 0 4 [] (wakeCan c cause s)) :=
  (complete_within r 0 0 4 [] _).step (wakeCan_within c cause s) (by decide) (by simp [regsLe])

end Frames

/-! ## The statements -/

/-- Settles O40, one command after another from the frame of its operation. -/
theorem faultCommandsFrame : Obligations.FaultCommandsFrame := by
  unfold Obligations.FaultCommandsFrame
  exact ⟨fun n => keeps_run (fun _ => rfl) (clockFault_within n),
    fun n => calm_run (fun _ => rfl) (clockFault_within n) (clockFault_calm n),
    fun n => keeps_run (fun _ => rfl) (lockstepMismatch_within n),
    fun n => calm_run (fun _ => rfl) (lockstepMismatch_within n) (lockstepMismatch_calm n),
    fun n => keeps_run (fun _ => rfl) (memoryEccError_within n),
    fun n => calm_run (fun _ => rfl) (memoryEccError_within n) (memoryEccError_calm n),
    fun n => keeps_run (fun _ => rfl) (levelConditionEnd_within n),
    fun n => calm_run (fun _ => rfl) (levelConditionEnd_within n) (levelConditionEnd_calm n),
    fun n => keeps_run (fun _ => rfl) (forcedLevelExpiry_within n),
    fun n => keeps_run (fun _ => rfl) (fcoWindowEnd_within n),
    fun r => keeps_run (fun _ => rfl) (fcoIntegrityScan_within r),
    fun code => keeps_run (fun _ => rfl) (evrTokenRefill_within code),
    keeps_run (fun _ => rfl) evrFlushDue_within,
    keeps_run (fun _ => rfl) evrHoldupFlushDone_within,
    fun r => keeps_inlineOp (fun _ => rfl) fun _ => evtReplay_within _ _,
    keeps_run (fun _ => rfl) pmcPeriodic_within,
    fun r => keeps_inlineOp (fun _ => rfl) fun _ => pmcSample_within _ _,
    fun p => keeps_run (fun _ => rfl) (bwWindowEnd_within p)⟩

/-- Settles O41, one command after another from the frame of its operation. -/
theorem hostCommandsFrame : Obligations.HostCommandsFrame := by
  unfold Obligations.HostCommandsFrame
  exact ⟨fun pair v => keeps_run (fun _ => rfl) (ringEnable_within pair v),
    fun pair => keeps_run (fun _ => rfl) (ringDisable_within pair),
    fun r => keeps_run (fun _ => rfl) (startedCancel_within r),
    keeps_run (fun _ => rfl) ownerClear_within,
    keeps_run (fun _ => rfl) ownerSet_within,
    fun pair v => keeps_run (fun _ => rfl) (subTail_within pair v),
    fun pair v => keeps_run (fun _ => rfl) (cmpHead_within pair v),
    fun pair => keeps_run (fun _ => rfl) (cmpArm_within pair),
    fun pair b => keeps_run (fun _ => rfl) (descriptorFetch_within pair b),
    fun pair why => keeps_run (fun _ => rfl) (descriptorFetchFail_within pair why),
    fun pair fail => keeps_run (fun _ => rfl) (descriptorStart_within pair fail),
    fun pair fail => keeps_run (fun _ => rfl) (rxbuf_within pair fail),
    fun pair => keeps_run (fun _ => rfl) (coalesceExpiry_within pair),
    fun v => keeps_run (fun _ => rfl) (spacingExpiry_within v),
    fun c => keeps_run (fun _ => rfl) (linkLoss_within c),
    fun c => calm_run (fun _ => rfl) (linkLoss_within c) (linkLoss_calm c),
    fun w => keeps_run (fun _ => rfl) (msixUnmask_within w),
    fun w => calm_run (fun _ => rfl) (msixUnmask_within w) (msixUnmask_calm w),
    fun speed width => keeps_run (fun _ => rfl) (linkReturn_within speed width),
    keeps_run (fun _ => rfl) perstN_within,
    keeps_run (fun _ => rfl) perstN_within⟩

/-- Settles O42, one command after another from the frame of its operation. -/
theorem timeAndKeyCommandsFrame : Obligations.TimeAndKeyCommandsFrame := by
  unfold Obligations.TimeAndKeyCommandsFrame
  exact ⟨fun ofs => keeps_run (fun _ => rfl) (ptpOffset_within ofs),
    fun m => keeps_run (fun _ => rfl) (announce_within m),
    keeps_run (fun _ => rfl) announceTimeout_within,
    keeps_run (fun _ => rfl) holdHExpiry_within,
    fun positive => keeps_run (fun _ => rfl) (leapSecond_within positive),
    fun r => keeps_inlineOp (fun _ => rfl) fun _ => stepAccept_within _ _,
    fun r => keeps_inlineOp (fun _ => rfl) fun _ => stepReject_within _ _,
    fun r => keeps_inlineOp (fun _ => rfl) fun _ => timeSet_within _ _ _ _,
    fun r => keeps_inlineOp (fun _ => rfl) fun _ => rtcSet_within _ _ _,
    fun r => keeps_inlineOp (fun _ => rfl) fun _ => alarmSet_within _ _ _,
    keeps_run (fun _ => rfl) rtcCompare_within,
    keeps_run (fun _ => rfl) rtcAlarm_within,
    keeps_run (fun _ => rfl) periodicWake_within,
    fun k rising => keeps_run (fun _ => rfl) (captureEdge_within k rising),
    fun k => keeps_run (fun _ => rfl) (launchPulse_within k),
    keeps_next (fun _ => rfl) oscStop_within,
    fun mainUp extMv cellMv => keeps_next (fun _ => rfl) (backupSwitch_within mainUp extMv cellMv),
    fun extMv cellMv capMv => keeps_run (fun _ => rfl) (backupMeasure_within extMv cellMv capMv),
    fun extMv cellMv capMv => calm_run (fun _ => rfl) (backupMeasure_within extMv cellMv capMv) (backupMeasure_calm extMv cellMv capMv),
    keeps_next (fun _ => rfl) vbdTrip_within,
    keeps_next (fun _ => rfl) vbdTrip_within,
    fun bad => keeps_run (fun _ => rfl) (slotPatrol_within bad),
    fun t => keeps_next (fun _ => rfl) (tamperTrip_within t),
    fun t => calm_next (fun _ => rfl) (tamperTrip_within t) (tamperTrip_calm t),
    fun r => keeps_inlineOp (fun _ => rfl) fun _ => keyZeroise_within _ _,
    fun r => calm_inlineOp (fun _ => rfl) (fun _ => keyZeroise_within _ _) (fun _ => keyZeroise_calm _ _),
    fun r => keeps_withOp (fun _ => rfl) fun _ _ => keyDevcert_within _ _,
    fun r => keeps_withOp (fun _ => rfl) fun _ _ => keyPublic_within _ _ _,
    fun r buf => keeps_withOp (fun _ => rfl) fun _ _ => keyGcm_within _ _ _ _ _ _ _,
    fun r buf => keeps_withOp (fun _ => rfl) fun _ _ => keyHmac_within _ _ _ _,
    keeps_run (fun _ => rfl) provisionHello_within⟩

/-- Settles O43, one command after another from the frame of its operation. -/
theorem solverCommandsFrame : Obligations.SolverCommandsFrame := by
  unfold Obligations.SolverCommandsFrame
  exact ⟨fun f => keeps_run (fun _ => rfl) (receive_within f),
    fun f => keeps_run (fun _ => rfl) (receive_within f),
    fun f => keeps_run (fun _ => rfl) (receive_within f),
    fun f => keeps_run (fun _ => rfl) (receive_within f),
    fun id => keeps_run (fun _ => rfl) (readRetry_within id),
    fun id => keeps_run (fun _ => rfl) (writeRetry_within id),
    fun r => keeps_inlineOp (fun _ => rfl) fun _ => stationRetire_within _ _,
    fun r => keeps_inlineOp (fun _ => rfl) fun _ => stationReinstate_within _ _,
    fun r => keeps_withOp (fun _ => rfl) fun _ _ => within_choice (finish_within _ _ _) (stationQuery_within _ _),
    fun r => keeps_inlineOp (fun _ => rfl) fun _ => setSigma_within _ _ _ _,
    fun r => keeps_inlineOp (fun _ => rfl) fun _ => excludePoint_within _ _ _,
    fun r => keeps_inlineOp (fun _ => rfl) fun _ => includePoint_within _ _ _,
    fun r buf => keeps_run (fun _ => rfl) (solveRow_within false 0x0110 r buf),
    fun r buf => keeps_run (fun _ => rfl) (solveRow_within true 0x0111 r buf),
    keeps_run (fun _ => rfl) panelBoundary_within,
    keeps_run (fun _ => rfl) qpIteration_within,
    keeps_run (fun _ => rfl) kktComplete_within,
    keeps_run (fun _ => rfl) fastportComplete_within,
    fun who => keeps_run (fun _ => rfl) (chuDeadline_within who),
    fun r p => keeps_withOp (fun _ => rfl) fun _ _ => within_cases (finish_within _ _ _) (patternLoad_within _ _ _ _),
    fun r => keeps_inlineOp (fun _ => rfl) fun _ => patternFree_within _ _,
    keeps_run (fun _ => rfl) chuRebuilt_within,
    fun late us => keeps_run (fun _ => rfl) (ctrStep_within late us),
    fun r => keeps_inlineOp (fun _ => rfl) fun _ => curdDump_within _ _,
    fun r => keeps_inlineOp (fun _ => rfl) fun _ => ctrRebuild_within _ _,
    keeps_run (fun _ => rfl) baseTick_within,
    fun r buf => keeps_recordOp (fun _ => rfl) fun _ => loopConfig_within _ _,
    fun r buf => keeps_recordOp (fun _ => rfl) fun _ => loopCoef_within _ _,
    fun r => keeps_inlineOp (fun _ => rfl) fun _ => loopSwap_within _ _,
    fun r => keeps_inlineOp (fun _ => rfl) fun _ => loopMode_within _ _ _ _,
    fun r => keeps_inlineOp (fun _ => rfl) fun _ => loopSetsp_within _ _ _,
    fun r => keeps_withOp (fun _ => rfl) fun _ _ => within_choice (finish_within _ _ _) (loopState_within _ _ _),
    fun r => keeps_inlineOp (fun _ => rfl) fun _ => traceCfg_within _ _,
    fun r => keeps_inlineOp (fun _ => rfl) fun _ => traceArm_within _ _,
    keeps_run (fun _ => rfl) solveComplete_within,
    fun u ws => keeps_run (fun _ => rfl) (plantAck_within u ws),
    fun mid => keeps_run (fun _ => rfl) (plantAckTimeout_within mid),
    keeps_run (fun _ => rfl) quarterStep_within,
    keeps_run (fun _ => rfl) planExpiry_within,
    keeps_run (fun _ => rfl) legMidnight_within,
    fun r => keeps_inlineOp (fun _ => rfl) fun _ => setParam_within _ _ _,
    fun r buf => keeps_pushOp (fun _ => rfl) fun _ _ _ => pricePush_within _ _ _ _,
    fun r buf => keeps_pushOp (fun _ => rfl) fun _ _ _ => weatherPush_within _ _ _ _,
    fun r => keeps_inlineOp (fun _ => rfl) fun _ => forceCycle_within _ _,
    fun r => keeps_inlineOp (fun _ => rfl) fun _ => unitModeOp_within _ _ _⟩

/-- Settles O44, one command after another from the frame of its operation. -/
theorem tallyAndProgramCommandsFrame : Obligations.TallyAndProgramCommandsFrame := by
  unfold Obligations.TallyAndProgramCommandsFrame
  exact ⟨fun feeder cond x => keeps_run (fun _ => rfl) (supplyChange_within feeder cond x),
    fun feeder samples => keeps_run (fun _ => rfl) (feederBlock_within feeder samples),
    fun meter x => keeps_run (fun _ => rfl) (localHeat_within meter x),
    keeps_run (fun _ => rfl) tlyCommit_within,
    fun station => keeps_run (fun _ => rfl) (holdExpiry_within station),
    fun r => keeps_inlineOp (fun _ => rfl) fun _ => billAck_within _ _,
    fun r => keeps_inlineOp (fun _ => rfl) fun _ => billReplay_within _ _,
    fun task => keeps_run (fun _ => rfl) (activateTask_within task),
    fun task outs vals us => keeps_run (fun _ => rfl) (endInstance_within task outs vals us),
    fun task => keeps_run (fun _ => rfl) (watchdog_within task),
    fun task => calm_run (fun _ => rfl) (watchdog_within task) (watchdog_calm task),
    fun r => keeps_run (fun _ => rfl) (progOp_within r _),
    fun r => keeps_run (fun _ => rfl) (progOp_within r _),
    fun r => keeps_run (fun _ => rfl) (progOp_within r _),
    fun r => keeps_withOp (fun _ => rfl) fun _ _ => within_cases (finish_within _ _ _) (varRead_within _ _ _),
    fun r => keeps_inlineOp (fun _ => rfl) fun _ s => changeOf_within (fun _ _ _ t => (varWrite_within _ _ _ _ t).after) .refl,
    fun r => keeps_inlineOp (fun _ => rfl) fun _ s => changeOf_within (fun _ _ _ t => (constWrite_within _ _ _ _ t).after) .refl,
    fun r => keeps_inlineOp (fun _ => rfl) fun _ => progExchange_within _ _ _,
    keeps_run (fun _ => rfl) exchangeCapture_within,
    fun got => keeps_run (fun _ => rfl) (exchangeMapped_within got),
    keeps_run (fun _ => rfl) abandonDue_within⟩

/-- Settles O45, one command after another from the frame of its operation. -/
theorem fieldCommandsFrame : Obligations.FieldCommandsFrame := by
  unfold Obligations.FieldCommandsFrame
  exact ⟨fun port => keeps_run (fun _ => rfl) (knaDue_within port),
    fun port => keeps_run (fun _ => rfl) (macsecRekey_within port),
    fun port an sci kn tag => keeps_run (fun _ => rfl) (knaRx_within port an sci kn tag),
    fun port sci => keeps_run (fun _ => rfl) (oldSaExpiry_within port sci),
    fun r buf => keeps_withOp (fun _ => rfl) fun _ _ => frameTx_within _ _ _ _,
    fun port queue => keeps_run (fun _ => rfl) (frameLaunch_within port queue),
    fun r buf => keeps_withOp (fun _ => rfl) fun _ _ => within_choice (finish_within _ _ _) (gclLoad_within _ _),
    fun port => keeps_run (fun _ => rfl) (gclOperational_within port),
    fun port up => keeps_run (fun _ => rfl) (ringLink_within port up),
    fun port up => calm_run (fun _ => rfl) (ringLink_within port up) (ringLink_calm port up),
    keeps_run (fun _ => rfl) supervisionTx_within,
    keeps_run (fun _ => rfl) hsrExpiry_within,
    fun port => keeps_run (fun _ => rfl) (noPeers_within port),
    fun port f => keeps_run (fun _ => rfl) (ethRx_within port f),
    fun ch f => keeps_run (fun _ => rfl) (canRx_within ch f),
    fun ch node => keeps_run (fun _ => rfl) (canNodeTimeout_within ch node),
    fun r buf => keeps_withOp (fun _ => rfl) fun _ _ => within_choice (finish_within _ _ _) (canTx_within _ _ _ _),
    fun ch i how => keeps_run (fun _ => rfl) (canTxDone_within ch i how),
    fun ch tag => keeps_run (fun _ => rfl) (canTxDeadline_within ch tag),
    fun r => keeps_inlineOp (fun _ => rfl) fun _ => canCancel_within _ _,
    fun r buf => keeps_withOp (fun _ => rfl) fun _ _ => within_choice (finish_within _ _ _) (schedLoad_within _ _),
    fun ch row col => keeps_run (fun _ => rfl) (cellOpen_within ch row col),
    fun ch obj => keeps_run (fun _ => rfl) (windowDrop_within ch obj),
    fun r => keeps_inlineOp (fun _ => rfl) fun _ => within_choice (finish_within _ _ _) (canSleep_within _),
    fun r => keeps_inlineOp (fun _ => rfl) fun _ => within_cases (finish_within _ _ _) (wakeCan_complete_within _ 2),
    fun ch => keeps_run (fun _ => rfl) (wakeCan_within ch 1),
    fun ch => keeps_run (fun _ => rfl) (busOff_within ch),
    fun ch => calm_run (fun _ => rfl) (busOff_within ch) (busOff_calm ch),
    fun ch => keeps_run (fun _ => rfl) (busOffRecovery_within ch),
    fun ch level => keeps_run (fun _ => rfl) (dioEdge_within ch level),
    keeps_run (fun _ => rfl) dioLatch_within,
    calm_run (fun _ => rfl) dioLatch_within dioLatch_calm,
    fun ch => keeps_run (fun _ => rfl) (dioShutdown_within ch),
    fun ch => calm_run (fun _ => rfl) (dioShutdown_within ch) (dioShutdown_calm ch),
    fun ch holds => keeps_run (fun _ => rfl) (dioReadback_within ch holds),
    fun ch holds => calm_run (fun _ => rfl) (dioReadback_within ch holds) (dioReadback_calm ch holds),
    keeps_run (fun _ => rfl) logicSilence_within,
    calm_run (fun _ => rfl) logicSilence_within logicSilence_calm,
    keeps_run (fun _ => rfl) silenceEnd_within,
    calm_run (fun _ => rfl) silenceEnd_within silenceEnd_calm,
    fun group missing => keeps_run (fun _ => rfl) (groupSupply_within group missing),
    fun group missing => calm_run (fun _ => rfl) (groupSupply_within group missing) (groupSupply_calm group missing)⟩

/-- Settles O46, one command after another from the frame of its operation. -/
theorem imageCommandsFrame : Obligations.ImageCommandsFrame := by
  unfold Obligations.ImageCommandsFrame
  exact ⟨fun r => keeps_run (fun _ => rfl) (armOp_within false 0x0B20 r),
    fun r => keeps_run (fun _ => rfl) (armOp_within true 0x0B22 r),
    fun r => keeps_inlineOp (fun _ => rfl) fun _ => modelDisarm_within _ _ _,
    keeps_run (fun _ => rfl) modelRecord_within,
    fun r buf sigOk digestsOk => keeps_withOp (fun _ => rfl) fun _ _ => within_cases (updEnd_within _ _ _ _) (updManifest_within _ _ _),
    fun r sum data => keeps_withOp (fun _ => rfl) fun _ _ => updBlock_within _ _ _ _ _ _,
    fun r => keeps_inlineOp (fun _ => rfl) fun _ => updAbort_within _ _,
    keeps_run (fun _ => rfl) receiveTimeout_within,
    fun readOk => keeps_run (fun _ => rfl) (loaderWrite_within readOk),
    fun r => keeps_scopeOp (fun _ => rfl) fun _ => activateFw_within _,
    fun r => keeps_scopeOp (fun _ => rfl) fun _ => activateCfg_within _ _,
    fun r => keeps_inlineOp (fun _ => rfl) fun _ => updConfirm_within _ _,
    fun r => keeps_inlineOp (fun _ => rfl) fun _ => updFallback_within _ _,
    keeps_run (fun _ => rfl) autoConfirm_within,
    keeps_run (fun _ => rfl) stage5Timeout_within,
    keeps_run (fun _ => rfl) syncTmoExpiry_within,
    fun b => keeps_run (fun _ => rfl) (provisionKeys_within b),
    fun ok => keeps_run (fun _ => rfl) (provisionDone_within ok),
    fun r certOk => keeps_inlineOp (fun _ => rfl) fun _ => dupProvision_within _ _ _,
    fun certOk => keeps_run (fun _ => rfl) (autoProvision_within certOk),
    fun r b => keeps_withOp (fun _ => rfl) fun _ _ => keyProvision_within _ _ _⟩

/-- Settles O47, one command after another from the frame of its operation. -/
theorem duplexCommandsFrame : Obligations.DuplexCommandsFrame := by
  unfold Obligations.DuplexCommandsFrame
  exact ⟨keeps_run (fun _ => rfl) startupTake_within,
    calm_run (fun _ => rfl) startupTake_within startupTake_calm,
    fun h => keeps_run (fun _ => rfl) (heartbeat_within h),
    fun h => keeps_run (fun _ => rfl) (heartbeat_within h),
    keeps_run (fun _ => rfl) heartbeatTx_within,
    keeps_run (fun _ => rfl) linkSilence_within,
    calm_run (fun _ => rfl) linkSilence_within linkSilence_calm,
    fun mseq => keeps_run (fun _ => rfl) (peerAck_within mseq),
    fun mseq => keeps_run (fun _ => rfl) (peerResend_within mseq),
    fun mseq => calm_run (fun _ => rfl) (peerResend_within mseq) (peerResend_calm mseq),
    fun h cause => keeps_run (fun _ => rfl) (resignMsg_within h cause),
    fun h cause => calm_run (fun _ => rfl) (resignMsg_within h cause) (resignMsg_calm h cause),
    fun h => keeps_run (fun _ => rfl) (takeMsg_within h),
    keeps_run (fun _ => rfl) takeWait_within,
    calm_run (fun _ => rfl) takeWait_within takeWait_calm,
    fun h op withdraw => keeps_run (fun _ => rfl) (forwardMsg_within h op withdraw),
    fun h op status detail => keeps_run (fun _ => rfl) (confirmMsg_within h op status detail),
    keeps_run (fun _ => rfl) forwardTimeout_within,
    fun h result => keeps_run (fun _ => rfl) (selftestMsg_within h result),
    fun h result => calm_run (fun _ => rfl) (selftestMsg_within h result) (selftestMsg_calm h result),
    fun pass => keeps_run (fun _ => rfl) (selftestDone_within pass),
    fun pass => calm_run (fun _ => rfl) (selftestDone_within pass) (selftestDone_calm pass),
    fun h d => keeps_run (fun _ => rfl) (syncComplete_within h d),
    fun h m => keeps_run (fun _ => rfl) (recordMsg_within h m),
    fun h ask => keeps_run (fun _ => rfl) (morMsg_within h ask),
    fun r => keeps_inlineOp (fun _ => rfl) fun _ => dupHandover_within _ _,
    fun r => keeps_morOp (fun _ => rfl) (dupMorHand_within r),
    fun r => keeps_morOp (fun _ => rfl) (dupMorRelease_within r),
    fun r => keeps_morOp (fun _ => rfl) (dupMorTake_within r),
    fun r => keeps_inlineOp (fun _ => rfl) fun _ => dupTakeover_within _ _,
    fun r => calm_inlineOp (fun _ => rfl) (fun _ => dupTakeover_within _ _) (fun _ => dupTakeover_calm _ _),
    fun r => keeps_inlineOp (fun _ => rfl) fun _ => dupResync_within _ _⟩

/-- Settles O48, one command after another from the frame of its operation. -/
theorem roundAndSupplyCommandsFrame : Obligations.RoundAndSupplyCommandsFrame := by
  unfold Obligations.RoundAndSupplyCommandsFrame
  exact ⟨keeps_run (fun _ => rfl) roundStart_within,
    keeps_run (fun _ => rfl) roundStartTimeout_within,
    fun h phases anchor => keeps_run (fun _ => rfl) (roundStartMsg_within h phases anchor),
    keeps_run (fun _ => rfl) readClose_within,
    calm_run (fun _ => rfl) readClose_within readClose_calm,
    keeps_run (fun _ => rfl) sepWindowEnd_within,
    keeps_run (fun _ => rfl) writeOpen_within,
    fun theirs => keeps_run (fun _ => rfl) (roundClose_within theirs),
    keeps_run (fun _ => rfl) noRoundClosed_within,
    fun f => keeps_run (fun _ => rfl) (feedLost_within f),
    fun f => calm_run (fun _ => rfl) (feedLost_within f) (feedLost_calm f),
    fun f => keeps_run (fun _ => rfl) (feedReturned_within f),
    fun f => calm_run (fun _ => rfl) (feedReturned_within f) (feedReturned_calm f),
    fun mk => keeps_run (fun _ => rfl) (tempRefresh_within mk),
    fun mk => calm_run (fun _ => rfl) (tempRefresh_within mk) (tempRefresh_calm mk),
    keeps_run (fun _ => rfl) (beginHoldup_within .powerFail),
    calm_run (fun _ => rfl) (beginHoldup_within .powerFail) (beginHoldup_calm .powerFail),
    keeps_run (fun _ => rfl) presentLost_within,
    calm_run (fun _ => rfl) presentLost_within presentLost_calm,
    keeps_run (fun _ => rfl) (beginHoldup_within .overTemp),
    calm_run (fun _ => rfl) (beginHoldup_within .overTemp) (beginHoldup_calm .overTemp),
    keeps_run (fun _ => rfl) (beginHoldup_within .powerdown),
    calm_run (fun _ => rfl) (beginHoldup_within .powerdown) (beginHoldup_calm .powerdown),
    keeps_run (fun _ => rfl) endFinalCommit_within,
    keeps_run (fun _ => rfl) railsOff_within,
    keeps_run (fun _ => rfl) storeExhausted_within,
    keeps_run (fun _ => rfl) holdupReadySet_within,
    calm_run (fun _ => rfl) holdupReadySet_within holdupReadySet_calm,
    keeps_run (fun _ => rfl) holdupReadyLost_within,
    calm_run (fun _ => rfl) holdupReadyLost_within holdupReadyLost_calm,
    fun pct => keeps_run (fun _ => rfl) (holdupMeasure_within pct),
    fun pct => calm_run (fun _ => rfl) (holdupMeasure_within pct) (holdupMeasure_calm pct),
    fun p => keeps_run (fun _ => rfl) (sfpOverpower_within p),
    fun p => calm_run (fun _ => rfl) (sfpOverpower_within p) (sfpOverpower_calm p),
    fun p page => keeps_run (fun _ => rfl) (sfpInserted_within p page),
    fun p page => calm_run (fun _ => rfl) (sfpInserted_within p page) (sfpInserted_calm p page),
    keeps_run (fun _ => rfl) (beginModReset_within .watchdog 3 .automatic),
    fun _ => keeps_run (fun _ => rfl) (beginModReset_within .software 3 _),
    fun v => keeps_run (fun _ => rfl) (blkrst_within v),
    keeps_run (fun _ => rfl) standbyEntry_within⟩

end Sys2Proof.Machine
end

section
/-!
PROOFS. The state after reset (R546), the latches of NET, LEG and BUS (R452), and the lock bits with GLB_LOCKSET and GLB_LOCKSTAT (R547, R549, R553).
-/
set_option Elab.async false
namespace Sys2Proof.Machine

/-! ## What a command leaves -/

/-- `P` holds of what an operation leaves. A proof may then rewrite the operation apart from `P`. -/
abbrev Leaves (P : State → Prop) (t : State) : Prop := P t

theorem does_leave {i : Instr} {f : State → State} {s : State} {P : State → Prop} (he : exec i s = run f s) (on : s.pwr.on = true)
    (h : Leaves P (f s)) : Does i s P := does_run he on h

/-! ## The latches of NET, LEG and BUS -/

section NetReads
variable {who : Requester} {a : Nat} {s : State}

theorem lowerRead_out_net (h : a < 0x0C200) : (lowerRead who a s).out = .regRead who a (seen who a s) :: s.out := by
  have word : ¬(0x0C200 ≤ a ∧ a < 0x0C400 ∧ a % 0x10 = 0) := fun range => Nat.not_le.2 h range.1
  unfold lowerRead
  dsimp only
  rw [if_neg word]
  split <;> rfl

/-- A register of NET, LEG or BUS answers what the requester sees: the value latched for it, or the register (R452). -/
theorem netRegs_seen (h : a ∈ netRegs) (live : latched who a s = none ∨ Answers a s) : .regRead who a (seen who a s) ∈ (fullRead who a s).out := by
  have plain : ReadsPlainly a ∧ a < 0x0C200 := by
    have all : ∀ a ∈ netRegs, ReadsPlainly a ∧ a < 0x0C200 := by unfold ReadsPlainly; decide
    exact all a h
  by_cases ans : Answers a s
  · rw [fullRead_plain plain.1 ans]
    split
    · rw [lowerRead_out_net plain.2]
      exact List.mem_cons_self
    · split
      · exact List.mem_cons_self
      · next free =>
        rw [seen, Option.not_isSome_iff_eq_none.1 free, Option.getD_none]
        exact rcRead_mem who a s
  · have dead : (!present a s || inBlockReset a s) = true := by
      unfold Answers at ans
      cases hp : present a s with
      | false => rfl
      | true =>
        rw [Bool.eq_true_of_not_eq_false fun hb => ans ⟨hp, hb⟩]
        rfl
    have word : a / 4 * 4 = a := by obtain ⟨⟨aligned, -⟩, -⟩ := plain; exact Nat.div_mul_cancel (Nat.dvd_of_mod_eq_zero aligned)
    unfold fullRead
    dsimp only
    rw [word, if_pos dead, seen, live.resolve_right ans, Option.getD_none]
    exact rcRead_mem who a s

end NetReads

/-! ## Lock bits -/

/-- A register whose row lies below an address is below it. -/
theorem rowAt_below {l : List RegRow} {a top : Nat} {r : RegSpec} (rows : ∀ x ∈ l, x.spec.rwl = 0 ∨ 0 < x.stride ∧ x.base + x.stride * x.count ≤ top)
    (spec : rowAt a l = some r) (high : top ≤ a) : r.rwl = 0 := by
  obtain ⟨x, found, rfl⟩ := Option.map_eq_some_iff.1 spec
  rcases rows x (List.mem_of_find?_eq_some found) with free | ⟨positive, low⟩
  · exact free
  · have inside := List.find?_some found
    simp only [Bool.and_eq_true, decide_eq_true_eq] at inside
    have := (Nat.div_lt_iff_lt_mul positive).1 inside.2
    rw [Nat.mul_comm] at this
    exact absurd (Nat.lt_of_lt_of_le ((Nat.sub_lt_iff_lt_add' inside.1.1).1 this) low) (Nat.not_lt.2 high)

/-- A chain of tests answers what its first test does not only past that test. -/
theorem ite_some_eq_of_ne {p : Prop} [Decidable p] {b c : Block} {o : Option Block} (h : (if p then some b else o) = some c) (ne : b ≠ c) :
    ¬p ∧ o = some c := by
  by_cases hp : p
  · rw [if_pos hp] at h
    exact absurd (Option.some.inj h) ne
  · rw [if_neg hp] at h
    exact ⟨hp, h⟩

theorem blockAt_pmc {a : Nat} (h : blockAt a = some .pmc) : 0x0C000 ≤ a := by
  unfold blockAt at h
  iterate 4 replace h := (ite_some_eq_of_ne h (by decide)).2
  exact Nat.not_lt.1 (ite_some_eq_of_ne h (by decide)).1

theorem blockAt_glb {a : Nat} (h : blockAt a = some .glb) : 0x7F000 ≤ a := by
  unfold blockAt at h
  iterate 17 replace h := (ite_some_eq_of_ne h (by decide)).2
  by_contra low
  rw [if_neg (mt And.left low)] at h
  cases h

theorem regSpec_pmc_glb_rwl {a : Nat} {r : RegSpec} (block : blockAt a = some .pmc ∨ blockAt a = some .glb) (spec : regSpec a = some r) : r.rwl = 0 := by
  have evr : ∀ x ∈ regsEvr, x.spec.rwl = 0 ∨ 0 < x.stride ∧ x.base + x.stride * x.count ≤ 0x0C000 := by decide
  have rest : ∀ x ∈ regsRest, x.spec.rwl = 0 ∨ 0 < x.stride ∧ x.base + x.stride * x.count ≤ 0x7F000 := by decide
  unfold regSpec at spec
  rcases block with pmc | glb
  · rw [pmc] at spec
    exact rowAt_below evr spec (blockAt_pmc pmc)
  · rw [glb] at spec
    exact rowAt_below rest spec (blockAt_glb glb)

/-- No two blocks of GLB_LOCKSTAT share a lock bit. -/
theorem lockAddr_injective : ∀ i < 16, ∀ j < 16, lockAddr (lockOrder.getD i .glb) = lockAddr (lockOrder.getD j .glb) → i = j := by decide

theorem getB_locksetStep {a i j : Nat} {s : State} (ha : lockAddr (lockOrder.getD i .glb) = some a) (hi : i < 16) (hj : j < 16) (here : present a s = true) :
    getB a 31 (locksetStep s j) = (getB a 31 s || decide (i = j)) := by
  by_cases same : i = j
  · subst same
    rw [getB_locksetStep_same ha here, decide_eq_true rfl, Bool.or_true]
  · rw [decide_eq_false same, Bool.or_false]
    unfold locksetStep
    split
    · next c hc =>
      have other : a ≠ c := by rintro rfl; exact same (lockAddr_injective i hi j hj (ha.trans hc.symm))
      split
      · exact getB_setB_reg _ _ _ _ _ _ other
      · rfl
    · rfl

theorem getB_foldl_locksetStep_eq {a i : Nat} (ha : lockAddr (lockOrder.getD i .glb) = some a) (hi : i < 16) (l : List Nat) (hl : ∀ j ∈ l, j < 16)
    (s : State) (here : present a s = true) : getB a 31 (l.foldl locksetStep s) = (getB a 31 s || decide (i ∈ l)) := by
  induction l generalizing s with
  | nil => simp
  | cons j l ih =>
    rw [List.foldl_cons, ih (fun k hk => hl k (List.mem_cons_of_mem j hk)) _ (by rw [present_locksetStep, here]),
      getB_locksetStep ha hi (hl j List.mem_cons_self) here]
    simp [Bool.or_assoc]

/-- A write of GLB_LOCKSET with its key sets the named lock bits and leaves every other (R549). -/
theorem getB_lockset_eq {a i : Nat} {v : Word} {s : State} (key : fld v 31 16 = 0x5A3C) (hi : i < 16) (ha : lockAddr (lockOrder.getD i .glb) = some a)
    (here : present a s = true) : getB a 31 (lockset v s) = (getB a 31 s || bitAt v i) := by
  rw [lockset_eq key, getB_foldl_locksetStep_eq ha hi _ (fun j hj => by simpa using (List.mem_filter.1 hj).1) s here]
  simp [hi]

/-- The sum of the powers of two of chosen bits shows each of them. -/
theorem testBit_sum_of_bits (p : Nat → Bool) (n : Nat) : ((List.range n).filter p).foldl (fun m i => m + 2 ^ i) 0 < 2 ^ n ∧
    ∀ i < n, (((List.range n).filter p).foldl (fun m i => m + 2 ^ i) 0).testBit i = p i := by
  induction n with
  | zero => simp
  | succ n ih =>
    obtain ⟨small, bits⟩ := ih
    rw [List.range_succ, List.filter_append, List.foldl_append]
    generalize ((List.range n).filter p).foldl (fun m i => m + 2 ^ i) 0 = m at small bits
    have top : (2 ^ n + m).testBit n = true := by rw [Nat.testBit_two_pow_add_eq, Nat.testBit_lt_two_pow small]; rfl
    cases set : p n with
    | false =>
      refine ⟨by simp [set]; omega, fun i hi => ?_⟩
      rcases Nat.lt_succ_iff_lt_or_eq.1 hi with low | rfl
      · simpa [set] using bits i low
      · simpa [set] using Nat.testBit_lt_two_pow small
    | true =>
      refine ⟨by simp [set]; omega, fun i hi => ?_⟩
      rcases Nat.lt_succ_iff_lt_or_eq.1 hi with low | rfl
      · simpa [set, Nat.add_comm m, Nat.testBit_two_pow_add_gt low] using bits i low
      · simpa [set, Nat.add_comm m] using top

/-- GLB_LOCKSTAT reports the lock bit of each block (R553). -/
theorem lockstat_reports {i : Nat} {s : State} (hi : i < 16) (runs : s.start.blkRst.contains .glb = false) :
    bitAt (regRead 0x7F024 s) i = lockOf (lockOrder.getD i .glb) s := by
  have block : blockAt 0x7F024 = some .glb := by decide
  have known : (regSpec 0x7F024).isNone = false := by decide
  obtain ⟨-, bits⟩ := testBit_sum_of_bits (fun i => lockOf (lockOrder.getD i .glb) s) 16
  simp only [regRead, present, regView, viewGlb, inBlockReset, block, known, runs, Bool.not_true, Bool.or_self, Bool.false_eq_true, if_false,
    show (0x7F024 : Nat) ≠ 0x7F004 by decide, show (0x7F024 : Nat) ≠ 0x7F008 by decide, if_true]
  rw [bitAt, BitVec.getLsbD_ofNat, bits i hi, decide_eq_true (Nat.lt_trans hi (by decide)), Bool.true_and]

theorem lockset_lockOf {i : Nat} {b : Block} {v : Word} {s : State} (key : fld v 31 16 = 0x5A3C) (stage : getF 0x7F01C 3 0 s ≠ 15)
    (runs : s.start.blkRst.contains .glb = false) (bit : lockOrder[i]? = some b) :
    lockOf b (lockset v s) = (lockOf b s || bitAt v i) ∧ bitAt (regRead 0x7F024 (lockset v s)) i = lockOf b (lockset v s) := by
  have hi : i < 16 := (List.getElem?_eq_some_iff.1 bit).1
  have named : lockOrder.getD i .glb = b := by rw [List.getD_eq_getElem?_getD, bit, Option.getD_some]
  have start : (lockset v s).start = s.start := (lockset_within v s).parts .start (by decide)
  obtain ⟨a, ha⟩ : ∃ a, lockAddr (lockOrder.getD i .glb) = some a :=
    Option.isSome_iff_exists.1 ((by decide : ∀ i < 16, (lockAddr (lockOrder.getD i .glb)).isSome = true) i hi)
  have here : present a s = true := by
    unfold present
    have blocked : ∀ i < 16, ∀ a, lockAddr (lockOrder.getD i .glb) = some a → (blockAt a).isSome = true := by
      intro i hi a e
      have all : ∀ i < 16, ((lockAddr (lockOrder.getD i .glb)).bind blockAt).isSome = true := by decide
      have located := all i hi
      rw [e] at located
      exact located
    have some_ := blocked i hi a ha
    split <;> simp_all
  refine ⟨?_, by rw [lockstat_reports hi (by rw [start, runs]), named]⟩
  rw [named] at ha
  rw [lockOf_eq ha, lockOf_eq ha, getB_lockset_eq key hi (by rw [named, ha]) here]

/-! ## The statements -/

/-- Settles O5, one value after another. That the state holds the values of log entry 3 where the spec leaves them to the configuration or to manufacture (a
module without keys, one power-on with 0xFF01) is the model's choice. -/
theorem resetStateIsTheSpecs : Obligations.ResetStateIsTheSpecs := by
  unfold Obligations.ResetStateIsTheSpecs
  refine ⟨rfl, rfl, rfl, fun a => rfl, rfl, rfl, fun b => ?_, by decide, rfl, rfl, by decide, rfl, rfl, rfl, by decide, by decide⟩
  cases b <;> decide

/-- Settles O51: a latched register answers its latch, and one that is not latched the register. -/
theorem netReadLatchesAll : Obligations.NetReadLatchesAll := by
  unfold Obligations.NetReadLatchesAll
  refine ⟨fun s who on hr ans => does_run rfl on ?_, fun s who a v on hr net ans held => does_run rfl on ?_,
    fun s who a on hr net free => does_run rfl on ?_, by decide⟩
  · rw [readBy_out hr, fullRead_net ans]
    exact ⟨netRead_mem who s, fun a net => by rw [latched_readBy hr, fullRead_net ans, latched_netRead net]⟩
  · have answers := netRegs_seen net (.inr ans) (who := who)
    rwa [seen, held, Option.getD_some, ← readBy_out hr] at answers
  · have answers := netRegs_seen net (.inl free)
    rwa [seen, free, Option.getD_none, ← readBy_out hr] at answers

/-- Settles O52. -/
theorem lockBits : Obligations.LockBits := by
  unfold Obligations.LockBits
  refine ⟨by decide, fun b s => ?_, rfl, rfl, fun a r block spec => regSpec_pmc_glb_rwl block spec, fun s v on key stage runs => does_run rfl on ?_⟩
  · cases h : lockAddr b <;> simp [lockOf, h]
  · exact fun i b bit => lockset_lockOf key stage runs bit

end Sys2Proof.Machine
end

section
/-!
PROOFS. The commands of the performance counters (R518 to R523).
-/
set_option Elab.async false
namespace Sys2Proof.Machine

section Counters
variable {who : Requester} {p k : Nat} {v : Word} {s : State}

@[simp] theorem pmcAdd_bw (e n : Nat) (s : State) : (pmcAdd e n s).pmc.bw = s.pmc.bw := by
  unfold pmcAdd
  split <;> rfl

theorem readBy_bw {f : State → State} (h : reaches who s = true) : (readBy who f s).pmc.bw = (f s).pmc.bw := by
  rw [readBy_eq h]
  split
  · exact pmcAdd_bw _ _ _
  · rfl

/-- PMC_CTRL has no field with a range and no lock: a write of it is taken. -/
theorem plainWrite_pmcCtrl : ∃ w, plainWrite 0x0C000 v s = setReg 0x0C000 w s := by
  have block : blockAt 0x0C000 = some .pmc := by decide
  obtain ⟨r, spec⟩ : ∃ r, regSpec 0x0C000 = some r := Option.isSome_iff_exists.1 (by decide)
  exact ⟨_, plainWrite_unlocked block spec rfl rfl⟩

/-- SNAP is a snapshot of the state whose PMC_CTRL has the write. -/
theorem snapWrite_eq (ans : Answers 0x0C000 s) : ∃ w, snapWrite s = pmcSnap (setReg 0x0C000 w s) := by
  obtain ⟨w, written⟩ := plainWrite_pmcCtrl (v := getReg 0x0C000 s &&& 1 ||| 2) (s := s)
  have snap : bitAt (getReg 0x0C000 s &&& 1 ||| 2) 1 = true := by simp [bitAt]
  have keep : bitAt (getReg 0x0C000 s &&& 1 ||| 2) 2 = false := by simp [bitAt]
  refine ⟨w, ?_⟩
  simp only [snapWrite, regWrite_pmc ans, writeEvr, if_neg (show (0x0C000 : Nat) ≠ 0x0A044 by decide), if_true, snap, keep, written]
  rfl

/-- CLEAR clears the counters of the state whose PMC_CTRL has the write. -/
theorem clearWrite_eq (ans : Answers 0x0C000 s) : ∃ w, clearWrite s = pmcClear (setReg 0x0C000 w s) := by
  obtain ⟨w, written⟩ := plainWrite_pmcCtrl (v := getReg 0x0C000 s &&& 1 ||| 4) (s := s)
  have snap : bitAt (getReg 0x0C000 s &&& 1 ||| 4) 1 = false := by simp [bitAt]
  have clear : bitAt (getReg 0x0C000 s &&& 1 ||| 4) 2 = true := by simp [bitAt]
  refine ⟨w, ?_⟩
  simp only [clearWrite, regWrite_pmc ans, writeEvr, if_neg (show (0x0C000 : Nat) ≠ 0x0A044 by decide), if_true, snap, clear, written]
  rfl

theorem pmcClear_empties (s : State) : (pmcClear s).pmc.count = [] ∧ (pmcClear s).pmc.snap = [] := by
  simp only [pmcClear, List.range, List.range.loop, List.foldl, setReg_pmc]
  exact ⟨trivial, trivial⟩

/-- A snapshot for the ring shows its MON in the registers, as SNAP does (R521). -/
theorem pmcSampleOut_mon (s : State) : getReg 0x0C008 (pmcSampleOut s) = lo32 s.tim.mon ∧ getReg 0x0C00C (pmcSampleOut s) = hi32 s.tim.mon := by
  obtain ⟨-, -, -, lo, hi⟩ := pmcSnap_spec s
  have delivered : ∀ a ∈ [0x0C008, 0x0C00C], ∀ t, getReg a (deliver 51 (pmcItem t) t) = getReg a t := fun a ha t =>
    (deliver_within _ _ _).regs _ rfl a (by revert a; decide)
  unfold pmcSampleOut
  dsimp only
  rw [delivered _ (by simp), delivered _ (by simp)]
  exact ⟨lo, hi⟩

theorem pmcSelWrite_takes (low : k < 32) (event : fld v 7 0 ≤ 0x9F) : getReg (0x0C100 + 4 * k) (pmcSelWrite k v s) = v &&& 0x800000FF ∧
    (fld v 7 0 ≠ getF (0x0C100 + 4 * k) 7 0 s → tget (pmcSelWrite k v s).pmc.count k = none) := by
  rw [pmcSelWrite, if_neg (Nat.not_le.2 low), if_neg (Nat.not_lt.2 event)]
  by_cases changed : fld v 7 0 = getF (0x0C100 + 4 * k) 7 0 s
  · rw [if_neg (by simpa using changed)]
    exact ⟨getReg_setReg_same _ _ _, fun other => absurd changed other⟩
  · rw [if_pos (by simpa using changed)]
    exact ⟨getReg_setReg_same _ _ _, fun _ => tget_tdel_same⟩

theorem bwcfgWrite_takes (path : p < 5) (low : fld v 15 0 ≠ 0) (high : fld v 15 0 ≤ 60000) :
    getReg (0x0C600 + 0x20 * p) (bwcfgWrite p v s) = v &&& 0x8000FFFF ∧ (v &&& 0x8000FFFF ≠ getReg (0x0C600 + 0x20 * p) s →
      (tgetD (bwcfgWrite p v s).pmc.bw p {}).tx = 0 ∧ (tgetD (bwcfgWrite p v s).pmc.bw p {}).rx = 0) := by
  rw [bwcfgWrite, if_neg (Nat.not_le.2 path), if_neg (not_or.2 ⟨low, Nat.not_lt.2 high⟩)]
  by_cases changed : v &&& 0x8000FFFF = getReg (0x0C600 + 0x20 * p) s
  · rw [if_neg (by simpa using changed)]
    exact ⟨getReg_setReg_same _ _ _, fun other => absurd changed other⟩
  · rw [if_pos (by simpa using changed)]
    exact ⟨getReg_setReg_same _ _ _, fun _ => by simp⟩

theorem bwWindowEnd_counts (path : p < 5) (counts : getB (0x0C600 + 0x20 * p) 31 s = true)
    (due : onMultiple (getF (0x0C600 + 0x20 * p) 15 0 s * 1000000) (tgetD s.pmc.bw p {}).at_ s.tim.mon = true) (runs : (tgetD s.pmc.bw p {}).running = true) :
    getReg (0x0C604 + 0x20 * p) (bwWindowEnd p s) = lo32 (min ((tgetD s.pmc.bw p {}).tx / 64) 0xFFFFFFFF) ∧
    getReg (0x0C608 + 0x20 * p) (bwWindowEnd p s) = lo32 (min ((tgetD s.pmc.bw p {}).rx / 64) 0xFFFFFFFF) ∧ (tgetD (bwWindowEnd p s).pmc.bw p {}).tx = 0 := by
  have tx : 0x0C604 + 0x20 * p = 0x0C600 + 0x20 * p + 4 := Nat.add_right_comm 0x0C600 4 _
  have rx : 0x0C608 + 0x20 * p = 0x0C600 + 0x20 * p + 8 := Nat.add_right_comm 0x0C600 8 _
  rw [tx, rx, bwWindowEnd, if_neg (by simpa [counts] using path)]
  generalize 0x0C600 + 0x20 * p = a at due
  dsimp only
  rw [if_neg (by simp [due]), if_neg (by simp [runs])]
  exact ⟨by simp [getReg_setReg], by simp [getReg_setReg], by simp⟩

theorem fullRead_lastTx (path : p < 5) (ans : Answers (0x0C604 + 0x20 * p) s) : fullRead who (0x0C604 + 0x20 * p) s = lastTxRead who p s := by
  obtain ⟨here, calm⟩ := ans
  have place : ∀ p < 5, (0x0C604 + 0x20 * p) / 4 * 4 = 0x0C604 + 0x20 * p ∧ (0x0C604 + 0x20 * p - 0x0C600) / 0x20 = p ∧
      0x0C604 + 0x20 * p ≠ 0x0A060 ∧ 0x0C604 + 0x20 * p ≠ 0x0A07C ∧
      0x0C600 ≤ 0x0C604 + 0x20 * p ∧ 0x0C604 + 0x20 * p < 0x0C6A0 ∧ (0x0C604 + 0x20 * p) % 0x20 = 4 := by decide
  obtain ⟨word, index, notCopy, notAdvance, counts⟩ := place p path
  unfold fullRead
  dsimp only
  rw [word, index, if_neg (by rw [here, calm]; decide), if_neg notCopy, if_neg notAdvance, if_pos counts]

theorem lastTxRead_leaves (path : p < 5) : (lastTxRead who p s).out = .regRead who (0x0C604 + 0x20 * p) (getReg (0x0C604 + 0x20 * p) s) :: s.out ∧
    (tgetD (lastTxRead who p s).pmc.bw p {}).rxLatch = some (getReg (0x0C608 + 0x20 * p) s) := by
  have tx : 0x0C604 + 0x20 * p = 0x0C600 + 0x20 * p + 4 := Nat.add_right_comm 0x0C600 4 _
  have rx : 0x0C608 + 0x20 * p = 0x0C600 + 0x20 * p + 8 := Nat.add_right_comm 0x0C600 8 _
  rw [lastTxRead, if_neg (Nat.not_le.2 path), tx, rx]
  exact ⟨rfl, by simp⟩

end Counters

/-- Settles O12, a clause per command. -/
theorem counterCommandsComplete : Obligations.CounterCommandsComplete := by
  unfold Obligations.CounterCommandsComplete
  refine ⟨?snap, ?clear, ?periodic, ?sample, ?sel, ?bwcfg, ?window, ?lastTx⟩
  case snap =>
    intro s on ans
    refine does_run (f := snapWrite) rfl on ?_
    obtain ⟨w, written⟩ := snapWrite_eq ans
    obtain ⟨taken, mon, kept, lo, hi⟩ := pmcSnap_spec (setReg 0x0C000 w s)
    rw [written]
    refine ⟨taken, mon, fun k _ shown => kept k ?_, lo, hi⟩
    rwa [getF, getReg_setReg_other _ _ _ _ (Nat.ne_of_gt (Nat.lt_add_right _ (by decide))), ← getF]
  case clear =>
    intro s on ans
    refine does_run (f := clearWrite) rfl on ?_
    obtain ⟨w, written⟩ := clearWrite_eq ans
    rw [written]
    exact pmcClear_empties _
  case periodic =>
    intro s on due
    refine does_run (f := pmcPeriodic) rfl on ?_
    rw [pmcPeriodic, if_pos due]
    exact pmcSampleOut_mon _
  case sample =>
    intro s r b on asked param
    refine does_run rfl on ?_
    rw [inlineOp_asked asked, pmcSample, if_neg (not_not.2 param), getReg_complete, getReg_complete]
    exact ⟨complete_mem _ _ _ _ _ _, pmcSampleOut_mon s⟩
  case sel =>
    intro s k v on low ans event
    refine does_run rfl on ?_
    rw [if_neg (Nat.not_le.2 low), regWrite_sel low ans]
    exact pmcSelWrite_takes low event
  case bwcfg =>
    intro s p v on path ans low high
    refine does_run rfl on ?_
    rw [if_neg (Nat.not_le.2 path), regWrite_bwcfg path ans]
    exact bwcfgWrite_takes path low high
  case window => exact fun s p on path counts due runs => does_run rfl on (bwWindowEnd_counts path counts due runs)
  case lastTx =>
    intro s who p on path hr ans
    refine does_run rfl on ?_
    rw [if_neg (Nat.not_le.2 path), readBy_out hr, readBy_bw hr, fullRead_lastTx path ans]
    exact lastTxRead_leaves path

end Sys2Proof.Machine
end

section
/-!
PROOFS. The tokens of the recorder (R511), the reactions while a sequence runs (R503), and the resignation before higher claims (R403).
-/
set_option Elab.async false
namespace Sys2Proof.Machine

open Keeps

/-! ## Records and their tokens (R511) -/

section Records
variable {c f x : Nat} {s : State}

/-- A record that no limit holds back is staged with the next number and the pending count of its code, which returns to 0. -/
theorem record_staged (kept : bitAt (getReg (0x0B000 + 4 * c) s) 0 = false ∨ c < 0xE0) (token : fld (getReg (0x0B000 + 4 * c) s) 15 8 = 0 ∨
    tgetD s.evr.spent c 0 < max 1 (fld (getReg (0x0B000 + 4 * c) s) 7 4)) (room : s.evr.staged.length < 255) :
    ∃ e : Evt, e.code = c ∧ e.seq = s.evr.nextSeq ∧ e.suppr = tgetD s.evr.pend c 0 ∧ e.arg = x ∧ (record c f x s).evr.staged = s.evr.staged ++ [e] ∧
      (record c f x s).evr.pend = tdel s.evr.pend c ∧
      (record c f x s).evr.spent = if fld (getReg (0x0B000 + 4 * c) s) 15 8 = 0 then s.evr.spent else tput s.evr.spent c (tgetD s.evr.spent c 0 + 1) := by
  have passes : ¬((bitAt (getReg (0x0B000 + 4 * c) s) 0 && decide (0xE0 ≤ c)) || (fld (getReg (0x0B000 + 4 * c) s) 15 8 != 0 &&
      decide (max 1 (fld (getReg (0x0B000 + 4 * c) s) 7 4) ≤ tgetD s.evr.spent c 0))) = true := by
    rw [Bool.or_eq_true, Bool.and_eq_true, Bool.and_eq_true, decide_eq_true_iff, decide_eq_true_iff, bne_iff_ne]
    rintro (⟨limited, condition⟩ | ⟨limited, full⟩)
    · exact kept.elim (fun open_ => Bool.false_ne_true (open_.symm.trans limited)) (fun source => Nat.not_le.2 source condition)
    · exact token.elim limited (fun held => Nat.not_le.2 held full)
  unfold record
  dsimp only
  rw [if_neg passes]
  generalize hu : ({ s with evr := { s.evr with pend := _, spent := _, refillAt := _ } } : State) = u
  obtain ⟨e, code, seq, suppr, arg, recorded⟩ := keepRec_evr c f x (tgetD s.evr.pend c 0) u (by rw [← hu]; exact Nat.lt_trans room (by decide))
  refine ⟨e, code, by rw [seq, ← hu], suppr, arg, ?_⟩
  rw [if_neg (by rw [recorded, ← hu]; simp; omega), recorded, ← hu]
  exact ⟨rfl, rfl, rfl⟩

/-- A record that finds no token is suppressed, and counted for its code and in EVR_SUPPR. -/
theorem record_suppressed (limited : fld (getReg (0x0B000 + 4 * c) s) 15 8 ≠ 0)
    (spent : max 1 (fld (getReg (0x0B000 + 4 * c) s) 7 4) ≤ tgetD s.evr.spent c 0) : (record c f x s).evr.staged = s.evr.staged ∧
    tgetD (record c f x s).evr.pend c 0 = min (tgetD s.evr.pend c 0 + 1) 0xFFFF ∧ getReg 0x0A034 (record c f x s) = satAdd32 (getReg 0x0A034 s) 1 := by
  unfold record
  dsimp only
  rw [if_pos (by simp only [bne_iff_ne.2 limited, decide_eq_true spent, Bool.and_self, Bool.or_true])]
  exact ⟨by simp, by simp [tmod], by rw [getReg_pmcAdd, incReg, getReg_setReg_same]; rfl⟩

end Records

/-- Settles O60: the record with a token, the one without, and the refill. -/
theorem tokensLimitRecords : Obligations.TokensLimitRecords := by
  unfold Obligations.TokensLimitRecords
  refine ⟨fun s c f x code open_ limited token room => ?_, fun s c f x limited spent => record_suppressed limited spent,
    fun s c on due => does_run rfl on (evrTokenRefill_spent due)⟩
  obtain ⟨e, code, -, suppr, arg, staged, pend, spent⟩ := record_staged (f := f) (x := x) (.inl open_)
    (.inr (Nat.lt_of_lt_of_le token (Nat.le_max_right _ _))) room
  rw [spent, if_neg limited, pend]
  exact ⟨tgetD_tput_same _ _ _ _, tgetD_tdel_same _ _ _, e, staged, code, suppr, arg⟩

/-! ## Reactions while a sequence runs (R503) -/

/-- What the reactions of a source leave while a sequence runs. -/
structure RunningView where
  start : StartSt
  pwr   : PwrSt
  dup   : DupSt
  pair  : Bool

/-- A sequence runs in a state with these parts. -/
def Running (v : RunningView) (s : State) : Prop := seqRuns s = true ∧ s.start = v.start ∧ s.pwr = v.pwr ∧ s.dup = v.dup ∧ duplex s = v.pair

theorem Keeps.running_same {s t : State} (k : Keeps Running s t) (runs : seqRuns s = true) :
    t.start = s.start ∧ t.pwr = s.pwr ∧ t.dup = s.dup ∧ duplex t = duplex s :=
  (k ⟨s.start, s.pwr, s.dup, duplex s⟩ ⟨runs, rfl, rfl, rfl, rfl⟩).2

theorem running_within {ps : List Part} {rs : List Nat} {s t : State} (w : Within ps (some rs) s t) (start : .start ∉ ps := by decide)
    (pwr : .pwr ∉ ps := by decide) (dup : .dup ∉ ps := by decide) (strap : 0x0E004 ∉ rs := by decide) (slot : 0x7F040 ∉ rs := by decide) :
    Keeps Running s t := by
  have regs := w.regs rs rfl
  intro v
  rintro ⟨runs, running⟩
  refine ⟨by rwa [seqRuns, w.parts .pwr pwr], ?_⟩
  rwa [w.parts .start start, w.parts .pwr pwr, w.parts .dup dup, duplex, slotId, getB, getF, regs _ strap, regs _ slot]

theorem running_unmoved : UnmovedByFaults Running where
  own _ _ := refl
  count n s hn := running_within (incReg_within _ _ s) (strap := by simp; omega) (slot := by simp; omega)
  frame w := running_within w
  blk n s v running := by rw [reactBlk, if_pos running.1]; exact running
  mod n s v running := by rw [beginModReset, if_pos running.1]; exact running

section Sequence
variable {n count : Nat} {forced : Bool} {why : Option Nat} {s : State}

theorem reactions_stop (runs : seqRuns s = true) (blk mod : Bool) :
    (if mod = true then beginModReset (.fault n) 3 .automatic (if blk = true then reactBlk n s else s) else if blk = true then reactBlk n s else s) = s := by
  have noBlk : reactBlk n s = s := by rw [reactBlk, if_pos runs]
  have noMod : beginModReset (.fault n) 3 .automatic s = s := by rw [beginModReset, if_pos runs]
  rw [noBlk, ite_self, noMod, ite_self]

/-- While a sequence runs a source that becomes active is recorded and told, and nothing else. -/
theorem activate_records (runs : seqRuns s = true) : ∃ f x, ∃ p : FcoSt, p.waitBlk = s.fco.waitBlk ∧
    Within [.hif, .pmc, .out] (some []) (record n f x { s with fco := p }) (activate n count forced why s) := by
  have message (t : State) : Within [.hif, .pmc, .out] (some []) t (sendMsg 0 t) := (sendMsg_within 0 t).mono (by decide) (by simp [regsLe])
  have nmi (t : State) : Within [.hif, .pmc, .out] (some []) t (emit (.nmi n) t) := (emit_within _ t).mono (by decide) (by simp [regsLe])
  have told (r : State) (int urg : Bool) : Within [.hif, .pmc, .out] (some []) r (if urg = true then
      emit (.nmi n) (sendMsg 0 (if int = true then sendMsg 0 r else r)) else if int = true then sendMsg 0 r else r) := by
    have first := Within.ite (c := int = true) (message r) Within.refl
    exact Within.ite ((first.trans (message _)).trans (nmi _)) first
  unfold activate
  dsimp only
  rw [reactions_stop]
  · refine ⟨_, _, _, ?_, told _ _ _⟩
    rfl
  · rw [seqRuns, (told _ _ _).parts .pwr (by decide), record_pwr]
    exact runs

/-- What an occurrence may do: nothing, a count, or an activation. -/
theorem occur_cases (n : Nat) (forced : Bool) (why : Option Nat) (s : State) : occur n forced why s = s ∨ ∃ p : FcoSt, p.waitBlk = s.fco.waitBlk ∧
    (occur n forced why s = { incReg (0x08800 + 4 * n) 1 s with fco := p } ∨
      ∃ c, occur n forced why s = activate n c forced why { incReg (0x08800 + 4 * n) 1 s with fco := p }) := by
  have fco : (incReg (0x08800 + 4 * n) 1 s).fco = s.fco := incReg_fco _ _ s
  unfold occur
  generalize incReg (0x08800 + 4 * n) 1 s = u at fco
  dsimp only
  rw [← fco]
  split
  · exact .inl rfl
  · refine .inr ?_
    generalize (if windowOpen n u = true then tgetD u.fco.window n 0 else 0) + 1 = c
    split
    · exact ⟨u.fco, rfl, .inl rfl⟩
    · split
      · split
        · refine ⟨_, ?_, .inl rfl⟩
          rfl
        · refine ⟨_, ?_, .inr ⟨_, rfl⟩⟩
          rfl
      · refine ⟨_, ?_, .inl rfl⟩
        rfl

theorem raise_running (runs : seqRuns s = true) : (raise n s).start = s.start ∧ (raise n s).pwr = s.pwr ∧ (raise n s).dup = s.dup ∧
    duplex (raise n s) = duplex s := (running_unmoved.occur n false none s).running_same runs

theorem raise_waitBlk (runs : seqRuns s = true) : (raise n s).fco.waitBlk = s.fco.waitBlk := by
  rcases occur_cases n false none s with same | ⟨p, waits, counted | ⟨c, activated⟩⟩
  · rw [raise, same]
  · rw [raise, counted, ← waits]
  · obtain ⟨f, x, q, keeps, told⟩ := activate_records (n := n) (count := c) (forced := false) (why := none)
      (s := { incReg (0x08800 + 4 * n) 1 s with fco := p }) (by rw [seqRuns]; exact runs)
    rw [raise, activated, told.parts .fco (by decide), record_fco, ← waits]
    exact keeps

/-- An event source whose THRESH is at most 1 becomes active at its occurrence. -/
theorem raise_activates (low : n < 224) (known : (srcRow n).known = true) (event : (srcRow n).level = false) (free : n ∉ s.fco.active)
    (thresh : fld (srcCfg n s) 23 16 ≤ 1) : ∃ c, ∃ p : FcoSt, raise n s = activate n c false none { incReg (0x08800 + 4 * n) 1 s with fco := p } := by
  have cfg : srcCfg n (incReg (0x08800 + 4 * n) 1 s) = srcCfg n s := getReg_incReg_other _ _ _ _ (by simp)
  unfold raise occur
  dsimp only
  rw [if_neg (by simp [known]; omega), if_neg (by simpa using free), if_pos (by rw [cfg]; omega), if_neg (by simp [event])]
  exact ⟨_, _, rfl⟩

/-- Its record is kept, whatever its reactions (R503). -/
theorem raise_records (runs : seqRuns s = true) (low : n < 224) (known : (srcRow n).known = true) (event : (srcRow n).level = false)
    (free : n ∉ s.fco.active) (thresh : fld (srcCfg n s) 23 16 ≤ 1) (unlimited : fld (getReg (0x0B000 + 4 * n) s) 15 8 = 0)
    (room : s.evr.staged.length < 255) : ∃ e, e ∈ (raise n s).evr.staged ∧ e.code = n ∧ e.seq = s.evr.nextSeq := by
  have code : getReg (0x0B000 + 4 * n) (incReg (0x08800 + 4 * n) 1 s) = getReg (0x0B000 + 4 * n) s :=
    getReg_incReg_other (0x0B000 + 4 * n) _ _ _ (by simp)
  obtain ⟨c, p, activated⟩ := raise_activates low known event free thresh
  obtain ⟨f, x, q, -, told⟩ := activate_records (n := n) (count := c) (forced := false) (why := none)
    (s := { incReg (0x08800 + 4 * n) 1 s with fco := p }) (by rw [seqRuns]; exact runs)
  obtain ⟨e, named, seq, -, -, staged, -⟩ := record_staged (c := n) (f := f) (x := x) (s := { incReg (0x08800 + 4 * n) 1 s with fco := q }) (.inr low)
    (.inl (by rw [← unlimited, ← code]; rfl)) (by exact room)
  refine ⟨e, ?_, named, seq⟩
  rw [activated, told.parts .evr (by decide), staged]
  exact List.mem_append_right _ List.mem_cons_self

/-! ## Resignation in the hold-up sequence -/

theorem resign_roles {cause : Nat} (pair : duplex s = true) (role : s.dup.state = .control ∨ s.dup.state = .standby ∨ s.dup.state = .syncing) :
    (resign cause s).dup.resignWhy = cause ∧ (resign cause s).dup.state = if cause = 1 ∨ cause = 8 then .standby else .resigned := by
  have active : s.dup.state ≠ .single ∧ s.dup.state ≠ .init ∧ s.dup.state ≠ .resigned := by rcases role with h | h | h <;> simp [h]
  obtain ⟨notSingle, notInit, notResigned⟩ := active
  have kept (t : State) (why : t.dup.resignWhy = cause) : (if cause = 1 then t else setMor false t).dup.resignWhy = cause := by
    split
    · exact why
    · rw [setMor_dup]
      exact why
  unfold resign
  rw [if_neg (by simp [pair, notSingle]), if_neg (by simp [notInit, notResigned])]
  dsimp only
  have took (d : DupState) (t : State) (why : t.dup.resignWhy = cause) : (setRole d (if cause = 1 then t else setMor false t)).dup.resignWhy = cause ∧
      (setRole d (if cause = 1 then t else setMor false t)).dup.state = d := ⟨(setRole_resignWhy _ _).trans (kept t why), setRole_state _ _⟩
  split
  · next claims => exact ⟨(took _ _ (by rw [incReg_dup])).1, (took _ _ (by rw [incReg_dup])).2.trans (by simp [claims])⟩
  · next other =>
    refine ⟨(took _ _ (by rw [incReg_dup])).1, (took _ _ (by rw [incReg_dup])).2.trans ?_⟩
    by_cases handover : cause = 1 <;> simp [handover, other]

theorem duplex_setStatus {i : Nat} (low : i < 24) (b : Bool) (s : State) : duplex (setB 0x7F040 i b s) = duplex s := by
  have slot : slotId (setB 0x7F040 i b s) = slotId s := by
    rw [slotId, slotId, getF, getF, setB, getReg_setReg_same, fld_putBit_other _ _ (by omega) (by omega) (by omega)]
  rw [duplex, slot, getB, getReg_setB_other _ _ _ _ _ (by simp), duplex, getB]

theorem duplex_seqStart (why : SeqWhy) (s : State) : duplex (seqStart why s) = duplex s := by
  unfold seqStart
  rw [duplex_setStatus (by omega)]
  unfold showClm
  split <;> rfl

theorem beginHoldup_resigns (why : HoldupWhy) (idle : s.pwr.seq = none) (pair : duplex s = true)
    (role : s.dup.state = .control ∨ s.dup.state = .standby ∨ s.dup.state = .syncing) :
    (beginHoldup why s).dup.resignWhy = 2 ∧ (beginHoldup why s).dup.state = .resigned := by
  have steps : beginHoldup why s = resignTell 2 (assertSrc 0 (seqStart (.holdup why) s)) := by rw [beginHoldup, idle]
  have starts : seqRuns (seqStart (.holdup why) s) = true := (silent_seqStart _ s).seqRuns
  obtain ⟨-, -, dup, strap⟩ := (running_unmoved.assertSrc 0 _).running_same starts
  have sameDup : (seqStart (.holdup why) s).dup = s.dup := (seqStart_within _ s).parts .dup (by decide)
  rw [sameDup] at dup
  rw [steps, resignTell, if_neg (by rcases role with h | h | h <;> simp [dup, h])]
  exact resign_roles (strap.trans ((duplex_seqStart _ s).trans pair)) (by rw [dup]; exact role)

end Sequence

/-- Settles O58: the reactions of a sequence's state, the record of a source, and the resignation of the hold-up sequence. -/
theorem sequenceRunsOn : Obligations.SequenceRunsOn := by
  unfold Obligations.SequenceRunsOn
  refine ⟨fun s n runs => ?_, fun s n runs low known event free thresh _ unlimited room => raise_records runs low known event free thresh unlimited room,
    fun s i on idle pair role cause => ?_⟩
  · obtain ⟨start, pwr, dup, -⟩ := raise_running (n := n) runs
    exact ⟨by rw [start], by rw [pwr], raise_waitBlk runs, by rw [dup]⟩
  · rcases cause with rfl | rfl | rfl | rfl
    case inl => exact does_run (f := beginHoldup .powerFail) rfl on (beginHoldup_resigns _ idle pair role)
    case inr.inl =>
      exact does_run (f := presentLost) rfl on (beginHoldup_resigns .presentLost idle ((duplex_setStatus (by omega) _ s).trans pair) role)
    case inr.inr.inl => exact does_run (f := beginHoldup .overTemp) rfl on (beginHoldup_resigns _ idle pair role)
    case inr.inr.inr => exact does_run (f := beginHoldup .powerdown) rfl on (beginHoldup_resigns _ idle pair role)

/-! ## Higher claims (R403) -/

theorem two_le_length {α : Type} {l : List α} {a b : α} (ha : a ∈ l) (hb : b ∈ l) (apart : a ≠ b) : 2 ≤ l.length := by
  match l, ha, hb with
  | [x], ha, hb => exact absurd ((List.mem_singleton.1 ha).trans (List.mem_singleton.1 hb).symm) apart
  | _ :: _ :: _, _, _ => simp

/-- Settles O57: the second station is counted beside the first, and the module resigns. -/
theorem twoHigherClaimsResign : Obligations.TwoHigherClaimsResign := by
  unfold Obligations.TwoHigherClaimsResign
  intro s id other held pair control higher counted apart
  have both : 2 ≤ (addOnce s.dup.heldBy id).length := two_le_length (mem_addOnce.2 (.inl counted)) (mem_addOnce.2 (.inr rfl)) apart
  have resigns : ∃ d : DupSt, d.state = .control ∧ noteClaim id held s = resign 8 { s with dup := d } := by
    refine ⟨{ s.dup with heldNow := max s.dup.heldNow held, heldBy := addOnce s.dup.heldBy id }, control, ?_⟩
    unfold noteClaim
    dsimp only
    rw [if_neg (Nat.not_le.2 higher), if_pos (by rw [control, decide_eq_true both]; rfl)]
  obtain ⟨d, role, resigns⟩ := resigns
  obtain ⟨why, state⟩ := resign_roles (cause := 8) (s := { s with dup := d }) pair (.inl role)
  rw [resigns, inControl, why, state]
  exact ⟨rfl, by simp, by simp⟩

end Sys2Proof.Machine
end

section
/-!
PROOFS. The digital channels (R440 to R443): edges, the 1 ms latch, shutdown, read-back faults, silence and the group supplies.
-/
set_option Elab.async false
namespace Sys2Proof.Machine

/-! ## A source without the BLK reaction -/

section Unblocked
variable {n count : Nat} {forced : Bool} {why : Option Nat} {s : State}

/-- The parts that a source without the BLK reaction may change. -/
def faultParts : List Part := [.hif, .pwr, .start, .fco, .evr, .pmc, .dup, .tly, .cyc, .out]

theorem activate_unblocked (calm : bitAt (srcCfg n s) 29 = false) : Within faultParts (some raiseWrites) s (activate n count forced why s) := by
  have message (t : State) : Within faultParts (some raiseWrites) t (sendMsg 0 t) := (sendMsg_within 0 t).mono (by decide) (by simp [regsLe])
  have nmi (t : State) : Within faultParts (some raiseWrites) t (emit (.nmi n) t) := (emit_within _ t).mono (by decide) (by simp [regsLe])
  have noted (c f x : Nat) (t : State) : Within faultParts (some raiseWrites) t (record c f x t) :=
    (record_within _ _ _ t).mono (by decide) (by simp [regsLe, raiseWrites])
  have reset (t : State) : Within faultParts (some raiseWrites) t (beginModReset (.fault n) 3 .automatic t) :=
    (beginModReset_within _ _ _ t).mono (by decide) (by simp [regsLe, raiseWrites])
  have opt {c : Prop} [Decidable c] {t u v : State} (h : Within faultParts (some raiseWrites) t u) (k : Within faultParts (some raiseWrites) u v) :
    Within faultParts (some raiseWrites) t (if c then v else u) := Within.ite (h.trans k) h
  have own (p : FcoSt) : Within faultParts (some raiseWrites) s { s with fco := p } := by
    simp -zeta only [Within.of_mk]
    exact Within.upd rfl Within.refl
  unfold activate
  dsimp only
  rw [calm, if_neg Bool.false_ne_true]
  exact opt (opt (opt ((own _).trans (noted _ _ _ _)) (message _)) ((message _).trans (nmi _))) (reset _)

theorem occur_unblocked (calm : bitAt (srcCfg n s) 29 = false) :
    Within faultParts (some ((0x08800 + 4 * n) :: raiseWrites)) s (occur n forced why s) := by
  have counted (p : FcoSt) : Within faultParts (some ((0x08800 + 4 * n) :: raiseWrites)) s { incReg (0x08800 + 4 * n) 1 s with fco := p } := by
    simp -zeta only
    exact Within.upd rfl ((incReg_within _ _ s).mono (by decide) (by simp [regsLe]))
  have cfg (p : FcoSt) : srcCfg n { incReg (0x08800 + 4 * n) 1 s with fco := p } = srcCfg n s := getReg_incReg_other (0x08400 + 4 * n) _ _ _ (by simp)
  rcases occur_cases n forced why s with same | ⟨p, -, only | ⟨c, activated⟩⟩
  · rw [same]; exact Within.refl
  · rw [only]; exact counted p
  · rw [activated]
    exact (counted p).trans ((activate_unblocked (by rw [cfg, calm])).mono (by decide) (fun _ m => List.mem_cons_of_mem _ m))

theorem assertSrc_unblocked (calm : bitAt (srcCfg n s) 29 = false) : Within faultParts (some ((0x08800 + 4 * n) :: raiseWrites)) s (assertSrc n s) := by
  have own (p : FcoSt) : Within faultParts (some ((0x08800 + 4 * n) :: raiseWrites)) s { s with fco := p } := by
    simp -zeta only [Within.of_mk]
    exact Within.upd rfl Within.refl
  unfold assertSrc
  exact Within.ite Within.refl (Within.ite (own _) ((own _).trans (occur_unblocked calm)))

/-- A condition of a source without the BLK reaction touches no register but those of the reactions. -/
theorem setCond_unblocked (holds : Bool) (calm : bitAt (srcCfg n s) 29 = false) :
    Within faultParts (some ((0x08800 + 4 * n) :: raiseWrites)) s (setCond n holds s) :=
  Within.ite (assertSrc_unblocked calm) ((endCond_within n s).mono (by decide) (by simp [regsLe, raiseWrites]))

end Unblocked

/-! ## Edges and the latch -/

section Digital
variable {n : Nat} {b : Bool} {s : State}

/-- An edge sets its channel's bit, unless the channel is an output, stands there already, or has no supply. -/
theorem dioEdge_inputs (n : Nat) (b : Bool) (s : State) : (dioEdge n b s).fio.dio.inputs =
    if 32 ≤ n ∨ bitAt (dioCh n s) 15 ∨ bitAt s.fio.dio.inputs n = b ∨ (b && !groupOk n s) = true then s.fio.dio.inputs
    else putBit s.fio.dio.inputs n b := by
  have sent (x : Bytes) (t : State) : (deliver 46 x t).fio = t.fio := (deliver_within _ _ t).parts .fio (by decide)
  unfold dioEdge
  dsimp only
  split
  · rfl
  · simp only [apply_ite State.fio, apply_ite FioSt.dio, apply_ite DioSt.inputs, sent, pmcAdd_fio, putDio, ite_self]

theorem dioEdge_shows (low : n < 32) (input : bitAt (dioCh n s) 15 = false) (supplied : b = false ∨ groupOk n s = true) :
    bitAt (dioEdge n b s).fio.dio.inputs n = b := by
  rw [dioEdge_inputs]
  split
  · next idle =>
    rcases idle with high | output | same | missing
    · exact absurd low (Nat.not_lt.2 high)
    · rw [input] at output; cases output
    · exact same
    · rcases supplied with rfl | ok
      · simp at missing
      · simp [ok] at missing
  · exact bitAt_putBit_same _ _ _ low

/-- An edge of one channel leaves the inputs of the others. -/
theorem dioEdge_other {m : Nat} (other : n ≠ m) (s : State) : bitAt (dioEdge m b s).fio.dio.inputs n = bitAt s.fio.dio.inputs n := by
  rw [dioEdge_inputs]
  split
  · rfl
  · exact bitAt_putBit_other _ _ _ _ (by omega) other

theorem dioFaults_fio (s : State) : (dioFaults s).fio = s.fio := (dioFaults_within s).parts .fio (by decide)

theorem dioLatch_publishes (runs : s.start.blkRst.contains .cyc = false) (due : s.fio.dio.latchAt + 1000000 ≤ s.tim.mon) :
    (dioLatch s).fio.dio.latch = outWord 0 s ∧ areaStamp 0 (dioLatch s) = some s.tim.mon := by
  have mon : (dioFaults (dioRearm s.fio.dio.latch (outWord 0 s) s)).tim = s.tim := (dioFaults_within _).parts .tim (by decide)
  have latched : (dioFaults (dioRearm s.fio.dio.latch (outWord 0 s) s)).fio.dio.latch = outWord 0 s := by rw [dioFaults_fio]; rfl
  rw [dioLatch, if_neg (by rw [runs, Bool.false_or, decide_eq_true_iff]; omega)]
  dsimp only
  generalize dioFaults (dioRearm s.fio.dio.latch (outWord 0 s) s) = t at mon latched
  refine ⟨?_, by rw [mon]; exact tget_tput_same⟩
  rw [(publishArea_within _ _ _ t).parts .fio (by decide)]
  exact latched

theorem dioShutdown_notes (low : n < 32) : n ∈ (dioShutdown n s).fio.dio.shut := by
  unfold dioShutdown
  split
  · next idle =>
    rcases idle with high | shut
    · exact absurd low (Nat.not_lt.2 high)
    · simpa using shut
  · rw [dioFaults_fio, pmcAdd_fio]
    exact mem_addOnce.2 (.inr rfl)

theorem dioReadback_notes (low : n < 32) (driven : b = false ∨ bitAt (dioOut s) n = true) : n ∈ (dioReadback n b s).fio.dio.readback ↔ b = true := by
  unfold dioReadback
  dsimp only
  split
  · next idle =>
    rcases idle with high | same | off
    · exact absurd low (Nat.not_lt.2 high)
    · rw [← List.contains_iff_mem, same]
    · rcases driven with rfl | on
      · simp at off
      · simp [on] at off
  · rw [dioFaults_fio]
    cases b
    · simp [putDio, mem_without]
    · simp [putDio, mem_addOnce]

/-! ## Logic silence -/

/-- The faults are shown in their register, in COMMON_FAULT and as the condition of source 72. -/
theorem dioFaults_steps (s : State) : ∃ w common,
    common = (w != 0 || getB 0x38008 28 s || getB 0x38008 29 s || getB 0x38008 30 s) ∧
      dioFaults s = setCond 72 common (setB 0x38008 31 common (setReg 0x3800C w s)) := by
  have shown (w : Word) (i : Nat) : getB 0x38008 i (setReg 0x3800C w s) = getB 0x38008 i s := by rw [getB, getReg_setReg_other _ _ _ _ (by decide), getB]
  unfold dioFaults
  simp only [shown]
  exact ⟨_, _, rfl, rfl⟩

/-- The faults shown touch no bit of FIO_STAT but COMMON_FAULT where source 72 has no BLK reaction. -/
theorem dioFaults_silence (calm : bitAt (srcCfg 72 s) 29 = false) : getB 0x38008 30 (dioFaults s) = getB 0x38008 30 s := by
  obtain ⟨w, common, -, steps⟩ := dioFaults_steps s
  have cfg : srcCfg 72 (setB 0x38008 31 common (setReg 0x3800C w s)) = srcCfg 72 s := by
    rw [srcCfg, getReg_setB_other _ _ _ _ _ (by decide), getReg_setReg_other _ _ _ _ (by decide), srcCfg]
  rw [steps, getB, (setCond_unblocked common (by rw [cfg]; exact calm)).regs _ rfl _ (by decide), ← getB,
    getB_setB_bit _ _ _ _ _ (by decide) (by decide), getB, getReg_setReg_other _ _ _ _ (by decide), getB]

/-- The common fault of the digital channels is a condition of source 72. -/
theorem dioFaults_common (fault : getB 0x38008 28 s = true ∨ getB 0x38008 29 s = true ∨ getB 0x38008 30 s = true) : 72 ∈ (dioFaults s).fco.cond := by
  obtain ⟨w, common, holds, steps⟩ := dioFaults_steps s
  rw [steps, mem_setCond_cond, holds]
  rcases fault with h | h | h <;> simp [h]

theorem dioFaults_cond_other {m : Nat} (other : m ≠ 72) : m ∈ (dioFaults s).fco.cond ↔ m ∈ s.fco.cond := by
  obtain ⟨w, common, -, steps⟩ := dioFaults_steps s
  rw [steps, mem_setCond_cond_other other, setB_fco, setReg_fco]

theorem logicSilence_shows (live : getB 0x38008 30 s = false) (due : s.fio.dio.latchAt + getF 0x38004 7 0 s * 1000000 ≤ s.tim.mon) :
    72 ∈ (logicSilence s).fco.cond ∧ (bitAt (srcCfg 72 s) 29 = false → getB 0x38008 30 (logicSilence s) = true) := by
  rw [logicSilence, if_neg (by simp [live]; omega)]
  have silent (t : State) : getB 0x38008 30 (pmcAdd 0x89 1 (incReg 0x38010 1 (setB 0x38008 30 true t))) = true := by
    rw [getB, getReg_pmcAdd, getReg_incReg_other _ _ _ _ (by decide), ← getB, getB_setB_same _ _ _ _ (by decide)]
  have cfg (d : DioSt) : srcCfg 72 (pmcAdd 0x89 1 (incReg 0x38010 1 (setB 0x38008 30 true (putDio d s)))) = srcCfg 72 s := by
    rw [srcCfg, getReg_pmcAdd, getReg_incReg_other _ _ _ _ (by decide), getReg_setB_other _ _ _ _ _ (by decide)]
    rfl
  exact ⟨dioFaults_common (.inr (.inr (silent _))), fun calm => by rw [dioFaults_silence (by rw [cfg]; exact calm), silent]⟩

theorem silenceEnd_ends {k : Nat} (silent : getB 0x38008 30 s = true) (resumed : s.fio.dio.resumeAt = some k) (long : k + 100000000 ≤ s.tim.mon)
    (live : s.tim.mon < s.fio.dio.latchAt + getF 0x38004 7 0 s * 1000000) (calm : bitAt (srcCfg 72 s) 29 = false) :
    getB 0x38008 30 (silenceEnd s) = false := by
  have cfg : srcCfg 72 (setB 0x38008 30 false s) = srcCfg 72 s := getReg_setB_other _ _ _ _ _ (by decide)
  rw [silenceEnd, resumed]
  dsimp only
  rw [if_pos (by simp [silent, long, live]), dioFaults_silence (by rw [cfg, calm]), getB_setB_same _ _ _ _ (by decide)]

/-! ## The group supplies -/

/-- The edges of a group whose supply goes. -/
theorem dropGroup_off {l : List Nat} (mem : n ∈ l) (low : n < 32) (s : State) (input : bitAt (dioCh n s) 15 = false) :
    bitAt (l.foldl (fun s n => dioEdge n false s) s).fio.dio.inputs n = false := by
  have channel (m : Nat) (t : State) : dioCh n (dioEdge m false t) = dioCh n t :=
    (dioEdge_within _ _ t).regs _ rfl _ (by simp; omega)
  have kept (l : List Nat) (t : State) : dioCh n (l.foldl (fun s n => dioEdge n false s) t) = dioCh n t := by
    induction l generalizing t with
    | nil => rfl
    | cons m l ih => rw [List.foldl_cons, ih, channel]
  have off := foldl_brings (f := fun s n => dioEdge n false s) (P := fun t => bitAt (dioCh n t) 15 = false → bitAt t.fio.dio.inputs n = false) mem
    (fun t h => dioEdge_shows low (by rw [← channel n]; exact h) (.inl rfl)) (fun t m h input => by
      by_cases same : n = m
      · subst same; exact dioEdge_shows low (by rw [← channel n]; exact input) (.inl rfl)
      · rw [dioEdge_other same]; exact h (by rw [← channel m]; exact input)) s
  exact off (by rw [kept, input])

theorem groupSupply_missing (g : Nat) : 73 ∈ (groupSupply g true s).fco.cond ∧ ∀ n, n < 16 →
    bitAt (dioCh (n + (if g = 2 then 16 else 0)) s) 15 = false → bitAt (groupSupply g true s).fio.dio.inputs (n + (if g = 2 then 16 else 0)) = false := by
  unfold groupSupply
  dsimp only
  rw [if_pos rfl]
  constructor
  · rw [dioFaults_cond_other (by decide), mem_setCond_cond]
    split <;> simp
  · intro n low input
    rw [dioFaults_fio, (setCond_within _ _ _).parts .fio (by decide), setB_fio]
    exact dropGroup_off (List.mem_map.2 ⟨n, List.mem_range.2 low, rfl⟩) (by split <;> omega) s input

theorem groupSupply_back (g : Nat) (other : getB 0x38008 (if g = 2 then 28 else 29) s = false) : 73 ∉ (groupSupply g false s).fco.cond := by
  unfold groupSupply
  dsimp only
  rw [dioFaults_cond_other (by decide), mem_setCond_cond, if_neg Bool.false_ne_true]
  split at other
  · next two => simp [two, getB_setB_bit _ _ _ _ _ (show 29 < 32 by decide) (show 28 ≠ 29 by decide), other]
  · next one => simp [one, getB_setB_bit _ _ _ _ _ (show 28 < 32 by decide) (show 29 ≠ 28 by decide), other]

end Digital

/-- Settles O29, a clause per command; the MON of a publication is R373's. -/
theorem digitalCommandsComplete : Obligations.DigitalCommandsComplete := by
  unfold Obligations.DigitalCommandsComplete
  refine ⟨?edge, ?latch, ?shutdown, ?readback, ?silence, ?silenceEnd, ?missing, ?back⟩
  case edge => exact fun s n b on low input supplied => does_run rfl on (dioEdge_shows low input supplied)
  case latch => exact fun s on runs due => does_run (f := dioLatch) rfl on (dioLatch_publishes runs due)
  case shutdown => exact fun s n on low => does_run rfl on (dioShutdown_notes low)
  case readback => exact fun s n b on low driven => does_run rfl on (dioReadback_notes low driven)
  case silence => exact fun s on live due => does_run (f := logicSilence) rfl on (logicSilence_shows live due)
  case silenceEnd =>
    exact fun s k on silent resumed long live => does_run (f := Machine.silenceEnd) rfl on (silenceEnd_ends silent resumed long live)
  case missing => exact fun s g on => does_run rfl on (groupSupply_missing g)
  case back => exact fun s g on other => does_run rfl on (groupSupply_back g other)

end Sys2Proof.Machine
end

section
/-!
PROOFS. CAN (R431 to R439): received and sent frames, the schedule matrix, sleep and bus-off.
-/
set_option Elab.async false
namespace Sys2Proof.Machine

/-! ## A channel's state and its register -/

section Channels
variable {c : Nat} {s t : State}

theorem can_fio (h : t.fio = s.fio) : can c t = can c s := by rw [can, h, can]

@[simp] theorem can_putCan_same (c : Nat) (x : CanSt) (s : State) : can c (putCan c x s) = x := tgetD_tput_same _ _ _ _
@[simp] theorem can_setReg (c a : Nat) (w : Word) (s : State) : can c (setReg a w s) = can c s := rfl
@[simp] theorem can_finish (c : Nat) (r : Req) (st dt : Nat) (s : State) : can c (finish r st dt s) = can c s := can_fio (finish_fio _ _ _ _)
@[simp] theorem can_complete (c : Nat) (r : Req) (st dt len : Nat) (b : Bytes) (s : State) : can c (complete r st dt len b s) = can c s :=
  can_fio (complete_fio _ _ _ _ _ _)
@[simp] theorem can_pmcAdd (c e n : Nat) (s : State) : can c (pmcAdd e n s) = can c s := can_fio (pmcAdd_fio _ _ _)
@[simp] theorem can_bwAdd (c p i o : Nat) (s : State) : can c (bwAdd p i o s) = can c s := can_fio (bwAdd_fio _ _ _ _)
@[simp] theorem can_evt (c g k x : Nat) (s : State) : can c (evt g k x s) = can c s := can_fio (evt_fio _ _ _ _)
@[simp] theorem can_canSend (c d : Nat) (f : CanFrame) (s : State) : can c (canSend d f s) = can c s := can_fio ((canSend_within _ _ s).parts .fio (by decide))
@[simp] theorem can_txGood (c d : Nat) (s : State) : can c (txGood d s) = can c s := can_fio ((txGood_within _ s).parts .fio (by decide))

theorem canMode_same (h : getReg (canStatReg c) t = getReg (canStatReg c) s) : canMode c t = canMode c s := by rw [canMode, getF, h, canMode, getF]

/-- An operation that touches no register of the channel leaves its mode. -/
theorem canMode_within {ps : List Part} {rs : List Nat} (w : Within ps (some rs) s t) (apart : canStatReg c ∉ rs) : canMode c t = canMode c s :=
  canMode_same (w.regs rs rfl _ apart)

/-- The registers of the event recorder that a record writes lie below these. -/
theorem above_recorder {a : Nat} (above : 0x0A034 < a) : a ∉ [0x0A034, 0x0A010, 0x0A030] := by
  have low : ∀ x ∈ [0x0A034, 0x0A010, 0x0A030], x ≤ 0x0A034 := by decide
  exact fun inside => Nat.not_le.2 above (low a inside)

theorem canStatReg_recorder (c : Nat) : canStatReg c ∉ [0x0A034, 0x0A010, 0x0A030] := above_recorder (Nat.lt_add_right _ (by decide))

@[simp] theorem canMode_evt (c g k x : Nat) (s : State) : canMode c (evt g k x s) = canMode c s := canMode_within (evt_within _ _ _ s) (canStatReg_recorder c)
@[simp] theorem canMode_complete (c : Nat) (r : Req) (st dt len : Nat) (b : Bytes) (s : State) : canMode c (complete r st dt len b s) = canMode c s :=
  canMode_same (getReg_complete _ _ _ _ _ _ s)
@[simp] theorem canMode_putCan (c d : Nat) (x : CanSt) (s : State) : canMode c (putCan d x s) = canMode c s := rfl
@[simp] theorem canMode_endPending (c d st : Nat) (s : State) : canMode c (endPending d st s) = canMode c s :=
  canMode_within (endPending_within _ _ s) (by simp)

@[simp] theorem canMode_setMode {v : Nat} (small : v < 4) (c : Nat) (s : State) : canMode c (setF (canStatReg c) 31 30 v s) = v := by
  rw [canMode, getF_setF_same _ _ _ _ _ (by decide) (by decide)]
  exact Nat.mod_eq_of_lt small

theorem getF_setB_bit {a hi lo i : Nat} (h : lo ≤ hi) (low : i < 32) (apart : i < lo ∨ hi < i) (b : Bool) (s : State) :
    getF a hi lo (setB a i b s) = getF a hi lo s := by
  rw [getF, setB, getReg_setReg_same, fld_putBit_other _ _ h low apart, getF]

/-- The pending frames end, and nothing else of the channel changes. -/
theorem endPending_can (st : Nat) : can c (endPending c st s) = { can c s with pend := [] } := by
  have ended (l : List CanTx) (t : State) : can c (l.foldl (fun s t =>
      let s := finish t.req st 0 s
      match t.cancel with | some k => complete k 0x00 0 8 [] s | none => s) t) = can c t := by
    induction l generalizing t with
    | nil => rfl
    | cons x l ih =>
      rw [List.foldl_cons, ih]
      dsimp only
      split <;> simp
  exact (ended _ _).trans (can_putCan_same c _ s)

theorem wakeCan_wakes (cause : Nat) (asleep : canMode c s = 3) : canMode c (wakeCan c cause s) = 0 := by
  rw [wakeCan, if_neg (by simp [asleep]), canMode_evt, canMode_putCan, canMode_setMode (by decide)]

theorem wakeCan_pend (cause : Nat) : (can c (wakeCan c cause s)).pend = (can c s).pend ∧ (can c (wakeCan c cause s)).inForce = (can c s).inForce := by
  unfold wakeCan
  split
  · exact ⟨rfl, rfl⟩
  · simp

end Channels

/-! ## Receiving -/

section Frames
variable {c : Nat} {f : CanFrame} {s : State}

theorem canRx_remote (low : c < 4) (bus : canOnBus c s = true) (remote : f.remote = true) :
    getReg (0x38810 + 0x40 * c) (canRx c f s) = satAdd32 (getReg (0x38810 + 0x40 * c) s) 1 := by
  rw [canRx, if_neg (by simp [bus]; omega)]
  dsimp only
  rw [if_pos remote, incReg, getReg_setReg_same, getReg_pmcAdd]

theorem areaOf_canArea {node : Nat} (low : c < 4) (small : node < 64) : areaOf (canArea c node) = canArea c node := by
  have all : ∀ c < 4, ∀ node < 64, areaOf (canArea c node) = canArea c node := by decide +kernel
  exact all c low node small

/-- A node whose only frame is new publishes its area (R433). -/
theorem publishCan_stamps {n : CanNode} {b : CanRx} (low : n.ch < 4) (small : n.node < 64) (one : n.rx = [b]) (field : n.plant = none)
    (new : (tgetD (can n.ch s).rx (n.node * 4) {}).isNew = true) : areaStamp (canArea n.ch n.node) (publishCan n s) = some s.tim.mon := by
  rw [areaStamp, areaOf_canArea low small]
  unfold publishCan
  simp only [one, field, List.isEmpty_cons, List.length_singleton, List.range_one, List.map_cons, List.map_nil, List.all_cons, List.all_nil, Nat.add_zero,
    new, Bool.and_true, Bool.not_true, Bool.or_self, Bool.false_eq_true, if_false]
  rw [pmcAdd_cyc]
  exact tget_tput_same

/-- A frame with new data is held with NEW set (R433). -/
theorem takeRx_new {x : CanRxSt} {b : CanRx} (plain : b.alive = none) : takeRx x b f = some { x with isNew := true, data := f.data } := by
  rw [takeRx, plain]

theorem canRx_publishes {n : CanNode} {b : CanRx} (low : c < 4) (bus : canOnBus c s = true) (data : f.remote = false) (bound : canNodes c s = [n])
    (small : n.node < 64) (one : n.rx = [b]) (named : b.ident = f.ident) (plain : b.alive = none) (field : n.plant = none) :
    areaStamp (canArea c n.node) (canRx c f s) = some s.tim.mon := by
  have channel : n.ch = c := by
    have mem : n ∈ canNodes c s := by rw [bound]; exact List.mem_singleton.2 rfl
    simpa using (List.mem_filter.1 mem).2
  have taken (t : State) (mon : t.tim = s.tim) : areaStamp (canArea c n.node) (bindRx f n t 0) = some s.tim.mon := by
    have first : n.rx[0]? = some b := by rw [one]; rfl
    rw [bindRx, first]
    dsimp only
    rw [if_neg (by simp [named]), takeRx_new plain]
    dsimp only
    have new (x : CanRxSt) : (tgetD (can n.ch (putCan n.ch { can n.ch t with
        rx := tput (can n.ch t).rx (n.node * 4 + 0) { x with isNew := true, data := f.data } } t)).rx (n.node * 4) {}).isNew = true := by
      rw [can_putCan_same]
      simp
    rw [← channel, publishCan_stamps (by omega) small one field (new _)]
    exact congrArg (fun x => some x.mon) mon
  rw [canRx, if_neg (by simp [bus]; omega)]
  dsimp only
  rw [if_neg (by simp [data])]
  have nodes : canNodes c (setF (canStatReg c) 15 8 (getF (canStatReg c) 15 8 (pmcAdd (0x7D + 3 * c) 1 s) - 1) (pmcAdd (0x7D + 3 * c) 1 s)) = [n] := by
    rw [canNodes, setF_cfg, pmcAdd_cfg, ← canNodes, bound]
  rw [nodes]
  simp only [one, List.filter_cons, List.any_cons, named, beq_self_eq_true, Bool.true_or, if_true, List.filter_nil, List.isEmpty_cons, Bool.false_eq_true,
    if_false, List.foldl_cons, List.foldl_nil, List.length_singleton, List.range_one]
  exact taken _ (by rw [setF_tim, pmcAdd_tim])

theorem canNodeTimeout_ends {node k : Nat} (stamped : tget s.cyc.stamps (canArea c node) = some k)
    (late : k + 3 * tgetD s.cfg.nodePeriod (canArea c node) 0 * 1000000 ≤ s.tim.mon) :
    tget (canNodeTimeout c node s).cyc.stamps (canArea c node) = none := by
  rw [canNodeTimeout, stamped]
  dsimp only
  rw [if_neg (by simp [late])]
  exact tget_tdel_same

/-! ## Sending -/

theorem canTx_queues {r : Req} {tag deadline : Nat} (fits : canLenOk f.fd f.data.length = true) (data : f.remote = false)
    (fd : f.fd = false ∨ bitAt (can (r.pair - 42) s).inForce 30 = true) : (can (r.pair - 42) (canTx r tag deadline f s)).pend =
      (can (r.pair - 42) s).pend ++ [{ req := r, tag := tag, frame := f, deadline := deadline, cancel := none }] := by
  have allowed : (f.fd && !bitAt (can (r.pair - 42) s).inForce 30) = false := by rcases fd with h | h <;> rw [h] <;> simp
  unfold canTx
  dsimp only
  rw [if_neg (by rw [fits, data, allowed]; decide), can_putCan_same, (wakeCan_pend 3).1]

theorem canSend_mem (c : Nat) (f : CanFrame) (s : State) : .can c f ∈ (canSend c f s).out :=
  Within.mem (pmcAdd_within _ _ _) List.mem_cons_self

theorem canTxDone_host {tag : Nat} {x : CanTx} (live : canLive c s = true) (found : (can c s).pend.find? (fun t => t.tag == tag) = some x) :
    .can c x.frame ∈ (canTxDone c (.host tag) .sent s).out ∧
      .opDone x.req 0 0 (8 + x.frame.data.length) [] ∈ (canTxDone c (.host tag) .sent s).out := by
  have sent : .can c x.frame ∈ (complete x.req 0 0 (8 + x.frame.data.length) [] (txGood c (canSend c x.frame (dropTx c x s)))).out :=
    Within.mem (complete_within _ _ _ _ _ _) (Within.mem (txGood_within _ _) (canSend_mem c x.frame _))
  have done := complete_mem x.req 0 0 (8 + x.frame.data.length) [] (txGood c (canSend c x.frame (dropTx c x s)))
  unfold canTxDone
  rw [if_neg (by simp [live])]
  dsimp only
  rw [found]
  dsimp only
  split
  · exact ⟨Within.mem (finish_within _ _ _ _) sent, Within.mem (finish_within _ _ _ _) done⟩
  · exact ⟨sent, done⟩

theorem canTxDone_cell {k : Nat} {e : Nat × CanFrame × Nat} (live : canLive c s = true) (found : (can c s).cells.find? (fun e => e.1 == k) = some e) :
    .can c e.2.1 ∈ (canTxDone c (.cell k) .sent s).out ∧ ∀ x, x ∈ (can c (canTxDone c (.cell k) .sent s)).cells → x.1 ≠ k := by
  unfold canTxDone
  rw [if_neg (by simp [live])]
  dsimp only
  rw [found]
  dsimp only
  rw [can_txGood, can_canSend, can_putCan_same]
  exact ⟨Within.mem (txGood_within _ _) (canSend_mem _ _ _), fun x mem => by simpa using (List.mem_filter.1 mem).2⟩

theorem canTxDeadline_ends {tag : Nat} {x : CanTx}
    (found : (can c s).pend.find? (fun t => t.tag == tag && t.deadline != 0 && decide (t.deadline ≤ s.tim.mon)) = some x) :
    .opDone x.req 0x88 0 0 [] ∈ (canTxDeadline c tag s).out := by
  have ended : .opDone x.req 0x88 0 0 [] ∈ (finish x.req 0x88 0 (dropTx c x s)).out := complete_mem _ _ _ _ _ _
  rw [canTxDeadline, found]
  dsimp only
  split
  · exact Within.mem (complete_within _ _ _ _ _ _) ended
  · exact ended

theorem canCancel_ends {r : Req} {tag : Nat} {x : CanTx} (found : (can (r.pair - 42) s).pend.find? (fun t => t.tag == tag) = some x)
    (waits : inArbitration (r.pair - 42) s ≠ some x) :
    .opDone x.req 0x89 0 0 [] ∈ (canCancel r tag s).out ∧ .opDone r 0 0 8 [] ∈ (canCancel r tag s).out := by
  rw [canCancel]
  dsimp only
  rw [found]
  dsimp only
  rw [if_neg waits]
  exact ⟨Within.mem (complete_within _ _ _ _ _ _) (complete_mem _ _ _ _ _ _), complete_mem _ _ _ _ _ _⟩

end Frames

/-! ## The schedule matrix -/

section Matrices
variable {c : Nat} {m : Matrix} {s : State}

theorem putMatrix_shows : (can c (putMatrix c m s)).matrix = some m := by
  rw [putMatrix, can_fio ((showMatrix_within c _).parts .fio (by decide)), can_putCan_same]

theorem schedLoad_loads {r : Req} (range : matrixOk m (canObjs (r.pair - 42) s).length = true) (wide : tooNarrow (r.pair - 42) m s = false)
    (idle : (can (r.pair - 42) s).matrix = none) : (can (r.pair - 42) (schedLoad r m s)).matrix = some m ∧
      .opDone r 0 0 (16 + 4 * m.cols + m.rows * m.cols) [] ∈ (schedLoad r m s).out := by
  rw [schedLoad]
  dsimp only
  rw [if_neg (by simp [range]), if_neg (by simp [wide]), idle]
  dsimp only
  rw [if_neg Bool.false_ne_true]
  exact ⟨by rw [can_complete, putMatrix_shows], complete_mem _ _ _ _ _ _⟩

theorem cellOpen_requests {row col k n : Nat} {o : CanObj} (none_ : (can c s).next = none) (active : (can c s).matrix = some m)
    (window : inWindow m (can c s).busFrom row col s = true) (cell : m.cells[row * m.cols + col]? = some (some k))
    (object : (canObjs c s)[k]? = some (n, o)) (live : canLive c s = true) :
    ∃ drop, (k, objFrame c n o s, drop) ∈ (can c (cellOpen c row col s)).cells := by
  unfold cellOpen
  simp only [none_, active, window, if_true, cell, object, live]
  exact ⟨_, by rw [can_putCan_same]; exact List.mem_append_right _ (List.mem_singleton.2 rfl)⟩

/-- The state after a cell's transmission is dropped and counted (R434). -/
def missedCell (c k : Nat) (s : State) : State :=
  pmcAdd (0x7E + 3 * c) 1 (incReg (0x38808 + 0x40 * c) 1 (putCan c { can c s with cells := (can c s).cells.filter (fun e => e.1 != k) } s))

theorem missedCell_leaves (c k : Nat) (s : State) : getReg (0x38808 + 0x40 * c) (missedCell c k s) = satAdd32 (getReg (0x38808 + 0x40 * c) s) 1 ∧
    ∀ x, x ∈ (can c (missedCell c k s)).cells → x.1 ≠ k := by
  rw [missedCell, getReg_pmcAdd, can_pmcAdd, incReg, can_setReg, can_putCan_same, getReg_setReg_same]
  exact ⟨rfl, fun x mem => by simpa using (List.mem_filter.1 mem).2⟩

/-- A window that ends drops its transmission, and is recorded at most once in 10 s. -/
theorem windowDrop_eq {k : Nat} (missed : (can c s).cells.any (fun e => e.1 == k && decide (e.2.2 ≤ busNs s)) = true) : ∃ soon : Bool,
    windowDrop c k s = if soon = true then missedCell c k s
      else evt 15 5 (argPair 0 c) (putCan c { can c (missedCell c k s) with missAt := some (missedCell c k s).tim.mon } (missedCell c k s)) :=
  ⟨_, if_neg (by simp only [missed]; decide)⟩

theorem windowDrop_counts {k : Nat} (missed : (can c s).cells.any (fun e => e.1 == k && decide (e.2.2 ≤ busNs s)) = true) :
    getReg (0x38808 + 0x40 * c) (windowDrop c k s) = satAdd32 (getReg (0x38808 + 0x40 * c) s) 1 ∧
      ∀ x, x ∈ (can c (windowDrop c k s)).cells → x.1 ≠ k := by
  obtain ⟨soon, drops⟩ := windowDrop_eq missed
  rw [drops]
  split
  · exact missedCell_leaves c k s
  · rw [getReg_evt_other _ _ _ _ _ (above_recorder (Nat.lt_add_right _ (by decide))), can_evt, can_putCan_same]
    exact missedCell_leaves c k s

end Matrices

/-! ## Sleep and bus-off -/

section Sleep
variable {c : Nat} {s : State}

theorem canSleep_sleeps {r : Req} (free : canNodes (r.pair - 42) s = []) (idle : (can (r.pair - 42) s).matrix = none) :
    canMode (r.pair - 42) (canSleep r s) = 3 ∧ .opDone r 0 0 4 [] ∈ (canSleep r s).out := by
  rw [canSleep]
  dsimp only
  rw [free, idle, if_neg (by decide)]
  refine ⟨?_, complete_mem _ _ _ _ _ _⟩
  rw [canMode_complete]
  split
  · next asleep => rw [canMode_endPending, asleep]
  · rw [canMode_evt, canMode_setMode (by decide)]

/-- The configuration of a channel's source and the channel's status register are apart from each other and from what a source writes. -/
theorem canSource_apart : ∀ c < 4, (0x08400 + 4 * (68 + c) ∉ [canStatReg c] ∧ 0x08400 + 4 * (68 + c) ∉ [0x0A034, 0x0A010, 0x0A030]) ∧
    canStatReg c ∉ (0x08800 + 4 * (68 + c)) :: raiseWrites := by decide

/-- What bus-off shows before its condition asserts: the mode, and no window's transmission. -/
theorem busOff_leaves (low : c < 4) (on : canMode c s ≠ 2) : 68 + c ∈ (busOff c s).fco.cond ∧
    (bitAt (srcCfg (68 + c) s) 29 = false → canMode c (busOff c s) = 2) ∧ (can c (busOff c s)).cells = [] := by
  obtain ⟨place, inside⟩ := canSource_apart c low
  rw [busOff, if_neg (by rintro (high | off); exacts [Nat.not_le.2 low high, on off])]
  dsimp only
  generalize hu : setF (canStatReg c) 23 16 0xFF (setB (canStatReg c) 29 (bitAt (can c s).inForce 29) (setF (canStatReg c) 31 30 2 s)) = u
  have mode : canMode c u = 2 := by
    rw [canMode, ← hu, getF_setF_other _ _ _ (by decide) (by decide) (by decide) (by decide), getF_setB_bit (by decide) (by decide) (by decide), ← canMode,
      canMode_setMode (by decide)]
  have cfg : srcCfg (68 + c) (evt 15 2 (argState c (canMode c s) 2 0) (putCan c { can c u with cells := [] } u)) = srcCfg (68 + c) s := by
    rw [srcCfg, getReg_evt_other _ _ _ _ _ place.2]
    show getReg _ u = _
    rw [← hu, getReg_setF_other _ _ _ _ _ _ place.1, getReg_setB_other _ _ _ _ _ place.1,
      getReg_setF_other _ _ _ _ _ _ place.1, srcCfg]
  refine ⟨?_, fun calm => ?_, ?_⟩
  · rw [(endPending_within _ _ _).parts .fco (by decide), assertSrc_cond]
    exact .inr rfl
  · rw [canMode_endPending, canMode_within (assertSrc_unblocked (by rw [cfg, calm])) inside, canMode_evt,
       canMode_putCan, mode]
  · rw [endPending_can, can_fio ((assertSrc_within _ _).parts .fio (by decide)), can_evt, can_putCan_same]

theorem busOffRecovery_rejoins (auto_ : bitAt (can c s).inForce 29 = true) (off : canMode c s = 2) :
    canMode c (busOffRecovery c s) = 0 ∧ 68 + c ∉ (busOffRecovery c s).fco.cond := by
  have cleared (w : Word) : fld (w &&& 0x1000003F) 31 30 = 0 := by
    have small : (w &&& 0x1000003F).toNat ≤ 0x1000003F := by rw [BitVec.toNat_and]; exact Nat.and_le_right
    rw [fld, Nat.shiftRight_eq_div_pow, Nat.div_eq_of_lt (Nat.lt_of_le_of_lt small (by decide)), Nat.zero_mod]
  rw [busOffRecovery, if_pos auto_, rejoin, if_neg (by simp [off]), canMode_within (endCond_within _ _) (canStatReg_recorder c), canMode_evt, canMode, getF,
    getReg_setReg_same, cleared, endCond_cond]
  exact ⟨rfl, fun mem => (mem_without.1 mem).2 rfl⟩

end Sleep

/-- Settles O28, a clause per command. -/
theorem canCommandsComplete : Obligations.CanCommandsComplete := by
  unfold Obligations.CanCommandsComplete
  refine ⟨?remote, ?data, ?timeout, ?tx, ?host, ?cell, ?deadline, ?cancel, ?load, ?window, ?drop, ?sleep, ?wake, ?wakeN, ?busOff, ?recovery⟩
  case remote => exact fun s c f on low bus remote => does_run rfl on (canRx_remote low bus remote)
  case data =>
    exact fun s c f n b on low bus data bound small one named plain field => does_run rfl on (canRx_publishes low bus data bound small one named plain field)
  case timeout => exact fun s c node k on stamped late => does_run rfl on (canNodeTimeout_ends stamped late)
  case tx =>
    intro s r c b on held reads len fits fd
    refine does_leave rfl on ?_
    rw [withOp_reads held reads, if_neg (not_not.2 (reads.2.1.trans len))]
    have queued := canTx_queues (r := r) (tag := c.desc.userTag) (deadline := c.desc.deadline) (s := bwAdd 4 0 b.length (pmcAdd 0x90 b.length s)) fits rfl
      (by rwa [can_bwAdd, can_pmcAdd])
    rwa [can_bwAdd, can_pmcAdd] at queued
  case host => exact fun s c tag x on live found => does_run rfl on (canTxDone_host live found)
  case cell => exact fun s c k e on live found => does_run rfl on (canTxDone_cell live found)
  case deadline => exact fun s c tag x on found => does_run rfl on (canTxDeadline_ends found)
  case cancel =>
    intro s r b tag x on asked named found waits
    refine does_leave rfl on ?_
    rw [inlineOp_asked asked, named]
    exact canCancel_ends found waits
  case load =>
    intro s r b m on ⟨c, held, reads⟩ len read range wide idle
    refine does_leave rfl on ?_
    rw [withOp_reads held reads, if_neg (not_not.2 (reads.2.1.trans len)), read]
    have objs (d : Nat) : canObjs d (bwAdd 4 0 b.length (pmcAdd 0x90 b.length s)) = canObjs d s := by simp [canObjs, canNodes]
    refine schedLoad_loads (by rwa [objs]) ?_ (by rwa [can_bwAdd, can_pmcAdd])
    rwa [tooNarrow, objs, ← tooNarrow]
  case window =>
    exact fun s c row col m k n o on none_ active window cell object live => does_run rfl on (cellOpen_requests none_ active window cell object live)
  case drop => exact fun s c k on missed => does_run rfl on (windowDrop_counts missed)
  case sleep =>
    intro s r b on asked param free idle
    refine does_leave rfl on ?_
    rw [inlineOp_asked asked, if_neg (not_not.2 param)]
    exact canSleep_sleeps free idle
  case wake =>
    intro s r b on asked param asleep
    refine does_leave rfl on ?_
    rw [inlineOp_asked asked, if_neg (not_not.2 param)]
    dsimp only [Leaves]
    rw [canMode_complete, wakeCan_wakes 2 asleep]
    exact ⟨rfl, complete_mem _ _ _ _ _ _⟩
  case wakeN => exact fun s c on asleep => does_run rfl on (wakeCan_wakes 1 asleep)
  case busOff => exact fun s c on low mode => does_run rfl on (busOff_leaves low mode)
  case recovery => exact fun s c on auto_ off => does_run rfl on (busOffRecovery_rejoins auto_ off)

end Sys2Proof.Machine
end

section
/-!
PROOFS. Ethernet (R423 to R429, R486): frames of the host, gates, the ring, MACsec and received frames.
-/
set_option Elab.async false
namespace Sys2Proof.Machine

/-! ## A port's state -/

section Ports
variable {p q : Nat} {s t : State}

theorem eth_fio (h : t.fio = s.fio) : eth p t = eth p s := by rw [eth, h, eth]

@[simp] theorem eth_putEth_same (p : Nat) (x : EthSt) (s : State) : eth p (putEth p x s) = x := tgetD_tput_same _ _ _ _
@[simp] theorem eth_finish (p : Nat) (r : Req) (st dt : Nat) (s : State) : eth p (finish r st dt s) = eth p s := eth_fio (finish_fio _ _ _ _)
@[simp] theorem eth_complete (p : Nat) (r : Req) (st dt len : Nat) (b : Bytes) (s : State) : eth p (complete r st dt len b s) = eth p s :=
  eth_fio (complete_fio _ _ _ _ _ _)
@[simp] theorem eth_pmcAdd (p e n : Nat) (s : State) : eth p (pmcAdd e n s) = eth p s := eth_fio (pmcAdd_fio _ _ _)
@[simp] theorem eth_bwAdd (p d i o : Nat) (s : State) : eth p (bwAdd d i o s) = eth p s := eth_fio (bwAdd_fio _ _ _ _)

/-- A counted frame (R518, R522). -/
def counted (p n : Nat) (s : State) : State := bwAdd p 0 n (pmcAdd (ethEvent p 3) n (pmcAdd (ethEvent p 2) 1 s))

theorem counted_within (p n : Nat) (s : State) : Within [.pmc] (some []) s (counted p n s) :=
  ((pmcAdd_within _ _ s).trans (pmcAdd_within _ _ _)).trans (bwAdd_within _ _ _ _)

theorem ethCfgView_counted (w : Within [.pmc] (some []) s t) : ethCfgView p t = ethCfgView p s := by
  simp only [ethCfgView, w.regs _ rfl _ (List.not_mem_nil)]

/-- A count leaves what a pair's items wait for. -/
theorem hasRoom_counted {pair : Nat} (w : Within [.pmc] (some []) s t) : hasRoom pair t = hasRoom pair s := by
  have hif : t.hif = s.hif := w.parts .hif (by decide)
  simp only [hasRoom, ringOn, attached, ownedInside, linkOk, freeSlots, openSlots, cmpSize, getB, getF, w.regs _ rfl _ (List.not_mem_nil), ring_hif hif, hif]
  rfl

end Ports

/-! ## The host's frames and gates -/

section Host
variable {p q : Nat} {s : State}

theorem frameTx_queues {r : Req} {launch tclass : Nat} {b : Bytes} (port : (r.pair - 34) / 2 ≠ 3) (long : 14 ≤ b.length)
    (fits : b.length ≤ largestFrame b) (soon : launch ≤ s.tim.mon + 1000000000) (queue : tclass ≤ 7) (allowed : frameRefused b s = false) :
    (eth ((r.pair - 34) / 2) (frameTx r launch tclass b s)).queues = (eth ((r.pair - 34) / 2) s).queues ++
      [{ req := r, queue := tclass, launch := launch, data := b }] := by
  unfold frameTx
  dsimp only
  rw [if_neg port, if_neg (not_or.2 ⟨Nat.not_lt.2 long, Nat.not_lt.2 fits⟩), if_neg (Nat.not_lt.2 soon), if_neg (Nat.not_lt.2 queue),
    if_neg (by simp [allowed]), eth_putEth_same]

theorem frameLaunch_sends {x : EthTx} (head : queueHead p q s = some x) (now : x.launch = 0) (starts : mayStart p q s = true)
    (first : ∀ k, k < 8 → q < k → mayStart p k s = false) (carries : ethOn p s = true) (secure : macsecDead p s = false) :
    .opDone x.req 0 0 x.data.length [] ∈ (frameLaunch p q s).out := by
  have none_ : ((List.range 8).filter (fun k => decide (q < k))).any (fun k => mayStart p k s) = false := by
    simp only [List.any_eq_false, List.mem_filter, List.mem_range, decide_eq_true_eq, Bool.not_eq_true]
    exact fun k ⟨low, high⟩ => first k low high
  unfold frameLaunch
  rw [head]
  dsimp only
  rw [if_neg (not_and.2 fun timed => absurd now timed), if_neg (by simp [starts]), if_neg (by simp [none_, carries, secure])]
  exact complete_mem _ _ _ _ _ _

theorem frameLaunch_late {x : EthTx} (head : queueHead p q s = some x) (timed : x.launch ≠ 0) (late : x.launch + 1000 < s.tim.mon) :
    .opDone x.req 0x88 0 0 [] ∈ (frameLaunch p q s).out ∧
      getReg (0x38410 + 0x40 * p) (frameLaunch p q s) = satAdd32 (getReg (0x38410 + 0x40 * p) s) 1 := by
  unfold frameLaunch
  rw [head]
  dsimp only
  rw [if_pos ⟨timed, late⟩, getReg_finish, incReg, getReg_setReg_same]
  exact ⟨complete_mem _ _ _ _ _ _, rfl⟩

theorem gclLoad_waits {r : Req} {g : GateList} (port : (r.pair - 34) / 2 ≠ 3) (some_ : 1 ≤ g.entries.length) (few : g.entries.length ≤ 256)
    (slow : 1000 ≤ gateCycle g) (fast : gateCycle g ≤ 1000000000) : (eth ((r.pair - 34) / 2) (gclLoad r g s)).nextGates = some (g, s.tim.net) ∧
      .opDone r 0 0 (16 + 8 * g.entries.length) [] ∈ (gclLoad r g s).out := by
  unfold gclLoad
  dsimp only
  rw [if_neg port, if_neg (Nat.ne_of_gt some_), if_neg (not_or.2 ⟨Nat.not_lt.2 few, not_or.2 ⟨Nat.not_lt.2 slow, Nat.not_lt.2 fast⟩⟩),
    eth_complete, eth_putEth_same]
  exact ⟨rfl, complete_mem _ _ _ _ _ _⟩

theorem gclOperational_opens {g : GateList} {n : Nat} (waits : (eth p s).nextGates = some (g, n))
    (due : gateStart g (n + (eth p s).gates.elim 0 gateCycle) ≤ s.tim.net) :
    (eth p (gclOperational p s)).gates = some g ∧ (eth p (gclOperational p s)).nextGates = none := by
  unfold gclOperational
  dsimp only
  rw [waits]
  dsimp only
  rw [if_neg (Nat.not_lt.2 (by cases old : (eth p s).gates <;> simpa only [old, Option.elim] using due)), eth_putEth_same]
  exact ⟨rfl, rfl⟩

end Host

/-! ## Received frames -/

section Received
variable {p : Nat} {f : EthFrame} {s t : State}

theorem ethRx_damaged (port : p < 4) (carries : ethOn p s = true) (runs : s.start.blkRst.contains .fio = false) (damaged : f.badFcs = true) :
    getReg (0x38408 + 0x40 * p) (ethRx p f s) = satAdd32 (getReg (0x38408 + 0x40 * p) s) 1 := by
  rw [ethRx, if_neg (by simp only [carries, runs, Bool.not_true, Bool.false_eq_true, or_false]; omega), if_pos damaged,
    ethDrop, getReg_pmcAdd, incReg, getReg_setReg_same]

/-- A sound frame without MACsec on ETH2 is counted and taken. -/
theorem ethRx_plain (carries : ethOn 2 s = true) (runs : s.start.blkRst.contains .fio = false) (sound : f.badFcs = false) (noPause : frameType f ≠ 0x8808)
    (clear : macsecOn 2 s = false) : ethRx 2 f s = frameIn 2 f (counted 2 f.data.length s) := by
  have still : macsecOn 2 (counted 2 f.data.length s) = false := by rwa [macsecOn, ethCfgView_counted (counted_within _ _ s), ← macsecOn]
  unfold ethRx
  rw [if_neg (by simp only [carries, runs]; decide), if_neg (by simp [sound])]
  dsimp only
  rw [← counted, if_neg noPause, still]
  rfl

/-! What a frame asks for is read from the frame, the configuration and the port of the stations. -/

theorem toModule_cfg (h : t.cfg = s.cfg) : toModule p f t = toModule p f s := by simp only [toModule, toOwn, ifMac, h]
theorem ipPart_cfg {b : Bytes} (h : t.cfg = s.cfg) : ipPart p b t = ipPart p b s := by simp only [ipPart, ownV4, ownV6, ifAddr, ifMac, h]
theorem isEcho_cfg {b : Bytes} (h : t.cfg = s.cfg) : isEcho p b t = isEcho p b s := by simp only [isEcho, ipPart_cfg h]
theorem isResolve_cfg {b : Bytes} (h : t.cfg = s.cfg) : isResolve p b t = isResolve p b s := by
  simp only [isResolve, ownV4, ownV6, ifAddr, ifMac, h]
theorem udpPart_cfg {b : Bytes} (h : t.cfg = s.cfg) : udpPart p b t = udpPart p b s := by simp only [udpPart, ipPart_cfg h]
theorem consumed_same (cfg : t.cfg = s.cfg) (rnd : t.rnd = s.rnd) : consumed p f t = consumed p f s := by
  simp only [consumed, isPlynu, udpPart_cfg cfg, rnd, ackFrame, cfg]

/-- What a frame on ETH2 is taken for, once a PTP message is counted. -/
theorem frameIn_eth2 (f : EthFrame) (s : State) : ∃ t, Within [.pmc] (some []) s t ∧ frameIn 2 f s =
    if toModule 2 f t && 2 != 3 && isEcho 2 f.data t then echoRx 2 t
    else if toModule 2 f t && 2 != 3 && isResolve 2 f.data t then emit (.reply 2 1 0) t
    else if toModule 2 f t && consumed 2 f t then match ackFrame f.data t with | some (u, ws) => plantAck u ws t | none => t
    else if 2 != 3 && ((toModule 2 f t && fld (ethCfgView 2 t) 27 26 != 0) || (!toModule 2 f t && decide (2 ≤ fld (ethCfgView 2 t) 27 26)))
      then deliver 39 (frameItem 2 f t) t else t :=
  ⟨_, Within.ite (pmcAdd_within (ethEvent 2 7) 1 s) Within.refl, rfl⟩

theorem frameIn_answers (mine : toModule 2 f s = true) (noEcho : isEcho 2 f.data s = false) (asks : isResolve 2 f.data s = true) :
    .reply 2 1 0 ∈ (frameIn 2 f s).out := by
  obtain ⟨t, counts, taken⟩ := frameIn_eth2 f s
  have cfg : t.cfg = s.cfg := counts.parts .cfg (by decide)
  rw [taken, toModule_cfg cfg, isEcho_cfg cfg, isResolve_cfg cfg, mine, noEcho, asks]
  exact List.mem_cons_self

/-- An item that finds a buffer and a slot leaves an entry, whether its buffer takes it or fails (R104, R109). -/
theorem deliver_enters {pair : Nat} (b : Bytes) (room : hasRoom pair s = true) (lossless : (ring pair s).lost = 0) :
    ∃ n k e, .entry pair n k e ∈ (deliver pair b s).out := by
  have reaches (r : Ring) (same : r.detached = (ring pair s).detached) : attached pair (putRing pair r s) = true :=
    (attached_putRing same).trans (hasRoom_attached room)
  obtain ⟨u, us, bufs⟩ : ∃ u us, (ring pair s).bufs = u :: us := by
    simp only [hasRoom, Bool.and_eq_true, Bool.not_eq_true', List.isEmpty_eq_false_iff] at room
    exact List.exists_cons_of_ne_nil room.1.2
  have entered (t : State) (ht : attached pair t = true) (slot tag len status detail : Nat) (rx : Bool) (mon : Nat) (irq : Bool) :
      ∃ n k e, .entry pair n k e ∈ (writeEntry pair slot tag len status detail rx mon irq t).out := by
    obtain ⟨-, n, k, e, shown, -⟩ := writeEntry_puts ht slot tag len status detail rx mon irq
    exact ⟨n, k, _, shown⟩
  cases fails : bufFails pair b s with
  | true =>
    have lost : deliver pair b s = loseItem pair (failBuf pair s) := by
      have reports : ovfCheck pair s = s := by rw [ovfCheck, if_pos (by simp [lossless])]
      simp only [deliver, deliverWith, reports, room, fails]
      rfl
    have failed : ∃ n k e, .entry pair n k e ∈ (failBuf pair s).out := by
      rw [failBuf, bufs]
      refine entered _ (reaches _ ?_) ..
      rfl
    obtain ⟨n, k, e, mem⟩ := failed
    rw [lost]
    exact ⟨n, k, e, Within.mem (loseItem_within _ _) mem⟩
  | false =>
    rw [deliver_fills room lossless fails]
    unfold fillBuf
    simp only [bufs]
    refine entered _ ?_ ..
    split
    · refine (attached_hostWrite _ _ _).trans (reaches _ ?_)
      rfl
    · refine reaches _ ?_
      rfl

theorem frameIn_delivers (mine : toModule 2 f s = true) (noEcho : isEcho 2 f.data s = false) (noAsk : isResolve 2 f.data s = false)
    (other : consumed 2 f s = false) (mode : fld (ethCfgView 2 s) 27 26 ≠ 0) (lossless : (ring 39 s).lost = 0) (room : hasRoom 39 s = true) :
    ∃ n k e, .entry 39 n k e ∈ (frameIn 2 f s).out := by
  obtain ⟨t, counts, taken⟩ := frameIn_eth2 f s
  have cfg : t.cfg = s.cfg := counts.parts .cfg (by decide)
  have view : ethCfgView 2 t = ethCfgView 2 s := ethCfgView_counted counts
  rw [taken, toModule_cfg cfg, isEcho_cfg cfg, isResolve_cfg cfg, consumed_same cfg (counts.parts .rnd (by decide)), mine, noEcho, noAsk, other, view,
    bne_iff_ne.2 mode]
  show ∃ n k e, .entry 39 n k e ∈ (deliver 39 (frameItem 2 f t) t).out
  exact deliver_enters _ (by rw [hasRoom_counted counts, room]) (by rw [ring_hif (counts.parts .hif (by decide)), lossless])

end Received

/-! ## The ring -/

section Ring
variable {p : Nat} {b : Bool} {s : State}

theorem ringLink_shows (high : 2 ≤ p) (port : p < 4) (carries : b = true → ethOn p s = true ∧ ¬(p = 3 ∧ sfpGigabit p s = true)) :
    getB (ethStat p) 0 (ringLink p b s) = b := by
  unfold ringLink
  split
  · next idle =>
    rcases idle with far | same | dark
    · omega
    · exact same
    · simp only [Bool.and_eq_true, Bool.not_eq_true'] at dark
      rw [(carries dark.1).1] at dark
      cases dark.2
  · rw [if_neg (by
      simp only [Bool.and_eq_true, beq_iff_eq]
      exact fun ⟨⟨up, third⟩, gigabit⟩ => (carries up).2 ⟨third, gigabit⟩)]
    dsimp only
    rw [getB_setB_bit _ _ _ _ _ (by decide) (by decide), getB_setB_same _ _ _ _ (by decide)]

theorem ringLink_source (ring_ : p < 2) (changes : getB (ethStat p) 0 s ≠ b) (carries : b = true → ethOn p s = true) :
    66 ∈ (ringLink p b s).fco.cond ↔ ¬(b = true ∧ getB 0x38600 (1 - p) s = true) := by
  have apart : ∀ p < 2, p < 32 ∧ 1 - p ≠ p ∧ 0x38600 ≠ ethStat p := by decide
  obtain ⟨narrow, other, place⟩ := apart p ring_
  have still (x : Bool) : getB 0x38600 (1 - p) (setB 0x38600 p b (setB (ethStat p) 1 x (setB (ethStat p) 0 b s))) = getB 0x38600 (1 - p) s := by
    rw [getB_setB_bit _ _ _ _ _ narrow other, getB_setB_reg _ _ _ _ _ _ place, getB_setB_reg _ _ _ _ _ _ place]
  have shown (x : Bool) : getB 0x38600 p (setB 0x38600 p b (setB (ethStat p) 1 x (setB (ethStat p) 0 b s))) = b := getB_setB_same _ _ _ _ narrow
  unfold ringLink
  rw [if_neg (by
      simp only [Bool.and_eq_true, Bool.not_eq_true', not_or, not_and, Bool.not_eq_false]
      exact ⟨Nat.not_le.2 (Nat.lt_trans ring_ (by decide)), changes, carries⟩), if_neg (by simp; omega)]
  dsimp only
  rw [if_neg (Nat.not_le.2 ring_), evt_fco, mem_setCond_cond]
  have nand : ∀ x y : Bool, (!(x && y)) = true ↔ ¬(x = true ∧ y = true) := by decide
  generalize bitAt (ethCfgView p s) 30 = x at still shown
  rcases (by omega : p = 0 ∨ p = 1) with rfl | rfl
  · rw [shown, still]
    exact nand _ _
  · rw [shown, still, Bool.and_comm]
    exact nand _ _

theorem hsrExpiry_forgets (s : State) : (∀ e, e ∈ (hsrExpiry s).fio.hsr.seen → s.tim.mon < e.2.2 + 400000000) ∧
    (∀ e, e ∈ (hsrExpiry s).fio.hsr.nodes → s.tim.mon < e.2 + 60000000000) ∧
    getF 0x38600 31 16 (hsrExpiry s) = (hsrExpiry s).fio.hsr.nodes.length % 65536 := by
  unfold hsrExpiry countNodes
  dsimp only
  rw [setF_fio]
  exact ⟨fun e mem => by simpa using (List.mem_filter.1 mem).2, fun e mem => by simpa using (List.mem_filter.1 mem).2,
    getF_setF_same _ _ _ _ _ (by decide) (by decide)⟩

theorem noPeers_shows (ring_ : p < 2) (silent : (eth p s).lastSup + 6000000000 ≤ s.tim.mon) : getB 0x38600 (2 + p) (noPeers p s) = true := by
  rw [noPeers, if_neg (not_or.2 ⟨Nat.not_le.2 ring_, Nat.not_lt.2 silent⟩),
    getB_setB_same _ _ _ _ (Nat.lt_of_lt_of_le (Nat.add_lt_add_left ring_ 2) (by decide))]

/-- The supervision frame of a ring port (R425). -/
def supervise (q : Nat) (s : State) (p : Nat) : State :=
  if ethOn p s && !macsecDead p s then
    pmcAdd (ethEvent p 0) 1 (emit (.reply p 3 q) (if macsecOn p s then putEth p { eth p s with txPn := (eth p s).txPn + 1 } s else s))
  else s

theorem supervise_hsr (q : Nat) (s : State) (p : Nat) : (supervise q s p).fio.hsr = s.fio.hsr := by
  unfold supervise
  split
  · rw [pmcAdd_fio, emit_fio]
    split <;> rfl
  · rfl

theorem supervise_sends {q : Nat} (carries : ethOn p s = true) (secure : macsecDead p s = false) : .reply p 3 q ∈ (supervise q s p).out := by
  rw [supervise, if_pos (by simp [carries, secure])]
  exact Within.mem (pmcAdd_within _ _ _) List.mem_cons_self

theorem supervise_grow {q : Nat} {o : Out} (mem : o ∈ s.out) : o ∈ (supervise q s p).out := by
  unfold supervise
  split
  · refine Within.mem (pmcAdd_within _ _ _) (List.mem_cons_of_mem _ ?_)
    split <;> exact mem
  · exact mem

/-- A supervision frame takes the ring's next sequence number, and leaves on a port that carries frames. -/
theorem supervisionTx_sends (runs : s.start.blkRst.contains .fio = false) (due : ∀ k, s.fio.hsr.supAt = some k → k + 2000000000 ≤ s.tim.mon)
    (carries : ethOn 0 s = true) (secure : macsecDead 0 s = false) :
    .reply 0 3 s.fio.hsr.seq ∈ (supervisionTx s).out ∧ (supervisionTx s).fio.hsr.seq = (s.fio.hsr.seq + 1) % 65536 := by
  have steps : ∃ h : HsrSt, h.seq = (s.fio.hsr.seq + 1) % 65536 ∧
      supervisionTx s = supervise s.fio.hsr.seq (supervise s.fio.hsr.seq { s with fio := { s.fio with hsr := h } } 0) 1 :=
    ⟨{ s.fio.hsr with seq := (s.fio.hsr.seq + 1) % 65536, supAt := some s.tim.mon }, rfl, if_neg (by
      rw [runs, Bool.or_false]
      split
      · next k at_ => simpa using due k at_
      · exact Bool.false_ne_true)⟩
  obtain ⟨h, seq, steps⟩ := steps
  rw [steps, supervise_hsr, supervise_hsr]
  exact ⟨supervise_grow (supervise_sends carries secure), seq⟩

end Ring

/-! ## MACsec and the key numbers -/

section Keys
variable {p : Nat} {s t : State}

/-- A Key Number Announcement leaves the keys and all of its port but the time of the announcement. -/
theorem knaTx_leaves (p : Nat) (s : State) : (knaTx p s).kst = s.kst ∧ ∃ at_, eth p (knaTx p s) = { eth p s with knaAt := at_ } := by
  refine ⟨(knaTx_within p s).parts .kst (by decide), ?_⟩
  unfold knaTx
  split
  · exact ⟨_, rfl⟩
  · dsimp only
    split
    · exact ⟨_, rfl⟩
    · exact ⟨_, (eth_pmcAdd _ _ _ _).trans (eth_putEth_same _ _ _)⟩

theorem macsecRekey_rekeys {a : Nat} (an : (eth p s).txAn = some a) (used : 0xC0000000 ≤ (eth p s).txPn) (ready : slotState (portSlot p) s = 1)
    (key : keyed s = true) : tgetD (macsecRekey p s).kst.kn p 0 = tgetD s.kst.kn p 0 + 1 ∧
      (eth p (macsecRekey p s)).txAn = some ((a + 1) % 4) ∧ (eth p (macsecRekey p s)).txPn = 0 := by
  unfold macsecRekey
  rw [if_neg (by simp [an]; omega)]
  unfold startAssoc
  rw [if_neg (by simp [ready, key]), an]
  dsimp only
  generalize hu : setB (ethStat p) 2 true _ = u
  obtain ⟨kst, at_, port⟩ := knaTx_leaves p u
  have here : eth p u = { eth p s with txAn := some ((a + 1) % 4), txPn := 0 } := by rw [← hu]; exact eth_putEth_same _ _ _
  rw [kst, port, here, ← hu]
  exact ⟨tgetD_tput_same _ _ _ _, rfl, rfl⟩

theorem oldSaExpiry_forgets {sci : Nat} {c : MacRx} {o : Nat × Nat × Nat} (found : (eth p s).rx.find? (fun c => c.sci == sci) = some c)
    (old : c.old = some o) (late : o.2.2 + 2000000000 ≤ s.tim.mon) : tget (oldSaExpiry p sci s).kst.saks (sakKey p sci o.1) = none ∧
      ∀ e, e ∈ (eth p (oldSaExpiry p sci s)).rx → e.sci = sci → e.old = none := by
  obtain ⟨a, n, k⟩ := o
  obtain ⟨csci, an, pn, cold⟩ := c
  subst old
  replace late : k + 2000000000 ≤ s.tim.mon := late
  unfold oldSaExpiry
  dsimp only
  rw [found]
  dsimp only
  rw [if_neg (Nat.not_lt.2 late)]
  refine ⟨tget_tdel_same, fun e mem named => ?_⟩
  have listed : e ∈ (eth p s).rx.map (fun e => if e.sci = sci then { e with old := none } else e) := by
    have port (x : EthSt) (k : KstSt) : eth p { putEth p x s with kst := k } = x := eth_putEth_same p x s
    rwa [port] at mem
  obtain ⟨x, -, rfl⟩ := List.mem_map.1 listed
  split at named
  · next same => rw [if_pos same]
  · next other => exact absurd named other

theorem knaRx_installs {an sci kn : Nat} (ready : slotState (portSlot p) s = 1) (newer : hiKn sci s < kn) :
    hiKn sci (knaRx p an sci kn (knaTag p sci (knaBody an sci kn) s) s) = kn ∧
      (tget (knaRx p an sci kn (knaTag p sci (knaBody an sci kn) s) s).kst.saks (sakKey p sci an)).isSome = true := by
  rw [knaRx, if_neg (by simp [ready]; omega)]
  constructor
  · simp [hiKn, deriveSak]
  · exact congrArg Option.isSome tget_tput_same

theorem knaDue_sends {a : Nat} (an : (eth p s).txAn = some a) (carries : ethOn p s = true)
    (due : ∀ k, (eth p s).knaAt = some k → k + 1000000000 ≤ s.tim.mon) : ∃ b, .eth p none none b ∈ (knaDue p s).out := by
  have sends : ∃ b, .eth p none none b ∈ (knaTx p s).out := by
    unfold knaTx
    rw [an]
    dsimp only
    rw [if_neg (by simp [carries])]
    exact ⟨_, Within.mem (pmcAdd_within _ _ _) List.mem_cons_self⟩
  unfold knaDue
  split
  · next k last => rw [if_neg (by have := due k last; omega)]; exact sends
  · exact sends

end Keys

/-- Settles O27, a clause per command. That supervision frames and announcements leave whatever the gates is the model's choice (log entry 73), and so is
the count of a damaged frame in DROPS, which R424 and R444 leave open. -/
theorem ethernetCommandsComplete : Obligations.EthernetCommandsComplete := by
  unfold Obligations.EthernetCommandsComplete
  refine ⟨?tx, ?launch, ?late, ?load, ?operational, ?damaged, ?resolve, ?host, ?link, ?ringLink, ?supervision, ?expiry, ?noPeers, ?rekey, ?oldSa, ?kna,
    ?knaTx⟩
  case tx =>
    intro s r c b on held reads port long fits soon queue allowed
    refine does_leave rfl on ?_
    rw [withOp_reads held reads]
    have queued := frameTx_queues (s := bwAdd 4 0 b.length (pmcAdd 0x90 b.length s)) (launch := leAt c.desc.param 0 8) port long fits (by simpa using soon)
      queue (by rwa [frameRefused, bwAdd_rnd, pmcAdd_rnd, ← frameRefused])
    rwa [eth_bwAdd, eth_pmcAdd] at queued
  case launch =>
    exact fun s p q x on head now starts first carries secure => does_run rfl on (frameLaunch_sends head now starts first carries secure)
  case late => exact fun s p q x on head timed late => does_run rfl on (frameLaunch_late head timed late)
  case load =>
    intro s r b g on ⟨c, held, reads⟩ len read port some_ few slow fast
    refine does_leave rfl on ?_
    rw [withOp_reads held reads, if_neg (not_not.2 (reads.2.1.trans len)), read]
    have loaded := gclLoad_waits (s := bwAdd 4 0 b.length (pmcAdd 0x90 b.length s)) port some_ few slow fast
    rwa [bwAdd_tim, pmcAdd_tim] at loaded
  case operational => exact fun s p g n on waits due => does_run rfl on (gclOperational_opens waits due)
  case damaged => exact fun s p f on port carries runs damaged => does_run rfl on (ethRx_damaged port carries runs damaged)
  case resolve =>
    intro s f on carries runs sound noPause clear mine noEcho asks
    refine does_leave rfl on ?_
    have cfg : (counted 2 f.data.length s).cfg = s.cfg := (counted_within _ _ s).parts .cfg (by decide)
    rw [ethRx_plain carries runs sound noPause clear]
    exact frameIn_answers (by rwa [toModule_cfg cfg]) (by rwa [isEcho_cfg cfg]) (by rwa [isResolve_cfg cfg])
  case host =>
    intro s f on carries runs sound noPause clear mine noEcho noAsk other mode lossless room
    refine does_leave rfl on ?_
    have counts := counted_within 2 f.data.length s
    have cfg : (counted 2 f.data.length s).cfg = s.cfg := counts.parts .cfg (by decide)
    rw [ethRx_plain carries runs sound noPause clear]
    exact frameIn_delivers (by rwa [toModule_cfg cfg]) (by rwa [isEcho_cfg cfg]) (by rwa [isResolve_cfg cfg])
      (by rwa [consumed_same cfg (counts.parts .rnd (by decide))]) (by rwa [ethCfgView_counted counts])
      (by rwa [ring_hif (counts.parts .hif (by decide))]) (by rwa [hasRoom_counted counts])
  case link => exact fun s p b on high port carries => does_run rfl on (ringLink_shows high port carries)
  case ringLink => exact fun s p b on ring_ changes carries => does_run rfl on (ringLink_source ring_ changes carries)
  case supervision => exact fun s on runs due carries secure => does_run (f := supervisionTx) rfl on (supervisionTx_sends runs due carries secure)
  case expiry => exact fun s on => does_run (f := hsrExpiry) rfl on (hsrExpiry_forgets s)
  case noPeers => exact fun s p on ring_ silent => does_run rfl on (noPeers_shows ring_ silent)
  case rekey => exact fun s p a on an used ready key => does_run rfl on (macsecRekey_rekeys an used ready key)
  case oldSa => exact fun s p sci c o on found old late => does_run rfl on (oldSaExpiry_forgets found old late)
  case kna => exact fun s p an sci kn on ready newer => does_run rfl on (knaRx_installs ready newer)
  case knaTx => exact fun s p a on an carries due => does_run rfl on (knaDue_sends an carries due)

end Sys2Proof.Machine
end

section
/-!
PROOFS. The time domains and PTP (R451, R453 to R458, R460): measurements, masters, increments and settings.
-/
set_option Elab.async false
namespace Sys2Proof.Machine

section Time
variable {s : State} {ofs : Int}

/-- A larger offset inside the limit steps NET (R454). -/
theorem ptpOffset_steps (held : s.tim.slave ≠ 0) (plain : s.tim.acceptNext = false) (free : s.tim.stepPend = false) (inside : overLimit ofs s = false)
    (large : 100000 < ofs.natAbs) : ptpOffset ofs s = countOffset ofs (stepNet ofs s) := by
  unfold ptpOffset
  rw [if_neg held, if_neg (by simp [plain]), if_neg (by simp [free]), if_neg (by simp [inside]), if_neg (Nat.not_le.2 large)]

theorem stepNet_net (ofs : Int) (s : State) : (stepNet ofs s).tim.net = ((s.tim.net : Int) + ofs).toNat := by
  obtain ⟨l, e⟩ := stepNet_tim ofs s
  rw [e]

/-- An offset above the limit waits for the operator (R455). -/
theorem ptpOffset_refuses (held : s.tim.slave ≠ 0) (plain : s.tim.acceptNext = false) (free : s.tim.stepPend = false) (above : overLimit ofs s = true) :
    ptpOffset ofs s = refuseStep ofs s := by
  unfold ptpOffset
  rw [if_neg held, if_neg (by simp [plain]), if_neg (by simp [free]), if_pos above]

theorem toHoldover_net (s : State) : (toHoldover s).tim.net = s.tim.net := by
  obtain ⟨_, _, _, _, _, e⟩ := toHoldover_tim s
  rw [e]

theorem refuseStep_tim (ofs : Int) (s : State) : (refuseStep ofs s).tim.stepPend = true ∧ (refuseStep ofs s).tim.net = s.tim.net := by
  unfold refuseStep timCause
  simp [toHoldover_net]

/-- The best master on a PTP port is followed (R453, R456), whether or not it is a new one. -/
theorem announce_follows {m : AnnounceMsg} (best : m.best = true) (port : ptpPort m.port s = true) (heard : m.gmId.toNat ∉ s.tim.rejects) :
    (announce m s).tim.gm = some m.gmId.toNat ∧ (announce m s).tim.slave = if m.port ≤ 1 then 1 else 3 := by
  unfold announce timCause
  rw [if_neg (by simp [best, port, heard])]
  dsimp only
  split
  · exact ⟨rfl, rfl⟩
  · simp only [evt_tim, setCause_tim]
    generalize ht : setPair 0x04028 m.gmId.toNat _ = t
    have tim : t.tim.gm = some m.gmId.toNat ∧ t.tim.slave = if m.port ≤ 1 then 1 else 3 := by simp [← ht]
    obtain ⟨_, _, _, _, _, e⟩ := toHoldover_tim t
    rw [e]
    exact tim

theorem announceTimeout_tim (s : State) : (announceTimeout s).tim.slave = 0 ∧ (announceTimeout s).tim.net = s.tim.net ∧
    (announceTimeout s).tim.rejects = s.tim.rejects := by
  obtain ⟨_, _, _, _, _, e⟩ := toHoldover_tim { s with tim := { s.tim with slave := 0, gmUtc := none } }
  rw [announceTimeout, e]
  exact ⟨rfl, rfl, rfl⟩

theorem setQuality_quality (q : NetQ) (s : State) : (setQuality q s).tim.quality = q := by
  obtain ⟨_, _, _, _, e⟩ := setQuality_tim q s
  rw [e]

theorem announceTimeout_holds (sync : s.tim.quality = .sync) : (announceTimeout s).tim.quality = .holdover := by
  unfold announceTimeout toHoldover
  dsimp only
  rw [if_pos sync, setQuality_quality]

/-- Nothing holds LEG valid once HOLD_H has run out (R458). -/
theorem legNow_holdover (q : s.tim.quality = .holdover) (out : s.tim.lastSync + getF 0x04008 31 16 s * 3600 * sec ≤ s.tim.mon) : legNow s = false := by
  simp only [legNow, q, decide_eq_false_iff_not, Nat.not_lt]
  exact out
theorem legNow_local (q : s.tim.quality = .localQ) (out : s.tim.stamp + getF 0x04008 31 16 s * 3600 * sec ≤ s.tim.rtc) : legNow s = false := by
  simp only [legNow, q, decide_eq_false_iff_not, Nat.not_lt]
  exact out

theorem leapSecond_cfg (b : Bool) (s : State) : (leapSecond b s).cfg.leapOfs = s.cfg.leapOfs + if b then 1 else -1 := by
  unfold leapSecond
  simp only [evt_cfg]

theorem regWrite_incrMon {v : Word} (h : Answers 0x04100 s) : regWrite 0x04100 v s = incrCommit 0 v s := by
  unfold regWrite
  have known : (regSpec 0x04100).isNone = false := by decide
  have block : blockAt 0x04100 = some .tim := by decide
  rw [if_neg (by simp [h.1, known]), if_neg (by simp [h.2])]
  simp [block, writeTim]

/-- The deviation of an increment from 2 ns per tick, in units of 2^-32 ns. -/
def incrDev (inc : Nat) : Nat := if inc < 8589934592 then 8589934592 - inc else inc - 8589934592

/-- MON's increment takes a value within 200 ppm (R451). -/
theorem incrCommit_mon {v : Word} (near : incrDev (v.toNat * 2 ^ 32 + (getReg 0x04104 s).toNat) * 1000000 ≤ 200 * 8589934592) :
    (incrCommit 0 v s).tim.incrMon = v.toNat * 2 ^ 32 + (getReg 0x04104 s).toNat ∧ getReg 0x04100 (incrCommit 0 v s) = v := by
  have e : incrCommit 0 v s = { setReg 0x04100 v s with
      tim := { (setReg 0x04100 v s).tim with incrMon := v.toNat * 2 ^ 32 + (getReg 0x04104 s).toNat } } := by
    unfold incrCommit
    exact (if_neg (by decide)).trans (if_neg (by simpa [incrDev] using near))
  rw [e]
  exact ⟨rfl, getReg_setReg_same _ _ _⟩

theorem stepAccept_alone {r : Req} (alone : duplex s = false) (pend : s.tim.stepPend = true) :
    stepAccept r 0 s = complete r 0 0 4 [] { s with tim := { s.tim with acceptNext := true } } := by
  unfold stepAccept
  rw [if_neg (by simp [refuses_alone s alone]), if_neg (by decide), if_neg (by simp [pend]), viaPeer_alone _ _ _ _ _ alone, applyStepAccept, if_pos pend]

theorem stepReject_alone {r : Req} (alone : duplex s = false) (pend : s.tim.stepPend = true) :
    stepReject r 0 s = complete r 0 0 4 [] (applyStepReject s) := by
  unfold stepReject
  rw [if_neg (by simp [refuses_alone s alone]), if_neg (by decide), if_neg (by simp [pend]), viaPeer_alone _ _ _ _ _ alone]

/-- The newest of a list of rejected masters stays when the oldest gives way. -/
theorem last_mem_drop {l : List Nat} {g : Nat} : g ∈ if 4 < (l ++ [g]).length then (l ++ [g]).drop 1 else l ++ [g] := by
  split
  · next long =>
    rw [List.drop_append_of_le_length (by simp only [List.length_append, List.length_singleton] at long; omega)]
    simp
  · simp

theorem applyStepReject_rejects {g : Nat} (gm : s.tim.gm = some g) :
    g ∈ (applyStepReject s).tim.rejects ∧ (applyStepReject s).tim.slave = 0 := by
  unfold applyStepReject
  rw [gm]
  dsimp only
  obtain ⟨slave, _, rejects⟩ := announceTimeout_tim { s with tim := { s.tim with
    rejects := if 4 < (without s.tim.rejects g ++ [g]).length then (without s.tim.rejects g ++ [g]).drop 1 else without s.tim.rejects g ++ [g],
    stepPend := false, acceptNext := false, gm := none } }
  exact ⟨rejects ▸ last_mem_drop, slave⟩

/-- A forced setting of a module alone ends at once (R460, R474). -/
theorem timeSet_alone {r : Req} {u ns : Nat} (alone : duplex s = false) (short : ns < sec) (unsynced : s.tim.quality ≠ .sync) :
    timeSet r u ns 1 s = complete r 0 0 16 [] (applyTimeSet u ns s) := by
  unfold timeSet
  dsimp only
  rw [if_neg (by simp [refuses_alone s alone]), if_neg (Nat.not_le.2 short), if_neg (by decide), if_neg unsynced, if_neg (by simp),
    viaPeer_alone _ _ _ _ _ alone]

theorem applyTimeSet_tim (u ns : Nat) (s : State) : (applyTimeSet u ns s).tim.rtc = u * sec + ns ∧
    (applyTimeSet u ns s).tim.net = (((u * sec + ns : Nat) : Int) + s.cfg.leapOfs * (sec : Int)).toNat ∧ (applyTimeSet u ns s).tim.quality = .localQ := by
  unfold applyTimeSet
  dsimp only
  generalize ht : stepNet _ s = t
  obtain ⟨rtc, net, _⟩ := setRtc_tim false (u * sec + ns) t
  obtain ⟨_, _, _, _, e⟩ := setQuality_tim .localQ (setRtc false (u * sec + ns) t)
  rw [e]
  refine ⟨rtc, net.trans ?_, rfl⟩
  rw [← ht, stepNet_net, add_sub_cancel, Int.toNat_natCast]

end Time

/-- Settles O16, one lemma above for each command. -/
theorem timeCommandsComplete : Obligations.TimeCommandsComplete := by
  unfold Obligations.TimeCommandsComplete
  refine ⟨?steps, ?refuses, ?announce, ?timeout, ?hold, ?leap, ?incr, ?accept, ?reject, ?set⟩
  case steps =>
    intro s ofs on held plain free inside large
    refine does_leave rfl on ?_
    rw [ptpOffset_steps held plain free inside large]
    dsimp only [Leaves]
    rw [countOffset_net, stepNet_net]
  case refuses =>
    intro s ofs on held plain free above
    refine does_leave rfl on ?_
    rw [ptpOffset_refuses held plain free above]
    exact refuseStep_tim ofs s
  case announce => exact fun s m on best port heard => does_run rfl on (announce_follows best port heard)
  case timeout =>
    intro s on
    obtain ⟨slave, net, _⟩ := announceTimeout_tim s
    exact does_run rfl on ⟨slave, net, announceTimeout_holds⟩
  case hold =>
    intro s on
    have leg : (holdHExpiry s).tim.legValid = legNow s := setLeg_valid _ _
    exact does_run rfl on ⟨leg, fun q out => leg.trans (legNow_holdover q out), fun q out => leg.trans (legNow_local q out)⟩
  case leap => exact fun s b on => does_run rfl on (leapSecond_cfg b s)
  case incr =>
    intro s v on answers near
    refine does_run (f := regWrite 0x04100 v) rfl on ?_
    rw [regWrite_incrMon answers]
    exact incrCommit_mon near
  case accept =>
    intro s r b on asked zero alone pend
    refine does_leave rfl on ?_
    rw [inlineOp_asked asked, zero, stepAccept_alone alone pend]
    dsimp only [Leaves]
    rw [complete_tim]
    exact ⟨rfl, complete_mem _ _ _ _ _ _⟩
  case reject =>
    intro s r b g on asked zero alone pend gm
    obtain ⟨listed, slave⟩ := applyStepReject_rejects gm
    refine does_leave rfl on ?_
    rw [inlineOp_asked asked, zero, stepReject_alone alone pend]
    dsimp only [Leaves]
    rw [complete_tim]
    exact ⟨listed, slave, complete_mem _ _ _ _ _ _⟩
  case set =>
    intro s r b u ns on asked isSec isNs forced short alone unsynced
    obtain ⟨rtc, net, quality⟩ := applyTimeSet_tim u ns s
    refine does_leave rfl on ?_
    rw [inlineOp_asked asked, isSec, isNs, forced, timeSet_alone alone short unsynced]
    dsimp only [Leaves]
    rw [complete_tim]
    exact ⟨rtc, net, quality, complete_mem _ _ _ _ _ _⟩

end Sys2Proof.Machine
end

section
/-!
PROOFS. The real-time clock, the capture and launch units and the backup domain (R461 to R472, R479, R480).
-/
set_option Elab.async false
namespace Sys2Proof.Machine

/-! ## Status bits and causes -/

section Bits
variable {a i : Nat} {s : State}

theorem getB_evt_other (g kind arg : Nat) (other : a ∉ [0x0A034, 0x0A010, 0x0A030]) : getB a i (evt g kind arg s) = getB a i s := by
  rw [getB, getReg_evt_other _ _ _ _ _ other, getB]

theorem getB_setCause_same {stat en bit vec : Nat} (low : bit < 32) : getB stat bit (setCause stat en bit vec s) = true := by
  have message (v : Nat) (t : State) : getB stat bit (sendMsg v t) = getB stat bit t := by
    rw [getB, (sendMsg_within v t).regs _ rfl _ (by simp), getB]
  unfold setCause
  split
  · assumption
  · dsimp only
    split
    · rw [message, getB_setB_same _ _ _ _ low]
    · rw [getB_setB_same _ _ _ _ low]

theorem getB_timCause_same (low : i < 32) : getB 0x04014 i (timCause i s) = true := getB_setCause_same low

theorem getB_timCause_other {bit : Nat} (other : a ≠ 0x04014) : getB a i (timCause bit s) = getB a i s := by
  rw [timCause, getB, getReg_setCause_other _ _ _ _ _ _ (by simpa using other), getB]

theorem getB_instantEvt_other (bit : Nat) (late : Option Nat) (other : a ∉ [0x0A034, 0x0A010, 0x0A030]) :
    getB a i (instantEvt bit late s) = getB a i s := by
  unfold instantEvt
  split <;> exact getB_evt_other _ _ _ other

end Bits

/-! ## The clock -/

section Clock
variable {s : State}

theorem rtcSet_given (r : Req) (ms : Nat) (s : State) : rtcSet r 0 ms s = complete r 0 0 16 [] (setRtc false (ms * 1000000) s) := by
  unfold rtcSet
  rw [if_neg (by decide), if_neg (by decide)]

theorem alarmSet_sets {r : Req} {alarm period : Nat} (short : period ≤ 86400) :
    alarmSet r alarm period s = complete r 0 0 16 [] { s with tim := { s.tim with alarm := alarm, period := period, lastWake := s.tim.rtc / sec } } := by
  unfold alarmSet
  rw [if_neg (Nat.not_lt.2 short)]

/-- A comparison that falls due and finds the RTC more than 500 ms off sets it (R467). -/
theorem rtcCompare_sets (sync : s.tim.quality = .sync) (due : ∀ m, s.tim.cmpAt = some m → m + 60 * sec ≤ s.tim.mon)
    (off : 500000000 < ((legNs s : Int) - s.tim.rtc).natAbs) :
    rtcCompare s = setRtc true (legNs s) { s with tim := { s.tim with cmpAt := some s.tim.mon } } := by
  have isDue : ¬(s.tim.quality ≠ .sync ∨ (!match s.tim.cmpAt with | some t => decide (t + 60 * sec ≤ s.tim.mon) | none => true) = true) := by
    rintro (other | idle)
    · exact other sync
    · cases at_ : s.tim.cmpAt with
      | none => simp [at_] at idle
      | some m => simp [at_, due m at_] at idle
  unfold rtcCompare
  refine (if_neg ?_).trans (if_pos ?_)
  · exact isDue
  · rw [Bool.or_eq_true]
    exact .inr (decide_eq_true off)

theorem fireAlarm_shows (s : State) : getB 0x04014 4 (fireAlarm none s) = true ∧ getB 0x06004 21 (fireAlarm none s) = false := by
  unfold fireAlarm
  rw [getB_instantEvt_other _ _ (by decide), getB_instantEvt_other _ _ (by decide)]
  exact ⟨getB_timCause_same (by decide), by rw [getB_timCause_other (by decide), getB_setB_same _ _ _ _ (by decide)]; rfl⟩

theorem fireWake_shows (at_ : Nat) (s : State) : getB 0x04014 5 (fireWake none at_ s) = true := by
  unfold fireWake
  rw [getB_instantEvt_other _ _ (by decide)]
  exact getB_timCause_same (by decide)

theorem periodicWake_fires (on : s.tim.period ≠ 0) (new : s.tim.lastWake < s.tim.rtc / sec / s.tim.period * s.tim.period) :
    periodicWake s = fireWake none (s.tim.rtc / sec / s.tim.period * s.tim.period) s := by
  unfold periodicWake
  dsimp only
  rw [if_neg on, if_neg (Nat.not_le.2 new)]

end Clock

/-! ## Capture and launch -/

section Units
variable {s : State} {k : Nat}

/-- A selected edge is captured while NEW is 0 (R462): MON and NET of the edge, and NEW. -/
theorem captureEdge_captures (low : k < 4) (on : getB (0x04200 + 0x20 * k) 31 s = true) (rises : getF (0x04200 + 0x20 * k) 30 29 s % 2 = 1)
    (empty : getB (0x04218 + 0x20 * k) 0 s = false) :
    getReg (0x04204 + 0x20 * k) (captureEdge k true s) = lo32 (s.tim.mon - 1000) ∧
    getReg (0x04208 + 0x20 * k) (captureEdge k true s) = hi32 (s.tim.mon - 1000) ∧ getB (0x04218 + 0x20 * k) 0 (captureEdge k true s) = true := by
  have lo : 0x04204 + 0x20 * k = 0x04200 + 0x20 * k + 4 := Nat.add_right_comm 0x04200 4 _
  have hi : 0x04208 + 0x20 * k = 0x04200 + 0x20 * k + 8 := Nat.add_right_comm 0x04200 8 _
  have new : 0x04218 + 0x20 * k = 0x04200 + 0x20 * k + 0x18 := Nat.add_right_comm 0x04200 0x18 _
  rw [new] at empty
  rw [lo, hi, new]
  unfold captureEdge
  dsimp only
  rw [if_neg (by simpa [on, rises] using low), if_neg (by simp [empty])]
  have apart : ∀ k < 4, 0x04200 + 0x20 * k + 4 ≠ 0x04014 ∧ 0x04200 + 0x20 * k + 8 ≠ 0x04014 ∧ 0x04200 + 0x20 * k + 0x18 ≠ 0x04014 := by decide
  replace apart := apart k low
  generalize e : 0x04200 + 0x20 * k = a at *
  refine ⟨?_, ?_, ?_⟩
  · rw [timCause, getReg_setCause_other _ _ _ _ _ _ (by simpa using apart.1)]
    simp [getReg_setReg, getReg_setB_other]
  · rw [timCause, getReg_setCause_other _ _ _ _ _ _ (by simpa using apart.2.1)]
    simp [getReg_setReg, getReg_setB_other]
  · rw [getB_timCause_other apart.2.2, getB, (pmcAdd_within _ _ _).regs _ rfl _ (by simp), ← getB, getB_setB_same _ _ _ _ (by decide)]

/-- An instant of a unit on NET drives its output when the edge lies within 4 ns of it (R463). -/
theorem launchPulse_drives (low : k < 4) (live : launchLive k s = true) (first : tget s.tim.launched k = none)
    (net : getB (0x04300 + 0x10 * k) 30 s = true) (begun : launchStart k s ≤ s.tim.net)
    (near : (s.tim.net - launchStart k s) % launchPeriod k s ≤ 4) :
    ∃ l, launchPulse k s = pulse k false { s with tim := { s.tim with launched := l } } := by
  have split_ := Nat.div_add_mod' (s.tim.net - launchStart k s) (launchPeriod k s)
  have pulseAt : ¬ launchStart k s + (s.tim.net - launchStart k s) / launchPeriod k s * launchPeriod k s + 4 < s.tim.net := by
    refine Nat.not_lt.2 (Nat.sub_le_iff_le_add'.1 ?_ |>.trans_eq (Nat.add_assoc _ _ _).symm)
    exact split_.ge.trans (Nat.add_le_add_left near _)
  unfold launchPulse
  dsimp only
  simp only [net, if_true]
  rw [if_neg (by simpa [live] using ⟨low, begun⟩), if_neg pulseAt, first]
  exact ⟨_, rfl⟩

end Units

/-! ## The backup domain -/

section Backup
variable {s : State}

theorem oscStop_shows (s : State) : getB 0x06004 27 (oscStop s) = true ∧ getB 0x06004 30 (oscStop s) = false := by
  have stopped (t : State) : getB 0x06004 27 (setB 0x06004 30 false (setB 0x06004 27 true t)) = true ∧
      getB 0x06004 30 (setB 0x06004 30 false (setB 0x06004 27 true t)) = false :=
    ⟨by rw [getB_setB_bit _ _ _ _ _ (by decide) (by decide), getB_setB_same _ _ _ _ (by decide)], getB_setB_same _ _ _ _ (by decide)⟩
  unfold oscStop
  dsimp only
  split
  · simp only [getB_evt_other _ _ _ (by decide : 0x06004 ∉ [0x0A034, 0x0A010, 0x0A030]), getB_timCause_other (by decide : 0x06004 ≠ 0x04014)]
    exact stopped s
  · exact stopped s

theorem lowFlag_same {bit : Nat} {v : Bool} (low : bit < 32) : getB 0x06004 bit (lowFlag bit v s) = v := by
  unfold lowFlag
  dsimp only
  split
  · rw [getB_evt_other _ _ _ (by decide), getB_setB_same _ _ _ _ low]
  · rw [getB_setB_same _ _ _ _ low]
theorem lowFlag_other {a bit i : Nat} {v : Bool} (low : bit < 32) (reg : a ∉ [0x0A034, 0x0A010, 0x0A030]) (other : a ≠ 0x06004 ∨ i ≠ bit) :
    getB a i (lowFlag bit v s) = getB a i s := by
  have set : getB a i (setB 0x06004 bit v s) = getB a i s := by
    by_cases same : a = 0x06004
    · subst same; exact getB_setB_bit _ _ _ _ _ low (other.resolve_left (by simp))
    · exact getB_setB_reg _ _ _ _ _ _ same
  unfold lowFlag
  dsimp only
  split
  · rw [getB_evt_other _ _ _ reg, set]
  · exact set

/-- A low cell is shown and is the condition of the backup-source source (R471). -/
theorem backupMeasure_low {e c p : Nat} (due : measureDue s = true) (watched : getB 0x06024 1 s = true) (low : c < 2600) :
    78 ∈ (backupMeasure e c p s).fco.cond ∧ getB 0x06004 24 (backupMeasure e c p s) = true := by
  have shown : ∀ t, getB 0x06004 24 t = true → 78 ∈ (setCond 78 (getB 0x06004 24 t || getB 0x06004 23 t || getB 0x06004 22 t)
      (if (getB 0x06004 24 t || getB 0x06004 23 t || getB 0x06004 22 t) = true then timCause 8 t else t)).fco.cond ∧
      getB 0x06004 24 (setCond 78 (getB 0x06004 24 t || getB 0x06004 23 t || getB 0x06004 22 t)
        (if (getB 0x06004 24 t || getB 0x06004 23 t || getB 0x06004 22 t) = true then timCause 8 t else t)) = true := by
    intro t bit
    simp only [bit, Bool.true_or, if_true]
    refine ⟨by rw [setCond, if_pos rfl, assertSrc_cond]; exact .inr rfl, ?_⟩
    rw [getB, setCond_steady _ _ _ (by decide), ← getB, getB_timCause_other (by decide), bit]
  unfold backupMeasure
  rw [if_neg (by simp [due])]
  apply shown
  have cell (t : State) : getB 0x06024 1 (setReg 0x06020 (BitVec.ofNat 32 ((e % 65536) <<< 16 ||| c % 65536)) { s with tim := t.tim }) = true := by
    rw [getB, getReg_setReg_other _ _ _ _ (by decide)]
    exact watched
  dsimp only
  split
  · rw [lowFlag_other (by decide) (by decide) (.inr (by decide)), lowFlag_other (by decide) (by decide) (.inr (by decide)), lowFlag_same (by decide),
      cell { s with tim := { s.tim with measAt := some s.tim.mon } }]
    simpa using low
  · rw [lowFlag_other (by decide) (by decide) (.inr (by decide)), lowFlag_same (by decide), cell { s with tim := { s.tim with measAt := some s.tim.mon } }]
    simpa using low

end Backup

/-- Settles O17, one lemma above for each command. -/
theorem backupCommandsComplete : Obligations.BackupCommandsComplete := by
  unfold Obligations.BackupCommandsComplete
  refine ⟨?rtcSet, ?alarmSet, ?compare, ?alarm, ?wake, ?capture, ?launch, ?osc, ?switch, ?measure, ?ret, ?floor⟩
  case rtcSet =>
    intro s r b on asked given
    refine does_leave rfl on ?_
    rw [inlineOp_asked asked, given, rtcSet_given]
    dsimp only [Leaves]
    rw [complete_tim]
    exact ⟨(setRtc_tim false _ s).1, complete_mem _ _ _ _ _ _⟩
  case alarmSet =>
    intro s r b on asked short
    refine does_leave rfl on ?_
    rw [inlineOp_asked asked, alarmSet_sets short]
    dsimp only [Leaves]
    rw [complete_tim]
    exact ⟨rfl, rfl, complete_mem _ _ _ _ _ _⟩
  case compare =>
    intro s on sync due off
    have halt := Nat.min_le_left 61000 (Config.rtcHalt s.free)
    refine does_leave rfl on ?_
    rw [rtcCompare_sets sync due off]
    dsimp only [Leaves]
    rw [(setRtc_tim _ _ _).1, if_pos rfl]
    exact ⟨Nat.le_add_right _ _, Nat.add_le_add_left halt _⟩
  case alarm =>
    intro s on armed reached
    refine does_leave rfl on ?_
    rw [rtcAlarm, if_neg (not_or.2 ⟨armed, Nat.not_lt.2 reached⟩)]
    exact ⟨by rw [fireAlarm_tim], fireAlarm_shows s⟩
  case wake =>
    intro s on period new
    refine does_leave rfl on ?_
    rw [periodicWake_fires period new]
    exact ⟨by rw [fireWake_tim], fireWake_shows _ s⟩
  case capture => exact fun s k on low enabled rises empty => does_run rfl on (captureEdge_captures low enabled rises empty)
  case launch =>
    intro s k on low live first net begun near
    obtain ⟨l, e⟩ := launchPulse_drives low live first net begun near
    refine does_leave rfl on ?_
    rw [e, pulse]
    exact List.mem_cons_self
  case osc => exact fun s => ⟨_, rfl, oscStop_shows s⟩
  case switch => exact fun s m e c => ⟨_, rfl, rfl⟩
  case measure => exact fun s e c p on due watched low => does_run rfl on (backupMeasure_low due watched low)
  case ret => exact fun s => ⟨_, rfl, rfl⟩
  case floor => exact fun s => ⟨_, rfl, rfl⟩

end Sys2Proof.Machine
end

section
/-!
PROOFS. The key store (R481 to R493): patrol, tamper, zeroisation, the operations on keys and HELLO of an unkeyed module.
-/
set_option Elab.async false
namespace Sys2Proof.Machine

/-! ## Patrol -/

section Patrol
variable {s : State} {n : Nat}

theorem steady_slotAttr (low : n < 64) : steady (0x48100 + 4 * n) = true := by
  have all : ∀ n < 64, steady (0x48100 + 4 * n) = true := by decide +kernel
  exact all n low

/-- The attributes of the slots are apart from registers outside their range. -/
theorem slotAttr_free {l : List Nat} (far : ∀ a ∈ l, a < 0x48100 ∨ 0x48200 ≤ a) (low : n < 64) : 0x48100 + 4 * n ∉ l := by
  intro inside
  rcases far _ inside with below | above
  · exact Nat.not_lt.2 (Nat.le_add_right _ _) below
  · omega

theorem slotState_reg {t : State} (e : getReg (0x48100 + 4 * n) t = getReg (0x48100 + 4 * n) s) : slotState n t = slotState n s := by
  rw [slotState, getF, e, slotState, getF]

theorem slotState_setSlotState_same (v : Nat) (small : v < 4) (s : State) : slotState n (setSlotState n v s) = v := by
  rw [slotState, setSlotState, getF_setF_same _ _ _ _ _ (by decide) (by decide)]
  exact Nat.mod_eq_of_lt small
theorem slotState_setSlotState_other {m : Nat} (other : n ≠ m) (v : Nat) (s : State) : slotState n (setSlotState m v s) = slotState n s :=
  slotState_reg (getReg_setF_other _ _ _ _ _ _ (by simpa using other))

theorem slotState_evt (low : n < 64) (g kind arg : Nat) (s : State) : slotState n (evt g kind arg s) = slotState n s :=
  slotState_reg (getReg_evt_other _ _ _ _ _ (slotAttr_free (by decide) low))

/-- A patrolled slot other than slot n keeps the state of slot n, and an UNUSABLE slot stays so. -/
theorem patrolFail_keeps {m : Nat} (low : n < 64) (apart : n ≠ m ∨ slotState n s = 2) : slotState n (patrolFail s m) = slotState n s := by
  unfold patrolFail
  split
  · rfl
  · next fails =>
    have other : n ≠ m := fun same => by subst same; rcases apart with h | h <;> simp_all
    dsimp only
    split
    · exact slotState_evt low _ _ _ _
    · rw [slotState_setSlotState_other other, slotState_evt low]

/-- A slot that no derivation can give back is UNUSABLE at its first failure (R483). -/
theorem patrolFail_unusable (low : n < 64) (stored : n ≠ 8 ∧ n ≠ 9) (held : slotState n s ≠ 0) : slotState n (patrolFail s n) = 2 := by
  unfold patrolFail
  split
  · next stays =>
    rcases stays with high | empty | done
    exacts [absurd low (Nat.not_lt.2 high), absurd empty held, done]
  · dsimp only
    rw [if_neg (fun working => working.1.elim stored.1 stored.2), slotState_setSlotState_same _ (by decide)]

theorem foldl_patrolFail (low : n < 64) (l : List Nat) (s : State) (bad : slotState n s = 2) : slotState n (l.foldl patrolFail s) = 2 := by
  induction l generalizing s with
  | nil => exact bad
  | cons m l ih => exact ih _ ((patrolFail_keeps low (.inr bad)).trans bad)

theorem patrol_unusable (low : n < 64) (stored : n ≠ 8 ∧ n ≠ 9) (l : List Nat) (s : State) (listed : n ∈ l) (held : slotState n s ≠ 0) :
    slotState n (l.foldl patrolFail s) = 2 := by
  induction l generalizing s with
  | nil => cases listed
  | cons m l ih =>
    by_cases here : n = m
    · subst here
      exact foldl_patrolFail low l _ (patrolFail_unusable low stored held)
    · exact ih _ ((List.mem_cons.1 listed).resolve_left here) (by rwa [patrolFail_keeps low (.inl here)])

theorem slotPatrol_unusable {l : List Nat} (low : n < 64) (stored : n ≠ 8 ∧ n ≠ 9) (listed : n ∈ l) (held : slotState n s ≠ 0) :
    slotState n (slotPatrol l s) = 2 := by
  rw [slotPatrol, slotState_reg (afterSlots_steady _ _ (steady_slotAttr low)), patrol_unusable low stored l s listed held]

end Patrol

/-! ## Zeroisation -/

/-- What zeroisation leaves of the key store (R489). -/
structure Zeroised (k : KstSt) : Prop where
  root     : k.root = none
  prov     : k.prov = none
  pend     : k.tamperPend = true
  wrap     : tget k.material 8 = none
  check    : tget k.material 9 = none
  sessions : k.sessions = []

theorem zeroise_zeroises (source : Nat) (but : Option Req) (s : State) : Zeroised (zeroise source but s).kst := by
  have cleared (t : State) (root : t.kst.root = none) (prov : t.kst.prov = none) (pend : t.kst.tamperPend = true) : Zeroised (clearWorking t).kst := by
    have nine : tget (tdel (tdel t.kst.material 8) 9) 8 = none := by rw [tget_tdel_other (by decide), tget_tdel_same]
    exact ⟨root, prov, pend, nine, tget_tdel_same, rfl⟩
  have settled (was : Bool) (t : State) (h : Zeroised t.kst) : Zeroised (if t.pwr.on then afterSlots was (cancelKeyJobs but t) else t).kst := by
    split
    · rwa [(afterSlots_within _ _).parts .kst (by decide), (cancelKeyJobs_within _ _).parts .kst (by decide)]
    · exact h
  exact settled _ _ (cleared _ rfl rfl rfl)

theorem keyZeroise_asked (r : Req) (s : State) : keyZeroise r 0x5A3C s = complete r 0 0 4 [] (zeroise 4 (some r) s) := by
  unfold keyZeroise
  rw [if_neg (by decide), if_neg (by decide)]

/-! ## Operations on keys -/

section Jobs
variable {r : Req} {n nonce k out : Nat} {s : State}

theorem keyDone_ends (r : Req) (len : Nat) (b : Bytes) (s : State) : .opDone r 0 0 len b ∈ (keyDone r len b s).out := complete_mem _ _ _ _ _ _

theorem keyDevcert_gives {len : Nat} (room : 512 ≤ len) (fits : s.kst.cert.length ≤ len) :
    .opDone r 0 0 s.kst.cert.length s.kst.cert ∈ (keyDevcert r len s).out := by
  unfold keyDevcert output
  rw [if_neg (Nat.not_lt.2 room), if_neg (Nat.not_lt.2 fits)]
  exact complete_mem _ _ _ _ _ _

theorem keyPublic_gives {len : Nat} (room : 64 ≤ len) (low : n < 64) (type : getF (0x48100 + 4 * n) 27 24 s = 3 ∨ getF (0x48100 + 4 * n) 27 24 s = 4)
    (shown : n < 2 ∨ keyed s = true) (usable : slotState n s ≠ 2) :
    .opDone r 0 0 64 (be 32 (Config.pubX (slotKey n s)) ++ be 32 (Config.pubY (slotKey n s))) ∈ (keyPublic r n len s).out := by
  have allowed : ¬(2 ≤ n ∧ (!keyed s) = true) := by
    rintro ⟨high, unkeyed⟩
    rcases shown with h | h
    · exact absurd h (Nat.not_lt.2 high)
    · simp [h] at unkeyed
  unfold keyPublic
  rw [if_neg (Nat.not_lt.2 room), if_neg (by rintro (high | ⟨not3, not4⟩); exacts [Nat.not_le.2 low high, type.elim not3 not4]), if_neg allowed,
    if_neg usable]
  exact keyDone_ends _ _ _ _

theorem attached_pmc {pair : Nat} {t : State} (w : Within [.pmc] (some []) s t) : attached pair t = attached pair s := by
  have hif : t.hif = s.hif := w.parts .hif (by decide)
  simp only [attached, ownedInside, linkOk, getB, w.regs _ rfl _ (List.not_mem_nil), ring_hif hif, hif]

theorem userSlotCheck_pmc {e : Nat} {t : State} (w : Within [.pmc] (some []) s t) : userSlotCheck n e t = userSlotCheck n e s := by
  have kst : t.kst = s.kst := w.parts .kst (by decide)
  simp only [userSlotCheck, keyed, slotState, slotAttr, getF, w.regs _ rfl _ (List.not_mem_nil), kst]
  rfl

theorem slotKey_pmc {t : State} (w : Within [.pmc] (some []) s t) : slotKey n t = slotKey n s := by
  rw [slotKey, w.parts .kst (by decide), slotKey]

/-- A job that ends with data in the host's memory shows both. -/
theorem keyDone_hostWrite {c : Bytes} (some_ : c ≠ []) : .opDone r 0 0 c.length [] ∈ (keyDone r c.length [] (hostWrite r.pair out c s)).out ∧
    (attached r.pair s = true → .hostData r.pair out c ∈ (keyDone r c.length [] (hostWrite r.pair out c s)).out) :=
  ⟨keyDone_ends _ _ _ _, fun reaches => (keyDone_within _ _ _ _).mem (hostWrite_mem _ _ _ _ some_ reaches)⟩

theorem keyGcm_encrypts {b : Bytes} (usable : userSlotCheck n 0 s = none) (long : k ≤ b.length) {c : Bytes}
    (text : c = gcmText (slotKey n s) nonce (b.drop k) ++ be 16 (Config.gcmTag (slotKey n s) nonce (b.take k) (b.drop k)).toNat) :
    keyGcm r n 0 nonce k out b s = keyDone r c.length [] (hostWrite r.pair out c s) := by
  unfold keyGcm
  rw [usable]
  dsimp only
  rw [if_neg (by decide), if_neg (by simp; omega), if_pos rfl, ← text]

theorem keyHmac_signs {b : Bytes} (usable : userSlotCheck n 1 s = none) :
    keyHmac r n out b s = keyDone r 32 [] (hostWrite r.pair out (be 32 (Config.hmac (slotKey n s) b)) s) := by
  unfold keyHmac
  rw [usable]

end Jobs

/-- An unkeyed module with a peer sends HELLO with a fresh nonce, at most once a second (R491). -/
theorem provisionHello_sends {s : State} (unkeyed : keyed s = false) (pair : duplex s = true) (on : getB 0x384C4 0 s = true)
    (due : ∀ m, s.kst.helloAt = some m → m + 1000000000 ≤ s.tim.mon) :
    provisionHello s = sendPeer .provHello { (draw s).2 with kst := { (draw s).2.kst with
      nu := some (Config.random (draw s).1 % 2 ^ 128), helloAt := some s.tim.mon } } := by
  have isDue : (match s.kst.helloAt with | some t => decide (t + 1000000000 ≤ s.tim.mon) | none => true) = true := by
    cases at_ : s.kst.helloAt with
    | none => rfl
    | some m => exact decide_eq_true (due m at_)
  unfold provisionHello
  refine if_neg ?_
  simp only [unkeyed, pair, on, Bool.not_true, Bool.or_false, Bool.false_or, Bool.not_eq_true']
  exact fun idle => absurd (isDue.symm.trans idle) (by decide)

/-- Settles O18, one lemma above for each command. That the buffer of KEY_GCM holds the additional data before the text, and its output the text before
the tag, is the model's choice (log entry 19). -/
theorem keyCommandsComplete : Obligations.KeyCommandsComplete := by
  unfold Obligations.KeyCommandsComplete
  have counted (len : Nat) (s : State) : Within [.pmc] (some []) s (bwAdd 4 0 len (pmcAdd 0x90 len s)) := (pmcAdd_within _ _ s).trans (bwAdd_within _ _ _ _)
  refine ⟨?patrol, ?trip, ?zeroise, ?tampcfg, ?devcert, ?pub, ?gcm, ?hmac, ?hello⟩
  case patrol => exact fun s l n on listed low not8 not9 held => does_run rfl on (slotPatrol_unusable low ⟨not8, not9⟩ listed held)
  case trip =>
    intro s x armed
    refine ⟨_, rfl, ?_⟩
    rw [tamperTrip, if_pos armed]
    obtain ⟨root, prov, pend, wrap, check, sessions⟩ := zeroise_zeroises (tamperCode x) none s
    exact ⟨root, prov, pend, wrap, check, sessions⟩
  case zeroise =>
    intro s r b on asked key
    refine does_leave rfl on ?_
    rw [inlineOp_asked asked, key, keyZeroise_asked]
    dsimp only [Leaves]
    rw [complete_kst]
    obtain ⟨root, -, pend, wrap, check, -⟩ := zeroise_zeroises 4 (some r) s
    exact ⟨root, pend, wrap, check, complete_mem _ _ _ _ _ _⟩
  case tampcfg =>
    intro s v on answers
    refine does_run (f := regWrite 0x48008 v) rfl on ?_
    rw [regWrite_tampcfg answers, tampcfgWrite, getReg_setReg_same]
  case devcert =>
    intro s r c on held room fits
    refine does_leave rfl on ?_
    rw [withOp_none held]
    exact keyDevcert_gives room fits
  case pub =>
    intro s r c n on held room slot low type shown usable
    refine does_leave rfl on ?_
    rw [withOp_none held, slot]
    exact keyPublic_gives room low type shown usable
  case gcm =>
    intro s r c n nonce k out b on held reads slot mode isNonce aad address usable long
    have pmc := counted b.length s
    refine does_leave rfl on ?_
    rw [withOp_reads held reads, slot, mode, isNonce, aad, address]
    rintro c rfl
    rw [keyGcm_encrypts ((userSlotCheck_pmc pmc).trans usable) long (by rw [slotKey_pmc pmc]), ← attached_pmc pmc]
    exact keyDone_hostWrite (List.ne_nil_of_length_pos (by simp))
  case hmac =>
    intro s r c n out b on held reads slot address usable
    have pmc := counted b.length s
    refine does_leave rfl on ?_
    rw [withOp_reads held reads, slot, address, keyHmac_signs ((userSlotCheck_pmc pmc).trans usable), slotKey_pmc pmc, ← attached_pmc pmc]
    have both := keyDone_hostWrite (r := r) (out := out) (s := bwAdd 4 0 b.length (pmcAdd 0x90 b.length s)) (c := be 32 (Config.hmac (slotKey n s) b))
      (List.ne_nil_of_length_pos (by simp))
    rwa [be_length] at both
  case hello =>
    intro s on unkeyed pair enabled runs cage due
    refine does_leave rfl on ?_
    rw [provisionHello_sends unkeyed pair enabled due]
    dsimp only [Leaves]
    rw [(sendPeer_within _ _).parts .kst (by decide), (sendPeer_within _ _).parts .free (by decide)]
    exact ⟨rfl, rfl, sendPeer_mem .provHello _ (.inr rfl) (by simpa [draw] using runs) cage⟩

end Sys2Proof.Machine
end

section
/-!
PROOFS. Stations, enrolment and the sessions (R333 to R357): accepted frames, repetitions and the station operations.
-/
set_option Elab.async false
namespace Sys2Proof.Machine

/-! ## A frame that passes its checks -/

section Frames
variable {f : Frame} {b : Bytes} {s : State}

/-- A frame of a declared station that is not retired passes checks 1 to 3 of R338. -/
theorem receive_passes {d : StationDecl} (form : FrameForm f) (runs : rndRuns s = true) (known : stnDecl f.station s = some d)
    (live : (stn f.station s).state ≠ .retired) : receive f s = if f.type = 1 then hello f d s else sessionFrame f s := by
  have csum : (f.csumZero && !f.ipv4) = false := by rcases form.csum with h | h <;> simp [h]
  unfold receive
  rw [if_neg (by simp [form.whole, csum, runs]), if_neg (by simp [form.form]), known]
  exact if_neg live

theorem hello_accepts {d : StationDecl} (form : FrameForm f) (key : keyed s = true)
    (tag : f.tag = BitVec.ofNat 128 (Config.hmac (keyEnrol f.station s) (frameHdr f ++ f.body) / 2 ^ 128)) (body : helloBad f.body = false)
    (taken : helloRefused f d s = none) (epoch : f.epoch ≠ 0) : hello f d s = helloAccept f s := by
  have long : f.body.length = 0x40 := by simp [helloBad] at body; exact body.1.1.1.1.1.1.1
  have ok : (keyed s && f.tag == BitVec.ofNat 128 (Config.hmac (keyEnrol f.station s) (frameHdr f ++ f.body) / 2 ^ 128)) = true := by
    rw [key, Bool.true_and, beq_iff_eq]
    exact tag
  unfold hello
  dsimp only
  rw [ok, if_neg (by decide), if_neg (Nat.not_lt.2 long.ge), taken]
  exact if_neg (by simp [body, form.hdr, epoch])

/-- A session frame that passes checks 4 to 9 advances the window of its station. -/
theorem sessionFrame_passes (ok : SessionOk f b s) : sessionFrame f s =
    if f.type = 0x04 then if b ≠ zeros 8 ∨ hdrBad f then discard 9 f.station (advanceWin f.station f.fseq s)
      else enrolled f.station (noteAddr f (advanceWin f.station f.fseq s))
    else if f.type = 0x11 then readRep f b (advanceWin f.station f.fseq s) else writeAck f b (advanceWin f.station f.fseq s) := by
  obtain ⟨k, key, clear, tag⟩ := ok.tag
  have held : ¬((stn f.station s).epoch < f.epoch ∨ (f.epoch = (stn f.station s).epoch ∧ (stn f.station s).nm.isNone)) := by
    have welcome := ok.welcome
    rw [ok.epoch]
    rintro (late | ⟨-, missing⟩)
    · exact Nat.lt_irrefl _ late
    · rw [Option.isNone_iff_eq_none] at missing
      simp [missing] at welcome
  unfold sessionFrame
  dsimp only
  rw [if_neg (by rintro (h | h); exacts [ok.state.2.1 h, ok.state.2.2 h]), if_neg held, if_neg (by simp [ok.epoch]), key]
  dsimp only
  rw [← clear, if_neg (by simp [tag]), if_neg (by have := ok.recent; omega), if_neg (by rw [ok.fresh]; decide)]

/-- A session frame that passes every check is a READY, a READ_REP or a WRITE_ACK. -/
theorem receive_session (form : FrameForm f) (ok : SessionOk f b s) (session : f.type ≠ 1) : receive f s =
    if f.type = 0x04 then if b ≠ zeros 8 ∨ hdrBad f then discard 9 f.station (advanceWin f.station f.fseq s)
      else enrolled f.station (noteAddr f (advanceWin f.station f.fseq s))
    else if f.type = 0x11 then readRep f b (advanceWin f.station f.fseq s) else writeAck f b (advanceWin f.station f.fseq s) := by
  obtain ⟨d, known⟩ := Option.isSome_iff_exists.1 ok.known
  rw [receive_passes form ok.runs known ok.state.1, if_neg session, sessionFrame_passes ok]

/-- A station after a frame that it sent has advanced its window. -/
theorem stn_advanceWin (i q : Nat) (s : State) : ∃ w, stn i (advanceWin i q s) = { stn i s with hiSeq := max (stn i s).hiSeq q, window := w } :=
  ⟨_, stn_putStn_same _ _ _⟩

theorem inControl_dup {t : State} (e : t.dup = s.dup) : inControl t = inControl s := by unfold inControl; rw [e]

theorem stn_sessions (i : Nat) (l : List Nat) (s : State) : stn i { s with kst := { s.kst with sessions := l } } = stn i s := rfl

/-- A new session is in ENROLLING, under its EPOCH and NS and, where the module holds it, its NM (R336). -/
theorem stn_newSession (i e n : Nat) (nm : Option Nat) (sps ai ao : Nat) (s : State) :
    (stn i (newSession i e n nm sps ai ao s)).state = .enrolling ∧ (stn i (newSession i e n nm sps ai ao s)).epoch = e ∧
    (stn i (newSession i e n nm sps ai ao s)).ns = some n ∧ (stn i (newSession i e n nm sps ai ao s)).nm = nm := by
  have count (c : Prop) [Decidable c] (t : State) : stn i (if c then pmcAdd 0x5A 1 t else t) = stn i t := by split <;> simp
  unfold newSession
  dsimp only
  split
  · rw [stn_pmcAdd, stn_sessions, count, stn_putStn_same]
    exact ⟨rfl, rfl, rfl, rfl⟩
  · rw [count, stn_putStn_same]
    exact ⟨rfl, rfl, rfl, rfl⟩

/-- What an accepted HELLO leaves of its station: the module in control alone draws NM. -/
theorem stn_helloAccept (f : Frame) (s : State) :
    (stn f.station (helloAccept f s)).state = .enrolling ∧ (stn f.station (helloAccept f s)).epoch = f.epoch ∧
    (stn f.station (helloAccept f s)).ns = some (beAt f.body 0 16) ∧ (stn f.station (helloAccept f s)).nm.isSome = inControl s := by
  have kept (t : State) : (stn f.station (keepKind f.station f t)).state = (stn f.station t).state ∧
      (stn f.station (keepKind f.station f t)).epoch = (stn f.station t).epoch ∧
      (stn f.station (keepKind f.station f t)).ns = (stn f.station t).ns ∧ (stn f.station (keepKind f.station f t)).nm = (stn f.station t).nm := by
    rw [keepKind, stn_putStn_same]
    exact ⟨rfl, rfl, rfl, rfl⟩
  have same : inControl (noteAddr f (pmcAdd 0x52 1 s)) = inControl s :=
    inControl_dup (((noteAddr_within f _).parts .dup (by decide)).trans (pmcAdd_dup _ _ _))
  have told (c : Prop) [Decidable c] (x : PeerBody) (t : State) : stn f.station (if c then sendPeer x t else t) = stn f.station t := by
    split <;> simp
  unfold helloAccept
  dsimp only
  rw [same]
  generalize noteAddr f (pmcAdd 0x52 1 s) = u
  split
  · next control =>
    rw [told, stn_welcome, (kept _).1, (kept _).2.1, (kept _).2.2.1, (kept _).2.2.2, control]
    obtain ⟨state, epoch, ns, nm⟩ := stn_newSession f.station f.epoch (beAt f.body 0 16) (some (Config.random (draw u).1 % 2 ^ 128))
      (grantSps (beAt f.body 0x12 1) (stnCfg f.station s).sps) (min (beAt f.body 0x13 1) (stnCfg f.station s).appIn)
      (min (beAt f.body 0x14 1) (stnCfg f.station s).appOut) (draw u).2
    exact ⟨state, epoch, ns, by rw [nm]; rfl⟩
  · next standby =>
    rw [(kept _).1, (kept _).2.1, (kept _).2.2.1, (kept _).2.2.2, Bool.eq_false_iff.2 standby]
    obtain ⟨state, epoch, ns, nm⟩ := stn_newSession f.station f.epoch (beAt f.body 0 16) none
      (grantSps (beAt f.body 0x12 1) (stnCfg f.station s).sps) (min (beAt f.body 0x13 1) (stnCfg f.station s).appIn)
      (min (beAt f.body 0x14 1) (stnCfg f.station s).appOut) u
    exact ⟨state, epoch, ns, by rw [nm]; rfl⟩

/-- READY completes an enrolment, and its sequence number has been taken (R340). -/
theorem stn_ready (f : Frame) (s : State) :
    (stn f.station (enrolled f.station (noteAddr f (advanceWin f.station f.fseq s)))).state =
      (if (stn f.station s).state = .enrolling then .active else (stn f.station s).state) ∧
    (stn f.station (enrolled f.station (noteAddr f (advanceWin f.station f.fseq s)))).hiSeq = max (stn f.station s).hiSeq f.fseq := by
  obtain ⟨w, advanced⟩ := stn_advanceWin f.station f.fseq s
  obtain ⟨state, -, hiSeq⟩ := enrolled_stn f.station (noteAddr f (advanceWin f.station f.fseq s))
  rw [state, hiSeq, noteAddr_stn_state, noteAddr_stn_hiSeq, advanced]
  exact ⟨rfl, rfl⟩

/-- An accepted READ_REP stands as its station's reply (R344, R348). -/
theorem readRep_replies (now : f.round = s.rnd.number) (phase : s.rnd.phase = .read) (inTime : f.rxMon < boundary 7 0 s)
    (first : (stn f.station s).round.reply = none) (good : readRepBad (stn f.station s) b s = false) (hdr : hdrBad f = false) :
    (stn f.station (readRep f b s)).round.reply = some (parseReply (stn f.station s) b f.rxMon) := by
  unfold readRep
  dsimp only
  rw [if_neg (Nat.not_lt.2 now.le), if_neg (by simp only [phase]; rintro (h | h | h); exacts [h.ne now, h rfl, Nat.not_le.2 inTime h]),
    if_neg (by simp [first]),
    if_neg (by simp [good, hdr]), stn_noteClaim, (enrolled_stn _ _).2.1, noteAddr_stn_round, stn_pmcAdd, stn_putStn_same]

/-- An accepted WRITE_ACK leaves its station written (R345, R351). -/
theorem writeAck_written (now : f.round = s.rnd.number) (phase : s.rnd.phase = .write) (inTime : f.rxMon < boundary 31 24 s)
    (first : (stn f.station s).round.written = false) (opened : (stn f.station s).round.wrOpen = true) (good : writeAckBad b = false)
    (hdr : hdrBad f = false) : (stn f.station (writeAck f b s)).round.written = true := by
  unfold writeAck
  dsimp only
  rw [if_neg (Nat.not_lt.2 now.le), if_neg (by simp only [phase]; rintro (h | h | h); exacts [h.ne now, h rfl, Nat.not_le.2 inTime h]),
    if_neg (by simp [first, opened]),
    if_neg (by simp [good, hdr]), stn_noteClaim, noteAddr_stn_round, stn_pmcAdd, stn_putStn_same]

end Frames

/-! ## Repetitions -/

section Retries
variable {id type flags : Nat} {body : Bytes} {s : State}

/-- A session frame leaves while the round engine runs and the session has its key (R330); the sending is all that its station shows of it. -/
theorem sendSession_sends (runs : rndRuns s = true) (key : (sessKey id s).isSome = true) :
    (stn id (sendSession type id flags body s)).round = (stn id s).round ∧ ∃ b g, .plynu id b g ∈ (sendSession type id flags body s).out := by
  obtain ⟨k, key⟩ := Option.isSome_iff_exists.1 key
  unfold sendSession
  rw [if_pos runs, key]
  dsimp only
  rw [stn_emit, stn_putStn_same]
  exact ⟨rfl, _, _, List.mem_cons_self⟩

/-- What stands of a round is no part of the session's key, nor are the counters. -/
theorem sessKey_putStn_round (r : StnRound) (s : State) : sessKey id (putStn id { stn id s with round := r } s) = sessKey id s := by
  unfold sessKey
  dsimp only
  rw [stn_putStn_same]
  rfl

theorem sessKey_pmcAdd (e n : Nat) (s : State) : sessKey id (pmcAdd e n s) = sessKey id s := by
  unfold sessKey keyed keySession keyStation slotState slotKey getF
  simp only [stn_pmcAdd, pmcAdd_kst, getReg_pmcAdd]

theorem rndRuns_pmcAdd (e n : Nat) (s : State) : rndRuns (pmcAdd e n s) = rndRuns s := by rw [rndRuns, pmcAdd_start, rndRuns]

/-- A request is repeated under a new sequence number, and counted as one more of the round (R344, R347). -/
theorem sendReadReq_sends (runs : rndRuns s = true) (key : (sessKey id s).isSome = true) :
    (stn id (sendReadReq true id s)).round.reads = (stn id s).round.reads + 1 ∧ ∃ b g, .plynu id b g ∈ (sendReadReq true id s).out := by
  have counted (c : Prop) [Decidable c] (t : State) : stn id (if c then pmcAdd 0x57 1 t else t) = stn id t ∧
      sessKey id (if c then pmcAdd 0x57 1 t else t) = sessKey id t ∧ rndRuns (if c then pmcAdd 0x57 1 t else t) = rndRuns t := by
    split
    · exact ⟨stn_pmcAdd _ _ _ _, sessKey_pmcAdd _ _ _, rndRuns_pmcAdd _ _ _⟩
    · exact ⟨rfl, rfl, rfl⟩
  unfold sendReadReq
  rw [if_neg (by rw [Option.isNone_eq_false_iff.2 key]; decide)]
  dsimp only
  rw [if_pos rfl]
  let t := putStn id { stn id s with round := { (stn id s).round with reads := (stn id s).round.reads + 1, sentAt := s.tim.mon } } s
  obtain ⟨round, sent⟩ := sendSession_sends (id := id) (type := 0x10)
    (s := pmcAdd 0x51 1 (pmcAdd 0x4D 1 (if (stn id s).round.fetch.isSome then pmcAdd 0x57 1 t else t)))
    (by rw [rndRuns_pmcAdd, rndRuns_pmcAdd, (counted _ _).2.2]; exact runs)
    (by rw [sessKey_pmcAdd, sessKey_pmcAdd, (counted _ _).2.1, sessKey_putStn_round]; exact key)
  refine ⟨(congrArg StnRound.reads round).trans ?_, sent⟩
  rw [stn_pmcAdd, stn_pmcAdd, (counted _ _).1, stn_putStn_same]

/-- A WRITE is repeated under the present claim, and counted as one more of the round (R345, R346). -/
theorem sendWrite_sends (runs : rndRuns s = true) (key : (sessKey id s).isSome = true) (commands : sendsCommands s = true) :
    (stn id (sendWrite true id s)).round.writes = (stn id s).round.writes + 1 ∧ ∃ b g, .plynu id b g ∈ (sendWrite true id s).out := by
  unfold sendWrite
  rw [if_neg (by rw [Option.isNone_eq_false_iff.2 key, commands]; decide)]
  dsimp only
  rw [if_pos rfl]
  obtain ⟨round, sent⟩ := sendSession_sends (id := id) (type := 0x20) (s := pmcAdd 0x4F 1 (pmcAdd 0x51 1
    (putStn id { stn id s with round := { (stn id s).round with writes := (stn id s).round.writes + 1, sentAt := s.tim.mon } } s)))
    (by rw [rndRuns_pmcAdd, rndRuns_pmcAdd]; exact runs) (by rw [sessKey_pmcAdd, sessKey_pmcAdd, sessKey_putStn_round]; exact key)
  refine ⟨(congrArg StnRound.writes round).trans ?_, sent⟩
  rw [stn_pmcAdd, stn_pmcAdd, stn_putStn_same]

end Retries

/-! ## The station operations -/

section Operations
variable {r : Req} {id : Nat} {s : State}

theorem stationRetire_waits (group : inGroup r id s = true) (alone : duplex s = false) (live : (stn id s).state ≠ .retired) :
    stationRetire r id s = setRetire id (some r) s := by
  unfold stationRetire
  rw [if_neg (by simp [refuses_alone s alone]), if_neg (by simp [group]), if_neg live, if_pos (by simp [alone])]

theorem stationReinstate_alone (group : inGroup r id s = true) (alone : duplex s = false) (retired : (stn id s).state = .retired)
    (known : (stnDecl id s).isSome = true) : stationReinstate r id s = complete r 0 0 4 [] (setSess id .dormant s) := by
  unfold stationReinstate
  rw [if_neg (by simp [refuses_alone s alone]), if_neg (by simp [group]),
    if_neg (by rintro (h | h); exacts [h retired, by rw [Option.isNone_eq_false_iff.2 known] at h; cases h]), viaPeer_alone _ _ _ _ _ alone,
    applyReinstate, if_pos ⟨retired, known⟩]

theorem stationQuery_queues (group : inGroup r id s = true) (live : (stn id s).state = .active ∨ (stn id s).state = .suspect) :
    stationQuery r id s = putStn id { stn id s with query := (stn id s).query ++ [r] } s := by
  unfold stationQuery
  dsimp only
  rw [if_neg (by simp [group]), if_neg (by rintro ⟨a, b⟩; exact live.elim a b)]

end Operations

/-- Settles O19, one lemma above for each command. -/
theorem stationCommandsComplete : Obligations.StationCommandsComplete := by
  unfold Obligations.StationCommandsComplete
  refine ⟨?hello, ?ready, ?readRep, ?writeAck, ?readRetry, ?writeRetry, ?retire, ?reinstate, ?query⟩
  case hello =>
    intro s f d on form type known live key runs tag body taken epoch
    refine does_leave rfl on ?_
    rw [receive_passes form runs known live, if_pos type, hello_accepts form key tag body taken epoch]
    exact stn_helloAccept f s
  case ready =>
    intro s f on form ok type
    have ran := receive_session form ok (by rw [type]; decide)
    rw [if_pos type, if_neg (by simp [form.hdr])] at ran
    refine does_run rfl on ?_
    rw [ran]
    exact stn_ready f s
  case readRep =>
    intro s f b on form ok type now phase inTime first good
    obtain ⟨w, advanced⟩ := stn_advanceWin f.station f.fseq s
    have ran := receive_session form ok (by rw [type]; decide)
    rw [if_neg (by rw [type]; decide), if_pos type] at ran
    have replies := readRep_replies (s := advanceWin f.station f.fseq s) now phase inTime (by rw [advanced]; exact first)
      (by rw [advanced]; exact good) form.hdr
    refine does_leave rfl on ?_
    rw [ran]
    dsimp only [Leaves]
    rw [replies, advanced]
    rfl
  case writeAck =>
    intro s f b on form ok type now phase inTime first opened good
    obtain ⟨w, advanced⟩ := stn_advanceWin f.station f.fseq s
    have ran := receive_session form ok (by rw [type]; decide)
    rw [if_neg (by rw [type]; decide), if_neg (by rw [type]; decide)] at ran
    refine does_leave rfl on ?_
    rw [ran]
    exact writeAck_written now phase inTime (by rw [advanced]; exact first) (by rw [advanced]; exact opened) good form.hdr
  case readRetry =>
    intro s id on phase listed first sent left due inTime runs key
    refine does_leave rfl on ?_
    rw [readRetry, if_pos ⟨phase, listed, by rw [first]; rfl, sent, left, due, inTime⟩]
    exact sendReadReq_sends runs key
  case writeRetry =>
    intro s id on phase opened first sent left due inTime runs key commands
    refine does_leave rfl on ?_
    rw [writeRetry, if_pos ⟨phase, opened, by rw [first]; rfl, sent, left, due, inTime⟩]
    exact sendWrite_sends runs key commands
  case retire =>
    intro s r b id on asked isId group alone live
    refine does_leave rfl on ?_
    rw [inlineOp_asked asked, isId, stationRetire_waits group alone live, setRetire]
    dsimp only [Leaves]
    rw [stn_putStn_same]
  case reinstate =>
    intro s r b id on asked isId group alone retired known
    refine does_leave rfl on ?_
    rw [inlineOp_asked asked, isId, stationReinstate_alone group alone retired known]
    dsimp only [Leaves]
    rw [stn_complete]
    exact ⟨(stn_setSess id .dormant s).1, complete_mem _ _ _ _ _ _⟩
  case query =>
    intro s r c id on held buffer room isId group live
    refine does_leave rfl on ?_
    rw [withOp_none held, if_neg (by simp [buffer]; omega), isId, stationQuery_queues group live]
    dsimp only [Leaves]
    rw [stn_putStn_same]

end Sys2Proof.Machine
end

section
/-!
PROOFS. The tally (R286 to R317): commits, blocks and samples, supply conditions, calibration and the billing operations.
-/
set_option Elab.async false
namespace Sys2Proof.Machine
open Keeps

/-! ## The commit -/

/-- COMMIT_SEQ, the bank of the latest commit, and the two banks. -/
def banks (s : State) : Nat × Nat × Option Bank × Option Bank := (s.tly.seq, s.tly.latest, s.tly.bank0, s.tly.bank1)

/-- The banks stand as given. -/
def Banked (b : Nat × Nat × Option Bank × Option Bank) (s : State) : Prop := banks s = b

theorem banked_within {ps : List Part} {rs : Option (List Nat)} {s t : State} (w : Within ps rs s t) (hp : .tly ∉ ps := by decide) : Keeps Banked s t := by
  have tly : t.tly = s.tly := w.parts .tly hp
  intro b h
  rw [Banked, banks, tly]
  exact h

/-- A change of the tally that leaves the banks. -/
theorem banked_tly (p : TlySt) (s : State) (seq : p.seq = s.tly.seq := by rfl) (latest : p.latest = s.tly.latest := by rfl)
    (bank0 : p.bank0 = s.tly.bank0 := by rfl) (bank1 : p.bank1 = s.tly.bank1 := by rfl) : Keeps Banked s { s with tly := p } := by
  intro b e
  rw [Banked, banks, seq, latest, bank0, bank1]
  exact e

theorem banked_addRec (stream rtype source seq status : Nat) (b : Bytes) (s : State) : Keeps Banked s (addRec stream rtype source seq status b s) := by
  have pump (t : State) : Keeps Banked t (pumpStream stream t) :=
    (foldl (fun u r _ => banked_within (deferWith_within _ _ _ _ _ u)) _).after (banked_tly _ t)
  unfold addRec
  refine (pump _).after (opt ?_ ((banked_within (pmcAdd_within _ _ _)).after (opt refl (banked_within (sendPeer_within _ _)))))
  exact (banked_within (emit_within _ _)).after ((banked_within (pmcAdd_within _ _ _)).after (banked_tly _ s))

theorem banked_addSpan (p : Span) (s : State) : Keeps Banked s (addSpan p s) := by
  unfold addSpan
  exact ite (banked_tly _ s) ((banked_addRec _ _ _ _ _ _ _).after ((banked_within (incReg_within _ _ _)).after (banked_tly _ s)))

theorem banked_closeGaps (k : Nat) (v : Ival) (x : TlySrc) (s : State) : Keeps Banked s (closeGaps k v x s).2.2 := by
  unfold closeGaps
  split
  · exact refl
  · exact (foldl (fun t p _ => banked_addSpan p t) _).after ((banked_tly _ _).after (banked_within (pmcAdd_within _ _ s)))

theorem banked_recordIval (k : Nat) (v : Ival) (x : TlySrc) (s : State) : Keeps Banked s (recordIval k v x s) := by
  unfold recordIval
  refine (banked_addRec _ _ _ _ _ _ _).after (opt (banked_tly _ s) ?_)
  exact (banked_within (evt_within _ _ _ _)).after (banked_within (incReg_within _ _ _))

theorem banked_closeOldest (k : Nat) (s : State) : Keeps Banked s (closeOldest k s) := by
  have closed (v : Ival) (x : TlySrc) := banked_closeGaps k v x s
  unfold closeOldest
  split
  · exact refl
  · split
    · exact refl
    · refine ite refl (ite ?_ ((banked_recordIval _ _ _ _).after (closed _ _)))
      split
      · exact ite ((banked_tly _ _).after (closed _ _)) (closed _ _)
      · exact closed _ _

theorem banked_startSrc (k t : Nat) (s : State) : Keeps Banked s (startSrc k t s) := by
  unfold startSrc
  split <;> exact fun b h => by split <;> exact h

theorem banked_tlyRoll (s : State) : Keeps Banked s (tlyRoll s) := by
  unfold tlyRoll
  extract_lets gained lost rolled now edge begun hour
  have gain : Keeps Banked s gained := opt refl (banked_tly _ s)
  have lose : Keeps Banked gained lost := opt refl (banked_tly _ gained)
  have roll : Keeps Banked lost rolled := banked_tly _ lost
  have begin_ : Keeps Banked rolled begun := opt refl (foldl (fun t k _ => banked_startSrc _ _ t) rolled)
  exact (banked_tly _ begun).after (begin_.after (roll.after (lose.after gain)))

theorem banked_flushSpans (s : State) : Keeps Banked s (flushSpans s) := by
  unfold flushSpans
  exact ite refl ((foldl (fun t p _ => banked_addSpan p t) _).after (banked_tly _ s))

theorem banked_endOwed (s : State) : Keeps Banked s (endOwed s) := by
  have mark (k a b : Nat) (outage : Bool) (t : State) : Keeps Banked t (markSpan k a b outage t) := by
    unfold markSpan
    split
    · exact refl
    · exact banked_tly _ t
  unfold endOwed
  exact ite refl ((foldl (fun t p _ => (banked_addSpan _ _).after (mark _ _ _ _ t)) _).after (banked_tly _ s))

/-- The bank that does not hold the latest commit takes the next one, and the other stays (R305). -/
structure Commits (s t : State) : Prop where
  seq    : t.tly.seq = s.tly.seq + 1
  latest : t.tly.latest = if s.tly.latest = 0 then 1 else 0
  writes : (if s.tly.latest = 0 then t.tly.bank1 else t.tly.bank0).map (·.seq) = some (s.tly.seq + 1)
  keeps  : if s.tly.latest = 0 then t.tly.bank0 = s.tly.bank0 else t.tly.bank1 = s.tly.bank1

theorem writeBank_commits (final : Bool) (s : State) : Commits s (writeBank final s) := by
  have marked (c : Prop) [Decidable c] (t : TlySt) (u : State) (tly : u.tly = if c then { t with marker := none, markUsed := false } else t) :
      u.tly.seq = t.seq ∧ u.tly.latest = t.latest ∧ u.tly.bank0 = t.bank0 ∧ u.tly.bank1 = t.bank1 := by
    rw [tly]
    split <;> exact ⟨rfl, rfl, rfl, rfl⟩
  obtain ⟨seq, latest, bank0, bank1⟩ := marked _ _ (writeBank final s) (pmcAdd_tly _ _ _)
  by_cases zero : s.tly.latest = 0
  · rw [if_pos zero] at seq latest bank0 bank1
    exact ⟨seq, by rw [latest, if_pos zero], by rw [if_pos zero, bank1]; rfl, by rw [if_pos zero, bank0]⟩
  · rw [if_neg zero] at seq latest bank0 bank1
    exact ⟨seq, by rw [latest, if_neg zero], by rw [if_neg zero, bank0]; rfl, by rw [if_neg zero, bank1]⟩

theorem Commits.of_banks {s t u : State} (same : banks t = banks s) (c : Commits t u) : Commits s u := by
  simp only [banks, Prod.mk.injEq] at same
  obtain ⟨seq, latest, bank0, bank1⟩ := same
  obtain ⟨s1, s2, s3, s4⟩ := c
  rw [seq] at s1 s3
  rw [latest] at s2 s3 s4
  rw [bank0, bank1] at s4
  exact ⟨s1, s2, s3, s4⟩

theorem commitNow_commits (final : Bool) (s : State) : Commits s (commitNow final s) := by
  unfold commitNow
  extract_lets rolled closed
  have purged : Keeps Banked (flushSpans closed) (purgeStore (flushSpans closed)) := banked_tly _ _
  have ready : Keeps Banked s (mapSrcs (fun _ x => pruneBud x) (purgeStore (flushSpans closed))) :=
    (banked_tly _ _).after <| purged.after <| (banked_flushSpans _).after <|
      (foldl (fun t k _ => foldl (fun u _ _ => banked_closeOldest k u) t) rolled).after (banked_tlyRoll s)
  exact (writeBank_commits final _).of_banks (ready _ rfl)

theorem tlyCommit_commits {s : State} (idle : seqRuns s = false) (runs : s.start.blkRst.contains .tly = false) (metering : s.tly.metering = true)
    (due : onMultiple 250000000 s.tly.commitAt s.tim.mon = true) : Commits s (tlyCommit s) := by
  have owed : banks (endOwed { s with tly := { s.tly with commitAt := s.tim.mon } }) = banks s := banked_endOwed _ _ rfl
  unfold tlyCommit
  rw [if_neg (by simp only [idle, runs, metering, due]; decide)]
  obtain ⟨seq, latest, writes, keeps⟩ := (commitNow_commits false _).of_banks owed
  exact ⟨seq, latest, writes, keeps⟩

/-! ## Blocks and samples -/

section Samples
variable {f m k : Nat} {s : State}

theorem holdExpiry_expires {x : TlySrc} {v : Ival} {l : List Ival} (src : tsrc (skey 1 k) s = some x) (oldest : x.ivals = v :: l)
    (ended : holdOver v s = true) : tsrc (skey 1 k) (holdExpiry k s) = some { x with ivals := { v with expired := true } :: l } := by
  unfold holdExpiry
  rw [src]
  dsimp only
  rw [oldest]
  dsimp only
  rw [if_pos ended]
  exact tget_tput_same

theorem fdrStat_apart : fdrStat f ∉ [0x0A034, 0x0A010, 0x0A030] := by
  exact above_recorder (Nat.lt_add_right _ (by decide))

/-- A bit of TLY_FDRSTAT stays while another bit is set or cleared by a supply condition. -/
theorem setSupply_other {bit i : Nat} {holds : Bool} (low : bit < 32) (other : i ≠ bit) :
    getB (fdrStat f) i (setSupply f bit holds s) = getB (fdrStat f) i s := by
  unfold setSupply
  dsimp only
  split
  · rfl
  · rw [getB, (addRunning_within _ _ _).regs _ rfl _ (by simp), ← getB, getB_evt_other _ _ _ fdrStat_apart,
      getB_setB_bit _ _ _ _ _ low other]

theorem setSupply_same {bit : Nat} {holds : Bool} (low : bit < 32) : getB (fdrStat f) bit (setSupply f bit holds s) = holds := by
  unfold setSupply
  dsimp only
  split
  · assumption
  · rw [getB, (addRunning_within _ _ _).regs _ rfl _ (by simp), ← getB, getB_evt_other _ _ _ fdrStat_apart,
      getB_setB_same _ _ _ _ low]

/-- What follows a block for one current channel (R286). -/
def putRange (f : Nat) (r : List (List (Int × Bool) × Bool × Nat)) (s : State) (k : Nat) : State :=
  let x := r.getD k ([], false, 0)
  let n := ((x.1.map (·.2)).zip ((x.1.map (·.2)).drop 1 ++ [x.2.1])).countP (fun e => e.1 != e.2)
  let first := match x.1 with | y :: _ => b2n (y.2 != getB (fdrStat f) k s) | [] => 0
  let s := if n + first = 0 then s else pmcAdd 0x49 (n + first) s
  { setB (fdrStat f) k x.2.1 s with tly := { s.tly with quiet := tput s.tly.quiet (7 * f + 3 + k) x.2.2 } }

theorem putRanges_eq (f : Nat) (r : List (List (Int × Bool) × Bool × Nat)) (s : State) : putRanges f r s = [0, 1, 2, 3].foldl (putRange f r) s := rfl

theorem putRange_bit {i : Nat} (low : i < 32) (r : List (List (Int × Bool) × Bool × Nat)) (s : State) :
    getB (fdrStat f) k (putRange f r s i) = if i = k then (r.getD i ([], false, 0)).2.1 else getB (fdrStat f) k s := by
  have count (n : Nat) : getB (fdrStat f) k (if n = 0 then s else pmcAdd 0x49 n s) = getB (fdrStat f) k s := by
    split
    · rfl
    · rw [getB, getReg_pmcAdd, getB]
  have set (b : Bool) (t : State) (p : TlySt) : getB (fdrStat f) k { setB (fdrStat f) i b t with tly := p } = if i = k then b else getB (fdrStat f) k t := by
    split
    · next same => subst same; exact getB_setB_same _ _ _ _ low
    · next other => exact getB_setB_bit _ _ _ _ _ low (Ne.symm other)
  unfold putRange
  extract_lets x n first t
  rw [set, count]

/-- The ranges that follow a block stand in the low bits of TLY_FDRSTAT (R286). -/
theorem putRanges_shows (r : List (List (Int × Bool) × Bool × Nat)) (low : k < 4) :
    getB (fdrStat f) k (putRanges f r s) = (r.getD k ([], false, 0)).2.1 := by
  rw [putRanges_eq]
  simp only [List.foldl_cons, List.foldl_nil, putRange_bit (by decide : 0 < 32), putRange_bit (by decide : 1 < 32), putRange_bit (by decide : 2 < 32),
    putRange_bit (by decide : 3 < 32)]
  rcases (by omega : k = 0 ∨ k = 1 ∨ k = 2 ∨ k = 3) with rfl | rfl | rfl | rfl <;> rfl

theorem feederBlock_shows (b : List FeederSample) (low : f < 4) (metering : s.tly.metering = true) (runs : s.start.blkRst.contains .tly = false)
    (input : k < 4) : getB (fdrStat f) k (feederBlock f b s) = ((blockSum f b s).ranges.getD k ([], false, 0)).2.1 := by
  have clip (c : Prop) [Decidable c] (p : TlySt) (t : State) :
      getB (fdrStat f) k (if c then setSupply f 11 true { t with tly := p } else t) = getB (fdrStat f) k t := by
    split
    · exact setSupply_other (by decide) (by omega)
    · rfl
  have tail (c : Prop) [Decidable c] (p q : Int) (e : Nat) (g : Ival → Ival) (t : State) :
      getB (fdrStat f) k (if c then t else testOut f p q (pmcAdd e 1 (addRunning (skey 2 f) g t))) = getB (fdrStat f) k t := by
    have own : fdrStat f ∉ [0x24020] := by
      simp only [fdrStat, List.mem_singleton]
      omega
    split
    · rfl
    · rw [getB, (testOut_within _ _ _ _).regs _ rfl _ own, getReg_pmcAdd, (addRunning_within _ _ _).regs _ rfl _ List.not_mem_nil, getB]
  unfold feederBlock
  rw [if_neg (by rw [metering, runs]; simp; omega)]
  dsimp only
  rw [tail, clip, putRanges_shows _ input]

theorem condBit_lt (c : SupplyCond) : condBit c < 32 := by
  cases c with
  | phMissing p => exact Nat.lt_of_lt_of_le (Nat.add_lt_add_left (Nat.mod_lt _ (by decide)) 4) (by decide)
  | _ => decide

/-- A supply condition that has lasted, or been absent, for its time is shown (R292). -/
theorem supplyChange_shows {c : SupplyCond} {x : SupplyIn} (low : f < 4) (metering : s.tly.metering = true)
    (runs : s.start.blkRst.contains .tly = false) (clear : c = .overload → tgetD s.tly.clipAt f 0 + 1000000000 ≤ s.tim.mon)
    (long : c ≠ .overload → (if supplyMet f c x s then supplyTime c else 1000) ≤ x.ms) :
    getB (fdrStat f) (condBit c) (supplyChange f c x s) = supplyMet f c x s := by
  have lasts : supplyChange f c x s = setSupply f (condBit c) (supplyMet f c x s) (tlyRoll s) := by
    unfold supplyChange
    cases c with
    | overload => exact if_neg (by simp only [metering, runs, clear rfl, decide_true]; simp; omega)
    | _ => exact if_neg (by simp only [metering, runs, long (by simp), decide_true]; simp; omega)
  rw [lasts, setSupply_same (condBit_lt c)]

theorem localStatus_bits (a b c d : Bool) :
    (b2n a + 2 * b2n b + 4 * b2n c + 8 * b2n d).testBit 1 = b ∧ (b2n a + 2 * b2n b + 4 * b2n c + 8 * b2n d).testBit 2 = c := by
  revert a b c d
  decide

/-- A bit of a field that is set. -/
theorem getB_setF_in (a v i : Nat) {hi : Nat} (s : State) (inside : i ≤ hi) (top : hi < 32) : getB a i (setF a hi 0 v s) = v.testBit i := by
  rw [getB, bitAt, setF, getReg_setReg_same, getLsbD_putFld _ _ _ _ _ (Nat.zero_le _) top, if_pos ⟨Nat.zero_le _, inside⟩, Nat.sub_zero]

theorem rtdBad_reg {i : Nat} {t : Option Int} {u : State} (same : getReg 0x24010 u = getReg 0x24010 s) : rtdBad i t u = rtdBad i t s := by
  unfold rtdBad rtdType
  rw [same]

/-- The faults of a local meter's temperatures are shown (R298). -/
theorem localHeat_shows {x : LocalSample} {y : TlySrc} (low : m < 8) (metering : s.tly.metering = true) (runs : s.start.blkRst.contains .tly = false)
    (src : tsrc (skey 3 m) (tlyRoll s) = some y) (on : (running y).isSome = true) :
    getB (lhCfg m + 0xC) 1 (localHeat m x s) = rtdBad (getF (lhCfg m) 7 4 s) x.tWarm s ∧
    getB (lhCfg m + 0xC) 2 (localHeat m x s) = rtdBad (getF (lhCfg m) 3 0 s) x.tCool s := by
  have rolled (a : Nat) : getReg a (tlyRoll s) = getReg a s := (tlyRoll_within s).regs _ rfl a List.not_mem_nil
  have shown {c : Prop} [Decidable c] {d : Bool} {g : Ival → Ival} {z : TlySrc} (i : Nat) (t : State) : getB (lhCfg m + 0xC) i
      (if c then pmcAdd 0x43 1 (addRunning (skey 3 m) g t) else if d then pmcAdd 0x42 1 (putSrc (skey 3 m) z t) else putSrc (skey 3 m) z t) =
      getB (lhCfg m + 0xC) i t := by
    split
    · rw [getB, getReg_pmcAdd, (addRunning_within _ _ _).regs _ rfl _ List.not_mem_nil, getB]
    · split
      · rw [getB, getReg_pmcAdd]; rfl
      · rfl
  have count (i e n : Nat) (t : State) : getB (lhCfg m + 0xC) i (pmcAdd e n t) = getB (lhCfg m + 0xC) i t := by rw [getB, getReg_pmcAdd, getB]
  unfold localHeat
  rw [if_neg (by rw [metering, runs]; simp; omega)]
  dsimp only
  rw [src]
  dsimp only
  rw [if_neg (by rw [Option.isNone_eq_false_iff.2 on]; decide)]
  rw [shown, shown, count, count, getB_setF_in _ _ _ _ (by decide) (by decide), getB_setF_in _ _ _ _ (by decide) (by decide),
    (localStatus_bits _ _ _ _).1, (localStatus_bits _ _ _ _).2, rtdBad_reg (rolled _), rtdBad_reg (rolled _), rolled, getF, getF]
  exact ⟨rfl, rfl⟩

end Samples

/-! ## Calibration -/

section Calibration
variable {v : Word} {s : State}

theorem regWrite_tlyCtrl (h : Answers 0x24000 s) : regWrite 0x24000 v s =
    if bitAt v 31 then setB 0x24000 31 true (if bitAt v 0 = getB 0x24000 0 s then s else if bitAt v 0 then calEnSet v s else calEnClear v s)
    else if bitAt v 0 = getB 0x24000 0 s then s else if bitAt v 0 then calEnSet v s else calEnClear v s := by
  have known : (regSpec 0x24000).isNone = false := by decide
  have block : blockAt 0x24000 = some .tly := by decide
  unfold regWrite
  rw [if_neg (by simp [h.1, known]), if_neg (by simp [h.2]), block]
  exact if_pos rfl

theorem getB_calEn_lock (c : Prop) [Decidable c] (t : State) : getB 0x24000 0 (if c then setB 0x24000 31 true t else t) = getB 0x24000 0 t := by
  split
  · exact getB_setB_bit _ _ _ _ _ (by decide) (by decide)
  · rfl

/-- CAL_EN is set by a write with its key, LOCK at 0 and without the meter-of-record role (R294). -/
theorem calEn_sets (answers : Answers 0x24000 s) (key : fld v 23 8 = 0x5A3C) (bit : bitAt v 0 = true) (unlocked : lockOf .tly s = false)
    (free : s.dup.mor = false) : getB 0x24000 0 (regWrite 0x24000 v s) = true := by
  rw [regWrite_tlyCtrl answers, getB_calEn_lock]
  split
  · next same => rw [← same, bit]
  · next off =>
    rw [bit] at off
    rw [calEnSet, if_neg (fun on => off on.symm), if_pos ⟨key, bit, by simp [unlocked], by simp [free]⟩, getB_setB_same _ _ _ _ (by decide)]

theorem calRegs_apart {a : Nat} (cal : a ∈ calRegs) : a ≠ 0x24000 := by
  simp only [calRegs, List.mem_flatMap, List.mem_range, List.mem_map] at cal
  obtain ⟨c, -, i, -, rfl⟩ := cal
  omega

/-- CAL_EN cleared stores the calibration and counts it (R294). -/
theorem calEn_clears (answers : Answers 0x24000 s) (key : fld v 23 8 = 0x5A3C) (bit : bitAt v 0 = false) (on : getB 0x24000 0 s = true) :
    getB 0x24000 0 (regWrite 0x24000 v s) = false ∧ (regWrite 0x24000 v s).tly.calCount = s.tly.calCount + 1 ∧
    (regWrite 0x24000 v s).tly.calFlash = calRegs.map (fun a => (a, getReg a s)) := by
  have flash : calRegs.map (fun a => (a, getReg a (setB 0x24000 0 false s))) = calRegs.map (fun a => (a, getReg a s)) :=
    List.map_congr_left fun a cal => by rw [getReg_setB_other _ _ _ _ _ (by simpa using calRegs_apart cal)]
  have tly (c : Prop) [Decidable c] (t : State) : (if c then setB 0x24000 31 true t else t).tly = t.tly := by split <;> simp
  rw [regWrite_tlyCtrl answers, getB_calEn_lock, tly, if_neg (by simp [bit, on]), if_neg (by simp [bit]), calEnClear, if_neg (by simp [on]),
    if_pos ⟨key, by simp [bit]⟩]
  exact ⟨getB_setB_same _ _ _ _ (by decide), rfl, flash⟩

end Calibration

/-! ## The billing operations -/

section Billing
variable {r : Req} {n : Nat} {s : State}

theorem billEnd_ends (r : Req) (s : State) : ∃ st d, (st = 0x00 ∨ st = 0x62) ∧ .opDone r st d 8 [] ∈ (billEnd r s).out := by
  unfold billEnd
  split
  · exact ⟨0, 0, .inl rfl, complete_mem _ _ _ _ _ _⟩
  · exact ⟨0x62, _, .inr rfl, complete_mem _ _ _ _ _ _⟩

/-- Every record delivered up to the one named is acknowledged (R317). -/
theorem billAck_acks (out : n ≤ tgetD s.hif.lastOut r.pair 0) (x : Rec) (kept : x ∈ (billAck r n s).tly.store) (stream : x.stream = r.pair)
    (upTo : x.store ≤ n) (queued : x.queued = true) : x.acked = true := by
  rw [billAck, if_neg (Nat.not_lt.2 out), (billEnd_within _ _).parts .tly (by decide)] at kept
  obtain ⟨y, -, rfl⟩ := List.mem_map.1 (List.mem_filter.1 kept).1
  by_cases named : y.stream = r.pair ∧ y.store ≤ n ∧ y.queued = true
  · rw [if_pos named]
  · rw [if_neg named] at stream upTo queued
    exact absurd ⟨stream, upTo, queued⟩ named

end Billing

/-- Settles O25, one lemma above for each command. -/
theorem tallyCommandsComplete : Obligations.TallyCommandsComplete := by
  unfold Obligations.TallyCommandsComplete
  refine ⟨?commit, ?hold, ?block, ?supply, ?heat, ?calSet, ?calClear, ?ack, ?replay⟩
  case commit =>
    intro s on idle runs metering due
    obtain ⟨seq, latest, writes, keeps⟩ := tlyCommit_commits idle runs metering due
    exact does_run rfl on ⟨seq, latest, writes, keeps⟩
  case hold => exact fun s id x v l on src oldest ended => does_run rfl on (holdExpiry_expires src oldest ended)
  case block => exact fun s f b k on low metering runs input => does_run rfl on (feederBlock_shows b low metering runs input)
  case supply => exact fun s f c x on low metering runs clear long => does_run rfl on (supplyChange_shows low metering runs clear long)
  case heat => exact fun s m x y on low metering runs src active => does_run rfl on (localHeat_shows low metering runs src active)
  case calSet =>
    exact fun s v on answers key bit unlocked free => does_run (f := regWrite 0x24000 v) rfl on (calEn_sets answers key bit unlocked free)
  case calClear => exact fun s v on answers key bit set => does_run (f := regWrite 0x24000 v) rfl on (calEn_clears answers key bit set)
  case ack =>
    intro s r b n on asked upTo out
    refine does_leave rfl on ?_
    rw [inlineOp_asked asked, upTo]
    refine ⟨?_, billAck_acks out⟩
    rw [billAck, if_neg (Nat.not_lt.2 out)]
    exact billEnd_ends r _
  case replay =>
    intro s r b n on asked upTo out
    refine does_leave rfl on ?_
    rw [inlineOp_asked asked, upTo, billReplay, if_neg (Nat.not_lt.2 out)]
    exact billEnd_ends r _

end Sys2Proof.Machine
end

section
/-!
PROOFS. The cyclic program (R364 to R382): its tasks, its control operations, online change and an exchange.
-/
set_option Elab.async false
namespace Sys2Proof.Machine
open Keeps

/-! ## What a change of role leaves -/

/-- `P` is kept by all that a change of role does: the withdrawal of an exchange, and the rest of its frame. -/
structure UnmovedByRoles {β : Type} (P : β → State → Prop) : Prop where
  withdraw : ∀ (s : State), Keeps P s (withdrawExchange s)
  frame    : ∀ {s t : State}, Within [.hif, .pwr, .start, .evr, .pmc, .dup, .tly, .out]
               (some [0x0E04C, 0x0E030, 0x7F040, 0x0A034, 0x7F01C, 0x0A010, 0x0A030]) s t → Keeps P s t

namespace UnmovedByRoles
variable {β : Type} {P : β → State → Prop} (h : UnmovedByRoles P)
include h

theorem dup (p : DupSt) (s : State) : Keeps P s { s with dup := p } := by
  refine h.frame ?_
  simp -zeta only [Within.of_mk]
  exact Within.upd rfl Within.refl

theorem start (p : StartSt) (s : State) : Keeps P s { s with start := p } := by
  refine h.frame ?_
  simp -zeta only [Within.of_mk]
  exact Within.upd rfl Within.refl

theorem setRole (d : DupState) (s : State) : Keeps P s (setRole d s) := by
  have clm (c : Clm) (t : State) : Keeps P t (showClm c t) := h.frame ((showClm_within c t).mono (by decide) (by simp [regsLe]))
  have bit (b : Bool) (t : State) : Keeps P t (setB 0x7F040 8 b t) := h.frame ((setB_within _ _ _ t).mono (by decide) (by simp [regsLe]))
  have stage (v : Nat) (t : State) : Keeps P t (setF 0x7F01C 3 0 v t) := h.frame ((setF_within _ _ _ _ t).mono (by decide) (by simp [regsLe]))
  have cause (t : State) : Keeps P t (setCause 0x0E030 0x0E034 0 3 t) := h.frame ((setCause_within _ _ _ _ t).mono (by decide) (by simp [regsLe]))
  have noted (g k x : Nat) (t : State) : Keeps P t (evt g k x t) := h.frame ((evt_within g k x t).mono (by decide) (by simp [regsLe]))
  unfold Machine.setRole
  refine ite refl ((noted _ _ _ _).after ((cause _).after (optElse ?_ ((stage _ _).after (h.start _ _)))))
  exact (bit _ _).after ((clm _ _).after ((h.dup _ _).after (h.withdraw s)))

theorem resign (cause : Nat) (s : State) : Keeps P s (resign cause s) :=
  keeps_resign h.dup (fun w => h.frame (w.mono (by decide) (by simp [regsLe]))) h.setRole cause s

theorem beginModReset (why : ModWhy) (cause : Nat) (kind : RestartKind) (s : State) : Keeps P s (beginModReset why cause kind s) := by
  have tell : Keeps P s (resignTell cause s) :=
    ite (h.frame ((sendPeer_within _ s).mono (by decide) (by simp [regsLe]))) (h.resign cause s)
  have seq (t : State) : Keeps P t (seqStart (.modReset why) t) := h.frame ((seqStart_within _ t).mono (by decide) (by simp [regsLe]))
  have noted (p : DupSt) (q : StartSt) (t : State) : Keeps P t { t with dup := p, start := q } :=
    fun x k => h.start q { t with dup := p } x (h.dup p t x k)
  unfold Machine.beginModReset
  exact ite refl ((seq _).after ((noted _ _ _).after tell))

theorem unresign (cause : Nat) (s : State) : Keeps P s (unresign cause s) := ite (h.setRole .syncing s) refl

end UnmovedByRoles

/-! ## The tasks -/

/-- The tasks stand as given. -/
def Tasked (l : Tbl TaskSt) (s : State) : Prop := s.cyc.tasks = l

theorem tasked_within {ps : List Part} {rs : Option (List Nat)} {s t : State} (w : Within ps rs s t) (hp : .cyc ∉ ps := by decide) : Keeps Tasked s t := by
  have cyc : t.cyc = s.cyc := w.parts .cyc hp
  intro l h
  rw [Tasked, cyc]
  exact h

theorem tasked_roles : UnmovedByRoles Tasked where
  withdraw s := by
    unfold withdrawExchange
    split
    · exact refl
    · have waits (u : State) : Keeps Tasked u (if getF 0x34020 31 30 u = 3 then setF 0x34020 31 30 1 u else u) :=
        opt refl (tasked_within (setF_within _ _ _ _ u))
      have own (p : CycSt) (same : p.tasks = s.cyc.tasks) : Keeps Tasked s { s with cyc := p } := fun _ e => same.trans e
      dsimp only
      split
      · exact (tasked_within (finish_within _ _ _ _)).after ((waits _).after (own _ rfl))
      · exact (waits _).after (own _ rfl)
  frame w := tasked_within w

theorem tasked_faults : UnmovedByFaults Tasked where
  own _ _ := refl
  count _ s _ := tasked_within (incReg_within _ _ s)
  frame w := tasked_within w
  blk n s := ite refl (ite (tasked_roles.beginModReset _ _ _ s) (ite refl (ite (foldl (fun t b _ => tasked_within (beginBlockReset_within t b)) s)
    (fun _ e => e))))
  mod n s := tasked_roles.beginModReset _ _ _ s

theorem tasked_publishOut (l : List (Nat × Word)) (s : State) : Keeps Tasked s (publishOut l s) := by
  have set (i : Nat) (w : Word) (t : State) : Keeps Tasked t (setIn i w t) := fun _ e => e
  have area (i m : Nat) (ws : List Word) (t : State) : Keeps Tasked t (publishArea i m ws t) := by
    have stamped (u : State) : Keeps Tasked u { u with cyc := { u.cyc with stamps := tput u.cyc.stamps i m } } := fun _ e => e
    unfold publishArea
    exact (stamped _).after (foldl (fun u k _ => set _ _ u) t)
  have mirrored (i : Nat) (w : Word) (t : State) : Keeps Tasked t (mirror i w t) := ite (area _ _ _ t) refl
  have out (i : Nat) (w : Word) (t : State) : Keeps Tasked t (setOut i w t) := fun _ e => e
  unfold publishOut
  exact (foldl (fun t n _ => tasked_within (publishNode_within _ _ t)) _).after (foldl (fun t x _ => (mirrored _ _ _).after (out _ _ t)) s)

theorem tasked_stopTask (s : State) (t : Nat) : Keeps Tasked s (stopTask s t) := by
  unfold stopTask
  split
  · exact ite (tasked_publishOut _ s) refl
  · exact refl

theorem task_of {n : Nat} {s t : State} (k : Keeps Tasked s t) : task n t = task n s := by rw [task, k _ rfl, task]

theorem task_putTask (n : Nat) (x : TaskSt) (s : State) : task n (putTask n x s) = x := tgetD_tput_same _ _ _ _

section Tasks
variable {n : Nat} {d : TaskDecl} {s : State}

theorem activateTask_starts (runs : started s = true) (known : taskDecl n s = some d) (due : taskDue d (task n s) s = true) (prog : progState s = 1)
    (plain : s.cyc.exch = none) (free : (task n s).held = false) (block : s.start.blkRst.contains .cyc = false) (idle : (task n s).running = none) :
    (task n (activateTask n s)).running = some s.tim.mon := by
  unfold activateTask
  dsimp only
  rw [known, plain]
  dsimp only
  rw [if_neg (by rw [runs, due, prog, free, block]; decide), idle]
  dsimp only
  rw [task_putTask]

theorem taskReg_apart {a b : Nat} (apart : a ≠ b) : taskReg n a ∉ [taskReg n b] := by
  simpa [taskReg] using apart

/-- A run that ends leaves its task idle, and shows its time and its count (R365). -/
theorem endInstance_ends {outs : List (Nat × Word)} {vals : List (BitVec 64 × Nat)} {us : Nat} (runs : started s = true) (known : taskDecl n s = some d)
    (busy : (task n s).running.isSome = true) : (task n (endInstance n outs vals us s)).running = none ∧
    getReg (taskReg n 4) (endInstance n outs vals us s) = lo32 us ∧
    getReg (taskReg n 0x10) (endInstance n outs vals us s) = getReg (taskReg n 0x10) s + 1 := by
  obtain ⟨m, busy⟩ := Option.isSome_iff_exists.1 busy
  have published := (publishOut_within (outs.filter (fun o => d.owns.any (fun w => w.1 == o.1))) s).regs _ rfl (taskReg n 0x10) List.not_mem_nil
  have ends (u : State) : Keeps Tasked u (if progState u = 0 then stopTask u n else u) ∧
      ∀ a, getReg a (if progState u = 0 then stopTask u n else u) = getReg a u := by
    split
    · exact ⟨tasked_stopTask u n, fun a => (stopTask_within u n).regs _ rfl a List.not_mem_nil⟩
    · exact ⟨refl, fun a => rfl⟩
  have worst (u : State) (c : Prop) [Decidable c] (w : Word) : Keeps Tasked u (if c then setReg (taskReg n 8) w u else u) ∧
      ∀ k, k ≠ 8 → getReg (taskReg n k) (if c then setReg (taskReg n 8) w u else u) = getReg (taskReg n k) u := by
    split
    · exact ⟨tasked_within (setReg_within _ _ u), fun k other => getReg_setReg_other _ _ _ _ (by simpa using taskReg_apart (n := n) other)⟩
    · exact ⟨refl, fun k _ => rfl⟩
  have kept (x : TaskSt) (u : State) : Keeps Tasked (putTask n x u) (writeRetained n (putTask n x u)) := by
    unfold writeRetained
    exact ite refl ((tasked_within (pmcAdd_within _ _ _)).after (fun _ e => e))
  unfold endInstance
  rw [known, if_pos runs, busy]
  dsimp only
  refine ⟨?_, ?_, ?_⟩
  · rw [task_of (ends _).1, task_of (tasked_within (pmcAdd_within _ _ _)), task_of (tasked_within (pmcAdd_within _ _ _)), task_of (worst _ _ _).1,
      task_of (tasked_within (setReg_within _ _ _)), task_of (tasked_within (setReg_within _ _ _)), task_of (kept _ _), task_putTask]
  · rw [(ends _).2, getReg_pmcAdd, getReg_pmcAdd, (worst _ _ _).2 4 (by decide), getReg_setReg_same]
  · rw [(ends _).2, getReg_pmcAdd, getReg_pmcAdd, (worst _ _ _).2 0x10 (by decide),
      getReg_setReg_other _ _ _ _ (by simpa using taskReg_apart (n := n) (by decide : 0x10 ≠ 4)), getReg_setReg_same,
      (writeRetained_within _ _).regs _ rfl _ List.not_mem_nil]
    exact congrArg (· + 1) published

end Tasks

/-! ## The state of the program -/

/-- The program stands in a state other than EXCHANGING. -/
def ProgAt (v : Nat) (s : State) : Prop := v ≠ 3 ∧ progState s = v

theorem progState_reg {s t : State} (same : getReg 0x34020 t = getReg 0x34020 s) : progState t = progState s := by rw [progState, getF, same, progState, getF]

theorem progAt_within {ps : List Part} {rs : List Nat} {s t : State} (w : Within ps (some rs) s t) (hr : 0x34020 ∉ rs := by decide) : Keeps ProgAt s t := by
  have same := w.regs rs rfl 0x34020 hr
  rintro v ⟨other, at_⟩
  exact ⟨other, by rw [progState_reg same, at_]⟩

theorem progAt_roles : UnmovedByRoles ProgAt where
  withdraw s := by
    rintro v ⟨other, at_⟩
    have stays (u : State) (same : getReg 0x34020 u = getReg 0x34020 s) :
        ProgAt v (if getF 0x34020 31 30 u = 3 then setF 0x34020 31 30 1 u else u) := by
      have state : getF 0x34020 31 30 u = v := (progState_reg same).trans at_
      rw [if_neg (by rw [state]; exact other)]
      exact ⟨other, state⟩
    unfold withdrawExchange
    split
    · exact ⟨other, at_⟩
    · dsimp only
      split
      · exact progAt_within (finish_within _ _ _ _) (by decide) v (stays _ rfl)
      · exact stays _ rfl
  frame w := progAt_within w

theorem progState_setProgState (v : Nat) (small : v < 4) (s : State) : progState (setProgState v s) = v := by
  unfold setProgState
  dsimp only
  split
  · assumption
  · rw [progState_reg (getReg_evt_other _ _ _ _ _ (by simp)), progState, getF_setF_same _ _ _ _ _ (by decide) (by decide)]
    exact Nat.mod_eq_of_lt small

/-- A source without the BLK reaction leaves the program in its state. -/
theorem progAt_raise {n : Nat} {s : State} (low : n < 224) (calm : bitAt (srcCfg n s) 29 = false) : Keeps ProgAt s (raise n s) := by
  have own (p : FcoSt) (u : State) : Keeps ProgAt u { u with fco := p } := fun _ e => e
  have counted : Keeps ProgAt s (incReg (0x08800 + 4 * n) 1 s) := progAt_within (incReg_within _ _ s) (by simp; omega)
  have message (u : State) : Keeps ProgAt u (sendMsg 0 u) := progAt_within (sendMsg_within 0 u)
  have active (c : Nat) (u : State) (quiet : bitAt (srcCfg n u) 29 = false) : Keeps ProgAt u (activate n c false none u) := by
    unfold activate
    dsimp only
    rw [quiet, if_neg Bool.false_ne_true]
    exact opt (opt (opt ((progAt_within (record_within _ _ _ _)).after (own _ u)) (message _))
      ((progAt_within (emit_within _ _)).after (message _))) (progAt_roles.beginModReset _ _ _ _)
  have cfg (p : FcoSt) : srcCfg n { incReg (0x08800 + 4 * n) 1 s with fco := p } = srcCfg n s := getReg_incReg_other (0x08400 + 4 * n) _ _ _ (by simp)
  rcases occur_cases n false none s with same | ⟨p, -, only | ⟨c, activated⟩⟩
  · rw [raise, same]; exact refl
  · rw [raise, only]; exact (own p _).after counted
  · rw [raise, activated]
    exact (active c _ (by rw [cfg, calm])).after ((own p _).after counted)

section Watchdog
variable {n : Nat} {s : State}

/-- What the watchdog leaves before its source is raised (R367). -/
def watchdogStops (n : Nat) (s : State) : State :=
  progRecord 0x00 n (incReg 0x34038 1 ((taskIds (setProgState 2 (setF 0x34020 26 24 n
    { s with cyc := { s.cyc with tasks := s.cyc.tasks.map (fun e => (e.1, { e.2 with running := none })) } }))).foldl stopTask
      (setProgState 2 (setF 0x34020 26 24 n
        { s with cyc := { s.cyc with tasks := s.cyc.tasks.map (fun e => (e.1, { e.2 with running := none })) } }))))

theorem watchdog_steps (runs : started s = true) (due : watchdogDue n s = true) : watchdog n s = resign 5 (raise 56 (watchdogStops n s)) := by
  unfold watchdog
  rw [if_neg (by rw [runs, due]; decide)]
  rfl

theorem watchdogStops_cfg (n : Nat) (s : State) : srcCfg 56 (watchdogStops n s) = srcCfg 56 s := by
  have stops (l : List Nat) (u : State) : getReg 0x084E0 (l.foldl stopTask u) = getReg 0x084E0 u := by
    induction l generalizing u with
    | nil => rfl
    | cons t l ih => exact (ih _).trans ((stopTask_within u t).regs _ rfl _ List.not_mem_nil)
  change getReg 0x084E0 (watchdogStops n s) = getReg 0x084E0 s
  rw [watchdogStops, (progRecord_within _ _ _).regs _ rfl _ (by decide), getReg_incReg_other _ _ _ _ (by decide), stops,
    (setProgState_within _ _).regs _ rfl _ (by decide), getReg_setF_other _ _ _ _ _ _ (by decide)]
  rfl

theorem watchdogStops_tasks (n : Nat) (s : State) : Tasked (s.cyc.tasks.map (fun e => (e.1, { e.2 with running := none }))) (watchdogStops n s) := by
  unfold watchdogStops
  refine (tasked_within (progRecord_within _ _ _)).after ((tasked_within (incReg_within _ _ _)).after (foldl (fun u t _ => tasked_stopTask u t) _)) _ ?_
  exact (tasked_within (setProgState_within _ _)).after (tasked_within (setF_within _ _ _ _ _)) _ rfl

theorem watchdogStops_state (n : Nat) (s : State) : ProgAt 2 (watchdogStops n s) := by
  unfold watchdogStops
  refine (progAt_within (progRecord_within _ _ _)).after ((progAt_within (incReg_within _ _ _)).after
    (foldl (fun u t _ => progAt_within (stopTask_within u t)) _)) _ ?_
  exact ⟨by decide, progState_setProgState 2 (by decide) _⟩

/-- The expiry of a watchdog stops every task, and the program is FAULTED unless a block reset of the cyclic program follows (R367). -/
theorem watchdog_stops (runs : started s = true) (due : watchdogDue n s = true) : (∀ e, e ∈ (watchdog n s).cyc.tasks → e.2.running = none) ∧
    (bitAt (srcCfg 56 s) 29 = false → progState (watchdog n s) = 2) ∧ (fld (srcCfg 56 s) 23 16 ≤ 1 → 56 ∈ (watchdog n s).fco.active) := by
  rw [watchdog_steps runs due]
  refine ⟨?_, fun calm => ?_, fun thresh => ?_⟩
  · have tasks : Tasked _ (resign 5 (raise 56 (watchdogStops n s))) :=
      (tasked_roles.resign 5 _).after (tasked_faults.occur 56 false none _) _ (watchdogStops_tasks n s)
    rw [tasks]
    intro e there
    obtain ⟨x, -, rfl⟩ := List.mem_map.1 there
    rfl
  · have raised : Keeps ProgAt (watchdogStops n s) (raise 56 (watchdogStops n s)) := progAt_raise (by decide) (by rw [watchdogStops_cfg, calm])
    exact ((progAt_roles.resign 5 _).after raised 2 (watchdogStops_state n s)).2
  · rw [(resign_within 5 _).parts .fco (by decide)]
    exact occur_activates _ _ _ _ (by decide) (by decide) (by rw [watchdogStops_cfg]; exact thresh) (.inl (by decide))

end Watchdog

/-! ## PROG_CTRL -/

section Control
variable {r : Req} {s : State}

theorem progState_complete (r : Req) (st dt len : Nat) (b : Bytes) (s : State) : progState (complete r st dt len b s) = progState s :=
  progState_reg ((complete_within _ _ _ _ _ _).regs _ rfl _ List.not_mem_nil)

theorem progCtrl_alone {cmd : Nat} (alone : duplex s = false) (known : 1 ≤ cmd ∧ cmd ≤ 3) (steady : progState s ≠ 3) :
    progCtrl r cmd s = complete r 0 0 4 [] (applyProgCtrl cmd s) := by
  unfold progCtrl
  rw [if_neg (by simp [refuses_alone s alone]), if_neg (by rintro (none | above); exacts [Nat.ne_of_gt known.1 none, Nat.not_lt.2 known.2 above]),
    if_neg (fun stops => steady stops.1), viaPeer_alone _ _ _ _ _ alone]

/-- The request of PROG_CTRL reaches the command that its CMD stands for (R384). -/
theorem progOp_asked {b : Bytes} {cmd : Nat} {mine : Nat → Bool} (asked : Inline r 0x0710 4 b s) (named : leAt b 0 1 = cmd) (own : mine cmd = true) :
    progOp r mine s = progCtrl r cmd s := by
  rw [progOp, inlineOp_asked asked, named, if_pos own]

theorem startProg_runs (s : State) : progState (startProg s) = 1 :=
  (progAt_roles.unresign 5 _ 1 ⟨by decide, progState_setProgState 1 (by decide) _⟩).2

theorem applyProgCtrl_run (stopped : progState s = 0) : progState (applyProgCtrl 1 s) = 1 := by
  rw [applyProgCtrl, if_pos rfl, if_pos stopped, startProg_runs]

theorem applyProgCtrl_stop (runs : progState s = 1) : progState (applyProgCtrl 2 s) = 0 := by
  rw [applyProgCtrl, if_neg (by decide), if_pos rfl, if_pos runs]
  exact (foldl (fun u t _ => progAt_within (stopTask_within u t)) _ 0 ⟨by decide, progState_setProgState 0 (by decide) s⟩).2

theorem applyProgCtrl_coldStart (s : State) : progState (applyProgCtrl 3 s) = 1 := by
  rw [applyProgCtrl, if_neg (by decide), if_neg (by decide), startProg_runs]

end Control

/-! ## Online change -/

section Change
variable {r : Req} {i : BitVec 64} {ty v : Nat} {s : State}

/-- A value set is the value found. -/
theorem valIn_setVal (l : List (BitVec 64 × Nat)) (i : BitVec 64) (v : Nat) : valIn (setVal l i v) i = some v := by
  unfold valIn setVal
  split
  · next known =>
    have same : ((fun e : BitVec 64 × Nat => e.1 == i) ∘ fun e => if e.1 = i then (i, v) else e) = fun e => e.1 == i := by
      funext e
      by_cases h : e.1 = i <;> simp [h]
    obtain ⟨e, found⟩ := Option.isSome_iff_exists.1 (List.find?_isSome.2 (List.any_eq_true.1 known))
    have named : e.1 = i := by simpa using List.find?_some found
    rw [List.find?_map, same, found, Option.map_some, Option.map_some, if_pos named]
  · next unknown =>
    have none_ : l.find? (fun e => e.1 == i) = none := List.find?_eq_none.2 fun e there hit => unknown (List.any_eq_true.2 ⟨e, there, hit⟩)
    rw [List.find?_append, none_]
    simp

theorem varRead_gives {len : Nat} {d : VarDecl} (known : varDecl i s = some d) (room : 24 ≤ len) :
    .opDone r 0 0 24 (le 8 i.toNat ++ le 1 d.type ++ zeros 7 ++ le 8 (varValue d s)) ∈ (varRead r i len s).out := by
  have long : (le 8 i.toNat ++ le 1 d.type ++ zeros 7 ++ le 8 (varValue d s)).length = 24 := by simp [zeros]
  unfold varRead
  rw [known]
  dsimp only
  rw [output, long, if_neg (by omega)]
  exact complete_mem _ _ _ _ _ _

theorem varWrite_alone (alone : duplex s = false) (allowed : changeRefused false i ty v s = none) :
    varWrite r i ty v s = complete r 0 0 24 [] (applyVarWrite i v s) := by
  unfold varWrite
  rw [if_neg (by simp [refuses_alone s alone]), allowed]
  exact viaPeer_alone _ _ _ _ _ alone

theorem constWrite_alone (alone : duplex s = false) (allowed : changeRefused true i ty v s = none) :
    constWrite r i ty v s = complete r 0 0 24 [] (applyConstWrite i v s) := by
  unfold constWrite
  rw [if_neg (by simp [refuses_alone s alone]), allowed]
  exact viaPeer_alone _ _ _ _ _ alone

end Change

/-! ## An exchange -/

section Exchange
variable {r : Req} {s : State} {e : Exchange}

theorem progExchange_schedules {x : Nat} {p : ProgImage} (alone : duplex s = false) (free : s.cyc.exch = none) (staged : s.cyc.staged = some p)
    (complete_ : lacking s.model.active p.mids = none) (unarmed : s.model.armed = none) (idle : activationPending s = false)
    (inTime : x = 0 ∨ earliestRound s ≤ x) :
    (progExchange r p.sig x s).cyc.exch = some { target := if x = 0 then earliestRound s else x, sig := p.sig, req := some r } := by
  have early : ¬(x ≠ 0 ∧ x < earliestRound s) := by omega
  unfold progExchange
  rw [if_neg (by simp [refuses_alone s alone]), if_neg (by simp [alone]), if_neg (by simp [free]), staged]
  dsimp only
  rw [if_neg (by simp), if_neg (by simp [complete_]), if_neg (by simp [unarmed, idle]), if_neg (fun h => early h.1), if_neg early,
    viaPeerLate_alone alone]
  rfl

theorem exchangeCapture_captures (scheduled : s.cyc.exch = some e) (frozen : e.frozen = true) (first : e.captured = none)
    (idle : s.cyc.tasks.any (fun t => t.2.running.isSome) = false) :
    (exchangeCapture s).cyc.exch = some { e with captured := some (s.tim.mon, s.cyc.vals, s.cyc.overlay) } := by
  unfold exchangeCapture
  rw [scheduled]
  dsimp only
  rw [if_neg (by simp only [frozen, first, idle]; decide)]
  split
  · rw [(sendPeer_within _ _).parts .cyc (by decide), pmcAdd_cyc]
  · rw [pmcAdd_cyc]

theorem exchangeMapped_maps {p : ProgImage} {c : Nat × List (BitVec 64 × Nat) × List (BitVec 64 × Nat)} (alone : duplex s = false)
    (scheduled : s.cyc.exch = some e) (staged : s.cyc.staged = some p) (captured : e.captured = some c) (first : e.mapped = none) :
    (exchangeMapped none s).cyc.exch = some { e with mapped := some (mapProg p (progVars s) c.2.1 c.2.2) } := by
  obtain ⟨t, v, o⟩ := c
  unfold exchangeMapped
  rw [scheduled, staged]
  simp only [alone, Bool.not_false, Bool.true_or, if_true, captured, first, Option.isNone_none]

theorem abandonDue_abandons (scheduled : s.cyc.exch = some e) (frozen : e.frozen = true) (late : s.rnd.anchor + 950000000 ≤ s.tim.mon)
    (unmapped : e.mapped = none) : (abandonDue s).cyc.exch = none ∧ ∀ r, e.req = some r → .opDone r 0x19 0xA 0 [] ∈ (abandonDue s).out := by
  have ended : (endExchanging { s with cyc := { s.cyc with exch := none } }).cyc.exch = none := by
    rw [(endExchanging_within _).parts .cyc (by decide)]
  unfold abandonDue exchangeAbandon
  rw [scheduled]
  dsimp only
  rw [if_pos (by simp [frozen, late]), if_neg (by simp [unmapped])]
  cases req : e.req with
  | none => exact ⟨ended, fun r asked => nomatch asked⟩
  | some r =>
    dsimp only
    rw [finish, complete_cyc]
    refine ⟨ended, fun q asked => ?_⟩
    cases asked
    exact complete_mem _ _ _ _ _ _

end Exchange

/-- Settles O26, one lemma above for each command. -/
theorem programCommandsComplete : Obligations.ProgramCommandsComplete := by
  unfold Obligations.ProgramCommandsComplete
  refine ⟨?activation, ?ends, ?watchdog, ?run, ?stop, ?coldStart, ?read, ?write, ?const, ?exchange, ?capture, ?mapped, ?abandon⟩
  case activation =>
    exact fun s n d on runs known due prog plain free block idle =>
      does_run rfl on (activateTask_starts runs known due prog plain free block idle)
  case ends => exact fun s n d outs vals us on runs known busy => does_run rfl on (endInstance_ends runs known busy)
  case watchdog => exact fun s n on runs due => does_run rfl on (watchdog_stops runs due)
  case run =>
    intro s r b on asked named alone state
    refine does_leave rfl on ?_
    rw [progOp_asked asked named rfl, progCtrl_alone alone (by decide) (by omega)]
    dsimp only [Leaves]
    rw [progState_complete]
    exact ⟨applyProgCtrl_run state, complete_mem _ _ _ _ _ _⟩
  case stop =>
    intro s r b on asked named alone state
    refine does_leave rfl on ?_
    rw [progOp_asked asked named rfl, progCtrl_alone alone (by decide) (by omega)]
    dsimp only [Leaves]
    rw [progState_complete]
    exact ⟨applyProgCtrl_stop state, complete_mem _ _ _ _ _ _⟩
  case coldStart =>
    intro s r b on asked named alone state
    refine does_leave rfl on ?_
    rw [progOp_asked asked named rfl, progCtrl_alone alone (by decide) state]
    dsimp only [Leaves]
    rw [progState_complete]
    exact ⟨applyProgCtrl_coldStart s, complete_mem _ _ _ _ _ _⟩
  case read =>
    intro s r c i d on held buffer room ident known
    refine does_leave rfl on ?_
    rw [withOp_none held, if_neg (by simp [buffer]; omega), ident]
    exact varRead_gives known room
  case write =>
    intro s r b i ty v on asked ident type value alone allowed
    refine does_leave rfl on ?_
    rw [inlineOp_asked asked, changeOf, ident, type, value, varWrite_alone alone allowed]
    dsimp only [Leaves]
    rw [complete_cyc, applyVarWrite, pmcAdd_cyc]
    exact ⟨valIn_setVal s.cyc.writes i v, complete_mem _ _ _ _ _ _⟩
  case const =>
    intro s r b i ty v on asked ident type value alone allowed
    refine does_leave rfl on ?_
    rw [inlineOp_asked asked, changeOf, ident, type, value, constWrite_alone alone allowed]
    dsimp only [Leaves]
    rw [complete_cyc, applyConstWrite, pmcAdd_cyc]
    exact ⟨valIn_setVal s.cyc.overlay i v, complete_mem _ _ _ _ _ _⟩
  case exchange =>
    intro s r b g x p on asked sig target alone free staged same complete_ unarmed idle inTime
    refine does_leave rfl on ?_
    rw [inlineOp_asked asked, sig, target, ← same]
    exact progExchange_schedules alone free staged complete_ unarmed idle inTime
  case capture => exact fun s e on scheduled frozen first idle => does_run rfl on (exchangeCapture_captures scheduled frozen first idle)
  case mapped => exact fun s e p c on alone scheduled staged captured first => does_run rfl on (exchangeMapped_maps alone scheduled staged captured first)
  case abandon => exact fun s e on scheduled frozen late unmapped => does_run rfl on (abandonDue_abandons scheduled frozen late unmapped)

end Sys2Proof.Machine
end

section
/-!
PROOFS. Update (R528 to R539): receiving, writing, activating, confirming and falling back.
-/
set_option Elab.async false
namespace Sys2Proof.Machine

/-! ## The end of an update operation -/

section Receive
variable {r : Req} {s : State}

theorem updEnd_mem (r : Req) (st dt len : Nat) (s : State) : .opDone r st dt len [] ∈ (updEnd r st dt len s).out := complete_mem _ _ _ _ _ _

theorem updEnd_upd (r : Req) (st dt len : Nat) (s : State) : (updEnd r st dt len s).upd = { s.upd with lastStatus := st } := by
  rw [updEnd, complete_upd]
  rfl

/-- An operation whose buffer can be read runs on a state that differs in the counters at most. -/
theorem withOp_buffer {op : Nat} {c : Cmd} {buf : Option Bytes} (held : Held r op c s) (readable : writeFails c.fail c.desc.length = false)
    (f : Desc → Bytes → State → State) :
    ∃ u, Within [.pmc] (some []) s u ∧ withOp r [op] buf f s = f c.desc (descInput c.desc buf) u := by
  refine ⟨_, ?_, withOp_held held.1 (by simp [held.2]) (.inr (.inr readable))⟩
  exact Within.ite Within.refl ((pmcAdd_within _ _ s).trans (bwAdd_within _ _ _ _))

/-! ## Receiving -/

/-- The checks of a manifest that is not shared do not see the counters. -/
theorem manifestRefused_pmc {m : Manifest} {t : State} (w : Within [.pmc] (some []) s t) : manifestRefused false m t = manifestRefused false m s := by
  have upd : t.upd = s.upd := w.parts .upd (by decide)
  have start : t.start = s.start := w.parts .start (by decide)
  have kst : t.kst = s.kst := w.parts .kst (by decide)
  have model : t.model = s.model := w.parts .model (by decide)
  have cyc : t.cyc = s.cyc := w.parts .cyc (by decide)
  have key : keyed t = keyed s := by simp only [keyed, slotState, getF, w.regs _ rfl _ List.not_mem_nil, kst]
  simp only [manifestRefused, inRecovery, upd, start, key, model, cyc, Bool.false_eq_true, false_and, if_false]

theorem updManifest_receives {m : Manifest} (good : manifestRefused false m s = none) :
    updManifest r false m s = updEnd r 0 0 m.size (applyManifest false m s) := by
  unfold updManifest
  rw [good]
  exact if_neg Bool.false_ne_true

theorem holdBlock_upd (k n : Nat) (d : BlockData) (s : State) : ∃ p, (holdBlock k n d s).upd =
    { s.upd with got := s.upd.got ++ [(k, n)], parts := p, blockAt := s.tim.mon } := ⟨_, rfl⟩

/-- A block that passes its checks and does not complete the set is held (R529). -/
theorem updBlock_holds {k n len : Nat} {x : BitVec 128} {d : BlockData} {m : Manifest} (good : blockRefused k n x d s = none)
    (own : s.upd.share = false) (manifest : s.upd.manifest = some m) (part : setComplete m (holdBlock k n d s) = false) :
    updBlock r k n x d len s = updEnd r 0 0 len (holdBlock k n d s) := by
  have held : (holdBlock k n d s).upd.manifest = some m := manifest
  have passes : setRefused k n d s = none := by
    unfold setRefused
    dsimp only
    rw [held]
    exact if_neg (by rw [part]; decide)
  have applied : applyBlock k n d s = holdBlock k n d s := by
    unfold applyBlock
    dsimp only
    rw [held]
    exact if_neg (by rw [part]; decide)
  unfold updBlock
  rw [good, passes, applied]
  exact if_neg (by simp [own])

/-- The same on a state that holds the same of the update. -/
theorem updBlock_received {k n len : Nat} {x : BitVec 128} {d : BlockData} {m : Manifest} {u : State} (upd : u.upd = s.upd)
    (good : blockRefused k n x d s = none) (own : s.upd.share = false) (manifest : s.upd.manifest = some m)
    (part : setComplete m (holdBlock k n d s) = false) : (updBlock r k n x d len u).upd.got = s.upd.got ++ [(k, n)] ∧
      (updBlock r k n x d len u).upd.state = s.upd.state ∧ .opDone r 0 0 len [] ∈ (updBlock r k n x d len u).out := by
  obtain ⟨p, hp⟩ := holdBlock_upd (s := u) k n d
  have part' : setComplete m (holdBlock k n d u) = false := by
    obtain ⟨q, hq⟩ := holdBlock_upd (s := s) k n d
    rw [← part, setComplete, setComplete, hp, hq, upd]
  rw [updBlock_holds (m := m) (by rw [← good]; unfold blockRefused; rw [upd]) (by rw [upd, own]) (by rw [upd, manifest]) part', updEnd_upd, hp, upd]
  exact ⟨rfl, rfl, updEnd_mem _ _ _ _ _⟩

theorem dropSet_upd (s : State) : (dropSet s).upd = { s.upd with state := .idle, manifest := none, got := [], parts := [], cold := false } := by
  rw [dropSet, evt_upd]
  rfl

theorem updAbort_drops (receiving : s.upd.state = .receiving) : updAbort r 0 s = updEnd r 0 0 4 (dropSet s) := by
  rw [updAbort, if_neg (by decide), if_pos receiving]

end Receive

/-! ## Writing -/

section Write
variable {s : State} {e : Nat × Nat × BitVec 128} {l : List (Nat × Nat × BitVec 128)}

theorem writtenCheck_waits (more : s.upd.todo ≠ []) : writtenCheck s = s := by
  unfold writtenCheck
  exact if_pos (.inr (by simpa using more))

/-- What the writing of a block leaves of the update before its read-back (R531). -/
structure Wrote (e : Nat × Nat × BitVec 128) (l : List (Nat × Nat × BitVec 128)) (s t : State) : Prop where
  flash : tget t.upd.flash (flashKey e.1 e.2.1) = some e.2.2
  todo  : t.upd.todo = l
  wrote : t.upd.wrote = s.upd.wrote + 1
  state : t.upd.state = s.upd.state

theorem loaderWrite_writes (ok : Bool) (writing : s.upd.state = .writing) (todo : s.upd.todo = e :: l) (due : s.upd.loaderAt + 50000000 ≤ s.tim.mon) :
    ∃ t, Wrote e l s t ∧ loaderWrite ok s = if ok then writtenCheck t else updSet (fun u => { u with lastStatus := 0xA1 }) (endWriting t) := by
  obtain ⟨g, n, x⟩ := e
  unfold loaderWrite
  rw [writing, todo]
  dsimp only
  rw [if_neg (Nat.not_lt.2 due)]
  refine ⟨_, ?_, rfl⟩
  constructor
  · rw [pmcAdd_upd]; exact tget_tput_same
  · rw [pmcAdd_upd]; rfl
  · rw [pmcAdd_upd]; rfl
  · rw [pmcAdd_upd]; exact writing.symm ▸ writing

end Write

/-! ## Activation, confirmation and fallback -/

section Activate
variable {r : Req} {s : State}

/-- UPD_ACTIVATE reaches the command of its SCOPE (R527). -/
theorem scopeOp_asked {b : Bytes} {scope : Nat} {f : Bytes → State → State} (asked : Inline r 0x0B12 16 b s) (named : leAt b 0 1 = scope)
    (known : scope = 1 ∨ scope = 2) : scopeOp scope r f s = f b s := by
  rw [scopeOp, inlineOp_asked asked]
  dsimp only
  rw [if_neg (by rw [named]; rcases known with rfl | rfl <;> decide), if_pos named]

theorem activateFw_accepts (good : activateRefused s = none) :
    activateFw r s = updEnd r 0 0 16 (updSet (fun u => { u with state := .activating }) s) := by
  unfold activateFw
  rw [good]

theorem activateCfg_waits {x : Nat} (alone : duplex s = false) (good : activateCfgRefused x s = none) :
    activateCfg r x s = complete r 0 0 16 [] (applyActivateCfg (if x = 0 then earliestRound s else x) s) := by
  unfold activateCfg
  rw [if_neg (by simp [refuses_alone s alone]), if_neg (by simp [alone]), good]
  exact viaPeer_alone _ _ _ _ _ alone

theorem updConfirm_confirms (pending : s.upd.state = .pending) : updConfirm r 0 s = updEnd r 0 0 4 (confirmImage s) := by
  rw [updConfirm, if_neg (by decide), if_neg (by simp [pending])]

theorem updFallback_falls (pending : s.upd.state = .pending) : updFallback r 0 s = fallback 5 (updEnd r 0 0 4 s) := by
  rw [updFallback, if_neg (by decide), if_neg (by simp [pending])]

theorem beginModReset_runs (why : ModWhy) (cause : Nat) (kind : RestartKind) (s : State) : seqRuns (beginModReset why cause kind s) = true := by
  unfold beginModReset
  split
  · assumption
  · exact (silent_seqStart _ _).seqRuns

/-- A fallback starts the steps before a module reset (R536). -/
theorem fallback_falls (why : Nat) (s : State) : (fallback why s).upd.state = .fallingBack ∧ (fallback why s).upd.lastWhy = why ∧
    seqRuns (fallback why s) = true := by
  have upd : (fallback why s).upd = { s.upd with state := .fallingBack, lastWhy := why } := (beginModReset_within _ _ _ _).parts .upd (by decide)
  rw [upd]
  exact ⟨rfl, rfl, beginModReset_runs _ _ _ _⟩

end Activate

/-- Settles O31, one lemma above for each command. -/
theorem updateCommandsComplete : Obligations.UpdateCommandsComplete := by
  unfold Obligations.UpdateCommandsComplete
  refine ⟨?manifest, ?block, ?actFw, ?actCfg, ?confirm, ?fallback, ?abort, ?write, ?fail, ?timeout, ?auto, ?stage5, ?sync⟩
  case manifest =>
    intro s r c b g d m on held reads share isManifest good
    have own : (leAt c.desc.param 0 1 == 1) = false := by rw [share]; rfl
    have counted : Within [.pmc] (some []) s (bwAdd 4 0 b.length (pmcAdd 0x90 b.length s)) := (pmcAdd_within _ _ s).trans (bwAdd_within _ _ _ _)
    refine does_leave rfl on ?_
    rw [withOp_reads held reads, if_neg (by rw [share]; decide), own, isManifest, updManifest_receives ((manifestRefused_pmc counted).trans good)]
    dsimp only [Leaves]
    rw [updEnd_upd]
    exact ⟨rfl, rfl, rfl, updEnd_mem _ _ _ _ _⟩
  case block =>
    intro s r c k n x d m on held readable comp index good own manifest part
    obtain ⟨u, counted, ran⟩ := withOp_buffer (buf := some []) held readable (fun e _ => updBlock r (leAt e.param 0 1) (leAt e.param 4 4) x d e.length)
    refine does_leave rfl on ?_
    rw [ran, comp, index]
    exact updBlock_received (counted.parts .upd (by decide)) good own manifest part
  case actFw =>
    intro s r b on asked scope good
    refine does_leave rfl on ?_
    rw [scopeOp_asked asked scope (.inl rfl), activateFw_accepts good]
    dsimp only [Leaves]
    rw [updEnd_upd]
    exact ⟨rfl, updEnd_mem _ _ _ _ _⟩
  case actCfg =>
    intro s r b x on asked scope target alone good
    refine does_leave rfl on ?_
    rw [scopeOp_asked asked scope (.inr rfl), target, activateCfg_waits alone good]
    dsimp only [Leaves]
    rw [complete_upd]
    exact ⟨rfl, complete_mem _ _ _ _ _ _⟩
  case confirm =>
    intro s r b on asked zero pending
    refine does_leave rfl on ?_
    rw [inlineOp_asked asked, zero, updConfirm_confirms pending]
    dsimp only [Leaves]
    rw [updEnd_upd]
    exact ⟨rfl, rfl, rfl, rfl, updEnd_mem _ _ _ _ _⟩
  case fallback =>
    intro s r b on asked zero pending
    refine does_leave rfl on ?_
    rw [inlineOp_asked asked, zero, updFallback_falls pending]
    obtain ⟨state, why, runs⟩ := fallback_falls 5 (updEnd r 0 0 4 s)
    exact ⟨state, why, runs, (fallback_within 5 _).mem (updEnd_mem r 0 0 4 s)⟩
  case abort =>
    intro s r b on asked zero receiving
    refine does_leave rfl on ?_
    rw [inlineOp_asked asked, zero, updAbort_drops receiving]
    dsimp only [Leaves]
    rw [updEnd_upd, dropSet_upd]
    exact ⟨rfl, rfl, rfl, updEnd_mem _ _ _ _ _⟩
  case write =>
    intro s e l on writing todo due more
    obtain ⟨t, ⟨flash, rest, wrote, state⟩, e⟩ := loaderWrite_writes true writing todo due
    refine does_leave rfl on ?_
    rw [e, if_pos rfl, writtenCheck_waits (by rw [rest]; exact more)]
    exact ⟨flash, rest, wrote, state.trans writing⟩
  case fail =>
    intro s e l on writing todo due
    obtain ⟨t, -, e⟩ := loaderWrite_writes false writing todo due
    refine does_leave rfl on ?_
    rw [e, if_neg Bool.false_ne_true]
    exact ⟨rfl, rfl, rfl, rfl⟩
  case timeout =>
    intro s on receiving late
    refine does_leave rfl on ?_
    rw [receiveTimeout, if_pos ⟨receiving, late⟩]
    dsimp only [Leaves]
    rw [dropSet_upd]
    exact ⟨rfl, rfl⟩
  case auto =>
    intro s on pending hours due
    refine does_leave rfl on ?_
    rw [autoConfirm, if_pos ⟨pending, hours, due⟩]
    exact ⟨rfl, rfl⟩
  case stage5 =>
    intro s on pending started low late
    refine does_leave rfl on ?_
    rw [stage5Timeout, if_neg (Nat.not_lt.2 late), if_pos ⟨.inl ⟨pending, by rw [started]; rfl⟩, low⟩]
    exact fallback_falls 2 s
  case sync =>
    intro s on pending started pair notReady notControl late
    refine does_leave rfl on ?_
    rw [syncTmoExpiry, if_pos ⟨pending, by rw [started]; rfl, pair, by rw [notReady]; rfl, by rw [notControl]; rfl, late⟩]
    exact fallback_falls 4 s

end Sys2Proof.Machine
end

section
/-!
PROOFS. The pair (R389 to R402): taking control, and the messages of the peer link.
-/
set_option Elab.async false
namespace Sys2Proof.Machine

open Keeps

/-! ## The duplex part of the shared operations -/

theorem headless_within {ps : List Part} {rs : Option (List Nat)} {s t : State} (w : Within ps rs s t) (hp : .dup ∉ ps := by decide) :
    Keeps Headless s t := headless_same (congrArg headless (w.parts .dup hp))

/-- A record changes nothing of the pair but the messages that carry it. -/
theorem addRec_headless (stream rtype source seq status : Nat) (b : Bytes) (s : State) : Keeps Headless s (addRec stream rtype source seq status b s) := by
  have sent (b : PeerBody) (t : State) : Keeps Headless t (sendPeer b t) := headless_same (sendPeer_headless b t)
  have counted (n k : Nat) (t : State) : Keeps Headless t (pmcAdd n k t) := headless_within (pmcAdd_within n k t)
  unfold addRec
  refine (headless_within (pumpStream_within _ _)).after (opt ?_ ((counted _ _ _).after (opt refl (sent _ _))))
  refine (headless_within (emit_within _ _)).after ((counted _ _ _).after ?_)
  exact headless_same

/-- The meter-of-record role is taken, and the signed copies are sent (R408, R410). -/
theorem takeMor_headless (s : State) : headless (takeMor s).dup = headless { s.dup with mor := true } := by
  have signed (t : State) (r : Rec) : Keeps Headless t (signCopy t r) := (addRec_headless _ _ _ _ _ _ _).after headless_same
  unfold takeMor
  split
  · next mor => rw [← mor]
  · exact foldl (fun t r _ => signed t r) _ _ (congrArg headless (setMor_dup true s))

/-! ## Taking control (R395, R396) -/

section Control
variable {s : State}

theorem claimed (s : State) : (noteSwitch (newClaim s)).dup = { s.dup with claim := highClaim s + 1, newClaim := false, cmpSkip := true } := by
  rw [noteSwitch, setPair_dup, incReg_dup]
  rfl

/-- A module whose hold-up store is ready and that has a claim left takes control with a claim above all that it knows. -/
theorem takeControl_takes (withMor : Bool) (holdup : holdupReady s = true) (left : claimLeft s = true) :
    (takeControl withMor s).dup.state = .control ∧ (takeControl withMor s).dup.claim = highClaim s + 1 := by
  unfold takeControl
  rw [if_neg (by simp [holdup]), if_neg (by simp [left])]
  dsimp only
  generalize led : dispTakeControl (dupSet (fun d => { d with takeSent := none }) (setRole .control (noteSwitch (newClaim s)))) = u
  have dup : u.dup = { (setRole .control (noteSwitch (newClaim s))).dup with takeSent := none } := by rw [← led]; rfl
  have state : u.dup.state = .control := by rw [dup]; exact setRole_state _ _
  have claim : u.dup.claim = highClaim s + 1 := by
    rw [dup, setRole_dup, claimed]
    split <;> rfl
  split
  · have mor := takeMor_headless u
    exact ⟨(congrArg DupSt.state mor :).trans state, (congrArg DupSt.claim mor :).trans claim⟩
  · exact ⟨state, claim⟩

/-- While no sequence runs a module that takes a role of control shows the pattern of control. -/
theorem setRole_clm {d : DupState} (idle : s.pwr.seq = none) (other : s.dup.state ≠ d) (leads : d = .control ∨ d = .single) :
    (setRole d s).pwr.clm = .control := by
  have seq : (withdrawExchange s).pwr.seq = none := by rw [(withdrawExchange_within s).parts .pwr (by decide)]; exact idle
  have pattern : (d == .control || d == .single) = true := by rcases leads with h | h <;> rw [h] <;> rfl
  unfold setRole
  dsimp only
  rw [if_neg other, evt_pwr, setCause_pwr]
  simp [seq, pattern, showClm_clm]

/-- In the single configuration the module takes control for itself (R397). -/
theorem takeSingle_takes (holdup : holdupReady s = true) (left : claimLeft s = true) (idle : seqRuns s = false) (init : s.dup.state = .init) :
    (takeSingle s).dup.state = .single ∧ (takeSingle s).dup.claim = highClaim s + 1 ∧ (takeSingle s).pwr.clm = .control := by
  have seq : (noteSwitch (newClaim s)).pwr.seq = none := by
    rw [(noteSwitch_within _).parts .pwr (by decide), (newClaim_within s).parts .pwr (by decide)]
    simpa [seqRuns] using idle
  unfold takeSingle
  rw [if_neg (by simp [holdup, init]), if_neg (by simp [left])]
  dsimp only
  generalize led : dispTakeControl (setRole .single (noteSwitch (newClaim s))) = u
  have dup : u.dup = (setRole .single (noteSwitch (newClaim s))).dup := by rw [← led]; rfl
  have state : u.dup.state = .single := by rw [dup]; exact setRole_state _ _
  have claim : u.dup.claim = highClaim s + 1 := by
    rw [dup, setRole_dup, claimed]
    split <;> rfl
  have clm : u.pwr.clm = .control := by
    rw [← led]
    exact setRole_clm seq (by rw [claimed]; simp [init]) (.inr rfl)
  split
  · have mor := takeMor_headless u
    have pwr : (takeMor u).pwr = u.pwr := (takeMor_within u).parts .pwr (by decide)
    exact ⟨(congrArg DupSt.state mor :).trans state, (congrArg DupSt.claim mor :).trans claim, by rw [pwr, clm]⟩
  · exact ⟨state, claim, clm⟩

theorem startupTake_single (stage : stage5 s = true) (idle : seqRuns s = false) (alone : duplex s = false) (init : s.dup.state = .init) :
    startupTake s = takeSingle (holdWrites s) := by
  unfold startupTake
  dsimp only
  rw [if_neg (by simp [stage, idle]), if_pos (by simp [alone]), if_pos (by simp [init])]

/-- With a peer present that does not lead the module sends TAKE first (R396). -/
theorem startupTake_asks {h : PeerHdr} (stage : stage5 s = true) (idle : seqRuns s = false) (pair : duplex s = true) (init : s.dup.state = .init)
    (holdup : holdupReady s = true) (free : s.dup.held = false) (peer : s.dup.peer = some h) (led : h.state ≠ 3) (single : h.state ≠ 5)
    (quiet : justResigned s = false) (first : s.dup.takeSent = none) :
    startupTake s = sendPeer .take (dupSet (fun d => { d with takeSent := some s.tim.mon }) s) := by
  unfold startupTake
  simp [stage, idle, pair, init, holdup, free, peer, led, single, quiet, first]

end Control

/-! ## What a HEARTBEAT shows (R392, R393, R401) -/

/-- What the module knows of its peer and of the link. -/
structure PeerView where
  peer   : Option PeerHdr
  claim  : Option Nat
  linkUp : Bool

/-- The module knows this of its peer. -/
def Knows (v : PeerView) (s : State) : Prop := s.dup.peer = v.peer ∧ s.dup.peerClaim = v.claim ∧ s.dup.linkUp = v.linkUp

theorem knows_same {s t : State} (peer : t.dup.peer = s.dup.peer := by rfl) (claim : t.dup.peerClaim = s.dup.peerClaim := by rfl)
    (link : t.dup.linkUp = s.dup.linkUp := by rfl) : Keeps Knows s t := fun _ k => ⟨peer.trans k.1, claim.trans k.2.1, link.trans k.2.2⟩

theorem knows_within {ps : List Part} {rs : Option (List Nat)} {s t : State} (w : Within ps rs s t) (hp : .dup ∉ ps := by decide) : Keeps Knows s t := by
  have dup : t.dup = s.dup := w.parts .dup hp
  exact knows_same (by rw [dup]) (by rw [dup]) (by rw [dup])

section Heartbeat
variable {h : PeerHdr} {s : State}

theorem knows_setRole (d : DupState) (s : State) : Keeps Knows s (setRole d s) := by
  have dup := setRole_dup d s
  split at dup
  · exact knows_same (by rw [dup]) (by rw [dup]) (by rw [dup])
  · exact knows_same (by rw [dup]) (by rw [dup]) (by rw [dup])

theorem knows_resync (s : State) : Keeps Knows s (resync s) := (knows_setRole _ _).after knows_same

theorem knows_sendPeer (b : PeerBody) (s : State) : Keeps Knows s (sendPeer b s) := by
  obtain ⟨q, l, dup⟩ := sendPeer_dup b s
  exact knows_same (by rw [dup]) (by rw [dup]) (by rw [dup])

theorem knows_setMor (m : Bool) (s : State) : Keeps Knows s (setMor m s) :=
  knows_same (by rw [setMor_dup]) (by rw [setMor_dup]) (by rw [setMor_dup])

theorem knows_endOps (p : DupOp → Bool) (st dt : Nat) (s : State) : Keeps Knows s (endOps p st dt s) :=
  knows_same (by rw [endOps_dup]) (by rw [endOps_dup]) (by rw [endOps_dup])

theorem knows_linkResolve (h : PeerHdr) (s : State) : Keeps Knows s (linkResolve h s) := by
  have joined (t : State) : Keeps Knows t (dupSet (fun d => { d with isolated := false }) t) := knows_same
  unfold linkResolve
  refine ite (ite (joined s) ?_) (ite (knows_resync s) (joined s))
  exact (knows_resync _).after ((knows_setRole _ _).after (opt refl (knows_setMor _ _)))

theorem knows_followPeer (before : Option PeerHdr) (h : PeerHdr) (s : State) : Keeps Knows s (followPeer before h s) := by
  have claim (t : State) : Keeps Knows t (dupSet (fun d => { d with newClaim := true }) t) := knows_same
  have ended : Keeps Knows s (if h.state = 3 ∧ s.dup.state ≠ .control
      then endOps (fun o => match o with | .handover _ => true | _ => false) 0 0 s else s) := opt refl (knows_endOps _ _ _ _)
  unfold followPeer
  exact (ite (knows_resync _) (ite (knows_resync _) (ite ((knows_sendPeer _ _).after (opt refl (claim _))) refl))).after ended

theorem seePeer_knows (h : PeerHdr) (s : State) : Knows ⟨some h, some h.claim, s.dup.linkUp⟩ (seePeer h s) := by
  have cause (bit : Nat) (t : State) : Keeps Knows t (dupCause bit t) := knows_within (dupCause_within bit t)
  have paused (t : State) : Keeps Knows t (dupSet (fun d => { d with cmpSkip := true }) t) := knows_same
  have mor (t : State) : Keeps Knows t (dupSet (fun d => { d with peerMor := h.mor }) t) := knows_same
  have switched (t : State) : Keeps Knows t (noteSwitch t) := by
    have dup : (noteSwitch t).dup = { t.dup with cmpSkip := true } := by rw [noteSwitch, setPair_dup, incReg_dup]
    exact knows_same (by rw [dup]) (by rw [dup]) (by rw [dup])
  unfold seePeer
  refine opt (optElse (optElse refl ((cause _ _).after (paused _))) ((cause _ _).after (mor _))) (switched _) _ ?_
  exact ⟨by rw [setReg_dup]; rfl, by rw [setReg_dup]; rfl, by rw [setReg_dup]; rfl⟩

/-- The module after the frame of a heartbeat, before what the heartbeat shows is acted on. -/
def beaten (h : PeerHdr) (s : State) : State := seePeer h (dupSet (fun d => { d with linkUp := keyed s && h.keyed, heardAt := s.tim.mon }) s)

theorem heartbeat_taken (taken : (accept h s).isSome = true) (fits : pairWhy h s = none) : ∃ u, accept h s = some u ∧ keyed u = keyed s ∧
    heartbeat h s = followPeer u.dup.peer h (if (keyed s && h.keyed && !s.dup.linkUp) = true then linkResolve h (endCond 74 (beaten h u)) else beaten h u) := by
  obtain ⟨u, e⟩ := Option.isSome_iff_exists.1 taken
  have w := accept_eq e
  have kst : u.kst = s.kst := w.parts .kst (by decide)
  have key : keyed u = keyed s := by simp only [keyed, slotState, getF, w.regs _ rfl _ List.not_mem_nil, kst]
  have link : u.dup.linkUp = s.dup.linkUp := by rw [accept_some e, pmcAdd_dup]; rfl
  have slot : pairWhy h u = pairWhy h s := by
    unfold pairWhy slotId getF getB
    rw [w.regs _ rfl 0x0E004 List.not_mem_nil, w.regs _ rfl 0x7F040 List.not_mem_nil]
  refine ⟨u, e, key, ?_⟩
  unfold heartbeat
  simp only [e, slot.trans fits, key, link, beaten]

theorem heartbeat_knows (taken : (accept h s).isSome = true) (fits : pairWhy h s = none) :
    Knows ⟨some h, some h.claim, keyed s && h.keyed⟩ (heartbeat h s) := by
  obtain ⟨u, -, key, ran⟩ := heartbeat_taken taken fits
  rw [ran, ← key]
  refine knows_followPeer _ _ _ _ ?_
  have resolved (t : State) : Keeps Knows t (linkResolve h (endCond 74 t)) := (knows_linkResolve h _).after (knows_within (endCond_within 74 t))
  exact opt refl (resolved _) _ (seePeer_knows h _)

/-- Heartbeats that return end the condition of the lost link. -/
theorem heartbeat_ends (taken : (accept h s).isSome = true) (fits : pairWhy h s = none) (down : s.dup.linkUp = false) (own : keyed s = true)
    (peer : h.keyed = true) : 74 ∉ (heartbeat h s).fco.cond := by
  obtain ⟨u, -, -, ran⟩ := heartbeat_taken taken fits
  rw [ran, if_pos (by simp [down, own, peer]), (followPeer_within _ _ _).parts .fco (by decide), (linkResolve_within _ _).parts .fco (by decide), endCond_cond]
  simp [without]

end Heartbeat
end Sys2Proof.Machine
end

section
/-!
PROOFS. The loss of the peer link, its acknowledgements and repetitions, and the change of control between the modules (R393, R396, R400, R401).
-/
set_option Elab.async false
namespace Sys2Proof.Machine

open Keeps

/-! ## The loss of the link (R401) -/

/-- The module is ISOLATED: its link is down and it has no peer. -/
def Isolated (_ : Unit) (s : State) : Prop := s.dup.isolated = true ∧ s.dup.linkUp = false ∧ s.dup.peer = none

theorem isolated_same {s t : State} (isolated : t.dup.isolated = s.dup.isolated := by rfl) (link : t.dup.linkUp = s.dup.linkUp := by rfl)
    (peer : t.dup.peer = s.dup.peer := by rfl) : Keeps Isolated s t := fun _ k => ⟨isolated.trans k.1, link.trans k.2.1, peer.trans k.2.2⟩

theorem isolated_within {ps : List Part} {rs : Option (List Nat)} {s t : State} (w : Within ps rs s t) (hp : .dup ∉ ps := by decide) :
    Keeps Isolated s t := by
  have dup : t.dup = s.dup := w.parts .dup hp
  exact isolated_same (by rw [dup]) (by rw [dup]) (by rw [dup])

theorem isolated_setRole (d : DupState) (s : State) : Keeps Isolated s (setRole d s) := by
  have dup := setRole_dup d s
  split at dup
  · exact isolated_same (by rw [dup]) (by rw [dup]) (by rw [dup])
  · exact isolated_same (by rw [dup]) (by rw [dup]) (by rw [dup])

theorem isolated_sendPeer (b : PeerBody) (s : State) : Keeps Isolated s (sendPeer b s) := by
  obtain ⟨q, l, dup⟩ := sendPeer_dup b s
  exact isolated_same (by rw [dup]) (by rw [dup]) (by rw [dup])

theorem isolated_setMor (m : Bool) (s : State) : Keeps Isolated s (setMor m s) :=
  isolated_same (by rw [setMor_dup]) (by rw [setMor_dup]) (by rw [setMor_dup])

/-- A resignation for higher claims isolates the module, and no resignation ends its isolation (R399, R403). -/
theorem isolated_resign (cause : Nat) (s : State) : Keeps Isolated s (resign cause s) := by
  have switched (keep : DupOp → Bool) : Keeps Isolated s (switchOps keep s) :=
    isolated_same (by rw [switchOps_dup]) (by rw [switchOps_dup]) (by rw [switchOps_dup])
  have alone (t : State) : Keeps Isolated t { t with dup := { t.dup with isolated := true } } := fun _ k => ⟨rfl, k.2.1, k.2.2⟩
  have noted (t : State) : Keeps Isolated t { t with dup := { t.dup with resignWhy := cause, resignedAt := some t.tim.mon } } := isolated_same
  unfold resign
  refine ite refl (ite refl (opt ?_ (alone _)))
  refine (isolated_setRole _ _).after (optElse ((isolated_within (incReg_within _ _ _)).after ?_) (isolated_setMor _ _))
  exact (noted _).after ((isolated_sendPeer _ _).after (switched _))

theorem isolated_beginModReset (why : ModWhy) (cause : Nat) (kind : RestartKind) (s : State) : Keeps Isolated s (beginModReset why cause kind s) := by
  have told : Keeps Isolated s (resignTell cause s) := ite (isolated_sendPeer _ s) (isolated_resign cause s)
  have noted (l : List Int) (q : StartSt) (t : State) : Keeps Isolated t { t with dup := { t.dup with resets := l }, start := q } := isolated_same
  unfold beginModReset
  exact ite refl ((isolated_within (seqStart_within _ _)).after ((noted _ _ _).after told))

theorem isolated_faults : UnmovedByFaults Isolated where
  own _ _ := refl
  count _ s _ := isolated_within (incReg_within _ _ s)
  frame w := isolated_within w
  blk n s := ite refl (ite (isolated_beginModReset _ _ _ s) (ite refl (ite (foldl (fun t b _ => isolated_within (beginBlockReset_within t b)) s)
    (isolated_same))))
  mod n s := isolated_beginModReset _ _ _ s

section Link
variable {h : PeerHdr} {s : State}

theorem linkLost_isolates (pair : duplex s = true) (up : s.dup.linkUp = true) : Isolated () (linkLost s) ∧ 74 ∈ (linkLost s).fco.cond := by
  have cause (bit : Nat) (t : State) : Keeps Isolated t (dupCause bit t) := isolated_within (dupCause_within bit t)
  unfold linkLost
  rw [if_neg (by simp [pair, up])]
  dsimp only
  refine ⟨isolated_within (freeWaiting_within _) (by decide) _ (isolated_faults.assertSrc _ _ _ ?_), ?_⟩
  · refine (cause _ _).after ((cause _ _).after (cause _ _)) _ (isolated_within (incReg_within _ _ _) (by decide) _ ?_)
    exact ⟨rfl, rfl, rfl⟩
  · rw [(freeWaiting_within _).parts .fco (by decide), assertSrc_cond]
    simp

/-! ## Acknowledgements and repetitions (R393) -/

/-- An acknowledged message is not sent again. -/
theorem peerAck_stops (q : Nat) (s : State) : ∀ u, u ∈ (peerAck q s).dup.unacked → u.mseq ≠ q := by
  have rest (u : Unacked) (held : u ∈ s.dup.unacked.filter (fun x => x.mseq != q)) : u.mseq ≠ q := by simpa using (List.mem_filter.1 held).2
  unfold peerAck
  split
  · next none =>
    intro u held
    simpa using List.find?_eq_none.1 none u held
  · dsimp only
    split
    · rw [(pumpStreams_within _).parts .dup (by decide)]
      exact rest
    · rw [endOps_dup]
      dsimp only [dupSet]
      rw [setMor_dup]
      exact rest
    · exact rest

/-- A message without its acknowledgement goes out again after 1 ms, with its number. -/
theorem peerResend_repeats {q : Nat} {u : Unacked} (waits : s.dup.unacked.find? (fun u => u.mseq == q) = some u)
    (early : s.tim.mon < u.first + peerTmo s) (due : u.last + 1000000 ≤ s.tim.mon) (up : s.dup.linkUp = true)
    (runs : s.start.blkRst.contains .dup = false) (cage : cageOn 3 s = true) :
    .peer q u.type (peerHeader u.type q s) u.body ∈ (peerResend q s).out := by
  unfold peerResend
  simp only [waits]
  rw [if_neg (Nat.not_le.2 early), if_neg (by rw [up, cage, runs]; simpa using due)]
  exact List.mem_cons_self

/-! ## RESIGN and TAKE (R396, R400) -/

theorem onMessage_claim (taken : (accept h s).isSome = true) (fits : pairWhy h s = none) (acked : Bool) :
    (onMessage acked h id s).dup.peerClaim = some h.claim := by
  obtain ⟨u, e⟩ := Option.isSome_iff_exists.1 taken
  obtain ⟨-, seen, -⟩ := seePeer_knows h u
  cases acked with
  | false => simpa [onMessage, e, fits] using seen
  | true => simpa [onMessage, e, fits, ackMsg] using (knows_sendPeer (.ack h.mseq) _ _ (seePeer_knows h u)).2.1

namespace Heard

theorem claim {t : State} (k : Heard s t) : t.dup.claim = s.dup.claim := (congrArg DupSt.claim k.dup :)
theorem heldPrev {t : State} (k : Heard s t) : t.dup.heldPrev = s.dup.heldPrev := (congrArg DupSt.heldPrev k.dup :)
theorem heldNow {t : State} (k : Heard s t) : t.dup.heldNow = s.dup.heldNow := (congrArg DupSt.heldNow k.dup :)
theorem takeSent {t : State} (k : Heard s t) : t.dup.takeSent = s.dup.takeSent := (congrArg DupSt.takeSent k.dup :)
theorem tim {t : State} (k : Heard s t) : t.tim = s.tim := k.frame.parts .tim (by decide)

theorem holdupReady {t : State} (k : Heard s t) : holdupReady t = holdupReady s := by
  rw [Machine.holdupReady, getB, k.frame.regs _ rfl _ (by decide), ← getB, ← Machine.holdupReady]

theorem justResigned {t : State} (k : Heard s t) : justResigned t = justResigned s := by
  have at_ : t.dup.resignedAt = s.dup.resignedAt := (congrArg DupSt.resignedAt k.dup :)
  rw [Machine.justResigned, at_, k.tim, ← Machine.justResigned]

/-- What a message's header shows does not make a standby READY or take its readiness. -/
theorem ready {t : State} (k : Heard s t) : ready t = ready s := by
  have kst : t.kst = s.kst := k.frame.parts .kst (by decide)
  have model : t.model = s.model := k.frame.parts .model (by decide)
  have cyc : t.cyc = s.cyc := k.frame.parts .cyc (by decide)
  have slots (n : Nat) : slotState n t = slotState n s := by rw [slotState, getF, k.frame.regs _ rfl _ (by simp; omega), ← getF, ← slotState]
  have keys : keyed t = keyed s := by simp only [keyed, slots, kst]
  have sigs : ownSigs t = ownSigs s := by simp only [ownSigs, modelSigs, progSig, model, cyc]
  have prog : getF 0x34020 31 30 t = getF 0x34020 31 30 s := by rw [getF, k.frame.regs _ rfl _ (by decide), ← getF]
  have synced : t.dup.synced = s.dup.synced := (congrArg DupSt.synced k.dup :)
  have failed : t.dup.testFailed = s.dup.testFailed := (congrArg DupSt.testFailed k.dup :)
  have closed : t.dup.closedAt = s.dup.closedAt := (congrArg DupSt.closedAt k.dup :)
  have theirs : t.dup.peerSigs = s.dup.peerSigs := (congrArg DupSt.peerSigs k.dup :)
  unfold Machine.ready
  rw [k.state, synced, k.holdupReady, keys, failed, closed, k.tim, prog, theirs, sigs]

end Heard

theorem ready_parts (r : ready s = true) : s.dup.state = .standby ∧ holdupReady s = true := by
  unfold ready at r
  simp only [Bool.and_eq_true, beq_iff_eq] at r
  obtain ⟨⟨⟨⟨⟨⟨⟨standby, -⟩, holdup⟩, -⟩, -⟩, -⟩, -⟩, -⟩ := r
  exact ⟨standby, holdup⟩

/-- A READY standby that RESIGN reaches takes control with a claim above the peer's and its own. -/
theorem resignMsg_takes {c : Nat} (taken : (accept h s).isSome = true) (fits : pairWhy h s = none) (stands : ready s = true)
    (quiet : justResigned s = false) (own : s.dup.claim < 0xFFFFFFFE) (theirs : h.claim < 0xFFFFFFFF) (prev : s.dup.heldPrev < 0xFFFFFFFF)
    (now : s.dup.heldNow < 0xFFFFFFFF) : (resignMsg h c s).dup.state = .control ∧ s.dup.claim < (resignMsg h c s).dup.claim ∧
      h.claim < (resignMsg h c s).dup.claim := by
  obtain ⟨t, heard, ran⟩ := onMessage_heard taken fits true
  obtain ⟨standby, holdup⟩ := ready_parts stands
  have shown : t.dup.peerClaim = some h.claim := (congrArg (fun u : State => u.dup.peerClaim) (ran id)).symm.trans (onMessage_claim taken fits true)
  have high : highClaim t = max s.dup.claim (max h.claim (max s.dup.heldPrev s.dup.heldNow)) := by
    rw [highClaim, shown, heard.claim, heard.heldPrev, heard.heldNow]
    rfl
  have left : claimLeft t = true := by
    simp only [claimLeft, high, heard.claim, Bool.and_eq_true, decide_eq_true_eq, Nat.max_lt]
    exact ⟨own, Nat.lt_succ_of_lt own, theirs, prev, now⟩
  obtain ⟨state, claim⟩ := takeControl_takes (c != 1) (heard.holdupReady.trans holdup) left
  rw [resignMsg, ran, if_pos (by simp [heard.state, standby, heard.ready, stands, heard.justResigned, quiet]), claim, high]
  exact ⟨state, Nat.lt_succ_of_le (Nat.le_max_left _ _), Nat.lt_succ_of_le (Nat.le_trans (Nat.le_max_left _ _) (Nat.le_max_right _ _))⟩

/-- A TAKE with the higher claim makes the module follow. -/
theorem takeMsg_follows (taken : (accept h s).isSome = true) (fits : pairWhy h s = none) (asked : s.dup.takeSent.isSome = true)
    (above : s.dup.claim < h.claim) : (takeMsg h s).dup.state = .syncing ∧ (takeMsg h s).dup.takeSent = none := by
  obtain ⟨t, heard, ran⟩ := onMessage_heard taken fits false
  rw [takeMsg, ran, if_neg (by simp [heard.takeSent, Option.isNone_iff_eq_none, Option.isSome_iff_ne_none.1 asked]),
    if_neg (by rw [heard.claim]; rintro (h | h); exacts [Nat.lt_asymm above h, Nat.ne_of_gt above h.1])]
  refine ⟨setRole_state _ _, ?_⟩
  rw [resync, setRole_dup]
  split <;> rfl

theorem takeWait_takes {k : Nat} (asked : s.dup.takeSent = some k) (due : k + 2000000 ≤ s.tim.mon) (idle : seqRuns s = false) :
    takeWait s = takeControl false (holdWrites s) := by
  unfold takeWait
  simp only [asked]
  rw [if_neg (by simpa [idle] using due)]

end Link

/-- Settles O32, one lemma above for each message. That a HEARTBEAT of an unkeyed peer shows its presence, with the link down, is the model's choice
(log entry 46). -/
theorem pairCommandsComplete : Obligations.PairCommandsComplete := by
  unfold Obligations.PairCommandsComplete
  refine ⟨?single, ?ask, ?beat, ?heard, ?back, ?loss, ?ack, ?resend, ?resign, ?take, ?wait⟩
  case single =>
    intro s on stage idle alone init holdup left
    refine does_leave rfl on ?_
    rw [startupTake_single stage idle alone init]
    exact takeSingle_takes holdup left idle init
  case ask =>
    intro s h on stage idle pair init holdup free peer led single quiet first
    refine does_leave rfl on ?_
    rw [startupTake_asks stage idle pair init holdup free peer led single quiet first]
    obtain ⟨q, l, dup⟩ := sendPeer_dup .take (dupSet (fun d => { d with takeSent := some s.tim.mon }) s)
    dsimp only [Leaves]
    rw [dup]
    exact ⟨rfl, init⟩
  case beat =>
    intro s on pair up runs cage due
    have due' : (match s.dup.hbAt with | some t => decide (t + 1000000 ≤ s.tim.mon) | none => true) = true := by
      cases at_ : s.dup.hbAt with
      | none => rfl
      | some k => exact decide_eq_true (due k at_)
    refine does_leave rfl on ?_
    rw [heartbeatTx, if_pos (by rw [pair]; exact due')]
    exact sendPeer_mem .heartbeat _ (.inl up) runs cage
  case heard =>
    intro s h on taken fits
    exact does_run rfl on (heartbeat_knows taken fits)
  case back =>
    intro s h on taken fits down own theirs
    obtain ⟨peer, -, up⟩ := heartbeat_knows taken fits
    exact does_run rfl on ⟨peer, up.trans (by simp [own, theirs]), heartbeat_ends taken fits down own theirs⟩
  case loss =>
    intro s on pair up late
    obtain ⟨⟨isolated, down, gone⟩, cond⟩ := linkLost_isolates pair up
    refine does_leave rfl on ?_
    rw [linkSilence, if_neg (Nat.not_lt.2 late)]
    exact ⟨isolated, down, gone, cond⟩
  case ack => exact fun s q on => does_run rfl on (peerAck_stops q s)
  case resend => exact fun s q u on waits early due up runs cage => does_run rfl on (peerResend_repeats waits early due up runs cage)
  case resign =>
    exact fun s h c on taken fits stands quiet own theirs prev now => does_run rfl on (resignMsg_takes taken fits stands quiet own theirs prev now)
  case take => exact fun s h on taken fits asked above => does_run rfl on (takeMsg_follows taken fits asked above)
  case wait =>
    intro s k on asked due idle holdup left
    refine does_leave rfl on ?_
    rw [takeWait_takes asked due idle]
    exact takeControl_takes false holdup left

end Sys2Proof.Machine
end

section
/-!
PROOFS. The operations of ring pair 56 on the pair (R413).
-/
set_option Elab.async false
namespace Sys2Proof.Machine

section Operations
variable {r : Req} {s : State}

theorem morOp_asked {a : Nat} {b : Bytes} {f : Req → State → State} (asked : Inline r 0x0F21 4 b s) (action : leAt b 0 4 = a)
    (known : 1 ≤ a ∧ a ≤ 3) : morOp a f r s = f r s := by
  rw [morOp, inlineOp_asked asked]
  dsimp only
  rw [action, if_neg (not_or.2 ⟨Nat.not_lt.2 known.1, Nat.not_lt.2 known.2⟩), if_pos rfl]

/-- A handover waits for the next round start, unless a model or an exchange comes within five rounds. -/
theorem dupHandover_waits {p : Nat} {h : PeerHdr} (low : p < 2) (pair : duplex s = true) (leads : s.dup.state = .control) (peer : s.dup.peer = some h)
    (stands : h.ready = true) (model : ∀ x, s.model.armed = some x → s.rnd.number + 5 < x)
    (exch : ∀ e, s.cyc.exch = some e → s.rnd.number + 5 < e.target) : dupHandover r p s = waitOp (.handover (p == 1)) r s := by
  unfold dupHandover
  rw [if_neg (Nat.not_le.2 low), if_neg (by simp [pair]), if_neg (by simp [leads])]
  simp only [peer]
  refine if_neg ?_
  cases armed : s.model.armed with
  | none =>
    cases target : s.cyc.exch with
    | none => simp [stands]
    | some e => simpa [stands] using exch e target
  | some x =>
    cases target : s.cyc.exch with
    | none => simpa [stands] using model x armed
    | some e => simpa [stands] using ⟨model x armed, exch e target⟩

theorem dupMorHand_waits (pair : duplex s = true) (peer : s.dup.peer.isSome = true) (mor : s.dup.mor = true) : dupMorHand r s = waitOp .morHand r s := by
  rw [dupMorHand, if_neg (by simp [pair]), if_neg (by simp [Option.isNone_iff_eq_none, Option.isSome_iff_ne_none.1 peer]), if_neg (by simp [mor])]

/-- An ISOLATED standby that is READY takes control. -/
theorem dupTakeover_takes (pair : duplex s = true) (isolated : s.dup.isolated = true) (stands : ready s = true) (left : claimLeft s = true) :
    dupTakeover r 0 s = complete r 0x00 0 4 [] (takeControl true s) := by
  obtain ⟨standby, holdup⟩ := ready_parts stands
  rw [dupTakeover, if_neg (by decide), if_neg (by simp [pair]), if_neg (by simp [standby, isolated, stands])]
  exact if_pos (takeControl_takes true holdup left).1

theorem dupResync_waits (pair : duplex s = true) (follows : inControl s = false) (free : ¬(s.dup.state = .resigned ∧ s.dup.held = true)) :
    dupResync r 0 s = waitOp .resync r (resync s) := by
  rw [dupResync, if_neg (by decide), if_neg (by simp [pair]), if_neg (by simp [follows]), if_neg (by simpa using free)]

/-- A module that begins to resynchronise is SYNCING and has no transfer behind it. -/
theorem resync_begins (s : State) : (resync s).dup.state = .syncing ∧ (resync s).dup.synced = false := by
  refine ⟨setRole_state _ _, ?_⟩
  rw [resync, setRole_dup]
  split <;> rfl

end Operations

/-- Settles O34, one lemma above for each operation. That DUP_RESYNC begins the transfer in a module RESIGNED for a cause that R399 does not let it leave,
and while a sequence runs, is the model's reading of R413, which names only the module held. -/
theorem duplexOperationsComplete : Obligations.DuplexOperationsComplete := by
  unfold Obligations.DuplexOperationsComplete
  refine ⟨?handover, ?hand, ?release, ?take, ?takeover, ?resync⟩
  case handover =>
    intro s r b p h on asked param low pair leads peer stands model exch
    refine does_leave rfl on ?_
    rw [inlineOp_asked asked, param]
    dsimp only [Leaves]
    rw [dupHandover_waits low pair leads peer stands model exch]
    exact ⟨rfl, leads⟩
  case hand =>
    intro s r b on asked action pair peer mor
    refine does_leave rfl on ?_
    rw [morOp_asked asked action (by decide)]
    dsimp only [Leaves]
    rw [dupMorHand_waits pair peer mor]
    rfl
  case release =>
    intro s r b on asked action
    refine does_leave rfl on ?_
    rw [morOp_asked asked action (by decide)]
    dsimp only [Leaves]
    rw [dupMorRelease, complete_dup, dupSet, setMor_dup]
    exact ⟨rfl, rfl, complete_mem _ _ _ _ _ _⟩
  case take =>
    intro s r b on asked action free
    have mor := takeMor_headless (dupSet (fun d => { d with morReleased := false }) s)
    refine does_leave rfl on ?_
    rw [morOp_asked asked action (by decide)]
    dsimp only [Leaves]
    rw [dupMorTake, if_neg (by rcases free with h | h <;> simp [h]), complete_dup]
    exact ⟨(congrArg DupSt.mor mor :), (congrArg DupSt.morReleased mor :), complete_mem _ _ _ _ _ _⟩
  case takeover =>
    intro s r b on asked zero pair isolated stands left
    obtain ⟨state, claim⟩ := takeControl_takes true (ready_parts stands).2 left
    refine does_leave rfl on ?_
    rw [inlineOp_asked asked, zero]
    dsimp only [Leaves]
    rw [dupTakeover_takes pair isolated stands left, complete_dup]
    exact ⟨state, claim, complete_mem _ _ _ _ _ _⟩
  case resync =>
    intro s r b on asked zero pair follows free
    obtain ⟨state, synced⟩ := resync_begins s
    refine does_leave rfl on ?_
    rw [inlineOp_asked asked, zero]
    dsimp only [Leaves]
    rw [dupResync_waits pair follows free]
    exact ⟨state, List.mem_append_right _ List.mem_cons_self, synced⟩

end Sys2Proof.Machine
end

section
/-!
PROOFS. Provisioning (R412, R491 to R493): the transfer of keys and the operator's bundle.
-/
set_option Elab.async false
namespace Sys2Proof.Machine

open Keeps

/-! ## What stays in the key store while the module becomes keyed -/

/-- The root secret, the nonce of the last HELLO, the fingerprint of the operator's key, and the states of the slots. -/
structure StoreView where
  root  : Option Nat
  nu    : Option Nat
  fpr   : Option Nat
  slots : Nat → Nat

/-- The key store shows these. -/
def Stores (v : StoreView) (s : State) : Prop :=
  s.kst.root = v.root ∧ s.kst.nu = v.nu ∧ s.kst.fpr = v.fpr ∧ ∀ n, n < 64 → slotState n s = v.slots n

/-- The view of a key store. -/
def storeView (s : State) : StoreView := ⟨s.kst.root, s.kst.nu, s.kst.fpr, fun n => slotState n s⟩

theorem stores_view (s : State) : Stores (storeView s) s := ⟨rfl, rfl, rfl, fun _ _ => rfl⟩

theorem stores_regs {s t : State} (regs : ∀ n, n < 64 → getReg (0x48100 + 4 * n) t = getReg (0x48100 + 4 * n) s)
    (root : t.kst.root = s.kst.root := by rfl) (nu : t.kst.nu = s.kst.nu := by rfl) (fpr : t.kst.fpr = s.kst.fpr := by rfl) : Keeps Stores s t := by
  rintro v ⟨root', nu', fpr', slots⟩
  exact ⟨root.trans root', nu.trans nu', fpr.trans fpr', fun n low => (slotState_reg (regs n low)).trans (slots n low)⟩

theorem stores_within {ps : List Part} {rs : List Nat} {s t : State} (w : Within ps (some rs) s t) (far : ∀ a ∈ rs, a < 0x48100 ∨ 0x48200 ≤ a)
    (hp : .kst ∉ ps := by decide) : Keeps Stores s t := by
  have kst : t.kst = s.kst := w.parts .kst hp
  exact stores_regs (fun n low => w.regs _ rfl _ (slotAttr_free far low)) (by rw [kst]) (by rw [kst]) (by rw [kst])

theorem stores_knaTx (p : Nat) (s : State) : Keeps Stores s (knaTx p s) := by
  have eth (x : EthSt) (t : State) : Keeps Stores t (putEth p x t) := stores_regs (fun _ _ => rfl)
  unfold knaTx
  split
  · exact refl
  · refine ite refl ((stores_within (pmcAdd_within _ _ _) (by decide)).after ((stores_within (emit_within _ _) (by decide)).after ?_))
    exact eth _ _

theorem stores_startAssoc (p : Nat) (low : p < 4) (s : State) : Keeps Stores s (startAssoc p s) := by
  have bit (t : State) : Keeps Stores t (setB (ethStat p) 2 true t) := stores_within (setB_within _ _ _ t) (by simp [ethStat]; omega)
  have kst (k : KstSt) (t : State) (root : k.root = t.kst.root) (nu : k.nu = t.kst.nu) (fpr : k.fpr = t.kst.fpr) :
      Keeps Stores t { t with kst := k } := stores_regs (fun _ _ => rfl) root nu fpr
  have eth (x : EthSt) (t : State) : Keeps Stores t (putEth p x t) := stores_regs (fun _ _ => rfl)
  unfold startAssoc
  refine ite refl ((stores_knaTx p _).after ((bit _).after ((eth _ _).after ?_)))
  exact (kst _ _ rfl rfl rfl).after (kst _ _ rfl rfl rfl)

/-- What a module that has become keyed does leaves its slots. -/
theorem stores_keyedNow (was : Bool) (s : State) : Keeps Stores s (keyedNow was s) := by
  have role (t : State) : Keeps Stores t (unresign 6 t) := opt refl (stores_within (setRole_within _ t) (by decide))
  unfold keyedNow
  refine ite refl ((role _).after (opt ?_ (stores_within (takeMor_within _) (by decide))))
  refine (stores_within (signHeld_within _) (by decide)).after (foldl (fun t p port => opt refl ?_) s)
  exact stores_startAssoc p (by simp at port; omega) t

/-! ## The slots that a bundle stores (R491) -/

section Install
variable {l : List (Nat × Word × Nat)} {s : State}

/-- The slots of a transferred bundle become READY whatever attributes they come with. -/
theorem readyAttr_ready {n : Nat} (low : 2 ≤ n) (high : n ≤ 7) (given : Word) : fld (readyAttr n given) 31 30 = 1 := by
  have small : ∀ n < 8, 2 ≤ n → n = 2 ∨ n = 3 ∨ n = 4 ∨ n = 5 ∨ n = 6 ∨ n = 7 := by decide
  unfold readyAttr
  dsimp only
  split
  · decide
  · next not2 =>
    split
    · decide
    · next not3 =>
      split
      · decide
      · next not4 =>
        rw [if_pos ((((small n (Nat.lt_succ_of_le high) low).resolve_left not2).resolve_left not3).resolve_left not4)]
        decide

theorem slotState_storeSlot_same {e : Nat × Word × Nat} (fills : fillable false e.1 = true) (s : State) : slotState e.1 (storeSlot s e) = 1 := by
  rw [slotState, getF, storeSlot, getReg_emit, getReg_setReg_same,
    fld_putFld_other _ _ _ _ _ _ (by decide) (by decide) (by decide) (by decide)]
  obtain ⟨low, high⟩ : 2 ≤ e.1 ∧ e.1 ≤ 7 := by simpa [fillable] using fills
  exact readyAttr_ready low high e.2.1

theorem slotState_storeSlot_other {n : Nat} {e : Nat × Word × Nat} (other : n ≠ e.1) (s : State) : slotState n (storeSlot s e) = slotState n s :=
  slotState_reg ((storeSlot_within s e).regs _ rfl _ (by simp; omega))

/-- A slot that is READY, or that the bundle still brings, is READY once the bundle is stored. -/
theorem storeSlots_ready (l : List (Nat × Word × Nat)) (fills : ∀ e ∈ l, fillable false e.1 = true) {n : Nat} (s : State)
    (comes : slotState n s = 1 ∨ ∃ e ∈ l, e.1 = n) : slotState n (l.foldl storeSlot s) = 1 := by
  induction l generalizing s with
  | nil => simpa using comes
  | cons e l ih =>
    refine ih (fun x held => fills x (List.mem_cons_of_mem e held)) _ ?_
    by_cases own : n = e.1
    · rw [own]
      exact .inl (slotState_storeSlot_same (fills e List.mem_cons_self) s)
    · rw [slotState_storeSlot_other own]
      refine comes.imp id ?_
      rintro ⟨x, held, rfl⟩
      rcases List.mem_cons.1 held with same | rest
      · exact absurd (congrArg Prod.fst same) own
      · exact ⟨x, rest, rfl⟩

theorem installKeys_ready {e : Nat × Word × Nat} (brought : e ∈ l) (fills : fillable false e.1 = true) : slotState e.1 (installKeys false l s) = 1 := by
  have low : e.1 < 64 := by
    obtain ⟨-, high⟩ : 2 ≤ e.1 ∧ e.1 ≤ 7 := by simpa [fillable] using fills
    exact Nat.lt_of_le_of_lt high (by decide)
  unfold installKeys
  dsimp only
  rw [slotState_reg (afterSlots_steady _ _ (steady_slotAttr low))]
  refine storeSlots_ready _ (fun x held => (List.mem_filter.1 held).2) _ (.inr ⟨e, ?_, rfl⟩)
  exact List.mem_filter.2 ⟨brought, fills⟩

/-- The module has a root secret, and these stand beside it. -/
def Rooted (v : Option Nat × Option Nat) (s : State) : Prop := s.kst.root.isSome = true ∧ s.kst.nu = v.1 ∧ s.kst.fpr = v.2

theorem rooted_within {ps : List Part} {rs : Option (List Nat)} {s t : State} (w : Within ps rs s t) (hp : .kst ∉ ps := by decide) :
    Keeps Rooted s t := by
  have kst : t.kst = s.kst := w.parts .kst hp
  intro v h
  rwa [Rooted, kst]

theorem rooted_storeSlot (s : State) (e : Nat × Word × Nat) : Keeps Rooted s (storeSlot s e) := by
  have kst (m : Tbl Nat) (c : Tbl Nat) (t : State) : Keeps Rooted t { t with kst := { t.kst with material := m, wraps := c } } := fun _ h => h
  exact (rooted_within (emit_within _ _)).after ((rooted_within (setReg_within _ _ _)).after (kst _ _ s))

theorem rooted_deriveWorking (s : State) : Keeps Rooted s (deriveWorking s) := by
  have kst (m : Tbl Nat) (t : State) : Keeps Rooted t { t with kst := { t.kst with material := m, rederived := [] } } := fun _ h => h
  unfold deriveWorking
  split
  · exact refl
  · exact (rooted_within (setReg_within _ _ _)).after ((rooted_within (setReg_within _ _ _)).after (kst _ _))

theorem installKeys_rooted (user : Bool) (l : List (Nat × Word × Nat)) (s : State) : Rooted (s.kst.nu, s.kst.fpr) (installKeys user l s) := by
  unfold installKeys
  dsimp only
  refine rooted_within (afterSlots_within _ _) (by decide) _ (foldl (fun t e _ => rooted_storeSlot t e) _ _ (rooted_deriveWorking _ _ ?_))
  split
  · next root => exact ⟨root, rfl, rfl⟩
  · refine foldl (fun t n _ => rooted_within (setF_within _ _ _ _ t)) _ _ ?_
    exact ⟨rfl, rfl, rfl⟩

end Install

/-- What an installed bundle leaves in the key store, once the module has done what becoming keyed asks of it. -/
theorem installKeys_stores {user : Bool} {l : List (Nat × Word × Nat)} {s t : State} (kept : Keeps Stores (installKeys user l s) t) :
    t.kst.root.isSome = true ∧ t.kst.nu = s.kst.nu ∧ t.kst.fpr = s.kst.fpr ∧ ∀ n, n < 64 → slotState n t = slotState n (installKeys user l s) := by
  obtain ⟨root, nu, fpr⟩ := installKeys_rooted user l s
  obtain ⟨root', nu', fpr', slots⟩ := kept _ (stores_view _)
  exact ⟨by rw [root']; exact root, nu'.trans nu, fpr'.trans fpr, slots⟩

/-! ## The transfer (R412, R491) and the operator's bundle (R492) -/

section Transfer
variable {r : Req} {s : State}

/-- A bundle that passes every check is installed (R491). -/
theorem provisionKeys_installs {b : KeyBundle} (unkeyed : keyed s = false) (asked : s.kst.nu.isSome = true) (cert : b.certOk = true)
    (sig : b.sigOk = true) (slot : getF 0x0E004 7 4 s = 15 ∨ b.senderSlot = getF 0x0E004 7 4 s) :
    provisionKeys b s = keyedNow false (sendPeer (.provDone true) (installKeys false b.slots { s with kst := { s.kst with nu := none } })) := by
  unfold provisionKeys
  rw [if_neg (by simp [unkeyed, Option.isNone_iff_eq_none, Option.isSome_iff_ne_none.1 asked])]
  dsimp only
  rw [if_neg (by simp [cert]), if_neg (by simp [sig]), if_neg (by rintro ⟨any, other⟩; exact slot.elim any other)]

theorem endOps_mem {p : DupOp → Bool} {o : DupOp × Req} (pending : o ∈ s.dup.ops) (kind : p o.1 = true) (st dt : Nat) :
    .opDone o.2 st dt (if st = 0 then 4 else 0) [] ∈ (endOps p st dt s).out := by
  have ended (l : List (DupOp × Req)) (t : State) (comes : o ∈ l ∨ .opDone o.2 st dt (if st = 0 then 4 else 0) [] ∈ t.out) :
      .opDone o.2 st dt (if st = 0 then 4 else 0) [] ∈ (l.foldl (fun s o => complete o.2 st dt (if st = 0 then 4 else 0) [] s) t).out := by
    induction l generalizing t with
    | nil => exact comes.resolve_left List.not_mem_nil
    | cons x l ih =>
      refine ih _ ?_
      rcases comes with held | done
      · rcases List.mem_cons.1 held with same | rest
        · rw [same]
          exact .inr (complete_mem _ _ _ _ _ _)
        · exact .inl rest
      · exact .inr ((complete_within _ _ _ _ _ _).mem done)
  exact ended _ _ (.inl (List.mem_filter.2 ⟨pending, kind⟩))

/-- The end of a transfer ends the operation that asked for it. -/
theorem provisionDone_ends (ok : Bool) (runs : s.kst.prov.isSome = true) (own : keyed s = true) : (provisionDone ok s).kst.prov = none ∧
    ∀ r, (.provision, r) ∈ s.dup.ops → .opDone r (if ok then 0 else 0x9B) 0 (if ok then 4 else 0) [] ∈ (provisionDone ok s).out := by
  have failed : (provFail 4 s).dup = s.dup ∧ (provFail 4 s).kst.prov = none := by
    unfold provFail
    exact ⟨by rw [evt_dup], by rw [evt_kst]⟩
  unfold provisionDone
  rw [if_neg (by simp [own, Option.isNone_iff_eq_none, Option.isSome_iff_ne_none.1 runs])]
  dsimp only
  rw [(endOps_within _ _ _ _).parts .kst (by decide)]
  cases ok with
  | false => exact ⟨failed.2, fun r held => endOps_mem (o := (.provision, r)) (by rw [if_neg Bool.false_ne_true, failed.1]; exact held) rfl 0x9B 0⟩
  | true => exact ⟨rfl, fun r held => endOps_mem (o := (.provision, r)) (by rw [if_pos rfl]; exact held) rfl 0 0⟩

/-- The keyed module sends its keys to the peer of its slot. -/
theorem startTransfer_sends {h : PeerHdr} (slot : getF 0x0E004 7 4 s = 15 ∨ h.slot = getF 0x0E004 7 4 s) :
    (startTransfer true h s).dup.ops = s.dup.ops ∧ (startTransfer true h s).kst.prov.isSome = true := by
  unfold startTransfer
  dsimp only
  rw [if_neg (by rcases slot with any | same <;> simp [*])]
  have sent (b : PeerBody) (t : State) : (sendPeer b t).dup.ops = t.dup.ops := (congrArg DupSt.ops (sendPeer_headless b t) :)
  rw [sent, (sendPeer_within _ _).parts .kst (by decide)]
  exact ⟨rfl, rfl⟩

theorem dupProvision_starts {h : PeerHdr} (pair : duplex s = true) (peer : s.dup.peer = some h) (theirs : h.keyed = false) (own : keyed s = true) :
    dupProvision r 0 true s = startTransfer true h (waitOp .provision r s) := by
  unfold dupProvision
  rw [if_neg (by decide), if_neg (by simp [pair])]
  simp only [peer]
  rw [if_neg (by simp [theirs]), if_neg (by simp [own])]

theorem autoProvision_starts {h : PeerHdr} (pair : duplex s = true) (peer : s.dup.peer = some h) (theirs : h.keyed = false) (own : keyed s = true)
    (auto : getB 0x0E004 2 s = true) (due : s.dup.peerSince + 10000000000 ≤ s.tim.mon) (idle : s.kst.prov = none) :
    autoProvision true s = startTransfer true h s := by
  unfold autoProvision
  simp only [peer]
  exact if_pos (by simp [auto, own, theirs, pair, due, idle])

/-- A bundle under the stored fingerprint, or the first one, is installed, and its fingerprint stored (R492). -/
theorem keyProvision_installs {b : KeyBundle} {len : Nat} (sig : b.sigOk = true) (known : s.kst.fpr = none ∨ s.kst.fpr = some b.fingerprint) :
    keyProvision r b len s =
      keyDone r len [] (keyedNow (keyed s) (installKeys true b.slots { s with kst := { s.kst with fpr := some b.fingerprint } })) := by
  unfold keyProvision
  refine if_neg ?_
  rcases known with first | same
  · simp [sig, first]
  · simp [sig, same]

end Transfer

/-- Settles O35, one lemma above for each command. That a failed transfer ends DUP_PROVISION with SIG_INVALID (log entry 42), and that a HEARTBEAT shows
the presence of an unkeyed peer (log entry 46), are the model's choices. -/
theorem provisionCommandsComplete : Obligations.ProvisionCommandsComplete := by
  unfold Obligations.ProvisionCommandsComplete
  refine ⟨?keys, ?done, ?operation, ?auto, ?bundle⟩
  case keys =>
    intro s b on unkeyed asked cert sig slot
    refine does_leave rfl on ?_
    rw [provisionKeys_installs unkeyed asked cert sig slot]
    obtain ⟨root, nu, -, slots⟩ := installKeys_stores
      ((stores_keyedNow false _).after (stores_within (sendPeer_within (.provDone true) (installKeys false b.slots _)) (by decide)))
    refine ⟨nu, root, fun e brought fills => ?_⟩
    obtain ⟨-, high⟩ : 2 ≤ e.1 ∧ e.1 ≤ 7 := by simpa [fillable] using fills
    rw [slots e.1 (Nat.lt_of_le_of_lt high (by decide))]
    exact installKeys_ready brought fills
  case done => exact fun s b on runs own => does_run rfl on (provisionDone_ends b runs own)
  case operation =>
    intro s r b h on asked zero pair peer theirs own slot
    obtain ⟨ops, runs⟩ := startTransfer_sends (s := waitOp .provision r s) slot
    refine does_run rfl on ?_
    rw [inlineOp_asked asked, zero, dupProvision_starts pair peer theirs own, ops]
    exact ⟨List.mem_append_right _ List.mem_cons_self, runs⟩
  case auto =>
    intro s h on pair peer theirs own slot auto due idle
    refine does_run rfl on ?_
    rw [autoProvision_starts pair peer theirs own auto due idle]
    exact (startTransfer_sends slot).2
  case bundle =>
    intro s r c b on held readable sig known
    obtain ⟨u, counted, ran⟩ := withOp_buffer (buf := some []) held readable (fun d _ => keyProvision r b d.length)
    have fpr : u.kst.fpr = s.kst.fpr := congrArg KstSt.fpr (counted.parts .kst (by decide))
    refine does_leave rfl on ?_
    rw [ran, keyProvision_installs sig (by rw [fpr]; exact known)]
    obtain ⟨root, -, fpr, -⟩ := installKeys_stores (stores_keyedNow (keyed u) (installKeys true b.slots _))
    dsimp only [Leaves]
    rw [(keyDone_within _ _ _ _).parts .kst (by decide)]
    exact ⟨fpr, root, keyDone_ends _ _ _ _⟩

end Sys2Proof.Machine
end
